-- ==== Sys2Proof/Word.lean ====
section
/-! DEFINITION. The word types of the KD7 manual and the shape of sparse indexed state. -/

namespace Sys2Proof

/-- A byte is 8 bits (00_scope, *Numbers, units and bytes*). -/
abbrev Byte := BitVec 8

abbrev W16 := BitVec 16

abbrev W32 := BitVec 32

abbrev W64 := BitVec 64

/-- Indexed state in one canonical form: keys strictly rising, and no entry equal to the value an
unlisted key reads as. -/
abbrev Table (α : Type) := List (Nat × α)

/-- A byte-addressed memory; an unlisted address reads as zero. -/
abbrev Mem := Table Byte

end Sys2Proof
end

