-- ==== Sys2Proof/Syntax.lean ====
section
/-! DEFINITION. The commands of the KD7: one constructor per row of the operation table, with what the row is
given from outside (a register value, a measurement, the outcome of a check that the hardware makes). -/

namespace Sys2Proof

/-- Direction of a lane: the transmit or the receive position (R235). -/
inductive Dir where
  | tx | rx
  deriving DecidableEq, Repr

/-- Direction round the die-to-die ring: from region l to l+1, or back (`D2D_STATUS_l`). -/
inductive Turn where
  | cw | ccw
  deriving DecidableEq, Repr

/-- One ring position: port, direction and position w (R235). -/
structure Pos where
  port : Fin 16
  dir : Dir
  w : Fin 34
  deriving DecidableEq, Repr

/-- MCTP transports, and on I3C the address that the message is sent to (R509). -/
inductive Transport where
  | pcieVdm
  | i3c (addr : BitVec 7)
  deriving DecidableEq, Repr

/-- The side of a mesh stop on which a link lies: y grows to the south, x to the east (R22). -/
inductive MeshSide where
  | north | east | south | west
  deriving DecidableEq, Repr

/-- What an HBM line's code reports on a read (R198, R199); the row of an uncorrectable line is a row address of
a bank, in the pseudo-channel that the line's offset selects (R196, R216). -/
inductive Ecc where
  | clean
  | corrected
  | uncorrectable (row : Nat)
  deriving DecidableEq, Repr

/-- What a memory's code reports to one of the reads that a step makes: to a read of the HBM line at a virtual address in the form of R197
(R198, R199), of a scratchpad word of a logical block (R177), or of a line of the remote read cache (R228). -/
inductive ReadErr where
  | hbm (address : BitVec 40) (e : Ecc)
  | scratch (b : Fin 256) (off : Nat) (double : Bool)
  | cache (line : W64) (double : Bool)
  deriving DecidableEq, Repr

/-- A hardware error that the step meets. `seqParity` is instruction-buffer parity, with the outcome of the
refetch (R190); `spSingle` and `spDouble` are scratchpad errors met at a byte offset (R177); the last three are the
array's own checks at a physical column, `bothParity` both of them in one BCLK (R154, R543), and `reads` what a DMA meets in the
memories it reads. -/
inductive HwErr where
  | none
  | seqParity (lineLost : Bool)
  | spSingle (off : Nat)
  | spDouble (off : Nat)
  | operandParity (part : Fin 4) (col : Fin 132)
  | accParity (part : Fin 4) (col : Fin 132)
  | bothParity (part : Fin 4) (operandCol accCol : Fin 132)
  | reads (errs : List ReadErr)
  deriving DecidableEq, Repr

/-- The moment in the life of a part of an array instruction to which PART_POST takes it: `n` granules more of its feed, the first write of its
drain, or its post (R148, R149, R155). -/
inductive PartMoment where
  | fed (n : Nat)
  | drains
  | posts
  deriving DecidableEq, Repr

/-- The moment in the life of a vector instruction or a local DMA to which VECTOR_POST or DMA_POST takes it: `n` groups of 32 elements, or `n`
lines of 64 bytes, more; or its post, with all that is left before it (R168, R169). -/
inductive EngineMoment where
  | moves (n : Nat)
  | posts
  deriving DecidableEq, Repr

/-- The measurement of R415: input in mV and mA, and every rail's current in mA; `vcoreMa` holds one entry per
region. -/
structure Rails where
  inputMv : Nat
  inputMa : Nat
  vcoreMa : List Nat
  vsramMa : Nat
  vhbmMa : Nat
  voptMa : Nat
  vaonMa : Nat
  deriving DecidableEq, Repr

/-- A diode sensor's reading in tenths of a degree (R440, R441). -/
structure SensorVal where
  sensor : Fin 81
  deciC : Int
  deriving DecidableEq, Repr

/-- The result of one update of the thermal model (R440): the new estimates in tenths of a degree, the time in µs
until the model predicts that a location reaches its shutdown level (R445), each ring's predicted temperature
change in mK 100 µs ahead (R250), and the activity counters it has taken in: 4·b + 0 array, + 1 vector unit, + 2 scalar core,
+ 3 DMA engine of physical block b. -/
structure ThermEst where
  nodes : List (Fin 1204 × Int)
  shutdownIn : Option Nat
  rings : List (Fin 1088 × Int)
  activity : List (Fin 1088 × Nat)
  deriving DecidableEq, Repr

/-- Edges counted in one monitor window of 1 µs (R35), one entry per region for BCLK and NCLK; `aonStopped` is the
loss of the on-module oscillator. The reference counts are in edges per window times 100. -/
structure ClockMeas where
  bclk : List Nat
  nclk : List Nat
  fabRef : Nat
  pcieRef : Nat
  aonStopped : Bool
  deriving DecidableEq, Repr

/-- One comb line at an engine's input tap (R241): tenths of a dBm, and whether its tag is present. -/
structure LineMeas where
  line : Fin 34
  deciDbm : Int
  tag : Bool
  deriving DecidableEq, Repr

/-- One tag of the plumb check (R254): depth in hundredths of a per cent, level in tenths of a dB. -/
structure TagMeas where
  line : Fin 34
  depth : Nat
  level : Int
  deriving DecidableEq, Repr

/-- What a lane's training yields (R256): the peer's device and port, the line that carries the lane, and the logical lane that BONDED mode
names with it. -/
structure Training where
  completed : Bool
  device : BitVec 13
  port : Fin 16
  line : Fin 34
  lane : Fin 34
  deriving DecidableEq, Repr

/-- One entry of a crosstalk matrix K (R247, R536): ring i, the place j - i + 4 in its band, and the coded value. -/
structure KEntry where
  ring : Fin 68
  band : Fin 9
  value : W16
  deriving DecidableEq, Repr

/-- Firmware's calibration of one ring (R249, R250, R267, R536): feed-forward coefficient, heater drive at which its search begins, lock-loop gain,
and bias threshold in tenths of a dB. -/
structure CalEntry where
  ring : Fin 68
  rxBank : Bool
  ffCoef : W16
  searchStart : W16
  loopGain : W16
  biasThr : Nat
  deriving DecidableEq, Repr

/-- What a test found in one region (R470): a row by a physical line of the region in it, and its row address. -/
structure TestFind where
  region : Fin 4
  failedUnits : Nat
  errors : Nat
  blocks : List (Fin 68)
  columns : List (Fin 68 × Fin 132)
  rows : List (BitVec 31 × Nat)
  channels : List (Fin 64)
  lanes : List (Fin 4 × Turn × Fin 272)
  positions : List Pos
  deriving DecidableEq, Repr

/-- The parts of one leg that lie in a traverse beside its header and leg table. Their own formats are those of the
manual; the directories that place them in HBM have no layout there, so the command carries them (log 11). -/
structure LegParts where
  plan : List Byte
  windows : List Byte
  collectives : List Byte
  allocs : List (Fin 256 × List W32)
  tasks : List (List (W32 × W32))
  deriving DecidableEq, Repr

structure TraverseParts where
  legs : List LegParts
  streams : List (Fin 256 × List (BitVec 256))
  deriving DecidableEq, Repr

/-- The commands. A row whose docstring names no operand acts on what the state holds: the entry at the front of
the ring in turn, the message at the head of an intake, the timer or sequence that the step belongs to. -/
inductive Instr where
  /-- INPUT_RISE (R519): The busbar input rises through 49.0 V and the module runs the power-up sequence, ending with the release of PWRGD. -/
  | inputRise (mv : Nat) (railsGood : Bool)
  /-- POWER_UP_RETRY (R519): A rail missed its tolerance during power-up, so after 1 s the module removes every rail and retries, at most three times. -/
  | powerUpRetry (railsGood : Bool)
  /-- INPUT_LOW (R514): The input falls below 50.0 V but stays at or above 47.0 V, and the front end holds the regulator-alert limit in force. -/
  | inputLow (mv : Nat)
  /-- INPUT_LOW_RECOVER (R514): The input has stayed above 50.5 V for 1 ms, so the front end releases its alert limit. -/
  | inputLowRecover (mv : Nat)
  /-- INPUT_UNDERVOLTAGE (R514): The input stays below 47.0 V for 100 µs, which starts a power-down. -/
  | inputUndervoltage (mv : Nat)
  /-- INPUT_OVERVOLTAGE (R514): The input stays above 66.0 V for 10 µs, which starts a power-down. -/
  | inputOvervoltage (mv : Nat)
  /-- PWRGD_HOLD_LOW (R521): The system holds PWRGD low for at least 1 ms, which starts a power-down. -/
  | pwrgdHoldLow
  /-- PERST_L_ASSERT (R412): PERST_L is asserted; the package resets and every outstanding command ends without a completion entry. -/
  | perstLAssert
  /-- PERST_L_DEASSERT (R497): PERST_L is released with PWRGD asserted, and the boot sequence starts in BOOT. -/
  | perstLDeassert
  /-- FUNCTION_LEVEL_RESET (R412): A function-level reset or hot reset resets the device, except the PCIe link, and the boot sequence restarts. -/
  | functionLevelReset
  /-- PACKAGE_RESET (R412): A write of 1 to RESET_CTRL.PACKAGE starts a package reset, and the PCIe link retrains. -/
  | packageReset (value : W32)
  /-- VRALERT_L_ASSERT (R434): VRALERT_L is asserted; within 500 ns every region moves to the safe clock with stride 16, and rung 20 holds. -/
  | vralertLAssert
  /-- VRALERT_HOLD_EXPIRE (R434): 1 ms has passed since VRALERT_L was released, so the alert limit ends. -/
  | vralertHoldExpire
  /-- LIMIT_RUNG_RETURN (R434): Every 100 µs after a limit lifts, each region moves one rung back towards the rung its other limits allow. -/
  | limitRungReturn
  /-- DROOP_DETECT (R436): A droop detector sees VCORE more than 5 % low, and BCLK stretches until every detector recovers. -/
  | droopDetect (r : Fin 4) (detector : Fin 16) (overOnePercent : Bool)
  /-- DROOP_RUNG_EXPIRE (R436): The 1 ms rung penalty set by excessive stretching ends. -/
  | droopRungExpire (r : Fin 4)
  /-- RAIL_SAMPLE (R415): Every 10 µs the device measures input voltage and current and every rail current. -/
  | railSample (m : Rails)
  /-- THERMAL_MODEL_UPDATE (R440): Every 10 µs the RC thermal model updates its node estimates and predictions. -/
  | thermalModelUpdate (est : ThermEst)
  /-- SENSOR_READ (R441): Every 1 ms the device reads each diode sensor and corrects the model offset at that sensor's node. -/
  | sensorRead (readings : List SensorVal)
  /-- MODEL_FAULT_CLEAR (R441): Every sensor has agreed with the model within 4 °C for 100 ms, so the model fault clears. -/
  | modelFaultClear
  /-- CURRENT_LIMIT_STEP (R444): A region's VCORE current limit falls 5 % per 100 µs while it is throttled, or rises 5 % per 1 ms afterwards, and the rung follows. -/
  | currentLimitStep (r : Fin 4)
  /-- THERMAL_COMPARATOR_TRIP (R447): A hardware sensor comparator trips 5 °C above shutdown, causing an immediate stop, or OFF for region 0's base die. -/
  | thermalComparatorTrip (sensor : Fin 81)
  /-- GOVERNOR_TICK (R424): Every 100 µs the governor compares the average input with the effective ration and moves the ration rung. -/
  | governorTick
  /-- RATION_DEADLINE (R422): 2 ms have passed since a pending ration arrived, so it comes into force. -/
  | rationDeadline
  /-- FLOOR_EPISODE_START (R427): At rung 20 the input has exceeded the ration for 1 ms, so a floor episode begins and the grace timer starts. -/
  | floorEpisodeStart
  /-- FLOOR_EPISODE_END (R427): The input has stayed at or below the ration for 10 ms, so the episode and grace timer end and a pending park is cancelled. -/
  | floorEpisodeEnd
  /-- GRACE_EXPIRE (R428): The grace timer expires, so the device parks at once, or at step 8 of the next station when in RUN or BACKSIGHT. -/
  | graceExpire
  /-- POINT_CHANGE_COMPLETE (R420): A region finishes its PLL retune and VCORE change and leaves the safe clock at the new operating point. -/
  | pointChangeComplete (r : Fin 4)
  /-- BLOCK_WAKE_GRANT (R437): The ramp limiter grants a waiting block wake request, at most 4 per region in each 100 ns. -/
  | blockWakeGrant (r : Fin 4)
  /-- SET_RATION (R425): An MCTP SET_RATION message sets the MCTP ration value, which then becomes pending. -/
  | setRation (t : Transport) (cmd rsv : Byte) (mw : W32)
  /-- GET_POWER (R425): An MCTP GET_POWER message returns the ration in force, input power, energy, ration rung and device state. -/
  | getPower (t : Transport) (cmd rsv : Byte) (arg : W32)
  /-- SET_ENDPOINT_ID (R509): The bus owner of a transport assigns the device its MCTP endpoint ID. -/
  | setEndpointId (t : Transport) (eid : Byte)
  /-- ENTDAA (R509): The I3C controller assigns the device's target a dynamic address. -/
  | entdaa (addr : BitVec 7)
  /-- GET_VENDOR_DEFINED_MESSAGE_SUPPORT (R425): The device reports Iastad's enterprise number for its vendor-defined ration messages. -/
  | getVendorDefinedMessageSupport (t : Transport)
  /-- GET_VERSION (R510): An SPDM GET_VERSION request is answered with versions 1.2 and 1.3. -/
  | getVersion (t : Transport)
  /-- GET_CAPABILITIES (R510): An SPDM GET_CAPABILITIES request is answered with the certificate, challenge and measurement capabilities. -/
  | getCapabilities (t : Transport)
  /-- NEGOTIATE_ALGORITHMS (R510): An SPDM NEGOTIATE_ALGORITHMS request is answered with ECDSA P-256 and SHA-256. -/
  | negotiateAlgorithms (t : Transport)
  /-- GET_DIGESTS (R510): An SPDM GET_DIGESTS request is answered for certificate slot 0. -/
  | getDigests (t : Transport)
  /-- GET_CERTIFICATE (R510): An SPDM GET_CERTIFICATE request returns the slot 0 certificate chain. -/
  | getCertificate (t : Transport) (slot : Byte) (offset length : W16)
  /-- SPDM_CHALLENGE (R510): An SPDM CHALLENGE request is answered with a CHALLENGE_AUTH signed by the identity key. -/
  | spdmChallenge (t : Transport) (slot : Byte) (nonce : BitVec 256) (ready : Bool)
  /-- GET_MEASUREMENTS (R507): An SPDM GET_MEASUREMENTS request returns measurements 1–5, signed on request. -/
  | getMeasurements (t : Transport) (index : Byte) (signed : Bool) (nonce : BitVec 256) (ready : Bool)
  /-- RESPOND_IF_READY (R510): An SPDM RESPOND_IF_READY request is answered after an earlier ResponseNotReady. -/
  | respondIfReady (t : Transport) (code token : Byte)
  /-- SPDM_UNSUPPORTED_REQUEST (R510): Any other SPDM request is answered with ERROR UnsupportedRequest. -/
  | spdmUnsupportedRequest (t : Transport) (code : Byte)
  /-- COMB_IBI (R239): The comb source raises an in-band interrupt for an out-of-range line or a FAULT. -/
  | combIbi (ident : W16) (status : Byte)
  /-- CLOCK_MONITOR_WINDOW (R35): At the end of each 1 µs monitor window the device judges each monitored clock and acts on any that is lost. -/
  | clockMonitorWindow (m : ClockMeas)
  /-- GO (R498): A write of BOOT_CTRL with GO = 1 starts loading the Bixus image from host memory, or is refused with BUSY or THERMAL_HOLD. -/
  | go (value : W32)
  /-- IMAGE_COPY_COMPLETE (R499): The image copy into management SRAM ends, and the ROM verifies the image. -/
  | imageCopyComplete (pcieError : Bool)
  /-- BRINGUP_COMPLETE (R506): Bixus finishes HBM training, the memory check, the page tables and engine start, and the device enters READY. -/
  | bringupComplete (untrained : List (Fin 256))
  /-- THERMAL_HOLD_CLEAR (R448): Every sensor reads below its warning level, so the ROM leaves THERMAL_HOLD for WAITING. -/
  | thermalHoldClear (readings : List SensorVal)
  /-- SVN_COMMIT (R503): A write to SVN_COMMIT in READY blows SVN fuses up to the running image's SVN, or is refused. -/
  | svnCommit (value : W32)
  /-- KEY_REVOKE (R504): A write of 1 to bit k of KEY_REVOKE blows slot k's revocation fuse, unless the write is refused. -/
  | keyRevoke (value : W32)
  /-- CMD_PI (R393): A doorbell write of a command ring's producer index makes the covered entries the device's, or stops the ring when it is out of range. -/
  | cmdPi (ring : Fin 64) (value : W32)
  /-- CPL_CI (R392): A doorbell write of a completion ring's consumer index frees entries for the device to write. -/
  | cplCi (ring : Fin 64) (value : W32)
  /-- EVT_CI (R409): A doorbell write of the event ring's consumer index frees entries, and held events are written in order. -/
  | evtCi (value : W32)
  /-- CMD_RING_ENABLE (R390): Setting ENABLE of a command ring resets CI and SEQ to 0, or sets ERROR when LOG2 is out of range. -/
  | cmdRingEnable (ring : Fin 64) (value : W32)
  /-- CMD_RING_DISABLE (R391): Clearing ENABLE of a command ring stops the device taking commands from it. -/
  | cmdRingDisable (ring : Fin 64) (value : W32)
  /-- CPL_RING_ENABLE (R390): Setting ENABLE of a completion ring resets PI and SEQ to 0. -/
  | cplRingEnable (ring : Fin 64) (value : W32)
  /-- CPL_RING_DISABLE (R391): Clearing ENABLE of a completion ring; completions of active bound command rings are lost with RING_ERROR. -/
  | cplRingDisable (ring : Fin 64) (value : W32)
  /-- EVT_RING_ENABLE (R390): Setting ENABLE of the event ring resets PI and SEQ to 0. -/
  | evtRingEnable (value : W32)
  /-- FM_BUF_ENABLE (R410): A write to FM_BUF_CFG enables or disables the FM message buffer with its slot count. -/
  | fmBufEnable (value : W32)
  /-- REGISTER_WRITE (R9): A write to a register without behaviour of its own acts by its access code, and reserved bits are ignored. -/
  | registerWrite (off : BitVec 24) (size : Nat) (value : W64)
  /-- DET_CTRL_WRITE (R533): A write to DET_CTRL stages its value for "next", or sets REG_REFUSED. -/
  | detCtrlWrite (value : W32)
  /-- LEG_WDOG_WRITE (R533): A write to LEG_WDOG stages its value for "next", or sets REG_REFUSED. -/
  | legWdogWrite (value : W32)
  /-- LEASE_CFG_WRITE (R471): A write to LEASE_CFG sets the renewal period from the next renewal; out-of-range values are ignored. -/
  | leaseCfgWrite (value : W32)
  /-- PWR_CFG_WRITE (R429): A write to PWR_CFG sets the grace time at once; out-of-range values are ignored. -/
  | pwrCfgWrite (value : W32)
  /-- PCIE_LINK_DOWN (R389): The PCIe link goes down; the device runs on and holds its entries and host-memory commands. -/
  | pcieLinkDown
  /-- PCIE_LINK_UP (R389): The PCIe link retrains, at 2^lanes lanes and generation speed + 1, and the device writes LINK_RESTORED and then
  the held entries in order. -/
  | pcieLinkUp (lanes : Fin 4) (speed : Fin 7) (d3hot : Bool)
  /-- INTERRUPT_TIMER (R411): TIME_US has passed since the oldest unsignalled entry, so the ring's MSI-X vector is raised. -/
  | interruptTimer (ring : Option (Fin 64))
  /-- LOAD_TRAVERSE (R69): The command checks a traverse in HBM, runs the margin test of scheduled lanes, and loads the traverse or refuses it. -/
  | loadTraverse (parts : TraverseParts) (errs : List ReadErr)
  /-- RUN (R72): The command checks the base station and starts the loaded traverse from it. -/
  | run (errs : List ReadErr)
  /-- ROUTE_TABLES (R300): STAGE_CONFIG stages routing tables with the next epoch into the bank not in force, for a closed station. -/
  | routeTables
  /-- WINDOW_MAP (R319): STAGE_CONFIG stages entries for persistent windows 960–1,023. -/
  | windowMap
  /-- OP_TARGET (R419): STAGE_CONFIG stages the operating-point target of each region. -/
  | opTarget
  /-- FABRIC_MODE (R312): STAGE_CONFIG stages SERVICE or RECOVERY fabric mode. -/
  | fabricMode
  /-- JOB_IDENT (R86): STAGE_CONFIG stages the job tag and the 128-bit digest key. -/
  | jobIdent
  /-- BLOCK_SPARE_MAP (R193): STAGE_CONFIG stages the logical-to-physical block map. -/
  | blockSpareMap
  /-- COLUMN_SPARE_MAP (R457): STAGE_CONFIG stages column spare maps, which must disable every failed column. -/
  | columnSpareMap
  /-- FRAME_RETIRE (R218): STAGE_CONFIG stages a list of frame operations for a station. -/
  | frameRetire
  /-- BACKSIGHT_ROLE (R487): STAGE_CONFIG stages a backsight role for a closed station. -/
  | backsightRole
  /-- DET_CTRL (R63): STAGE_CONFIG stages a DET_CTRL value. -/
  | detCtrl
  /-- LEG_WDOG (R93): STAGE_CONFIG stages a leg watchdog period. -/
  | legWdog
  /-- RETIRE_FRAME (R394): The command is STAGE_CONFIG with setting identifier 0x08. -/
  | retireFrame
  /-- DMA_H2D (R397): The command copies host memory into one region's HBM, either at once or at a named station. -/
  | dmaH2d (errs : List ReadErr)
  /-- DMA_D2H (R399): The command copies HBM to host memory, delivering 0xFF for poisoned lines. -/
  | dmaD2h (errs : List ReadErr)
  /-- DMA_AT_STATION (R398): A host DMA that names station N starts after step 7 and after any CHECKPOINT_OUT of N. -/
  | dmaAtStation (id : Nat) (errs : List ReadErr)
  /-- HOST_DMA_COMPLETE (R404): A host DMA's last line is accepted or written, and its completion entry is written. -/
  | hostDmaComplete (id : Nat)
  /-- IDENTITY (R408): QUERY IDENTITY writes the serial number, device ID, state and running security version. -/
  | identity
  /-- HBM_ECC (R408): QUERY HBM_ECC writes the corrected-read counter of every channel. -/
  | hbmEcc
  /-- SHAPE (R408): QUERY SHAPE writes the active blocks, usable frames and spare maps as of now. -/
  | shape
  /-- ENERGY (R408): QUERY ENERGY writes ENERGY_JOB and its tag. -/
  | energy
  /-- CHECKPOINT_OUT (R481): The command schedules a copy of chosen HBM ranges, and optionally the image, to a partner at station N. -/
  | checkpointOut
  /-- CHECKPOINT_RUN (R481): At step 4 of a closed station, or after step 7 of an open one, the checkpoint copies data, fences and writes the header. -/
  | checkpointRun (id : Nat) (errs : List ReadErr)
  /-- FILL_IN (R484): The command reads a checkpoint copy from a source into this device and verifies its digest. -/
  | fillIn
  /-- BACKSIGHT (R488): The command makes the device a shadow that runs the traverse of a working member from a filled image. -/
  | backsight (errs : List ReadErr)
  /-- FENCE_JOB (R401): The command ends the job, clears its state and enters READY, unless the device stays FENCED or parked. -/
  | fenceJob
  /-- RESET_REGION (R465): The command loses the named region and resets it through the region-reset steps. -/
  | resetRegion (errs : List ReadErr)
  /-- RESET_REGION_COMPLETE (R465): The region reset steps end and the region is marked UP, with no traverse loaded. -/
  | resetRegionComplete (r : Fin 4) (untrained : List (Fin 64))
  /-- PARK (R430): The command parks the device in BIVOUAC at once in READY, or at step 8 of the next station. -/
  | park
  /-- PARK_COMPLETE (R430): The parking steps end, the device is in BIVOUAC, and PARK completes. -/
  | parkComplete (errs : List ReadErr)
  /-- UNPARK (R433): The command starts leaving BIVOUAC when the ration allows, reversing the parking steps. -/
  | unpark
  /-- UNPARK_COMPLETE (R433): The device has restored its state and returns to its prior state at ration rung 5. -/
  | unparkComplete (errs : List ReadErr)
  /-- MGT_SEND (R394): The command sends a host-supplied MGT message as if the device had originated it, or delivers it to its own core. -/
  | mgtSend
  /-- RATION (R421): The command sets the host ration value, which becomes pending. -/
  | ration
  /-- RESET_BLOCK (R467): The command resets the physical block serving a logical block and runs its self-test. -/
  | resetBlock
  /-- RESET_BLOCK_COMPLETE (R467): The block self-test ends, its findings are recorded, and RESET_BLOCK completes OK. -/
  | resetBlockComplete (b : Fin 256) (columns : List (Fin 132)) (failed : Bool)
  /-- RESET_PORT (R270): The command restarts one fabric port's positions and peers and keeps engine calibration. -/
  | resetPort
  /-- D2D_NEAR (R468): TEST_CTRL.START with this mode loops each die-to-die port back inside the PHY and runs PRBS31. -/
  | d2dNear (value : W64)
  /-- D2D_FAR (R468): TEST_CTRL.START with this mode makes the far port of each link return what it receives. -/
  | d2dFar (value : W64)
  /-- OE_ELEC (R468): TEST_CTRL.START with this mode loops the base-die interface to each engine back without the engine. -/
  | oeElec (value : W64)
  /-- OE_DRIVER (R468): TEST_CTRL.START with this mode loops each engine's driver die back before the modulators. -/
  | oeDriver (value : W64)
  /-- OE_OPTICAL (R468): TEST_CTRL.START with this mode couples each port's transmit bus to its receive bus and trains each position against itself. -/
  | oeOptical (value : W64)
  /-- BLOCK_BIST (R468): TEST_CTRL.START with this mode runs the block self-test on all 68 blocks of each selected region. -/
  | blockBist (value : W64)
  /-- HBM_MARCH (R468): TEST_CTRL.START with this mode runs a march pattern over every line of every active channel. -/
  | hbmMarch (value : W64)
  /-- TEST_END (R469): A test ends, its results are recorded, and each selected region returns to service through region-reset steps. -/
  | testEnd (found : List TestFind)
  /-- STATION_REACH (R74): Every condition of station N holds, and the device runs the station steps. -/
  | stationReach (errs : List ReadErr)
  /-- ARRIVED_REPEAT (R286): Every 1 ms in step 4 until DRAIN_CHECK(N) arrives, the device repeats ARRIVED(N). -/
  | arrivedRepeat
  /-- DRAIN_CHECK (R80): A DRAIN_CHECK(N) message is received for the job at a station where the device waits in step 4. -/
  | drainCheck
  /-- DRAINED (R80): After DRAIN_CHECK, once trackers, pools, replay frames and relay queues are empty, the device sends DRAINED(N). -/
  | drained
  /-- SWAP (R286): A SWAP(N) message lets the device carry out steps 5 to 8 once; later duplicates get a REACHED marker again. -/
  | swap (errs : List ReadErr)
  /-- STATION_MARKER (R83): A station marker received from a peer is recorded, with no further action. -/
  | stationMarker
  /-- LEG_OVERDUE (R94): The leg watchdog passes a further whole period, and the device writes LEG_OVERDUE and notifies the fabric manager in SERVICE mode. -/
  | legOverdue
  /-- NOP (R160): A CTL NOP issues with no action. -/
  | nop (b : Fin 256) (e : HwErr)
  /-- WAIT (R165): A bundle with CTL WAIT issues once its counter has reached VALUE. -/
  | wait (b : Fin 256) (e : HwErr)
  /-- POST (R166): A CTL POST adds VALUE to a sync counter. -/
  | post (b : Fin 256) (e : HwErr)
  /-- SET (R166): A CTL SET sets a sync counter, before same-cycle posts. -/
  | set (b : Fin 256) (e : HwErr)
  /-- LOOP (R163): A CTL LOOP executes the next BODY bundles TRIPS times, within the nesting rules. -/
  | loop (b : Fin 256) (e : HwErr)
  /-- ASEQ (R185): A CTL ASEQ carries out the next COUNT entries of the block's allocation sequence. -/
  | aseq (b : Fin 256) (e : HwErr)
  /-- LEND (R187): A CTL LEND issues a peg over OWNED segments of a SCRATCH window, which move to LENT. -/
  | lend (b : Fin 256) (e : HwErr)
  /-- RELEASE (R183): A CTL RELEASE moves segments from OWNED or READY to OWNED. -/
  | release (b : Fin 256) (e : HwErr)
  /-- DLOAD (R162): A CTL DLOAD copies the following inline bundles into a descriptor table or scalar instruction memory. -/
  | dload (b : Fin 256) (e : HwErr)
  /-- SETBASE (R161): A CTL SETBASE places a descriptor table in four segments. -/
  | setbase (b : Fin 256) (e : HwErr)
  /-- SCALAR (R173): A CTL SCALAR starts the scalar core with write access to granted segments, which go to FILLING. -/
  | scalar (b : Fin 256) (e : HwErr)
  /-- STATION (R192): A CTL STATION marks the end of the block's work in the leg, and the block issues nothing further. -/
  | station (b : Fin 256) (e : HwErr)
  /-- MAC (R107): An array MAC instruction issues and accumulates products in ascending K into FP32 or INT32. -/
  | mac (b : Fin 256) (e : HwErr)
  /-- MINPLUS (R120): An array MINPLUS instruction issues and keeps min(acc, a + b). -/
  | minplus (b : Fin 256) (e : HwErr)
  /-- MAXPLUS (R120): An array MAXPLUS instruction issues and keeps max(acc, a + b). -/
  | maxplus (b : Fin 256) (e : HwErr)
  /-- MAXTIMES (R120): An array MAXTIMES instruction issues and keeps max(acc, a·b). -/
  | maxtimes (b : Fin 256) (e : HwErr)
  /-- L1 (R120): An array L1 instruction issues and accumulates |a − b|. -/
  | l1 (b : Fin 256) (e : HwErr)
  /-- L2SQ (R120): An array L2SQ instruction issues and accumulates (a − b)². -/
  | l2sq (b : Fin 256) (e : HwErr)
  /-- CNT_GT (R122): An array CNT_GT instruction issues and counts pairs with a > b. -/
  | cntGt (b : Fin 256) (e : HwErr)
  /-- CNT_GE (R122): An array CNT_GE instruction issues and counts pairs with a ≥ b. -/
  | cntGe (b : Fin 256) (e : HwErr)
  /-- CNT_EQ (R122): An array CNT_EQ instruction issues and counts pairs with a == b. -/
  | cntEq (b : Fin 256) (e : HwErr)
  /-- HAMMING (R122): An array HAMMING instruction issues and counts differing bits. -/
  | hamming (b : Fin 256) (e : HwErr)
  /-- SPLIT32 (R112): An array SPLIT32 instruction issues an FP32 multiply-accumulate in three BF16 passes. -/
  | split32 (b : Fin 256) (e : HwErr)
  /-- PART_POST (R149): An array part posts +1 to its POST counter after its last drain write, and its segments become READY. -/
  | partPost (b : Fin 256) (part : Fin 4) (upto : PartMoment) (e : HwErr)
  /-- ADD (R542): A vector ADD instruction issues. -/
  | add (b : Fin 256) (e : HwErr)
  /-- MUL (R542): A vector MUL instruction issues. -/
  | mul (b : Fin 256) (e : HwErr)
  /-- FMA (R124): A vector FMA instruction issues, with a single rounding. -/
  | fma (b : Fin 256) (e : HwErr)
  /-- MIN (R121): A vector MIN instruction issues. -/
  | min (b : Fin 256) (e : HwErr)
  /-- MAX (R121): A vector MAX instruction issues. -/
  | max (b : Fin 256) (e : HwErr)
  /-- EXP (R125): A vector EXP instruction issues. -/
  | exp (b : Fin 256) (e : HwErr)
  /-- LOG (R125): A vector LOG instruction issues. -/
  | log (b : Fin 256) (e : HwErr)
  /-- RCP (R125): A vector RCP instruction issues. -/
  | rcp (b : Fin 256) (e : HwErr)
  /-- RSQRT (R125): A vector RSQRT instruction issues. -/
  | rsqrt (b : Fin 256) (e : HwErr)
  /-- CVT (R116): A vector CVT instruction converts between formats. -/
  | cvt (b : Fin 256) (e : HwErr)
  /-- CVT_MX (R119): A vector CVT_MX instruction converts to whole MX blocks and writes their scales. -/
  | cvtMx (b : Fin 256) (e : HwErr)
  /-- DATUM (R46): A vector DATUM instruction combines datum bytes by maximum into the bytes already held. -/
  | datum (b : Fin 256) (e : HwErr)
  /-- DMAX (R47): A vector DMAX instruction writes the bytewise maximum of two datum streams. -/
  | dmax (b : Fin 256) (e : HwErr)
  /-- TO_C (R126): A vector TO_C instruction converts values to C32 or C64 closure form. -/
  | toC (b : Fin 256) (e : HwErr)
  /-- CADD (R126): A vector CADD instruction adds closure streams with wrap-around and poison. -/
  | cadd (b : Fin 256) (e : HwErr)
  /-- FROM_C (R55): A vector FROM_C instruction makes the final conversion to FP32 or BF16. -/
  | fromC (b : Fin 256) (e : HwErr)
  /-- DROPOUT (R128): A vector DROPOUT instruction zeroes or scales elements by their Philox DROP word. -/
  | dropout (b : Fin 256) (e : HwErr)
  /-- UNIFORM (R129): A vector UNIFORM instruction writes FP32 uniform draws. -/
  | uniform (b : Fin 256) (e : HwErr)
  /-- RAWRAND (R129): A vector RAWRAND instruction writes raw Philox words. -/
  | rawrand (b : Fin 256) (e : HwErr)
  /-- COPY (R542): A vector COPY instruction copies COUNT elements bit-exactly. -/
  | copy (b : Fin 256) (e : HwErr)
  /-- VECTOR_POST (R168): A vector instruction posts in the second BCLK after its last write, and its segments become READY. -/
  | vectorPost (b : Fin 256) (upto : EngineMoment) (e : HwErr)
  /-- HBM_TO_SP (R169): A local DMA descriptor that copies HBM into the block's scratchpad is taken. -/
  | hbmToSp (b : Fin 256) (e : HwErr)
  /-- SP_TO_HBM (R169): A local DMA descriptor that copies scratchpad to HBM is taken. -/
  | spToHbm (b : Fin 256) (e : HwErr)
  /-- SP_TO_SP (R169): A local DMA descriptor that copies within the scratchpad is taken. -/
  | spToSp (b : Fin 256) (e : HwErr)
  /-- DMA_POST (R169): A local DMA posts when its last byte is readable, and its destination segments become READY. -/
  | dmaPost (b : Fin 256) (id : Nat) (upto : EngineMoment) (e : HwErr)
  /-- RLOAD (R328): A remote load descriptor issues and is cut into LOAD packets. -/
  | rload (b : Fin 256) (e : HwErr)
  /-- RSTORE (R328): A remote store descriptor issues, claiming its peg first when PEGGED is set. -/
  | rstore (b : Fin 256) (e : HwErr)
  /-- RATOMIC (R342): A remote atomic descriptor issues one ATOMIC request. -/
  | ratomic (b : Fin 256) (e : HwErr)
  /-- PEG_CLAIM_DESCRIPTOR (R342): A PEG_CLAIM descriptor claims a peg early and completes when the grant arrives. -/
  | pegClaimDescriptor (b : Fin 256) (e : HwErr)
  /-- NOTIFY (R347): A NOTIFY descriptor sends NOTICE to each subscriber of a local window range. -/
  | notify (b : Fin 256) (e : HwErr)
  /-- INVAL (R346): An INVAL descriptor invalidates a range in the remote read caches of all regions. -/
  | inval (b : Fin 256) (e : HwErr)
  /-- FENCE_DESCRIPTOR (R351): A FENCE descriptor waits for final outcomes of earlier requests to its destinations. -/
  | fenceDescriptor (b : Fin 256) (e : HwErr)
  /-- FENCE_SECOND_STAGE (R351): Once first-stage outcomes are final, the fence sends FENCE requests to each qualifying destination. -/
  | fenceSecondStage (id : Nat)
  /-- REMOTE_COMPLETE (R329): Every packet of a remote descriptor has a final outcome, so it writes data and the status word and posts. -/
  | remoteComplete (id : Nat)
  /-- SC_POST (R172): A scalar SC.POST adds to a sync counter. -/
  | scPost (b : Fin 256) (e : HwErr)
  /-- SC_WAIT (R172): A scalar SC.WAIT stalls until a counter has reached a value. -/
  | scWait (b : Fin 256) (e : HwErr)
  /-- SC_READ (R172): A scalar SC.READ reads a sync counter. -/
  | scRead (b : Fin 256) (e : HwErr)
  /-- SC_SEGST (R172): A scalar SC.SEGST reads a segment's state code. -/
  | scSegst (b : Fin 256) (e : HwErr)
  /-- SC_RELEASE (R172): A scalar SC.RELEASE releases segments. -/
  | scRelease (b : Fin 256) (e : HwErr)
  /-- SC_EXIT (R173): A scalar SC.EXIT makes granted segments READY, posts +1 and stops the core. -/
  | scExit (b : Fin 256) (e : HwErr)
  /-- SCALAR_INSTRUCTION (R174): The scalar core executes an ordinary RV64IMC instruction. -/
  | scalarInstruction (b : Fin 256) (e : HwErr)
  /-- LOAD (R339): A LOAD request at the target is handled under ordering, receipts and window checks, and answered. -/
  | load (errs : List ReadErr)
  /-- STORE (R340): A STORE request at the target is checked and applied to HBM or under a peg to scratchpad. -/
  | store (errs : List ReadErr)
  /-- STORE_FLAG (R338): A STORE_FLAG request at the target is applied like a STORE. -/
  | storeFlag (errs : List ReadErr)
  /-- STORE_FLAG_SEND (R338): Once earlier stores and atomics to the destination are final, the source sends the STORE_FLAG. -/
  | storeFlagSend (id : Nat)
  /-- ATOMIC_ADD (R348): An ATOMIC request with AOP ADD is applied once at the target and recorded in a receipt. -/
  | atomicAdd (errs : List ReadErr)
  /-- ATOMIC_MIN (R348): An ATOMIC request with AOP MIN is applied at the target. -/
  | atomicMin (errs : List ReadErr)
  /-- ATOMIC_MAX (R348): An ATOMIC request with AOP MAX is applied at the target. -/
  | atomicMax (errs : List ReadErr)
  /-- ATOMIC_AND (R348): An ATOMIC request with AOP AND is applied at the target. -/
  | atomicAnd (errs : List ReadErr)
  /-- ATOMIC_OR (R348): An ATOMIC request with AOP OR is applied at the target. -/
  | atomicOr (errs : List ReadErr)
  /-- ATOMIC_XOR (R348): An ATOMIC request with AOP XOR is applied at the target. -/
  | atomicXor (errs : List ReadErr)
  /-- ATOMIC_SWAP (R348): An ATOMIC request with AOP SWAP is applied at the target and returns the prior value. -/
  | atomicSwap (errs : List ReadErr)
  /-- ATOMIC_CAS (R348): An ATOMIC request with AOP CAS is applied at the target and returns the prior value. -/
  | atomicCas (errs : List ReadErr)
  /-- ATOMIC_CADD (R348): An ATOMIC request with AOP CADD adds in closure form, on SCRATCH only under a peg. -/
  | atomicCadd (errs : List ReadErr)
  /-- PEG_CLAIM (R343): A PEG_CLAIM request at the target is granted, re-granted, parked, or refused. -/
  | pegClaim
  /-- PEG_DONE (R344): A PEG_DONE request completes the peg's landing at the target and is answered. -/
  | pegDone
  /-- PEG_DONE_SEND (R344): After the last END descriptor's packets are final, the sender sends PEG_DONE with TOTAL. -/
  | pegDoneSend (id : Nat)
  /-- NOTICE (R347): A NOTICE request makes the subscriber invalidate the range and answer once that completes. -/
  | notice
  /-- FENCE (R351): A FENCE request makes the destination flush earlier write-combining entries and answer. -/
  | fence (errs : List ReadErr)
  /-- LOAD_DATA (R334): A LOAD_DATA reply is accepted for its held tag or discarded. -/
  | loadData (poison : List (Fin 64))
  /-- ACK (R334): An ACK reply gives an outcome to its held request, or is discarded. -/
  | ack (errs : List ReadErr)
  /-- ATOMIC_RESULT (R341): An ATOMIC_RESULT reply gives the outcome and the prior value. -/
  | atomicResult
  /-- PEG_GRANT (R342): A PEG_GRANT reply gives the sender the peg, and its pegged writes may proceed. -/
  | pegGrant
  /-- E2E_TIMEOUT (R349): A request has had no reply within E2E_US, so it is retried, or declared unresponsive after its last retry. -/
  | e2eTimeout (tag : Fin 131072)
  /-- DEAD_US_EXPIRE (R355): In RECOVERY mode DEAD_US after the first send, a load completes with TARGET_LOST and 0xFF bytes. -/
  | deadUsExpire (tag : Fin 131072)
  /-- RETRY_ORDER_RESEND (R331): After every earlier packet of its channel is final, a request answered RETRY_ORDER is resent. -/
  | retryOrderResend (tag : Fin 131072)
  /-- DELAYED_RESEND (R331): 20 µs after RECEIPT_FULL or WINDOW_OPENING, the request is resent. -/
  | delayedResend (tag : Fin 131072)
  /-- RECEIPT_EXPIRE (R349): A receipt expires H after it was recorded. -/
  | receiptExpire (r : Fin 4)
  /-- TAG_QUARANTINE_END (R333): An atomic or collective tag's quarantine ends, and the tag can be reallocated. -/
  | tagQuarantineEnd (tag : Fin 131072)
  /-- WINDOW_DRAIN_EXPIRE (R353): DRAIN_US after CLOSING began, the window closes, remaining pegs end, and parked claims get WINDOW_CLOSED. -/
  | windowDrainExpire (w : Fin 1024)
  /-- A2A (R363): An A2A collective starts when its start counter is reached, and runs an equal-size all-to-all. -/
  | a2a (engine : Fin 4)
  /-- A2AV (R366): An A2AV collective starts and runs an all-to-all with static sizes. -/
  | a2av (engine : Fin 4)
  /-- A2AX (R366): An A2AX collective starts and runs an all-to-all with sizes exchanged in its packets. -/
  | a2ax (engine : Fin 4)
  /-- ALLGATHER (R363): An ALLGATHER collective starts. -/
  | allgather (engine : Fin 4)
  /-- REDUCE_SCATTER (R363): A closure REDUCE_SCATTER collective starts. -/
  | reduceScatter (engine : Fin 4)
  /-- ALLREDUCE (R363): A closure ALLREDUCE collective starts. -/
  | allreduce (engine : Fin 4)
  /-- COLLECTIVE_DATUM (R363): A DATUM collective starts, to take the bytewise maximum of datum bytes. -/
  | collectiveDatum (engine : Fin 4)
  /-- BROADCAST (R363): A BROADCAST collective starts from ROOT. -/
  | broadcast (engine : Fin 4)
  /-- COL_SLOT_SEND (R369): Once a slot's grant is held and its data is final, the engine sends its COL packets. -/
  | colSlotSend (tag : Fin 131072) (errs : List ReadErr)
  /-- COL (R373): A COL packet at the target lands under its peg when it passes every check, or is discarded. -/
  | col (errs : List ReadErr)
  /-- COL_RESEND (R375): A slot has had no ACK within E2E_US, so every packet of the slot is resent. -/
  | colResend (tag : Fin 131072)
  /-- COLLECTIVE_DEAD_US (R384): In RECOVERY mode no slot has landed within DEAD_US, so the descriptor poisons its results and ends TARGET_LOST. -/
  | collectiveDeadUs (id : Nat)
  /-- FLIT_RECEIVE (R280): A flit received on a link is checked and accepted in order, or discarded pending replay. -/
  | flitReceive (port : Fin 16) (line : Fin 34) (badCodes : BitVec 2) (bytes : List Byte)
  /-- LINK_REPLAY_TIMEOUT (R280): No ACK for 4 µs, so the sender replays from its oldest unacknowledged flit. -/
  | linkReplayTimeout (port : Fin 16) (line : Fin 34)
  /-- REPLAY_STORE_DISCARD (R280): A lane out of ACTIVE for 100 ms discards its replay store. -/
  | replayStoreDiscard (port : Fin 16) (line : Fin 34)
  /-- PACKET_RECEIVE (R301): A whole packet taken from a lane is delivered, routed, relayed or sent to the escape ring. -/
  | packetReceive (port : Fin 16) (line : Fin 34)
  /-- PACKET_FORWARD (R292): A waiting packet crosses a hop once its far-end pool has room, and credit returns as it leaves. -/
  | packetForward (port : Fin 16) (line : Fin 34)
  /-- ESC_WAIT_EXPIRE (R308): A packet has waited 20 µs at the head of a pool without credit, so it enters the escape ring. -/
  | escWaitExpire (port : Fin 16) (line : Fin 34)
  /-- ESC_ADVANCE (R307): An escape-ring packet advances, or leaves at its destination, when the next stage or intake has room. -/
  | escAdvance (port : Fin 16) (line : Fin 34)
  /-- HELLO_TIMER (R313): A HELLO is sent when a lane reaches ACTIVE and then every 10 ms. -/
  | helloTimer (port : Fin 16) (line : Fin 34)
  /-- HELLO (R314): A received HELLO moves the lane's peer state. -/
  | hello
  /-- CHALLENGE_SEND (R314): Within 10 ms of SEEN, or after the 1 s back-off, the device sends a CHALLENGE and the peer enters AUTH. -/
  | challengeSend (port : Fin 16) (line : Fin 34)
  /-- CHALLENGE (R511): A received CHALLENGE is answered with a signed CHALLENGE_RESP within 20 ms. -/
  | challenge
  /-- CHALLENGE_RESP (R512): A received challenge response is verified, and the peer becomes ACTIVE or returns to SEEN. -/
  | challengeResp
  /-- AUTH_TIMEOUT (R314): No response within 100 ms, so PEER_AUTH_FAIL is raised and the peer returns to SEEN. -/
  | authTimeout (port : Fin 16) (line : Fin 34)
  /-- PEER_LOST_TIMEOUT (R314): No HELLO for 30 ms, so the peer becomes LOST. -/
  | peerLostTimeout (port : Fin 16) (line : Fin 34)
  /-- MARGIN_REQ (R288): A receiver takes MARGIN_REQ and starts the measurement for the step, or refuses with BUSY. -/
  | marginReq
  /-- MARGIN_COUNT_COMPLETE (R288): The receiver ends its eye measurement or its count of 10^9 symbols and answers MARGIN_RESULT. -/
  | marginCountComplete (port : Fin 16) (line : Fin 34) (eyeMin rlm : W16) (symErr : W32)
  /-- MARGIN_RESULT (R288): A transmitter takes MARGIN_RESULT and applies reduced bias or records the final result. -/
  | marginResult
  /-- MARGIN_TEST_TIMEOUT (R265): No passing result within 50 ms, so the lane fails and nominal bias returns. -/
  | marginTestTimeout (port : Fin 16) (line : Fin 34)
  /-- SERVICE_MARGIN_SAMPLE (R267): Every 1 ms a receiver estimates service lane margin and sends BIAS_NEED after 64 ms below threshold. -/
  | serviceMarginSample (port : Fin 16) (line : Fin 34) (deciDbm : Int)
  /-- BIAS_NEED (R268): A received BIAS_NEED makes the device issue one comb bias step and read HEADROOM. -/
  | biasNeed (busy : Bool) (headroom : Byte)
  /-- CONG_READ (R289): A received CONG_READ is answered with CONG_DATA messages from one congestion record. -/
  | congRead
  /-- CONG_SAMPLE (R316): Every 1 µs during a leg, the device samples far-end pool occupancy per class and position. -/
  | congSample
  /-- COMB_LINE_MEASURE (R241): Every 1 ms each engine measures each comb line's power and tag. -/
  | combLineMeasure (e : Fin 8) (lines : List LineMeas)
  /-- LOCK_ERROR_EXCEED (R245): A ring's lock error exceeds 25 GHz, and its lane becomes UNLOCKED within 1 µs. -/
  | lockErrorExceed (p : Pos) (err : Int)
  /-- SEARCH_COMPLETE (R246): A ring's search finds a resonance on a lit line and enters PLUMB, or finds no light and goes DARK. -/
  | searchComplete (p : Pos) (found : Option (Fin 34)) (drive : Nat)
  /-- PLUMB_CHECK_END (R254): The 2 ms tag window ends, and the position passes the plumb check or mislocks. -/
  | plumbCheckEnd (p : Pos) (tags : List TagMeas)
  /-- RETUNE_COMPLETE (R255): A mislocked ring finishes retuning, and the plumb check runs again. -/
  | retuneComplete (p : Pos)
  /-- TRAINING_COMPLETE (R256): Lane training ends and the lane becomes ACTIVE, or the training fails. -/
  | trainingComplete (p : Pos) (t : Training)
  /-- TRAINING_MISMATCH_REPORT (R256): The receiver's MGT report of a wrong lane number counts a failure at the transmitting position. -/
  | trainingMismatchReport (port : Fin 16) (w : Fin 34)
  /-- CODEWORD_ERRORS (R252): More than 64 uncorrectable codewords in 1 ms send an ACTIVE lane back to TRAIN. -/
  | codewordErrors (p : Pos) (count : Nat)
  /-- FAIL_COUNT_RESET (R253): 60 s of unbroken ACTIVE returns a position's failure count to 0. -/
  | failCountReset (p : Pos)
  /-- LIGHT_RETURN (R252): A line or incoming light returns, and a DARK position goes to SEARCH. -/
  | lightReturn (p : Pos)
  /-- ENGINE_START (R270): An engine calibrates crosstalk and starts every position searching. -/
  | engineStart (e : Fin 8) (tx rx : Option (List KEntry)) (cal : List CalEntry)
  /-- XTALK_REFRESH (R248): Firmware refreshes a crosstalk matrix, and the bank switches to it whole at a heater update. -/
  | xtalkRefresh (e : Fin 8) (rxBank : Bool) (k : List KEntry) (cal : List CalEntry)
  /-- HEATER_UPDATE (R247): At each 1 µs heater update the bank drives its heaters as K × target. -/
  | heaterUpdate (e : Fin 8) (rxBank : Bool) (loop : List Int)
  /-- KEEPALIVE_ENTRY (R269): After 100 ms in READY without LOAD_TRAVERSE or RUN, the engines enter keep-alive. -/
  | keepaliveEntry
  /-- PORT_DARK_RESTART (R260): Every position of a port has been DARK for 1 s, so the port restarts. -/
  | portDarkRestart (port : Fin 16)
  /-- D2D_LANE_FAIL (R231): A die-to-die lane fails, and its direction retrains with a spare or at a narrower width. -/
  | d2dLaneFail (link : Fin 4) (turn : Turn) (lanes : List (Fin 272))
  /-- D2D_RETRAIN_COMPLETE (R232): The retrain ends, the new width takes effect, flits are replayed and a corrected record is written. -/
  | d2dRetrainComplete (link : Fin 4) (turn : Turn)
  /-- D2D_FLIT_RECEIVE (R229): A die-to-die flit is received, and a CRC failure asks for a replay. -/
  | d2dFlitReceive (link : Fin 4) (turn : Turn) (replay : Bool) (bytes damage : List Byte)
  /-- LINK_WATCHDOG_EXPIRE (R462): 1 µs without training symbols, so the neighbour declares the die-to-die link down. -/
  | linkWatchdogExpire (link : Fin 4)
  /-- MESH_FLIT_RECEIVE (R454): A mesh flit with a failing CRC is retried, and MESH_CRC is recorded. -/
  | meshFlitReceive (r : Fin 4) (stop : Fin 64) (side : MeshSide) (crcGood : Bool)
  /-- MESH_DOWN (R454): A flit fails 8 retries, so the link is down and the region is lost. -/
  | meshDown (r : Fin 4)
  /-- HBM_READ (R210): A channel controller accepts a read and returns the merged line, corrected or poisoned. -/
  | hbmRead (r : Fin 4) (off : BitVec 38) (requester : Byte) (ecc : Ecc)
  /-- HBM_WRITE (R211): A channel controller accepts a write into its write-combining buffer, or the write bypasses the buffer. -/
  | hbmWrite (r : Fin 4) (off : BitVec 38) (mask : W64) (data : BitVec 512) (errs : List ReadErr)
  /-- PATROL_SCRUB (R203): In an idle cycle the controller scrubs the next line and corrects or records it. -/
  | patrolScrub (ch : Fin 256) (ecc : Ecc) (writtenSince : Bool)
  /-- HBM_REFRESH (R204): A refresh command holds its channel for up to 4 µs. -/
  | hbmRefresh (ch : Fin 256)
  /-- CHANNEL_RETRAIN_TIMEOUT (R216): A channel that lost training has not retrained within 100 µs, so it is declared failed. -/
  | channelRetrainTimeout (ch : Fin 256)
  /-- POST_PACKAGE_REPAIR (R214): Firmware repairs a DRAM row in BOOT or READY, preserving its contents. -/
  | postPackageRepair (ch : Fin 256) (lines : List Nat) (unread : List Nat) (rowLeft : Bool)
  /-- LEASE_RENEW (R471): Every RENEW_MS the device sends LEASE_RENEW with the next REQ_ID. -/
  | leaseRenew
  /-- LEASE_GRANT (R472): A LEASE_GRANT sets the lease and its expiry, may leave FENCED, or is ignored. -/
  | leaseGrant
  /-- LEASE_EXPIRY (R473): AON time reaches the lease expiry, so the device ends the job and enters FENCED. -/
  | leaseExpiry
  /-- FENCE_NOTICE (R476): A FENCE_NOTICE updates the fence table by epoch and is acknowledged. -/
  | fenceNotice
  /-- BS_DIGEST (R492): A shadow receives the working device's station digests for comparison. -/
  | bsDigest
  /-- TEE_COPY_RECEIVE (R490): A shadow writes an arriving tee copy into its tee log, or discards it after its command has ended. -/
  | teeCopyReceive (port : Fin 16) (line : Fin 34) (errs : List ReadErr)
  /-- TEE_LOG_HANDLE (R490): Once the shadow has reached the state that the head copy of the tee log needs, it handles that copy. -/
  | teeLogHandle (errs : List ReadErr)
  /-- VRALERT_L_RELEASE (R434): VRALERT_L is released, which starts the 1 ms hold after which the alert limit ends. -/
  | vralertLRelease
  /-- PWRGD_RELEASE (R521): The system releases PWRGD again with the input valid, and the module powers up again from step 2 of Power-up. -/
  | pwrgdRelease (mv : Nat) (railsGood : Bool)
  /-- DROOP_RECOVER (R436): Every droop detector reads less than 3 % below its setpoint, so BCLK stops stretching its cycles. -/
  | droopRecover (r : Fin 4)
  /-- SELFTEST_COMPLETE (R497): The boot ROM finishes its self-test and OTP checks and reads the sensors, then enters WAITING, THERMAL_HOLD or HALTED. -/
  | selftestComplete (sound : Bool) (readings : List SensorVal)
  /-- CHANNEL_TRAINING_LOST (R216): An HBM channel loses training and begins to retrain, which starts the 100 µs count. -/
  | channelTrainingLost (ch : Fin 256)
  deriving DecidableEq, Repr
end Sys2Proof
end

