-- ==== Sys2Proof/Config.lean ====
section
/-! DEFINITION. What the manual leaves open: constants without a body, of which no proof can see a value. -/

namespace Sys2Proof.Config

/-- DESIGN CHOICE (log 6). The bits of the vector unit's fixed functions (R125): fixed in hardware
(R42), bounded in error, not stated. Special cases of R125 are taken out before these are asked. -/
opaque expBits : W32 → W32
opaque logBits : W32 → W32
opaque rcpBits : W32 → W32
opaque rsqrtBits : W32 → W32

/-- DESIGN CHOICE (log 7). R302 gives what pick() depends on and not which lane it answers: source,
destination, ordering channel and the lanes of the set. The answer is reduced modulo the set's size. -/
opaque pick : Nat → Nat → Nat → List Nat → Nat

/-- DESIGN CHOICE (log 65). Requests beyond one that a device's intake holds, and replies beyond one that its reply output holds (R307,
R310): the manual gives neither a size. -/
opaque intakeRoom : Nat
opaque replyRoom : Nat

/-- DESIGN CHOICE (log 8). The signature r then s that the identity key gives for a message (R508,
R511): ECDSA leaves its per-message secret open. -/
opaque sign : List Byte → BitVec 512

/-- DESIGN CHOICE (log 9). A value drawn from the entropy source (R508): the n-th draw. -/
opaque entropy : Nat → BitVec 256

/-- DESIGN CHOICE (log 57). What the scalar core's `cycle` and `time` counters read while profiling is enabled (R60, R61): the
n-th free value. -/
opaque counter : Nat → W64

/-- DESIGN CHOICE (log 58). The heater drive, in the units of R247, that moves ring `n` by a number of MHz: the manual gives a
heater's least range (R243) and not its slope. -/
opaque tune : Nat → Nat → Nat

/-- DESIGN CHOICE (log 77). The window generation that the management core's own requests name, by target device and window: the
commands that start them carry none (R324). -/
opaque mgmtGen : Nat → Nat → BitVec 12

/-- DESIGN CHOICE (log 84). SHA-256 of the boot ROM (R507), the error code of the record of a failed self-test (R497), Iastad's
enterprise number (R425) and the root certificate (R510): the manual names them and does not state them. -/
opaque romHash : BitVec 256
opaque haltCode : W16
opaque enterprise : W32
opaque rootCert : List Byte

/-- DESIGN CHOICE (log 85). The signature of an SPDM response (R508, R510): by the draw and the responses it covers. -/
opaque spdmSign : Nat → BitVec 512

/-- DESIGN CHOICE (log 85). The token of an ERROR ResponseNotReady (R510): by the draw. -/
opaque spdmToken : Nat → Byte

/-- DESIGN CHOICE (log 10). The fixed hash of R224 that names the slice and set of a line (0-16,383), and
the way that replacement gives up (R225). -/
opaque cacheSet : Nat → Nat
opaque cacheVictim : List Nat → Nat

/-- DESIGN CHOICE (log 124). What a scratchpad word with a double-bit error delivers to a reader outside the block: the n-th free value. -/
opaque lostWord : Nat → W64

/-- DESIGN CHOICE (log 4). The firmware's calibration of the thermal model, in the image that starts (R440). -/
opaque thermalCal : List Byte → List Byte

/-- DESIGN CHOICE (log 4). Which of its location's nodes a die's diode sensor sits at (R441). -/
opaque sensorPlace : Nat → Nat

/-- DESIGN CHOICE (log 137). At an AON time, the management core has been stopped for 100 ms (R516). -/
opaque coreStopped : Nat → Bool

end Sys2Proof.Config
end

