-- ==== Sys2Proof/Machine/Table.lean ====
section
/-! DEFINITION. Reading and writing indexed state and byte memories, and the byte order of R7. Every write keeps the
canonical form: keys strictly rising, no entry equal to what an unlisted key reads as. -/

namespace Sys2Proof

variable {α β : Type}

/-- The value at key `k`; `d` is what an unlisted key reads as. -/
def Table.get (t : Table α) (d : α) (k : Nat) : α :=
  match t with
  | [] => d
  | (k', v) :: r => if k' = k then v else Table.get r d k

/-- Remove key `k`. -/
def Table.erase (t : Table α) (k : Nat) : Table α :=
  match t with
  | [] => []
  | (k', v) :: r => if k' = k then Table.erase r k else (k', v) :: Table.erase r k

/-- List key `k` with value `v` in its place. -/
def Table.insert (t : Table α) (k : Nat) (v : α) : Table α :=
  match t with
  | [] => [(k, v)]
  | (k', v') :: r =>
    if k < k' then (k, v) :: (k', v') :: r
    else if k' = k then (k, v) :: r
    else (k', v') :: Table.insert r k v

/-- Write `v` at key `k`; writing what an unlisted key reads as removes the entry. -/
def Table.set [DecidableEq α] (t : Table α) (d : α) (k : Nat) (v : α) : Table α :=
  if v = d then t.erase k else t.insert k v

/-- Change the value at key `k` by `f`. -/
def Table.mod [DecidableEq α] (t : Table α) (d : α) (k : Nat) (f : α → α) : Table α :=
  t.set d k (f (t.get d k))

/-- Change the value at each of some keys. -/
def Table.modAll [DecidableEq α] (t : Table α) (d : α) (ks : List Nat) (f : Nat → α → α) : Table α :=
  ks.foldl (fun t k => t.mod d k (f k)) t

/-- Keep the entries whose key and value pass a test. -/
def Table.keep (t : Table α) (p : Nat → α → Bool) : Table α :=
  t.filter (fun e => p e.1 e.2)

/-- Keys strictly rising. -/
def Table.rising : Table α → Bool
  | [] => true
  | (k, _) :: r => r.all (fun e => decide (k < e.1)) && Table.rising r

/-- The canonical form of a table whose unlisted keys read as `d`. -/
def Table.wf [DecidableEq α] (t : Table α) (d : α) : Bool :=
  t.rising && t.all (fun e => !decide (e.2 = d))

/-- One byte of a memory. -/
def Mem.read (m : Mem) (a : Nat) : Byte := Table.get m 0 a

def Mem.write (m : Mem) (a : Nat) (b : Byte) : Mem := Table.set m 0 a b

/-- `n` bytes from address `a` on. -/
def Mem.readN (m : Mem) (a n : Nat) : List Byte := (List.range n).map (fun i => m.read (a + i))

/-- Store bytes from address `a` on, lowest address first. -/
def Mem.writeN (m : Mem) (a : Nat) : List Byte → Mem
  | [] => m
  | b :: bs => Mem.writeN (m.write a b) (a + 1) bs

/-- The canonical form of a memory: an unlisted byte reads as zero. -/
def Mem.wf (m : Mem) : Bool := Table.wf m 0

/-- A number as `n` bytes, least significant first (R7). -/
def leBytes : Nat → Nat → List Byte
  | 0, _ => []
  | n + 1, v => BitVec.ofNat 8 v :: leBytes n (v / 256)

/-- The number that bytes hold, least significant first (R7). -/
def leNat : List Byte → Nat
  | [] => 0
  | b :: bs => b.toNat + 256 * leNat bs

/-- A number as `n` bytes, most significant first (an octet string's integer, R508). -/
def beBytes (n v : Nat) : List Byte := (leBytes n v).reverse

def beNat (bs : List Byte) : Nat := leNat bs.reverse

/-- Bits [hi:lo] of a number. -/
def bits (v hi lo : Nat) : Nat := v / 2 ^ lo % 2 ^ (hi + 1 - lo)

/-- Bit `n` of a number. -/
def bit (v n : Nat) : Bool := v.testBit n

/-- A truth value as a bit placed at `n`. -/
def bitAt (b : Bool) (n : Nat) : Nat := if b then 2 ^ n else 0

/-- `n` bytes of a list from place `a` on; places past the end hold zero. -/
def slice (bs : List Byte) (a n : Nat) : List Byte :=
  (List.range n).map (fun i => bs.getD (a + i) 0)

/-- The little-endian field of `n` bytes at place `a` of a list. -/
def field (bs : List Byte) (a n : Nat) : Nat := leNat (slice bs a n)

/-- Pad with zero bytes, or cut, to `n` bytes. -/
def padTo (n : Nat) (bs : List Byte) : List Byte := slice bs 0 n

def zeros (n : Nat) : List Byte := List.replicate n 0

/-- Two's complement of an integer in `w` bits, as a number. -/
def twos (w : Nat) (v : Int) : Nat := (v % (2 ^ w : Nat)).toNat

/-- The integer a `w`-bit two's-complement number stands for. -/
def untwos (w v : Nat) : Int := if v % 2 ^ w < 2 ^ (w - 1) then (v % 2 ^ w : Nat) else (v % 2 ^ w : Nat) - (2 ^ w : Nat)

/-- Add with saturation at `top`. -/
def satAdd (top a b : Nat) : Nat := min top (a + b)

end Sys2Proof
end

