-- ==== Sys2Proof/Machine/Arith.lean ====
section
/-! DEFINITION. Number formats, exact values, rounding and the arithmetic of 04_array_arithmetic and 02_determinism. -/

namespace Sys2Proof.Machine

open Sys2Proof

/-- A value: NaN, an infinity, or the exact number (−1)^neg · m · 2^e, with signed zeros. -/
inductive FV where
  | nan
  | inf (neg : Bool)
  | fin (neg : Bool) (m : Nat) (e : Int)
  deriving DecidableEq, Repr

/-- A floating-point format (R97): exponent and mantissa bits, bias, and its specials: 0 IEEE, 1 NaN only as S.1111.111, 2 none. -/
structure FpFmt where
  eb : Nat
  mb : Nat
  bias : Nat
  special : Nat
  deriving DecidableEq, Repr

def fp32 : FpFmt := ⟨8, 23, 127, 0⟩
def bf16 : FpFmt := ⟨8, 7, 127, 0⟩
def fp16 : FpFmt := ⟨5, 10, 15, 0⟩
def e5m2 : FpFmt := ⟨5, 2, 15, 0⟩
def e4m3 : FpFmt := ⟨4, 3, 7, 1⟩
def e3m2 : FpFmt := ⟨3, 2, 3, 2⟩
def e2m3 : FpFmt := ⟨2, 3, 1, 2⟩
def e2m1 : FpFmt := ⟨2, 1, 1, 2⟩

/-- The value of a code (R97, R98). -/
def FpFmt.decode (f : FpFmt) (c : Nat) : FV :=
  let m := c % 2 ^ f.mb
  let e := c / 2 ^ f.mb % 2 ^ f.eb
  let s := decide (c / 2 ^ (f.mb + f.eb) % 2 = 1)
  if f.special = 0 && e == 2 ^ f.eb - 1 then (if m = 0 then .inf s else .nan)
  else if f.special = 1 && e == 2 ^ f.eb - 1 && m == 2 ^ f.mb - 1 then .nan
  else if e = 0 then .fin s m (1 - (f.bias : Int) - f.mb)
  else .fin s (2 ^ f.mb + m) ((e : Int) - f.bias - f.mb)

/-- Integer significand and exponent of the largest finite value. -/
def FpFmt.top (f : FpFmt) : Nat × Int :=
  match f.special with
  | 0 => (2 ^ (f.mb + 1) - 1, (2 ^ f.eb : Int) - 2 - f.bias - f.mb)
  | 1 => (2 ^ (f.mb + 1) - 2, (2 ^ f.eb : Int) - 1 - f.bias - f.mb)
  | _ => (2 ^ (f.mb + 1) - 1, (2 ^ f.eb : Int) - 1 - f.bias - f.mb)

/-- Code of a value on the format's grid: integer significand `n` at exponent `g`. -/
def FpFmt.pack (f : FpFmt) (s : Bool) (n : Nat) (g : Int) : Nat :=
  let (n, g) := if n = 2 ^ (f.mb + 1) then (2 ^ f.mb, g + 1) else (n, g)
  let sign := bitAt s (f.mb + f.eb)
  if n < 2 ^ f.mb then sign + n else sign + (g + f.bias + f.mb).toNat * 2 ^ f.mb + (n - 2 ^ f.mb)

def FpFmt.topCode (f : FpFmt) (s : Bool) : Nat := f.pack s f.top.1 f.top.2

/-- Canonical NaN (R98); 0 in a format without NaN (R116). -/
def FpFmt.nanCode (f : FpFmt) : Nat :=
  match f.special with
  | 0 => (2 ^ f.eb - 1) * 2 ^ f.mb + 2 ^ (f.mb - 1)
  | 1 => 2 ^ (f.mb + f.eb) - 1
  | _ => 0

/-- Code of an overflow or infinity (table *Overflow and special inputs*). -/
def FpFmt.overCode (f : FpFmt) (sat s : Bool) : Nat :=
  match f.special with
  | 0 => if sat then f.topCode s else bitAt s (f.mb + f.eb) + (2 ^ f.eb - 1) * 2 ^ f.mb
  | 1 => if sat then f.topCode s else f.nanCode
  | _ => f.topCode s

/-- m·2^(−k) rounded to an integer: to nearest with ties to even, or by the random word `w` (R117). -/
def roundShift (m k : Nat) (w : Option Nat) : Nat :=
  let q := m / 2 ^ k
  let r := m % 2 ^ k
  match w with
  | none => if 2 ^ k < 2 * r ∨ (2 * r = 2 ^ k ∧ q % 2 = 1) then q + 1 else q
  | some w => if 2 ^ 32 ≤ r * 2 ^ 32 / 2 ^ k + w then q + 1 else q

/-- m·2^e rounded to multiples of 2^g. -/
def roundAt (m : Nat) (e g : Int) (w : Option Nat) : Nat :=
  if g ≤ e then m * 2 ^ (e - g).toNat else roundShift m (g - e).toNat w

/-- Exponent of the format's grid at magnitude m·2^e, with an unbounded exponent range upwards (R99, R116). -/
def FpFmt.gridExp (f : FpFmt) (m : Nat) (e : Int) : Int :=
  max ((Nat.log2 m : Int) + e - f.mb) (1 - (f.bias : Int) - f.mb)

/-- m·2^e > n·2^g. -/
def expGt (m : Nat) (e : Int) (n : Nat) (g : Int) : Bool :=
  if g ≤ e then decide (n < m * 2 ^ (e - g).toNat) else decide (n * 2 ^ (g - e).toNat < m)

/-- Conversion to a floating-point format (R115 to R117). -/
def FpFmt.narrow (f : FpFmt) (sat : Bool) (w : Option Nat) (x : FV) : Nat :=
  match x with
  | .nan => f.nanCode
  | .inf s => f.overCode sat s
  | .fin s m e =>
    if m = 0 then bitAt s (f.mb + f.eb)
    else
      let g := f.gridExp m e
      let n := roundAt m e g w
      if expGt n g f.top.1 f.top.2 then f.overCode sat s else f.pack s n g

/-- Round a value to FP32 (R107, R110). -/
def round32 (sat : Bool) (x : FV) : FV := fp32.decode (fp32.narrow sat none x)

/-- Conversion to a two's-complement integer of `b` bits: ties to even, clamped; NaN gives 0 (R116). -/
def toInt (b : Nat) (x : FV) : Int :=
  match x with
  | .nan => 0
  | .inf s => if s then -(2 ^ (b - 1) : Int) else 2 ^ (b - 1) - 1
  | .fin s m e =>
    let n : Int := roundAt m e 0 none
    if s then max (-n) (-(2 ^ (b - 1) : Int)) else min n (2 ^ (b - 1) - 1)

def ofInt (v : Int) : FV := .fin (decide (v < 0)) v.natAbs 0

/-! ### Exact operations -/

def FV.neg : FV → FV
  | .nan => .nan
  | .inf s => .inf (!s)
  | .fin s m e => .fin (!s) m e

def FV.abs : FV → FV
  | .nan => .nan
  | .inf _ => .inf false
  | .fin _ m e => .fin false m e

def FV.isNan : FV → Bool
  | .nan => true
  | _ => false

def FV.isInf : FV → Bool
  | .inf _ => true
  | _ => false

/-- Exact product (R105). -/
def FV.mul (a b : FV) : FV :=
  match a, b with
  | .nan, _ => .nan
  | _, .nan => .nan
  | .inf s, .inf t => .inf (s != t)
  | .inf s, .fin t m _ => if m = 0 then .nan else .inf (s != t)
  | .fin s m _, .inf t => if m = 0 then .nan else .inf (s != t)
  | .fin s m e, .fin t n f => .fin (s != t) (m * n) (e + f)

/-- The signed integer of a finite value at exponent `g`, which is not above its own. -/
def signedAt (s : Bool) (m : Nat) (e g : Int) : Int :=
  let v : Int := m * 2 ^ (e - g).toNat
  if s then -v else v

/-- Exact sum; an exact zero is +0 unless both terms are −0 (R108). -/
def FV.add (a b : FV) : FV :=
  match a, b with
  | .nan, _ => .nan
  | _, .nan => .nan
  | .inf s, .inf t => if s = t then .inf s else .nan
  | .inf s, _ => .inf s
  | _, .inf t => .inf t
  | .fin s m e, .fin t n f =>
    let g := min e f
    let v := signedAt s m e g + signedAt t n f g
    if v = 0 then .fin (s && t && m == 0 && n == 0) 0 0 else .fin (decide (v < 0)) v.natAbs g

def FV.sub (a b : FV) : FV := a.add b.neg

/-- Order on values without NaN, with −0 = +0: a < b. -/
def FV.lt (a b : FV) : Bool :=
  match a, b with
  | .nan, _ => false
  | _, .nan => false
  | .inf s, .inf t => s && !t
  | .inf s, _ => s
  | _, .inf t => !t
  | .fin s m e, .fin t n f => decide (signedAt s m e (min e f) < signedAt t n f (min e f))

/-- Equality of values without NaN. -/
def FV.same (a b : FV) : Bool :=
  match a, b with
  | .nan, _ => false
  | _, .nan => false
  | .inf s, .inf t => s == t
  | .fin s m e, .fin t n f => decide (signedAt s m e (min e f) = signedAt t n f (min e f))
  | _, _ => false

def FV.isNeg : FV → Bool
  | .nan => false
  | .inf s => s
  | .fin s _ _ => s

/-- Minimum and maximum of R121: NaN with a NaN, −0 below +0. -/
def FV.min (a b : FV) : FV :=
  if a.isNan || b.isNan then .nan
  else if a.lt b then a else if b.lt a then b else if a.isNeg then a else b

def FV.max (a b : FV) : FV :=
  if a.isNan || b.isNan then .nan
  else if a.lt b then b else if b.lt a then a else if a.isNeg then b else a

/-! ### Formats by code (table *Format codes*) -/

/-- The floating-point format of a code's elements. -/
def fmtOf (c : Nat) : Option FpFmt :=
  match c with
  | 0 => some fp32
  | 1 => some bf16
  | 2 => some fp16
  | 3 => some e5m2
  | 4 => some e4m3
  | 5 => some e2m1
  | 6 => some e5m2
  | 7 => some e4m3
  | 8 => some e3m2
  | 9 => some e2m3
  | 10 => some e2m1
  | _ => none

def isMx (c : Nat) : Bool := decide (6 ≤ c) && decide (c ≤ 10)

/-- Unscaled floating-point formats of R542. -/
def isPlainFp (c : Nat) : Bool := decide (c ≤ 5)

/-- Bits of an element (R97, R100). -/
def widthOf (c : Nat) : Nat :=
  match c with
  | 0 => 32 | 1 => 16 | 2 => 16 | 3 => 8 | 4 => 8 | 5 => 4 | 6 => 8 | 7 => 8 | 8 => 6 | 9 => 6 | 10 => 4 | 11 => 8 | 12 => 1
  | 13 => 32 | 14 => 32 | 15 => 64 | _ => 8

/-- Element `k` of width `w` bits in a tensor at byte `a`: the packed stream of R100. -/
def elem (m : Mem) (a w k : Nat) : Nat :=
  let o := w * k
  leNat (m.readN (a + o / 8) ((o % 8 + w + 7) / 8)) / 2 ^ (o % 8) % 2 ^ w

/-- Write element `k`; other bits of a shared byte keep their contents (R542). -/
def setElem (m : Mem) (a w k v : Nat) : Mem :=
  let o := w * k
  let n := (o % 8 + w + 7) / 8
  let old := leNat (m.readN (a + o / 8) n)
  let new := old % 2 ^ (o % 8) + v % 2 ^ w * 2 ^ (o % 8) + old / 2 ^ (o % 8 + w) * 2 ^ (o % 8 + w)
  m.writeN (a + o / 8) (leBytes n new)

/-- Bytes that `n` elements of width `w` take. -/
def streamBytes (w n : Nat) : Nat := (w * n + 7) / 8

/-- The value of an element code under its block scale (R101); an unscaled format takes scale 0x7F. -/
def scaled (c code scale : Nat) : FV :=
  if isMx c && scale == 0xFF then .nan
  else
    match fmtOf c with
    | some f =>
      match f.decode code with
      | .fin s m e => .fin s m (e + (if isMx c then (scale : Int) - 127 else 0))
      | v => v
    | none => if c = 11 then ofInt (untwos 8 code) else if c = 13 then ofInt (untwos 32 code) else .nan

/-! ### Philox-4x32-10 (R58) -/

def philoxRound (k0 k1 : Nat) (c : Nat × Nat × Nat × Nat) : Nat × Nat × Nat × Nat :=
  let p0 := 0xD2511F53 * c.1
  let p1 := 0xCD9E8D57 * c.2.2.1
  ((p1 / 2 ^ 32) ^^^ c.2.1 ^^^ k0, p1 % 2 ^ 32, (p0 / 2 ^ 32) ^^^ c.2.2.2 ^^^ k1, p0 % 2 ^ 32)

def philoxRounds : Nat → Nat → Nat → Nat × Nat × Nat × Nat → Nat × Nat × Nat × Nat
  | 0, _, _, c => c
  | n + 1, k0, k1, c =>
    philoxRounds n ((k0 + 0x9E3779B9) % 2 ^ 32) ((k1 + 0xBB67AE85) % 2 ^ 32) (philoxRound k0 k1 c)

/-- The random word of an element (table *Philox key and counter*). -/
def randomWord (seed tensor purpose draw i : Nat) : Nat :=
  let q := i / 4
  let c := philoxRounds 10 (seed % 2 ^ 32) (seed / 2 ^ 32 % 2 ^ 32)
    (q % 2 ^ 32, q / 2 ^ 32 % 2 ^ 32, tensor % 2 ^ 32, purpose * 2 ^ 24 + draw % 2 ^ 24)
  match i % 4 with
  | 0 => c.1
  | 1 => c.2.1
  | 2 => c.2.2.1
  | _ => c.2.2.2

/-! ### Closure formats (R46 to R56) -/

/-- ceil(log2 n): headroom of n contributors (R49). -/
def headroom (n : Nat) : Nat := if n ≤ 1 then 0 else Nat.log2 (n - 1) + 1

/-- Fraction bits of a closure format of `w` bits (R51). -/
def fracBits (w n : Nat) : Nat := w - 1 - headroom n

/-- The datum byte of one value: its FP32 biased exponent; infinities and NaNs give 0 (R46). -/
def datumOf (x : FV) : Nat :=
  match round32 false x with
  | .fin s m e => fp32.narrow false none (.fin s m e) / 2 ^ 23 % 256
  | _ => 0

/-- Exponent of the grid step u of a bucket (R48, R51). -/
def stepExp (w n d : Nat) : Int := (max d 1 : Nat) - 126 - (fracBits w n : Int)

/-- Poison of a closure format. -/
def closurePoison (w : Nat) : Nat := 2 ^ (w - 1)

/-- Conversion to closure form (R52, R54). -/
def toClosure (w n d : Nat) (x : FV) : Nat :=
  match round32 false x with
  | .fin s m e =>
    let q := min (roundAt m e (stepExp w n d) none) (2 ^ fracBits w n - 1)
    twos w (if s then -(q : Int) else q)
  | _ => closurePoison w

/-- Closure addition: wraps, and poison absorbs (R54, R56). -/
def closureAdd (w a b : Nat) : Nat :=
  if a = closurePoison w ∨ b = closurePoison w then closurePoison w else (a + b) % 2 ^ w

/-- The exact value of a closure sum, or NaN for poison (R54, R55). -/
def closureValue (w n d q : Nat) : FV :=
  if q = closurePoison w then .nan
  else
    let v := untwos w q
    if v = 0 then .fin false 0 0 else .fin (decide (v < 0)) v.natAbs (stepExp w n d)

/-! ### Fixed functions of the vector unit (R125) -/

/-- The four fixed functions. -/
inductive FixFun where
  | exp | log | rcp | rsqrt
  deriving DecidableEq, Repr

/-- The largest error of a function's normal results, in ulp (table *Vector fixed functions*). -/
def FixFun.bound (f : FixFun) : Nat :=
  match f with
  | .exp => 2
  | .log => 2
  | .rcp => 1
  | .rsqrt => 1

/-- The exact value of a finite number. -/
def FV.rat (x : FV) : Rat :=
  match x with
  | .fin s m e => (if s then -1 else 1) * m * (2 : Rat) ^ e
  | _ => 0

/-- Bounds of e^q · 2^192 for 0 ≤ q ≤ 128: 400 terms of the series, rounded down and rounded up. -/
def expEnds (q : Rat) : Nat × Nat :=
  let one : Nat := 2 ^ 192
  let lo := (q * (one : Rat)).floor.toNat
  let hi := lo + 1
  let (sl, _, sh, th) := (List.range 400).foldl
    (fun (sl, tl, sh, th) (i : Nat) => (sl + tl, tl * lo / (one * (i + 1)), sh + th, th * hi / (one * (i + 1)) + 1)) ((0, one, 0, one) : Nat × Nat × Nat × Nat)
  (sl, sh + 2 * th)

/-- Compare `v` ≥ 0 with |f(x)|; equal where the bounds of e^q leave the two too close to tell. -/
def cmpFix (f : FixFun) (x v : Rat) : Ordering :=
  let order := fun (lo hi y : Rat) => if hi < y then Ordering.lt else if y < lo then Ordering.gt else Ordering.eq
  match f with
  | .exp =>
    if 128 < x then .lt
    else if x < -128 then .gt
    else
      let (lo, hi) := expEnds |x|
      if 0 ≤ x then (order lo hi (v * 2 ^ 192)).swap else order (v * lo) (v * hi) (2 ^ 192)
  | .log =>
    if 128 < v then .gt
    else
      let (lo, hi) := expEnds v
      order lo hi ((if 1 ≤ x then x else 1 / x) * 2 ^ 192)
  | .rcp => order (v * |x|) (v * |x|) 1
  | .rsqrt => order (v * v * x) (v * v * x) 1

/-- The largest FP32 code whose value is at most |f(x)|. -/
def fixCode (f : FixFun) (x : Rat) : Nat :=
  (List.range 31).reverse.foldl
    (fun c i =>
      let c' := c + 2 ^ i
      if 0x7F800000 ≤ c' || cmpFix f x (fp32.decode c').rat == .gt then c else c') 0

/-- Whether a result is negative. -/
def FixFun.neg (f : FixFun) (x : Rat) : Bool :=
  match f with
  | .log => decide (x < 1)
  | .rcp => decide (x < 0)
  | _ => false

/-- Magnitude of a normal result whose exact value has `c` as the largest code not above it: the hardware's choice `b` among the codes from
c − bound to c + bound that lie within the bound of the exact value. An ulp is the spacing of FP32 at `c` (DESIGN CHOICE, log 6). -/
def normalCode (f : FixFun) (x : Rat) (c b : Nat) : Nat :=
  let ulp := (2 : Rat) ^ ((c / 2 ^ 23 : Nat) - 150 : Int)
  let pick := c + b % (2 * f.bound + 1) - f.bound
  let v := (fp32.decode pick).rat
  if decide (pick < 0x7F800000) && cmpFix f x (v + f.bound * ulp) != .lt && cmpFix f x (v - f.bound * ulp) != .gt then pick else c

/-- Magnitude of a subnormal result: the exact value where the grid holds it, otherwise the hardware's choice of its two neighbours on the grid
(R99; DESIGN CHOICE, log 6). -/
def subnormalCode (f : FixFun) (x : Rat) (c b : Nat) : Nat := if cmpFix f x (fp32.decode c).rat == .eq then c else c + b % 2

/-- The fixed function's value on FP32 operands that no special case takes (R99, R125; log 6): an infinity where the exact value is at or above
2^128; `free` is what the hardware chooses where the manual leaves a choice. -/
def fixedFun (f : FixFun) (free : W32 → W32) (x : FV) : FV :=
  let b := (free (BitVec.ofNat 32 (fp32.narrow false none x))).toNat
  let r := x.rat
  let c := fixCode f r
  if c == 0x7F7FFFFF && cmpFix f r (2 ^ 128) != .gt then .inf (f.neg r)
  else fp32.decode ((if c < 0x800000 then subnormalCode f r c b else normalCode f r c b) + bitAt (f.neg r) 31)

def fvOne : FV := .fin false 1 0

def fvExp (x : FV) : FV :=
  match x with
  | .nan => .nan
  | .inf s => if s then .fin false 0 0 else .inf false
  | .fin _ m _ => if m = 0 then fvOne else fixedFun .exp Config.expBits x

def fvLog (x : FV) : FV :=
  match x with
  | .nan => .nan
  | .inf s => if s then .nan else .inf false
  | .fin s m _ => if m = 0 then .inf true else if s then .nan else if x.same fvOne then .fin false 0 0 else fixedFun .log Config.logBits x

def fvRcp (x : FV) : FV :=
  match x with
  | .nan => .nan
  | .inf s => .fin s 0 0
  | .fin s m _ => if m = 0 then .inf s else fixedFun .rcp Config.rcpBits x

def fvRsqrt (x : FV) : FV :=
  match x with
  | .nan => .nan
  | .inf s => if s then .nan else .fin false 0 0
  | .fin s m _ => if m = 0 then .inf s else if s then .nan else fixedFun .rsqrt Config.rsqrtBits x

/-! ### Conversion to an MX block (R119) -/

/-- emax of the element formats. -/
def emaxOf (c : Nat) : Int :=
  match c with
  | 6 => 15
  | 7 => 8
  | 8 => 4
  | _ => 2

/-- floor(log2 |x|) of a finite nonzero value. -/
def floorLog2 (m : Nat) (e : Int) : Int := (Nat.log2 m : Int) + e

/-- Largest magnitude among finite values, infinities counting as the FP32 largest under SATURATE. -/
def amaxOf (sat : Bool) (xs : List FV) : FV :=
  xs.foldl (fun acc x =>
    match x with
    | .nan => acc
    | .inf _ => if sat then FV.max acc (.fin false fp32.top.1 fp32.top.2) else acc
    | y => FV.max acc y.abs) (.fin false 0 0)

/-- A block of 32 FP32 values as an MX block: its scale and its element codes; `w` gives each element's random word. -/
def toMx (c : Nat) (sat : Bool) (w : Nat → Option Nat) (xs : List FV) : Nat × List Nat :=
  let f := (fmtOf c).getD e2m1
  if xs.any FV.isNan || (!sat && xs.any FV.isInf) then (0xFF, xs.map fun _ => 0)
  else
    match amaxOf sat xs with
    | .fin _ m e =>
      if m = 0 then (0, xs.map fun _ => 0)
      else
        let se := max (-127) (min 127 (floorLog2 m e - emaxOf c))
        ((se + 127).toNat, xs.zipIdx.map fun (x, j) =>
          f.narrow sat (w j) (match x with | .fin s m e => .fin s m (e - se) | v => v))
    | _ => (0xFF, xs.map fun _ => 0)

end Sys2Proof.Machine
end

