-- ==== Sys2Proof/Machine/BlockTypes.lean ====
section
/-! DEFINITION. State of a block (05_array_dataflow, 06_block). -/

namespace Sys2Proof.Machine

/-- Segment states (R182). -/
inductive Seg where
  | free | owned | filling | lent | ready
  deriving DecidableEq, Repr

/-- A segment: its state, local writers that hold it in FILLING, whether a peg's landing is in progress in it, and whether a peg
of it was ended by a window close while it was FILLING (R183). -/
structure SegSt where
  st : Seg := .free
  writers : Nat := 0
  landing : Bool := false
  ended : Bool := false
  deriving DecidableEq, Repr

/-- A LOOP in progress: first and last bundle of its body, and trips left (R163). -/
structure LoopSt where
  first : Nat
  last : Nat
  left : Nat
  deriving DecidableEq, Repr

/-- A part of an array instruction: its descriptor as read at issue (R144), the segments that its drain may write (R148), the granules
fed and the bytes that the feeder has delivered, its fault with the column named, and, from its first drain write on, the segments
that it holds in FILLING. -/
structure ArrPart where
  part : Nat
  desc : List Byte
  may : List Nat
  fed : Nat := 0
  got : Mem := []
  fault : Option (Nat × Nat) := none
  held : Option (List Nat) := none
  deriving DecidableEq, Repr

/-- An array instruction held (R147): its slot, its tile number (R133) and the parts that have not posted. -/
structure ArrOp where
  word : Nat
  num : Nat
  parts : List ArrPart
  deriving DecidableEq, Repr

/-- What the engine slots of a bundle read in its BCLK of issue: the descriptors of the array's parts, of the vector instruction and of the
DMA slot (R159). -/
structure SlotReads where
  tiles : List (List Byte) := []
  vec : List Byte := []
  dma : List Byte := []
  deriving DecidableEq, Repr

/-- A vector instruction in the queue: its slot, its descriptor as read at issue, the elements it has processed, and, from its first write
on, the destination segments that it holds in FILLING (R168). -/
structure VecOp where
  word : Nat
  desc : List Byte
  done : Nat := 0
  held : Option (List Nat) := none
  deriving DecidableEq, Repr

/-- A DMA descriptor in progress (R169): a number of the model's own, its kind and index, its counter, and the destination segments it
holds. A local one also has its bytes as read at issue, the bytes that it moves (R170) and has moved, and whether its record of a lost
region stands (R463). -/
structure DmaOp where
  id : Nat
  kind : Nat
  desc : Nat
  post : Nat
  segs : List Nat
  raw : List Byte := []
  len : Nat := 0
  moved : Nat := 0
  cut : Bool := false
  deriving DecidableEq, Repr

/-- The scalar core (R172 to R174). Registers x1 to x31 by number. -/
structure Scalar where
  running : Bool := false
  pc : Nat := 0
  x : Table W64 := []
  post : Nat := 0
  seg : Nat := 0
  count : Nat := 0
  instret : W64 := 0
  deriving DecidableEq, Repr

/-- One physical block. -/
structure Block where
  /-- Scratchpad bytes (R175). -/
  sp : Mem := []
  seg : Table SegSt := []
  /-- Sync counters (R164). -/
  ctr : Table Nat := []
  /-- First segment plus 1 of each descriptor table, by table code; 0 for no base (R161). -/
  base : Table Nat := []
  imem : Mem := []
  dmem : Mem := []
  sc : Scalar := {}
  /-- Tasks of the leg that are left, as START and COUNT, the current one first (R191). -/
  tasks : List (Nat × Nat) := []
  /-- Next bundle of the stream. -/
  pos : Nat := 0
  /-- Inline bundles that follow the current bundle (R162). -/
  skip : Nat := 0
  loops : List LoopSt := []
  /-- Entries of the leg's allocation sequence carried out (R185). -/
  alloc : Nat := 0
  halted : Bool := false
  /-- Words of 8 bytes, by offset / 8, in which a double-bit error has been met and which have not been written since (R177). -/
  bad : List Nat := []
  /-- Number of the next tile (R133). -/
  tile : Nat := 0
  arr : List ArrOp := []
  vec : List VecOp := []
  dma : List DmaOp := []
  deriving DecidableEq, Repr

/-- The 272 blocks and the spare maps. Physical block (r, pb) has key 68·r + pb. -/
structure Blocks where
  blk : Table Block := []
  /-- BLOCK_SPARE_MAP in force, 256 entries; none until the driver stages one (R193). -/
  map : Option (List Byte) := none
  /-- Disabled physical columns of each physical block (COLUMN_SPARE_MAP). -/
  cols : Table (List Nat) := []
  /-- Number of the next DMA descriptor to be taken, device-wide. -/
  nextId : Nat := 1
  /-- Logical blocks whose state moves when the next leg starts: logical block, old and new physical block (R194). -/
  moves : List (Nat × Nat × Nat) := []
  deriving DecidableEq, Repr

end Sys2Proof.Machine
end

