-- ==== Sys2Proof/Machine/FabTypes.lean ====
section
/-! DEFINITION. State of the fabric: links, packets, intakes, routing tables and peers (09_fabric). -/

namespace Sys2Proof.Machine

/-- A packet (R282). -/
structure Packet where
  type : Nat
  base : Nat := 0
  hops : Nat := 0
  esc : Bool := false
  dst : Nat := 0
  src : Nat := 0
  epoch : Nat := 0
  escTo : Nat := 0
  jobTag : Nat := 0
  addr : Nat := 0
  /-- TAG_GEN and SEQ_CH: transaction tag, window generation, per-pair sequence number, ordering channel. -/
  tag : Nat := 0
  gen : Nat := 0
  seq : Nat := 0
  ch : Nat := 0
  payload : List Byte := []
  deriving DecidableEq, Repr

/-- A packet that is held: the link it came by and the pool and units whose credit returns when it leaves (R292); the units are 0
for a packet that the device originates. `since` is when it came. -/
structure Carried where
  pkt : Packet
  link : Nat := 0
  pool : Nat := 0
  units : Nat := 0
  since : Nat := 0
  /-- Region in which the packet lies (R463); a tee copy, which uses the lane's COL credit (R489). -/
  region : Nat := 0
  tee : Bool := false
  /-- HOPS as it came, before the receiver raised it (R290). -/
  came : Nat := 0
  /-- The line that must carry it: the lane under test (R288). -/
  lane : Option Nat := none
  /-- An escape hop straight to ESC_TO (R307). -/
  through : Bool := false
  /-- The die-to-die direction by which it came into its region, plus 1: it holds units of the pool at that direction's end (R294). -/
  via : Nat := 0
  deriving DecidableEq, Repr

/-- A packet on its way across the die-to-die ring to a link of another region (R294): the link, and its units that the sender has sent. -/
structure Crossing where
  held : Carried
  key : Nat
  sent : Nat := 0
  deriving DecidableEq, Repr

/-- A link (R280), key 34·port + line in LANE mode and 34·port in BONDED mode; the receive side has the key of the line it
arrives on. -/
structure Link where
  /-- SEQ of the next new flit; unacknowledged flits, oldest first; how many of them have been sent since the last replay began;
  AON time of the last ACK, or of the first flit since the store was empty. -/
  next : Nat := 0
  store : List (List Byte) := []
  sent : Nat := 0
  ackAt : Nat := 0
  /-- AON time plus 1 at which the link's lane left ACTIVE. -/
  downAt : Nat := 0
  /-- Packets that wait for the lane; units in use in the far end's pools; pool served last; COL flow deficits by 8,192·SRC + DST
  (R297), and the flow in turn. -/
  queue : List Carried := []
  used : Table Nat := []
  turn : Nat := 0
  deficit : Table Nat := []
  flow : Nat := 0
  /-- Credit that waits to be returned: pool and units. -/
  returns : List (Nat × Nat) := []
  /-- Bytes of the packet stream that wait for the next flit, and whether packet bytes are among them; in BONDED mode the line that
  carried the last flit (R278, R282). -/
  carry : List Byte := []
  due : Bool := false
  lastLine : Nat := 34
  /-- Receive side: next SEQ, discarding until the replay, NAK owed, packet bytes not yet taken, and the escape stage. -/
  rxNext : Nat := 0
  nak : Bool := false
  nakOwed : Bool := false
  stream : List Byte := []
  stage : List Carried := []
  /-- AON time plus 1 at which the receive side's lane left ACTIVE. -/
  rxDownAt : Nat := 0
  deriving DecidableEq, Repr

/-- A peer (R314), key 34·port + line, or 34·port in BONDED mode. -/
structure Peer where
  /-- Peer state code. -/
  st : Nat := 0
  /-- Body of the last HELLO, 96 bytes; empty before one. -/
  hello : List Byte := []
  helloAt : Nat := 0
  seenAt : Nat := 0
  /-- The challenge in progress: nonce and AON time. -/
  nonce : Nat := 0
  challengedAt : Nat := 0
  /-- AON time before which no CHALLENGE is sent. -/
  notBefore : Nat := 0
  deriving DecidableEq, Repr

/-- The fabric. -/
structure Fabric where
  /-- Device number; none while unnumbered. -/
  number : Option Nat := none
  epoch : Nat := 0
  bank : Nat := 0
  /-- Payloads of the two banks of routing tables; a bank without one holds no valid entry. -/
  banks : Table (List Byte) := []
  /-- Fabric mode: RECOVERY. -/
  recovery : Bool := true
  count : Table Nat := []
  link : Table Link := []
  peer : Table Peer := []
  /-- Packets that wait to enter the escape ring, oldest first, each with the target of a hop that goes on through this device as
  ESC_VIA (R307). -/
  escWait : List (Carried × Option Nat) := []
  /-- Packets that wait for a die-to-die direction, in the pools of the region where they lie (the transit pools among them), and those whose last
flit is under way: direction, number of that flit, packet (R294). -/
  cross : List Crossing := []
  wire : List (Nat × Nat × Crossing) := []
  /-- Packets for this device that wait in their pools for room in an intake, or for tee credit (R310, R489). -/
  inWait : List Carried := []
  /-- Intakes of requests, replies, messages (at most 64) and collective payload. -/
  reqIn : List Carried := []
  rspIn : List Carried := []
  mgtIn : List Carried := []
  colIn : List Carried := []
  /-- ACKs of collective landings that wait for a slot of the reply output, each with its region (R374). -/
  ackWait : List (Nat × Packet) := []
  /-- Bytes each flow has sent on each of its lanes: key ((8,192·SRC + DST)·16 + port)·34 + line; and the usable lane list entries among
  which a flow 8,192·SRC + DST has been spread since these counts began (R297). -/
  share : Table Nat := []
  spread : Table (List Nat) := []
  /-- Congestion samples of the leg; counts at key (7·(34·port + position) + class)·4 + bin; flits sent per position (R316). -/
  samples : Nat := 0
  bins : Table Nat := []
  flits : Table Nat := []
  /-- `FAB_CONG`, and `CONG_SEQ` (R535). -/
  cong : Mem := []
  congSeq : Nat := 0
  /-- Latest station marker of each device, as received (R83). -/
  marker : Table (List Byte) := []
  deriving DecidableEq, Repr

end Sys2Proof.Machine
end

