-- ==== Sys2Proof/Machine/HbmTypes.lean ====
section
/-! DEFINITION. State of the HBM4 memory, the die-to-die links and the mesh (07_hbm_memory, R454). -/

namespace Sys2Proof.Machine

/-- An entry of a write-combining buffer (R211): a physical line, its byte mask and its 64 bytes. -/
structure WcEntry where
  line : Nat
  mask : Nat
  data : List Byte
  deriving DecidableEq, Repr

/-- A region's page mapper (R205 to R208). `boot` lists the channels that trained at boot, ascending; the table's entry for
a virtual frame is the rule of R207 over them unless `moved` lists the frame, with its physical frame plus 1. -/
structure PMap where
  boot : List Nat := []
  moved : Table Nat := []
  space : Nat := 0
  usable : Nat := 0
  /-- `PMAP_STATUS_r.RETIRED`. -/
  retired : Nat := 0
  deriving DecidableEq, Repr

/-- Uncorrectable rows of a channel seen in one AON second (R216). -/
structure RowCell where
  second : Nat := 0
  rows : List Nat := []
  deriving DecidableEq, Repr

/-- A frame move recorded at step 5 and carried out at step 8 (R222). -/
structure Move where
  region : Nat
  v : Nat
  src : Nat
  dst : Nat
  deriving DecidableEq, Repr

/-- The 512 GiB of HBM. A physical line is numbered region·2^31 + frame·2^15 + line of the frame; physical frame
1,024·channel + index lies in its channel. -/
structure Hbm where
  /-- Physical bytes, 64·line + byte. Zero unless written (R207). -/
  dram : Mem := []
  /-- Physical lines whose poison marker is set. -/
  poison : Table Bool := []
  /-- Physical lines whose code has reported an uncorrectable error since their last write, with the row, its pseudo-channel in bit 0,
  plus 1: the DRAM's own condition (log 40). -/
  bad : Table Nat := []
  /-- Write-combining buffers by channel 64·r + c, most recently written entry first. -/
  wcb : Table (List WcEntry) := []
  pmap : Table PMap := []
  chanFailed : Table Bool := []
  chanMapout : Table Bool := []
  /-- Corrected reads per channel (R202). -/
  corrected : Table Nat := []
  rows : Table RowCell := []
  /-- Next line of a channel that patrol scrub reads (R203). -/
  scrub : Table Nat := []
  /-- `HBM_REFRESH.DOUBLE` by stack; stacks of a region in self-refresh. -/
  double : Table Bool := []
  selfRefresh : Table Bool := []
  /-- AON time plus 1 at which a channel lost training (R216). -/
  lostAt : Table Nat := []
  /-- AON time until which a channel is held by refresh or repair. -/
  heldTo : Table Nat := []
  moves : List Move := []
  /-- What the memories' codes report to the reads of the step in hand; empty between steps. -/
  meet : List ReadErr := []
  deriving DecidableEq, Repr

/-- One direction of a die-to-die link (R229 to R233). -/
structure D2dDir where
  /-- Failed physical lanes, ascending; those that the present retrain takes out. -/
  failed : List Nat := []
  fresh : List Nat := []
  retraining : Bool := false
  /-- Width code in effect. -/
  width : Nat := 0
  /-- The direction has stopped sending training symbols. -/
  silent : Bool := false
  /-- Sender: flits that it has sent for the first time, the bytes of the last 128 of them, oldest first, and the number of the flit that it sends
next (R229); the pool of a crossing packet that it served last (R24). -/
  txNew : Nat := 0
  kept : List (List Byte) := []
  txNext : Nat := 0
  turn : Nat := 0
  /-- Receiver: number of the next flit that it takes, and the flit from which it has asked for a replay. -/
  rxNext : Nat := 0
  asked : Option Nat := none
  deriving DecidableEq, Repr

/-- The die-to-die ring, key 2·l for clockwise and 2·l + 1 for counter-clockwise, and the meshes. -/
structure Ring where
  dir : Table D2dDir := []
  /-- Links declared down. -/
  down : Table Bool := []
  /-- The fabric reference is lost, as the last monitor window saw it (R35). -/
  refLost : Bool := false
  /-- Failing receipts in a row of one mesh link, by its key (R454). -/
  meshFails : Table Nat := []
  deriving DecidableEq, Repr

end Sys2Proof.Machine
end

