-- ==== Sys2Proof/Machine/HostTypes.lean ====
section
/-! DEFINITION. State of the host interface (12_host_interface) and of error records (14_faults_sparing). -/

namespace Sys2Proof.Machine

/-- The device states of R5. -/
inductive Dev where
  | off | boot | ready | run | backsight | bivouac | fenced | fault
  deriving DecidableEq, Repr

/-- One command ring: `CMD_RING_BASE_i`, `CMD_RING_CFG_i`, `CMD_RING_STATUS_i` and the latest producer index (R393). -/
structure CmdRing where
  base : W64 := 0
  enable : Bool := false
  prio : Bool := false
  log2 : Nat := 4
  cpl : Nat := 0
  error : Bool := false
  /-- A producer index out of range has stopped the ring (R393). -/
  stop : Bool := false
  ci : Nat := 0
  pi : Nat := 0
  deriving DecidableEq, Repr

/-- One completion ring, or the event ring: base, configuration, status, interrupt settings and the consumer index.
`seq` counts entries written since enabling; SEQ and PI are views of it (R402). `unsig` entries wait for an
interrupt, the oldest written at `oldest` (R411). -/
structure OutRing where
  base : W64 := 0
  enable : Bool := false
  log2 : Nat := 4
  vector : Nat := 0
  error : Bool := false
  seq : Nat := 0
  ci : Nat := 0
  irqTime : Nat := 0
  irqCount : Nat := 1
  unsig : Nat := 0
  oldest : Nat := 0
  deriving DecidableEq, Repr

/-- The negotiated rate of the PCIe link (R386): lanes (1, 2, 4 or 8), and speed as its generation, 1 for 2.5 GT/s up to 7 for
128 GT/s. -/
structure LinkRate where
  width : Nat := 0
  speed : Nat := 0
  deriving DecidableEq, Repr

/-- One entry of the MSI-X table. The mask bit is set at reset (PRESUMED, log 20). -/
structure Msix where
  addr : W64 := 0
  data : W32 := 0
  mask : Bool := true
  deriving DecidableEq, Repr

/-- A command that has been taken and has not completed (R396), with its operands (R395). `cpl` is the completion ring that its command
ring was bound to when it was taken; `lost` says that this ring has been disabled since, so that the completion is lost (R391). -/
structure InCmd where
  id : Nat
  ring : Nat
  cpl : Nat := 0
  lost : Bool := false
  opcode : Nat
  tag : Nat
  arg0 : Nat
  arg1 : Nat
  arg2 : Nat
  arg3 : Nat
  arg4 : Nat
  deriving DecidableEq, Repr

/-- What a completion entry carries beside SEQ and PHASE. -/
structure Cpl where
  ring : Nat
  tag : Nat
  opcode : Nat
  status : Nat
  value : Nat
  deriving DecidableEq, Repr

/-- What an event entry carries beside SEQ and PHASE, fixed when the event is raised. -/
structure Event where
  code : Nat
  cls : Nat
  body : List Byte
  aon : Nat
  station : Nat
  tag : Nat
  deriving DecidableEq, Repr

/-- A write that the device makes on its own account and holds while the PCIe link is down (R389). -/
inductive Held where
  | cpl (j : Nat) (c : Cpl)
  | evt (e : Event)
  | station (addr : Nat) (bytes : List Byte)
  deriving DecidableEq, Repr

/-- A host DMA in progress (R398): its command, the station it waits for, and once it has moved its status and bytes moved. -/
structure HostDma where
  cmd : Nat
  station : Option Nat := none
  moved : Option (Nat × Nat) := none
  deriving DecidableEq, Repr

/-- The host interface. -/
structure HostIf where
  /-- The host reaches the function: the PCIe link is trained and the function is in D0; the link has been trained since the package reset. -/
  linkUp : Bool := false
  trained : Bool := false
  /-- AON time at which the link went down. -/
  downSince : Nat := 0
  /-- Negotiated width and speed; sticky AER status; the link is trained and the function is in D3hot (R386; log 115). -/
  rate : LinkRate := {}
  aer : Nat := 0
  d3hot : Bool := false
  /-- LINK_RESTORED waits for a free entry, and everything held waits behind it. -/
  restoring : Bool := false
  /-- Held writes while the link is down, oldest first. -/
  held : List Held := []
  cmd : Table CmdRing := []
  cpl : Table OutRing := []
  evt : OutRing := {}
  /-- Events that wait for a free entry, oldest first, at most 1,024 (R409). -/
  evtWait : List Event := []
  /-- Events discarded since the last EVENT_OVERFLOW. -/
  discarded : Nat := 0
  /-- Completions that wait for a free entry of their ring (R392), oldest first. -/
  cplWait : List (Nat × Cpl) := []
  fmBase : W64 := 0
  fmEnable : Bool := false
  fmSlots : Nat := 0
  /-- Messages placed since the buffer was enabled. -/
  fmCount : Nat := 0
  /-- Per slot: 0 never used; 1 its event is not written yet; q + 2 its event has sequence number q. -/
  fmSlot : Table Nat := []
  msix : Table Msix := []
  /-- The pending-bit array. -/
  pba : Table Bool := []
  /-- Interrupts sent, per vector: the model's own record of what has left the device (log 20). -/
  irqSent : Table Nat := []
  /-- Commands in progress, in the order taken. -/
  cmds : List InCmd := []
  dmas : List HostDma := []
  /-- Number of the next command to be taken (the model's own name for a command in progress). -/
  nextId : Nat := 0
  /-- Ring after the one served last, for round-robin, among the rings without PRIO and among those with it (R396). -/
  turn : Nat := 0
  turnPrio : Nat := 0
  /-- Host address ranges (low, length) whose reads return an error completion: a fact about the host (log 21). -/
  badHost : List (Nat × Nat) := []
  deriving DecidableEq, Repr

/-- The 64-byte error record of R449. -/
structure Record where
  level : Nat := 0
  cls : Nat := 0
  flags : Nat := 0
  code : Nat := 0
  region : Option Nat := none
  pb : Nat := 0xFF
  lb : Nat := 0xFF
  part : Nat := 0xFF
  sub : Nat := 0xFFFF
  lane : Nat := 0xFFFF
  station : Nat := 0
  tag : Nat := 0
  seq : Nat := 0
  address : Nat := 0
  detail : Nat := 0
  cause : Nat := 0
  count : Nat := 1
  deriving DecidableEq, Repr

/-- Corrected records of one code and unit in one AON second (R451). -/
structure RateCell where
  second : Nat := 0
  written : Nat := 0
  withheld : Nat := 0
  deriving DecidableEq, Repr

/-- A region's state (`REGION_STATUS`). -/
inductive RegionMode where
  | up | lost | resetting | test
  deriving DecidableEq, Repr

/-- Service state of a region. `cause` is the last loss cause, of which the register shows two bits. -/
structure Region where
  mode : RegionMode := .up
  cause : Nat := 0
  /-- The RESET_REGION in progress, and whether its step 2 has kept the HBM contents (R465). -/
  cmd : Option Nat := none
  keep : Bool := false
  deriving DecidableEq, Repr

/-- `TEST_RESULT_r`. -/
structure TestResult where
  mode : Nat := 0
  done : Bool := false
  pass : Bool := false
  failed : Nat := 0
  errors : Nat := 0
  deriving DecidableEq, Repr

/-- Error records, failure marks, region status and tests. -/
structure Faults where
  /-- SEQ of the next record (R450). -/
  seq : Nat := 0
  /-- `ERR_LOG`, entry SEQ mod 256. -/
  log : Table Record := []
  /-- `ERR_COUNT_k`. -/
  count : Table Nat := []
  /-- Corrected records per code and unit (R451). -/
  rate : Table RateCell := []
  /-- Failure marks of physical blocks, key 68·r + pb (`BLOCK_HEALTH_r`). -/
  blockFailed : Table Bool := []
  /-- Failed physical columns of block 68·r + pb, lowest first (`COL_FAILED_r`). -/
  colFailed : Table (List Nat) := []
  /-- SP_UNCORRECTABLE occurrences since the physical block was last reset (R458). -/
  spUnc : Table Nat := []
  region : Table Region := []
  /-- Spare pools whose exhaustion has been told: kind, region, unit, direction (R455). -/
  spareTold : List (Nat × Nat × Nat × Nat) := []
  /-- TEST_CTRL.PARAM, REFUSED, BUSY, REGIONS, MODE. -/
  testParam : Nat := 0
  testRefused : Bool := false
  testBusy : Bool := false
  testRegions : Nat := 0
  testMode : Nat := 0
  testResult : Table TestResult := []
  deriving DecidableEq, Repr

end Sys2Proof.Machine
end

