-- ==== Sys2Proof/Machine/IdTypes.lean ====
section
/-! DEFINITION. State of boot, firmware image and identity (16_boot_identity), and of the MCTP endpoint. -/

namespace Sys2Proof.Machine

/-- A message that the device has put on an MCTP transport. Layouts that the manual leaves to the DMTF standards are not spelled out
(log 85): the message holds what the manual says that it carries. -/
inductive MctpMsg where
  /-- Answer to Set Endpoint ID. -/
  | endpoint (eid : Nat)
  /-- Answer to Get Vendor Defined Message Support: the enterprise number. -/
  | vendor (number : Nat)
  /-- The body of a ration response (R425). -/
  | ration (body : List Byte)
  /-- VERSION: versions as major and minor number. -/
  | version (vs : List (Nat × Nat))
  /-- CAPABILITIES: CERT_CAP, CHAL_CAP, and MEAS_CAP with signatures. -/
  | capabilities (cert chal measSigned : Bool)
  /-- ALGORITHMS: ECDSA P-256, SHA-256, and DMTF measurements with SHA-256. -/
  | algorithms
  | digests (slot0 : List Byte)
  /-- CERTIFICATE: a part of slot 0's chain, and the bytes that are left after it. -/
  | certificate (part : List Byte) (left : Nat)
  | challengeAuth (nonce : Nat) (summary : List Byte) (signature : Nat)
  /-- MEASUREMENTS: number of measurements, those reported as index and bytes, and the signature where one was asked for. -/
  | measurements (number : Nat) (blocks : List (Nat × List Byte)) (signature : Option Nat)
  /-- ERROR with its code: 1 InvalidRequest, 4 UnexpectedRequest, 7 UnsupportedRequest. -/
  | error (code : Nat)
  /-- ERROR ResponseNotReady, with the request's code and the token under which its response may be fetched. -/
  | notReady (code token : Nat)
  deriving DecidableEq, Repr

/-- One SPDM connection (R510): how far it has come (0 none, 1 after VERSION, 2 after CAPABILITIES, 3 after ALGORITHMS), the
responses that a signature of the connection covers, and the response that was not ready, with its request's code and its token. -/
structure SpdmConn where
  st : Nat := 0
  log : List MctpMsg := []
  later : Option (Nat × Nat × MctpMsg) := none
  deriving DecidableEq, Repr

/-- An MCTP transport (R509): endpoint ID, its connection, and the last message that the device has put on it. -/
structure McTransport where
  eid : Nat := 0
  conn : SpdmConn := {}
  out : Option MctpMsg := none
  deriving DecidableEq, Repr

/-- Boot, fuses and identity. -/
structure Ident where
  /-- OTP bytes at their OTP offsets; unlisted bytes are 0. The contents at reset are named values (log 81): serial number 1,
  PART_STEP, and four programmed key slots. -/
  otp : Mem := [(0, 1), (8, 0x37), (9, 0x4B), (10, 0xB0), (0x40, 1), (0x60, 2), (0x80, 3), (0xA0, 4)]
  /-- Fuses of SVN, bit 0 first blown, and of KEY_REVOKE. -/
  svnFuses : Nat := 0
  revoked : Nat := 0
  /-- `BOOT_SRC`, `BOOT_STATUS`. -/
  src : Nat := 0
  st : Nat := 0
  result : Nat := 0
  attempts : Nat := 0
  /-- LEN of the load in progress, and the image in management SRAM. -/
  len : Nat := 0
  image : List Byte := []
  /-- VERSION, SVN and key slot of the running image; `SVN_STATUS.COMMIT`. -/
  version : Nat := 0
  svn : Nat := 0
  keyIndex : Nat := 0
  commit : Nat := 0
  /-- A commit is blowing its fuses, one at a time (R503). -/
  blowing : Bool := false
  /-- `MEAS_k`; an unlisted one reads all zeros. -/
  meas : Table (List Byte) := []
  /-- Dynamic address of the I3C target; without one it answers to the static address 0x3A (R509). -/
  i3cAddr : Option Nat := none
  pcie : McTransport := {}
  i3c : McTransport := {}
  deriving DecidableEq, Repr

end Sys2Proof.Machine
end

