-- ==== Sys2Proof/Machine/JobTypes.lean ====
section
/-! DEFINITION. State of the job, its stations, stagings and loaded traverse (02_determinism, 03_stations). -/

namespace Sys2Proof.Machine

/-- The counts of `DET_LEG_r` (R62), each already saturated. -/
structure DetLeg where
  casSwap : Nat := 0
  fetch : Nat := 0
  loadUnord : Nat := 0
  timer : Bool := false
  deriving DecidableEq, Repr

/-- A pending staging (R87): setting identifier, target and payload. Target `none` is the start of the next RUN. -/
structure Staging where
  ident : Nat
  target : Option Nat
  payload : List Byte
  deriving DecidableEq, Repr

/-- One leg of the loaded traverse: its KIND and the parts that lie beside the leg table. -/
structure Leg where
  closed : Bool
  parts : LegParts
  deriving DecidableEq, Repr

/-- The loaded traverse: shape class, legs and bundle streams by global logical block number. -/
structure Traverse where
  classBlocks : List Nat
  classFrames : List Nat
  legs : List Leg
  streams : List (Fin 256 × List (BitVec 256))
  deriving DecidableEq, Repr

/-- A LOAD_TRAVERSE whose margin test is not over (R265): the traverse, or none where it breaks a rule, and the lanes not yet
answered for as port and line. -/
structure Loading where
  cmd : Nat
  trav : Option Traverse
  lanes : List (Nat × Nat)
  deriving DecidableEq, Repr

/-- Where a RUN stands. In `closedWait` steps 1 to 3 of station N are done and step 4 waits; in `atStation` steps 5 to
7 are done and what names N must complete before step 8 (R398, R481); `parked` follows step 8 with PARK pending. -/
inductive Phase where
  | leg | closedWait | atStation | parked
  deriving DecidableEq, Repr

/-- A RUN or BACKSIGHT execution in progress. -/
structure Run where
  /-- The host command that it completes. -/
  cmd : Nat
  /-- Base station B, legs L and current leg j from 1; legs of the traverse that lie before the base, for an execution that goes on from a
BACKSIGHT (R494). -/
  base : Nat
  legs : Nat
  j : Nat
  /-- Station record buffer and slot count (R84). -/
  buf : Nat
  slots : Nat
  phase : Phase
  /-- AON time of the leg's start (R94), and watchdog periods already reported. -/
  legStart : Nat
  overdue : Nat
  /-- Global logical blocks that have executed STATION in this leg (R74). -/
  arrived : List Nat
  /-- DRAINED is owed for a DRAIN_CHECK (R80), a DRAIN_CHECK has come, and the AON time of the last ARRIVED (R286). -/
  drainAsked : Bool
  drainSeen : Bool := false
  arrivedAt : Nat
  /-- Record fields sealed at step 3: digests of regions 0-3, DET_LEG of regions 0-3, energy and duration. -/
  sealDigest : List Nat
  sealDet : List DetLeg
  sealEnergy : Nat
  sealAon : Nat
  /-- Job tag in force during the leg, and whether the station is closed. -/
  sealTag : Nat := 0
  sealClosed : Bool := false
  first : Nat := 0
  deriving DecidableEq, Repr

/-- The job and the settings of chapters 02 and 03. -/
structure Job where
  /-- Job tag in force; 0 is none (R401). -/
  tag : Nat := 0
  /-- Digest key, 128 bits, write-only (R67). -/
  key : Nat := 0
  /-- Job seed of the last RUN. -/
  seed : Nat := 0
  /-- `STATION_NOW`. -/
  last : Nat := 0
  valid : Bool := false
  /-- `DET_CTRL`. -/
  strict : Bool := false
  profile : Bool := false
  /-- `LEG_WDOG.PERIOD`. -/
  wdog : Nat := 10000
  /-- Digests of the current leg per region, and `STATION_DIGEST_r` (R65, R534). -/
  liveDigest : Table Nat := []
  digest : Table Nat := []
  /-- Counts of the current leg, and `DET_LEG_r` (R62). -/
  liveDet : Table DetLeg := []
  detLeg : Table DetLeg := []
  /-- Pending stagings in the order made (R88), and the device's own column stagings: target, block 68·r + pb and
  physical column (R456). -/
  stage : List Staging := []
  ownCols : List (Option Nat × Nat × Nat) := []
  /-- `STAGE_STATUS.REG_REFUSED`. -/
  regRefused : Bool := false
  trav : Option Traverse := none
  loading : Option Loading := none
  /-- Latest station marker (R83), and the REACHED markers of closed stations by station: a later SWAP is answered with its own (R286). -/
  marker : List Byte := []
  reached : Table (List Byte) := []
  run : Option Run := none
  deriving DecidableEq, Repr

end Sys2Proof.Machine
end

