-- ==== Sys2Proof/Machine/RmtTypes.lean ====
section
/-! DEFINITION. State of remote memory (10_remote_memory), the remote read cache (R224) and collectives (11_collectives). -/

namespace Sys2Proof.Machine

/-- A window entry (table *Window entry*) with its subscribers. `kind` is 0 NONE, 1 HBM, 2 SCRATCH. -/
structure WinEntry where
  kind : Nat := 0
  flags : Nat := 0
  block : Nat := 0
  base : Nat := 0
  size : Nat := 0
  subs : List Nat := []
  deriving DecidableEq, Repr

/-- A window: state code, generation, the entry in force, the AON time at which CLOSING ends, and the entry that waits for CLOSED
(R322, R323). -/
structure Window where
  st : Nat := 0
  gen : Nat := 0
  entry : WinEntry := {}
  closeAt : Nat := 0
  next : Option WinEntry := none
  deriving DecidableEq, Repr

/-- Timers in µs (R320). -/
structure Timers where
  e2e : Nat := 200
  retries : Nat := 3
  dead : Nat := 100
  drain : Nat := 1000
  deriving DecidableEq, Repr

/-- What a held request waits for (R331, R349, R355): a reply, its channel's earlier packets, a time, the LEND of its peg, or
nothing more, its target being unresponsive. A collective slot's tag, once its grant has come, waits in `granted` until its data is
sent. -/
inductive Wait where
  | reply | order | delay | claim | dead | granted
  deriving DecidableEq, Repr

/-- A tracker entry (R332), key tag: the request as it is sent, the operation it belongs to and its number among the operation's
packets, its issue number, and its sends. -/
structure Req where
  pkt : Packet
  op : Nat
  idx : Nat
  serial : Nat
  wait : Wait := .reply
  firstAt : Nat := 0
  sentAt : Nat := 0
  resumeAt : Nat := 0
  tries : Nat := 0
  /-- A collective slot's, of descriptor `op` and slot `idx` of its sends. -/
  col : Bool := false
  deriving DecidableEq, Repr

/-- A request that has its number and waits for a tag, for its grant, or for its flag to be sent. -/
structure Plan where
  pkt : Packet
  idx : Nat
  serial : Nat
  deriving DecidableEq, Repr

/-- What keeps a remote operation's packets back: nothing, a grant, an earlier store of a flagged one, or the first stage of a
fence. -/
inductive OpHold where
  | none | grant | flag | stage
  deriving DecidableEq, Repr

/-- A remote operation (R326), number of its `DmaOp`; `block` is 68·r + pb, or 272 for the management core. -/
structure RemOp where
  id : Nat
  block : Nat
  region : Nat
  kind : Nat
  desc : Nat
  serial : Nat
  /-- Descriptor fields used later: scratchpad place of the data or of a fetched result, its width in bytes, and the status word. -/
  loc : Nat
  len : Nat
  status : Nat
  fetch : Bool := false
  dst : Nat := 0
  remote : Nat := 0
  all : Bool := false
  ch : Nat := 0
  /-- Peg key (((8,192·window + device)·16,384 + peg)·4,096 + generation) plus 1 for a pegged operation; END; PEG_DONE sent. -/
  peg : Nat := 0
  last : Bool := false
  doneSent : Bool := false
  hold : OpHold := .none
  todo : List Plan := []
  /-- Packets without a final outcome; packets not OK; index and outcome of the lowest-numbered of them. -/
  left : Nat := 0
  bad : Nat := 0
  worst : Option (Nat × Nat) := none
  /-- Bytes returned, as place and bytes. -/
  data : List (Nat × List Byte) := []
  deriving DecidableEq, Repr

/-- A grant that this device holds (R342), by its peg key: generation, window offset and bytes of the space, bytes sent under it. -/
structure Grant where
  gen : Nat
  off : Nat
  bytes : Nat
  sent : Nat
  deriving DecidableEq, Repr

/-- A parked claim (R343): source, generation and the fields of its reply. -/
structure Claim where
  src : Nat
  gen : Nat
  window : Nat
  tag : Nat
  seq : Nat
  ch : Nat
  deriving DecidableEq, Repr

/-- A peg number at the receiver (R187 to R189, R343, R344, R372 to R374). -/
structure Peg where
  /-- Outstanding: window, generation, physical block, space and landing counter. -/
  out : Bool := false
  window : Nat := 0
  gen : Nat := 0
  block : Nat := 0
  sp : Nat := 0
  bytes : Nat := 0
  ctr : Nat := 0
  /-- Device the peg is granted to, the claim's tag, bytes landed, TOTAL of the first COL packet, and the pieces landed. -/
  grant : Option Nat := none
  tag : Nat := 0
  landed : Nat := 0
  total : Option Nat := none
  pieces : List Nat := []
  /-- The last completed landing: source, tag and generation, and whether COL packets made it. -/
  done : Option (Nat × Nat × Nat) := none
  doneCol : Bool := false
  claim : Option Claim := none
  deriving DecidableEq, Repr

/-- A receipt (R349). -/
structure Receipt where
  src : Nat
  tag : Nat
  gen : Nat
  outcome : Nat
  value : Nat
  expires : Nat
  deriving DecidableEq, Repr

/-- Remote memory. -/
structure Remote where
  win : Table Window := []
  timers : Timers := {}
  /-- Tracker by tag; quarantined tags with the AON time plus 1 at which they are free (R333, R376). -/
  track : Table (Option Req) := []
  quar : Table Nat := []
  serial : Nat := 0
  ops : Table (Option RemOp) := []
  /-- Sequence counters, key 256·device + channel (R335); channels ended with ORDER_FULL (R336). -/
  seq : Table Nat := []
  full : List Nat := []
  /-- Next expected number plus 1 of each context, key 256·source + channel (R336). -/
  ctx : Table Nat := []
  /-- Receipts by region (R349). -/
  receipts : Table (List Receipt) := []
  grants : Table (Option Grant) := []
  peg : Table Peg := []
  /-- Destinations that a block has sent to since its last fence that covered them: key 8,192·block + device (R351). -/
  fenceDue : Table Bool := []
  count : Table Nat := []
  /-- Remote read cache: lines as address and bytes, the most recently used first, by region and set: key 16,384·region + set (R224). -/
  cache : Table (List (Nat × List Byte)) := []
  deriving DecidableEq, Repr

/-- A slot that a member feeds (R367): receiver's device and peg, its space at the receiver (window, offset, bytes), the place of its
bytes at the member (window, offset), and the landing code. `st` is 0 claim to be sent, 1 claimed, 2 granted, 3 sent, 4 ended. -/
structure SendSlot where
  dev : Nat
  peg : Nat
  win : Nat
  off : Nat
  size : Nat
  srcWin : Nat
  srcOff : Nat
  land : Nat
  /-- Slots of this member that must have landed and been combined first (R369). -/
  needs : List Nat := []
  st : Nat := 0
  tag : Nat := 0
  deriving DecidableEq, Repr

/-- A slot that a member receives: its peg and space, and for a staging slot the window and offset of the result that it is combined
into. `st` is 0 waiting, 1 landed and to be combined, 2 done; `got` is its TOTAL in bytes. -/
structure RecvSlot where
  k : Nat
  peg : Nat
  win : Nat
  off : Nat
  size : Nat
  into : Option (Nat × Nat) := none
  st : Nat := 0
  got : Nat := 0
  deriving DecidableEq, Repr

/-- A collective descriptor in progress (R357): its index in the table, its 128 bytes, its slots, and the code of each element that has
failed. -/
structure ColOp where
  id : Nat
  engine : Nat
  desc : Nat
  raw : List Byte
  sends : List SendSlot := []
  recvs : List RecvSlot := []
  /-- Code of each failed element: the slots that are sent, then those that are received, then the engine's own writes (log 69). -/
  fails : Table Nat := []
  /-- Segments that the engine holds in FILLING, as physical block and segment; HBM bytes that it has written, as address and
  length. -/
  held : List (Nat × Nat) := []
  hbm : List (Nat × Nat) := []
  /-- AON time at which the last of the member's own sends has ended, and whether a slot has landed since (R384). -/
  quietAt : Option Nat := none
  heard : Bool := false
  deriving DecidableEq, Repr

/-- The collective engines: the next descriptor of each in table order, the descriptors in progress, and the landings (window, peg,
bytes) whose descriptor has not started yet, in their order. -/
structure Collectives where
  next : Table Nat := []
  ops : List ColOp := []
  nextId : Nat := 0
  early : List (Nat × Nat × Nat) := []
  count : Table Nat := []
  deriving DecidableEq, Repr

end Sys2Proof.Machine
end

