-- ==== Sys2Proof/Machine/MemTypes.lean ====
section
/-! DEFINITION. State of membership, checkpoints, fills and backsight (15_membership). -/

namespace Sys2Proof.Machine

/-- An entry of the fence table. -/
structure Fenced where
  fenced : Bool := false
  epoch : Nat := 0
  deriving DecidableEq, Repr

/-- A checkpoint (R481, R482), by its host command. `phase` is 0 until it starts, 1 while it clears IDENT, 2 while it stores the list,
3 the data, 4 the image, 5 in its first fence, 6 while it stores the header and 7 in its last fence. `pos` is the next byte of the
phase. -/
structure Ckpt where
  cmd : Nat
  station : Nat
  addr : Nat
  list : List (Nat × Nat)
  image : Bool
  phase : Nat := 0
  pos : Nat := 0
  digest : Nat := 0
  deriving DecidableEq, Repr

/-- A fill (R484): its command, the copy's address, the job tag of its reads, the digest expected and the key; `phase` is 0 header, 1
list, 2 data, 3 image; `pos` is the next byte of the phase; `buf` holds the part read so far of the list or of an image section;
`blocks`, `tables` and `fence` are what the fill found, to be restored when it fails (R485); the fence table is found when its
section, the last, is written. -/
structure Fill where
  cmd : Nat
  addr : Nat
  tag : Nat
  want : Nat
  key : Nat
  phase : Nat := 0
  pos : Nat := 0
  count : Nat := 0
  station : Nat := 0
  image : Bool := false
  imageBytes : Nat := 0
  hdrDigest : Nat := 0
  ranges : List (Nat × Nat) := []
  buf : List Byte := []
  digest : Nat := 0
  blocks : Table Block := []
  tables : Remote := {}
  fence : Option (Table Fenced) := none
  deriving DecidableEq, Repr

/-- A shadow (R488 to R494): its command, the device it shadows, matches needed, and the tee log: HBM address, length, the offset at
which the next copy goes, and the copies that are not yet handled. -/
structure Shadow where
  cmd : Nat
  partner : Nat
  need : Nat
  logAddr : Nat
  logLen : Nat
  logPos : Nat := 0
  log : List Packet := []
  reported : Bool := false
  /-- The last station whose digests have been compared, plus 1. -/
  compared : Nat := 0
  deriving DecidableEq, Repr

/-- Membership. -/
structure Member where
  lease : Nat := 0
  /-- Lease state code. -/
  lstate : Nat := 0
  /-- AON time of the expiry; AON time at which the lease lapsed. -/
  expiry : Nat := 0
  lapsedAt : Nat := 0
  /-- The highest lease number that a notice has revoked. -/
  revoked : Nat := 0
  /-- REQ_ID of the next renewal, AON time at which it is due, and the last 16 renewals. -/
  reqId : Nat := 1
  renewAt : Nat := 0
  renewals : List (Nat × Nat) := []
  /-- `LEASE_CFG.RENEW_MS`. -/
  renewMs : Nat := 50
  fence : Table Fenced := []
  fenceEpoch : Nat := 0
  count : Table Nat := []
  ckpts : List Ckpt := []
  fill : Option Fill := none
  /-- `FILL_STATUS`: 0 NONE, 1 RUNNING, 2 COMPLETE, 3 ABORTED, with cause and station; whether the image was filled. -/
  fillState : Nat := 0
  fillCause : Nat := 0
  fillStation : Nat := 0
  fillImage : Bool := false
  /-- A fill has failed, and RUN and BACKSIGHT are refused (R485). -/
  fillBar : Bool := false
  /-- Backsight role (R487), partner, tee lane, and the tee copies that arrive after a shadow has ended are discarded. -/
  role : Nat := 0
  partner : Nat := 0
  teePort : Nat := 0
  teeLine : Nat := 0
  /-- The shadow has taken a copy, and so knows its tee lane. -/
  teeKnown : Bool := false
  shadow : Option Shadow := none
  ended : Bool := false
  matched : Nat := 0
  missStation : Nat := 0
  missRegions : Nat := 0
  /-- Digests that W has sent, by station: package, then regions 0 to 3 (R492). -/
  bsDigest : Table (List Nat) := []
  deriving DecidableEq, Repr

end Sys2Proof.Machine
end

