-- ==== Sys2Proof/Machine/OptTypes.lean ====
section
/-! DEFINITION. State of the optical engines, their rings and the comb source (08_optical). -/

namespace Sys2Proof.Machine

/-- Lane states (R252). -/
inductive PosState where
  | off | search | plumb | mislocked | train | active | unlocked | retired | standby | dark
  deriving DecidableEq, Repr

/-- One ring position; key 68·port + w transmit, 68·port + 34 + w receive (`OE_LANE_p`). -/
structure PosSt where
  st : PosState := .off
  /-- Expected line; 63 for none. -/
  line : Nat := 63
  /-- Lost line whose logical lane a spare position carries (R259); 63 for none. -/
  sub : Nat := 63
  fails : Nat := 0
  /-- Service lane (R263). -/
  service : Bool := false
  /-- Passed its last margin test (R265). -/
  margin : Bool := false
  /-- Lock error in units of 0.25 GHz. -/
  lockErr : Int := 0
  /-- Learned peer: device and port; the position has trained since its port last started (R260). -/
  peer : Option (Nat × Nat) := none
  trained : Bool := false
  /-- Service margin M in tenths of a dB; samples in a row below the threshold; AON time of the last BIAS_NEED (R267). -/
  marginDb : Int := 0
  lowMs : Nat := 0
  need : Option Nat := none
  /-- AON time at which the state was entered; receive positions: flits received since, modulo 5, which is their place in the lane's
  codewords (R278). -/
  since : Nat := 0
  frame : Nat := 0
  /-- Line that the plumb check detected (R255). -/
  detected : Nat := 63
  /-- Heater drive in force, and the search or retune term of its target (R247). -/
  drive : Nat := 0
  retune : Int := 0
  /-- Feed-forward term: where its present move starts and ends, and 1 µs steps made of ten (R250). -/
  ff0 : Int := 0
  ff1 : Int := 0
  ffK : Nat := 10
  deriving DecidableEq, Repr

/-- A port: mode code (R260). -/
structure OptPort where
  mode : Nat := 0
  deriving DecidableEq, Repr

/-- An engine: state code and keep-alive (`OE_STATUS_e`). -/
structure Engine where
  st : Nat := 0
  keepalive : Bool := false
  deriving DecidableEq, Repr

/-- A ring bank, key 2·engine + bank: the matrix K in use at 9·i + band, the shadow matrix, and the AON time of the last refresh
(R247, R248). -/
structure Bank where
  k : Table Nat := []
  shadow : Option (Table Nat) := none
  refreshed : Option Nat := none
  deriving DecidableEq, Repr

/-- Calibration state of a ring, key 68·bank + i (R249, `OE_CAL_e`). -/
structure Cal where
  ffCoef : Nat := 0
  searchStart : Nat := 0
  loopGain : Nat := 0
  biasThr : Nat := 30
  deriving DecidableEq, Repr

/-- A comb line at an engine, key 34·engine + line (R241). -/
structure CombLine where
  power : Int := 0
  tag : Bool := false
  /-- The line meets R238 now; measurements in a row in which it has. -/
  meets : Bool := false
  goodMs : Nat := 0
  /-- Measurements in a row without the tag. -/
  noTagMs : Nat := 0
  lost : Bool := false
  lowTold : Bool := false
  lostTold : Bool := false
  deriving DecidableEq, Repr

/-- A bias aging record (R268), with the AON time of the last STEP (R240). -/
structure Aging where
  steps : Nat := 0
  headroom : Nat := 0
  exhausted : Bool := false
  last : Option Nat := none
  deriving DecidableEq, Repr

/-- A margin test as its transmitter runs it (R288): request, start, the reduced bias, and what the last MARGIN_RESULT held. -/
structure TxTest where
  req : Nat := 0
  start : Nat := 0
  reduced : Bool := false
  eye : Nat := 0
  rlm : Nat := 0
  /-- The pattern's register (R288). -/
  prbs : Nat := 0x7FFFFFFF
  deriving DecidableEq, Repr

/-- A margin test as its receiver runs it: the transmitting device, the fields copied from MARGIN_REQ, whether it counts symbols,
its first measurements, and whether it has told the transmitter of them. -/
structure RxTest where
  device : Nat := 0
  req : Nat := 0
  port : Nat := 0
  line : Nat := 0
  counting : Bool := false
  told : Bool := false
  eye : Nat := 0
  rlm : Nat := 0
  deriving DecidableEq, Repr

/-- The optical engines. -/
structure Optics where
  pos : Table PosSt := []
  port : Table OptPort := []
  eng : Table Engine := []
  bank : Table Bank := []
  /-- Key 136·engine + 68·bank + i. -/
  cal : Table Cal := []
  comb : Table CombLine := []
  combTold : Table Bool := []
  aging : Table Aging := []
  /-- Dynamic address that the comb source has been assigned, its model code and interface version as the device has read them, its STATUS and the
  line last selected (R239). -/
  combAddr : Option Nat := none
  combIdent : Nat := 0
  combIfver : Nat := 0
  combStatus : Nat := 0
  combSelect : Nat := 0
  /-- Reports of a wrong lane number that receive positions have made to their senders (R256), newest last: receive position and line. -/
  mismatch : List (Nat × Nat) := []
  /-- Margin tests, key 34·port + line. -/
  txTest : Table (Option TxTest) := []
  rxTest : Table (Option RxTest) := []
  nextReq : Nat := 0
  /-- AON time since which the device has been in READY without LOAD_TRAVERSE or RUN (R269). -/
  idleSince : Nat := 0
  deriving DecidableEq, Repr

end Sys2Proof.Machine
end

