-- ==== Sys2Proof/Machine/PowerTypes.lean ====
section
/-! DEFINITION. State of pins and rails (17_pins_mechanical) and of power, energy and temperature (13_power_thermal). -/

namespace Sys2Proof.Machine

/-- Pins and rails. A `true` in a field named for an active-low pin means that the pin is asserted (low). -/
structure Pins where
  /-- Busbar input, in mV, as last seen. -/
  inputMv : Nat := 60000
  /-- PERST_L is asserted. -/
  perst : Bool := false
  /-- PWRGD: the module has released it; the system holds it low. -/
  pwrgdReleased : Bool := true
  pwrgdHeld : Bool := false
  /-- Who asserts VRALERT_L: an agent on the rail, the module for its input current (R516); and the front end's own
  hold for a low input (R514). -/
  alertRail : Bool := false
  alertCurrent : Bool := false
  alertInput : Bool := false
  /-- THERMTRIP_L is asserted. -/
  thermtrip : Bool := false
  /-- Rails up (R415): VCORE0-3 together, VSRAM, VHBM, VOPT, VAON. -/
  vcore : Bool := true
  vsram : Bool := true
  vhbm : Bool := true
  vopt : Bool := true
  vaon : Bool := true
  /-- Power-up attempts that failed while the input stays up (R519). -/
  attempts : Nat := 0
  /-- A failed attempt waits for its retry. -/
  retry : Bool := false
  deriving DecidableEq, Repr

/-- One region's clock, voltage and limits (R416 to R420, R434 to R437, R444). -/
structure RegPwr where
  /-- OP_TARGET. -/
  target : Nat := 2
  /-- Rung in force. -/
  rung : Nat := 2
  /-- Point the PLL is set to, and point whose voltage VCORE holds. -/
  point : Nat := 2
  volt : Nat := 2
  /-- On the safe clock (R420); a point change is in progress. -/
  safe : Bool := false
  changing : Bool := false
  /-- BCLK runs, and so does NCLK (R33); the present monitor window is not judged for BCLK (R36); the PLLs have locked in the present
  window, which is judged for neither clock. -/
  pll : Bool := false
  nclk : Bool := false
  skip : Bool := false
  fresh : Bool := false
  /-- Stretching (R436); rung that the stretching penalty holds, 0 for none, and the AON time at which it ends. -/
  stretch : Bool := false
  droopRung : Nat := 0
  droopEnd : Nat := 0
  /-- One more than the AON time of the last move to a lower rung, and of the last wake grant; 0 before either (R437). -/
  lowered : Nat := 0
  granted : Nat := 0
  /-- VCORE current limit in per cent, the rung it holds, and 10 µs samples in a row below 90 % of it (R444). -/
  curLimit : Nat := 100
  curRung : Nat := 0
  curLow : Nat := 0
  /-- VCORE current of the last sample, mA. -/
  curMa : Nat := 0
  /-- Logical blocks that wait for the ramp limiter (R437), in order of number. -/
  wake : List Nat := []
  deriving DecidableEq, Repr

/-- Power and energy. -/
structure Power where
  /-- Input power of each 10 µs, in mW, newest first, at most 100,000 (R415). -/
  samples : List Nat := []
  /-- Input samples spent at ration rung 20 in RUN or BACKSIGHT, newest first, at most 1,000; and the floor (R426). -/
  floorHist : List Nat := []
  floorMw : Nat := 640000
  /-- Other rail currents of the last sample, mA. -/
  vsramMa : Nat := 0
  vhbmMa : Nat := 0
  voptMa : Nat := 0
  vaonMa : Nat := 0
  /-- Rations (R421): host, MCTP, in force; and the deadline of a pending one (R422). -/
  hostMw : Nat := 3200000
  mctpMw : Nat := 3200000
  forceMw : Nat := 3200000
  deadline : Option Nat := none
  rationRung : Nat := 0
  /-- Governor ticks in a row: average below 90 % of the effective ration; since the last rung change; above the ration at
  rung 20; at or below the ration (R424, R427). -/
  lowTicks : Nat := 0
  sinceMove : Nat := 0
  overTicks : Nat := 0
  underTicks : Nat := 0
  /-- CAP_UNATTAINABLE episode; AON time at which its grace timer ends; GRACE_MS. -/
  floorOn : Bool := false
  graceEnd : Option Nat := none
  graceMs : Nat := 5000
  /-- A park awaits its station; it comes from the grace timer alone; PARK commands that it completes. -/
  parkPending : Bool := false
  parkGrace : Bool := false
  parkCmds : List Nat := []
  /-- The parking steps run (R430). -/
  parking : Bool := false
  /-- State held before parking, and UNPARK commands in progress (R433). -/
  parkedFrom : Option Dev := none
  unparkCmds : List Nat := []
  /-- Energy in pJ: of the job tag, in all, and as read by reports (R438); tag of the first. -/
  jobPj : Nat := 0
  totalPj : Nat := 0
  reportPj : Nat := 0
  energyTag : Nat := 0
  /-- `PWR_COUNT_k`. -/
  count : Table Nat := []
  /-- The limit of R434 holds; AON time at which it ends after a release. -/
  alert : Bool := false
  alertEnd : Option Nat := none
  /-- Assertions since the last VRALERT event, and the AON time of that event (R435). -/
  alertCount : Nat := 0
  alertTold : Option Nat := none
  region : Table RegPwr := []
  /-- Block clocks by global logical block: 0 stopped, 1 scratchpad, sequencer and DMA port only (R34), 2 running; and what a
  waiting wake request asks for. -/
  clk : Table Nat := []
  want : Table Nat := []
  deriving DecidableEq, Repr

/-- The thermal model (R440 to R445). Temperatures are in tenths of a degree. Nodes: 272·r + 4·pb + k of compute dies,
1088 + 16·r + k of base dies, 1152 + 4·s + k of stacks, 1184 + 2·e + bank of engines, 1200 + r of the cold plate. -/
structure Thermal where
  node : Table Int := []
  /-- Conductances, capacitances and power coefficients, as firmware has written them; none until it has (R440). -/
  cal : Option (List Byte) := none
  /-- Activity counters, as the model's last update took them in: 4·b + 0 array, + 1 vector unit, + 2 scalar core, + 3 DMA engine of physical
  block b (R440). -/
  activity : Table Nat := []
  /-- The model's offset at a node, as the sensors have corrected it. -/
  offset : Table Int := []
  /-- Last reading of each of the 81 sensors: 8·r + k of compute dies, 32 + 8·r + k of base dies, 64 + 2·e + bank of engines, 80
  the coolant inlet. -/
  sensor : Table Int := []
  /-- Predicted temperature change of each ring 100 µs ahead, in mK. -/
  ring : Table Int := []
  shutdownIn : Option Nat := none
  /-- Locations above warning and throttle: r compute die, 4 + r base die, 8 + e engine. -/
  warn : Table Bool := []
  throttle : Table Bool := []
  modelFault : Bool := false
  /-- Sensor readings in a row in which every sensor agreed within 4 °C. -/
  agree : Nat := 0
  deriving DecidableEq, Repr

end Sys2Proof.Machine
end

