-- ==== Sys2Proof/Machine/State.lean ====
section
/-! DEFINITION. The state of the KD7, and the state after reset. -/

namespace Sys2Proof.Machine

/-- Why a step stops. -/
inductive Fault where
  /-- A command carries bytes that no packet or message of the manual's formats has. Raised by the meanings that take bytes from
  outside. Safe: the machine stops where the manual gives no effect. -/
  | malformed
  deriving DecidableEq, Repr

/-- Why a step is refused. -/
inductive Refusal where
  /-- The command has no meaning yet. Raised by `exec`. Safe: the model stops. -/
  | notModelled (mnemonic : String)
  deriving DecidableEq, Repr

structure State where
  /-- Commands waiting, first in, first out. -/
  pending : List Instr := []
  dev : Dev := .boot
  /-- AON cycles since the package reset (R540). -/
  aon : Nat := 0
  /-- Draws of free values made so far: the model's own counter (log 9). -/
  free : Nat := 0
  /-- Host memory: the outside world that rings, results and records lie in (log 21). -/
  hostMem : Mem := []
  host : HostIf := {}
  flt : Faults := {}
  job : Job := {}
  pins : Pins := {}
  pwr : Power := {}
  therm : Thermal := {}
  hbm : Hbm := {}
  ring : Ring := {}
  blks : Blocks := {}
  oe : Optics := {}
  fab : Fabric := {}
  rmt : Remote := {}
  col : Collectives := {}
  mem : Member := {}
  idn : Ident := {}
  deriving DecidableEq, Repr

/-- The machine right after a package reset with PERST_L released. -/
def State.reset : State := {}

abbrev Out := Host.Outcome State Fault Refusal

end Sys2Proof.Machine
end

