-- ==== Sys2Proof/Machine/Ops.lean ====
section
/-! DEFINITION. Operations that every chapter shares: error records, events, rings, completions, and the taking of host
commands. -/

namespace Sys2Proof.Machine

open Sys2Proof

/-! ### One updater per part of the state -/

def State.modHost (f : HostIf → HostIf) (s : State) : State := { s with host := f s.host }

def State.modFlt (f : Faults → Faults) (s : State) : State := { s with flt := f s.flt }

def State.modJob (f : Job → Job) (s : State) : State := { s with job := f s.job }

/-- Fused security version: blown fuses from bit 0 upward without a gap (R502). -/
def fusedFrom (f : Nat) : Nat → Nat → Nat
  | 0, n => n
  | k + 1, n => if bit f n then fusedFrom f k (n + 1) else n

def fusedSvn (s : State) : Nat := fusedFrom s.idn.svnFuses 64 0

/-- SVN_COMMIT blows the next fuse; with the last one it is DONE (R503; log 153). -/
def blowFuse (s : State) : State :=
  if s.idn.blowing then
    let f := s.idn.svnFuses ||| 2 ^ fusedSvn s
    let t : State := { s with idn := { s.idn with svnFuses := f } }
    if min s.idn.svn 64 ≤ fusedSvn t then { t with idn := { t.idn with blowing := false, commit := 2 } } else t
  else s

/-- A tick of the always-on clock, which runs while PWRGD is asserted (R30). -/
def idle (s : State) : State :=
  if s.pins.pwrgdReleased && !s.pins.pwrgdHeld then let s := blowFuse s; { s with aon := s.aon + 1 } else s

/-! ### Interrupts (R411) -/

/-- Raise an MSI-X vector; a masked vector sets its pending bit. -/
def raiseVector (v : Nat) (s : State) : State :=
  s.modHost fun h =>
    if (h.msix.get {} v).mask then { h with pba := h.pba.set false v true }
    else { h with irqSent := h.irqSent.mod 0 v (· + 1) }

/-- Number of entries of a ring. -/
def OutRing.size (r : OutRing) : Nat := 2 ^ r.log2

/-- PI: the index of the next entry the device will write. -/
def OutRing.pi (r : OutRing) : Nat := r.seq % r.size

/-- Entries written and not yet consumed (R392). -/
def OutRing.unread (r : OutRing) : Nat := (r.pi + r.size - r.ci % r.size) % r.size

/-- The device may write one more entry: PI never advances onto the consumer index (R392). -/
def OutRing.room (r : OutRing) : Bool := r.enable && decide (r.unread + 1 < r.size)

/-- PHASE of the next entry (R402): 1 on the first pass, alternating. -/
def OutRing.phase (r : OutRing) : Byte := if r.seq / r.size % 2 = 0 then 1 else 0

/-- Count an entry just written towards the ring's interrupt; a fatal event asks for it at once (R411). -/
def OutRing.noted (r : OutRing) (now : Nat) : OutRing :=
  { r with seq := r.seq + 1, unsig := r.unsig + 1, oldest := if r.unsig = 0 then now else r.oldest }

def OutRing.due (r : OutRing) (fatal : Bool) : Bool := fatal || decide (max 1 r.irqCount ≤ r.unsig)

/-! ### Completion rings -/

def cplRing (s : State) (j : Nat) : OutRing := s.host.cpl.get {} j

def setCplRing (j : Nat) (r : OutRing) (s : State) : State := s.modHost fun h => { h with cpl := h.cpl.set {} j r }

/-- The 32 bytes of a completion entry. -/
def Cpl.bytes (c : Cpl) (seq : Nat) (phase : Byte) : List Byte :=
  leBytes 4 seq ++ leBytes 2 c.tag ++ leBytes 1 (c.ring % 64) ++ leBytes 1 c.opcode ++ leBytes 2 c.status ++ zeros 6
    ++ leBytes 8 c.value ++ zeros 7 ++ [phase]

/-- Write a completion entry at the ring's PI. -/
def writeCpl (j : Nat) (c : Cpl) (s : State) : State :=
  let r := cplRing s j
  let s := { s with hostMem := s.hostMem.writeN (r.base.toNat + 32 * r.pi) (c.bytes r.seq r.phase) }
  let r' := r.noted s.aon
  if r'.due false then raiseVector r.vector (setCplRing j { r' with unsig := 0 } s) else setCplRing j r' s

/-! ### The event ring -/

def Event.bytes (e : Event) (seq : Nat) (phase : Byte) : List Byte :=
  padTo 64 e.body ++ leBytes 8 e.aon ++ leBytes 4 seq ++ leBytes 2 e.code ++ leBytes 1 e.cls ++ zeros 1
    ++ leBytes 6 e.station ++ zeros 2 ++ leBytes 4 e.tag ++ zeros 35 ++ [phase]

def setEvtRing (r : OutRing) (s : State) : State := s.modHost fun h => { h with evt := r }

/-- Write an event entry at the event ring's PI; an FM_MESSAGE entry ties its slot to its sequence number (R410). -/
def writeEvt (e : Event) (s : State) : State :=
  let r := s.host.evt
  let s := { s with hostMem := s.hostMem.writeN (r.base.toNat + 128 * r.pi) (e.bytes r.seq r.phase) }
  let s := if e.code = 0x13 then s.modHost fun h => { h with fmSlot := h.fmSlot.set 0 (field e.body 0 2) (r.seq + 2) } else s
  let r' := r.noted s.aon
  if r'.due (e.cls == 3) then raiseVector r.vector (setEvtRing { r' with unsig := 0 } s) else setEvtRing r' s

/-- The event as raised now. -/
def mkEvent (code cls : Nat) (body : List Byte) (s : State) : Event :=
  { code := code, cls := cls, body := body, aon := s.aon, station := s.job.last, tag := s.job.tag }

/-- Write one waiting event, or EVENT_OVERFLOW first after a discard (R409). -/
def flushEvtOnce (s : State) : State :=
  if s.host.evt.room && s.host.linkUp then
    if s.host.discarded ≠ 0 then
      (writeEvt (mkEvent 0x11 0 (leBytes 4 s.host.discarded) s) s).modHost fun h => { h with discarded := 0 }
    else
      match s.host.evtWait with
      | [] => s
      | e :: es => writeEvt e (s.modHost fun h => { h with evtWait := es })
  else s

def flushEvtN : Nat → State → State
  | 0, s => s
  | n + 1, s => flushEvtN n (flushEvtOnce s)

/-- Write waiting events in their order as entries are free. -/
def flushEvt (s : State) : State := flushEvtN (s.host.evtWait.length + 1) s

/-- Let an event wait in management SRAM, at most 1,024 of them (R409), and write what can be written. -/
def enqueueEvt (e : Event) (s : State) : State :=
  if s.host.evtWait.length < 1024 then flushEvt (s.modHost fun h => { h with evtWait := h.evtWait ++ [e] })
  else flushEvt (s.modHost fun h => { h with discarded := h.discarded + 1 })

/-- Hold a write while the link is down, at most 1,024 entries; further ones are discarded and counted (R389). -/
def holdWrite (w : Held) (s : State) : State :=
  s.modHost fun h =>
    if h.held.length < 1024 then { h with held := h.held ++ [w] } else { h with discarded := h.discarded + 1 }

/-- The device may write to host memory: the link is up, and LINK_RESTORED does not wait (R389). -/
def canPost (s : State) : Bool := s.host.linkUp && !s.host.restoring

/-- Raise an event. -/
def raiseEvent (code cls : Nat) (body : List Byte) (s : State) : State :=
  if canPost s then enqueueEvt (mkEvent code cls body s) s else holdWrite (.evt (mkEvent code cls body s)) s

/-- RING_ERROR: kind 0 command, 1 completion, 2 event. -/
def ringError (kind i : Nat) (s : State) : State := raiseEvent 0x10 0 (leBytes 1 kind ++ leBytes 1 i) s

/-! ### Posting completions -/

/-- Post a completion to ring `j` over a working link: a disabled ring loses it (R391), a full one makes it wait (R392). -/
def deliverCpl (j : Nat) (c : Cpl) (s : State) : State :=
  let r := cplRing s j
  if !r.enable then s
  else if r.room && !(s.host.cplWait.any fun w => w.1 == j) then writeCpl j c s
  else s.modHost fun h => { h with cplWait := h.cplWait ++ [(j, c)] }

def postCpl (j : Nat) (c : Cpl) (s : State) : State :=
  if canPost s then deliverCpl j c s else holdWrite (.cpl j c) s

/-- Write the completions that wait for ring `j`, in their order, while there is room. -/
def flushCpl (j : Nat) : List (Nat × Cpl) → State → State
  | [], s => s
  | (k, c) :: ws, s =>
    if k = j && (cplRing s j).room then
      flushCpl j ws (writeCpl j c (s.modHost fun h => { h with cplWait := h.cplWait.erase (k, c) }))
    else flushCpl j ws s

/-- Write a station record, or hold it while the link is down (R84, R389). -/
def writeStationRecord (addr : Nat) (bytes : List Byte) (s : State) : State :=
  if canPost s then { s with hostMem := s.hostMem.writeN addr bytes } else holdWrite (.station addr bytes) s

/-- Write what the link's loss held back, oldest first. -/
def releaseHeld : List Held → State → State
  | [], s => s
  | .cpl j c :: hs, s => releaseHeld hs (deliverCpl j c s)
  | .evt e :: hs, s => releaseHeld hs (enqueueEvt e s)
  | .station a b :: hs, s => releaseHeld hs { s with hostMem := s.hostMem.writeN a b }

/-! ### Error records (R449 to R451) -/

def Record.bytes (r : Record) : List Byte :=
  ([0x01] : List Byte) ++ leBytes 1 r.level ++ leBytes 1 r.cls ++ leBytes 1 r.flags ++ leBytes 2 r.code
    ++ leBytes 1 (match r.region with | some x => x | none => 0x80) ++ leBytes 1 r.pb ++ leBytes 1 r.lb ++ leBytes 1 r.part
    ++ leBytes 2 r.sub ++ leBytes 2 r.lane ++ zeros 2 ++ leBytes 6 r.station ++ zeros 2 ++ leBytes 4 r.tag ++ leBytes 4 r.seq
    ++ leBytes 8 r.address ++ leBytes 8 r.detail ++ leBytes 4 r.cause ++ leBytes 4 r.count ++ zeros 8

/-- One key per code and unit (R451). The unit of a record above block level is no block: its PB names a requester (R202). -/
def Record.unitKey (r : Record) : Nat :=
  let pb := if r.level ≤ 1 then r.pb else 0xFF
  ((((r.code * 8 + (match r.region with | some x => x | none => 4)) * 256 + pb) * 256 + r.part) * 65536 + r.sub) * 65536
    + r.lane

/-- AON second of R540. -/
def aonSecond (s : State) : Nat := s.aon / 50000000

/-- Write a record: it takes SEQ, station and job tag, enters `ERR_LOG`, is counted and raises ERROR_RECORD. -/
def putRecord (r : Record) (s : State) : State :=
  let r := { r with seq := s.flt.seq, station := s.job.last, tag := s.job.tag }
  let s := s.modFlt fun f =>
    { f with seq := f.seq + 1, log := f.log.set {} (f.seq % 256) r, count := f.count.mod 0 (3 * r.level + (r.cls - 1)) (· + r.count) }
  raiseEvent 0x01 r.cls r.bytes s

/-- Write a record under the rate limit of R451: at most 64 corrected ones for a code and unit in an AON second; the next one
stands for those withheld. -/
def record (r : Record) (s : State) : State :=
  if r.cls = 1 then
    let c := s.flt.rate.get {} r.unitKey
    let c := if c.second = aonSecond s then c else { c with second := aonSecond s, written := 0 }
    if c.written < 64 then
      putRecord { r with count := 1 + c.withheld }
        (s.modFlt fun f => { f with rate := f.rate.set {} r.unitKey { c with written := c.written + 1, withheld := 0 } })
    else s.modFlt fun f => { f with rate := f.rate.set {} r.unitKey { c with withheld := c.withheld + 1 } }
  else putRecord r s

/-- SPARE_EXHAUSTED, once for a pool (R455). -/
def spareExhausted (kind region unit dir : Nat) (s : State) : State :=
  if s.flt.spareTold.contains (kind, region, unit, dir) then s
  else
    raiseEvent 0x81 0 (leBytes 1 kind ++ leBytes 1 region ++ leBytes 1 unit ++ leBytes 1 dir)
      (s.modFlt fun f => { f with spareTold := f.spareTold ++ [(kind, region, unit, dir)] })

/-- Service state of region `r`. -/
def regionMode (s : State) (r : Nat) : RegionMode := (s.flt.region.get {} r).mode

def regionUp (s : State) (r : Nat) : Bool := regionMode s r == .up

/-- A region's own units work: it is UP or in TEST. -/
def regionRuns (s : State) (r : Nat) : Bool := regionMode s r == .up || regionMode s r == .test

/-- A register write of the host arrives and is not ignored: the link is up, and in BOOT the register is one that the BAR0 address
map serves there (R532). -/
def hostWrites (s : State) (inBoot : Bool) : Bool := s.host.linkUp && !(s.dev == .off) && (inBoot || !(s.dev == .boot))

/-! ### Host reads -/

/-- A host range that the device may not read: beyond the 64-bit range, or answered with an error completion. -/
def hostReadFails (s : State) (a n : Nat) : Bool :=
  decide (2 ^ 64 < a + n) || s.host.badHost.any fun (lo, len) => decide (a < lo + len) && decide (lo < a + n)

/-! ### Host commands (R393 to R396, R400, R403) -/

def cmdRing (s : State) (i : Nat) : CmdRing := s.host.cmd.get {} i

/-- The command entry at the front of ring `i`: opcode, flags, tag, five operands, and whether its reserved bytes are zero. -/
def entryBytes (s : State) (i : Nat) : List Byte :=
  s.hostMem.readN ((cmdRing s i).base.toNat + 64 * (cmdRing s i).ci) 64

def entryCmd (s : State) (i : Nat) : InCmd :=
  let b := entryBytes s i
  { id := s.host.nextId, ring := i, cpl := (cmdRing s i).cpl, opcode := field b 0 1, tag := field b 2 2, arg0 := field b 8 8,
    arg1 := field b 16 8, arg2 := field b 24 8, arg3 := field b 32 8, arg4 := field b 40 8 }

def entryBarrier (s : State) (i : Nat) : Bool := bit (field (entryBytes s i) 1 1) 0

/-- Reserved bits and bytes of the entry itself are zero (R12). -/
def entryClean (s : State) (i : Nat) : Bool :=
  let b := entryBytes s i
  decide (field b 1 1 < 2) && decide (field b 4 4 = 0) && decide (field b 48 16 = 0)

/-- Ring `i` holds a command that may start (R393, R396). -/
def ringReady (s : State) (i : Nat) : Bool :=
  let r := cmdRing s i
  r.enable && !r.stop && decide (r.ci ≠ r.pi) && (!entryBarrier s i || !(s.host.cmds.any fun c => c.ring == i))

/-- The first ring in turn, from `turn` on, that passes a test (R396). -/
def ringInTurn (turn : Nat) (p : Nat → Bool) : Option Nat := ((List.range 64).map fun k => (turn + k) % 64).find? p

/-- Ring processing has started, as it does when the device enters READY; a FAULT reached from the boot sequence has none (R497). -/
def ringsRun (s : State) : Bool := !(s.dev == .off || s.dev == .boot || (s.dev == .fault && s.idn.st != 6))

/-- The ring that is served next: those with PRIO first, round-robin among equals, so that each kind keeps its own turn. -/
def nextRing (s : State) : Option Nat :=
  if s.host.linkUp && decide (s.host.cmds.length < 256) && ringsRun s then
    match ringInTurn s.host.turnPrio (fun i => ringReady s i && (cmdRing s i).prio) with
    | some i => some i
    | none => ringInTurn s.host.turn (fun i => ringReady s i)
  else none

/-- Take the command at the front of ring `i`. -/
def takeCmd (i : Nat) (s : State) : State :=
  let c := entryCmd s i
  s.modHost fun h =>
    { h with cmd := h.cmd.mod {} i (fun r => { r with ci := (r.ci + 1) % 2 ^ r.log2 }), cmds := h.cmds ++ [c],
             nextId := h.nextId + 1, turn := if (cmdRing s i).prio then h.turn else (i + 1) % 64,
             turnPrio := if (cmdRing s i).prio then (i + 1) % 64 else h.turnPrio }

/-- The command in progress with number `id`. -/
def cmdOf (s : State) (id : Nat) : Option InCmd := s.host.cmds.find? fun c => c.id == id

/-- Complete command `id`: exactly one completion entry, on the completion ring its command ring was bound to (R403), unless that ring
has been disabled meanwhile (R391). -/
def complete (id status value : Nat) (s : State) : State :=
  match cmdOf s id with
  | none => s
  | some c =>
    let s := s.modHost fun h => { h with cmds := h.cmds.filter fun d => d.id != id }
    if c.lost then s
    else postCpl c.cpl { ring := c.ring, tag := c.tag, opcode := c.opcode, status := status, value := value } s

/-- Widths of the named operand bits of each command; every other bit of the operands is reserved. -/
def argWidths (op : Nat) : List Nat :=
  match op with
  | 0x01 => [40, 64, 0, 0, 0]
  | 0x02 => [48, 64, 16, 64, 0]
  | 0x03 => [8, 48, 64, 16, 0]
  | 0x04 => [64, 40, 40, 48, 0]
  | 0x05 => [64, 40, 40, 48, 0]
  | 0x06 => [16, 64, 32, 0, 0]
  | 0x07 => [64, 64, 64, 64, 64]
  | 0x08 => [64, 64, 64, 64, 64]
  | 0x09 => [64, 64, 64, 64, 64]
  | 0x0A => [32, 0, 0, 0, 0]
  | 0x0B => [8, 48, 64, 16, 0]
  | 0x0C => [2, 0, 0, 0, 0]
  | 0x0F => [64, 13, 13, 0, 0]
  | 0x10 => [32, 0, 0, 0, 0]
  | 0x11 => [8, 0, 0, 0, 0]
  | 0x12 => [4, 0, 0, 0, 0]
  | _ => [0, 0, 0, 0, 0]

/-- Every operand keeps to its named bits (R12). -/
def argsClean (c : InCmd) : Bool :=
  (([c.arg0, c.arg1, c.arg2, c.arg3, c.arg4].zip (argWidths c.opcode)).all fun (v, w) => decide (v < 2 ^ w))

/-- Opcodes that the table *Accepted commands* allows in a state. -/
def accepted (d : Dev) (op : Nat) : Bool :=
  match d with
  | .ready => true
  | .run | .backsight => !([0x01, 0x02, 0x0E].contains op)
  | .bivouac => [0x06, 0x03, 0x0B, 0x0E, 0x10, 0x0A, 0x0F].contains op
  | .fenced => [0x06, 0x04, 0x05, 0x0A, 0x10, 0x0C, 0x11, 0x12, 0x0F].contains op
  | .fault => op == 0x06
  | _ => false

/-- The table *Commands* lists the opcode. -/
def opcodeListed (op : Nat) : Bool := decide (1 ≤ op) && decide (op ≤ 0x12)

/-- A RUN or BACKSIGHT command is in progress (R400). -/
def runInProgress (s : State) : Bool := s.host.cmds.any fun c => c.opcode == 0x02 || c.opcode == 0x09

/-- The status that turns a command away before its own checks: a reserved opcode, R400, then R12. `prior` is the state in which
the command starts. -/
def turnedAway (prior : State) (i : Nat) : Option Nat :=
  let c := entryCmd prior i
  if !opcodeListed c.opcode then some 1
  else if runInProgress prior && (c.opcode == 0x01 || c.opcode == 0x02) then some 3
  else if !accepted prior.dev c.opcode then some 2
  else if !(entryClean prior i && argsClean c) then some 1
  else none

/-- Setting identifiers and query codes that the tables list. -/
def identListed (v : Nat) : Bool := decide (1 ≤ v) && decide (v ≤ 0x0B)

def queryListed (v : Nat) : Bool := decide (1 ≤ v) && decide (v ≤ 4)

/-- A command that belongs to no row: a reserved opcode, setting identifier or query code. It is rejected with INVALID_FIELD when
it comes in turn. -/
def rowless (c : InCmd) : Bool :=
  !opcodeListed c.opcode || (c.opcode == 0x03 && !identListed c.arg0) || (c.opcode == 0x0B && c.arg0 != 8)
    || (c.opcode == 0x06 && !queryListed c.arg0)

/-- One host command: when the command in turn is one that `mine` names, take it and run `body`; when it belongs to no row, take
and reject it; otherwise nothing happens. -/
def hostStep (mine : InCmd → Bool) (body : InCmd → State → State) (s : State) : State :=
  match nextRing s with
  | none => s
  | some i =>
    let c := entryCmd s i
    if mine c || rowless c then
      match turnedAway s i with
      | some st => complete c.id st 0 (takeCmd i s)
      | none => if rowless c then complete c.id 1 0 (takeCmd i s) else body c (takeCmd i s)
    else s

end Sys2Proof.Machine
end

