-- ==== Sys2Proof/Machine/Power.lean ====
section
/-! DEFINITION. Rails, rations, rungs, fast limits and the thermal model (R414 to R444, R514), and the commands that act on
them alone. -/

namespace Sys2Proof.Machine

open Sys2Proof

def State.modPins (f : Pins → Pins) (s : State) : State := { s with pins := f s.pins }

def State.modPwr (f : Power → Power) (s : State) : State := { s with pwr := f s.pwr }

def State.modTherm (f : Thermal → Thermal) (s : State) : State := { s with therm := f s.therm }

def regPwr (s : State) (r : Nat) : RegPwr := s.pwr.region.get {} r

def State.modReg (r : Nat) (f : RegPwr → RegPwr) (s : State) : State :=
  s.modPwr fun p => { p with region := p.region.mod {} r f }

/-- Count an event of kind `k` (`PWR_COUNT_k`). -/
def powerCount (k : Nat) (s : State) : State := s.modPwr fun p => { p with count := p.count.mod 0 k (· + 1) }

/-! ### Rungs (R418, R420, R437) -/

/-- The lowest-numbered rung that the limits in force and OP_TARGET allow region `r` (R418). -/
def allowedRung (s : State) (r : Nat) : Nat :=
  let g := regPwr s r
  [g.target, s.pwr.rationRung, if s.pwr.alert then 20 else 0, if s.therm.modelFault then 5 else 0, g.curRung, g.droopRung,
    if s.pwr.parkPending && s.pwr.parkGrace then 20 else 0].foldl max 0

/-- Move a region to a rung; a change of point goes by way of the safe clock (R420). -/
def moveRung (n : Nat) (g : RegPwr) : RegPwr :=
  if min n 5 = g.point then { g with rung := n }
  else if g.pll then { g with rung := n, point := min n 5, safe := true, changing := true, skip := g.skip || !g.safe }
  else { g with rung := n, point := min n 5, volt := min n 5 }

/-- Every region goes at once to a slower rung that a limit now holds. -/
def raiseRungs (s : State) : State :=
  (List.range 4).foldl
    (fun s r => if (regPwr s r).rung < allowedRung s r then s.modReg r (moveRung (allowedRung s r)) else s) s

/-- 100 µs have passed since the region's last move to a lower-numbered rung. -/
def mayLower (s : State) (r : Nat) : Bool := (regPwr s r).lowered == 0 || decide ((regPwr s r).lowered + 4999 ≤ s.aon)

/-- One rung faster for region `r`, where its limits allow: at most one in 100 µs, whichever limit lets go (R437). -/
def lowerRung (r : Nat) (s : State) : State :=
  if allowedRung s r < (regPwr s r).rung && mayLower s r then
    s.modReg r fun g => moveRung (g.rung - 1) { g with lowered := s.aon + 1 }
  else s

def lowerRungs (s : State) : State := (List.range 4).foldl (fun s r => lowerRung r s) s

/-- OP_TARGET takes a new point in region `r`: the region follows at once where the old target held it (R419, R92). -/
def setTarget (r p : Nat) (s : State) : State :=
  let old := regPwr s r
  let s := s.modReg r fun g => { g with target := p }
  if old.rung = old.target then s.modReg r (moveRung (allowedRung s r)) else raiseRungs s

/-! ### Rations (R421 to R427) -/

/-- Mean of the newest `n` samples, over those there are. -/
def meanMw (xs : List Nat) (n : Nat) : Nat := (xs.take n).sum / max 1 (xs.take n).length

/-- Input power averaged over the last `n` intervals of 10 µs. -/
def inputMw (s : State) (n : Nat) : Nat := meanMw s.pwr.samples n

/-- The ration that the two values give (R421). -/
def newRation (s : State) : Nat := min (min s.pwr.hostMw s.pwr.mctpMw) 3200000

def pendingMw (s : State) : Nat := if s.pwr.deadline.isSome then newRation s else s.pwr.forceMw

/-- The effective ration of R424. -/
def effRation (s : State) : Nat :=
  if 3000000 < inputMw s 100000 ∧ 3000000 < s.pwr.forceMw then 3000000 else s.pwr.forceMw

/-- The floor episode ends: the timer stops, and a park that it asked for is cancelled (R427, R428). -/
def endFloor (s : State) : State :=
  s.modPwr fun p =>
    { p with floorOn := false, graceEnd := none, overTicks := 0, parkPending := p.parkPending && !p.parkCmds.isEmpty,
             parkGrace := false }

/-- The pending ration comes into force (R422); at or above the floor it ends an episode (R427). -/
def bringRation (s : State) : State :=
  let s := s.modPwr fun p => { p with forceMw := newRation s, deadline := none }
  if s.pwr.floorOn && decide (s.pwr.floorMw ≤ s.pwr.forceMw) then endFloor s else s

/-- A value has arrived from the host or over MCTP (R422). -/
def rationArrived (s : State) : State :=
  if s.dev == .run || s.dev == .backsight then
    s.modPwr fun p => { p with deadline := some (p.deadline.getD (s.aon + 100000)) }
  else bringRation s

/-! ### The regulator alert (R434, R435, R514, R516) -/

/-- Somebody asserts VRALERT_L. -/
def alertPin (s : State) : Bool := s.pins.alertRail || s.pins.alertCurrent

/-- Somebody asserts VRALERT_L, or the front end holds its limit. -/
def alertStands (s : State) : Bool := alertPin s || s.pins.alertInput

/-- The limit of R434 takes hold: every region goes to the safe clock with stride 16, and a point change is abandoned. -/
def alertLimit (s : State) : State :=
  if s.dev == .bivouac || s.dev == .off || s.dev == .boot then s
  else
    (List.range 4).foldl
      (fun s r => s.modReg r fun g =>
        if g.pll then { g with rung := 20, point := 5, volt := 5, safe := true, changing := true, skip := g.skip || !g.safe }
        else { g with rung := 20, point := 5, volt := 5 })
      (s.modPwr fun p => { p with alert := true })

/-- The VRALERT event: the first assertion in any 1 s tells the assertions since the event before (R435). -/
def alertEvent (s : State) : State :=
  if (match s.pwr.alertTold with | none => true | some t => decide (t + 50000000 ≤ s.aon)) then
    raiseEvent 0x64 0 (leBytes 4 s.pwr.alertCount) (s.modPwr fun p => { p with alertTold := some s.aon, alertCount := 0 })
  else s

/-- The module powers up: from the first attempt until Bixus starts a region's clock (R519, R520). -/
def poweringUp (s : State) : Bool := s.dev == .boot || s.dev == .off && s.pins.retry

/-- VRALERT_L falls. In BIVOUAC it has no effect (R435). During power-up the assertion is only held, for the moment at which Bixus starts the first
clock (R520). -/
def alertAsserted (s : State) : State :=
  if poweringUp s then s.modPwr fun p => { p with alert := true }
  else if s.dev == .bivouac || s.dev == .off then s
  else alertEvent (alertLimit (powerCount 0 (s.modPwr fun p => { p with alert := true, alertEnd := none, alertCount := p.alertCount + 1 })))

/-- VRALERT_L has risen: the limit lasts 1 ms more (R434), whether or not the front end holds it too. -/
def alertReleased (s : State) : State :=
  if alertPin s || !s.pwr.alert || poweringUp s then s else s.modPwr fun p => { p with alertEnd := some (s.aon + 50000) }

/-- VRALERT_L_ASSERT (R434). -/
def execVralertLAssert (s : State) : Out :=
  if s.pins.alertRail then .next s
  else
    let fresh := !s.pins.alertCurrent
    let s := s.modPins fun p => { p with alertRail := true }
    .next (if fresh then alertAsserted s else s)

/-- VRALERT_L_RELEASE (R434). -/
def execVralertLRelease (s : State) : Out :=
  if s.pins.alertRail then .next (alertReleased (s.modPins fun p => { p with alertRail := false })) else .next s

/-- VRALERT_HOLD_EXPIRE (R434). -/
def execVralertHoldExpire (s : State) : Out :=
  match s.pwr.alertEnd with
  | some t =>
    if s.pwr.alert && decide (t ≤ s.aon) && !alertPin s then
      .next (s.modPwr fun p => { p with alert := s.pins.alertInput, alertEnd := none })
    else .next s
  | none => .next s

/-- LIMIT_RUNG_RETURN (R434, R437). -/
def execLimitRungReturn (s : State) : Out := .next (lowerRungs s)

/-- INPUT_LOW (R514): from above 50 V. In OFF nothing runs that the limit could hold back; the front end's hold stands for the next power-up. -/
def execInputLow (mv : Nat) (s : State) : Out :=
  if decide (s.pins.inputMv < 47000) || decide (mv < 47000) || decide (50000 ≤ mv) then .next s
  else .next (alertLimit (s.modPins fun p => { p with inputMv := mv, alertInput := true }))

/-- INPUT_LOW_RECOVER (R514): the 1 ms above 50.5 V has passed. -/
def execInputLowRecover (mv : Nat) (s : State) : Out :=
  if s.pins.alertInput && decide (50500 < mv) then
    let s := s.modPins fun p => { p with inputMv := mv, alertInput := false }
    .next (if alertPin s || s.pwr.alertEnd.isSome || poweringUp s then s else s.modPwr fun p => { p with alert := false })
  else .next s

/-! ### Droop and the ramp limiter (R436, R437) -/

/-- DROOP_DETECT (R436). -/
def execDroopDetect (r : Fin 4) (_detector : Fin 16) (overOnePercent : Bool) (s : State) : Out :=
  if (regPwr s r).pll then
    let s := powerCount 1 (s.modReg r fun g => { g with stretch := true })
    .next (if overOnePercent && decide ((regPwr s r).rung < 20) then
      raiseRungs (powerCount 2 (s.modReg r fun g => { g with droopRung := g.rung + 1, droopEnd := s.aon + 50000 }))
    else s)
  else .next s

/-- DROOP_RECOVER (R436). -/
def execDroopRecover (r : Fin 4) (s : State) : Out := .next (s.modReg r fun g => { g with stretch := false })

/-- DROOP_RUNG_EXPIRE (R436). -/
def execDroopRungExpire (r : Fin 4) (s : State) : Out :=
  if (regPwr s r).droopRung ≠ 0 ∧ (regPwr s r).droopEnd ≤ s.aon then .next (s.modReg r fun g => { g with droopRung := 0 })
  else .next s

/-- Put a logical block into its place in the order of numbers. -/
def insertNat (n : Nat) : List Nat → List Nat
  | [] => [n]
  | m :: ms => if n < m then n :: m :: ms else if n = m then m :: ms else m :: insertNat n ms

def blockClock (s : State) (b : Nat) : Nat := s.pwr.clk.get 0 b

/-- Ask for a block's clock at level 1 or 2 (R32, R34). A request that finds four waiting is delayed, and counted (R437). -/
def requestWake (b level : Nat) (s : State) : State :=
  if level ≤ blockClock s b then s
  else
    let r := b / 64
    let s := if (regPwr s r).wake.contains (b % 64) || decide ((regPwr s r).wake.length < 4) then s else powerCount 6 s
    (s.modReg r fun g => { g with wake := insertNat (b % 64) g.wake }).modPwr
      fun p => { p with want := p.want.mod 0 b (max level) }

/-- Start a block's clock at the level its request asked for. -/
def grantWake (b : Nat) (s : State) : State :=
  s.modPwr fun p => { p with clk := p.clk.mod 0 b (max (p.want.get 0 b)), want := p.want.set 0 b 0 }

/-- BLOCK_WAKE_GRANT (R437): at most four requests of the region in any 100 ns, in order of logical block number. -/
def execBlockWakeGrant (r : Fin 4) (s : State) : Out :=
  let g := regPwr s r
  if g.pll && (g.granted == 0 || decide (g.granted + 4 ≤ s.aon)) && !g.wake.isEmpty then
    let w := g.wake
    .next ((w.take 4).foldl (fun s lb => grantWake (64 * r + lb) s)
      (s.modReg r fun g => { g with wake := g.wake.drop 4, granted := s.aon + 1 }))
  else .next s

/-! ### Measurement, energy and the current limit (R415, R438, R444) -/

/-- What a sample says about region `r`'s VCORE current: over its limit, one rung higher; below 90 % of it for 100 µs, one rung
lower (R444). 1 % of the rail's 700 A is 7,000 mA. -/
def sampleCurrent (r ma : Nat) (s : State) : State :=
  let g := regPwr s r
  let lim := 7000 * g.curLimit
  if lim < ma then raiseRungs (s.modReg r fun g => { g with curMa := ma, curLow := 0, curRung := min 20 (g.rung + 1) })
  else if 10 * ma < 9 * lim then
    if 9 ≤ g.curLow then
      let s := s.modReg r fun g => { g with curMa := ma, curLow := 0, curRung := g.curRung - 1 }
      if g.curRung = 0 then s else lowerRung r s
    else s.modReg r fun g => { g with curMa := ma, curLow := g.curLow + 1 }
  else s.modReg r fun g => { g with curMa := ma, curLow := 0 }

/-- Add an input sample to the counters of R438 and to the averages of R424 and R426. -/
def sampleInput (mv ma : Nat) (s : State) : State :=
  let mw := mv * ma / 1000
  let pj := mv * ma * 10
  s.modPwr fun p =>
    let hist := if p.rationRung = 20 ∧ (s.dev = .run ∨ s.dev = .backsight) then (mw :: p.floorHist).take 1000 else p.floorHist
    { p with samples := (mw :: p.samples).take 100000, jobPj := p.jobPj + pj, totalPj := p.totalPj + pj, reportPj := p.reportPj + pj,
             floorHist := hist, floorMw := if hist.length = 1000 then meanMw hist 1000 else p.floorMw }

/-- The module pulls VRALERT_L low while its input current exceeds 60 A (R516). -/
def inputCurrentAlert (ma : Nat) (s : State) : State :=
  if 60000 < ma then
    if s.pins.alertCurrent then s
    else
      let fresh := !s.pins.alertRail
      let s := s.modPins fun p => { p with alertCurrent := true }
      if fresh then alertAsserted s else s
  else if s.pins.alertCurrent then alertReleased (s.modPins fun p => { p with alertCurrent := false })
  else s

/-- RAIL_SAMPLE (R415). -/
def execRailSample (m : Rails) (s : State) : Out :=
  if s.dev == .off then .next s
  else
    let s := (sampleInput m.inputMv m.inputMa s).modPwr fun p =>
      { p with vsramMa := m.vsramMa, vhbmMa := m.vhbmMa, voptMa := m.voptMa, vaonMa := m.vaonMa }
    let s := s.modPins fun p => { p with inputMv := m.inputMv }
    let s := (List.range 4).foldl (fun s r => sampleCurrent r (m.vcoreMa.getD r 0) s) s
    .next (inputCurrentAlert m.inputMa s)

/-- Any location of region `r` stands above its throttle level. -/
def regionThrottled (s : State) (r : Nat) : Bool :=
  [r, 4 + r, 8 + 2 * r, 9 + 2 * r].any fun l => s.therm.throttle.get false l

/-- CURRENT_LIMIT_STEP (R444): one fall of 5 % while throttled, one rise otherwise; a sample that the lowered limit no longer
allows moves the rung. -/
def execCurrentLimitStep (r : Fin 4) (s : State) : Out :=
  let g := regPwr s r
  if regionThrottled s r then
    let lim := max 20 (g.curLimit - 5)
    let s := s.modReg r fun g => { g with curLimit := lim }
    .next (if 7000 * lim < g.curMa ∧ g.curMa ≤ 7000 * g.curLimit then
      raiseRungs (s.modReg r fun g => { g with curLow := 0, curRung := min 20 (g.rung + 1) })
    else s)
  else .next (s.modReg r fun g => { g with curLimit := min 100 (g.curLimit + 5) })

/-! ### The governor (R424, R427) -/

/-- Highest rung in force in any region. -/
def topRung (s : State) : Nat := ((List.range 4).map fun r => (regPwr s r).rung).foldl max 0

/-- The governor runs while the regions have their clocks. -/
def governs (s : State) : Bool := s.dev == .ready || s.dev == .run || s.dev == .backsight || s.dev == .fenced

/-- GOVERNOR_TICK (R424). Where there is no clock to slow, as in BIVOUAC and FAULT, the tick only tells how long the input has kept to the ration
(R427). -/
def execGovernorTick (s : State) : Out :=
  if governs s then
    let avg := inputMw s 10
    let eff := effRation s
    let p := s.pwr
    let low := if 10 * avg < 9 * eff then p.lowTicks + 1 else 0
    let s1 := s.modPwr fun p =>
      { p with lowTicks := low, sinceMove := p.sinceMove + 1, underTicks := if avg ≤ eff then p.underTicks + 1 else 0,
               overTicks := if eff < avg ∧ p.rationRung = 20 then p.overTicks + 1 else 0 }
    if eff < avg then
      if p.rationRung < 20 then
        .next (raiseRungs (s1.modPwr fun p => { p with rationRung := min 20 (max p.rationRung (topRung s) + 1), sinceMove := 0 }))
      else .next s1
    else if 10 ≤ low ∧ 10 ≤ p.sinceMove + 1 ∧ p.rationRung ≠ 0 then
      .next (lowerRungs (s1.modPwr fun p => { p with rationRung := p.rationRung - 1, sinceMove := 0 }))
    else .next s1
  else if s.dev == .off then .next s
  else .next (s.modPwr fun p => { p with underTicks := if inputMw s 10 ≤ effRation s then p.underTicks + 1 else 0 })

/-- RATION_DEADLINE (R422). -/
def execRationDeadline (s : State) : Out :=
  match s.pwr.deadline with
  | some t => if t ≤ s.aon then .next (bringRation s) else .next s
  | none => .next s

/-- FLOOR_EPISODE_END (R427): 10 ms at or below the effective ration. -/
def execFloorEpisodeEnd (s : State) : Out :=
  if s.pwr.floorOn && decide (100 ≤ s.pwr.underTicks) then .next (endFloor s) else .next s

/-- POINT_CHANGE_COMPLETE (R420). -/
def execPointChangeComplete (r : Fin 4) (s : State) : Out :=
  if (regPwr s r).changing then
    .next (s.modReg r fun g => { g with changing := false, safe := false, volt := g.point, skip := g.skip || g.safe })
  else .next s

/-! ### The thermal model (R440 to R443) -/

/-- Nodes of a location: 0-3 compute dies, 4-7 base dies, 8-15 engines. -/
def locNodes (l : Nat) : List Nat :=
  if l < 4 then (List.range 272).map (272 * l + ·)
  else if l < 8 then (List.range 16).map (1088 + 16 * (l - 4) + ·)
  else (List.range 2).map (1184 + 2 * (l - 8) + ·)

/-- Diode sensors of a location. -/
def locSensors (l : Nat) : List Nat :=
  if l < 4 then (List.range 8).map (8 * l + ·)
  else if l < 8 then (List.range 8).map (32 + 8 * (l - 4) + ·)
  else (List.range 2).map (64 + 2 * (l - 8) + ·)

/-- The location a sensor sits in; the inlet sensor sits in none. -/
def sensorLoc (k : Nat) : Option Nat :=
  if k < 32 then some (k / 8) else if k < 64 then some (4 + (k - 32) / 8) else if k < 80 then some (8 + (k - 64) / 2) else none

def locRegion (l : Nat) : Nat := if l < 4 then l else if l < 8 then l - 4 else (l - 8) / 2

/-- Location code of the event bodies of R443. -/
def locCode (l : Nat) : Nat := if l < 4 then 0 else if l < 8 then 1 else 2

/-- Warning, throttle and shutdown levels and hysteresis, in tenths of a degree (table *Thermal thresholds*). -/
def locLevels (l : Nat) : Int × Int × Int × Int :=
  if l < 4 then (950, 1030, 1120, 50) else if l < 8 then (850, 920, 1000, 40) else (800, 880, 950, 40)

def hottest (t : Table Int) (ks : List Nat) : Int := (ks.map fun k => t.get 0 k).foldl max (t.get 0 (ks.headD 0))

/-- What the levels are compared with: the hottest node, or during a model fault the sensor readings plus 8 °C (R441, R442). -/
def locTemp (s : State) (l : Nat) : Int :=
  if s.therm.modelFault then hottest s.therm.sensor (locSensors l) + 80 else hottest s.therm.node (locNodes l)

/-- The state of a level flag after a comparison: set at the level, cleared below it less the hysteresis. -/
def levelFlag (was : Bool) (t level hyst : Int) : Bool := decide (level ≤ t) || (was && !decide (t < level - hyst))

/-- Compare one location with its warning and throttle levels, and tell each crossing once (R443). -/
def judgeLocation (l : Nat) (s : State) : State :=
  let t := locTemp s l
  let (w, th, _, h) := locLevels l
  let w0 := s.therm.warn.get false l
  let t0 := s.therm.throttle.get false l
  let w1 := levelFlag w0 t w h
  let t1 := levelFlag t0 t th h
  let body := leBytes 1 (locRegion l) ++ leBytes 1 (locCode l) ++ leBytes 1 (twos 8 (t / 10))
  let s := s.modTherm fun m => { m with warn := m.warn.set false l w1, throttle := m.throttle.set false l t1 }
  let s := if w1 && !w0 then raiseEvent 0x61 0 body s else s
  if t1 && !t0 then raiseEvent 0x62 0 body (powerCount 4 s) else s

def judgeLocations (s : State) : State := (List.range 16).foldl (fun s l => judgeLocation l s) s

/-- A location has reached its shutdown level (R445). -/
def atShutdown (s : State) : Bool := (List.range 16).any fun l => decide ((locLevels l).2.2.1 ≤ locTemp s l)

/-- Bixus has written the model's calibration: the model runs from STARTING on, also in a FAULT reached after it (R440, R446). -/
def modelRuns (s : State) : Bool := !(s.dev == .off) && s.therm.cal.isSome

/-- The node a sensor sits at: one of its location's, which the manual does not number (log 4). An engine has a sensor at each of its two nodes. -/
def sensorNode (k : Nat) : Nat :=
  match sensorLoc k with
  | some l => if l < 8 then (locNodes l).getD (Config.sensorPlace k % (locNodes l).length) 0 else 1184 + (k - 64)
  | none => 1200

/-- The readings name every one of the 81 sensors. -/
def allRead (readings : List SensorVal) : Bool := (List.range 81).all fun k => readings.any fun v => v.sensor.val == k

/-- Take one reading; where the model runs, the offset at the sensor's node is corrected (R441). -/
def takeReading (v : SensorVal) (s : State) : State :=
  let n := sensorNode v.sensor
  let runs := modelRuns s
  s.modTherm fun m =>
    let m := { m with sensor := m.sensor.set 0 v.sensor v.deciC }
    if runs then { m with offset := m.offset.mod 0 n (· + (v.deciC - m.node.get 0 n)), node := m.node.set 0 n v.deciC } else m

/-- Distance of a reading from the model's estimate at its node. -/
def readingGap (s : State) (v : SensorVal) : Nat := (v.deciC - s.therm.node.get 0 (sensorNode v.sensor)).natAbs

/-- SENSOR_READ (R441): the estimates are compared before they are corrected. Before the model runs there is no estimate to compare. -/
def execSensorRead (readings : List SensorVal) (s : State) : Out :=
  if s.dev == .off then .next s
  else
    let far := if modelRuns s then readings.find? fun v => decide (80 < readingGap s v) else none
    let near := modelRuns s && allRead readings && readings.all fun v => decide (readingGap s v ≤ 40)
    let s0 := s
    let s := readings.foldl (fun s v => takeReading v s) s
    let s := s.modTherm fun m => { m with agree := if near then m.agree + 1 else 0 }
    match far with
    | some v =>
      if s.therm.modelFault then .next s
      else
        let body := leBytes 1 (match sensorLoc v.sensor with | some l => locRegion l | none => 0) ++ leBytes 1 v.sensor
          ++ leBytes 1 (twos 8 (s0.therm.node.get 0 (sensorNode v.sensor) / 10)) ++ leBytes 1 (twos 8 (v.deciC / 10))
        .next (raiseEvent 0x63 0 body (raiseRungs (powerCount 5 (s.modTherm fun m => { m with modelFault := true }))))
    | none => .next s

/-- MODEL_FAULT_CLEAR (R441): agreement for 100 ms, which is 100 readings. -/
def execModelFaultClear (s : State) : Out :=
  if s.therm.modelFault && decide (100 ≤ s.therm.agree) then .next (s.modTherm fun m => { m with modelFault := false })
  else .next s

end Sys2Proof.Machine
end

