-- ==== Sys2Proof/Machine/Array.lean ====
section
/-! DEFINITION. What an array tile computes (R102 to R123, R135, R142, R145): the instruction's fields, its descriptors, and the
value of each output as a function of the scratchpad. -/

namespace Sys2Proof.Machine

open Sys2Proof

/-- The ARR slot (R143). -/
structure ArrSlot where
  op : Nat
  fa : Nat
  fb : Nat
  shape : Nat
  sat : Bool
  trap : Bool
  rnd : Bool
  out : Nat
  desc : Nat
  post : Nat
  deriving DecidableEq, Repr

def arrSlot (w : Nat) : ArrSlot :=
  { op := bits w 62 59, fa := bits w 58 54, fb := bits w 53 49, shape := bits w 48 46, sat := bit w 45, trap := bit w 44,
    rnd := bit w 43, out := bits w 42 41, desc := bits w 40 33, post := bits w 32 27 }

/-- A tile descriptor (R144). -/
structure Tile where
  a : Nat
  b : Nat
  sa : Nat
  sb : Nat
  c : Nat
  pitch : Nat
  kgran : Nat
  m : Nat
  n : Nat
  tensor : Nat
  draw : Nat
  base : Nat
  epitch : Nat
  deriving DecidableEq, Repr

def tileOf (d : List Byte) : Tile :=
  { a := field d 0 4, b := field d 4 4, sa := field d 8 4, sb := field d 12 4, c := field d 16 4, pitch := field d 20 4,
    kgran := field d 24 2, m := field d 26 2, n := field d 28 2, tensor := field d 32 4, draw := field d 36 3,
    base := field d 40 8, epitch := field d 48 8 }

/-- Reserved bytes of a tile descriptor are zero. -/
def tileClean (d : List Byte) : Bool :=
  decide (field d 30 2 = 0) && decide (field d 39 1 = 0) && decide (field d 56 8 = 0)

/-- Rate class of a format pair (table *Operand pairs and rates*): 0 FP4, 1 FP8, 2 INT8, 3 16-bit, 4 FP32 split, 5 one-bit. -/
def rateClass (c : Nat) : Nat :=
  match c with
  | 5 => 0 | 10 => 0
  | 3 => 1 | 4 => 1 | 6 => 1 | 7 => 1 | 8 => 1 | 9 => 1
  | 11 => 2
  | 1 => 3 | 2 => 3
  | 0 => 4
  | 12 => 5
  | _ => 6

/-- The pair of formats and the operation are accepted (R103). -/
def pairOk (op fa fb : Nat) : Bool :=
  let k := rateClass fa
  decide (op ≤ 10) && k == rateClass fb && decide (k < 6) && isMx fa == isMx fb
    && ((op == 10) == (k == 4)) && ((op == 9) == (k == 5))

/-- K indices of a granule (R102). -/
def granule (k : Nat) : Nat :=
  match k with
  | 0 => 64 | 1 => 32 | 2 => 32 | 3 => 16 | 4 => 16 | _ => 256

/-- Rows and columns of a part, and the number of parts (R139). -/
def shapeDims (sh : Nat) : Nat × Nat × Nat :=
  match sh with
  | 0 => (128, 128, 1) | 1 => (64, 256, 1) | 2 => (256, 64, 1) | 3 => (128, 64, 2) | 4 => (64, 64, 4) | _ => (128, 1, 1)

/-- The accumulator is an integer: INT8 operands, counts and HAMMING. -/
def intAcc (op fa : Nat) : Bool := fa == 11 || (decide (6 ≤ op) && decide (op ≤ 9))

/-- Counts are unsigned. -/
def isCount (op : Nat) : Bool := decide (6 ≤ op) && decide (op ≤ 9)

/-- OUT applies to the accumulator (table *Output codes*). -/
def outOk (op fa out : Nat) : Bool :=
  match out with
  | 0 => true
  | 3 => intAcc op fa
  | _ => !intAcc op fa

/-- Bytes of an output. -/
def outBytes (out : Nat) : Nat := if out = 1 ∨ out = 2 then 2 else 4

/-- The tile's fields lie in their ranges (R146). That a C_PITCH below N_COUNT × output size, and a scale offset of an unscaled format other
than 0, break the range that the descriptor's table gives the field is DEDUCED (log 119); an address beyond the scratchpad is left to the
part that makes the access (R154, R541). -/
def tileOk (s : ArrSlot) (t : Tile) : Bool :=
  let (mp, np, _) := shapeDims s.shape
  let low := fun x => decide (x < 2 ^ 23)
  low t.a && low t.b && t.a % 64 == 0 && t.b % 64 == 0 && t.c % 16 == 0 && t.pitch % 16 == 0
    && (isMx s.fa || (t.sa == 0 && t.sb == 0)) && decide (t.n * outBytes s.out ≤ t.pitch)
    && decide (1 ≤ t.kgran) && decide (t.kgran ≤ 4095) && decide (1 ≤ t.m) && decide (t.m ≤ mp) && decide (1 ≤ t.n) && decide (t.n ≤ np)

/-- The slot itself is accepted (R103, R109, R146). -/
def arrSlotOk (w : Nat) : Bool :=
  let s := arrSlot w
  let (_, _, parts) := shapeDims s.shape
  decide (bits w 26 0 = 0) && pairOk s.op s.fa s.fb && decide (s.shape ≤ 5) && outOk s.op s.fa s.out
    && !(s.shape == 5 && (s.op == 9 || s.op == 10)) && decide (s.desc + parts ≤ 256)

/-- K extent of a tile. -/
def tileK (s : ArrSlot) (t : Tile) : Nat := t.kgran * granule (rateClass s.fa)

/-- Row `i` of A, or column `l` of B, is one for which the feeder substitutes +0: beyond the counts of an MM shape (R145). -/
def padded (s : ArrSlot) (count x : Nat) : Bool := s.shape != 5 && decide (count ≤ x)

/-- Raw codes of A[i][k] and B[k][l] as they reach a cell (R142, R145). -/
def codeA (m : Mem) (s : ArrSlot) (t : Tile) (i k : Nat) : Nat :=
  let (mp, _, _) := shapeDims s.shape
  if padded s t.m i then 0 else elem m t.a (widthOf s.fa) (if s.shape = 5 then i * tileK s t + k else k * mp + i)

def codeB (m : Mem) (s : ArrSlot) (t : Tile) (l k : Nat) : Nat :=
  let (_, np, _) := shapeDims s.shape
  if padded s t.n l then 0 else elem m t.b (widthOf s.fb) (k * np + l)

/-- The same as values. -/
def elemA (m : Mem) (s : ArrSlot) (t : Tile) (i k : Nat) : FV :=
  let (mp, _, _) := shapeDims s.shape
  if padded s t.m i then .fin false 0 0 else scaled s.fa (codeA m s t i k) (m.read (t.sa + k / 32 * mp + i)).toNat

def elemB (m : Mem) (s : ArrSlot) (t : Tile) (l k : Nat) : FV :=
  let (_, np, _) := shapeDims s.shape
  if padded s t.n l then .fin false 0 0 else scaled s.fb (codeB m s t l k) (m.read (t.sb + k / 32 * np + l)).toNat

/-- An accumulator: an FP32 value, or a 32-bit pattern. -/
inductive Acc where
  | fp (x : FV)
  | int (v : Nat)
  deriving DecidableEq, Repr

/-- The operation's identity (table *Accumulator identities*). The integer minimum and maximum start at the ends of the range
(log 50). -/
def identity (op fa : Nat) : Acc :=
  if intAcc op fa then
    match op with
    | 1 => .int (2 ^ 31 - 1)
    | 2 => .int (2 ^ 31)
    | 3 => .int (2 ^ 31)
    | _ => .int 0
  else
    match op with
    | 1 => .fp (.inf false)
    | 2 => .fp (.inf true)
    | 3 => .fp (.inf true)
    | _ => .fp (.fin false 0 0)

/-- The exact floating-point term of one element pair. -/
def termOf (op : Nat) (a b : FV) : FV :=
  match op with
  | 1 => a.add b
  | 2 => a.add b
  | 4 => (a.sub b).abs
  | 5 => (a.sub b).mul (a.sub b)
  | _ => a.mul b

/-- The integer term of one INT8 pair. -/
def intTerm (op : Nat) (a b : Int) : Int :=
  match op with
  | 1 => a + b
  | 2 => a + b
  | 4 => (a - b).natAbs
  | 5 => (a - b) * (a - b)
  | _ => a * b

/-- The comparison of a count holds (R122). -/
def countHit (op : Nat) (a b : FV) : Bool :=
  match op with
  | 6 => b.lt a
  | 7 => b.lt a || a.same b
  | 8 => a.same b
  | _ => false

/-- Combine two accumulators by the operation's combining step; used for a term and at the nodes of the MV tree (R109, R120). -/
def combine (op : Nat) (sat : Bool) (x y : Acc) : Acc :=
  match x, y with
  | .fp a, .fp b =>
    match op with
    | 1 => .fp (a.min b)
    | 2 => .fp (a.max b)
    | 3 => .fp (a.max b)
    | _ => .fp (round32 sat (a.add b))
  | .int a, .int b =>
    match op with
    | 1 => .int (twos 32 (min (untwos 32 a) (untwos 32 b)))
    | 2 => .int (twos 32 (max (untwos 32 a) (untwos 32 b)))
    | 3 => .int (twos 32 (max (untwos 32 a) (untwos 32 b)))
    | _ => .int ((a + b) % 2 ^ 32)
  | x, _ => x

/-- Group size G (R106). -/
def groupOf (fa : Nat) : Nat := if rateClass fa = 0 then 2 else 1

/-- The group term at K indices k .. k + G − 1 for output (i, l), as an accumulator to combine (R105, R106, R120, R122). The exact sum of an FP4
group that is zero is −0 only when both of its products are −0 (DEDUCED, log 138). -/
def groupTerm (m : Mem) (s : ArrSlot) (t : Tile) (i l k : Nat) : Acc :=
  let ks := (List.range (groupOf s.fa)).map (k + ·)
  if s.op = 9 then .int (((ks.map fun k => if codeA m s t i k = codeB m s t l k then 0 else 1).sum : Nat) % 2 ^ 32)
  else if isCount s.op then
    .int (((ks.map fun k => if countHit s.op (elemA m s t i k) (elemB m s t l k) then 1 else 0).sum : Nat) % 2 ^ 32)
  else if s.fa = 11 then
    .int (twos 32 (intTerm s.op (untwos 8 (codeA m s t i k)) (untwos 8 (codeB m s t l k))))
  else
    let ts := ks.map fun k => termOf s.op (elemA m s t i k) (elemB m s t l k)
    match s.op with
    | 1 => .fp (ts.foldl (fun x t => x.min (round32 s.sat t)) (.inf false))
    | 2 => .fp (ts.foldl (fun x t => x.max (round32 s.sat t)) (.inf true))
    | 3 => .fp (ts.foldl (fun x t => x.max (round32 s.sat t)) (.inf true))
    | _ =>
      match ts with
      | [] => .fp (.fin false 0 0)
      | x :: xs => .fp (xs.foldl FV.add x)

/-- hi and lo of an FP32 operand (R112). -/
def splitHi (x : FV) : FV :=
  match x with
  | .fin s m e =>
    let c := fp32.narrow false none (.fin s m e)
    fp32.decode (c / 2 ^ 16 * 2 ^ 16)
  | v => v

def splitLo (x : FV) : FV :=
  match x with
  | .fin s m e => bf16.decode (bf16.narrow false none ((FV.fin s m e).sub (splitHi (.fin s m e))))
  | _ => .fin false 0 0

/-- One K index of SPLIT32: three steps (R112). -/
def splitStep (sat : Bool) (acc : Acc) (a b : FV) : Acc :=
  let acc := combine 0 sat acc (.fp ((splitLo a).mul (splitHi b)))
  let acc := combine 0 sat acc (.fp ((splitHi a).mul (splitLo b)))
  combine 0 sat acc (.fp ((splitHi a).mul (splitHi b)))

/-- One level of the balanced tree: adjacent results pair. A node rounds with ties to even; SATURATE acts on the accumulation
step alone, which a node is not (R109, R110; log 50). -/
def pairUp (op : Nat) : List Acc → List Acc
  | x :: y :: r => combine op false x y :: pairUp op r
  | r => r

def treeOf (op : Nat) : Nat → List Acc → List Acc
  | 0, xs => xs
  | n + 1, xs => treeOf op n (pairUp op xs)

/-- K indices of an MV step (R109). -/
def mvStep (fa : Nat) : Nat :=
  match rateClass fa with
  | 0 => 256
  | 3 => 64
  | _ => 128

/-- The accumulator of output (i, l) of a part once its first `k` K indices have entered (R107, R109, R112). -/
def accAfter (k : Nat) (m : Mem) (s : ArrSlot) (t : Tile) (i l : Nat) : Acc :=
  let g := groupOf s.fa
  if s.op = 10 then
    (List.range k).foldl (fun acc k => splitStep s.sat acc (elemA m s t i k) (elemB m s t l k)) (identity s.op s.fa)
  else if s.shape = 5 then
    let leaves := mvStep s.fa / g
    let steps := (k + mvStep s.fa - 1) / mvStep s.fa
    (List.range steps).foldl
      (fun acc st =>
        let ls := (List.range leaves).map fun j =>
          let k0 := st * mvStep s.fa + j * g
          if k0 < k then groupTerm m s t i 0 k0 else identity s.op s.fa
        match treeOf s.op 7 ls with
        | r :: _ => combine s.op s.sat acc r
        | [] => acc) (identity s.op s.fa)
  else (List.range (k / g)).foldl (fun acc j => combine s.op s.sat acc (groupTerm m s t i l (j * g))) (identity s.op s.fa)

/-- The final accumulator of output (i, l) of a part. -/
def outputAcc (m : Mem) (s : ArrSlot) (t : Tile) (i l : Nat) : Acc := accAfter (tileK s t) m s t i l

/-- The accumulator holds a NaN (R113). -/
def Acc.isNan : Acc → Bool
  | .fp x => x.isNan
  | .int _ => false

/-- The drain's conversion of an accumulator to the output's bits (R123, R135); `w` is the element's random word under SROUND. -/
def drainCode (s : ArrSlot) (w : Option Nat) (acc : Acc) : Nat :=
  match acc with
  | .fp x =>
    match s.out with
    | 1 => bf16.narrow s.sat w x
    | 2 => fp16.narrow s.sat w x
    | _ => fp32.narrow s.sat none x
  | .int v =>
    if s.out = 3 then fp32.narrow s.sat (if isCount s.op then none else w) (ofInt (if isCount s.op then (v : Int) else untwos 32 v)) else v

/-- Poison fill of the output format (R155). -/
def poisonFill (s : ArrSlot) : Nat :=
  match s.out with
  | 1 => 0x7FC0
  | 2 => 0x7E00
  | 3 => 0x7FC00000
  | _ => if intAcc s.op s.fa then 0x80000000 else 0x7FC00000

/-- Byte offset of output (i, l) (R135). -/
def outAddr (s : ArrSlot) (t : Tile) (i l : Nat) : Nat := t.c + i * t.pitch + l * outBytes s.out

/-- The output positions that the drain writes. -/
def outputs (t : Tile) : List (Nat × Nat) := (List.range t.m).flatMap fun i => (List.range t.n).map fun l => (i, l)

/-- Byte ranges that the feeder reads for granules `g0` to `g1 − 1` of a part: panels, and scale side streams (R142, R145). -/
def feedRanges (s : ArrSlot) (t : Tile) (g0 g1 : Nat) : List (Nat × Nat) :=
  let (mp, np, _) := shapeDims s.shape
  let k0 := g0 * granule (rateClass s.fa)
  let n := (g1 - g0) * granule (rateClass s.fa)
  let panel := fun (a w rows : Nat) => (a + streamBytes w (k0 * rows), streamBytes w (n * rows))
  let scale := fun (a rows : Nat) => (a + k0 / 32 * rows, n / 32 * rows)
  let ranges :=
    if s.shape = 5 then
      ((List.range mp).map fun i => (t.a + streamBytes (widthOf s.fa) (i * tileK s t + k0), streamBytes (widthOf s.fa) n))
        ++ [panel t.b (widthOf s.fb) np]
    else [panel t.a (widthOf s.fa) mp, panel t.b (widthOf s.fb) np]
  if isMx s.fa then ranges ++ [scale t.sa mp, scale t.sb np] else ranges

/-- The cell, as row and logical column, that holds output (i, l) of part `p` (R140 to R142): MM.WIDE folds its columns from 128 on back
along the rows 64 below, MM.TALL its rows from 128 on along the columns 64 beyond, and the parts of a split stand beside one another.
An MV output is held in its row, whose terms lie in every column. -/
def cellOf (sh p i l : Nat) : Nat × Nat :=
  match sh with
  | 1 => if l < 128 then (i, l) else (i + 64, 255 - l)
  | 2 => if i < 128 then (i, l) else (255 - i, l + 64)
  | 3 => (i, 64 * p + l)
  | 4 => (64 * (p / 2) + i, 64 * (p % 2) + l)
  | _ => (i, l)

/-- Logical columns of the array that the cells of a part lie in. -/
def partCols (sh p : Nat) : List Nat :=
  let (mp, np, _) := shapeDims sh
  if sh = 5 then List.range 128
  else ([0, mp - 1].flatMap fun i => (List.range np).map fun l => (cellOf sh p i l).2).foldl (fun acc c => insertNat c acc) []

/-- K indices that have entered the accumulators once `n` have been fed: an MV step enters whole, or up to K (R109). -/
def enteredK (n : Nat) (s : ArrSlot) (t : Tile) : Nat :=
  if s.shape = 5 ∧ n < tileK s t then n / mvStep s.fa * mvStep s.fa else n

/-- Some cell of a part, a padded one among them, has read a NaN or produced one once `n` K indices have been fed (R113). TRAP does not act on
counts (R122). -/
def tileNan (n : Nat) (m : Mem) (s : ArrSlot) (t : Tile) : Bool :=
  let (mp, np, _) := shapeDims s.shape
  let fp := !intAcc s.op s.fa
  fp && (((List.range mp).any fun i => (List.range n).any fun k => (elemA m s t i k).isNan)
    || ((List.range np).any fun l => (List.range n).any fun k => (elemB m s t l k).isNan)
    || ((List.range mp).any fun i => (List.range np).any fun l => (accAfter (enteredK n s t) m s t i l).isNan))

end Sys2Proof.Machine
end

