-- ==== Sys2Proof/Machine/Crypto.lean ====
section
/-! DEFINITION. SipHash-1-3 (R65), SHA-256 (R499, R507, R510) and CRC-32 (R278), on bytes. -/

namespace Sys2Proof.Machine

open Sys2Proof

/-! ### SipHash-1-3 -/

def sipRound (v : W64 × W64 × W64 × W64) : W64 × W64 × W64 × W64 :=
  let (v0, v1, v2, v3) := v
  let v0 := v0 + v1
  let v1 := v1.rotateLeft 13 ^^^ v0
  let v0 := v0.rotateLeft 32
  let v2 := v2 + v3
  let v3 := v3.rotateLeft 16 ^^^ v2
  let v0 := v0 + v3
  let v3 := v3.rotateLeft 21 ^^^ v0
  let v2 := v2 + v1
  let v1 := v1.rotateLeft 17 ^^^ v2
  let v2 := v2.rotateLeft 32
  (v0, v1, v2, v3)

/-- One message word, with one compression round. -/
def sipWord (v : W64 × W64 × W64 × W64) (m : W64) : W64 × W64 × W64 × W64 :=
  let (v0, v1, v2, v3) := v
  let (v0, v1, v2, v3) := sipRound (v0, v1, v2, v3 ^^^ m)
  (v0 ^^^ m, v1, v2, v3)

/-- The message as 64-bit little-endian words; the last one ends with the length. -/
def sipWords (bs : List Byte) : List W64 :=
  (List.range (bs.length / 8)).map (fun i => BitVec.ofNat 64 (field bs (8 * i) 8))
    ++ [BitVec.ofNat 64 (leNat (bs.drop (bs.length / 8 * 8)) + bs.length % 256 * 2 ^ 56)]

/-- SipHash-1-3 of a message under key words k0 and k1 (R65). -/
def sipHash (k0 k1 : W64) (bs : List Byte) : W64 :=
  let v := (k0 ^^^ 0x736f6d6570736575#64, k1 ^^^ 0x646f72616e646f6d#64, k0 ^^^ 0x6c7967656e657261#64, k1 ^^^ 0x7465646279746573#64)
  let (v0, v1, v2, v3) := (sipWords bs).foldl sipWord v
  let (v0, v1, v2, v3) := sipRound (sipRound (sipRound (v0, v1, v2 ^^^ 0xff#64, v3)))
  v0 ^^^ v1 ^^^ v2 ^^^ v3

/-! ### SHA-256 -/

/-- The 32-bit words that a number holds, lowest first. -/
def numWords (n v : Nat) : List W32 := (List.range n).map fun i => BitVec.ofNat 32 (bits v (32 * i + 31) (32 * i))

/-- The 64 round constants, sixteen to a number, and the eight words a digest starts from. -/
def shaRounds : List W32 :=
  [0xc19bf1749bdc06a780deb1fe72be5d74550c7dc3243185be12835b01d807aa98ab1c5ed5923f82a459f111f13956c25be9b5dba5b5c0fbcf71374491428a2f98,
   0x1429296706ca6351d5a79147c6e00bf3bf597fc7b00327c8a831c66d983e515276f988da5cb0a9dc4a7484aa2de92c6f240ca1cc0fc19dc6efbe4786e49b69c1,
   0x106aa070f40e3585d6990624d192e819c76c51a3c24b8b70a81a664ba2bfe8a192722c8581c2c92e766a0abb650a735453380d134d2c6dfc2e1b213827b70a85,
   0xc67178f2bef9a3f7a4506ceb90befffa8cc7020884c8781478a5636f748f82ee682e6ff35b9cca4f4ed8aa4a391c0cb334b0bcb52748774c1e376c0819a4c116].flatMap (numWords 16)

def shaStart : List W32 :=
  numWords 8 0x5be0cd191f83d9ab9b05688c510e527fa54ff53a3c6ef372bb67ae856a09e667

/-- The exclusive or of a word rotated right by each of some places. -/
def turned (ps : List Nat) (x : W32) : W32 := ps.foldl (fun acc p => acc ^^^ x.rotateRight p) 0

/-- The next word of a schedule whose words so far stand newest first. -/
def shaNext (ws : List W32) : W32 :=
  let back := fun i => ws.getD (i - 1) 0
  back 16 + back 7 + (turned [7, 18] (back 15) ^^^ (back 15 >>> 3)) + (turned [17, 19] (back 2) ^^^ (back 2 >>> 10))

/-- The schedule of a block, newest word first, lengthened by `n` words. -/
def shaSchedule (n : Nat) (ws : List W32) : List W32 :=
  (List.range n).foldl (fun ws _ => shaNext ws :: ws) ws

/-- One round on the eight working words, `kw` being its constant and its schedule word added. -/
def shaRound (v : List W32) (kw : W32) : List W32 :=
  let at_ := fun i => v.getD i 0
  let choice := at_ 6 ^^^ (at_ 4 &&& (at_ 5 ^^^ at_ 6))
  let most := (at_ 0 &&& (at_ 1 ||| at_ 2)) ||| (at_ 1 &&& at_ 2)
  let mix := kw + at_ 7 + choice + turned [6, 11, 25] (at_ 4)
  (mix + most + turned [2, 13, 22] (at_ 0)) :: v.take 3 ++ (mix + at_ 3) :: (v.drop 4).take 3

def shaBlock (h : List W32) (block : List Byte) : List W32 :=
  let first := (List.range 16).map fun i => BitVec.ofNat 32 (beNat (slice block (4 * i) 4))
  let ws := (shaSchedule 48 first.reverse).reverse
  let out := (List.zipWith (· + ·) shaRounds ws).foldl shaRound h
  List.zipWith (· + ·) h out

/-- SHA-256, as 32 bytes. -/
def sha256 (bs : List Byte) : List Byte :=
  let n := bs.length
  let z := (64 + 55 - n % 64) % 64
  let msg := bs ++ [0x80] ++ zeros z ++ beBytes 8 (8 * n)
  let h := (List.range (msg.length / 64)).foldl (fun h i => shaBlock h (slice msg (64 * i) 64)) shaStart
  h.flatMap fun w => beBytes 4 w.toNat

/-! ### CRC-32 -/

def crcByte : Nat → Nat → Nat
  | 0, c => c
  | n + 1, c => crcByte n (if c % 2 = 1 then (c / 2) ^^^ 0xEDB88320 else c / 2)

/-- CRC-32 of IEEE 802.3: reflected, all ones at start and inverted at the end. -/
def crc32 (bs : List Byte) : Nat :=
  (bs.foldl (fun c b => crcByte 8 (c ^^^ b.toNat)) 0xFFFFFFFF) ^^^ 0xFFFFFFFF

end Sys2Proof.Machine
end

