-- ==== Sys2Proof/Machine/Mesh.lean ====
section
/-! DEFINITION. A region's mesh: its stops, what attaches to them, its links and the way of a packet (R22, R23). -/

namespace Sys2Proof.Machine

open Sys2Proof

/-- A stop (x, y), as 8·y + x. -/
def stopAt (x y : Nat) : Nat := 8 * y + x

def stopX (k : Nat) : Nat := k % 8

def stopY (k : Nat) : Nat := k / 8

/-- Units that attach to a region's stops (table *Mesh stop attachments*). -/
inductive MeshUnit where
  | block (pb : Nat)
  | channel (c : Nat)
  | cacheSlice (k : Nat)
  | collective
  | clockwise
  | counterClockwise
  | engine (second : Bool)
  | package
  deriving DecidableEq, Repr

/-- The stops that a unit attaches to, the lanes of a link or an engine spread over eight of them. -/
def attachments (u : MeshUnit) : List Nat :=
  match u with
  | .block pb => if pb < 64 then [pb] else [[stopAt 0 3, stopAt 7 3, stopAt 0 4, stopAt 7 4].getD (pb - 64) 0]
  | .channel c => [c]
  | .cacheSlice k => [k]
  | .collective => [stopAt 3 3, stopAt 4 3, stopAt 3 4, stopAt 4 4]
  | .clockwise => (List.range 8).map (stopAt 7)
  | .counterClockwise => (List.range 8).map (stopAt 0)
  | .engine false => (List.range 8).map fun x => stopAt x 0
  | .engine true => (List.range 8).map fun x => stopAt x 7
  | .package => [stopAt 0 0]

/-- Bytes that a unit's port takes in an NCLK in each direction; a mesh link takes 128. -/
def portWidth (u : MeshUnit) : Nat :=
  match u with
  | .channel _ => 64
  | .clockwise => 256
  | .counterClockwise => 256
  | .engine _ => 256
  | _ => 128

/-- The neighbour of a stop on a side; none at the edge of the mesh. -/
def neighbour (k : Nat) (d : MeshSide) : Option Nat :=
  match d with
  | .west => if stopX k = 0 then none else some (k - 1)
  | .east => if stopX k = 7 then none else some (k + 1)
  | .north => if stopY k = 0 then none else some (k - 8)
  | .south => if stopY k = 7 then none else some (k + 8)

/-- The next stop of a packet at `k` that goes to `t`: first along x, then along y (R23). -/
def meshNext (k t : Nat) : Nat :=
  if stopX k < stopX t then k + 1
  else if stopX t < stopX k then k - 1
  else if stopY k < stopY t then k + 8
  else if stopY t < stopY k then k - 8
  else k

/-- The stops that a packet passes after `k` on its way to `t`. Fuel bounds the hops: at most 14. -/
def meshPath : Nat → Nat → Nat → List Nat
  | 0, _, _ => []
  | n + 1, k, t => if k = t then [] else meshNext k t :: meshPath n (meshNext k t) t

/-- Key of the mesh link by which stop `k` of region `r` receives from its neighbour on side `d`. -/
def meshKey (r k : Nat) (d : MeshSide) : Nat :=
  4 * (4 * k + (match d with | .north => 0 | .east => 1 | .south => 2 | .west => 3)) + r

end Sys2Proof.Machine
end

