-- ==== Sys2Proof/Machine/Links.lean ====
section
/-! DEFINITION. The die-to-die ring and the meshes (R14, R15, R229 to R233, R454). -/

namespace Sys2Proof.Machine

open Sys2Proof

def State.modRing (f : Ring → Ring) (s : State) : State := { s with ring := f s.ring }

/-- Key of a link direction. -/
def dirKey (l : Nat) (t : Turn) : Nat := 2 * l + (match t with | .cw => 0 | .ccw => 1)

def d2dDir (s : State) (k : Nat) : D2dDir := s.ring.dir.get {} k

/-- The regions that traffic from `r` to `t` crosses, both ends included (R15). -/
def route (r t : Nat) : List Nat :=
  if r = t then [r] else if (r + 2) % 4 = t then [r, (r + 1) % 4, t] else [r, t]

/-- The link that joins two neighbouring regions (R14). -/
def linkOf (a b : Nat) : Nat := if (a + 1) % 4 = b then a else b

/-- Links on the way from `r` to `t`. -/
def routeLinks (r t : Nat) : List Nat :=
  if r = t then [] else if (r + 2) % 4 = t then [linkOf r ((r + 1) % 4), linkOf ((r + 1) % 4) t] else [linkOf r t]

/-- Every region and every link on the way is in service (R463, R464). -/
def pathUp (s : State) (r t : Nat) : Bool :=
  (route r t).all (fun x => regionUp s x) && (routeLinks r t).all (fun l => !s.ring.down.get false l)

/-- Both ways between two regions are up: a request gets there and its answer back (R463). -/
def roundTrip (s : State) (r t : Nat) : Bool := pathUp s r t && pathUp s t r

/-- Where the management core's messages start: the always-on domain, which is in no region's mesh (R17). -/
def alwaysOn : Nat := 4

/-- A packet that lies in region `r`, or in the always-on domain, can reach region `t`: by mesh and ring, or by the management link
that the always-on domain has to every region (R17). -/
def reaches (s : State) (r t : Nat) : Bool := if r = alwaysOn then regionUp s t else pathUp s r t

/-- Width code for a number of failed lanes (table *Link width*). -/
def widthCode (n : Nat) : Nat := if n ≤ 16 then 0 else if n ≤ 80 then 1 else if n ≤ 144 then 2 else if n ≤ 208 then 3 else 4

/-- The region that sends in a direction, and the one that receives. -/
def dirRegion (k : Nat) : Nat := if k % 2 = 0 then k / 2 else (k / 2 + 1) % 4

def dirTarget (k : Nat) : Nat := if k % 2 = 0 then (k / 2 + 1) % 4 else k / 2

/-- The direction in which traffic from region `a` to another region `t` leaves `a` (R15). -/
def dirTowards (a t : Nat) : Nat := if (a + 3) % 4 = t then 2 * t + 1 else 2 * a

/-- Add lanes to an ascending list. -/
def addLanes (new old : List Nat) : List Nat :=
  (List.range 272).filter fun x => old.contains x || new.contains x

/-- Lanes of a direction have failed (R231, R233): it retrains with spares or narrower; above 208 failed lanes it falls silent. -/
def lanesFail (link : Fin 4) (turn : Turn) (lanes : List Nat) (s : State) : State :=
  let k := dirKey link turn
  let d := d2dDir s k
  let new := lanes.filter fun x => !d.failed.contains x
  if s.ring.down.get false link || d.silent || new.isEmpty then s
  else
    let failed := addLanes new d.failed
    let d := if 208 < failed.length then { d with failed := failed, silent := true, retraining := false, width := 4 }
      else { d with failed := failed, fresh := addLanes new d.fresh, retraining := true }
    let s := s.modRing fun g => { g with dir := g.dir.set {} k d }
    if 16 ≤ failed.length then spareExhausted 4 (dirRegion k) link (k % 2) s else s

/-- D2D_LANE_FAIL (R231, R233). -/
def execD2dLaneFail (link : Fin 4) (turn : Turn) (lanes : List (Fin 272)) (s : State) : Out :=
  .next (lanesFail link turn (lanes.map fun x => x.val) s)

/-- The record of one lane that a retrain has taken out (R232). -/
def laneRecord (link k width narrowed lane : Nat) : Record :=
  { level := 3, cls := 1, flags := 1, code := if narrowed = 1 then 0x402 else 0x401, region := some (dirRegion k), part := link,
    lane := lane + (k % 2) * 2 ^ 15, detail := width }

/-- D2D_RETRAIN_COMPLETE (R231, R232): the width takes effect and is never wider than before. -/
def execD2dRetrainComplete (link : Fin 4) (turn : Turn) (s : State) : Out :=
  let k := dirKey link turn
  let d := d2dDir s k
  if d.retraining then
    let w := max d.width (widthCode d.failed.length)
    let s := s.modRing fun g => { g with dir := g.dir.set {} k { d with retraining := false, fresh := [], width := w } }
    .next (d.fresh.foldl (fun s x => record (laneRecord link k w (if d.width < w then 1 else 0) x) s) s)
  else .next s

/-- The flit that a direction's sender sends next: the first of a replay that it has been asked for, or the one in turn. The replay begins at the
latest when flit `n` is the oldest of the 128 that it keeps, so that no flit is lost (R229). -/
def D2dDir.sends (d : D2dDir) (replay : Bool) : Nat :=
  match d.asked with
  | some n => if replay || decide (n + 128 ≤ d.txNew) then n else d.txNext
  | none => d.txNext

/-- The bytes of flit `n`, where the sender has sent it before. -/
def D2dDir.again (d : D2dDir) (n : Nat) : Option (List Byte) := if n < d.txNew ∧ d.txNew ≤ n + d.kept.length then d.kept[n + d.kept.length - d.txNew]? else none

/-- The sender has sent flit `n` with the bytes given. -/
def D2dDir.sent (d : D2dDir) (n : Nat) (bytes : List Byte) : D2dDir :=
  if n < d.txNew then { d with txNext := n + 1 }
  else { d with txNext := n + 1, txNew := n + 1, kept := (d.kept ++ [bytes]).drop (d.kept.length - 127) }

/-- The receiver takes flit `n` in order and once, or asks for a replay from the flit that it awaits. -/
def D2dDir.receive (d : D2dDir) (n : Nat) (good : Bool) : D2dDir :=
  if good && n == d.rxNext then { d with rxNext := n + 1, asked := none }
  else if good && decide (n < d.rxNext) then d
  else { d with asked := some d.rxNext }

/-- A flit on its link: its 256 bytes, then its CRC-32 (R229; log 134). -/
def d2dFlit (bytes : List Byte) : List Byte := padTo 256 bytes ++ leBytes 4 (crc32 (padTo 256 bytes))

/-- What arrives of a flit when the bits of `damage` have been turned over on the way. -/
def damaged (flit damage : List Byte) : List Byte := (flit.zip (padTo 260 damage)).map fun (a, b) => a ^^^ b

/-- The CRC-32 of what has arrived holds. -/
def d2dGood (flit : List Byte) : Bool := crc32 (slice flit 0 256) == field flit 256 4

/-- MESH_FLIT_RECEIVE (R454): a stop receives a flit from its neighbour on a side; one with a failing CRC is asked for again and recorded. -/
def execMeshFlitReceive (r : Fin 4) (stop : Fin 64) (side : MeshSide) (crcGood : Bool) (s : State) : Out :=
  if regionRuns s r && (neighbour stop side).isSome then
    let k := meshKey r stop side
    if crcGood then .next (s.modRing fun g => { g with meshFails := g.meshFails.set 0 k 0 })
    else
      .next (record { level := 2, cls := 1, code := 0x308, region := some r.val }
        (s.modRing fun g => { g with meshFails := g.meshFails.mod 0 k (· + 1) }))
  else .next s

/-- A flit of region `r` has failed its first receipt and 8 retries (R454). -/
def meshIsDown (s : State) (r : Nat) : Bool := s.ring.meshFails.any fun (k, n) => decide (k % 4 = r) && decide (9 ≤ n)

end Sys2Proof.Machine
end

