-- ==== Sys2Proof/Machine/Routes.lean ====
section
/-! DEFINITION. Routing tables in force and lane classes (R263, R272, R300). -/

namespace Sys2Proof.Machine

open Sys2Proof

def State.modFab (f : Fabric → Fabric) (s : State) : State := { s with fab := f s.fab }

/-- Count an event of kind `k` (`FAB_COUNT_k`). -/
def fabCount (k : Nat) (s : State) : State := s.modFab fun f => { f with count := f.count.mod 0 k (· + 1) }

/-- Payload of the bank in force; a bank without one reads as zero, so that no entry of it is valid (R300). -/
def routes (s : State) : List Byte := s.fab.banks.get [] s.fab.bank

/-- In-group entry of member `m`. -/
def ingroup (s : State) (m : Nat) : Nat := field (routes s) (16 + 4 * m) 4

def inValid (s : State) (m : Nat) : Bool := bit (ingroup s m) 31

def inPorts (s : State) (m : Nat) : Nat := bits (ingroup s m) 15 0

/-- Group entry of group `g`. -/
def groupEntry (s : State) (g : Nat) : Nat := field (routes s) (144 + 8 * g) 8

def escNext (s : State) : Nat := field (routes s) 4 2 % 8192

/-- ESC_VIA, where VIA_VALID is 1. -/
def escVia (s : State) : Option Nat := if bit (field (routes s) 6 2) 15 then some (field (routes s) 6 2 % 8192) else none

def fmDevice (s : State) : Nat := field (routes s) 8 2 % 8192

/-- The DEVICE field of R313: the number, or UNNUMBERED. -/
def deviceField (s : State) : Nat := match s.fab.number with | some n => n | none => 32768

/-- A group entry pairs this device's member number with landing device `d` (R263). -/
def landsAt (s : State) (m d : Nat) : Bool :=
  let e := groupEntry s (d / 32)
  bit e 63 && ((bits e 62 58 == m && bits e 57 53 == d % 32) || (bit e 52 && bits e 51 47 == m && bits e 46 42 == d % 32))

/-- The tables in force name the lanes of port `p` whose learned peer is `peer` (R263). -/
def isService (s : State) (p : Nat) (peer : Option (Nat × Nat)) : Bool :=
  match s.fab.number with
  | none => false
  | some n =>
    (List.range 32).any (fun m => inValid s m && bit (inPorts s m) p) ||
      match peer with
      | none => false
      | some (d, _) => (decide (8 ≤ p) && landsAt s (n % 32) d) || d == escNext s || escVia s == some d

end Sys2Proof.Machine
end

