-- ==== Sys2Proof/Machine/Optical.lean ====
section
/-! DEFINITION. Ring positions, comb lines, ports and heaters (R234 to R263, R269, R270), and the commands that act on them
alone. -/

namespace Sys2Proof.Machine

open Sys2Proof

def State.modOe (f : Optics → Optics) (s : State) : State := { s with oe := f s.oe }

/-! ### Positions -/

/-- Key of a position: transmit 68·port + w, receive 68·port + 34 + w. -/
def posKey (p : Pos) : Nat := 68 * p.port + (match p.dir with | .tx => 0 | .rx => 34) + p.w

def posAt (s : State) (k : Nat) : PosSt := s.oe.pos.get {} k

def State.modPos (k : Nat) (f : PosSt → PosSt) (s : State) : State := s.modOe fun o => { o with pos := o.pos.mod {} k f }

/-- Enter a state. -/
def enterPos (k : Nat) (st : PosState) (s : State) : State := s.modPos k fun p => { p with st := st, since := s.aon, frame := 0 }

/-- Ring of a position: its key in `cal` and in the thermal model's ring estimates, 136·engine + 68·bank + 34·j + w. -/
def ringKey (k : Nat) : Nat := 136 * (k / 136) + 68 * (k % 68 / 34) + 34 * (k / 68 % 2) + k % 34

def calOf (s : State) (k : Nat) : Cal := s.oe.cal.get {} (ringKey k)

/-- State code (table *Lane state codes*). -/
def PosState.code : PosState → Nat
  | .off => 0
  | .search => 1
  | .plumb => 2
  | .mislocked => 3
  | .train => 4
  | .active => 5
  | .unlocked => 6
  | .retired => 7
  | .standby => 8
  | .dark => 9

def engineOf (s : State) (e : Nat) : Engine := s.oe.eng.get {} e

def State.modEng (e : Nat) (f : Engine → Engine) (s : State) : State := s.modOe fun o => { o with eng := o.eng.mod {} e f }

/-- An engine has started. -/
def engineUp (s : State) (e : Nat) : Bool := decide (2 ≤ (engineOf s e).st)

def portMode (s : State) (p : Nat) : Nat := (s.oe.port.get {} p).mode

/-- Positions of a port in one direction: 0 transmit, 1 receive. -/
def portPositions (p d : Nat) : List Nat := (List.range 34).map (68 * p + 34 * d + ·)

/-- The ACTIVE position of a direction that carries a line. The ports of a region that is not UP are dark, whatever state their positions
show (R463, R532). -/
def activePos (s : State) (p d line : Nat) : Option Nat :=
  if regionUp s (p / 4) then (portPositions p d).find? fun k => (posAt s k).st == .active && (posAt s k).line == line else none

/-- Lines of a port that have an ACTIVE position in a direction, ascending (R271). -/
def activeLines (s : State) (p d : Nat) : List Nat := (List.range 34).filter fun l => (activePos s p d l).isSome

/-! ### Links and their lanes -/

/-- Key of the link that a line of a port belongs to (R280). -/
def linkKey (s : State) (p line : Nat) : Nat := if portMode s p = 1 then 34 * p else 34 * p + line

/-- The modulator driver of a lane is on: in keep-alive those of scheduled lanes are off (R269). -/
def driverOn (s : State) (p line : Nat) : Bool :=
  match activePos s p 0 line with
  | some k => (posAt s k).service || !(engineOf s (p / 2)).keepalive
  | none => false

/-- Lines of a port that can carry flits now, ascending. -/
def sendingLines (s : State) (p : Nat) : List Nat := (List.range 34).filter (driverOn s p)

/-- No lane of a link can carry a flit now. -/
def linkMute (s : State) (p line : Nat) : Bool := if portMode s p = 1 then (sendingLines s p).isEmpty else !driverOn s p line

/-- The transmit lanes of a link are out of ACTIVE, all of them. -/
def linkDown (s : State) (p line : Nat) : Bool :=
  if portMode s p = 1 then (activeLines s p 0).isEmpty else (activePos s p 0 line).isNone

/-- The receive lanes of a link are out of ACTIVE, all of them. -/
def rxDown (s : State) (p line : Nat) : Bool :=
  if portMode s p = 1 then (activeLines s p 1).isEmpty else (activePos s p 1 line).isNone

/-- The receive side of a link whose lane is ACTIVE again: after 100 ms the sender has discarded its store and begins at SEQ 0 (R280; log 106). -/
def Link.rxBack (now : Nat) (k : Link) : Link :=
  if k.rxDownAt ≠ 0 ∧ k.rxDownAt - 1 + 5000000 ≤ now then { k with rxDownAt := 0, rxNext := 0, nak := false, nakOwed := false, stream := [] }
  else { k with rxDownAt := 0 }

/-- Note whether a link has lost its last ACTIVE lane of a direction, or has one again (R280). -/
def noteLink (p line : Nat) (s : State) : State :=
  s.modFab fun f =>
    { f with link := f.link.mod {} (linkKey s p line) fun k =>
        let k := { k with downAt := if !linkDown s p line then 0 else if k.downAt = 0 then s.aon + 1 else k.downAt }
        if rxDown s p line then { k with rxDownAt := if k.rxDownAt = 0 then s.aon + 1 else k.rxDownAt } else k.rxBack s.aon }

/-- Move a position between states, and note its link. -/
def movePos (k : Nat) (st : PosState) (s : State) : State := noteLink (k / 68) (posAt s k).line (enterPos k st s)

/-! ### Failures and spares (R253, R257) -/

/-- The lowest spare position of position `k`'s port and direction that is in STANDBY on its own line. -/
def spareFor (s : State) (k : Nat) : Option Nat :=
  ([32, 33].map fun w => 34 * (k / 34) + w).find? fun j => (posAt s j).st == .standby

/-- A spare of a port and direction has been taken: with none left in STANDBY the pool is exhausted (R455). -/
def spareTaken (k : Nat) (s : State) : State :=
  if (spareFor s k).isNone then spareExhausted 5 (k / 272) (k / 68) (k % 68 / 34) s else s

/-- Retire a position (R253); a data position's line passes to a spare (R257), and with it the result of the lane's last margin test (R266). -/
def retirePos (k : Nat) (s : State) : State :=
  let line := (posAt s k).line
  let s := movePos k .retired s
  let spare := if k % 34 < 32 then spareFor s k else none
  let s := match spare with
    | some j => movePos j .plumb (s.modPos j fun p => { p with line := line, margin := (posAt s k).margin })
    | none => s
  let took := if spare.isSome then 1 else 0
  let s := record { level := 3, cls := 1, flags := took, code := 0x406, region := some (k / 272), part := k / 136, sub := k / 68,
                    lane := k % 34 + (k % 68 / 34) * 2 ^ 15 } s
  let s := raiseEvent 0x44 0 (leBytes 1 (k / 68) ++ leBytes 1 (k % 34) ++ leBytes 1 (k % 68 / 34) ++ leBytes 1 line ++ leBytes 1 took) s
  if spare.isSome then spareTaken k s else s

/-- A ring begins a search: its heater sweeps upward from SEARCH_START, which is zero unless firmware has set it (R246, R536). -/
def searchPos (k : Nat) (s : State) : State :=
  movePos k .search (s.modPos k fun q => { q with drive := (calOf s k).searchStart, retune := ((calOf s k).searchStart : Nat) })

/-- A failure: the third retires the position, another sends it on by `next` (R252, R253). -/
def failPos (k : Nat) (next : State → State) (s : State) : State :=
  let s := s.modPos k fun p => { p with fails := p.fails + 1 }
  if 3 ≤ (posAt s k).fails then retirePos k s else next s

/-! ### Port modes (R260) -/

/-- Data lines of a port that have trained since it started, with their peers. -/
def trainedPeers (s : State) (p : Nat) : List (Nat × Nat) :=
  (portPositions p 1).filterMap fun k => if (posAt s k).line < 32 && (posAt s k).trained then (posAt s k).peer else none

/-- A position that is not on its way to a final state. -/
def settled (p : PosSt) : Bool :=
  match p.st with
  | .active => true
  | .retired => true
  | .standby => true
  | .dark => true
  | _ => false

/-- Set a port's mode from the training of its receive positions. -/
def settleMode (p : Nat) (s : State) : State :=
  if portMode s p ≠ 0 then s
  else
    let ps := trainedPeers s p
    let m := if ps.any (fun x => decide (17 ≤ ps.count x)) then 1
      else if !ps.isEmpty && (portPositions p 1).all (fun k => settled (posAt s k)) then 2 else 0
    s.modOe fun o => { o with port := o.port.set {} p { mode := m } }

/-! ### Commands of the rings -/

/-- LOCK_ERROR_EXCEED (R245). -/
def execLockErrorExceed (p : Pos) (err : Int) (s : State) : Out :=
  let k := posKey p
  let q := posAt s k
  let s := s.modPos k fun q => { q with lockErr := err }
  if decide (100 < err.natAbs) && [PosState.plumb, .mislocked, .train, .active, .standby].contains q.st then .next (movePos k .unlocked s)
  else .next s

/-- SEARCH_COMPLETE (R246, R252). -/
def execSearchComplete (p : Pos) (found : Option (Fin 34)) (drive : Nat) (s : State) : Out :=
  let k := posKey p
  if (posAt s k).st == .search || (posAt s k).st == .unlocked then
    match found with
    | some _ => .next (movePos k .plumb (s.modPos k fun q => { q with drive := min drive 65535, retune := (min drive 65535 : Nat) }))
    | none => .next (settleMode p.port (movePos k .dark s))
  else .next s

/-- A tag deep enough to be seen (R254). -/
def seenTags (tags : List TagMeas) : List TagMeas := tags.filter fun t => decide (50 ≤ t.depth)

/-- The check of R254 for an expected line. -/
def plumbPasses (line : Nat) (tags : List TagMeas) : Bool :=
  match (seenTags tags).find? fun t => t.line.val == line with
  | some t => tags.all fun u => u.line.val == line || decide (u.level + 100 ≤ t.level)
  | none => false

/-- The strongest tag of enough depth. -/
def strongest (tags : List TagMeas) : Option Nat :=
  ((seenTags tags).foldl (fun (acc : Option TagMeas) t => match acc with | some u => if u.level < t.level then some t else some u | none => some t) none).map
    fun t => t.line.val

/-- A spare position on its own line, which carries no other line's lane. -/
def ownSpare (k : Nat) (q : PosSt) : Bool := decide (32 ≤ k % 34) && q.line == k % 34 && q.sub == 63

/-- PLUMB_CHECK_END (R254, R255). -/
def execPlumbCheckEnd (p : Pos) (tags : List TagMeas) (s : State) : Out :=
  let k := posKey p
  let q := posAt s k
  if q.st == .plumb then
    if plumbPasses q.line tags then .next (settleMode p.port (movePos k (if ownSpare k q then .standby else .train) s))
    else
      match strongest tags with
      | some d => .next (settleMode p.port (failPos k (movePos k .mislocked) (s.modPos k fun q => { q with detected := d })))
      | none =>
        let start := min 65535 (q.drive + Config.tune (ringKey k) 100000)
        .next (settleMode p.port (failPos k (fun s => movePos k .search (s.modPos k fun q => { q with drive := start, retune := (start : Nat) })) s))
  else .next s

/-- Heater drive after a retune from the detected line to the expected one (R255). -/
def retuned (k : Nat) (q : PosSt) : Nat :=
  let n := ringKey k
  if q.detected ≤ q.line then
    let rise := (q.line - q.detected) * 100000
    if Config.tune n rise ≤ q.drive then q.drive - Config.tune n rise else min 65535 (q.drive + Config.tune n (4000000 - rise))
  else min 65535 (q.drive + Config.tune n ((q.detected - q.line) * 100000))

/-- RETUNE_COMPLETE (R255). -/
def execRetuneComplete (p : Pos) (s : State) : Out :=
  let k := posKey p
  if (posAt s k).st == .mislocked then
    .next (movePos k .plumb (s.modPos k fun q => { q with drive := retuned k q, retune := (retuned k q : Nat), detected := 63 }))
  else .next s

/-- A lane is trained: its peer is learned, and a change of peer sets its class from the tables in force (R256, R263). -/
def learnPeer (k : Nat) (peer : Nat × Nat) (s : State) : State :=
  s.modPos k fun q =>
    if q.peer = some peer then { q with trained := true }
    else { q with peer := some peer, trained := true, service := isService s (k / 68) (some peer) }

/-- Device, port, lane number and line of the training sequence that a transmit position sends: the lane number is the line in LANE mode, and the
logical lane in BONDED mode (R256, R259). -/
def trainingSent (s : State) (k : Nat) : Option Nat × Nat × Nat × Nat :=
  let q := posAt s k
  (s.fab.number, k / 68, if q.sub < 34 && portMode s (k / 68) == 1 then q.sub else q.line, q.line)

/-- The logical lane that a spare receive position on its own line is put in use for (R259): the one that BONDED mode names, or in LANE mode the one
of the line 32 below. -/
def substituteLane (s : State) (k : Nat) (t : Training) : Option Nat :=
  if portMode s (k / 68) = 2 then some (t.line.val - 32) else if t.lane ≠ t.line then some t.lane.val else none

/-- A receive position tells the sender of a wrong lane number (R256; log 132). -/
def reportMismatch (k line : Nat) (s : State) : State := s.modOe fun o => { o with mismatch := o.mismatch ++ [(k, line)] }

/-- TRAINING_COMPLETE (R256, R260). A spare receive position in STANDBY whose sender's training names a lane that has moved to its line is taken as
that lane's substitute (R252, R259). -/
def execTrainingComplete (p : Pos) (t : Training) (s : State) : Out :=
  let k := posKey p
  let q := posAt s k
  let mine := t.line.val == q.line
  let peer := (t.device.toNat, t.port.val)
  if q.st == .train then
    if t.completed && mine then .next (settleMode p.port (movePos k .active (learnPeer k peer s)))
    else
      let s := if t.completed && p.dir == .rx then reportMismatch k t.line s else s
      .next (settleMode p.port (failPos k (searchPos k) s))
  else if q.st == .standby && p.dir == .rx && t.completed && mine then
    match substituteLane s k t with
    | some lane => .next (spareTaken k (movePos k .plumb (s.modPos k fun q => { q with sub := lane })))
    | none => .next s
  else .next s

/-- TRAINING_MISMATCH_REPORT (R256). -/
def execTrainingMismatchReport (port : Fin 16) (w : Fin 34) (s : State) : Out :=
  let k := 68 * port.val + w.val
  if (posAt s k).st == .train then .next (failPos k (searchPos k) s) else .next s

/-- CODEWORD_ERRORS (R252). -/
def execCodewordErrors (p : Pos) (count : Nat) (s : State) : Out :=
  let k := posKey p
  if (posAt s k).st == .active && decide (64 < count) then .next (failPos k (movePos k .train) s) else .next s

/-- FAIL_COUNT_RESET (R253): 60 s of unbroken ACTIVE. -/
def execFailCountReset (p : Pos) (s : State) : Out :=
  let q := posAt s (posKey p)
  if q.st == .active && decide (q.since + 3000000000 ≤ s.aon) then .next (s.modPos (posKey p) fun q => { q with fails := 0 }) else .next s

/-! ### Comb lines (R238 to R242, R259) -/

def combOf (s : State) (e k : Nat) : CombLine := s.oe.comb.get {} (34 * e + k)

/-- LIGHT_RETURN (R252): a transmit position whose line is still lost stays DARK. -/
def execLightReturn (p : Pos) (s : State) : Out :=
  let k := posKey p
  let q := posAt s k
  if q.st == .dark && !(p.dir == .tx && (combOf s (p.port / 2) q.line).lost) then .next (searchPos k s) else .next s

/-- Positions that a lost line sends to DARK (R242). -/
def holdsLine (q : PosSt) (line : Nat) : Bool := q.line == line && !(q.st == .off || q.st == .retired || q.st == .dark)

/-- The spare position of port `p` that takes the lane of lost line `k`: by mode (R259). -/
def lineSpare (s : State) (p k : Nat) : Option Nat :=
  let ws := if portMode s p = 1 then [32, 33] else if portMode s p = 2 && decide (k < 2) then [32 + k] else []
  (ws.map (68 * p + ·)).find? fun j =>
    (posAt s j).st == .standby && (posAt s j).line == j % 34 && !(combOf s (p / 2) (j % 34)).lost

/-- The transmit positions of one port lose a line: they go DARK, and a data line's lane moves where its mode allows. -/
def portLosesLine (p k : Nat) (s : State) : State :=
  let held := (portPositions p 0).filter fun j => holdsLine (posAt s j) k
  let s := held.foldl (fun s j => movePos j .dark s) s
  if k < 32 && !held.isEmpty then
    match lineSpare s p k with
    | some j => spareTaken j (movePos j .plumb (s.modPos j fun q => { q with sub := k }))
    | none => s
  else s

/-- Mean of the powers measured, in tenths of a dBm. -/
def meanPower (ms : List LineMeas) : Int := (ms.map fun m => m.deciDbm).sum / (max 1 ms.length : Nat)

/-- What one measurement says of a line (R241). -/
def judgeLine (e : Nat) (mean : Int) (m : LineMeas) (s : State) : State :=
  let c := combOf s e m.line
  let meets := m.tag && decide (80 ≤ m.deciDbm) && decide (m.deciDbm ≤ 140) && decide ((m.deciDbm - mean).natAbs ≤ 15)
  let good := if meets then c.goodMs + 1 else 0
  let gone := if m.tag then 0 else c.noTagMs + 1
  let weak := decide (m.deciDbm < 20)
  let lost := weak || decide (10 ≤ gone)
  let low := decide (m.deciDbm < 80)
  let body := leBytes 1 e ++ leBytes 1 m.line ++ leBytes 2 (if m.tag then twos 16 m.deciDbm else 0x8000)
  let tellLow := low && !c.lowTold
  let tellLost := lost && !c.lostTold
  let c' : CombLine :=
    { power := m.deciDbm, tag := m.tag, meets := meets, goodMs := good, noTagMs := gone, lost := lost,
      lowTold := low || (c.lowTold && decide (good < 1000)), lostTold := lost || (c.lostTold && decide (good < 1000)) }
  let s := s.modOe fun o => { o with comb := o.comb.set {} (34 * e + m.line) c' }
  let s := if tellLow then raiseEvent 0x40 0 body s else s
  let s := if tellLost then raiseEvent 0x41 0 (body ++ leBytes 1 (if weak then 1 else 2)) s else s
  if lost && !c.lost then portLosesLine (2 * e + 1) m.line (portLosesLine (2 * e) m.line s) else s

/-- Every comb line of an engine is lost. -/
def allLost (s : State) (e : Nat) : Bool := (List.range 34).all fun k => (combOf s e k).lost

/-- COMB_LINE_MEASURE (R241). -/
def execCombLineMeasure (e : Fin 8) (lines : List LineMeas) (s : State) : Out :=
  if s.dev == .off then .next s
  else
    let s := lines.foldl (fun s m => judgeLine e (meanPower lines) m s) s
    let good := (List.range 34).any fun k => decide (1000 ≤ (combOf s e k).goodMs)
    let dark := allLost s e
    let told := s.oe.combTold.get false e
    let s := s.modOe fun o => { o with combTold := o.combTold.set false e (dark || (told && !good)) }
    let s := if dark && !told then raiseEvent 0x42 0 (leBytes 1 e) s else s
    .next (s.modEng e fun g => if g.st = 2 && dark then { g with st := 3 } else if g.st = 3 && !dark then { g with st := 2 } else g)

/-- The comb source has its dynamic address on the bus before the device exchanges anything with it, and the device has read its interface version
(R239; log 131). -/
def joinComb (s : State) : State := s.modOe fun o => { o with combAddr := some 0x5C, combIfver := 1 }

/-- COMB_IBI (R239): the device reads the source's model code and STATUS. -/
def execCombIbi (ident : W16) (status : Byte) (s : State) : Out :=
  if s.dev == .off then .next s
  else .next ((joinComb s).modOe fun o => { o with combIdent := ident.toNat, combStatus := status.toNat % 4 })

/-! ### Engines and heaters (R247, R248, R250, R269, R270) -/

/-- Start a position: it expects its own line, and searches for it. -/
def startPos (k : Nat) (s : State) : State :=
  if (posAt s k).st == .off then
    let start := (calOf s k).searchStart
    s.modPos k fun q => { q with st := .search, since := s.aon, line := k % 34, drive := start, retune := (start : Nat) }
  else s

/-- Start or restart a port: every position from OFF to SEARCH, where its engine has started (R252, R260). -/
def startPort (p : Nat) (s : State) : State :=
  if engineUp s (p / 2) then (portPositions p 0 ++ portPositions p 1).foldl (fun s k => startPos k s) s else s

/-- A position goes OFF. Its class stays until the tables or its peer change it (R263), and its lane's result until the next margin test (R266). -/
def PosSt.off (q : PosSt) : PosSt := { service := q.service, margin := q.margin }

/-- Note what has become of a port's links. -/
def noteLinks (p : Nat) (s : State) : State :=
  (List.range 34).foldl (fun s l => if (s.fab.link.get {} (34 * p + l)) = {} then s else noteLink p l s) s

/-- Every position of a port goes OFF, and its mode is open again. -/
def portOff (p : Nat) (s : State) : State :=
  s.modOe fun o =>
    { o with
      pos := (o.pos.map fun (k, q) => (k, if k / 68 = p then q.off else q)).filter fun e => e.2 != {}
      port := o.port.set {} p {}
      rxTest := o.rxTest.keep (fun k _ => decide (k / 34 ≠ p)) }

/-- A matrix K. An entry whose j lies outside 0–67 does not exist, and reads 0 (R536). -/
def kTable (ks : List KEntry) : Table Nat :=
  ks.foldl (fun t k => if 4 ≤ k.ring.val + k.band.val ∧ k.ring.val + k.band.val < 72 then t.set 0 (9 * k.ring + k.band) k.value.toNat else t) []

def State.modBank (b : Nat) (f : Bank → Bank) (s : State) : State := s.modOe fun o => { o with bank := o.bank.mod {} b f }

/-- Firmware writes calibration state of an engine (R249). -/
def writeCal (e : Nat) (cal : List CalEntry) (s : State) : State :=
  s.modOe fun o =>
    { o with
      cal := cal.foldl (fun t x => t.set {} (136 * e + (if x.rxBank then 68 else 0) + x.ring.val)
        { ffCoef := x.ffCoef.toNat, searchStart := x.searchStart.toNat, loopGain := x.loopGain.toNat, biasThr := x.biasThr }) o.cal }

/-- ENGINE_START (R248, R270), also as step 7 of a region reset (R465): it calibrates, and only a reset takes it out of CAL where no usable K has resulted. -/
def execEngineStart (e : Fin 8) (tx rx : Option (List KEntry)) (cal : List CalEntry) (s : State) : Out :=
  if (engineOf s e).st != 0 || !(regionUp s (e / 2) || regionMode s (e / 2) == .resetting) || s.dev == .off || s.dev == .fault || (s.dev == .boot && s.idn.st != 5) then .next s
  else
    let s := writeCal e cal s
    match tx, rx with
    | some kt, some kr =>
      let s := s.modBank (2 * e) fun _ => { k := kTable kt }
      let s := s.modBank (2 * e + 1) fun _ => { k := kTable kr }
      let s := s.modEng e fun g => { g with st := 2 }
      .next (startPort (2 * e + 1) (startPort (2 * e) s))
    | _, _ =>
      let bank := if tx.isNone && rx.isNone then 2 else if tx.isNone then 0 else 1
      .next (raiseEvent 0x43 0 (leBytes 1 e ++ leBytes 1 bank) (s.modEng e fun g => { g with st := 1 }))

/-- XTALK_REFRESH (R248, R249): into the shadow matrix, at most once per second. Firmware may write other calibration state with it. -/
def execXtalkRefresh (e : Fin 8) (rxBank : Bool) (k : List KEntry) (cal : List CalEntry) (s : State) : Out :=
  let b := 2 * e.val + (if rxBank then 1 else 0)
  let free := match (s.oe.bank.get {} b).refreshed with | some t => decide (t + 50000000 ≤ s.aon) | none => true
  if engineUp s e && free then .next ((writeCal e cal s).modBank b fun q => { q with shadow := some (kTable k), refreshed := some s.aon })
  else .next s

/-- Feed-forward term now (R250). -/
def PosSt.ff (q : PosSt) : Int := q.ff0 + (q.ff1 - q.ff0) * q.ffK / 10

/-- The lock loop runs (R244). -/
def loopRuns (q : PosSt) : Bool := [PosState.plumb, .mislocked, .train, .active, .standby].contains q.st

/-- Position of ring `i` of bank `b` = 2·engine + bank. -/
def ringPos (b i : Nat) : Nat := 68 * (2 * (b / 2) + i / 34) + 34 * (b % 2) + i % 34

/-- Target of a ring (R247). -/
def ringTarget (s : State) (b : Nat) (loop : List Int) (i : Nat) : Int :=
  let q := posAt s (ringPos b i)
  if q.st == .off then 0 else (if loopRuns q then loop.getD i 0 else 0) + q.retune + q.ff

/-- Drive of a ring: the band of K times the targets, clamped (R247). -/
def ringDrive (k : Table Nat) (target : Nat → Int) (i : Nat) : Nat :=
  let sum := ((List.range 9).map fun d =>
    if 4 ≤ i + d ∧ i + d < 72 then untwos 16 (k.get 0 (9 * i + d)) * target (i + d - 4) else 0).sum
  min 65535 (sum / 16384).toNat

/-- HEATER_UPDATE (R247, R248, R250): the switch to a new matrix, one step of the feed-forward terms, and the drives. -/
def execHeaterUpdate (e : Fin 8) (rxBank : Bool) (loop : List Int) (s : State) : Out :=
  let b := 2 * e.val + (if rxBank then 1 else 0)
  if engineUp s e then
    let s := s.modBank b fun q => match q.shadow with | some k => { q with k := k, shadow := none } | none => q
    let s := (List.range 68).foldl (fun s i => s.modPos (ringPos b i) fun q => { q with ffK := min 10 (q.ffK + 1) }) s
    let ts := (List.range 68).map (ringTarget s b loop)
    let k := (s.oe.bank.get {} b).k
    .next ((List.range 68).foldl
      (fun s i => s.modPos (ringPos b i) fun q => { q with drive := if q.st = .off then 0 else ringDrive k (fun j => ts.getD j 0) i }) s)
  else .next s

/-- The feed-forward term of a ring is set to cancel its predicted shift (R250): `mK` is the predicted temperature change. -/
def feedForward (ring : Nat) (mK : Int) (s : State) : State :=
  let k := 68 * (2 * (ring / 136) + ring % 68 / 34) + 34 * (ring % 136 / 68) + ring % 34
  let mhz := untwos 16 (calOf s k).ffCoef * mK / 100
  let d : Int := (Config.tune ring mhz.natAbs : Nat)
  s.modPos k fun q => { q with ff0 := q.ff, ff1 := if mhz < 0 then -d else d, ffK := 0 }

/-- Every engine leaves keep-alive (R269). -/
def leaveKeepalive (s : State) : State :=
  ((List.range 8).foldl (fun s e => s.modEng e fun g => { g with keepalive := false }) s).modOe fun o => { o with idleSince := s.aon }

def enterKeepalive (s : State) : State :=
  (List.range 8).foldl (fun s e => s.modEng e fun g => if 2 ≤ g.st then { g with keepalive := true } else g) s

/-- KEEPALIVE_ENTRY (R269): 100 ms in READY without LOAD_TRAVERSE or RUN, or BIVOUAC. -/
def execKeepaliveEntry (s : State) : Out :=
  if s.dev == .bivouac || (s.dev == .ready && decide (s.oe.idleSince + 5000000 ≤ s.aon)) then .next (enterKeepalive s) else .next s

/-- A port whose positions are all DARK restarts: its mode is open again. The positions stay DARK until light returns, with their failures
(R252, R253). -/
def darkRestart (p : Nat) (s : State) : State :=
  (portPositions p 0 ++ portPositions p 1).foldl (fun s k => s.modPos k fun q => { q with trained := false })
    (s.modOe fun o => { o with port := o.port.set {} p {} })

/-- PORT_DARK_RESTART (R260): every position of the port DARK for 1 s. -/
def execPortDarkRestart (port : Fin 16) (s : State) : Out :=
  let ks := portPositions port 0 ++ portPositions port 1
  if ks.all fun k => (posAt s k).st == .dark && decide ((posAt s k).since + 50000000 ≤ s.aon) then
    .next (darkRestart port s)
  else .next s

end Sys2Proof.Machine
end

