-- ==== Sys2Proof/Machine/Fabric.lean ====
section
/-! DEFINITION. Packets, links, routing and the escape ring (R276 to R310). -/

namespace Sys2Proof.Machine

open Sys2Proof

/-! ### Packets (R282, R283) -/

/-- TAG_GEN and SEQ_CH as words. -/
def Packet.tagGen (p : Packet) : Nat := p.tag + p.gen * 2 ^ 17

def Packet.seqCh (p : Packet) : Nat := p.seq + p.ch * 2 ^ 24

/-- The 32 bytes of the header. -/
def Packet.header (p : Packet) : List Byte :=
  leBytes 1 p.type ++ leBytes 1 (p.base + 8 * p.hops + bitAt p.esc 5) ++ leBytes 2 p.payload.length ++ leBytes 2 p.dst ++ leBytes 2 p.src
    ++ leBytes 2 p.epoch ++ leBytes 2 p.escTo ++ leBytes 4 p.jobTag ++ leBytes 8 p.addr ++ leBytes 4 p.tagGen ++ leBytes 4 p.seqCh

/-- The packet as it lies in a stream: header, payload, padding to 8 bytes. -/
def Packet.bytes (p : Packet) : List Byte := p.header ++ p.payload ++ zeros ((8 - p.payload.length % 8) % 8)

def Packet.size (p : Packet) : Nat := 32 + (p.payload.length + 7) / 8 * 8

/-- Units of pool space (R292). -/
def Packet.units (p : Packet) : Nat := (p.size + 243) / 244

/-- A packet read from the front of a stream. -/
def parsePacket (b : List Byte) : Packet :=
  let r := field b 1 1
  { type := field b 0 1, base := r % 8, hops := r / 8 % 4, esc := bit r 5, dst := field b 4 2, src := field b 6 2, epoch := field b 8 2,
    escTo := field b 10 2, jobTag := field b 12 4, addr := field b 16 8, tag := field b 24 4 % 2 ^ 17, gen := field b 24 4 / 2 ^ 17,
    seq := field b 28 4 % 2 ^ 24, ch := field b 28 4 / 2 ^ 24, payload := slice b 32 (field b 2 2 % 2 ^ 13) }

/-- Request-kind and reply-kind remote operations (R282, table *Request and reply types*). -/
def isRequest (t : Nat) : Bool := decide (0x10 ≤ t) && decide (t ≤ 0x17)

def isReply (t : Nat) : Bool := decide (0x30 ≤ t) && decide (t ≤ 0x33)

/-- A packet that R283 accepts, by its first 32 bytes. A COL packet's landing fields reach into the bits above the window generation, and
the ACK of such a packet copies them (R374). -/
def headerOk (b : List Byte) : Bool :=
  let t := field b 0 1
  (t == 1 || t == 0x40 || isRequest t || isReply t) && decide (field b 1 1 < 64) && decide (field b 1 1 % 8 < 7)
    && decide (field b 2 2 ≤ 4096) && decide (field b 4 2 < 8192) && decide (field b 6 2 < 8192) && decide (field b 10 2 < 8192)
    && decide (field b 24 4 < (if t = 0x40 ∨ t = 0x31 then 2 ^ 31 else 2 ^ 29)) && (!(isRequest t || t == 0x40) || decide (bits (field b 16 8) 40 38 = 0))

/-- MGT CODE and FLAGS.FM of a payload (R284). -/
def mgtCode (p : Packet) : Nat := field p.payload 0 2

def mgtFm (p : Packet) : Bool := bit (field p.payload 2 1) 0

/-- A message whose head R284 accepts, with a CODE of the table *MGT messages*. -/
def mgtOk (p : Packet) : Bool :=
  decide (8 ≤ p.payload.length) && decide (field p.payload 2 1 < 2) && decide (field p.payload 3 5 = 0)
    && [1, 2, 3, 0x10, 0x11, 0x12, 0x13, 0x20, 0x21, 0x22, 0x30, 0x31, 0x32, 0x33, 0x34, 0x35, 0x36, 0x40, 0x41, 0x42].contains (mgtCode p)

/-- Messages to which the management core does something; it takes the others from its intake, and nothing follows (log 150). -/
def mgtTaken (c : Nat) : Bool := [1, 2, 3, 0x10, 0x11, 0x12, 0x20, 0x21, 0x22, 0x31, 0x32, 0x35, 0x41].contains c

/-! ### Bodies of R287 -/

def drainOk (b : List Byte) : Bool := decide (16 ≤ b.length) && decide (field b 6 2 = 0) && decide (field b 12 4 = 0)

def overdueOk (b : List Byte) : Bool :=
  decide (32 ≤ b.length) && decide (field b 6 1 < 2) && decide (field b 7 1 = 0) && decide (bits (field b 12 2) 14 13 = 0)
    && decide (field b 14 2 ≤ 256)

def marginReqOk (b : List Byte) : Bool :=
  decide (16 ≤ b.length) && decide (field b 4 1 < 16) && decide (field b 5 1 < 34) && (field b 6 1 == 1 || field b 6 1 == 2)
    && decide (leNat (slice b 7 9) = 0)

def marginResultOk (b : List Byte) : Bool :=
  decide (32 ≤ b.length) && decide (field b 4 1 < 16) && decide (field b 5 1 < 34) && decide (1 ≤ field b 6 1) && decide (field b 6 1 ≤ 3)
    && decide (field b 7 1 < 16) && decide (leNat (slice b 16 16) = 0)

def biasNeedOk (b : List Byte) : Bool :=
  decide (16 ≤ b.length) && decide (field b 0 2 < 8192) && decide (field b 2 1 < 16) && decide (field b 3 1 < 34) && decide (leNat (slice b 6 10) = 0)

def congPushOk (b : List Byte) : Bool := decide (16 ≤ b.length) && decide (field b 6 2 = 0) && decide (field b 14 2 = 0)

def congReadOk (b : List Byte) : Bool :=
  decide (16 ≤ b.length) && decide (field b 4 4 ≤ 34879) && decide (1 ≤ field b 8 4) && decide (field b 8 4 ≤ 34880 - field b 4 4)
    && decide (field b 12 4 = 0)

def congDataOk (b : List Byte) : Bool :=
  decide (1 ≤ field b 8 2) && decide (field b 8 2 ≤ 4064) && decide (16 + field b 8 2 ≤ b.length)

/-- The body of a message of R287 keeps to its layout; bodies of other chapters are checked where they are taken. -/
def bodyOk (p : Packet) : Bool :=
  let b := p.payload.drop 8
  match mgtCode p with
  | 0x11 => drainOk b
  | 0x12 => drainOk b
  | 0x13 => overdueOk b
  | 0x20 => marginReqOk b
  | 0x21 => marginResultOk b
  | 0x22 => biasNeedOk b
  | 0x40 => congPushOk b
  | 0x41 => congReadOk b
  | 0x42 => congDataOk b
  | _ => true

/-- Link-local messages (R285). -/
def linkLocal (p : Packet) : Bool := p.type == 1 && [1, 2, 3, 0x20, 0x21].contains (mgtCode p)

/-- Pool that a packet occupies at the receiver of a hop (R290). -/
def poolOf (c : Carried) : Nat :=
  let p := c.pkt
  if c.tee then 7
  else if p.esc then 8
  else if p.type = 0x40 then 7
  else if p.hops = 0 then p.base
  else if p.hops = 1 then (if isRequest p.type then 3 else 4)
  else (if isRequest p.type then 5 else 6)

/-- Units of a pool per lane (table *Buffer pools*). -/
def poolUnits (pool : Nat) : Nat :=
  match pool with
  | 1 => 68
  | 2 => 68
  | 7 => 192
  | 8 => 51
  | _ => 34

/-! ### Links -/

def fabLink (s : State) (key : Nat) : Link := s.fab.link.get {} key

def State.modLink (key : Nat) (f : Link → Link) (s : State) : State := s.modFab fun b => { b with link := b.link.mod {} key f }

def peerAt (s : State) (key : Nat) : Peer := s.fab.peer.get {} key

def State.modPeer (key : Nat) (f : Peer → Peer) (s : State) : State := s.modFab fun b => { b with peer := b.peer.mod {} key f }

/-- Learned peer of the ACTIVE position that carries a line in a direction. -/
def lanePeer (s : State) (p d line : Nat) : Option (Nat × Nat) := (activePos s p d line).bind fun k => (posAt s k).peer

/-- The line of the other direction `d` of port `p` whose peer is the one given: the same line where it has that peer, else the lowest
(log 59). -/
def pairedLine (s : State) (p d line : Nat) (peer : Option (Nat × Nat)) : Nat :=
  if lanePeer s p d line = peer then line
  else ((List.range 34).find? fun l => (activePos s p d l).isSome && lanePeer s p d l == peer).getD line

/-- The transmit link that answers a receive link: it carries its ACK, NAK and credit. -/
def reverseKey (s : State) (key : Nat) : Nat :=
  let p := key / 34
  if portMode s p = 1 then key else 34 * p + pairedLine s p 0 (key % 34) (lanePeer s p 1 (key % 34))

/-- The receive link that answers a transmit link. -/
def forwardKey (s : State) (key : Nat) : Nat :=
  let p := key / 34
  if portMode s p = 1 then key else 34 * p + pairedLine s p 1 (key % 34) (lanePeer s p 0 (key % 34))

/-- The peer that a transmit lane reaches is ACTIVE (R314; log 59). -/
def lanePeerActive (s : State) (p : Nat) (q : PosSt) : Bool :=
  if portMode s p = 1 then (peerAt s (34 * p)).st == 3
  else (portPositions p 1).any fun k => (posAt s k).peer == q.peer && q.peer.isSome && (peerAt s (34 * p + (posAt s k).line)).st == 3

/-- Store capacity of a link in flits (R280), and its pools' units. -/
def storeFlits (s : State) (key : Nat) : Nat := if portMode s (key / 34) = 1 then 6144 else 192

def poolRoom (s : State) (key pool : Nat) : Nat := poolUnits pool * (if portMode s (key / 34) = 1 then 32 else 1)

/-- Credit returns as a packet leaves the pool it came into (R292). -/
def returnCredit (c : Carried) (s : State) : State :=
  if c.units = 0 then s else s.modLink (reverseKey s c.link) fun l => { l with returns := l.returns ++ [(c.pool, c.units)] }

/-- Let a packet wait for a link of its own region, or for the die-to-die direction that takes it towards the link's region (R294). A packet that comes
to the head of its pool's line is there from now. The management core's own messages reach every region by its management link (R17). -/
def enqueue (key : Nat) (c : Carried) (s : State) : State :=
  if c.region = alwaysOn ∨ c.region = key / 136 then s.modLink key fun l => { l with queue := l.queue ++ [{ c with since := s.aon }] }
  else s.modFab fun f => { f with cross := f.cross ++ [{ held := { c with since := s.aon }, key := key }] }

/-- The peer at the far end of a transmit link is ACTIVE (R315). -/
def linkPeerActive (s : State) (key : Nat) : Bool :=
  if portMode s (key / 34) = 1 then (peerAt s key).st == 3
  else match activePos s (key / 34) 0 (key % 34) with
    | some k => lanePeerActive s (key / 34) (posAt s k)
    | none => false

/-- The learned peer is this device itself: such a lane carries no routed traffic (R276). -/
def isSelf (s : State) (peer : Option (Nat × Nat)) : Bool :=
  match peer, s.fab.number with
  | some (d, _), some n => d == n
  | _, _ => false

/-- Receive link `key` comes from this device itself. -/
def linkFromSelf (s : State) (key : Nat) : Bool :=
  if portMode s (key / 34) = 1 then (activeLines s (key / 34) 1).any fun l => isSelf s (lanePeer s (key / 34) 1 l)
  else isSelf s (lanePeer s (key / 34) 1 (key % 34))

/-! ### Usable lanes (R297, R301) -/

/-- A lane is the tee lane of a device in the TEE role, or of a shadow (R489). -/
def isTeeLane (s : State) (p line : Nat) : Bool :=
  (s.mem.role == 1 || s.mem.teeKnown) && s.mem.teePort == p && s.mem.teeLine == line

/-- Transmit lanes of port `p` that may carry routed traffic to device `x` from region `r`; `svc` asks for service lanes. -/
def portLanes (s : State) (svc : Bool) (x r p : Nat) : List Nat :=
  (portPositions p 0).filterMap fun k =>
    let q := posAt s k
    if q.st == .active && (q.service || !svc) && (match q.peer with | some (d, _) => d == x | none => false) && !isSelf s q.peer
        && lanePeerActive s p q
        && reaches s r (p / 4) && !isTeeLane s p q.line then some (34 * p + q.line) else none

/-- usable(P, X) of R301. -/
def usable (s : State) (ports x r : Nat) : List Nat := ((List.range 16).filter (bit ports)).flatMap (portLanes s true x r)

/-- Lanes that R301 gives a packet that is not COL. -/
def routeLanes (s : State) (p : Packet) (r : Nat) : List Nat :=
  match s.fab.number with
  | none => []
  | some n =>
    let g := n / 32
    let toMember := fun m => usable s (inPorts s m) (32 * g + m) r
    if p.dst / 32 = g then
      let m2 := p.dst % 32
      let lanes := if inValid s m2 then usable s (inPorts s m2) p.dst r else []
      if lanes.isEmpty && inValid s m2 && bit (ingroup s m2) 25 && p.hops == 0 then toMember (bits (ingroup s m2) 30 26) else lanes
    else
      let e := groupEntry s (p.dst / 32)
      let via := fun gw land => if gw = n % 32 then usable s 0xFF00 (32 * (p.dst / 32) + land) r else toMember gw
      if bit e 63 then
        let lanes := via (bits e 62 58) (bits e 57 53)
        if lanes.isEmpty && bit e 52 then via (bits e 51 47) (bits e 46 42) else lanes
      else []

/-- pick() of R302, of the set of lanes in ascending order. -/
def pickLane (p : Packet) (lanes : List Nat) : Nat :=
  let set := (List.range 544).filter lanes.contains
  set.getD (Config.pick p.src p.dst p.ch set % set.length) 0

/-- Link key of a lane 34·port + line. -/
def laneLink (s : State) (lane : Nat) : Nat := linkKey s (lane / 34) (lane % 34)

/-! ### The escape ring (R299, R305 to R308) -/

/-- A packet goes onto the escape ring: it waits to enter. -/
def escapeRing (c : Carried) (s : State) : State :=
  s.modFab fun f => { f with escWait := f.escWait ++ [({ c with pkt := { c.pkt with esc := true }, since := s.aon }, none)] }

/-- Lanes of an escape hop: by ESC_VIA where it is valid, else to ESC_NEXT; or straight to the target of a hop through this device. -/
def escLanes (s : State) (target : Option Nat) (r : Nat) : List Nat :=
  match target with
  | some x => (List.range 16).flatMap (portLanes s false x r)
  | none =>
    match escVia s with
    | some v => (List.range 16).flatMap (portLanes s true v r)
    | none => (List.range 16).flatMap (portLanes s true (escNext s) r)

/-! ### Messages to the host and delivery (R303, R304, R310, R410) -/

/-- Event entries that the host has passed. -/
def evtPassed (s : State) : Nat := s.host.evt.seq - s.host.evt.unread

/-- The FM buffer's next slot is free (R410). -/
def fmSlotFree (s : State) : Bool :=
  match s.host.fmSlot.get 0 (s.host.fmCount % s.host.fmSlots) with
  | 0 => true
  | 1 => false
  | q + 2 => decide (q < evtPassed s)

/-- Deliver an MGT payload to the host as FM_MESSAGE; `dev` is the sending device's DEVICE field. -/
def fmMessage (payload : List Byte) (dev : Nat) (s : State) : State :=
  if s.host.fmEnable && decide (0 < s.host.fmSlots) && fmSlotFree s then
    let slot := s.host.fmCount % s.host.fmSlots
    let s := writeStationRecord (s.host.fmBase.toNat + 4096 * slot) payload s
    let s := s.modHost fun h => { h with fmCount := h.fmCount + 1, fmSlot := h.fmSlot.set 0 slot 1 }
    raiseEvent 0x13 0 (leBytes 2 slot ++ leBytes 2 payload.length ++ leBytes 2 dev) s
  else fabCount 5 s

/-- The device's own job tag, or the tag under which a fill reads (R303, R484). -/
def tagAccepted (s : State) (p : Packet) : Bool :=
  p.jobTag == s.job.tag || (isReply p.type && match s.mem.fill with | some f => f.tag == p.jobTag | none => false)

/-- Deliver a packet at its destination: it leaves its pool for an intake, and its credit returns (R292). -/
def deliver (c : Carried) (s : State) : State :=
  let p := c.pkt
  let s := returnCredit c s
  let c := { c with units := 0 }
  if p.type = 1 then
    if mgtFm p then (if bodyOk p then fmMessage p.payload p.src s else fabCount 0 s)
    else if s.fab.mgtIn.length < 64 then s.modFab fun f => { f with mgtIn := f.mgtIn ++ [c] }
    else fabCount 5 s
  else if !tagAccepted s p then fabCount 2 s
  else if p.type = 0x40 then s.modFab fun f => { f with colIn := f.colIn ++ [c] }
  else if isRequest p.type then s.modFab fun f => { f with reqIn := f.reqIn ++ [c] }
  else s.modFab fun f => { f with rspIn := f.rspIn ++ [c] }

/-! ### Routing a packet (R299, R301) -/

/-- Route a packet that is not COL. -/
def routePacket (relay : Bool) (c : Carried) (s : State) : State :=
  let p := c.pkt
  if s.fab.number = some p.dst then deliver c s
  else if p.hops = 3 || p.epoch ≠ s.fab.epoch then
    escapeRing c (if relay && p.epoch ≠ s.fab.epoch then fabCount 3 s else s)
  else
    let lanes := routeLanes s p c.region
    if lanes.isEmpty then escapeRing c s else enqueue (laneLink s (pickLane p lanes)) c s

/-- A lane of a lane list entry is usable for COL (R264, R297). -/
def colLane (s : State) (r w : Nat) : Bool :=
  let p := bits w 3 0
  match activePos s p 0 (bits w 9 4) with
  | some k => let q := posAt s k; !q.service && q.margin && !isSelf s q.peer && !isTeeLane s p q.line && lanePeerActive s p q && pathUp s r (p / 4)
  | none => false

/-- Entry `i` of a plan's table that starts at `first`, as SRC, DST, FIRST and COUNT. -/
def planEntry (plan : List Byte) (first i : Nat) : Nat × Nat × Nat × Nat :=
  let a := first + 16 * i
  (field plan a 2, field plan (a + 2) 2, field plan (a + 4) 4, field plan (a + 8) 2)

/-- Lane list words of an entry. -/
def planLanes (plan : List Byte) (e : Nat × Nat × Nat × Nat) : List Nat :=
  let base := 16 + 16 * (field plan 0 4 + field plan 4 4)
  (List.range e.2.2.2).map fun i => field plan (base + 4 * (e.2.2.1 + i)) 4

/-- The flow entry for `dst` (R297), and the relay entry for (src, dst) (R299). -/
def flowEntry (plan : List Byte) (dst : Nat) : Option (Nat × Nat × Nat × Nat) :=
  ((List.range (field plan 0 4)).map (planEntry plan 16)).find? fun e => e.2.1 == dst

def relayEntry (plan : List Byte) (src dst : Nat) : Option (Nat × Nat × Nat × Nat) :=
  ((List.range (field plan 4 4)).map (planEntry plan (16 + 16 * field plan 0 4))).find? fun e => e.1 == src && e.2.1 == dst

/-- The leg whose package tables are in force: those of the next leg from step 5 of a station on (R73). -/
def Run.planLeg (r : Run) : Nat := if r.phase == .atStation || r.phase == .parked then r.j + 1 else r.j

/-- Plans of the leg in force, the leg before and the leg after, in that order. -/
def plansInOrder (s : State) : List (List Byte) :=
  match s.job.trav, s.job.run with
  | some t, some r =>
    let j := r.planLeg
    let i := r.first + j
    ([i, i - 1, i + 1].filter (0 < ·)).filterMap fun i => (t.legs[i - 1]?).map fun l => l.parts.plan
  | _, _ => []

/-- Key of a flow's share of a lane. -/
def shareKey (src dst w : Nat) : Nat := ((8192 * src + dst) * 16 + bits w 3 0) * 34 + bits w 9 4

/-- The lane that keeps a flow nearest to its weights: the one with the fewest bytes for its WEIGHT (R297; log 64). -/
def leastServed (s : State) (src dst : Nat) (ws : List Nat) : Option Nat :=
  ws.foldl (fun best w =>
    match best with
    | none => some w
    | some v =>
      if s.fab.share.get 0 (shareKey src dst w) * bits v 23 16 < s.fab.share.get 0 (shareKey src dst v) * bits w 23 16 then some w else some v) none

/-- A flow is spread over a set of lanes: the counts begin anew when the set has changed, so that a lane which returns takes its share and
no more (R297; log 64). -/
def spreadOver (src dst : Nat) (ws : List Nat) (s : State) : State :=
  let flow := 8192 * src + dst
  if s.fab.spread.get [] flow = ws then s
  else
    s.modFab fun f =>
      { f with spread := f.spread.set [] flow ws, share := ws.foldl (fun t w => t.set 0 (shareKey src dst w) 0) f.share }

/-- Send a COL packet by an entry's lanes, or onto the escape ring with PLAN_MISS (R297, R299). -/
def sendCol (entry : Option (List Nat)) (c : Carried) (s : State) : State :=
  let p := c.pkt
  let ws := (entry.getD []).filter (colLane s c.region)
  let s := spreadOver p.src p.dst ws s
  match leastServed s p.src p.dst ws with
  | none => escapeRing c (fabCount 1 s)
  | some w =>
    enqueue (linkKey s (bits w 3 0) (bits w 9 4)) c
      (s.modFab fun f => { f with share := f.share.mod 0 (shareKey p.src p.dst w) (· + p.payload.length) })

/-- Relay a COL packet (R299); one of another epoch goes onto the escape ring (R305). -/
def relayCol (c : Carried) (s : State) : State :=
  if c.pkt.epoch ≠ s.fab.epoch then escapeRing c (fabCount 3 s)
  else sendCol (((plansInOrder s).filterMap fun pl => (relayEntry pl c.pkt.src c.pkt.dst).map (planLanes pl)).head?) c s

/-! ### The reply output (R310) -/

/-- A reply of this device that has not left it. -/
def isOwnReply (s : State) (c : Carried) : Bool := isReply c.pkt.type && c.units == 0 && s.fab.number == some c.pkt.src

def repliesWaiting (s : State) : Nat :=
  (s.fab.link.map fun (_, l) => (l.queue.filter (isOwnReply s)).length).sum + (s.fab.escWait.filter fun (c, _) => isOwnReply s c).length
    + (s.fab.cross.filter fun x => isOwnReply s x.held).length

/-- The reply output holds a free slot. -/
def replySlotFree (s : State) : Bool := decide (repliesWaiting s < Config.replyRoom + 1)

/-! ### Originating packets (R301, R475, R490) -/

/-- Packets that the device may not originate now: in FENCED, and as a shadow. -/
def mayOriginate (s : State) (p : Packet) : Bool :=
  if s.dev == .fenced || s.mem.shadow.isSome then p.type == 1 && p.dst == fmDevice s else true

/-- Originate a packet in region `r`: it carries the device's number, the epoch in force and the job tag given. -/
def originate (r : Nat) (p : Packet) (s : State) : State :=
  let p := { p with src := s.fab.number.getD 0, epoch := s.fab.epoch, hops := 0, esc := false }
  if mayOriginate s p then
    if p.type = 0x40 && s.fab.number ≠ some p.dst then
      sendCol ((currentPlan s).bind fun pl => (flowEntry pl p.dst).map (planLanes pl)) { pkt := p, region := r } s
    else routePacket false { pkt := p, region := r } s
  else s
where
  currentPlan (s : State) : Option (List Byte) := (plansInOrder s).head?

/-- An MGT payload (R284). -/
def mgtPayload (code : Nat) (fm : Bool) (body : List Byte) : List Byte := leBytes 2 code ++ leBytes 1 (bitAt fm 0) ++ zeros 5 ++ body

def mgtPacket (code dst : Nat) (fm : Bool) (body : List Byte) (s : State) : Packet :=
  { type := 1, dst := dst, jobTag := s.job.tag, payload := mgtPayload code fm body }

/-- Send a routed MGT message to a device. It leaves the management core on the management link (R17). -/
def sendMgt (code dst : Nat) (body : List Byte) (s : State) : State := originate alwaysOn (mgtPacket code dst false body s) s

/-- FM_DEVICE has a usable route, or is this device (R304). -/
def fmReachable (s : State) : Bool :=
  match s.fab.number with
  | none => false
  | some n => n == fmDevice s || !(routeLanes s { type := 1, dst := fmDevice s } alwaysOn).isEmpty

/-- Send a message to the fabric manager: by FM_DEVICE, or by this device's own host (R304). -/
def sendFm (code : Nat) (body : List Byte) (s : State) : State :=
  if fmReachable s then originate alwaysOn (mgtPacket code (fmDevice s) true body s) s
  else fmMessage (mgtPayload code true body) (deviceField s) s

/-- Send a link-local message on a transmit link (R285), where the line is named on the lane of that line (R288). -/
def sendLocal (key code : Nat) (body : List Byte) (s : State) (lane : Option Nat := none) : State :=
  enqueue key { pkt := { mgtPacket code 0 false body s with src := s.fab.number.getD 0, epoch := s.fab.epoch }, region := key / 136, lane := lane } s

/-- ACKs of collective landings leave as slots of the reply output are free (R374). Fuel bounds their number. -/
def sendAcks : Nat → State → State
  | 0, s => s
  | k + 1, s =>
    match s.fab.ackWait with
    | [] => s
    | (r, p) :: rest => if replySlotFree s then sendAcks k (originate r p (s.modFab fun f => { f with ackWait := rest })) else s

/-- An ACK waits for its turn in the reply output; one that finds a free slot goes at once. -/
def queueAck (r : Nat) (p : Packet) (s : State) : State :=
  sendAcks (s.fab.ackWait.length + 1) (s.modFab fun f => { f with ackWait := f.ackWait ++ [(r, p)] })

/-! ### HEALTH (R480) -/

/-- DEVICE_STATE.STATE codes (R5). -/
def Dev.code : Dev → Nat
  | .off => 0
  | .boot => 1
  | .ready => 2
  | .run => 3
  | .backsight => 4
  | .bivouac => 5
  | .fenced => 6
  | .fault => 7

/-- Send HEALTH to the fabric manager. -/
def sendHealth (reason detail : Nat) (s : State) : State :=
  sendFm 0x34 (leBytes 1 reason ++ leBytes 1 s.dev.code ++ leBytes 6 s.job.last ++ leBytes 4 s.job.tag ++ leBytes 4 detail) s

/-- A fatal record, and its report to the fabric manager (R480). -/
def recordFatal (r : Record) (s : State) : State := sendHealth 3 s.flt.seq (record r s)

/-! ### Flits (R278 to R280, R292, R293) -/

/-- The 256 bytes of a flit. -/
def flitBytes (seq ack ctrl buf units : Nat) (data : List Byte) : List Byte :=
  let b := leBytes 2 seq ++ leBytes 2 ack ++ leBytes 1 ctrl ++ leBytes 1 buf ++ leBytes 2 units ++ padTo 244 data
  b ++ leBytes 4 (crc32 b)

def crcGood (b : List Byte) : Bool := crc32 (slice b 0 252) == field b 252 4

/-- A leg is under way (R316). -/
def inLeg (s : State) : Bool :=
  (s.dev == .run || s.dev == .backsight) && (match s.job.run with | some r => r.phase == .leg | none => false)

/-- The line that carries a link's next flit: in BONDED mode the ACTIVE lanes of the port in ascending line order (R278). -/
def flitLine (s : State) (key : Nat) : Nat :=
  if portMode s (key / 34) = 1 then
    let lines := sendingLines s (key / 34)
    (lines.find? fun l => decide ((fabLink s key).lastLine < l)).getD (lines.headD 0)
  else key % 34

/-- Append one flit to a link's replay store, as sent. -/
def pushFlit (idle : Bool) (data : List Byte) (key : Nat) (s : State) : State :=
  let rx := fabLink s (forwardKey s key)
  let l := fabLink s key
  let (buf, units) := l.returns.headD (0, 0)
  let f := flitBytes l.next ((rx.rxNext + 65535) % 65536) (bitAt rx.nakOwed 0 + bitAt idle 1) buf units data
  let line := flitLine s key
  let pos := match activePos s (key / 34) 0 line with | some k => k % 34 | none => line
  let s := s.modLink (forwardKey s key) fun l => { l with nakOwed := false }
  let s := if inLeg s then s.modFab fun b => { b with flits := b.flits.mod 0 (34 * (key / 34) + pos) fun n => min (2 ^ 32 - 1) (n + 1) } else s
  s.modLink key fun l =>
    { l with next := (l.next + 1) % 65536, store := l.store ++ [f], sent := l.store.length + 1, returns := l.returns.tail, lastLine := line,
             ackAt := if l.store.isEmpty then s.aon else l.ackAt }

/-- Put stream bytes behind what waits, and send the flits that they fill (R282). Fuel bounds their number. -/
def streamOut (key : Nat) : Nat → List Byte → State → State
  | 0, bs, s => s.modLink key fun l => { l with carry := bs, due := true }
  | k + 1, bs, s =>
    if bs.length < 244 then s.modLink key fun l => { l with carry := bs, due := !bs.isEmpty }
    else streamOut key k (bs.drop 244) (pushFlit false (bs.take 244) key s)

/-- Flits that a packet fills, behind the bytes that wait. -/
def Link.flitsFor (l : Link) (c : Carried) : Nat := (l.carry.length + c.pkt.size) / 244

/-- Send the packet bytes that wait, the rest of their flit filled with PAD. A flit ends 4 bytes into a PAD where the stream stands so
(R282). -/
def flushStream (key : Nat) (s : State) : State :=
  let bs := (fabLink s key).carry
  let bs := bs ++ zeros ((244 - bs.length + 7) / 8 * 8)
  (pushFlit false (bs.take 244) key s).modLink key fun l => { l with carry := bs.drop 244, due := false }

/-! ### The test pattern (R288) -/

/-- One byte of PRBS31, first bit in bit 0, from a register of 31 bits (x^31 + x^28 + 1; log 117). -/
def prbsByte : Nat → Nat → Nat → Nat × Nat
  | 0, x, acc => (acc, x)
  | k + 1, x, acc =>
    let b := x / 2 ^ 30 % 2 ^^^ x / 2 ^ 27 % 2
    prbsByte k ((2 * x + b) % 2 ^ 31) (acc + b * 2 ^ (7 - k))

/-- `n` bytes of the pattern, and the register after them. -/
def prbsBytes : Nat → Nat → List Byte × Nat
  | 0, x => ([], x)
  | n + 1, x =>
    let (b, x) := prbsByte 8 x 0
    let (bs, x) := prbsBytes n x
    (BitVec.ofNat 8 b :: bs, x)

/-- Key of the margin test that runs on the lane which carries a link's next flit. -/
def testKey (s : State) (key : Nat) : Nat := 34 * (key / 34) + flitLine s key

/-- The next flit's lane is under test. -/
def underTest (s : State) (key : Nat) : Bool := (s.oe.txTest.get none (testKey s key)).isSome

/-- A flit that carries no message: on a lane under test it carries the pattern. -/
def pushIdle (key : Nat) (s : State) : State :=
  match s.oe.txTest.get none (testKey s key) with
  | some t =>
    let (bs, x) := prbsBytes 244 t.prbs
    pushFlit true bs key (s.modOe fun o => { o with txTest := o.txTest.set none (testKey s key) (some { t with prbs := x }) })
  | none => pushFlit true [] key s

/-! ### What a link sends next -/

/-- The far end's pool has room for a packet. An escape packet in the queue already holds its slot. -/
def hasCredit (s : State) (key : Nat) (c : Carried) : Bool :=
  poolOf c == 8 || decide ((fabLink s key).used.get 0 (poolOf c) + c.pkt.units ≤ poolRoom s key (poolOf c))

/-- First waiting packet of a pool that the link may carry: with its peer not ACTIVE, link-local messages alone (R315). -/
def headOf (active : Bool) (l : Link) (pool : Nat) : Option Carried :=
  l.queue.find? fun c => poolOf c == pool && (active || linkLocal c.pkt)

/-- The COL flow of a packet. -/
def flowOf (c : Carried) : Nat := 8192 * c.pkt.src + c.pkt.dst

/-- COL flows that wait on a link, in the order in which their first packet came. -/
def flowsOf (l : Link) : List Nat := ((l.queue.filter fun c => poolOf c == 7).map flowOf).dedup

/-- The first packet of a flow on a link. -/
def flowHead (l : Link) (f : Nat) : Option Carried := l.queue.find? fun c => poolOf c == 7 && flowOf c == f

/-- COL flows of a link whose first packet has credit (R293). -/
def creditFlows (s : State) (key : Nat) (l : Link) : List Nat :=
  (flowsOf l).filter fun f => match flowHead l f with | some c => hasCredit s key c | none => false

/-- The weight of a flow on a lane in the plans in force; 1 where no plan names it. -/
def flowWeight (s : State) (key flow : Nat) : Nat :=
  let entries := (plansInOrder s).filterMap fun pl =>
    if s.fab.number = some (flow / 8192) then (flowEntry pl (flow % 8192)).map (planLanes pl)
    else (relayEntry pl (flow / 8192) (flow % 8192)).map (planLanes pl)
  match (entries.headD []).find? fun w => linkKey s (bits w 3 0) (bits w 9 4) == key with
  | some w => max 1 (bits w 23 16)
  | none => 1

/-- Deficit round-robin over COL flows of a link (R297): the packet to send and the link after the choice. Fuel bounds the rounds: a quantum of at
least 256 bytes covers a packet within 17 of them. -/
def drrPick (s : State) (key : Nat) (fs : List Nat) : Nat → Link → Option (Carried × Link)
  | 0, _ => none
  | k + 1, l =>
    match fs with
    | [] => none
    | f0 :: _ =>
      let f := if fs.contains l.flow then l.flow else f0
      match flowHead l f with
      | none => none
      | some c =>
        let have' := l.deficit.get 0 f
        if c.pkt.size ≤ have' then some (c, { l with flow := f, deficit := l.deficit.set 0 f (have' - c.pkt.size) })
        else
          let nxt := fs.getD ((fs.idxOf f + 1) % fs.length) f0
          drrPick s key fs k { l with flow := nxt, deficit := l.deficit.set 0 nxt (l.deficit.get 0 nxt + 256 * flowWeight s key nxt) }

/-- The COL packet that a link serves: tee copies in the order in which they were accepted (R489), others by deficit round-robin among the flows that
hold credit. -/
def colNext (s : State) (key : Nat) (l : Link) : Option (Carried × Link) :=
  match l.queue.find? fun c => c.tee with
  | some c => if hasCredit s key c then some (c, l) else none
  | none =>
    let fs := creditFlows s key l
    drrPick s key fs (18 * (fs.length + 1)) l

/-- The packet that a link serves next (R293): MGT, then ESC, then the other pools that hold credit in turn. -/
def nextPacket (s : State) (key : Nat) : Option (Carried × Link) :=
  let l := fabLink s key
  let active := linkPeerActive s key
  let ready := fun pool => if pool = 7 then (if active then colNext s key l else none)
    else ((headOf active l pool).filter (hasCredit s key)).map fun c => (c, l)
  match ready 0, ready 8 with
  | some x, _ => some x
  | none, some x => some x
  | none, none =>
    ((List.range 7).map fun i => (l.turn + i) % 7 + 1).findSome? fun pool => (ready pool).map fun (c, l) => (c, { l with turn := pool % 7 })

/-- Take a packet out of a queue; the next of its pool is now at the head. -/
def takeFrom (now : Nat) (c : Carried) (q : List Carried) : List Carried :=
  let rest := q.erase c
  match rest.find? fun d => poolOf d == poolOf c with
  | some d => rest.map fun x => if x == d then { x with since := now } else x
  | none => rest

/-- Idle flits up to the turn of a line: the next flit of a BONDED link goes on it (R278, R288). Fuel bounds them: a port has 34 lines. -/
def alignLine (key line : Nat) : Nat → State → State
  | 0, s => s
  | k + 1, s => if flitLine s key = line then s else alignLine key line k (pushIdle key s)

/-- A message to the lane under test in a BONDED port begins its own flit, on that lane (R288). -/
def ownFlit (key : Nat) (c : Carried) (s : State) : State :=
  match c.lane with
  | none => s
  | some line =>
    if portMode s (key / 34) = 1 && driverOn s (key / 34) line then
      alignLine key line 34 (if (fabLink s key).carry.isEmpty then s else flushStream key s)
    else s

/-- Flits that a message to one lane takes besides its own (R288). -/
def alignFlits (s : State) (key : Nat) (c : Carried) : Nat := if c.lane.isSome && portMode s (key / 34) = 1 then 36 else 0

/-- Send a packet across a hop: it enters the stream, its far pool fills, and its own pool empties. -/
def sendPacket (key : Nat) (c : Carried) (s : State) : State :=
  let pool := poolOf c
  let s := ownFlit key c s
  let s := if pool = 8 then s else s.modLink key fun l => { l with used := l.used.mod 0 pool (· + c.pkt.units) }
  let s := returnCredit c (streamOut key 18 ((fabLink s key).carry ++ c.pkt.bytes) s)
  if alignFlits s key c = 0 then s else flushStream key s

/-- The escape entry that link `key` can carry: the oldest that waits for it, where two slots are free (R307). -/
def escEntry (s : State) (key : Nat) : Option (Carried × Option Nat) :=
  s.fab.escWait.find? fun (c, t) =>
    let lanes := escLanes s t c.region
    !lanes.isEmpty && laneLink s (pickLane c.pkt lanes) == key
      && decide ((fabLink s key).used.get 0 8 + 34 ≤ poolRoom s key 8)

/-- Write the target of an escape hop (R307), and take a slot of the next stage. -/
def escHop (key : Nat) (t : Option Nat) (c : Carried) (s : State) : Carried × State :=
  ({ c with pkt := { c.pkt with escTo := t.getD (escNext s) }, through := t.isSome }, s.modLink key fun l => { l with used := l.used.mod 0 8 (· + 17) })

/-- A packet that waits to enter the escape ring by this link enters it, and is counted (R307, R308). -/
def enterRing (key : Nat) (s : State) : State :=
  match escEntry s key with
  | some (c, t) =>
    let s := s.modFab fun f => { f with escWait := f.escWait.erase (c, t) }
    let (c, s) := escHop key t c s
    enqueue key c (fabCount 4 s)
  | none => s

/-- A packet takes its way anew: one that the device originates goes by the epoch in force, a relayed one keeps its own (R301, R302, R305, R315). -/
def reroute (c : Carried) (s : State) : State :=
  if s.fab.number = some c.pkt.src then
    let c := { c with pkt := { c.pkt with epoch := s.fab.epoch } }
    if c.pkt.type = 0x40 then sendCol (((plansInOrder s).head?.bind fun pl => (flowEntry pl c.pkt.dst).map (planLanes pl))) c s
    else routePacket false c s
  else if c.pkt.type = 0x40 then relayCol c s
  else routePacket true c s

/-- Target of the escape hop for which a packet on the ring waits. -/
def hopTarget (c : Carried) : Option Nat := if c.through then some c.pkt.escTo else none

/-- Another link that restores the way of a packet on the escape ring, with a free slot in its next stage (R307). -/
def escElsewhere (s : State) (key : Nat) (c : Carried) : Option Nat :=
  let lanes := escLanes s (hopTarget c) c.region
  let out := laneLink s (pickLane c.pkt lanes)
  if !lanes.isEmpty && out != key && decide ((fabLink s out).used.get 0 8 + 17 ≤ poolRoom s out 8) then some out else none

/-- A packet on the escape ring leaves a lost link for another: its slot at the old one's far end is free (R307). -/
def moveEsc (key out : Nat) (c : Carried) (s : State) : State :=
  let s := s.modLink key fun l => { l with used := l.used.mod 0 8 (· - 17) }
  let (c, s) := escHop out (hopTarget c) c s
  enqueue out c s

/-- A packet leaves a link that cannot carry it: its way anew, or on the escape ring another link once there is one. -/
def rerouted (key : Nat) (s : State) : Option State :=
  ((fabLink s key).queue.find? fun c => !linkLocal c.pkt && !c.tee && (!c.pkt.esc || (escElsewhere s key c).isSome)).map fun c =>
    let s := s.modLink key fun l => { l with queue := takeFrom s.aon c l.queue }
    if c.pkt.esc then (match escElsewhere s key c with | some out => moveEsc key out c s | none => s) else reroute c s

/-- What a link does that holds no packet it can send: waiting bytes go, then a packet that it can no longer carry leaves it; a flit returns
credit or a NAK, or carries the test pattern. -/
def idleLink (port line : Nat) (key : Nat) (s : State) : State :=
  let l := fabLink s key
  let room := !linkMute s port line && decide (l.store.length < storeFlits s key)
  if room && l.due then flushStream key s
  else
    match (if linkPeerActive s key && !linkDown s port line then none else rerouted key s) with
    | some t => t
    | none => if room && (!l.returns.isEmpty || (fabLink s (forwardKey s key)).nakOwed || underTest s key) then pushIdle key s else s

/-! ### Die-to-die crossings (R15, R294) -/

/-- A crossing ends with the next link that it takes in direction `k`. -/
def Crossing.ends (x : Crossing) (k : Nat) : Bool := dirTarget k == x.key / 136

/-- The direction for which a crossing waits. -/
def Crossing.dir (x : Crossing) : Nat := dirTowards x.held.region (x.key / 136)

/-- Units of pool space of a packet on its hop (R292, R307). -/
def hopUnits (c : Carried) : Nat := if c.pkt.esc then 17 else c.pkt.units

/-- Units in use in a pool at the end of direction `k`: the pool of packets that end their crossing there, or the transit pool (R294). A packet that has
begun its hop holds its units already. -/
def crossUsed (s : State) (k pool : Nat) (ends : Bool) : Nat :=
  let begun := (s.fab.cross.filter fun x => decide (0 < x.sent) && x.dir == k) ++ (s.fab.wire.filter fun w => w.1 == k).map fun w => w.2.2
  let there := if ends then s.fab.link.flatMap fun (_, l) => l.queue.filter fun c => c.via == k + 1
    else (s.fab.cross.map fun x => x.held).filter fun c => c.via == k + 1
  (((begun.filter fun x => x.ends k == ends).map fun x => x.held) ++ there |>.filter fun c => poolOf c == pool).map hopUnits |>.sum

/-- The oldest crossing of a pool in direction `k`, where the next pool has room for it (R292; log 151). -/
def crossHead (s : State) (k pool : Nat) : Option Crossing :=
  [true, false].findSome? fun ends =>
    (s.fab.cross.find? fun x => x.dir == k && poolOf x.held == pool && x.ends k == ends).filter fun x =>
      decide (crossUsed s k pool ends + hopUnits x.held ≤ poolUnits pool)

/-- The crossing whose next unit direction `k` sends: the one that has begun, else MGT, else the classes in turn (R24). -/
def nextCrossing (s : State) (k : Nat) : Option Crossing :=
  match s.fab.cross.find? fun x => decide (0 < x.sent) && x.dir == k with
  | some x => some x
  | none =>
    match crossHead s k 0 with
    | some x => some x
    | none => ((List.range 8).map fun i => ((d2dDir s k).turn + i) % 8 + 1).findSome? (crossHead s k)

/-- Flit `n` of direction `k` takes the next unit of a crossing; the last one takes the packet out of its pool. -/
def sendUnit (k n : Nat) (x : Crossing) (s : State) : State :=
  let s := s.modRing fun g => { g with dir := g.dir.mod {} k fun d => { d with turn := poolOf x.held % 8 } }
  if hopUnits x.held ≤ x.sent + 1 then
    returnCredit x.held (s.modFab fun f => { f with cross := f.cross.erase x, wire := f.wire ++ [(k, n, { x with sent := 0 })] })
  else s.modFab fun f => { f with cross := f.cross.map fun y => if y == x then { y with sent := y.sent + 1 } else y }

/-- A packet has crossed direction `k`: it lies in the next region, where it waits for its link or, in a transit pool, for the next direction. -/
def crossed (k : Nat) (x : Crossing) (s : State) : State := enqueue x.key { x.held with region := dirTarget k, via := k + 1, units := 0 } s

/-- Flit `n` of direction `k` has been taken in order: what it completes has crossed. -/
def takeUnits (k n : Nat) (s : State) : State :=
  let mine := fun (w : Nat × Nat × Crossing) => w.1 == k && w.2.1 == n
  (s.fab.wire.filter mine).foldl (fun s w => crossed k w.2.2 s) (s.modFab fun f => { f with wire := f.wire.filter fun w => !mine w })

/-- The bytes of the flit that direction `k` sends as its flit `n`, and the state in which it has gone: one that it sends again, the next unit of a
crossing packet, or the other traffic that `bytes` gives (log 151). -/
def sendD2d (k n : Nat) (bytes : List Byte) (s : State) : List Byte × State :=
  let d := d2dDir s k
  let (bs, s) :=
    match d.again n with
    | some bs => (bs, s)
    | none =>
      match nextCrossing s k with
      | some x => (slice x.held.pkt.bytes (244 * x.sent) 244, sendUnit k n x s)
      | none => (bytes, s)
  (bs, s.modRing fun g => { g with dir := g.dir.mod {} k fun d => d.sent n bs })

/-- D2D_FLIT_RECEIVE (R229): the sender's next flit arrives, with the bits of `damage` turned over; with `replay` the sender begins the replay that it
was asked for. A flit taken in order brings across what it completes. Flits wait while the direction retrains (R231). -/
def execD2dFlitReceive (link : Fin 4) (turn : Turn) (replay : Bool) (bytes damage : List Byte) (s : State) : Out :=
  let k := dirKey link turn
  let d := d2dDir s k
  if s.ring.down.get false link || d.silent || d.retraining then .next s
  else
    let n := d.sends replay
    let (bs, s) := sendD2d k n bytes s
    let good := d2dGood (damaged (d2dFlit bs) damage)
    let s := s.modRing fun g => { g with dir := g.dir.mod {} k fun d => d.receive n good }
    .next (if good && n == d.rxNext then takeUnits k n s else s)

/-- A region or a link is lost (R463): what lay in the lost region or was under way on a lost link is gone, and crossings that the loss cuts off take
another way; on the escape ring they wait. -/
def cutCrossings (s : State) : State :=
  let up := fun (k : Nat) => !s.ring.down.get false (k / 2) && regionUp s (dirRegion k) && regionUp s (dirTarget k)
  let s := s.modFab fun f =>
    { f with cross := (f.cross.filter fun x => regionUp s x.held.region).map fun x => if up x.dir then x else { x with sent := 0 },
             wire := f.wire.filter fun w => up w.1, escWait := f.escWait.filter fun w => w.1.region == alwaysOn || regionUp s w.1.region,
             inWait := f.inWait.filter fun c => regionUp s c.region }
  let stuck := s.fab.cross.filter fun x => !x.held.pkt.esc && !pathUp s x.held.region (x.key / 136)
  stuck.foldl (fun s x => reroute x.held (s.modFab fun f => { f with cross := f.cross.erase x })) s

/-! ### Packets for this device -/

/-- Copy a packet onto the tee lane, byte for byte (R489). -/
def teeCopy (p : Packet) (s : State) : State :=
  enqueue (linkKey s s.mem.teePort s.mem.teeLine) { pkt := p, tee := true, region := s.mem.teePort / 4 }
    { s with mem := { s.mem with count := s.mem.count.mod 0 2 (· + 1) } }

/-- A device in the TEE role copies this packet as it delivers it (R489). -/
def isTeed (s : State) (p : Packet) : Bool := s.mem.role == 1 && p.type != 1 && tagAccepted s p

/-- Deliver a packet that came by a lane: a device in the TEE role copies a job packet first, as it came (R489). -/
def deliverTeed (c : Carried) (s : State) : State :=
  if isTeed s c.pkt then deliver c (teeCopy { c.pkt with hops := c.came } s) else deliver c s

/-- The tee lane has credit for one more copy behind those that wait for it (R489). -/
def teeCredit (s : State) (p : Packet) : Bool :=
  let key := linkKey s s.mem.teePort s.mem.teeLine
  let l := fabLink s key
  decide (l.used.get 0 7 + ((l.queue.filter fun c => c.tee).map fun c => c.pkt.units).sum + p.units ≤ poolRoom s key 7)

/-- The intake for a packet's kind has room (R307, R310): 64 messages of the management core; replies and collective payload are taken
at once. -/
def intakeHasRoom (s : State) (p : Packet) : Bool :=
  if p.type = 1 then mgtFm p || decide (s.fab.mgtIn.length < 64)
  else !isRequest p.type || decide (s.fab.reqIn.length < Config.intakeRoom + 1)

/-- A packet in a pool may go to its intake now: a message at once, since one that finds its intake full is discarded; a job packet when the intake has
room and the tee lane credit (R310, R489). -/
def mayEnter (s : State) (p : Packet) : Bool :=
  p.type == 1 || !tagAccepted s p || (intakeHasRoom s p && (!isTeed s p || teeCredit s p))

/-- A packet waits behind others: copies keep the order in which packets were accepted, and requests theirs. -/
def mustFollow (s : State) (p : Packet) : Bool :=
  p.type != 1 && s.fab.inWait.any fun c => isTeed s p || isRequest c.pkt.type == isRequest p.type

/-- A packet for this device goes to its intake, or waits in its pool. -/
def arrive (c : Carried) (s : State) : State :=
  if mayEnter s c.pkt && !mustFollow s c.pkt then deliverTeed c s else s.modFab fun f => { f with inWait := f.inWait ++ [c] }

/-- Packets that waited for their intakes enter in their order, as far as they may now. -/
def admitWaiting (s : State) : State := s.fab.inWait.foldl (fun s c => arrive c s) (s.modFab fun f => { f with inWait := [] })

/-- PACKET_FORWARD (R292, R293): what a replay still owes, or one packet (MGT, then the escape ring, then the other classes), or what an idle
link does. A reply that leaves frees its slot for an ACK that waits (R374). -/
def execPacketForward (port : Fin 16) (line : Fin 34) (s : State) : Out :=
  let key := linkKey s port line
  let l := fabLink s key
  if linkMute s port line then .next (idleLink port line key s)
  else if l.sent < l.store.length then .next (s.modLink key fun l => { l with sent := l.store.length, ackAt := s.aon })
  else
    let s := if linkPeerActive s key then enterRing key s else s
    match nextPacket s key with
    | some (c, l') =>
      if l.store.length + l'.flitsFor c + alignFlits s key c ≤ storeFlits s key then
        let s := sendPacket key c (s.modLink key fun _ => { l' with queue := takeFrom s.aon c l'.queue })
        .next (admitWaiting (sendAcks s.fab.ackWait.length s))
      else .next s
    | none => .next (idleLink port line key s)

/-! ### Receiving flits -/

/-- Take an ACK: the flits up to it leave the store; a NAK has the rest sent again (R280). -/
def takeAck (ack : Nat) (nak : Bool) (now : Nat) (l : Link) : Link :=
  let first := match l.store with | f :: _ => field f 0 2 | [] => l.next
  let n := (ack + 65537 - first) % 65536
  let n := if n ≤ l.store.length then n else 0
  { l with store := l.store.drop n, sent := if nak then 0 else l.sent - n, ackAt := if 0 < n || nak then now else l.ackAt }

/-- Take returned credit. -/
def takeCredit (pool units : Nat) (l : Link) : Link := { l with used := l.used.mod 0 pool fun u => u - units }

/-- The `n`-th flit of a lane's stream lies in a codeword that the FEC cannot correct. Two codewords carry five flits, the third of them in
both (R278); `bad` tells of the first and the second codeword of the pair. -/
def fecLost (bad : BitVec 2) (n : Nat) : Bool := (bad.getLsbD 0 && decide (n % 5 ≤ 2)) || (bad.getLsbD 1 && decide (2 ≤ n % 5))

/-- A flit is accepted in order, or discarded until the replay with a NAK (R280). -/
def takeFlit (key : Nat) (fecFailed : Bool) (bytes : List Byte) (s : State) : State :=
  let l := fabLink s key
  if fecFailed || !crcGood bytes || field bytes 0 2 ≠ l.rxNext then
    let behind := !fecFailed && crcGood bytes && decide ((l.rxNext + 65536 - field bytes 0 2) % 65536 ≤ 32768)
    if behind then s
    else s.modLink key fun l => { l with nakOwed := l.nakOwed || !l.nak, nak := true }
  else
    let ctrl := field bytes 4 1
    let s := s.modLink key fun l =>
      { l with rxNext := (l.rxNext + 1) % 65536, nak := false, nakOwed := false,
               stream := if bit ctrl 1 then l.stream else l.stream ++ slice bytes 8 244 }
    s.modLink (reverseKey s key) fun l =>
      takeCredit (field bytes 5 1 % 16) (field bytes 6 2 % 4096) (takeAck (field bytes 2 2) (bit ctrl 0) s.aon l)

/-- FLIT_RECEIVE (R278, R280): accepted in order, or discarded until the replay with a NAK. -/
def execFlitReceive (port : Fin 16) (line : Fin 34) (badCodes : BitVec 2) (bytes : List Byte) (s : State) : Out :=
  if bytes.length ≠ 256 then .fault .malformed
  else
    match activePos s port 1 line with
    | none => .next s
    | some pos =>
      .next (takeFlit (linkKey s port line) (fecLost badCodes (posAt s pos).frame) bytes
        (s.modPos pos fun q => { q with frame := (q.frame + 1) % 5 }))

/-- LINK_REPLAY_TIMEOUT (R280): no ACK for 4 µs. -/
def execLinkReplayTimeout (port : Fin 16) (line : Fin 34) (s : State) : Out :=
  let key := linkKey s port line
  let l := fabLink s key
  if !l.store.isEmpty && decide (l.ackAt + 200 ≤ s.aon) then .next (s.modLink key fun l => { l with sent := 0, ackAt := s.aon })
  else .next s

/-- REPLAY_STORE_DISCARD (R280): 100 ms out of ACTIVE. -/
def execReplayStoreDiscard (port : Fin 16) (line : Fin 34) (s : State) : Out :=
  let key := linkKey s port line
  let l := fabLink s key
  if l.downAt ≠ 0 && decide (l.downAt - 1 + 5000000 ≤ s.aon) then
    .next (s.modLink key fun l => { l with store := [], sent := 0, next := 0, used := [], carry := [], due := false })
  else .next s

/-! ### Receiving packets -/

/-- The packet at the front of a stream, whole, behind any PAD: the rest of the stream, the packet's bytes, and whether R283 accepts
it. -/
def nextInStream : Nat → List Byte → List Byte × Option (List Byte)
  | 0, b => (b, none)
  | k + 1, b =>
    if b.length < 8 then (b, none)
    else if b.headD 0 = 0 then nextInStream k (b.drop 8)
    else if b.length < 32 then (b, none)
    else
      let n := 32 + (field b 2 2 % 2 ^ 13 + 7) / 8 * 8
      if b.length < n then (b, none) else (b.drop n, some (b.take n))

/-- The device number is fenced (R477). -/
def isFenced (s : State) (d : Nat) : Bool := (s.mem.fence.get {} d).fenced

/-- What a parked device's keep-alive path takes beside link-local messages: MGT and claims addressed to the device (R431). -/
def keepAlivePath (s : State) (p : Packet) : Bool := (p.type == 1 || p.type == 0x14) && s.fab.number == some p.dst

/-- A packet that has been taken from a lane, HOPS already raised. DESIGN CHOICE (log 118): routed traffic on a lane from this device
itself, which R276 does not allow, is counted as from a peer that is not ACTIVE. -/
def handlePacket (c : Carried) (s : State) : State :=
  let p := c.pkt
  if p.type = 1 && !mgtOk p then fabCount 0 (returnCredit c s)
  else if linkLocal p then deliver c s
  else if s.dev == .bivouac && !keepAlivePath s p then fabCount 6 (returnCredit c s)
  else if (peerAt s c.link).st ≠ 3 || linkFromSelf s c.link then fabCount 6 (returnCredit c s)
  else if p.type ≠ 1 && isFenced s p.src then
    returnCredit c { s with mem := { s.mem with count := s.mem.count.mod 0 0 (· + 1) } }
  else if p.esc && s.dev != .bivouac then s.modLink c.link fun l => { l with stage := l.stage ++ [c] }
  else if s.fab.number = some p.dst then arrive { c with since := s.aon } s
  else if p.type = 0x40 then relayCol c s
  else routePacket true c s

/-- A packet that only the tee lane of a device in the TEE role carries to the device that shadows or has shadowed it: one that the working device
delivers to itself, or its REACHED marker (R489). Once this device has the working device's number, that device's role has changed (log 91). -/
def copyLike (s : State) (p : Packet) : Bool :=
  match lanePeer s s.mem.teePort 1 s.mem.teeLine with
  | some (d, _) => s.fab.number != some d && (p.dst == d || (p.type == 1 && p.src == d && mgtCode p == 0x10))
  | none => false

/-- A packet that a working device tees to its shadow, which TEE_COPY_RECEIVE takes; after the shadow's end too, until the working device's role has
changed (R490, R491). A parked device takes none (R431). -/
def isTeeCopy (s : State) (key : Nat) (p : Packet) : Bool :=
  (s.mem.shadow.isSome || (s.mem.ended && copyLike s p)) && s.dev != .bivouac && s.mem.teeKnown && key == linkKey s s.mem.teePort s.mem.teeLine
    && !linkLocal p

/-- Other traffic on the tee lane of a shadow that has ended: the working device's role has changed (R489, R491; log 91). -/
def teeOver (key : Nat) (p : Packet) (s : State) : State :=
  if s.mem.shadow.isNone && s.mem.ended && s.mem.teeKnown && !copyLike s p && key == linkKey s s.mem.teePort s.mem.teeLine && !linkLocal p then
    { s with mem := { s.mem with ended := false, teeKnown := false } }
  else s

/-- PACKET_RECEIVE (R283, R290, R301, R315). -/
def execPacketReceive (port : Fin 16) (line : Fin 34) (s : State) : Out :=
  let key := linkKey s port line
  let st := (fabLink s key).stream
  match nextInStream (st.length + 1) st with
  | (rest, none) => .next (s.modLink key fun l => { l with stream := rest })
  | (rest, some b) =>
    let s0 := s
    let s := s.modLink key fun l => { l with stream := rest }
    let sent := parsePacket b
    let held : Carried := { pkt := sent, link := key, pool := poolOf { pkt := sent }, units := if sent.esc then 17 else sent.units, region := port / 4 }
    if !headerOk b then .next (fabCount 0 (returnCredit held s))
    else if isTeeCopy s0 key sent then .next s0
    else .next (handlePacket { held with pkt := { sent with hops := min 3 (sent.hops + 1) }, came := sent.hops } (teeOver key sent s))

/-- Packet `c` at the head of a pool has no lane that holds credit for it: its lane's far pool is full, or its lane no longer serves. -/
def noCredit (s : State) (port line key : Nat) (c : Carried) : Bool :=
  !hasCredit s key c || linkDown s port line || !linkPeerActive s key

/-- ESC_WAIT_EXPIRE (R308): 20 µs at the head of a REQ, RSP, FWD1 or FWD2 pool without credit, on its lane or on the tee lane (R489); MGT never enters
by waiting. -/
def execEscWaitExpire (port : Fin 16) (line : Fin 34) (s : State) : Out :=
  let key := linkKey s port line
  let l := fabLink s key
  match [1, 2, 3, 4, 5, 6].findSome? fun pool =>
      (headOf true l pool).filter fun c => c.pkt.type != 1 && noCredit s port line key c && decide (c.since + 1000 ≤ s.aon) with
  | some c => .next (escapeRing c (s.modLink key fun l => { l with queue := takeFrom s.aon c l.queue }))
  | none =>
    match (if s.mem.role = 1 then s.fab.inWait.find? fun c => c.link == key && decide (1 ≤ c.pool) && decide (c.pool ≤ 6) && decide (c.since + 1000 ≤ s.aon)
        else none) with
    | some c => .next (escapeRing c (s.modFab fun f => { f with inWait := f.inWait.erase c }))
    | none => .next s

/-- ESC_ADVANCE (R307): the packet at the head of a stage leaves at its destination, or takes a slot of the next stage. -/
def execEscAdvance (port : Fin 16) (line : Fin 34) (s : State) : Out :=
  let key := linkKey s port line
  match (fabLink s key).stage with
  | [] => .next s
  | c :: rest =>
    let taken := s.modLink key fun l => { l with stage := rest }
    if s.dev == .bivouac then .next (if keepAlivePath s c.pkt then deliverTeed c taken else fabCount 6 (returnCredit c taken))
    else if s.fab.number = some c.pkt.dst && intakeHasRoom s c.pkt && (!isTeed s c.pkt || teeCredit s c.pkt) then .next (deliverTeed c taken)
    else
      let t := if s.fab.number = some c.pkt.escTo then none else some c.pkt.escTo
      let lanes := escLanes s t c.region
      let out := laneLink s (pickLane c.pkt lanes)
      if !lanes.isEmpty && decide ((fabLink s out).used.get 0 8 + 17 ≤ poolRoom s out 8) then
        let (c, s) := escHop out t c taken
        .next (enqueue out c s)
      else .next s

/-! ### Congestion samples (R316) -/

/-- Pools of a class, in class-code order. -/
def classPools (k : Nat) : List Nat :=
  match k with
  | 0 => [0]
  | 1 => [1]
  | 2 => [2]
  | 3 => [3, 4]
  | 4 => [5, 6]
  | 5 => [7]
  | _ => [8]

/-- Bin of an occupancy: empty, up to half, below full, full. -/
def occupancyBin (u cap : Nat) : Nat := if u = 0 then 0 else if cap ≤ u then 3 else if 2 * u ≤ cap then 1 else 2

/-- Count one sample of one transmit position. -/
def samplePosition (p w : Nat) (s : State) : State :=
  let line := (posAt s (68 * p + w)).line
  let key := linkKey s p line
  (List.range 7).foldl (fun s k =>
    let u := if line < 34 then ((classPools k).map fun x => (fabLink s key).used.get 0 x).sum else 0
    let cap := ((classPools k).map fun x => poolRoom s key x).sum
    s.modFab fun f => { f with bins := f.bins.mod 0 ((7 * (34 * p + w) + k) * 4 + occupancyBin u cap) (· + 1) }) s

/-- CONG_SAMPLE (R316). -/
def execCongSample (s : State) : Out :=
  if inLeg s then
    let s := s.modFab fun f => { f with samples := min (2 ^ 32 - 1) (f.samples + 1) }
    .next ((List.range 544).foldl (fun s n => samplePosition (n / 34) (n % 34) s) s)
  else .next s

end Sys2Proof.Machine
end

