-- ==== Sys2Proof/Machine/Block.lean ====
section
/-! DEFINITION. Blocks: the spare map, segments, counters, descriptor tables and block faults (R161, R164 to R166, R177, R182 to R190). -/

namespace Sys2Proof.Machine

open Sys2Proof

def State.modBlks (f : Blocks → Blocks) (s : State) : State := { s with blks := f s.blks }

def blkOf (s : State) (p : Nat) : Block := s.blks.blk.get {} p

/-- Change physical block `p` = 68·r + pb. -/
def State.modBlk (p : Nat) (f : Block → Block) (s : State) : State := s.modBlks fun b => { b with blk := b.blk.mod {} p f }

/-! ### The spare maps (R20, R193) -/

/-- Map byte of global logical block `b`: VALID in [7] and PB in [6:0]. -/
def mapByte (s : State) (b : Nat) : Nat :=
  match s.blks.map with
  | some m => (m.getD b 0).toNat
  | none => 128 + b % 64

/-- The physical block, 68·r + pb, that serves logical block `b`; none while it is inactive. -/
def physOf (s : State) (b : Nat) : Option Nat :=
  if 128 ≤ mapByte s b then some (68 * (b / 64) + mapByte s b % 128) else none

/-- The global logical block that physical block `p` serves. -/
def logOf (s : State) (p : Nat) : Option Nat :=
  ((List.range 64).map fun lb => 64 * (p / 68) + lb).find? fun b => physOf s b == some p

/-- Active logical blocks of region `r` (R193). -/
def activeCount (s : State) (r : Nat) : Nat := ((List.range 64).filter fun lb => (physOf s (64 * r + lb)).isSome).length

/-- Physical columns in use in block `p`, ascending: logical column l uses the (l + 1)-th. -/
def enabledCols (s : State) (p : Nat) : List Nat :=
  (List.range 132).filter fun c => !(s.blks.cols.get [] p).contains c

/-! ### Segments (R182 to R184) -/

def segOf (k : Block) (i : Nat) : SegSt := k.seg.get {} i

/-- Segments that a byte range touches. -/
def segsOf (a n : Nat) : List Nat := if n = 0 then [] else (List.range ((a + n - 1) / 4096 - a / 4096 + 1)).map (a / 4096 + ·)

/-- A range lies within the scratchpad (R541). -/
def inSp (r : Nat × Nat) : Bool := decide (r.1 + r.2 ≤ 0x600000)

/-- The distinct segments of some ranges. -/
def rangeSegs (rs : List (Nat × Nat)) : List Nat := (rs.flatMap fun r => segsOf r.1 r.2).foldl (fun acc i => insertNat i acc) []

/-- Fault of a read from a segment (R184). -/
def readFault (k : Block) (i : Nat) : Option Nat :=
  match (segOf k i).st with
  | .owned => none
  | .ready => none
  | .free => some 0x205
  | .lent => some 0x206
  | .filling => some 0x207

/-- Fault of a local write that begins in a segment (R183). -/
def writeFault (k : Block) (i : Nat) : Option Nat :=
  match (segOf k i).st with
  | .free => some 0x205
  | .lent => some 0x206
  | _ => none

def firstFault (f : Nat → Option Nat) (is : List Nat) : Option (Nat × Nat) :=
  is.findSome? fun i => (f i).map fun c => (c, i)

def modSeg (i : Nat) (f : SegSt → SegSt) (k : Block) : Block := { k with seg := k.seg.mod {} i f }

def modSegs (is : List Nat) (f : SegSt → SegSt) (k : Block) : Block := is.foldl (fun k i => modSeg i f k) k

/-- A local write begins. -/
def SegSt.hold (g : SegSt) : SegSt := { g with st := .filling, writers := g.writers + 1 }

/-- A local writer completes: the last one lets the segment leave FILLING, unless a peg's landing is still in progress (R183). -/
def SegSt.drop (g : SegSt) : SegSt :=
  if g.writers ≤ 1 ∧ !g.landing ∧ g.st = .filling then { st := if g.ended then .owned else .ready }
  else { g with writers := g.writers - 1 }

/-- The first remote write under a peg lands. -/
def SegSt.land (g : SegSt) : SegSt :=
  match g.st with
  | .lent => { g with st := .filling, landing := true }
  | .filling => { g with landing := true }
  | _ => g

/-- A peg's landing completes. -/
def SegSt.landed (g : SegSt) : SegSt :=
  match g.st with
  | .lent => { g with st := .ready, landing := false }
  | .filling => if g.writers = 0 then { st := if g.ended then .owned else .ready } else { g with landing := false }
  | _ => g

/-- A window close ends the peg. -/
def SegSt.pegEnded (g : SegSt) : SegSt :=
  match g.st with
  | .lent => { st := .owned }
  | .filling => if g.writers = 0 then { st := .owned } else { g with landing := false, ended := true }
  | _ => g

/-- State code (table *Segment state codes*). -/
def segCode (g : SegSt) : Nat :=
  match g.st with
  | .free => 0
  | .owned => 1
  | .filling => 2
  | .lent => 3
  | .ready => 4

/-! ### Counters (R164 to R166) -/

def ctrOf (k : Block) (c : Nat) : Nat := k.ctr.get 0 c

/-- A counter has reached a value (R165). -/
def reached (c v : Nat) : Bool := decide ((c + 2 ^ 32 - v % 2 ^ 32) % 2 ^ 32 < 2 ^ 31)

def postCtr (p c v : Nat) (s : State) : State :=
  s.modBlk p fun k => { k with ctr := k.ctr.mod 0 c fun x => (x + v) % 2 ^ 32 }

/-! ### Block records and faults (R190, R453, R458) -/

/-- Scratchpad locator of R177. -/
def locator (b off : Nat) : Nat := b * 2 ^ 23 + off

/-- A block-level record that names physical block `p` and the logical block it serves. -/
def blockRecord (s : State) (p cls flags code detail address : Nat) : Record :=
  { level := 1, cls := cls, flags := flags, code := code, region := some (p / 68), pb := p % 68,
    lb := match logOf s p with | some b => b % 64 | none => 0xFF, detail := detail, address := address }

/-- Mark a physical block failed (R458). `cause` is the SEQ of the record that it takes over from the level below (R449). -/
def failBlock (p : Nat) (cause : Option Nat) (s : State) : State :=
  let r := blockRecord s p 3 (match cause with | some _ => 6 | none => 4) 0x219 0 0
  recordFatal { r with cause := cause.getD 0 } (s.modFlt fun f => { f with blockFailed := f.blockFailed.set false p true })

/-- The faults whose record names a segment (R190). -/
def namesSegment (code : Nat) : Bool := [0x205, 0x206, 0x207, 0x208, 0x20C, 0x20D, 0x212, 0x214].contains code

/-- The block faults and halts (R190): `desc` is the descriptor and `off` the scratchpad offset concerned, where there is one. -/
def haltAt (p code desc : Nat) (off : Option Nat) (s : State) : State :=
  let k := blkOf s p
  let address := match off with | some x => locator ((logOf s p).getD 0) x | none => 0
  let s := recordFatal (blockRecord s p 3 0 code (k.pos + desc * 2 ^ 32) address) s
  let s := s.modBlk p fun k => { k with halted := true, bad := if code = 0x214 then insertNat (off.getD 0 / 8) k.bad else k.bad }
  if code = 0x214 then
    let s' := s.modFlt fun f => { f with spUnc := f.spUnc.mod 0 p (· + 1) }
    if s'.flt.spUnc.get 0 p = 2 then failBlock p none s' else s'
  else s

/-- The same with a plain offset: 0 names a place only for the faults of a segment. -/
def haltBlock (p code desc off : Nat) (s : State) : State :=
  haltAt p code desc (if off ≠ 0 || namesSegment code then some off else none) s

/-! ### The leg in progress -/

/-- Leg `j` of an execution. -/
def Run.legAt (r : Run) (t : Traverse) (j : Nat) : Option Leg := t.legs[r.first + j - 1]?

/-- The loaded leg that runs now. -/
def currentLeg (s : State) : Option Leg :=
  match s.job.trav, s.job.run with
  | some t, some r => r.legAt t r.j
  | _, _ => none

/-- Bundle stream of logical block `b`. -/
def streamOf (s : State) (b : Nat) : List (BitVec 256) :=
  match s.job.trav with
  | some t => match t.streams.find? fun e => e.1.val == b with | some e => e.2 | none => []
  | none => []

/-- A leg executes: RUN or BACKSIGHT, between the start of a leg and its station. -/
def legRuns (s : State) : Bool :=
  (s.dev == .run || s.dev == .backsight) && (match s.job.run with | some r => r.phase == .leg | none => false)

def legArrived (s : State) (b : Nat) : Bool := match s.job.run with | some r => r.arrived.contains b | none => false

/-- Words of 8 bytes that a write of `n` bytes at `a` covers whole: their code is fresh. -/
def Block.writeSp (a : Nat) (bs : List Byte) (k : Block) : Block :=
  { k with
    sp := k.sp.writeN a bs
    bad := k.bad.filter fun w => decide (8 * w < a) || decide (a + bs.length < 8 * w + 8) }

/-- A read of the scratchpad of physical block `p` by a reader outside the block's engines: what the code reports on the way is recorded, and
a double-bit error halts the block (R177); what its word delivers is a free value (log 124). -/
def readScratch (p a n : Nat) (s : State) : List Byte × State :=
  s.hbm.meet.foldl
    (fun (bs, s) x =>
      match x with
      | .scratch b off double =>
        if logOf s p ≠ some b.val ∨ off < a ∨ a + n ≤ off then (bs, s)
        else if double then
          let word := leBytes 8 (Config.lostWord s.free).toNat
          (bs.zipIdx.map fun (y, i) => if (a + i) / 8 = off / 8 then word.getD ((a + i) % 8) 0 else y,
            haltBlock p 0x214 0 off { s with free := s.free + 1 })
        else (bs, record (blockRecord s p 1 0 0x213 0 (locator b off)) s)
      | _ => (bs, s)) ((blkOf s p).sp.readN a n, s)

/-! ### Descriptor tables (R159, R161) -/

/-- Byte offset of entry `i` of a table; none while the table has no base. -/
def tableAddr (k : Block) (tbl i : Nat) : Option Nat :=
  match k.base.get 0 tbl with
  | 0 => none
  | g + 1 => some (4096 * g + 64 * i)

/-- Read a descriptor through the narrow view: its 64 bytes, or the fault with the segment's offset (R161, R181). -/
def readDesc (k : Block) (tbl i : Nat) : Except (Nat × Nat) (List Byte) :=
  match tableAddr k tbl i with
  | none => .error (0x209, 0)
  | some a =>
    match readFault k (a / 4096) with
    | some c => .error (c, a)
    | none => .ok (k.sp.readN a 64)

end Sys2Proof.Machine
end

