-- ==== Sys2Proof/Machine/Descriptors.lean ====
section
/-! DEFINITION. The DMA descriptors of a block, local and remote, and what makes one acceptable (R169, R326, R327, R541, R544). -/

namespace Sys2Proof.Machine

open Sys2Proof

/-! ### Local descriptors -/

/-- A local DMA descriptor. -/
structure DmaDesc where
  kind : Nat
  indirect : Bool
  sp : Nat
  hbm : Nat
  len : Nat
  lenAddr : Nat
  deriving DecidableEq, Repr

def dmaDesc (d : List Byte) : DmaDesc :=
  { kind := field d 0 1, indirect := bit (field d 1 1) 0, sp := field d 4 4, hbm := field d 8 8, len := field d 16 4,
    lenAddr := field d 20 4 }

/-- A local descriptor that R544 accepts. -/
def dmaOk (raw : List Byte) : Bool :=
  let d := dmaDesc raw
  decide (field raw 1 1 < 2) && decide (field raw 2 2 = 0) && decide (field raw 24 8 = 0) && decide (leNat (slice raw 32 32) = 0)
    && d.sp % 16 == 0 && d.hbm % 16 == 0 && d.len % 16 == 0 && decide (16 ≤ d.len) && decide (d.len ≤ 6291456)
    && inSp (d.sp, d.len) && (if d.kind = 3 then decide (d.hbm < 2 ^ 23) && inSp (d.hbm, d.len) else decide (d.hbm < 2 ^ 40))
    && (!d.indirect || (d.lenAddr % 8 == 0 && inSp (d.lenAddr, 4)))

/-! ### Remote descriptors -/

/-- A remote descriptor. -/
structure RDesc where
  kind : Nat
  flags : Nat
  aop : Nat
  ch : Nat
  loc : Nat
  remote : Nat
  len : Nat
  lenAddr : Nat
  gen : Nat
  peg : Nat
  status : Nat
  op0 : Nat
  op1 : Nat
  deriving DecidableEq, Repr

def rdesc (d : List Byte) : RDesc :=
  { kind := field d 0 1, flags := field d 1 1, aop := field d 2 1, ch := field d 3 1, loc := field d 4 4, remote := field d 8 8,
    len := field d 16 4, lenAddr := field d 20 4, gen := field d 24 2, peg := field d 26 2, status := field d 28 4, op0 := field d 32 8,
    op1 := field d 40 8 }

/-- FLAGS bits that a kind uses. -/
def kindFlags (kind : Nat) : List Nat :=
  match kind with
  | 5 => [0, 4, 7]
  | 6 => [1, 2, 3, 4]
  | 7 => [2, 3, 6]
  | 11 => [5]
  | _ => []

def RDesc.width (d : RDesc) : Nat := if bit d.aop 4 then 8 else 4

/-- A remote descriptor that R318, R327, R345 and R541 accept. -/
def rdescOk (raw : List Byte) : Bool :=
  let d := rdesc raw
  let op := d.aop % 16
  let pegged := bit d.flags 2
  ((List.range 8).all fun i => !(bit d.flags i) || (kindFlags d.kind).contains i) && decide (d.aop < 32) && decide (op ≤ 8)
    && decide (d.ch < 63) && decide (bits d.remote 40 38 = 0) && decide (d.gen < 4096) && decide (d.peg < 16384)
    && d.status % 8 == 0 && inSp (d.status, 8) && decide (leNat (slice raw 48 16) = 0)
    && (match d.kind with
      | 5 => d.loc % 16 == 0 && decide (1 ≤ d.len) && decide (d.len ≤ 6291456) && inSp (d.loc, d.len)
      | 6 => d.loc % 16 == 0 && decide (1 ≤ d.len) && decide (d.len ≤ 6291456) && inSp (d.loc, d.len)
      | 7 => d.loc % 8 == 0 && inSp (d.loc, 8) && d.len == 0 && d.remote % d.width == 0
      | 9 => d.len % 64 == 0
      | 10 => d.len % 64 == 0
      | _ => d.len == 0)
    && (!bit d.flags 4 || (d.lenAddr % 8 == 0 && inSp (d.lenAddr, 4)))
    && !(d.kind == 6 && bit d.flags 1 && decide (4 ≤ d.ch))
    && !(d.kind == 7 && bit d.flags 6 && decide (6 ≤ op))
    && !(d.kind == 7 && pegged && op != 8)
    && !(bit d.flags 3 && !pegged)
    && ((d.kind == 7 && op == 7) || d.op1 == 0)
    && !(d.kind == 5 && bit d.flags 7 && !(d.remote % 64 == 0 && d.len % 64 == 0))

end Sys2Proof.Machine
end

