-- ==== Sys2Proof/Machine/Hbm.lean ====
section
/-! DEFINITION. HBM lines, the page mapper and the write-combining buffers (R195 to R223), and the commands of the memory
controllers. -/

namespace Sys2Proof.Machine

open Sys2Proof

def State.modHbm (f : Hbm → Hbm) (s : State) : State := { s with hbm := f s.hbm }

/-! ### The page mapper -/

def pmapOf (s : State) (r : Nat) : PMap := s.hbm.pmap.get {} r

/-- The physical frame that the table names for virtual frame `v` (R205, R207); none where VALID is 0. -/
def PMap.entry (p : PMap) (v : Nat) : Option Nat :=
  if v < p.space then
    match p.moved.get 0 v with
    | 0 => some (1024 * p.boot.getD (v % p.boot.length) 0 + v / p.boot.length)
    | k + 1 => some k
  else none

/-- The word of `PMAP_TABLE_r` at index `v`. -/
def PMap.word (p : PMap) (v : Nat) : Nat :=
  match p.entry v with
  | some f => 2 ^ 31 + 1024 * (f / 1024) + f % 1024
  | none => 0

/-- The table built at boot over the channels that trained (R207). -/
def PMap.build (active : List Nat) : PMap :=
  { boot := active, space := 1024 * active.length, usable := 1024 * active.length }

/-- Number of the physical line at a region's virtual byte offset; none at or beyond the usable space (R197). -/
def physLine (s : State) (r off : Nat) : Option Nat :=
  let p := pmapOf s r
  if off / 2 ^ 21 < p.usable then
    match p.entry (off / 2 ^ 21) with
    | some f => some (r * 2 ^ 31 + f * 2 ^ 15 + off % 2 ^ 21 / 64)
    | none => none
  else none

/-- The virtual byte offset of a physical line in its region; none where no usable frame holds it. -/
def virtOf (s : State) (line : Nat) : Option Nat :=
  let p := pmapOf s (line / 2 ^ 31)
  ((List.range p.usable).find? fun v => p.entry v == some (line % 2 ^ 31 / 2 ^ 15)).map fun v => v * 2 ^ 21 + line % 2 ^ 15 * 64

/-- The same as a record names it: 0 where no usable frame holds the line. -/
def virtOff (s : State) (line : Nat) : Nat := (virtOf s line).getD 0

/-- Channel 64·r + c of a physical line. -/
def lineChannel (line : Nat) : Nat := line / 2 ^ 31 * 64 + line % 2 ^ 31 / 2 ^ 25

/-- Physical frame of a physical line, within its region. -/
def lineFrame (line : Nat) : Nat := line % 2 ^ 31 / 2 ^ 15

/-! ### Lines, masks and buffers -/

def fullMask : Nat := 2 ^ 64 - 1

/-- Bytes of `new` where the mask names them, of `old` elsewhere. -/
def mergeBytes (mask : Nat) (new old : List Byte) : List Byte :=
  (List.range 64).map fun j => if mask.testBit j then new.getD j 0 else old.getD j 0

def poisonBytes : List Byte := List.replicate 64 0xFF

def wcbOf (s : State) (ch : Nat) : List WcEntry := s.hbm.wcb.get [] ch

def dramLine (s : State) (line : Nat) : List Byte := s.hbm.dram.readN (64 * line) 64

/-- Store a whole line in the DRAM: its marker is clear and its code good. -/
def dramStore (line : Nat) (data : List Byte) (s : State) : State :=
  s.modHbm fun h =>
    { h with dram := h.dram.writeN (64 * line) (padTo 64 data), poison := h.poison.set false line false, bad := h.bad.set 0 line 0 }

/-- Set a line's poison marker (R201). -/
def poisonLine (line : Nat) (s : State) : State := s.modHbm fun h => { h with poison := h.poison.set false line true }

/-- The DRAM line merged with what the buffer holds for it (R209). -/
def mergedLine (s : State) (line : Nat) : List Byte :=
  match (wcbOf s (lineChannel line)).find? fun e => e.line == line with
  | some e => mergeBytes e.mask e.data (dramLine s line)
  | none => dramLine s line

/-! ### Reads of a line by its controller -/

def chanFailed (s : State) (ch : Nat) : Bool := s.hbm.chanFailed.get false ch

/-- An HBM address in the form of R197. -/
def hbmAddr (r off : Nat) : Nat := r * 2 ^ 38 + off

/-- A record of the memory, at region level. `blk` is the requesting block as physical and logical number. -/
def hbmRecord (cls code r ch off frame : Nat) (blk : Option (Nat × Nat)) : Record :=
  { level := 2, cls := cls, code := code, region := some r, sub := ch % 64, address := hbmAddr r off, detail := frame,
    pb := match blk with | some (p, _) => p | none => 0xFF, lb := match blk with | some (_, l) => l | none => 0xFF }

/-- Declare a channel failed (R216): its buffer entries are discarded (R217). Cause 1 training lost, 2 rows. -/
def failChannel (ch cause : Nat) (s : State) : State :=
  if chanFailed s ch || s.hbm.chanMapout.get false ch then s
  else
    let s := s.modHbm fun h => { h with chanFailed := h.chanFailed.set false ch true, wcb := h.wcb.set [] ch [], lostAt := h.lostAt.set 0 ch 0 }
    let s := recordFatal { level := 2, cls := 3, flags := 4, code := 0x305, region := some (ch / 64), sub := ch % 64, detail := cause } s
    raiseEvent 0x31 0 (leBytes 1 (ch / 64) ++ leBytes 1 (ch % 64) ++ leBytes 1 cause) s

/-- A DRAM row (R216): a row address of a bank, in the pseudo-channel that bit 8 of the line's offset selects (R196). -/
def rowKey (row line : Nat) : Nat := 2 * row + line / 4 % 2

/-- Count an uncorrectable read in a row; more than 8 distinct rows in one AON second fail the channel (R216). -/
def countRow (ch row : Nat) (s : State) : State :=
  let c := s.hbm.rows.get {} ch
  let rows := if c.second = aonSecond s then c.rows else []
  let rows := if rows.contains row then rows else rows ++ [row]
  let s := s.modHbm fun h => { h with rows := h.rows.set {} ch { second := aonSecond s, rows := rows } }
  if 8 < rows.length then failChannel ch 2 s else s

/-- A read that delivers poison writes the deferred record of R199. -/
def poisonRead (r ch off frame : Nat) (blk : Option (Nat × Nat)) (s : State) : State :=
  record (hbmRecord 2 0x302 r ch off frame blk) s

/-- A corrected read is delivered corrected, counted and recorded at a limited rate (R198, R202). -/
def correctedRead (r ch off frame : Nat) (blk : Option (Nat × Nat)) (s : State) : State :=
  record (hbmRecord 1 0x301 r ch off frame blk) (s.modHbm fun h => { h with corrected := h.corrected.mod 0 ch (· + 1) })

/-- What the code of the line at `off` reports to a read of the step in hand. -/
def eccMet (s : State) (r off : Nat) : Ecc :=
  (s.hbm.meet.findSome? fun x => match x with
    | .hbm a e => if a.toNat / 64 = hbmAddr r off / 64 then some e else none
    | _ => none).getD .clean

/-- A controller reads physical line `line`, at virtual offset `a` of region `r`: the merged bytes (R209), or none where the line cannot be
read; `lost` is what the reader does about such a line, and its row is counted behind it (R198, R199, R216). `ecc` is what the line's code
reports now. -/
def readPhys (line r a : Nat) (blk : Option (Nat × Nat)) (lost : State → State) (ecc : Ecc) (s : State) : Option (List Byte) × State :=
  let ch := lineChannel line
  if chanFailed s ch then (none, lost s)
  else
    match ecc, s.hbm.bad.get 0 line with
    | .uncorrectable row, _ =>
      (none, countRow ch (rowKey row line) (lost (s.modHbm fun h => { h with bad := h.bad.set 0 line (rowKey row line + 1) })))
    | _, key + 1 => (none, countRow ch key (lost s))
    | e, 0 =>
      if s.hbm.poison.get false line then (none, lost s)
      else (some (mergedLine s line), if e = .corrected then correctedRead r ch a (lineFrame line) blk s else s)

/-! ### Flushes (R212) -/

/-- Flush one buffer entry: a full mask is written directly, a partial one is read, merged and written (R212). That read is a read of R198 and R199
with no requester. A line that cannot be read for the merge is lost, and is written with its marker set (R201). A failed channel's entries are
discarded (R217). -/
def flushEntry (e : WcEntry) (s : State) : State :=
  if chanFailed s (lineChannel e.line) then s
  else if e.mask = fullMask then dramStore e.line e.data s
  else
    let r := e.line / 2 ^ 31
    let a := virtOff s e.line
    let ecc := if s.hbm.meet.isEmpty then .clean else match virtOf s e.line with | some a => eccMet s r a | none => .clean
    let alone := s.modHbm fun h => { h with wcb := h.wcb.mod [] (lineChannel e.line) fun es => es.filter fun x => x.line != e.line }
    match readPhys e.line r a none (poisonRead r (lineChannel e.line) a (lineFrame e.line) none) ecc alone with
    | (some old, s) => dramStore e.line (mergeBytes e.mask e.data old) s
    | (none, s) => poisonLine e.line (s.modHbm fun h => { h with bad := h.bad.set 0 e.line 0 })

/-- Flush every entry of a channel, oldest first. -/
def flushChannel (ch : Nat) (s : State) : State :=
  let es := wcbOf s ch
  (es.reverse.foldl (fun s e => flushEntry e s) s).modHbm fun h => { h with wcb := h.wcb.set [] ch [] }

/-- Flush every write-combining buffer (R212). -/
def flushAll (s : State) : State := (List.range 256).foldl (fun s ch => flushChannel ch s) s

/-- Flush the buffers of one region. -/
def flushRegion (r : Nat) (s : State) : State := (List.range 64).foldl (fun s c => flushChannel (64 * r + c) s) s

/-! ### Accepting a read and a write -/

/-- Accept a read of the line at `off`: the 64 bytes delivered, whether they are poison, and the state after (R197 to R199, R209,
R217). `ecc` is what the line's code reports now. -/
def readLineEcc (r off : Nat) (blk : Option (Nat × Nat)) (ecc : Ecc) (s : State) : List Byte × Bool × State :=
  let a := off / 64 * 64
  match physLine s r off with
  | none => (poisonBytes, true, poisonRead r 0 a 0 blk s)
  | some line =>
    match readPhys line r a blk (poisonRead r (lineChannel line) a (lineFrame line) blk) ecc s with
    | (some bs, s) => (bs, false, s)
    | (none, s) => (poisonBytes, true, s)

/-- A read by an engine of the device. -/
def readLine (r off : Nat) (blk : Option (Nat × Nat)) (s : State) : List Byte × Bool × State := readLineEcc r off blk (eccMet s r off) s

/-- Run a step whose reads meet some errors of the memories. -/
def meeting (errs : List ReadErr) (f : State → Out) (s : State) : Out :=
  if errs.isEmpty then f s
  else
    match f (s.modHbm fun h => { h with meet := errs }) with
    | .next s => .next (s.modHbm fun h => { h with meet := [] })
    | o => o

/-- The line as it would be delivered, with no effect: poison pattern where R199 delivers it. -/
def peekLine (s : State) (r off : Nat) : List Byte := (readLine r off none s).1

/-- Accept a write into a channel that works (R211): merge, take an entry, evict the least recently written, or bypass. -/
def acceptWrite (line mask : Nat) (data : List Byte) (s : State) : State :=
  let ch := lineChannel line
  let es := wcbOf s ch
  let rest := es.filter fun e => e.line != line
  if mask = fullMask then dramStore line data (s.modHbm fun h => { h with wcb := h.wcb.set [] ch rest })
  else
    let s := if s.hbm.poison.get false line then dramStore line poisonBytes s else s
    let e : WcEntry :=
      match es.find? fun e => e.line == line with
      | some e => { line := line, mask := e.mask ||| mask, data := mergeBytes mask data e.data }
      | none => { line := line, mask := mask, data := mergeBytes mask data (zeros 64) }
    if e.mask = fullMask then flushEntry e (s.modHbm fun h => { h with wcb := h.wcb.set [] ch rest })
    else if rest.length < 64 then s.modHbm fun h => { h with wcb := h.wcb.set [] ch (e :: rest) }
    else
      match rest.getLast? with
      | some old => flushEntry old (s.modHbm fun h => { h with wcb := h.wcb.set [] ch (e :: rest.dropLast) })
      | none => s

/-- Accept a write of the bytes that `mask` names to the line at `off`; a line outside the usable space or in a failed channel is
discarded with its record (R197, R217). -/
def writeLine (r off mask : Nat) (data : List Byte) (s : State) : State :=
  match physLine s r off with
  | none => record (hbmRecord 2 0x304 r 0 (off / 64 * 64) 0 none) s
  | some line =>
    if chanFailed s (lineChannel line) then
      record (hbmRecord 2 0x304 r (lineChannel line) (off / 64 * 64) (lineFrame line) none) s
    else acceptWrite line mask data s

/-- The mask of `n` bytes from byte `a` of a line. -/
def maskOf (a n : Nat) : Nat := (2 ^ n - 1) * 2 ^ a

/-- Cut a byte range into parts of lines: the line's offset, the first byte in it, and the bytes. Fuel: at most one part per
byte. -/
def cutLines : Nat → Nat → List Byte → List (Nat × Nat × List Byte)
  | 0, _, _ => []
  | _, _, [] => []
  | k + 1, off, bs =>
    let n := 64 - off % 64
    (off / 64 * 64, off % 64, bs.take n) :: cutLines k (off + n) (bs.drop n)

def lineParts (off : Nat) (bs : List Byte) : List (Nat × Nat × List Byte) := cutLines (bs.length + 1) off bs

/-- The 64 bytes of a line that carry a part. -/
def partData (a : Nat) (bs : List Byte) : List Byte := padTo 64 (zeros a ++ bs)

/-- Write a run of bytes to HBM, line by line. -/
def writeBytes (r off : Nat) (bs : List Byte) (s : State) : State :=
  (lineParts off bs).foldl (fun s (o, a, b) => writeLine r o (maskOf a b.length) (partData a b) s) s

/-- Offsets of the lines that a byte range touches. -/
def linesOf (off n : Nat) : List Nat := if n = 0 then [] else (List.range ((off + n - 1) / 64 - off / 64 + 1)).map fun k => (off / 64 + k) * 64

/-- Read a run of bytes line by line: the bytes, whether any line was poison, and the state after. -/
def readBytes (r off n : Nat) (blk : Option (Nat × Nat)) (s : State) : List Byte × Bool × State :=
  let (bs, p, s) := (linesOf off n).foldl
    (fun (acc : List Byte × Bool × State) o =>
      let (b, p, s) := readLine r o blk acc.2.2
      (acc.1 ++ b, acc.2.1 || p, s)) ([], false, s)
  (slice bs (off % 64) n, p, s)

/-- The bytes of an HBM range with no effect. -/
def peekBytes (s : State) (r off n : Nat) : List Byte :=
  slice ((linesOf off n).flatMap fun o => peekLine s r o) (off % 64) n

/-! ### Frames (R218 to R223) -/

/-- Forget what a physical frame holds: it reads as zero afterwards. -/
def clearFrame (r f : Nat) (s : State) : State :=
  let mine := fun line => decide (line / 2 ^ 15 = r * 65536 + f)
  s.modHbm fun h =>
    { h with dram := h.dram.keep (fun a _ => !mine (a / 64)), poison := h.poison.keep (fun l _ => !mine l), bad := h.bad.keep (fun l _ => !mine l),
             wcb := h.wcb.set [] (64 * r + f / 1024) ((h.wcb.get [] (64 * r + f / 1024)).filter fun e => !mine e.line) }

/-- The procedure of R221: `need` ascending, `t1` the donor cursor plus 1. It answers the table's overrides, the space and the
moves in order. -/
def donate (p : PMap) (isBad : Nat → Bool) (r : Nat) : Nat → List Nat → Nat → Table Nat → List Move → Table Nat × Nat × List Move
  | 0, _, t1, tab, ms => (tab, t1, ms)
  | _, [], t1, tab, ms => (tab, t1, ms)
  | k + 1, v :: need, t1, tab, ms =>
    match t1 with
    | 0 => (tab, 0, ms)
    | t + 1 =>
      let at' := fun (o : Table Nat) u => ({ p with moved := o } : PMap).entry u
      match at' tab t with
      | none => (tab, t1, ms)
      | some donor =>
        if isBad donor then donate p isBad r k ((v :: need).dropLast) t tab ms
        else
          match at' tab v with
          | none => (tab, t1, ms)
          | some old => donate p isBad r k need t (tab.set 0 v (donor + 1)) (ms ++ [{ region := r, v := v, src := old, dst := donor }])

/-- Remove a set of bad physical frames from region `r` (R221). -/
def removeFrames (r : Nat) (isBad : Nat → Bool) (s : State) : State :=
  let p := pmapOf s r
  let need := (List.range p.space).filter fun v => match p.entry v with | some f => isBad f | none => false
  let (tab, space, ms) := donate p isBad r (p.space + 1) need p.space p.moved []
  let p' : PMap := { p with moved := tab.keep (fun v _ => decide (v < space)), space := space, usable := min p.usable space }
  let s := s.modHbm fun h => { h with pmap := h.pmap.set {} r p', moves := h.moves ++ ms }
  if p'.space - p'.usable = 0 && decide (p.space - p.usable ≠ 0) then spareExhausted 3 r 0xFF 0xFF s else s

/-- Physical frame `f` lies in the space of region `r`. -/
def inSpace (s : State) (r f : Nat) : Bool := (List.range (pmapOf s r).space).any fun v => (pmapOf s r).entry v == some f

/-- RETIRE (R219, R221). -/
def retireOp (r f : Nat) (s : State) : State :=
  if inSpace s r f then
    (removeFrames r (fun g => g == f) s).modHbm fun h => { h with pmap := h.pmap.mod {} r fun p => { p with retired := p.retired + 1 } }
  else s

/-- MAP_OUT (R221, R223). -/
def mapOutOp (r c : Nat) (s : State) : State :=
  if s.hbm.chanMapout.get false (64 * r + c) then s
  else (removeFrames r (fun g => g / 1024 == c) s).modHbm fun h => { h with chanMapout := h.chanMapout.set false (64 * r + c) true }

/-- RESERVE (R220): frames that enter or leave the reserve lose their contents. -/
def reserveOp (r want : Nat) (s : State) : State :=
  let p := pmapOf s r
  let u := p.space - min want p.space
  let s := (List.range (max u p.usable - min u p.usable)).foldl
    (fun s k => match p.entry (min u p.usable + k) with | some f => clearFrame r f s | none => s) s
  let s := s.modHbm fun h => { h with pmap := h.pmap.set {} r { p with usable := u } }
  if p.space - u = 0 && decide (p.space - p.usable ≠ 0) then spareExhausted 3 r 0xFF 0xFF s else s

/-- One operation of a FRAME_RETIRE payload (table *Frame operation*). -/
def frameOp (w : Nat) (s : State) : State :=
  let r := bits w 59 58
  match bits w 63 60 with
  | 1 => retireOp r (bits w 15 0) s
  | 2 => mapOutOp r (bits w 5 0) s
  | 3 => reserveOp r (bits w 15 0) s
  | _ => s

/-- A frame operation that R12, R218 and R219 accept. -/
def frameOpOk (w : Nat) : Bool :=
  decide (bits w 57 16 = 0) &&
    match bits w 63 60 with
    | 1 => true
    | 2 => decide (bits w 15 6 = 0)
    | 3 => decide (bits w 15 0 ≤ 4096)
    | _ => false

/-- Carry out one line of a move (R222): copy what can be read, poison the rest, and count it. A donor whose channel has failed takes no write:
the line is discarded with its record (R217), and none is written as poison. -/
def moveLine (m : Move) (k : Nat) (acc : List Nat × State) : List Nat × State :=
  let line := fun f => m.region * 2 ^ 31 + f * 2 ^ 15 + k
  let a := m.v * 2 ^ 21 + 64 * k
  let (bs, s) := readPhys (line m.src) m.region a none id (eccMet acc.2 m.region a) acc.2
  if chanFailed s (lineChannel (line m.dst)) then
    (acc.1, record (hbmRecord 2 0x304 m.region (lineChannel (line m.dst)) a m.dst none) s)
  else
    match bs with
    | some bs => (acc.1, dramStore (line m.dst) bs s)
    | none => (acc.1 ++ [k], poisonLine (line m.dst) s)

/-- The one record of a move whose lines `ks` were written as poison (R222). -/
def frameRecord (m : Move) (ks : List Nat) (s : State) : State :=
  match ks with
  | [] => s
  | k :: _ =>
    putRecord { level := 2, cls := 2, code := 0x306, region := some m.region, sub := m.src / 1024,
                address := hbmAddr m.region (m.v * 2 ^ 21 + k * 64), detail := m.src, count := ks.length } s

/-- Carry out one move (R222), line by line, and write the frame's one record. -/
def moveFrame (m : Move) (s : State) : State :=
  let x := (List.range 32768).foldl (fun acc k => moveLine m k acc) ([], clearFrame m.region m.dst s)
  frameRecord m x.1 x.2

/-- Carry out the moves recorded at step 5, in their order (R222). -/
def doMoves (s : State) : State :=
  s.hbm.moves.foldl (fun s m => moveFrame m s) (s.modHbm fun h => { h with moves := [] })

/-! ### Commands of the memory controllers -/

/-- A region's controllers run: its channels have trained, its stacks are powered and not in self-refresh, and the region
is up. -/
def hbmRuns (s : State) (r : Nat) : Bool := regionUp s r && !s.hbm.selfRefresh.get false r && !(s.dev == .off || s.dev == .fault) && !(pmapOf s r).boot.isEmpty

/-- HBM_READ (R210). A requester byte below 64 is a logical block of the region. -/
def execHbmRead (r : Fin 4) (off : BitVec 38) (requester : Byte) (ecc : Ecc) (s : State) : Out :=
  if hbmRuns s r then
    let blk := if requester.toNat < 64 then some (0xFF, requester.toNat) else none
    .next (readLineEcc r off.toNat blk ecc s).2.2
  else .next s

/-- HBM_WRITE (R211). `errs` is what the read of an entry that it evicts meets (R212). -/
def execHbmWrite (r : Fin 4) (off : BitVec 38) (mask : W64) (data : BitVec 512) (errs : List ReadErr) (s : State) : Out :=
  meeting errs (fun s => if hbmRuns s r then .next (writeLine r off.toNat mask.toNat (leBytes 64 data.toNat) s) else .next s) s

/-- PATROL_SCRUB (R203): the line it corrects is written back, which changes nothing that a later read returns, unless a write to it has
been accepted since; a line that is uncorrectable stays as it is. -/
def execPatrolScrub (ch : Fin 256) (ecc : Ecc) (_writtenSince : Bool) (s : State) : Out :=
  let c := ch.val
  if hbmRuns s (c / 64) && !chanFailed s c && !s.hbm.chanMapout.get false c then
    let k := s.hbm.scrub.get 0 c
    let line := c / 64 * 2 ^ 31 + c % 64 * 2 ^ 25 + k
    let s := s.modHbm fun h => { h with scrub := h.scrub.set 0 c ((k + 1) % 2 ^ 25) }
    let rec' := fun cls code => hbmRecord cls code (c / 64) c (virtOff s line) (lineFrame line) none
    let failed := fun (key : Nat) =>
      Host.Outcome.next (countRow c key (record (rec' 2 0x303) (s.modHbm fun h => { h with bad := h.bad.set 0 line (key + 1) })))
    match ecc, s.hbm.bad.get 0 line with
    | .uncorrectable row, _ => failed (rowKey row line)
    | _, key + 1 => failed key
    | .clean, 0 => .next s
    | .corrected, 0 => .next (record (rec' 1 0x301) (s.modHbm fun h => { h with corrected := h.corrected.mod 0 c (· + 1) }))
  else .next s

/-- HBM_REFRESH (R204): a refresh command holds its channel for up to 4 µs. -/
def execHbmRefresh (ch : Fin 256) (s : State) : Out :=
  if hbmRuns s (ch.val / 64) then .next (s.modHbm fun h => { h with heldTo := h.heldTo.set 0 ch (s.aon + 200) }) else .next s

/-- CHANNEL_TRAINING_LOST (R216). -/
def execChannelTrainingLost (ch : Fin 256) (s : State) : Out :=
  if hbmRuns s (ch.val / 64) && !chanFailed s ch then
    .next (s.modHbm fun h => { h with lostAt := h.lostAt.set 0 ch (s.aon + 1) })
  else .next s

/-- CHANNEL_RETRAIN_TIMEOUT (R216): 100 µs without training. -/
def execChannelRetrainTimeout (ch : Fin 256) (s : State) : Out :=
  let t := s.hbm.lostAt.get 0 ch
  if t ≠ 0 ∧ t - 1 + 5000 ≤ s.aon then .next (failChannel ch 1 s) else .next s

/-- The write-back of a line after a repair (R214): the line as it was read, or its marker where it could not be. It is a write of the whole line,
which takes the place of a buffer entry (R211). -/
def repairLine (unread : Bool) (line : Nat) (s : State) : State :=
  let lost := unread || decide (s.hbm.bad.get 0 line ≠ 0)
  let bs := mergedLine s line
  let poisoned := s.hbm.poison.get false line
  let s := s.modHbm fun h =>
    { h with bad := h.bad.set 0 line 0, wcb := h.wcb.mod [] (lineChannel line) fun es => es.filter fun e => e.line != line }
  if lost then
    record (hbmRecord 2 0x306 (line / 2 ^ 31) (lineChannel line) (virtOff s line) (lineFrame line) none) (poisonLine line s)
  else if poisoned then poisonLine line s
  else dramStore line bs s

/-- POST_PACKAGE_REPAIR (R214, R215): `lines` are lines of the channel in the row, `unread` those that could not be read now; a line whose code is known to
fail is not read either. -/
def execPostPackageRepair (ch : Fin 256) (lines unread : List Nat) (rowLeft : Bool) (s : State) : Out :=
  let c := ch.val
  if (s.dev == .boot || s.dev == .ready) && regionUp s (c / 64) then
    if rowLeft then
      let base := c / 64 * 2 ^ 31 + c % 64 * 2 ^ 25
      let s := s.modHbm fun h => { h with heldTo := h.heldTo.set 0 c (s.aon + 100000) }
      let s := (lines ++ unread).dedup.foldl (fun s l => repairLine (unread.contains l) (base + l % 2 ^ 25) s) s
      .next (record { level := 2, cls := 1, flags := 1, code := 0x307, region := some (c / 64), sub := c % 64 } s)
    else .next (raiseEvent 0x30 0 (leBytes 1 (c / 64) ++ leBytes 1 (c % 64)) s)
  else .next s

end Sys2Proof.Machine
end

