-- ==== Sys2Proof/Machine/Vector.lean ====
section
/-! DEFINITION. The vector unit (R124 to R129, R167, R168, R542). -/

namespace Sys2Proof.Machine

open Sys2Proof

/-- The VEC slot. -/
structure VecSlot where
  vop : Nat
  fi : Nat
  fo : Nat
  sat : Bool
  trap : Bool
  rnd : Bool
  desc : Nat
  post : Nat
  deriving DecidableEq, Repr

def vecSlot (w : Nat) : VecSlot :=
  { vop := bits w 62 57, fi := bits w 56 52, fo := bits w 51 47, sat := bit w 46, trap := bit w 45, rnd := bit w 44,
    desc := bits w 43 36, post := bits w 35 30 }

/-- A vector descriptor. -/
structure VecDesc where
  s0 : Nat
  s1 : Nat
  s2 : Nat
  dst : Nat
  count : Nat
  p0 : Nat
  p1 : Nat
  tensor : Nat
  draw : Nat
  base : Nat
  datum : Nat
  deriving DecidableEq, Repr

def vecDesc (d : List Byte) : VecDesc :=
  { s0 := field d 0 4, s1 := field d 4 4, s2 := field d 8 4, dst := field d 12 4, count := field d 16 4, p0 := field d 20 4,
    p1 := field d 24 4, tensor := field d 28 4, draw := field d 32 3, base := field d 36 8, datum := field d 44 4 }

def vecClean (d : List Byte) : Bool := decide (field d 35 1 = 0) && decide (field d 48 16 = 0)

/-- Sources that an operation reads. -/
def vecSources (vop : Nat) : Nat :=
  match vop with
  | 0 => 2 | 1 => 2 | 3 => 2 | 4 => 2 | 0x0C => 2 | 0x0E => 2
  | 2 => 3
  | 0x11 => 0 | 0x12 => 0
  | _ => 1

/-- Formats accepted by an operation (table *Vector operation formats*). -/
def vecFormats (vop fi fo : Nat) : Bool :=
  match vop with
  | 0x09 => (isPlainFp fi || isMx fi || fi == 11 || fi == 13) && (isPlainFp fo || fo == 11 || fo == 13)
  | 0x0A => isPlainFp fi && isMx fo
  | 0x0B => (isPlainFp fi || isMx fi) && fo == 0
  | 0x0C => fi == 0 && fo == 0
  | 0x0D => (isPlainFp fi || isMx fi) && (fo == 14 || fo == 15)
  | 0x0E => (fi == 14 || fi == 15) && fo == fi
  | 0x0F => (fi == 14 || fi == 15) && decide (fo ≤ 1)
  | 0x11 => fi == 0 && fo == 0
  | 0x12 => fi == 0 && fo == 13
  | 0x13 => decide (fi ≤ 15) && fo == fi
  | _ => isPlainFp fi && isPlainFp fo

/-- PARAM0 and PARAM1 hold what the operation takes, and 0 where it takes nothing (R127, R542). COPY of an MX format names a scale offset
too, though it copies the element stream alone. -/
def vecParams (v : VecSlot) (d : VecDesc) : Bool :=
  let p0 := if v.vop = 0x0D ∨ v.vop = 0x0F then decide (1 ≤ d.p0) && decide (d.p0 ≤ 8192) else v.vop == 0x10 || d.p0 == 0
  let p1 := if isMx v.fi then decide (d.p1 < 2 ^ 23) else v.vop == 0x10 || d.p1 == 0
  p0 && p1

/-- The bucket place of element `k`: its datum byte's offset from DATUM (R167). -/
def bucketAt (d : VecDesc) (k : Nat) : Nat := (d.base + k) / 512 - d.base / 512

/-- Bytes that elements `k` to `k + n − 1` of width `w` take in a tensor at byte `a`. -/
def elemRange (a w k n : Nat) : Nat × Nat := (a + w * k / 8, streamBytes w (k + n) - w * k / 8)

/-- The same for one byte to every `g` elements, of which `k` begins a group. -/
def groupRange (a g k n : Nat) : Nat × Nat := (a + k / g, (k + n) / g - k / g)

/-- Datum bytes of the buckets that elements `k` to `k + n − 1` belong to. -/
def datumRange (d : VecDesc) (k n : Nat) : Nat × Nat := (d.datum + bucketAt d k, bucketAt d (k + n - 1) + 1 - bucketAt d k)

/-- Ranges read for elements `k` to `k + n − 1`: sources, the scale side stream, datum bytes. -/
def vecReads (v : VecSlot) (d : VecDesc) (k n : Nat) : List (Nat × Nat) :=
  let srcs := ([d.s0, d.s1, d.s2].take (vecSources v.vop)).map fun a => elemRange a (if v.vop = 0x0C then 8 else widthOf v.fi) k n
  let mx := if isMx v.fi && v.vop != 0x13 then [groupRange d.p1 32 k n] else []
  let dat := if v.vop = 0x0D ∨ v.vop = 0x0F then [datumRange d k n] else []
  srcs ++ mx ++ dat

/-- Ranges written for elements `k` to `k + n − 1`. -/
def vecWrites (v : VecSlot) (d : VecDesc) (k n : Nat) : List (Nat × Nat) :=
  match v.vop with
  | 0x0B => [datumRange d k n]
  | 0x0C => [elemRange d.dst 8 k n]
  | 0x0A => [elemRange d.dst (widthOf v.fo) k n, groupRange d.datum 32 k n]
  | _ => [elemRange d.dst (widthOf v.fo) k n]

/-- The instruction is accepted (R167, R542, R541). -/
def vecOk (w : Nat) (raw : List Byte) : Bool :=
  let v := vecSlot w
  let d := vecDesc raw
  let n := vecSources v.vop
  decide (bits w 29 0 = 0) && decide (v.vop ≤ 0x13) && vecFormats v.vop v.fi v.fo && vecClean raw && decide (1 ≤ d.count)
    && decide (d.count ≤ 1572864) && decide (d.s0 < 2 ^ 23) && decide (d.s1 < 2 ^ 23) && decide (d.s2 < 2 ^ 23)
    && decide (d.dst < 2 ^ 23) && (decide (2 ≤ n) || d.s1 == 0) && (decide (3 ≤ n) || d.s2 == 0) && vecParams v d
    && (!(isMx v.fi || v.vop == 0x0A) || (d.base % 32 == 0 && d.count % 32 == 0))
    && ((vecReads v d 0 d.count ++ vecWrites v d 0 d.count).all inSp)

/-! ### Values -/

/-- Source value of element `k` at source offset `a`. -/
def vecVal (m : Mem) (v : VecSlot) (d : VecDesc) (a k : Nat) : FV :=
  scaled v.fi (elem m a (widthOf v.fi) k) (m.read (d.p1 + k / 32)).toNat

/-- The FP32 result of an operation on values widened to FP32 (R115, R121, R124, R125). -/
def fp32Op (vop : Nat) (sat : Bool) (a b c : FV) : FV :=
  let a := round32 false a
  let b := round32 false b
  let c := round32 false c
  match vop with
  | 0 => round32 sat (a.add b)
  | 1 => round32 sat (a.mul b)
  | 2 => round32 sat ((a.mul b).add c)
  | 3 => a.min b
  | 4 => a.max b
  | 5 => fvExp a
  | 6 => fvLog a
  | 7 => fvRcp a
  | 8 => fvRsqrt a
  | _ => a

/-- A value converted to the output format: its code, and whether a NaN was produced (R113, R116). Under SATURATE an infinity gives the largest
finite value also where the format is as wide (DESIGN CHOICE, log 123). -/
def outCode (fo : Nat) (sat : Bool) (w : Option Nat) (x : FV) : Nat × Bool :=
  match fmtOf fo with
  | some f =>
    let c := f.narrow sat w x
    (c, x.isNan || (f.special == 1 && c == f.nanCode))
  | none => (twos (widthOf fo) (toInt (widthOf fo) x), x.isNan)

/-- Element `k` of an element-by-element operation: the code written and whether a NaN was produced. A NaN counts where the operation takes
its source as a number: an element that DROPOUT drops, and an element that COPY moves, raise nothing (DESIGN CHOICE, log 122). -/
def vecElem (seed : Nat) (m : Mem) (v : VecSlot) (d : VecDesc) (k : Nat) : Nat × Bool :=
  let i := d.base + k
  let rnd := fun _ : Unit => if v.rnd then some (randomWord seed d.tensor 1 d.draw i) else none
  let x := vecVal m v d d.s0 k
  let dat := (m.read (d.datum + bucketAt d k)).toNat
  match v.vop with
  | 0x09 => outCode v.fo v.sat (rnd ()) x
  | 0x0D => (toClosure (widthOf v.fo) d.p0 dat x, x.isNan)
  | 0x0E => (closureAdd (widthOf v.fi) (elem m d.s0 (widthOf v.fi) k) (elem m d.s1 (widthOf v.fi) k), false)
  | 0x0F => outCode v.fo v.sat none (closureValue (widthOf v.fi) d.p0 dat (elem m d.s0 (widthOf v.fi) k))
  | 0x10 =>
    if randomWord seed d.tensor 2 d.draw i < d.p0 then (0, false)
    else outCode v.fo v.sat (rnd ()) (round32 v.sat ((round32 false x).mul (fp32.decode d.p1)))
  | 0x11 => (fp32.narrow false none (.fin false (randomWord seed d.tensor 3 d.draw i / 256) (-24)), false)
  | 0x12 => (randomWord seed d.tensor 3 d.draw i, false)
  | 0x13 => (elem m d.s0 (widthOf v.fi) k, false)
  | 0x0C => (Nat.max (m.read (d.s0 + k)).toNat (m.read (d.s1 + k)).toNat, false)
  | op => outCode v.fo v.sat (rnd ()) (fp32Op op v.sat x (vecVal m v d d.s1 k) (vecVal m v d d.s2 k))

/-- Width of the elements written. -/
def vecOutWidth (v : VecSlot) : Nat := if v.vop = 0x0C then 8 else widthOf v.fo

/-- DATUM: combine the datum bytes of elements `k0` to `k0 + n − 1` into the bytes held at their buckets' places (R542). -/
def datumRun (m : Mem) (v : VecSlot) (d : VecDesc) (k0 n : Nat) : Mem :=
  (List.range' k0 n).foldl
    (fun acc k =>
      let a := d.datum + bucketAt d k
      acc.write a (BitVec.ofNat 8 (Nat.max (acc.read a).toNat (datumOf (vecVal m v d d.s0 k))))) m

/-- CVT_MX of elements `k0` to `k0 + n − 1`: whole blocks of 32, codes at DST and scales at DATUM (R119). A scale of 0xFF, and an element that overflows to the NaN of E4M3, are
NaNs produced (R113). -/
def mxRun (seed : Nat) (m : Mem) (v : VecSlot) (d : VecDesc) (k0 n : Nat) : Mem × Bool :=
  (List.range' (k0 / 32) (n / 32)).foldl
    (fun acc g =>
      let xs := (List.range 32).map fun j => round32 false (vecVal m v d d.s0 (32 * g + j))
      let w := fun j => if v.rnd then some (randomWord seed d.tensor 1 d.draw (d.base + 32 * g + j)) else none
      let (sc, cs) := toMx v.fo v.sat w xs
      let mem := cs.zipIdx.foldl (fun mm (c, j) => setElem mm d.dst (widthOf v.fo) (32 * g + j) c) acc.1
      let beyond := match fmtOf v.fo with | some f => f.special == 1 && cs.contains f.nanCode | none => false
      (mem.write (d.datum + g) (BitVec.ofNat 8 sc), acc.2 || sc == 0xFF || beyond)) (m, false)

/-- What elements `k0` to `k0 + n − 1` of a vector instruction leave in the scratchpad, and whether one of them produced a NaN. -/
def vecRun (seed : Nat) (m : Mem) (v : VecSlot) (d : VecDesc) (k0 n : Nat) : Mem × Bool :=
  match v.vop with
  | 0x0A => mxRun seed m v d k0 n
  | 0x0B => (datumRun m v d k0 n, (List.range' k0 n).any fun k => (vecVal m v d d.s0 k).isNan)
  | _ =>
    (List.range' k0 n).foldl
      (fun acc k =>
        let (c, nan) := vecElem seed m v d k
        (setElem acc.1 d.dst (vecOutWidth v) k c, acc.2 || nan)) (m, false)

end Sys2Proof.Machine
end

