-- ==== Sys2Proof/Machine/Bundle.lean ====
section
/-! DEFINITION. The issue of bundles and the control operations (R74, R157 to R163, R166, R173, R183, R185, R186, R191, R192). -/

namespace Sys2Proof.Machine

open Sys2Proof

/-! ### Slots of a bundle (R157 to R159) -/

/-- Slot `k` of a bundle in the order of issue: CTL, ARR, VEC, DMA. -/
def slotWord (w k : Nat) : Nat :=
  match k with
  | 0 => bits w 63 0
  | 1 => bits w 255 192
  | 2 => bits w 191 128
  | _ => bits w 127 64

def slotValid (w k : Nat) : Bool := bit (slotWord w k) 63

/-- A slot whose V bit is 0 has another bit set (R157). -/
def bundleBad (w : Nat) : Bool := (List.range 4).any fun k => !slotValid w k && slotWord w k != 0

def ctlOp (w : Nat) : Nat := bits w 62 57

/-- The bundle as a whole may issue (R158): its CTL condition holds, and each engine can take what it is given. A SCALAR or a DLOAD
to IMEM waits while the scalar core runs (R162, R173). The room in the vector and DMA queues is asked of every bundle. -/
def bundleMayIssue (k : Block) (w : Nat) : Bool :=
  let c := slotWord w 0
  let ctl := !slotValid w 0 ||
    (match ctlOp c with
      | 1 => reached (ctrOf k (bits c 56 51)) (bits c 31 0)
      | 8 => !(bits c 56 55 == 3 && k.sc.running)
      | 10 => !k.sc.running
      | _ => true)
  ctl && (!slotValid w 1 || decide (k.arr.length < 4)) && decide (k.vec.length < 4) && decide (k.dma.length < 16)

/-- Leave the loops that end before `nxt`, or take the innermost round again (R163). -/
def unwind : List LoopSt → Nat → Nat × List LoopSt
  | [], nxt => (nxt, [])
  | l :: ls, nxt =>
    if nxt ≤ l.last then (nxt, l :: ls)
    else if 1 < l.left then (l.first, { l with left := l.left - 1 } :: ls)
    else unwind ls nxt

/-- Begin the first of a block's tasks: a task that runs past its stream halts the block (R192). -/
def beginTask (p b : Nat) (ts : List (Nat × Nat)) (s : State) : State :=
  match ts with
  | [] => s.modBlk p fun k => { k with tasks := [], skip := 0, loops := [] }
  | (st, n) :: _ =>
    let s := s.modBlk p fun k => { k with tasks := ts, pos := st, skip := 0, loops := [] }
    if (streamOf s b).length < st + n ∨ n = 0 then haltBlock p 0x209 0 0 s else s

/-- The bundle has issued whole: on to the next bundle of the task, or to the next task (R191, R192). -/
def nextBundle (p b : Nat) (s : State) : State :=
  let k := blkOf s p
  match k.tasks with
  | [] => s
  | (st, n) :: ts =>
    let (pos, loops) := unwind k.loops (k.pos + 1 + k.skip)
    if pos < st + n then s.modBlk p fun k => { k with pos := pos, loops := loops, skip := 0 }
    else if ts.isEmpty && !legArrived s b then haltBlock p 0x209 0 0 s
    else beginTask p b ts s

/-- What a slot does: it issues, or the block stops with it. -/
inductive SlotRes where
  | issued (s : State)
  | stopped (s : State)

/-- Go past the current bundle. A halted block goes to no further bundle (R190). -/
def passBundle (p b : Nat) (s : State) : State := if (blkOf s p).halted then s else nextBundle p b s

/-- Block `b` can issue from physical block `p`: the leg runs, its region is up, its clock runs, it has a task, and it has neither halted nor
executed STATION (R75, R190). -/
def blockIssues (s : State) (b p : Nat) : Bool :=
  let k := blkOf s p
  legRuns s && regionUp s (b / 64) && blockClock s b == 2 && !k.tasks.isEmpty && !k.halted && !legArrived s b

/-- A scratchpad error met outside the feeder (R177): the single-bit one is corrected and recorded, the double-bit one halts the block and
stops the engine that met it (R190). -/
def meetSp (p : Nat) (e : HwErr) (stop : Block → Block) (s : State) : SlotRes :=
  match e with
  | .spSingle off => .issued (record (blockRecord s p 1 0 0x213 0 (locator ((logOf s p).getD 0) (off % 0x600000))) s)
  | .spDouble off => .stopped (haltBlock p 0x214 0 (off % 0x600000) (s.modBlk p stop))
  | _ => .issued s

/-- Errors met as a bundle issues: instruction-buffer parity (R190), then the scratchpad's. -/
def meetError (p : Nat) (e : HwErr) (s : State) : SlotRes :=
  match e with
  | .seqParity lost =>
    if lost then .stopped (haltBlock p 0x215 0 0 s)
    else .issued (record (blockRecord s p 1 0 0x215 (blkOf s p).pos 0) s)
  | _ => meetSp p e id s

/-- The engine of slot `cls` stops: what the vector unit or the DMA engine has in progress never posts (R190). -/
def stopEngine (cls : Nat) (k : Block) : Block :=
  match cls with
  | 2 => { k with vec := [] }
  | 3 => { k with dma := [] }
  | _ => k

/-! ### What the engine slots read and check in the BCLK of issue (R146, R159, R167, R327, R544) -/

/-- Read the descriptors of an instruction's parts. -/
def readTiles (k : Block) (a : ArrSlot) : Except (Nat × Nat) (List (List Byte)) :=
  let (_, _, n) := shapeDims a.shape
  (List.range n).foldl
    (fun acc q =>
      match acc with
      | .error x => .error x
      | .ok ds => match readDesc k 0 (a.desc + q) with | .error x => .error x | .ok d => .ok (ds ++ [d])) (.ok [])

/-- Read the tile descriptors of an ARR slot: its fault, descriptor and offset where the instruction is not issued. -/
def readArr (k : Block) (w : Nat) : Except (Nat × Nat × Nat) (List (List Byte)) :=
  let a := arrSlot w
  if !arrSlotOk w then .error (0x20A, 0, 0)
  else
    match readTiles k a with
    | .error (c, x) => .error (c, a.desc, x)
    | .ok ds =>
      let ts := ds.map tileOf
      if ds.all tileClean && ts.all (tileOk a) && ts.all (fun t => t.kgran == (ts.map Tile.kgran).headD 0) then .ok ds
      else .error (0x20A, a.desc, 0)

/-- Read the descriptor of a VEC slot. -/
def readVec (k : Block) (w : Nat) : Except (Nat × Nat × Nat) (List Byte) :=
  let v := vecSlot w
  if bits w 29 0 ≠ 0 ∨ 0x13 < v.vop then .error (0x20A, 0, 0)
  else
    match readDesc k 1 v.desc with
    | .error (c, x) => .error (c, v.desc, x)
    | .ok raw => if vecOk w raw then .ok raw else .error (0x20A, v.desc, 0)

/-- A descriptor's KIND belongs to the remote operations. -/
def remoteKind (kind : Nat) : Bool := decide (5 ≤ kind) && decide (kind < 16)

/-- Read the descriptor of a DMA slot. -/
def readDma (k : Block) (w : Nat) : Except (Nat × Nat × Nat) (List Byte) :=
  let i := bits w 62 55
  match readDesc k 2 i with
  | .error (c, x) => .error (c, i, x)
  | .ok raw =>
    let kind := field raw 0 1
    if bits w 48 0 ≠ 0 then .error (0x21A, i, 0)
    else if remoteKind kind then (if kind < 12 && rdescOk raw then .ok raw else .error (0x211, i, 0))
    else if 1 ≤ kind && kind ≤ 3 && dmaOk raw then .ok raw
    else .error (0x21A, i, 0)

/-- Every engine slot of a bundle, in the order ARR, VEC, DMA. -/
def readSlots (k : Block) (w : Nat) : Except (Nat × Nat × Nat) SlotReads :=
  match if slotValid w 1 then readArr k (slotWord w 1) else .ok [] with
  | .error x => .error x
  | .ok ts =>
    match if slotValid w 2 then readVec k (slotWord w 2) else .ok [] with
    | .error x => .error x
    | .ok v =>
      match if slotValid w 3 then readDma k (slotWord w 3) else .ok [] with
      | .error x => .error x
      | .ok d => .ok { tiles := ts, vec := v, dma := d }

/-- What a DMA meets in the memories it reads. -/
def errsOf (e : HwErr) : List ReadErr := match e with | .reads xs => xs | _ => []

/-! ### Control operations (R160) -/

/-- Reserved bits of a CTL word, by operation. -/
def ctlReserved (w : Nat) : Nat :=
  match ctlOp w with
  | 0 => bits w 56 0
  | 1 => bits w 50 32
  | 2 => bits w 50 32
  | 3 => bits w 50 32
  | 4 => bits w 21 0
  | 5 => bits w 51 0
  | 6 => bits w 48 0
  | 7 => bits w 34 0
  | 8 => bits w 39 0
  | 9 => bits w 43 0
  | 10 => bits w 14 0
  | 11 => bits w 56 32
  | _ => 1

/-- The CTL word belongs to no row, or breaks its row's reserved bits. -/
def ctlRowless (w : Nat) : Bool := decide (0x0B < ctlOp w)

/-- POST (R166). -/
def doPost (p w : Nat) (s : State) : SlotRes := .issued (postCtr p (bits w 56 51) (bits w 31 0) s)

/-- SET (R166). -/
def doSet (p w : Nat) (s : State) : SlotRes := .issued (s.modBlk p fun k => { k with ctr := k.ctr.set 0 (bits w 56 51) (bits w 31 0) })

/-- LOOP (R163). -/
def doLoop (p w : Nat) (s : State) : SlotRes :=
  let k := blkOf s p
  let trips := bits w 56 33
  let last := k.pos + bits w 32 22
  let outer := match k.loops with | l :: _ => l.last | [] => last
  let taskEnd := match k.tasks with | (st, n) :: _ => st + n | [] => 0
  if trips = 0 ∨ bits w 32 22 = 0 ∨ 1024 < bits w 32 22 ∨ 4 ≤ k.loops.length ∨ outer < last ∨ taskEnd ≤ last then
    .stopped (haltBlock p 0x209 0 0 s)
  else .issued (s.modBlk p fun k => { k with loops := { first := k.pos + 1, last := last, left := trips } :: k.loops })

/-- Lowest segment at which `n` segments are FREE (R185). -/
def firstFit (k : Block) (n : Nat) : Option Nat :=
  (List.range (1537 - n)).find? fun a => (List.range n).all fun i => (segOf k (a + i)).st == .free

/-- One entry of the allocation sequence (R185, R186). -/
def doAllocEntry (p : Nat) (v : W32) (s : State) : SlotRes :=
  let w := v.toNat
  let k := blkOf s p
  let n := bits w 29 19
  let base := bits w 18 8
  let segs := (List.range n).map (base + ·)
  if bits w 31 30 = 1 then
    match firstFit k n with
    | none => .stopped (haltBlock p 0x20B 0 0 s)
    | some a =>
      if a ≠ base then .stopped (haltBlock p 0x20C 0 (4096 * a) s)
      else .issued (s.modBlk p (modSegs segs fun g => { g with st := .owned }))
  else
    match segs.find? fun i => !((segOf k i).st == .owned || (segOf k i).st == .ready) with
    | some i => .stopped (haltBlock p 0x208 0 (4096 * i) s)
    | none => .issued (s.modBlk p (modSegs segs fun _ => {}))

/-- Carry out `n` entries of the allocation sequence. -/
def doEntries (p : Nat) (es : List W32) : Nat → State → SlotRes
  | 0, s => .issued s
  | n + 1, s =>
    match es[(blkOf s p).alloc]? with
    | none => .stopped (haltBlock p 0x209 0 0 s)
    | some v =>
      match doAllocEntry p v s with
      | .stopped s => .stopped s
      | .issued s => doEntries p es n (s.modBlk p fun k => { k with alloc := k.alloc + 1 })

/-- The block's allocation sequence for the leg. -/
def allocOf (s : State) (b : Nat) : List W32 :=
  match currentLeg s with
  | some l => match l.parts.allocs.find? fun e => e.1.val == b with | some e => e.2 | none => []
  | none => []

/-- ASEQ (R185, R186). That a COUNT out of its range raises BUNDLE_INVALID is DEDUCED (log 140), here and in RELEASE, DLOAD, SETBASE and
SCALAR. -/
def doAseq (b p w : Nat) (s : State) : SlotRes :=
  if bits w 56 52 = 0 ∨ 16 < bits w 56 52 then .stopped (haltBlock p 0x209 0 0 s) else doEntries p (allocOf s b) (bits w 56 52) s

/-- Release segments `a` to `a + n − 1` (R183): the state the release finds wrong, or the block after it. -/
def releaseSegs (k : Block) (a n : Nat) : Except Nat Block :=
  let segs := (List.range n).map (a + ·)
  match segs.find? fun i => !((segOf k i).st == .owned || (segOf k i).st == .ready) with
  | some i => .error i
  | none => .ok (modSegs segs (fun g => { g with st := .owned }) k)

/-- RELEASE (R183). -/
def doRelease (p w : Nat) (s : State) : SlotRes :=
  let a := bits w 56 46
  let n := bits w 45 35
  if n = 0 ∨ 1536 < a + n then .stopped (haltBlock p 0x209 0 0 s)
  else
    match releaseSegs (blkOf s p) a n with
    | .error i => .stopped (haltBlock p 0x208 0 (4096 * i) s)
    | .ok k => .issued (s.modBlk p fun _ => k)

/-- DLOAD (R160 to R162): the bundles that follow are data. A COUNT or INDEX out of range, and data that run past the task, raise
BUNDLE_INVALID (DEDUCED, log 140). -/
def doDload (b p w : Nat) (s : State) : SlotRes :=
  let k := blkOf s p
  let tbl := bits w 56 55
  let i := bits w 54 47
  let n := bits w 46 40
  let taskEnd := match k.tasks with | (st, m) :: _ => st + m | [] => 0
  let data := (((streamOf s b).drop (k.pos + 1)).take (2 * n)).flatMap fun v => leBytes 32 v.toNat
  if n = 0 ∨ 64 < n ∨ 256 < i + n ∨ taskEnd ≤ k.pos + 2 * n then .stopped (haltBlock p 0x209 0 0 s)
  else if tbl = 3 then
    .issued (s.modBlk p fun k => { k with imem := k.imem.writeN (64 * i) data, skip := 2 * n })
  else
    match tableAddr k tbl i with
    | none => .stopped (haltBlock p 0x209 0 0 s)
    | some a =>
      match firstFault (readFault k) (segsOf a (64 * n)) with
      | some (c, g) => .stopped (haltBlock p c 0 (4096 * g) s)
      | none => .issued (s.modBlk p fun k => { k.writeSp a data with skip := 2 * n })

/-- SETBASE (R161). -/
def doSetbase (p w : Nat) (s : State) : SlotRes :=
  if bits w 56 55 = 3 ∨ 1532 < bits w 54 44 then .stopped (haltBlock p 0x209 0 0 s)
  else .issued (s.modBlk p fun k => { k with base := k.base.set 0 (bits w 56 55) (bits w 54 44 + 1) })

/-- SCALAR (R173): the core starts, and its granted segments move to FILLING. An odd ENTRY raises BUNDLE_INVALID (DEDUCED, log 140); x1 to x31
and the count of instructions keep what the run before left (DESIGN CHOICE, log 141). -/
def doScalar (p w : Nat) (s : State) : SlotRes :=
  let entry := bits w 56 43
  let a := bits w 36 26
  let n := bits w 25 15
  let segs := (List.range n).map (a + ·)
  if entry % 2 = 1 ∨ (n ≠ 0 ∧ 1536 < a + n) ∨ 1536 < n then .stopped (haltBlock p 0x209 0 0 s)
  else
    match firstFault (writeFault (blkOf s p)) segs with
    | some (c, g) => .stopped (haltBlock p c 0 (4096 * g) s)
    | none =>
      .issued (s.modBlk p fun k =>
        { modSegs segs SegSt.hold k with
          sc := { k.sc with running := true, pc := entry, post := bits w 42 37, seg := a, count := n } })

/-- STATION (R74, R192): only in the last bundle of the block's last task, with the leg's index. -/
def doStation (b p w : Nat) (s : State) : SlotRes :=
  let k := blkOf s p
  match k.tasks, s.job.run with
  | [(st, n)], some r =>
    if k.pos + 1 = st + n && bits w 31 0 == r.j then
      .issued (s.modJob fun j => { j with run := some { r with arrived := insertNat b r.arrived } })
    else .stopped (haltBlock p 0x209 0 0 s)
  | _, _ => .stopped (haltBlock p 0x209 0 0 s)

/-- Engine work of block `b` can go on: its region is up and its clock runs. -/
def engineRuns (s : State) (b : Nat) : Bool := regionUp s (b / 64) && blockClock s b == 2 && !(s.dev == .off || s.dev == .fault)

end Sys2Proof.Machine
end

