-- ==== Sys2Proof/Machine/VectorIssue.lean ====
section
/-! DEFINITION. The vector unit of a block: its queue, the elements it processes step by step, and its posts (R113, R168, R181, R183, R184). -/

namespace Sys2Proof.Machine

open Sys2Proof

/-- The vector queue takes an instruction with the descriptor that its bundle has read (R158, R159). -/
def takeVec (p w : Nat) (raw : List Byte) (s : State) : State := s.modBlk p fun k => { k with vec := k.vec ++ [{ word := w, desc := raw }] }

/-- The vector unit stops with a fault (R113, R184, R190). -/
def vecFault (p code desc off : Nat) (s : State) : SlotRes := .stopped (haltBlock p code desc off (s.modBlk p (stopEngine 2)))

/-- Bytes of a memory that a list of ranges names, put into the scratchpad. -/
def Block.writeRanges (rs : List (Nat × Nat)) (m : Mem) (k : Block) : Block := rs.foldl (fun k (a, n) => k.writeSp a (m.readN a n)) k

/-- Segments that a vector instruction's destination touches. -/
def vecDst (o : VecOp) : List Nat := rangeSegs (vecWrites (vecSlot o.word) (vecDesc o.desc) 0 (vecDesc o.desc).count)

/-- The segment fault of the next `m` elements of the oldest instruction: a source that may not be read, the instruction's own destination aside
(R181, R184), or, before the first write, a destination that may not be written (R183). -/
def vecFaults (k : Block) (o : VecOp) (m : Nat) : Option (Nat × Nat) :=
  let own := o.held.getD []
  match firstFault (readFault k) ((rangeSegs (vecReads (vecSlot o.word) (vecDesc o.desc) o.done m)).filter fun g => !own.contains g) with
  | some f => some f
  | none => if o.held.isSome then none else firstFault (writeFault k) (vecDst o)

/-- The block once the oldest instruction `o` has processed `m` elements more, which leave `sp`; `os` are the instructions behind it. -/
def vecWrote (o : VecOp) (os : List VecOp) (m : Nat) (sp : Mem) (k : Block) : Block :=
  let dst := vecDst o
  let k := if o.held.isSome then k else modSegs dst SegSt.hold k
  { k.writeRanges (vecWrites (vecSlot o.word) (vecDesc o.desc) o.done m) sp with vec := { o with done := o.done + m, held := some dst } :: os }

/-- The oldest instruction `o` processes up to `n` groups of 32 elements more: every read checks its segment as it is made (R181), the first
write takes the destination to FILLING (R168). A NaN under TRAP halts the block (R113): the elements of this step are then not written, and
what earlier steps wrote and hold stays (DESIGN CHOICE, log 139). -/
def vecMove (p n : Nat) (o : VecOp) (os : List VecOp) (s : State) : SlotRes :=
  let k := blkOf s p
  let v := vecSlot o.word
  let d := vecDesc o.desc
  let m := min (32 * n) (d.count - o.done)
  if m = 0 then .issued s
  else
    match vecFaults k o m with
    | some (c, g) => vecFault p c v.desc (4096 * g) s
    | none =>
      let (sp, nan) := vecRun s.job.seed k.sp v d o.done m
      if nan && v.trap then vecFault p 0x203 v.desc 0 s else .issued (s.modBlk p (vecWrote o os m sp))

/-- The oldest instruction posts and lets its segments go (R168). -/
def vecDone (p : Nat) (s : State) : State :=
  match (blkOf s p).vec with
  | [] => s
  | o :: os => postCtr p (vecSlot o.word).post 1 (s.modBlk p fun k => { modSegs (o.held.getD []) SegSt.drop k with vec := os })

/-- VECTOR_POST (R168): the oldest queued instruction goes on to a moment of its life. `e` is what the scratchpad's code reports on the way. -/
def execVectorPost (b : Fin 256) (upto : EngineMoment) (e : HwErr) (s : State) : Out :=
  match physOf s b with
  | none => .next s
  | some p =>
    match (blkOf s p).vec with
    | [] => .next s
    | o :: os =>
      if !engineRuns s b then .next s
      else
        match meetSp p e (stopEngine 2) s with
        | .stopped s => .next s
        | .issued s =>
          match upto with
          | .moves n => .next (match vecMove p n o os s with | .issued s => s | .stopped s => s)
          | .posts =>
            match vecMove p (vecDesc o.desc).count o os s with
            | .stopped s => .next s
            | .issued s => .next (vecDone p s)

end Sys2Proof.Machine
end

