-- ==== Sys2Proof/Machine/ArrayIssue.lean ====
section
/-! DEFINITION. Array instructions in a block: issue, the feed and the drain of their parts, fault domains, failed columns and posts (R133,
R134, R140 to R149, R154 to R156, R456, R543). -/

namespace Sys2Proof.Machine

open Sys2Proof

/-! ### Failed columns (R456, R457) -/

/-- The lowest station whose staging latch has not closed; none is the start of the next RUN (R87). -/
def nextStation (s : State) : Option Nat :=
  match s.job.run with
  | some r => some (if r.phase = .leg then r.base + r.j else r.base + r.j + 1)
  | none => none

/-- The disabled columns of block `p` in a COLUMN_SPARE_MAP payload: four 16-bit entries with VALID in [15]. -/
def payloadCols (payload : List Byte) (p : Nat) : List Nat :=
  ((List.range 4).map fun i => field payload (8 * p + 2 * i) 2).filterMap fun e => if bit e 15 then some (e % 256) else none

/-- The failed columns that `COL_FAILED_r` lists: it has four entries. -/
def listedColumns (s : State) (p : Nat) : List Nat := (s.flt.colFailed.get [] p).take 4

/-- Columns of block `p` that the map staged for a target disables, the device's own staging included; the map in force where none
is staged. -/
def stagedCols (s : State) (tgt : Option Nat) (p : Nat) : List Nat :=
  let base := match s.job.stage.find? fun g => g.ident == 7 && g.target == tgt with
    | some g => payloadCols g.payload p
    | none => s.blks.cols.get [] p
  (s.job.ownCols.filter fun (t, q, _) => t == tgt && q == p).foldl (fun acc (_, _, c) => insertNat c acc) base

/-- A column's parity failure (R456): the device stages its replacement, which may stand staged already, or the block fails (R458). -/
def columnFails (p c : Nat) (s : State) : State :=
  if (s.blks.cols.get [] p).contains c then s
  else
    let tgt := nextStation s
    let have' := stagedCols s tgt p
    let s := s.modFlt fun f => { f with colFailed := f.colFailed.mod [] p (insertNat c) }
    let rec' := fun cls flags => { blockRecord s p cls flags 0x101 0 0 with level := 0, sub := c }
    if have'.contains c then record (rec' 1 1) s
    else if have'.length < 4 then
      let s := s.modJob fun j => { j with ownCols := j.ownCols ++ [(tgt, p, c)] }
      let s := record (rec' 1 1) s
      if 3 ≤ have'.length then spareExhausted 1 (p / 68) (p % 68) 0xFF s else s
    else
      let cause := s.flt.seq
      failBlock p (some cause) (recordFatal (rec' 3 4) s)

/-! ### The array takes an instruction (R143 to R147) -/

/-- Segments that the output of a part touches. -/
def tileSegs (a : ArrSlot) (t : Tile) : List Nat :=
  rangeSegs ((List.range t.m).map fun i => (outAddr a t i 0, t.n * outBytes a.out))

/-- Segments of a part's output that its drain may write: OWNED or READY as the part issues (R148). -/
def drainMay (k : Block) (a : ArrSlot) (t : Tile) : List Nat :=
  (tileSegs a t).filter fun g => decide (g < 1536) && (readFault k g).isNone

/-- The array takes an instruction with the descriptors that its bundle has read (R147, R158, R159). The tiles of a split instruction share one
number (DESIGN CHOICE, log 119): its parts run side by side in the same bank. -/
def takeArr (p w : Nat) (tiles : List (List Byte)) (s : State) : State :=
  s.modBlk p fun k =>
    { k with
      arr := k.arr ++ [{ word := w, num := k.tile,
                         parts := tiles.zipIdx.map fun (d, q) => { part := q, desc := d, may := drainMay k (arrSlot w) (tileOf d) } }]
      tile := k.tile + 1 }

/-! ### Faults of a part (R154, R543) -/

/-- Physical columns that the cells of a part lie in. -/
def partPhysCols (s : State) (p sh part : Nat) : List Nat := (partCols sh part).map fun c => (enabledCols s p).getD c 0

/-- A failed column still in use in a part, the lowest (R543). -/
def badColumn (s : State) (p sh part : Nat) : Option Nat :=
  (partPhysCols s p sh part).find? fun c => (s.flt.colFailed.get [] p).contains c

/-- A parity check fails in a part, or a double-bit error meets its feeder (R154, R177, R543): the fault's code, the column that it names
and the columns that have failed. `accOnly` is the time of the drain, when only the accumulators are read. -/
def checkFault (cols : List Nat) (part : Nat) (rs : List (Nat × Nat)) (accOnly : Bool) (e : HwErr) : Option (Nat × Nat × List Nat) :=
  let here := fun (q : Fin 4) (c : Fin 132) => q.val == part && cols.contains c.val
  match e with
  | .operandParity q c => if !accOnly && here q c then some (0x201, c.val, [c.val]) else none
  | .accParity q c => if here q c then some (0x202, c.val, [c.val]) else none
  | .bothParity q c d => if !accOnly && here q c && here q d then some (0x201, c.val, [c.val, d.val]) else none
  | .spDouble off => if !accOnly && rs.any (fun (x, n) => decide (x ≤ off) && decide (off < x + n)) then some (0x201, 0xFFFF, []) else none
  | _ => none

/-- The first granule from `g0` on whose reads fail, with its fault: ARR_ADDRESS beyond the scratchpad, otherwise the segment's fault
(R148, R154, R181, R184; log 51). -/
def feedFault (k : Block) (a : ArrSlot) (t : Tile) (g0 g1 : Nat) : Option (Nat × Nat) :=
  ((List.range (g1 - g0)).map (g0 + ·)).findSome? fun g =>
    let rs := feedRanges a t g (g + 1)
    if !(rs.all inSp) then some (g, 0x204) else (firstFault (readFault k) (rangeSegs rs)).map fun (c, _) => (g, c)

/-- Fault of the drain's writes on the output itself (R148, R154, R183): a position beyond the scratchpad, a segment that is FREE or LENT as
the write begins, or one that the part may not write. -/
def drainFault (k : Block) (a : ArrSlot) (t : Tile) (may : List Nat) : Option Nat :=
  if (outputs t).any fun (i, l) => !inSp (outAddr a t i l, outBytes a.out) then some 0x204
  else
    match firstFault (writeFault k) (tileSegs a t) with
    | some (c, _) => some c
    | none => if (tileSegs a t).all may.contains then none else some 0x204

/-- A part faults (R155, R456): its deferred record, and the columns whose parity failed. A word that the feeder could not read is noted. -/
def partFaults (p : Nat) (a : ArrSlot) (x : ArrPart) (f : Nat × Nat × List Nat) (s : State) : State :=
  let s := record { blockRecord s p 2 0 f.1 (a.desc + x.part) 0 with part := x.part, sub := f.2.1 } s
  f.2.2.foldl (fun s c => columnFails p c s) s

/-! ### The feed (R145, R147, R148) -/

/-- Copy the bytes of some ranges from one memory to another. -/
def copyRanges (rs : List (Nat × Nat)) (src dst : Mem) : Mem := rs.foldl (fun m (a, n) => m.writeN a (src.readN a n)) dst

/-- Feed a part up to granule `g1`. Within what one step feeds, a NaN under TRAP comes before a read that fails in a later granule, and a
check of the hardware comes last (log 120). -/
def feedPart (p : Nat) (a : ArrSlot) (x : ArrPart) (g1 : Nat) (e : HwErr) (s : State) : ArrPart × Option (Nat × Nat × List Nat) :=
  let k := blkOf s p
  let t := tileOf x.desc
  match if x.fed = 0 then badColumn s p a.shape x.part else none with
  | some c => ({ x with fault := some (0x201, c) }, some (0x201, c, []))
  | none =>
    let stop := feedFault k a t x.fed g1
    let upto := match stop with | some (g, _) => g | none => g1
    let rs := feedRanges a t x.fed upto
    let x := { x with fed := upto, got := copyRanges rs k.sp x.got }
    let f :=
      if a.trap && tileNan (upto * granule (rateClass a.fa)) x.got a t then some (0x203, 0xFFFF, [])
      else
        match stop with
        | some (_, c) => some (c, 0xFFFF, [])
        | none => checkFault (partPhysCols s p a.shape x.part) x.part rs false e
    ({ x with fault := f.map fun f => (f.1, f.2.1) }, f)

/-- A part has taken its last beat, or takes none any more. -/
def partFed (x : ArrPart) : Bool := x.fault.isSome || decide ((tileOf x.desc).kgran ≤ x.fed)

/-- The instruction at place `i` may be fed: every part of an earlier one has taken its last beat or faulted (R147), and the drain of the
tile two before it, which shares its bank, has taken its values (R133, R134). -/
def mayFeed (ops : List ArrOp) (i : Nat) : Bool :=
  let n := match ops[i]? with | some o => o.num | none => 0
  (ops.take i).all fun o => o.parts.all fun x => partFed x && (decide (n < o.num + 2) || x.held.isSome)

/-! ### The drain (R135, R148, R155) -/

/-- The bits of output (i, l) of a sound part (R118, R135). -/
def tileCode (seed : Nat) (m : Mem) (a : ArrSlot) (t : Tile) (i l : Nat) : Nat :=
  let w := if a.rnd then some (randomWord seed t.tensor 1 t.draw (t.base + i * t.epitch + l)) else none
  drainCode a w (outputAcc m a t i l)

/-- Store the outputs of a part: `code` gives each one's bits, and only positions within `segs` are written. -/
def drainTile (a : ArrSlot) (t : Tile) (segs : List Nat) (code : Nat → Nat → Nat) (k : Block) : Block :=
  (outputs t).foldl
    (fun k (i, l) =>
      let x := outAddr a t i l
      if inSp (x, outBytes a.out) && segs.contains (x / 4096) then k.writeSp x (leBytes (outBytes a.out) (code i l)) else k) k

/-- The first drain write of a part: its segments go to FILLING and it writes its outputs, or the poison fill where it has faulted. A segment that
was OWNED or READY at issue and is FREE or LENT as the drain begins takes no poison fill either (DESIGN CHOICE, log 51). -/
def drainPart (p : Nat) (a : ArrSlot) (x : ArrPart) (e : HwErr) (s : State) : ArrPart × Option (Nat × Nat × List Nat) × State :=
  let k := blkOf s p
  let t := tileOf x.desc
  let f :=
    if x.fault.isSome then none
    else
      match checkFault (partPhysCols s p a.shape x.part) x.part [] true e with
      | some f => some f
      | none => (drainFault k a t x.may).map fun c => (c, 0xFFFF, [])
  let x := { x with fault := match f with | some f => some (f.1, f.2.1) | none => x.fault }
  let segs := x.may.filter fun g => (writeFault k g).isNone
  let code := if x.fault.isSome then fun _ _ => poisonFill a else tileCode s.job.seed x.got a t
  ({ x with held := some segs }, f, s.modBlk p fun k => modSegs segs SegSt.hold (drainTile a t segs code k))

/-! ### PART_POST -/

/-- A part has this moment of its life still before it (R147): a feed that is over, or a drain that has begun, gives the turn to the next
instruction's part. -/
def awaits (u : PartMoment) (x : ArrPart) : Bool :=
  match u with
  | .fed _ => !partFed x
  | .drains => x.held.isNone
  | .posts => true

/-- The oldest instruction whose part `q` has the moment `u` before it: its place, itself and the part. -/
def findPart (u : PartMoment) (q : Nat) (ops : List ArrOp) : Option (Nat × ArrOp × ArrPart) :=
  ops.zipIdx.findSome? fun (o, i) => (o.parts.find? fun x => x.part == q && awaits u x).map fun x => (i, o, x)

/-- Put a part of the instruction at place `i` back. -/
def setPart (p i : Nat) (x : ArrPart) (s : State) : State :=
  s.modBlk p fun k =>
    { k with arr := k.arr.modify i fun o => { o with parts := o.parts.map fun y => if y.part = x.part then x else y } }

/-- Take a part out; the instruction retires with its last part (R156). -/
def dropPart (i q : Nat) (ops : List ArrOp) : List ArrOp :=
  (ops.modify i fun o => { o with parts := o.parts.filter fun y => y.part != q }).filter fun o => !o.parts.isEmpty

/-- The feed of a part goes on to granule `g1`, where it may. -/
def feedStep (p i g1 : Nat) (a : ArrSlot) (x : ArrPart) (e : HwErr) (s : State) : ArrPart × State :=
  if partFed x || !mayFeed (blkOf s p).arr i then (x, s)
  else
    let s := match e with
      | .spSingle off => record (blockRecord s p 1 0 0x213 0 (locator ((logOf s p).getD 0) (off % 0x600000))) s
      | .spDouble off => s.modBlk p fun k => { k with bad := insertNat (off % 0x600000 / 8) k.bad }
      | _ => s
    let (x, f) := feedPart p a x (min g1 (tileOf x.desc).kgran) e s
    let s := setPart p i x s
    (x, match f with | some f => partFaults p a x f s | none => s)

/-- The drain of a part that has been fed begins. -/
def drainStep (p i : Nat) (a : ArrSlot) (x : ArrPart) (e : HwErr) (s : State) : ArrPart × State :=
  if !partFed x || x.held.isSome then (x, s)
  else
    let (x, f, s) := drainPart p a x e s
    let s := setPart p i x s
    (x, match f with | some f => partFaults p a x f s | none => s)

/-- PART_POST (R147 to R149, R155, R156): part `part` of the oldest instruction that has not reached it goes on to a moment of its life: some granules
more are fed, its drain begins, or it posts, its segments becoming READY when no other writer holds them. `e` is what the array's own
checks and the scratchpad's code report on the way. -/
def execPartPost (b : Fin 256) (part : Fin 4) (upto : PartMoment) (e : HwErr) (s : State) : Out :=
  match physOf s b with
  | none => .next s
  | some p =>
    match findPart upto part (blkOf s p).arr with
    | none => .next s
    | some (i, o, x) =>
      let a := arrSlot o.word
      if !engineRuns s b then .next s
      else
        match upto with
        | .fed n => .next (feedStep p i (x.fed + n) a x e s).2
        | .drains =>
          let (x, s) := feedStep p i (tileOf x.desc).kgran a x e s
          .next (drainStep p i a x e s).2
        | .posts =>
          let (x, s) := feedStep p i (tileOf x.desc).kgran a x e s
          let (x, s) := drainStep p i a x e s
          match x.held with
          | some segs => .next (postCtr p a.post 1 (s.modBlk p fun k => { modSegs segs SegSt.drop k with arr := dropPart i part k.arr }))
          | none => .next s

end Sys2Proof.Machine
end

