-- ==== Sys2Proof/Machine/Cert.lean ====
section
/-! DEFINITION. ECDSA over P-256 (R499, R508, R512) and the X.509 certificates of the identity chain (R508, R512). -/

namespace Sys2Proof.Machine

open Sys2Proof

/-! ### ECDSA P-256 (FIPS 186-5) -/

/-- The field, the order of the base point, the curve's constant b, and the base point. -/
def p256 : Nat := 0xffffffff00000001000000000000000000000000ffffffffffffffffffffffff
def n256 : Nat := 0xffffffff00000000ffffffffffffffffbce6faada7179e84f3b9cac2fc632551
def b256 : Nat := 0x5ac635d8aa3a93e7b3ebbd55769886bc651d06b0cc53b0f63bce3c3e27d2604b
def gx256 : Nat := 0x6b17d1f2e12c4247f8bce6e563a440f277037d812deb33a0f4a13945d898c296
def gy256 : Nat := 0x4fe342e2fe1a7f9b8ee7eb4a7c0f9e162bce33576b315ececbb6406837bf51f5

/-- `x ^ e` modulo `m`, for an exponent below 2^256. -/
def modPow (m x e : Nat) : Nat :=
  (List.range 256).foldr (fun i acc => acc * acc % m * (if bit e i then x else 1) % m) 1

/-- A difference in the field. -/
def fsub (a b : Nat) : Nat := (a + (p256 - b % p256)) % p256

/-- A point as x/z², y/z³; z = 0 is the point at infinity. -/
structure EcPoint where
  x : Nat
  y : Nat
  z : Nat
  deriving DecidableEq, Repr

def EcPoint.zero : EcPoint := ⟨1, 1, 0⟩

def EcPoint.double (q : EcPoint) : EcPoint :=
  if q.z = 0 ∨ q.y = 0 then .zero
  else
    let yy := q.y * q.y % p256
    let s := 4 * q.x * yy % p256
    let zz := q.z * q.z % p256
    let m := 3 * (fsub q.x zz * (q.x + zz)) % p256
    let x := fsub (m * m) (2 * s)
    ⟨x, fsub (m * fsub s x) (8 * yy * yy), 2 * q.y * q.z % p256⟩

def EcPoint.add (a b : EcPoint) : EcPoint :=
  if a.z = 0 then b
  else if b.z = 0 then a
  else
    let za := a.z * a.z % p256
    let zb := b.z * b.z % p256
    let u := a.x * zb % p256
    let s := a.y * zb * b.z % p256
    let h := fsub (b.x * za) u
    let r := fsub (b.y * za * a.z) s
    if h = 0 then (if r = 0 then a.double else .zero)
    else
      let hh := h * h % p256
      let v := u * hh % p256
      let x := fsub (r * r) (h * hh + 2 * v)
      ⟨x, fsub (r * fsub v x) (s * h * hh), a.z * b.z * h % p256⟩

/-- A multiple of a point, for a factor below 2^256. -/
def EcPoint.times (k : Nat) (q : EcPoint) : EcPoint :=
  (List.range 256).foldr (fun i acc => let d := acc.double; if bit k i then d.add q else d) .zero

/-- A point of the curve, by its coordinates. -/
def onCurve (x y : Nat) : Bool :=
  decide (x < p256) && decide (y < p256) && decide (y * y % p256 = fsub (x * x * x + b256) (3 * x))

/-- A signature, r then s of 32 bytes each, is valid by a key, x then y of 32 bytes each, over a message. -/
def ecdsaValid (key msg sig : List Byte) : Bool :=
  let x := beNat (slice key 0 32)
  let y := beNat (slice key 32 32)
  let r := beNat (slice sig 0 32)
  let s := beNat (slice sig 32 32)
  if onCurve x y && decide (0 < r) && decide (r < n256) && decide (0 < s) && decide (s < n256) then
    let w := modPow n256 s (n256 - 2)
    let sum := (EcPoint.times (beNat (sha256 msg) * w % n256) ⟨gx256, gy256, 1⟩).add (EcPoint.times (r * w % n256) ⟨x, y, 1⟩)
    let zz := sum.z * sum.z % p256
    sum.z != 0 && (r * zz % p256 == sum.x || decide (r + n256 < p256) && (r + n256) * zz % p256 == sum.x)
  else false

/-! ### DER (X.690) -/

/-- One element of DER at the head of bytes: its tag, all its bytes, its contents, and what follows it. -/
structure Tlv where
  tag : Nat
  whole : List Byte
  body : List Byte
  rest : List Byte
  deriving DecidableEq, Repr

/-- The element at the head of bytes, where one stands there in full. Lengths are of the short form, or of one or two bytes. -/
def Tlv.read (bs : List Byte) : Option Tlv :=
  let l := field bs 1 1
  let (k, n) := if l = 0x81 then (3, field bs 2 1) else if l = 0x82 then (4, beNat (slice bs 2 2)) else (2, l)
  if bs.length < k + n ∨ 0x82 < l ∨ l = 0x80 then none
  else some ⟨field bs 0 1, bs.take (k + n), (bs.drop k).take n, bs.drop (k + n)⟩

/-- The elements that bytes hold, at most `fuel` of them. -/
def Tlv.all : Nat → List Byte → List Tlv
  | 0, _ => []
  | n + 1, bs => match Tlv.read bs with | some t => t :: Tlv.all n t.rest | none => []

/-- The elements within an element. -/
def Tlv.parts (t : Tlv) : List Tlv := Tlv.all 32 t.body

/-- An INTEGER as an octet string of 32 bytes. -/
def Tlv.octets (t : Tlv) : List Byte := beBytes 32 (beNat t.body)

/-- What the chain asks of a certificate: the bytes it signs, the signature over them, the key it certifies, and the subject's serialNumber. -/
structure Cert where
  signed : List Byte
  sig : List Byte
  key : List Byte
  serial : Option Nat
  deriving DecidableEq, Repr

/-- The digit that an ASCII character stands for, with uppercase letters. -/
def hexDigit (b : Byte) : Option Nat :=
  let n := b.toNat
  if 0x30 ≤ n ∧ n ≤ 0x39 then some (n - 0x30) else if 0x41 ≤ n ∧ n ≤ 0x46 then some (n - 55) else none

/-- The module serial number in 16 uppercase hex digits. -/
def hexSerial (bs : List Byte) : Option Nat :=
  if bs.length = 16 ∧ bs.all (fun b => (hexDigit b).isSome) then some (bs.foldl (fun n b => 16 * n + (hexDigit b).getD 0) 0) else none

/-- serialNumber (2.5.4.5) of a distinguished name. -/
def nameSerial (name : Tlv) : Option Nat :=
  (name.parts.flatMap Tlv.parts).findSome? fun a =>
    match a.parts with
    | [oid, v] => if oid.whole = [6, 3, 0x55, 4, 5] then hexSerial v.body else none
    | _ => none

/-- The algorithm identifiers of a P-256 key and of ECDSA with SHA-256. -/
def keyAlgorithm : List Byte :=
  [0x30, 0x13, 6, 7, 0x2A, 0x86, 0x48, 0xCE, 0x3D, 2, 1, 6, 8, 0x2A, 0x86, 0x48, 0xCE, 0x3D, 3, 1, 7]
def sigAlgorithm : List Byte := [0x30, 0x0A, 6, 8, 0x2A, 0x86, 0x48, 0xCE, 0x3D, 4, 3, 2]

/-- An X.509 v3 certificate of a P-256 key, signed by ECDSA with SHA-256. -/
def Cert.read (bs : List Byte) : Option Cert :=
  match Tlv.read bs with
  | some whole =>
    match whole.parts with
    | [tbs, alg, sig] =>
      match tbs.parts, (Tlv.read (sig.body.drop 1)).map Tlv.parts with
      | ver :: _number :: alg' :: _issuer :: _dates :: subject :: spki :: _, some [r, s] =>
        match spki.parts with
        | [kalg, kbits] =>
          if ver.whole = [0xA0, 3, 2, 1, 2] ∧ alg.whole = sigAlgorithm ∧ alg'.whole = sigAlgorithm ∧ kalg.whole = keyAlgorithm
              ∧ whole.rest = [] ∧ kbits.body.length = 66 ∧ kbits.body.take 2 = [0, 4] then
            some ⟨tbs.whole, r.octets ++ s.octets, kbits.body.drop 2, nameSerial subject⟩
          else none
        | _ => none
      | _, _ => none
    | _ => none
  | none => none

/-- A certificate verifies under a key. -/
def Cert.verifies (c : Cert) (key : List Byte) : Bool := ecdsaValid key c.signed c.sig

/-- The certificates of a CHAIN field: intermediate, then device, each led by its length. -/
def chainCerts (b : List Byte) : List Byte × List Byte :=
  let n := field b 0 2
  (slice b 2 n, slice b (4 + n) (field b (2 + n) 2))

/-- The device certificate of a CHAIN field whose two certificates verify, the first under the root's key (R512). -/
def deviceCert (root b : List Byte) : Option Cert :=
  match Cert.read (chainCerts b).1, Cert.read (chainCerts b).2 with
  | some ca, some dev => if ca.verifies root && dev.verifies ca.key then some dev else none
  | _, _ => none

end Sys2Proof.Machine
end

