-- ==== Sys2Proof/Machine/Rings.lean ====
section
/-! DEFINITION. Rings, doorbells, interrupts and the loss of the PCIe link (R389 to R393, R409 to R411). -/

namespace Sys2Proof.Machine

open Sys2Proof

/-! ### Writing what waits -/

/-- Write what has waited for ring `j` while there is room. -/
def flushRing (j : Nat) (s : State) : State := if canPost s then flushCpl j s.host.cplWait s else s

/-- LINK_RESTORED is the first event that waits. -/
def restorePending (s : State) : Bool := match s.host.evtWait with | e :: _ => e.code == 0x12 | [] => false

/-- Write what has waited for any completion ring. -/
def flushRings (s : State) : State := (List.range 64).foldl (fun s j => flushRing j s) s

/-- Once LINK_RESTORED is written, or no event ring can take it, what has waited is written, and then what the link's loss held back,
oldest first (R389). -/
def resume (s : State) : State :=
  if s.host.linkUp && s.host.restoring && !(restorePending s && s.host.evt.enable) then
    releaseHeld s.host.held (flushRings (s.modHost fun h => { h with restoring := false, held := [] }))
  else s

/-- Write waiting events, and go on with what waits behind LINK_RESTORED. -/
def flushEvents (s : State) : State := resume (flushEvt s)

/-! ### Doorbells (R392, R393, R409) -/

/-- The index of a doorbell write; bits [31:16] are reserved. -/
def doorbellIndex (value : Nat) : Nat := value % 65536

/-- A command ring's producer index. -/
def ringCmdPi (i value : Nat) (s : State) : State :=
  let r := cmdRing s i
  let pi := doorbellIndex value
  if !r.enable || r.stop then s
  else if pi < 2 ^ r.log2 then s.modHost fun h => { h with cmd := h.cmd.mod {} i fun r => { r with pi := pi } }
  else ringError 0 i (s.modHost fun h => { h with cmd := h.cmd.mod {} i fun r => { r with error := true, stop := true } })

/-- A completion ring's consumer index (log 24). -/
def ringCplCi (j value : Nat) (s : State) : State :=
  let r := cplRing s j
  if r.enable then flushRing j (setCplRing j { r with ci := doorbellIndex value % r.size } s) else s

/-- The event ring's consumer index. -/
def ringEvtCi (value : Nat) (s : State) : State :=
  let r := s.host.evt
  if r.enable then flushEvents (setEvtRing { r with ci := doorbellIndex value % r.size } s) else s

/-- Doorbells are reached while the link is up; the rings do not operate in BOOT. -/
def bellRings (s : State) : Bool := hostWrites s false

/-- A register of BAR2 (table *Doorbell pages*). -/
inductive Doorbell where
  | cmdPi (i : Nat)
  | cplCi (j : Nat)
  | evtCi
  deriving DecidableEq, Repr

/-- Where a doorbell lies in BAR2: 256 pages of 4 KiB (R387). -/
def Doorbell.offset : Doorbell → Nat
  | .cmdPi i => 4096 * i
  | .cplCi j => 4096 * j + 8
  | .evtCi => 4096 * 64

/-- The doorbell at an offset of BAR2; every other offset holds none. -/
def doorbellAt (off : Nat) : Option Doorbell :=
  if off / 4096 < 64 ∧ off % 4096 = 0 then some (.cmdPi (off / 4096))
  else if off / 4096 < 64 ∧ off % 4096 = 8 then some (.cplCi (off / 4096))
  else if off = 4096 * 64 then some .evtCi
  else none

/-- A read of BAR2: its doorbells are WO and read 0, as every other offset does (R9, R387). -/
def bar2Read (_ : State) (_off : Nat) : Nat := 0

/-- A doorbell takes an index. -/
def ringBell (d : Doorbell) (value : Nat) (s : State) : State :=
  match d with
  | .cmdPi i => ringCmdPi i value s
  | .cplCi j => ringCplCi j value s
  | .evtCi => ringEvtCi value s

/-- A write to BAR2: a doorbell takes it, every other offset ignores it (R387). -/
def bar2Write (off value : Nat) (s : State) : State :=
  match doorbellAt off with
  | some d => if bellRings s then ringBell d value s else s
  | none => s

/-- CMD_PI (R393). -/
def execCmdPi (ring : Fin 64) (value : W32) (s : State) : Out := .next (bar2Write (Doorbell.cmdPi ring).offset value.toNat s)

/-- CPL_CI (R392). -/
def execCplCi (ring : Fin 64) (value : W32) (s : State) : Out := .next (bar2Write (Doorbell.cplCi ring).offset value.toNat s)

/-- EVT_CI (R409). -/
def execEvtCi (value : W32) (s : State) : Out := .next (bar2Write Doorbell.evtCi.offset value.toNat s)

/-! ### Ring configuration (R390, R391) -/

/-- A command of ring `i` has been taken and has not completed. -/
def ringBusy (s : State) (i : Nat) : Bool := s.host.cmds.any fun c => c.ring == i

/-- `CMD_RING_STATUS_i.ACTIVE`. -/
def cmdActive (s : State) (i : Nat) : Bool := (cmdRing s i).enable || ringBusy s i

/-- A write of `CMD_RING_CFG_i`: LOG2 and CPL are ignored while ENABLE reads 1; ENABLE from 0 to 1 starts the ring at index 0, unless
LOG2 is out of range. A stopped ring stays stopped until ERROR has been cleared as well (R393). -/
def writeCmdCfg (i v : Nat) (s : State) : State :=
  let r := cmdRing s i
  let r := if r.enable then r else { r with log2 := bits v 19 16, cpl := bits v 5 0 }
  let r := { r with prio := bit v 30 }
  let put := fun (r : CmdRing) (s : State) => s.modHost fun h => { h with cmd := h.cmd.set {} i r }
  if !(bit v 31) then put { r with enable := false } s
  else if r.enable then put r s
  else if r.log2 < 4 ∨ 12 < r.log2 then ringError 0 i (put { r with error := true } s)
  else put { r with enable := true, ci := 0, pi := 0, stop := r.stop && r.error } s

/-- A write of an output ring's configuration: the ring after it, and whether ENABLE was set with LOG2 out of range. -/
def OutRing.configure (lo hi v : Nat) (r : OutRing) : OutRing × Bool :=
  let r := if r.enable then r else { r with log2 := bits v 20 16 }
  let r := { r with vector := bits v 14 8 }
  if !(bit v 31) then ({ r with enable := false }, false)
  else if r.enable then (r, false)
  else if r.log2 < lo ∨ hi < r.log2 then ({ r with error := true }, true)
  else ({ r with enable := true, seq := 0, ci := 0, unsig := 0 }, false)

/-- The write is a completion entry for ring `j`. -/
def Held.forRing (j : Nat) : Held → Bool
  | .cpl k _ => k == j
  | .evt _ => false
  | .station _ _ => false

/-- Completion ring `j` is disabled: what waits for it, and the completions of the commands in progress that are bound to it, are lost
(R391). -/
def loseCompletions (j : Nat) (s : State) : State :=
  s.modHost fun h =>
    { h with cplWait := h.cplWait.filter fun w => w.1 != j, held := h.held.filter fun w => !w.forRing j,
             cmds := h.cmds.map fun c => if c.cpl = j then { c with lost := true } else c }

/-- A command ring that reads ACTIVE is bound to completion ring `j`, or commands in progress are. -/
def ringInUse (s : State) (j : Nat) : Bool :=
  (List.range 64).any (fun i => (cmdRing s i).cpl == j && cmdActive s i) || s.host.cmds.any fun c => c.cpl == j

/-- A write of `CPL_RING_CFG_j`. Disabling a ring to which an ACTIVE command ring is bound loses that ring's completions, with
RING_ERROR (R391). -/
def writeCplCfg (j v : Nat) (s : State) : State :=
  let was := (cplRing s j).enable
  let (r, bad) := (cplRing s j).configure 4 16 v
  let s := setCplRing j r s
  if bad then ringError 1 j s
  else if was && !r.enable then if ringInUse s j then ringError 1 j (loseCompletions j s) else loseCompletions j s
  else flushRing j s

/-- A write of `EVT_RING_CFG`. When the ring starts afresh, the FM slots that its earlier entries named are free again (log 82). -/
def writeEvtCfg (v : Nat) (s : State) : State :=
  let was := s.host.evt.enable
  let (r, bad) := s.host.evt.configure 6 14 v
  let s := setEvtRing r s
  if bad then ringError 2 0 s
  else if r.enable && !was then flushEvents (s.modHost fun h => { h with fmSlot := h.fmSlot.keep fun _ q => q == 1 })
  else resume s

/-- A write of `FM_BUF_CFG` (R410): ENABLE with SLOTS 0 leaves the buffer disabled. Enabling starts at slot 0 again; a slot that an
event which `EVT_CI` has not passed names stays in use. -/
def writeFmCfg (v : Nat) (s : State) : State :=
  let on := bit v 31 && decide (v % 256 ≠ 0)
  s.modHost fun h =>
    { h with fmEnable := on, fmSlots := v % 256, fmCount := if on && !h.fmEnable then 0 else h.fmCount }

/-- CMD_RING_ENABLE (R390). -/
def execCmdRingEnable (ring : Fin 64) (value : W32) (s : State) : Out := .next (if hostWrites s false then writeCmdCfg ring value.toNat s else s)

/-- CMD_RING_DISABLE (R391). -/
def execCmdRingDisable (ring : Fin 64) (value : W32) (s : State) : Out := .next (if hostWrites s false then writeCmdCfg ring value.toNat s else s)

/-- CPL_RING_ENABLE (R390). -/
def execCplRingEnable (ring : Fin 64) (value : W32) (s : State) : Out := .next (if hostWrites s false then writeCplCfg ring value.toNat s else s)

/-- CPL_RING_DISABLE (R391). -/
def execCplRingDisable (ring : Fin 64) (value : W32) (s : State) : Out := .next (if hostWrites s false then writeCplCfg ring value.toNat s else s)

/-- EVT_RING_ENABLE (R390). -/
def execEvtRingEnable (value : W32) (s : State) : Out := .next (if hostWrites s false then writeEvtCfg value.toNat s else s)

/-- FM_BUF_ENABLE (R410). -/
def execFmBufEnable (value : W32) (s : State) : Out := .next (if hostWrites s false then writeFmCfg value.toNat s else s)

/-! ### The interrupt timer (R411) -/

/-- TIME_US has passed since the oldest unsignalled entry. -/
def OutRing.timeUp (r : OutRing) (now : Nat) : Bool :=
  r.enable && decide (r.irqTime ≠ 0) && decide (r.unsig ≠ 0) && decide (r.oldest + 50 * r.irqTime ≤ now)

/-- INTERRUPT_TIMER (R411): of a completion ring, or of the event ring. -/
def execInterruptTimer (ring : Option (Fin 64)) (s : State) : Out :=
  match ring with
  | some j =>
    let r := cplRing s j
    .next (if s.host.linkUp && r.timeUp s.aon then raiseVector r.vector (setCplRing j { r with unsig := 0 } s) else s)
  | none =>
    let r := s.host.evt
    .next (if s.host.linkUp && r.timeUp s.aon then raiseVector r.vector (setEvtRing { r with unsig := 0 } s) else s)

/-! ### Loss and return of the link (R389) -/

/-- The link goes down. A surprise link-down is AER status bit 5 (PRESUMED, log 115). -/
def linkLost (s : State) : State :=
  if s.host.linkUp || s.host.d3hot then s.modHost fun h => { h with linkUp := false, d3hot := false, downSince := s.aon, aer := h.aer ||| 0x20 } else s

/-- PCIE_LINK_DOWN (R389). -/
def execPcieLinkDown (s : State) : Out := if s.dev == .off then .next s else .next (linkLost s)

/-- The event LINK_RESTORED, with the µs that the link was down (R539). -/
def linkRestored (s : State) : Event := mkEvent 0x12 0 (leBytes 8 (min (2 ^ 64 - 1) ((s.aon - s.host.downSince) / 50))) s

/-- The host moves the function to D3hot: it takes no writes and writes nothing, and holds what it would write (R386; log 115). -/
def enterD3 (s : State) : State := s.modHost fun h => { h with linkUp := false, d3hot := true }

/-- The function is in D0 over a trained link: what it has held is written, behind LINK_RESTORED where that waits. -/
def enterD0 (s : State) : State := flushEvents (s.modHost fun h => { h with linkUp := true, d3hot := false, restoring := true })

/-- PCIE_LINK_UP (R386, R389): the link has trained at a width and speed, with the function in D0 or D3hot; over a trained link, the host moves the
function between the two (log 115). The first training after a package reset restores nothing. -/
def execPcieLinkUp (lanes : Fin 4) (speed : Fin 7) (d3hot : Bool) (s : State) : Out :=
  if s.dev == .off || s.pins.perst then .next s
  else if s.host.linkUp then .next (if d3hot then enterD3 s else s)
  else if s.host.d3hot then .next (if d3hot then s else enterD0 s)
  else
    let e := linkRestored s
    let first := !s.host.trained
    let s := s.modHost fun h => { h with trained := true, rate := { width := 2 ^ lanes.val, speed := speed.val + 1 } }
    let s := if first then s else s.modHost fun h => { h with restoring := true, evtWait := e :: h.evtWait }
    .next (if d3hot then enterD3 s else if first then s.modHost fun h => { h with linkUp := true } else enterD0 s)

end Sys2Proof.Machine
end

