-- ==== Sys2Proof/Machine/Dma.lean ====
section
/-! DEFINITION. The station digest (R65, R66) and the local DMA of a block (R169 to R171, R541, R544). -/

namespace Sys2Proof.Machine

open Sys2Proof

/-! ### Digest terms -/

/-- The 81-byte digest message (table *Digest message*). -/
def digestMsg (type addr mask : Nat) (data : List Byte) : List Byte :=
  leBytes 1 type ++ leBytes 8 addr ++ leBytes 8 mask
    ++ (List.range 64).map fun j => if mask.testBit j then data.getD j 0 else 0

/-- The job's digest key applied to a message (R65, R67). -/
def digestHash (s : State) (msg : List Byte) : Nat :=
  (sipHash (BitVec.ofNat 64 (s.job.key % 2 ^ 64)) (BitVec.ofNat 64 (s.job.key / 2 ^ 64)) msg).toNat

/-- Count a term of the leg in region `r` (R65, R66). No command takes a term of type 0x03: the manual names none that applies an atomic to
local memory by the leg's own engines without a packet (DESIGN CHOICE, log 105). -/
def digestTerm (r type addr mask : Nat) (data : List Byte) (s : State) : State :=
  s.modJob fun j => { j with liveDigest := j.liveDigest.mod 0 r fun d => (d + digestHash s (digestMsg type addr mask data)) % 2 ^ 64 }

/-- Terms of type 0x01 for a run of bytes written to HBM by the leg's own engines, one per line. -/
def digestLines (r off : Nat) (bs : List Byte) (s : State) : State :=
  (lineParts off bs).foldl (fun s (o, a, b) => digestTerm r 1 (hbmAddr r o) (maskOf a b.length) (partData a b) s) s

/-! ### Local descriptors -/

/-- The DMA engine stops with a fault (R190). -/
def dmaFault (p code desc off : Nat) (s : State) : SlotRes := .stopped (haltBlock p code desc off (s.modBlk p (stopEngine 3)))

/-- Bytes that a descriptor moves (R170): the planned length, or the smaller of it and the length word. -/
def dmaLength (k : Block) (d : DmaDesc) : Nat := if d.indirect then Nat.min (leNat (k.sp.readN d.lenAddr 4)) d.len else d.len

/-- Segments that a descriptor writes: all of LENGTH (R170, R171). -/
def dmaDst (d : DmaDesc) : List Nat :=
  match d.kind with
  | 1 => segsOf d.sp d.len
  | 3 => segsOf d.hbm d.len
  | _ => []

/-- The record of a block DMA cut off by a lost region (R463). -/
def cutOffRecord (p : Nat) (s : State) : State := record (blockRecord s p 2 0 0x216 0x43 0) s

/-- Take a local descriptor (R170, R171): the length word, then the hold on the destination. Its bytes move in the steps that DMA_POST names. -/
def takeDma (p desc post : Nat) (raw : List Byte) (s : State) : SlotRes :=
  let d := dmaDesc raw
  let k := blkOf s p
  match if d.indirect then firstFault (readFault k) (segsOf d.lenAddr 4) else none with
  | some (c, g) => dmaFault p c desc (4096 * g) s
  | none =>
    if d.indirect && leNat (k.sp.readN d.lenAddr 4) % 16 != 0 then dmaFault p 0x20E desc 0 s
    else
      match firstFault (writeFault k) (dmaDst d) with
      | some (c, g) => dmaFault p c desc (4096 * g) s
      | none =>
        let id := s.blks.nextId
        .issued ((s.modBlks fun x => { x with nextId := id + 1 }).modBlk p fun k =>
          { modSegs (dmaDst d) SegSt.hold k with
            dma := k.dma ++ [{ id := id, kind := d.kind, desc := desc, post := post, segs := dmaDst d, raw := raw, len := dmaLength k d }] })

/-- Bytes that the next `n` lines of a descriptor take. A step ends where a line of HBM ends, so that a line that is written is written once. -/
def dmaSpan (o : DmaOp) (n : Nat) : Nat := min (64 * n - ((dmaDesc o.raw).hbm + o.moved) % 64) (o.len - o.moved)

/-- Change the descriptor in progress with number `id`. -/
def modDma (p id : Nat) (f : DmaOp → DmaOp) (s : State) : State :=
  s.modBlk p fun k => { k with dma := k.dma.map fun o => if o.id = id then f o else o }

/-- Move `m` bytes of a descriptor (R169). What crosses a lost region reads 0xFF and writes nothing, and one record says so (R463). -/
def dmaBytes (b p m : Nat) (o : DmaOp) (s : State) : State :=
  let d := dmaDesc o.raw
  let sp := d.sp + o.moved
  let hbm := d.hbm + o.moved
  let r := hbm / 2 ^ 38
  let off := hbm % 2 ^ 38
  let whole := roundTrip s (b / 64) r
  let told := fun (s : State) => if whole || o.cut then s else cutOffRecord p (modDma p o.id (fun o => { o with cut := true }) s)
  match d.kind with
  | 1 =>
    if whole then
      let (bs, _, s) := readBytes r off m (some (p % 68, b % 64)) s
      s.modBlk p (Block.writeSp sp bs)
    else told (s.modBlk p (Block.writeSp sp (List.replicate m 0xFF)))
  | 2 =>
    let bs := (blkOf s p).sp.readN sp m
    let s := digestLines r off bs s
    told (if pathUp s (b / 64) r then writeBytes r off bs s else s)
  | _ => s.modBlk p fun k => k.writeSp hbm (k.sp.readN sp m)

/-- A local descriptor moves up to `n` lines more: each read of a source checks its segment as it is made (R171, R181). -/
def dmaMove (b p n : Nat) (o : DmaOp) (s : State) : SlotRes :=
  let m := dmaSpan o n
  let src := if o.kind = 1 then [] else segsOf ((dmaDesc o.raw).sp + o.moved) m
  match firstFault (readFault (blkOf s p)) src with
  | some (c, g) => dmaFault p c o.desc (4096 * g) s
  | none => .issued (modDma p o.id (fun o => { o with moved := o.moved + m }) (dmaBytes b p m o s))

/-- A descriptor in progress lets its segments go and posts (R169, R171). -/
def finishDma (p id : Nat) (s : State) : State :=
  match (blkOf s p).dma.find? fun o => o.id == id with
  | none => s
  | some o =>
    postCtr p o.post 1 (s.modBlk p fun k => { modSegs o.segs SegSt.drop k with dma := k.dma.filter fun x => x.id != id })

/-- What DMA_POST does with the local descriptor `o`. -/
def dmaStep (b p : Nat) (upto : EngineMoment) (o : DmaOp) (s : State) : State :=
  match upto with
  | .moves n => match dmaMove b p n o s with | .issued s => s | .stopped s => s
  | .posts => match dmaMove b p (o.len + 1) o s with | .issued s => finishDma p o.id s | .stopped s => s

/-- DMA_POST (R169): a local descriptor in progress goes on to a moment of its life. `e` is what its reads meet in the memories. -/
def execDmaPost (b : Fin 256) (id : Nat) (upto : EngineMoment) (e : HwErr) (s : State) : Out :=
  match physOf s b with
  | none => .next s
  | some p =>
    match (blkOf s p).dma.find? fun o => o.id == id with
    | some o =>
      if decide (o.kind ≤ 3) && engineRuns s b then
        meeting (errsOf e) (fun s =>
          match meetSp p e (stopEngine 3) s with
          | .stopped s => .next s
          | .issued s => .next (dmaStep b p upto o s)) s
      else .next s
    | none => .next s

end Sys2Proof.Machine
end

