-- ==== Sys2Proof/Machine/Windows.lean ====
section
/-! DEFINITION. Windows, generations, pegs and the remote read cache (R187 to R189, R224 to R227, R318 to R325, R342 to R344,
R353). -/

namespace Sys2Proof.Machine

open Sys2Proof

def State.modRmt (f : Remote → Remote) (s : State) : State := { s with rmt := f s.rmt }

/-- Count an event of kind `k` (`RMT_COUNT_k`). -/
def rmtCount (k : Nat) (s : State) : State := s.modRmt fun r => { r with count := r.count.mod 0 k (· + 1) }

/-! ### Fabric addresses (R318) -/

def addrDevice (a : Nat) : Nat := bits a 63 51

def addrWindow (a : Nat) : Nat := bits a 50 41

def addrOffset (a : Nat) : Nat := bits a 37 0

/-! ### The remote read cache (R224 to R227) -/

/-- Key of the set of a line in a region's cache. -/
def cacheKey (r line : Nat) : Nat := 16384 * r + Config.cacheSet line % 16384

/-- The stop whose slice holds a line: a region's 16,384 sets lie in 64 slices, 256 to a stop (R22, R224). -/
def cacheStop (line : Nat) : Nat := Config.cacheSet line % 16384 / 256

/-- The cached copy of a line, by the address of its first byte. -/
def cacheFind (s : State) (r line : Nat) : Option (List Byte) :=
  ((s.rmt.cache.get [] (cacheKey r line)).find? fun e => e.1 == line).map fun e => e.2

/-- Fill a line. A full set gives up one of its ways, which is not the one used last (R225; log 10). -/
def cacheFill (r line : Nat) (data : List Byte) (s : State) : State :=
  s.modRmt fun m =>
    { m with cache := m.cache.mod [] (cacheKey r line) fun ws =>
        let ws := ws.filter fun e => e.1 != line
        let ws := if ws.length < 16 then ws else ws.eraseIdx (1 + Config.cacheVictim (ws.map fun e => e.1) % (ws.length - 1))
        (line, data) :: ws }

/-- A line leaves one region's cache. -/
def cacheLose (r line : Nat) (s : State) : State :=
  s.modRmt fun m => { m with cache := m.cache.mod [] (cacheKey r line) fun ws => ws.filter fun e => e.1 != line }

/-- What the code of a cached line reports to the step in hand: a double-bit error, or a single-bit one. -/
def cacheMet (s : State) (line : Nat) : Option Bool :=
  s.hbm.meet.findSome? fun x => match x with
    | .cache l double => if l.toNat / 64 = line / 64 then some double else none
    | _ => none

/-- Look a line up (R225, R228). A line that is found is the one used last; a single-bit error is corrected and recorded, and a
double-bit one makes the line invalid. -/
def cacheRead (r line : Nat) (s : State) : Option (List Byte) × State :=
  match cacheFind s r line with
  | none => (none, s)
  | some b =>
    match cacheMet s line with
    | some true => (none, cacheLose r line s)
    | met =>
      let s := cacheFill r line b s
      (some b, if met.isSome then record { level := 2, cls := 1, code := 0x309, region := some r, address := line } s else s)

/-- Lines of every region's cache that touch a range leave it (R226). -/
def cacheDrop (a n : Nat) (s : State) : State :=
  s.modRmt fun m =>
    let kept := m.cache.map fun (k, ws) => (k, ws.filter fun e => !(decide (a < e.1 + 64) && decide (e.1 < a + n)))
    { m with cache := kept.filter (fun e => !e.2.isEmpty) }

/-- The whole cache of every region, or of one, is cleared. -/
def cacheClear (s : State) : State := s.modRmt fun m => { m with cache := [] }

def cacheClearRegion (r : Nat) (s : State) : State := s.modRmt fun m => { m with cache := m.cache.keep fun k _ => decide (k / 16384 ≠ r) }

/-! ### Windows (R322, R323) -/

def winOf (s : State) (w : Nat) : Window := s.rmt.win.get {} w

def State.modWin (w : Nat) (f : Window → Window) (s : State) : State := s.modRmt fun m => { m with win := m.win.mod {} w f }

/-- Region that a window's memory lies in. -/
def winRegion (e : WinEntry) : Nat := if e.kind = 1 then e.base / 2 ^ 38 else e.block / 64

def pegOf (s : State) (p : Nat) : Peg := s.rmt.peg.get {} p

def State.modPeg (p : Nat) (f : Peg → Peg) (s : State) : State := s.modRmt fun m => { m with peg := m.peg.mod {} p f }

/-- Outstanding pegs of a window, ascending. -/
def pegsOf (s : State) (w : Nat) : List Nat := (s.rmt.peg.filter fun (_, p) => p.out && p.window == w).map fun e => e.1

/-- The reply packet to the request whose fields are given. -/
def replyPacket (src tag gen seq ch type : Nat) (payload : List Byte) (s : State) : Packet :=
  { type := type, base := 2, dst := src, jobTag := s.job.tag, tag := tag, gen := gen, seq := seq, ch := ch, payload := payload }

/-- Answer the request whose fields are given with a reply packet; a shadow sends none (R490). -/
def sendReply (r src tag gen seq ch type : Nat) (payload : List Byte) (s : State) : State :=
  if s.mem.shadow.isSome then s else originate r (replyPacket src tag gen seq ch type payload s) s

/-- ACK of a claim. -/
def answerClaim (c : Claim) (o : Nat) (s : State) : State := sendReply 0 c.src c.tag c.gen c.seq c.ch 0x31 (leBytes 8 o) s

/-- Segments of a peg's space. -/
def pegSegs (p : Peg) : List Nat := segsOf p.sp p.bytes

/-- The window's close ends a peg (R189): no post, and a record names it unless the job's end does it. -/
def endPeg (told : Bool) (n : Nat) (s : State) : State :=
  let p := pegOf s n
  let s := s.modBlk p.block (modSegs (pegSegs p) SegSt.pegEnded)
  let s := s.modPeg n fun p => { p with out := false, grant := none, landed := 0, total := none, pieces := [] }
  if told then record (blockRecord s p.block 2 0 0x217 n 0) s else s

/-- Parked claims of a window, ascending by peg, receive WINDOW_CLOSED (R353). -/
def refuseClaims (w : Nat) (s : State) : State :=
  (s.rmt.peg.filter fun (_, p) => match p.claim with | some c => c.window == w | none => false).foldl
    (fun s (n, p) => match p.claim with
      | some c => answerClaim c 1 (s.modPeg n fun p => { p with claim := none })
      | none => s) s

/-- A window becomes CLOSED: its generation rises, what is left of its pegs ends, and an entry that waited comes into force. -/
def shutWindow (w : Nat) (s : State) : State :=
  let s := (pegsOf s w).foldl (fun s n => endPeg true n s) s
  let s := refuseClaims w s
  s.modWin w fun x =>
    match x.next with
    | some e => { st := 1, gen := (x.gen + 1) % 4096, entry := e }
    | none => { st := 0, gen := (x.gen + 1) % 4096 }

/-- A granted peg of the window is still landing. -/
def windowBusy (s : State) (w : Nat) : Bool := (pegsOf s w).any fun n => (pegOf s n).grant.isSome

/-- Close an OPEN window at a station (R323, R353). -/
def closeWindow (w : Nat) (s : State) : State :=
  if (winOf s w).st ≠ 1 then s
  else if (winOf s w).entry.kind = 2 && windowBusy s w then
    let s := ((pegsOf s w).filter fun n => (pegOf s n).grant.isNone).foldl (fun s n => endPeg true n s) s
    s.modWin w fun x => { x with st := 2, closeAt := s.aon + 50 * s.rmt.timers.drain }
  else shutWindow w s

/-- A CLOSING window whose last granted peg has completed becomes CLOSED (R353). -/
def settleWindow (w : Nat) (s : State) : State := if (winOf s w).st = 2 && !windowBusy s w then shutWindow w s else s

/-- One entry of a map that comes into force (R323): NONE or a changed entry closes the window, and a new one opens it once it is
CLOSED. -/
def applyEntry (w : Nat) (e : WinEntry) (s : State) : State :=
  let x := winOf s w
  let same := x.entry.kind == e.kind && x.entry.base == e.base && x.entry.size == e.size && x.entry.block == e.block
  if e.kind = 0 then (closeWindow w s).modWin w fun x => { x with next := none }
  else if x.st = 1 && same then s.modWin w fun x => { x with entry := e }
  else
    let s := closeWindow w s
    if (winOf s w).st = 0 then s.modWin w fun x => { x with st := 1, entry := e } else s.modWin w fun x => { x with next := some e }

/-- Every window becomes CLOSED with generation 0 (R322). The close ends their pegs, each with its record unless the job's end does it (R189,
R401). -/
def resetWindows (told : Bool) (s : State) : State :=
  let s := ((s.rmt.peg.filter fun (_, p) => p.out).map fun e => e.1).foldl (fun s n => endPeg told n s) s
  s.modRmt fun m => { m with win := [] }

/-- WINDOW_DRAIN_EXPIRE (R353). -/
def execWindowDrainExpire (w : Fin 1024) (s : State) : Out :=
  if (winOf s w).st = 2 && decide ((winOf s w).closeAt ≤ s.aon) then .next (shutWindow w s) else .next s

/-! ### Reading a window map (R319) -/

/-- Window entry `i` of a map that starts with a 16-byte header. -/
def mapEntry (m : List Byte) (i : Nat) : Nat × WinEntry :=
  let a := 16 + 32 * i
  let subs := 16 + 32 * field m 0 2
  (field m a 2,
    { kind := field m (a + 2) 1, flags := field m (a + 3) 1, block := field m (a + 4) 1, base := field m (a + 8) 8, size := field m (a + 16) 8,
      subs := (List.range (field m (a + 26) 1)).map fun k => field m (subs + 2 * (field m (a + 24) 2 + k)) 2 })

def mapEntries (m : List Byte) : List (Nat × WinEntry) := (List.range (field m 0 2)).map (mapEntry m)

/-- Rules of the table *Window entry*; `blockOk` says which logical blocks a SCRATCH entry may name. -/
def entryOk (blockOk : Nat → Bool) (m : List Byte) (i : Nat) : Bool :=
  let a := 16 + 32 * i
  let (w, e) := mapEntry m i
  let first := field m (a + 24) 2
  let n := field m (a + 26) 1
  decide (w < 1024) && decide (field m (a + 5) 3 = 0) && decide (leNat (slice m (a + 27) 5) = 0) &&
    match e.kind with
    | 0 => e.flags == 0 && e.block == 0 && e.base == 0 && e.size == 0 && first == 0 && n == 0
    | 1 => decide (e.flags < 8) && e.block == 0 && decide (e.base < 2 ^ 40) && e.base % 4096 == 0 && e.size % 4096 == 0
        && decide (n ≤ 64) && decide (first + n ≤ field m 2 2)
    | 2 => decide (e.flags < 8) && blockOk e.block && decide (e.base < 2 ^ 23) && e.base % 4096 == 0 && e.size % 4096 == 0
        && decide (e.base + e.size ≤ 0x600000) && decide (n ≤ 64) && decide (first + n ≤ field m 2 2)
    | _ => false

/-- Entries and subscribers that R319 accepts: windows in the range `lo` to `hi − 1`, none twice. -/
def mapOk (blockOk : Nat → Bool) (lo hi : Nat) (m : List Byte) : Bool :=
  let n := field m 0 2
  let ws := (mapEntries m).map fun e => e.1
  decide (field m 2 2 ≤ 4096) && decide (m.length = 16 + 32 * n + 2 * field m 2 2) && decide (field m 12 4 = 0)
    && (List.range n).all (entryOk blockOk m) && ws.all (fun w => decide (lo ≤ w) && decide (w < hi)) && decide ws.Nodup
    && (List.range (field m 2 2)).all fun k => decide (field m (16 + 32 * n + 2 * k) 2 < 8192)

/-- Timers of a traverse's window map header, within their ranges. -/
def timersOk (m : List Byte) : Bool :=
  decide (20 ≤ field m 4 2) && decide (field m 4 2 ≤ 10000) && decide (field m 6 1 ≤ 7) && decide (field m 7 1 = 0)
    && decide (10 ≤ field m 8 2) && decide (field m 8 2 ≤ 10000) && decide (100 ≤ field m 10 2) && decide (field m 10 2 ≤ 65000)

def mapTimers (m : List Byte) : Timers := { e2e := field m 4 2, retries := field m 6 1, dead := field m 8 2, drain := field m 10 2 }

/-- A leg's window map comes into force (R320, R323): its timers, by which the windows that it closes drain; windows 0 to 959 that it omits close. -/
def applyMap (m : List Byte) (s : State) : State :=
  let es := mapEntries m
  let gone := ((s.rmt.win.filter fun (w, _) => decide (w < 960)).map fun e => e.1).filter fun w => !(es.any fun e => e.1 == w)
  let s := gone.foldl (fun s w => applyEntry w {} s) (s.modRmt fun r => { r with timers := mapTimers m })
  es.foldl (fun s (w, e) => applyEntry w e s) s

/-! ### LEND and the landing of a peg (R187 to R189, R343) -/

/-- Grant a peg to the device that claims it, or send that device's grant again (R343). A claim that another device has parked stays. -/
def grantPeg (n : Nat) (c : Claim) (s : State) : State :=
  let p := pegOf s n
  let s := s.modPeg n fun p => { p with grant := some c.src, tag := c.tag, claim := p.claim.filter fun x => x.src != c.src }
  let payload := leBytes 2 n ++ leBytes 2 p.window ++ leBytes 2 p.gen ++ zeros 2 ++ leBytes 4 (p.sp - (winOf s p.window).entry.base)
    ++ leBytes 4 p.bytes
  sendReply (p.block / 68) c.src c.tag c.gen c.seq c.ch 0x33 payload s

/-- A LEND descriptor that R187 accepts. -/
def lendOk (d : List Byte) : Bool :=
  let sp := field d 8 4
  let n := field d 12 4
  decide (field d 0 1 = 4) && decide (field d 1 1 < 64) && decide (field d 2 2 < 16384) && decide (field d 4 2 < 1024)
    && decide (field d 6 2 = 0) && decide (leNat (slice d 16 48) = 0) && sp % 4096 == 0 && n % 64 == 0 && decide (64 ≤ n)
    && decide (n ≤ 6291456) && inSp (sp, n)

/-- The window that a LEND names is an OPEN SCRATCH window of block `b` that covers the space (R187). -/
def lendWindow (s : State) (b w sp n : Nat) : Bool :=
  let x := winOf s w
  x.st == 1 && x.entry.kind == 2 && x.entry.block == b && decide (x.entry.base ≤ sp) && decide (sp + n ≤ x.entry.base + x.entry.size)

/-- LEND (R187, R188): a claim that is parked for the peg in this window is granted at once. The checks are made in the order descriptor,
window, peg, segments (DESIGN CHOICE, log 112). -/
def doLend (b p w : Nat) (s : State) : SlotRes :=
  let i := bits w 56 49
  match readDesc (blkOf s p) 2 i with
  | .error (c, a) => .stopped (haltBlock p c i a s)
  | .ok d =>
    let n := field d 2 2
    let win := field d 4 2
    let sp := field d 8 4
    let len := field d 12 4
    if !lendOk d then .stopped (haltBlock p 0x21A i 0 s)
    else if !lendWindow s b win sp len then .stopped (haltBlock p 0x212 i sp s)
    else if (pegOf s n).out then .stopped (haltBlock p 0x20D i sp s)
    else
      match (segsOf sp len).find? fun g => (segOf (blkOf s p) g).st != .owned with
      | some g => .stopped (haltBlock p 0x208 i (4096 * g) s)
      | none =>
        let gen := (winOf s win).gen
        let s := s.modBlk p (modSegs (segsOf sp len) fun g => { g with st := .lent })
        let s := s.modPeg n fun q =>
          { q with out := true, window := win, gen := gen, block := p, sp := sp, bytes := len, ctr := field d 1 1, grant := none, landed := 0,
                   total := none, pieces := [] }
        match (pegOf s n).claim with
        | some c => .issued (if c.window = win && c.gen == gen then grantPeg n c s else s)
        | none => .issued s

/-- A peg's landing completes (R189): READY, the landing counter, and the record of who made it. -/
def completePeg (n : Nat) (col : Bool) (s : State) : State :=
  let p := pegOf s n
  let s := s.modBlk p.block (modSegs (pegSegs p) SegSt.landed)
  let s := postCtr p.block p.ctr 1 s
  let s := s.modPeg n fun q =>
    { q with out := false, grant := none, done := some (p.grant.getD 0, p.tag, p.gen), doneCol := col, landed := 0, total := none, pieces := [] }
  settleWindow p.window s

end Sys2Proof.Machine
end

