-- ==== Sys2Proof/Machine/Remote.lean ====
section
/-! DEFINITION. The source side of remote operations: descriptors, tags, sequence numbers, sends and final outcomes (R326 to R338,
R342, R344 to R347, R349, R351, R355). -/

namespace Sys2Proof.Machine

open Sys2Proof

/-- The management core's place among the issuers of remote operations. -/
def mgmtCore : Nat := 272

/-! ### The tracker (R332, R333) -/

def reqOf (s : State) (tag : Nat) : Option Req := s.rmt.track.get none tag

def State.modReq (tag : Nat) (f : Req → Req) (s : State) : State :=
  s.modRmt fun m => { m with track := m.track.mod none tag fun q => q.map f }

/-- The lowest free tag of a region. -/
def freeTag (s : State) (r : Nat) : Option Nat :=
  ((List.range (min 32768 (s.rmt.track.length + s.rmt.quar.length + 1))).map (32768 * r + ·)).find? fun t =>
    (reqOf s t).isNone && s.rmt.quar.get 0 t == 0

/-- H of R349 in AON cycles. -/
def holdTime (t : Timers) : Nat := 50 * max 4000 ((t.retries + 1) * t.e2e + 1000)

/-! ### Operations -/

def opOf (s : State) (id : Nat) : Option RemOp := s.rmt.ops.get none id

def State.modOp (id : Nat) (f : RemOp → RemOp) (s : State) : State :=
  s.modRmt fun m => { m with ops := m.ops.mod none id fun o => o.map f }

/-- A packet's final outcome enters its operation (R329). A load's packet that is not OK leaves no byte of its piece, whichever way the
byte was found. -/
def RemOp.take (o : RemOp) (p : Packet) (idx outcome : Nat) (data : List (Nat × List Byte)) : RemOp :=
  if outcome = 0 then { o with left := o.left - 1, data := o.data ++ data }
  else
    let lost := fun (a : Nat) => p.type == 0x10 && decide (p.addr ≤ o.remote + a) && decide (o.remote + a < p.addr + bits (field p.payload 0 8) 12 0)
    { o with left := o.left - 1, bad := o.bad + 1, data := o.data.filter fun e => !lost e.1,
             worst := match o.worst with | some (i, x) => if idx < i then some (idx, outcome) else some (i, x) | none => some (idx, outcome) }

/-- Key of a channel to a destination (R335). -/
def chanKey (dst ch : Nat) : Nat := 256 * dst + ch

/-- Key of a peg of a window of a device, in one generation of the window. -/
def pegKey (window dst peg gen : Nat) : Nat := ((8192 * window + dst) * 16384 + peg) * 4096 + gen

/-- Window, device, peg and generation of a key. -/
def keyWindow (key : Nat) : Nat := key / 2 ^ 39
def keyDevice (key : Nat) : Nat := key / 2 ^ 26 % 8192
def keyPeg (key : Nat) : Nat := key / 4096 % 16384
def keyGen (key : Nat) : Nat := key % 4096

/-! ### Final outcomes -/

/-- A request reaches a final outcome: its tag is free, an atomic's after its quarantine, and its operation takes the outcome. -/
def finishReq (tag outcome : Nat) (data : List (Nat × List Byte)) (s : State) : State :=
  match reqOf s tag with
  | none => s
  | some q =>
    let s := s.modRmt fun m =>
      { m with track := m.track.set none tag none,
               quar := if q.pkt.type = 0x13 then m.quar.set 0 tag (s.aon + holdTime m.timers + 1) else m.quar }
    s.modOp q.op fun o => o.take q.pkt q.idx outcome data

/-- The device's own target region of a request, or its path to it or back, is lost (R463). -/
def pathLost (s : State) (r : Nat) (p : Packet) : Bool :=
  s.fab.number == some p.dst && p.type != 0x16 && p.type != 0x17 &&
    (let e := (winOf s (addrWindow p.addr)).entry
     e.kind != 0 && !roundTrip s r (winRegion e))

/-! ### Sending -/

/-- Terms of type 0x02 for what a packet carries (R65). -/
def payloadTerms (r : Nat) (p : Packet) (s : State) : State :=
  let term := fun (a : Nat) (bs : List Byte) (s : State) =>
    (lineParts a bs).foldl (fun s (o, x, b) => digestTerm r 2 o (maskOf x b.length) (partData x b) s) s
  match p.type with
  | 0x11 => term p.addr p.payload s
  | 0x12 => term p.addr p.payload s
  | 0x13 =>
    let w := if bit (field p.payload 0 1) 4 then 8 else 4
    let s := term p.addr (slice p.payload 8 w) s
    if field p.payload 0 1 % 16 = 7 then term p.addr (slice p.payload 16 w) s else s
  | 0x40 => term p.addr p.payload s
  | _ => s

/-- Bytes that a packet writes at its address, which leave the caches first (R226). -/
def writtenBytes (p : Packet) : Nat :=
  match p.type with
  | 0x11 => p.payload.length
  | 0x12 => p.payload.length
  | 0x13 => 8
  | _ => 0

/-- Send or resend a held request; to a fenced device nothing is sent (R477). -/
def sendReq (tag : Nat) (s : State) : State :=
  match reqOf s tag with
  | none => s
  | some q =>
    let s := s.modReq tag fun q => { q with wait := .reply, sentAt := s.aon }
    if isFenced s q.pkt.dst then s else originate (tag / 32768) q.pkt s

/-- Bytes count under a held peg as they are first sent (R344). -/
def countUnderPeg (key : Nat) (p : Packet) (s : State) : State :=
  let n := match p.type with
    | 0x11 => p.payload.length
    | 0x12 => p.payload.length
    | 0x13 => if bit (field p.payload 0 1) 4 then 8 else 4
    | _ => 0
  if key = 0 then s
  else s.modRmt fun m => { m with grants := m.grants.mod none (key - 1) fun g => g.map fun g => { g with sent := g.sent + n } }

/-- Issue one numbered packet under a tag, for the first time. -/
def issueReq (o : RemOp) (p : Plan) (tag : Nat) (s : State) : State :=
  let pkt := { p.pkt with tag := tag }
  let s := s.modRmt fun m =>
    { m with track := m.track.set none tag (some { pkt := pkt, op := o.id, idx := p.idx, serial := p.serial, firstAt := s.aon, sentAt := s.aon }) }
  if s.rmt.full.contains (chanKey pkt.dst pkt.ch) && pkt.type ≠ 0x14 && pkt.type ≠ 0x15 then finishReq tag 9 [] s
  else if pathLost s o.region pkt then finishReq tag 0x43 [] s
  else
    let s := if o.block = mgmtCore then s else payloadTerms o.region pkt s
    let s := if writtenBytes pkt = 0 then s else cacheDrop pkt.addr (writtenBytes pkt) s
    sendReq tag (countUnderPeg o.peg pkt s)

/-- Packets of an operation take tags while there are any. -/
def startTodo (id : Nat) : Nat → State → State
  | 0, s => s
  | n + 1, s =>
    match opOf s id with
    | none => s
    | some o =>
      match o.hold, o.todo with
      | .none, p :: ps =>
        match freeTag s o.region with
        | some tag => startTodo id n (issueReq o p tag (s.modOp id fun o => { o with todo := ps }))
        | none => s
      | _, _ => s

/-- Every operation whose packets wait for a tag goes on, oldest first. -/
def pumpOps (s : State) : State :=
  (s.rmt.ops.map fun e => e.1).foldl (fun s id => match opOf s id with | some o => startTodo id (o.todo.length + 1) s | none => s) s

/-! ### Claims (R342) -/

/-- A claim for a peg key is in flight. -/
def claiming (s : State) (key : Nat) : Bool :=
  s.rmt.track.any fun (_, q) => match q with
    | some q => q.pkt.type == 0x14 && !q.col && pegKey (addrWindow q.pkt.addr) q.pkt.dst (field q.pkt.payload 0 2) q.pkt.gen == key
    | none => false

/-- Entries of the 16,384 grants that are taken or that a claim has reserved. -/
def grantsTaken (s : State) : Nat :=
  s.rmt.grants.length + (s.rmt.track.filter fun (_, q) => match q with | some q => q.pkt.type == 0x14 || q.col | none => false).length

/-- Every operation that waits for a peg key ends, each of its packets with the claim's outcome. -/
def failWaiting (key outcome : Nat) (s : State) : State :=
  (s.rmt.ops.filter fun (_, o) => match o with | some o => o.peg == key + 1 && o.hold == .grant | none => false).foldl
    (fun s (id, _) => s.modOp id fun o =>
      { o with hold := .none, bad := max 1 o.todo.length, worst := some (0, outcome), todo := [], left := 0, last := false }) s

/-- Claim the peg that an operation waits for, once. -/
def claimFor (o : RemOp) (s : State) : State :=
  let key := o.peg - 1
  if o.peg = 0 || claiming s key || (s.rmt.grants.get none key).isSome || decide (16384 ≤ grantsTaken s) then s
  else
    match freeTag s o.region with
    | some tag =>
      let pkt : Packet := { type := 0x14, base := 1, dst := o.dst, jobTag := s.job.tag, addr := o.remote, tag := tag, gen := keyGen key,
                            payload := leBytes 8 (keyPeg key) }
      let q : Req := { pkt := pkt, op := o.id, idx := 2 ^ 20, serial := o.serial, firstAt := s.aon, sentAt := s.aon }
      if pathLost s o.region pkt then failWaiting key 0x43 s
      else sendReq tag (s.modRmt fun m => { m with track := m.track.set none tag (some q) })
    | none => s

/-- Operations that wait for a grant and have no claim in flight make one. -/
def pumpClaims (s : State) : State :=
  (s.rmt.ops.map fun e => e.1).foldl
    (fun s id => match opOf s id with | some o => if o.hold = .grant then claimFor o s else s | none => s) s

/-- A grant has arrived for a peg key (R342): what waited for it may be sent; a PEG_CLAIM descriptor has its outcome. -/
def gotGrant (key tag : Nat) (g : Grant) (s : State) : State :=
  let claimer := match reqOf s tag with | some q => q.op | none => 0
  let s := s.modRmt fun m => { m with track := m.track.set none tag none, grants := m.grants.set none key (some g) }
  let s := (s.rmt.ops.filter fun (_, o) => match o with | some o => o.peg == key + 1 && o.hold == .grant | none => false).foldl
    (fun s (id, _) => s.modOp id fun o =>
      if o.kind = 8 then { o with hold := .none, todo := [], left := 0 }
      else { o with hold := if o.todo.any (fun p => p.pkt.type == 0x12) then .flag else .none }) s
  let s := s.modOp claimer fun o => if o.kind = 8 then { o with left := 0 } else o
  pumpOps s

/-- A claim has failed. -/
def claimFailed (key tag outcome : Nat) (s : State) : State :=
  pumpClaims (pumpOps (failWaiting key outcome (s.modRmt fun m => { m with track := m.track.set none tag none })))

/-! ### Descriptors (R326 to R328) -/

/-- The atomic returns its prior value to LOCAL. -/
def RDesc.returns (d : RDesc) : Bool := bit d.flags 6 || d.aop % 16 == 6 || d.aop % 16 == 7

/-- An operation of R60. -/
def RDesc.orderFree (d : RDesc) : Bool := (d.kind == 5 && !(bit d.flags 0)) || (d.kind == 7 && d.returns)

/-- Pieces of a range, cut at every 4,096 bytes of the offset: address, place in the range and length (R328). Fuel: one a piece. -/
def cutPieces : Nat → Nat → Nat → Nat → List (Nat × Nat × Nat)
  | 0, _, _, _ => []
  | k + 1, a, at', n =>
    if n = 0 then []
    else
      let m := min n (4096 - a % 4096)
      (a, at', m) :: cutPieces k (a + m) (at' + m) (n - m)

def pieces (a n : Nat) : List (Nat × Nat × Nat) := cutPieces (n / 4096 + 2) a 0 n

/-- Take the next sequence number of a channel to a destination (R335). -/
def takeSeq (dst ch : Nat) (s : State) : Nat × State :=
  let n := s.rmt.seq.get 0 (chanKey dst ch)
  (n, s.modRmt fun m => { m with seq := m.seq.set 0 (chanKey dst ch) ((n + 1) % 2 ^ 24) })

/-- Number a packet and give it its issue number. -/
def numbered (pkt : Packet) (idx : Nat) (s : State) : Plan × State :=
  let (n, s) := takeSeq pkt.dst pkt.ch s
  ({ pkt := { pkt with seq := n }, idx := idx, serial := s.rmt.serial }, s.modRmt fun m => { m with serial := m.serial + 1 })

def numberAll (pkts : List Packet) (s : State) : List Plan × State :=
  (pkts.zipIdx).foldl (fun (acc : List Plan × State) (p, i) => let (q, s) := numbered p i acc.2; (acc.1 ++ [q], s)) ([], s)

/-- Destinations that a fence covers, which its block has sent to (R351). -/
def fenceDests (s : State) (block : Nat) (all : Bool) (dst : Nat) : List Nat :=
  ((s.rmt.fenceDue.filter fun (k, _) => decide (k / 8192 = block)).map fun e => e.1 % 8192).filter fun d => all || d == dst

/-- Note that a block has sent a request to a device. -/
def markSent (block dst : Nat) (s : State) : State :=
  s.modRmt fun m => { m with fenceDue := m.fenceDue.set false (8192 * block + dst) true }

/-- Count the operations of R60 (R62). -/
def countLegOp (r : Nat) (d : RDesc) (s : State) : State :=
  s.modJob fun j => { j with liveDet := j.liveDet.mod {} r fun c =>
    if d.kind = 5 && !(bit d.flags 0) then { c with loadUnord := satAdd 0xFFFFFF c.loadUnord 1 }
    else if d.kind = 7 && (d.aop % 16 == 6 || d.aop % 16 == 7) then { c with casSwap := satAdd 0xFFFF c.casSwap 1 }
    else if d.kind = 7 && bit d.flags 6 then { c with fetch := satAdd 0xFFFF c.fetch 1 }
    else c }

/-- Place an operation, mark its destinations, and start its packets. -/
def placeOp (o : RemOp) (s : State) : State :=
  let s := s.modRmt fun m => { m with ops := m.ops.set none o.id (some o) }
  let s := (o.todo.map fun p => p.pkt.dst).dedup.foldl (fun s d => if o.kind = 11 then s else markSent o.block d s) s
  if o.hold = .grant then claimFor o s else startTodo o.id (o.todo.length + 1) s

/-- The operation that a descriptor begins, without its packets. -/
def newOp (id b p desc serial : Nat) (d : RDesc) (len : Nat) : RemOp :=
  { id := id, block := p, region := b / 64, kind := d.kind, desc := desc, serial := serial, loc := d.loc, len := len, status := d.status,
    fetch := d.returns, dst := addrDevice d.remote, remote := d.remote, all := bit d.flags 5, ch := 64 * (b / 64) + d.ch,
    peg := if d.kind = 8 || bit d.flags 2 then pegKey (addrWindow d.remote) (addrDevice d.remote) d.peg d.gen + 1 else 0,
    last := bit d.flags 3 }

/-- The peg of an operation is held, in the generation it expects. -/
def holdsGrant (s : State) (o : RemOp) : Bool := o.peg != 0 && (s.rmt.grants.get none (o.peg - 1)).isSome

/-- Packet common to a descriptor's requests. -/
def basePacket (s : State) (o : RemOp) (d : RDesc) (type : Nat) : Packet :=
  { type := type, base := 1, dst := o.dst, jobTag := s.job.tag, addr := d.remote, gen := d.gen, ch := o.ch }

/-- Begin an operation whose packets are known: number them, and hold them where they wait for a grant or for a flag's turn. -/
def beginOp (o : RemOp) (pkts : List Packet) (s : State) : State :=
  let (ps, s) := numberAll pkts s
  let hold := if o.peg ≠ 0 && !holdsGrant s o then OpHold.grant else if pkts.any (fun p => p.type == 0x12) then .flag else .none
  placeOp { o with todo := ps, hold := hold, left := ps.length + (if o.last then 1 else 0) } s

/-- Bytes of whole lines that a cached piece of `n` bytes takes: the cache is asked, and filled, line by line (R225, R345; log 126). -/
def wholeLines (n : Nat) : Nat := (n + 63) / 64 * 64

/-- Look the lines of a piece up in the region's cache (R225, R228): those it has, by their place in the piece, and whether it has them
all. -/
def cacheLines (r a n : Nat) (s : State) : List (Nat × List Byte) × Bool × State :=
  (List.range (wholeLines n / 64)).foldl
    (fun (acc : List (Nat × List Byte) × Bool × State) i =>
      let (l, s) := cacheRead r (a + 64 * i) acc.2.2
      match l with
      | some b => (acc.1 ++ [(64 * i, b.take (n - 64 * i))], acc.2.1, s)
      | none => (acc.1, false, s)) ([], true, s)

/-- RLOAD without the cache (R328). -/
def plainLoad (o : RemOp) (d : RDesc) (s : State) : State :=
  beginOp o ((pieces d.remote o.len).map fun (a, _, n) =>
    { basePacket s o d 0x10 with addr := a, payload := leBytes 8 (n + bitAt (bit d.flags 7) 13) }) s

/-- RLOAD through the remote read cache (R345): it asks for the pieces that have a line missing; what it finds is returned. -/
def cachedLoad (o : RemOp) (d : RDesc) (s : State) : State :=
  let (found, pkts, s) := (pieces d.remote o.len).foldl
    (fun (acc : List (Nat × List Byte) × List Packet × State) (a, at', n) =>
      let (ls, all, s) := cacheLines o.region a n acc.2.2
      let ask := if all then [] else [{ basePacket s o d 0x10 with addr := a, payload := leBytes 8 (wholeLines n + 2 ^ 13) }]
      (acc.1 ++ ls.map (fun e => (at' + e.1, e.2)), acc.2.1 ++ ask, s)) ([], [], s)
  beginOp { o with data := found } pkts s

/-- RLOAD. The device's own HBM is never held in its cache (R224). -/
def beginLoad (o : RemOp) (d : RDesc) (s : State) : State :=
  if bit d.flags 7 && s.fab.number != some o.dst then cachedLoad o d s else plainLoad o d s

/-- RSTORE (R328). -/
def beginStore (o : RemOp) (d : RDesc) (bytes : List Byte) (s : State) : State :=
  let type := if bit d.flags 1 then 0x12 else 0x11
  beginOp o ((pieces d.remote o.len).map fun (a, at', n) => { basePacket s o d type with addr := a, payload := slice bytes at' n }) s

/-- RATOMIC: one packet. -/
def beginAtomic (o : RemOp) (d : RDesc) (s : State) : State :=
  beginOp o
    [{ basePacket s o d 0x13 with payload := leBytes 1 d.aop ++ leBytes 1 (bitAt (bit d.flags 6) 0) ++ zeros 6 ++ leBytes 8 d.op0 ++ leBytes 8 d.op1 }] s

/-- PEG_CLAIM descriptor: it completes at the grant (R342). -/
def beginClaim (o : RemOp) (d : RDesc) (s : State) : State :=
  if holdsGrant s o then placeOp o s
  else placeOp { o with hold := .grant, left := 1, todo := [{ pkt := basePacket s o d 0x14, idx := 0, serial := o.serial }] } s

/-- NOTIFY (R347). -/
def beginNotify (o : RemOp) (d : RDesc) (s : State) : State :=
  let w := winOf s (addrWindow d.remote)
  let fails := if w.st = 0 then some 1 else if w.entry.size < addrOffset d.remote + d.len then some 2 else none
  match fails with
  | some c => placeOp { o with bad := 1, worst := some (0, c) } s
  | none => beginOp o (w.entry.subs.map fun x => { basePacket s o d 0x16 with dst := x, payload := leBytes 8 d.len }) s

/-- FENCE: the destinations it covers are fixed as it is taken; its packets are numbered when its second stage begins (R351). -/
def beginFence (o : RemOp) (d : RDesc) (s : State) : State :=
  let ds := fenceDests s o.block o.all o.dst
  let s := s.modRmt fun m => { m with fenceDue := m.fenceDue.keep (fun k _ => !(decide (k / 8192 = o.block) && ds.contains (k % 8192))) }
  let ps := ds.zipIdx.map fun (x, i) => { pkt := { basePacket s o d 0x17 with dst := x, addr := 0 }, idx := i, serial := o.serial : Plan }
  placeOp { o with hold := .stage, todo := ps, left := ps.length } s

/-- Scratchpad segments that a remote descriptor writes (R329). -/
def remoteDst (d : RDesc) : List Nat :=
  ((if d.kind = 5 then segsOf d.loc d.len else if d.kind = 7 then segsOf d.loc 8 else []) ++ segsOf d.status 8).dedup

/-- Take a remote descriptor from block `b`'s DMA slot (R64, R170, R171, R326, R327). -/
def remoteDma (b p desc post : Nat) (raw : List Byte) (s : State) : SlotRes :=
  let d := rdesc raw
  let k := blkOf s p
  let stop := fun c a s => dmaFault p c desc a s
  if s.job.strict && d.orderFree then stop 0x210 0 s
  else
    let indirect := bit d.flags 4
    match if indirect then firstFault (readFault k) (segsOf d.lenAddr 4) else none with
    | some (c, g) => stop c (4096 * g) s
    | none =>
      let len := if indirect then Nat.min (leNat (k.sp.readN d.lenAddr 4)) d.len else d.len
      match firstFault (writeFault k) (remoteDst d) with
      | some (c, g) => stop c (4096 * g) s
      | none =>
        let s := s.modBlk p (modSegs (remoteDst d) SegSt.hold)
        match if d.kind = 6 then firstFault (readFault (blkOf s p)) (segsOf d.loc len) else none with
        | some (c, g) => stop c (4096 * g) s
        | none =>
          let id := s.blks.nextId
          let s := s.modBlks fun x => { x with nextId := id + 1 }
          let s := s.modBlk p fun k => { k with dma := k.dma ++ [{ id := id, kind := d.kind, desc := desc, post := post, segs := remoteDst d }] }
          let o := newOp id b p desc s.rmt.serial d len
          let s := countLegOp o.region d (s.modRmt fun m => { m with serial := m.serial + 1 })
          .issued (match d.kind with
            | 5 => beginLoad o d s
            | 6 => beginStore o d (k.sp.readN d.loc len) s
            | 7 => beginAtomic o d s
            | 8 => beginClaim o d s
            | 9 => beginNotify o d s
            | 10 => placeOp o (cacheDrop d.remote d.len s)
            | _ => beginFence o d s)

/-! ### What waits inside the device -/

/-- An operation taken earlier has a request without a final outcome, held or still to be sent, that passes a test. -/
def earlier (s : State) (serial : Nat) (p : Nat → Packet → Bool) : Bool :=
  (s.rmt.track.any fun (_, q) => match q with
    | some q => !q.col && (match opOf s q.op with | some o => decide (o.serial < serial) && p o.block q.pkt | none => false)
    | none => false) ||
  s.rmt.ops.any fun (_, o) => match o with
    | some o => decide (o.serial < serial) && o.todo.any fun q => p o.block q.pkt
    | none => false

/-- STORE_FLAG_SEND (R338). -/
def execStoreFlagSend (id : Nat) (s : State) : Out :=
  match opOf s id with
  | some o =>
    if o.hold = .flag && !earlier s o.serial (fun _ p => p.dst == o.dst && (p.type == 0x11 || p.type == 0x13)) then
      .next (startTodo id (o.todo.length + 1) (s.modOp id fun o => { o with hold := .none }))
    else .next s
  | none => .next s

/-- A descriptor marked END that a fence covers has still to send its PEG_DONE, a request of it that is not final (R344, R351). -/
def pegDoneDue (s : State) (f : RemOp) : Bool :=
  s.rmt.ops.any fun (_, o) => match o with
    | some o => decide (o.serial < f.serial) && o.block == f.block && (f.all || o.dst == f.dst) && o.last && !o.doneSent
    | none => false

/-- FENCE_SECOND_STAGE (R351). -/
def execFenceSecondStage (id : Nat) (s : State) : Out :=
  match opOf s id with
  | some o =>
    if o.hold = .stage && !earlier s o.serial (fun b p => b == o.block && (o.all || p.dst == o.dst)) && !pegDoneDue s o then
      let (ps, s) := numberAll (o.todo.map fun p => p.pkt) s
      .next (startTodo id (ps.length + 1) (s.modOp id fun o => { o with hold := .none, todo := ps }))
    else .next s
  | none => .next s

/-- Every packet of an operation but a PEG_DONE that it has not sent is final. -/
def packetsFinal (o : RemOp) : Bool := o.hold == .none && o.todo.isEmpty && o.left == bitAt (o.last && !o.doneSent) 0

/-- Operations of one peg that pass a test. -/
def pegOps (s : State) (peg : Nat) (p : RemOp → Bool) : Bool :=
  s.rmt.ops.any fun (_, o) => match o with | some o => o.peg == peg && p o | none => false

/-- Release a peg's grant with PEG_DONE, which names what has been sent under it. -/
def sendPegDone (o : RemOp) (g : Grant) (tag : Nat) (s : State) : State :=
  let key := o.peg - 1
  let pkt : Packet := { type := 0x15, base := 1, dst := o.dst, jobTag := s.job.tag, addr := o.dst * 2 ^ 51 + keyWindow key * 2 ^ 41, gen := keyGen key,
                        payload := leBytes 4 (keyPeg key) ++ leBytes 4 g.sent }
  let s := s.modRmt fun m => { m with grants := m.grants.set none key none, serial := m.serial + 1 }
  pumpClaims (issueReq { o with peg := 0 } { pkt := pkt, idx := 2 ^ 19, serial := s.rmt.serial } tag (s.modOp o.id fun o => { o with doneSent := true }))

/-- PEG_DONE_SEND (R344): every packet of a descriptor marked END is final. The last such descriptor of its peg releases the grant, once
nothing that was sent under the peg is open; one that another follows has nothing more to send. -/
def execPegDoneSend (id : Nat) (s : State) : Out :=
  match opOf s id with
  | some o =>
    if o.last && !o.doneSent && packetsFinal o then
      if pegOps s o.peg fun x => x.last && !x.doneSent && decide (o.serial < x.serial) then .next (s.modOp id fun o => { o with last := false, left := 0 })
      else if pegOps s o.peg fun x => !packetsFinal x then .next s
      else
        match s.rmt.grants.get none (o.peg - 1), freeTag s o.region with
        | some g, some tag => .next (sendPegDone o g tag s)
        | _, _ => .next s
    else .next s
  | none => .next s

/-- Nothing of an operation is open. -/
def opDone (o : RemOp) : Bool := o.hold == .none && o.todo.isEmpty && o.left == 0

/-- The record of a remote operation whose outcome is not OK (R330). -/
def outcomeRecord (o : RemOp) (s : State) : State :=
  match o.worst with
  | some (_, c) => record (blockRecord s o.block 2 0 0x216 (c + o.desc * 2 ^ 32) 0) s
  | none => s

/-- REMOTE_COMPLETE (R329, R330): the data, the status word, and the post. -/
def execRemoteComplete (id : Nat) (s : State) : Out :=
  match opOf s id with
  | some o =>
    if opDone o && decide (o.block < mgmtCore) then
      let lost := o.kind = 5 ∧ o.bad ≠ 0
      let word := leBytes 4 (match o.worst with | some (_, c) => c | none => 0) ++ leBytes 4 o.bad
      let s := s.modBlk o.block fun k =>
        let k := if lost then k.writeSp o.loc (List.replicate o.len 0xFF) else k
        let k := o.data.foldl (fun (k : Block) (a, b) => k.writeSp (o.loc + a) b) k
        k.writeSp o.status word
      let s := outcomeRecord o s
      .next (finishDma o.block id (s.modRmt fun m => { m with ops := m.ops.set none id none }))
    else .next s
  | none => .next s

/-- A packet of the channel of `q` with an earlier number has no final outcome. -/
def channelBefore (s : State) (q : Req) : Bool :=
  let mine := fun (serial : Nat) (p : Packet) =>
    decide (serial < q.serial) && p.dst == q.pkt.dst && p.ch == q.pkt.ch && !(p.type == 0x14 || p.type == 0x15)
  (s.rmt.track.any fun (_, x) => match x with | some x => !x.col && mine x.serial x.pkt | none => false) ||
  s.rmt.ops.any fun (_, o) => match o with | some o => o.hold != .stage && o.todo.any (fun x => mine x.serial x.pkt) | none => false

/-- RETRY_ORDER_RESEND (R331): every earlier packet of the channel is final. -/
def execRetryOrderResend (tag : Fin 131072) (s : State) : Out :=
  match reqOf s tag with
  | some q => if q.wait = .order && !channelBefore s q then .next (sendReq tag s) else .next s
  | none => .next s

/-- DELAYED_RESEND (R331): 20 µs have passed. -/
def execDelayedResend (tag : Fin 131072) (s : State) : Out :=
  match reqOf s tag with
  | some q => if q.wait = .delay && decide (q.resumeAt ≤ s.aon) then .next (sendReq tag s) else .next s
  | none => .next s

end Sys2Proof.Machine
end

