-- ==== Sys2Proof/Machine/Target.lean ====
section
/-! DEFINITION. Requests at the target: ordering contexts, receipts, checks, and what each request does (R336 to R344, R347 to R349,
R351, R354). -/

namespace Sys2Proof.Machine

open Sys2Proof

/-! ### Contexts and receipts (R336, R337, R349) -/

/-- Next expected number of a source's channel; none without a context. -/
def ctxNext (s : State) (src ch : Nat) : Option Nat :=
  match s.rmt.ctx.get 0 (chanKey src ch) with
  | 0 => none
  | n + 1 => some n

def setCtx (src ch n : Nat) (s : State) : State := s.modRmt fun m => { m with ctx := m.ctx.set 0 (chanKey src ch) (n + 1) }

/-- Receipts of the table that a tag names. -/
def receiptsFor (s : State) (tag : Nat) : List Receipt := s.rmt.receipts.get [] (tag / 32768)

def findReceipt (s : State) (p : Packet) : Option Receipt :=
  (receiptsFor s p.tag).find? fun r => r.src == p.src && r.tag == p.tag && r.gen == p.gen

/-- Record a receipt; it takes the place of an older one of its key. -/
def addReceipt (p : Packet) (o value : Nat) (s : State) : State :=
  let r : Receipt := { src := p.src, tag := p.tag, gen := p.gen, outcome := o, value := value, expires := s.aon + holdTime s.rmt.timers }
  s.modRmt fun m =>
    { m with receipts := m.receipts.mod [] (p.tag / 32768) fun rs => (rs.filter fun x => !(x.src == p.src && x.tag == p.tag && x.gen == p.gen)) ++ [r] }

/-- RECEIPT_EXPIRE (R349): receipts of a region's table whose time has come. -/
def execReceiptExpire (r : Fin 4) (s : State) : Out :=
  .next (s.modRmt fun m => { m with receipts := m.receipts.mod [] r fun rs => rs.filter fun x => decide (s.aon < x.expires) })

/-! ### Answers -/

def reply (c : Carried) (r type : Nat) (payload : List Byte) (s : State) : State :=
  let p := c.pkt
  sendReply r p.src p.tag p.gen p.seq p.ch type payload s

/-- Answer with an outcome: an atomic by ATOMIC_RESULT, the others by ACK. -/
def replyOutcome (c : Carried) (r o value : Nat) (s : State) : State :=
  if c.pkt.type = 0x13 then reply c r 0x32 (leBytes 8 o ++ leBytes 8 value) s else reply c r 0x31 (leBytes 8 o) s

/-- Count what a target answers (`RMT_COUNT_k`). -/
def countOutcome (o : Nat) (s : State) : State :=
  match o with
  | 1 => rmtCount 0 s
  | 2 => rmtCount 1 s
  | 3 => rmtCount 2 s
  | 5 => rmtCount 3 s
  | 6 => rmtCount 7 s
  | 7 => rmtCount 6 s
  | _ => s

def answer (c : Carried) (r o value : Nat) (s : State) : State := replyOutcome c r o value (countOutcome o s)

/-! ### Checks (R339) -/

/-- Bytes that a request touches. -/
def accessBytes (p : Packet) : Nat :=
  match p.type with
  | 0x10 => bits (field p.payload 0 8) 12 0
  | 0x13 => if bit (field p.payload 0 1) 4 then 8 else 4
  | _ => p.payload.length

/-- Payloads of the table *Request and reply types*. -/
def payloadOk (p : Packet) : Bool :=
  let w := field p.payload 0 8
  match p.type with
  | 0x10 => p.payload.length == 8 && decide (w < 2 ^ 14) && decide (1 ≤ bits w 12 0) && decide (bits w 12 0 ≤ 4096)
  | 0x11 => !p.payload.isEmpty
  | 0x12 => !p.payload.isEmpty
  | 0x13 => p.payload.length == 24 && decide (field p.payload 0 1 < 32) && decide (field p.payload 0 1 % 16 ≤ 8)
      && decide (field p.payload 1 1 < 2) && decide (field p.payload 2 6 = 0)
  | 0x14 => p.payload.length == 8 && decide (w < 2 ^ 14)
  | 0x15 => p.payload.length == 8 && decide (w % 2 ^ 32 < 2 ^ 14)
  | 0x16 => p.payload.length == 8 && decide (w < 2 ^ 32)
  | _ => p.payload.isEmpty

/-- A peg granted to `src` with landing incomplete whose space holds the bytes (R339). -/
def pegFor (s : State) (src w sp n : Nat) : Option Nat :=
  (s.rmt.peg.find? fun (_, p) => p.out && p.window == w && p.grant == some src && decide (p.sp ≤ sp) && decide (sp + n ≤ p.sp + p.bytes)).map
    fun e => e.1

/-- Scratchpad offset or HBM offset that an address in a window stands for. -/
def winPlace (e : WinEntry) (off : Nat) : Nat := if e.kind = 1 then e.base % 2 ^ 38 + off else e.base + off

/-- A load of a SCRATCH window meets a segment that it may not read (R340). -/
def scratchUnreadable (s : State) (e : WinEntry) (off n : Nat) : Bool :=
  match physOf s e.block with
  | some p => (firstFault (readFault (blkOf s p)) (segsOf (winPlace e off) n)).isSome
  | none => true

/-- check() of R339; an outcome of 0 is OK. -/
def checkRequest (s : State) (p : Packet) : Nat :=
  if p.type = 0x16 || p.type = 0x17 then 0
  else
    let x := winOf s (addrWindow p.addr)
    let e := x.entry
    let off := addrOffset p.addr
    let n := accessBytes p
    let op := field p.payload 0 1 % 16
    if x.st = 0 then 1
    else if x.st = 2 && p.gen == (x.gen + 1) % 4096 then 8
    else if p.gen ≠ x.gen then 1
    else if ((p.type == 0x11 || p.type == 0x12) && !(bit e.flags 0)) || (p.type == 0x13 && !(bit e.flags 1)) then 2
    else if e.size < off + n then 2
    else if p.type == 0x13 && (off % n != 0 || (e.kind == 2 && op != 8)) then 2
    else if p.type == 0x10 && bit (field p.payload 0 8) 13 && !(bit e.flags 2) then 2
    else if p.type == 0x10 && e.kind == 2 && scratchUnreadable s e off n then 2
    else if p.type != 0x10 && e.kind == 2 && (pegFor s p.src (addrWindow p.addr) (winPlace e off) n).isNone then 3
    else 0

/-! ### Effects -/

/-- Read the bytes of a load. -/
def readWindow (e : WinEntry) (off n : Nat) (s : State) : List Byte × State :=
  if e.kind = 1 then
    let (b, _, s) := readBytes (e.base / 2 ^ 38) (winPlace e off) n none s
    (b, s)
  else
    match physOf s e.block with
    | some p => readScratch p (winPlace e off) n s
    | none => (List.replicate n 0xFF, s)

/-- Land bytes in a peg's space through the block's DMA-in: a gated block wakes (R34), and the first write moves the segments. -/
def landBytes (n : Nat) (sp : Nat) (bs : List Byte) (s : State) : State :=
  let p := pegOf s n
  let s := match logOf s p.block with | some b => requestWake b 1 s | none => s
  let s := s.modBlk p.block fun k => modSegs (pegSegs p) SegSt.land (k.writeSp sp bs)
  s.modPeg n fun p => { p with landed := p.landed + bs.length }

/-- Write bytes at a place of a window. -/
def writeWindow (src w off : Nat) (bs : List Byte) (s : State) : State :=
  let e := (winOf s w).entry
  if e.kind = 1 then writeBytes (e.base / 2 ^ 38) (winPlace e off) bs s
  else match pegFor s src w (winPlace e off) bs.length with | some n => landBytes n (winPlace e off) bs s | none => s

/-- New value of an atomic (table *Atomic operations*) in `w` bytes. -/
def atomicValue (op w old a b : Nat) : Nat :=
  let m := 2 ^ (8 * w)
  match op with
  | 0 => (old + a) % m
  | 1 => if untwos (8 * w) old < untwos (8 * w) (a % m) then old else a % m
  | 2 => if untwos (8 * w) old < untwos (8 * w) (a % m) then a % m else old
  | 3 => Nat.land old (a % m)
  | 4 => Nat.lor old (a % m)
  | 5 => Nat.xor old (a % m)
  | 6 => a % m
  | 7 => if old = a % m then b % m else old
  | _ => closureAdd (8 * w) old (a % m)

/-- Apply an atomic to its cell (R348): the value that it returns, and the state after. CADD returns none (R57): its prior-value field is 0
(log 125). -/
def applyAtomic (p : Packet) (s : State) : Nat × State :=
  let w := accessBytes p
  let off := addrOffset p.addr
  let win := addrWindow p.addr
  let (b, s) := readWindow (winOf s win).entry off w s
  let v := atomicValue (field p.payload 0 1 % 16) w (leNat b) (field p.payload 8 8) (field p.payload 16 8)
  (if field p.payload 0 1 % 16 = 8 then 0 else leNat b, writeWindow p.src win off (leBytes w v) s)

/-- Apply a request that passed its checks: the prior value of an atomic. -/
def applyRequest (p : Packet) (s : State) : Nat × State :=
  match p.type with
  | 0x11 => (0, writeWindow p.src (addrWindow p.addr) (addrOffset p.addr) p.payload s)
  | 0x12 => (0, writeWindow p.src (addrWindow p.addr) (addrOffset p.addr) p.payload s)
  | 0x13 => applyAtomic p s
  | 0x16 => (0, cacheDrop p.addr (field p.payload 0 8) s)
  | 0x17 => (0, flushAll s)
  | _ => (0, s)

/-- Answer a load that passed its checks with its bytes. -/
def answerLoad (c : Carried) (r : Nat) (s : State) : State :=
  let (b, s) := readWindow (winOf s (addrWindow c.pkt.addr)).entry (addrOffset c.pkt.addr) (accessBytes c.pkt) s
  reply c r 0x30 b s

/-- Region that answers: the window's, or region 0 where none applies. -/
def targetRegion (s : State) (p : Packet) : Nat :=
  if p.type = 0x16 || p.type = 0x17 then 0 else winRegion (winOf s (addrWindow p.addr)).entry

/-- The procedure of R339 for a request whose job tag is the device's own. -/
def handleOrdered (c : Carried) (s : State) : State :=
  let p := c.pkt
  let r := targetRegion s p
  let full := decide (65536 ≤ s.rmt.ctx.length)
  match ctxNext s p.src p.ch with
  | none => if p.seq = 0 && !full then inOrder c r 0 s
            else if p.seq = 0 then answer c r 9 0 s
            else answer c r 6 0 s
  | some next =>
    let d := (p.seq + 2 ^ 24 - next) % 2 ^ 24
    if 2 ^ 23 ≤ d then behind c r s
    else if 0 < d then answer c r 6 0 s
    else inOrder c r next s
where
  /-- A duplicate. -/
  behind (c : Carried) (r : Nat) (s : State) : State :=
    match findReceipt s c.pkt with
    | some x => replyOutcome c r x.outcome x.value (rmtCount 3 s)
    | none =>
      if c.pkt.type = 0x10 then
        let o := checkRequest s c.pkt
        if o = 0 then answerLoad c r s else answer c r o 0 s
      else answer c r 5 0 s
  /-- The expected number. -/
  inOrder (c : Carried) (r next : Nat) (s : State) : State :=
    let p := c.pkt
    let o := checkRequest s p
    let keeps := p.type == 0x13 || o != 0
    if o = 8 then answer c r 8 0 (setCtx p.src p.ch next s)
    else if keeps && decide (8192 ≤ (receiptsFor s p.tag).length) then answer c r 7 0 (setCtx p.src p.ch next s)
    else
      let s := setCtx p.src p.ch ((next + 1) % 2 ^ 24) s
      if o = 0 && p.type = 0x10 then answerLoad c r s
      else
        let (v, s) := if o = 0 then applyRequest p s else (0, s)
        let s := if keeps then addReceipt p o v s else s
        answer c r o v s

/-! ### Pegs at the target (R343, R344) -/

/-- The window answers requests of this generation. -/
def winLive (s : State) (w gen : Nat) : Bool := (winOf s w).st != 0 && (winOf s w).gen == gen

def claimOf (p : Packet) : Claim :=
  { src := p.src, gen := p.gen, window := addrWindow p.addr, tag := p.tag, seq := p.seq, ch := p.ch }

/-- PEG_CLAIM (R343). -/
def handleClaim (c : Carried) (s : State) : State :=
  let p := c.pkt
  let w := addrWindow p.addr
  let n := field p.payload 0 2
  let q := pegOf s n
  if !winLive s w p.gen then answer c 0 1 0 s
  else if q.out && q.window == w && q.grant.isNone && (winOf s w).st == 1 then grantPeg n (claimOf p) s
  else if q.out && q.window == w && q.grant == some p.src then grantPeg n (claimOf p) s
  else
    match q.claim with
    | some x => if x.src = p.src then answer c 0 10 0 (s.modPeg n fun q => { q with claim := some (claimOf p) }) else answer c 0 4 0 s
    | none => answer c 0 10 0 (s.modPeg n fun q => { q with claim := some (claimOf p) })

/-- PEG_DONE (R344). -/
def handleDone (c : Carried) (s : State) : State :=
  let p := c.pkt
  let w := addrWindow p.addr
  let n := field p.payload 0 2
  let total := field p.payload 4 4
  let q := pegOf s n
  if !winLive s w p.gen then answer c 0 1 0 s
  else if q.out && q.window == w && q.grant == some p.src then
    let s := if q.landed = total then s
      else record { level := 2, cls := 2, code := 0x30A, region := some (q.block / 68), detail := n } s
    answer c 0 0 0 (completePeg n false s)
  else match q.done with
    | some (src, _, _) => if src = p.src then answer c 0 0 0 s else answer c 0 3 0 s
    | none => answer c 0 3 0 s

/-! ### Taking requests from the intake -/

/-- A running checkpoint of an open station covers bytes that a load, a store or an atomic touches (R483). -/
def heldByCheckpoint (s : State) (p : Packet) : Bool :=
  let e := (winOf s (addrWindow p.addr)).entry
  let a := e.base + addrOffset p.addr
  let atStation := match s.job.run with | some r => r.phase == .atStation | none => false
  atStation && e.kind == 1 && decide (0x10 ≤ p.type) && decide (p.type ≤ 0x13) && (s.mem.ckpts.any fun k => k.phase != 0 && k.list.any fun (x, n) => decide (a < x + n) && decide (x < a + accessBytes p))

/-- The target of a request, or its way in or out, lies in a lost region (R463). -/
def unreachable (s : State) (c : Carried) : Bool :=
  let t := targetRegion s c.pkt
  !roundTrip s c.region t

/-- The device takes requests in this state. A parked one answers claims alone, each with CLAIM_PARKED (R431); what it had accepted
before it parked waits. -/
def targetRuns (s : State) : Bool := !(s.dev == .off || s.dev == .boot || s.dev == .fault)

/-- The request in turn: the oldest; in BIVOUAC the oldest claim, for the keep-alive path answers claims alone (R431). -/
def requestInTurn (s : State) : Option Carried :=
  if s.dev == .bivouac then s.fab.reqIn.find? fun c => c.pkt.type == 0x14 else s.fab.reqIn.head?

/-- Take the request in turn when it is one of `mine`, and the reply output has a slot for its reply (R310). -/
def requestStep (mine : Packet → Bool) (s : State) : Out :=
  match requestInTurn s with
  | none => .next s
  | some c =>
    if targetRuns s && mine c.pkt && !heldByCheckpoint s c.pkt && (s.dev == .bivouac || replySlotFree s) then
      let s := admitWaiting (s.modFab fun f => { f with reqIn := f.reqIn.erase c })
      if !payloadOk c.pkt then .next (fabCount 0 s)
      else if c.pkt.jobTag ≠ s.job.tag then .next (fabCount 2 s)
      else if s.dev == .bivouac then .next (answerClaim (claimOf c.pkt) 10 s)
      else if unreachable s c then .next s
      else if c.pkt.type = 0x14 then .next (handleClaim c s)
      else if c.pkt.type = 0x15 then .next (handleDone c s)
      else .next (handleOrdered c s)
    else .next s

def execLoad (errs : List ReadErr) (s : State) : Out := meeting errs (requestStep fun p => p.type == 0x10) s
def execStore (errs : List ReadErr) (s : State) : Out := meeting errs (fun s => requestStep (fun p => p.type == 0x11) s) s
def execStoreFlag (errs : List ReadErr) (s : State) : Out := meeting errs (fun s => requestStep (fun p => p.type == 0x12) s) s
def execPegClaim (s : State) : Out := requestStep (fun p => p.type == 0x14) s
def execPegDone (s : State) : Out := requestStep (fun p => p.type == 0x15) s
def execNotice (s : State) : Out := requestStep (fun p => p.type == 0x16) s
def execFence (errs : List ReadErr) (s : State) : Out := meeting errs (fun s => requestStep (fun p => p.type == 0x17) s) s

/-- An ATOMIC request with one operation; a malformed one is turned away by any of them (R283). -/
def atomicStep (op : Nat) (errs : List ReadErr) (s : State) : Out :=
  meeting errs (requestStep fun p => p.type == 0x13 && (field p.payload 0 1 % 16 == op || !payloadOk p)) s

def execAtomicAdd (errs : List ReadErr) (s : State) : Out := atomicStep 0 errs s
def execAtomicMin (errs : List ReadErr) (s : State) : Out := atomicStep 1 errs s
def execAtomicMax (errs : List ReadErr) (s : State) : Out := atomicStep 2 errs s
def execAtomicAnd (errs : List ReadErr) (s : State) : Out := atomicStep 3 errs s
def execAtomicOr (errs : List ReadErr) (s : State) : Out := atomicStep 4 errs s
def execAtomicXor (errs : List ReadErr) (s : State) : Out := atomicStep 5 errs s
def execAtomicSwap (errs : List ReadErr) (s : State) : Out := atomicStep 6 errs s
def execAtomicCas (errs : List ReadErr) (s : State) : Out := atomicStep 7 errs s
def execAtomicCadd (errs : List ReadErr) (s : State) : Out := atomicStep 8 errs s

end Sys2Proof.Machine
end

