-- ==== Sys2Proof/Machine/Collective.lean ====
section
/-! DEFINITION. The collective engines: descriptors, slots, COL packets, combining and completion (R357 to R379, R384, R385). -/

namespace Sys2Proof.Machine

open Sys2Proof

def State.modCol (f : Collectives → Collectives) (s : State) : State := { s with col := f s.col }

/-- Count `n` events of kind `k` (`COL_COUNT_k`). -/
def colCount (k n : Nat) (s : State) : State := s.modCol fun c => { c with count := c.count.mod 0 k (· + n) }

def colOf (s : State) (id : Nat) : Option ColOp := s.col.ops.find? fun o => o.id == id

def State.modColOp (id : Nat) (f : ColOp → ColOp) (s : State) : State :=
  s.modCol fun c => { c with ops := c.ops.map fun o => if o.id = id then f o else o }

/-- Note a failure of element `k` of a descriptor. Its first failure stands, but a lowered count gives way to what becomes of the slot (R378;
log 69). -/
def ColOp.fail (k code : Nat) (o : ColOp) : ColOp :=
  let old := o.fails.get 0 k
  if old = 0 ∨ old = 0x52 then { o with fails := o.fails.set 0 k code } else o

/-- Element number of the slot that is received as slot `k`, and of the engine's own writes. -/
def ColOp.recvElement (o : ColOp) (k : Nat) : Nat := o.sends.length + o.recvs.findIdx fun r => r.k == k

def ColOp.ownElement (o : ColOp) : Nat := o.sends.length + o.recvs.length

/-- Status code of a descriptor: that of its lowest-numbered failed element (R329, R378). -/
def ColOp.status (o : ColOp) : Nat := match o.fails with | (_, c) :: _ => c | [] => 0

/-- Elements that have failed. -/
def ColOp.bad (o : ColOp) : Nat := o.fails.length

/-! ### Descriptors (table *Collective descriptor*) -/

structure ColDesc where
  op : Nat
  alg : Nat
  wide : Bool
  engine : Nat
  p : Nat
  rank : Nat
  l : Nat
  root : Nat
  srcWin : Nat
  dstWin : Nat
  srcOff : Nat
  dstOff : Nat
  stageOff : Nat
  chunk : Nat
  pegBase : Nat
  pegCount : Nat
  members : Nat
  sizes : Nat
  counts : Nat
  status : Nat
  startBlk : Nat
  startCtr : Nat
  startEn : Bool
  postBlk : Nat
  postCtr : Nat
  startValue : Nat
  deriving DecidableEq, Repr

def colDesc (d : List Byte) : ColDesc :=
  { op := field d 0 1, alg := field d 1 1, wide := bit (field d 2 1) 0, engine := field d 3 1, p := field d 4 2, rank := field d 6 2,
    l := field d 8 2, root := field d 10 2, srcWin := field d 12 2, dstWin := field d 14 2, srcOff := field d 16 8, dstOff := field d 24 8,
    stageOff := field d 32 8, chunk := field d 40 4, pegBase := field d 44 2, pegCount := field d 46 2, members := field d 48 4,
    sizes := field d 52 4, counts := field d 56 4, status := field d 60 4, startBlk := field d 64 1, startCtr := field d 65 1 % 64,
    startEn := bit (field d 65 1) 6, postBlk := field d 66 1, postCtr := field d 67 1 % 64, startValue := field d 68 4 }

/-- G of R368. -/
def ColDesc.g (d : ColDesc) : Nat := d.p / d.l

/-- Device number of rank `i`. -/
def ColDesc.member (d : ColDesc) (table : List Byte) (i : Nat) : Nat := field table (d.members + 2 * i) 2

/-- A2AV or A2AX. -/
def ColDesc.varies (d : ColDesc) : Bool := d.op == 2 || d.op == 3

/-- REDUCE_SCATTER or ALLREDUCE. -/
def ColDesc.sums (d : ColDesc) : Bool := d.op == 5 || d.op == 6

/-- RING REDUCE_SCATTER and RING ALLREDUCE land in the source (R361). -/
def ColDesc.ringSum (d : ColDesc) : Bool := d.alg == 1 && d.sums

/-- Landing code of a sum. -/
def ColDesc.addCode (d : ColDesc) : Nat := if d.wide then 2 else 1

/-- The pairs of operation and algorithm of the table *Algorithms by operation*. -/
def colPair (op alg : Nat) : Bool :=
  match op, alg with
  | 1, 0 | 2, 0 | 3, 0 => true
  | 4, a | 5, a | 6, a => decide (a ≤ 2)
  | 7, a | 8, a => a == 0 || a == 2
  | _, _ => false

/-- Slot counts of the slot tables. -/
def ColDesc.slots (d : ColDesc) : Nat :=
  match d.op, d.alg with
  | 4, 2 => d.g + d.l
  | 5, 1 => d.p - 1
  | 5, 2 => d.l + d.g
  | 6, 0 => 2 * d.p
  | 6, 1 => 2 * d.p - 1
  | 6, 2 => 2 * d.l + 2 * d.g
  | 7, 2 => d.l + d.g
  | 8, 0 => 1
  | 8, 2 => 2
  | _, _ => d.p

/-- The descriptor has staging slots. -/
def ColDesc.stages (d : ColDesc) : Bool := (d.sums && d.alg != 1) || d.op == 7

/-- The largest slot space. -/
def ColDesc.largest (d : ColDesc) : Nat := if d.alg = 2 && (d.sums || d.op == 4) then d.g * d.chunk else d.chunk

/-- A descriptor that R359 accepts; `blockOk` says which logical blocks lie within the shape class. -/
def colDescOk (blockOk : Nat → Bool) (table : List Byte) (i : Nat) : Bool :=
  let raw := slice table (16 + 128 * i) 128
  let d := colDesc raw
  let offOk := fun (n : Nat) => decide (n < 2 ^ 38) && n % 4096 == 0
  let members := (List.range d.p).map fun k => d.member table k
  let listEnd := d.members + 2 * d.p
  colPair d.op d.alg && decide (d.alg < 4) && decide (field raw 2 1 ≤ 1) && (!d.wide || d.sums) && decide (d.engine < 4)
    && decide (1 ≤ d.p) && decide (d.p ≤ 8192) && decide (d.rank < d.p)
    && (if d.alg = 2 then decide (2 ≤ d.l) && d.p % d.l == 0 && decide (2 ≤ d.p / d.l) else d.l == 0)
    && (if d.op = 8 then decide (d.root < d.p) else d.root == 0)
    && decide (d.srcWin < 1024) && decide (d.dstWin < 1024) && offOk d.srcOff && offOk d.dstOff && offOk d.stageOff
    && (d.stages || d.stageOff == 0)
    && d.chunk % 4096 == 0 && decide (4096 ≤ d.chunk) && decide (d.chunk ≤ 6291456) && decide (d.largest ≤ 6291456)
    && decide (d.pegBase < 16384) && decide (d.slots ≤ d.pegCount) && decide (d.pegBase + d.pegCount ≤ 16384)
    && d.members % 2 == 0 && decide (listEnd ≤ table.length) && members.all (fun m => decide (m < 8192))
    && (if d.op = 2 then d.sizes % 4 == 0 && decide (d.sizes + 8 * d.p ≤ table.length) else if d.op = 3 then d.sizes % 4 == 0 else d.sizes == 0)
    && (if d.varies then d.counts % 4096 == 0 else d.counts == 0)
    && d.status % 8 == 0 && decide (d.status < 2 ^ 31) && blockOk (d.status / 2 ^ 23) && decide (d.status % 2 ^ 23 < 0x600000)
    && blockOk d.startBlk && blockOk d.postBlk && decide (field raw 65 1 < 128) && decide (field raw 67 1 < 64)
    && decide (leNat (slice raw 72 56) = 0)

/-- A leg's collective table that R359 accepts. -/
def colTableOk (blockOk : Nat → Bool) (table : List Byte) : Bool :=
  let n := field table 0 4
  decide (n ≤ 4096) && decide (16 + 128 * n ≤ table.length) && decide (leNat (slice table 4 12) = 0)
    && (List.range n).all (colDescOk blockOk table)

/-- The collective table of the leg in progress. -/
def colTable (s : State) : List Byte := match currentLeg s with | some l => l.parts.collectives | none => []

/-- The next descriptor of engine `e` from index `i` on, in table order (R357, R362); fuel bounds the search. -/
def nextDesc (table : List Byte) (e : Nat) : Nat → Nat → Option Nat
  | 0, _ => none
  | k + 1, i =>
    if field table 0 4 ≤ i then none
    else if field table (16 + 128 * i + 3) 1 = e then some i
    else nextDesc table e k (i + 1)

/-! ### Spaces (R358) -/

/-- The place of an offset in a window's memory: physical block plus 1, or 0 for HBM, and the byte there (an HBM address with its
region). -/
def spaceAt (s : State) (w off : Nat) : Nat × Nat :=
  let e := (winOf s w).entry
  if e.kind = 1 then (0, e.base + off) else ((match physOf s e.block with | some p => p + 1 | none => 0), e.base + off)

/-- Read a space for a descriptor: none where a segment check of R184 fails. A segment that the engine itself holds is read (log 70). -/
def readSpace (o : ColOp) (w off n : Nat) (s : State) : Option (List Byte) × State :=
  match spaceAt s w off with
  | (0, a) => let (b, _, s) := readBytes (a / 2 ^ 38) (a % 2 ^ 38) n none s; (some b, s)
  | (p + 1, a) =>
    let fault := (segsOf a n).any fun g => !(o.held.contains (p, g)) && (readFault (blkOf s p) g).isSome
    if fault then (none, s) else let (b, s) := readScratch p a n s; (some b, s)

/-- Hold a space as a local writer until the descriptor posts: none where a segment check of R183 fails. -/
def holdSpace (id w off n : Nat) (s : State) : Option State :=
  match colOf s id, spaceAt s w off with
  | none, _ => none
  | some _, (0, a) => some (s.modColOp id fun o => if o.hbm.contains (a, n) then o else { o with hbm := o.hbm ++ [(a, n)] })
  | some o, (p + 1, a) =>
    let new := (segsOf a n).filter fun g => !o.held.contains (p, g)
    if (firstFault (writeFault (blkOf s p)) new).isSome then none
    else some ((s.modBlk p (modSegs new SegSt.hold)).modColOp id fun o => { o with held := o.held ++ new.map fun g => (p, g) })

/-- Write a space that the descriptor holds. -/
def putSpace (w off : Nat) (bs : List Byte) (s : State) : State :=
  match spaceAt s w off with
  | (0, a) => writeBytes (a / 2 ^ 38) (a % 2 ^ 38) bs s
  | (p + 1, a) => s.modBlk p fun k => k.writeSp a bs

/-- Hold and write a space for element `k`, or note COL_SEG_STATE. -/
def writeSpace (id k w off : Nat) (bs : List Byte) (s : State) : State :=
  match holdSpace id w off bs.length s with
  | some s => putSpace w off bs s
  | none => s.modColOp id (ColOp.fail k 0x51)

/-- Elements of `w` bytes of two runs, added as closure values (R54). -/
def addElements (w : Nat) : Nat → List Byte → List Byte → List Byte
  | 0, _, _ => []
  | k + 1, a, b =>
    if a.length < w then a
    else leBytes w (closureAdd (8 * w) (leNat (a.take w)) (leNat (b.take w))) ++ addElements w k (a.drop w) (b.drop w)

/-- New bytes of a space under a landing code (table *Landing codes*). -/
def landed (code : Nat) (old new : List Byte) : List Byte :=
  match code with
  | 0 => new
  | 1 => addElements 4 (old.length / 4 + 1) old new
  | 2 => addElements 8 (old.length / 8 + 1) old new
  | _ => (old.zip new).map fun (x, y) => if x.toNat < y.toNat then y else x

/-! ### Slots (R367, R368, the slot tables) -/

/-- Ranks other than `i`, of `n`. -/
def othersOf (n i : Nat) : List Nat := (List.range n).filter (· != i)

/-- Place of staging slot `k` among `n` of which slot `own` is unused (R368). -/
def stagePlace (own k : Nat) : Nat := if own < k then k - 1 else k

/-- A count that A2AV or A2AX moves (R366). -/
def lowered (chunk n : Nat) : Nat := if n ≤ chunk ∧ n % 64 = 0 then n else min n chunk / 64 * 64

/-- What a descriptor's slots need to know: its table, this member's counts, and the offsets of its chunks. -/
structure ColPlan where
  d : ColDesc
  table : List Byte
  counts : List Nat
  /-- Bases of SRC_WIN and DST_WIN. -/
  bases : Nat × Nat := (0, 0)
  deriving DecidableEq, Repr


def ColPlan.src (x : ColPlan) (c : Nat) : Nat × Nat := (x.d.srcWin, x.d.srcOff + c * x.d.chunk)

def ColPlan.dst (x : ColPlan) (c : Nat) : Nat × Nat := (x.d.dstWin, x.d.dstOff + c * x.d.chunk)

/-- Chunk `c` of the source as a space of DST_WIN, which every claim and grant names: a RING sum lands there (R371; log 71). -/
def ColPlan.srcAsDst (x : ColPlan) (c : Nat) : Nat × Nat := (x.d.dstWin, x.bases.1 + (x.src c).2 - x.bases.2)

def ColPlan.stage (x : ColPlan) (bytes : Nat) : Nat × Nat := (x.d.dstWin, x.d.stageOff + bytes)

/-- A slot that is sent to rank `j` as its slot `k`: space there, size, source, code, and what it waits for. -/
def ColPlan.send (x : ColPlan) (j k : Nat) (at' : Nat × Nat) (size : Nat) (from' : Nat × Nat) (land : Nat := 0) (needs : List Nat := []) : SendSlot :=
  { dev := x.d.member x.table j, peg := x.d.pegBase + k, win := at'.1, off := at'.2, size := size, srcWin := from'.1, srcOff := from'.2,
    land := land, needs := needs }

def ColPlan.recv (x : ColPlan) (k : Nat) (at' : Nat × Nat) (size : Nat) (into : Option (Nat × Nat) := none) : RecvSlot :=
  { k := k, peg := x.d.pegBase + k, win := at'.1, off := at'.2, size := size, into := into }

/-- DIRECT slots. -/
def ColPlan.direct (x : ColPlan) : List SendSlot × List RecvSlot :=
  let d := x.d
  let p := d.p
  let r := d.rank
  let all := List.range p
  let oth := othersOf p r
  let staged := fun (into : Nat × Nat) (from' : Nat → Nat × Nat) =>
    (oth.map fun j => x.send j r (x.stage (stagePlace j r * d.chunk)) d.chunk (from' j),
     oth.map fun k => x.recv k (x.stage (stagePlace r k * d.chunk)) d.chunk (some into))
  match d.op with
  | 4 => (all.map fun j => x.send j r (x.dst r) d.chunk (x.src 0), all.map fun k => x.recv k (x.dst k) d.chunk)
  | 5 => staged (x.src r) x.src
  | 6 =>
    let (a, b) := staged (x.src r) x.src
    (a ++ all.map fun j => x.send j (p + r) (x.dst r) d.chunk (x.src r) 0 oth, b ++ all.map fun k => x.recv (p + k) (x.dst k) d.chunk)
  | 7 => staged (x.dst 0) fun _ => x.src 0
  | 8 => (if r = d.root then all.map fun j => x.send j 0 (x.dst 0) d.chunk (x.src 0) else [], [x.recv 0 (x.dst 0) d.chunk])
  | _ => (all.map fun j => x.send j r (x.dst r) (if d.varies then x.counts.getD j 0 else d.chunk) (x.src j),
          all.map fun k => x.recv k (x.dst k) d.chunk)

/-- RING slots. -/
def ColPlan.ring (x : ColPlan) : List SendSlot × List RecvSlot :=
  let d := x.d
  let p := d.p
  let r := d.rank
  let m := fun (i : Nat) => (r + 2 * p - i) % p
  let next := (r + 1) % p
  let steps := List.range (p - 1)
  let add := d.addCode
  let after := fun (s base : Nat) => if s = 0 then [] else [base + s - 1]
  let reduce := (steps.map fun s => x.send next s (x.srcAsDst (m (1 + s))) d.chunk (x.src (m (1 + s))) add (after s 0),
                 steps.map fun s => x.recv s (x.srcAsDst (m (2 + s))) d.chunk)
  match d.op with
  | 4 => ((steps.map fun s => x.send next s (x.dst (m s)) d.chunk (if s = 0 then x.src 0 else x.dst (m s)) 0 (after s 0))
            ++ [x.send r (p - 1) (x.dst r) d.chunk (x.src 0)],
          (steps.map fun s => x.recv s (x.dst (m (1 + s))) d.chunk) ++ [x.recv (p - 1) (x.dst r) d.chunk])
  | 5 => reduce
  | _ => (reduce.1 ++ (steps.map fun s =>
            x.send next (p - 1 + s) (x.dst (m s)) d.chunk (if s = 0 then x.src r else x.dst (m s)) 0 (steps ++ after s (p - 1)))
            ++ [x.send r (2 * p - 2) (x.dst r) d.chunk (x.src r) 0 steps],
          reduce.2 ++ (steps.map fun s => x.recv (p - 1 + s) (x.dst (m (1 + s))) d.chunk) ++ [x.recv (2 * p - 2) (x.dst r) d.chunk])

/-- TWO_LEVEL slots. -/
def ColPlan.twoLevel (x : ColPlan) : List SendSlot × List RecvSlot :=
  let d := x.d
  let c := d.chunk
  let n := d.l
  let gn := d.g
  let r := d.rank
  let g := r % gn
  let l := r / gn
  let grp := othersOf n l
  let col := othersOf gn g
  let big := gn * c
  let one := (grp.map fun l' => x.send (l' * gn + g) l (x.stage (stagePlace l' l * big)) big (x.src (l' * gn)),
              grp.map fun l' => x.recv l' (x.stage (stagePlace l l' * big)) big (some (x.src (l * gn))))
  let two := (col.map fun g' => x.send (l * gn + g') (n + g) (x.stage ((n - 1) * big + stagePlace g' g * c)) c (x.src (l * gn + g')) 0 grp,
              col.map fun g' => x.recv (n + g') (x.stage ((n - 1) * big + stagePlace g g' * c)) c (some (x.src r)))
  /- The gather of ALLREDUCE and of ALLGATHER, whose column slots start at `k`; `needs` are the slots of the reduce phase. -/
  let gather := fun (k : Nat) (from' : Nat × Nat) (needs : List Nat) =>
    (((List.range gn).map fun g' => x.send (l * gn + g') (k + g) (x.dst r) c from' 0 needs)
       ++ grp.map fun l' => x.send (l' * gn + g) (k + gn + l) (x.dst (l * gn)) big (x.dst (l * gn)) 0 (needs ++ (List.range gn).map (k + ·)),
     ((List.range gn).map fun g' => x.recv (k + g') (x.dst (l * gn + g')) c)
       ++ grp.map fun l' => x.recv (k + gn + l') (x.dst (l' * gn)) big)
  match d.op with
  | 4 => gather 0 (x.src 0) []
  | 5 => (one.1 ++ two.1, one.2 ++ two.2)
  | 6 =>
    let three := gather (n + gn) (x.src r) (grp ++ col.map (n + ·))
    (one.1 ++ two.1 ++ three.1, one.2 ++ two.2 ++ three.2)
  | 7 =>
    ((grp.map fun l' => x.send (l' * gn + g) l (x.stage (stagePlace l' l * c)) c (x.src 0))
       ++ col.map fun g' => x.send (l * gn + g') (n + g) (x.stage ((n - 1 + stagePlace g' g) * c)) c (x.dst 0) 0 grp,
     (grp.map fun l' => x.recv l' (x.stage (stagePlace l l' * c)) c (some (x.dst 0)))
       ++ col.map fun g' => x.recv (n + g') (x.stage ((n - 1 + stagePlace g g') * c)) c (some (x.dst 0)))
  | _ =>
    let inGroup := g == d.root % gn
    ((if r = d.root then (List.range n).map fun l' => x.send (l' * gn + g) 0 (x.dst 0) c (x.src 0) else [])
       ++ (if inGroup then col.map fun g' => x.send (l * gn + g') 1 (x.dst 0) c (x.dst 0) 0 [0] else []),
     [x.recv (if inGroup then 0 else 1) (x.dst 0) c])

def ColPlan.slots (x : ColPlan) : List SendSlot × List RecvSlot :=
  match x.d.alg with
  | 0 => x.direct
  | 1 => x.ring
  | _ => x.twoLevel


/-- Results of R363, as window, offset and bytes. -/
def ColDesc.results (d : ColDesc) : List (Nat × Nat × Nat) :=
  match d.op with
  | 5 => [(d.srcWin, d.srcOff + d.rank * d.chunk, d.chunk)]
  | 7 => [(d.dstWin, d.dstOff, d.chunk)]
  | 8 => [(d.dstWin, d.dstOff, d.chunk)]
  | _ => [(d.dstWin, d.dstOff, d.p * d.chunk)]

/-- Bytes of the used staging slots. -/
def ColDesc.stageBytes (d : ColDesc) : Nat :=
  if !d.stages then 0
  else if d.alg = 0 then (d.p - 1) * d.chunk
  else if d.op = 7 then (d.l - 1 + (d.g - 1)) * d.chunk
  else (d.l - 1) * (d.g * d.chunk) + (d.g - 1) * d.chunk

/-- The checks of R361. -/
def colStartOk (s : State) (d : ColDesc) (table : List Byte) : Bool :=
  let a := winOf s d.srcWin
  let b := winOf s d.dstWin
  let list := (List.range d.p).map (d.member table)
  let srcChunks := if d.op = 4 ∨ d.op = 7 ∨ d.op = 8 then 1 else d.p
  let dstChunks := if d.op = 5 then 0 else if d.op = 7 ∨ d.op = 8 then 1 else d.p
  s.fab.number == some (d.member table d.rank) && decide list.Nodup
    && a.st == 1 && b.st == 1 && b.entry.kind == 2 && (a.entry.kind == 2 || (a.entry.kind == 1 && !d.ringSum))
    && decide (d.srcOff + srcChunks * d.chunk ≤ a.entry.size) && decide (d.dstOff + dstChunks * d.chunk ≤ b.entry.size)
    && decide (d.stageOff + d.stageBytes ≤ b.entry.size)
    && (!d.varies || decide (d.counts + 4 * d.p ≤ b.entry.size)) && (d.op != 3 || decide (d.sizes + 4 * d.p ≤ a.entry.size))

/-! ### Completion (R378, R379) -/

/-- A tag that a slot holds goes into quarantine (R376). -/
def freeSlotTag (tag : Nat) (s : State) : State :=
  s.modRmt fun m => { m with track := m.track.set none tag none, quar := m.quar.set 0 tag (s.aon + 10000000 + 1) }

/-- Segments that the engine holds are released as it posts. -/
def releaseHeldSegs (o : ColOp) (s : State) : State := o.held.foldl (fun s (p, g) => s.modBlk p (modSeg g SegSt.drop)) s

/-- HBM addresses of the lines of a descriptor's results that its engine has written, each once. -/
def resultLines (o : ColOp) (s : State) : List Nat :=
  (colDesc o.raw).results.flatMap fun (w, off, n) =>
    match spaceAt s w off with
    | (0, a) => ((List.range (n / 64)).map (a + 64 * ·)).filter fun x => o.hbm.any fun (b, m) => decide (b ≤ x) && decide (x < b + m)
    | _ => []

/-- Terms of type 0x01 for the results that the engine has left in HBM (R65, R66). -/
def resultTerms (o : ColOp) (s : State) : State :=
  (resultLines o s).foldl (fun s a => digestLines (a / 2 ^ 38) (a % 2 ^ 38) (peekBytes s (a / 2 ^ 38) (a % 2 ^ 38) 64) s) s

/-- Write the status word as a local writer, where the region of its block can be reached and its segment takes a write. -/
def writeStatus (o : ColOp) (s : State) : State :=
  let loc := (colDesc o.raw).status
  match physOf s (loc / 2 ^ 23) with
  | some p =>
    let a := loc % 2 ^ 23
    let g := a / 4096
    let free := o.held.contains (p, g)
    if !pathUp s o.engine (p / 68) || (!free && (writeFault (blkOf s p) g).isSome) then s
    else
      let s := if free then s else s.modBlk p (modSeg g SegSt.hold)
      let s := s.modBlk p fun k => k.writeSp a (leBytes 4 o.status ++ leBytes 4 o.bad)
      if free then s else s.modBlk p (modSeg g SegSt.drop)
  | none => s

/-- A descriptor completes: record, status word, post; what it still holds is released. -/
def completeCol (id : Nat) (s : State) : State :=
  match colOf s id with
  | none => s
  | some o =>
    let d := colDesc o.raw
    let s := o.sends.foldl (fun s x => if x.st = 1 ∨ x.st = 2 ∨ x.st = 3 then freeSlotTag x.tag s else s) s
    let s := s.modCol fun c => { c with ops := c.ops.filter fun o => o.id != id }
    let s := resultTerms o s
    let s := if o.bad = 0 then s else record { level := 2, cls := 2, code := 0x30B, region := some o.engine, address := o.desc, detail := o.status } s
    let s := releaseHeldSegs o (writeStatus o s)
    match physOf s d.postBlk with
    | some p => if pathUp s o.engine (p / 68) then postCtr p d.postCtr 1 s else s
    | none => s

/-- End a descriptor with a code. -/
def endCol (code : Nat) (id : Nat) (s : State) : State :=
  completeCol id (s.modColOp id fun o => { o with fails := o.fails.set 0 0 code })

/-- The received-count list of A2AV and A2AX (R366), which comes after every slot. -/
def writeCounts (id : Nat) (s : State) : State :=
  match colOf s id with
  | none => s
  | some o =>
    let d := colDesc o.raw
    if d.varies then writeSpace id o.ownElement d.dstWin d.counts (o.recvs.flatMap fun r => leBytes 4 r.got) s else s

/-- The member's own sends have all ended. -/
def ColOp.sentAll (o : ColOp) : Bool := o.sends.all fun x => x.st == 4

/-- After a change: note the time at which the member's own sends have all ended (R384), and complete a descriptor whose slots are all
done. -/
def settleCol (id : Nat) (s : State) : State :=
  let s := s.modColOp id fun o => { o with quietAt := if o.sentAll then some (o.quietAt.getD s.aon) else none }
  match colOf s id with
  | none => s
  | some o => if o.sentAll && o.recvs.all (fun r => r.st == 2) then completeCol id (writeCounts id s) else s

/-! ### Sending (R371, R372, R375) -/

def modSend (i : Nat) (f : SendSlot → SendSlot) (o : ColOp) : ColOp := { o with sends := o.sends.modify i f }

/-- A slot that is sent ends; a code other than 0 is its failure. -/
def endSlot (tag code : Nat) (s : State) : State :=
  match reqOf s tag with
  | none => s
  | some q =>
    let s := (freeSlotTag tag s).modColOp q.op fun o =>
      let o := modSend q.idx (fun x => { x with st := 4 }) o
      if code = 0 then o else o.fail q.idx code
    settleCol q.op s

/-- Send the claim of slot `i` under a tag. -/
def sendClaim (id i tag : Nat) (x : SendSlot) (engine : Nat) (s : State) : State :=
  let pkt : Packet := { type := 0x14, base := 1, dst := x.dev, jobTag := s.job.tag, addr := x.dev * 2 ^ 51 + x.win * 2 ^ 41, tag := tag,
                        gen := (winOf s x.win).gen, payload := leBytes 8 x.peg }
  let q : Req := { pkt := pkt, op := id, idx := i, serial := s.rmt.serial, firstAt := s.aon, sentAt := s.aon, col := true }
  let s := s.modRmt fun m => { m with track := m.track.set none tag (some q), serial := m.serial + 1 }
  let s := s.modColOp id (modSend i fun x => { x with st := 1, tag := tag })
  if pathLost s engine pkt then endSlot tag 0x43 s else sendReq tag s

/-- Claims that wait for a tag or for an entry of the grants are sent while there are any. -/
def pumpSlots (id : Nat) : Nat → State → State
  | 0, s => s
  | n + 1, s =>
    match colOf s id with
    | none => s
    | some o =>
      match o.sends.zipIdx.find? fun (x, _) => x.st == 0, freeTag s o.engine with
      | some (x, i), some tag => if grantsTaken s < 16384 then pumpSlots id n (sendClaim id i tag x o.engine s) else s
      | _, _ => s

def pumpCols (s : State) : State :=
  (s.col.ops.map fun o => (o.id, o.sends.length)).foldl (fun s (id, n) => pumpSlots id n s) s

/-- Whatever waits for a tag or a grant goes on. -/
def pumpAll (s : State) : State := pumpCols (pumpClaims (pumpOps s))

/-- TAG_QUARANTINE_END (R333, R376): what waits for a tag goes on. -/
def execTagQuarantineEnd (tag : Fin 131072) (s : State) : Out :=
  let t := s.rmt.quar.get 0 tag
  if t ≠ 0 ∧ t - 1 ≤ s.aon then .next (pumpAll (s.modRmt fun m => { m with quar := m.quar.set 0 tag 0 })) else .next s

/-- SEQ_CH of a slot's packets: peg and TOTAL. -/
def SendSlot.seqCh (x : SendSlot) : Nat := x.peg + x.size / 64 * 2 ^ 14

/-- The COL packets of a slot: one for each 4,096-byte piece, or one of LEN 0 (R372). -/
def colPackets (s : State) (x : SendSlot) (gen : Nat) (bs : List Byte) : List Packet :=
  (List.range (max 1 ((x.size + 4095) / 4096))).map fun i =>
    let w := x.seqCh
    { type := 0x40, base := 5, dst := x.dev, jobTag := s.job.tag, addr := x.dev * 2 ^ 51 + x.win * 2 ^ 41 + x.off + 4096 * i, tag := x.tag,
      gen := gen + x.land * 2 ^ 12, seq := w % 2 ^ 24, ch := w / 2 ^ 24, payload := slice bs (4096 * i) (min 4096 (x.size - 4096 * i)) }

/-- Send every packet of a slot; the first time each payload line is a digest term (R375). -/
def sendSlotData (tag : Nat) (first : Bool) (o : ColOp) (x : SendSlot) (q : Req) (s : State) : State :=
  match readSpace o x.srcWin x.srcOff x.size s with
  | (none, s) => pumpAll (endSlot tag 0x51 s)
  | (some bs, s) =>
    let s := (colPackets s x q.pkt.gen bs).foldl (fun s p =>
      let s := if first then payloadTerms o.engine p s else s
      if isFenced s p.dst then s else originate o.engine p s) s
    settleCol o.id ((s.modReq tag fun q => { q with sentAt := s.aon }).modColOp o.id (modSend q.idx fun x => { x with st := 3 }))

/-- COL_SLOT_SEND (R369): the slot's grant is held and its data is final. -/
def execColSlotSend (tag : Fin 131072) (errs : List ReadErr) (s : State) : Out :=
  meeting errs (fun s =>
    match reqOf s tag with
    | some q =>
      if !q.col then .next s
      else match colOf s q.op with
      | some o =>
        match o.sends[q.idx]? with
        | some x =>
          if x.st = 2 && (x.needs.all fun k => o.recvs.all fun r => r.k != k || r.st == 2) then
            .next (sendSlotData tag true o x q (s.modReq tag fun q => { q with tries := 0 }))
          else .next s
        | none => .next s
      | none => .next s
    | none => .next s) s

/-- A claim of a slot has its grant (R371): one that does not match ends the slot with ACCESS. -/
def slotGranted (tag window off bytes : Nat) (s : State) : State :=
  match reqOf s tag with
  | none => s
  | some q =>
    match (colOf s q.op).bind fun o => o.sends[q.idx]? with
    | some x =>
      if x.st ≠ 1 then s
      else if window = x.win ∧ off = x.off ∧ x.size ≤ bytes then
        settleCol q.op ((s.modReq tag fun q => { q with wait := .granted }).modColOp q.op (modSend q.idx fun x => { x with st := 2 }))
      else endSlot tag 2 s
    | none => s

/-! ### Landing and combining (R373, R374, R377) -/

/-- Combine a landed staging slot into its result. -/
def combineSlot (id : Nat) (r : RecvSlot) (s : State) : State :=
  match colOf s id, r.into with
  | some o, some (w, off) =>
    let d := colDesc o.raw
    match readSpace o r.win r.off r.size s with
    | (none, s) => s.modColOp id (ColOp.fail (o.recvElement r.k) 0x51)
    | (some new, s) =>
      match holdSpace id w off r.size s with
      | none => s.modColOp id (ColOp.fail (o.recvElement r.k) 0x51)
      | some s =>
        let o' := (colOf s id).getD o
        match readSpace o' w off r.size s with
        | (some old, s) => putSpace w off (landed (if d.op = 7 then 3 else d.addCode) old new) s
        | (none, s) => s.modColOp id (ColOp.fail (o.recvElement r.k) 0x51)
  | _, _ => s

/-- A slot of a descriptor in progress has landed, and is combined at once (R377). The wait of R384 hears it when it falls within
DEAD_US. -/
def takeLanding (id k bytes : Nat) (s : State) : State :=
  match (colOf s id).bind fun o => o.recvs.find? fun r => r.k == k with
  | none => s
  | some r =>
    let s := combineSlot id r s
    settleCol id (s.modColOp id fun o =>
      { o with recvs := o.recvs.map (fun x => if x.k = k then { x with st := 2, got := bytes } else x),
               heard := o.heard || (match o.quietAt with | some t => decide (s.aon < t + 50 * s.rmt.timers.dead) | none => false) })

/-- The slot that waits for a landing under a peg of a window. -/
def slotFor (s : State) (w peg : Nat) : Option (Nat × Nat) :=
  s.col.ops.findSome? fun o => (o.recvs.find? fun r => r.win == w && r.peg == peg && r.st == 0).map fun r => (o.id, r.k)

/-- A landing has completed: its slot takes it, or it waits for its descriptor to start. -/
def noteLanding (w peg bytes : Nat) (s : State) : State :=
  match slotFor s w peg with
  | some (id, k) => takeLanding id k bytes s
  | none => s.modCol fun c => { c with early := c.early ++ [(w, peg, bytes)] }

/-- A fabric address of this device: a shadow stands for the device that it shadows (R490). -/
def addressedHere (s : State) (d : Nat) : Bool :=
  match s.mem.shadow with
  | some sh => d == sh.partner
  | none => s.fab.number == some d

/-- The checks of R373 after the job tag, but for the piece's bit. -/
def colLands (s : State) (p : Packet) (q : Peg) : Bool :=
  let w := addrWindow p.addr
  let x := winOf s w
  let at' := x.entry.base + addrOffset p.addr
  let n := p.payload.length
  let land := p.gen / 4096 % 4
  let total := (p.seqCh) / 2 ^ 14
  q.out && q.window == w && addressedHere s (addrDevice p.addr) && q.grant == some p.src && q.tag == p.tag && q.gen == p.gen % 4096
    && decide (q.sp ≤ at') && decide (at' + n ≤ q.sp + q.bytes)
    && (match q.total with | some t => t == total | none => true)
    && (match land with
      | 1 => addrOffset p.addr % 4 == 0 && n % 4 == 0
      | 2 => addrOffset p.addr % 8 == 0 && n % 8 == 0
      | _ => true)

/-- A COL packet at its target (R373, R374): a sum or maximum reads the old bytes as R177 says, and the ACK leaves as soon as a slot of the reply
output is free. -/
def handleCol (c : Carried) (s : State) : State :=
  let p := c.pkt
  let n := p.seqCh % 2 ^ 14
  let q := pegOf s n
  let at' := (winOf s (addrWindow p.addr)).entry.base + addrOffset p.addr
  let piece := (at' - q.sp) / 4096
  let ack := fun (s : State) =>
    if s.mem.shadow.isSome then s else queueAck (q.block / 68) (replyPacket p.src p.tag p.gen p.seq p.ch 0x31 (leBytes 8 0) s) s
  if p.jobTag ≠ s.job.tag then fabCount 2 s
  else if q.doneCol && q.done == some (p.src, p.tag, p.gen % 4096) && !(q.out && q.grant == some p.src && q.tag == p.tag) then ack (colCount 0 1 s)
  else if !colLands s p q || !pathUp s c.region (q.block / 68) then colCount 1 1 s
  else if q.pieces.contains piece then colCount 0 1 s
  else
    let total := p.seqCh / 2 ^ 14
    let land := p.gen / 4096 % 4
    let (old, s) := if land = 0 then (p.payload, s) else readScratch q.block at' p.payload.length s
    let s := landBytes n at' (landed land old p.payload) s
    let s := s.modPeg n fun q => { q with total := some total, pieces := q.pieces ++ [piece] }
    if (pegOf s n).landed = 64 * total then ack (noteLanding q.window n (64 * total) (completePeg n true s)) else s

/-- COL (R373). -/
def execCol (errs : List ReadErr) (s : State) : Out :=
  meeting errs (fun s =>
    match s.fab.colIn with
    | [] => .next s
    | c :: rest => if targetRuns s then .next (handleCol c (s.modFab fun f => { f with colIn := rest })) else .next s) s

/-! ### Starting a descriptor (R357, R361, R362) -/

/-- A collective of engine `e` involves a region that is lost, or that the engine cannot reach and be reached from (R463). -/
def colLost (s : State) (e : Nat) (d : ColDesc) : Bool :=
  let wins := [winOf s d.srcWin, winOf s d.dstWin].filter fun x => x.entry.kind != 0
  let rs := wins.map (fun x => winRegion x.entry) ++ [d.startBlk / 64, d.postBlk / 64, d.status / 2 ^ 23 / 64]
  rs.any fun r => !roundTrip s e r

/-- Counts that A2AV and A2AX send: from the size list in the table, or from the send list in SRC_WIN; none where that list cannot
be read (R366). -/
def sendCounts (o : ColOp) (d : ColDesc) (table : List Byte) (s : State) : Option (List Nat) × State :=
  let words := fun (b : List Byte) (a : Nat) => (List.range d.p).map fun j => field b (a + 4 * j) 4
  if d.op = 2 then (some (words table d.sizes), s)
  else if d.op = 3 then
    match readSpace o d.srcWin d.sizes (4 * d.p) s with
    | (some b, s) => (some (words b 0), s)
    | (none, s) => (none, s)
  else (some [], s)

/-- Landings that came before the descriptor, oldest first. -/
def takeEarly (id : Nat) (s : State) : State :=
  s.col.early.foldl (fun s (w, peg, n) =>
    match (colOf s id).bind fun o => o.recvs.find? fun r => r.win == w && r.peg == peg && r.st == 0 with
    | some r => takeLanding id r.k n (s.modCol fun c => { c with early := c.early.erase (w, peg, n) })
    | none => s) s

/-- The slots of a descriptor that passed its checks: lowered counts are told, DATUM's copy is made, and every claim is sent. -/
def openCol (id : Nat) (d : ColDesc) (table : List Byte) (s : State) : State :=
  match colOf s id with
  | none => s
  | some o =>
    let (counts, s) := sendCounts o d table s
    let given := counts.getD []
    let list := given.map (lowered d.chunk)
    let low := given.zipIdx.filterMap fun (n, j) => if lowered d.chunk n = n then none else some j
    let bases := ((winOf s d.srcWin).entry.base, (winOf s d.dstWin).entry.base)
    let (sends, recvs) := ColPlan.slots { d := d, table := table, counts := list, bases := bases }
    let unread := counts.isNone
    let s := s.modColOp id fun o =>
      let o' : ColOp := { o with sends := if unread then sends.map (fun x => { x with st := 4 }) else sends, recvs := recvs }
      if unread then (List.range sends.length).foldl (fun o k => o.fail k 0x51) o' else low.foldl (fun o k => o.fail k 0x52) o'
    let s := if low.isEmpty then s else colCount 3 low.length s
    let s := if d.op = 7 then
        match readSpace o d.srcWin d.srcOff d.chunk s with
        | (some b, s) => writeSpace id (sends.length + recvs.length) d.dstWin d.dstOff b s
        | (none, s) => s.modColOp id (ColOp.fail (sends.length + recvs.length) 0x51)
      else s
    settleCol id (takeEarly id (pumpSlots id sends.length s))

/-- The descriptor that engine `e` may start now. -/
def startable (s : State) (e : Nat) : Option Nat :=
  let table := colTable s
  match nextDesc table e (field table 0 4 + 1) (s.col.next.get 0 e) with
  | none => none
  | some i =>
    let d := colDesc (slice table (16 + 128 * i) 128)
    let ready := !d.startEn || (match physOf s d.startBlk with | some p => reached (ctrOf (blkOf s p) d.startCtr) d.startValue | none => false)
    if legRuns s && regionUp s e && decide ((s.col.ops.filter fun o => o.engine == e).length < 8) && ready then some i else none

/-- Start the next descriptor of engine `e` when its OP is `op`. -/
def colStep (op : Nat) (e : Fin 4) (s : State) : Out :=
  match startable s e with
  | none => .next s
  | some i =>
    let table := colTable s
    let raw := slice table (16 + 128 * i) 128
    let d := colDesc raw
    if d.op ≠ op then .next s
    else
      let id := s.col.nextId
      let o : ColOp := { id := id, engine := e, desc := i, raw := raw }
      let s := s.modCol fun c => { c with next := c.next.set 0 e (i + 1), nextId := id + 1, ops := c.ops ++ [o] }
      if colLost s e d then .next (endCol 0x43 id s)
      else if !colStartOk s d table then .next (endCol 0x50 id s)
      else .next (openCol id d table s)

def execA2a (engine : Fin 4) (s : State) : Out := colStep 1 engine s
def execA2av (engine : Fin 4) (s : State) : Out := colStep 2 engine s
def execA2ax (engine : Fin 4) (s : State) : Out := colStep 3 engine s
def execAllgather (engine : Fin 4) (s : State) : Out := colStep 4 engine s
def execReduceScatter (engine : Fin 4) (s : State) : Out := colStep 5 engine s
def execAllreduce (engine : Fin 4) (s : State) : Out := colStep 6 engine s
def execCollectiveDatum (engine : Fin 4) (s : State) : Out := colStep 7 engine s
def execBroadcast (engine : Fin 4) (s : State) : Out := colStep 8 engine s

/-! ### Unresponsive targets (R355, R375, R384) -/

/-- RMT_TIMEOUT (R355); `flags` are the event's. -/
def timeoutEvent (q : Req) (type tag flags : Nat) (s : State) : State :=
  raiseEvent 0x58 0 (leBytes 2 q.pkt.dst ++ leBytes 1 flags ++ leBytes 1 type ++ leBytes 4 tag ++ leBytes 8 q.pkt.addr) s

/-- What becomes of a slot whose target is unresponsive: TARGET_LOST in RECOVERY, held in SERVICE; the target is reported suspect in either mode (R480). -/
def slotUnresponsive (tag type : Nat) (s : State) : State :=
  match reqOf s tag with
  | none => s
  | some q =>
    if s.fab.recovery then pumpAll (endSlot tag 0x42 (timeoutEvent q type tag 2 (sendHealth 1 q.pkt.dst s)))
    else sendHealth 1 q.pkt.dst (timeoutEvent q type tag 0 (s.modReq tag fun q => { q with wait := .dead }))

/-- COL_RESEND (R375): E2E_US without an ACK, or a fenced destination. -/
def execColResend (tag : Fin 131072) (s : State) : Out :=
  match reqOf s tag with
  | none => .next s
  | some q =>
    match (colOf s q.op).bind fun o => o.sends[q.idx]?.map fun x => (o, x) with
    | none => .next s
    | some (o, x) =>
      if !q.col || x.st ≠ 3 || q.wait == .dead then .next s
      else if isFenced s x.dev then .next (slotUnresponsive tag 0x40 s)
      else if s.aon < q.sentAt + 50 * s.rmt.timers.e2e then .next s
      else if q.tries < s.rmt.timers.retries then
        .next (sendSlotData tag false o x q (colCount 2 1 (s.modReq tag fun q => { q with tries := q.tries + 1 })))
      else .next (slotUnresponsive tag 0x40 s)

/-- Poison a space of `n` bytes from `off` on, in each segment that the engine holds or may write (R384). -/
def poisonSpace (id w off n : Nat) (pat : List Byte) (s : State) : State :=
  (List.range (n / 4096)).foldl (fun s i =>
    match holdSpace id w (off + 4096 * i) 4096 s with
    | some s => putSpace w (off + 4096 * i) pat s
    | none => s) s

/-- One segment of poison (R54, R384). -/
def colPoison (d : ColDesc) : List Byte :=
  if d.sums then (List.replicate (4096 / (if d.wide then 8 else 4)) (leBytes (if d.wide then 8 else 4) (closurePoison (if d.wide then 64 else 32)))).flatten
  else List.replicate 4096 0xFF

/-- COLLECTIVE_DEAD_US (R384): no slot has landed within DEAD_US after the member's own sends have all ended (log 72). -/
def execCollectiveDeadUs (id : Nat) (s : State) : Out :=
  match colOf s id with
  | none => .next s
  | some o =>
    match o.quietAt with
    | none => .next s
    | some t =>
      if s.fab.recovery && !o.heard && decide (t + 50 * s.rmt.timers.dead ≤ s.aon) && o.recvs.any (fun r => r.st == 0) then
        let d := colDesc o.raw
        let s := d.results.foldl (fun s (w, off, n) => poisonSpace id w off n (colPoison d) s) s
        .next (pumpAll (endCol 0x42 id s))
      else .next s

/-! ### The end of a job or of a region (R385, R463) -/

/-- Every descriptor in progress ends with a code, and piece maps and completed-landing records are cleared. -/
def abortCols (code : Nat) (s : State) : State :=
  let s := (s.col.ops.map fun o => o.id).foldl (fun s id => endCol code id s) s
  let s := s.modCol fun c => { c with next := [], early := [] }
  s.modRmt fun m =>
    let peg := m.peg.map fun (k, q) => (k, { q with pieces := [], done := none, doneCol := false })
    { m with peg := peg.filter fun e => e.2 != {} }

/-- A region reset ends the descriptors of its own engine with REGION_LOST (R385). -/
def loseEngine (r : Nat) (s : State) : State :=
  ((s.col.ops.filter fun o => o.engine == r).map fun o => o.id).foldl (fun s id => endCol 0x43 id s) s

/-- Descriptors that involve a lost region end with REGION_LOST. -/
def loseCols (s : State) : State :=
  ((s.col.ops.filter fun o => !(regionUp s o.engine) || colLost s o.engine (colDesc o.raw)).map fun o => o.id).foldl
    (fun s id => endCol 0x43 id s) s

end Sys2Proof.Machine
end

