-- ==== Sys2Proof/Machine/Copies.lean ====
section
/-! DEFINITION. Buddy checkpoints and fills: the management core's own requests, the image, and what each reply does (R481 to
R486). -/

namespace Sys2Proof.Machine

open Sys2Proof

def State.modMem (f : Member → Member) (s : State) : State := { s with mem := f s.mem }

/-! ### Requests of the management core -/

/-- Issue one request for command `cmd` on channel 63 of region 0 (R482). -/
def coreRequest (cmd kind jobTag : Nat) (type addr : Nat) (payload : List Byte) (s : State) : State :=
  let dst := addrDevice addr
  let id := s.blks.nextId
  let s := s.modBlks fun x => { x with nextId := id + 1 }
  let gen := if type = 0x17 then 0 else (Config.mgmtGen dst (addrWindow addr)).toNat
  let pkt : Packet := { type := type, base := 1, dst := dst, jobTag := jobTag, addr := if type = 0x17 then 0 else addr, gen := gen, ch := 63,
                        payload := payload }
  let (p, s) := numbered pkt 0 s
  placeOp { id := id, block := mgmtCore, region := 0, kind := kind, desc := cmd, serial := p.serial, loc := 0, len := 0, status := 0, dst := dst,
            remote := addr, ch := 63, todo := [p], left := 1 } s

/-- The request in progress of command `cmd` is dropped with its tag: no reply to it is taken any more. -/
def dropCore (cmd : Nat) (s : State) : State :=
  let mine := (s.rmt.ops.filter fun (_, o) => match o with | some o => o.block == mgmtCore && o.desc == cmd | none => false).map fun e => e.1
  s.modRmt fun m =>
    { m with ops := m.ops.keep (fun k _ => !mine.contains k),
             track := m.track.keep fun _ q => match q with | some q => q.col || !mine.contains q.op | none => true }

/-! ### The shape class -/

/-- Logical blocks of a class, ascending (R70). -/
def classList (blocks : List Nat) : List Nat := (List.range 256).filter fun b => decide (b % 64 < blocks.getD (b / 64) 0)

def loadedClass (s : State) : List Nat := match s.job.trav with | some t => classList t.classBlocks | none => []

/-- Bytes of the usable space of region `r`. -/
def usableBytes (s : State) (r : Nat) : Nat := (pmapOf s r).usable * 2 ^ 21

/-- An HBM range of R197 that lies in one region's usable space. -/
def inUsable (s : State) (a n : Nat) : Bool := decide (a < 2 ^ 40) && decide (a % 2 ^ 38 + n ≤ usableBytes s (a / 2 ^ 38))

/-- Ranges that do not overlap. -/
def disjoint : List (Nat × Nat) → Bool
  | [] => true
  | (a, n) :: rest => rest.all (fun (b, m) => decide (a + n ≤ b) || decide (b + m ≤ a)) && disjoint rest

/-- Range list entries (R481). -/
def rangeList (b : List Byte) (count : Nat) : List (Nat × Nat) := (List.range count).map fun i => (field b (16 * i) 8, field b (16 * i + 8) 8)

def rangeBytes (rs : List (Nat × Nat)) : List Byte := rs.flatMap fun (a, n) => leBytes 8 a ++ leBytes 8 n

def rangesOk (s : State) (rs : List (Nat × Nat)) : Bool :=
  rs.all (fun (a, n) => a % 4096 == 0 && n % 4096 == 0 && decide (0 < n) && inUsable s a n) && disjoint rs

/-- HBM address of byte `pos` of the ranges in order. -/
def rangeAt : List (Nat × Nat) → Nat → Nat
  | [], _ => 0
  | (a, n) :: rest, pos => if pos < n then a + pos else rangeAt rest (pos - n)

def rangeTotal (rs : List (Nat × Nat)) : Nat := (rs.map fun e => e.2).sum

/-! ### The image (R482; the layout within each section is the model's, log 78) -/

def blockRecordBytes : Nat := 6328320

/-- What follows the scratchpad in a block's record. -/
def blockTail (k : Block) : List Byte :=
  padTo 36864 (((List.range 1536).map fun i => BitVec.ofNat 8 (segCode (segOf k i))) ++ ((List.range 64).flatMap fun c => leBytes 4 (ctrOf k c))
    ++ k.imem.readN 0 16384 ++ k.dmem.readN 0 16384 ++ (List.range 4).flatMap fun t => leBytes 2 (k.base.get 0 t))

/-- Segment of a state code; a FILLING one is under a peg that is landing. -/
def segFromCode (c : Nat) : SegSt :=
  match c with
  | 1 => { st := .owned }
  | 2 => { st := .filling, landing := true }
  | 3 => { st := .lent }
  | 4 => { st := .ready }
  | _ => {}

/-- A table from a list of values at keys 0, 1, and so on. -/
def tableOf {α : Type} [DecidableEq α] (d : α) (xs : List α) : Table α := (xs.zipIdx.filter fun (x, _) => !decide (x = d)).map fun (x, i) => (i, x)

/-- A block from its record, its scratchpad already in place. -/
def withTail (t : List Byte) (k : Block) : Block :=
  { k with seg := tableOf {} ((List.range 1536).map fun i => segFromCode (field t i 1)),
           ctr := tableOf 0 ((List.range 64).map fun c => field t (1536 + 4 * c) 4),
           imem := tableOf 0 (slice t 1792 16384), dmem := tableOf 0 (slice t 18176 16384),
           base := tableOf 0 ((List.range 4).map fun i => field t (34560 + 2 * i) 2) }

/-- Section 2: every window as a map entry with its subscribers, and states and generations in the last 4,096 bytes. -/
def windowSection (s : State) : List Byte :=
  let ws := (List.range 1024).map (winOf s)
  let (rows, subs) := ws.zipIdx.foldl (fun (acc : List Byte × List Nat) (x, w) =>
    let e := x.entry
    (acc.1 ++ leBytes 2 w ++ leBytes 1 e.kind ++ leBytes 1 e.flags ++ leBytes 1 e.block ++ zeros 3 ++ leBytes 8 e.base ++ leBytes 8 e.size
      ++ leBytes 2 acc.2.length ++ leBytes 1 e.subs.length ++ zeros 5, acc.2 ++ e.subs)) ([], [])
  padTo 61440 (leBytes 2 1024 ++ leBytes 2 subs.length ++ zeros 12 ++ rows ++ subs.flatMap (leBytes 2))
    ++ ws.flatMap fun x => leBytes 2 x.st ++ leBytes 2 x.gen

def windowsFrom (b : List Byte) : Table Window :=
  tableOf {} ((List.range 1024).map fun w => { st := field b (61440 + 4 * w) 2, gen := field b (61440 + 4 * w + 2) 2, entry := (mapEntry b w).2 })

/-- A table of numbers as a count and pairs, in `n` bytes. -/
def pairSection (n : Nat) (t : Table Nat) : List Byte := padTo n (leBytes 8 t.length ++ t.flatMap fun (k, v) => leBytes 4 k ++ leBytes 4 v)

def pairsFrom (b : List Byte) : Table Nat := (List.range (field b 0 8)).map fun i => (field b (8 + 8 * i) 4, field b (12 + 8 * i) 4)

def contextSection (s : State) : List Byte := pairSection 0x100000 s.rmt.ctx ++ pairSection 0x100000 s.rmt.seq

def pegBytes (p : Peg) : List Byte :=
  let flags := bitAt p.out 0 + bitAt p.grant.isSome 1 + bitAt p.total.isSome 2 + bitAt p.done.isSome 3 + bitAt p.doneCol 4
  let d := p.done.getD (0, 0, 0)
  padTo 128 (leBytes 1 flags ++ leBytes 1 p.ctr ++ leBytes 2 p.window ++ leBytes 2 p.gen ++ zeros 2 ++ leBytes 4 p.sp ++ leBytes 4 p.bytes
    ++ leBytes 2 (p.grant.getD 0) ++ zeros 2 ++ leBytes 4 p.tag ++ leBytes 4 p.landed ++ leBytes 4 (p.total.getD 0) ++ leBytes 2 d.1 ++ zeros 2
    ++ leBytes 4 d.2.1 ++ leBytes 4 d.2.2)

def claimBytes (c : Option Claim) : List Byte :=
  match c with
  | none => zeros 64
  | some c => padTo 64 (leBytes 2 1 ++ leBytes 2 c.src ++ leBytes 2 c.gen ++ leBytes 2 c.window ++ leBytes 4 c.tag ++ leBytes 4 c.seq ++ leBytes 4 c.ch)

/-- Section 4: pegs, claims, and grants held. -/
def pegSection (s : State) : List Byte :=
  ((List.range 16384).flatMap fun n => pegBytes (pegOf s n)) ++ ((List.range 16384).flatMap fun n => claimBytes (pegOf s n).claim)
    ++ padTo 0x100000 (leBytes 8 s.rmt.grants.length ++ s.rmt.grants.flatMap fun (k, g) =>
      match g with
      | some g => leBytes 8 k ++ leBytes 4 g.gen ++ zeros 4 ++ leBytes 8 g.off ++ leBytes 4 g.bytes ++ leBytes 4 g.sent
      | none => zeros 32)

/-- Peg `n` of a section, whose block is the one that serves its window's logical block here. -/
def pegFrom (s : State) (b : List Byte) (n : Nat) : Peg :=
  let a := 128 * n
  let f := field b a 1
  let c := 0x200000 + 64 * n
  let w := field b (a + 2) 2
  { out := bit f 0, window := w, gen := field b (a + 4) 2, block := (physOf s (winOf s w).entry.block).getD 0, sp := field b (a + 8) 4,
    bytes := field b (a + 12) 4, ctr := field b (a + 1) 1, grant := if bit f 1 then some (field b (a + 16) 2) else none, tag := field b (a + 20) 4,
    landed := field b (a + 24) 4, total := if bit f 2 then some (field b (a + 28) 4) else none,
    done := if bit f 3 then some (field b (a + 32) 2, field b (a + 36) 4, field b (a + 40) 4) else none, doneCol := bit f 4,
    claim := if field b c 2 = 1 then
        some { src := field b (c + 2) 2, gen := field b (c + 4) 2, window := field b (c + 6) 2, tag := field b (c + 8) 4, seq := field b (c + 12) 4,
               ch := field b (c + 16) 4 }
      else none }

def grantsFrom (b : List Byte) : Table (Option Grant) :=
  (List.range (field b 0x300000 8)).map fun i =>
    let a := 0x300008 + 32 * i
    (field b a 8, some { gen := field b (a + 8) 4, off := field b (a + 16) 8, bytes := field b (a + 24) 4, sent := field b (a + 28) 4 })

/-- An entry of `FENCE_TABLE`. -/
def fenceWord (f : Fenced) : Nat := bitAt f.fenced 63 + f.epoch

def fenceSection (s : State) : List Byte := (List.range 8192).flatMap fun d => leBytes 8 (fenceWord (s.mem.fence.get {} d))

def fencesFrom (b : List Byte) : Table Fenced :=
  tableOf {} ((List.range 8192).map fun d => { fenced := bit (field b (8 * d) 8) 63, epoch := field b (8 * d) 8 % 2 ^ 32 })

/-- Starts of the sections after `n` block records, and their sizes. -/
def tableStart (n i : Nat) : Nat :=
  n * blockRecordBytes + (match i with | 0 => 0 | 1 => 0x10000 | 2 => 0x210000 | 3 => 0x610000 | _ => 0x620000)

def imageSize (n : Nat) : Nat := tableStart n 4

/-- 4,096 bytes of the image from byte `pos` on, and the state after: the scratchpads are read as R177 says. -/
def imagePiece (s : State) (pos : Nat) : List Byte × State :=
  let bs := loadedClass s
  let n := bs.length
  if pos < n * blockRecordBytes then
    let q := pos % blockRecordBytes
    match physOf s (bs.getD (pos / blockRecordBytes) 0) with
    | some p => if q < 6291456 then readScratch p q 4096 s else (slice (blockTail (blkOf s p)) (q - 6291456) 4096, s)
    | none => (if q < 6291456 then zeros 4096 else slice (blockTail {}) (q - 6291456) 4096, s)
  else if pos < tableStart n 1 then (slice (windowSection s) (pos - tableStart n 0) 4096, s)
  else if pos < tableStart n 2 then (slice (contextSection s) (pos - tableStart n 1) 4096, s)
  else if pos < tableStart n 3 then (slice (pegSection s) (pos - tableStart n 2) 4096, s)
  else (slice (fenceSection s) (pos - tableStart n 3) 4096, s)

/-- Take 4,096 bytes of an image at `pos`; `buf` holds the section's bytes before them. It answers the section's bytes still to be
read into state. -/
def putImage (pos : Nat) (buf bs : List Byte) (s : State) : List Byte × State :=
  let cls := loadedClass s
  let n := cls.length
  let whole := buf ++ bs
  let endsAt := fun (stop : Nat) => decide (pos + 4096 = stop)
  if pos < n * blockRecordBytes then
    let b := cls.getD (pos / blockRecordBytes) 0
    let q := pos % blockRecordBytes
    match physOf s b with
    | none => ([], s)
    | some p =>
      if q < 6291456 then ([], s.modBlk p fun k => k.writeSp q bs)
      else if q + 4096 = blockRecordBytes then ([], s.modBlk p (withTail whole))
      else (whole, s)
  else if endsAt (tableStart n 1) then ([], s.modRmt fun m => { m with win := windowsFrom whole })
  else if endsAt (tableStart n 2) then ([], s.modRmt fun m => { m with ctx := pairsFrom whole, seq := pairsFrom (whole.drop 0x100000) })
  else if endsAt (tableStart n 3) then
    ([], s.modRmt fun m => { m with peg := tableOf {} ((List.range 16384).map (pegFrom s whole)), grants := grantsFrom whole })
  else if endsAt (tableStart n 4) then ([], s.modMem fun m => { m with fence := fencesFrom whole })
  else (whole, s)

/-! ### The checkpoint digest (R482) -/

/-- Digest of the lines of a run of bytes that begins at a line. -/
def copyDigest (key type addr : Nat) (bs : List Byte) : Nat :=
  ((List.range (bs.length / 64)).map fun i =>
    (sipHash (BitVec.ofNat 64 (key % 2 ^ 64)) (BitVec.ofNat 64 (key / 2 ^ 64)) (digestMsg type (addr + 64 * i) fullMask (slice bs (64 * i) 64))).toNat).sum
    % 2 ^ 64

/-! ### Checkpoints -/

def ckptOf (s : State) (cmd : Nat) : Option Ckpt := s.mem.ckpts.find? fun k => k.cmd == cmd

def State.modCkpt (cmd : Nat) (f : Ckpt → Ckpt) (s : State) : State :=
  s.modMem fun m => { m with ckpts := m.ckpts.map fun k => if k.cmd = cmd then f k else k }

/-- Offset of the first range's bytes in the copy space. -/
def copyData (count : Nat) : Nat := 4096 * (1 + (count + 255) / 256)

/-- The copy header. -/
def copyHeader (s : State) (k : Ckpt) : List Byte :=
  leBytes 4 0x4B444350 ++ leBytes 6 k.station ++ leBytes 2 (s.fab.number.getD 0) ++ leBytes 4 s.job.tag ++ leBytes 2 k.list.length
    ++ leBytes 1 (bitAt k.image 0) ++ zeros 5 ++ leBytes 8 (if k.image then imageSize (loadedClass s).length else 0) ++ leBytes 8 k.digest ++ zeros 24

/-- Send what the checkpoint's phase and place ask for. -/
def ckptSend (cmd : Nat) (s : State) : State :=
  match ckptOf s cmd with
  | none => s
  | some k =>
    let store := fun (off : Nat) (bs : List Byte) (s : State) => coreRequest cmd 6 s.job.tag 0x11 (k.addr + off) bs s
    match k.phase with
    | 1 => store 0 (zeros 4) s
    | 2 => store (4096 + k.pos) ((rangeBytes k.list).drop k.pos |>.take 4096) s
    | 3 =>
      let a := rangeAt k.list k.pos
      let (bs, _, s) := readBytes (a / 2 ^ 38) (a % 2 ^ 38) 4096 none s
      let s := s.modCkpt cmd fun k => { k with digest := (k.digest + copyDigest s.job.key 4 a bs) % 2 ^ 64 }
      store (copyData k.list.length + k.pos) bs s
    | 4 =>
      let r := imagePiece s k.pos
      let s := r.2.modCkpt cmd fun k => { k with digest := (k.digest + copyDigest s.job.key 5 k.pos r.1) % 2 ^ 64 }
      store (copyData k.list.length + rangeTotal k.list + k.pos) r.1 s
    | 6 => store 0 (copyHeader s k) s
    | _ => coreRequest cmd 11 s.job.tag 0x17 k.addr [] s

/-- Phase and place after a request that ended OK. -/
def Ckpt.after (k : Ckpt) (blocks : Nat) : Ckpt :=
  let onward := fun (total next : Nat) => if k.pos + 4096 < total then { k with pos := k.pos + 4096 } else { k with phase := next, pos := 0 }
  match k.phase with
  | 1 => { k with phase := 2 }
  | 2 => onward (16 * k.list.length) 3
  | 3 => onward (rangeTotal k.list) (if k.image then 4 else 5)
  | 4 => onward (imageSize blocks) 5
  | n => { k with phase := n + 1 }

/-- A checkpoint ends. -/
def endCkpt (cmd status value : Nat) (s : State) : State :=
  complete cmd status value (s.modMem fun m => { m with ckpts := m.ckpts.filter fun k => k.cmd != cmd })

/-- A request of a checkpoint has its final outcome. One that is not OK ends the checkpoint with DMA_ERROR (log 76). -/
def ckptReply (cmd outcome : Nat) (s : State) : State :=
  match ckptOf s cmd with
  | none => s
  | some k =>
    if outcome ≠ 0 then endCkpt cmd 4 0 s
    else
      let k' := k.after (loadedClass s).length
      if k'.phase = 8 then endCkpt cmd 0 k.digest s else ckptSend cmd (s.modCkpt cmd fun _ => k')

/-! ### Stations that are closed (R79) -/

/-- A staging that requires a closed station. -/
def needsClosed (t : Staging) : Bool := t.ident == 1 || t.ident == 9 || (t.ident == 2 && bit (field t.payload 7 1) 0)

/-- Station `n` of the RUN in progress is closed. -/
def stationClosed (s : State) (n : Nat) : Bool :=
  let staged := s.job.stage.any fun t => t.target == some n && needsClosed t
  match s.job.trav, s.job.run with
  | some t, some r =>
    if r.phase != .leg && n == r.base + r.j then r.sealClosed
    else staged || (match r.legAt t (n - r.base) with | some l => decide (r.base < n) && l.closed | none => false)
  | _, _ => staged

/-- Station that the RUN in progress goes to. -/
def runStation (s : State) : Nat := match s.job.run with | some r => r.base + r.j | none => 0

/-- The device stands where checkpoints of its station run: in step 4 of a closed one, after step 7 of an open one (R481). -/
def ckptTurn (s : State) : Bool :=
  match s.job.run with
  | some r => if stationClosed s (runStation s) then r.phase == .closedWait else r.phase == .atStation
  | none => false

/-- A station that has been passed (R398): not greater than `STATION_NOW.LAST`. -/
def stationPassed (s : State) (n : Nat) : Bool := decide (n ≤ s.job.last)

/-- Regions that the loaded traverse's blocks lie in are in service (R463). -/
def classUp (s : State) : Bool := (List.range 4).all (regionUp s)

/-- A command of the management core needs a region that region 0 does not reach (R463). -/
def coreLost (s : State) (rs : List (Nat × Nat)) (image : Bool) : Bool :=
  !(regionUp s 0) || rs.any (fun (a, _) => !roundTrip s 0 (a / 2 ^ 38 % 4)) || (image && !classUp s)

/-- CHECKPOINT_OUT (R481): its operands and ranges are checked, and it waits for its station. One that needs a lost region ends at once (R463). -/
def takeCheckpoint (c : InCmd) (s : State) : State :=
  let count := c.arg3 % 2 ^ 16
  let image := bit c.arg3 16
  if !(c.arg0 % 64 == 0 && decide (c.arg1 < 2 ^ 48) && decide (bits c.arg2 40 38 = 0) && c.arg2 % 4096 == 0 && decide (1 ≤ count) && decide (count ≤ 1024)
      && decide (c.arg3 < 2 ^ 17) && c.arg4 == 0) then complete c.id 1 0 s
  else if stationPassed s c.arg1 then complete c.id 0x20 0 s
  else if hostReadFails s c.arg0 (16 * count) then complete c.id 4 0 s
  else
    let rs := rangeList (s.hostMem.readN c.arg0 (16 * count)) count
    let known := match s.job.run with | some r => decide (r.base < c.arg1) && decide (c.arg1 ≤ r.base + r.legs) | none => false
    if !rangesOk s rs || (image && known && !stationClosed s c.arg1) then complete c.id 1 0 s
    else if coreLost s rs image then complete c.id 0x15 0 s
    else s.modMem fun m => { m with ckpts := m.ckpts ++ [{ cmd := c.id, station := c.arg1, addr := c.arg2, list := rs, image := image }] }

/-! ### Fills -/

def State.modFill (f : Fill → Fill) (s : State) : State := s.modMem fun m => { m with fill := m.fill.map f }

/-- What LOAD_TRAVERSE leaves of a block (R161, R164, R182): its scratchpad and its instruction memory. -/
def Block.loaded (k : Block) : Block := { sp := k.sp, imem := k.imem, bad := k.bad, tile := k.tile }

/-- Zero the HBM that a fill has written. -/
def zeroFilled (f : Fill) (s : State) : State :=
  let n := if f.phase = 2 then f.pos else if f.phase = 3 then rangeTotal f.ranges else 0
  (List.range (n / 4096)).foldl (fun s i =>
    let a := rangeAt f.ranges (4096 * i)
    writeBytes (a / 2 ^ 38) (a % 2 ^ 38) (zeros 4096) s) s

/-- Blocks and tables that an image has written of a fill go back to what the fill found (R485). -/
def restoreFilled (f : Fill) (s : State) : State :=
  let n := (loadedClass s).length
  let put := fun i => decide (tableStart n i ≤ f.pos)
  let s := s.modBlks fun b => { b with blk := (f.blocks.map fun (k, x) => (k, x.loaded)).filter fun e => e.2 != {} }
  let s := s.modRmt fun m =>
    { m with win := if put 1 then f.tables.win else m.win, ctx := if put 2 then f.tables.ctx else m.ctx, seq := if put 2 then f.tables.seq else m.seq,
             peg := if put 3 then f.tables.peg else m.peg, grants := if put 3 then f.tables.grants else m.grants }
  s.modMem fun m => { m with fence := f.fence.getD m.fence }

/-- A fill fails (R485), with the status and VALUE of its command. -/
def failFill (status value cause : Nat) (s : State) : State :=
  match s.mem.fill with
  | none => s
  | some f =>
    let s := zeroFilled f (dropCore f.cmd s)
    let s := if f.phase = 3 then restoreFilled f s else s
    let s := s.modJob fun j => { j with last := 0, valid := false }
    complete f.cmd status value
      (s.modMem fun m => { m with fill := none, fillState := 3, fillCause := cause, fillStation := f.station, fillImage := false, fillBar := true })

def abortFill (cause : Nat) (s : State) : State := failFill 0x30 cause cause s

/-- End a fill with SHAPE_MISMATCH: nothing has been written. -/
def refuseFill (f : Fill) (status : Nat) (s : State) : State :=
  complete f.cmd status 0 ((dropCore f.cmd s).modMem fun m => { m with fill := none, fillState := 0 })

/-- Ask for the next bytes of a fill. -/
def fillSend (s : State) : State :=
  match s.mem.fill with
  | none => s
  | some f =>
    let load := fun (off n : Nat) => coreRequest f.cmd 5 f.tag 0x10 (f.addr + off) (leBytes 8 n) s
    match f.phase with
    | 0 => load 0 64
    | 1 => load (4096 + f.pos) (min 4096 (16 * f.count - f.pos))
    | 2 => load (copyData f.count + f.pos) 4096
    | _ => load (copyData f.count + rangeTotal f.ranges + f.pos) 4096

/-- A fill has read everything: it succeeds when the digests agree (R484). -/
def finishFill (s : State) : State :=
  match s.mem.fill with
  | none => s
  | some f =>
    if f.digest = f.want ∧ f.digest = f.hdrDigest then
      let s := if f.image then s.modJob fun j => { j with last := f.station, valid := true } else s
      complete f.cmd 0 f.digest
        (s.modMem fun m => { m with fill := none, fillState := 2, fillCause := 0, fillStation := f.station, fillImage := f.image, fillBar := false })
    else abortFill 4 s

/-- Go on after `pos` bytes of a phase of `total`; `next` follows the phase. -/
def fillOnward (total : Nat) (next : State → State) (s : State) : State :=
  match s.mem.fill with
  | some f =>
    let s := s.modFill fun f => { f with pos := f.pos + 4096 }
    if f.pos + 4096 < total then fillSend s else next s
  | none => s

/-- Read the data, then the image; then compare digests. -/
def fillImage (s : State) : State :=
  match s.mem.fill with
  | some f => if f.image then fillSend (s.modFill fun f => { f with phase := 3, pos := 0, buf := [] }) else finishFill s
  | none => s

/-- One of the lines of a reply that its memory has read as poisoned has arrived, as 64 bytes of 0xFF (R199; log 75). -/
def poisonedIn (lines : List (Fin 64)) (bs : List Byte) : Bool := lines.any fun i => slice bs (64 * i) 64 == poisonBytes

/-- The header of a copy arrives (R484). -/
def takeFillHeader (f : Fill) (bs : List Byte) (s : State) : State :=
  let count := field bs 16 2
  let image := bit (field bs 18 1) 0
  if field bs 0 4 ≠ 0x4B444350 ∨ field bs 12 4 ≠ f.tag ∨ count = 0 ∨ 1024 < count then abortFill 3 s
  else if image ∧ field bs 24 8 ≠ imageSize (loadedClass s).length then refuseFill f 0x10 s
  else
    fillSend ((s.modFill fun f => { f with phase := 1, pos := 0, count := count, station := field bs 4 6, image := image, imageBytes := field bs 24 8,
                                           hdrDigest := field bs 32 8 }).modMem fun m => { m with fillStation := field bs 4 6 })

/-- The list of a copy is whole: its ranges are judged, and the data follows, unless a range lies in a lost region (R463; log 103). -/
def fillRanges (s : State) : State :=
  match s.mem.fill with
  | none => s
  | some f =>
    let rs := rangeList f.buf f.count
    if !rangesOk s rs then abortFill 3 s
    else if coreLost s rs f.image then failFill 0x15 0 1 s
    else fillSend (s.modFill fun f => { f with phase := 2, pos := 0, ranges := rs, buf := [] })

def takeFillList (f : Fill) (bs : List Byte) (s : State) : State :=
  fillOnward (16 * f.count) fillRanges (s.modFill fun f => { f with buf := f.buf ++ bs })

/-- Data of a copy arrives and is written to its range. -/
def takeFillData (f : Fill) (bs : List Byte) (s : State) : State :=
  let a := rangeAt f.ranges f.pos
  let s := writeBytes (a / 2 ^ 38) (a % 2 ^ 38) bs s
  fillOnward (rangeTotal f.ranges) fillImage (s.modFill fun f => { f with digest := (f.digest + copyDigest f.key 4 a bs) % 2 ^ 64 })

/-- A piece of the image arrives. -/
def takeFillImage (f : Fill) (bs : List Byte) (s : State) : State :=
  let r := putImage f.pos f.buf bs s
  let found := if f.pos + 4096 < f.imageBytes then f.fence else some s.mem.fence
  fillOnward f.imageBytes finishFill
    (r.2.modFill fun f => { f with buf := r.1, fence := found, digest := (f.digest + copyDigest f.key 5 f.pos bs) % 2 ^ 64 })

/-- What a read of the fill has brought, by its phase. -/
def fillTake (bs : List Byte) (s : State) : State :=
  match s.mem.fill with
  | none => s
  | some f =>
    match f.phase with
    | 0 => takeFillHeader f bs s
    | 1 => takeFillList f bs s
    | 2 => takeFillData f bs s
    | _ => takeFillImage f bs s

/-- A read of a fill has its final outcome: one that is not OK ends the fill (R485). -/
def fillReply (cmd outcome : Nat) (bs : List Byte) (s : State) : State :=
  match s.mem.fill with
  | some f => if f.cmd ≠ cmd then s else if outcome ≠ 0 then abortFill 1 s else fillTake bs s
  | none => s

/-- The key of a JOB_IDENT staged for the next RUN, or the key in force (R484). -/
def fillKey (s : State) : Nat :=
  match (s.job.stage.filter fun t => t.ident == 5 && t.target.isNone).getLast? with
  | some t => field t.payload 8 8 + field t.payload 16 8 * 2 ^ 64
  | none => s.job.key

/-- FILL_IN (R484). It reads by region 0's engine, and needs that region (R463). -/
def takeFill (c : InCmd) (s : State) : State :=
  if s.dev != .ready || s.mem.fill.isSome then complete c.id 2 0 s
  else if !(decide (bits c.arg0 40 38 = 0) && c.arg0 % 4096 == 0 && decide (c.arg1 < 2 ^ 32) && c.arg3 == 0 && c.arg4 == 0) then complete c.id 1 0 s
  else if !(regionUp s 0) then complete c.id 0x15 0 s
  else
    let f : Fill := { cmd := c.id, addr := c.arg0, tag := c.arg1, want := c.arg2, key := fillKey s, blocks := s.blks.blk, tables := s.rmt }
    fillSend (s.modMem fun m => { m with fill := some f, fillState := 1, fillCause := 0, fillStation := 0, fillImage := false })

/-! ### Finished requests of the management core -/

/-- Requests of the management core that are done go to what asked for them. -/
def coreDone (s : State) : State :=
  (s.rmt.ops.filterMap fun (_, o) => match o with | some o => if o.block = mgmtCore ∧ opDone o then some o else none | none => none).foldl
    (fun s o =>
      let s := s.modRmt fun m => { m with ops := m.ops.set none o.id none }
      let outcome := match o.worst with | some (_, c) => c | none => 0
      let bs := o.data.flatMap fun e => e.2
      if o.kind = 5 then fillReply o.desc outcome bs s else ckptReply o.desc outcome s) s

/-- A request may end as it is issued, and end what asked for it: look again. -/
def settleCore (s : State) : State := coreDone (coreDone s)

def execCheckpointOut (s : State) : Out := .next (hostStep (fun c => c.opcode == 0x07) takeCheckpoint s)

/-- CHECKPOINT_RUN (R481, R482): the checkpoint starts at its station; one with an image at an open station copies nothing. -/
def ckptRunStep (id : Nat) (s : State) : Out :=
  match ckptOf s id with
  | none => .next s
  | some k =>
    if k.phase = 0 && ckptTurn s && k.station == runStation s then
      if (k.image && !stationClosed s k.station) || !rangesOk s k.list then .next (endCkpt id 1 0 s)
      else if coreLost s k.list k.image then .next (endCkpt id 0x15 0 s)
      else .next (settleCore (ckptSend id (s.modCkpt id fun k => { k with phase := 1 })))
    else .next s

def execFillIn (s : State) : Out := .next (hostStep (fun c => c.opcode == 0x08) (fun c s => settleCore (takeFill c s)) s)

end Sys2Proof.Machine
end

