-- ==== Sys2Proof/Machine/Replies.lean ====
section
/-! DEFINITION. Replies at the source, end-to-end timeouts and unresponsive targets (R331, R334, R341, R345, R349, R355). -/

namespace Sys2Proof.Machine

open Sys2Proof

/-- Final outcomes (table *Outcome codes*). -/
def isFinal (o : Nat) : Bool := !(o == 6 || o == 7 || o == 8 || o == 10)

/-- Peg key that a claim is for. -/
def claimKey (q : Req) : Nat := pegKey (addrWindow q.pkt.addr) q.pkt.dst (field q.pkt.payload 0 2) q.pkt.gen

/-- A request reaches its final outcome: a slot, a claim of a descriptor, or a packet of an operation. -/
def finish (tag outcome : Nat) (data : List (Nat × List Byte)) (s : State) : State :=
  match reqOf s tag with
  | none => s
  | some q =>
    if q.col then pumpAll (endSlot tag outcome s)
    else if q.pkt.type = 0x14 then pumpCols (claimFailed (claimKey q) tag outcome s)
    else settleCore (pumpAll (finishReq tag outcome data s))

/-- The request's channel to its destination has ended with ORDER_FULL (R336). -/
def orderEnded (s : State) (q : Req) : Bool :=
  !q.col && s.rmt.full.contains (chanKey q.pkt.dst q.pkt.ch) && !(q.pkt.type == 0x14 || q.pkt.type == 0x15)

/-! ### Unresponsive targets (R355) -/

/-- A fill's read is unresponsive at once in either mode (R486). -/
def isFillRead (s : State) (q : Req) : Bool :=
  match opOf s q.op with
  | some o => !q.col && o.block == mgmtCore && o.kind == 5
  | none => false

/-- A target is unresponsive to a request, and the device reports it suspect in either mode (R480): SERVICE holds the request, RECOVERY ends it; a load
in RECOVERY ends at DEAD_US. -/
def unresponsive (tag : Nat) (s : State) : State :=
  match reqOf s tag with
  | none => s
  | some q =>
    let atomic := q.pkt.type == 0x13
    if isFillRead s q then sendHealth 1 q.pkt.dst (settleCore (abortFill 1 s))
    else if q.col then slotUnresponsive tag q.pkt.type s
    else if s.fab.recovery then
      let s := sendHealth 1 q.pkt.dst s
      if q.pkt.type = 0x10 then s.modReq tag fun q => { q with wait := .dead }
      else finish tag (if atomic then 0x40 else 0x42) [] (timeoutEvent q q.pkt.type tag (bitAt atomic 0 + 2) s)
    else sendHealth 1 q.pkt.dst (timeoutEvent q q.pkt.type tag (bitAt atomic 0) (s.modReq tag fun q => { q with wait := .dead }))

/-- E2E_TIMEOUT (R349, R343, R477): a retry, a claim that was parked sent again, or an unresponsive target. -/
def e2eStep (tag : Fin 131072) (s : State) : Out :=
  match reqOf s tag with
  | none => .next s
  | some q =>
    let due := decide (q.sentAt + 50 * s.rmt.timers.e2e ≤ s.aon)
    if q.wait == .dead || q.wait == .granted then .next s
    else if isFenced s q.pkt.dst then .next (unresponsive tag s)
    else if q.wait == .claim && due then .next (sendReq tag s)
    else if q.wait == .reply && due then
      if orderEnded s q then .next (finish tag 9 [] s)
      else if q.tries < s.rmt.timers.retries then .next (sendReq tag (rmtCount 4 (s.modReq tag fun q => { q with tries := q.tries + 1 })))
      else .next (unresponsive tag s)
    else .next s

/-- DEAD_US_EXPIRE (R355): a load in RECOVERY, DEAD_US after its first send. -/
def deadStep (tag : Fin 131072) (s : State) : Out :=
  match reqOf s tag with
  | none => .next s
  | some q =>
    if s.fab.recovery && q.pkt.type == 0x10 && decide (q.firstAt + 50 * s.rmt.timers.dead ≤ s.aon) && !isFillRead s q then
      .next (finish tag 0x42 [] (timeoutEvent q 0x10 tag 2 s))
    else .next s

/-! ### Taking replies -/

/-- SEQ_CH that a reply to a held request carries: that of its claim, or of the packets of a slot that has been sent (R374). -/
def replySeqCh (s : State) (q : Req) : Nat :=
  match if q.col then (colOf s q.op).bind fun o => o.sends[q.idx]? else none with
  | some x => if x.st = 3 then x.seqCh else q.pkt.seqCh
  | none => q.pkt.seqCh

/-- The request that a reply is for (R334); a shadow matches by DST, SEQ_CH and generation alone, and a grant by its peg (R490). -/
def requestFor (s : State) (p : Packet) : Option Nat :=
  let same := fun (q : Req) => q.pkt.dst == p.src && q.pkt.gen % 4096 == p.gen % 4096 && replySeqCh s q == p.seqCh
    && (p.type != 0x33 || field p.payload 0 2 == field q.pkt.payload 0 2)
  if s.mem.shadow.isSome then
    (s.rmt.track.find? fun (_, q) => match q with | some q => same q | none => false).map fun e => e.1
  else match reqOf s p.tag with
    | some q => if same q then some p.tag else none
    | none => none

/-- Payloads of the table *Request and reply types*; outcomes from 0x0B on do not travel (R330; log 133). -/
def replyOk (p : Packet) : Bool :=
  let b := p.payload
  match p.type with
  | 0x31 => decide (b.length = 8) && decide (field b 0 8 ≤ 10)
  | 0x32 => decide (b.length = 16) && decide (field b 0 8 ≤ 10)
  | 0x33 => decide (b.length = 16) && decide (field b 0 2 < 16384) && decide (field b 2 2 < 1024) && decide (field b 4 2 < 4096)
      && decide (field b 6 2 = 0)
  | _ => true

/-- Take a reply from the head of the intake when its type is `type`. -/
def replyStep (type : Nat) (body : Nat → Packet → State → State) (s : State) : Out :=
  match s.fab.rspIn with
  | [] => .next s
  | c :: rest =>
    if c.pkt.type ≠ type then .next s
    else
      let s := s.modFab fun f => { f with rspIn := rest }
      if !replyOk c.pkt then .next (fabCount 0 s)
      else if !tagAccepted s c.pkt then .next (fabCount 2 s)
      else match requestFor s c.pkt with
        | some tag => .next (body tag c.pkt s)
        | none => .next (rmtCount 5 s)

/-- A non-final outcome (R331): what the request waits for before it is sent again. -/
def waitAgain (tag outcome : Nat) (s : State) : State :=
  match outcome with
  | 6 => s.modReq tag fun q => { q with wait := .order }
  | 10 => s.modReq tag fun q => { q with wait := .claim, tries := 0 }
  | _ => s.modReq tag fun q => { q with wait := .delay, resumeAt := s.aon + 1000 }

/-- ORDER_FULL ends a channel to a destination (R336): its later requests that wait to be sent again end with it. -/
def endChannel (q : Req) (s : State) : State :=
  let s := s.modRmt fun m => { m with full := m.full ++ [chanKey q.pkt.dst q.pkt.ch] }
  let waits := s.rmt.track.filterMap fun (t, x) => match x with
    | some x => if orderEnded s x && x.pkt.dst == q.pkt.dst && x.pkt.ch == q.pkt.ch && (x.wait == .order || x.wait == .delay) then some t else none
    | none => none
  waits.foldl (fun s t => finish t 9 [] s) s

/-- What DUPLICATE means to a request (R341): applied, or for an atomic not known. -/
def duplicateOutcome (q : Req) : Nat := if q.pkt.type = 0x13 then 0x40 else 0

/-- An outcome for a request. -/
def takeOutcome (tag outcome : Nat) (data : List (Nat × List Byte)) (s : State) : State :=
  match reqOf s tag with
  | none => s
  | some q =>
    if q.col then
      let st := match (colOf s q.op).bind fun o => o.sends[q.idx]? with | some x => x.st | none => 4
      if st = 3 then (if outcome = 0 then finish tag 0 [] s else rmtCount 5 s)
      else if st = 1 then (if isFinal outcome then finish tag outcome [] s else waitAgain tag outcome s)
      else rmtCount 5 s
    else if !isFinal outcome then (if orderEnded s q then finish tag 9 [] s else waitAgain tag outcome s)
    else if outcome = 9 then endChannel q (finish tag 9 data s)
    else finish tag (if outcome = 5 then duplicateOutcome q else outcome) data s

/-- ACK (R329, R331, R334, R374). -/
def ackStep (s : State) : Out := replyStep 0x31 (fun tag p s => takeOutcome tag (field p.payload 0 1) [] s) s

/-- ATOMIC_RESULT: the prior value is the fetched result. -/
def execAtomicResult (s : State) : Out :=
  replyStep 0x32 (fun tag p s =>
    let fetch := match (reqOf s tag).bind fun q => opOf s q.op with | some o => o.fetch | none => false
    takeOutcome tag (field p.payload 0 1) (if fetch then [(0, slice p.payload 8 8)] else []) s) s

/-- Lines of a cached load enter the region's cache (R225). -/
def fillCache (r addr : Nat) (bs : List Byte) (s : State) : State :=
  (List.range (bs.length / 64)).foldl (fun s i => cacheFill r (addr + 64 * i) (slice bs (64 * i) 64) s) s

/-- LOAD_DATA (R334, R345): the bytes belong at the packet's place in the operation's range. A cached load fills the cache, and a line
that the cache has already answered keeps what it answered. A poisoned line ends a fill (R484). -/
def execLoadData (poison : List (Fin 64)) (s : State) : Out :=
  replyStep 0x30 (fun tag p s =>
    match reqOf s tag with
    | none => s
    | some q =>
      let n := bits (field q.pkt.payload 0 8) 12 0
      let cached := bit (field q.pkt.payload 0 8) 13 && s.fab.number != some q.pkt.dst
      if p.payload.length ≠ n then rmtCount 5 s
      else if isFillRead s q && poisonedIn poison p.payload then settleCore (abortFill 5 s)
      else
        let (at', r, have', len) : Nat × Nat × List Nat × Nat := match opOf s q.op with
          | some o => (q.pkt.addr - o.remote, o.region, o.data.map fun e => e.1, o.len)
          | none => (0, 0, [], 0)
        let parts : List (Nat × List Byte) := if cached then
            ((List.range (n / 64)).map fun i => (at' + 64 * i, (slice p.payload (64 * i) 64).take (len - (at' + 64 * i)))).filter fun e =>
              !have'.contains e.1
          else [(at', p.payload)]
        let s := if cached then fillCache r q.pkt.addr p.payload s else s
        takeOutcome tag 0 parts s) s

/-- PEG_GRANT (R342, R371). -/
def execPegGrant (s : State) : Out :=
  replyStep 0x33 (fun tag p s =>
    match reqOf s tag with
    | none => s
    | some q =>
      let b := p.payload
      if q.pkt.type ≠ 0x14 || field b 0 2 ≠ field q.pkt.payload 0 2 then rmtCount 5 s
      else if q.col then pumpAll (slotGranted tag (field b 2 2) (field b 8 4) (field b 12 4) s)
      else pumpAll (gotGrant (claimKey q) tag { gen := field b 4 2, off := field b 8 4, bytes := field b 12 4, sent := 0 } s)) s

end Sys2Proof.Machine
end

