-- ==== Sys2Proof/Machine/Settings.lean ====
section
/-! DEFINITION. Settings: their payloads, how they are staged, and what each does when it applies (R85 to R90, R193, R218, R300, R312,
R319, R419, R457, R459, R487, R533). -/

namespace Sys2Proof.Machine

open Sys2Proof

/-! ### Payloads -/

def words (b : List Byte) (at' n size : Nat) : List Nat := (List.range n).map fun i => field b (at' + size * i) size

/-- ROUTE_TABLES (R300). -/
def routeTablesOk (s : State) (b : List Byte) : Bool :=
  decide (b.length = 2192) && field b 0 2 == (s.fab.epoch + 1) % 65536 && decide (field b 2 2 < 8192) && decide (field b 4 2 < 8192)
    && decide (bits (field b 6 2) 14 13 = 0) && decide (field b 8 2 < 8192) && decide (field b 10 1 < 2) && decide (field b 11 5 = 0)
    && (words b 16 32 4).all (fun w => decide (bits w 24 16 = 0)) && (words b 144 256 8).all (fun w => decide (bits w 41 0 = 0))

/-- A SCRATCH window may name logical block `b`: it is within the loaded class, or active where no traverse is loaded (R319). -/
def windowBlockOk (s : State) (b : Nat) : Bool :=
  match s.job.trav with
  | some t => (classList t.classBlocks).contains b
  | none => (physOf s b).isSome

/-- WINDOW_MAP (R319). -/
def windowMapOk (s : State) (b : List Byte) : Bool :=
  decide (16 ≤ b.length) && decide (1 ≤ field b 0 2) && decide (field b 0 2 ≤ 64) && decide (field b 4 3 = 0) && decide (field b 7 1 < 2)
    && decide (field b 8 4 = 0) && mapOk (windowBlockOk s) 960 1024 b

/-- BLOCK_SPARE_MAP (R193, R459). -/
def blockMapOk (s : State) (b : List Byte) : Bool :=
  decide (b.length = 256) &&
    (List.range 4).all fun r =>
      let e := words b (64 * r) 64 1
      let n := (e.filter fun v => decide (128 ≤ v)).length
      let pbs := (e.take n).map (· % 128)
      (e.take n).all (fun v => decide (128 ≤ v)) && (e.drop n).all (fun v => decide (v < 128)) && pbs.all (fun v => decide (v < 68)) && decide pbs.Nodup
        && pbs.all fun v => !s.flt.blockFailed.get false (68 * r + v)

/-- COLUMN_SPARE_MAP (R457). -/
def columnMapOk (s : State) (b : List Byte) : Bool :=
  decide (b.length = 2176) && (words b 0 1088 2).all (fun e => decide (bits e 14 8 = 0) && decide (e % 256 < 132))
    && (List.range 272).all fun p => (listedColumns s p).all fun c => (payloadCols b p).contains c

/-- FRAME_RETIRE (R218, R219). -/
def frameRetireOk (b : List Byte) : Bool :=
  decide (8 ≤ b.length) && b.length % 8 == 0 && decide (b.length ≤ 2048) && (words b 0 (b.length / 8) 8).all frameOpOk

/-- BACKSIGHT_ROLE (R487). -/
def roleOk (s : State) (b : List Byte) : Bool :=
  let role := field b 0 1
  let partner := field b 4 2
  decide (b.length = 16) && decide (role ≤ 4) && decide (field b 1 1 < 16) && decide (field b 2 1 < 64) && decide (field b 3 1 = 0)
    && decide (partner < 8192) && decide (leNat (slice b 6 10) = 0)
    && (match role with
      | 1 => (match lanePeer s (field b 1 1) 0 (field b 2 1) with | some (d, _) => d == partner | none => false)
      | 2 => s.dev == .backsight && s.mem.partner == partner
      | 3 => s.dev == .backsight && s.mem.partner == partner
      | _ => s.mem.role == 1)

/-- A payload that its setting accepts (R12). -/
def payloadAccepted (s : State) (ident : Nat) (b : List Byte) : Bool :=
  match ident with
  | 1 => routeTablesOk s b
  | 2 => windowMapOk s b
  | 3 => decide (b.length = 4) && b.all fun x => decide (x.toNat ≤ 5)
  | 4 => decide (b.length = 1) && decide (field b 0 1 < 2)
  | 5 => decide (b.length = 24) && decide (field b 0 4 ≠ 0) && decide (field b 4 4 = 0)
  | 6 => blockMapOk s b
  | 7 => columnMapOk s b
  | 8 => frameRetireOk b
  | 9 => roleOk s b
  | 10 => decide (b.length = 4) && decide (field b 0 4 < 4)
  | 11 => decide (b.length = 4) && decide (1 ≤ field b 0 4) && decide (field b 0 4 ≤ 600000)
  | _ => false

/-! ### Staging (R87 to R90) -/

/-- What "next" resolves to in a completion (R87; log 27). -/
def resolved (s : State) (t : Option Nat) : Nat := t.getD s.job.last

/-- The latch of station `n` has closed, or the station has been passed (R88). -/
def latchClosed (s : State) (n : Nat) : Bool := decide (n ≤ s.job.last) || (match nextStation s with | some m => decide (n < m) | none => false)

/-- Stagings pending after one is added or replaced (R89). -/
def withStaging (t : Staging) (ts : List Staging) : List Staging := (ts.filter fun x => !(x.ident == t.ident && x.target == t.target)) ++ [t]

/-- More than 4 distinct targets, or more than 64 stagings (R88). -/
def stageFull (ts : List Staging) : Bool := decide (4 < (ts.map fun t => t.target).dedup.length) || decide (64 < ts.length)

/-- Stage a value: the status, and the state after. ROUTE_TABLES goes into the bank not in force (R300). -/
def stageValue (t : Staging) (s : State) : Nat × State :=
  let ts := withStaging t s.job.stage
  if !payloadAccepted s t.ident t.payload then (1, s)
  else if stageFull ts then (0x21, s)
  else
    let s := s.modJob fun j => { j with stage := ts }
    (0, if t.ident = 1 then s.modFab fun f => { f with banks := f.banks.set [] (1 - f.bank) t.payload } else s)

/-- STAGE_CONFIG and RETIRE_FRAME, taken from a ring (R88). -/
def takeStaging (c : InCmd) (s : State) : State :=
  let next := c.arg1 = 2 ^ 48 - 1
  let target := if next then nextStation s else some c.arg1
  if c.arg2 % 8 ≠ 0 then complete c.id 1 0 s
  else if !next && latchClosed s c.arg1 then complete c.id 0x20 0 s
  else if hostReadFails s c.arg2 c.arg3 then complete c.id 4 0 s
  else
    let (st, s) := stageValue { ident := c.arg0, target := target, payload := s.hostMem.readN c.arg2 c.arg3 } s
    complete c.id st (if st = 0 then resolved s target else 0) s

/-- The row of one setting identifier. -/
def stageStep (ident : Nat) (s : State) : Out := .next (hostStep (fun c => c.opcode == 0x03 && c.arg0 == ident) takeStaging s)

def execRouteTables (s : State) : Out := stageStep 1 s
def execWindowMap (s : State) : Out := stageStep 2 s
def execOpTarget (s : State) : Out := stageStep 3 s
def execFabricMode (s : State) : Out := stageStep 4 s
def execJobIdent (s : State) : Out := stageStep 5 s
def execBlockSpareMap (s : State) : Out := stageStep 6 s
def execColumnSpareMap (s : State) : Out := stageStep 7 s
def execFrameRetire (s : State) : Out := stageStep 8 s
def execBacksightRole (s : State) : Out := stageStep 9 s
def execDetCtrl (s : State) : Out := stageStep 10 s
def execLegWdog (s : State) : Out := stageStep 11 s

/-- RETIRE_FRAME (R394). -/
def execRetireFrame (s : State) : Out := .next (hostStep (fun c => c.opcode == 0x0B && c.arg0 == 8) takeStaging s)

/-- A write to a setting register (R90, R533). -/
def stageRegister (ident value : Nat) (s : State) : State :=
  let (st, s) := stageValue { ident := ident, target := nextStation s, payload := leBytes 4 value } s
  if st = 0 then s else s.modJob fun j => { j with regRefused := true }

/-- DET_CTRL_WRITE (R533); reserved bits are ignored (R9). -/
def execDetCtrlWrite (value : W32) (s : State) : Out := .next (if hostWrites s false then stageRegister 10 (value.toNat % 4) s else s)

/-- LEG_WDOG_WRITE (R533). -/
def execLegWdogWrite (value : W32) (s : State) : Out := .next (if hostWrites s false then stageRegister 11 (value.toNat % 2 ^ 20) s else s)

/-! ### What a setting does at step 5 -/

/-- Service lanes follow the tables in force (R263). The tables may name a port, with every data lane of it, whatever its positions do. -/
def reclassify (s : State) : State :=
  let named := ((List.range 16).filter fun p => isService s p none).flatMap fun p => (List.range 68).map (68 * p + ·) |>.filter fun k => decide (k % 34 < 32)
  let keys := named ++ (s.oe.pos.map fun e => e.1).filter fun k => !named.contains k
  keys.foldl (fun s k => s.modPos k fun q => { q with service := isService s (k / 68) q.peer }) s

/-- ROUTE_TABLES: the banks swap, and the epoch and the number come into force (R300). -/
def applyRoutes (b : List Byte) (s : State) : State :=
  reclassify (s.modFab fun f => { f with bank := 1 - f.bank, banks := f.banks.set [] (1 - f.bank) b, epoch := field b 0 2, number := some (field b 2 2 % 8192) })

/-- What the end of a job clears of remote memory's ordering (R322, R336). -/
def clearOrdering (s : State) : State := s.modRmt fun m => { m with ctx := [], seq := [], full := [] }

/-- The job tag changes, and its energy counter starts again (R439). -/
def jobEnergy (tag : Nat) (s : State) : State := s.modPwr fun p => { p with jobPj := 0, energyTag := tag }

/-- JOB_IDENT: tag and key; every window becomes CLOSED with generation 0 (R322), a new tag clears the fence table (R477), and its
energy counter starts again (R439). -/
def applyIdent (b : List Byte) (s : State) : State :=
  let tag := field b 0 4
  let s := if tag = s.job.tag then s else jobEnergy tag (s.modMem fun m => { m with fence := [] })
  let s := s.modJob fun j => { j with tag := tag, key := field b 8 8 + field b 16 8 * 2 ^ 64 }
  clearOrdering (resetWindows true s)

/-- Add a move of a logical block's state to those that wait: a block whose state has yet to come goes on from where that lies. -/
def addMove (ms : List (Nat × Nat × Nat)) (n p q : Nat) : List (Nat × Nat × Nat) :=
  match ms.find? fun x => x.1 == n && x.2.2 == p with
  | some (_, p0, _) => (ms.filter fun x => !(x.1 == n && x.2.2 == p)) ++ (if p0 = q then [] else [(n, p0, q)])
  | none => ms ++ [(n, p, q)]

/-- BLOCK_SPARE_MAP: what serves another physical block from now on moves at step 8 (R194). -/
def applyBlockMap (b : List Byte) (s : State) : State :=
  let old := (List.range 256).map (physOf s)
  let s := s.modBlks fun x => { x with map := some b }
  let bound := fun r => (List.range 4).all fun k => ((List.range 64).map fun lb => field b (64 * r + lb) 1).contains (128 + 64 + k)
  let s := (List.range 4).foldl (fun s r => if bound r then spareExhausted 2 r 0xFF 0xFF s else s) s
  let moved := (List.range 256).filterMap fun n =>
    match (old.getD n none), physOf s n with
    | some p, some q => if p = q then none else some (n, p, q)
    | _, _ => none
  s.modBlks fun x => { x with moves := moved.foldl (fun ms (n, p, q) => addMove ms n p q) x.moves }

/-- COLUMN_SPARE_MAP: a block whose fourth entry it fills has no spare column left (R455). -/
def applyColumnMap (b : List Byte) (s : State) : State :=
  let old := s.blks.cols
  let cols := fun p => (payloadCols b p).foldl (fun acc c => insertNat c acc) []
  let s := s.modBlks fun x => { x with cols := tableOf [] ((List.range 272).map cols) }
  ((List.range 272).filter fun p => decide (4 ≤ (cols p).length) && decide ((old.get [] p).length < 4)).foldl
    (fun s p => spareExhausted 1 (p / 68) (p % 68) 0xFF s) s

/-- BACKSIGHT_ROLE at a working device: TEE and NONE. -/
def applyTee (b : List Byte) (s : State) : State :=
  match field b 0 1 with
  | 1 => s.modMem fun m => { m with role := 1, partner := field b 4 2, teePort := field b 1 1, teeLine := field b 2 1 }
  | 0 => s.modMem fun m => { m with role := 0, partner := 0 }
  | _ => s

/-- Apply one setting. -/
def applySetting (t : Staging) (s : State) : State :=
  let b := t.payload
  match t.ident with
  | 1 => applyRoutes b s
  | 2 => (mapEntries b).foldl (fun s (w, e) => applyEntry w e s) s
  | 3 => (List.range 4).foldl (fun s r => setTarget r (field b r 1) s) s
  | 4 => s.modFab fun f => { f with recovery := field b 0 1 == 1 }
  | 5 => applyIdent b s
  | 6 => applyBlockMap b s
  | 7 => applyColumnMap b s
  | 8 => (words b 0 (b.length / 8) 8).foldl (fun s w => frameOp w s) s
  | 9 => applyTee b s
  | 10 => s.modJob fun j => { j with strict := bit (field b 0 4) 0, profile := bit (field b 0 4) 1 }
  | 11 => s.modJob fun j => { j with wdog := field b 0 4 }
  | _ => s

/-- Columns that the device itself has staged for a target (R456). -/
def applyOwnCols (t : Option Nat) (s : State) : State :=
  let mine := s.job.ownCols.filter fun e => e.1 == t
  let s := s.modJob fun j => { j with ownCols := j.ownCols.filter fun e => e.1 != t }
  mine.foldl (fun s (_, p, c) => s.modBlks fun x => { x with cols := x.cols.mod [] p (insertNat c) }) s

/-- Order in which the settings of one station are gone through; they apply as one change. The job's identity comes first, so that the
windows of the same station open after it. -/
def settingOrder : List Nat := [5, 1, 4, 3, 6, 7, 8, 9, 10, 11]

/-- The settings staged for a target, WINDOW_MAP apart. -/
def applyStaged (t : Option Nat) (s : State) : State :=
  let mine := s.job.stage.filter fun x => x.target == t
  settingOrder.foldl (fun s i => match mine.find? fun x => x.ident == i with | some x => applySetting x s | none => s) s

/-- WINDOW_MAP of a target, after the leg's own map; then nothing is pending for the target. -/
def applyStagedWindows (t : Option Nat) (s : State) : State :=
  let s := match s.job.stage.find? fun x => x.target == t && x.ident == 2 with | some x => applySetting x s | none => s
  applyOwnCols t (s.modJob fun j => { j with stage := j.stage.filter fun x => x.target != t })

/-- SETTINGS_APPLIED (R84). -/
def settingsBits (s : State) (t : Option Nat) : Nat :=
  let own := if s.job.ownCols.any fun e => e.1 == t then [7] else []
  (((s.job.stage.filter fun x => x.target == t).map fun x => x.ident) ++ own).dedup.foldl (fun n i => n + 2 ^ i) 0

end Sys2Proof.Machine
end

