-- ==== Sys2Proof/Machine/Peers.lean ====
section
/-! DEFINITION. Management messages, discovery and peer states (R284, R313, R314, R508, R511, R512). -/

namespace Sys2Proof.Machine

open Sys2Proof

def State.modIdn (f : Ident → Ident) (s : State) : State := { s with idn := f s.idn }

/-! ### Identity fields -/

/-- `n` OTP bytes at an OTP offset (R505). -/
def otpBytes (s : State) (at' n : Nat) : List Byte := s.idn.otp.readN at' n

/-- Module serial number. -/
def serialOf (s : State) : Nat := leNat (otpBytes s 0 8)

/-- A draw from the entropy source (log 9). -/
def drawEntropy (s : State) : Nat × State := ((Config.entropy s.free).toNat, { s with free := s.free + 1 })

/-! ### Taking a message -/

/-- The management core runs. -/
def coreRuns (s : State) : Bool := !(s.dev == .off || s.dev == .boot || s.dev == .fault)

/-- The management core takes the messages at the head of its intake to which it does nothing (log 150). -/
def dropIdle (s : State) : State := s.modFab fun f => { f with mgtIn := f.mgtIn.dropWhile fun c => !mgtTaken (mgtCode c.pkt) }

/-- Take the message at the head of the intake when its CODE is `code`; a body that breaks its layout is counted BAD_PACKET (R287). -/
def mgtStep (code : Nat) (ok : List Byte → Bool) (body : Carried → List Byte → State → State) (s : State) : Out :=
  if coreRuns s then
    let s := dropIdle s
    match s.fab.mgtIn with
    | [] => .next s
    | c :: rest =>
      if mgtCode c.pkt == code then
        let s := s.modFab fun f => { f with mgtIn := rest }
        let b := c.pkt.payload.drop 8
        .next (if ok b then body c b s else fabCount 0 s)
      else .next s
  else .next s

/-! ### HELLO (R313, R314) -/

/-- Wavelength map of a port (R271). -/
def waveMap (s : State) (p : Nat) : List Byte :=
  let bitmap := fun (d : Nat) => (activeLines s p d).foldl (fun n l => n + 2 ^ l) 0
  leBytes 8 (bitmap 0) ++ leBytes 8 (bitmap 1)

/-- LINE of a HELLO on link `key`. -/
def lineField (s : State) (key : Nat) : Nat := if portMode s (key / 34) = 1 then 0x3F else key % 34

/-- ACTIVE_BLOCKS and USABLE_FRAMES. -/
def shapeBlocks (s : State) : List Byte := (List.range 4).flatMap fun r => leBytes 1 (activeCount s r)

def shapeFrames (s : State) : List Byte := (List.range 4).flatMap fun r => leBytes 4 (pmapOf s r).usable

/-- HELLO body for a transmit link. -/
def helloBody (s : State) (key : Nat) : List Byte :=
  leBytes 8 (serialOf s) ++ leBytes 2 (deviceField s) ++ leBytes 1 (key / 34 + 16 * portMode s (key / 34)) ++ leBytes 1 (lineField s key)
    ++ waveMap s (key / 34) ++ shapeBlocks s ++ shapeFrames s ++ padTo 16 s.job.marker ++ leBytes 4 s.mem.lease ++ leBytes 1 s.mem.lstate
    ++ zeros 1 ++ leBytes 2 s.fab.epoch ++ zeros 24

/-- The device takes part in discovery: from READY onwards (R313). -/
def discovers (s : State) : Bool := !(s.dev == .off || s.dev == .boot || s.dev == .fault)

def sendHello (key : Nat) (s : State) : State := sendLocal key 1 (helloBody s key) s

/-- Transmit links that have an ACTIVE lane. -/
def activeLinks (s : State) : List Nat :=
  ((List.range 16).flatMap fun p => (activeLines s p 0).map fun l => linkKey s p l).dedup

/-- HELLO_TIMER (R313). A lane whose driver is off in keep-alive sends nothing (R269). -/
def execHelloTimer (port : Fin 16) (line : Fin 34) (s : State) : Out :=
  if discovers s && (activePos s port 0 line).isSome && !linkMute s port line then .next (sendHello (linkKey s port line) s) else .next s

def helloOk (b : List Byte) : Bool :=
  decide (96 ≤ b.length) && decide (bits (field b 8 2) 14 13 = 0) && decide (field b 10 1 < 64) && decide (field b 11 1 < 64)
    && decide (field b 69 1 = 0) && decide (leNat (slice b 72 24) = 0)

/-- SERIAL and DEVICE of a HELLO. -/
def helloId (b : List Byte) : Nat × Nat := (field b 0 8, field b 8 2)

/-- Head of the body of a peer event. -/
def peerEventBody (s : State) (key : Nat) : List Byte :=
  leBytes 1 (key / 34) ++ leBytes 1 (lineField s key) ++ leBytes 8 (helloId (peerAt s key).hello).1 ++ leBytes 2 (helloId (peerAt s key).hello).2

/-- A HELLO arrives on a link. -/
def takeHello (c : Carried) (b : List Byte) (s : State) : State :=
  let key := c.link
  let q := peerAt s key
  let changed := (q.st == 2 || q.st == 3) && helloId b != helloId q.hello
  let s := if changed then
      raiseEvent 0x51 0 (peerEventBody s key ++ leBytes 8 (helloId b).1 ++ leBytes 2 (helloId b).2) s
    else s
  s.modPeer key fun q =>
    { q with hello := slice b 0 96, helloAt := s.aon, st := if changed || q.st == 0 || q.st == 4 then 1 else q.st,
             seenAt := if changed || q.st == 0 || q.st == 4 then s.aon else q.seenAt }

def execHello (s : State) : Out := mgtStep 1 helloOk takeHello s

/-! ### Challenges (R314, R511, R512) -/

/-- CHALLENGE_SEND (R314): a fresh nonce, once the back-off is over. -/
def execChallengeSend (port : Fin 16) (line : Fin 34) (s : State) : Out :=
  let key := linkKey s port line
  let q := peerAt s key
  if discovers s && q.st == 1 && decide (q.notBefore ≤ s.aon) then
    let (nonce, s) := drawEntropy s
    let s := s.modPeer key fun q => { q with st := 2, nonce := nonce, challengedAt := s.aon }
    .next (sendLocal (reverseKey s key) 2 (beBytes 32 nonce ++ leBytes 8 (serialOf s)) s)
  else .next s

/-- Bytes [47:0] of a response on transmit link `key`. -/
def responseHead (s : State) (key : Nat) (nonce : List Byte) : List Byte :=
  leBytes 8 (serialOf s) ++ leBytes 2 (deviceField s) ++ leBytes 1 (key / 34) ++ leBytes 1 (lineField s key) ++ zeros 4 ++ nonce

/-- The eight ASCII bytes KD7PEER1. -/
def peerLabel : List Byte := [0x4B, 0x44, 0x37, 0x50, 0x45, 0x45, 0x52, 0x31]

/-- A challenge is answered on the lane it came by (R511). -/
def answerChallenge (c : Carried) (b : List Byte) (s : State) : State :=
  let key := reverseKey s c.link
  let head := responseHead s key (slice b 0 32)
  let sig := Config.sign (sha256 (peerLabel ++ slice b 32 8 ++ head))
  sendLocal key 3 (head ++ beBytes 64 sig.toNat ++ leBytes 2 3072 ++ zeros 14 ++ otpBytes s 0x400 3072) s

def execChallenge (s : State) : Out := mgtStep 2 (fun b => decide (40 ≤ b.length)) answerChallenge s

/-- The peer returns to SEEN, and its next CHALLENGE waits 1 s (R314). -/
def authFails (key cause : Nat) (s : State) : State :=
  (raiseEvent 0x50 0 (peerEventBody s key ++ leBytes 1 cause) s).modPeer key fun q =>
    { q with st := 1, seenAt := s.aon, notBefore := s.aon + 50000000 }

def responseOk (b : List Byte) : Bool :=
  decide (128 + field b 112 2 ≤ b.length) && decide (field b 112 2 ≤ 3072) && decide (bits (field b 8 2) 14 13 = 0) && decide (field b 10 1 < 16)
    && decide (field b 11 1 < 64) && decide (field b 12 4 = 0) && decide (leNat (slice b 114 14) = 0)

/-- What a response signs (R511). -/
def responseSigned (s : State) (b : List Byte) : List Byte := peerLabel ++ leBytes 8 (serialOf s) ++ slice b 0 48

/-- A response verifies (R512). -/
def responseVerifies (s : State) (key : Nat) (b : List Byte) : Bool :=
  let q := peerAt s key
  let learned := (List.range 34).findSome? fun l => if linkKey s (key / 34) l = key then lanePeer s (key / 34) 1 l else none
  beNat (slice b 16 32) == q.nonce
    && (match learned with | some (_, p) => p == field b 10 1 | none => false) && field b 11 1 == lineField s key
    && (match deviceCert (otpBytes s 0x100 64) (slice b 128 (field b 112 2)) with
      | some c => c.serial == some (field b 0 8) && field b 0 8 == (helloId q.hello).1 && ecdsaValid c.key (responseSigned s b) (slice b 48 64)
      | none => false)

/-- CHALLENGE_RESP (R512, R314). -/
def execChallengeResp (s : State) : Out :=
  mgtStep 3 responseOk (fun c b s =>
    if (peerAt s c.link).st ≠ 2 then s
    else if responseVerifies s c.link b then s.modPeer c.link fun q => { q with st := 3 }
    else authFails c.link 1 s) s

/-- AUTH_TIMEOUT (R314): 100 ms without a response. -/
def execAuthTimeout (port : Fin 16) (line : Fin 34) (s : State) : Out :=
  let key := linkKey s port line
  let q := peerAt s key
  if q.st = 2 ∧ q.challengedAt + 5000000 ≤ s.aon then .next (authFails key 2 s) else .next s

/-- PEER_LOST_TIMEOUT (R314): 30 ms without a HELLO. -/
def execPeerLostTimeout (port : Fin 16) (line : Fin 34) (s : State) : Out :=
  let key := linkKey s port line
  let q := peerAt s key
  if 1 ≤ q.st ∧ q.st ≤ 3 ∧ q.helloAt + 1500000 ≤ s.aon then
    .next ((raiseEvent 0x52 0 (peerEventBody s key ++ leBytes 1 q.st) s).modPeer key fun q => { q with st := 4 })
  else .next s

end Sys2Proof.Machine
end

