-- ==== Sys2Proof/Machine/Station.lean ====
section
/-! DEFINITION. Traverses, legs and stations: LOAD_TRAVERSE, RUN, the station steps, the drain, and the end of a job (R69 to R84, R94,
R96, R191 to R194, R266, R401, R430, R489 to R495). -/

namespace Sys2Proof.Machine

open Sys2Proof

/-! ### Parking begins (R430) -/

/-- Step 1 of *Parking*: every block clock stops. The other steps are done when PARK_COMPLETE ends them. -/
def stopClocks (s : State) : State :=
  (List.range 4).foldl (fun s r => s.modReg r fun g => { g with wake := [] }) (s.modPwr fun p => { p with clk := [], want := [] })

def startPark (s : State) : State := stopClocks (s.modPwr fun p => { p with parking := true })

/-! ### The end of a RUN and of a job (R77, R320, R398, R401) -/

/-- A device that has no RUN is in READY, or stays parked and returns to READY (R433), unless its lease holds it in FENCED (R401). -/
def enterReady (s : State) : State :=
  if s.dev == .bivouac then s.modPwr fun p => { p with parkedFrom := if p.parkedFrom = some .fenced then p.parkedFrom else some .ready }
  else { s with dev := .ready }.modOe fun o => { o with idleSince := s.aon }

/-- BS_REPORT (R492): kind 1 QUALIFIED, 2 MISMATCH, 3 ENDED. -/
def bsReport (kind regions station : Nat) (s : State) : State :=
  if s.mem.shadow.isSome then sendFm 0x36 (leBytes 1 kind ++ leBytes 1 regions ++ leBytes 6 station ++ leBytes 1 (min 255 s.mem.matched)) s else s

/-- No block issues any more; what its engines have begun goes on. Moves of block state that wait for the next leg go on waiting for it (R194). -/
def stopBlocks (s : State) : State :=
  s.modBlks fun b => { b with blk := ((b.blk.map fun (k, x) => (k, { x with tasks := [], skip := 0, loops := [] })).filter fun e => e.2 != {}) }

/-- Checkpoints in progress or waiting end with JOB_ABORTED (log 79). -/
def abortCkpts (s : State) : State :=
  s.mem.ckpts.foldl (fun s k => endCkpt k.cmd 0x14 0 (dropCore k.cmd s)) s

/-- Host DMAs that wait for a station which this RUN will not reach (R398). -/
def abortDmas (s : State) : State :=
  let waiting := s.host.dmas.filter fun d => d.station.isSome && d.moved.isNone
  waiting.foldl (fun s d => complete d.cmd 0x14 0 (s.modHost fun h => { h with dmas := h.dmas.filter fun x => x.cmd != d.cmd })) s

/-- A RUN or BACKSIGHT ends: its command completes, and the device is in READY. A park that waited for a station is made now. -/
def endRun (status value : Nat) (s : State) : State :=
  match s.job.run with
  | none => s
  | some r =>
    let s := stopClocks (stopBlocks (s.modJob fun j => { j with run := none }))
    let s := s.modRmt fun m => { m with timers := {} }
    let s := (complete r.cmd status value s).modMem fun m =>
      { m with shadow := none, ended := m.ended || m.shadow.isSome, partner := if m.shadow.isSome then 0 else m.partner }
    let s := enterReady (abortDmas (abortCkpts s))
    if s.pwr.parkPending && s.dev == .ready then startPark s else s

/-- What the end of a job does to an operation that is not over (R356). -/
def RemOp.abort (o : RemOp) (pend : List (Packet × Nat)) : RemOp :=
  if opDone o then o
  else
    let o := pend.foldl (fun o x => o.take x.1 x.2 0x41 []) o
    { o with todo := [], left := 0, hold := .none, last := false, bad := max 1 o.bad, worst := some (o.worst.getD (0, 0x41)) }

/-- Every held request ends with JOB_ABORTED, and the tracker, receipts, contexts, grants and claims are cleared (R356). -/
def abortRemote (s : State) : State :=
  let pend := fun (id : Nat) => s.rmt.track.filterMap fun (_, q) => match q with
    | some q => if !q.col && q.op == id && q.pkt.type != 0x14 then some (q.pkt, q.idx) else none
    | none => none
  let atomics := s.rmt.track.filterMap fun (t, q) => match q with | some q => if q.pkt.type = 0x13 then some t else none | none => none
  let until' := s.aon + holdTime s.rmt.timers + 1
  let s := s.modRmt fun m =>
    { m with ops := m.ops.map fun (id, o) => (id, o.map fun o => o.abort (pend id ++ o.todo.map fun p => (p.pkt, p.idx))),
             quar := atomics.foldl (fun q t => q.set 0 t until') m.quar,
             track := [], receipts := [], grants := [],
             peg := (m.peg.map fun (k, p) => (k, { p with claim := none })).filter fun e => e.2 != {} }
  settleCore (clearOrdering s)

/-- Steps 1 to 6 of FENCE_JOB (R401), with the status and VALUE of a RUN or BACKSIGHT in progress. -/
def endJob (status value : Nat) (s : State) : State :=
  let s := endRun status value (abortCols 0x41 (bsReport 3 0 s.job.last s))
  let s := cacheClear (abortRemote (resetWindows false s))
  let s := (abortCkpts s).modBlks fun b => { b with moves := [] }
  let s := if s.job.tag = 0 then s else jobEnergy 0 s
  s.modJob fun j => { j with stage := [], ownCols := [], last := 0, valid := false, digest := [], tag := 0, key := 0, reached := [] }

/-- What ends a job as FENCE_JOB does: the fence table and the bar of a failed fill go with it (R477, R485). -/
def fenceJob (status value : Nat) (s : State) : State := (endJob status value s).modMem fun m => { m with fence := [], fillBar := false }

/-- FENCE_JOB (R401). Step 7 leaves a device that is FENCED or parked as it is. -/
def takeFence (c : InCmd) (s : State) : State :=
  if c.arg0 = 0 ∨ c.arg0 = s.job.tag then complete c.id 0 0 (fenceJob 0x14 s.job.last s) else complete c.id 1 0 s

def execFenceJob (s : State) : Out := .next (hostStep (fun c => c.opcode == 0x0A) takeFence s)

/-! ### Loading a traverse (R69, R265, R266, R296, R319, R359) -/

/-- A lane plan that R296 accepts. -/
def planOk (p : List Byte) : Bool :=
  let f := field p 0 4
  let r := field p 4 4
  let l := field p 8 4
  let entry := fun (first i : Nat) =>
    let a := first + 16 * i
    let (src, dst, fst, n) := planEntry p first i
    decide (src < 8192) && decide (dst < 8192) && decide (1 ≤ n) && decide (n ≤ 544) && decide (fst + n ≤ l) && decide (leNat (slice p (a + 10) 6) = 0)
  let flow := fun i => planEntry p 16 i
  let relay := fun i => planEntry p (16 + 16 * f) i
  let lane := fun i => field p (16 + 16 * (f + r) + 4 * i) 4
  let relayLanes := (List.range r).flatMap fun i => planLanes p (relay i)
  decide (p.length = 16 + 16 * (f + r) + 4 * l) && decide (field p 12 4 = 0)
    && (List.range f).all (fun i => entry 16 i && decide ((flow i).1 = 0) && (i == 0 || decide ((flow (i - 1)).2.1 < (flow i).2.1)))
    && (List.range r).all (fun i => entry (16 + 16 * f) i &&
        (i == 0 || decide (8192 * (relay (i - 1)).1 + (relay (i - 1)).2.1 < 8192 * (relay i).1 + (relay i).2.1)))
    && (List.range l).all (fun i => let w := lane i
        decide (w < 2 ^ 25) && decide (bits w 15 10 = 0) && decide (bits w 9 4 < 34) && decide (1 ≤ bits w 23 16))
    && relayLanes.all (fun w => !(bit w 24))

/-- Lanes of every plan of a traverse, as lane list words. -/
def planWords (p : List Byte) : List Nat :=
  (List.range (field p 8 4)).map fun i => field p (16 + 16 * (field p 0 4 + field p 4 4) + 4 * i) 4

/-- The lane is ACTIVE and passed its last margin test (R264, R266). -/
def laneAvailable (s : State) (w : Nat) : Bool :=
  match activePos s (bits w 3 0) 0 (bits w 9 4) with
  | some k => (posAt s k).margin
  | none => false

/-- An allocation entry that R186 accepts. -/
def allocOk (v : W32) : Bool :=
  let w := v.toNat
  (bits w 31 30 == 1 || bits w 31 30 == 2) && bits w 7 0 == 0 && decide (1 ≤ bits w 29 19) && decide (bits w 29 19 ≤ 1536)
    && decide (bits w 18 8 + bits w 29 19 ≤ 1536)

/-- The parts of one leg keep to their formats. -/
def legPartsOk (cls : List Nat) (l : LegParts) : Bool :=
  planOk l.plan && mapOk cls.contains 0 960 l.windows && timersOk l.windows && colTableOk cls.contains l.collectives && decide (l.tasks.length = 4)
    && l.allocs.all fun e => e.2.all allocOk

/-- Bytes of a traverse of `len` bytes at `addr`, read from HBM with what the reads meet (R197 to R199). -/
def readTraverse (addr len off n : Nat) (s : State) : Option (List Byte) × State :=
  if off + n ≤ len then
    let (bs, _, s) := readBytes (addr / 2 ^ 38) (addr % 2 ^ 38 + off) n none s
    (some bs, s)
  else (none, s)

/-- A header that R69 accepts: number of legs, blocks of the class by region, offset of the leg table. -/
def traverseHeader (h : List Byte) : Option (Nat × List Nat × Nat) :=
  let n := field h 8 4
  let blocks := (List.range 4).map fun r => field h (12 + r) 1
  if field h 0 4 = 0x4B443754 ∧ field h 4 4 = 1 ∧ 1 ≤ n ∧ blocks.all (fun b => decide (1 ≤ b) && decide (b ≤ 64)) ∧ leNat (slice h 48 16) = 0 then
    some (n, blocks, field h 32 8)
  else none

/-- A traverse from its header, its leg table and the parts that its directories place (log 11). -/
def buildTraverse (h t : List Byte) (n : Nat) (blocks : List Nat) (parts : TraverseParts) : Option Traverse :=
  let entryFine := fun i => decide (field t (32 * i) 1 ≤ 1) && decide (leNat (slice t (32 * i + 1) 7) = 0) && decide (field t (32 * i + 24) 8 = 0)
  if (List.range n).all entryFine && decide (parts.legs.length = n) && parts.legs.all (legPartsOk (classList blocks)) then
    some { classBlocks := blocks, classFrames := (List.range 4).map fun r => field h (16 + 4 * r) 4,
           legs := parts.legs.zipIdx.map fun (l, i) => { closed := field t (32 * i) 1 == 1, parts := l }, streams := parts.streams }
  else none

/-- Read a traverse's header and leg table from HBM, and put it together (log 11). -/
def parseTraverse (addr len : Nat) (parts : TraverseParts) (s : State) : Option Traverse × State :=
  match readTraverse addr len 0 64 s with
  | (none, s) => (none, s)
  | (some h, s) =>
    match traverseHeader h with
    | none => (none, s)
    | some (n, blocks, at') =>
      match readTraverse addr len at' (32 * n) s with
      | (none, s) => (none, s)
      | (some t, s) => (buildTraverse h t n blocks parts, s)

/-- The device's shape meets a traverse's class (R69). -/
def shapeMeets (s : State) (t : Traverse) : Bool :=
  (List.range 4).all fun r => decide (t.classBlocks.getD r 0 ≤ activeCount s r) && decide (t.classFrames.getD r 0 ≤ (pmapOf s r).usable)

/-- The traverse is loaded (R161, R164, R182, R226): every block starts afresh but for its scratchpad and instruction memory. -/
def installTraverse (t : Traverse) (s : State) : State :=
  let s := s.modBlks fun b => { b with blk := (b.blk.map fun (k, x) => (k, x.loaded)).filter fun e => e.2 != {} }
  let s := cacheClear s
  let s := s.modMem fun m => { m with fillBar := false, fillImage := false }
  s.modJob fun j => { j with trav := some t }

/-- The margin test is over: LOAD_TRAVERSE has its outcome (R69, R266). -/
def finishLoad (s : State) : State :=
  match s.job.loading with
  | none => s
  | some l =>
    let s := s.modJob fun j => { j with loading := none }
    match l.trav with
    | none => complete l.cmd 1 0 s
    | some t =>
      if s.job.run.isSome then complete l.cmd 3 0 s
      else if !shapeMeets s t then complete l.cmd 0x10 0 s
      else if !(t.legs.all fun g => (planWords g.parts.plan).all (laneAvailable s)) then complete l.cmd 0x11 0 s
      else complete l.cmd 0 t.legs.length (installTraverse t s)

/-- Body of a MARGIN_REQ. -/
def marginReqBody (req port line step : Nat) : List Byte := leBytes 4 req ++ leBytes 1 port ++ leBytes 1 line ++ leBytes 1 step ++ zeros 9

/-- Start the margin test of one lane (R288). -/
def startMargin (port line : Nat) (s : State) : State :=
  let req := s.oe.nextReq
  let s := s.modOe fun o => { o with nextReq := (req + 1) % 2 ^ 32, txTest := o.txTest.set none (34 * port + line) (some { req := req, start := s.aon }) }
  sendLocal (linkKey s port line) 0x20 (marginReqBody req port line 1) s (some line)

/-- ACTIVE scheduled transmit lanes, as port and line. -/
def scheduledLanes (s : State) : List (Nat × Nat) :=
  (List.range 16).flatMap fun p => (activeLines s p 0).filterMap fun l =>
    match activePos s p 0 l with
    | some k => if (posAt s k).service then none else some (p, l)
    | none => none

/-- LOAD_TRAVERSE (R265). -/
def takeLoad (parts : TraverseParts) (c : InCmd) (s : State) : State :=
  let s := leaveKeepalive s
  if c.arg0 % 4096 ≠ 0 then complete c.id 1 0 s
  else if !(regionUp s (c.arg0 / 2 ^ 38) && roundTrip s 0 (c.arg0 / 2 ^ 38)) then complete c.id 0x15 0 s
  else if s.job.loading.isSome then complete c.id 3 0 s
  else
    let lanes := scheduledLanes s
    let (trav, s) := parseTraverse c.arg0 c.arg1 parts s
    let s := s.modJob fun j => { j with loading := some { cmd := c.id, trav := trav, lanes := lanes } }
    if lanes.isEmpty then finishLoad s else lanes.foldl (fun s (p, l) => startMargin p l s) s

def execLoadTraverse (parts : TraverseParts) (errs : List ReadErr) (s : State) : Out :=
  meeting errs (fun s => .next (hostStep (fun c => c.opcode == 0x01) (takeLoad parts) s)) s

/-! ### Starting a leg (R73, R191, R194, R222) -/

/-- A logical block's state moves to its new physical block (R194). A segment with a word that cannot be read becomes FREE there; one that is
read corrected is recorded (R177). The words of the new block are written afresh. Its descriptor table bases are its own (log 143). -/
def moveBlock (old : Table Block) (b p q : Nat) (s : State) : State :=
  let from' := old.get {} p
  let lost := (from'.bad.map (· / 512)).foldl (fun acc g => insertNat g acc) []
  let at' := fun (cls code off : Nat) => { blockRecord s q cls 0 code 0 0 with address := locator b off }
  let s := s.modBlk q fun k =>
    { k with
      sp := from'.sp
      bad := []
      seg := lost.foldl (fun t g => t.set {} g {}) from'.seg
      ctr := from'.ctr
      dmem := from'.dmem
      imem := from'.imem }
  let s := s.hbm.meet.foldl (fun s x => match x with
    | .scratch b' off false => if b'.val = b then record (at' 1 0x213 off) s else s
    | _ => s) s
  lost.foldl (fun s g => record (at' 2 0x218 (4096 * g)) s) s

/-- Every move at once, the pegs and the fences of the blocks with them. -/
def moveBlocks (s : State) : State :=
  let old := s.blks.blk
  let moves := s.blks.moves
  let place := fun p => match moves.find? fun x => x.2.1 == p with | some x => x.2.2 | none => p
  let s := moves.foldl (fun s (b, p, q) => moveBlock old b p q s) (s.modBlks fun x => { x with moves := [] })
  if moves.isEmpty then s
  else
    s.modRmt fun m =>
      { m with
        peg := m.peg.map fun (n, g) => (n, if g.out then { g with block := place g.block } else g)
        fenceDue := (m.fenceDue.map fun (k, v) => (place (k / 8192) * 8192 + k % 8192, v)).foldl (fun t (k, v) => t.set false k v) [] }

/-- The physical block that holds a logical block's state: where its move still waits for step 8, the one that it leaves (R194). -/
def heldAt (s : State) (b : Nat) : Option Nat :=
  match s.blks.moves.find? fun x => x.1 == b with
  | some (_, p, _) => some p
  | none => physOf s b

/-- Scratchpad words that the moves of the station will not be able to read (R177, R194). -/
def noteUnread (errs : List ReadErr) (s : State) : State :=
  errs.foldl
    (fun s x =>
      match x with
      | .scratch b off true => (match heldAt s b with | some p => s.modBlk p fun k => { k with bad := insertNat (off / 8) k.bad } | none => s)
      | _ => s) s

/-- Run a step in which blocks may move, whose reads meet some errors of the memories. -/
def moving (errs : List ReadErr) (f : State → Out) (s : State) : Out := meeting errs f (noteUnread errs s)

/-- Tasks of logical block `b` in a leg (R191). -/
def tasksOf (t : Traverse) (l : Leg) (b : Nat) : List (Nat × Nat) :=
  let n := t.classBlocks.getD (b / 64) 0
  if b % 64 < n then
    ((l.parts.tasks.getD (b / 64) []).zipIdx.filter fun (_, i) => i % n == b % 64).map fun (e, _) => (e.1.toNat, e.2.toNat)
  else []

/-- A block's part in the start of a leg: it begins its first task and asks for its clock, or its clock stops. -/
def dispatchBlock (t : Traverse) (l : Leg) (b : Nat) (s : State) : State :=
  match physOf s b, tasksOf t l b with
  | some p, x :: xs =>
    let s := s.modBlk p fun k => { k with alloc := 0 }
    requestWake b 2 (beginTask p b (x :: xs) s)
  | some p, [] => (s.modBlk p fun k => { k with tasks := [], alloc := 0 }).modPwr fun w => { w with clk := w.clk.set 0 b 0, want := w.want.set 0 b 0 }
  | none, _ => s

/-- Start leg `j` of the traverse: moves first, then the tasks. LEG_AON of the leg after a park counts from UNPARK (log 130). -/
def startLeg (j : Nat) (s : State) : State :=
  match s.job.trav, s.job.run with
  | some t, some r =>
    match r.legAt t j with
    | none => s
    | some l =>
      let s := moveBlocks s
      let idleBlocks := (List.range 256).filter fun b => (tasksOf t l b).isEmpty
      let s := s.modJob fun x =>
        { x with run := some { r with j := j, phase := .leg, legStart := s.aon, overdue := 0, arrived := idleBlocks, drainAsked := false, drainSeen := false },
                 liveDigest := [], liveDet := [] }
      let s := s.modCol fun c => { c with next := [] }
      let s := s.modFab fun f => { f with samples := 0, bins := [], flits := [] }
      (List.range 256).foldl (fun s b => dispatchBlock t l b s) s
  | _, _ => s

/-- Step 8 of *Station steps* (R77, R96, R428): the RUN ends, the device parks, or leg `j` starts. -/
def stepEight (j : Nat) (s : State) : State :=
  match s.job.trav, s.job.run with
  | some t, some r =>
    if !shapeMeets s t then endRun 0x13 s.job.last s
    else if t.legs.length < r.first + j then endRun 0 s.job.last s
    else if s.pwr.parkPending || s.pwr.parking then
      startPark (s.modJob fun x => { x with run := some { r with j := j - 1, phase := .parked } })
    else startLeg j s
  | _, _ => s

/-! ### Starting a RUN (R72, R73, R87, R394) -/

/-- Package tables of leg `j` of the execution: its window map (R320). -/
def packageTables (j : Nat) (s : State) : State :=
  match s.job.trav, s.job.run with
  | some t, some r => (match r.legAt t j with | some l => applyMap l.parts.windows s | none => s)
  | _, _ => s

/-- Start the execution of the loaded traverse from station `base`: the settings staged for the next RUN apply with the package tables of
leg 1, and leg 1 starts. Station 0, which the first RUN of a job reaches so, has no station record and no marker (log 127). -/
def startRun (cmd base buf slots seed : Nat) (dev : Dev) (s : State) : State :=
  let s := { (leaveKeepalive s) with dev := dev }
  let t := match s.job.trav with | some t => t.legs.length | none => 0
  let run : Run := { cmd := cmd, base := base, legs := t, j := 0, buf := buf, slots := slots, phase := .atStation, legStart := s.aon, overdue := 0,
                     arrived := [], drainAsked := false, arrivedAt := 0, sealDigest := [], sealDet := [], sealEnergy := 0, sealAon := 0 }
  let s := s.modJob fun j => { j with run := some run, last := base, valid := true, seed := seed }
  let s := applyStagedWindows none (packageTables 1 (applyStaged none s))
  stepEight 1 (doMoves s)

/-- RUN (R72). Its base is `STATION_NOW.LAST` while VALID stands, and 0 otherwise: a JOB_IDENT that applies at its start begins no new count of
stations (log 128). -/
def takeRun (c : InCmd) (s : State) : State :=
  match s.job.trav with
  | none => complete c.id 2 0 s
  | some t =>
    let b := if s.job.valid then s.job.last else 0
    if s.mem.fillBar || s.mem.fill.isSome then complete c.id 2 0 s
    else if c.arg1 % 256 ≠ 0 || c.arg2 = 0 then complete c.id 1 0 s
    else if c.arg0 ≠ b || decide (0xFFFFFFFFFFFE < c.arg0 + t.legs.length) then complete c.id 0x12 0 s
    else if !classUp s then complete c.id 0x15 0 s
    else startRun c.id c.arg0 c.arg1 c.arg2 c.arg3 .run s

def execRun (errs : List ReadErr) (s : State) : Out := moving errs (fun s => .next (hostStep (fun c => c.opcode == 0x02) takeRun s)) s

/-! ### Markers (R83) -/

/-- The station marker: state 1 REACHED, 2 ARRIVED, 3 DRAINED. DEVICE is 0 while the device has no number (log 129). -/
def markerBytes (n : Nat) (closed : Bool) (st tag : Nat) (s : State) : List Byte :=
  leBytes 6 n ++ leBytes 1 (bitAt closed 0) ++ leBytes 1 st ++ leBytes 4 tag ++ leBytes 2 (s.fab.number.getD 0) ++ zeros 2

def noteMarker (m : List Byte) (s : State) : State := s.modJob fun j => { j with marker := m }

/-- Devices whose peer is ACTIVE on some lane, in ascending order. -/
def activePeers (s : State) : List Nat :=
  ((s.fab.peer.filterMap fun (_, q) => if q.st = 3 && decide (field q.hello 8 2 < 8192) then some (field q.hello 8 2) else none).filter
    fun d => s.fab.number != some d).foldl (fun acc d => insertNat d acc) []

/-- A device in the TEE role also puts each REACHED marker that it sends on the tee lane (R489). -/
def teeMarker (dst : Nat) (fm : Bool) (m : List Byte) (s : State) : State :=
  if s.mem.role = 1 then teeCopy { mgtPacket 0x10 dst fm m s with src := s.fab.number.getD 0, epoch := s.fab.epoch } s else s

/-- Send the REACHED marker of a closed station to the fabric manager. -/
def tellReached (m : List Byte) (s : State) : State := sendFm 0x10 m (teeMarker (fmDevice s) true m s)

/-- Send REACHED to every ACTIVE peer, and of a closed station to the fabric manager. -/
def sendReached (closed : Bool) (m : List Byte) (s : State) : State :=
  let s := (activePeers s).foldl (fun s d => sendMgt 0x10 d m (teeMarker d false m s)) (noteMarker m s)
  if closed then tellReached m (s.modJob fun j => { j with reached := j.reached.set [] (field m 0 6) m }) else s

/-! ### The congestion record (R316, R317, R289) -/

/-- The peer of a transmit position, whatever its optical state: its lane keeps its peer state when it leaves ACTIVE (R315). In LANE mode it is that of
the receive position with the same learned peer, on the same line where there is one (log 59). -/
def keptPeer (s : State) (p w : Nat) : Nat :=
  let q := posAt s (68 * p + w)
  if portMode s p = 1 then (peerAt s (34 * p)).st
  else
    let ks := (portPositions p 1).filter fun k => q.peer.isSome && (posAt s k).peer == q.peer && decide ((posAt s k).line < 34)
    match (ks.find? fun k => (posAt s k).line == q.line).or ks.head? with
    | some k => (peerAt s (34 * p + (posAt s k).line)).st
    | none => 0

/-- One lane entry. -/
def congEntry (s : State) (p w : Nat) : List Byte :=
  let q := posAt s (68 * p + w)
  let peer := keptPeer s p w
  let bin := fun (k i : Nat) => 65535 * s.fab.bins.get 0 ((7 * (34 * p + w) + k) * 4 + i) / max 1 s.fab.samples
  leBytes 1 p ++ leBytes 1 q.line ++ leBytes 1 q.st.code ++ leBytes 1 peer ++ leBytes 4 (s.fab.flits.get 0 (34 * p + w))
    ++ (List.range 7).flatMap fun k => (List.range 4).flatMap fun i => leBytes 2 (bin k i)

def congRecord (n tag : Nat) (s : State) : List Byte :=
  leBytes 6 n ++ leBytes 2 544 ++ leBytes 4 tag ++ leBytes 4 s.fab.samples ++ zeros 48
    ++ (List.range 544).flatMap fun i => congEntry s (i / 34) (i % 34)

/-- CONG_DATA messages that carry bytes `off` to `off + n − 1` of the record, `size` to a message. Fuel bounds their number. -/
def sendCong (req size : Nat) : Nat → Nat → Nat → State → State
  | 0, _, _, s => s
  | k + 1, off, n, s =>
    if n = 0 then s
    else
      let m := min size n
      let body := leBytes 4 req ++ leBytes 4 off ++ leBytes 2 m ++ leBytes 6 (leNat (s.fab.cong.readN 0 6)) ++ s.fab.cong.readN off m
      sendCong req size k (off + m) (n - m) (sendFm 0x42 body s)

/-- Write the record, and push it where the tables ask for it. -/
def writeCong (n tag : Nat) (s : State) : State :=
  let rec' := congRecord n tag s
  let s := s.modFab fun f => { f with cong := Mem.writeN [] 0 rec', congSeq := f.congSeq + 2 }
  if bit (field (routes s) 10 1) 0 then
    sendCong 0 4064 10 0 34880 (sendFm 0x40 (leBytes 6 n ++ zeros 2 ++ leBytes 4 34880 ++ leBytes 2 9 ++ zeros 2) s)
  else s

/-! ### Backsight at a station (R489, R492 to R495) -/

def pkgDigest (s : State) : Nat := ((List.range 4).map fun r => s.job.digest.get 0 r).sum % 2 ^ 64

def regionDigests (s : State) : List Nat := (List.range 4).map fun r => s.job.digest.get 0 r

/-- BS_DIGEST to the shadow, at step 7 of a device in the TEE role. -/
def sendDigests (s : State) : State :=
  if s.mem.role = 1 then
    sendMgt 0x35 s.mem.partner (leBytes 6 s.job.last ++ zeros 2 ++ leBytes 8 (pkgDigest s) ++ (regionDigests s).flatMap (leBytes 8)) s
  else s

/-- The shadow has still to compare the digests of the station that it stands at. -/
def compareDue (s : State) : Bool :=
  match s.mem.shadow, s.job.run with
  | some sh, some r => decide (0 < r.j) && decide (r.base < s.job.last) && decide (sh.compared ≠ s.job.last + 1)
  | _, _ => false

/-- Compare digests with those that the working device has sent for the station (R492, R493). -/
def compareDigests (s : State) : State :=
  match s.mem.shadow, s.mem.bsDigest.get [] s.job.last with
  | some sh, pkg :: theirs =>
    if !compareDue s then s
    else
      let n := s.job.last
      let s := s.modMem fun m => { m with bsDigest := m.bsDigest.keep fun k _ => decide (n < k), shadow := some { sh with compared := n + 1 } }
      let bad := ((List.range 4).filter fun r => theirs.getD r 0 != s.job.digest.get 0 r).foldl (fun x r => x + 2 ^ r) 0
      if bad = 0 ∧ pkg = pkgDigest s then
        let s := s.modMem fun m => { m with matched := min 255 (m.matched + 1) }
        if !sh.reported && decide (sh.need ≤ s.mem.matched) then
          bsReport 1 0 n (s.modMem fun m => { m with shadow := m.shadow.map fun x => { x with reported := true } })
        else s
      else
        let s := bsReport 2 bad n (s.modMem fun m => { m with missStation := n, missRegions := bad })
        fenceJob 0x31 (n + bad * 2 ^ 48) (endRun 0x31 (n + bad * 2 ^ 48) s)
  | _, _ => s

/-- Role that is staged for station `n`: role and partner. -/
def stagedRole (s : State) (n : Nat) : Option (Nat × Nat) :=
  (s.job.stage.find? fun t => t.target == some n && t.ident == 9).map fun t => (field t.payload 0 1, field t.payload 4 2)

/-- ROUTE_TABLES staged for station `n` name device `d` as this one. -/
def stagedSelf (s : State) (n d : Nat) : Bool :=
  s.job.stage.any fun t => t.target == some n && t.ident == 1 && field t.payload 2 2 == d

/-- PROMOTE (R494): the BACKSIGHT completes, and the execution goes on as a RUN that carries its TAG. Its base is station `n`, from which its legs
count; they are those of the traverse that are still to come (log 92). -/
def promote (n : Nat) (s : State) : State :=
  match s.job.run with
  | none => s
  | some r =>
    let old := cmdOf s r.cmd
    let id := s.host.nextId
    let s := complete r.cmd 0 n s
    let again := old.toList.map fun c => { c with id := id, opcode := 0x02 }
    let s := s.modHost fun h => { h with cmds := h.cmds ++ again, nextId := id + 1 }
    let s := s.modMem fun m => { m with shadow := none, ended := true, role := 0, partner := 0 }
    let again := s.job.run.map fun r => { r with cmd := id, base := n, j := 0, first := r.first + r.j, legs := r.legs - r.j }
    { s with dev := .run }.modJob fun j => { j with run := again }

/-- RELEASE (R495): the working device leaves the job to its shadow; its tables are no longer valid and it has no number. -/
def release (n : Nat) (s : State) : State :=
  let s := fenceJob 0 n (endRun 0 n s)
  let s := s.modMem fun m => { m with role := 0, partner := 0 }
  (s.modFab fun f => { f with number := none, banks := [] })

/-- QUALIFY (R495). -/
def qualify (n : Nat) (s : State) : State :=
  let s := fenceJob 0 n (endRun 0 n (bsReport 3 0 n s))
  s.modMem fun m => { m with role := 0, partner := 0 }

/-! ### Station steps (R74 to R84) -/

/-- Collectives of the leg that have not completed (R74). -/
def colsOpen (s : State) : Nat :=
  let table := colTable s
  s.col.ops.length
    + ((List.range (field table 0 4)).filter fun i => decide (s.col.next.get 0 (field table (16 + 128 * i + 3) 1) ≤ i)).length

/-- DMAs of the leg that have not completed. -/
def dmasOpen (s : State) : Nat := (s.blks.blk.map fun (_, k) => k.dma.length).sum

/-- Every condition of R74. -/
def legDone (s : State) : Bool :=
  match s.job.run with
  | some r => (List.range 256).all r.arrived.contains && dmasOpen s == 0 && colsOpen s == 0 && s.rmt.track.isEmpty
  | none => false

/-- A shadow takes part in the drain of a station at which it is promoted or qualified, once its log is empty up to the working device's
marker (R494). -/
def isReachedOf (n : Nat) (p : Packet) : Bool := p.type == 1 && mgtCode p == 0x10 && field p.payload 8 6 == n && field p.payload 15 1 == 1

def mayArrive (s : State) (n : Nat) : Bool :=
  match s.mem.shadow with
  | none => true
  | some sh =>
    (match stagedRole s n with | some (role, _) => role == 2 || role == 3 | none => false)
      && (match sh.log with | [] => true | p :: _ => isReachedOf n p)

/-- Send ARRIVED(N). -/
def sendArrived (n : Nat) (s : State) : State :=
  let m := markerBytes n true 2 s.job.tag s
  let run := s.job.run.map fun r => { r with arrivedAt := s.aon }
  let s := s.modJob fun j => { j with run := run }
  if mayArrive s n then sendFm 0x10 m (noteMarker m s) else s

/-- Steps 2 and 3: flush, close the latch, and seal. -/
def sealLeg (closed : Bool) (r : Run) (s : State) : State :=
  let s := flushAll s
  s.modJob fun j =>
    { j with run := some { r with sealDigest := (List.range 4).map fun i => j.liveDigest.get 0 i, sealDet := (List.range 4).map fun i => j.liveDet.get {} i,
                                  sealEnergy := s.pwr.jobPj / 1000000, sealAon := s.aon - r.legStart, sealTag := j.tag, sealClosed := closed,
                                  phase := if closed then .closedWait else .atStation },
             detLeg := j.liveDet, liveDigest := [], liveDet := [] }

def detWord (d : DetLeg) : Nat := bitAt d.timer 0 + d.loadUnord * 2 ^ 8 + d.fetch * 2 ^ 32 + d.casSwap * 2 ^ 48

/-- The station record (R84). That of the station of a PROMOTE names the leg that the BACKSIGHT ended there. -/
def recordBytes (n flags settings : Nat) (r : Run) (s : State) : List Byte :=
  leBytes 6 n ++ leBytes 1 (bitAt r.sealClosed 0) ++ leBytes 1 flags ++ leBytes 4 r.sealTag ++ leBytes 4 (if r.j = 0 then r.first else r.j) ++ leBytes 8 (r.sealDigest.sum % 2 ^ 64)
    ++ r.sealDigest.flatMap (leBytes 8) ++ r.sealDet.flatMap (fun d => leBytes 8 (detWord d)) ++ leBytes 8 r.sealEnergy ++ leBytes 8 r.sealAon
    ++ leBytes 4 settings ++ shapeBlocks s ++ shapeFrames s ++ zeros 120 ++ leBytes 8 (n + 2 ^ 63)

/-- Step 7: record, `STATION_NOW` and digests, congestion record, markers; and BS_DIGEST to a shadow. -/
def stepSeven (n settings : Nat) (s : State) : State :=
  match s.job.run, s.job.trav with
  | some r, some t =>
    let shrunk := !shapeMeets s t
    let flags := bitAt (settings != 0) 0 + bitAt (decide (0 < r.overdue)) 1 + bitAt shrunk 2 + bitAt s.pwr.parkPending 3
    let s := writeStationRecord (r.buf + 256 * (n % r.slots)) (recordBytes n flags settings r s) s
    let s := s.modJob fun j => { j with last := n, valid := true, digest := tableOf 0 r.sealDigest }
    let s := sendReached r.sealClosed (markerBytes n r.sealClosed 1 r.sealTag s) (writeCong n r.sealTag s)
    let s := compareDigests (sendDigests s)
    if shrunk then sendHealth 4 0 s else s
  | _, _ => s

/-- What names station `n` is still under way: checkpoints of an open station, host DMAs, and a shadow's comparison. -/
def stationBusy (s : State) (n : Nat) : Bool :=
  (s.mem.ckpts.any fun k => k.station == n) || (s.host.dmas.any fun d => d.station == some n) || compareDue s

/-- Step 8, once nothing that names the station is under way. -/
def leaveStation (s : State) : State :=
  match s.job.run with
  | some r => if r.phase == .atStation && !stationBusy s (r.base + r.j) then stepEight (r.j + 1) s else s
  | none => s

/-- Steps 6 and 7 of station `n`: the tables of the next leg, the cache of a closed station, and the record; then the frame moves with which step 8
begins, before a host DMA or a block reaches HBM (R222). -/
def toNext (n settings : Nat) (s : State) : State :=
  match s.job.run with
  | some r =>
    let s := applyStagedWindows (some n) (packageTables (r.j + 1) s)
    let s := if r.sealClosed then cacheClear s else s
    doMoves (stepSeven n settings (s.modJob fun j => { j with run := some { r with phase := .atStation } }))
  | none => s

/-- Steps 5 to 7 of station `n`. -/
def passStation (n : Nat) (s : State) : State :=
  let settings := settingsBits s (some n)
  let role := stagedRole s n
  let self := match role with | some (_, d) => stagedSelf s n d | none => false
  let s := if s.pwr.deadline.isSome then bringRation s else s
  let s := applyStaged (some n) s
  match role with
  | some (4, _) => release n (doMoves s)
  | some (3, _) => qualify n (doMoves s)
  | some (2, _) =>
    if self then
      let s := toNext n settings (promote n s)
      leaveStation ((activeLinks s).foldl (fun s k => sendHello k s) s)
    else qualify n (doMoves s)
  | _ => leaveStation (toNext n settings s)
/-- STATION_REACH (R74). At a station where step 8 has waited for what names the station, it goes on once that has ended. `errs` is what the
moves of the station meet in the memories (R194, R222). -/
def execStationReach (errs : List ReadErr) (s : State) : Out :=
  moving errs (fun s =>
    match s.job.run with
    | some r =>
      if r.phase == .atStation then .next (leaveStation s)
      else if legRuns s && legDone s then
        let n := r.base + r.j
        if stationClosed s n then .next (sendArrived n (sealLeg true r s)) else .next (passStation n (sealLeg false r s))
      else .next s
    | none => .next s) s

/-- ARRIVED_REPEAT (R286): 1 ms since the last ARRIVED, and no DRAIN_CHECK. -/
def execArrivedRepeat (s : State) : Out :=
  match s.job.run with
  | some r =>
    if r.phase == .closedWait && !r.drainSeen && decide (r.arrivedAt + 50000 ≤ s.aon) then .next (sendArrived (r.base + r.j) s) else .next s
  | none => .next s

/-! ### The drain (R79 to R81, R286, R287) -/

/-- DRAIN_CHECK (R80, R287). -/
def execDrainCheck (s : State) : Out :=
  mgtStep 0x11 drainOk (fun _ b s =>
    match s.job.run with
    | some r =>
      if r.phase == .closedWait && field b 0 6 == r.base + r.j && field b 8 4 == s.job.tag && mayArrive s (r.base + r.j) then
        s.modJob fun j => { j with run := some { r with drainAsked := true, drainSeen := true } }
      else s
    | none => s) s

/-- The counts of the drain are all zero: tracker, pools other than MGT, replay frames and relay queues. -/
def drainEmpty (s : State) : Bool :=
  s.rmt.track.isEmpty && s.fab.ackWait.isEmpty && s.fab.reqIn.isEmpty && s.fab.rspIn.isEmpty && s.fab.colIn.isEmpty && s.fab.escWait.isEmpty
    && s.fab.cross.all (fun x => poolOf x.held == 0) && s.fab.wire.all (fun w => poolOf w.2.2.held == 0) && s.fab.inWait.isEmpty
    && s.fab.link.all fun (_, l) => l.store.isEmpty && l.stage.isEmpty && l.queue.all fun c => poolOf c == 0

/-- DRAINED (R80): withheld while a checkpoint of the station runs (R481). -/
def execDrained (s : State) : Out :=
  match s.job.run with
  | some r =>
    let n := r.base + r.j
    if r.phase == .closedWait && r.drainAsked && drainEmpty s && !(s.mem.ckpts.any fun k => k.station == n) then
      let m := markerBytes n true 3 s.job.tag s
      .next (sendFm 0x10 m (noteMarker m (s.modJob fun j => { j with run := some { r with drainAsked := false } })))
    else .next s
  | none => .next s

/-- The device stands in step 4 of closed station `n`. -/
def swapDue (s : State) (n : Nat) : Bool :=
  match s.job.run with
  | some r => r.phase == .closedWait && n == r.base + r.j && mayArrive s n
  | none => false

/-- SWAP (R83, R286, R287): steps 5 to 8 once. One for a station that is past is answered with its REACHED marker; it names the tag of the leg
that the station ended, or the device's own. -/
def takeSwap (b : List Byte) (s : State) : State :=
  let n := field b 0 6
  let again := s.job.reached.get [] n
  if swapDue s n then (if field b 8 4 = s.job.tag then passStation n s else s)
  else if again ≠ [] ∧ (field b 8 4 = s.job.tag ∨ field b 8 4 = field again 8 4) then tellReached again s
  else s

def execSwap (errs : List ReadErr) (s : State) : Out := moving errs (fun s => mgtStep 0x12 drainOk (fun _ b s => takeSwap b s) s) s

/-- A marker that R83's layout accepts. -/
def markerOk (b : List Byte) : Bool :=
  decide (16 ≤ b.length) && decide (field b 6 1 ≤ 1) && decide (1 ≤ field b 7 1) && decide (field b 7 1 ≤ 3) && decide (field b 12 2 < 8192)
    && decide (field b 14 2 = 0)

/-- STATION_MARKER (R83): recorded by device, with no further action. -/
def execStationMarker (s : State) : Out :=
  mgtStep 0x10 markerOk (fun _ b s => s.modFab fun f => { f with marker := f.marker.set [] (field b 12 2) (slice b 0 16) }) s

/-! ### The leg watchdog (R94) -/

/-- Body of LEG_OVERDUE. -/
def overdueBody (r : Run) (periods : Nat) (s : State) : List Byte :=
  leBytes 6 (r.base + r.j) ++ leBytes 1 (bitAt (r.phase == .closedWait) 0) ++ zeros 1 ++ leBytes 4 s.job.tag ++ leBytes 2 (deviceField s)
    ++ leBytes 2 (256 - r.arrived.length) ++ leBytes 4 (dmasOpen s) ++ leBytes 4 (colsOpen s) ++ leBytes 4 s.rmt.track.length ++ leBytes 4 periods

/-- LEG_OVERDUE (R94): a further whole PERIOD since the start of the leg, until its step 5. -/
def execLegOverdue (s : State) : Out :=
  match s.job.run with
  | some r =>
    if (r.phase == .leg || r.phase == .closedWait) && decide ((r.overdue + 1) * (50000 * s.job.wdog) ≤ s.aon - r.legStart) then
      let body := overdueBody r (r.overdue + 1) s
      let s := raiseEvent 0x20 0 body (s.modJob fun j => { j with run := some { r with overdue := r.overdue + 1 } })
      .next (if s.fab.recovery then s else sendFm 0x13 body s)
    else .next s
  | none => .next s

/-! ### Digests from the working device (R492) -/

def bsDigestOk (b : List Byte) : Bool := decide (48 ≤ b.length) && decide (field b 6 2 = 0)

/-- BS_DIGEST: kept for its station, and compared where the shadow waits for it. -/
def execBsDigest (s : State) : Out :=
  mgtStep 0x35 bsDigestOk (fun c b s =>
    match s.mem.shadow with
    | some sh =>
      if c.pkt.src = sh.partner then
        let s := s.modMem fun m => { m with bsDigest := m.bsDigest.set [] (field b 0 6) ((List.range 5).map fun i => field b (8 + 8 * i) 8) }
        if compareDue s then leaveStation (compareDigests s) else s
      else s
    | none => s) s

end Sys2Proof.Machine
end

