-- ==== Sys2Proof/Machine/HostCmds.lean ====
section
/-! DEFINITION. Host commands of 12_host_interface: host DMA, QUERY, MGT_SEND and RATION; and the end of what names a station
(R394, R397 to R399, R404, R408, R421, R481). -/

namespace Sys2Proof.Machine

open Sys2Proof

/-! ### Host DMA (R397 to R399) -/

/-- Lines of 64 bytes that a test allows, from the first on. -/
def goodLines (ok : Nat → Bool) (n : Nat) : Nat := ((List.range (n / 64)).takeWhile ok).length

/-- Bytes of the host source that can be read, and of the host destination that can be written. -/
def readableBytes (s : State) (a n : Nat) : Nat := 64 * goodLines (fun i => !hostReadFails s (a + 64 * i) 64) n

def writableBytes (a n : Nat) : Nat := 64 * goodLines (fun i => decide (a + 64 * i + 64 ≤ 2 ^ 64)) n

/-- Region and virtual offset of an HBM address (R197). -/
def hbmPlace (a : Nat) : Nat × Nat := (a / 2 ^ 38 % 4, a % 2 ^ 38)

/-- A host DMA into HBM: what can be read moves. The answer is the status, the bytes moved, and the state. -/
def moveH2d (c : InCmd) (s : State) : Nat × Nat × State :=
  let (r, off) := hbmPlace c.arg1
  let n := readableBytes s c.arg0 c.arg2
  (if n = c.arg2 then 0 else 4, n, writeBytes r off (s.hostMem.readN c.arg0 n) s)

/-- A host DMA out of HBM: a poisoned line delivers 0xFF bytes (R399). -/
def moveD2h (c : InCmd) (s : State) : Nat × Nat × State :=
  let (r, off) := hbmPlace c.arg1
  let n := writableBytes c.arg0 c.arg2
  let (bs, poisoned, s) := readBytes r off n none s
  (if n ≠ c.arg2 then 4 else if poisoned then 6 else 0, n, { s with hostMem := s.hostMem.writeN c.arg0 bs })

/-- The region of an HBM address is in service, and region 0 reaches it and is reached from it (R15, R463). -/
def dmaReaches (s : State) (a : Nat) : Bool := regionUp s (hbmPlace a).1 && roundTrip s 0 (hbmPlace a).1

/-- A host DMA runs; its completion entry follows it. -/
def runDma (c : InCmd) (station : Option Nat) (s : State) : State :=
  let (st, n, s) := if !dmaReaches s c.arg1 then (0x15, 0, s) else if c.opcode = 4 then moveH2d c s else moveD2h c s
  s.modHost fun h => { h with dmas := (h.dmas.filter fun d => d.cmd != c.id) ++ [{ cmd := c.id, station := station, moved := some (st, n) }] }

/-- A command that R397 accepts. -/
def dmaShapeOk (c : InCmd) : Bool :=
  let off := (hbmPlace c.arg1).2
  decide (64 ≤ c.arg2) && c.arg2 % 64 == 0 && off % 64 == 0 && c.arg0 % 64 == 0 && decide (off + c.arg2 ≤ 2 ^ 38)

/-- DMA_H2D and DMA_D2H, as they are taken (R397, R398). -/
def takeHostDma (c : InCmd) (s : State) : State :=
  let (r, off) := hbmPlace c.arg1
  if !dmaShapeOk c then complete c.id 1 0 s
  else if usableBytes s r < off + c.arg2 then complete c.id 5 0 s
  else if c.arg3 = 2 ^ 48 - 1 then runDma c none s
  else if stationPassed s c.arg3 then complete c.id 0x20 0 s
  else s.modHost fun h => { h with dmas := h.dmas ++ [{ cmd := c.id, station := some c.arg3 }] }

def execDmaH2d (errs : List ReadErr) (s : State) : Out := meeting errs (fun s => .next (hostStep (fun c => c.opcode == 4) takeHostDma s)) s

def execDmaD2h (errs : List ReadErr) (s : State) : Out := meeting errs (fun s => .next (hostStep (fun c => c.opcode == 5) takeHostDma s)) s

/-- DMA_AT_STATION (R398): after step 7 of the station, and after its checkpoints. -/
def execDmaAtStation (id : Nat) (errs : List ReadErr) (s : State) : Out :=
  match (s.host.dmas.find? fun d => d.cmd == id), cmdOf s id, s.job.run with
  | some d, some c, some r =>
    if d.moved.isNone && d.station == some (r.base + r.j) && r.phase == .atStation && s.host.linkUp
        && !(s.mem.ckpts.any fun k => k.station == r.base + r.j) then meeting errs (fun s => .next (runDma c d.station s)) s
    else .next s
  | _, _, _ => .next s

/-- HOST_DMA_COMPLETE (R404): the completion entry follows the last byte; a station that waited for it goes on. -/
def execHostDmaComplete (id : Nat) (s : State) : Out :=
  match s.host.dmas.find? fun d => d.cmd == id with
  | some d =>
    match d.moved with
    | some (st, n) => .next (leaveStation (complete id st n (s.modHost fun h => { h with dmas := h.dmas.filter fun x => x.cmd != id })))
    | none => .next s
  | none => .next s

/-! ### QUERY (R408) -/

/-- `DEVICE_ID`. -/
def deviceId (s : State) : Nat := 0x4B37 * 2 ^ 48 + 0xB0 * 2 ^ 40 + (if s.dev = .boot then 0 else s.idn.version % 2 ^ 32)

def identityResult (s : State) : List Byte :=
  leBytes 8 (serialOf s) ++ leBytes 8 (deviceId s) ++ leBytes 8 s.dev.code ++ leBytes 8 s.idn.svn ++ zeros 32

def eccResult (s : State) : List Byte := (List.range 256).flatMap fun ch => leBytes 8 (s.hbm.corrected.get 0 ch)

/-- A physical block's four column entries. -/
def columnEntries (s : State) (p : Nat) : List Byte := padTo 8 ((s.blks.cols.get [] p).flatMap fun c => leBytes 2 (0x8000 + c))

def shapeResult (s : State) : List Byte :=
  shapeBlocks s ++ shapeFrames s ++ (List.range 256).flatMap (fun b => leBytes 1 (mapByte s b)) ++ (List.range 272).flatMap (columnEntries s)

def energyResult (s : State) : List Byte := leBytes 8 (s.pwr.jobPj / 1000000) ++ leBytes 8 s.pwr.energyTag

/-- A QUERY with its result: written whole, and then the completion entry. -/
def takeQuery (result : State → List Byte) (c : InCmd) (s : State) : State :=
  let bs := result s
  if c.arg1 % 64 ≠ 0 ∨ c.arg2 < bs.length then complete c.id 1 0 s
  else if 2 ^ 64 < c.arg1 + bs.length then complete c.id 4 0 s
  else complete c.id 0 bs.length { s with hostMem := s.hostMem.writeN c.arg1 bs }

def queryStep (code : Nat) (result : State → List Byte) (s : State) : Out :=
  .next (hostStep (fun c => c.opcode == 6 && c.arg0 == code) (takeQuery result) s)

def execIdentity (s : State) : Out := queryStep 1 identityResult s
def execHbmEcc (s : State) : Out := queryStep 2 eccResult s
def execShape (s : State) : Out := queryStep 3 shapeResult s
def execEnergy (s : State) : Out := queryStep 4 energyResult s

/-! ### MGT_SEND (R394) -/

/-- The link on which a link-local message to `dst` goes: the first ACTIVE transmit lane whose peer is `dst` (R285). -/
def localLink (s : State) (dst : Nat) : Option Nat :=
  (activeLinks s).find? fun k => (List.range 34).any fun l =>
    linkKey s (k / 34) l == k && (match lanePeer s (k / 34) 0 l with | some (d, _) => d == dst | none => false)

/-- A message for this device's own management core. -/
def ownMessage (p : Packet) (s : State) : State :=
  if s.fab.mgtIn.length < 64 then s.modFab fun f => { f with mgtIn := f.mgtIn ++ [{ pkt := p }] }
  else fabCount 5 s

/-- MGT_SEND: to the management core where the destination is this device (R394), otherwise as a message of the device; one with FM set that the
fabric manager cannot be sent goes to the device's own host (R304). -/
def takeMgtSend (c : InCmd) (s : State) : State :=
  if c.arg2 < 8 ∨ 4096 < c.arg2 then complete c.id 1 0 s
  else if hostReadFails s c.arg0 c.arg2 then complete c.id 4 0 s
  else
    let p : Packet := { type := 1, dst := c.arg1, jobTag := s.job.tag, payload := s.hostMem.readN c.arg0 c.arg2 }
    if !mgtOk p then complete c.id 1 0 s
    else if s.fab.number = some c.arg1 then complete c.id 0 0 (ownMessage { p with src := c.arg1, epoch := s.fab.epoch } s)
    else if linkLocal p then
      match localLink s c.arg1 with
      | some k => complete c.id 0 0 (enqueue k { pkt := { p with src := s.fab.number.getD 0, epoch := s.fab.epoch }, region := k / 136 } s)
      | none => complete c.id 0 0 s
    else if mgtFm p && !fmReachable s then complete c.id 0 0 (fmMessage p.payload (deviceField s) s)
    else complete c.id 0 0 (originate alwaysOn p s)

def execMgtSend (s : State) : Out := .next (hostStep (fun c => c.opcode == 0x0F) takeMgtSend s)

/-! ### RATION (R421, R422) -/

/-- RATION: the value becomes pending. A value below the floor is reported as CAP_UNATTAINABLE, and stands. -/
def takeRation (c : InCmd) (s : State) : State :=
  let s := rationArrived (s.modPwr fun p => { p with hostMw := c.arg0 })
  complete c.id (if newRation s < s.pwr.floorMw then 0x32 else 0) 0 s

def execRation (s : State) : Out := .next (hostStep (fun c => c.opcode == 0x10) takeRation s)

/-! ### Ends that let a station go on (R481) -/

/-- A station whose step 8 waited for a checkpoint goes on when it has ended. -/
def leaving : Out → Out
  | .next s => .next (leaveStation s)
  | o => o

/-- CHECKPOINT_RUN (R481, R482). -/
def execCheckpointRun (id : Nat) (errs : List ReadErr) (s : State) : Out := meeting errs (fun s => leaving (ckptRunStep id s)) s

/-- ACK (R329, R331, R334, R374). -/
def execAck (errs : List ReadErr) (s : State) : Out := meeting errs (fun s => leaving (ackStep s)) s

/-- E2E_TIMEOUT (R349, R343, R477). -/
def execE2eTimeout (tag : Fin 131072) (s : State) : Out := leaving (e2eStep tag s)

/-- DEAD_US_EXPIRE (R355). -/
def execDeadUsExpire (tag : Fin 131072) (s : State) : Out := leaving (deadStep tag s)

end Sys2Proof.Machine
end

