-- ==== Sys2Proof/Machine/Parking.lean ====
section
/-! DEFINITION. The floor and its grace timer, parking in BIVOUAC, rations over MCTP, the thermal model's update and the thermal stops
(R204, R425, R427 to R433, R440, R443, R445, R446). -/

namespace Sys2Proof.Machine

open Sys2Proof

/-! ### The floor (R427 to R429) -/

/-- FLOOR_EPISODE_START (R427): ten governor ticks above the ration at rung 20. -/
def execFloorEpisodeStart (s : State) : Out :=
  if governs s && !s.pwr.floorOn && s.pwr.rationRung == 20 && decide (10 ≤ s.pwr.overTicks) then
    let body := leBytes 4 s.pwr.forceMw ++ leBytes 4 s.pwr.floorMw
    let s := s.modPwr fun p => { p with floorOn := true, graceEnd := some (s.aon + 50000 * p.graceMs), underTicks := 0 }
    .next (sendHealth 5 0 (raiseEvent 0x60 0 body (powerCount 3 s)))
  else .next s

/-- GRACE_EXPIRE (R428). -/
def execGraceExpire (s : State) : Out :=
  match s.pwr.graceEnd with
  | some t =>
    if t ≤ s.aon then
      let s := s.modPwr fun p => { p with graceEnd := none }
      if s.dev == .run || s.dev == .backsight then .next (raiseRungs (s.modPwr fun p => { p with parkPending := true, parkGrace := true }))
      else if governs s then .next (startPark s)
      else .next s
    else .next s
  | none => .next s

/-- A write of `PWR_CFG` (R429): at once, the running grace timer included; a value out of range is ignored. -/
def writePwrCfg (v : Nat) (s : State) : State :=
  let ms := bits v 31 16
  if 100 ≤ ms ∧ ms ≤ 60000 then
    s.modPwr fun p => { p with graceMs := ms, graceEnd := p.graceEnd.map fun t => t - 50000 * p.graceMs + 50000 * ms }
  else s

/-- PWR_CFG_WRITE (R429). -/
def execPwrCfgWrite (value : W32) (s : State) : Out := .next (if hostWrites s false then writePwrCfg value.toNat s else s)

/-! ### Parking (R430) -/

/-- PARK: at once where no traverse executes, otherwise at step 8 of the next station. -/
def takePark (c : InCmd) (s : State) : State :=
  let s := s.modPwr fun p => { p with parkCmds := p.parkCmds ++ [c.id] }
  if s.dev == .run || s.dev == .backsight then s.modPwr fun p => { p with parkPending := true } else startPark s

def execPark (s : State) : Out := .next (hostStep (fun c => c.opcode == 0x0D) takePark s)

/-- Stacks enter self-refresh, with every write-combining buffer flushed (R212). -/
def selfRefresh (s : State) : State := (flushAll s).modHbm fun h => { h with selfRefresh := tableOf false [true, true, true, true] }

/-- The regions' PLLs stop (R33). -/
def stopPlls (s : State) : State :=
  (List.range 4).foldl (fun s r => s.modReg r fun g => { g with pll := false, nclk := false, safe := false, changing := false, stretch := false }) s

/-- Complete commands with one status and VALUE. -/
def completeAll (ids : List Nat) (status value : Nat) (s : State) : State := ids.foldl (fun s i => complete i status value s) s

/-- PARK_COMPLETE (R430): steps 3 to 5 have ended. What step 2 copies stays where it is, for UNPARK puts it back (log 86). -/
def execParkComplete (errs : List ReadErr) (s : State) : Out :=
  meeting errs (fun s =>
    if s.pwr.parking then
      let s := (stopPlls (selfRefresh s)).modPins fun p => { p with vcore := false }
      let s := enterKeepalive s
      let cmds := s.pwr.parkCmds
      let from' := s.dev
      let s := s.modPwr fun p =>
        { p with parking := false, parkPending := false, parkGrace := false, graceEnd := none, parkCmds := [], parkedFrom := some from' }
      .next (completeAll cmds 0 (if s.job.valid then s.job.last else 0) { s with dev := .bivouac })
    else .next s) s

/-- UNPARK (R433). -/
def takeUnpark (c : InCmd) (s : State) : State :=
  if s.dev == .bivouac then
    if s.pwr.forceMw < s.pwr.floorMw then complete c.id 0x32 0 s
    else s.modPwr fun p => { p with unparkCmds := p.unparkCmds ++ [c.id] }
  else complete c.id 0 0 s

def execUnpark (s : State) : Out := .next (hostStep (fun c => c.opcode == 0x0E) takeUnpark s)

/-- A region's clock starts at the slowest rung that its limits ask for. -/
def startClock (r : Nat) (s : State) : State :=
  let n := allowedRung s r
  s.modReg r fun g =>
    { g with rung := n, point := min n 5, volt := min n 5, pll := true, nclk := true, fresh := true, safe := false, changing := false }

/-- The regions in service start their clocks; an alert that stands, or that power-up has seen, holds rung 20 from then on (R434, R435, R520). -/
def startClocks (s : State) : State :=
  let held := s.pwr.alert
  let alert := alertStands s || held
  let until' := if alertPin s then none else if s.dev == .boot && held then some (s.aon + 50000) else s.pwr.alertEnd
  let s := s.modPwr fun p => { p with alert := alert, alertEnd := until' }
  (List.range 4).foldl (fun s r => if regionUp s r then startClock r s else s) s

/-- UNPARK_COMPLETE (R433): the steps of parking in reverse, and the state held before; ration rung 5. -/
def execUnparkComplete (errs : List ReadErr) (s : State) : Out :=
  moving errs (fun s =>
    if s.dev == .bivouac && !s.pwr.unparkCmds.isEmpty then
      let s := (s.modPins fun p => { p with vcore := true }).modPwr fun p => { p with rationRung := 5, lowTicks := 0, sinceMove := 0 }
      let s := leaveKeepalive ((startClocks s).modHbm fun h => { h with selfRefresh := [] })
      let cmds := s.pwr.unparkCmds
      let back := s.pwr.parkedFrom.getD .ready
      let s := completeAll cmds 0 0 (({ s with dev := back }).modPwr fun p => { p with unparkCmds := [], parkedFrom := none })
      match s.job.run with
      | some r => .next (if r.phase == .parked then startLeg (r.j + 1) s else s)
      | none => .next s
    else .next s) s

/-! ### Rations over MCTP (R425) -/

/-- The body of a ration response. -/
def rationBody (cmd code : Nat) (s : State) : List Byte :=
  leBytes 1 cmd ++ leBytes 1 code ++ leBytes 4 s.pwr.forceMw ++ leBytes 4 (inputMw s 100) ++ leBytes 8 (s.pwr.totalPj / 1000000)
    ++ leBytes 1 s.pwr.rationRung ++ leBytes 1 s.dev.code

/-- Put a message on the I3C transport. -/
def i3cSend (m : MctpMsg) (s : State) : State :=
  s.modIdn fun d => let t := { d.i3c with out := some m }; { d with i3c := t }



/-- SET_RATION (R425, R423). -/
def setRation (cmd mw : Nat) (s : State) : State :=
  let s := rationArrived (s.modPwr fun p => { p with mctpMw := mw })
  i3cSend (.ration (rationBody cmd (if newRation s < s.pwr.floorMw then 1 else 0) s)) s

/-- A ration request: a reserved CMD, or a 1 in a reserved bit, is answered INVALID. -/
def rationRequest (cmd rsv arg : Nat) (s : State) : State :=
  if rsv = 0 ∧ cmd = 1 then setRation cmd arg s
  else if rsv = 0 ∧ cmd = 2 ∧ arg = 0 then i3cSend (.ration (rationBody cmd 0 s)) s
  else i3cSend (.ration (rationBody cmd 2 s)) s

/-- The address that the I3C target answers to: the dynamic one, or without one the static address (R509). -/
def i3cAddress (s : State) : Nat := s.idn.i3cAddr.getD 0x3A

/-- A ration message is carried by I3C alone; PCIe VDM discards its type (R509). -/
def rationReaches (s : State) (t : Transport) : Bool :=
  !(s.dev == .off) && (match t with | .pcieVdm => false | .i3c a => a.toNat == i3cAddress s)

/-- SET_RATION (R425). -/
def execSetRation (t : Transport) (cmd rsv : Byte) (mw : W32) (s : State) : Out :=
  .next (if rationReaches s t then rationRequest cmd.toNat rsv.toNat mw.toNat s else s)

/-- GET_POWER (R425). -/
def execGetPower (t : Transport) (cmd rsv : Byte) (arg : W32) (s : State) : Out :=
  .next (if rationReaches s t then rationRequest cmd.toNat rsv.toNat arg.toNat s else s)

/-! ### FAULT and the thermal stops (R445, R446) -/

/-- Every command in progress ends with no further effect (log 83). -/
def endCommands (s : State) : State :=
  s.host.cmds.foldl (fun s c => complete c.id 0x14 (if c.opcode = 2 ∨ c.opcode = 9 then s.job.last else 0) s) s

/-- The device goes to FAULT: no traverse executes, and nothing waits for a command. -/
def enterFault (s : State) : State :=
  let s := endCommands s
  let s := stopClocks (stopBlocks (s.modJob fun j => { j with run := none, loading := none }))
  let s := s.modHost fun h => { h with dmas := [] }
  let s := s.modMem fun m => { m with ckpts := [], fill := none, shadow := none }
  let s := s.modPwr fun p =>
    { p with parking := false, parkPending := false, parkGrace := false, parkCmds := [], unparkCmds := [], parkedFrom := none, graceEnd := none }
  { s with dev := .fault }

/-- Every port goes dark: its light and its lanes are gone. -/
def lightsOut (s : State) : State := (List.range 16).foldl (fun s p => portOff p s) s

/-- A thermal stop: orderly or at once. The rails but VAON go; scratchpads and HBM lose their contents (log 87). -/
def thermalStop (orderly : Bool) (s : State) : State :=
  let s := enterFault s
  let s := if orderly then selfRefresh s else s
  let s := (stopPlls (lightsOut s)).modPins fun p => { p with vcore := false, vopt := false, vsram := false, vhbm := false, thermtrip := true }
  let s := (s.modBlks fun b => { b with blk := [] }).modHbm fun h => { h with dram := [], poison := [], bad := [], wcb := [] }
  recordFatal { level := 3, cls := 3, code := 0x407, detail := bitAt orderly 0 } (s.modOe fun o => { o with eng := [], txTest := [] })

/-- The thermal model can stop the device: it has not been stopped. -/
def stoppable (s : State) : Bool := modelRuns s && !s.pins.thermtrip

/-- A region stands at rung 20 with its current limit at 20 %. -/
def cornered (s : State) : Bool := (List.range 4).any fun r => (regPwr s r).rung == 20 && (regPwr s r).curLimit == 20

/-- Thermal shutdown, where one of the two cases of R445 holds. -/
def judgeShutdown (s : State) : State :=
  if !stoppable s then s
  else if atShutdown s then thermalStop false s
  else
    match s.therm.shutdownIn with
    | some us => if cornered s && decide (us ≤ 10000) then thermalStop (decide (2000 ≤ us)) s else s
    | none => s

/-! ### The thermal model (R204, R250, R440, R443) -/

/-- A stack's refresh rate follows the hottest estimate of the base die under it, with 4 °C of hysteresis. -/
def judgeRefresh (s : State) : State :=
  (List.range 8).foldl
    (fun s k =>
      let t := hottest s.therm.node (locNodes (4 + k / 2))
      s.modHbm fun h => { h with double := h.double.set false k (decide (850 < t) || (h.double.get false k && !decide (t < 810))) }) s

/-- The new estimates and predictions. -/
def takeEstimates (est : ThermEst) (s : State) : State :=
  s.modTherm fun m =>
    { m with node := est.nodes.foldl (fun t (k, v) => t.set 0 k.val v) m.node, shutdownIn := est.shutdownIn,
             activity := est.activity.foldl (fun t (k, v) => t.set 0 k.val v) m.activity,
             ring := est.rings.foldl (fun t (k, v) => t.set 0 k.val v) m.ring }

/-- THERMAL_MODEL_UPDATE (R440). -/
def execThermalModelUpdate (est : ThermEst) (s : State) : Out :=
  if !modelRuns s then .next s
  else
    let s := judgeRefresh (judgeLocations (takeEstimates est s))
    let s := est.rings.foldl (fun s (k, mK) => feedForward k.val mK s) s
    .next (judgeShutdown s)

end Sys2Proof.Machine
end

