-- ==== Sys2Proof/Machine/Boot.lean ====
section
/-! DEFINITION. Power-up and power-down, resets, boot, fuses and measurements (R412, R447, R448, R497 to R507, R514, R519 to R521). -/

namespace Sys2Proof.Machine

open Sys2Proof

/-! ### Resets (R412, table *Reset domains*) -/

/-- What every reset keeps: the outside world, the queue, the pins, fuses and OTP, the model's own counter of draws, and what power-up has seen of
VRALERT_L (R520). -/
def kept (s : State) : State :=
  let otp := s.idn
  let host : HostIf := { badHost := s.host.badHost, irqSent := s.host.irqSent }
  let idn : Ident := { otp := otp.otp, svnFuses := otp.svnFuses, revoked := otp.revoked }
  let pwr : Power := { alert := poweringUp s && s.pwr.alert }
  { State.reset with pending := s.pending, free := s.free, hostMem := s.hostMem, host := host, pins := s.pins, idn := idn, pwr := pwr }

/-- A package reset. The PCIe link goes down and trains anew; THERMTRIP_L is released. -/
def packageReset (s : State) : State := (kept s).modPins fun p => { p with thermtrip := false }

/-- What a function-level reset keeps beside that: AON time, counters since package reset, `ERR_LOG` with its SEQ, and the PCIe link. -/
def functionReset (s : State) : State :=
  let t := kept s
  let host := t.host
  let host := { host with linkUp := s.host.linkUp || s.host.d3hot, trained := s.host.trained, downSince := s.host.downSince, rate := s.host.rate,
                          aer := s.host.aer }
  let flt : Faults := { seq := s.flt.seq, log := s.flt.log, count := s.flt.count, rate := s.flt.rate, spareTold := s.flt.spareTold }
  let pwr := { t.pwr with count := s.pwr.count, totalPj := s.pwr.totalPj, reportPj := s.pwr.reportPj, samples := s.pwr.samples }
  let fab : Fabric := { count := s.fab.count }
  let rmt : Remote := { count := s.rmt.count }
  let col : Collectives := { count := s.col.count }
  let mem : Member := { count := s.mem.count }
  let oe : Optics := { aging := s.oe.aging.keep fun _ a => a.steps != 0 }
  let hbm : Hbm := { corrected := s.hbm.corrected }
  { t with aon := s.aon, host := host, flt := flt, pwr := pwr, therm := { s.therm with cal := none }, fab := fab, rmt := rmt, col := col, mem := mem, oe := oe, hbm := hbm }

/-- PWRGD is asserted: the module has released it, and the system does not hold it low. -/
def pwrgd (s : State) : Bool := s.pins.pwrgdReleased && !s.pins.pwrgdHeld

/-- FAULT_L is low (R516, R517): in FAULT, which a failed self-test enters too (R497), and whenever the hardware watchdog has found the management
core stopped for 100 ms (log 137), while VAON is up. -/
def faultL (s : State) : Bool := s.pins.vaon && (s.dev == .fault || s.idn.st == 7 || Config.coreStopped s.aon)

/-- THERMTRIP_L is low: after a thermal stop, until a package reset, while VAON is up (R516, R517). -/
def thermtripL (s : State) : Bool := s.pins.vaon && s.pins.thermtrip

/-- MOD_PRESENT_L is tied to ground on the module (R516). -/
def modPresentL (_ : State) : Bool := true

/-- PERST_L_ASSERT (R412): the package is held in reset. -/
def execPerstLAssert (s : State) : Out :=
  if s.pins.perst then .next s
  else
    let s := s.modPins fun p => { p with perst := true }
    .next (if s.dev == .off then s else packageReset s)

/-- PERST_L_DEASSERT (R497, R520): with PWRGD asserted the boot sequence starts at step 1. -/
def execPerstLDeassert (s : State) : Out :=
  if !s.pins.perst then .next s
  else
    let s := s.modPins fun p => { p with perst := false }
    .next (if s.dev == .off then s else packageReset s)

/-- The kind of reset that leaves this FAULT is a package reset: a thermal stop (R448), or HALTED (R497). -/
def needsPackageReset (s : State) : Bool := s.pins.thermtrip || s.idn.st == 7

/-- FUNCTION_LEVEL_RESET (R412, R497). Where only a package reset leaves the present state, the boot sequence does not start: the device stays in
FAULT, with what boot has found, and all else is reset. -/
def execFunctionLevelReset (s : State) : Out :=
  if s.dev == .off || s.pins.perst then .next s
  else if needsPackageReset s then
    let t := functionReset s
    .next { t with dev := s.dev, therm := s.therm, idn := { s.idn with pcie := {}, i3c := {}, i3cAddr := none } }
  else .next (functionReset s)

/-- A write of `RESET_CTRL`. -/
def writeResetCtrl (v : Nat) (s : State) : State := if bit v 0 then packageReset s else s

/-- PACKAGE_RESET (R412). -/
def execPackageReset (value : W32) (s : State) : Out := .next (if hostWrites s true then writeResetCtrl value.toNat s else s)

/-! ### Power-up and power-down (R514, R519 to R521) -/

/-- Every rail on or off. -/
def Pins.rails (p : Pins) (on : Bool) : Pins := { p with vcore := on, vsram := on, vhbm := on, vopt := on, vaon := on }

/-- Power-down: the rails go, nothing is flushed, and the device is in OFF. -/
def powerDown (s : State) : State :=
  let s := (packageReset s).modPins fun p =>
    let p := p.rails false
    { p with pwrgdReleased := false, alertCurrent := false, retry := false }
  { s.modPwr fun p => { p with alert := false } with dev := .off }

/-- One attempt of the power-up sequence, and whether its rails came up; at most three fail while the input stays up (R519). -/
def powerUp (good : Bool) (s : State) : State :=
  if good then (packageReset s).modPins fun p => let p := p.rails true; { p with pwrgdReleased := true, retry := false }
  else s.modPins fun p => let p := p.rails false; { p with attempts := p.attempts + 1, retry := decide (p.attempts + 1 < 3) }

/-- The input reads `mv`: below 50 V the front end's hold begins (R514). -/
def inputIs (mv : Nat) (s : State) : State :=
  s.modPins fun p => { p with inputMv := mv, alertInput := p.alertInput || decide (mv < 50000) }

/-- INPUT_RISE (R519): the input has risen through 49.0 V. -/
def execInputRise (mv : Nat) (railsGood : Bool) (s : State) : Out :=
  if s.dev == .off && decide (s.pins.inputMv < 49000) && decide (49000 ≤ mv) && decide (mv ≤ 66000) then
    let s := (inputIs mv s).modPins fun p => { p with attempts := 0, retry := false }
    .next (if s.pins.pwrgdHeld then s else powerUp railsGood s)
  else .next s

/-- POWER_UP_RETRY (R519): 1 s after a failed attempt, at most three in all. -/
def execPowerUpRetry (railsGood : Bool) (s : State) : Out :=
  if s.dev == .off && s.pins.retry && !s.pins.pwrgdHeld then .next (powerUp railsGood s) else .next s

/-- INPUT_UNDERVOLTAGE (R514). -/
def execInputUndervoltage (mv : Nat) (s : State) : Out :=
  if mv < 47000 then
    let s := s.modPins fun p => { p with inputMv := mv }
    .next (if s.dev == .off then s.modPins fun p => { p with retry := false } else powerDown s)
  else .next s

/-- INPUT_OVERVOLTAGE (R514). -/
def execInputOvervoltage (mv : Nat) (s : State) : Out :=
  if 66000 < mv then
    let s := s.modPins fun p => { p with inputMv := mv }
    .next (if s.dev == .off then s.modPins fun p => { p with retry := false } else powerDown s)
  else .next s

/-- PWRGD_HOLD_LOW (R521). -/
def execPwrgdHoldLow (s : State) : Out :=
  if s.pins.pwrgdHeld then .next s
  else
    let s := s.modPins fun p => { p with pwrgdHeld := true }
    .next (if s.dev == .off then s else powerDown s)

/-- The input is between the limits that power the module down. -/
def inputValid (mv : Nat) : Bool := decide (47000 ≤ mv) && decide (mv ≤ 66000)

/-- PWRGD_RELEASE (R521): with the input, which reads `mv`, valid, up again from step 2 of *Power-up*. -/
def execPwrgdRelease (mv : Nat) (railsGood : Bool) (s : State) : Out :=
  if s.pins.pwrgdHeld then
    let s := s.modPins fun p => { p with pwrgdHeld := false }
    .next (if s.dev == .off && inputValid mv then
      let s := inputIs mv s
      if s.pins.attempts < 3 then powerUp railsGood s else s
    else s)
  else .next s

/-- THERMAL_COMPARATOR_TRIP (R447): the immediate stop; OFF where a base-die comparator of region 0 trips while VAON is up. -/
def execThermalComparatorTrip (sensor : Fin 81) (s : State) : Out :=
  if s.dev == .off || (sensorLoc sensor).isNone then .next s
  else if sensorLoc sensor == some 4 && s.pins.vaon then .next (powerDown s)
  else if s.dev == .fault && s.pins.thermtrip then .next s
  else .next (thermalStop false s)

/-! ### The boot sequence (R448, R497 to R500) -/

/-- A key slot's hash, and whether the slot is programmed. -/
def keyHash (s : State) (k : Nat) : List Byte := otpBytes s (0x40 + 32 * k) 32

def keyProgrammed (s : State) (k : Nat) : Bool := decide (k < 4) && keyHash s k != zeros 32

/-- Record a measurement. -/
def putMeas (k : Nat) (bs : List Byte) (s : State) : State := s.modIdn fun d => { d with meas := d.meas.set [] k bs }

/-- Measurements of step 1 (R507). -/
def measureBoot (s : State) : State :=
  let s := putMeas 1 (beBytes 32 Config.romHash.toNat) s
  let s := putMeas 2 (sha256 (otpBytes s 0x40 128 ++ leBytes 1 s.idn.revoked ++ leBytes 8 s.idn.svnFuses)) s
  putMeas 5 (otpBytes s 0 8 ++ otpBytes s 8 4 ++ zeros 20) s

/-- A sensor at or above its location's warning level. -/
def sensorHot (s : State) (k : Nat) : Bool :=
  match sensorLoc k with
  | some l => decide ((locLevels l).1 ≤ s.therm.sensor.get 0 k)
  | none => false

def anyHot (s : State) : Bool := (List.range 81).any (sensorHot s)

/-- The ROM's reading of sensors. -/
def romReads (readings : List SensorVal) (s : State) : State :=
  s.modTherm fun m => { m with sensor := readings.foldl (fun t v => t.set 0 v.sensor.val v.deciC) m.sensor }

/-- The package is out of reset in BOOT, at step `st`. -/
def bootAt (s : State) (st : Nat) : Bool := s.dev == .boot && !s.pins.perst && s.idn.st == st

/-- SELFTEST_COMPLETE (R497, R448). A sensor that has not been read keeps the hold. -/
def execSelftestComplete (sound : Bool) (readings : List SensorVal) (s : State) : Out :=
  if bootAt s 0 then
    if sound then
      let s := measureBoot (romReads readings s)
      .next (s.modIdn fun d => { d with st := if anyHot s || !allRead readings then 2 else 1 })
    else
      let s := record { level := 3, cls := 3, code := Config.haltCode.toNat } s
      .next { s.modIdn fun d => { d with st := 7 } with dev := .fault }
  else .next s

/-- THERMAL_HOLD_CLEAR (R448). -/
def execThermalHoldClear (readings : List SensorVal) (s : State) : Out :=
  if bootAt s 2 then
    let s := romReads readings s
    .next (if anyHot s || !allRead readings then s else s.modIdn fun d => { d with st := 1 })
  else .next s

/-- A write of `BOOT_CTRL` (R498). -/
def writeBootCtrl (v : Nat) (s : State) : State :=
  if !(bit v 31) then s
  else
    let s := s.modIdn fun d => { d with attempts := min 65535 (d.attempts + 1) }
    if s.idn.st = 2 ∨ s.idn.st = 1 ∧ anyHot s then s.modIdn fun d => { d with st := 2, result := 8 }
    else if s.idn.st = 1 then s.modIdn fun d => { d with st := 3, len := bits v 22 0 }
    else s.modIdn fun d => { d with result := 9 }

/-- GO (R498). -/
def execGo (value : W32) (s : State) : Out := .next (if hostWrites s true then writeBootCtrl value.toNat s else s)

/-- Reserved bytes of the image header are 0 (R499, check 3), and its fixed fields hold. -/
def imageHeaderOk (b : List Byte) : Bool :=
  decide (field b 0 4 = 0x53555842) && decide (field b 4 4 = 1) && decide (field b 18 2 = 0x4B37) && decide (field b 20 1 = 0xB0)
    && decide (field b 21 3 = 0) && decide (leNat (slice b 28 36) = 0) && decide (leNat (slice b 192 64) = 0)

/-- The signed message of an image (R501). -/
def signedPart (b : List Byte) : List Byte := slice b 0 128 ++ b.drop 256

/-- The boot result of an image: the first check of R499 that fails, or 1. -/
def imageResult (s : State) (pcieError : Bool) (b : List Byte) : Nat :=
  let len := s.idn.len
  let k := field b 17 1
  if pcieError || hostReadFails s s.idn.src len then 2
  else if len ≠ field b 8 4 ∨ len < 4096 ∨ 4194304 < len then 3
  else if !imageHeaderOk b then 4
  else if !(keyProgrammed s k) || bit s.idn.revoked k || keyHash s k != sha256 (slice b 64 64) then 5
  else if !ecdsaValid (slice b 64 64) (signedPart b) (slice b 128 64) then 6
  else if field b 16 1 < fusedSvn s then 7
  else 1

/-- IMAGE_COPY_COMPLETE (R499, R500, R501): the image is verified; it starts, or it is discarded. -/
def execImageCopyComplete (pcieError : Bool) (s : State) : Out :=
  if bootAt s 3 then
    let b := s.hostMem.readN s.idn.src s.idn.len
    let res := imageResult s pcieError b
    if res = 1 then
      let s := putMeas 3 (sha256 (signedPart b)) (s.modTherm fun m => { m with cal := some (Config.thermalCal b) })
      let s := putMeas 4 (slice b 12 4 ++ slice b 16 1 ++ slice b 17 1 ++ zeros 26) s
      .next (s.modIdn fun d =>
        { d with st := 5, result := 1, image := b, version := field b 12 4, svn := field b 16 1, keyIndex := field b 17 1 })
    else .next (s.modIdn fun d => { d with st := 1, result := res, image := [] })
  else .next s

/-! ### Bring-up (R193, R207, R506) -/

/-- One region's memory after training: the channels that failed are inactive, and the page tables stand over the others. -/
def bringRegion (untrained : List Nat) (r : Nat) (s : State) : State :=
  let good := (List.range 64).filter fun c => !untrained.contains (64 * r + c)
  s.modHbm fun h =>
    { h with pmap := h.pmap.set {} r (PMap.build good),
             chanFailed := untrained.foldl (fun t c => if c / 64 = r then t.set false c true else t) h.chanFailed,
             chanMapout := untrained.foldl (fun t c => if c / 64 = r then t.set false c true else t) h.chanMapout }

/-- Bixus has started every optical engine, by ENGINE_START (R270): each runs, or has found no usable K. -/
def enginesStarted (s : State) : Bool := (List.range 8).all fun e => (s.oe.eng.get {} e).st != 0

/-- BRINGUP_COMPLETE (R506): with the engines started, READY, with the clocks running, HBM zeroed and mapped. -/
def execBringupComplete (untrained : List (Fin 256)) (s : State) : Out :=
  if bootAt s 5 && enginesStarted s then
    let bad := untrained.map fun c => c.val
    let s := s.modHbm fun h => { h with dram := [], poison := [], bad := [], wcb := [], chanFailed := [], chanMapout := [] }
    let s := startClocks ((List.range 4).foldl (fun s r => bringRegion bad r s) s)
    let s := (s.modIdn fun d => { d with st := 6 }).modMem fun m => { m with renewAt := s.aon + 50000 * m.renewMs }
    .next (enterReady s)
  else .next s

/-! ### Fuses (R503, R504) -/

/-- A write of `SVN_COMMIT` (R503): the fuses blow from then on, one with each tick (log 153). -/
def writeSvnCommit (v : Nat) (s : State) : State :=
  let n := v % 128
  if s.dev == .ready && n == s.idn.svn && decide (fusedSvn s < min n 64) then s.modIdn fun d => { d with blowing := true, commit := 1 }
  else s.modIdn fun d => { d with commit := 3 }

/-- SVN_COMMIT (R503). -/
def execSvnCommit (value : W32) (s : State) : Out := .next (if hostWrites s false then writeSvnCommit value.toNat s else s)

/-- Slot `k` may be revoked: it did not sign the running image, and another programmed slot stays unrevoked (R504). -/
def mayRevoke (s : State) (k : Nat) : Bool :=
  s.dev == .ready && k != s.idn.keyIndex && (List.range 4).any fun j => j != k && keyProgrammed s j && !(bit s.idn.revoked j)

def revokeSlot (s : State) (k : Nat) : State :=
  if !(bit s.idn.revoked k) && mayRevoke s k then s.modIdn fun d => { d with revoked := d.revoked ||| 2 ^ k } else s

/-- A write of `KEY_REVOKE` (R504): each bit by itself, from bit 0 on. -/
def writeKeyRevoke (v : Nat) (s : State) : State := ((List.range 4).filter (bit v)).foldl revokeSlot s

/-- KEY_REVOKE (R504). -/
def execKeyRevoke (value : W32) (s : State) : Out := .next (if hostWrites s true then writeKeyRevoke value.toNat s else s)

end Sys2Proof.Machine
end

