-- ==== Sys2Proof/Machine/Identity.lean ====
section
/-! DEFINITION. The MCTP endpoint and the SPDM responder (R425, R507 to R510). -/

namespace Sys2Proof.Machine

open Sys2Proof

/-! ### Transports (R509) -/

def transport (s : State) : Transport → McTransport
  | .pcieVdm => s.idn.pcie
  | .i3c _ => s.idn.i3c

def State.modTransport (t : Transport) (f : McTransport → McTransport) (s : State) : State :=
  match t with
  | .pcieVdm => s.modIdn fun d => let x := f d.pcie; { d with pcie := x }
  | .i3c _ => s.modIdn fun d => let x := f d.i3c; { d with i3c := x }

/-- A message of the transport reaches the device: in every state except OFF (R510), over PCIe while the link is up, and over I3C at the target's
address (R509). -/
def mctpReaches (s : State) (t : Transport) : Bool :=
  !(s.dev == .off) && (match t with | .pcieVdm => s.host.linkUp | .i3c a => a.toNat == i3cAddress s)

/-- Put a message on a transport. -/
def mctpSend (t : Transport) (m : MctpMsg) (s : State) : State := s.modTransport t fun x => { x with out := some m }

/-- SET_ENDPOINT_ID (R509). The null and broadcast identifiers are no endpoint's (log 85). -/
def execSetEndpointId (t : Transport) (eid : Byte) (s : State) : Out :=
  if mctpReaches s t && eid != 0 && eid != 0xFF then
    .next (mctpSend t (.endpoint eid.toNat) (s.modTransport t fun x => { x with eid := eid.toNat }))
  else .next s

/-- ENTDAA (R509). -/
def execEntdaa (addr : BitVec 7) (s : State) : Out :=
  .next (if s.dev == .off then s else s.modIdn fun d => { d with i3cAddr := some addr.toNat })

/-- GET_VENDOR_DEFINED_MESSAGE_SUPPORT (R425). -/
def execGetVendorDefinedMessageSupport (t : Transport) (s : State) : Out :=
  .next (if mctpReaches s t then mctpSend t (.vendor Config.enterprise.toNat) s else s)

/-! ### SPDM (R510) -/

/-- An answer that belongs to the connection's transcript. -/
def spdmSend (t : Transport) (m : MctpMsg) (s : State) : State :=
  (mctpSend t m s).modTransport t fun x => let c := { x.conn with log := x.conn.log ++ [m] }; { x with conn := c }

/-- A request that needs the connection at step `need`: otherwise ERROR UnexpectedRequest (log 85). -/
def spdmStep (t : Transport) (need : Nat) (body : State → State) (s : State) : Out :=
  if !mctpReaches s t then .next s
  else if (transport s t).conn.st < need then .next (mctpSend t (.error 4) s)
  else .next (body s)

/-- The connection stands at step `n`. -/
def connAt (t : Transport) (n : Nat) (s : State) : State :=
  s.modTransport t fun x => let c := { x.conn with st := n }; { x with conn := c }

/-- GET_VERSION (R510): it starts the connection anew. -/
def execGetVersion (t : Transport) (s : State) : Out :=
  spdmStep t 0 (fun s => spdmSend t (.version [(1, 2), (1, 3)]) (s.modTransport t fun x => { x with conn := { st := 1 } })) s

/-- GET_CAPABILITIES (R510). -/
def execGetCapabilities (t : Transport) (s : State) : Out :=
  spdmStep t 1 (fun s => spdmSend t (.capabilities true true true) (connAt t 2 s)) s

/-- NEGOTIATE_ALGORITHMS (R510). -/
def execNegotiateAlgorithms (t : Transport) (s : State) : Out :=
  spdmStep t 2 (fun s => spdmSend t .algorithms (connAt t 3 s)) s

/-- Slot 0's chain: the root hash, then the root, intermediate and device certificates. -/
def certChain (s : State) : List Byte :=
  let certs := chainCerts (otpBytes s 0x400 3072)
  otpBytes s 0x140 32 ++ Config.rootCert ++ certs.1 ++ certs.2

/-- GET_DIGESTS (R510): slot 0 only. -/
def execGetDigests (t : Transport) (s : State) : Out :=
  spdmStep t 3 (fun s => spdmSend t (.digests (sha256 (certChain s))) s) s

/-- GET_CERTIFICATE (R510). -/
def execGetCertificate (t : Transport) (slot : Byte) (offset length : W16) (s : State) : Out :=
  spdmStep t 3 (fun s =>
    let c := certChain s
    if slot != 0 || decide (c.length ≤ offset.toNat) then mctpSend t (.error 1) s
    else
      let part := (c.drop offset.toNat).take length.toNat
      spdmSend t (.certificate part (c.length - offset.toNat - part.length)) s) s

/-- A measurement (R507); one that is not recorded reads all zeros. -/
def measurement (s : State) (k : Nat) : List Byte := padTo 32 (s.idn.meas.get [] k)

/-- A signature of the identity key over the connection's transcript. -/
def spdmSignature (s : State) : Nat × State := ((Config.spdmSign s.free).toNat, { s with free := s.free + 1 })

/-- A signed answer goes at once, or, where it is not ready, ERROR ResponseNotReady goes in its place and the answer waits for RESPOND_IF_READY under
the token (R510, log 85). -/
def spdmAnswer (t : Transport) (code : Nat) (ready : Bool) (m : MctpMsg) (s : State) : State :=
  if ready then spdmSend t m (s.modTransport t fun x => let c := { x.conn with later := none }; { x with conn := c })
  else
    let token := (Config.spdmToken s.free).toNat
    mctpSend t (.notReady code token) ({ s with free := s.free + 1 }.modTransport t fun x =>
      let c := { x.conn with later := some (code, token, m) }; { x with conn := c })

/-- CHALLENGE (R510): CHALLENGE_AUTH with the summary of measurements 1 to 5. -/
def execSpdmChallenge (t : Transport) (slot : Byte) (nonce : BitVec 256) (ready : Bool) (s : State) : Out :=
  spdmStep t 3 (fun s =>
    if slot != 0 then mctpSend t (.error 1) s
    else
      let (sig, s) := spdmSignature s
      spdmAnswer t 0x83 ready (.challengeAuth nonce.toNat (sha256 ([1, 2, 3, 4, 5].flatMap (measurement s))) sig) s) s

/-- Measurements that an index of GET_MEASUREMENTS asks for: 0 their number alone, 255 all of them. -/
def measIndices (i : Nat) : Option (List Nat) :=
  if i = 0 then some [] else if i = 255 then some [1, 2, 3, 4, 5] else if i ≤ 5 then some [i] else none

/-- GET_MEASUREMENTS (R507, R510). -/
def execGetMeasurements (t : Transport) (index : Byte) (signed : Bool) (_nonce : BitVec 256) (ready : Bool) (s : State) : Out :=
  spdmStep t 3 (fun s =>
    match measIndices index.toNat with
    | none => mctpSend t (.error 1) s
    | some ks =>
      let blocks := ks.map fun k => (k, measurement s k)
      if signed then
        let (sig, s) := spdmSignature s
        spdmAnswer t 0xE0 ready (.measurements 5 blocks (some sig)) s
      else spdmAnswer t 0xE0 ready (.measurements 5 blocks none) s) s

/-- The answer that waits under a request's code and a token. -/
def laterAnswer (s : State) (t : Transport) (code token : Nat) : Option MctpMsg :=
  match (transport s t).conn.later with
  | some (c, k, m) => if c = code ∧ k = token then some m else none
  | none => none

/-- RESPOND_IF_READY (R510): the answer that was not ready goes; where none waits under that code and token, the request is not expected (log 85). -/
def execRespondIfReady (t : Transport) (code token : Byte) (s : State) : Out :=
  spdmStep t 0 (fun s =>
    match laterAnswer s t code.toNat token.toNat with
    | some m => spdmAnswer t code.toNat true m s
    | none => mctpSend t (.error 4) s) s

/-- Any other SPDM request (R510). -/
def execSpdmUnsupportedRequest (t : Transport) (_code : Byte) (s : State) : Out := spdmStep t 0 (fun s => mctpSend t (.error 7) s) s

end Sys2Proof.Machine
end

