-- ==== Sys2Proof/Machine/Issue.lean ====
section
/-! DEFINITION. The issue of a bundle, whole (R157 to R160): the commands of its slots. -/

namespace Sys2Proof.Machine

open Sys2Proof

/-! ### What each slot does -/

/-- The effect of the CTL slot of block `b`'s bundle (R160). NOP and WAIT have none of their own; a reserved operation or bit raises
BUNDLE_INVALID. -/
def ctlEffect (b p w : Nat) (s : State) : SlotRes :=
  if ctlReserved w ≠ 0 then .stopped (haltBlock p 0x209 0 0 s)
  else
    match ctlOp w with
    | 2 => doPost p w s
    | 3 => doSet p w s
    | 4 => doLoop p w s
    | 5 => doAseq b p w s
    | 6 => doLend b p w s
    | 7 => doRelease p w s
    | 8 => doDload b p w s
    | 9 => doSetbase p w s
    | 10 => doScalar p w s
    | 11 => doStation b p w s
    | _ => .issued s

/-- The same for a bundle, whose CTL slot may be empty. -/
def ctlSlot (b p w : Nat) (s : State) : SlotRes := if slotValid w 0 then ctlEffect b p (slotWord w 0) s else .issued s

/-- The array's part in a bundle. -/
def arrPart (p w : Nat) (l : SlotReads) (s : State) : State := if slotValid w 1 then takeArr p (slotWord w 1) l.tiles s else s

/-- The vector unit's part in a bundle. -/
def vecPart (p w : Nat) (l : SlotReads) (s : State) : State := if slotValid w 2 then takeVec p (slotWord w 2) l.vec s else s

/-- The DMA engine takes a descriptor, local or remote (R169, R326). -/
def takeDesc (b p w : Nat) (raw : List Byte) (s : State) : SlotRes :=
  if remoteKind (field raw 0 1) then remoteDma b p (bits w 62 55) (bits w 54 49) raw s else takeDma p (bits w 62 55) (bits w 54 49) raw s

/-- The DMA engine's part in a bundle. -/
def dmaPart (b p w : Nat) (l : SlotReads) (s : State) : State :=
  if slotValid w 3 then (match takeDesc b p (slotWord w 3) l.dma s with | .issued s => s | .stopped s => s) else s

/-! ### Issue -/

/-- The bundle issues (R158, R159): the CTL slot's effect, then every engine slot reads and checks its descriptors, then the engines take their
instructions in the order ARR, VEC, DMA. A check that fails leaves no effect of the bundle but its fault. -/
def issueBundle (b p w : Nat) (s : State) : State :=
  match ctlSlot b p w s with
  | .stopped s => s
  | .issued s' =>
    match readSlots (blkOf s' p) w with
    | .error (c, d, x) => haltBlock p c d x s
    | .ok l => passBundle p b (dmaPart b p w l (vecPart p w l (arrPart p w l s')))

/-- The block as the engine slots of its bundle find it. -/
def afterCtl (b p w : Nat) (s : State) : Block := match ctlSlot b p w s with | .issued s => blkOf s p | .stopped s => blkOf s p

/-- Block `b`'s current bundle issues, when it may and `mine` names one of its slots; a slot that belongs to no row is left to every row of
its kind. -/
def bundleRun (b : Nat) (e : HwErr) (mine : Block → Nat → Bool) (s : State) : State :=
  match physOf s b with
  | none => s
  | some p =>
    let k := blkOf s p
    match (streamOf s b)[k.pos]? with
    | none => s
    | some bv =>
      let w := bv.toNat
      if !blockIssues s b p then s
      else if bundleBad w then haltBlock p 0x209 0 0 s
      else if !bundleMayIssue k w || !mine (afterCtl b p w s) w then s
      else match meetError p e s with | .stopped s => s | .issued s => issueBundle b p w s

/-- The same as a command, with what its reads meet. -/
def bundleStep (b : Nat) (e : HwErr) (mine : Block → Nat → Bool) (s : State) : Out := meeting (errsOf e) (fun s => .next (bundleRun b e mine s)) s

/-- A bundle whose CTL slot holds operation `op`. -/
def ctlStep (op : Nat) (b : Fin 256) (e : HwErr) (s : State) : Out :=
  bundleStep b e (fun _ w => (slotValid w 0 && (ctlOp (slotWord w 0) == op || ctlRowless (slotWord w 0))) || (op == 0 && w == 0)) s

/-- A bundle whose ARR slot holds operation `op`; a reserved code raises ARITH_OPERAND. -/
def arrStep (op : Nat) (b : Fin 256) (e : HwErr) (s : State) : Out :=
  bundleStep b e (fun _ w => slotValid w 1 && (bits (slotWord w 1) 62 59 == op || decide (10 < bits (slotWord w 1) 62 59))) s

/-- A bundle whose VEC slot holds operation `op`; a reserved VOP raises ARITH_OPERAND. -/
def vecStep (op : Nat) (b : Fin 256) (e : HwErr) (s : State) : Out :=
  bundleStep b e (fun _ w => slotValid w 2 && (bits (slotWord w 2) 62 57 == op || decide (0x13 < bits (slotWord w 2) 62 57))) s

/-- KIND of the descriptor that a DMA slot names; 0 where it cannot be read. -/
def dmaKind (k : Block) (w : Nat) : Nat := match readDesc k 2 (bits w 62 55) with | .ok d => field d 0 1 | .error _ => 0

/-- A KIND that belongs to no row stops the block whichever row meets it (R327, R544). -/
def dmaRowless (kind : Nat) : Bool := !((decide (1 ≤ kind) && decide (kind ≤ 3)) || (decide (5 ≤ kind) && decide (kind ≤ 11)))

/-- A bundle whose DMA slot names a descriptor of KIND `kind`. -/
def descStep (kind : Nat) (b : Fin 256) (e : HwErr) (s : State) : Out :=
  bundleStep b e (fun k w => slotValid w 3 && (dmaKind k (slotWord w 3) == kind || dmaRowless (dmaKind k (slotWord w 3)))) s

/-! ### The rows -/

/-- NOP (R160); it also passes a bundle without any slot (DESIGN CHOICE, log 54). -/
def execNop (b : Fin 256) (e : HwErr) (s : State) : Out := ctlStep 0 b e s

/-- WAIT (R165): its condition is part of R158. -/
def execWait (b : Fin 256) (e : HwErr) (s : State) : Out := ctlStep 1 b e s

/-- POST (R166). -/
def execPost (b : Fin 256) (e : HwErr) (s : State) : Out := ctlStep 2 b e s

/-- SET (R166). -/
def execSet (b : Fin 256) (e : HwErr) (s : State) : Out := ctlStep 3 b e s

/-- LOOP (R163). -/
def execLoop (b : Fin 256) (e : HwErr) (s : State) : Out := ctlStep 4 b e s

/-- ASEQ (R185). -/
def execAseq (b : Fin 256) (e : HwErr) (s : State) : Out := ctlStep 5 b e s

/-- LEND (R187). -/
def execLend (b : Fin 256) (e : HwErr) (s : State) : Out := ctlStep 6 b e s

/-- RELEASE (R183). -/
def execRelease (b : Fin 256) (e : HwErr) (s : State) : Out := ctlStep 7 b e s

/-- DLOAD (R162). -/
def execDload (b : Fin 256) (e : HwErr) (s : State) : Out := ctlStep 8 b e s

/-- SETBASE (R161). -/
def execSetbase (b : Fin 256) (e : HwErr) (s : State) : Out := ctlStep 9 b e s

/-- SCALAR (R173). -/
def execScalar (b : Fin 256) (e : HwErr) (s : State) : Out := ctlStep 10 b e s

/-- STATION (R74, R192). -/
def execStation (b : Fin 256) (e : HwErr) (s : State) : Out := ctlStep 11 b e s

def execMac (b : Fin 256) (e : HwErr) (s : State) : Out := arrStep 0 b e s
def execMinplus (b : Fin 256) (e : HwErr) (s : State) : Out := arrStep 1 b e s
def execMaxplus (b : Fin 256) (e : HwErr) (s : State) : Out := arrStep 2 b e s
def execMaxtimes (b : Fin 256) (e : HwErr) (s : State) : Out := arrStep 3 b e s
def execL1 (b : Fin 256) (e : HwErr) (s : State) : Out := arrStep 4 b e s
def execL2sq (b : Fin 256) (e : HwErr) (s : State) : Out := arrStep 5 b e s
def execCntGt (b : Fin 256) (e : HwErr) (s : State) : Out := arrStep 6 b e s
def execCntGe (b : Fin 256) (e : HwErr) (s : State) : Out := arrStep 7 b e s
def execCntEq (b : Fin 256) (e : HwErr) (s : State) : Out := arrStep 8 b e s
def execHamming (b : Fin 256) (e : HwErr) (s : State) : Out := arrStep 9 b e s
def execSplit32 (b : Fin 256) (e : HwErr) (s : State) : Out := arrStep 10 b e s

def execAdd (b : Fin 256) (e : HwErr) (s : State) : Out := vecStep 0x00 b e s
def execMul (b : Fin 256) (e : HwErr) (s : State) : Out := vecStep 0x01 b e s
def execFma (b : Fin 256) (e : HwErr) (s : State) : Out := vecStep 0x02 b e s
def execMin (b : Fin 256) (e : HwErr) (s : State) : Out := vecStep 0x03 b e s
def execMax (b : Fin 256) (e : HwErr) (s : State) : Out := vecStep 0x04 b e s
def execExp (b : Fin 256) (e : HwErr) (s : State) : Out := vecStep 0x05 b e s
def execLog (b : Fin 256) (e : HwErr) (s : State) : Out := vecStep 0x06 b e s
def execRcp (b : Fin 256) (e : HwErr) (s : State) : Out := vecStep 0x07 b e s
def execRsqrt (b : Fin 256) (e : HwErr) (s : State) : Out := vecStep 0x08 b e s
def execCvt (b : Fin 256) (e : HwErr) (s : State) : Out := vecStep 0x09 b e s
def execCvtMx (b : Fin 256) (e : HwErr) (s : State) : Out := vecStep 0x0A b e s
def execDatum (b : Fin 256) (e : HwErr) (s : State) : Out := vecStep 0x0B b e s
def execDmax (b : Fin 256) (e : HwErr) (s : State) : Out := vecStep 0x0C b e s
def execToC (b : Fin 256) (e : HwErr) (s : State) : Out := vecStep 0x0D b e s
def execCadd (b : Fin 256) (e : HwErr) (s : State) : Out := vecStep 0x0E b e s
def execFromC (b : Fin 256) (e : HwErr) (s : State) : Out := vecStep 0x0F b e s
def execDropout (b : Fin 256) (e : HwErr) (s : State) : Out := vecStep 0x10 b e s
def execUniform (b : Fin 256) (e : HwErr) (s : State) : Out := vecStep 0x11 b e s
def execRawrand (b : Fin 256) (e : HwErr) (s : State) : Out := vecStep 0x12 b e s
def execCopy (b : Fin 256) (e : HwErr) (s : State) : Out := vecStep 0x13 b e s

def execHbmToSp (b : Fin 256) (e : HwErr) (s : State) : Out := descStep 1 b e s
def execSpToHbm (b : Fin 256) (e : HwErr) (s : State) : Out := descStep 2 b e s
def execSpToSp (b : Fin 256) (e : HwErr) (s : State) : Out := descStep 3 b e s
def execRload (b : Fin 256) (e : HwErr) (s : State) : Out := descStep 5 b e s
def execRstore (b : Fin 256) (e : HwErr) (s : State) : Out := descStep 6 b e s
def execRatomic (b : Fin 256) (e : HwErr) (s : State) : Out := descStep 7 b e s
def execPegClaimDescriptor (b : Fin 256) (e : HwErr) (s : State) : Out := descStep 8 b e s
def execNotify (b : Fin 256) (e : HwErr) (s : State) : Out := descStep 9 b e s
def execInval (b : Fin 256) (e : HwErr) (s : State) : Out := descStep 10 b e s
def execFenceDescriptor (b : Fin 256) (e : HwErr) (s : State) : Out := descStep 11 b e s

end Sys2Proof.Machine
end

