-- ==== Sys2Proof/Machine/Regions.lean ====
section
/-! DEFINITION. Loss and reset of regions, links, blocks and ports, lost clocks, and test modes (R35, R36, R270, R447, R454, R462 to
R470). -/

namespace Sys2Proof.Machine

open Sys2Proof

def regionAt (s : State) (r : Nat) : Region := s.flt.region.get {} r

def State.modRegion (r : Nat) (f : Region → Region) (s : State) : State := s.modFlt fun x => { x with region := x.region.mod {} r f }

/-! ### What a loss ends (R463) -/

/-- Requests and operations that engines of a lost region had issued are gone, with the receipts that it kept. -/
def dropRegion (s : State) : State :=
  s.modRmt fun m =>
    { m with track := m.track.keep fun t _ => regionUp s (t / 32768), quar := m.quar.keep fun t _ => regionUp s (t / 32768),
             ops := m.ops.keep fun _ o => match o with | some o => o.block == mgmtCore || regionUp s o.region | none => false,
             receipts := m.receipts.keep fun r _ => regionUp s r }

/-- Requests of the surviving regions whose target lies in the lost region, or is reached or answered through it. -/
def lostTags (s : State) : List Nat :=
  s.rmt.track.filterMap fun (t, q) => match q with | some q => if pathLost s (t / 32768) q.pkt then some t else none | none => none

/-- Checkpoints and a fill that need a lost region end with REGION_LOST. -/
def loseCore (s : State) : State :=
  let bad := s.mem.ckpts.filter fun k => coreLost s k.list k.image
  let s := bad.foldl (fun s k => endCkpt k.cmd 0x15 0 (dropCore k.cmd s)) s
  match s.mem.fill with
  | some f => if coreLost s f.ranges f.image then failFill 0x15 0 1 s else s
  | none => s

/-- Everything that R463 ends from the moment a region or a link is gone. -/
def applyLoss (s : State) : State :=
  let s := dropRegion (loseCols s)
  let s := (lostTags s).foldl (fun s t => finish t 0x43 [] s) s
  leaveStation (loseCore (cutCrossings s))

/-- The ports of region `r`'s engines. -/
def portsOf (r : Nat) : List Nat := (List.range 4).map (4 * r + ·)

/-- The ports of a region that is not UP are dark, and their links note it. -/
def portsDark (r : Nat) (s : State) : State := (portsOf r).foldl (fun s p => noteLinks p s) s

/-- A region reset takes every position of its engines to OFF and every peer to DARK, until the engines start (R252, R270, R314). -/
def portsOff (r : Nat) (s : State) : State :=
  ((portsDark r ((portsOf r).foldl (fun s p => portOff p s) s)).modOe fun o =>
    { o with eng := (o.eng.set {} (2 * r) {}).set {} (2 * r + 1) {} }).modFab fun f => { f with peer := f.peer.keep fun k _ => decide (k / 136 ≠ r) }

/-- Both links of a region: the one that it sends clockwise, and the one that it sends counter-clockwise. -/
def linksOf (r : Nat) : List Nat := [r, (r + 3) % 4]

/-- The directions in which a region sends. -/
def sends (r : Nat) : List Nat := [2 * r, 2 * ((r + 3) % 4) + 1]

/-- The REGION_LOST record and event, and the device's health report (R463, R480). -/
def tellLoss (region : Option Nat) (cause link : Nat) (s : State) : State :=
  let n := region.getD 0xFF
  let s := recordFatal { level := 3, cls := 3, code := 0x404, region := region, part := link, detail := cause } s
  sendHealth 2 (n + 256 * cause) (raiseEvent 0x80 0 (leBytes 1 n ++ leBytes 1 cause ++ leBytes 1 link) s)

/-- A region is lost (R462). -/
def loseRegion (r cause : Nat) (s : State) : State :=
  if regionMode s r == .lost || regionMode s r == .resetting then s
  else
    let s := s.modRegion r fun x => { x with mode := .lost, cause := cause }
    let s := s.modRing fun g => { g with dir := g.dir.modAll {} (sends r) fun _ d => { d with silent := true, retraining := false } }
    tellLoss (some r) cause 0xFF (applyLoss (portsDark r s))

/-- MESH_DOWN (R454): one flit has failed 8 retries. -/
def execMeshDown (r : Fin 4) (s : State) : Out :=
  if regionRuns s r && meshIsDown s r then
    .next (loseRegion r 2 (s.modRing fun g => { g with meshFails := g.meshFails.keep fun k _ => decide (k % 4 ≠ r.val) }))
  else .next s

/-- No training symbols come over link `l`: one of its directions has fallen silent. -/
def linkSilent (s : State) (l : Nat) : Bool := (d2dDir s (2 * l)).silent || (d2dDir s (2 * l + 1)).silent

/-- LINK_WATCHDOG_EXPIRE (R462, R464): the link is declared down; with both its regions running the loss is the link's own. -/
def execLinkWatchdogExpire (link : Fin 4) (s : State) : Out :=
  let l := link.val
  if s.ring.down.get false l || !linkSilent s l then .next s
  else
    let s := s.modRing fun g => { g with down := g.down.set false l true }
    if regionUp s l && regionUp s ((l + 1) % 4) then
      let s := recordFatal { level := 3, cls := 3, code := 0x403, part := l } s
      let s := [l, (l + 1) % 4].foldl (fun s r => s.modRegion r fun x => { x with cause := 4 }) s
      .next (tellLoss none 4 l (applyLoss s))
    else .next (applyLoss s)

/-! ### Lost clocks (R35, R36) -/

/-- BCLK of an operating point, in edges to the µs (R416). -/
def pointMhz (p : Nat) : Nat := [1800, 1650, 1500, 1200, 900, 600].getD p 600

/-- A count more than 1 % away from its target. -/
def offTarget (count target : Nat) : Bool := decide (target < 100 * (max count target - min count target))

/-- BCLK of region `r` is lost in this window. -/
def bclkLost (s : State) (m : ClockMeas) (r : Nat) : Bool :=
  let g := regPwr s r
  g.pll && !g.fresh && !g.skip && offTarget (m.bclk.getD r 0) (if g.safe then 600 else pointMhz g.point)

/-- NCLK of region `r` is lost in this window. -/
def nclkLost (s : State) (m : ClockMeas) (r : Nat) : Bool :=
  let g := regPwr s r
  g.nclk && !g.fresh && offTarget (m.nclk.getD r 0) 1200

/-- A clock of region `r` is lost in this window. -/
def clockLost (s : State) (m : ClockMeas) (r : Nat) : Bool := bclkLost s m r || nclkLost s m r

/-- A window has passed in region `r` and has found BCLK or NCLK lost: a lost clock has stopped, and the next window is judged whole. -/
def judgeClocks (r : Nat) (b n : Bool) (s : State) : State :=
  s.modReg r fun g =>
    { g with skip := false, fresh := false, pll := g.pll && !b, nclk := g.nclk && !n, safe := g.safe && !b, changing := g.changing && !b }

/-- The fabric reference is lost: every engine and every die-to-die direction loses its own, and the device is in FAULT. -/
def loseFabRef (s : State) : State :=
  let s := (lightsOut (enterFault s)).modOe fun o => { o with eng := [] }
  recordFatal { level := 3, cls := 3, code := 0x405 }
    (s.modRing fun g => { g with dir := g.dir.modAll {} (List.range 8) fun _ d => { d with silent := true, retraining := false } })



/-- CLOCK_MONITOR_WINDOW (R35, R36). -/
def execClockMonitorWindow (m : ClockMeas) (s : State) : Out :=
  if s.dev == .off then .next s
  else if m.aonStopped then .next (powerDown s)
  else
    let gone := (List.range 4).filter (clockLost s m)
    let judged := (List.range 4).map fun r => (r, bclkLost s m r, nclkLost s m r)
    let s := judged.foldl (fun s x => judgeClocks x.1 x.2.1 x.2.2 s) s
    let s := gone.foldl (fun s r => loseRegion r 1 s) s
    let s := if offTarget m.pcieRef 10000 then linkLost s else s
    let off := offTarget m.fabRef 15625
    let fresh := off && !s.ring.refLost
    let s := s.modRing fun g => { g with refLost := off }
    .next (if fresh then loseFabRef s else s)

/-! ### Region reset (R465, R466) -/

/-- Step 3: every unit of the region's dies is reset, and its engines are off. Scratchpads and memories of its blocks start from zero (log 88). What
the always-on domain measures, and the current limit, stay (R444, R532). -/
def resetDies (r : Nat) (s : State) : State :=
  let s := s.modBlks fun b => { b with blk := b.blk.keep fun p _ => decide (p / 68 ≠ r) }
  let s := s.modPwr fun p => { p with clk := p.clk.keep (fun b _ => decide (b / 64 ≠ r)), want := p.want.keep (fun b _ => decide (b / 64 ≠ r)) }
  let s := s.modReg r fun g =>
    { target := g.target, rung := g.rung, point := g.point, volt := g.volt, curLimit := g.curLimit, curRung := g.curRung, curLow := g.curLow,
      curMa := g.curMa, lowered := g.lowered }
  let s := s.modFlt fun f => { f with spUnc := f.spUnc.keep fun p _ => decide (p / 68 ≠ r) }
  portsOff r (cacheClearRegion r s)

/-- Step 2, where the region's NCLK runs: its buffers are flushed and its stacks go into self-refresh. Otherwise they are lost. -/
def quietHbm (r : Nat) (keep : Bool) (s : State) : State :=
  let s := if keep then flushRegion r s else s
  s.modHbm fun h => { h with selfRefresh := if keep then h.selfRefresh.set false r true else h.selfRefresh, wcb := h.wcb.keep fun c _ => decide (c / 64 ≠ r) }

/-- RESET_REGION (R465): steps 1 to 3. -/
def takeResetRegion (c : InCmd) (s : State) : State :=
  let r := c.arg0
  if regionMode s r == .resetting || regionMode s r == .test then complete c.id 0x15 0 s
  else
    let s := loseEngine r s
    let s := if s.dev == .run || s.dev == .backsight then fenceJob 0x15 s.job.last s else s
    let s := loseRegion r 3 s
    let keep := (regPwr s r).nclk
    let s := s.modRegion r fun x => { x with mode := .resetting, cmd := some c.id, keep := keep }
    resetDies r (quietHbm r keep s)

def execResetRegion (errs : List ReadErr) (s : State) : Out :=
  meeting errs (fun s => .next (hostStep (fun c => c.opcode == 0x0C) takeResetRegion s)) s

/-- Every line of a region reads zero. -/
def zeroRegion (r : Nat) (s : State) : State :=
  s.modHbm fun h =>
    { h with dram := h.dram.keep (fun a _ => decide (a / 2 ^ 37 ≠ r)), poison := h.poison.keep (fun l _ => decide (l / 2 ^ 31 ≠ r)),
             bad := h.bad.keep (fun l _ => decide (l / 2 ^ 31 ≠ r)) }

/-- Channels that do not train are mapped out by the procedure of R221, their lines lost. -/
def mapOutLost (r : Nat) (untrained : List Nat) (s : State) : State :=
  let new := untrained.filter fun c => !(s.hbm.chanMapout.get false (64 * r + c))
  let s := s.modHbm fun h => { h with chanFailed := new.foldl (fun t c => t.set false (64 * r + c) true) h.chanFailed }
  doMoves (new.foldl (fun s c => mapOutOp r c s) s)

/-- Step 6: links whose far region runs train from all 272 lanes; their spares are whole again, as are those of the region's ports (R455). -/
def retrainLinks (r : Nat) (s : State) : State :=
  let up := (linksOf r).filter fun l => regionUp s (if l = r then (r + 1) % 4 else l)
  let s := s.modRing fun g =>
    { g with dir := (up.flatMap fun l => [2 * l, 2 * l + 1]).foldl (fun t k => t.set {} k {}) g.dir,
             down := up.foldl (fun t l => t.set false l false) g.down,
             meshFails := g.meshFails.keep fun k _ => decide (k % 4 ≠ r) }
  s.modFlt fun f => { f with spareTold := f.spareTold.filter fun (k, _, u, _) => !(k == 4 && up.contains u || k == 5 && u / 4 == r) }

/-- Steps 6 and 8: the region is UP, and the device holds no loaded traverse. -/
def regionBack (r : Nat) (s : State) : State :=
  let s := retrainLinks r s
  let s := s.modBlks fun b => { b with blk := (b.blk.map fun (p, k) => (p, if p / 68 = r then { k with seg := [], ctr := [], halted := false } else k)).filter fun e => e.2 != {} }
  let s := s.modRegion r fun x => { x with mode := .up, cmd := none, keep := false }
  s.modJob fun j => { j with trav := none }

/-- Steps 4 and 5, then 6 and 8: what does not train is mapped out before every line of an unkept region is written with zero. -/
def bringBack (r : Nat) (keep : Bool) (untrained : List Nat) (s : State) : State :=
  let s := s.modHbm fun h => { h with selfRefresh := h.selfRefresh.set false r false }
  let s := mapOutLost r untrained s
  regionBack r (startClock r (if keep then s else zeroRegion r s))

/-- Step 7 has started both engines of a region, by ENGINE_START (R270). -/
def regionEngines (s : State) (r : Nat) : Bool := (engineOf s (2 * r)).st != 0 && (engineOf s (2 * r + 1)).st != 0

/-- RESET_REGION_COMPLETE (R465, R466): step 8, behind step 7. -/
def execResetRegionComplete (r : Fin 4) (untrained : List (Fin 64)) (s : State) : Out :=
  if regionMode s r == .resetting && regionEngines s r then
    let x := regionAt s r
    let s := bringBack r x.keep (untrained.map fun c => c.val) s
    .next (match x.cmd with | some id => complete id 0 0 s | none => s)
  else .next s

/-! ### Block reset (R467) and port reset (R270) -/

/-- The remote operations of a block that is reset are gone with its queues; a reply to one of their requests finds nothing (R467). The tags of their
atomics are free after their quarantine (R333). -/
def dropBlock (p : Nat) (s : State) : State :=
  let mine := fun (q : Req) => !q.col && (s.rmt.ops.get none q.op).any fun o => o.block == p
  let atomics := s.rmt.track.filterMap fun (t, q) => match q with | some q => if mine q && q.pkt.type == 0x13 then some t else none | none => none
  s.modRmt fun m =>
    { m with track := m.track.keep (fun _ q => match q with | some q => !mine q | none => true),
             quar := atomics.foldl (fun t k => t.set 0 k (s.aon + holdTime m.timers + 1)) m.quar,
             ops := m.ops.keep fun _ o => match o with | some o => o.block != p | none => true }

/-- RESET_BLOCK: the block stops and is empty; it issues nothing until the next LOAD_TRAVERSE. -/
def takeResetBlock (c : InCmd) (s : State) : State :=
  match physOf s c.arg0 with
  | none => complete c.id 1 0 s
  | some p =>
    if !(regionUp s (p / 68)) then complete c.id 0x15 0 s
    else if runInProgress s && !(blkOf s p).halted then complete c.id 3 0 s
    else
      ((dropBlock p s).modBlk p fun _ => { halted := true }).modFlt fun f => { f with spUnc := f.spUnc.set 0 p 0 }

def execResetBlock (s : State) : Out := .next (hostStep (fun c => c.opcode == 0x11) takeResetBlock s)

/-- RESET_BLOCK_COMPLETE (R467): the self-test's findings are recorded as in service. -/
def execResetBlockComplete (b : Fin 256) (columns : List (Fin 132)) (failed : Bool) (s : State) : Out :=
  match s.host.cmds.find? fun c => c.opcode == 0x11 && c.arg0 == b.val, physOf s b with
  | some c, some p =>
    let s := columns.foldl (fun s k => columnFails p k s) s
    .next (complete c.id 0 0 (if failed then failBlock p none s else s))
  | some c, none => .next (complete c.id 0 0 s)
  | none, _ => .next s

/-- RESET_PORT (R270, R314): positions and peers start anew; the engine keeps its calibration. -/
def takeResetPort (c : InCmd) (s : State) : State :=
  if !(regionUp s (c.arg0 / 4)) then complete c.id 0x15 0 s
  else
    let s := noteLinks c.arg0 (portOff c.arg0 s)
    let s := s.modFab fun f => { f with peer := f.peer.keep fun k _ => decide (k / 34 ≠ c.arg0) }
    complete c.id 0 0 (startPort c.arg0 s)

def execResetPort (s : State) : Out := .next (hostStep (fun c => c.opcode == 0x12) takeResetPort s)

/-! ### Test modes (R468 to R470) -/

/-- START may start this mode. -/
def testMay (s : State) (mode param : Nat) : Bool :=
  s.dev == .ready && s.job.tag == 0 && s.fab.recovery && !s.flt.testBusy && decide (1 ≤ mode) && decide (mode ≤ 7)
    && (!([1, 2, 5].contains mode) || (decide (1 ≤ param) && decide (param ≤ 60000)))

/-- Regions that a value of REGIONS selects. -/
def testRegionsOf (v : Nat) : List Nat := (List.range 4).filter (bit v)

/-- A selected region goes into TEST: a die-to-die loop-back takes its links out of service, an optical one its ports. One that is being
reset stays so until its reset completes (DESIGN CHOICE, log 136). -/
def beginTest (mode r : Nat) (s : State) : State :=
  if regionMode s r == .resetting then s
  else
  let s := s.modRegion r fun x => { x with mode := .test }
  let s := s.modFlt fun f => { f with testResult := f.testResult.set {} r { mode := mode } }
  let s := if mode = 1 ∨ mode = 2 then s.modRing fun g => { g with down := (linksOf r).foldl (fun t l => t.set false l true) g.down } else s
  portsDark r s

/-- A write of `TEST_CTRL`: PARAM, REGIONS and MODE, REFUSED as W1C, and START. -/
def writeTestCtrl (v : Nat) (s : State) : State :=
  let mode := bits v 3 0
  let s := s.modFlt fun f =>
    { f with testParam := bits v 63 32, testRegions := bits v 11 8, testMode := mode, testRefused := f.testRefused && !(bit v 30) }
  if !(bit v 31) then s
  else if testMay s mode (bits v 63 32) then
    applyLoss ((testRegionsOf (bits v 11 8)).foldl (fun s r => beginTest mode r s) (s.modFlt fun f => { f with testBusy := true }))
  else s.modFlt fun f => { f with testRefused := true }

/-- The row of one test mode: a write of `TEST_CTRL`. -/
def testStep (value : Nat) (s : State) : Out := .next (if hostWrites s false then writeTestCtrl value s else s)

def execD2dNear (value : W64) (s : State) : Out := testStep value.toNat s
def execD2dFar (value : W64) (s : State) : Out := testStep value.toNat s
def execOeElec (value : W64) (s : State) : Out := testStep value.toNat s
def execOeDriver (value : W64) (s : State) : Out := testStep value.toNat s
def execOeOptical (value : W64) (s : State) : Out := testStep value.toNat s
def execBlockBist (value : W64) (s : State) : Out := testStep value.toNat s
def execHbmMarch (value : W64) (s : State) : Out := testStep value.toNat s

/-- Region `r` returns to service: after HBM_MARCH and BLOCK_BIST by steps 3 to 8, otherwise by steps 6 to 8. Its engines start from OFF, behind it
(log 136). -/
def endTestRegion (r : Nat) (s : State) : State :=
  let mode := (s.flt.testResult.get {} r).mode
  if 6 ≤ mode then bringBack r false [] (resetDies r (quietHbm r false s)) else regionBack r (portsOff r s)

/-- A row that fails the march is reported by the record that its line would give in service, and counted (R199, R216). -/
def rowFails (line row : Nat) (s : State) : State :=
  countRow (lineChannel line) (rowKey row line) (poisonRead (line / 2 ^ 31) (lineChannel line) (virtOff s line) (lineFrame line) none s)

/-- Units that a test has found failed are recorded and marked as in service (R470). -/
def takeFind (t : TestFind) (s : State) : State :=
  let r := t.region.val
  let s := s.modFlt fun f => { f with testResult := f.testResult.mod {} r fun x =>
    { x with done := true, pass := t.failedUnits == 0, failed := min 65535 t.failedUnits, errors := min 65535 t.errors } }
  let s := t.columns.foldl (fun s (p, c) => columnFails (68 * r + p.val) c.val s) s
  let s := t.blocks.foldl (fun s p => failBlock (68 * r + p.val) none s) s
  let s := t.rows.foldl (fun s (l, row) => rowFails (2 ^ 31 * r + l.toNat) row s) s
  let s := t.channels.foldl (fun s c => failChannel (64 * r + c.val) 1 s) s
  let s := t.lanes.foldl (fun s x => lanesFail x.1 x.2.1 [x.2.2.val] s) s
  t.positions.foldl (fun s p => retirePos (posKey p) s) s

/-- TEST_END (R469, R470): a selected region of which nothing is told has passed. -/
def execTestEnd (found : List TestFind) (s : State) : Out :=
  if s.flt.testBusy then
    let mine := (List.range 4).filter fun r => regionMode s r == .test
    let s := mine.foldl (fun s r => endTestRegion r s) (s.modFlt fun f => { f with testBusy := false })
    let s := mine.foldl (fun s r => s.modFlt fun f => { f with testResult := f.testResult.mod {} r fun x => { x with done := true, pass := true } }) s
    .next ((found.filter fun t => mine.contains t.region.val).foldl (fun s t => takeFind t s) s)
  else .next s

end Sys2Proof.Machine
end

