-- ==== Sys2Proof/Machine/Margin.lean ====
section
/-! DEFINITION. Margin tests of scheduled lanes, bias steps of service lanes, and CONG_READ (R240, R264 to R268, R287 to R289, R317). -/

namespace Sys2Proof.Machine

open Sys2Proof

def txTestOf (s : State) (k : Nat) : Option TxTest := s.oe.txTest.get none k

def rxTestOf (s : State) (k : Nat) : Option RxTest := s.oe.rxTest.get none k

def setTxTest (k : Nat) (t : Option TxTest) (s : State) : State := s.modOe fun o => { o with txTest := o.txTest.set none k t }

def setRxTest (k : Nat) (t : Option RxTest) (s : State) : State := s.modOe fun o => { o with rxTest := o.rxTest.set none k t }

/-! ### The receiver (R265, R288) -/

/-- The current leg's lane plan uses the lane (R265; log 90). -/
def planUses (s : State) (port line : Nat) : Bool :=
  match currentLeg s with
  | some l => (planWords l.parts.plan).any fun w => bits w 3 0 == port && bits w 9 4 == line
  | none => false

/-- MARGIN_RESULT to the transmitting device (R288). -/
def sendMarginResult (t : RxTest) (kind pass eye rlm symErr : Nat) (s : State) : State :=
  match localLink s t.device with
  | some key =>
    sendLocal key 0x21 (leBytes 4 t.req ++ leBytes 1 t.port ++ leBytes 1 t.line ++ leBytes 1 kind ++ leBytes 1 pass ++ leBytes 2 eye ++ leBytes 2 rlm
      ++ leBytes 4 symErr ++ zeros 16) s
  | none => s

/-- A MARGIN_REQ that came by receive link `key`. -/
def takeMarginReq (key : Nat) (b : List Byte) (s : State) : State :=
  let port := key / 34
  let line := field b 5 1
  let k := 34 * port + line
  match lanePeer s port 1 line with
  | none => s
  | some (device, _) =>
    if field b 6 1 = 1 then
      let t : RxTest := { device := device, req := field b 0 4, port := field b 4 1, line := line }
      if planUses s port line then sendMarginResult t 3 0 0 0 0 s else setRxTest k (some t) s
    else
      match rxTestOf s k with
      | some t => if t.req = field b 0 4 && t.told then setRxTest k (some { t with counting := true }) s else s
      | none => s

/-- MARGIN_REQ (R288). -/
def execMarginReq (s : State) : Out := mgtStep 0x20 marginReqOk (fun c b s => takeMarginReq c.link b s) s

/-- PASS of a FINAL result (table *Margin test*): eye in 0.1 %, errors in 10^9 symbols, level spacing in 0.001. -/
def marginPass (eye rlm symErr : Nat) : Nat :=
  let a := decide (120 ≤ eye)
  let b := decide (symErr ≤ 10000)
  let c := decide (950 ≤ rlm)
  bitAt a 0 + bitAt b 1 + bitAt c 2 + bitAt (a && b && c) 3

/-- MARGIN_COUNT_COMPLETE (R288, R265): first the eye and the levels, then the count at reduced bias. -/
def execMarginCountComplete (port : Fin 16) (line : Fin 34) (eyeMin rlm : W16) (symErr : W32) (s : State) : Out :=
  let k := 34 * port.val + line.val
  match rxTestOf s k with
  | none => .next s
  | some t =>
    if t.counting then
      .next (setRxTest k none (sendMarginResult t 2 (marginPass t.eye t.rlm symErr.toNat) t.eye t.rlm symErr.toNat s))
    else if t.told then .next s
    else
      let t := { t with told := true, eye := eyeMin.toNat, rlm := rlm.toNat }
      .next (sendMarginResult t 1 0 t.eye t.rlm 0 (setRxTest k (some t) s))

/-! ### The transmitter (R265, R266, R288) -/

/-- The positions that carry a line of a transmit port take a test's result. -/
def setMargin (port line : Nat) (passed : Bool) (s : State) : State :=
  ((portPositions port 0).filter fun k => (posAt s k).line == line).foldl (fun s k => s.modPos k fun q => { q with margin := passed }) s

/-- The lane has its result: LOAD_TRAVERSE goes on when no lane is left (R266). -/
def laneTested (port line : Nat) (s : State) : State :=
  match s.job.loading with
  | none => s
  | some l =>
    let l := { l with lanes := l.lanes.filter fun x => x != (port, line) }
    let s := s.modJob fun j => { j with loading := some l }
    if l.lanes.isEmpty then finishLoad s else s

/-- A test ends: nominal bias returns (R288). A lane that has failed raises LANE_MARGIN_FAIL (R265, R539). -/
def endMargin (port line : Nat) (failed : Option (Nat × List Byte)) (s : State) : State :=
  let s := setMargin port line failed.isNone (setTxTest (34 * port + line) none s)
  let s := match failed with
    | none => s
    | some (cause, rest) =>
      let device := match lanePeer s port 0 line with | some (d, _) => d | none => 0
      raiseEvent 0x45 0 (leBytes 1 port ++ leBytes 1 line ++ leBytes 1 cause ++ rest ++ leBytes 2 device) s
  laneTested port line s

/-- PASS, EYE_MIN, RLM and SYM_ERR of the event. -/
def marginWords (pass eye rlm symErr : Nat) : List Byte := leBytes 1 pass ++ leBytes 2 eye ++ leBytes 2 rlm ++ leBytes 4 symErr

def takeMarginResult (b : List Byte) (s : State) : State :=
  let port := field b 4 1
  let line := field b 5 1
  let k := 34 * port + line
  match txTestOf s k with
  | none => s
  | some t =>
    if t.req ≠ field b 0 4 then s
    else
      match field b 6 1 with
      | 1 =>
        if t.reduced then s
        else
          sendLocal (linkKey s port line) 0x20 (marginReqBody t.req port line 2)
            (setTxTest k (some { t with reduced := true, eye := field b 8 2, rlm := field b 10 2 }) s) (some line)
      | 2 =>
        if bit (field b 7 1) 3 then endMargin port line none s
        else endMargin port line (some (1, marginWords (field b 7 1) (field b 8 2) (field b 10 2) (field b 12 4))) s
      | _ => endMargin port line (some (2, marginWords 0 (field b 8 2) (field b 10 2) 0)) s

/-- MARGIN_RESULT (R288). -/
def execMarginResult (s : State) : Out := mgtStep 0x21 marginResultOk (fun _ b s => takeMarginResult b s) s

/-- MARGIN_TEST_TIMEOUT (R265): 50 ms since the request. -/
def execMarginTestTimeout (port : Fin 16) (line : Fin 34) (s : State) : Out :=
  match txTestOf s (34 * port.val + line.val) with
  | some t => if t.start + 2500000 ≤ s.aon then .next (endMargin port line (some (3, marginWords 0 t.eye t.rlm 0)) s) else .next s
  | none => .next s

/-! ### Service lanes and bias steps (R240, R267, R268) -/

/-- BIAS_NEED body (R287). -/
def biasNeedBody (port line : Nat) (m : Int) (s : State) : List Byte :=
  leBytes 2 (s.fab.number.getD 0) ++ leBytes 1 port ++ leBytes 1 line ++ leBytes 2 (twos 16 m) ++ zeros 10

/-- SERVICE_MARGIN_SAMPLE (R267): one estimate of the averaged power, in tenths of a dBm. -/
def execServiceMarginSample (port : Fin 16) (line : Fin 34) (deciDbm : Int) (s : State) : Out :=
  match activePos s port 1 line with
  | none => .next s
  | some k =>
    if !(posAt s k).service then .next s
    else
      let m := deciDbm + 80
      let low := if m < (calOf s k).biasThr then (posAt s k).lowMs + 1 else 0
      let s := s.modPos k fun q => { q with marginDb := m, lowMs := low }
      let rested := match (posAt s k).need with | some t => decide (t + 50000000 ≤ s.aon) | none => true
      match (posAt s k).peer with
      | some (device, txPort) =>
        if decide (64 ≤ low) && rested then
          .next (sendMgt 0x22 device (biasNeedBody txPort line m s) (s.modPos k fun q => { q with need := some s.aon }))
        else .next s
      | none => .next s

/-- Aging record of a line of an engine (R268). -/
def agingOf (s : State) (e line : Nat) : Aging := s.oe.aging.get {} (34 * e + line)

/-- A STEP may be written now (R240). -/
def stepAllowed (s : State) (e line : Nat) (busy : Bool) : Bool :=
  !busy && (match (agingOf s e line).last with | some t => decide (t + 5000000 ≤ s.aon) | none => true)
    && (txTestOf s (68 * e + line)).isNone && (txTestOf s (68 * e + 34 + line)).isNone

/-- One up-step of a line, and the reading of its headroom (R239, R268). -/
def biasStep (e line headroom : Nat) (s : State) : State :=
  let a := agingOf s e line
  let tell := decide (headroom = 0) && !a.exhausted
  let a := { a with steps := min 65535 (a.steps + 1), headroom := headroom, exhausted := decide (headroom = 0), last := some s.aon }
  let s := (joinComb s).modOe fun o => { o with aging := o.aging.set {} (34 * e + line) a, combSelect := e + 256 * line }
  if tell then raiseEvent 0x46 0 (leBytes 1 e ++ leBytes 1 line ++ leBytes 2 a.steps) s else s

/-- BIAS_NEED (R268): the source's BUSY, and the HEADROOM that it answers. -/
def execBiasNeed (busy : Bool) (headroom : Byte) (s : State) : Out :=
  mgtStep 0x22 biasNeedOk (fun _ b s =>
    let e := field b 2 1 / 2
    if stepAllowed s e (field b 3 1) busy then biasStep e (field b 3 1) headroom.toNat s else s) s

/-! ### CONG_READ (R289, R317) -/

/-- CONG_READ (R289): CONG_DATA messages that carry the bytes asked for. -/
def execCongRead (s : State) : Out := mgtStep 0x41 congReadOk (fun _ b s => sendCong (field b 0 4) 4064 9 (field b 4 4) (field b 8 4) s) s

end Sys2Proof.Machine
end

