-- ==== Sys2Proof/Machine/Membership.lean ====
section
/-! DEFINITION. Leases, fencing, and the shadow of a working device (R471 to R480, R488 to R491). -/

namespace Sys2Proof.Machine

open Sys2Proof

def memCount (k : Nat) (s : State) : State := s.modMem fun m => { m with count := m.count.mod 0 k (· + 1) }

/-! ### Leases (R471 to R475) -/

/-- LEASE_RENEW body. -/
def renewBody (s : State) : List Byte :=
  leBytes 4 s.mem.reqId ++ leBytes 4 (if s.mem.lstate = 1 then s.mem.lease else 0) ++ leBytes 1 s.mem.lstate ++ leBytes 1 s.dev.code
    ++ leBytes 6 s.job.last ++ leBytes 4 s.job.tag ++ leBytes 8 (serialOf s)

/-- LEASE_RENEW (R471): RENEW_MS after the last one. -/
def execLeaseRenew (s : State) : Out :=
  if discovers s && decide (s.mem.renewAt ≤ s.aon) then
    let body := renewBody s
    .next (sendFm 0x30 body (s.modMem fun m =>
      let sent := m.renewals ++ [(m.reqId, s.aon)]
      { m with renewals := sent.drop (sent.length - 16), reqId := (m.reqId + 1) % 2 ^ 32, renewAt := m.renewAt + 50000 * m.renewMs }))
  else .next s

/-- A device that a grant readmits leaves FENCED (R475), or will when it unparks. -/
def leaveFenced (s : State) : State :=
  if s.dev == .fenced then enterReady s
  else if s.dev == .bivouac && s.pwr.parkedFrom == some .fenced then s.modPwr fun p => { p with parkedFrom := some .ready }
  else s

/-- A number below the one held, or one that a notice has revoked (R472). -/
def grantStale (s : State) (n : Nat) : Bool := decide (n < s.mem.lease) || (s.mem.lstate == 3 && decide (n ≤ max s.mem.lease s.mem.revoked))

/-- A LEASE_GRANT of lease `n` for `ms` that answers renewal `req` (R472). -/
def takeGrant (req n ms : Nat) (s : State) : State :=
  match s.mem.renewals.find? fun r => r.1 == req with
  | none => memCount 1 s
  | some (_, t) =>
    if ms < 20 ∨ 2000 < ms ∨ grantStale s n then memCount 1 s
    else
      let same := decide (n = s.mem.lease)
      let back := !same || (s.mem.lstate == 2 && decide (s.mem.lapsedAt < t))
      let expiry := if same then max s.mem.expiry (t + 49950 * ms) else t + 49950 * ms
      let s := s.modMem fun m => { m with lease := n, lstate := 1, expiry := expiry }
      if back then leaveFenced s else s

def grantOk (b : List Byte) : Bool := decide (10 ≤ b.length) && decide (1 ≤ field b 4 4)

/-- LEASE_GRANT (R472, R475). -/
def execLeaseGrant (s : State) : Out := mgtStep 0x31 grantOk (fun _ b s => takeGrant (field b 0 4) (field b 4 4) (field b 8 2) s) s

/-- The device enters FENCED, or will when it unparks (R473), and says so (R480). READY in keep-alive leaves keep-alive on the way
(R269); FAULT is left by a reset alone (R5). -/
def enterFenced (s : State) : State :=
  if s.dev == .fault || s.dev == .boot || s.dev == .off then s
  else
    let s := if s.dev == .bivouac then s.modPwr fun p => { p with parkedFrom := some .fenced } else { leaveKeepalive s with dev := .fenced }
    sendHealth 6 0 s

/-- Steps of R473, with the event that is raised. -/
def loseLease (code : Nat) (body : List Byte) (s : State) : State := enterFenced (raiseEvent code 0 body (endJob 0x14 s.job.last s))

/-- LEASE_EXPIRY (R473). -/
def execLeaseExpiry (s : State) : Out :=
  if discovers s && s.mem.lstate == 1 && decide (s.mem.expiry ≤ s.aon) then
    .next (loseLease 0x70 (leBytes 4 s.mem.lease) (s.modMem fun m => { m with lstate := 2, lapsedAt := s.aon }))
  else .next s

/-- A write of `LEASE_CFG` (R471): a value out of range is ignored. -/
def writeLeaseCfg (v : Nat) (s : State) : State :=
  let ms := bits v 11 0
  if 10 ≤ ms ∧ ms ≤ 500 then s.modMem fun m => { m with renewMs := ms } else s

/-- LEASE_CFG_WRITE (R471). -/
def execLeaseCfgWrite (value : W32) (s : State) : Out := .next (if hostWrites s false then writeLeaseCfg value.toNat s else s)

/-! ### Fencing (R476 to R478) -/

/-- What a device newly fenced ends at once: a fill from it, and every held request to it (R477, R485). -/
def cutOff (d : Nat) (s : State) : State :=
  let s := match s.mem.fill with | some f => if addrDevice f.addr = d then settleCore (abortFill 2 s) else s | none => s
  (s.rmt.track.filterMap fun (t, q) => match q with | some q => if q.pkt.dst = d ∧ q.wait ≠ .dead then some t else none | none => none).foldl
    (fun s t => unresponsive t s) s

/-- FENCE_ACK. -/
def fenceAck (epoch d : Nat) (s : State) : State := sendFm 0x33 (leBytes 4 epoch ++ leBytes 2 d) s

/-- A notice that names another device (R476). -/
def fenceOther (epoch d : Nat) (clear : Bool) (s : State) : State :=
  if (s.mem.fence.get {} d).epoch < epoch then
    let s := s.modMem fun m => { m with fence := m.fence.set {} d { fenced := !clear, epoch := epoch }, fenceEpoch := max m.fenceEpoch epoch }
    fenceAck epoch d (if clear then s else cutOff d s)
  else fenceAck epoch d s

/-- A notice that names this device (R478). One that revokes nothing new changes nothing. -/
def fenceSelf (epoch d lease : Nat) (clear : Bool) (s : State) : State :=
  if clear ∨ lease < s.mem.lease then s
  else if s.mem.lstate = 3 ∧ lease ≤ s.mem.revoked then fenceAck epoch d s
  else
    let body := leBytes 4 s.mem.lease ++ leBytes 4 epoch ++ leBytes 4 lease
    fenceAck epoch d (loseLease 0x71 body (s.modMem fun m => { m with lstate := 3, revoked := lease, fenceEpoch := max m.fenceEpoch epoch }))

def noticeOk (b : List Byte) : Bool :=
  decide (12 ≤ b.length) && decide (1 ≤ field b 0 4) && decide (field b 4 2 < 8192) && decide (field b 6 1 < 2) && decide (field b 7 1 = 0)

/-- FENCE_NOTICE (R476, R478). -/
def execFenceNotice (s : State) : Out :=
  mgtStep 0x32 noticeOk (fun _ b s =>
    let d := field b 4 2
    let clear := bit (field b 6 1) 0
    if s.fab.number = some d then fenceSelf (field b 0 4) d (field b 8 4) clear s
    else leaveStation (fenceOther (field b 0 4) d clear s)) s

/-! ### BACKSIGHT (R488) -/

/-- Operands that the table *BACKSIGHT operands* allows. -/
def backsightOk (s : State) (c : InCmd) : Bool :=
  let len := c.arg2
  decide (bits c.arg0 15 13 = 0) && decide (bits c.arg0 31 24 = 0) && decide (c.arg0 < 2 ^ 48) && decide (1 ≤ bits c.arg0 47 32)
    && c.arg1 % 2 ^ 21 == 0 && decide (len < 2 ^ 40) && len % 2 ^ 21 == 0 && decide (2 ^ 26 ≤ len) && decide (len ≤ 2 ^ 36)
    && inUsable s c.arg1 len && c.arg3 % 256 == 0

/-- The fill that a shadow starts from: with image, completed, for the station the device stands at. -/
def filledHere (s : State) : Bool :=
  s.mem.fillState == 2 && s.mem.fillImage && s.job.valid && decide (s.mem.fillStation = s.job.last) && !s.mem.fillBar && s.mem.fill.isNone

/-- The shadow's execution: base station N, whose record holds what the registers hold of it, for no leg has been run here (log 91). -/
def shadowRun (c : InCmd) (legs : Nat) (s : State) : Run :=
  { cmd := c.id, base := s.job.last, legs := legs, j := 0, buf := c.arg3, slots := bits c.arg0 47 32, phase := .atStation, legStart := s.aon,
    overdue := 0, arrived := [], drainAsked := false, arrivedAt := 0, sealDigest := regionDigests s,
    sealDet := (List.range 4).map fun r => s.job.detLeg.get {} r, sealEnergy := s.pwr.jobPj / 1000000, sealAon := 0, sealTag := s.job.tag,
    sealClosed := true }

/-- Steps 5 to 8 of station N, with the package tables of the first leg and the settings staged for the next RUN. -/
def startShadow (c : InCmd) (legs : Nat) (s : State) : State :=
  let s := ({ (leaveKeepalive s) with dev := .backsight }).modFab fun f => { f with samples := 0, bins := [], flits := [] }
  let n := s.job.last
  let run := shadowRun c legs s
  let s := s.modJob fun j => { j with run := some run, seed := c.arg4 }
  let s := s.modMem fun m =>
    { m with shadow := some { cmd := c.id, partner := bits c.arg0 12 0, need := if bits c.arg0 23 16 = 0 then 16 else bits c.arg0 23 16,
                              logAddr := c.arg1, logLen := c.arg2 },
             partner := bits c.arg0 12 0, matched := 0, ended := false, teeKnown := false, bsDigest := [] }
  let settings := settingsBits s none
  let s := applyStagedWindows none (packageTables 1 (applyStaged none s))
  let tag := s.job.tag
  let s := s.modJob fun j => { j with run := j.run.map fun r => { r with sealTag := tag } }
  stepEight 1 (doMoves (stepSeven n settings s))

def takeBacksight (c : InCmd) (s : State) : State :=
  match s.job.trav with
  | none => complete c.id 2 0 s
  | some t =>
    if s.dev != .ready || !filledHere s then complete c.id 2 0 s
    else if !backsightOk s c then complete c.id 1 0 s
    else if !classUp s then complete c.id 0x15 0 s
    else startShadow c t.legs.length s

/-- BACKSIGHT (R488). -/
def execBacksight (errs : List ReadErr) (s : State) : Out := moving errs (fun s => .next (hostStep (fun c => c.opcode == 0x09) takeBacksight s)) s

/-! ### The tee log (R489 to R491) -/

def State.modShadow (f : Shadow → Shadow) (s : State) : State := s.modMem fun m => { m with shadow := m.shadow.map f }

/-- Bytes of the tee log in use. -/
def Shadow.used (sh : Shadow) : Nat := (sh.log.map Packet.size).sum

/-- Write a copy into the tee log, around its end. -/
def logBytes (sh : Shadow) (bs : List Byte) (s : State) : State :=
  let n := min bs.length (sh.logLen - sh.logPos)
  let put := fun (at' : Nat) (x : List Byte) (s : State) =>
    if x.isEmpty then s else writeBytes ((sh.logAddr + at') / 2 ^ 38) ((sh.logAddr + at') % 2 ^ 38) x s
  put 0 (bs.drop n) (put sh.logPos (bs.take n) s)

/-- A copy enters the log. -/
def logCopy (sh : Shadow) (p : Packet) (s : State) : State :=
  memCount 2 ((logBytes sh p.bytes s).modShadow fun sh => { sh with log := sh.log ++ [p], logPos := (sh.logPos + p.size) % sh.logLen })

/-- Link `key` is the tee lane: as learned from the first copy, or, before one, a lane of the working device. -/
def teeLane (s : State) (port line : Nat) : Bool :=
  if s.mem.teeKnown then linkKey s port line == linkKey s s.mem.teePort s.mem.teeLine
  else match s.mem.shadow, lanePeer s port 1 line with
    | some sh, some (d, _) => d == sh.partner
    | _, _ => false

/-- TEE_COPY_RECEIVE (R490, R491): a full log leaves the copy where it is, and its credit withheld; a parked device discards it (R431). -/
def execTeeCopyReceive (port : Fin 16) (line : Fin 34) (errs : List ReadErr) (s : State) : Out :=
  meeting errs (fun s =>
    let key := linkKey s port line
    let st := (fabLink s key).stream
    match nextInStream (st.length + 1) st with
    | (_, none) => .next s
    | (rest, some b) =>
      let p := parsePacket b
      let taken := returnCredit { pkt := p, link := key, pool := 7, units := p.units } (s.modLink key fun l => { l with stream := rest })
      if !teeLane s port line || linkLocal p || !headerOk b then .next s
      else if (peerAt s key).st ≠ 3 || s.dev == .bivouac then .next (fabCount 6 taken)
      else
        match s.mem.shadow with
        | some sh =>
          if sh.used + p.size ≤ sh.logLen then
            .next (logCopy sh p (taken.modMem fun m => { m with teeKnown := true, teePort := port, teeLine := line }))
          else .next s
        | none => if s.mem.ended && copyLike s p then .next taken else .next s) s

/-- A copy is taken from the head of the log. -/
def popCopy (s : State) : State := s.modShadow fun sh => { sh with log := sh.log.drop 1 }

/-- What an outcome's state is; none of these meanings stops. -/
def afterOut (o : Out) (s : State) : State := match o with | .next t => t | _ => s

/-- The working device's REACHED marker for station `n` (R490, R494). -/
def teeMarkerCopy (n : Nat) (s : State) : State :=
  if s.job.valid && decide (n ≤ s.job.last) then popCopy s
  else
    match s.job.run with
    | some r =>
      let own := match stagedRole s n with | some (role, _) => role == 2 || role == 3 | none => false
      if r.phase == .closedWait && n == r.base + r.j && !own then passStation n (popCopy s) else s
    | none => s

/-- The window that a copied request names has not reached the generation that the request names. -/
def windowAhead (s : State) (p : Packet) : Bool :=
  let x := winOf s (addrWindow p.addr)
  let d := (p.gen + 4096 - x.gen) % 4096
  decide (d < 2048) && (x.st == 0 || decide (0 < d))

/-- A copied request needs a state that the shadow has not reached (R490; log 92). -/
def requestWaits (s : State) (p : Packet) : Bool :=
  if p.type = 0x16 ∨ p.type = 0x17 then false
  else if windowAhead s p then true
  else if p.type = 0x15 then
    let q := pegOf s (field p.payload 0 2)
    let granted := q.out && q.window == addrWindow p.addr && q.grant == some p.src
    winLive s (addrWindow p.addr) p.gen && !granted && !(match q.done with | some (src, _, _) => src == p.src | none => false)
  else if p.type = 0x14 ∨ p.type = 0x10 then false
  else
    let inTurn := match ctxNext s p.src p.ch with | some n => n == p.seq | none => p.seq == 0
    inTurn && checkRequest s p == 3

/-- Apply a copied request as a target would (R490): what it would answer is formed and discarded. -/
def teeRequest (p : Packet) (s : State) : State :=
  let c : Carried := { pkt := p, region := targetRegion s p }
  if !payloadOk p then fabCount 0 (popCopy s)
  else if requestWaits s p || heldByCheckpoint s p then s
  else if p.type = 0x14 then handleClaim c (popCopy s)
  else if p.type = 0x15 then handleDone c (popCopy s)
  else handleOrdered c (popCopy s)

/-- The request that a copied reply answers has not been made here yet (R490; log 92). -/
def replyWaits (s : State) (p : Packet) : Bool :=
  if p.type = 0x33 then
    let key := pegKey (field p.payload 2 2) p.src (field p.payload 0 2) (p.gen % 4096)
    (s.rmt.grants.get none key).isNone && !(s.col.ops.any fun o => o.sends.any fun x => x.dev == p.src && x.peg == field p.payload 0 2 && decide (2 ≤ x.st))
  else
    let n := s.rmt.seq.get 0 (chanKey p.src p.ch)
    decide ((p.seq + 2 ^ 24 - n) % 2 ^ 24 < 2 ^ 23)

/-- Match a copied reply to the shadow's own request, and take it as a reply (R490). -/
def teeReply (p : Packet) (s : State) : State :=
  match requestFor s p with
  | some _ =>
    let s := (popCopy s).modFab fun f => { f with rspIn := { pkt := p } :: f.rspIn }
    match p.type with
    | 0x30 => afterOut (execLoadData [] s) s
    | 0x31 => afterOut (execAck [] s) s
    | 0x32 => afterOut (execAtomicResult s) s
    | _ => afterOut (execPegGrant s) s
  | none => if replyWaits s p then s else rmtCount 5 (popCopy s)

/-- The shadow has not reached the window generation that a copied COL packet names, or has not yet lent and granted its peg. A peg that is granted
to another has been so at the working device too, for all that came before is handled: such a copy is stale (log 92). -/
def colAhead (s : State) (p : Packet) (q : Peg) : Bool :=
  windowAhead s p || (winLive s (addrWindow p.addr) (p.gen % 4096) && !(q.out && q.grant.isSome))

/-- Land a copied COL packet under the shadow's own pegs (R490); a stale one is counted as any other. -/
def teeCol (p : Packet) (s : State) : State :=
  let q := pegOf s (p.seqCh % 2 ^ 14)
  let again := q.done == some (p.src, p.tag, p.gen % 4096)
  if again || colLands s p q || !colAhead s p q then handleCol { pkt := p, region := q.block / 68 } (popCopy s) else s

/-- TEE_LOG_HANDLE (R490): the copy at the head of the log, once the shadow has reached the state that it needs. -/
def execTeeLogHandle (errs : List ReadErr) (s : State) : Out :=
  moving errs (fun s =>
    match s.mem.shadow with
    | none => .next s
    | some sh =>
      match sh.log with
      | [] => .next s
      | p :: _ =>
        if p.type = 1 then .next (if mgtCode p = 0x10 then teeMarkerCopy (field p.payload 8 6) s else popCopy s)
        else if p.jobTag ≠ s.job.tag then .next s
        else if p.type = 0x40 then .next (teeCol p s)
        else if isRequest p.type then .next (teeRequest p s)
        else .next (teeReply p s)) s

end Sys2Proof.Machine
end

