-- ==== Sys2Proof/Machine/Operands.lean ====
section
/-! DEFINITION. The BAR0 address map: which register or window an offset names (R528 to R530). -/

namespace Sys2Proof.Machine

open Sys2Proof

/-- The registers and windows of the table *BAR0 address map*, an indexed one with its index. -/
inductive Reg where
  | deviceId | deviceSerial | deviceState | resetCtrl | regionStatus | stageStatus
  | bootSrc | bootCtrl | bootStatus | svnStatus | svnCommit | keyRevoke | meas (k : Nat) | otpPublic
  | cmdRingBase (i : Nat) | cmdRingCfg (i : Nat) | cmdRingStatus (i : Nat)
  | cplRingBase (j : Nat) | cplRingCfg (j : Nat) | cplIrq (j : Nat) | cplRingStatus (j : Nat)
  | evtRingBase | evtRingCfg | evtIrq | evtRingStatus | fmBufBase | fmBufCfg | msixTable | msixPba
  | stationNow | legWdog | detCtrl | pkgDigest | stationDigest (r : Nat) | detLeg (r : Nat)
  | pwrStatus | pwrRation | pwrCfg | pwrFloor | energyJob | energyTag | energyTotal | thermStatus (r : Nat) | pwrCount (k : Nat)
  | errLogStatus | testCtrl | testResult (r : Nat) | blockHealth (r : Nat) | errCount (k : Nat) | errLog | colFailed (r : Nat)
  | leaseStatus | leaseCfg | fenceStatus | fillStatus | bsStatus | memberCount (k : Nat) | fenceTable
  | pmapStatus (r : Nat) | hbmChanFailed (r : Nat) | hbmChanMapout (r : Nat) | hbmRefresh | d2dStatus (l : Nat)
  | winTable | rmtCount (k : Nat) | colCount (k : Nat)
  | fabStatus | congSeq | fabCount (k : Nat) | fabPeer (p : Nat) | fabCong
  | oeStatus (e : Nat) | oeLane (p : Nat) | oeAging (e : Nat) | oeXtalk (e : Nat) | oeCal (e : Nat) | pmapTable (r : Nat)
  deriving DecidableEq, Repr

/-- A row of the table *BAR0 address map*: first offset, number of registers and their distance, bytes of each (a 4-byte register has
a whole slot of 8), and the column "BOOT". -/
structure BarRow where
  base : Nat
  count : Nat := 1
  stride : Nat := 8
  size : Nat := 8
  boot : Bool := false
  reg : Nat → Reg

def barBoot : List BarRow :=
  [{ base := 0x000000, boot := true, reg := fun _ => .deviceId }, { base := 0x000008, boot := true, reg := fun _ => .deviceSerial },
   { base := 0x000010, boot := true, reg := fun _ => .deviceState }, { base := 0x000018, boot := true, reg := fun _ => .resetCtrl },
   { base := 0x000020, reg := fun _ => .regionStatus }, { base := 0x000028, reg := fun _ => .stageStatus },
   { base := 0x001000, boot := true, reg := fun _ => .bootSrc }, { base := 0x001008, boot := true, reg := fun _ => .bootCtrl },
   { base := 0x001010, boot := true, reg := fun _ => .bootStatus }, { base := 0x001018, boot := true, reg := fun _ => .svnStatus },
   { base := 0x001020, reg := fun _ => .svnCommit }, { base := 0x001028, boot := true, reg := fun _ => .keyRevoke },
   { base := 0x001100, count := 5, stride := 0x20, size := 32, boot := true, reg := fun k => .meas (k + 1) },
   { base := 0x002000, size := 4096, stride := 4096, boot := true, reg := fun _ => .otpPublic }]

def barRings : List BarRow :=
  [{ base := 0x010000, count := 64, reg := .cmdRingBase }, { base := 0x010200, count := 64, reg := .cmdRingCfg },
   { base := 0x010400, count := 64, reg := .cmdRingStatus }, { base := 0x010600, count := 64, reg := .cplRingBase },
   { base := 0x010800, count := 64, reg := .cplRingCfg }, { base := 0x010A00, count := 64, reg := .cplIrq },
   { base := 0x010C00, count := 64, reg := .cplRingStatus }, { base := 0x010E00, reg := fun _ => .evtRingBase },
   { base := 0x010E08, reg := fun _ => .evtRingCfg }, { base := 0x010E10, reg := fun _ => .evtIrq },
   { base := 0x010E18, reg := fun _ => .evtRingStatus }, { base := 0x010E20, reg := fun _ => .fmBufBase },
   { base := 0x010E28, reg := fun _ => .fmBufCfg },
   { base := 0x011000, size := 2048, stride := 2048, boot := true, reg := fun _ => .msixTable },
   { base := 0x011800, size := 16, stride := 16, boot := true, reg := fun _ => .msixPba }]

def barJob : List BarRow :=
  [{ base := 0x020000, reg := fun _ => .stationNow }, { base := 0x020008, reg := fun _ => .legWdog }, { base := 0x020010, reg := fun _ => .detCtrl },
   { base := 0x020018, reg := fun _ => .pkgDigest }, { base := 0x020020, count := 4, reg := .stationDigest },
   { base := 0x020040, count := 4, reg := .detLeg }, { base := 0x030000, reg := fun _ => .pwrStatus },
   { base := 0x030010, stride := 16, size := 16, reg := fun _ => .pwrRation }, { base := 0x030020, reg := fun _ => .pwrCfg },
   { base := 0x030028, reg := fun _ => .pwrFloor }, { base := 0x030030, reg := fun _ => .energyJob }, { base := 0x030038, reg := fun _ => .energyTag },
   { base := 0x030040, reg := fun _ => .energyTotal }, { base := 0x030080, count := 4, reg := .thermStatus },
   { base := 0x030100, count := 8, reg := .pwrCount }]

def barFaults : List BarRow :=
  [{ base := 0x040000, boot := true, reg := fun _ => .errLogStatus }, { base := 0x040008, reg := fun _ => .testCtrl },
   { base := 0x040010, count := 4, reg := .testResult }, { base := 0x040040, count := 4, stride := 16, size := 16, reg := .blockHealth },
   { base := 0x040100, count := 12, boot := true, reg := .errCount },
   { base := 0x041000, stride := 16384, size := 16384, boot := true, reg := fun _ => .errLog },
   { base := 0x048000, count := 4, stride := 0x400, size := 544, reg := .colFailed },
   { base := 0x050000, reg := fun _ => .leaseStatus }, { base := 0x050008, reg := fun _ => .leaseCfg }, { base := 0x050010, reg := fun _ => .fenceStatus },
   { base := 0x050018, reg := fun _ => .fillStatus }, { base := 0x050020, stride := 16, size := 16, reg := fun _ => .bsStatus },
   { base := 0x050040, count := 4, reg := .memberCount }, { base := 0x060000, stride := 65536, size := 65536, reg := fun _ => .fenceTable }]

def barMemory : List BarRow :=
  [{ base := 0x080000, count := 4, reg := .pmapStatus }, { base := 0x080020, count := 4, reg := .hbmChanFailed },
   { base := 0x080040, count := 4, reg := .hbmChanMapout }, { base := 0x080060, reg := fun _ => .hbmRefresh },
   { base := 0x080080, count := 4, reg := .d2dStatus }, { base := 0x090000, stride := 4096, size := 4096, reg := fun _ => .winTable },
   { base := 0x091000, count := 8, reg := .rmtCount }, { base := 0x091040, count := 8, reg := .colCount },
   { base := 0x100000, count := 4, stride := 0x40000, size := 0x40000, reg := .pmapTable }]

def barFabric : List BarRow :=
  [{ base := 0x0A0000, reg := fun _ => .fabStatus }, { base := 0x0A0008, reg := fun _ => .congSeq }, { base := 0x0A0040, count := 8, reg := .fabCount },
   { base := 0x0A1000, count := 16, stride := 0x100, size := 136, reg := .fabPeer },
   { base := 0x0C0000, stride := 65536, size := 34880, reg := fun _ => .fabCong }, { base := 0x0D0000, count := 8, reg := .oeStatus },
   { base := 0x0D1000, count := 16, stride := 0x400, size := 544, reg := .oeLane },
   { base := 0x0D5000, count := 8, stride := 0x100, size := 136, reg := .oeAging },
   { base := 0x0D8000, count := 8, stride := 0x1000, size := 2448, reg := .oeXtalk },
   { base := 0x0E0000, count := 8, stride := 0x1000, size := 1088, reg := .oeCal }]

def barMap : List BarRow := barBoot ++ barRings ++ barJob ++ barFaults ++ barMemory ++ barFabric

/-- The row covers an offset. -/
def BarRow.covers (x : BarRow) (off : Nat) : Bool :=
  decide (x.base ≤ off) && decide ((off - x.base) / x.stride < x.count) && decide ((off - x.base) % x.stride < x.size)

/-- Where a BAR0 offset leads: the register, which 64-bit word of it, and whether BOOT serves it; none for a reserved offset. -/
def regAt (off : Nat) : Option (Reg × Nat × Bool) :=
  (barMap.find? fun x => x.covers off).map fun x => (x.reg ((off - x.base) / x.stride), (off - x.base) % x.stride / 8, x.boot)

/-- An access of R529: naturally aligned, of 32 or 64 bits. -/
def accessOk (off size : Nat) : Bool := (size == 4 || size == 8) && off % size == 0

/-- The low half of a word is written; the high half is (R530). -/
def writesLow (off size : Nat) : Bool := off % 8 == 0 || size == 8

def writesHigh (off size : Nat) : Bool := off % 8 == 4 || size == 8

/-- A word of 64 bits after a write to it or to one half. -/
def mergeHalves (old off size value : Nat) : Nat :=
  if size = 8 then value % 2 ^ 64
  else if off % 8 = 0 then old / 2 ^ 32 * 2 ^ 32 + value % 2 ^ 32
  else value % 2 ^ 32 * 2 ^ 32 + old % 2 ^ 32

end Sys2Proof.Machine
end

