-- ==== Sys2Proof/Machine/Flags.lean ====
section
/-! DEFINITION. What each register and window of BAR0 reads: status fields from the state (R407, R428, R471, R531, R532, R534 to R538,
and the tables *Registers* of each chapter). No read has an effect (R10). -/

namespace Sys2Proof.Machine

open Sys2Proof

/-- A number that saturates in `w` bits. -/
def satBits (w n : Nat) : Nat := min (2 ^ w - 1) n

/-- A 64-bit word of two 32-bit entries. -/
def twoWords (f : Nat → Nat) (k : Nat) : Nat := f (2 * k) + f (2 * k + 1) * 2 ^ 32

/-- Word `k` of bytes. -/
def wordOf (bs : List Byte) (k : Nat) : Nat := field bs (8 * k) 8

/-! ### Host interface -/

def cmdCfgWord (r : CmdRing) : Nat := bitAt r.enable 31 + bitAt r.prio 30 + r.log2 % 16 * 2 ^ 16 + r.cpl % 64

def cmdStatusWord (s : State) (i : Nat) : Nat := bitAt (cmdActive s i) 31 + bitAt (cmdRing s i).error 30 + (cmdRing s i).ci

def outCfgWord (r : OutRing) : Nat := bitAt r.enable 31 + r.log2 % 32 * 2 ^ 16 + r.vector % 128 * 2 ^ 8

def outIrqWord (r : OutRing) : Nat := r.irqTime * 2 ^ 16 + r.irqCount

def outStatusWord (r : OutRing) : Nat := r.seq % 2 ^ 32 * 2 ^ 32 + bitAt r.enable 31 + bitAt r.error 30 + r.pi

/-- MSI-X table: address, then data and the vector control word with its mask bit. -/
def msixWord (s : State) (k : Nat) : Nat :=
  let e := s.host.msix.get {} (k / 2)
  if k % 2 = 0 then e.addr.toNat else e.data.toNat + bitAt e.mask 32

def pbaWord (s : State) (k : Nat) : Nat := ((List.range 64).filter fun i => s.host.pba.get false (64 * k + i)).foldl (fun n i => n + 2 ^ i) 0

/-! ### Job and stations -/

def stageWord (s : State) : Nat :=
  bitAt s.job.regRefused 31 + (s.job.stage.map fun t => t.target).dedup.length * 2 ^ 8 + s.job.stage.length

def stationWord (s : State) : Nat :=
  let waits := match s.job.run with | some r => r.phase == .closedWait | none => false
  bitAt s.job.valid 63 + bitAt waits 48 + s.job.last

/-! ### Boot and identity -/

/-- OTP fields that the host may read in `OTP_PUBLIC` (R505, R537). -/
def otpShown (a : Nat) : Bool :=
  decide (0x40 ≤ a ∧ a < 0xC0) || decide (0x100 ≤ a ∧ a < 0x160) || decide (0x220 ≤ a ∧ a < 0x260) || decide (0x400 ≤ a ∧ a < 0x1000)

def otpWord (s : State) (k : Nat) : Nat := leNat ((List.range 8).map fun i => if otpShown (8 * k + i) then s.idn.otp.read (8 * k + i) else 0)

def bootWord (s : State) : Nat := s.idn.st * 2 ^ 28 + s.idn.result * 2 ^ 16 + s.idn.attempts

def svnWord (s : State) : Nat :=
  fusedSvn s * 2 ^ 24 + (if s.dev = .boot then 0 else s.idn.svn) * 2 ^ 16 + s.idn.commit

/-! ### Power and temperature -/

def rungBits (s : State) : Nat := ((List.range 4).map fun r => (regPwr s r).rung % 32 * 2 ^ (28 + 5 * r)).sum

def pwrWord (s : State) : Nat :=
  satBits 16 (inputMw s 100 / 1000) * 2 ^ 48 + rungBits s + s.pwr.rationRung % 32 * 2 ^ 23 + bitAt s.pwr.parkPending 4 + bitAt s.pwr.floorOn 3
    + bitAt s.therm.modelFault 2 + bitAt s.pwr.alert 1 + bitAt s.pins.thermtrip 0

def rationWord (s : State) (k : Nat) : Nat :=
  if k = 0 then pendingMw s + s.pwr.forceMw * 2 ^ 32 else s.pwr.mctpMw + s.pwr.hostMw * 2 ^ 32

/-- A location's estimate in whole degrees. -/
def degrees (s : State) (l : Nat) : Nat := satBits 8 (hottest s.therm.node (locNodes l) / 10).toNat

def thermWord (s : State) (r : Nat) : Nat :=
  let w := fun l => s.therm.warn.get false l
  let t := fun l => s.therm.throttle.get false l
  let e := 8 + 2 * r
  (regPwr s r).curLimit * 2 ^ 40 + max (degrees s e) (degrees s (e + 1)) * 2 ^ 32 + degrees s (4 + r) * 2 ^ 24 + degrees s r * 2 ^ 16
    + bitAt (t e || t (e + 1)) 5 + bitAt (w e || w (e + 1)) 4 + bitAt (t (4 + r)) 3 + bitAt (w (4 + r)) 2 + bitAt (t r) 1 + bitAt (w r) 0

/-! ### Faults -/

def RegionMode.code : RegionMode → Nat
  | .up => 0
  | .lost => 1
  | .resetting => 2
  | .test => 3

def regionWord (s : State) : Nat := ((List.range 4).map fun r => ((regionMode s r).code * 4 + (regionAt s r).cause % 4) * 2 ^ (4 * r)).sum

def testWord (s : State) : Nat :=
  s.flt.testParam * 2 ^ 32 + bitAt s.flt.testRefused 30 + bitAt s.flt.testBusy 29 + s.flt.testRegions * 2 ^ 8 + s.flt.testMode

def testResultWord (x : TestResult) : Nat := x.mode * 2 ^ 60 + bitAt x.done 59 + bitAt x.pass 58 + x.failed * 2 ^ 16 + x.errors

def healthWord (s : State) (r k : Nat) : Nat :=
  ((List.range 64).filter fun i => decide (64 * k + i < 68) && s.flt.blockFailed.get false (68 * r + 64 * k + i)).foldl (fun n i => n + 2 ^ i) 0

/-- `ERR_LOG`: an entry that holds no record yet reads zero. -/
def logWord (s : State) (k : Nat) : Nat :=
  let e := k / 8
  if e < s.flt.seq then wordOf (s.flt.log.get {} e).bytes (k % 8) else 0

/-- Failed columns of a physical block in the column spare map's format, lowest first. -/
def failedColumns (s : State) (p : Nat) : Nat := wordOf (padTo 8 ((listedColumns s p).flatMap fun c => leBytes 2 (0x8000 + c))) 0

/-! ### Membership -/

def leaseWord (s : State) : Nat :=
  let left := if s.mem.lstate = 1 then satBits 20 ((s.mem.expiry - s.aon) / 50000) else 0
  s.mem.lease * 2 ^ 32 + s.mem.lstate * 2 ^ 24 + left

def fenceStatusWord (s : State) : Nat := s.mem.fenceEpoch * 2 ^ 32 + (s.mem.fence.filter fun e => e.2.fenced).length

def fenceEntry (s : State) (d : Nat) : Nat := bitAt (s.mem.fence.get {} d).fenced 63 + (s.mem.fence.get {} d).epoch

def fillWord (s : State) : Nat := s.mem.fillState * 2 ^ 62 + s.mem.fillCause * 2 ^ 48 + s.mem.fillStation

/-- The backsight role in force: SHADOW while a BACKSIGHT command runs. -/
def roleShown (s : State) : Nat := if s.mem.shadow.isSome then 5 else s.mem.role

def bsWord (s : State) (k : Nat) : Nat :=
  let used := match s.mem.shadow with | some sh => sh.used / 2 ^ 20 | none => 0
  if k = 0 then roleShown s * 2 ^ 56 + s.mem.partner * 2 ^ 43 + s.mem.matched * 2 ^ 32 + used
  else s.mem.missStation * 2 ^ 16 + s.mem.missRegions * 2 ^ 12

/-! ### Memory and links -/

def pmapWord (p : PMap) : Nat := p.space * 2 ^ 34 + p.usable * 2 ^ 17 + p.retired

def channelBits (t : Table Bool) (r : Nat) : Nat := ((List.range 64).filter fun c => t.get false (64 * r + c)).foldl (fun n c => n + 2 ^ c) 0

def refreshWord (s : State) : Nat := ((List.range 8).filter fun k => s.hbm.double.get false k).foldl (fun n k => n + 2 ^ k) 0

def d2dWord (s : State) (l : Nat) : Nat :=
  let cw := d2dDir s (2 * l)
  let ccw := d2dDir s (2 * l + 1)
  satBits 8 ccw.failed.length * 2 ^ 40 + satBits 8 cw.failed.length * 2 ^ 32 + ccw.width * 2 ^ 18 + cw.width * 2 ^ 15
    + (16 - ccw.failed.length) * 2 ^ 8 + (16 - cw.failed.length) * 2 ^ 3

def winWord (s : State) (w : Nat) : Nat := (winOf s w).st * 2 ^ 30 + (winOf s w).gen

/-! ### Fabric and optics -/

def fabWord (s : State) : Nat :=
  bitAt s.fab.number.isSome 63 + s.fab.number.getD 0 * 2 ^ 50 + bitAt s.fab.recovery 49 + s.fab.bank * 2 ^ 48 + s.fab.epoch * 2 ^ 32

/-- Entry of a line in `FAB_PEER_p`, from the peer's last HELLO. -/
def peerWord (s : State) (p line : Nat) : Nat :=
  let q := peerAt s (linkKey s p line)
  q.st * 2 ^ 29 + field q.hello 8 2 % 8192 * 2 ^ 16 + field q.hello 10 1 % 16 * 2 ^ 12 + bitAt (bit (field q.hello 8 2) 15) 11

/-- COMB of an engine: none, some or all of its 34 lines meet R238. -/
def combCode (s : State) (e : Nat) : Nat :=
  let n := ((List.range 34).filter fun k => (combOf s e k).meets).length
  if n = 0 then 0 else if n = 34 then 2 else 1

def engineWord (s : State) (e : Nat) : Nat :=
  portMode s (2 * e + 1) * 2 ^ 10 + portMode s (2 * e) * 2 ^ 8 + combCode s e * 2 ^ 4 + bitAt (engineOf s e).keepalive 3 + (engineOf s e).st

/-- A number in two's complement of 8 bits, saturating at ±127. -/
def sat127 (v : Int) : Nat := twos 8 (max (-127) (min 127 v))

/-- Lane entry `n` of a port: transmit positions, then receive positions. -/
def laneWord (s : State) (p n : Nat) : Nat :=
  let q := posAt s (68 * p + n)
  let margin := if 34 ≤ n ∧ q.service then satBits 8 q.marginDb.toNat else 0
  let peer := match q.peer with | some (d, x) => x * 2 ^ 31 + d * 2 ^ 18 + 2 ^ 17 | none => 0
  q.st.code * 2 ^ 60 + q.line * 2 ^ 54 + q.fails * 2 ^ 52 + bitAt q.service 51 + bitAt q.margin 50 + sat127 q.lockErr * 2 ^ 40 + peer + margin * 2 ^ 8

def agingWord (a : Aging) : Nat := a.steps * 2 ^ 16 + a.headroom * 2 ^ 8 + bitAt a.exhausted 0

/-- Entry `n` = 68·bank + i of `OE_CAL_e`; a transmit ring has no bias threshold (R536). -/
def calWord (s : State) (e n : Nat) : Nat :=
  let c := s.oe.cal.get {} (136 * e + n)
  c.ffCoef * 2 ^ 48 + c.searchStart * 2 ^ 32 + c.loopGain * 2 ^ 16 + (if n < 68 then 0 else c.biasThr) * 2 ^ 8

/-- 16-bit entry `i` of `OE_XTALK_e`, of both banks (R536). -/
def xtalkEntry (s : State) (e i : Nat) : Nat := (s.oe.bank.get {} (2 * e + i / 612)).k.get 0 (i % 612)

def xtalkWord (s : State) (e k : Nat) : Nat := ((List.range 4).map fun i => xtalkEntry s e (4 * k + i) * 2 ^ (16 * i)).sum

/-! ### Reading a word -/

/-- 64-bit word `k` of a register or window, outside BOOT. -/
def regWord (s : State) (r : Reg) (k : Nat) : Nat :=
  match r with
  | .deviceId => deviceId s
  | .deviceSerial => serialOf s
  | .deviceState => s.dev.code
  | .resetCtrl => 0
  | .regionStatus => regionWord s
  | .stageStatus => stageWord s
  | .bootSrc => s.idn.src
  | .bootCtrl => 0
  | .bootStatus => bootWord s
  | .svnStatus => svnWord s
  | .svnCommit => 0
  | .keyRevoke => s.idn.revoked
  | .meas i => wordOf (s.idn.meas.get [] i) k
  | .otpPublic => otpWord s k
  | .cmdRingBase i => (cmdRing s i).base.toNat
  | .cmdRingCfg i => cmdCfgWord (cmdRing s i)
  | .cmdRingStatus i => cmdStatusWord s i
  | .cplRingBase j => (cplRing s j).base.toNat
  | .cplRingCfg j => outCfgWord (cplRing s j)
  | .cplIrq j => outIrqWord (cplRing s j)
  | .cplRingStatus j => outStatusWord (cplRing s j)
  | .evtRingBase => s.host.evt.base.toNat
  | .evtRingCfg => outCfgWord s.host.evt
  | .evtIrq => outIrqWord s.host.evt
  | .evtRingStatus => outStatusWord s.host.evt
  | .fmBufBase => s.host.fmBase.toNat
  | .fmBufCfg => bitAt s.host.fmEnable 31 + s.host.fmSlots
  | .msixTable => msixWord s k
  | .msixPba => pbaWord s k
  | .stationNow => stationWord s
  | .legWdog => s.job.wdog
  | .detCtrl => bitAt s.job.profile 1 + bitAt s.job.strict 0
  | .pkgDigest => pkgDigest s
  | .stationDigest i => s.job.digest.get 0 i
  | .detLeg i => detWord (s.job.detLeg.get {} i)
  | .pwrStatus => pwrWord s
  | .pwrRation => rationWord s k
  | .pwrCfg => s.pwr.graceMs * 2 ^ 16
  | .pwrFloor => s.pwr.floorMw
  | .energyJob => s.pwr.jobPj / 1000000
  | .energyTag => s.pwr.energyTag
  | .energyTotal => s.pwr.totalPj / 1000000
  | .thermStatus i => thermWord s i
  | .pwrCount i => s.pwr.count.get 0 i
  | .errLogStatus => s.flt.seq % 2 ^ 32 * 2 ^ 32
  | .testCtrl => testWord s
  | .testResult i => testResultWord (s.flt.testResult.get {} i)
  | .blockHealth i => healthWord s i k
  | .errCount i => s.flt.count.get 0 i
  | .errLog => logWord s k
  | .colFailed i => failedColumns s (68 * i + k)
  | .leaseStatus => leaseWord s
  | .leaseCfg => s.mem.renewMs
  | .fenceStatus => fenceStatusWord s
  | .fillStatus => fillWord s
  | .bsStatus => bsWord s k
  | .memberCount i => s.mem.count.get 0 i
  | .fenceTable => fenceEntry s k
  | .pmapStatus i => pmapWord (pmapOf s i)
  | .hbmChanFailed i => channelBits s.hbm.chanFailed i
  | .hbmChanMapout i => channelBits s.hbm.chanMapout i
  | .hbmRefresh => refreshWord s
  | .d2dStatus l => d2dWord s l
  | .winTable => twoWords (winWord s) k
  | .rmtCount i => s.rmt.count.get 0 i
  | .colCount i => s.col.count.get 0 i
  | .fabStatus => fabWord s
  | .congSeq => s.fab.congSeq
  | .fabCount i => s.fab.count.get 0 i
  | .fabPeer p => twoWords (peerWord s p) k
  | .fabCong => leNat (s.fab.cong.readN (8 * k) 8)
  | .oeStatus e => engineWord s e
  | .oeLane p => laneWord s p k
  | .oeAging e => twoWords (fun l => agingWord (agingOf s e l)) k
  | .oeXtalk e => xtalkWord s e k
  | .oeCal e => calWord s e k
  | .pmapTable i => twoWords (fun v => (pmapOf s i).word v) k

/-- The aligned 64-bit word at a BAR0 offset: a reserved one reads 0, and in BOOT what BOOT does not serve reads its reset value (R529,
R532). -/
def barRead (s : State) (off : Nat) : Nat :=
  match regAt (off / 8 * 8) with
  | none => 0
  | some (r, k, boot) => regWord (if s.dev == .boot && !boot then State.reset else s) r k % 2 ^ 64

/-- A read of `size` bytes at a BAR0 offset (R529): a naturally aligned 32-bit or 64-bit access; any other returns the addressed bytes
of the aligned 32-bit word that holds them. -/
def barReadSized (s : State) (off size : Nat) : Nat :=
  let w := barRead s off
  let half := if off % 8 < 4 then w % 2 ^ 32 else w / 2 ^ 32
  if accessOk off size then (if size = 8 then w else half) else half / 2 ^ (8 * (off % 4)) % 2 ^ (8 * min size (4 - off % 4))

end Sys2Proof.Machine
end

