-- ==== Sys2Proof/Machine/Registers.lean ====
section
/-! DEFINITION. Writes to BAR0 registers (R9, R11, R391, R411, R529, R530, R532, R533). -/

namespace Sys2Proof.Machine

open Sys2Proof

/-- ADDR of a ring base register after a write; bits [11:0] are reserved. -/
def baseAfter (old : W64) (off size value : Nat) : W64 := BitVec.ofNat 64 (mergeHalves old.toNat off size value / 4096 * 4096)

/-- A write of an interrupt register; entries that already wait in that number raise the vector (R411). -/
def OutRing.irq (r : OutRing) (v : Nat) : OutRing := { r with irqTime := bits v 31 16, irqCount := bits v 15 0 }

/-- W1C of ERROR. -/
def OutRing.clear (r : OutRing) (v : Nat) : OutRing := { r with error := r.error && !(bit v 30) }

/-- The base of an output ring: ignored while the ring is enabled. -/
def OutRing.rebase (r : OutRing) (off size value : Nat) : OutRing := if r.enable then r else { r with base := baseAfter r.base off size value }

/-- Entries that wait already reach COUNT. -/
def OutRing.waits (r : OutRing) : Bool := decide (0 < r.unsig) && r.due false

def writeCplIrq (j v : Nat) (s : State) : State :=
  let r := (cplRing s j).irq v
  if r.waits then raiseVector r.vector (setCplRing j { r with unsig := 0 } s) else setCplRing j r s

def writeEvtIrq (v : Nat) (s : State) : State :=
  let r := s.host.evt.irq v
  if r.waits then raiseVector r.vector (setEvtRing { r with unsig := 0 } s) else setEvtRing r s

def writeCmdBase (i off size value : Nat) (s : State) : State :=
  s.modHost fun h => { h with cmd := h.cmd.mod {} i fun r => if r.enable then r else { r with base := baseAfter r.base off size value } }

def clearCmdError (i v : Nat) (s : State) : State :=
  s.modHost fun h => { h with cmd := h.cmd.mod {} i fun r => { r with error := r.error && !(bit v 30) } }

/-- The base of the FM buffer. DESIGN CHOICE (log 116): ignored while the buffer is enabled, as R390 states for a ring's base. -/
def writeFmBase (off size value : Nat) (s : State) : State :=
  s.modHost fun h => if h.fmEnable then h else { h with fmBase := baseAfter h.fmBase off size value }

/-- The MSI-X table (log 20): an unmasked vector that is pending is sent (R411). -/
def writeMsix (k off size value : Nat) (s : State) : State :=
  let v := k / 2
  let w := mergeHalves (msixWord s k) off size value
  let s := s.modHost fun h => { h with msix := h.msix.mod {} v fun e =>
    if k % 2 = 0 then { e with addr := BitVec.ofNat 64 (w / 4 * 4) } else { e with data := BitVec.ofNat 32 w, mask := bit w 32 } }
  if !(s.host.msix.get {} v).mask && s.host.pba.get false v then
    raiseVector v (s.modHost fun h => { h with pba := h.pba.set false v false })
  else s

/-- A write to half of `TEST_CTRL` keeps the other half: a write of PARAM alone neither starts a test nor clears REFUSED. -/
def testWrite (off size value : Nat) (s : State) : State :=
  writeTestCtrl (mergeHalves (s.flt.testParam * 2 ^ 32 + s.flt.testRegions * 2 ^ 8 + s.flt.testMode) off size value) s

/-- The write to a register whose fields all lie in the low half. -/
def lowWrite (r : Reg) (v : Nat) (s : State) : State :=
  match r with
  | .resetCtrl => writeResetCtrl v s
  | .stageStatus => s.modJob fun j => { j with regRefused := j.regRefused && !(bit v 31) }
  | .bootCtrl => writeBootCtrl v s
  | .svnCommit => writeSvnCommit v s
  | .keyRevoke => writeKeyRevoke v s
  | .cmdRingCfg i => writeCmdCfg i v s
  | .cmdRingStatus i => clearCmdError i v s
  | .cplRingCfg j => writeCplCfg j v s
  | .cplIrq j => writeCplIrq j v s
  | .cplRingStatus j => setCplRing j ((cplRing s j).clear v) s
  | .evtRingCfg => writeEvtCfg v s
  | .evtIrq => writeEvtIrq v s
  | .evtRingStatus => setEvtRing (s.host.evt.clear v) s
  | .fmBufCfg => writeFmCfg v s
  | .legWdog => stageRegister 11 (v % 2 ^ 20) s
  | .detCtrl => stageRegister 10 (v % 4) s
  | .pwrCfg => writePwrCfg v s
  | .leaseCfg => writeLeaseCfg v s
  | _ => s

/-- A write to word `k` of a register (R9, R11): what is read-only stays. -/
def regWrite (r : Reg) (k off size value : Nat) (s : State) : State :=
  match r with
  | .bootSrc => s.modIdn fun d => { d with src := mergeHalves d.src off size value / 4096 * 4096 }
  | .cmdRingBase i => writeCmdBase i off size value s
  | .cplRingBase j => setCplRing j ((cplRing s j).rebase off size value) s
  | .evtRingBase => setEvtRing (s.host.evt.rebase off size value) s
  | .fmBufBase => writeFmBase off size value s
  | .msixTable => writeMsix k off size value s
  | .testCtrl => testWrite off size value s
  | r => if writesLow off size then lowWrite r (value % 2 ^ 32) s else s

/-- REGISTER_WRITE: a write of `size` bytes to a BAR0 offset (R529, R532). -/
def barWrite (off size value : Nat) (s : State) : State :=
  if !accessOk off size then s
  else
    match regAt off with
    | none => s
    | some (r, k, boot) => if hostWrites s boot then regWrite r k off size value s else s

/-- REGISTER_WRITE (R9). -/
def execRegisterWrite (off : BitVec 24) (size : Nat) (value : W64) (s : State) : Out := .next (barWrite off.toNat size value.toNat s)

end Sys2Proof.Machine
end

