-- ==== Sys2Proof/Machine/Scalar.lean ====
section
/-! DEFINITION. The scalar core: RV64IMC, its memories and its custom instructions (R60, R61, R172 to R174). -/

namespace Sys2Proof.Machine

open Sys2Proof

/-- Register x0 reads as zero and discards writes. -/
def xGet (c : Scalar) (r : Nat) : W64 := if r = 0 then 0 else c.x.get 0 r

def xSet (r : Nat) (v : W64) (c : Scalar) : Scalar := if r = 0 then c else { c with x := c.x.set 0 r v }

def sext (w v : Nat) : W64 := BitVec.ofInt 64 (untwos w v)

/-! ### Compressed instructions, as the 32-bit instructions they stand for -/

def encR (f7 rs2 rs1 f3 rd op : Nat) : Nat := f7 * 2 ^ 25 + rs2 * 2 ^ 20 + rs1 * 2 ^ 15 + f3 * 2 ^ 12 + rd * 2 ^ 7 + op

def encI (imm rs1 f3 rd op : Nat) : Nat := imm % 4096 * 2 ^ 20 + rs1 * 2 ^ 15 + f3 * 2 ^ 12 + rd * 2 ^ 7 + op

def encS (imm rs2 rs1 f3 op : Nat) : Nat :=
  imm / 32 % 128 * 2 ^ 25 + rs2 * 2 ^ 20 + rs1 * 2 ^ 15 + f3 * 2 ^ 12 + imm % 32 * 2 ^ 7 + op

def encB (imm rs2 rs1 f3 : Nat) : Nat :=
  bits imm 12 12 * 2 ^ 31 + bits imm 10 5 * 2 ^ 25 + rs2 * 2 ^ 20 + rs1 * 2 ^ 15 + f3 * 2 ^ 12 + bits imm 4 1 * 2 ^ 8
    + bits imm 11 11 * 2 ^ 7 + 0x63

def encJ (imm rd : Nat) : Nat :=
  bits imm 20 20 * 2 ^ 31 + bits imm 10 1 * 2 ^ 21 + bits imm 11 11 * 2 ^ 20 + bits imm 19 12 * 2 ^ 12 + rd * 2 ^ 7 + 0x6F

/-- Sign-extend `v` of `w` bits to `n` bits, as a number. -/
def sx (w n v : Nat) : Nat := twos n (untwos w v)

/-- The 32-bit instruction that a 16-bit one of RV64IC stands for; none where it is illegal. -/
def expandC (h : Nat) : Option Nat :=
  let rd := bits h 11 7
  let rs2 := bits h 6 2
  let rdp := 8 + bits h 4 2
  let rsp := 8 + bits h 9 7
  let imm6 := bits h 12 12 * 32 + bits h 6 2
  match bits h 1 0, bits h 15 13 with
  | 0, 0 =>
    let u := bits h 10 7 * 64 + bits h 12 11 * 16 + bits h 5 5 * 8 + bits h 6 6 * 4
    if u = 0 then none else some (encI u 2 0 rdp 0x13)
  | 0, 2 => some (encI (bits h 5 5 * 64 + bits h 12 10 * 8 + bits h 6 6 * 4) rsp 2 rdp 0x03)
  | 0, 3 => some (encI (bits h 6 5 * 64 + bits h 12 10 * 8) rsp 3 rdp 0x03)
  | 0, 6 => some (encS (bits h 5 5 * 64 + bits h 12 10 * 8 + bits h 6 6 * 4) rdp rsp 2 0x23)
  | 0, 7 => some (encS (bits h 6 5 * 64 + bits h 12 10 * 8) rdp rsp 3 0x23)
  | 1, 0 => some (encI (sx 6 12 imm6) rd 0 rd 0x13)
  | 1, 1 => if rd = 0 then none else some (encI (sx 6 12 imm6) rd 0 rd 0x1B)
  | 1, 2 => some (encI (sx 6 12 imm6) 0 0 rd 0x13)
  | 1, 3 =>
    if rd = 2 then
      let i := bits h 12 12 * 512 + bits h 4 3 * 128 + bits h 5 5 * 64 + bits h 2 2 * 32 + bits h 6 6 * 16
      if i = 0 then none else some (encI (sx 10 12 i) 2 0 2 0x13)
    else if imm6 = 0 then none
    else some (sx 6 20 imm6 * 2 ^ 12 + rd * 2 ^ 7 + 0x37)
  | 1, 4 =>
    match bits h 11 10 with
    | 0 => some (encI imm6 rsp 5 rsp 0x13)
    | 1 => some (encI (imm6 + 0x400) rsp 5 rsp 0x13)
    | 2 => some (encI (sx 6 12 imm6) rsp 7 rsp 0x13)
    | _ =>
      match bits h 12 12, bits h 6 5 with
      | 0, 0 => some (encR 0x20 rdp rsp 0 rsp 0x33)
      | 0, 1 => some (encR 0 rdp rsp 4 rsp 0x33)
      | 0, 2 => some (encR 0 rdp rsp 6 rsp 0x33)
      | 0, 3 => some (encR 0 rdp rsp 7 rsp 0x33)
      | 1, 0 => some (encR 0x20 rdp rsp 0 rsp 0x3B)
      | 1, 1 => some (encR 0 rdp rsp 0 rsp 0x3B)
      | _, _ => none
  | 1, 5 =>
    let i := bits h 12 12 * 2048 + bits h 8 8 * 1024 + bits h 10 9 * 256 + bits h 6 6 * 128 + bits h 7 7 * 64 + bits h 2 2 * 32
      + bits h 11 11 * 16 + bits h 5 3 * 2
    some (encJ (sx 12 21 i) 0)
  | 1, 6 =>
    let i := bits h 12 12 * 256 + bits h 6 5 * 64 + bits h 2 2 * 32 + bits h 11 10 * 8 + bits h 4 3 * 2
    some (encB (sx 9 13 i) 0 rsp 0)
  | 1, 7 =>
    let i := bits h 12 12 * 256 + bits h 6 5 * 64 + bits h 2 2 * 32 + bits h 11 10 * 8 + bits h 4 3 * 2
    some (encB (sx 9 13 i) 0 rsp 1)
  | 2, 0 => some (encI imm6 rd 1 rd 0x13)
  | 2, 2 => if rd = 0 then none else some (encI (bits h 3 2 * 64 + bits h 12 12 * 32 + bits h 6 4 * 4) 2 2 rd 0x03)
  | 2, 3 => if rd = 0 then none else some (encI (bits h 4 2 * 64 + bits h 12 12 * 32 + bits h 6 5 * 8) 2 3 rd 0x03)
  | 2, 4 =>
    if bits h 12 12 = 0 then
      if rs2 = 0 then (if rd = 0 then none else some (encI 0 rd 0 0 0x67)) else some (encR 0 rs2 0 0 rd 0x33)
    else if rs2 = 0 then (if rd = 0 then some 0x00100073 else some (encI 0 rd 0 1 0x67))
    else some (encR 0 rs2 rd 0 rd 0x33)
  | 2, 6 => some (encS (bits h 8 7 * 64 + bits h 12 9 * 4) rs2 2 2 0x23)
  | 2, 7 => some (encS (bits h 9 7 * 64 + bits h 12 10 * 8) rs2 2 3 0x23)
  | _, _ => none

/-- The instruction at the core's pc, as 32 bits, and its length; none where it cannot be fetched or is illegal. -/
def fetchScalar (k : Block) : Option (Nat × Nat) :=
  let pc := k.sc.pc
  if 0x4000 < pc + 2 then none
  else
    let h := leNat (k.imem.readN pc 2)
    if h % 4 = 3 then (if 0x4000 < pc + 4 then none else some (leNat (k.imem.readN pc 4), 4))
    else (expandC h).map fun w => (w, 2)

/-! ### Arithmetic of RV64IM -/

/-- The result of an integer operation of OP or OP-IMM. -/
def aluOp (f3 : Nat) (alt : Bool) (a b : W64) : W64 :=
  match f3 with
  | 0 => if alt then a - b else a + b
  | 1 => a <<< (b.toNat % 64)
  | 2 => if a.toInt < b.toInt then 1 else 0
  | 3 => if a.toNat < b.toNat then 1 else 0
  | 4 => a ^^^ b
  | 5 => if alt then a.sshiftRight (b.toNat % 64) else a >>> (b.toNat % 64)
  | 6 => a ||| b
  | _ => a &&& b

/-- The 32-bit operations, sign-extended. -/
def aluOpW (f3 : Nat) (alt : Bool) (a b : W64) : W64 :=
  let x := a.setWidth 32
  let n := b.toNat % 32
  match f3 with
  | 0 => (if alt then x - b.setWidth 32 else x + b.setWidth 32).signExtend 64
  | 1 => (x <<< n).signExtend 64
  | _ => (if alt then x.sshiftRight n else x >>> n).signExtend 64

/-- Signed and unsigned division of RV64M: by zero gives all ones and the dividend; overflow gives the dividend and 0. -/
def divInt (a b : Int) : Int := if b = 0 then -1 else a.tdiv b

def remInt (a b : Int) : Int := if b = 0 then a else a.tmod b

def mulOp (f3 : Nat) (a b : W64) : W64 :=
  match f3 with
  | 0 => a * b
  | 1 => BitVec.ofInt 64 (a.toInt * b.toInt / 2 ^ 64)
  | 2 => BitVec.ofInt 64 (a.toInt * b.toNat / 2 ^ 64)
  | 3 => BitVec.ofNat 64 (a.toNat * b.toNat / 2 ^ 64)
  | 4 => BitVec.ofInt 64 (divInt a.toInt b.toInt)
  | 5 => if b = 0 then BitVec.allOnes 64 else BitVec.ofNat 64 (a.toNat / b.toNat)
  | 6 => BitVec.ofInt 64 (remInt a.toInt b.toInt)
  | _ => if b = 0 then a else BitVec.ofNat 64 (a.toNat % b.toNat)

def mulOpW (f3 : Nat) (a b : W64) : Option W64 :=
  let x := a.setWidth 32
  let y := b.setWidth 32
  match f3 with
  | 0 => some ((x * y).signExtend 64)
  | 4 => some ((BitVec.ofInt 32 (divInt x.toInt y.toInt)).signExtend 64)
  | 5 => some ((if y = 0 then BitVec.allOnes 32 else BitVec.ofNat 32 (x.toNat / y.toNat)).signExtend 64)
  | 6 => some ((BitVec.ofInt 32 (remInt x.toInt y.toInt)).signExtend 64)
  | 7 => some ((if y = 0 then x else BitVec.ofNat 32 (x.toNat % y.toNat)).signExtend 64)
  | _ => none

def branchTaken (f3 : Nat) (a b : W64) : Option Bool :=
  match f3 with
  | 0 => some (a == b)
  | 1 => some (a != b)
  | 4 => some (decide (a.toInt < b.toInt))
  | 5 => some (decide (b.toInt ≤ a.toInt))
  | 6 => some (decide (a.toNat < b.toNat))
  | 7 => some (decide (b.toNat ≤ a.toNat))
  | _ => none

/-! ### Memory (table *Scalar address map*) -/

/-- Segment `i` lies in the core's grant (R173). -/
def granted (c : Scalar) (i : Nat) : Bool := decide (c.seg ≤ i) && decide (i < c.seg + c.count)

/-- Load `n` bytes: the number, or the scratchpad offset of an access that R173 does not permit; every other access breaks the address map. Both
are SCALAR_FAULT (R174). -/
def loadScalar (k : Block) (a n : Nat) : Except (Option Nat) Nat :=
  if a % n ≠ 0 then .error none
  else if a < 0x4000 then .ok (leNat (k.imem.readN a n))
  else if 0x10000 ≤ a ∧ a < 0x14000 then .ok (leNat (k.dmem.readN (a - 0x10000) n))
  else if 0x1000000 ≤ a ∧ a < 0x1600000 then
    let o := a - 0x1000000
    if granted k.sc (o / 4096) || (readFault k (o / 4096)).isNone then .ok (leNat (k.sp.readN o n)) else .error (some o)
  else .error none

/-- Store `n` bytes. A store beyond the grant breaks R173 and R184 at once; the core reports SCALAR_FAULT, as R174 has it (log 121). -/
def storeScalar (k : Block) (a n v : Nat) : Except (Option Nat) Block :=
  if a % n ≠ 0 then .error none
  else if 0x10000 ≤ a ∧ a < 0x14000 then .ok { k with dmem := k.dmem.writeN (a - 0x10000) (leBytes n v) }
  else if 0x1000000 ≤ a ∧ a < 0x1600000 then
    let o := a - 0x1000000
    if granted k.sc (o / 4096) then .ok (k.writeSp o (leBytes n v)) else .error (some o)
  else .error none

/-! ### Steps -/

/-- The core of block `b` can step. -/
def scalarRuns (s : State) (b : Nat) (k : Block) : Bool := k.sc.running && engineRuns s b

/-- The core stops (R190). -/
def stopScalar (k : Block) : Block := { k with sc := { k.sc with running := false } }

/-- Stop the core with a fault (R174). -/
def scalarFault (p code off : Nat) (s : State) : State := haltBlock p code 0 off (s.modBlk p stopScalar)

/-- Stop the core with SCALAR_FAULT, which names a segment where the access has one. -/
def accessFault (p : Nat) (off : Option Nat) (s : State) : State := haltAt p 0x20F 0 off (s.modBlk p stopScalar)

/-- The instruction retires: the core goes on at `pc`. -/
def retire (p : Nat) (pc : Nat) (f : Scalar → Scalar) (s : State) : State :=
  s.modBlk p fun k => { k with sc := { f k.sc with pc := pc, instret := k.sc.instret + 1 } }

/-- A read of a counter CSR (R60 to R62): none for any other CSR. -/
def readCsr (s : State) (c : Scalar) (csr : Nat) : Option W64 :=
  match csr with
  | 0xC00 => some (if s.job.profile then Config.counter s.free else 0)
  | 0xC01 => some (if s.job.profile then Config.counter s.free else 0)
  | 0xC02 => some c.instret
  | _ => none

/-- SYSTEM instructions: only reads of the counters are legal. A read of `cycle` or `time` under profiling is order-dependent: a
fault under STRICT, otherwise counted in TIMER_READ (R60 to R64). -/
def systemStep (p b w pc' : Nat) (s : State) : State :=
  let k := blkOf s p
  let csr := bits w 31 20
  let f3 := bits w 14 12
  let reads := (f3 == 2 || f3 == 3 || f3 == 6 || f3 == 7) && bits w 19 15 == 0
  match readCsr s k.sc csr with
  | some v =>
    if !reads then scalarFault p 0x20F 0 s
    else if csr ≠ 0xC02 ∧ s.job.profile then
      if s.job.strict then scalarFault p 0x210 0 s
      else
        retire p pc' (xSet (bits w 11 7) v)
          ({ s with free := s.free + 1 }.modJob fun j => { j with liveDet := j.liveDet.mod {} (b / 64) fun d => { d with timer := true } })
    else retire p pc' (xSet (bits w 11 7) v) s
  | none => scalarFault p 0x20F 0 s

/-- Execute a 32-bit instruction of RV64IM. -/
def scalarExec (p b w len : Nat) (s : State) : State :=
  let k := blkOf s p
  let c := k.sc
  let pc := c.pc
  let nxt := pc + len
  let rd := bits w 11 7
  let a := xGet c (bits w 19 15)
  let bb := xGet c (bits w 24 20)
  let f3 := bits w 14 12
  let f7 := bits w 31 25
  let immI := sext 12 (bits w 31 20)
  let target := fun (off : W64) => (BitVec.ofNat 64 pc + off).toNat
  match bits w 6 0 with
  | 0x37 => retire p nxt (xSet rd (sext 32 (bits w 31 12 * 4096))) s
  | 0x17 => retire p nxt (xSet rd (BitVec.ofNat 64 pc + sext 32 (bits w 31 12 * 4096))) s
  | 0x6F =>
    let off := sext 21 (bits w 31 31 * 2 ^ 20 + bits w 19 12 * 2 ^ 12 + bits w 20 20 * 2 ^ 11 + bits w 30 21 * 2)
    retire p (target off) (xSet rd (BitVec.ofNat 64 nxt)) s
  | 0x67 =>
    if f3 = 0 then retire p ((a + immI).toNat / 2 * 2) (xSet rd (BitVec.ofNat 64 nxt)) s else scalarFault p 0x20F 0 s
  | 0x63 =>
    let off := sext 13 (bits w 31 31 * 2 ^ 12 + bits w 7 7 * 2 ^ 11 + bits w 30 25 * 32 + bits w 11 8 * 2)
    match branchTaken f3 a bb with
    | some t => retire p (if t then target off else nxt) id s
    | none => scalarFault p 0x20F 0 s
  | 0x03 =>
    let n := 2 ^ (f3 % 4)
    if f3 = 7 then scalarFault p 0x20F 0 s
    else
      match loadScalar k (a + immI).toNat n with
      | .error o => accessFault p o s
      | .ok v => retire p nxt (xSet rd (if f3 < 4 then sext (8 * n) v else BitVec.ofNat 64 v)) s
  | 0x23 =>
    let immS := sext 12 (f7 * 32 + rd)
    if 3 < f3 then scalarFault p 0x20F 0 s
    else
      match storeScalar k (a + immS).toNat (2 ^ f3) (bb.toNat % 2 ^ (8 * 2 ^ f3)) with
      | .error o => accessFault p o s
      | .ok k' => retire p nxt id (s.modBlk p fun _ => k')
  | 0x13 =>
    let sh := bits w 31 26
    if (f3 = 1 ∧ sh ≠ 0) ∨ (f3 = 5 ∧ sh ≠ 0 ∧ sh ≠ 0x10) then scalarFault p 0x20F 0 s
    else retire p nxt (xSet rd (aluOp f3 (f3 == 5 && sh == 0x10) a immI)) s
  | 0x1B =>
    if (f3 = 0) ∨ (f3 = 1 ∧ f7 = 0) ∨ (f3 = 5 ∧ (f7 = 0 ∨ f7 = 0x20)) then
      retire p nxt (xSet rd (aluOpW f3 (f3 == 5 && f7 == 0x20) a immI)) s
    else scalarFault p 0x20F 0 s
  | 0x33 =>
    if f7 = 1 then retire p nxt (xSet rd (mulOp f3 a bb)) s
    else if f7 = 0 ∨ (f7 = 0x20 ∧ (f3 = 0 ∨ f3 = 5)) then retire p nxt (xSet rd (aluOp f3 (f7 == 0x20) a bb)) s
    else scalarFault p 0x20F 0 s
  | 0x3B =>
    if f7 = 1 then
      match mulOpW f3 a bb with
      | some v => retire p nxt (xSet rd v) s
      | none => scalarFault p 0x20F 0 s
    else if (f7 = 0 ∧ (f3 = 0 ∨ f3 = 1 ∨ f3 = 5)) ∨ (f7 = 0x20 ∧ (f3 = 0 ∨ f3 = 5)) then
      retire p nxt (xSet rd (aluOpW f3 (f7 == 0x20) a bb)) s
    else scalarFault p 0x20F 0 s
  | 0x0F => if f3 = 0 then retire p nxt id s else scalarFault p 0x20F 0 s
  | 0x73 => systemStep p b w nxt s
  | _ => scalarFault p 0x20F 0 s

/-- A legal custom instruction: its funct3 (R172). -/
def customOf (w : Nat) : Option Nat :=
  if bits w 6 0 = 0x0B ∧ bits w 31 25 = 0 ∧ bits w 14 12 < 6 then some (bits w 14 12) else none

/-- A step of the scalar core on what it would execute next; `custom` names the custom instruction, none an ordinary one. -/
def scalarStep (custom : Option Nat) (b : Fin 256) (e : HwErr) (body : Nat → Nat → Nat → State → State) (s : State) : Out :=
  match physOf s b with
  | none => .next s
  | some p =>
    let k := blkOf s p
    if !scalarRuns s b k then .next s
    else
      match fetchScalar k with
      | none => .next (if custom = none then scalarFault p 0x20F 0 s else s)
      | some (w, len) =>
        if customOf w = custom then
          match meetSp p e stopScalar s with
          | .stopped s => .next s
          | .issued s => .next (body p w len s)
        else .next s

/-- SCALAR_INSTRUCTION (R174). -/
def execScalarInstruction (b : Fin 256) (e : HwErr) (s : State) : Out := scalarStep none b e (fun p w len s => scalarExec p b w len s) s

/-- Operands of a custom instruction: x[rs1], x[rs2] and the pc after it. -/
def customArgs (s : State) (p w len : Nat) : W64 × W64 × Nat :=
  let c := (blkOf s p).sc
  (xGet c (bits w 19 15), xGet c (bits w 24 20), c.pc + len)

/-- SC.POST (R172). -/
def execScPost (b : Fin 256) (e : HwErr) (s : State) : Out :=
  scalarStep (some 0) b e (fun p w len s =>
    let (x, y, pc) := customArgs s p w len
    postCtr p (x.toNat % 64) (y.toNat % 2 ^ 32) (retire p pc id s)) s

/-- SC.WAIT (R172): it stalls until the counter has reached the value (R165). -/
def execScWait (b : Fin 256) (e : HwErr) (s : State) : Out :=
  scalarStep (some 1) b e (fun p w len s =>
    let (x, y, pc) := customArgs s p w len
    if reached (ctrOf (blkOf s p) (x.toNat % 64)) (y.toNat % 2 ^ 32) then retire p pc id s else s) s

/-- SC.READ (R172). -/
def execScRead (b : Fin 256) (e : HwErr) (s : State) : Out :=
  scalarStep (some 2) b e (fun p w len s =>
    let (x, _, pc) := customArgs s p w len
    retire p pc (xSet (bits w 11 7) (BitVec.ofNat 64 (ctrOf (blkOf s p) (x.toNat % 64)))) s) s

/-- SC.SEGST (R172). A number from 1,536 on, which no segment has, reads FREE (DESIGN CHOICE, log 142). -/
def execScSegst (b : Fin 256) (e : HwErr) (s : State) : Out :=
  scalarStep (some 3) b e (fun p w len s =>
    let (x, _, pc) := customArgs s p w len
    retire p pc (xSet (bits w 11 7) (BitVec.ofNat 64 (segCode (segOf (blkOf s p) (x.toNat % 2048))))) s) s

/-- SC.RELEASE (R172, R183). A count of 0 raises SCALAR_FAULT, as a range beyond the scratchpad does (DESIGN CHOICE, log 142). -/
def execScRelease (b : Fin 256) (e : HwErr) (s : State) : Out :=
  scalarStep (some 4) b e (fun p w len s =>
    let (x, y, pc) := customArgs s p w len
    if y.toNat = 0 ∨ 1536 < x.toNat + y.toNat then scalarFault p 0x20F 0 s
    else
      match releaseSegs (blkOf s p) x.toNat y.toNat with
      | .error i => scalarFault p 0x208 (4096 * i) s
      | .ok k => retire p pc id (s.modBlk p fun _ => k)) s

/-- SC.EXIT (R173). -/
def execScExit (b : Fin 256) (e : HwErr) (s : State) : Out :=
  scalarStep (some 5) b e (fun p w len s =>
    let (_, _, pc) := customArgs s p w len
    let c := (blkOf s p).sc
    let segs := (List.range c.count).map (c.seg + ·)
    postCtr p c.post 1
      ((retire p pc (fun c => { c with running := false, count := 0 }) s).modBlk p (modSegs segs SegSt.drop))) s

end Sys2Proof.Machine
end

