-- ==== Sys2Proof/Machine/Dispatch.lean ====
section
/-! DEFINITION. The meaning of every command: one arm per constructor. -/

namespace Sys2Proof.Machine

open Sys2Proof

def exec (i : Instr) (s : State) : Host.Outcome State Fault Refusal :=
  match i with
  | .inputRise mv railsGood => Sys2Proof.Machine.execInputRise mv railsGood s
  | .powerUpRetry railsGood => Sys2Proof.Machine.execPowerUpRetry railsGood s
  | .inputLow mv => Sys2Proof.Machine.execInputLow mv s
  | .inputLowRecover mv => Sys2Proof.Machine.execInputLowRecover mv s
  | .inputUndervoltage mv => Sys2Proof.Machine.execInputUndervoltage mv s
  | .inputOvervoltage mv => Sys2Proof.Machine.execInputOvervoltage mv s
  | .pwrgdHoldLow => Sys2Proof.Machine.execPwrgdHoldLow s
  | .perstLAssert => Sys2Proof.Machine.execPerstLAssert s
  | .perstLDeassert => Sys2Proof.Machine.execPerstLDeassert s
  | .functionLevelReset => Sys2Proof.Machine.execFunctionLevelReset s
  | .packageReset value => Sys2Proof.Machine.execPackageReset value s
  | .vralertLAssert => Sys2Proof.Machine.execVralertLAssert s
  | .vralertHoldExpire => Sys2Proof.Machine.execVralertHoldExpire s
  | .limitRungReturn => Sys2Proof.Machine.execLimitRungReturn s
  | .droopDetect r detector overOnePercent => Sys2Proof.Machine.execDroopDetect r detector overOnePercent s
  | .droopRungExpire r => Sys2Proof.Machine.execDroopRungExpire r s
  | .railSample m => Sys2Proof.Machine.execRailSample m s
  | .thermalModelUpdate est => Sys2Proof.Machine.execThermalModelUpdate est s
  | .sensorRead readings => Sys2Proof.Machine.execSensorRead readings s
  | .modelFaultClear => Sys2Proof.Machine.execModelFaultClear s
  | .currentLimitStep r => Sys2Proof.Machine.execCurrentLimitStep r s
  | .thermalComparatorTrip sensor => Sys2Proof.Machine.execThermalComparatorTrip sensor s
  | .governorTick => Sys2Proof.Machine.execGovernorTick s
  | .rationDeadline => Sys2Proof.Machine.execRationDeadline s
  | .floorEpisodeStart => Sys2Proof.Machine.execFloorEpisodeStart s
  | .floorEpisodeEnd => Sys2Proof.Machine.execFloorEpisodeEnd s
  | .graceExpire => Sys2Proof.Machine.execGraceExpire s
  | .pointChangeComplete r => Sys2Proof.Machine.execPointChangeComplete r s
  | .blockWakeGrant r => Sys2Proof.Machine.execBlockWakeGrant r s
  | .setRation t cmd rsv mw => Sys2Proof.Machine.execSetRation t cmd rsv mw s
  | .getPower t cmd rsv arg => Sys2Proof.Machine.execGetPower t cmd rsv arg s
  | .setEndpointId t eid => Sys2Proof.Machine.execSetEndpointId t eid s
  | .entdaa addr => Sys2Proof.Machine.execEntdaa addr s
  | .getVendorDefinedMessageSupport t => Sys2Proof.Machine.execGetVendorDefinedMessageSupport t s
  | .getVersion t => Sys2Proof.Machine.execGetVersion t s
  | .getCapabilities t => Sys2Proof.Machine.execGetCapabilities t s
  | .negotiateAlgorithms t => Sys2Proof.Machine.execNegotiateAlgorithms t s
  | .getDigests t => Sys2Proof.Machine.execGetDigests t s
  | .getCertificate t slot offset length => Sys2Proof.Machine.execGetCertificate t slot offset length s
  | .spdmChallenge t slot nonce ready => Sys2Proof.Machine.execSpdmChallenge t slot nonce ready s
  | .getMeasurements t index signed nonce ready => Sys2Proof.Machine.execGetMeasurements t index signed nonce ready s
  | .respondIfReady t code token => Sys2Proof.Machine.execRespondIfReady t code token s
  | .spdmUnsupportedRequest t code => Sys2Proof.Machine.execSpdmUnsupportedRequest t code s
  | .combIbi ident status => Sys2Proof.Machine.execCombIbi ident status s
  | .clockMonitorWindow m => Sys2Proof.Machine.execClockMonitorWindow m s
  | .go value => Sys2Proof.Machine.execGo value s
  | .imageCopyComplete pcieError => Sys2Proof.Machine.execImageCopyComplete pcieError s
  | .bringupComplete untrained => Sys2Proof.Machine.execBringupComplete untrained s
  | .thermalHoldClear readings => Sys2Proof.Machine.execThermalHoldClear readings s
  | .svnCommit value => Sys2Proof.Machine.execSvnCommit value s
  | .keyRevoke value => Sys2Proof.Machine.execKeyRevoke value s
  | .cmdPi ring value => Sys2Proof.Machine.execCmdPi ring value s
  | .cplCi ring value => Sys2Proof.Machine.execCplCi ring value s
  | .evtCi value => Sys2Proof.Machine.execEvtCi value s
  | .cmdRingEnable ring value => Sys2Proof.Machine.execCmdRingEnable ring value s
  | .cmdRingDisable ring value => Sys2Proof.Machine.execCmdRingDisable ring value s
  | .cplRingEnable ring value => Sys2Proof.Machine.execCplRingEnable ring value s
  | .cplRingDisable ring value => Sys2Proof.Machine.execCplRingDisable ring value s
  | .evtRingEnable value => Sys2Proof.Machine.execEvtRingEnable value s
  | .fmBufEnable value => Sys2Proof.Machine.execFmBufEnable value s
  | .registerWrite off size value => Sys2Proof.Machine.execRegisterWrite off size value s
  | .detCtrlWrite value => Sys2Proof.Machine.execDetCtrlWrite value s
  | .legWdogWrite value => Sys2Proof.Machine.execLegWdogWrite value s
  | .leaseCfgWrite value => Sys2Proof.Machine.execLeaseCfgWrite value s
  | .pwrCfgWrite value => Sys2Proof.Machine.execPwrCfgWrite value s
  | .pcieLinkDown => Sys2Proof.Machine.execPcieLinkDown s
  | .pcieLinkUp lanes speed d3hot => Sys2Proof.Machine.execPcieLinkUp lanes speed d3hot s
  | .interruptTimer ring => Sys2Proof.Machine.execInterruptTimer ring s
  | .loadTraverse parts errs => Sys2Proof.Machine.execLoadTraverse parts errs s
  | .run errs => Sys2Proof.Machine.execRun errs s
  | .routeTables => Sys2Proof.Machine.execRouteTables s
  | .windowMap => Sys2Proof.Machine.execWindowMap s
  | .opTarget => Sys2Proof.Machine.execOpTarget s
  | .fabricMode => Sys2Proof.Machine.execFabricMode s
  | .jobIdent => Sys2Proof.Machine.execJobIdent s
  | .blockSpareMap => Sys2Proof.Machine.execBlockSpareMap s
  | .columnSpareMap => Sys2Proof.Machine.execColumnSpareMap s
  | .frameRetire => Sys2Proof.Machine.execFrameRetire s
  | .backsightRole => Sys2Proof.Machine.execBacksightRole s
  | .detCtrl => Sys2Proof.Machine.execDetCtrl s
  | .legWdog => Sys2Proof.Machine.execLegWdog s
  | .retireFrame => Sys2Proof.Machine.execRetireFrame s
  | .dmaH2d errs => Sys2Proof.Machine.execDmaH2d errs s
  | .dmaD2h errs => Sys2Proof.Machine.execDmaD2h errs s
  | .dmaAtStation id errs => Sys2Proof.Machine.execDmaAtStation id errs s
  | .hostDmaComplete id => Sys2Proof.Machine.execHostDmaComplete id s
  | .identity => Sys2Proof.Machine.execIdentity s
  | .hbmEcc => Sys2Proof.Machine.execHbmEcc s
  | .shape => Sys2Proof.Machine.execShape s
  | .energy => Sys2Proof.Machine.execEnergy s
  | .checkpointOut => Sys2Proof.Machine.execCheckpointOut s
  | .checkpointRun id errs => Sys2Proof.Machine.execCheckpointRun id errs s
  | .fillIn => Sys2Proof.Machine.execFillIn s
  | .backsight errs => Sys2Proof.Machine.execBacksight errs s
  | .fenceJob => Sys2Proof.Machine.execFenceJob s
  | .resetRegion errs => Sys2Proof.Machine.execResetRegion errs s
  | .resetRegionComplete r untrained => Sys2Proof.Machine.execResetRegionComplete r untrained s
  | .park => Sys2Proof.Machine.execPark s
  | .parkComplete errs => Sys2Proof.Machine.execParkComplete errs s
  | .unpark => Sys2Proof.Machine.execUnpark s
  | .unparkComplete errs => Sys2Proof.Machine.execUnparkComplete errs s
  | .mgtSend => Sys2Proof.Machine.execMgtSend s
  | .ration => Sys2Proof.Machine.execRation s
  | .resetBlock => Sys2Proof.Machine.execResetBlock s
  | .resetBlockComplete b columns failed => Sys2Proof.Machine.execResetBlockComplete b columns failed s
  | .resetPort => Sys2Proof.Machine.execResetPort s
  | .d2dNear value => Sys2Proof.Machine.execD2dNear value s
  | .d2dFar value => Sys2Proof.Machine.execD2dFar value s
  | .oeElec value => Sys2Proof.Machine.execOeElec value s
  | .oeDriver value => Sys2Proof.Machine.execOeDriver value s
  | .oeOptical value => Sys2Proof.Machine.execOeOptical value s
  | .blockBist value => Sys2Proof.Machine.execBlockBist value s
  | .hbmMarch value => Sys2Proof.Machine.execHbmMarch value s
  | .testEnd found => Sys2Proof.Machine.execTestEnd found s
  | .stationReach errs => Sys2Proof.Machine.execStationReach errs s
  | .arrivedRepeat => Sys2Proof.Machine.execArrivedRepeat s
  | .drainCheck => Sys2Proof.Machine.execDrainCheck s
  | .drained => Sys2Proof.Machine.execDrained s
  | .swap errs => Sys2Proof.Machine.execSwap errs s
  | .stationMarker => Sys2Proof.Machine.execStationMarker s
  | .legOverdue => Sys2Proof.Machine.execLegOverdue s
  | .nop b e => Sys2Proof.Machine.execNop b e s
  | .wait b e => Sys2Proof.Machine.execWait b e s
  | .post b e => Sys2Proof.Machine.execPost b e s
  | .set b e => Sys2Proof.Machine.execSet b e s
  | .loop b e => Sys2Proof.Machine.execLoop b e s
  | .aseq b e => Sys2Proof.Machine.execAseq b e s
  | .lend b e => Sys2Proof.Machine.execLend b e s
  | .release b e => Sys2Proof.Machine.execRelease b e s
  | .dload b e => Sys2Proof.Machine.execDload b e s
  | .setbase b e => Sys2Proof.Machine.execSetbase b e s
  | .scalar b e => Sys2Proof.Machine.execScalar b e s
  | .station b e => Sys2Proof.Machine.execStation b e s
  | .mac b e => Sys2Proof.Machine.execMac b e s
  | .minplus b e => Sys2Proof.Machine.execMinplus b e s
  | .maxplus b e => Sys2Proof.Machine.execMaxplus b e s
  | .maxtimes b e => Sys2Proof.Machine.execMaxtimes b e s
  | .l1 b e => Sys2Proof.Machine.execL1 b e s
  | .l2sq b e => Sys2Proof.Machine.execL2sq b e s
  | .cntGt b e => Sys2Proof.Machine.execCntGt b e s
  | .cntGe b e => Sys2Proof.Machine.execCntGe b e s
  | .cntEq b e => Sys2Proof.Machine.execCntEq b e s
  | .hamming b e => Sys2Proof.Machine.execHamming b e s
  | .split32 b e => Sys2Proof.Machine.execSplit32 b e s
  | .partPost b part upto e => Sys2Proof.Machine.execPartPost b part upto e s
  | .add b e => Sys2Proof.Machine.execAdd b e s
  | .mul b e => Sys2Proof.Machine.execMul b e s
  | .fma b e => Sys2Proof.Machine.execFma b e s
  | .min b e => Sys2Proof.Machine.execMin b e s
  | .max b e => Sys2Proof.Machine.execMax b e s
  | .exp b e => Sys2Proof.Machine.execExp b e s
  | .log b e => Sys2Proof.Machine.execLog b e s
  | .rcp b e => Sys2Proof.Machine.execRcp b e s
  | .rsqrt b e => Sys2Proof.Machine.execRsqrt b e s
  | .cvt b e => Sys2Proof.Machine.execCvt b e s
  | .cvtMx b e => Sys2Proof.Machine.execCvtMx b e s
  | .datum b e => Sys2Proof.Machine.execDatum b e s
  | .dmax b e => Sys2Proof.Machine.execDmax b e s
  | .toC b e => Sys2Proof.Machine.execToC b e s
  | .cadd b e => Sys2Proof.Machine.execCadd b e s
  | .fromC b e => Sys2Proof.Machine.execFromC b e s
  | .dropout b e => Sys2Proof.Machine.execDropout b e s
  | .uniform b e => Sys2Proof.Machine.execUniform b e s
  | .rawrand b e => Sys2Proof.Machine.execRawrand b e s
  | .copy b e => Sys2Proof.Machine.execCopy b e s
  | .vectorPost b upto e => Sys2Proof.Machine.execVectorPost b upto e s
  | .hbmToSp b e => Sys2Proof.Machine.execHbmToSp b e s
  | .spToHbm b e => Sys2Proof.Machine.execSpToHbm b e s
  | .spToSp b e => Sys2Proof.Machine.execSpToSp b e s
  | .dmaPost b id upto e => Sys2Proof.Machine.execDmaPost b id upto e s
  | .rload b e => Sys2Proof.Machine.execRload b e s
  | .rstore b e => Sys2Proof.Machine.execRstore b e s
  | .ratomic b e => Sys2Proof.Machine.execRatomic b e s
  | .pegClaimDescriptor b e => Sys2Proof.Machine.execPegClaimDescriptor b e s
  | .notify b e => Sys2Proof.Machine.execNotify b e s
  | .inval b e => Sys2Proof.Machine.execInval b e s
  | .fenceDescriptor b e => Sys2Proof.Machine.execFenceDescriptor b e s
  | .fenceSecondStage id => Sys2Proof.Machine.execFenceSecondStage id s
  | .remoteComplete id => Sys2Proof.Machine.execRemoteComplete id s
  | .scPost b e => Sys2Proof.Machine.execScPost b e s
  | .scWait b e => Sys2Proof.Machine.execScWait b e s
  | .scRead b e => Sys2Proof.Machine.execScRead b e s
  | .scSegst b e => Sys2Proof.Machine.execScSegst b e s
  | .scRelease b e => Sys2Proof.Machine.execScRelease b e s
  | .scExit b e => Sys2Proof.Machine.execScExit b e s
  | .scalarInstruction b e => Sys2Proof.Machine.execScalarInstruction b e s
  | .load errs => Sys2Proof.Machine.execLoad errs s
  | .store errs => Sys2Proof.Machine.execStore errs s
  | .storeFlag errs => Sys2Proof.Machine.execStoreFlag errs s
  | .storeFlagSend id => Sys2Proof.Machine.execStoreFlagSend id s
  | .atomicAdd errs => Sys2Proof.Machine.execAtomicAdd errs s
  | .atomicMin errs => Sys2Proof.Machine.execAtomicMin errs s
  | .atomicMax errs => Sys2Proof.Machine.execAtomicMax errs s
  | .atomicAnd errs => Sys2Proof.Machine.execAtomicAnd errs s
  | .atomicOr errs => Sys2Proof.Machine.execAtomicOr errs s
  | .atomicXor errs => Sys2Proof.Machine.execAtomicXor errs s
  | .atomicSwap errs => Sys2Proof.Machine.execAtomicSwap errs s
  | .atomicCas errs => Sys2Proof.Machine.execAtomicCas errs s
  | .atomicCadd errs => Sys2Proof.Machine.execAtomicCadd errs s
  | .pegClaim => Sys2Proof.Machine.execPegClaim s
  | .pegDone => Sys2Proof.Machine.execPegDone s
  | .pegDoneSend id => Sys2Proof.Machine.execPegDoneSend id s
  | .notice => Sys2Proof.Machine.execNotice s
  | .fence errs => Sys2Proof.Machine.execFence errs s
  | .loadData poison => Sys2Proof.Machine.execLoadData poison s
  | .ack errs => Sys2Proof.Machine.execAck errs s
  | .atomicResult => Sys2Proof.Machine.execAtomicResult s
  | .pegGrant => Sys2Proof.Machine.execPegGrant s
  | .e2eTimeout tag => Sys2Proof.Machine.execE2eTimeout tag s
  | .deadUsExpire tag => Sys2Proof.Machine.execDeadUsExpire tag s
  | .retryOrderResend tag => Sys2Proof.Machine.execRetryOrderResend tag s
  | .delayedResend tag => Sys2Proof.Machine.execDelayedResend tag s
  | .receiptExpire r => Sys2Proof.Machine.execReceiptExpire r s
  | .tagQuarantineEnd tag => Sys2Proof.Machine.execTagQuarantineEnd tag s
  | .windowDrainExpire w => Sys2Proof.Machine.execWindowDrainExpire w s
  | .a2a engine => Sys2Proof.Machine.execA2a engine s
  | .a2av engine => Sys2Proof.Machine.execA2av engine s
  | .a2ax engine => Sys2Proof.Machine.execA2ax engine s
  | .allgather engine => Sys2Proof.Machine.execAllgather engine s
  | .reduceScatter engine => Sys2Proof.Machine.execReduceScatter engine s
  | .allreduce engine => Sys2Proof.Machine.execAllreduce engine s
  | .collectiveDatum engine => Sys2Proof.Machine.execCollectiveDatum engine s
  | .broadcast engine => Sys2Proof.Machine.execBroadcast engine s
  | .colSlotSend tag errs => Sys2Proof.Machine.execColSlotSend tag errs s
  | .col errs => Sys2Proof.Machine.execCol errs s
  | .colResend tag => Sys2Proof.Machine.execColResend tag s
  | .collectiveDeadUs id => Sys2Proof.Machine.execCollectiveDeadUs id s
  | .flitReceive port line badCodes bytes => Sys2Proof.Machine.execFlitReceive port line badCodes bytes s
  | .linkReplayTimeout port line => Sys2Proof.Machine.execLinkReplayTimeout port line s
  | .replayStoreDiscard port line => Sys2Proof.Machine.execReplayStoreDiscard port line s
  | .packetReceive port line => Sys2Proof.Machine.execPacketReceive port line s
  | .packetForward port line => Sys2Proof.Machine.execPacketForward port line s
  | .escWaitExpire port line => Sys2Proof.Machine.execEscWaitExpire port line s
  | .escAdvance port line => Sys2Proof.Machine.execEscAdvance port line s
  | .helloTimer port line => Sys2Proof.Machine.execHelloTimer port line s
  | .hello => Sys2Proof.Machine.execHello s
  | .challengeSend port line => Sys2Proof.Machine.execChallengeSend port line s
  | .challenge => Sys2Proof.Machine.execChallenge s
  | .challengeResp => Sys2Proof.Machine.execChallengeResp s
  | .authTimeout port line => Sys2Proof.Machine.execAuthTimeout port line s
  | .peerLostTimeout port line => Sys2Proof.Machine.execPeerLostTimeout port line s
  | .marginReq => Sys2Proof.Machine.execMarginReq s
  | .marginCountComplete port line eyeMin rlm symErr => Sys2Proof.Machine.execMarginCountComplete port line eyeMin rlm symErr s
  | .marginResult => Sys2Proof.Machine.execMarginResult s
  | .marginTestTimeout port line => Sys2Proof.Machine.execMarginTestTimeout port line s
  | .serviceMarginSample port line deciDbm => Sys2Proof.Machine.execServiceMarginSample port line deciDbm s
  | .biasNeed busy headroom => Sys2Proof.Machine.execBiasNeed busy headroom s
  | .congRead => Sys2Proof.Machine.execCongRead s
  | .congSample => Sys2Proof.Machine.execCongSample s
  | .combLineMeasure e lines => Sys2Proof.Machine.execCombLineMeasure e lines s
  | .lockErrorExceed p err => Sys2Proof.Machine.execLockErrorExceed p err s
  | .searchComplete p found drive => Sys2Proof.Machine.execSearchComplete p found drive s
  | .plumbCheckEnd p tags => Sys2Proof.Machine.execPlumbCheckEnd p tags s
  | .retuneComplete p => Sys2Proof.Machine.execRetuneComplete p s
  | .trainingComplete p t => Sys2Proof.Machine.execTrainingComplete p t s
  | .trainingMismatchReport port w => Sys2Proof.Machine.execTrainingMismatchReport port w s
  | .codewordErrors p count => Sys2Proof.Machine.execCodewordErrors p count s
  | .failCountReset p => Sys2Proof.Machine.execFailCountReset p s
  | .lightReturn p => Sys2Proof.Machine.execLightReturn p s
  | .engineStart e tx rx cal => Sys2Proof.Machine.execEngineStart e tx rx cal s
  | .xtalkRefresh e rxBank k cal => Sys2Proof.Machine.execXtalkRefresh e rxBank k cal s
  | .heaterUpdate e rxBank loop => Sys2Proof.Machine.execHeaterUpdate e rxBank loop s
  | .keepaliveEntry => Sys2Proof.Machine.execKeepaliveEntry s
  | .portDarkRestart port => Sys2Proof.Machine.execPortDarkRestart port s
  | .d2dLaneFail link turn lanes => Sys2Proof.Machine.execD2dLaneFail link turn lanes s
  | .d2dRetrainComplete link turn => Sys2Proof.Machine.execD2dRetrainComplete link turn s
  | .d2dFlitReceive link turn replay bytes damage => Sys2Proof.Machine.execD2dFlitReceive link turn replay bytes damage s
  | .linkWatchdogExpire link => Sys2Proof.Machine.execLinkWatchdogExpire link s
  | .meshFlitReceive r stop side crcGood => Sys2Proof.Machine.execMeshFlitReceive r stop side crcGood s
  | .meshDown r => Sys2Proof.Machine.execMeshDown r s
  | .hbmRead r off requester ecc => Sys2Proof.Machine.execHbmRead r off requester ecc s
  | .hbmWrite r off mask data errs => Sys2Proof.Machine.execHbmWrite r off mask data errs s
  | .patrolScrub ch ecc writtenSince => Sys2Proof.Machine.execPatrolScrub ch ecc writtenSince s
  | .hbmRefresh ch => Sys2Proof.Machine.execHbmRefresh ch s
  | .channelRetrainTimeout ch => Sys2Proof.Machine.execChannelRetrainTimeout ch s
  | .postPackageRepair ch lines unread rowLeft => Sys2Proof.Machine.execPostPackageRepair ch lines unread rowLeft s
  | .leaseRenew => Sys2Proof.Machine.execLeaseRenew s
  | .leaseGrant => Sys2Proof.Machine.execLeaseGrant s
  | .leaseExpiry => Sys2Proof.Machine.execLeaseExpiry s
  | .fenceNotice => Sys2Proof.Machine.execFenceNotice s
  | .bsDigest => Sys2Proof.Machine.execBsDigest s
  | .teeCopyReceive port line errs => Sys2Proof.Machine.execTeeCopyReceive port line errs s
  | .teeLogHandle errs => Sys2Proof.Machine.execTeeLogHandle errs s
  | .vralertLRelease => Sys2Proof.Machine.execVralertLRelease s
  | .pwrgdRelease mv railsGood => Sys2Proof.Machine.execPwrgdRelease mv railsGood s
  | .droopRecover r => Sys2Proof.Machine.execDroopRecover r s
  | .selftestComplete sound readings => Sys2Proof.Machine.execSelftestComplete sound readings s
  | .channelTrainingLost ch => Sys2Proof.Machine.execChannelTrainingLost ch s

end Sys2Proof.Machine
end

