-- ==== Sys2Proof/WellFormed.lean ====
section
/-! DEFINITION. Operands that a command may carry: what the manual's formats and measurements allow. -/

namespace Sys2Proof

/-- A scratchpad error lies in the 6 MiB scratchpad (R175). -/
def ReadErr.wellFormed (e : ReadErr) : Bool :=
  match e with
  | .hbm _ _ => true
  | .scratch _ off _ => decide (off < 6291456)
  | .cache _ _ => true

/-- The same of an error that a block meets. -/
def HwErr.wellFormed (e : HwErr) : Bool :=
  match e with
  | .none => true
  | .seqParity _ => true
  | .spSingle off => decide (off < 6291456)
  | .spDouble off => decide (off < 6291456)
  | .operandParity _ _ => true
  | .accParity _ _ => true
  | .bothParity _ _ _ => true
  | .reads errs => errs.all ReadErr.wellFormed

/-- Each of the 81 sensors is read once (R441, R448). -/
def sensorsOk (readings : List SensorVal) : Bool :=
  decide (readings.length = 81) && decide (readings.map fun v => v.sensor).Nodup

/-- Each entry of a matrix is given once. -/
def bandOk (k : List KEntry) : Bool := decide (k.map fun x => (x.ring, x.band)).Nodup

/-- Each ring is calibrated once, and its bias threshold is 1.0 to 6.0 dB (R267). -/
def calOk (cal : List CalEntry) : Bool :=
  decide (cal.map fun x => (x.ring, x.rxBank)).Nodup && cal.all fun x => decide (10 ≤ x.biasThr) && decide (x.biasThr ≤ 60)

/-- Operands that keep to the manual's formats: a flit of 256 bytes (R279), one measurement for each region, line, sensor and
node, an access of 1 to 8 bytes. -/
def Instr.wellFormed (i : Instr) : Bool :=
  match i with
  | .railSample m => decide (m.vcoreMa.length = 4)
  | .thermalModelUpdate est => decide (est.nodes.map fun e => e.1).Nodup && decide (est.rings.map fun e => e.1).Nodup
    && decide (est.activity.map fun e => e.1).Nodup
  | .sensorRead readings => sensorsOk readings
  | .clockMonitorWindow m => decide (m.bclk.length = 4) && decide (m.nclk.length = 4)
  | .bringupComplete untrained => decide untrained.Nodup
  | .thermalHoldClear readings => sensorsOk readings
  | .registerWrite _ size _ => decide (1 ≤ size) && decide (size ≤ 8)
  | .resetRegionComplete _ untrained => decide untrained.Nodup
  | .testEnd found => decide (found.map fun t => t.region).Nodup
  | .nop _ e => e.wellFormed
  | .wait _ e => e.wellFormed
  | .post _ e => e.wellFormed
  | .set _ e => e.wellFormed
  | .loop _ e => e.wellFormed
  | .aseq _ e => e.wellFormed
  | .lend _ e => e.wellFormed
  | .release _ e => e.wellFormed
  | .dload _ e => e.wellFormed
  | .setbase _ e => e.wellFormed
  | .scalar _ e => e.wellFormed
  | .station _ e => e.wellFormed
  | .mac _ e => e.wellFormed
  | .minplus _ e => e.wellFormed
  | .maxplus _ e => e.wellFormed
  | .maxtimes _ e => e.wellFormed
  | .l1 _ e => e.wellFormed
  | .l2sq _ e => e.wellFormed
  | .cntGt _ e => e.wellFormed
  | .cntGe _ e => e.wellFormed
  | .cntEq _ e => e.wellFormed
  | .hamming _ e => e.wellFormed
  | .split32 _ e => e.wellFormed
  | .add _ e => e.wellFormed
  | .mul _ e => e.wellFormed
  | .fma _ e => e.wellFormed
  | .min _ e => e.wellFormed
  | .max _ e => e.wellFormed
  | .exp _ e => e.wellFormed
  | .log _ e => e.wellFormed
  | .rcp _ e => e.wellFormed
  | .rsqrt _ e => e.wellFormed
  | .cvt _ e => e.wellFormed
  | .cvtMx _ e => e.wellFormed
  | .datum _ e => e.wellFormed
  | .dmax _ e => e.wellFormed
  | .toC _ e => e.wellFormed
  | .cadd _ e => e.wellFormed
  | .fromC _ e => e.wellFormed
  | .dropout _ e => e.wellFormed
  | .uniform _ e => e.wellFormed
  | .rawrand _ e => e.wellFormed
  | .copy _ e => e.wellFormed
  | .hbmToSp _ e => e.wellFormed
  | .spToHbm _ e => e.wellFormed
  | .spToSp _ e => e.wellFormed
  | .rload _ e => e.wellFormed
  | .rstore _ e => e.wellFormed
  | .ratomic _ e => e.wellFormed
  | .pegClaimDescriptor _ e => e.wellFormed
  | .notify _ e => e.wellFormed
  | .inval _ e => e.wellFormed
  | .fenceDescriptor _ e => e.wellFormed
  | .scPost _ e => e.wellFormed
  | .scWait _ e => e.wellFormed
  | .scRead _ e => e.wellFormed
  | .scSegst _ e => e.wellFormed
  | .scRelease _ e => e.wellFormed
  | .scExit _ e => e.wellFormed
  | .scalarInstruction _ e => e.wellFormed
  | .flitReceive _ _ _ bytes => decide (bytes.length = 256)
  | .combLineMeasure _ lines => decide (lines.map fun m => m.line).Nodup
  | .plumbCheckEnd _ tags => decide (tags.map fun t => t.line).Nodup
  | .engineStart _ tx rx cal => bandOk (tx.getD []) && bandOk (rx.getD []) && calOk cal
  | .xtalkRefresh _ _ k cal => bandOk k && calOk cal
  | .heaterUpdate _ _ drives => decide (drives.length = 68)
  | .d2dLaneFail _ _ lanes => decide lanes.Nodup
  | .selftestComplete _ readings => sensorsOk readings
  | .inputRise .. => true
  | .powerUpRetry .. => true
  | .inputLow .. => true
  | .inputLowRecover .. => true
  | .inputUndervoltage .. => true
  | .inputOvervoltage .. => true
  | .pwrgdHoldLow => true
  | .perstLAssert => true
  | .perstLDeassert => true
  | .functionLevelReset => true
  | .packageReset .. => true
  | .vralertLAssert => true
  | .vralertHoldExpire => true
  | .limitRungReturn => true
  | .droopDetect .. => true
  | .droopRungExpire .. => true
  | .modelFaultClear => true
  | .currentLimitStep .. => true
  | .thermalComparatorTrip .. => true
  | .governorTick => true
  | .rationDeadline => true
  | .floorEpisodeStart => true
  | .floorEpisodeEnd => true
  | .graceExpire => true
  | .pointChangeComplete .. => true
  | .blockWakeGrant .. => true
  | .setRation .. => true
  | .getPower .. => true
  | .setEndpointId .. => true
  | .entdaa .. => true
  | .getVendorDefinedMessageSupport .. => true
  | .getVersion .. => true
  | .getCapabilities .. => true
  | .negotiateAlgorithms .. => true
  | .getDigests .. => true
  | .getCertificate .. => true
  | .spdmChallenge .. => true
  | .getMeasurements .. => true
  | .respondIfReady .. => true
  | .spdmUnsupportedRequest .. => true
  | .combIbi .. => true
  | .go .. => true
  | .imageCopyComplete .. => true
  | .svnCommit .. => true
  | .keyRevoke .. => true
  | .cmdPi .. => true
  | .cplCi .. => true
  | .evtCi .. => true
  | .cmdRingEnable .. => true
  | .cmdRingDisable .. => true
  | .cplRingEnable .. => true
  | .cplRingDisable .. => true
  | .evtRingEnable .. => true
  | .fmBufEnable .. => true
  | .detCtrlWrite .. => true
  | .legWdogWrite .. => true
  | .leaseCfgWrite .. => true
  | .pwrCfgWrite .. => true
  | .pcieLinkDown => true
  | .pcieLinkUp _ _ _ => true
  | .interruptTimer .. => true
  | .loadTraverse _ errs => errs.all ReadErr.wellFormed
  | .run errs => errs.all ReadErr.wellFormed
  | .routeTables => true
  | .windowMap => true
  | .opTarget => true
  | .fabricMode => true
  | .jobIdent => true
  | .blockSpareMap => true
  | .columnSpareMap => true
  | .frameRetire => true
  | .backsightRole => true
  | .detCtrl => true
  | .legWdog => true
  | .retireFrame => true
  | .dmaH2d errs => errs.all ReadErr.wellFormed
  | .dmaD2h errs => errs.all ReadErr.wellFormed
  | .dmaAtStation _ errs => errs.all ReadErr.wellFormed
  | .hostDmaComplete .. => true
  | .identity => true
  | .hbmEcc => true
  | .shape => true
  | .energy => true
  | .checkpointOut => true
  | .checkpointRun _ errs => errs.all ReadErr.wellFormed
  | .fillIn => true
  | .backsight errs => errs.all ReadErr.wellFormed
  | .fenceJob => true
  | .resetRegion errs => errs.all ReadErr.wellFormed
  | .park => true
  | .parkComplete errs => errs.all ReadErr.wellFormed
  | .unpark => true
  | .unparkComplete errs => errs.all ReadErr.wellFormed
  | .mgtSend => true
  | .ration => true
  | .resetBlock => true
  | .resetBlockComplete .. => true
  | .resetPort => true
  | .d2dNear .. => true
  | .d2dFar .. => true
  | .oeElec .. => true
  | .oeDriver .. => true
  | .oeOptical .. => true
  | .blockBist .. => true
  | .hbmMarch .. => true
  | .stationReach errs => errs.all ReadErr.wellFormed
  | .arrivedRepeat => true
  | .drainCheck => true
  | .drained => true
  | .swap errs => errs.all ReadErr.wellFormed
  | .stationMarker => true
  | .legOverdue => true
  | .partPost _ _ _ e => e.wellFormed
  | .vectorPost _ _ e => e.wellFormed
  | .dmaPost _ _ _ e => e.wellFormed
  | .fenceSecondStage .. => true
  | .remoteComplete .. => true
  | .load errs => errs.all ReadErr.wellFormed
  | .store errs => errs.all ReadErr.wellFormed
  | .storeFlag errs => errs.all ReadErr.wellFormed
  | .storeFlagSend .. => true
  | .atomicAdd errs => errs.all ReadErr.wellFormed
  | .atomicMin errs => errs.all ReadErr.wellFormed
  | .atomicMax errs => errs.all ReadErr.wellFormed
  | .atomicAnd errs => errs.all ReadErr.wellFormed
  | .atomicOr errs => errs.all ReadErr.wellFormed
  | .atomicXor errs => errs.all ReadErr.wellFormed
  | .atomicSwap errs => errs.all ReadErr.wellFormed
  | .atomicCas errs => errs.all ReadErr.wellFormed
  | .atomicCadd errs => errs.all ReadErr.wellFormed
  | .pegClaim => true
  | .pegDone => true
  | .pegDoneSend .. => true
  | .notice => true
  | .fence errs => errs.all ReadErr.wellFormed
  | .loadData poison => decide poison.Nodup
  | .ack errs => errs.all ReadErr.wellFormed
  | .atomicResult => true
  | .pegGrant => true
  | .e2eTimeout .. => true
  | .deadUsExpire .. => true
  | .retryOrderResend .. => true
  | .delayedResend .. => true
  | .receiptExpire .. => true
  | .tagQuarantineEnd .. => true
  | .windowDrainExpire .. => true
  | .a2a .. => true
  | .a2av .. => true
  | .a2ax .. => true
  | .allgather .. => true
  | .reduceScatter .. => true
  | .allreduce .. => true
  | .collectiveDatum .. => true
  | .broadcast .. => true
  | .colSlotSend _ errs => errs.all ReadErr.wellFormed
  | .col errs => errs.all ReadErr.wellFormed
  | .colResend .. => true
  | .collectiveDeadUs .. => true
  | .linkReplayTimeout .. => true
  | .replayStoreDiscard .. => true
  | .packetReceive .. => true
  | .packetForward .. => true
  | .escWaitExpire .. => true
  | .escAdvance .. => true
  | .helloTimer .. => true
  | .hello => true
  | .challengeSend .. => true
  | .challenge => true
  | .challengeResp => true
  | .authTimeout .. => true
  | .peerLostTimeout .. => true
  | .marginReq => true
  | .marginCountComplete .. => true
  | .marginResult => true
  | .marginTestTimeout .. => true
  | .serviceMarginSample .. => true
  | .biasNeed .. => true
  | .congRead => true
  | .congSample => true
  | .lockErrorExceed .. => true
  | .searchComplete .. => true
  | .retuneComplete .. => true
  | .trainingComplete .. => true
  | .trainingMismatchReport .. => true
  | .codewordErrors .. => true
  | .failCountReset .. => true
  | .lightReturn .. => true
  | .keepaliveEntry => true
  | .portDarkRestart .. => true
  | .d2dRetrainComplete .. => true
  | .d2dFlitReceive _ _ _ bytes damage => decide (bytes.length = 256) && decide (damage.length = 260)
  | .linkWatchdogExpire .. => true
  | .meshFlitReceive .. => true
  | .meshDown .. => true
  | .hbmRead .. => true
  | .hbmWrite _ _ _ _ errs => errs.all ReadErr.wellFormed
  | .patrolScrub .. => true
  | .hbmRefresh .. => true
  | .channelRetrainTimeout .. => true
  | .postPackageRepair .. => true
  | .leaseRenew => true
  | .leaseGrant => true
  | .leaseExpiry => true
  | .fenceNotice => true
  | .bsDigest => true
  | .teeCopyReceive _ _ errs => errs.all ReadErr.wellFormed
  | .teeLogHandle errs => errs.all ReadErr.wellFormed
  | .vralertLRelease => true
  | .pwrgdRelease .. => true
  | .droopRecover .. => true
  | .channelTrainingLost .. => true

end Sys2Proof
end

