-- ==== Sys2Proof/Safety.lean ====
section
/-! DEFINITION. What claims say of runs: that a command completes, what no command changes, and which states are sound. -/

namespace Sys2Proof.Machine

open Sys2Proof

/-- The outcome is a next state. -/
def Completes (o : Out) : Prop := ∃ t, o = .next t

/-- The outcome is a next state of which `p` holds. -/
def LeadsTo (o : Out) (p : State → Prop) : Prop := ∃ t, o = .next t ∧ p t

/-- Bits of `a` that are set are set in `b`. -/
def BitsKept (a b : Nat) : Prop := ∀ i, bit a i = true → bit b i = true

/-- An image key slot is programmed and not revoked (R504). -/
def UsableKey (s : State) : Prop := ∃ k, keyProgrammed s k = true ∧ bit s.idn.revoked k = false

/-- What every step keeps, whatever the command: the queue's rest, OTP and blown fuses (R503 to R505), a usable image key (R504),
and the canonical form of host memory. -/
structure Keeps (s t : State) : Prop where
  queue : t.pending = s.pending
  otp : t.idn.otp = s.idn.otp
  svn : BitsKept s.idn.svnFuses t.idn.svnFuses
  revoked : BitsKept s.idn.revoked t.idn.revoked
  key : UsableKey s → UsableKey t
  host : s.hostMem.wf = true → t.hostMem.wf = true

end Sys2Proof.Machine
end

