-- ==== Sys2Proof/Premises.lean ====
section
/-! DEFINITION. Premises that statements share: which command, slot or message is in turn. -/

namespace Sys2Proof.Machine

open Sys2Proof

/-- Ring `i` is served next, the command at its front is `c`, and nothing turns it away before its own checks (R396, R400, R12). -/
structure Takes (s : State) (i : Nat) (c : InCmd) : Prop where
  turn : nextRing s = some i
  entry : entryCmd s i = c
  ok : turnedAway s i = none

/-- Block `b`, served by physical block `p`, can issue, and its current bundle is `bv`, which keeps R157 and may issue (R157, R158). -/
structure InTurn (s : State) (b p : Nat) (bv : BitVec 256) : Prop where
  phys : physOf s b = some p
  bundle : (streamOf s b)[(blkOf s p).pos]? = some bv
  issues : blockIssues s b p = true
  good : bundleBad bv.toNat = false
  may : bundleMayIssue (blkOf s p) bv.toNat = true

/-- What a bundle answers whose CTL slot's own effect leads from `s` to `u` (R158, R159): the engine slots read their descriptors, the engines take
their instructions, and the block goes past the bundle; a descriptor that fails leaves no effect of the bundle but its fault. -/
def Issues (s : State) (b p w : Nat) (u : State) (o : Out) : Prop :=
  (∀ l, readSlots (blkOf u p) w = .ok l → o = .next (passBundle p b (dmaPart b p w l (vecPart p w l (arrPart p w l u)))))
  ∧ ∀ c d x, readSlots (blkOf u p) w = .error (c, d, x) → o = .next (haltBlock p c d x s)

/-- The bundle in turn issues: its CTL slot's effect leads from `s` to `u`, and its engine slots have read the descriptors `l` (R158, R159). -/
structure Issued (s : State) (b p : Nat) (bv : BitVec 256) (u : State) (l : SlotReads) : Prop where
  turn : InTurn s b p bv
  ctl : ctlSlot b p bv.toNat s = .issued u
  reads : readSlots (blkOf u p) bv.toNat = .ok l

/-- The state in which a step reads memories that report `errs` to its reads. -/
def State.meets (errs : List ReadErr) (s : State) : State :=
  if errs.isEmpty then s else s.modHbm fun h => { h with meet := errs }

/-- Part `q` of the instruction at place `i` of block `p`'s array is the oldest with the moment `u` before it, and the block's engines run (R147). -/
structure PartInTurn (s : State) (b p : Nat) (u : PartMoment) (q i : Nat) (o : ArrOp) (x : ArrPart) : Prop where
  phys : physOf s b = some p
  runs : engineRuns s b = true
  part : findPart u q (blkOf s p).arr = some (i, o, x)

/-- The management core runs, the message at the head of its intake has CODE `code`, `c` is the packet and `rest` what lies behind it. -/
structure Message (s : State) (code : Nat) (c : Carried) (rest : List Carried) : Prop where
  head : s.fab.mgtIn = c :: rest
  code : mgtCode c.pkt = code
  runs : coreRuns s = true

/-- The reply at the head of the intake has type `type`, keeps its layout, belongs to the job, and answers the request with tag `tag` (R334). -/
structure Reply (s : State) (type : Nat) (c : Carried) (rest : List Carried) (tag : Nat) : Prop where
  head : s.fab.rspIn = c :: rest
  type : c.pkt.type = type
  layout : replyOk c.pkt = true
  job : tagAccepted s c.pkt = true
  mine : requestFor s c.pkt = some tag

/-- The write-combining buffer of channel `ch` holds each line once, lines of its own channel, and none that reads as poison (R208,
R209). -/
structure BufferSound (s : State) (ch : Nat) : Prop where
  once : ((wcbOf s ch).map fun e => e.line).Nodup
  own : ∀ e ∈ wcbOf s ch, lineChannel e.line = ch
  good : ∀ e ∈ wcbOf s ch, s.hbm.poison.get false e.line = false ∧ s.hbm.bad.get 0 e.line = 0

end Sys2Proof.Machine
end

