-- ==== Sys2Proof/Certificates/Slice0/Obligations.lean ====
section
/-! DEFINITION. The statements. -/

open Sys2Proof Sys2Proof.Machine

/-- A step runs the command at the front of the queue. For every command c and every state whose queue is c followed by r, the step is exec of c on that state with the queue r. -/
def Obligations.StepRunsFrontCommand : Prop :=
  ∀ (c : Instr) (r : List Instr) (s : State), s.pending = c :: r → step s = exec c { s with pending := r }

/-- On an empty queue one AON cycle passes; a commit in progress blows one fuse; nothing else changes (model's choices, logs 2 and 153). On an empty queue with PWRGD not asserted the step answers the same state. With PWRGD asserted and no SVN_COMMIT in progress it answers the state with AON time one higher. With one in progress the lowest fuse not yet blown is blown as well; when that was the last one asked for, COMMIT reads DONE (2) and the commit is over, and before that COMMIT stays as it is. -/
def Obligations.EmptyQueueIdles : Prop :=
  ∀ s : State, s.pending = [] →
    (pwrgd s = false → step s = .next s)
    ∧ (pwrgd s = true → s.idn.blowing = false → step s = .next { s with aon := s.aon + 1 })
    ∧ (pwrgd s = true → s.idn.blowing = true →
        let f := s.idn.svnFuses ||| 2 ^ fusedFrom s.idn.svnFuses 64 0
        let last := decide (min s.idn.svn 64 ≤ fusedFrom f 64 0)
        step s = .next { s with aon := s.aon + 1, idn := { s.idn with
          svnFuses := f, blowing := !last, commit := if last then 2 else s.idn.commit } })

/-- Every well-formed command of the table completes in every state. Whatever the state, a command with well-formed operands answers a next state: the model stops on no command of the table. -/
def Obligations.EveryCommandCompletes : Prop :=
  ∀ (c : Instr) (s : State), c.wellFormed = true → Completes (exec c s)

/-- The one stop of the model: bytes that are no flit (model's choice, log 12). FLIT_RECEIVE with a list of bytes that is not 256 long ends in the fault malformed, in every state and for every lane. -/
def Obligations.MalformedFlitStops : Prop :=
  ∀ (p : Fin 16) (l : Fin 34) (f : BitVec 2) (bs : List Byte) (s : State), bs.length ≠ 256 →
    exec (.flitReceive p l f bs) s = .fault .malformed

/-- No command's effect reaches the queue: a step takes exactly the front command away. Whenever a step on a non-empty queue answers a next state, the queue of that state is the rest of the queue, whichever command ran. -/
def Obligations.StepTakesOneCommand : Prop :=
  ∀ (c : Instr) (r : List Instr) (s t : State), s.pending = c :: r → step s = .next t → t.pending = r

/-- OTP never changes, and a blown fuse stays blown. Whatever step the machine takes, every byte of OTP is as it was, and every fuse of SVN and of KEY_REVOKE that was blown before the step is blown after it. -/
def Obligations.FusesOnlyBlow : Prop :=
  ∀ s t : State, step s = .next t →
    t.idn.otp = s.idn.otp ∧ BitsKept s.idn.svnFuses t.idn.svnFuses ∧ BitsKept s.idn.revoked t.idn.revoked

/-- KEY_REVOKE blows the fuse of the slot it names, for good, and some image key stays usable through every step. A write of 1 to bit k of KEY_REVOKE that reaches the device in READY blows the fuse of slot k and does nothing else, where slot k did not sign the running image and another programmed slot stays unrevoked; where slot k signed it, or no other programmed slot is unrevoked, or in another state, nothing changes. A write of any value leaves the fuses of the bits that are 0 as they were. Through every step of the machine, whatever the command, a revoked slot stays revoked, and if some slot is programmed and not revoked, some slot is so afterwards. -/
def Obligations.UsableKeyKept : Prop :=
  (∀ (k : Fin 4) (s : State), hostWrites s true = true → s.dev = .ready → k.val ≠ s.idn.keyIndex →
      (∃ j, j < 4 ∧ j ≠ k.val ∧ keyProgrammed s j = true ∧ bit s.idn.revoked j = false) →
      exec (.keyRevoke (BitVec.ofNat 32 (2 ^ k.val))) s = .next { s with idn := { s.idn with revoked := s.idn.revoked ||| 2 ^ k.val } })
  ∧ (∀ (k : Fin 4) (s : State), hostWrites s true = true →
      s.dev ≠ .ready ∨ k.val = s.idn.keyIndex ∨ (∀ j, j < 4 → j ≠ k.val → keyProgrammed s j = true → bit s.idn.revoked j = true) →
      exec (.keyRevoke (BitVec.ofNat 32 (2 ^ k.val))) s = .next s)
  ∧ (∀ (v : W32) (s : State), LeadsTo (exec (.keyRevoke v) s) fun t => t = { s with idn := { s.idn with revoked := t.idn.revoked } }
      ∧ ∀ k, bit v.toNat k = false ∨ 4 ≤ k → bit t.idn.revoked k = bit s.idn.revoked k)
  ∧ (∀ (k : Nat) (s t : State), bit s.idn.revoked k = true → step s = .next t → bit t.idn.revoked k = true)
  ∧ (∀ s t : State, UsableKey s → step s = .next t → UsableKey t)

/-- Every step keeps host memory in its canonical form. If the list that holds host memory has strictly rising addresses and no entry equal to what an unlisted address reads as, it has this form after any step, whatever the device writes there. -/
def Obligations.HostMemoryCanonical : Prop :=
  ∀ s t : State, s.hostMem.wf = true → step s = .next t → t.hostMem.wf = true

/-- The state after reset satisfies the invariants (OTP contents at reset are the model's, log 81). At State.reset some image key is usable, host memory has its canonical form, and the queue is empty. -/
def Obligations.ResetHoldsInvariants : Prop :=
  UsableKey State.reset ∧ State.reset.hostMem.wf = true ∧ State.reset.pending = []

/-- Values that the manual gives for reset. After reset the device is in BOOT at AON time 0. The remote timers are 200 µs, 3 retries, 100 µs and 1,000 µs. All three rations are 3,200,000 mW and the floor is 640,000 mW. LEG_WDOG.PERIOD is 10,000, GRACE_MS is 5,000, OP_TARGET of every region is P2, the fabric mode is RECOVERY with no device number, no traverse is loaded, STATION_NOW and the job tag are 0, no command is in progress, every window is CLOSED with generation 0, every segment of every block is FREE, and every counter since package reset is 0. -/
def Obligations.ResetValues : Prop :=
  let s := State.reset
  s.dev = .boot ∧ s.aon = 0 ∧ s.idn.st = 0 ∧ s.idn.result = 0
    ∧ s.rmt.timers.e2e = 200 ∧ s.rmt.timers.retries = 3 ∧ s.rmt.timers.dead = 100 ∧ s.rmt.timers.drain = 1000
    ∧ s.pwr.hostMw = 3200000 ∧ s.pwr.mctpMw = 3200000 ∧ s.pwr.forceMw = 3200000 ∧ s.pwr.floorMw = 640000
    ∧ s.job.wdog = 10000 ∧ s.pwr.graceMs = 5000 ∧ (∀ r, (regPwr s r).target = 2)
    ∧ s.fab.recovery = true ∧ s.fab.number = none ∧ s.fab.epoch = 0
    ∧ s.job.trav = none ∧ s.job.run = none ∧ s.job.last = 0 ∧ s.job.valid = false ∧ s.job.tag = 0 ∧ s.job.key = 0
    ∧ s.host.cmds = [] ∧ (∀ i, (cmdRing s i).enable = false) ∧ (∀ j, (cplRing s j).enable = false) ∧ s.host.evt.enable = false
    ∧ (∀ w, (winOf s w).st = 0 ∧ (winOf s w).gen = 0) ∧ (∀ p g, ((blkOf s p).seg.get {} g).st = .free)
    ∧ (∀ k, s.flt.count.get 0 k = 0 ∧ s.pwr.count.get 0 k = 0 ∧ s.fab.count.get 0 k = 0 ∧ s.rmt.count.get 0 k = 0
        ∧ s.col.count.get 0 k = 0 ∧ s.mem.count.get 0 k = 0)

/-- PERST_L and a package reset restart BOOT and keep what lies outside the package. PERST_L going low outside OFF, PERST_L going high with power good, and a write of 1 to RESET_CTRL bit 0 that reaches the device each answer a next state in BOOT at AON time 0 with no command in progress, no traverse and no device number, with OTP, fuses and host memory as they were. A function-level reset outside OFF, with PERST_L high and in a state that it may leave, does the same and keeps AON time, the next SEQ of error records and ERR_LOG (log 98), and the PCIe link, which leaves D3hot (log 115); in a FAULT that only a package reset leaves, the device stays in FAULT with its boot state and the rest of the reset happens. -/
def Obligations.ResetsKeepFuses : Prop :=
  let fresh := fun (s t : State) => t.dev = .boot ∧ t.idn.st = 0 ∧ t.host.cmds = [] ∧ t.job.trav = none ∧ t.job.run = none
    ∧ t.fab.number = none ∧ t.idn.otp = s.idn.otp ∧ t.idn.svnFuses = s.idn.svnFuses ∧ t.idn.revoked = s.idn.revoked
    ∧ t.hostMem = s.hostMem
  (∀ s : State, s.pins.perst = false → s.dev ≠ .off → LeadsTo (exec .perstLAssert s) fun t => fresh s t ∧ t.aon = 0 ∧ t.pins.perst = true)
  ∧ (∀ s : State, s.pins.perst = true → s.dev ≠ .off →
      LeadsTo (exec .perstLDeassert s) fun t => fresh s t ∧ t.aon = 0 ∧ t.pins.perst = false)
  ∧ (∀ (v : W32) (s : State), v.getLsbD 0 = true → s.host.linkUp = true → s.dev ≠ .off →
      LeadsTo (exec (.packageReset v) s) fun t => fresh s t ∧ t.aon = 0 ∧ t.pins.thermtrip = false)
  ∧ (∀ s : State, s.dev ≠ .off → s.pins.perst = false → s.pins.thermtrip = false → s.idn.st ≠ 7 →
      LeadsTo (exec .functionLevelReset s) fun t =>
        fresh s t ∧ t.aon = s.aon ∧ t.flt.seq = s.flt.seq ∧ t.flt.log = s.flt.log ∧ t.host.linkUp = (s.host.linkUp || s.host.d3hot) ∧ t.host.d3hot = false)
  ∧ (∀ s : State, s.dev = .fault → s.pins.perst = false → s.pins.thermtrip = true ∨ s.idn.st = 7 →
      LeadsTo (exec .functionLevelReset s) fun t => t.dev = .fault ∧ t.idn.st = s.idn.st ∧ t.pins.thermtrip = s.pins.thermtrip ∧ t.host.cmds = []
        ∧ t.job.trav = none ∧ t.job.run = none ∧ t.job.stage = [] ∧ t.fab.number = none ∧ t.aon = s.aon ∧ t.flt.log = s.flt.log)

/-- The input's limits and PWRGD power the module up and down. From OFF, an input that rises from below 49.0 V to between that and 66.0 V with PWRGD not held and good rails ends in BOOT with every rail up and PWRGD released, and below 50 V with the front end's limit held; with bad rails the device stays in OFF with every rail down and a retry due after the first attempt. POWER_UP_RETRY with good rails ends in BOOT, and with bad rails a further retry is due only while fewer than three attempts have failed. Outside OFF, an input below 47.0 V or above 66.0 V, or PWRGD held low, ends in OFF with every rail down and PWRGD not released by the module. PWRGD_RELEASE from OFF with a valid input powers up in the same way, while fewer than three attempts have failed since the input rose; with an input outside the limits the device stays in OFF. That attempts are counted over the time the input stays up, and that the input's voltage and the rails' success come with PWRGD_RELEASE, is the model's choice (log 99). -/
def Obligations.PowerUpAndDown : Prop :=
  let rails := fun (t : State) (b : Bool) => t.pins.vcore = b ∧ t.pins.vsram = b ∧ t.pins.vhbm = b ∧ t.pins.vopt = b ∧ t.pins.vaon = b
  let up := fun (t : State) => t.dev = .boot ∧ rails t true ∧ t.pins.pwrgdReleased = true ∧ t.pins.retry = false ∧ t.idn.st = 0
  let failed := fun (s t : State) (n : Nat) => t.dev = .off ∧ rails t false ∧ t.pins.attempts = n + 1 ∧ (t.pins.retry = true ↔ n + 1 < 3)
    ∧ t.pins.pwrgdReleased = s.pins.pwrgdReleased
  (∀ (mv : Nat) (s : State), s.dev = .off → s.pins.inputMv < 49000 → 49000 ≤ mv → mv ≤ 66000 → s.pins.pwrgdHeld = false →
      LeadsTo (exec (.inputRise mv true) s) (fun t => up t ∧ t.pins.inputMv = mv ∧ t.pins.attempts = 0
        ∧ (t.pins.alertInput = true ↔ mv < 50000 ∨ s.pins.alertInput = true))
      ∧ LeadsTo (exec (.inputRise mv false) s) (fun t => failed s t 0))
  ∧ (∀ s : State, s.dev = .off → s.pins.retry = true → s.pins.pwrgdHeld = false →
      LeadsTo (exec (.powerUpRetry true) s) up
      ∧ LeadsTo (exec (.powerUpRetry false) s) (fun t => failed s t s.pins.attempts))
  ∧ (∀ (mv : Nat) (s : State), mv < 47000 → s.dev ≠ .off →
      LeadsTo (exec (.inputUndervoltage mv) s) fun t => t.dev = .off ∧ rails t false ∧ t.pins.pwrgdReleased = false)
  ∧ (∀ (mv : Nat) (s : State), 66000 < mv → s.dev ≠ .off →
      LeadsTo (exec (.inputOvervoltage mv) s) fun t => t.dev = .off ∧ rails t false ∧ t.pins.pwrgdReleased = false)
  ∧ (∀ s : State, s.pins.pwrgdHeld = false → s.dev ≠ .off →
      LeadsTo (exec .pwrgdHoldLow s) fun t => t.dev = .off ∧ rails t false ∧ t.pins.pwrgdReleased = false ∧ t.pins.pwrgdHeld = true)
  ∧ (∀ (mv : Nat) (s : State), s.dev = .off → s.pins.pwrgdHeld = true → 47000 ≤ mv → mv ≤ 66000 → s.pins.attempts < 3 →
      LeadsTo (exec (.pwrgdRelease mv true) s) (fun t => up t ∧ t.pins.pwrgdHeld = false ∧ t.pins.inputMv = mv)
      ∧ LeadsTo (exec (.pwrgdRelease mv false) s) (fun t => failed s t s.pins.attempts ∧ t.pins.pwrgdHeld = false))
  ∧ (∀ (mv : Nat) (good : Bool) (s : State), s.dev = .off → s.pins.pwrgdHeld = true → mv < 47000 ∨ 66000 < mv →
      exec (.pwrgdRelease mv good) s = .next { s with pins := { s.pins with pwrgdHeld := false } })

/-- VRALERT_L and a low input hold every region at rung 20, and let go after 1 ms. While the device executes, VRALERT_L that nobody yet asserts goes low: every region stands at rung 20, the limit holds, the assertion is counted in PWR_COUNT 0 and the pin is low. An input that falls from at least 47.0 V to between 47.0 V and 50.0 V puts every region at rung 20 in the same way. When the last asserting agent lets go, the limit stays for 50,000 AON cycles. At that time VRALERT_HOLD_EXPIRE ends the limit, unless the front end holds its own, and above 50.5 V INPUT_LOW_RECOVER ends the front end's when nobody else asserts. Nothing else of the state changes in these last three. In BOOT, before the clocks start, an assertion is only remembered for that moment; in BIVOUAC it only moves the pin. -/
def Obligations.RegulatorAlert : Prop :=
  let runs := fun (s : State) => s.dev = .ready ∨ s.dev = .run ∨ s.dev = .backsight ∨ s.dev = .fenced
  (∀ s : State, runs s → s.pins.alertRail = false → s.pins.alertCurrent = false →
      LeadsTo (exec .vralertLAssert s) fun t => (∀ r, r < 4 → (regPwr t r).rung = 20) ∧ t.pwr.alert = true ∧ t.pwr.alertEnd = none
        ∧ t.pins.alertRail = true ∧ t.pwr.count.get 0 0 = s.pwr.count.get 0 0 + 1)
  ∧ (∀ (mv : Nat) (s : State), runs s → 47000 ≤ s.pins.inputMv → 47000 ≤ mv → mv < 50000 →
      LeadsTo (exec (.inputLow mv) s) fun t => (∀ r, r < 4 → (regPwr t r).rung = 20) ∧ t.pwr.alert = true ∧ t.pins.alertInput = true
        ∧ t.pins.inputMv = mv)
  ∧ (∀ s : State, runs s → s.pins.alertRail = true → s.pins.alertCurrent = false → s.pwr.alert = true →
      exec .vralertLRelease s = .next { s with
        pins := { s.pins with alertRail := false }, pwr := { s.pwr with alertEnd := some (s.aon + 50000) } })
  ∧ (∀ (n : Nat) (s : State), s.pwr.alertEnd = some n → n ≤ s.aon → s.pwr.alert = true → s.pins.alertRail = false →
      s.pins.alertCurrent = false →
      exec .vralertHoldExpire s = .next { s with pwr := { s.pwr with alert := s.pins.alertInput, alertEnd := none } })
  ∧ (∀ (mv : Nat) (s : State), runs s → s.pins.alertInput = true → 50500 < mv → s.pins.alertRail = false → s.pins.alertCurrent = false →
      exec (.inputLowRecover mv) s = .next { s with
        pins := { s.pins with inputMv := mv, alertInput := false }
        pwr := { s.pwr with alert := s.pwr.alert && s.pwr.alertEnd.isSome } })
  ∧ (∀ s : State, s.dev = .boot → s.pins.alertRail = false → s.pins.alertCurrent = false →
      exec .vralertLAssert s = .next { s with pins := { s.pins with alertRail := true }, pwr := { s.pwr with alert := true } })
  ∧ (∀ s : State, s.dev = .bivouac → s.pins.alertRail = false →
      exec .vralertLAssert s = .next { s with pins := { s.pins with alertRail := true } })

/-- A region returns one rung at a time, and a point change ends on the new point. LIMIT_RUNG_RETURN moves each region whose limits allow a faster rung, and that has not moved to a faster one for 100 µs, by exactly one rung and leaves every other rung. A droop detector stretches the clock, counts, and with more than 1 % raises a region below rung 20 by at least one rung for 50,000 cycles and counts that too; DROOP_RECOVER ends the stretching and DROOP_RUNG_EXPIRE the penalty. POINT_CHANGE_COMPLETE leaves the safe clock with the voltage of the new point, and a switch of the clock keeps the present monitor window from being judged. CURRENT_LIMIT_STEP of a region that is not throttled raises its limit by 5 % to at most 100 %, and of a throttled one lowers it to at least 20 %. BLOCK_WAKE_GRANT takes the first four waiting blocks off the region's list, at most once in 100 ns (timing by AON time: log 31). -/
def Obligations.RungsAndPoints : Prop :=
  (∀ s : State, LeadsTo (exec .limitRungReturn s) fun t => ∀ r, r < 4 →
      if allowedRung s r < (regPwr s r).rung ∧ ((regPwr s r).lowered = 0 ∨ (regPwr s r).lowered + 4999 ≤ s.aon) then
        (regPwr t r).rung = (regPwr s r).rung - 1 ∧ (regPwr t r).lowered = s.aon + 1
      else regPwr t r = regPwr s r)
  ∧ (∀ (r : Fin 4) (d : Fin 16) (s : State), (regPwr s r).pll = true →
      LeadsTo (exec (.droopDetect r d false) s) (fun t => (regPwr t r).stretch = true ∧ (regPwr t r).rung = (regPwr s r).rung
        ∧ t.pwr.count.get 0 1 = s.pwr.count.get 0 1 + 1)
      ∧ ((regPwr s r).rung < 20 → LeadsTo (exec (.droopDetect r d true) s) fun t => (regPwr t r).stretch = true
        ∧ (regPwr t r).droopRung = (regPwr s r).rung + 1 ∧ (regPwr t r).droopEnd = s.aon + 50000
        ∧ (regPwr s r).rung + 1 ≤ (regPwr t r).rung ∧ t.pwr.count.get 0 2 = s.pwr.count.get 0 2 + 1)
      ∧ (20 ≤ (regPwr s r).rung → exec (.droopDetect r d true) s = exec (.droopDetect r d false) s))
  ∧ (∀ (r : Fin 4) (s : State), exec (.droopRecover r) s = .next (s.modReg r fun g => { g with stretch := false }))
  ∧ (∀ (r : Fin 4) (s : State), (regPwr s r).droopRung ≠ 0 → (regPwr s r).droopEnd ≤ s.aon →
      exec (.droopRungExpire r) s = .next (s.modReg r fun g => { g with droopRung := 0 }))
  ∧ (∀ (r : Fin 4) (s : State), (regPwr s r).changing = true →
      exec (.pointChangeComplete r) s
        = .next (s.modReg r fun g => { g with changing := false, safe := false, volt := g.point, skip := g.skip || g.safe }))
  ∧ (∀ (r : Fin 4) (s : State), regionThrottled s r = false →
      exec (.currentLimitStep r) s = .next (s.modReg r fun g => { g with curLimit := min 100 (g.curLimit + 5) }))
  ∧ (∀ (r : Fin 4) (s : State), regionThrottled s r = true →
      LeadsTo (exec (.currentLimitStep r) s) fun t => (regPwr t r).curLimit = max 20 ((regPwr s r).curLimit - 5))
  ∧ (∀ (r : Fin 4) (s : State), (regPwr s r).granted ≠ 0 → s.aon < (regPwr s r).granted + 4 → exec (.blockWakeGrant r) s = .next s)
  ∧ (∀ (r : Fin 4) (s : State), (regPwr s r).pll = true → (regPwr s r).wake ≠ [] → (regPwr s r).granted = 0 ∨ (regPwr s r).granted + 4 ≤ s.aon →
      LeadsTo (exec (.blockWakeGrant r) s) fun t => (regPwr t r).wake = (regPwr s r).wake.drop 4 ∧ (regPwr t r).granted = s.aon + 1
        ∧ ∀ lb, (regPwr s r).wake = [lb] → blockClock t (64 * r + lb) = max (s.pwr.want.get 0 (64 * r + lb)) (blockClock s (64 * r + lb)))

/-- Rations, the governor and the floor episode. RAIL_SAMPLE of a powered device adds the input energy to the counts and puts the input power in mW in front of the samples. A governor tick whose 100 µs average exceeds the effective ration raises the ration rung above it, to at least one more than the highest rung in force and at most 20. RATION_DEADLINE brings the lower of the host's and the MCTP value into force. Ten ticks above the ration at rung 20 start an episode with its grace timer of GRACE_MS, which FLOOR_EPISODE_END ends after 100 ticks at or below. GRACE_EXPIRE in RUN asks for a park at the next station. PWR_CFG takes a grace time of 100 to 60,000 ms. In BIVOUAC and in FAULT a tick only counts how long the input has kept to the ration. Energy in pJ with a counter since the last report, and input power rounded down to mW, are the model's choices (logs 33 and 36). -/
def Obligations.RationsAndGovernor : Prop :=
  (∀ (m : Rails) (s : State), s.dev ≠ .off →
      LeadsTo (exec (.railSample m) s) fun t => t.pwr.samples = (m.inputMv * m.inputMa / 1000 :: s.pwr.samples).take 100000
        ∧ t.pwr.totalPj = s.pwr.totalPj + m.inputMv * m.inputMa * 10 ∧ t.pwr.jobPj = s.pwr.jobPj + m.inputMv * m.inputMa * 10
        ∧ t.pwr.reportPj = s.pwr.reportPj + m.inputMv * m.inputMa * 10
        ∧ t.pins.inputMv = m.inputMv)
  ∧ (∀ s : State, governs s = true → effRation s < inputMw s 10 → s.pwr.rationRung < 20 →
      LeadsTo (exec .governorTick s) fun t => t.pwr.rationRung = min 20 (max s.pwr.rationRung (topRung s) + 1) ∧ t.pwr.sinceMove = 0
        ∧ t.pwr.lowTicks = if 10 * inputMw s 10 < 9 * effRation s then s.pwr.lowTicks + 1 else 0)
  ∧ (∀ s : State, governs s = true → inputMw s 10 ≤ effRation s → s.pwr.rationRung = 0 →
      LeadsTo (exec .governorTick s) fun t => t.pwr.rationRung = 0 ∧ t.pwr.underTicks = s.pwr.underTicks + 1 ∧ t.pwr.overTicks = 0)
  ∧ (∀ s : State, s.dev = .bivouac ∨ s.dev = .fault →
      exec .governorTick s = .next { s with pwr := { s.pwr with
        underTicks := if inputMw s 10 ≤ effRation s then s.pwr.underTicks + 1 else 0 } })
  ∧ (∀ (n : Nat) (s : State), s.pwr.deadline = some n → n ≤ s.aon →
      LeadsTo (exec .rationDeadline s) fun t => t.pwr.forceMw = min (min s.pwr.hostMw s.pwr.mctpMw) 3200000 ∧ t.pwr.deadline = none)
  ∧ (∀ s : State, governs s = true → s.pwr.floorOn = false → s.pwr.rationRung = 20 → 10 ≤ s.pwr.overTicks →
      LeadsTo (exec .floorEpisodeStart s) fun t => t.pwr.floorOn = true ∧ t.pwr.graceEnd = some (s.aon + 50000 * s.pwr.graceMs)
        ∧ t.pwr.count.get 0 3 = s.pwr.count.get 0 3 + 1)
  ∧ (∀ s : State, s.pwr.floorOn = true → 100 ≤ s.pwr.underTicks →
      LeadsTo (exec .floorEpisodeEnd s) fun t => t.pwr.floorOn = false ∧ t.pwr.graceEnd = none ∧ t.pwr.parkGrace = false)
  ∧ (∀ (n : Nat) (s : State), s.pwr.graceEnd = some n → n ≤ s.aon → s.dev = .run →
      LeadsTo (exec .graceExpire s) fun t => t.pwr.graceEnd = none ∧ t.pwr.parkPending = true ∧ t.pwr.parkGrace = true ∧ t.dev = .run)
  ∧ (∀ (v : W32) (s : State), s.host.linkUp = true → s.dev ≠ .off → s.dev ≠ .boot → 100 ≤ v.toNat / 65536 → v.toNat / 65536 ≤ 60000 →
      LeadsTo (exec (.pwrCfgWrite v) s) fun t => t.pwr.graceMs = v.toNat / 65536)

/-- Temperatures: estimates, readings, the model fault and the comparators. THERMAL_MODEL_UPDATE of a device in RUN or READY, with the calibration written, whose estimates stay below shutdown, with no shutdown predicted, takes every estimate and sets each location's warning flag at its level, clearing it below the level less the hysteresis. While the model runs, a reading more than 8.0 °C from the estimate at its sensor's node sets the model fault, counts it in PWR_COUNT 5, and the reading becomes the estimate; 81 readings within 4.0 °C count as agreement and any other set of readings as none. Before the model runs a reading is compared with nothing. MODEL_FAULT_CLEAR clears the fault after 100 readings in agreement and changes nothing else. A thermal comparator of a base die of region 0 powers the module down, and any other one of a location, in a running device, stops it at once in FAULT with THERMTRIP_L low. In THERMAL_HOLD, readings of all 81 sensors below every warning level return the boot to WAITING; any less leave it there. Which node of its die a sensor sits at the manual does not say: the choice is free (log 4). -/
def Obligations.ThermalReadings : Prop :=
  (∀ (est : ThermEst) (s : State), s.dev = .ready ∨ s.dev = .run → s.therm.cal.isSome = true → est.shutdownIn = none →
      atShutdown (takeEstimates est s) = false →
      LeadsTo (exec (.thermalModelUpdate est) s) fun t => t.dev = s.dev ∧ t.therm.node = (takeEstimates est s).therm.node
        ∧ ∀ l, l < 16 → t.therm.warn.get false l
            = levelFlag (s.therm.warn.get false l) (locTemp (takeEstimates est s) l) (locLevels l).1 (locLevels l).2.2.2)
  ∧ (∀ (v : SensorVal) (s : State), s.dev ≠ .off → s.therm.cal.isSome = true → s.therm.modelFault = false → 80 < readingGap s v →
      LeadsTo (exec (.sensorRead [v]) s) fun t => t.therm.modelFault = true ∧ t.therm.sensor.get 0 v.sensor = v.deciC
        ∧ t.therm.node.get 0 (sensorNode v.sensor) = v.deciC ∧ t.therm.agree = 0 ∧ t.pwr.count.get 0 5 = s.pwr.count.get 0 5 + 1)
  ∧ (∀ (rs : List SensorVal) (s : State), s.dev ≠ .off → s.therm.cal.isSome = true → (∀ v ∈ rs, readingGap s v ≤ 40) →
      LeadsTo (exec (.sensorRead rs) s) fun t => t.therm.modelFault = s.therm.modelFault
        ∧ t.therm.agree = if (∀ k : Fin 81, ∃ v ∈ rs, v.sensor = k) then s.therm.agree + 1 else 0)
  ∧ (∀ (v : SensorVal) (s : State), s.dev ≠ .off → s.therm.cal = none →
      exec (.sensorRead [v]) s = .next { s with therm := { s.therm with sensor := s.therm.sensor.set 0 v.sensor v.deciC, agree := 0 } })
  ∧ (∀ s : State, s.therm.modelFault = true → 100 ≤ s.therm.agree →
      exec .modelFaultClear s = .next { s with therm := { s.therm with modelFault := false } })
  ∧ (∀ (k : Fin 81) (s : State), s.dev ≠ .off → s.pins.vaon = true → 32 ≤ k.val → k.val < 40 →
      LeadsTo (exec (.thermalComparatorTrip k) s) fun t => t.dev = .off)
  ∧ (∀ (k : Fin 81) (s : State), s.dev = .ready ∨ s.dev = .run → k.val < 32 ∨ (40 ≤ k.val ∧ k.val < 80) →
      LeadsTo (exec (.thermalComparatorTrip k) s) fun t => t.dev = .fault ∧ t.pins.thermtrip = true ∧ t.pins.vcore = false)
  ∧ (∀ (rs : List SensorVal) (s : State), s.dev = .boot → s.pins.perst = false → s.idn.st = 2 →
      LeadsTo (exec (.thermalHoldClear rs) s) fun t => t.idn.st = if anyHot (romReads rs s) = false ∧ allRead rs = true then 1 else 2)

/-- A command completes with one entry of 32 bytes, at the PI of the ring that its command ring was bound to when it was taken. When a command in progress completes while the link works, its completion ring has stayed enabled, has room, and nobody waits for it: 32 bytes with SEQ, TAG, the ring's number, the opcode, STATUS, VALUE and PHASE go to BASE + 32 PI, SEQ rises by 1, the command is no longer in progress, and neither other host memory nor anything outside the host interface changes. With the ring disabled, now or meanwhile, only the command goes. While the link is down, the entry is held. -/
def Obligations.CompletionEntry : Prop :=
  (∀ (id st v : Nat) (c : InCmd) (s : State), cmdOf s id = some c → c.lost = false → canPost s = true →
      (cplRing s c.cpl).room = true → (∀ w ∈ s.host.cplWait, w.1 ≠ c.cpl) →
      let j := c.cpl
      let r := cplRing s j
      let t := complete id st v s
      t.hostMem = s.hostMem.writeN (r.base.toNat + 32 * (r.seq % 2 ^ r.log2))
          (leBytes 4 r.seq ++ leBytes 2 c.tag ++ leBytes 1 (c.ring % 64) ++ leBytes 1 c.opcode ++ leBytes 2 st ++ zeros 6 ++ leBytes 8 v
            ++ zeros 7 ++ [if r.seq / 2 ^ r.log2 % 2 = 0 then 1 else 0])
        ∧ (cplRing t j).seq = r.seq + 1 ∧ (∀ k, k ≠ j → cplRing t k = cplRing s k)
        ∧ t.host.cmds = s.host.cmds.filter (fun d => d.id != id)
        ∧ t = { s with host := t.host, hostMem := t.hostMem })
  ∧ (∀ (id st v : Nat) (c : InCmd) (s : State), cmdOf s id = some c → c.lost = true ∨ (canPost s = true ∧ (cplRing s c.cpl).enable = false) →
      complete id st v s = { s with host := { s.host with cmds := s.host.cmds.filter fun d => d.id != id } })
  ∧ (∀ (id st v : Nat) (c : InCmd) (s : State), cmdOf s id = some c → c.lost = false → canPost s = false → s.host.held.length < 1024 →
      complete id st v s = { s with host := { s.host with
        cmds := s.host.cmds.filter (fun d => d.id != id),
        held := s.host.held ++ [.cpl c.cpl { ring := c.ring, tag := c.tag, opcode := c.opcode, status := st, value := v }] } })

/-- A command that may not start completes at once with its status, whichever row's step takes it. The command in turn of any of the 18 opcodes is taken by the step of its own row (for STAGE_CONFIG and QUERY the row of the setting or query that it names): the ring's consumer index advances and the command gets the next number. LOAD_TRAVERSE or RUN while a RUN or BACKSIGHT is in progress completes with status 3. With an opcode that the state does not accept it completes with 2, and with a reserved bit set in its entry or operands with 1; that 2 comes before 1 is the model's choice (log 25). Nothing outside the host interface and host memory changes. A row's step leaves a command of another row alone. A ring with PRIO moves the turn of the rings with PRIO alone, and any other ring that of the rest. -/
def Obligations.CommandsTurnedAway : Prop :=
  let rows := fun (parts : TraverseParts) (errs : List ReadErr) =>
    ([(1, none, .loadTraverse parts errs, meeting errs), (2, none, .run errs, moving errs), (4, none, .dmaH2d errs, meeting errs),
      (5, none, .dmaD2h errs, meeting errs), (7, none, .checkpointOut, id), (8, none, .fillIn, id), (9, none, .backsight errs, moving errs),
      (10, none, .fenceJob, id), (0x0B, some 8, .retireFrame, id), (0x0C, none, .resetRegion errs, meeting errs), (0x0D, none, .park, id),
      (0x0E, none, .unpark, id), (0x0F, none, .mgtSend, id), (0x10, none, .ration, id), (0x11, none, .resetBlock, id), (0x12, none, .resetPort, id),
      (6, some 1, .identity, id), (6, some 2, .hbmEcc, id), (6, some 3, .shape, id), (6, some 4, .energy, id), (3, some 1, .routeTables, id),
      (3, some 2, .windowMap, id), (3, some 3, .opTarget, id), (3, some 4, .fabricMode, id), (3, some 5, .jobIdent, id),
      (3, some 6, .blockSpareMap, id), (3, some 7, .columnSpareMap, id), (3, some 8, .frameRetire, id), (3, some 9, .backsightRole, id),
      (3, some 10, .detCtrl, id), (3, some 11, .legWdog, id)]
      : List (Nat × Option Nat × Instr × ((State → Out) → State → Out)))
  let mine := fun (op : Nat) (arg : Option Nat) (c : InCmd) => c.opcode = op ∧ ∀ k, arg = some k → c.arg0 = k
  (∀ (parts : TraverseParts) (errs : List ReadErr) (op i : Nat) (arg : Option Nat) (row : Instr) (wrap : (State → Out) → State → Out) (s : State),
      (op, arg, row, wrap) ∈ rows parts errs → nextRing s = some i →
      let c := entryCmd s i
      let ends := fun st => exec row s = wrap (fun u => .next (complete c.id st 0 (takeCmd i u))) s
      (mine op arg c → (op = 1 ∨ op = 2) ∧ runInProgress s = true → ends 3)
      ∧ (mine op arg c → ¬((op = 1 ∨ op = 2) ∧ runInProgress s = true) → accepted s.dev op = false → ends 2)
      ∧ (mine op arg c → ¬((op = 1 ∨ op = 2) ∧ runInProgress s = true) → accepted s.dev op = true →
          entryClean s i = false ∨ argsClean c = false → ends 1)
      ∧ (¬ mine op arg c → rowless c = false → exec row s = wrap (fun u => .next u) s))
  ∧ (∀ (i : Nat) (s : State), (cmdRing (takeCmd i s) i).ci = ((cmdRing s i).ci + 1) % 2 ^ (cmdRing s i).log2
      ∧ (takeCmd i s).host.cmds = s.host.cmds ++ [entryCmd s i]
      ∧ (if (cmdRing s i).prio = true then (takeCmd i s).host.turnPrio = (i + 1) % 64 ∧ (takeCmd i s).host.turn = s.host.turn
         else (takeCmd i s).host.turn = (i + 1) % 64 ∧ (takeCmd i s).host.turnPrio = s.host.turnPrio)
      ∧ takeCmd i s = { s with host := (takeCmd i s).host })

/-- Doorbell writes move the producer and consumer indices. Outside BOOT and OFF with the link up: CMD_PI in range of an enabled ring that has not stopped sets its producer index and changes nothing else; out of range it sets ERROR, stops the ring and raises RING_ERROR (an event without class, log 22). CPL_CI of an enabled ring for which nothing waits sets the consumer index modulo the ring's size (log 24), and nothing else. Completions that wait for it, with room made for all of them, are written oldest first, and no further. EVT_CI does the same for the event ring, where waiting events follow in their order. -/
def Obligations.Doorbells : Prop :=
  (∀ (i : Fin 64) (v : W32) (s : State), hostWrites s false = true → (cmdRing s i).enable = true → (cmdRing s i).stop = false →
      (v.toNat % 65536 < 2 ^ (cmdRing s i).log2 →
        exec (.cmdPi i v) s = .next { s with host := { s.host with cmd := s.host.cmd.mod {} i fun r => { r with pi := v.toNat % 65536 } } })
      ∧ (2 ^ (cmdRing s i).log2 ≤ v.toNat % 65536 →
        exec (.cmdPi i v) s = .next (raiseEvent 0x10 0 [0, BitVec.ofNat 8 i]
          { s with host := { s.host with cmd := s.host.cmd.mod {} i fun r => { r with error := true, stop := true } } })))
  ∧ (∀ (j : Fin 64) (v : W32) (s : State), hostWrites s false = true → (cplRing s j).enable = true →
      (∀ w ∈ s.host.cplWait, w.1 ≠ j) →
      exec (.cplCi j v) s = .next { s with host := { s.host with
        cpl := s.host.cpl.set {} j { cplRing s j with ci := v.toNat % 65536 % 2 ^ (cplRing s j).log2 } } })
  ∧ (∀ (j : Fin 64) (v : W32) (cs : List Cpl) (s : State), hostWrites s false = true → s.host.restoring = false → (cplRing s j).enable = true →
      s.host.cplWait = cs.map (fun c => (j.val, c)) →
      let r : Nat → OutRing := fun k => { cplRing s j with ci := v.toNat % 65536 % 2 ^ (cplRing s j).log2, seq := (cplRing s j).seq + k }
      (∀ k, k < cs.length → (r k).room = true) →
      LeadsTo (exec (.cplCi j v) s) fun t => t.host.cplWait = [] ∧ (cplRing t j).seq = (cplRing s j).seq + cs.length
        ∧ t.hostMem = cs.zipIdx.foldl
            (fun m (c, k) => m.writeN ((cplRing s j).base.toNat + 32 * (r k).pi) (c.bytes (r k).seq (r k).phase)) s.hostMem)
  ∧ (∀ (v : W32) (s : State), hostWrites s false = true → s.host.evt.enable = true → s.host.evtWait = [] → s.host.discarded = 0 →
      s.host.restoring = false →
      exec (.evtCi v) s = .next { s with host := { s.host with evt := { s.host.evt with ci := v.toNat % 65536 % 2 ^ s.host.evt.log2 } } })
  ∧ (∀ (v : W32) (es : List Event) (s : State), hostWrites s false = true → s.host.evt.enable = true → s.host.evtWait = es → s.host.discarded = 0 →
      s.host.restoring = false →
      let r : Nat → OutRing := fun k => { s.host.evt with ci := v.toNat % 65536 % 2 ^ s.host.evt.log2, seq := s.host.evt.seq + k }
      (∀ k, k < es.length → (r k).room = true) →
      LeadsTo (exec (.evtCi v) s) fun t => t.host.evtWait = [] ∧ t.host.evt.seq = s.host.evt.seq + es.length
        ∧ t.hostMem = es.zipIdx.foldl
            (fun m (e, k) => m.writeN (s.host.evt.base.toNat + 128 * (r k).pi) (e.bytes (r k).seq (r k).phase)) s.hostMem)

/-- Enabling a ring starts it afresh, with its size checked. Writes that reach the device: CMD_RING_CFG with ENABLE to a disabled ring with LOG2 from 4 to 12 starts it at index 0 with that size, priority and completion ring; LOG2 out of range sets ERROR and leaves it disabled; clearing ENABLE stops it and keeps its indices. CPL_RING_CFG with LOG2 from 4 to 16 and EVT_RING_CFG with LOG2 from 6 to 14 start SEQ and PI at 0. Disabling a completion ring to which an ACTIVE command ring is bound raises RING_ERROR and loses what waits for it and what the commands in progress would have written to it. FM_BUF_CFG with ENABLE and SLOTS enables the buffer from slot 0, where a slot that an event still names stays in use, and SLOTS 0 leaves it disabled. What a ring keeps over a disable, and that RING_ERROR has no class, are the model's choices (logs 82 and 22). -/
def Obligations.RingEnabling : Prop :=
  (∀ (i : Fin 64) (v : W32) (s : State), hostWrites s false = true → (cmdRing s i).enable = false → bit v.toNat 31 = true →
      let r := { cmdRing s i with log2 := bits v.toNat 19 16, cpl := bits v.toNat 5 0, prio := bit v.toNat 30 }
      (4 ≤ bits v.toNat 19 16 → bits v.toNat 19 16 ≤ 12 →
        exec (.cmdRingEnable i v) s = .next { s with host := { s.host with
          cmd := s.host.cmd.set {} i { r with enable := true, ci := 0, pi := 0, stop := r.stop && r.error } } })
      ∧ (bits v.toNat 19 16 < 4 ∨ 12 < bits v.toNat 19 16 →
        LeadsTo (exec (.cmdRingEnable i v) s) fun t => cmdRing t i = { r with error := true } ∧ ∀ k, k ≠ i.val → cmdRing t k = cmdRing s k))
  ∧ (∀ (i : Fin 64) (v : W32) (s : State), hostWrites s false = true → (cmdRing s i).enable = true → bit v.toNat 31 = false →
      exec (.cmdRingDisable i v) s = .next { s with host := { s.host with
        cmd := s.host.cmd.set {} i { cmdRing s i with enable := false, prio := bit v.toNat 30 } } })
  ∧ (∀ (j : Fin 64) (v : W32) (s : State), hostWrites s false = true → (cplRing s j).enable = false → bit v.toNat 31 = true →
      4 ≤ bits v.toNat 20 16 → bits v.toNat 20 16 ≤ 16 → s.host.cplWait = [] →
      exec (.cplRingEnable j v) s = .next { s with host := { s.host with cpl := s.host.cpl.set {} j { cplRing s j with
        enable := true, log2 := bits v.toNat 20 16, vector := bits v.toNat 14 8, seq := 0, ci := 0, unsig := 0 } } })
  ∧ (∀ (j : Fin 64) (v : W32) (s : State), hostWrites s false = true → (cplRing s j).enable = true → bit v.toNat 31 = false →
      let u := { s with host := { s.host with
        cpl := s.host.cpl.set {} j { cplRing s j with enable := false, vector := bits v.toNat 14 8 },
        cplWait := s.host.cplWait.filter fun w => w.1 != j,
        held := s.host.held.filter fun w => !w.forRing j,
        cmds := s.host.cmds.map fun c => if c.cpl = j.val then { c with lost := true } else c } }
      ((∀ i, i < 64 → (cmdRing s i).cpl = j → cmdActive s i = false) → (∀ c ∈ s.host.cmds, c.cpl ≠ j) → exec (.cplRingDisable j v) s = .next u)
      ∧ ((∃ i, i < 64 ∧ (cmdRing s i).cpl = j ∧ cmdActive s i = true) →
          exec (.cplRingDisable j v) s = .next (raiseEvent 0x10 0 [1, BitVec.ofNat 8 j] u)))
  ∧ (∀ (v : W32) (s : State), hostWrites s false = true → s.host.evt.enable = false → bit v.toNat 31 = true →
      6 ≤ bits v.toNat 20 16 → bits v.toNat 20 16 ≤ 14 → s.host.evtWait = [] → s.host.discarded = 0 → s.host.restoring = false →
      LeadsTo (exec (.evtRingEnable v) s) fun t => t.host.evt = { s.host.evt with
        enable := true, log2 := bits v.toNat 20 16, vector := bits v.toNat 14 8, seq := 0, ci := 0, unsig := 0 } ∧ t = { s with host := t.host })
  ∧ (∀ (v : W32) (s : State), hostWrites s false = true → s.host.fmEnable = false →
      (bit v.toNat 31 = true → v.toNat % 256 ≠ 0 → exec (.fmBufEnable v) s
        = .next { s with host := { s.host with fmEnable := true, fmSlots := v.toNat % 256, fmCount := 0 } })
      ∧ (v.toNat % 256 = 0 → LeadsTo (exec (.fmBufEnable v) s) fun t => t.host.fmEnable = false ∧ t = { s with host := t.host }))

/-- The link's loss holds what the device writes, and its return brings it back; a timer raises a vector. PCIE_LINK_DOWN notes the time and the AER status (bit 5, presumed, log 115), and changes nothing else. PCIE_LINK_UP takes the width and speed to which the link has trained. PCIE_LINK_UP after the first training of a device with PERST_L high, when the event ring has room, writes LINK_RESTORED (an event without class, log 22), with the µs that the link was down, as the first event, and then all that was held, oldest first, each as it would have been written; nothing is held afterwards. Over a trained link the host moves the function to D3hot, in which it holds what it would write, and back to D0, upon which that is written (log 115). INTERRUPT_TIMER of a ring whose oldest unsignalled entry has waited TIME_US sends its vector, or sets the vector's pending bit if it is masked (log 20), and no entry is unsignalled. -/
def Obligations.LinkLossHolds : Prop :=
  let on := fun (h : HostIf) => { h with linkUp := true, d3hot := false, restoring := false, held := [], evtWait := [] }
  (∀ s : State, s.host.linkUp = true ∨ s.host.d3hot = true → s.dev ≠ .off →
      exec .pcieLinkDown s
        = .next { s with host := { s.host with linkUp := false, d3hot := false, downSince := s.aon, aer := s.host.aer ||| 0x20 } })
  ∧ (∀ (w : Fin 4) (v : Fin 7) (s : State), s.host.linkUp = false → s.host.d3hot = false → s.host.trained = false → s.dev ≠ .off →
      s.pins.perst = false →
      exec (.pcieLinkUp w v false) s = .next { s with host := { s.host with
        linkUp := true, trained := true, rate := { width := 2 ^ w.val, speed := v + 1 } } })
  ∧ (∀ (w : Fin 4) (v : Fin 7) (s : State), s.host.linkUp = false → s.host.d3hot = false → s.host.trained = true → s.dev ≠ .off →
      s.pins.perst = false → s.host.evtWait = [] → s.host.discarded = 0 → s.host.cplWait = [] → s.host.evt.room = true →
      let e := mkEvent 0x12 0 (leBytes 8 (min (2 ^ 64 - 1) ((s.aon - s.host.downSince) / 50))) s
      let u := writeEvt e { s with host := { on s.host with rate := { width := 2 ^ w.val, speed := v + 1 } } }
      exec (.pcieLinkUp w v false) s = .next (releaseHeld s.host.held u)
        ∧ u.host.evt.seq = s.host.evt.seq + 1
        ∧ u.hostMem = s.hostMem.writeN (s.host.evt.base.toNat + 128 * s.host.evt.pi) (e.bytes s.host.evt.seq s.host.evt.phase))
  ∧ (∀ (h : Held) (hs : List Held) (s : State), releaseHeld [] s = s ∧ releaseHeld (h :: hs) s = releaseHeld hs (match h with
      | .cpl j c => deliverCpl j c s
      | .evt e => enqueueEvt e s
      | .station a b => { s with hostMem := s.hostMem.writeN a b }))
  ∧ (∀ (w : Fin 4) (v : Fin 7) (s : State), s.host.linkUp = true → s.dev ≠ .off → s.pins.perst = false →
      exec (.pcieLinkUp w v true) s = .next { s with host := { s.host with linkUp := false, d3hot := true } }
        ∧ exec (.pcieLinkUp w v false) s = .next s)
  ∧ (∀ (w : Fin 4) (v : Fin 7) (s : State), s.host.linkUp = false → s.host.d3hot = true → s.dev ≠ .off → s.pins.perst = false →
      s.host.evtWait = [] → s.host.discarded = 0 → s.host.cplWait = [] →
      exec (.pcieLinkUp w v false) s = .next (releaseHeld s.host.held { s with host := on s.host }))
  ∧ (∀ (j : Fin 64) (s : State), s.host.linkUp = true → (cplRing s j).timeUp s.aon = true →
      LeadsTo (exec (.interruptTimer (some j)) s) fun t => (cplRing t j).unsig = 0
        ∧ let v := (cplRing s j).vector
          if (s.host.msix.get {} v).mask then t.host.pba.get false v = true ∧ t.host.irqSent = s.host.irqSent
          else t.host.irqSent.get 0 v = s.host.irqSent.get 0 v + 1)
  ∧ (∀ s : State, s.host.linkUp = true → s.host.evt.timeUp s.aon = true →
      LeadsTo (exec (.interruptTimer none) s) fun t => t.host.evt.unsig = 0
        ∧ let v := s.host.evt.vector
          if (s.host.msix.get {} v).mask then t.host.pba.get false v = true ∧ t.host.irqSent = s.host.irqSent
          else t.host.irqSent.get 0 v = s.host.irqSent.get 0 v + 1)

/-- Register writes act by the register written, and leave what they cannot write. A write that is not naturally aligned, or goes to a reserved offset or a read-only register such as DEVICE_ID, leaves the state as it is. A 64-bit write of BOOT_SRC sets it with bits 11 to 0 clear, it reads back so, and nothing else changes. A 32-bit write of the low half of BOOT_SRC keeps the high half. LEASE_CFG takes a period of 10 to 500 ms and ignores any other. DET_CTRL and LEG_WDOG, as commands of their own or as register writes, stage the value for the next RUN or station. -/
def Obligations.RegisterAccess : Prop :=
  (∀ (off : BitVec 24) (size : Nat) (v : W64) (s : State),
      accessOk off.toNat size = false ∨ regAt off.toNat = none ∨ off.toNat = 0 ∨ off.toNat = 8 → exec (.registerWrite off size v) s = .next s)
  ∧ (∀ (v : W64) (s : State), s.host.linkUp = true → s.dev ≠ .off →
      LeadsTo (exec (.registerWrite 0x001000 8 v) s) fun t =>
        t = { s with idn := { s.idn with src := v.toNat / 4096 * 4096 } } ∧ barRead t 0x001000 = v.toNat / 4096 * 4096)
  ∧ (∀ (v : W64) (s : State), s.host.linkUp = true → s.dev ≠ .off → s.idn.src < 2 ^ 64 →
      LeadsTo (exec (.registerWrite 0x001000 4 v) s) fun t => t.idn.src / 2 ^ 32 = s.idn.src / 2 ^ 32
        ∧ t.idn.src % 2 ^ 32 = v.toNat % 2 ^ 32 / 4096 * 4096)
  ∧ (∀ (v : W32) (s : State), hostWrites s false = true →
      exec (.leaseCfgWrite v) s = .next (if 10 ≤ v.toNat % 4096 ∧ v.toNat % 4096 ≤ 500 then { s with mem := { s.mem with renewMs := v.toNat % 4096 } } else s))
  ∧ (∀ (v : W32) (s : State), hostWrites s false = true → stageFull (withStaging ⟨10, nextStation s, leBytes 4 (v.toNat % 4)⟩ s.job.stage) = false →
      exec (.detCtrlWrite v) s = .next { s with job := { s.job with stage := withStaging ⟨10, nextStation s, leBytes 4 (v.toNat % 4)⟩ s.job.stage } })
  ∧ (∀ (v : W32) (s : State), hostWrites s false = true → 1 ≤ v.toNat % 2 ^ 20 → v.toNat % 2 ^ 20 ≤ 600000 →
      stageFull (withStaging ⟨11, nextStation s, leBytes 4 (v.toNat % 2 ^ 20)⟩ s.job.stage) = false →
      exec (.legWdogWrite v) s = .next { s with job := { s.job with stage := withStaging ⟨11, nextStation s, leBytes 4 (v.toNat % 2 ^ 20)⟩ s.job.stage } })
  ∧ (∀ (v : W32) (s : State), hostWrites s false = true → v.toNat % 2 ^ 20 = 0 →
      exec (.legWdogWrite v) s = .next { s with job := { s.job with regRefused := true } })

/-- STAGE_CONFIG of every setting stages a payload that its setting accepts, and refuses any other. STAGE_CONFIG of identifiers 1 to 11, each by its own row, and RETIRE_FRAME: a command that names a station whose latch has not closed, or "next", with an aligned and readable payload that its setting accepts and with room among the stagings, adds the staging, replacing one of the same setting and target, and completes OK with the station in VALUE ("next" before a station is known resolves to the last station: the model's choice, log 27). A payload that the setting does not accept completes with status 1 and stages nothing; a station already passed completes with 0x20. ROUTE_TABLES also go into the bank not in force. OP_TARGET accepts four bytes up to 5, FABRIC_MODE one byte up to 1, JOB_IDENT 24 bytes with a tag that is not 0. The order of the checks is the model's reading (log 107). -/
def Obligations.StagingCommands : Prop :=
  let rows : List (Nat × Instr) :=
    [(1, .routeTables), (2, .windowMap), (3, .opTarget), (4, .fabricMode), (5, .jobIdent), (6, .blockSpareMap), (7, .columnSpareMap),
      (8, .frameRetire), (9, .backsightRole), (10, .detCtrl), (11, .legWdog)]
  let mine := fun (ident : Nat) (row : Instr) (c : InCmd) =>
    (c.opcode = 3 ∧ c.arg0 = ident ∧ (ident, row) ∈ rows) ∨ (c.opcode = 0x0B ∧ c.arg0 = 8 ∧ ident = 8 ∧ row = .retireFrame)
  (∀ (ident : Nat) (row : Instr) (i : Nat) (c : InCmd) (s : State), Takes s i c → mine ident row c → c.arg2 % 8 = 0 →
      (c.arg1 ≠ 2 ^ 48 - 1 → latchClosed s c.arg1 = false) → hostReadFails s c.arg2 c.arg3 = false →
      let target := if c.arg1 = 2 ^ 48 - 1 then nextStation s else some c.arg1
      let b := s.hostMem.readN c.arg2 c.arg3
      let ts := withStaging ⟨ident, target, b⟩ s.job.stage
      let u := takeCmd i s
      (payloadAccepted s ident b = true → stageFull ts = false →
        exec row s = .next (complete c.id 0 (target.getD s.job.last) { u with
          job := { u.job with stage := ts },
          fab := if ident = 1 then { u.fab with banks := u.fab.banks.set [] (1 - u.fab.bank) b } else u.fab }))
      ∧ (payloadAccepted s ident b = false → exec row s = .next (complete c.id 1 0 u))
      ∧ (payloadAccepted s ident b = true → stageFull ts = true → exec row s = .next (complete c.id 0x21 0 u)))
  ∧ (∀ (ident : Nat) (row : Instr) (i : Nat) (c : InCmd) (s : State), Takes s i c → mine ident row c → c.arg2 % 8 = 0 →
      c.arg1 ≠ 2 ^ 48 - 1 → c.arg1 ≤ s.job.last → exec row s = .next (complete c.id 0x20 0 (takeCmd i s)))
  ∧ (∀ (b : List Byte) (s : State),
      (payloadAccepted s 3 b = true ↔ b.length = 4 ∧ ∀ x ∈ b, x.toNat ≤ 5) ∧ (payloadAccepted s 4 b = true ↔ b = [0] ∨ b = [1])
      ∧ (payloadAccepted s 5 b = true ↔ b.length = 24 ∧ field b 0 4 ≠ 0 ∧ field b 4 4 = 0))

/-- A host DMA moves its bytes at once or after step 7 of its station, and its completion entry follows. DMA_H2D and DMA_D2H of a shape that R397 accepts within usable memory in a region that is reached, there and back: without a station the bytes between host memory and the region's HBM move at once, and the entry is owed with status and bytes moved; naming a station ahead the command waits for it, and naming one that is passed it completes with 0x20. A shape that R397 forbids completes with 1. Reads take what the memories deliver, with the errors that they meet on the way. DMA_AT_STATION moves the bytes of a command that waits for the station the device stands at, once no checkpoint of it is left. HOST_DMA_COMPLETE of a DMA that has moved completes its command with that status and count, and takes it away. -/
def Obligations.HostDmas : Prop :=
  (∀ (i : Nat) (c : InCmd) (errs : List ReadErr) (s : State), Takes s i c → c.opcode = 4 → dmaShapeOk c = true → c.arg1 % 2 ^ 38 + c.arg2 ≤ usableBytes s (c.arg1 / 2 ^ 38 % 4) →
      (c.arg3 = 2 ^ 48 - 1 → dmaReaches s c.arg1 = true → readableBytes s c.arg0 c.arg2 = c.arg2 →
        exec (.dmaH2d errs) s = meeting errs (fun u => .next
          ((writeBytes (c.arg1 / 2 ^ 38 % 4) (c.arg1 % 2 ^ 38) (s.hostMem.readN c.arg0 c.arg2) (takeCmd i u)).modHost fun h =>
            { h with dmas := (h.dmas.filter fun d => d.cmd != c.id) ++ [{ cmd := c.id, moved := some (0, c.arg2) }] })) s)
      ∧ (c.arg3 ≠ 2 ^ 48 - 1 → stationPassed s c.arg3 = true →
          exec (.dmaH2d errs) s = meeting errs (fun u => .next (complete c.id 0x20 0 (takeCmd i u))) s)
      ∧ (c.arg3 ≠ 2 ^ 48 - 1 → stationPassed s c.arg3 = false →
          exec (.dmaH2d errs) s = meeting errs (fun u => .next ((takeCmd i u).modHost fun h =>
            { h with dmas := h.dmas ++ [{ cmd := c.id, station := some c.arg3 }] })) s))
  ∧ (∀ (i : Nat) (c : InCmd) (errs : List ReadErr) (s : State), Takes s i c → c.opcode = 4 → dmaShapeOk c = false →
      exec (.dmaH2d errs) s = meeting errs (fun u => .next (complete c.id 1 0 (takeCmd i u))) s)
  ∧ (∀ (i : Nat) (c : InCmd) (errs : List ReadErr) (s : State), Takes s i c → c.opcode = 5 → dmaShapeOk c = true → c.arg1 % 2 ^ 38 + c.arg2 ≤ usableBytes s (c.arg1 / 2 ^ 38 % 4) →
      c.arg3 = 2 ^ 48 - 1 → dmaReaches s c.arg1 = true → c.arg0 + c.arg2 ≤ 2 ^ 64 →
      let out := readBytes (c.arg1 / 2 ^ 38 % 4) (c.arg1 % 2 ^ 38) c.arg2 none (takeCmd i (s.meets errs))
      LeadsTo (exec (.dmaD2h errs) s) fun t => t.hostMem = out.2.2.hostMem.writeN c.arg0 out.1
        ∧ t.host.dmas = (out.2.2.host.dmas.filter fun d => d.cmd != c.id) ++ [{ cmd := c.id, moved := some (if out.2.1 then 6 else 0, c.arg2) }])
  ∧ (∀ (id : Nat) (d : HostDma) (c : InCmd) (r : Run) (errs : List ReadErr) (s : State), s.host.dmas.find? (fun d => d.cmd == id) = some d → cmdOf s id = some c →
      s.job.run = some r → d.moved = none → d.station = some (r.base + r.j) → r.phase = .atStation → s.host.linkUp = true →
      (∀ k ∈ s.mem.ckpts, k.station ≠ r.base + r.j) → exec (.dmaAtStation id errs) s = meeting errs (fun u => .next (runDma c (some (r.base + r.j)) u)) s)
  ∧ (∀ (id st n : Nat) (d : HostDma) (s : State), s.host.dmas.find? (fun d => d.cmd == id) = some d → d.moved = some (st, n) → s.job.run = none →
      exec (.hostDmaComplete id) s = .next (complete id st n { s with host := { s.host with dmas := s.host.dmas.filter fun x => x.cmd != id } }))

/-- A QUERY writes its result to host memory and then completes with its length. QUERY IDENTITY writes 64 bytes with the serial number, DEVICE_ID, the device state and the running SVN; HBM_ECC 256 counters of 8 bytes, by channel; SHAPE the active blocks, the usable frames and the spare maps, 2,452 bytes; ENERGY 16 bytes with ENERGY_JOB in µJ and its tag. With a buffer that is aligned to 64 bytes and long enough, the command completes OK with the number of bytes in VALUE and only these bytes of host memory change before the completion entry. A buffer that is too short, or not aligned, completes with 1, and nothing is written. -/
def Obligations.Queries : Prop :=
  let rows : List (Nat × Instr × (State → List Byte)) :=
    [(1, .identity, fun s => leBytes 8 (leNat (s.idn.otp.readN 0 8)) ++ leBytes 8 (deviceId s) ++ leBytes 8 s.dev.code ++ leBytes 8 s.idn.svn ++ zeros 32),
      (2, .hbmEcc, fun s => (List.range 256).flatMap fun ch => leBytes 8 (s.hbm.corrected.get 0 ch)),
      (3, .shape, shapeResult), (4, .energy, fun s => leBytes 8 (s.pwr.jobPj / 1000000) ++ leBytes 8 s.pwr.energyTag)]
  (∀ (code : Nat) (row : Instr) (result : State → List Byte) (i : Nat) (c : InCmd) (s : State), (code, row, result) ∈ rows → Takes s i c →
      c.opcode = 6 → c.arg0 = code →
      (c.arg1 % 64 = 0 → (result s).length ≤ c.arg2 → c.arg1 + (result s).length ≤ 2 ^ 64 →
        exec row s = .next (complete c.id 0 (result s).length { takeCmd i s with hostMem := s.hostMem.writeN c.arg1 (result s) }))
      ∧ (c.arg1 % 64 ≠ 0 ∨ c.arg2 < (result s).length → exec row s = .next (complete c.id 1 0 (takeCmd i s))))
  ∧ (∀ s : State, (identityResult s).length = 64 ∧ (eccResult s).length = 2048 ∧ (shapeResult s).length = 2452 ∧ (energyResult s).length = 16)

/-- MGT_SEND goes to this device's own core or out, and rations are the lower of the host's and the MCTP value. MGT_SEND of 8 to 4,096 readable bytes that form a message: to this device's own number it enters the intake of messages; a message for the other end of a link goes into the first ACTIVE link to that device, if there is one; any other leaves as a message of this device, unless it is for the fabric manager and that cannot be reached, when it goes to this device's own host; the command completes OK. RATION sets the host's value; outside RUN and BACKSIGHT the lower of the two values, at most 3,200,000 mW, is in force at once, and in RUN and BACKSIGHT after 100,000 AON cycles of the first pending one. The command completes with 0x32 if the new ration lies below the floor. SET_RATION over MCTP at the I3C target's address (the dynamic one, or 0x3A) does the same with the MCTP value and answers; PCIe VDM carries no such message. GET_POWER answers with the ration in force, the input power, the energy, the rung and the state, and changes nothing else. A reserved CMD, or a reserved bit set, is answered with code 2. -/
def Obligations.MessagesAndRations : Prop :=
  (∀ (i : Nat) (c : InCmd) (s : State), Takes s i c → c.opcode = 0x0F → 8 ≤ c.arg2 → c.arg2 ≤ 4096 → hostReadFails s c.arg0 c.arg2 = false →
      let p : Packet := { type := 1, dst := c.arg1, jobTag := s.job.tag, payload := s.hostMem.readN c.arg0 c.arg2 }
      mgtOk p = true →
      (s.fab.number = some c.arg1 → s.fab.mgtIn.length < 64 →
        exec .mgtSend s = .next (complete c.id 0 0 ((takeCmd i s).modFab fun f =>
          { f with mgtIn := f.mgtIn ++ [{ pkt := { p with src := c.arg1, epoch := s.fab.epoch } }] })))
      ∧ (s.fab.number ≠ some c.arg1 → linkLocal p = true →
          (∀ k, localLink (takeCmd i s) c.arg1 = some k → exec .mgtSend s = .next (complete c.id 0 0 (enqueue k
            { pkt := { p with src := s.fab.number.getD 0, epoch := s.fab.epoch }, region := k / 136 } (takeCmd i s))))
          ∧ (localLink (takeCmd i s) c.arg1 = none → exec .mgtSend s = .next (complete c.id 0 0 (takeCmd i s))))
      ∧ (s.fab.number ≠ some c.arg1 → linkLocal p = false → mgtFm p = false ∨ fmReachable s = true →
          exec .mgtSend s = .next (complete c.id 0 0 (originate alwaysOn p (takeCmd i s))))
      ∧ (s.fab.number ≠ some c.arg1 → linkLocal p = false → mgtFm p = true → fmReachable s = false →
          exec .mgtSend s = .next (complete c.id 0 0 (fmMessage p.payload (deviceField s) (takeCmd i s)))))
  ∧ (∀ (i : Nat) (c : InCmd) (s : State), Takes s i c → c.opcode = 0x10 →
      let w := min (min c.arg0 s.pwr.mctpMw) 3200000
      ∃ u, exec .ration s = .next (complete c.id (if w < s.pwr.floorMw then 0x32 else 0) 0 u) ∧ u.host = (takeCmd i s).host ∧ u.pwr.hostMw = c.arg0
        ∧ if s.dev = .run ∨ s.dev = .backsight then u.pwr.forceMw = s.pwr.forceMw ∧ u.pwr.deadline = some (s.pwr.deadline.getD (s.aon + 100000))
          else u.pwr.forceMw = w ∧ u.pwr.deadline = none)
  ∧ (∀ (x : BitVec 7) (mw : W32) (s : State), s.dev ≠ .off → x.toNat = s.idn.i3cAddr.getD 0x3A →
      let w := min (min s.pwr.hostMw mw.toNat) 3200000
      LeadsTo (exec (.setRation (.i3c x) 1 0 mw) s) fun t => t.pwr.mctpMw = mw.toNat ∧ t.idn.i3c.out = some (.ration (rationBody 1 (if w < s.pwr.floorMw then 1 else 0) t))
        ∧ if s.dev = .run ∨ s.dev = .backsight then t.pwr.forceMw = s.pwr.forceMw else t.pwr.forceMw = w)
  ∧ (∀ (x : BitVec 7) (s : State), s.dev ≠ .off → x.toNat = s.idn.i3cAddr.getD 0x3A → exec (.getPower (.i3c x) 2 0 0) s = .next { s with
      idn := { s.idn with i3c := { s.idn.i3c with out := some (.ration (leBytes 1 2 ++ leBytes 1 0 ++ leBytes 4 s.pwr.forceMw ++ leBytes 4 (inputMw s 100)
        ++ leBytes 8 (s.pwr.totalPj / 1000000) ++ leBytes 1 s.pwr.rationRung ++ leBytes 1 s.dev.code)) } } })
  ∧ (∀ (t : Transport) (cmd rsv : Byte) (a : W32) (s : State), s.dev = .off ∨ (∀ x : BitVec 7, t = .i3c x → x.toNat ≠ s.idn.i3cAddr.getD 0x3A) →
      exec (.setRation t cmd rsv a) s = .next s ∧ exec (.getPower t cmd rsv a) s = .next s)
  ∧ (∀ (x : BitVec 7) (cmd rsv : Byte) (a : W32) (s : State), s.dev ≠ .off → x.toNat = s.idn.i3cAddr.getD 0x3A → rsv ≠ 0 ∨ (cmd ≠ 1 ∧ cmd ≠ 2) ∨ (cmd = 2 ∧ a ≠ 0) →
      (exec (.setRation (.i3c x) cmd rsv a) s = .next { s with idn := { s.idn with i3c := { s.idn.i3c with out := some (.ration (rationBody cmd.toNat 2 s)) } } })
      ∧ (exec (.getPower (.i3c x) cmd rsv a) s = .next { s with idn := { s.idn with i3c := { s.idn.i3c with out := some (.ration (rationBody cmd.toNat 2 s)) } } }))

/-- Self-test, GO, the image's verification and bring-up lead from reset to READY. In BOOT with PERST_L high: a sound self-test that has read all 81 sensors and found them cool ends in WAITING with measurements 1, 2 and 5 (the bytes of measurement 2 are the model's reading, log 101), with a hot or unread sensor in THERMAL_HOLD, and a failed one stops the device in FAULT with BOOT_STATUS HALTED. GO in WAITING counts an attempt and starts the load with its LEN; in THERMAL_HOLD, or with a hot sensor, it is refused with result 8, in any other step with 9. An image that passes every check of R499 starts, with its version, SVN and key slot, and measurements 3 and 4; one that fails is discarded with the number of the check and the device waits again. Bring-up, which waits until every optical engine has started, ends in READY, with memory zero, the channels that did not train failed and mapped out, and the clocks of every region running. -/
def Obligations.BootSequence : Prop :=
  let waits := fun (s : State) (st : Nat) => s.dev = .boot ∧ s.pins.perst = false ∧ s.idn.st = st
  (∀ (rs : List SensorVal) (s : State), waits s 0 →
      LeadsTo (exec (.selftestComplete true rs) s) (fun t => t.dev = .boot ∧ t.idn.st = (if anyHot (romReads rs s) = true ∨ allRead rs = false then 2 else 1)
        ∧ t.idn.meas.get [] 1 = beBytes 32 Config.romHash.toNat ∧ t.idn.meas.get [] 5 = otpBytes s 0 8 ++ otpBytes s 8 4 ++ zeros 20
        ∧ t.idn.meas.get [] 2 = sha256 (otpBytes s 0x40 128 ++ leBytes 1 s.idn.revoked ++ leBytes 8 s.idn.svnFuses))
      ∧ LeadsTo (exec (.selftestComplete false rs) s) fun t => t.dev = .fault ∧ t.idn.st = 7)
  ∧ (∀ (v : W32) (s : State), s.host.linkUp = true → s.dev = .boot → bit v.toNat 31 = true →
      (s.idn.st = 1 → anyHot s = false → exec (.go v) s = .next { s with
        idn := { s.idn with attempts := min 65535 (s.idn.attempts + 1), st := 3, len := v.toNat % 2 ^ 23 } })
      ∧ (s.idn.st = 2 ∨ s.idn.st = 1 ∧ anyHot s = true → exec (.go v) s = .next { s with idn := { s.idn with attempts := min 65535 (s.idn.attempts + 1), st := 2, result := 8 } })
      ∧ (s.idn.st ≠ 1 → s.idn.st ≠ 2 → exec (.go v) s = .next { s with
        idn := { s.idn with attempts := min 65535 (s.idn.attempts + 1), result := 9 } }))
  ∧ (∀ (e : Bool) (s : State), waits s 3 →
      let b := s.hostMem.readN s.idn.src s.idn.len
      let res := imageResult s e b
      LeadsTo (exec (.imageCopyComplete e) s) fun t => t.idn.result = res
        ∧ if res = 1 then t.idn.st = 5 ∧ t.idn.image = b
            ∧ t.idn.version = field b 12 4 ∧ t.idn.svn = field b 16 1 ∧ t.idn.keyIndex = field b 17 1
            ∧ t.idn.meas.get [] 3 = sha256 (slice b 0 128 ++ b.drop 256)
            ∧ t.idn.meas.get [] 4 = slice b 12 4 ++ slice b 16 1 ++ slice b 17 1 ++ zeros 26
            ∧ t = { s with idn := t.idn, therm := { s.therm with cal := some (Config.thermalCal b) } }
          else t = { s with idn := { s.idn with st := 1, result := res, image := [] } })
  ∧ (∀ (cs : List (Fin 256)) (s : State), waits s 5 → enginesStarted s = false → exec (.bringupComplete cs) s = .next s)
  ∧ (∀ (cs : List (Fin 256)) (s : State), waits s 5 → (∀ k, k < 8 → (s.oe.eng.get {} k).st ≠ 0) → (∀ r, r < 4 → regionUp s r = true) →
      LeadsTo (exec (.bringupComplete cs) s) fun t => t.dev = .ready ∧ t.idn.st = 6 ∧ t.hbm.dram = [] ∧ t.hbm.poison = []
        ∧ (∀ k : Fin 256, (t.hbm.chanFailed.get false k = true ↔ k ∈ cs) ∧ (t.hbm.chanMapout.get false k = true ↔ k ∈ cs))
        ∧ (∀ r, r < 4 → (regPwr t r).pll = true) ∧ t.mem.renewAt = s.aon + 50000 * s.mem.renewMs)

/-- An image is started only if every check of R499 holds, and the first that fails names itself. The result of the checks of R499 in their order: a copy that fails gives 2; a LEN that differs from the header's, or outside 4,096 to 4,194,304, gives 3; a fixed field of the header that is wrong, or a reserved byte that is not 0, gives 4; a key slot that is not programmed, is revoked or does not hold the key's hash gives 5; a signature of the key over the signed part that does not verify gives 6; a security version below the fused one gives 7; and otherwise the result is 1. -/
def Obligations.ImageChecks : Prop :=
  ∀ (e : Bool) (b : List Byte) (s : State),
      let len := s.idn.len
      let k := field b 17 1
      (imageResult s e b = if e = true ∨ hostReadFails s s.idn.src len = true then 2
        else if len ≠ field b 8 4 ∨ len < 4096 ∨ 4194304 < len then 3
        else if field b 0 4 ≠ 0x53555842 ∨ field b 4 4 ≠ 1 ∨ field b 18 2 ≠ 0x4B37 ∨ field b 20 1 ≠ 0xB0 ∨ field b 21 3 ≠ 0
          ∨ leNat (slice b 28 36) ≠ 0 ∨ leNat (slice b 192 64) ≠ 0 then 4
        else if 4 ≤ k ∨ keyHash s k = zeros 32 ∨ bit s.idn.revoked k = true ∨ keyHash s k ≠ sha256 (slice b 64 64) then 5
        else if ecdsaValid (slice b 64 64) (slice b 0 128 ++ b.drop 256) (slice b 128 64) = false then 6
        else if field b 16 1 < fusedSvn s then 7 else 1)

/-- The fused security version counts blown fuses from bit 0 upward, up to the first that is not blown. In any state and for any n up to 64: when every SVN fuse below n is blown, and n is 64 or fuse n is not blown, the fused security version is n, whatever lies above. -/
def Obligations.FusedSecurityVersion : Prop :=
  ∀ (n : Nat) (s : State), n ≤ 64 → (∀ k, k < n → bit s.idn.svnFuses k = true) → n = 64 ∨ bit s.idn.svnFuses n = false → fusedSvn s = n

/-- SVN_COMMIT blows exactly the fuses that it may, from the lowest on. SVN_COMMIT of the running image's SVN in READY, above the fused one, sets COMMIT to 1 and begins to blow; any other value or state sets COMMIT to 3 and blows nothing; neither changes anything else. A commit in progress on an idle device ends, after at most 64 ticks, with COMMIT 2 and every fuse below the SVN blown, none else, and AON time alone moved on (one fuse with each tick is the model's choice, log 153). -/
def Obligations.FuseWrites : Prop :=
  (∀ (v : W32) (s : State), hostWrites s false = true → s.dev = .ready → v.toNat % 128 = s.idn.svn → fusedSvn s < min s.idn.svn 64 →
      exec (.svnCommit v) s = .next { s with idn := { s.idn with blowing := true, commit := 1 } })
  ∧ (∀ (v : W32) (s : State), hostWrites s false = true → s.dev ≠ .ready ∨ v.toNat % 128 ≠ s.idn.svn ∨ min s.idn.svn 64 ≤ fusedSvn s →
      exec (.svnCommit v) s = .next { s with idn := { s.idn with commit := 3 } })
  ∧ (∀ s : State, s.pending = [] → pwrgd s = true → s.idn.blowing = true → fusedSvn s < min s.idn.svn 64 →
      ∃ n t, 1 ≤ n ∧ n ≤ 64 ∧ (fun (o : Out) => match o with | .next u => step u | o => o)^[n] (.next s) = .next t
        ∧ t = { s with aon := s.aon + n, idn := { s.idn with svnFuses := t.idn.svnFuses, blowing := false, commit := 2 } }
        ∧ ∀ k, bit t.idn.svnFuses k = (bit s.idn.svnFuses k || decide (k < min s.idn.svn 64)))

/-- Each SPDM request is answered by its step of the connection, on its own transport. On either transport, with the device outside OFF and, over PCIe, the link up, or, over I3C, at the target's address: GET_VERSION starts the connection and answers 1.2 and 1.3; GET_CAPABILITIES and NEGOTIATE_ALGORITHMS take it one step on; after that GET_DIGESTS answers the hash of slot 0's chain, GET_CERTIFICATE of slot 0 the part asked for and the bytes that are left, CHALLENGE of slot 0 a signed summary of measurements 1 to 5, and GET_MEASUREMENTS the measurements asked for, signed where asked. A slot other than 0, an offset beyond the chain or an index that is none is answered InvalidRequest. Where the answer of these last two is not ready, ResponseNotReady goes with a token, and RESPOND_IF_READY with that code and token fetches the answer, once; without one waiting it is answered UnexpectedRequest. Every request that comes before its step is answered UnexpectedRequest, and the step is left as it is; any other request UnsupportedRequest. Only the transport and the count of draws change. SET_ENDPOINT_ID and ENTDAA set the addresses; the vendor query answers the enterprise number. A message that does not reach the device does nothing. The codes of the answers to early and ill-formed requests and what a token stands for are the model's readings (log 85). -/
def Obligations.SpdmConnection : Prop :=
  let other := fun (tr : Transport) => match tr with | .pcieVdm => Transport.i3c 0 | .i3c _ => Transport.pcieVdm
  let frame := fun (tr : Transport) (s t : State) => t = { s with idn := t.idn, free := t.free } ∧ transport t (other tr) = transport s (other tr)
    ∧ t.idn = { s.idn with pcie := t.idn.pcie, i3c := t.idn.i3c }
  let replies := fun (o : Out) (tr : Transport) (s : State) (st : Nat) (m : MctpMsg) =>
    LeadsTo o fun t => (transport t tr).out = some m ∧ (transport t tr).conn.st = st ∧ (transport t tr).eid = (transport s tr).eid ∧ frame tr s t
  let later := fun (o : Out) (tr : Transport) (s : State) (st code n : Nat) (m : MctpMsg) =>
    let k := (Config.spdmToken n).toNat
    LeadsTo o fun t => (transport t tr).out = some (.notReady code k) ∧ (transport t tr).conn.st = st
      ∧ (transport t tr).conn.later = some (code, k, m) ∧ frame tr s t
  (∀ (tr : Transport) (s : State), mctpReaches s tr = true →
    let st := (transport s tr).conn.st
    let sum := fun (n : BitVec 256) => MctpMsg.challengeAuth n.toNat (sha256 ([1, 2, 3, 4, 5].flatMap (measurement s))) (Config.spdmSign s.free).toNat
    let meas := fun (ks : List Nat) (sig : Bool) =>
      MctpMsg.measurements 5 (ks.map fun k => (k, measurement s k)) (if sig then some (Config.spdmSign s.free).toNat else none)
    replies (exec (.getVersion tr) s) tr s 1 (.version [(1, 2), (1, 3)])
    ∧ (1 ≤ st → replies (exec (.getCapabilities tr) s) tr s 2 (.capabilities true true true))
    ∧ (2 ≤ st → replies (exec (.negotiateAlgorithms tr) s) tr s 3 .algorithms)
    ∧ (3 ≤ st → replies (exec (.getDigests tr) s) tr s st (.digests (sha256 (certChain s))))
    ∧ (3 ≤ st → ∀ o n : W16, o.toNat < (certChain s).length →
        let part := ((certChain s).drop o.toNat).take n.toNat
        replies (exec (.getCertificate tr 0 o n) s) tr s st (.certificate part ((certChain s).length - o.toNat - part.length)))
    ∧ (3 ≤ st → ∀ (slot : Byte) (o n : W16), slot ≠ 0 ∨ (certChain s).length ≤ o.toNat →
        replies (exec (.getCertificate tr slot o n) s) tr s st (.error 1))
    ∧ (3 ≤ st → ∀ n : BitVec 256, replies (exec (.spdmChallenge tr 0 n true) s) tr s st (sum n)
        ∧ later (exec (.spdmChallenge tr 0 n false) s) tr s st 0x83 (s.free + 1) (sum n))
    ∧ (3 ≤ st → ∀ (slot : Byte) (n : BitVec 256) (r : Bool), slot ≠ 0 → replies (exec (.spdmChallenge tr slot n r) s) tr s st (.error 1))
    ∧ (3 ≤ st → ∀ (n : BitVec 256) (ks : List Nat) (i : Byte) (sig : Bool), measIndices i.toNat = some ks →
        replies (exec (.getMeasurements tr i sig n true) s) tr s st (meas ks sig)
        ∧ later (exec (.getMeasurements tr i sig n false) s) tr s st 0xE0 (if sig then s.free + 1 else s.free) (meas ks sig))
    ∧ (3 ≤ st → ∀ (n : BitVec 256) (i : Byte) (sig r : Bool), 5 < i.toNat → i ≠ 255 →
        replies (exec (.getMeasurements tr i sig n r) s) tr s st (.error 1))
    ∧ (∀ (code token : Byte) (m : MctpMsg), (transport s tr).conn.later = some (code.toNat, token.toNat, m) →
        replies (exec (.respondIfReady tr code token) s) tr s st m
        ∧ LeadsTo (exec (.respondIfReady tr code token) s) fun t => (transport t tr).conn.later = none)
    ∧ (∀ (code token : Byte), (∀ m, (transport s tr).conn.later ≠ some (code.toNat, token.toNat, m)) →
        replies (exec (.respondIfReady tr code token) s) tr s st (.error 4))
    ∧ (∀ c : Byte, replies (exec (.spdmUnsupportedRequest tr c) s) tr s st (.error 7))
    ∧ (st < 1 → replies (exec (.getCapabilities tr) s) tr s st (.error 4))
    ∧ (st < 2 → replies (exec (.negotiateAlgorithms tr) s) tr s st (.error 4))
    ∧ (st < 3 → ∀ (slot i : Byte) (o n : W16) (x : BitVec 256) (sig r : Bool), replies (exec (.getDigests tr) s) tr s st (.error 4)
        ∧ replies (exec (.getCertificate tr slot o n) s) tr s st (.error 4)
        ∧ replies (exec (.spdmChallenge tr slot x r) s) tr s st (.error 4)
        ∧ replies (exec (.getMeasurements tr i sig x r) s) tr s st (.error 4))
    ∧ (∀ e : Byte, e ≠ 0 → e ≠ 0xFF → LeadsTo (exec (.setEndpointId tr e) s) fun t => (transport t tr).eid = e.toNat ∧ frame tr s t)
    ∧ (∀ a : BitVec 7, exec (.entdaa a) s = .next { s with idn := { s.idn with i3cAddr := some a.toNat } })
    ∧ LeadsTo (exec (.getVendorDefinedMessageSupport tr) s) fun t => (transport t tr).out = some (.vendor Config.enterprise.toNat) ∧ frame tr s t)
  ∧ (∀ (tr : Transport) (e : Byte) (s : State), mctpReaches s tr = false →
      exec (.getVersion tr) s = .next s ∧ exec (.getCapabilities tr) s = .next s ∧ exec (.getDigests tr) s = .next s
        ∧ exec (.setEndpointId tr e) s = .next s ∧ exec (.getVendorDefinedMessageSupport tr) s = .next s)

/-- What each control slot does when its bundle issues; then the engine slots read their descriptors and the block goes past the bundle. For a block whose bundle may issue, with an accepted CTL word in it and no hardware error, the CTL slot's effect comes first; then the engine slots of the bundle read their descriptors, the engines take their instructions, and the command completes with the bundle passed, or, where a descriptor fails, halted with its fault and none of the bundle's effects (a command runs one row's bundle whole, whichever of its rows names it: the model's choice, logs 54 and 56). NOP and WAIT change nothing more. POST adds VALUE to its counter modulo 2^32 and SET sets it. LOOP within R163 opens a loop over the next BODY bundles with TRIPS rounds. SETBASE sets a table's base segment; DLOAD into instruction memory stores the data bundles that follow. RELEASE of OWNED or READY segments makes them OWNED; SCALAR starts the core at ENTRY and its granted segments go to FILLING; STATION with the leg's index at the end of the last task marks the block arrived. -/
def Obligations.ControlSlots : Prop :=
  ∀ (b : Fin 256) (p : Nat) (bv : BitVec 256) (s : State), InTurn s b p bv → slotValid bv.toNat 0 = true →
    let w := slotWord bv.toNat 0
    let k := blkOf s p
    let does := fun (o : Out) (u : State) => Issues s b p bv.toNat u o
    ctlReserved w = 0 →
    (ctlOp w = 0 → does (exec (.nop b .none) s) s)
    ∧ (ctlOp w = 1 → does (exec (.wait b .none) s) s)
    ∧ (ctlOp w = 2 → does (exec (.post b .none) s) (s.modBlk p fun k =>
        { k with ctr := k.ctr.set 0 (bits w 56 51) ((ctrOf k (bits w 56 51) + bits w 31 0) % 2 ^ 32) }))
    ∧ (ctlOp w = 3 → does (exec (.set b .none) s) (s.modBlk p fun k => { k with ctr := k.ctr.set 0 (bits w 56 51) (bits w 31 0) }))
    ∧ (ctlOp w = 4 → ∀ (st n : Nat) (ts : List (Nat × Nat)), k.tasks = (st, n) :: ts → 1 ≤ bits w 56 33 → 1 ≤ bits w 32 22 → bits w 32 22 ≤ 1024 →
        k.loops.length < 4 → (∀ l ∈ k.loops.head?, k.pos + bits w 32 22 ≤ l.last) → k.pos + bits w 32 22 < st + n →
        does (exec (.loop b .none) s) (s.modBlk p fun k =>
          { k with loops := { first := k.pos + 1, last := k.pos + bits w 32 22, left := bits w 56 33 } :: k.loops }))
    ∧ (ctlOp w = 9 → bits w 56 55 < 3 → bits w 54 44 ≤ 1532 → does (exec (.setbase b .none) s) (s.modBlk p fun k =>
        { k with base := k.base.set 0 (bits w 56 55) (bits w 54 44 + 1) }))
    ∧ (ctlOp w = 8 → ∀ (st n : Nat) (ts : List (Nat × Nat)), k.tasks = (st, n) :: ts → bits w 56 55 = 3 → 1 ≤ bits w 46 40 → bits w 46 40 ≤ 64 →
        bits w 54 47 + bits w 46 40 ≤ 256 → k.pos + 2 * bits w 46 40 < st + n →
        let data := (((streamOf s b).drop (k.pos + 1)).take (2 * bits w 46 40)).flatMap fun v => leBytes 32 v.toNat
        does (exec (.dload b .none) s) (s.modBlk p fun k => { k with skip := 2 * bits w 46 40, imem := k.imem.writeN (64 * bits w 54 47) data }))
    ∧ (ctlOp w = 7 → 1 ≤ bits w 45 35 → bits w 56 46 + bits w 45 35 ≤ 1536 →
        (∀ i, i < bits w 45 35 → (segOf k (bits w 56 46 + i)).st = .owned ∨ (segOf k (bits w 56 46 + i)).st = .ready) →
        does (exec (.release b .none) s) (s.modBlk p
          (modSegs ((List.range (bits w 45 35)).map (bits w 56 46 + ·)) fun g => { g with st := .owned })))
    ∧ (ctlOp w = 10 → bits w 56 43 % 2 = 0 → bits w 36 26 + bits w 25 15 ≤ 1536 →
        (∀ i, i < bits w 25 15 → (segOf k (bits w 36 26 + i)).st ≠ .free ∧ (segOf k (bits w 36 26 + i)).st ≠ .lent) →
        does (exec (.scalar b .none) s) (s.modBlk p fun k =>
          { modSegs ((List.range (bits w 25 15)).map (bits w 36 26 + ·)) SegSt.hold k with
            sc := { k.sc with running := true, pc := bits w 56 43, post := bits w 42 37, seg := bits w 36 26, count := bits w 25 15 } }))
    ∧ (ctlOp w = 11 → ∀ (st n : Nat) (r : Run), k.tasks = [(st, n)] → k.pos + 1 = st + n → s.job.run = some r → bits w 31 0 = r.j →
        does (exec (.station b .none) s) { s with job := { s.job with run := some { r with arrived := insertNat b r.arrived } } })

/-- A bundle issues whole or not at all; the block then goes to the next bundle, the loop's first one, or the next task; errors halt it. Past a bundle, outside loops and short of the task's end, the position rises by one bundle and the data bundles skipped. At the last bundle of the innermost loop with rounds left the position returns to its first bundle with one round fewer; in its last round the loop is left. Past the end of a task the next one begins at its START, outside loops; past the end of the last one the block rests where it has executed STATION, and halts where it has not; a halted block goes nowhere. NOP passes an empty bundle (log 54). A WAIT whose counter has not reached its value changes nothing. A bundle whose invalid slot is not zero, or a CTL word with a reserved bit, halts the block, and so do a double-bit scratchpad error and a lost instruction line met at issue; a halted block issues nothing. What the engine slots have read at issue are the descriptors that their tables name, each accepted by its engine's checks. That a bundle issues in one command, with every slot's effect, is the model's form of R158 (log 56). -/
def Obligations.BundlesAdvance : Prop :=
  (∀ (p b : Nat) (s : State), (blkOf s p).halted = true → passBundle p b s = s)
  ∧ (∀ (p b st n : Nat) (ts : List (Nat × Nat)) (s : State), (blkOf s p).halted = false → (blkOf s p).tasks = (st, n) :: ts → (blkOf s p).loops = [] →
      (blkOf s p).pos + 1 + (blkOf s p).skip < st + n →
      passBundle p b s = s.modBlk p fun k => { k with pos := k.pos + 1 + k.skip, loops := [], skip := 0 })
  ∧ (∀ (p b st n : Nat) (ts : List (Nat × Nat)) (l : LoopSt) (ls : List LoopSt) (s : State), (blkOf s p).halted = false →
      (blkOf s p).tasks = (st, n) :: ts → (blkOf s p).loops = l :: ls → l.last < (blkOf s p).pos + 1 + (blkOf s p).skip → 1 < l.left → l.first < st + n →
      passBundle p b s = s.modBlk p fun k => { k with pos := l.first, loops := { l with left := l.left - 1 } :: ls, skip := 0 })
  ∧ (∀ (p b st n : Nat) (ts : List (Nat × Nat)) (l : LoopSt) (s : State), (blkOf s p).halted = false →
      (blkOf s p).tasks = (st, n) :: ts → (blkOf s p).loops = [l] → l.last < (blkOf s p).pos + 1 + (blkOf s p).skip → l.left ≤ 1 →
      (blkOf s p).pos + 1 + (blkOf s p).skip < st + n →
      passBundle p b s = s.modBlk p fun k => { k with pos := k.pos + 1 + k.skip, loops := [], skip := 0 })
  ∧ (∀ (p b st n st' n' : Nat) (ts : List (Nat × Nat)) (s : State), (blkOf s p).halted = false → (blkOf s p).tasks = (st, n) :: (st', n') :: ts →
      (blkOf s p).loops = [] → st + n ≤ (blkOf s p).pos + 1 + (blkOf s p).skip → 1 ≤ n' → st' + n' ≤ (streamOf s b).length →
      passBundle p b s = s.modBlk p fun k => { k with tasks := (st', n') :: ts, pos := st', skip := 0, loops := [] })
  ∧ (∀ (p b st n : Nat) (s : State), (blkOf s p).halted = false → (blkOf s p).tasks = [(st, n)] → (blkOf s p).loops = [] →
      st + n ≤ (blkOf s p).pos + 1 + (blkOf s p).skip →
      (legArrived s b = true → passBundle p b s = s.modBlk p fun k => { k with tasks := [], skip := 0, loops := [] })
      ∧ (legArrived s b = false → (blkOf (passBundle p b s) p).halted = true ∧ (blkOf (passBundle p b s) p).pos = (blkOf s p).pos))
  ∧ (∀ (b : Fin 256) (p : Nat) (s : State), InTurn s b p 0 → exec (.nop b .none) s = .next (passBundle p b s))
  ∧ (∀ (b : Fin 256) (p : Nat) (bv : BitVec 256) (s : State), physOf s b = some p → (streamOf s b)[(blkOf s p).pos]? = some bv →
      bundleBad bv.toNat = false → bundleMayIssue (blkOf s p) bv.toNat = false → exec (.wait b .none) s = .next s)
  ∧ (∀ (b : Fin 256) (p : Nat) (bv : BitVec 256) (s : State), physOf s b = some p → (streamOf s b)[(blkOf s p).pos]? = some bv → blockIssues s b p = true →
      bundleBad bv.toNat = true → LeadsTo (exec (.wait b .none) s) fun t => (blkOf t p).halted = true ∧ t.flt.seq = s.flt.seq + 1)
  ∧ (∀ (b : Fin 256) (p : Nat) (bv : BitVec 256) (s : State), InTurn s b p bv → slotValid bv.toNat 0 = true → ctlOp (slotWord bv.toNat 0) = 1 →
      ctlReserved (slotWord bv.toNat 0) ≠ 0 → LeadsTo (exec (.wait b .none) s) fun t => (blkOf t p).halted = true)
  ∧ (∀ (b : Fin 256) (p : Nat) (s : State), physOf s b = some p → (blkOf s p).halted = true → exec (.post b .none) s = .next s)
  ∧ (∀ (b : Fin 256) (p off : Nat) (bv : BitVec 256) (s : State), InTurn s b p bv → slotValid bv.toNat 0 = true → ctlOp (slotWord bv.toNat 0) = 1 →
      LeadsTo (exec (.wait b (.spDouble off)) s) (fun t => (blkOf t p).halted = true ∧ (blkOf t p).sp = (blkOf s p).sp)
      ∧ LeadsTo (exec (.wait b (.seqParity true)) s) fun t => (blkOf t p).halted = true ∧ (blkOf t p).sp = (blkOf s p).sp)
  ∧ (∀ (k : Block) (w : Nat) (l : SlotReads), readSlots k w = .ok l →
      (slotValid w 1 = true → arrSlotOk (slotWord w 1) = true ∧ l.tiles.length = (shapeDims (arrSlot (slotWord w 1)).shape).2.2
          ∧ ∀ (q : Nat) (d : List Byte), l.tiles[q]? = some d → readDesc k 0 ((arrSlot (slotWord w 1)).desc + q) = .ok d ∧ tileClean d = true
            ∧ tileOk (arrSlot (slotWord w 1)) (tileOf d) = true)
      ∧ (slotValid w 2 = true → readDesc k 1 (vecSlot (slotWord w 2)).desc = .ok l.vec ∧ vecOk (slotWord w 2) l.vec = true)
      ∧ (slotValid w 3 = true → readDesc k 2 (bits (slotWord w 3) 62 55) = .ok l.dma))

/-- The allocation sequence takes and frees segments, and LEND issues a peg. In a bundle that may issue, with the descriptors of its engine slots in order (otherwise their fault halts the block instead; the bundle issues in one command, log 56): ASEQ with COUNT 1: an ALLOC entry whose BASE is the lowest place of COUNT FREE segments makes them OWNED, a FREE entry over OWNED or READY segments frees them, and the block's place in its sequence rises by one. An ALLOC entry whose lowest place differs from BASE, or that finds none, halts the block, and so does a FREE entry over a segment in another state; none of these changes a segment. LEND of OWNED segments through a table that can be read, in an OPEN SCRATCH window of the block that covers the space, makes them LENT and the peg outstanding under the window's generation; without a parked claim nothing is granted. -/
def Obligations.AllocationAndLoans : Prop :=
  (∀ (b : Fin 256) (p : Nat) (bv : BitVec 256) (v : W32) (s : State), InTurn s b p bv → slotValid bv.toNat 0 = true →
      ctlOp (slotWord bv.toNat 0) = 5 → ctlReserved (slotWord bv.toNat 0) = 0 →
      bits (slotWord bv.toNat 0) 56 52 = 1 → (allocOf s b)[(blkOf s p).alloc]? = some v →
      let n := bits v.toNat 29 19
      let base := bits v.toNat 18 8
      let segs := (List.range n).map (base + ·)
      (bits v.toNat 31 30 = 1 → firstFit (blkOf s p) n = some base →
        Issues s b p bv.toNat ((s.modBlk p (modSegs segs fun g => { g with st := .owned })).modBlk p fun k => { k with alloc := k.alloc + 1 })
          (exec (.aseq b .none) s))
      ∧ (bits v.toNat 31 30 ≠ 1 → (∀ i ∈ segs, (segOf (blkOf s p) i).st = .owned ∨ (segOf (blkOf s p) i).st = .ready) →
        Issues s b p bv.toNat ((s.modBlk p (modSegs segs fun _ => {})).modBlk p fun k => { k with alloc := k.alloc + 1 }) (exec (.aseq b .none) s))
      ∧ (bits v.toNat 31 30 = 1 → firstFit (blkOf s p) n ≠ some base →
        LeadsTo (exec (.aseq b .none) s) fun t => (blkOf t p).halted = true ∧ (blkOf t p).seg = (blkOf s p).seg)
      ∧ (bits v.toNat 31 30 ≠ 1 → (∃ i ∈ segs, (segOf (blkOf s p) i).st ≠ .owned ∧ (segOf (blkOf s p) i).st ≠ .ready) →
        LeadsTo (exec (.aseq b .none) s) fun t => (blkOf t p).halted = true ∧ (blkOf t p).seg = (blkOf s p).seg))
  ∧ (∀ (k : Block) (n a : Nat), firstFit k n = some a →
      a + n ≤ 1536 ∧ (∀ i, i < n → (segOf k (a + i)).st = .free) ∧ ∀ x, x < a → ∃ i, i < n ∧ (segOf k (x + i)).st ≠ .free)
  ∧ (∀ (b : Fin 256) (p : Nat) (bv : BitVec 256) (d : List Byte) (s : State), InTurn s b p bv → slotValid bv.toNat 0 = true →
      ctlOp (slotWord bv.toNat 0) = 6 → ctlReserved (slotWord bv.toNat 0) = 0 →
      readDesc (blkOf s p) 2 (bits (slotWord bv.toNat 0) 56 49) = .ok d → lendOk d = true → lendWindow s b (field d 4 2) (field d 8 4) (field d 12 4) = true →
      (pegOf s (field d 2 2)).out = false → (pegOf s (field d 2 2)).claim = none →
      (∀ g ∈ segsOf (field d 8 4) (field d 12 4), (segOf (blkOf s p) g).st = .owned) →
      Issues s b p bv.toNat ((s.modBlk p (modSegs (segsOf (field d 8 4) (field d 12 4)) fun g => { g with st := .lent })).modPeg
        (field d 2 2) fun q => { q with
            out := true, window := field d 4 2, gen := (winOf s (field d 4 2)).gen, block := p, sp := field d 8 4,
            bytes := field d 12 4, ctr := field d 1 1, grant := none, landed := 0, total := none, pieces := [] }) (exec (.lend b .none) s))

/-- A segment's writers, its loan and its landing move it between the states of R183. A local write that may begin holds the segment in FILLING with one writer more, and none may begin in a FREE or LENT one. The last writer to drop it, with no landing in progress, leaves it READY, or OWNED when a peg of it was ended by a window close meanwhile; an earlier one leaves it FILLING. A landing moves LENT to FILLING, and its completion leaves READY when no local writer holds it, also from LENT. A peg ended by a window close leaves OWNED unless a local writer holds the segment. A read is allowed in OWNED and READY alone. Writing one segment of a block leaves every other segment, and all else of the block, as it was. -/
def Obligations.SegmentChanges : Prop :=
  (∀ g : SegSt, g.hold.st = .filling ∧ g.hold.writers = g.writers + 1)
  ∧ (∀ g : SegSt, g.st = .filling → g.writers = 1 → g.landing = false → g.drop.st = (if g.ended then .owned else .ready) ∧ g.drop.writers = 0)
  ∧ (∀ g : SegSt, g.st = .filling → 2 ≤ g.writers ∨ g.landing = true → g.drop.st = .filling ∧ g.drop.writers = g.writers - 1)
  ∧ (∀ g : SegSt, g.st = .lent → g.land.st = .filling ∧ g.land.landing = true ∧ g.landed.st = .ready ∧ g.pegEnded.st = .owned)
  ∧ (∀ g : SegSt, g.st = .filling → g.writers = 0 → g.landed.st = (if g.ended then .owned else .ready) ∧ g.pegEnded.st = .owned)
  ∧ (∀ g : SegSt, g.st = .filling → 0 < g.writers → g.landed.st = .filling ∧ g.landed.landing = false ∧ g.pegEnded.st = .filling ∧ g.pegEnded.ended = true)
  ∧ (∀ (k : Block) (i : Nat), (readFault k i = none ↔ (segOf k i).st = .owned ∨ (segOf k i).st = .ready)
      ∧ (writeFault k i = none ↔ (segOf k i).st ≠ .free ∧ (segOf k i).st ≠ .lent))
  ∧ (∀ (is : List Nat) (f : SegSt → SegSt) (k : Block), is.Nodup →
      (∀ i, segOf (modSegs is f k) i = if i ∈ is then f (segOf k i) else segOf k i) ∧ modSegs is f k = { k with seg := (modSegs is f k).seg })

/-- Every array operation is taken with its descriptors, its parts are fed and drained, and each posts. For each of the eleven operations, in a bundle that issues with its descriptors in order: behind the CTL slot's effect the instruction joins the array with a part for each descriptor, the output segments that may be written noted with each part, and the next tile number (one number for all parts, log 119); the other engines take theirs and the bundle is passed. A bundle whose descriptors fail halts the block. PART_POST of the oldest part of a number that has a moment of its life before it (logs 55 and 56): feeding granules whose reads are all allowed delivers their bytes; a read that is not allowed makes the part fault, with a record that names it (the order of faults within a step is log 120). The drain of a fed part without a fault holds the segments that it may write in FILLING and writes the outputs to them; of a faulted one it writes the poison fill there. The post adds 1 to the instruction's counter, lets the segments go and takes the part away. -/
def Obligations.ArrayInstructions : Prop :=
  let rows : List (Nat × (Fin 256 → HwErr → Instr)) :=
    [(0, .mac), (1, .minplus), (2, .maxplus), (3, .maxtimes), (4, .l1), (5, .l2sq), (6, .cntGt), (7, .cntGe), (8, .cntEq), (9, .hamming), (10, .split32)]
  (∀ (op : Nat) (row : Fin 256 → HwErr → Instr) (b : Fin 256) (p : Nat) (bv : BitVec 256) (s u : State) (l : SlotReads), (op, row) ∈ rows →
      Issued s b p bv u l → slotValid bv.toNat 1 = true → bits (slotWord bv.toNat 1) 62 59 = op →
      let w := bv.toNat
      exec (row b .none) s = .next (passBundle p b (dmaPart b p w l (vecPart p w l (u.modBlk p fun k => { k with
        arr := k.arr ++ [{ word := slotWord w 1, num := k.tile, parts := l.tiles.zipIdx.map fun (d, q) =>
          { part := q, desc := d, may := drainMay k (arrSlot (slotWord w 1)) (tileOf d) } }]
        tile := k.tile + 1 })))))
  ∧ (∀ (op : Nat) (row : Fin 256 → HwErr → Instr) (b : Fin 256) (p c d x : Nat) (bv : BitVec 256) (s u : State), (op, row) ∈ rows → InTurn s b p bv →
      slotValid bv.toNat 1 = true → bits (slotWord bv.toNat 1) 62 59 = op → ctlSlot b p bv.toNat s = .issued u →
      readSlots (blkOf u p) bv.toNat = .error (c, d, x) → exec (row b .none) s = .next (haltBlock p c d x s))
  ∧ (∀ (b : Fin 256) (q : Fin 4) (n i p : Nat) (o : ArrOp) (x : ArrPart) (s : State), PartInTurn s b p (.fed n) q i o x →
      mayFeed (blkOf s p).arr i = true → x.fed ≠ 0 ∨ badColumn s p (arrSlot o.word).shape x.part = none →
      let a := arrSlot o.word
      let t := tileOf x.desc
      let g := min (x.fed + n) t.kgran
      let y := { x with fed := g, got := copyRanges (feedRanges a t x.fed g) (blkOf s p).sp x.got }
      (feedFault (blkOf s p) a t x.fed g = none → (a.trap && tileNan (g * granule (rateClass a.fa)) y.got a t) = false →
        exec (.partPost b q (.fed n) .none) s = .next (setPart p i y s))
      ∧ (∀ h c : Nat, feedFault (blkOf s p) a t x.fed g = some (h, c) → a.trap = false →
        LeadsTo (exec (.partPost b q (.fed n) .none) s) fun t => t.flt.seq = s.flt.seq + 1 ∧ (blkOf t p).sp = (blkOf s p).sp
          ∧ (blkOf t p).halted = (blkOf s p).halted
          ∧ ∃ z : ArrPart, (blkOf t p).arr = (blkOf (setPart p i z s) p).arr ∧ z.part = x.part ∧ z.fed = h ∧ z.fault = some (c, 0xFFFF)))
  ∧ (∀ (b : Fin 256) (q : Fin 4) (i p : Nat) (o : ArrOp) (x : ArrPart) (s : State), PartInTurn s b p .drains q i o x → partFed x = true →
      let a := arrSlot o.word
      let t := tileOf x.desc
      let segs := x.may.filter fun g => (writeFault (blkOf s p) g).isNone
      let drained := fun (code : Nat → Nat → Nat) =>
        setPart p i { x with held := some segs } (s.modBlk p fun k => modSegs segs SegSt.hold (drainTile a t segs code k))
      (x.fault = none → drainFault (blkOf s p) a t x.may = none →
        exec (.partPost b q .drains .none) s = .next (drained (tileCode s.job.seed x.got a t)))
      ∧ (x.fault ≠ none → exec (.partPost b q .drains .none) s = .next (drained fun _ _ => poisonFill a)))
  ∧ (∀ (b : Fin 256) (q : Fin 4) (i p : Nat) (o : ArrOp) (x : ArrPart) (segs : List Nat) (s : State), PartInTurn s b p .posts q i o x → partFed x = true →
      x.held = some segs →
      exec (.partPost b q .posts .none) s = .next (postCtr p (arrSlot o.word).post 1 (s.modBlk p fun k =>
        { modSegs segs SegSt.drop k with arr := dropPart i q k.arr })))

/-- Integer tiles: sums wrap, minima and maxima are exact, and counts count, for every K. For every tile outside MV: with INT8 operands the accumulator of MAC, L1 and L2SQ is the sum over all K of the products, absolute differences and squared differences modulo 2^32; that of MINPLUS is the least sum of a pair, with 2^31 − 1 as its start (the model's choice of the identity, log 50), and MAXPLUS and MAXTIMES give the greatest sum and product, from −2^31. CNT_GT, CNT_GE and CNT_EQ give the number of pairs that satisfy the comparison, and HAMMING the number of differing bits, modulo 2^32. A count drains as it stands. -/
def Obligations.ArrayArithmetic : Prop :=
  ∀ (m : Mem) (s : ArrSlot) (t : Tile) (i l : Nat), s.shape ≠ 5 →
    let a := fun k => untwos 8 (codeA m s t i k)
    let b := fun k => untwos 8 (codeB m s t l k)
    let ks := List.range (tileK s t)
    (s.fa = 11 → s.op = 0 → outputAcc m s t i l = .int (twos 32 (ks.map fun k => a k * b k).sum))
    ∧ (s.fa = 11 → s.op = 4 → outputAcc m s t i l = .int (twos 32 (ks.map fun k => ((a k - b k).natAbs : Int)).sum))
    ∧ (s.fa = 11 → s.op = 5 → outputAcc m s t i l = .int (twos 32 (ks.map fun k => (a k - b k) * (a k - b k)).sum))
    ∧ (s.fa = 11 → s.op = 1 → outputAcc m s t i l = .int (twos 32 ((ks.map fun k => a k + b k).foldl min (2 ^ 31 - 1))))
    ∧ (s.fa = 11 → s.op = 2 → outputAcc m s t i l = .int (twos 32 ((ks.map fun k => a k + b k).foldl max (-2 ^ 31))))
    ∧ (s.fa = 11 → s.op = 3 → outputAcc m s t i l = .int (twos 32 ((ks.map fun k => a k * b k).foldl max (-2 ^ 31))))
    ∧ (6 ≤ s.op → s.op ≤ 8 → outputAcc m s t i l = .int ((ks.filter fun k => countHit s.op (elemA m s t i k) (elemB m s t l k)).length % 2 ^ 32))
    ∧ (s.op = 9 → outputAcc m s t i l = .int ((ks.filter fun k => decide (codeA m s t i k ≠ codeB m s t l k)).length % 2 ^ 32))
    ∧ (∀ (w : Option Nat) (v : Nat), s.out = 0 → drainCode s w (.int v) = v)

/-- Every vector operation joins the queue with its descriptor, and VECTOR_POST processes its elements, stops on its faults and posts. For each of the twenty operations, in a bundle that issues with its descriptors in order: the instruction joins the queue with its descriptor, behind what the CTL and ARR slots do, the DMA slot's follows and the bundle is passed. A bundle whose descriptors fail halts the block. VECTOR_POST of the oldest instruction, in steps as the model takes them (logs 55 and 56): the next groups of elements, with sources that may be read and, before the first write, a destination that may be written, leave the operation's results in the scratchpad and the destination segments in FILLING. A NaN produced under TRAP halts the block with its queue stopped, and so does a segment that may not be read or written; the scratchpad is then as before the step. With every element processed it adds 1 to its counter and lets its segments go. -/
def Obligations.VectorInstructions : Prop :=
  let rows : List (Nat × (Fin 256 → HwErr → Instr)) :=
    [(0, .add), (1, .mul), (2, .fma), (3, .min), (4, .max), (5, .exp), (6, .log), (7, .rcp), (8, .rsqrt), (9, .cvt)]
      ++ [(10, .cvtMx), (11, .datum), (12, .dmax), (13, .toC), (14, .cadd), (15, .fromC), (16, .dropout), (17, .uniform), (18, .rawrand), (19, .copy)]
  (∀ (op : Nat) (row : Fin 256 → HwErr → Instr) (b : Fin 256) (p : Nat) (bv : BitVec 256) (s u : State) (l : SlotReads), (op, row) ∈ rows →
      Issued s b p bv u l → slotValid bv.toNat 2 = true → bits (slotWord bv.toNat 2) 62 57 = op →
      let w := bv.toNat
      exec (row b .none) s = .next (passBundle p b (dmaPart b p w l ((arrPart p w l u).modBlk p fun k =>
        { k with vec := k.vec ++ [{ word := slotWord w 2, desc := l.vec }] }))))
  ∧ (∀ (op : Nat) (row : Fin 256 → HwErr → Instr) (b : Fin 256) (p c d x : Nat) (bv : BitVec 256) (s u : State), (op, row) ∈ rows → InTurn s b p bv →
      slotValid bv.toNat 2 = true → bits (slotWord bv.toNat 2) 62 57 = op → ctlSlot b p bv.toNat s = .issued u →
      readSlots (blkOf u p) bv.toNat = .error (c, d, x) → exec (row b .none) s = .next (haltBlock p c d x s))
  ∧ (∀ (b : Fin 256) (p n : Nat) (o : VecOp) (os : List VecOp) (s : State), physOf s b = some p → (blkOf s p).vec = o :: os → engineRuns s b = true →
      let v := vecSlot o.word
      let d := vecDesc o.desc
      let m := min (32 * n) (d.count - o.done)
      let k := blkOf s p
      let reads := (rangeSegs (vecReads v d o.done m)).filter fun g => !(o.held.getD []).contains g
      let dst := rangeSegs (vecWrites v d 0 d.count)
      let r := vecRun s.job.seed k.sp v d o.done m
      0 < m →
      (firstFault (readFault k) reads = none → o.held.isSome = true ∨ firstFault (writeFault k) dst = none →
        ((r.2 && v.trap) = false → exec (.vectorPost b (.moves n) .none) s = .next (s.modBlk p fun k =>
          { (if o.held.isSome then k else modSegs dst SegSt.hold k).writeRanges (vecWrites v d o.done m) r.1 with
            vec := { o with done := o.done + m, held := some dst } :: os }))
        ∧ ((r.2 && v.trap) = true → LeadsTo (exec (.vectorPost b (.moves n) .none) s) fun t =>
            (blkOf t p).halted = true ∧ (blkOf t p).vec = [] ∧ (blkOf t p).sp = k.sp))
      ∧ (firstFault (readFault k) reads ≠ none ∨ (o.held = none ∧ firstFault (writeFault k) dst ≠ none) →
        LeadsTo (exec (.vectorPost b (.moves n) .none) s) fun t => (blkOf t p).halted = true ∧ (blkOf t p).vec = [] ∧ (blkOf t p).sp = k.sp))
  ∧ (∀ (b : Fin 256) (p : Nat) (o : VecOp) (os : List VecOp) (s : State), physOf s b = some p → (blkOf s p).vec = o :: os → engineRuns s b = true →
      (vecDesc o.desc).count ≤ o.done →
      exec (.vectorPost b .posts .none) s
        = .next (postCtr p (vecSlot o.word).post 1 (s.modBlk p fun k => { modSegs (o.held.getD []) SegSt.drop k with vec := os })))

/-- What elements of a vector operation are, with NaN and the special cases. COPY keeps each element's code, DMAX the greater of two bytes, RAWRAND the element's random word, whatever the other operands hold (COPY beside its operands is log 122). ADD, MUL and FMA of FP32 elements round the exact result once; MIN and MAX give one of their operands. EXP of −∞ is +0, LOG of +0 is −∞ and of a negative number NaN, RCP of +0 is +∞, RSQRT of a negative number is NaN (finite results of these four are free values, log 6). DROPOUT writes 0 where the element's random word lies below its threshold. -/
def Obligations.VectorResults : Prop :=
  ∀ (seed : Nat) (m : Mem) (v : VecSlot) (d : VecDesc) (k : Nat),
    (v.vop = 0x13 → vecElem seed m v d k = (elem m d.s0 (widthOf v.fi) k, false))
    ∧ (v.vop = 0x0C → vecElem seed m v d k = (Nat.max (m.read (d.s0 + k)).toNat (m.read (d.s1 + k)).toNat, false))
    ∧ (v.vop = 0x12 → vecElem seed m v d k = (randomWord seed d.tensor 3 d.draw (d.base + k), false))
    ∧ (v.vop = 0x10 → randomWord seed d.tensor 2 d.draw (d.base + k) < d.p0 → vecElem seed m v d k = (0, false))
    ∧ (∀ (sat : Bool) (x y z : FV), fp32Op 0 sat x y z = round32 sat ((round32 false x).add (round32 false y))
        ∧ fp32Op 1 sat x y z = round32 sat ((round32 false x).mul (round32 false y))
        ∧ fp32Op 2 sat x y z = round32 sat (((round32 false x).mul (round32 false y)).add (round32 false z)))
    ∧ (∀ x y : FV, x.isNan = false → y.isNan = false → (x.min y = x ∨ x.min y = y) ∧ (x.max y = x ∨ x.max y = y))
    ∧ (fvExp (.inf true) = .fin false 0 0 ∧ fvLog (.fin false 0 0) = .inf true ∧ fvRcp (.fin false 0 0) = .inf false)
    ∧ (∀ (n : Nat) (e : Int), 0 < n → (fvLog (.fin true n e)).isNan = true ∧ (fvRsqrt (.fin true n e)).isNan = true)

/-- The scalar core runs its instructions, and its custom instructions act on counters and segments. With the core of a block running and an instruction fetched: ADDI, ADD, LUI, JAL and BEQ of RV64IM write their register and pc as RISC-V has them, loads and stores of every width that the address map allows move their bytes, x0 stays zero, and the count of instructions retired rises by one. SC.POST adds to a counter, SC.WAIT goes on only when its counter has reached the value, SC.READ and SC.SEGST read a counter and a segment's state, SC.RELEASE of OWNED or READY segments makes them OWNED, and SC.EXIT stops the core, posts 1 and lets its granted segments go. An instruction that cannot be fetched, one of an opcode, a function code or a custom code that the table does not have, an ECALL or EBREAK, and a load or store that the address map refuses stop the core and halt the block. -/
def Obligations.ScalarCore : Prop :=
  let ready := fun (s : State) (b p w len : Nat) => physOf s b = some p ∧ scalarRuns s b (blkOf s p) = true ∧ fetchScalar (blkOf s p) = some (w, len)
  let x1 := fun (s : State) (p w : Nat) => xGet (blkOf s p).sc (bits w 19 15)
  let x2 := fun (s : State) (p w : Nat) => xGet (blkOf s p).sc (bits w 24 20)
  (∀ (b : Fin 256) (p w len : Nat) (s : State), ready s b p w len →
      let nxt := (blkOf s p).sc.pc + len
      (bits w 6 0 = 0x13 → bits w 14 12 = 0 → exec (.scalarInstruction b .none) s
        = .next (retire p nxt (xSet (bits w 11 7) (x1 s p w + sext 12 (bits w 31 20))) s))
      ∧ (bits w 6 0 = 0x33 → bits w 14 12 = 0 → bits w 31 25 = 0 → exec (.scalarInstruction b .none) s
        = .next (retire p nxt (xSet (bits w 11 7) (x1 s p w + x2 s p w)) s))
      ∧ (bits w 6 0 = 0x37 → exec (.scalarInstruction b .none) s = .next (retire p nxt (xSet (bits w 11 7) (sext 32 (bits w 31 12 * 4096))) s))
      ∧ (bits w 6 0 = 0x63 → bits w 14 12 = 0 →
        let off := sext 13 (bits w 31 31 * 2 ^ 12 + bits w 7 7 * 2 ^ 11 + bits w 30 25 * 32 + bits w 11 8 * 2)
        exec (.scalarInstruction b .none) s
          = .next (retire p (if x1 s p w = x2 s p w then (BitVec.ofNat 64 (blkOf s p).sc.pc + off).toNat else nxt) id s))
      ∧ (bits w 6 0 = 0x6F →
        let off := sext 21 (bits w 31 31 * 2 ^ 20 + bits w 19 12 * 2 ^ 12 + bits w 20 20 * 2 ^ 11 + bits w 30 21 * 2)
        exec (.scalarInstruction b .none) s
          = .next (retire p (BitVec.ofNat 64 (blkOf s p).sc.pc + off).toNat (xSet (bits w 11 7) (BitVec.ofNat 64 nxt)) s))
      ∧ (∀ v : Nat, bits w 6 0 = 0x03 → bits w 14 12 < 4 →
        loadScalar (blkOf s p) (x1 s p w + sext 12 (bits w 31 20)).toNat (2 ^ bits w 14 12) = .ok v →
        exec (.scalarInstruction b .none) s = .next (retire p nxt (xSet (bits w 11 7) (sext (8 * 2 ^ bits w 14 12) v)) s))
      ∧ (∀ v : Nat, bits w 6 0 = 0x03 → 4 ≤ bits w 14 12 → bits w 14 12 < 7 →
        loadScalar (blkOf s p) (x1 s p w + sext 12 (bits w 31 20)).toNat (2 ^ (bits w 14 12 - 4)) = .ok v →
        exec (.scalarInstruction b .none) s = .next (retire p nxt (xSet (bits w 11 7) (BitVec.ofNat 64 v)) s))
      ∧ (∀ k' : Block, bits w 6 0 = 0x23 → bits w 14 12 < 4 →
        storeScalar (blkOf s p) (x1 s p w + sext 12 (bits w 31 25 * 32 + bits w 11 7)).toNat (2 ^ bits w 14 12)
          ((x2 s p w).toNat % 2 ^ (8 * 2 ^ bits w 14 12)) = .ok k' →
        exec (.scalarInstruction b .none) s = .next (retire p nxt id (s.modBlk p fun _ => k')))
      ∧ (customOf w = some 0 → exec (.scPost b .none) s = .next (postCtr p ((x1 s p w).toNat % 64) ((x2 s p w).toNat % 2 ^ 32) (retire p nxt id s)))
      ∧ (customOf w = some 1 → exec (.scWait b .none) s
        = .next (if reached (ctrOf (blkOf s p) ((x1 s p w).toNat % 64)) ((x2 s p w).toNat % 2 ^ 32) then retire p nxt id s else s))
      ∧ (customOf w = some 2 → exec (.scRead b .none) s
        = .next (retire p nxt (xSet (bits w 11 7) (BitVec.ofNat 64 (ctrOf (blkOf s p) ((x1 s p w).toNat % 64)))) s))
      ∧ (customOf w = some 3 → exec (.scSegst b .none) s
        = .next (retire p nxt (xSet (bits w 11 7) (BitVec.ofNat 64 (segCode (segOf (blkOf s p) ((x1 s p w).toNat % 2048))))) s))
      ∧ (customOf w = some 4 → 1 ≤ (x2 s p w).toNat → (x1 s p w).toNat + (x2 s p w).toNat ≤ 1536 →
        let segs := (List.range (x2 s p w).toNat).map ((x1 s p w).toNat + ·)
        (∀ i ∈ segs, (segOf (blkOf s p) i).st = .owned ∨ (segOf (blkOf s p) i).st = .ready) →
        exec (.scRelease b .none) s = .next (retire p nxt id (s.modBlk p (modSegs segs fun g => { g with st := .owned }))))
      ∧ (customOf w = some 5 → LeadsTo (exec (.scExit b .none) s) fun t => (blkOf t p).sc.running = false
        ∧ ctrOf (blkOf t p) (blkOf s p).sc.post = (ctrOf (blkOf s p) (blkOf s p).sc.post + 1) % 2 ^ 32
        ∧ (blkOf t p).seg = (modSegs ((List.range (blkOf s p).sc.count).map ((blkOf s p).sc.seg + ·)) SegSt.drop (blkOf s p)).seg))
  ∧ (∀ (b : Fin 256) (p w len : Nat) (s : State), physOf s b = some p → scalarRuns s b (blkOf s p) = true →
      let stops := LeadsTo (exec (.scalarInstruction b .none) s) fun t => (blkOf t p).halted = true ∧ (blkOf t p).sc.running = false
      (fetchScalar (blkOf s p) = none → stops)
      ∧ (fetchScalar (blkOf s p) = some (w, len) →
        (bits w 6 0 ∉ [0x37, 0x17, 0x6F, 0x67, 0x63, 0x03, 0x23, 0x13, 0x1B, 0x33, 0x3B, 0x0F, 0x73] → customOf w = none → stops)
        ∧ (bits w 6 0 = 0x0B → bits w 31 25 ≠ 0 ∨ 6 ≤ bits w 14 12 → stops)
        ∧ (bits w 6 0 = 0x63 → bits w 14 12 = 2 ∨ bits w 14 12 = 3 → stops)
        ∧ (bits w 6 0 = 0x73 → bits w 14 12 = 0 → stops)
        ∧ (∀ o : Option Nat, bits w 6 0 = 0x03 → bits w 14 12 < 4 →
          loadScalar (blkOf s p) (x1 s p w + sext 12 (bits w 31 20)).toNat (2 ^ bits w 14 12) = .error o → stops)
        ∧ (∀ o : Option Nat, bits w 6 0 = 0x23 → bits w 14 12 < 4 →
          storeScalar (blkOf s p) (x1 s p w + sext 12 (bits w 31 25 * 32 + bits w 11 7)).toNat (2 ^ bits w 14 12)
            ((x2 s p w).toNat % 2 ^ (8 * 2 ^ bits w 14 12)) = .error o → stops)))
  ∧ (∀ (p pc : Nat) (f : Scalar → Scalar) (s : State), (blkOf (retire p pc f s) p).sc.pc = pc
      ∧ (blkOf (retire p pc f s) p).sc.instret = (blkOf s p).sc.instret + 1 ∧ ∀ q, q ≠ p → blkOf (retire p pc f s) q = blkOf s q)
  ∧ (∀ (c : Scalar) (v : W64), xGet c 0 = 0 ∧ xSet 0 v c = c)

/-- The local DMA takes its descriptor, moves its bytes, holds its destination, and posts when it completes. In a bundle that issues with its descriptors in order, a local descriptor whose length word, where it has one, may be read and holds whole beats, and whose destination may be written: behind what the other slots do the descriptor joins the queue under a number of its own, with its counter, its length and its destination segments in FILLING, and the bundle is passed. A descriptor that is not accepted halts the block with DMA_DESC. DMA_POST of one in progress, in steps as the model takes them (logs 55 and 56): with readable sources SP_TO_SP copies the next bytes within the scratchpad; HBM_TO_SP writes what the region's HBM reads to the scratchpad; SP_TO_HBM writes the scratchpad's bytes to HBM, each line a term of the region's digest; a source segment that may not be read halts the block. Its post moves what is left, adds 1 to its counter, lets its segments go, and takes it away. -/
def Obligations.LocalDma : Prop :=
  (∀ (kind : Nat) (row : Fin 256 → HwErr → Instr) (b : Fin 256) (p : Nat) (bv : BitVec 256) (s u : State) (l : SlotReads),
      (kind, row) ∈ ([(1, .hbmToSp), (2, .spToHbm), (3, .spToSp)] : List (Nat × (Fin 256 → HwErr → Instr))) →
      Issued s b p bv u l → slotValid bv.toNat 3 = true → field l.dma 0 1 = kind →
      let w := bv.toNat
      let v := vecPart p w l (arrPart p w l u)
      let d := dmaDesc l.dma
      let dst := if kind = 1 then segsOf d.sp d.len else if kind = 3 then segsOf d.hbm d.len else []
      let word := leNat ((blkOf v p).sp.readN d.lenAddr 4)
      (d.indirect = true → firstFault (readFault (blkOf v p)) (segsOf d.lenAddr 4) = none ∧ word % 16 = 0) → firstFault (writeFault (blkOf v p)) dst = none →
      exec (row b .none) s = .next (passBundle p b (({ v with blks := { v.blks with nextId := v.blks.nextId + 1 } } : State).modBlk p fun k =>
        { modSegs dst SegSt.hold k with dma := k.dma ++ [{
            id := v.blks.nextId, kind := kind, desc := bits (slotWord w 3) 62 55, post := bits (slotWord w 3) 54 49, segs := dst, raw := l.dma,
            len := if d.indirect then min word d.len else d.len }] })))
  ∧ (∀ (b : Fin 256) (p : Nat) (bv : BitVec 256) (raw : List Byte) (s : State), InTurn s b p bv → slotValid bv.toNat 0 = false →
      slotValid bv.toNat 1 = false → slotValid bv.toNat 2 = false → slotValid bv.toNat 3 = true → bits (slotWord bv.toNat 3) 48 0 = 0 →
      readDesc (blkOf s p) 2 (bits (slotWord bv.toNat 3) 62 55) = .ok raw → field raw 0 1 = 3 → dmaOk raw = false →
      exec (.spToSp b .none) s = .next (haltBlock p 0x21A (bits (slotWord bv.toNat 3) 62 55) 0 s))
  ∧ (∀ (b : Fin 256) (id p n : Nat) (o : DmaOp) (s : State), physOf s b = some p → (blkOf s p).dma.find? (fun o => o.id == id) = some o →
      engineRuns s b = true → (dmaDesc o.raw).kind = o.kind → 1 ≤ o.kind → o.kind ≤ 3 →
      let d := dmaDesc o.raw
      let m := min (64 * n - (d.hbm + o.moved) % 64) (o.len - o.moved)
      let r := (d.hbm + o.moved) / 2 ^ 38
      let off := (d.hbm + o.moved) % 2 ^ 38
      let src := segsOf (d.sp + o.moved) m
      let bs := (blkOf s p).sp.readN (d.sp + o.moved) m
      let gone := fun (t : State) => t.modBlk p fun k => { k with dma := k.dma.map fun x => if x.id = o.id then { x with moved := x.moved + m } else x }
      (o.kind = 3 → firstFault (readFault (blkOf s p)) src = none →
        exec (.dmaPost b id (.moves n) .none) s = .next (gone (s.modBlk p fun k => k.writeSp (d.hbm + o.moved) (k.sp.readN (d.sp + o.moved) m))))
      ∧ (o.kind = 1 → roundTrip s (b / 64) r = true →
        let out := readBytes r off m (some (p % 68, b.val % 64)) s
        exec (.dmaPost b id (.moves n) .none) s = .next (gone (out.2.2.modBlk p (Block.writeSp (d.sp + o.moved) out.1))))
      ∧ (o.kind = 2 → firstFault (readFault (blkOf s p)) src = none → pathUp s (b / 64) r = true → roundTrip s (b / 64) r = true →
        exec (.dmaPost b id (.moves n) .none) s = .next (gone (writeBytes r off bs (digestLines r off bs s))))
      ∧ (o.kind ≠ 1 → firstFault (readFault (blkOf s p)) src ≠ none →
        LeadsTo (exec (.dmaPost b id (.moves n) .none) s) fun t => (blkOf t p).halted = true ∧ (blkOf t p).dma = [] ∧ (blkOf t p).sp = (blkOf s p).sp))
  ∧ (∀ (b : Fin 256) (id p : Nat) (o : DmaOp) (s : State), physOf s b = some p → (blkOf s p).dma.find? (fun o => o.id == id) = some o → o.kind ≤ 3 →
      engineRuns s b = true → o.moved = o.len →
      LeadsTo (exec (.dmaPost b id .posts .none) s) fun t => ctrOf (blkOf t p) o.post = (ctrOf (blkOf s p) o.post + 1) % 2 ^ 32
        ∧ (blkOf t p).dma.find? (fun x => x.id == id) = none ∧ ∀ i, segOf (blkOf t p) i = segOf (modSegs o.segs SegSt.drop (blkOf s p)) i)

/-- LOAD_TRAVERSE checks and loads a traverse, RUN starts it from its base station, and FENCE_JOB ends the job. LOAD_TRAVERSE completes with 1 for an address that is not 4,096-aligned, with 0x15 for one in a region that region 0 does not reach, there and back, and with 3 while another is in progress. Otherwise the traverse is read, with what the reads meet, a margin test starts on each scheduled lane, and the command waits; with no such lane it completes at once, with 1 for a format error, 0x10 for a shape that does not meet the class, 0x11 for a lane that is not available, or OK with the number of legs, the traverse loaded. RUN without a traverse completes with 2, with a misaligned buffer or no slots with 1, from another station than the last one with 0x12, and otherwise starts the execution. The start of a leg notes it and the blocks without tasks. FENCE_JOB of this job or of tag 0 ends the job: its tag, key, stations and stagings are cleared; another tag completes with 1 and ends nothing. The base station of a RUN behind a JOB_IDENT and the order of the end are the model's readings (logs 128 and 109), and how the parts of a traverse come with the command is its choice (log 11). -/
def Obligations.TraversesAndRuns : Prop :=
  (∀ (parts : TraverseParts) (errs : List ReadErr) (i : Nat) (c : InCmd) (s : State), Takes s i c → c.opcode = 1 →
      let u := leaveKeepalive (takeCmd i s)
      let up := regionUp s (c.arg0 / 2 ^ 38) && roundTrip s 0 (c.arg0 / 2 ^ 38)
      let does := fun (g : State → State) => exec (.loadTraverse parts errs) s = meeting errs (fun v => .next (g (leaveKeepalive (takeCmd i v)))) s
      (c.arg0 % 4096 ≠ 0 → does fun v => complete c.id 1 0 v)
      ∧ (c.arg0 % 4096 = 0 → up = false → does fun v => complete c.id 0x15 0 v)
      ∧ (c.arg0 % 4096 = 0 → up = true → s.job.loading ≠ none → does fun v => complete c.id 3 0 v)
      ∧ (c.arg0 % 4096 = 0 → up = true → s.job.loading = none → scheduledLanes u ≠ [] →
          does fun v =>
            let w := parseTraverse c.arg0 c.arg1 parts v
            (scheduledLanes u).foldl (fun x e => startMargin e.1 e.2 x)
              { w.2 with job := { w.2.job with loading := some { cmd := c.id, trav := w.1, lanes := scheduledLanes u } } })
      ∧ (c.arg0 % 4096 = 0 → up = true → s.job.loading = none → scheduledLanes u = [] →
          does fun v =>
            let w := parseTraverse c.arg0 c.arg1 parts v
            let z := { w.2 with job := { w.2.job with loading := none } }
            match w.1 with
            | none => complete c.id 1 0 z
            | some t =>
              if z.job.run ≠ none then complete c.id 3 0 z
              else if shapeMeets z t = false then complete c.id 0x10 0 z
              else if ∃ l ∈ t.legs, ∃ w ∈ planWords l.parts.plan, laneAvailable z w = false then complete c.id 0x11 0 z
              else complete c.id 0 t.legs.length (installTraverse t z)))
  ∧ (∀ (t : Traverse) (u : State), (installTraverse t u).job = { u.job with trav := some t } ∧ (installTraverse t u).rmt.cache = []
      ∧ (installTraverse t u).mem = { u.mem with fillBar := false, fillImage := false } ∧ (installTraverse t u).hbm = u.hbm)
  ∧ (∀ (errs : List ReadErr) (i : Nat) (c : InCmd) (s : State), Takes s i c → c.opcode = 2 →
      let does := fun (g : State → State) => exec (.run errs) s = moving errs (fun v => .next (g (takeCmd i v))) s
      (s.job.trav = none → does fun u => complete c.id 2 0 u)
      ∧ (s.job.trav ≠ none → s.mem.fillBar = true ∨ s.mem.fill ≠ none → does fun u => complete c.id 2 0 u)
      ∧ (∀ t, s.job.trav = some t → s.mem.fillBar = false → s.mem.fill = none →
          (c.arg1 % 256 ≠ 0 ∨ c.arg2 = 0 → does fun u => complete c.id 1 0 u)
          ∧ (c.arg1 % 256 = 0 → c.arg2 ≠ 0 → c.arg0 ≠ (if s.job.valid then s.job.last else 0) → does fun u => complete c.id 0x12 0 u)
          ∧ (c.arg1 % 256 = 0 → c.arg2 ≠ 0 → c.arg0 = (if s.job.valid then s.job.last else 0) → c.arg0 + t.legs.length ≤ 0xFFFFFFFFFFFE → classUp s = true →
              does fun u => startRun c.id c.arg0 c.arg1 c.arg2 c.arg3 .run u)
          ∧ (c.arg1 % 256 = 0 → c.arg2 ≠ 0 → c.arg0 = (if s.job.valid then s.job.last else 0) → c.arg0 + t.legs.length ≤ 0xFFFFFFFFFFFE → classUp s = false →
              does fun u => complete c.id 0x15 0 u)))
  ∧ (∀ (j : Nat) (t : Traverse) (r : Run) (l : Leg) (s : State), s.job.trav = some t → s.job.run = some r → t.legs[r.first + j - 1]? = some l →
      ∃ q, (startLeg j s).job.run = some q ∧ q.j = j ∧ q.phase = .leg ∧ q.legStart = s.aon ∧ q.overdue = 0 ∧ q.cmd = r.cmd
        ∧ ∀ b, b ∈ q.arrived ↔ b < 256 ∧ tasksOf t l b = [])
  ∧ (∀ (i : Nat) (c : InCmd) (s : State), Takes s i c → c.opcode = 0x0A →
      (c.arg0 = 0 ∨ c.arg0 = s.job.tag → exec .fenceJob s = .next (complete c.id 0 0 (fenceJob 0x14 s.job.last (takeCmd i s))))
      ∧ (c.arg0 ≠ 0 → c.arg0 ≠ s.job.tag → exec .fenceJob s = .next (complete c.id 1 0 (takeCmd i s))))
  ∧ (∀ (st v : Nat) (s : State), let t := fenceJob st v s
      t.job.tag = 0 ∧ t.job.key = 0 ∧ t.job.last = 0 ∧ t.job.valid = false ∧ t.job.stage = [] ∧ t.job.digest = [] ∧ t.job.reached = []
      ∧ t.mem.fence = [] ∧ t.mem.fillBar = false ∧ t.job = (endJob st v s).job)

/-- A leg that is done reaches its station, a closed one waits for the drain, and markers and overdue legs are told. When every condition of R74 holds, STATION_REACH seals the leg, and the device passes an open station or sends ARRIVED at a closed one and waits in step 4; nothing happens before. At a station where nothing that names it is under way step 8 follows, and otherwise the step waits. ARRIVED_REPEAT sends ARRIVED again after 1 ms without DRAIN_CHECK. DRAIN_CHECK of the station and job asks for the drain, DRAINED answers once every count is zero, and SWAP passes the station; a SWAP of a station that is past is answered with its REACHED marker as it was sent. A marker is recorded under its device. LEG_OVERDUE after a further whole PERIOD raises the event, tells the fabric manager in SERVICE mode and counts the period. A message with a bad body is counted and has no other effect. The station record has 256 bytes, with the station first and 2^63 plus the station last. Which tag a repeated SWAP may name, and that LEG_OVERDUE has no class, are the model's readings (logs 111 and 22). -/
def Obligations.Stations : Prop :=
  (∀ (errs : List ReadErr) (r : Run) (s : State),
      let u := noteUnread errs s
      u.job.run = some r → r.phase ≠ .atStation → legRuns u = true → legDone u = true →
      (stationClosed u (r.base + r.j) = true →
        exec (.stationReach errs) s = meeting errs (fun v => .next (sendArrived (r.base + r.j) (sealLeg true r v))) u)
      ∧ (stationClosed u (r.base + r.j) = false →
        exec (.stationReach errs) s = meeting errs (fun v => .next (passStation (r.base + r.j) (sealLeg false r v))) u))
  ∧ (∀ (r : Run) (s : State), s.job.run = some r → r.phase ≠ .atStation → legDone s = false → exec (.stationReach []) s = .next s)
  ∧ (∀ (r : Run) (s : State), s.job.run = some r → r.phase = .atStation →
      (stationBusy s (r.base + r.j) = false → exec (.stationReach []) s = .next (stepEight (r.j + 1) s))
      ∧ (stationBusy s (r.base + r.j) = true → exec (.stationReach []) s = .next s))
  ∧ (∀ (closed : Bool) (r : Run) (s : State), ∃ q, (sealLeg closed r s).job.run = some q
      ∧ q.phase = (if closed then .closedWait else .atStation) ∧ q.sealClosed = closed ∧ q.sealAon = s.aon - r.legStart ∧ q.sealTag = s.job.tag
      ∧ q.sealEnergy = s.pwr.jobPj / 1000000 ∧ q.j = r.j ∧ (sealLeg closed r s).job.liveDigest = [])
  ∧ (∀ (r : Run) (s : State), s.job.run = some r → r.phase = .closedWait → r.drainSeen = false → r.arrivedAt + 50000 ≤ s.aon →
      exec .arrivedRepeat s = .next (sendArrived (r.base + r.j) s))
  ∧ (∀ (c : Carried) (rest : List Carried) (r : Run) (s : State), Message s 0x11 c rest →
      let b := c.pkt.payload.drop 8
      let u := s.modFab fun f => { f with mgtIn := rest }
      (drainOk b = false → exec .drainCheck s = .next (fabCount 0 u))
      ∧ (drainOk b = true → u.job.run = some r → r.phase = .closedWait → field b 0 6 = r.base + r.j → field b 8 4 = u.job.tag → u.mem.shadow = none →
          exec .drainCheck s = .next { u with job := { u.job with run := some { r with drainAsked := true, drainSeen := true } } }))
  ∧ (∀ (r : Run) (s : State), s.job.run = some r → r.phase = .closedWait → r.drainAsked = true → drainEmpty s = true →
      (∀ k ∈ s.mem.ckpts, k.station ≠ r.base + r.j) →
      let m := markerBytes (r.base + r.j) true 3 s.job.tag s
      exec .drained s = .next (sendFm 0x10 m { s with job := { s.job with run := some { r with drainAsked := false }, marker := m } }))
  ∧ (∀ (r : Run) (s : State), s.job.run = some r → drainEmpty s = false → exec .drained s = .next s)
  ∧ (∀ (errs : List ReadErr) (c : Carried) (rest : List Carried) (s : State), Message s 0x12 c rest →
      let b := c.pkt.payload.drop 8
      let does := fun (g : State → State) =>
        exec (.swap errs) s = moving errs (fun v => .next (g (v.modFab fun f => { f with mgtIn := rest }))) s
      (drainOk b = false → does fun u => fabCount 0 u)
      ∧ (drainOk b = true → swapDue s (field b 0 6) = true → field b 8 4 ≠ s.job.tag → does fun u => u)
      ∧ (drainOk b = true → swapDue s (field b 0 6) = false → s.job.reached.get [] (field b 0 6) = [] → does fun u => u)
      ∧ (∀ r, drainOk b = true → field b 8 4 = s.job.tag → s.job.run = some r → r.phase = .closedWait → field b 0 6 = r.base + r.j → s.mem.shadow = none →
          does fun u => passStation (r.base + r.j) u)
      ∧ (∀ m, drainOk b = true → swapDue s (field b 0 6) = false → s.job.reached.get [] (field b 0 6) = m → m ≠ [] →
          field b 8 4 = s.job.tag ∨ field b 8 4 = field m 8 4 → does fun u => tellReached m u))
  ∧ (∀ (m : List Byte) (s : State), s.mem.role ≠ 1 → tellReached m s = sendFm 0x10 m s)
  ∧ (∀ (m : List Byte) (s : State), (∃ t, sendReached true m s = tellReached m t ∧ t.job.reached.get [] (field m 0 6) = m))
  ∧ (∀ (c : Carried) (rest : List Carried) (s : State), Message s 0x10 c rest →
      let b := c.pkt.payload.drop 8
      let u := s.modFab fun f => { f with mgtIn := rest }
      (markerOk b = true → exec .stationMarker s = .next { u with fab := { u.fab with marker := u.fab.marker.set [] (field b 12 2) (slice b 0 16) } })
      ∧ (markerOk b = false → exec .stationMarker s = .next (fabCount 0 u)))
  ∧ (∀ (r : Run) (s : State), s.job.run = some r → r.phase = .leg ∨ r.phase = .closedWait → (r.overdue + 1) * (50000 * s.job.wdog) ≤ s.aon - r.legStart →
      let v := raiseEvent 0x20 0 (overdueBody r (r.overdue + 1) s) { s with job := { s.job with run := some { r with overdue := r.overdue + 1 } } }
      exec .legOverdue s = .next (if s.fab.recovery then v else sendFm 0x13 (overdueBody r (r.overdue + 1) s) v))
  ∧ (∀ (n flags settings : Nat) (r : Run) (s : State), r.sealDigest.length = 4 → r.sealDet.length = 4 → n < 2 ^ 48 →
      let b := recordBytes n flags settings r s
      b.length = 256 ∧ field b 0 6 = n ∧ field b 248 8 = n + 2 ^ 63)

/-- Checkpoints wait for their station, fills read a copy, and BACKSIGHT starts a shadow from a filled image. CHECKPOINT_OUT with a valid shape and ranges for a station ahead waits for it; with an operand out of its range it completes with 1, for a station that is passed with 0x20, with an unreadable list with 4 and where it needs a lost region with 0x15. CHECKPOINT_RUN at its station starts the copy with a zero word at the start of the copy space; with an image at an open station it completes with 1. A request of it that fails ends it with DMA_ERROR, and the last one completes it with the digest in VALUE. FILL_IN in READY without another fill, with region 0 in service, asks for the first 64 bytes of the copy; with region 0 lost it completes with 0x15, in another state or beside another fill with 2, and with a bad operand with 1. A fill whose digests agree completes with the digest, and one with an image then stands at the station of the copy, and one whose digests differ ends with 0x30 and VALUE 4 and bars RUN. BACKSIGHT in READY from a completed fill with image for the station the device stands at starts the shadow; with a bad operand it completes with 1, and without such a fill with 2. What a failed request does to a checkpoint, and the order of these checks, are the model's readings (logs 76 and 79). -/
def Obligations.CheckpointsAndFills : Prop :=
  (∀ (i : Nat) (c : InCmd) (s : State), Takes s i c → c.opcode = 7 →
      let count := c.arg3 % 2 ^ 16
      let image := bit c.arg3 16
      let rs := rangeList (s.hostMem.readN c.arg0 (16 * count)) count
      (c.arg0 % 64 ≠ 0 ∨ 2 ^ 48 ≤ c.arg1 ∨ c.arg2 % 4096 ≠ 0 ∨ count = 0 ∨ 1024 < count ∨ c.arg4 ≠ 0 →
        exec .checkpointOut s = .next (complete c.id 1 0 (takeCmd i s)))
      ∧ (c.arg0 % 64 = 0 → c.arg1 < 2 ^ 48 → bits c.arg2 40 38 = 0 → c.arg2 % 4096 = 0 → 1 ≤ count → count ≤ 1024 → c.arg3 < 2 ^ 17 → c.arg4 = 0 →
        (stationPassed s c.arg1 = true → exec .checkpointOut s = .next (complete c.id 0x20 0 (takeCmd i s)))
        ∧ (stationPassed s c.arg1 = false → hostReadFails s c.arg0 (16 * count) = true → exec .checkpointOut s = .next (complete c.id 4 0 (takeCmd i s)))
        ∧ (stationPassed s c.arg1 = false → hostReadFails s c.arg0 (16 * count) = false → rangesOk s rs = true → image = false ∨ s.job.run = none → coreLost s rs image = true →
            exec .checkpointOut s = .next (complete c.id 0x15 0 (takeCmd i s)))
        ∧ (stationPassed s c.arg1 = false → hostReadFails s c.arg0 (16 * count) = false → rangesOk s rs = true → image = false ∨ s.job.run = none →
            coreLost s rs image = false →
            exec .checkpointOut s = .next ((takeCmd i s).modMem fun m =>
              { m with ckpts := m.ckpts ++ [{ cmd := c.id, station := c.arg1, addr := c.arg2, list := rs, image := image }] }))))
  ∧ (∀ (id : Nat) (errs : List ReadErr) (k : Ckpt) (s : State), ckptOf s id = some k → k.phase = 0 → ckptTurn s = true → k.station = runStation s →
      (k.image = true → stationClosed s k.station = false → exec (.checkpointRun id errs) s = meeting errs (fun v => .next (leaveStation (endCkpt id 1 0 v))) s)
      ∧ (k.image = false ∨ stationClosed s k.station = true → rangesOk s k.list = true →
          (coreLost s k.list k.image = true → exec (.checkpointRun id errs) s = meeting errs (fun v => .next (leaveStation (endCkpt id 0x15 0 v))) s)
          ∧ (coreLost s k.list k.image = false →
              exec (.checkpointRun id errs) s = meeting errs (fun v => .next (leaveStation
                (settleCore (coreRequest id 6 s.job.tag 0x11 k.addr (zeros 4) (v.modCkpt id fun k => { k with phase := 1 }))))) s)))
  ∧ (∀ (id o : Nat) (k : Ckpt) (s : State), ckptOf s id = some k →
      (o ≠ 0 → ckptReply id o s = endCkpt id 4 0 s) ∧ (k.phase = 7 → ckptReply id 0 s = endCkpt id 0 k.digest s))
  ∧ (∀ (i : Nat) (c : InCmd) (s : State), Takes s i c → c.opcode = 8 →
      let f : Fill := { cmd := c.id, addr := c.arg0, tag := c.arg1, want := c.arg2, key := fillKey s, blocks := s.blks.blk, tables := s.rmt }
      (s.dev ≠ .ready ∨ s.mem.fill ≠ none → exec .fillIn s = .next (settleCore (complete c.id 2 0 (takeCmd i s))))
      ∧ (s.dev = .ready → s.mem.fill = none → bits c.arg0 40 38 ≠ 0 ∨ c.arg0 % 4096 ≠ 0 ∨ 2 ^ 32 ≤ c.arg1 ∨ c.arg3 ≠ 0 ∨ c.arg4 ≠ 0 →
          exec .fillIn s = .next (settleCore (complete c.id 1 0 (takeCmd i s))))
      ∧ (s.dev = .ready → s.mem.fill = none → bits c.arg0 40 38 = 0 → c.arg0 % 4096 = 0 → c.arg1 < 2 ^ 32 → c.arg3 = 0 → c.arg4 = 0 →
          regionUp s 0 = false → exec .fillIn s = .next (settleCore (complete c.id 0x15 0 (takeCmd i s))))
      ∧ (s.dev = .ready → s.mem.fill = none → bits c.arg0 40 38 = 0 → c.arg0 % 4096 = 0 → c.arg1 < 2 ^ 32 → c.arg3 = 0 → c.arg4 = 0 →
          regionUp s 0 = true → exec .fillIn s = .next (settleCore (coreRequest c.id 5 c.arg1 0x10 c.arg0 (leBytes 8 64) ((takeCmd i s).modMem fun m =>
            { m with fill := some f, fillState := 1, fillCause := 0, fillStation := 0, fillImage := false })))))
  ∧ (∀ (f : Fill) (s : State), s.mem.fill = some f →
      (f.digest = f.want → f.digest = f.hdrDigest →
        finishFill s = complete f.cmd 0 f.digest ((if f.image then { s with job := { s.job with last := f.station, valid := true } } else s).modMem fun m =>
        { m with fill := none, fillState := 2, fillCause := 0, fillStation := f.station, fillImage := f.image, fillBar := false }))
      ∧ (f.digest ≠ f.want ∨ f.digest ≠ f.hdrDigest → finishFill s = failFill 0x30 4 4 s ∧ (finishFill s).mem.fillBar = true
          ∧ (finishFill s).mem.fillState = 3 ∧ (finishFill s).job.valid = false))
  ∧ (∀ (errs : List ReadErr) (i : Nat) (c : InCmd) (s : State), Takes s i c → c.opcode = 9 →
      let does := fun (g : State → State) => exec (.backsight errs) s = moving errs (fun v => .next (g (takeCmd i v))) s
      (s.job.trav = none ∨ s.dev ≠ .ready ∨ filledHere s = false → does fun u => complete c.id 2 0 u)
      ∧ (∀ t, s.job.trav = some t → s.dev = .ready → filledHere s = true →
          (backsightOk s c = false → does fun u => complete c.id 1 0 u)
          ∧ (backsightOk s c = true → classUp s = false → does fun u => complete c.id 0x15 0 u)
          ∧ (backsightOk s c = true → classUp s = true → does fun u => startShadow c t.legs.length u)))

/-- Parking and unparking, and the resets of a region, a block and a port. PARK outside RUN and BACKSIGHT starts at once, and otherwise waits for a station. PARK_COMPLETE stops every PLL, puts the stacks into self-refresh, drops VCORE, enters BIVOUAC and completes the commands with the last station in VALUE. UNPARK in another state completes OK at once, in BIVOUAC with a ration below the floor with 0x32, and otherwise waits; UNPARK_COMPLETE returns to the state held before at ration rung 5. RESET_REGION of a region that is RESETTING or in TEST completes with 0x15; otherwise the region is RESETTING, its blocks hold nothing (that they start from zero is the model's choice, log 88), and where its NCLK runs its stacks go into self-refresh and their contents are kept. RESET_REGION_COMPLETE, once both engines of the region have started, makes it UP with no traverse loaded, with every line of a region that was not kept zero; before that it does nothing. RESET_BLOCK of a logical block without a physical one completes with 1, and of one that runs a task with 3; otherwise the block is empty, its remote operations are gone and it issues nothing, and RESET_BLOCK_COMPLETE completes the command. RESET_PORT starts the port's positions anew and completes. -/
def Obligations.ParkingAndResets : Prop :=
  (∀ (i : Nat) (c : InCmd) (s : State), Takes s i c → c.opcode = 0x0D →
      let v := (takeCmd i s).modPwr fun p => { p with parkCmds := p.parkCmds ++ [c.id] }
      (s.dev = .run ∨ s.dev = .backsight → exec .park s = .next (v.modPwr fun p => { p with parkPending := true }))
      ∧ (s.dev ≠ .run → s.dev ≠ .backsight → exec .park s = .next (startPark v)
          ∧ (startPark v).pwr.parking = true ∧ (startPark v).pwr.clk = [] ∧ (startPark v).pwr.want = []))
  ∧ (∀ (errs : List ReadErr) (s : State), s.pwr.parking = true → LeadsTo (exec (.parkComplete errs) s) fun t => t.dev = .bivouac ∧ t.pwr.parking = false ∧ t.pwr.parkedFrom = some s.dev
      ∧ t.pwr.parkCmds = [] ∧ t.pins.vcore = false ∧ (∀ k, k < 4 → t.hbm.selfRefresh.get false k = true) ∧ (∀ r, r < 4 → (regPwr t r).pll = false))
  ∧ (∀ (i : Nat) (c : InCmd) (s : State), Takes s i c → c.opcode = 0x0E →
      (s.dev ≠ .bivouac → exec .unpark s = .next (complete c.id 0 0 (takeCmd i s)))
      ∧ (s.dev = .bivouac → s.pwr.forceMw < s.pwr.floorMw → exec .unpark s = .next (complete c.id 0x32 0 (takeCmd i s)))
      ∧ (s.dev = .bivouac → s.pwr.floorMw ≤ s.pwr.forceMw →
          exec .unpark s = .next ((takeCmd i s).modPwr fun p => { p with unparkCmds := p.unparkCmds ++ [c.id] })))
  ∧ (∀ (errs : List ReadErr) (s : State), s.dev = .bivouac → s.pwr.unparkCmds ≠ [] → s.job.run = none → LeadsTo (exec (.unparkComplete errs) s) fun t =>
      t.dev = s.pwr.parkedFrom.getD .ready ∧ t.pwr.rationRung = 5 ∧ t.pwr.unparkCmds = [] ∧ t.pwr.parkedFrom = none ∧ t.pins.vcore = true
        ∧ t.hbm.selfRefresh = [] ∧ ∀ r, r < 4 → regionUp s r = true → (regPwr t r).pll = true)
  ∧ (∀ (errs : List ReadErr) (i : Nat) (c : InCmd) (s : State), Takes s i c → c.opcode = 0x0C → c.arg0 < 4 →
      (regionMode s c.arg0 = .resetting ∨ regionMode s c.arg0 = .test →
        exec (.resetRegion errs) s = meeting errs (fun v => .next (complete c.id 0x15 0 (takeCmd i v))) s)
      ∧ (regionMode s c.arg0 ≠ .resetting → regionMode s c.arg0 ≠ .test → LeadsTo (exec (.resetRegion errs) s) fun t =>
          regionMode t c.arg0 = .resetting ∧ (regionAt t c.arg0).cmd = some c.id ∧ (∀ p, p / 68 = c.arg0 → blkOf t p = {})
            ∧ (regionAt t c.arg0).keep = (regPwr s c.arg0).nclk
            ∧ t.hbm.selfRefresh.get false c.arg0 = ((regPwr s c.arg0).nclk || s.hbm.selfRefresh.get false c.arg0)))
  ∧ (∀ (r : Fin 4) (un : List (Fin 64)) (s : State), regionMode s r = .resetting → (engineOf s (2 * r)).st = 0 ∨ (engineOf s (2 * r + 1)).st = 0 →
      exec (.resetRegionComplete r un) s = .next s)
  ∧ (∀ (r : Fin 4) (un : List (Fin 64)) (s : State), regionMode s r = .resetting → (engineOf s (2 * r)).st ≠ 0 → (engineOf s (2 * r + 1)).st ≠ 0 →
      let t := bringBack r (regionAt s r).keep (un.map fun c => c.val) s
      (∀ id, (regionAt s r).cmd = some id → exec (.resetRegionComplete r un) s = .next (complete id 0 0 t))
      ∧ ((regionAt s r).cmd = none → exec (.resetRegionComplete r un) s = .next t)
      ∧ regionMode t r = .up ∧ t.job.trav = none ∧ ((regionAt s r).keep = false → ∀ x ∈ t.hbm.dram, x.1 / 2 ^ 37 ≠ r.val))
  ∧ (∀ (i : Nat) (c : InCmd) (s : State), Takes s i c → c.opcode = 0x11 →
      (physOf s c.arg0 = none → exec .resetBlock s = .next (complete c.id 1 0 (takeCmd i s)))
      ∧ (∀ p, physOf s c.arg0 = some p →
          (regionUp s (p / 68) = false → exec .resetBlock s = .next (complete c.id 0x15 0 (takeCmd i s)))
          ∧ (regionUp s (p / 68) = true → runInProgress s = true → (blkOf s p).halted = false → exec .resetBlock s = .next (complete c.id 3 0 (takeCmd i s)))
          ∧ (regionUp s (p / 68) = true → runInProgress s = false ∨ (blkOf s p).halted = true →
              exec .resetBlock s = .next (((dropBlock p (takeCmd i s)).modBlk p fun _ => { halted := true }).modFlt fun f => { f with spUnc := f.spUnc.set 0 p 0 }))))
  ∧ (∀ (b : Fin 256) (cols : List (Fin 132)) (failed : Bool) (c : InCmd) (p : Nat) (s : State),
      s.host.cmds.find? (fun c => c.opcode == 0x11 && c.arg0 == b.val) = some c → physOf s b = some p →
      let u := cols.foldl (fun s k => columnFails p k s) s
      exec (.resetBlockComplete b cols failed) s = .next (complete c.id 0 0 (if failed then failBlock p none u else u)))
  ∧ (∀ (i : Nat) (c : InCmd) (s : State), Takes s i c → c.opcode = 0x12 →
      (regionUp s (c.arg0 / 4) = false → exec .resetPort s = .next (complete c.id 0x15 0 (takeCmd i s)))
      ∧ (regionUp s (c.arg0 / 4) = true → ∃ v, exec .resetPort s = .next (complete c.id 0 0 (startPort c.arg0 v))
          ∧ (∀ k, k / 34 = c.arg0 → peerAt v k = {}) ∧ v.fab.peer = s.fab.peer.keep (fun k _ => decide (k / 34 ≠ c.arg0))))

/-- Test modes take selected regions out of service and back; lost clocks and the comb's status are noted. A write of TEST_CTRL with START, by any of the seven rows, in READY without a job in RECOVERY mode and with no test under way sets BUSY and moves every selected region but one that is being reset (log 136) to TEST with an empty result; where a condition fails it sets REFUSED and starts nothing; without START it sets PARAM, REGIONS and MODE. A write that does not reach the device does nothing. TEST_END of a test over no region clears BUSY; in every other case each region in TEST is UP afterwards with its result done, and what the test found of it is its result. CLOCK_MONITOR_WINDOW with the on-module oscillator stopped powers the device down; with every count on target it notes nothing but the window, after which each clock is judged whole; the loss of a region's clock, in service or in TEST, stops that clock and makes the region LOST with cause 1; the loss of the fabric reference takes the device to FAULT without engines; that of the PCIe reference takes the link down. COMB_IBI reads the source's model code and its two status bits (the address and the interface version of the source stand from then on: log 131). -/
def Obligations.TestModesAndClocks : Prop :=
  let rows : List (W64 → Instr) := [.d2dNear, .d2dFar, .oeElec, .oeDriver, .oeOptical, .blockBist, .hbmMarch]
  (∀ (row : W64 → Instr) (v : W64) (s : State), row ∈ rows → hostWrites s false = true →
      let mode := bits v.toNat 3 0
      let f := { s.flt with
        testParam := bits v.toNat 63 32, testRegions := bits v.toNat 11 8, testMode := mode, testRefused := s.flt.testRefused && !(bit v.toNat 30) }
      (bit v.toNat 31 = false → exec (row v) s = .next { s with flt := f })
      ∧ (bit v.toNat 31 = true → testMay s mode (bits v.toNat 63 32) = false → exec (row v) s = .next { s with flt := { f with testRefused := true } })
      ∧ (bit v.toNat 31 = true → testMay s mode (bits v.toNat 63 32) = true → exec (row v) s
          = .next (applyLoss ((testRegionsOf (bits v.toNat 11 8)).foldl (fun u r => beginTest mode r u) { s with flt := { f with testBusy := true } }))))
  ∧ (∀ (row : W64 → Instr) (v : W64) (s : State), row ∈ rows → hostWrites s false = false → exec (row v) s = .next s)
  ∧ (∀ (mode r : Nat) (s : State), regionMode s r ≠ .resetting → regionMode (beginTest mode r s) r = .test ∧ (beginTest mode r s).flt.testResult.get {} r = { mode := mode }
      ∧ ∀ k, k ≠ r → regionMode (beginTest mode r s) k = regionMode s k)
  ∧ (∀ s : State, s.dev = .ready → s.job.tag = 0 → s.fab.recovery = true → s.flt.testBusy = false →
      testMay s 6 0 = true ∧ testMay s 7 0 = true ∧ testMay s 3 0 = true ∧ testMay s 4 0 = true ∧ testMay s 1 1 = true ∧ testMay s 2 60000 = true
        ∧ testMay s 5 1000 = true ∧ testMay s 0 0 = false ∧ testMay s 8 0 = false ∧ testMay s 1 0 = false ∧ testMay s 1 60001 = false)
  ∧ (∀ s : State, s.flt.testBusy = true → (∀ r, r < 4 → regionMode s r ≠ .test) → exec (.testEnd []) s = .next { s with flt := { s.flt with testBusy := false } })
  ∧ (∀ s : State, s.flt.testBusy = true → LeadsTo (exec (.testEnd []) s) fun t => t.flt.testBusy = false
      ∧ ∀ r, r < 4 → regionMode s r = .test → regionMode t r = .up ∧ (t.flt.testResult.get {} r).done = true ∧ (t.flt.testResult.get {} r).pass = true)
  ∧ (∀ (f : TestFind) (s : State), s.flt.testBusy = true → regionMode s f.region = .test → LeadsTo (exec (.testEnd [f]) s) fun t =>
      (t.flt.testResult.get {} f.region).failed = min 65535 f.failedUnits ∧ (t.flt.testResult.get {} f.region).errors = min 65535 f.errors
        ∧ ((t.flt.testResult.get {} f.region).pass = true ↔ f.failedUnits = 0))
  ∧ (∀ (m : ClockMeas) (s : State), s.dev ≠ .off →
      (m.aonStopped = true → exec (.clockMonitorWindow m) s = .next (powerDown s))
      ∧ (m.aonStopped = false → (∀ r, r < 4 → clockLost s m r = false) → offTarget m.pcieRef 10000 = false → offTarget m.fabRef 15625 = false →
          exec (.clockMonitorWindow m) s = .next (([0, 1, 2, 3].foldl (fun u r => judgeClocks r false false u) s).modRing fun g => { g with refLost := false }))
      ∧ (∀ r : Fin 4, m.aonStopped = false → clockLost s m r = true → (∀ k, k < 4 → k ≠ r.val → clockLost s m k = false) → regionMode s r = .up ∨ regionMode s r = .test →
          offTarget m.pcieRef 10000 = false → offTarget m.fabRef 15625 = false →
          LeadsTo (exec (.clockMonitorWindow m) s) fun t => regionMode t r = .lost ∧ (regionAt t r).cause = 1 ∧ t.ring.refLost = false)
      ∧ (m.aonStopped = false → offTarget m.fabRef 15625 = true → s.ring.refLost = false →
          LeadsTo (exec (.clockMonitorWindow m) s) fun t => t.dev = .fault ∧ t.ring.refLost = true ∧ t.oe.eng = [])
      ∧ (m.aonStopped = false → offTarget m.pcieRef 10000 = true → LeadsTo (exec (.clockMonitorWindow m) s) fun t => t.host.linkUp = false))
  ∧ (∀ (r : Nat) (b n : Bool) (s : State), judgeClocks r b n s = s.modReg r fun g => { g with
      skip := false, fresh := false, pll := g.pll && !b, nclk := g.nclk && !n, safe := g.safe && !b, changing := g.changing && !b })
  ∧ (∀ (r cause : Nat) (s : State), regionMode s r ≠ .lost → regionMode s r ≠ .resetting → ∃ v,
      loseRegion r cause s = tellLoss (some r) cause 0xFF (applyLoss (portsDark r v)) ∧ regionMode v r = .lost ∧ (regionAt v r).cause = cause
        ∧ (∀ k, k ≠ r → regionAt v k = regionAt s k))
  ∧ (∀ (i : W16) (b : Byte) (s : State), s.dev ≠ .off → exec (.combIbi i b) s = .next { s with oe := { s.oe with
      combAddr := some 0x5C, combIfver := 1, combIdent := i.toNat, combStatus := b.toNat % 4 } })

/-- Each remote descriptor holds what it writes, counts, and begins its operation with numbered packets. In a bundle that issues, with its descriptors in order, a remote descriptor whose length word, where it has one, may be read, and whose segments may be written and, for RSTORE, read: behind what the other slots do, the segments of its result and status word are held in FILLING, the descriptor is in progress under a number of its own, the operations of R60 are counted, the operation of its kind begins with the smaller of the length word and LENGTH, and the bundle is passed. A descriptor that STRICT forbids halts the block and ends its transfers without a byte moved, and one that is not accepted halts it with REMOTE_DESC. A range is cut at every 4,096 bytes into pieces that follow each other and make it up. A plain load or store of one piece with a tag free sends one request with the address, generation, channel, next sequence number and job tag, and waits for its reply. That a bundle's commands are issued together is the model's reading (log 56). -/
def Obligations.RemoteDescriptors : Prop :=
  let rows : List (Nat × (Fin 256 → HwErr → Instr)) :=
    [(5, .rload), (6, .rstore), (7, .ratomic), (8, .pegClaimDescriptor), (9, .notify), (10, .inval), (11, .fenceDescriptor)]
  let start := fun (d : RDesc) (o : RemOp) (bytes : List Byte) (u : State) =>
    match d.kind with
    | 5 => beginLoad o d u
    | 6 => beginStore o d bytes u
    | 7 => beginAtomic o d u
    | 8 => beginClaim o d u
    | 9 => beginNotify o d u
    | 10 => placeOp o (cacheDrop d.remote d.len u)
    | _ => beginFence o d u
  let taken := fun (p : Nat) (d : RDesc) (n post : Nat) (s : State) =>
    (({ s with blks := { s.blks with nextId := s.blks.nextId + 1 } } : State).modBlk p fun k =>
      { k with dma := k.dma ++ [{ id := s.blks.nextId, kind := d.kind, desc := n, post := post, segs := remoteDst d }] }).modRmt fun m =>
        { m with serial := m.serial + 1 }
  (∀ (kind : Nat) (row : Fin 256 → HwErr → Instr) (b : Fin 256) (p : Nat) (bv : BitVec 256) (s u : State) (l : SlotReads), (kind, row) ∈ rows →
      Issued s b p bv u l → slotValid bv.toNat 3 = true → field l.dma 0 1 = kind →
      let w := bv.toNat
      let v := vecPart p w l (arrPart p w l u)
      let x := slotWord w 3
      let k := blkOf v p
      let d := rdesc l.dma
      let n := bits x 62 55
      let len := if bit d.flags 4 then min (leNat (k.sp.readN d.lenAddr 4)) d.len else d.len
      let held := v.modBlk p (modSegs (remoteDst d) SegSt.hold)
      (v.job.strict = true → d.orderFree = true →
          LeadsTo (exec (row b .none) s) fun t => (blkOf t p).halted = true ∧ (blkOf t p).dma = [] ∧ (blkOf t p).sp = k.sp)
      ∧ (v.job.strict = false ∨ d.orderFree = false → (bit d.flags 4 = true → firstFault (readFault k) (segsOf d.lenAddr 4) = none) →
          firstFault (writeFault k) (remoteDst d) = none → (kind = 6 → firstFault (readFault (blkOf held p)) (segsOf d.loc len) = none) →
          exec (row b .none) s = .next (passBundle p b (start d (newOp v.blks.nextId b p n v.rmt.serial d len) (k.sp.readN d.loc len)
            (countLegOp (b.val / 64) d (taken p d n (bits x 54 49) held)))))
      ∧ (v.job.strict = false ∨ d.orderFree = false → bit d.flags 4 = false → firstFault (writeFault k) (remoteDst d) = none →
          ∀ tag, (kind = 5 ∧ bit d.flags 7 = false ∧ bit d.flags 2 = false) ∨ (kind = 6 ∧ d.flags = 0) → 1 ≤ d.len → d.remote % 4096 + d.len ≤ 4096 →
          (kind = 6 → firstFault (readFault (blkOf held p)) (segsOf d.loc d.len) = none) →
          freeTag v (b.val / 64) = some tag → v.fab.number ≠ some (addrDevice d.remote) →
          chanKey (addrDevice d.remote) (64 * (b.val / 64) + d.ch) ∉ v.rmt.full →
          LeadsTo (exec (row b .none) s) fun t => ∃ q, reqOf t tag = some q ∧ q.wait = .reply ∧ q.op = v.blks.nextId ∧ q.firstAt = v.aon
            ∧ q.pkt = { type := if kind = 5 then 0x10 else 0x11, base := 1, dst := addrDevice d.remote, jobTag := v.job.tag, addr := d.remote, tag := tag,
                        gen := d.gen, seq := v.rmt.seq.get 0 (chanKey (addrDevice d.remote) (64 * (b.val / 64) + d.ch)), ch := 64 * (b.val / 64) + d.ch,
                        payload := if kind = 5 then leBytes 8 d.len else k.sp.readN d.loc d.len }))
  ∧ (∀ (kind : Nat) (row : Fin 256 → HwErr → Instr) (b : Fin 256) (p : Nat) (bv : BitVec 256) (raw : List Byte) (s : State), (kind, row) ∈ rows →
      InTurn s b p bv → slotValid bv.toNat 0 = false → slotValid bv.toNat 1 = false → slotValid bv.toNat 2 = false → slotValid bv.toNat 3 = true →
      bits (slotWord bv.toNat 3) 48 0 = 0 →
      readDesc (blkOf s p) 2 (bits (slotWord bv.toNat 3) 62 55) = .ok raw → field raw 0 1 = kind → rdescOk raw = false →
      exec (row b .none) s = .next (haltBlock p 0x211 (bits (slotWord bv.toNat 3) 62 55) 0 s))
  ∧ (∀ a n : Nat, ((pieces a n).map fun x => x.2.2).sum = n
      ∧ (∀ x ∈ pieces a n, 1 ≤ x.2.2 ∧ x.1 % 4096 + x.2.2 ≤ 4096 ∧ x.1 = a + x.2.1)
      ∧ (pieces a n).IsChain fun x y => y.1 = x.1 + x.2.2)
  ∧ (∀ (r : Nat) (d : RDesc) (s : State), d.kind = 5 → bit d.flags 0 = false →
      ((countLegOp r d s).job.liveDet.get {} r).loadUnord = min 0xFFFFFF ((s.job.liveDet.get {} r).loadUnord + 1))

/-- Requests wait for their turn, are sent again, and end; a remote descriptor completes with its status word. STORE_FLAG_SEND and FENCE_SECOND_STAGE go on once no earlier request that R338 or R351 names is open, a PEG_DONE still to be sent among them, and wait otherwise. PEG_DONE_SEND of a descriptor whose packets are final sends PEG_DONE with the bytes counted under the peg, once nothing else under the peg is open, and releases the grant; a descriptor that another one of its peg follows has nothing more to send. RETRY_ORDER_RESEND and DELAYED_RESEND send again when the channel's earlier packets are final and when 20 µs have passed. TAG_QUARANTINE_END frees a tag whose time is over. E2E_TIMEOUT sends a request again while retries are left and then treats the target as unresponsive: reported suspect in either mode and held in SERVICE; in RECOVERY ended, a load by DEAD_US_EXPIRE. REMOTE_COMPLETE writes the data and the status word, posts and lets the segments go; a load with a failed packet reads 0xFF where no data came. -/
def Obligations.RemoteProgress : Prop :=
  (∀ (id : Nat) (o : RemOp) (s : State), opOf s id = some o → o.hold = .flag →
      let before := earlier s o.serial fun _ p => p.dst == o.dst && (p.type == 0x11 || p.type == 0x13)
      (before = false → exec (.storeFlagSend id) s = .next (startTodo id (o.todo.length + 1) (s.modOp id fun o => { o with hold := .none })))
      ∧ (before = true → exec (.storeFlagSend id) s = .next s))
  ∧ (∀ (id : Nat) (o : RemOp) (s : State), opOf s id = some o → o.hold = .stage →
      let before := earlier s o.serial (fun b p => b == o.block && (o.all || p.dst == o.dst)) || pegDoneDue s o
      let out := numberAll (o.todo.map fun p => p.pkt) s
      (before = false → exec (.fenceSecondStage id) s
        = .next (startTodo id (out.1.length + 1) (out.2.modOp id fun o => { o with hold := .none, todo := out.1 })))
      ∧ (before = true → exec (.fenceSecondStage id) s = .next s))
  ∧ (∀ (id : Nat) (o : RemOp) (s : State), opOf s id = some o → o.last = true → o.doneSent = false → packetsFinal o = true →
      (pegOps s o.peg fun x => x.last && !x.doneSent && decide (o.serial < x.serial)) = true →
      exec (.pegDoneSend id) s = .next (s.modOp id fun o => { o with last := false, left := 0 }))
  ∧ (∀ (id tag : Nat) (o : RemOp) (g : Grant) (s : State), opOf s id = some o → o.id = id → o.last = true → o.doneSent = false → packetsFinal o = true →
      (pegOps s o.peg fun x => x.last && !x.doneSent && decide (o.serial < x.serial)) = false → (pegOps s o.peg fun x => !packetsFinal x) = false →
      s.rmt.grants.get none (o.peg - 1) = some g → freeTag s o.region = some tag →
      let key := o.peg - 1
      let pkt : Packet := { type := 0x15, base := 1, dst := o.dst, jobTag := s.job.tag, addr := o.dst * 2 ^ 51 + keyWindow key * 2 ^ 41,
                            gen := keyGen key, payload := leBytes 4 (keyPeg key) ++ leBytes 4 g.sent }
      let u := { s with rmt := { s.rmt with grants := s.rmt.grants.set none key none, serial := s.rmt.serial + 1 } }
      exec (.pegDoneSend id) s = .next (pumpClaims (issueReq { o with peg := 0 } { pkt := pkt, idx := 2 ^ 19, serial := s.rmt.serial + 1 } tag
        (u.modOp id fun o => { o with doneSent := true }))))
  ∧ (∀ (tag : Fin 131072) (q : Req) (s : State), reqOf s tag = some q →
      (q.wait = .delay → q.resumeAt ≤ s.aon → exec (.delayedResend tag) s = .next (sendReq tag s))
      ∧ (q.wait = .delay → s.aon < q.resumeAt → exec (.delayedResend tag) s = .next s)
      ∧ (q.wait = .order → (∀ e ∈ s.rmt.track, ∀ x, e.2 = some x → q.serial ≤ x.serial) → (∀ e ∈ s.rmt.ops, ∀ x, e.2 = some x → x.todo = []) →
          exec (.retryOrderResend tag) s = .next (sendReq tag s))
      ∧ (∀ (tag' : Nat) (x : Req), reqOf s tag' = some x → x.serial < q.serial → x.pkt.dst = q.pkt.dst → x.pkt.ch = q.pkt.ch → x.col = false →
          x.pkt.type ≠ 0x14 → x.pkt.type ≠ 0x15 → exec (.retryOrderResend tag) s = .next s))
  ∧ (∀ (tag : Nat) (q : Req) (s : State), reqOf s tag = some q →
      let u := s.modReq tag fun q => { q with wait := .reply, sentAt := s.aon }
      (isFenced s q.pkt.dst = false → sendReq tag s = originate (tag / 32768) q.pkt u) ∧ (isFenced s q.pkt.dst = true → sendReq tag s = u))
  ∧ (∀ (tag : Fin 131072) (s : State), (s.rmt.quar.get 0 tag ≠ 0 → s.rmt.quar.get 0 tag ≤ s.aon + 1 →
        exec (.tagQuarantineEnd tag) s = .next (pumpAll { s with rmt := { s.rmt with quar := s.rmt.quar.set 0 tag 0 } }))
      ∧ (s.aon + 1 < s.rmt.quar.get 0 tag → exec (.tagQuarantineEnd tag) s = .next s))
  ∧ (∀ (tag : Fin 131072) (q : Req) (s : State), reqOf s tag = some q → isFenced s q.pkt.dst = false → q.wait = .reply → orderEnded s q = false →
      (q.sentAt + 50 * s.rmt.timers.e2e ≤ s.aon → q.tries < s.rmt.timers.retries → exec (.e2eTimeout tag) s
        = .next (leaveStation (sendReq tag (rmtCount 4 (s.modReq tag fun q => { q with tries := q.tries + 1 })))))
      ∧ (q.sentAt + 50 * s.rmt.timers.e2e ≤ s.aon → s.rmt.timers.retries ≤ q.tries → exec (.e2eTimeout tag) s = .next (leaveStation (unresponsive tag s)))
      ∧ (s.aon < q.sentAt + 50 * s.rmt.timers.e2e → exec (.e2eTimeout tag) s = .next (leaveStation s)))
  ∧ (∀ (tag : Nat) (q : Req) (s : State), reqOf s tag = some q → q.col = false → isFillRead s q = false →
      let atomic := q.pkt.type == 0x13
      (s.fab.recovery = false → unresponsive tag s = sendHealth 1 q.pkt.dst (timeoutEvent q q.pkt.type tag (bitAt atomic 0)
        (s.modReq tag fun q => { q with wait := .dead })))
      ∧ (s.fab.recovery = true → q.pkt.type = 0x10 → unresponsive tag s
          = (sendHealth 1 q.pkt.dst s).modReq tag fun q => { q with wait := .dead })
      ∧ (s.fab.recovery = true → q.pkt.type ≠ 0x10 → unresponsive tag s
          = finish tag (if atomic then 0x40 else 0x42) [] (timeoutEvent q q.pkt.type tag (bitAt atomic 0 + 2) (sendHealth 1 q.pkt.dst s))))
  ∧ (∀ (tag : Fin 131072) (q : Req) (s : State), reqOf s tag = some q → s.fab.recovery = true → q.pkt.type = 0x10 → isFillRead s q = false →
      q.firstAt + 50 * s.rmt.timers.dead ≤ s.aon →
      exec (.deadUsExpire tag) s = .next (leaveStation (finish tag 0x42 [] (timeoutEvent q 0x10 tag 2 s))))
  ∧ (∀ (tag outcome : Nat) (data : List (Nat × List Byte)) (q : Req) (s : State), reqOf s tag = some q → reqOf (finishReq tag outcome data s) tag = none
      ∧ (finishReq tag outcome data s).rmt.quar.get 0 tag = (if q.pkt.type = 0x13 then s.aon + holdTime s.rmt.timers + 1 else s.rmt.quar.get 0 tag))
  ∧ (∀ (id : Nat) (o : RemOp) (s : State), opOf s id = some o →
      (opDone o = true → o.block < 272 →
        let lost := o.kind = 5 ∧ o.bad ≠ 0
        let word := leBytes 4 (match o.worst with | some (_, c) => c | none => 0) ++ leBytes 4 o.bad
        exec (.remoteComplete id) s = .next (finishDma o.block id ((outcomeRecord o (s.modBlk o.block fun k =>
          (o.data.foldl (fun (k : Block) e => k.writeSp (o.loc + e.1) e.2) (if lost then k.writeSp o.loc (List.replicate o.len 0xFF) else k)).writeSp
            o.status word)).modRmt fun m => { m with ops := m.ops.set none id none })))
      ∧ (opDone o = false → exec (.remoteComplete id) s = .next s))
  ∧ (∀ (p id : Nat) (o : DmaOp) (s : State), (blkOf s p).dma.find? (fun o => o.id == id) = some o → finishDma p id s
      = postCtr p o.post 1 (s.modBlk p fun k => { modSegs o.segs SegSt.drop k with dma := k.dma.filter fun x => x.id != id }))

/-- A request at its target is handled in its channel's order, once, with its checks, its effect and its answer. LOAD, STORE, STORE_FLAG, each of the nine ATOMICs, NOTICE and FENCE take the request at the head of the intake when it is theirs and the reply output has room, and handle it in order, all but NOTICE with the errors that its reads and flushes meet; without room nothing happens. One whose way in or out is lost is dropped. The expected number with the checks passed advances the context: a load is answered with its bytes, an atomic with the prior value, and is noted in a receipt, the others with OK after their effect. A failed check is answered, with a receipt and no effect; GEN_AHEAD, and a table without room for a receipt, do not advance. A number ahead is answered RETRY_ORDER; one behind is answered from its receipt, a load again, and otherwise DUPLICATE. A request with a bad payload or another job's tag is counted and dropped. A store to an HBM window writes its bytes. RECEIPT_EXPIRE drops receipts whose time is over, and WINDOW_DRAIN_EXPIRE closes a CLOSING window whose time is over. -/
def Obligations.TargetRequests : Prop :=
  let rows : List ((Packet → Bool) × (List ReadErr → Instr)) :=
    [(fun p => p.type == 0x10, .load), (fun p => p.type == 0x11, .store), (fun p => p.type == 0x12, .storeFlag), (fun p => p.type == 0x16, fun _ => .notice),
      (fun p => p.type == 0x17, .fence)]
    ++ ([.atomicAdd, .atomicMin, .atomicMax, .atomicAnd, .atomicOr, .atomicXor, .atomicSwap, .atomicCas, .atomicCadd] : List (List ReadErr → Instr)).zipIdx.map fun e =>
      (fun p => p.type == 0x13 && field p.payload 0 1 % 16 == e.2, e.1)
  (∀ (mine : Packet → Bool) (row : List ReadErr → Instr) (errs : List ReadErr) (c : Carried) (rest : List Carried) (s : State), (mine, row) ∈ rows →
      (row errs = .notice → errs = []) → s.fab.reqIn = c :: rest → mine c.pkt = true → targetRuns s = true → s.dev ≠ .bivouac → heldByCheckpoint s c.pkt = false →
      let u := fun v : State => admitWaiting (v.modFab fun f => { f with reqIn := rest })
      let wrap := fun g : State → State => meeting errs (fun v => .next (g v)) s
      (replySlotFree s = false → exec (row errs) s = wrap fun v => v)
      ∧ (replySlotFree s = true →
        (payloadOk c.pkt = true → c.pkt.jobTag = s.job.tag → unreachable s c = false → exec (row errs) s = wrap fun v => handleOrdered c (u v))
        ∧ (payloadOk c.pkt = true → c.pkt.jobTag = s.job.tag → unreachable s c = true → exec (row errs) s = wrap u)
        ∧ (payloadOk c.pkt = false → exec (row errs) s = wrap fun v => fabCount 0 (u v))
        ∧ (payloadOk c.pkt = true → c.pkt.jobTag ≠ s.job.tag → exec (row errs) s = wrap fun v => fabCount 2 (u v))))
  ∧ (∀ (c : Carried) (s : State),
      let p := c.pkt
      let r := targetRegion s p
      let o := checkRequest s p
      let u := setCtx p.src p.ch ((p.seq + 1) % 2 ^ 24) s
      let room := (receiptsFor s p.tag).length < 8192
      ((ctxNext s p.src p.ch = some p.seq ∨ (ctxNext s p.src p.ch = none ∧ p.seq = 0 ∧ s.rmt.ctx.length < 65536)) →
        (o = 0 → p.type = 0x10 → handleOrdered c s = answerLoad c r u)
        ∧ (o = 0 → p.type ≠ 0x10 → p.type ≠ 0x13 → handleOrdered c s = answer c r 0 (applyRequest p u).1 (applyRequest p u).2)
        ∧ (o = 0 → p.type = 0x13 → room →
            handleOrdered c s = answer c r 0 (applyAtomic p u).1 (addReceipt p 0 (applyAtomic p u).1 (applyAtomic p u).2))
        ∧ (o ≠ 0 → o ≠ 8 → room → handleOrdered c s = answer c r o 0 (addReceipt p o 0 u))
        ∧ (o ≠ 8 → o ≠ 0 ∨ p.type = 0x13 → ¬room → handleOrdered c s = answer c r 7 0 (setCtx p.src p.ch p.seq s))
        ∧ (o = 8 → handleOrdered c s = answer c r 8 0 (setCtx p.src p.ch p.seq s)))
      ∧ (ctxNext s p.src p.ch = none → p.seq ≠ 0 → handleOrdered c s = answer c r 6 0 s)
      ∧ (∀ n, ctxNext s p.src p.ch = some n → n < 2 ^ 24 → p.seq < 2 ^ 24 →
          let ahead := (p.seq + 2 ^ 24 - n) % 2 ^ 24
          (0 < ahead → ahead < 2 ^ 23 → handleOrdered c s = answer c r 6 0 s)
          ∧ (2 ^ 23 ≤ ahead → ∀ x, findReceipt s p = some x → handleOrdered c s = replyOutcome c r x.outcome x.value (rmtCount 3 s))
          ∧ (2 ^ 23 ≤ ahead → findReceipt s p = none → p.type ≠ 0x10 → handleOrdered c s = answer c r 5 0 s)
          ∧ (2 ^ 23 ≤ ahead → findReceipt s p = none → p.type = 0x10 → o = 0 → handleOrdered c s = answerLoad c r s)))
  ∧ (∀ (p : Packet) (s : State), let e := (winOf s (addrWindow p.addr)).entry
      (p.type = 0x11 ∨ p.type = 0x12 → e.kind = 1 →
        applyRequest p s = (0, writeBytes (e.base / 2 ^ 38) (e.base % 2 ^ 38 + addrOffset p.addr) p.payload s))
      ∧ (p.type = 0x16 → applyRequest p s = (0, cacheDrop p.addr (field p.payload 0 8) s)) ∧ (p.type = 0x17 → applyRequest p s = (0, flushAll s)))
  ∧ (∀ (r : Fin 4) (s : State), exec (.receiptExpire r) s = .next { s with
      rmt := { s.rmt with receipts := s.rmt.receipts.mod [] r fun rs => rs.filter fun x => decide (s.aon < x.expires) } })
  ∧ (∀ (w : Fin 1024) (s : State), ((winOf s w).st = 2 → (winOf s w).closeAt ≤ s.aon → exec (.windowDrainExpire w) s = .next (shutWindow w s))
      ∧ ((winOf s w).st ≠ 2 ∨ s.aon < (winOf s w).closeAt → exec (.windowDrainExpire w) s = .next s))

/-- An atomic's new value is the operation's, in the width of its cell. For cells of 4 and 8 bytes and every prior value in range: ADD wraps, MIN and MAX compare as two's-complement numbers, AND, OR and XOR act bit by bit, SWAP replaces, CAS replaces a cell that holds the first operand, and CADD adds in closure form, where poison, the value with its top bit alone set, absorbs the other operand and two other values add modulo 2 to the width. The new value fits the cell. -/
def Obligations.AtomicArithmetic : Prop :=
  ∀ (w old a b : Nat), w = 4 ∨ w = 8 → old < 2 ^ (8 * w) →
    let n := 8 * w
    let v := fun op => atomicValue op w old a b
    v 0 = (old + a) % 2 ^ n
    ∧ untwos n (v 1) = min (untwos n old) (untwos n a) ∧ untwos n (v 2) = max (untwos n old) (untwos n a)
    ∧ (∀ i, (v 3).testBit i = (old.testBit i && (decide (i < n) && a.testBit i)))
    ∧ (∀ i, (v 4).testBit i = (old.testBit i || (decide (i < n) && a.testBit i)))
    ∧ (∀ i, (v 5).testBit i = ((old.testBit i).xor (decide (i < n) && a.testBit i)))
    ∧ v 6 = a % 2 ^ n ∧ (v 7 = if old = a % 2 ^ n then b % 2 ^ n else old) ∧ v 8 = (if old = 2 ^ (n - 1) ∨ a % 2 ^ n = 2 ^ (n - 1) then 2 ^ (n - 1) else (old + a) % 2 ^ n)
    ∧ (∀ op, op ≤ 8 → v op < 2 ^ n)

/-- Claims are granted, granted again, parked or refused, and PEG_DONE completes the landing. PEG_CLAIM of a live window: a peg that is outstanding, free and in an OPEN window is granted to the source, and a second claim of that source gets the grant again; any other claim for a peg is parked and answered CLAIM_PARKED, and answered so again, while another source's claim for it is refused with 4. A window that is not live answers WINDOW_CLOSED. A parked device answers every claim with CLAIM_PARKED. A grant notes source and tag and takes a parked claim of that source away; another source's stays. PEG_DONE of the peg's source with as many bytes as have landed completes the landing and is answered OK; with another count a record names the peg first; a repeat of it is answered OK again, and one of another source NO_PEG. A completed landing leaves the peg not outstanding, posts its counter and readies its segments. -/
def Obligations.PegsAndClaims : Prop :=
  (∀ (c : Carried) (rest : List Carried) (s : State), s.fab.reqIn = c :: rest → targetRuns s = true → payloadOk c.pkt = true → c.pkt.jobTag = s.job.tag →
      heldByCheckpoint s c.pkt = false → s.dev = .bivouac ∨ replySlotFree s = true →
      let u := admitWaiting (s.modFab fun f => { f with reqIn := rest })
      (c.pkt.type = 0x14 → s.dev ≠ .bivouac → unreachable s c = false → exec .pegClaim s = .next (handleClaim c u))
      ∧ (c.pkt.type = 0x14 → s.dev = .bivouac → exec .pegClaim s = .next (answerClaim (claimOf c.pkt) 10 u))
      ∧ (c.pkt.type = 0x15 → s.dev ≠ .bivouac → unreachable s c = false → exec .pegDone s = .next (handleDone c u)))
  ∧ (∀ (c : Carried) (s : State),
      let p := c.pkt
      let w := addrWindow p.addr
      let n := field p.payload 0 2
      let q := pegOf s n
      (winLive s w p.gen = false → handleClaim c s = answer c 0 1 0 s ∧ handleDone c s = answer c 0 1 0 s)
      ∧ (winLive s w p.gen = true → q.out = true → q.window = w → (q.grant = none ∧ (winOf s w).st = 1) ∨ q.grant = some p.src →
          handleClaim c s = grantPeg n (claimOf p) s)
      ∧ (winLive s w p.gen = true → ¬(q.out = true ∧ q.window = w ∧ ((q.grant = none ∧ (winOf s w).st = 1) ∨ q.grant = some p.src)) →
          (q.claim = none ∨ (∃ x, q.claim = some x ∧ x.src = p.src) →
            handleClaim c s = answer c 0 10 0 (s.modPeg n fun q => { q with claim := some (claimOf p) }))
          ∧ (∀ x, q.claim = some x → x.src ≠ p.src → handleClaim c s = answer c 0 4 0 s))
      ∧ (winLive s w p.gen = true → q.out = true → q.window = w → q.grant = some p.src →
          (q.landed = field p.payload 4 4 → handleDone c s = answer c 0 0 0 (completePeg n false s))
          ∧ (q.landed ≠ field p.payload 4 4 → handleDone c s = answer c 0 0 0 (completePeg n false
              (record { level := 2, cls := 2, code := 0x30A, region := some (q.block / 68), detail := n } s))))
      ∧ (winLive s w p.gen = true → ¬(q.out = true ∧ q.window = w ∧ q.grant = some p.src) →
          ((∃ tag gen, q.done = some (p.src, tag, gen)) → handleDone c s = answer c 0 0 0 s)
          ∧ ((∀ tag gen, q.done ≠ some (p.src, tag, gen)) → handleDone c s = answer c 0 3 0 s)))
  ∧ (∀ (n : Nat) (c : Claim) (s : State), let t := grantPeg n c s
      (pegOf t n).grant = some c.src ∧ (pegOf t n).tag = c.tag ∧ (pegOf t n).claim = (pegOf s n).claim.filter (fun x => x.src != c.src) ∧ (∀ m, m ≠ n → pegOf t m = pegOf s m))
  ∧ (∀ (n : Nat) (col : Bool) (s : State), (winOf s (pegOf s n).window).st ≠ 2 →
      let q := pegOf s n
      let t := completePeg n col s
      (pegOf t n).out = false ∧ (pegOf t n).grant = none ∧ (pegOf t n).done = some (q.grant.getD 0, q.tag, q.gen)
        ∧ ctrOf (blkOf t q.block) q.ctr = (ctrOf (blkOf s q.block) q.ctr + 1) % 2 ^ 32
        ∧ (∀ i, segOf (blkOf t q.block) i = if i ∈ pegSegs q then (segOf (blkOf s q.block) i).landed else segOf (blkOf s q.block) i)
        ∧ (∀ m, m ≠ n → pegOf t m = pegOf s m) ∧ ∀ p, p ≠ q.block → blkOf t p = blkOf s p)

/-- A reply gives its request its outcome, has it wait, or is discarded. LOAD_DATA, ACK, ATOMIC_RESULT and PEG_GRANT take a reply of their type and, where it is for a request of this device, act: data of the length asked for ends the load with it at its place in the range; an outcome is taken; a fetching atomic keeps the prior value; a grant for the peg claimed releases what waits for it; a poisoned line ends a fill. A cached load asks for and fills whole lines (the model's choice, log 126). A reply of another job, or whose payload breaks its layout, is counted, and one for no request, or of a wrong length or peg, is counted and discarded. Outcome OK ends the request, DUPLICATE as OK but for an atomic as not known, RETRY_ORDER and the claim's CLAIM_PARKED have it wait, RECEIPTS_FULL and GEN_AHEAD have it wait for 20 µs, and ORDER_FULL ends it and closes its channel, where every later request that would have to be sent again ends with it (the model's reading, log 80). -/
def Obligations.Replies : Prop :=
  let taken := fun (rest : List Carried) (s : State) => s.modFab fun f => { f with rspIn := rest }
  (∀ (poison : List (Fin 64)) (c : Carried) (rest : List Carried) (tag : Nat) (q : Req) (o : RemOp) (s : State), Reply s 0x30 c rest tag → reqOf s tag = some q → opOf s q.op = some o →
      let n := bits (field q.pkt.payload 0 8) 12 0
      (c.pkt.payload.length = n → ¬(isFillRead s q = true ∧ poisonedIn poison c.pkt.payload = true) → bit (field q.pkt.payload 0 8) 13 = false →
        exec (.loadData poison) s = .next (takeOutcome tag 0 [(q.pkt.addr - o.remote, c.pkt.payload)] (taken rest s)))
      ∧ (c.pkt.payload.length = n → isFillRead s q = true → poisonedIn poison c.pkt.payload = true →
          exec (.loadData poison) s = .next (settleCore (abortFill 5 (taken rest s))))
      ∧ (c.pkt.payload.length = n → ¬(isFillRead s q = true ∧ poisonedIn poison c.pkt.payload = true) → bit (field q.pkt.payload 0 8) 13 = true → s.fab.number ≠ some q.pkt.dst → o.data = [] →
          let at' := fun i => q.pkt.addr - o.remote + 64 * i
          exec (.loadData poison) s = .next (takeOutcome tag 0 ((List.range (n / 64)).map fun i => (at' i, (slice c.pkt.payload (64 * i) 64).take (o.len - at' i)))
            (fillCache o.region q.pkt.addr c.pkt.payload (taken rest s))))
      ∧ (c.pkt.payload.length ≠ n → exec (.loadData poison) s = .next (rmtCount 5 (taken rest s))))
  ∧ (∀ (errs : List ReadErr) (c : Carried) (rest : List Carried) (tag : Nat) (s : State), Reply s 0x31 c rest tag →
      exec (.ack errs) s = meeting errs (fun v => .next (leaveStation (takeOutcome tag (field c.pkt.payload 0 1) [] (taken rest v)))) s)
  ∧ (∀ (c : Carried) (rest : List Carried) (tag : Nat) (q : Req) (o : RemOp) (s : State), Reply s 0x32 c rest tag → reqOf s tag = some q → opOf s q.op = some o →
      exec .atomicResult s = .next (takeOutcome tag (field c.pkt.payload 0 1) (if o.fetch then [(0, slice c.pkt.payload 8 8)] else []) (taken rest s)))
  ∧ (∀ (c : Carried) (rest : List Carried) (tag : Nat) (q : Req) (s : State), Reply s 0x33 c rest tag → reqOf s tag = some q →
      let b := c.pkt.payload
      (q.pkt.type = 0x14 → field b 0 2 = field q.pkt.payload 0 2 → q.col = false → exec .pegGrant s
        = .next (pumpAll (gotGrant (claimKey q) tag { gen := field b 4 2, off := field b 8 4, bytes := field b 12 4, sent := 0 } (taken rest s))))
      ∧ (q.pkt.type = 0x14 → field b 0 2 = field q.pkt.payload 0 2 → q.col = true → exec .pegGrant s
          = .next (pumpAll (slotGranted tag (field b 2 2) (field b 8 4) (field b 12 4) (taken rest s))))
      ∧ (q.pkt.type ≠ 0x14 → exec .pegGrant s = .next (rmtCount 5 (taken rest s))))
  ∧ (∀ (type : Nat) (row : Instr) (c : Carried) (rest : List Carried) (s : State),
      (type, row) ∈ ([(0x30, .loadData []), (0x32, .atomicResult), (0x33, .pegGrant)] : List (Nat × Instr)) → s.fab.rspIn = c :: rest → c.pkt.type = type →
      (replyOk c.pkt = false → exec row s = .next (fabCount 0 (taken rest s)))
      ∧ (replyOk c.pkt = true → tagAccepted s c.pkt = false → exec row s = .next (fabCount 2 (taken rest s)))
      ∧ (replyOk c.pkt = true → tagAccepted s c.pkt = true → requestFor s c.pkt = none → exec row s = .next (rmtCount 5 (taken rest s))))
  ∧ (∀ (tag : Nat) (data : List (Nat × List Byte)) (q : Req) (s : State), reqOf s tag = some q → q.col = false → orderEnded s q = false →
      takeOutcome tag 0 data s = finish tag 0 data s
      ∧ takeOutcome tag 5 data s = finish tag (if q.pkt.type = 0x13 then 0x40 else 0) data s
      ∧ takeOutcome tag 6 data s = s.modReq tag (fun q => { q with wait := .order })
      ∧ takeOutcome tag 10 data s = s.modReq tag (fun q => { q with wait := .claim, tries := 0 })
      ∧ takeOutcome tag 7 data s = s.modReq tag (fun q => { q with wait := .delay, resumeAt := s.aon + 1000 })
      ∧ takeOutcome tag 8 data s = takeOutcome tag 7 data s
      ∧ takeOutcome tag 9 data s = endChannel q (finish tag 9 data s))
  ∧ (∀ (tag o : Nat) (data : List (Nat × List Byte)) (q : Req) (s : State), reqOf s tag = some q → q.col = false → orderEnded s q = true →
      o ∈ [6, 7, 8, 10] → takeOutcome tag o data s = finish tag 9 [] s)

/-- Each collective starts with its checks, sends its slots, lands pieces once, and poisons what never came. For each of the eight operations, the next descriptor of an engine that may start it takes the next number and begins: with its checks passed its slots open, with a failed check it ends with COL_CHECK (0x50), and with a lost region with REGION_LOST; a descriptor of another operation, or an engine that may not start one, changes nothing. COL_SLOT_SEND sends a slot whose grant is held and whose landings have come. A COL packet that fails a check, or whose piece has landed, is counted and discarded; a piece short of the slot's total lands once, combined by its code with the bytes that a checked read finds. COL_RESEND after E2E_US without an ACK sends the slot again while retries are left. COLLECTIVE_DEAD_US in RECOVERY, with nothing landed since the member's own sends ended, poisons the results and ends the descriptor with TARGET_LOST (that it waits from the end of the member's own sends is the model's reading, log 72). Landing code 0 replaces the bytes and code 3 takes the greater of each pair. -/
def Obligations.Collectives : Prop :=
  let rows : List (Nat × (Fin 4 → Instr)) :=
    [(1, .a2a), (2, .a2av), (3, .a2ax), (4, .allgather), (5, .reduceScatter), (6, .allreduce), (7, .collectiveDatum), (8, .broadcast)]
  (∀ (op i : Nat) (row : Fin 4 → Instr) (e : Fin 4) (s : State), (op, row) ∈ rows → startable s e = some i →
      let table := colTable s
      let raw := slice table (16 + 128 * i) 128
      let d := colDesc raw
      let id := s.col.nextId
      let u := { s with col := { s.col with next := s.col.next.set 0 e (i + 1), nextId := id + 1, ops := s.col.ops ++ [{ id := id, engine := e, desc := i, raw := raw }] } }
      (d.op = op → colLost s e d = false → colStartOk s d table = true → exec (row e) s = .next (openCol id d table u))
      ∧ (d.op = op → colLost s e d = false → colStartOk s d table = false → exec (row e) s = .next (endCol 0x50 id u))
      ∧ (d.op = op → colLost s e d = true → exec (row e) s = .next (endCol 0x43 id u))
      ∧ (d.op ≠ op → exec (row e) s = .next s))
  ∧ (∀ (op : Nat) (row : Fin 4 → Instr) (e : Fin 4) (s : State), (op, row) ∈ rows → startable s e = none → exec (row e) s = .next s)
  ∧ (∀ (tag : Fin 131072) (q : Req) (o : ColOp) (x : SendSlot) (errs : List ReadErr) (s : State), reqOf s tag = some q → q.col = true → colOf s q.op = some o →
      o.sends[q.idx]? = some x →
      (x.st = 2 → (∀ k ∈ x.needs, ∀ r ∈ o.recvs, r.k = k → r.st = 2) →
        exec (.colSlotSend tag errs) s = meeting errs (fun v => .next (sendSlotData tag true o x q (v.modReq tag fun q => { q with tries := 0 }))) s)
      ∧ (x.st ≠ 2 → exec (.colSlotSend tag errs) s = .next s)
      ∧ (x.st = 3 → q.wait ≠ .dead → isFenced s x.dev = false → q.sentAt + 50 * s.rmt.timers.e2e ≤ s.aon → q.tries < s.rmt.timers.retries →
          exec (.colResend tag) s = .next (sendSlotData tag false o x q (colCount 2 1 (s.modReq tag fun q => { q with tries := q.tries + 1 }))))
      ∧ (x.st = 3 → q.wait ≠ .dead → isFenced s x.dev = false → q.sentAt + 50 * s.rmt.timers.e2e ≤ s.aon → s.rmt.timers.retries ≤ q.tries →
          exec (.colResend tag) s = .next (slotUnresponsive tag 0x40 s)))
  ∧ (∀ (errs : List ReadErr) (c : Carried) (rest : List Carried) (s : State), s.fab.colIn = c :: rest → targetRuns s = true →
      exec (.col errs) s = meeting errs (fun v => .next (handleCol c (v.modFab fun f => { f with colIn := rest }))) s)
  ∧ (∀ (c : Carried) (s : State),
      let p := c.pkt
      let n := p.seqCh % 2 ^ 14
      let q := pegOf s n
      let a := (winOf s (addrWindow p.addr)).entry.base + addrOffset p.addr
      let land := p.gen / 4096 % 4
      let old := if land = 0 then (p.payload, s) else readScratch q.block a p.payload.length s
      let v := (landBytes n a (landed land old.1 p.payload) old.2).modPeg n fun q =>
        { q with total := some (p.seqCh / 2 ^ 14), pieces := q.pieces ++ [(a - q.sp) / 4096] }
      (p.jobTag ≠ s.job.tag → handleCol c s = fabCount 2 s)
      ∧ (p.jobTag = s.job.tag → q.doneCol = false → colLands s p q = false → handleCol c s = colCount 1 1 s)
      ∧ (p.jobTag = s.job.tag → q.doneCol = false → colLands s p q = true → pathUp s c.region (q.block / 68) = true →
          ((a - q.sp) / 4096 ∈ q.pieces → handleCol c s = colCount 0 1 s)
          ∧ ((a - q.sp) / 4096 ∉ q.pieces → (pegOf v n).landed ≠ 64 * (p.seqCh / 2 ^ 14) → handleCol c s = v)))
  ∧ (∀ (id t : Nat) (o : ColOp) (s : State), colOf s id = some o → o.quietAt = some t → o.heard = false → s.fab.recovery = true → t + 50 * s.rmt.timers.dead ≤ s.aon →
      (∃ r ∈ o.recvs, r.st = 0) →
      let d := colDesc o.raw
      exec (.collectiveDeadUs id) s
        = .next (pumpAll (endCol 0x42 id (d.results.foldl (fun u e => poisonSpace id e.1 e.2.1 e.2.2 (colPoison d) u) s))))
  ∧ (∀ old new : List Byte, landed 0 old new = new ∧ (landed 3 old new).length = min old.length new.length
      ∧ ∀ i, i < old.length → i < new.length → ((landed 3 old new).getD i 0).toNat = max (old.getD i 0).toNat (new.getD i 0).toNat)

/-- Links take flits in order and replay, and packets are received, routed, forwarded and moved to the escape ring. A flit of 256 bytes on an ACTIVE lane is the next of the five that two codewords carry; one in a codeword that FEC cannot correct, or with a bad CRC, asks for a replay, one with the awaited SEQ is taken: SEQ advances, its data joins the stream, and its ACK and credit act on the other direction; one that came before is ignored. An ACK takes the flits up to it out of the store. After 4 µs without an ACK the store is sent again, and after 100 ms out of ACTIVE it is discarded. A whole packet of a stream is handled with HOPS raised, and one with a bad header is counted; a tee copy stays for the log. A packet from a peer that is not ACTIVE, or from this device itself, is discarded and counted. A packet for this device goes to its intake, where its credit returns, or waits in its pool for room or for its turn; one of another epoch or with no route goes to the escape ring, and any other waits for its lane, or, where the lane's port is of another region, for its die-to-die crossing. A link that can carry flits and whose store has been sent lets one packet enter the escape ring, then sends a packet with credit and room; an idle one flushes its stream or returns credit. A packet other than MGT that has waited 20 µs without credit goes to the escape ring, one on it leaves at its destination where the intake has room, and otherwise takes a slot of the next stage. CONG_READ is answered with the bytes asked for, and CONG_SAMPLE of a running leg counts one more sample. Rests on the model's readings of where a link begins anew after 100 ms (log 106), of traffic on a lane from this device itself (log 118) and of the crossings' pools (log 151). -/
def Obligations.LinksAndPackets : Prop :=
  (∀ (port : Fin 16) (line : Fin 34) (bad : BitVec 2) (b : List Byte) (s : State), b.length = 256 →
      (∀ k, activePos s port 1 line = some k → exec (.flitReceive port line bad b) s
        = .next (takeFlit (linkKey s port line) (fecLost bad (posAt s k).frame) b (s.modPos k fun q => { q with frame := (q.frame + 1) % 5 })))
      ∧ (activePos s port 1 line = none → exec (.flitReceive port line bad b) s = .next s))
  ∧ (∀ (bad : BitVec 2) (n : Nat), fecLost bad n = true ↔ (bad.getLsbD 0 = true ∧ n % 5 ≤ 2) ∨ (bad.getLsbD 1 = true ∧ 2 ≤ n % 5))
  ∧ (∀ (key : Nat) (lost : Bool) (b : List Byte) (s : State),
      let l := fabLink s key
      (lost = false → crcGood b = true → field b 0 2 = l.rxNext → takeFlit key lost b s
        = (s.modLink key fun l => { l with
            rxNext := (l.rxNext + 1) % 65536, nak := false, nakOwed := false,
            stream := if bit (field b 4 1) 1 then l.stream else l.stream ++ slice b 8 244 }).modLink (reverseKey s key) fun l =>
              takeCredit (field b 5 1 % 16) (field b 6 2 % 4096) (takeAck (field b 2 2) (bit (field b 4 1) 0) s.aon l))
      ∧ (lost = true ∨ crcGood b = false → takeFlit key lost b s = s.modLink key fun l => { l with nakOwed := l.nakOwed || !l.nak, nak := true })
      ∧ (lost = false → crcGood b = true → 0 < (l.rxNext + 65536 - field b 0 2) % 65536 → (l.rxNext + 65536 - field b 0 2) % 65536 ≤ 32768 →
          takeFlit key lost b s = s))
  ∧ (∀ (f : List Byte) (fs : List (List Byte)) (n now : Nat) (nak : Bool) (l : Link), l.store = f :: fs → 1 ≤ n → n ≤ l.store.length → n < 65536 →
      (takeAck ((field f 0 2 + n + 65535) % 65536) nak now l).store = l.store.drop n)
  ∧ (∀ (port : Fin 16) (line : Fin 34) (s : State),
      let key := linkKey s port line
      let l := fabLink s key
      (l.store ≠ [] → l.ackAt + 200 ≤ s.aon → exec (.linkReplayTimeout port line) s = .next (s.modLink key fun l => { l with sent := 0, ackAt := s.aon }))
      ∧ (l.store = [] ∨ s.aon < l.ackAt + 200 → exec (.linkReplayTimeout port line) s = .next s)
      ∧ (l.downAt ≠ 0 → l.downAt + 4999999 ≤ s.aon →
          exec (.replayStoreDiscard port line) s = .next (s.modLink key fun l => { l with store := [], sent := 0, next := 0, used := [], carry := [], due := false }))
      ∧ (l.downAt = 0 ∨ s.aon < l.downAt + 4999999 → exec (.replayStoreDiscard port line) s = .next s))
  ∧ (∀ (port : Fin 16) (line : Fin 34) (rest : List Byte) (s : State),
      let key := linkKey s port line
      let st := (fabLink s key).stream
      let u := s.modLink key fun l => { l with stream := rest }
      (nextInStream (st.length + 1) st = (rest, none) → exec (.packetReceive port line) s = .next u)
      ∧ (∀ b, nextInStream (st.length + 1) st = (rest, some b) →
          let p := parsePacket b
          let c : Carried := { pkt := p, link := key, pool := poolOf { pkt := p }, units := if p.esc then 17 else p.units, region := port.val / 4, came := p.hops }
          (headerOk b = true → isTeeCopy s key p = false →
              exec (.packetReceive port line) s = .next (handlePacket { c with pkt := { p with hops := min 3 (p.hops + 1) } } (teeOver key p u)))
          ∧ (headerOk b = true → isTeeCopy s key p = true → exec (.packetReceive port line) s = .next s)
          ∧ (headerOk b = false → exec (.packetReceive port line) s = .next (fabCount 0 (returnCredit { c with came := 0 } u)))))
  ∧ (∀ (key : Nat) (p : Packet) (s : State), s.mem.ended = false ∨ s.mem.teeKnown = false → teeOver key p s = s)
  ∧ (∀ (c : Carried) (s : State),
      (c.pkt.type = 1 → mgtOk c.pkt = false → handlePacket c s = fabCount 0 (returnCredit c s))
      ∧ (mgtOk c.pkt = true → linkLocal c.pkt = true → handlePacket c s = deliver c s)
      ∧ (s.dev = .bivouac → (c.pkt.type = 1 → mgtOk c.pkt = true) → linkLocal c.pkt = false → keepAlivePath s c.pkt = false →
          handlePacket c s = fabCount 6 (returnCredit c s)))
  ∧ (∀ (c : Carried) (s : State), s.dev ≠ .bivouac → (c.pkt.type = 1 → mgtOk c.pkt = true) → linkLocal c.pkt = false →
      ((peerAt s c.link).st ≠ 3 ∨ linkFromSelf s c.link = true → handlePacket c s = fabCount 6 (returnCredit c s))
      ∧ ((peerAt s c.link).st = 3 → linkFromSelf s c.link = false → c.pkt.type = 1 ∨ isFenced s c.pkt.src = false →
          (c.pkt.esc = true → handlePacket c s = s.modLink c.link fun l => { l with stage := l.stage ++ [c] })
          ∧ (c.pkt.esc = false → s.fab.number = some c.pkt.dst → handlePacket c s = arrive { c with since := s.aon } s)
          ∧ (c.pkt.esc = false → s.fab.number ≠ some c.pkt.dst → c.pkt.type = 0x40 → handlePacket c s = relayCol c s)
          ∧ (c.pkt.esc = false → s.fab.number ≠ some c.pkt.dst → c.pkt.type ≠ 0x40 → handlePacket c s = routePacket true c s)))
  ∧ (∀ (c : Carried) (s : State), (mayEnter s c.pkt = true → mustFollow s c.pkt = false → arrive c s = deliverTeed c s)
      ∧ (mayEnter s c.pkt = false ∨ mustFollow s c.pkt = true → arrive c s = s.modFab fun f => { f with inWait := f.inWait ++ [c] })
      ∧ (isRequest c.pkt.type = true → c.pkt.jobTag = s.job.tag → s.mem.role ≠ 1 → (mayEnter s c.pkt = true ↔ s.fab.reqIn.length < Config.intakeRoom + 1))
      ∧ (c.pkt.type = 1 → mayEnter s c.pkt = true ∧ mustFollow s c.pkt = false))
  ∧ (∀ (c : Carried) (s : State), s.mem.role ≠ 1 ∨ c.pkt.type = 1 → deliverTeed c s = deliver c s)
  ∧ (∀ (c : Carried) (s : State), c.pkt.type = 1 → mgtFm c.pkt = false →
      (s.fab.mgtIn.length < 64 → deliver c s = (returnCredit c s).modFab fun f => { f with mgtIn := f.mgtIn ++ [{ c with units := 0 }] })
      ∧ (64 ≤ s.fab.mgtIn.length → deliver c s = fabCount 5 (returnCredit c s)))
  ∧ (∀ (c : Carried) (s : State), c.pkt.jobTag = s.job.tag →
      let u := returnCredit c s
      let held := { c with units := 0 }
      (isRequest c.pkt.type = true → deliver c s = u.modFab fun f => { f with reqIn := f.reqIn ++ [held] })
      ∧ (isReply c.pkt.type = true → deliver c s = u.modFab fun f => { f with rspIn := f.rspIn ++ [held] })
      ∧ (c.pkt.type = 0x40 → deliver c s = u.modFab fun f => { f with colIn := f.colIn ++ [held] }))
  ∧ (∀ (key : Nat) (c : Carried) (s : State),
      (c.region = alwaysOn ∨ c.region = key / 136 → enqueue key c s = s.modLink key fun l => { l with queue := l.queue ++ [{ c with since := s.aon }] })
      ∧ (c.region ≠ alwaysOn → c.region ≠ key / 136 →
          enqueue key c s = s.modFab fun f => { f with cross := f.cross ++ [{ held := { c with since := s.aon }, key := key }] }))
  ∧ (∀ (c : Carried) (s : State), s.fab.number ≠ some c.pkt.dst →
      (c.pkt.hops = 3 ∨ c.pkt.epoch ≠ s.fab.epoch → routePacket false c s = escapeRing c s)
      ∧ (c.pkt.hops ≠ 3 → c.pkt.epoch = s.fab.epoch → routeLanes s c.pkt c.region = [] → routePacket false c s = escapeRing c s)
      ∧ (c.pkt.hops ≠ 3 → c.pkt.epoch = s.fab.epoch → routeLanes s c.pkt c.region ≠ [] →
          routePacket false c s = enqueue (laneLink s (pickLane c.pkt (routeLanes s c.pkt c.region))) c s))
  ∧ (∀ (port : Fin 16) (line : Fin 34) (s : State), linkMute s port line = false →
      let key := linkKey s port line
      let l := fabLink s key
      (l.sent < l.store.length → exec (.packetForward port line) s = .next (s.modLink key fun l => { l with sent := l.store.length, ackAt := s.aon }))
      ∧ (l.store.length ≤ l.sent →
          let u := if linkPeerActive s key then enterRing key s else s
          (∀ c l', nextPacket u key = some (c, l') →
            let v := sendPacket key c (u.modLink key fun _ => { l' with queue := takeFrom u.aon c l'.queue })
            let room := (fabLink u key).store.length + l'.flitsFor c + alignFlits u key c ≤ storeFlits u key
            (room → exec (.packetForward port line) s = .next (admitWaiting (sendAcks v.fab.ackWait.length v)))
            ∧ (¬room → exec (.packetForward port line) s = .next u))
          ∧ (nextPacket u key = none → exec (.packetForward port line) s = .next (idleLink port line key u))))
  ∧ (∀ (port : Fin 16) (line : Fin 34) (s : State), linkMute s port line = true →
      exec (.packetForward port line) s = .next (idleLink port line (linkKey s port line) s))
  ∧ (∀ (port line key : Nat) (s : State), linkMute s port line = false → (fabLink s key).store.length < storeFlits s key →
      ((fabLink s key).due = true → idleLink port line key s = flushStream key s)
      ∧ ((fabLink s key).due = false → linkDown s port line = false → linkPeerActive s key = true → (fabLink s key).returns ≠ [] → underTest s key = false →
          idleLink port line key s = pushFlit true [] key s))
  ∧ (∀ (key : Nat) (s : State), (escEntry s key = none → enterRing key s = s)
      ∧ ∀ e, escEntry s key = some e → (enterRing key s).fab.escWait = s.fab.escWait.erase e
        ∧ (enterRing key s).fab.count.get 0 4 = s.fab.count.get 0 4 + 1)
  ∧ (∀ (port : Fin 16) (line : Fin 34) (c : Carried) (s : State),
      let key := linkKey s port line
      ((fabLink s key).queue = [c] → 1 ≤ poolOf c → poolOf c ≤ 6 → c.pkt.type ≠ 1 → noCredit s port line key c = true → c.since + 1000 ≤ s.aon →
        exec (.escWaitExpire port line) s = .next (escapeRing c (s.modLink key fun l => { l with queue := [] })))
      ∧ ((∀ d ∈ (fabLink s key).queue, d.pkt.type = 1 ∨ noCredit s port line key d = false ∨ s.aon < d.since + 1000) →
        (s.mem.role ≠ 1 ∨ s.fab.inWait = [] → exec (.escWaitExpire port line) s = .next s)
        ∧ (s.mem.role = 1 → s.fab.inWait = [c] → c.link = key → 1 ≤ c.pool → c.pool ≤ 6 → c.since + 1000 ≤ s.aon →
            exec (.escWaitExpire port line) s = .next (escapeRing c (s.modFab fun f => { f with inWait := [] })))))
  ∧ (∀ (port : Fin 16) (line : Fin 34) (c : Carried) (rest : List Carried) (s : State), s.dev ≠ .bivouac →
      let key := linkKey s port line
      let taken := s.modLink key fun l => { l with stage := rest }
      let t := if s.fab.number = some c.pkt.escTo then none else some c.pkt.escTo
      let out := laneLink s (pickLane c.pkt (escLanes s t c.region))
      (fabLink s key).stage = c :: rest →
      (s.fab.number = some c.pkt.dst → intakeHasRoom s c.pkt = true → isTeed s c.pkt = false ∨ teeCredit s c.pkt = true → exec (.escAdvance port line) s = .next (deliverTeed c taken))
      ∧ (s.fab.number ≠ some c.pkt.dst ∨ intakeHasRoom s c.pkt = false ∨ (isTeed s c.pkt = true ∧ teeCredit s c.pkt = false) →
          (escLanes s t c.region ≠ [] → (fabLink s out).used.get 0 8 + 17 ≤ poolRoom s out 8 →
            exec (.escAdvance port line) s = .next (enqueue out (escHop out t c taken).1 (escHop out t c taken).2))
          ∧ (escLanes s t c.region = [] ∨ poolRoom s out 8 < (fabLink s out).used.get 0 8 + 17 → exec (.escAdvance port line) s = .next s)))
  ∧ (∀ (port : Fin 16) (line : Fin 34) (s : State), (fabLink s (linkKey s port line)).stage = [] → exec (.escAdvance port line) s = .next s)
  ∧ (∀ (c : Carried) (rest : List Carried) (s : State), Message s 0x41 c rest →
      let b := c.pkt.payload.drop 8
      let u := s.modFab fun f => { f with mgtIn := rest }
      (congReadOk b = true → exec .congRead s = .next (sendCong (field b 0 4) 4064 9 (field b 4 4) (field b 8 4) u))
      ∧ (congReadOk b = false → exec .congRead s = .next (fabCount 0 u)))
  ∧ (∀ (r : Run) (s : State), s.job.run = some r →
      (s.dev = .run → r.phase = .leg → s.fab.samples < 2 ^ 32 - 1 → LeadsTo (exec .congSample s) fun t => t.fab.samples = s.fab.samples + 1
        ∧ t = { s with fab := { s.fab with samples := t.fab.samples, bins := t.fab.bins } })
      ∧ (r.phase ≠ .leg → exec .congSample s = .next s))

/-- HELLO and challenges move a peer between SEEN, AUTH, ACTIVE and LOST. HELLO_TIMER sends this device's HELLO on an ACTIVE lane whose driver is on. A HELLO is kept with its time; a peer that was not known or LOST is SEEN, a known one keeps its state, and one in AUTH or ACTIVE whose identity changes is SEEN again, with the event. CHALLENGE_SEND in SEEN after the back-off draws a nonce, goes to AUTH and sends it. A CHALLENGE is answered on its lane with identity, nonce, signature and chain. A response that verifies in AUTH, which needs the nonce, the serial number of the HELLO and of the certificate, the line, a chain under the root key and the signature, makes the peer ACTIVE, and one that does not, or 100 ms without one, returns it to SEEN with a back-off of 1 s and the event; in another state a response does nothing. 30 ms without a HELLO make it LOST. Bodies that break their layout are counted. Events without a class in the table have class 0 (the model's choice, log 22), and through an AWGR the peer of a transmit lane is that of the receive line with the same peer (the model's reading, log 59). -/
def Obligations.PeerDiscovery : Prop :=
  (∀ (port : Fin 16) (line : Fin 34) (s : State), discovers s = true →
      ((activePos s port 0 line).isSome = true → linkMute s port line = false →
        exec (.helloTimer port line) s = .next (sendLocal (linkKey s port line) 1 (helloBody s (linkKey s port line)) s))
      ∧ (activePos s port 0 line = none ∨ linkMute s port line = true → exec (.helloTimer port line) s = .next s))
  ∧ (∀ (c : Carried) (rest : List Carried) (s : State), Message s 1 c rest →
      let b := c.pkt.payload.drop 8
      let u := s.modFab fun f => { f with mgtIn := rest }
      let q := peerAt s c.link
      (helloOk b = false → exec .hello s = .next (fabCount 0 u))
      ∧ (helloOk b = true → q.st = 0 ∨ q.st = 4 →
          exec .hello s = .next (u.modPeer c.link fun q => { q with hello := slice b 0 96, helloAt := s.aon, st := 1, seenAt := s.aon }))
      ∧ (helloOk b = true → q.st = 1 ∨ ((q.st = 2 ∨ q.st = 3) ∧ helloId b = helloId q.hello) →
          exec .hello s = .next (u.modPeer c.link fun q => { q with hello := slice b 0 96, helloAt := s.aon }))
      ∧ (helloOk b = true → q.st = 2 ∨ q.st = 3 → helloId b ≠ helloId q.hello →
          exec .hello s = .next ((raiseEvent 0x51 0 (peerEventBody u c.link ++ leBytes 8 (helloId b).1 ++ leBytes 2 (helloId b).2) u).modPeer c.link fun q =>
            { q with hello := slice b 0 96, helloAt := s.aon, st := 1, seenAt := s.aon })))
  ∧ (∀ (port : Fin 16) (line : Fin 34) (s : State),
      let key := linkKey s port line
      let q := peerAt s key
      let nonce := (Config.entropy s.free).toNat
      (discovers s = true → q.st = 1 → q.notBefore ≤ s.aon → exec (.challengeSend port line) s
        = .next (sendLocal (reverseKey s key) 2 (beBytes 32 nonce ++ leBytes 8 (serialOf s))
            ({ s with free := s.free + 1 }.modPeer key fun q => { q with st := 2, nonce := nonce, challengedAt := s.aon })))
      ∧ (q.st ≠ 1 ∨ s.aon < q.notBefore → exec (.challengeSend port line) s = .next s)
      ∧ (q.st = 2 → q.challengedAt + 5000000 ≤ s.aon → exec (.authTimeout port line) s = .next (authFails key 2 s))
      ∧ (q.st ≠ 2 → exec (.authTimeout port line) s = .next s)
      ∧ (1 ≤ q.st → q.st ≤ 3 → q.helloAt + 1500000 ≤ s.aon → exec (.peerLostTimeout port line) s
          = .next ((raiseEvent 0x52 0 (peerEventBody s key ++ leBytes 1 q.st) s).modPeer key fun q => { q with st := 4 }))
      ∧ (q.st = 0 ∨ 4 ≤ q.st ∨ s.aon < q.helloAt + 1500000 → exec (.peerLostTimeout port line) s = .next s))
  ∧ (∀ (key cause : Nat) (s : State), authFails key cause s = (raiseEvent 0x50 0 (peerEventBody s key ++ leBytes 1 cause) s).modPeer key fun q =>
      { q with st := 1, seenAt := s.aon, notBefore := s.aon + 50000000 })
  ∧ (∀ (c : Carried) (rest : List Carried) (s : State), Message s 2 c rest →
      let b := c.pkt.payload.drop 8
      let u := s.modFab fun f => { f with mgtIn := rest }
      let key := reverseKey s c.link
      let head := leBytes 8 (serialOf s) ++ leBytes 2 (deviceField s) ++ leBytes 1 (key / 34) ++ leBytes 1 (lineField s key) ++ zeros 4 ++ slice b 0 32
      (40 ≤ b.length → exec .challenge s = .next (sendLocal key 3 (head ++ beBytes 64 (Config.sign (sha256 (peerLabel ++ slice b 32 8 ++ head))).toNat
        ++ leBytes 2 3072 ++ zeros 14 ++ otpBytes s 0x400 3072) u))
      ∧ (b.length < 40 → exec .challenge s = .next (fabCount 0 u)))
  ∧ (∀ (c : Carried) (rest : List Carried) (s : State), Message s 3 c rest →
      let b := c.pkt.payload.drop 8
      let u := s.modFab fun f => { f with mgtIn := rest }
      (responseOk b = false → exec .challengeResp s = .next (fabCount 0 u))
      ∧ (responseOk b = true → (peerAt s c.link).st ≠ 2 → exec .challengeResp s = .next u)
      ∧ (responseOk b = true → (peerAt s c.link).st = 2 → exec .challengeResp s
          = .next (if responseVerifies u c.link b then u.modPeer c.link fun q => { q with st := 3 } else authFails c.link 1 u)))
  ∧ (∀ (key : Nat) (b : List Byte) (s : State), responseVerifies s key b = true →
      beNat (slice b 16 32) = (peerAt s key).nonce ∧ field b 0 8 = (helloId (peerAt s key).hello).1 ∧ field b 11 1 = lineField s key
        ∧ ∃ x, deviceCert (otpBytes s 0x100 64) (slice b 128 (field b 112 2)) = some x ∧ x.serial = some (field b 0 8)
          ∧ ecdsaValid x.key (peerLabel ++ leBytes 8 (serialOf s) ++ slice b 0 48) (slice b 48 64) = true)

/-- Margin tests run between two ends, and a service lane below its threshold asks for more bias. A MARGIN_REQ for step 1 on an ACTIVE lane that no plan of the leg uses starts the receiver's test, and is answered BUSY on one that a plan uses; step 2 of the same test starts the count. MARGIN_COUNT_COMPLETE answers the eye and levels first and, when the count ends, PASS with all of it, which takes the test away. A MARGIN_RESULT of step 1 reduces the bias and asks for step 2, a final one that passes marks the lane's positions, and any other, or 50 ms without one, marks them failed and raises LANE_MARGIN_FAIL. PASS holds 1 for each of eye, errors and levels within R265's limits and one for all. A service lane's sample sets its margin and counts those below the threshold; the 64th in a row asks the transmitter for bias, unless it has within 1 s. BIAS_NEED makes one step where R240 allows it, with the headroom read. Rests on the model's readings of what a plan uses (log 90), of a second START (log 96) and of the comb source's address (log 131). -/
def Obligations.MarginsAndBias : Prop :=
  (∀ (c : Carried) (rest : List Carried) (s : State), Message s 0x20 c rest →
      let b := c.pkt.payload.drop 8
      let u := s.modFab fun f => { f with mgtIn := rest }
      let port := c.link / 34
      let line := field b 5 1
      let k := 34 * port + line
      (marginReqOk b = false → exec .marginReq s = .next (fabCount 0 u))
      ∧ (marginReqOk b = true → lanePeer s port 1 line = none → exec .marginReq s = .next u)
      ∧ (∀ d p, marginReqOk b = true → lanePeer s port 1 line = some (d, p) →
          let t : RxTest := { device := d, req := field b 0 4, port := field b 4 1, line := line }
          (field b 6 1 = 1 → planUses s port line = false → exec .marginReq s = .next (setRxTest k (some t) u))
          ∧ (field b 6 1 = 1 → planUses s port line = true → exec .marginReq s = .next (sendMarginResult t 3 0 0 0 0 u))
          ∧ (field b 6 1 = 2 → ∀ x, rxTestOf s k = some x →
              (x.req = field b 0 4 → x.told = true → exec .marginReq s = .next (setRxTest k (some { x with counting := true }) u))
              ∧ (x.req ≠ field b 0 4 ∨ x.told = false → exec .marginReq s = .next u))))
  ∧ (∀ (port : Fin 16) (line : Fin 34) (eye rlm : W16) (errs : W32) (s : State),
      let k := 34 * port.val + line.val
      (rxTestOf s k = none → exec (.marginCountComplete port line eye rlm errs) s = .next s)
      ∧ (∀ t, rxTestOf s k = some t → t.counting = true → exec (.marginCountComplete port line eye rlm errs) s
          = .next (setRxTest k none (sendMarginResult t 2 (marginPass t.eye t.rlm errs.toNat) t.eye t.rlm errs.toNat s)))
      ∧ (∀ t, rxTestOf s k = some t → t.counting = false → t.told = false →
          let t' := { t with told := true, eye := eye.toNat, rlm := rlm.toNat }
          exec (.marginCountComplete port line eye rlm errs) s = .next (sendMarginResult t' 1 0 eye.toNat rlm.toNat 0 (setRxTest k (some t') s))))
  ∧ (∀ (c : Carried) (rest : List Carried) (t : TxTest) (s : State), Message s 0x21 c rest →
      let b := c.pkt.payload.drop 8
      let u := s.modFab fun f => { f with mgtIn := rest }
      let port := field b 4 1
      let line := field b 5 1
      let k := 34 * port + line
      marginResultOk b = true → txTestOf s k = some t →
      (t.req ≠ field b 0 4 → exec .marginResult s = .next u)
      ∧ (t.req = field b 0 4 → field b 6 1 = 1 → t.reduced = false → exec .marginResult s
          = .next (sendLocal (linkKey s port line) 0x20 (marginReqBody t.req port line 2)
              (setTxTest k (some { t with reduced := true, eye := field b 8 2, rlm := field b 10 2 }) u) (some line)))
      ∧ (t.req = field b 0 4 → field b 6 1 = 2 → bit (field b 7 1) 3 = true → exec .marginResult s = .next (endMargin port line none u))
      ∧ (t.req = field b 0 4 → field b 6 1 = 2 → bit (field b 7 1) 3 = false → exec .marginResult s
          = .next (endMargin port line (some (1, marginWords (field b 7 1) (field b 8 2) (field b 10 2) (field b 12 4))) u)))
  ∧ (∀ (port : Fin 16) (line : Fin 34) (t : TxTest) (s : State), txTestOf s (34 * port.val + line.val) = some t →
      (t.start + 2500000 ≤ s.aon → exec (.marginTestTimeout port line) s = .next (endMargin port line (some (3, marginWords 0 t.eye t.rlm 0)) s))
      ∧ (s.aon < t.start + 2500000 → exec (.marginTestTimeout port line) s = .next s))
  ∧ (∀ (port line : Nat) (f : Option (Nat × List Byte)) (s : State), line < 34 → s.job.loading = none →
      let t := endMargin port line f s
      txTestOf t (34 * port + line) = none
        ∧ (∀ k ∈ portPositions port 0, (posAt s k).line = line → (posAt t k).margin = f.isNone) ∧ (∀ k, (posAt s k).line ≠ line → posAt t k = posAt s k))
  ∧ (∀ eye rlm errs : Nat, (bit (marginPass eye rlm errs) 0 = true ↔ 120 ≤ eye) ∧ (bit (marginPass eye rlm errs) 1 = true ↔ errs ≤ 10000)
      ∧ (bit (marginPass eye rlm errs) 2 = true ↔ 950 ≤ rlm) ∧ (bit (marginPass eye rlm errs) 3 = true ↔ 120 ≤ eye ∧ errs ≤ 10000 ∧ 950 ≤ rlm))
  ∧ (∀ (port : Fin 16) (line : Fin 34) (db : Int) (k d p : Nat) (s : State), activePos s port 1 line = some k → (posAt s k).service = true →
      (posAt s k).peer = some (d, p) →
      let m := db + 80
      let u := s.modPos k fun q => { q with marginDb := m, lowMs := if m < (calOf s k).biasThr then q.lowMs + 1 else 0 }
      ((calOf s k).biasThr ≤ m ∨ (posAt s k).lowMs + 1 < 64 → exec (.serviceMarginSample port line db) s = .next u)
      ∧ (m < (calOf s k).biasThr → 63 ≤ (posAt s k).lowMs → (∀ t, (posAt s k).need = some t → t + 50000000 ≤ s.aon) →
          exec (.serviceMarginSample port line db) s = .next (sendMgt 0x22 d (biasNeedBody p line m u) (u.modPos k fun q => { q with need := some s.aon }))))
  ∧ (∀ (busy : Bool) (h : Byte) (c : Carried) (rest : List Carried) (s : State), Message s 0x22 c rest →
      let b := c.pkt.payload.drop 8
      let u := s.modFab fun f => { f with mgtIn := rest }
      (biasNeedOk b = true → stepAllowed s (field b 2 1 / 2) (field b 3 1) busy = true →
        exec (.biasNeed busy h) s = .next (biasStep (field b 2 1 / 2) (field b 3 1) h.toNat u))
      ∧ (biasNeedOk b = true → stepAllowed s (field b 2 1 / 2) (field b 3 1) busy = false → exec (.biasNeed busy h) s = .next u)
      ∧ (biasNeedOk b = false → exec (.biasNeed busy h) s = .next (fabCount 0 u)))
  ∧ (∀ (e line h : Nat) (s : State), (agingOf (biasStep e line h s) e line).steps = min 65535 ((agingOf s e line).steps + 1)
      ∧ (agingOf (biasStep e line h s) e line).headroom = h ∧ (agingOf (biasStep e line h s) e line).last = some s.aon
      ∧ (biasStep e line h s).oe.combSelect = e + 256 * line ∧ (biasStep e line h s).oe.combAddr = some 0x5C)

/-- Positions move between their lane states, engines start, and heaters are driven by the matrix. A measurement of a comb line keeps power and tag and counts good and tagless ones, and an engine whose lines are all lost is dark until one returns. A lock error above 100 units unlocks a locked position. A search that finds light goes to PLUMB, otherwise to DARK; light that returns sends DARK to SEARCH. The plumb check passes to TRAIN, or to STANDBY for a spare on its own line, and a retune to PLUMB again. Training with the expected line goes to ACTIVE with the peer learned, and a spare receive position whose sender names another lane goes to PLUMB for it; a failure below the third sends a position to SEARCH, from its SEARCH_START, or, for codeword errors above 64, to TRAIN, and the third retires it; the sender of a wrong line is told. 60 s of ACTIVE clear the failures. An engine that starts with both calibrations starts its ports, each search from the drive that firmware has set; with one missing it notes the failed bank and stays so. Firmware's coefficients are what it writes. A refresh fills the shadow matrix at most once per second, and the next heater update switches to it whole; every drive lies in 16 bits and is 0 in OFF; an entry of the matrix whose column does not exist reads 0. 100 ms in READY enter keep-alive, and a port DARK for 1 s restarts: its mode is open and its positions wait for light, their failures kept. -/
def Obligations.OpticalEngines : Prop :=
  (∀ (e : Fin 8) (lines : List LineMeas) (s : State), s.dev ≠ .off →
      let v := lines.foldl (fun u m => judgeLine e (meanPower lines) m u) s
      LeadsTo (exec (.combLineMeasure e lines) s) fun t => t.oe.comb = v.oe.comb
        ∧ (engineOf t e).st = (if (engineOf v e).st = 2 ∧ allLost v e = true then 3 else if (engineOf v e).st = 3 ∧ allLost v e = false then 2 else (engineOf v e).st))
  ∧ (∀ (e : Nat) (mean : Int) (m : LineMeas) (s : State),
      let c := combOf s e m.line
      let c' := combOf (judgeLine e mean m s) e m.line
      c'.power = m.deciDbm ∧ c'.tag = m.tag ∧ c'.noTagMs = (if m.tag then 0 else c.noTagMs + 1)
        ∧ (c'.lost = true ↔ m.deciDbm < 20 ∨ 10 ≤ c'.noTagMs)
        ∧ c'.goodMs = (if m.tag = true ∧ 80 ≤ m.deciDbm ∧ m.deciDbm ≤ 140 ∧ (m.deciDbm - mean).natAbs ≤ 15 then c.goodMs + 1 else 0))
  ∧ (∀ (p : Pos) (err : Int) (s : State),
      let k := posKey p
      let u := s.modPos k fun q => { q with lockErr := err }
      (100 < err.natAbs → loopRuns (posAt s k) = true → exec (.lockErrorExceed p err) s = .next (movePos k .unlocked u))
      ∧ (err.natAbs ≤ 100 ∨ loopRuns (posAt s k) = false → exec (.lockErrorExceed p err) s = .next u))
  ∧ (∀ (p : Pos) (line : Fin 34) (drive : Nat) (s : State), (posAt s (posKey p)).st = .search ∨ (posAt s (posKey p)).st = .unlocked →
      (exec (.searchComplete p (some line) drive) s
        = .next (movePos (posKey p) .plumb (s.modPos (posKey p) fun q => { q with drive := min drive 65535, retune := (min drive 65535 : Nat) })))
      ∧ exec (.searchComplete p none drive) s = .next (settleMode p.port (movePos (posKey p) .dark s)))
  ∧ (∀ (p : Pos) (tags : List TagMeas) (s : State), (posAt s (posKey p)).st = .plumb →
      (plumbPasses (posAt s (posKey p)).line tags = true → exec (.plumbCheckEnd p tags) s
        = .next (settleMode p.port (movePos (posKey p) (if ownSpare (posKey p) (posAt s (posKey p)) then .standby else .train) s)))
      ∧ (∀ d, plumbPasses (posAt s (posKey p)).line tags = false → strongest tags = some d → exec (.plumbCheckEnd p tags) s
          = .next (settleMode p.port (failPos (posKey p) (movePos (posKey p) .mislocked) (s.modPos (posKey p) fun q => { q with detected := d })))))
  ∧ (∀ (p : Pos) (s : State), (posAt s (posKey p)).st = .mislocked → LeadsTo (exec (.retuneComplete p) s) fun t =>
      (posAt t (posKey p)).st = .plumb ∧ (posAt t (posKey p)).drive = retuned (posKey p) (posAt s (posKey p)) ∧ (posAt t (posKey p)).detected = 63)
  ∧ (∀ (p : Pos) (t : Training) (s : State),
      let k := posKey p
      let good := t.completed = true ∧ t.line.val = (posAt s k).line
      ((posAt s k).st = .train → good → exec (.trainingComplete p t) s
        = .next (settleMode p.port (movePos k .active (learnPeer k (t.device.toNat, t.port.val) s))))
      ∧ ((posAt s k).st = .train → ¬good → exec (.trainingComplete p t) s = .next (settleMode p.port (failPos k (searchPos k)
          (if t.completed = true ∧ p.dir = .rx then reportMismatch k t.line s else s))))
      ∧ ((posAt s k).st = .standby → p.dir = .rx → good →
          (∀ lane, substituteLane s k t = some lane → exec (.trainingComplete p t) s = .next (spareTaken k (movePos k .plumb (s.modPos k fun q => { q with sub := lane }))))
          ∧ (substituteLane s k t = none → exec (.trainingComplete p t) s = .next s)))
  ∧ (∀ (port : Fin 16) (w : Fin 34) (s : State), (posAt s (68 * port.val + w.val)).st = .train →
      exec (.trainingMismatchReport port w) s = .next (failPos (68 * port.val + w.val) (searchPos (68 * port.val + w.val)) s))
  ∧ (∀ (p : Pos) (n : Nat) (s : State), (posAt s (posKey p)).st = .active →
      (64 < n → exec (.codewordErrors p n) s = .next (failPos (posKey p) (movePos (posKey p) .train) s)) ∧ (n ≤ 64 → exec (.codewordErrors p n) s = .next s)
      ∧ ((posAt s (posKey p)).since + 3000000000 ≤ s.aon → exec (.failCountReset p) s = .next (s.modPos (posKey p) fun q => { q with fails := 0 }))
      ∧ (s.aon < (posAt s (posKey p)).since + 3000000000 → exec (.failCountReset p) s = .next s))
  ∧ (∀ (k : Nat) (next : State → State) (s : State),
      ((posAt s k).fails < 2 → failPos k next s = next (s.modPos k fun q => { q with fails := q.fails + 1 }))
      ∧ (2 ≤ (posAt s k).fails → (posAt (failPos k next s) k).st = .retired))
  ∧ (∀ (k : Nat) (s : State), (posAt (searchPos k s) k).st = .search ∧ (posAt (searchPos k s) k).drive = (calOf s k).searchStart
      ∧ ∀ j, j ≠ k → posAt (searchPos k s) j = posAt s j)
  ∧ (∀ (p : Pos) (s : State), (posAt s (posKey p)).st = .dark →
      (p.dir = .rx ∨ (combOf s (p.port.val / 2) (posAt s (posKey p)).line).lost = false → exec (.lightReturn p) s = .next (searchPos (posKey p) s))
      ∧ (p.dir = .tx → (combOf s (p.port.val / 2) (posAt s (posKey p)).line).lost = true → exec (.lightReturn p) s = .next s))
  ∧ (∀ (e : Fin 8) (kt kr : List KEntry) (cal : List CalEntry) (s : State), (engineOf s e).st = 0 → regionUp s (e.val / 2) = true → s.dev = .ready →
      let v := writeCal e cal s
      (LeadsTo (exec (.engineStart e (some kt) (some kr) cal) s) fun t => (engineOf t e).st = 2 ∧ (t.oe.bank.get {} (2 * e.val)).k = kTable kt
        ∧ (t.oe.bank.get {} (2 * e.val + 1)).k = kTable kr ∧ t.oe.cal = v.oe.cal
        ∧ ∀ k, k / 136 = e.val → (posAt s k).st = .off →
            (posAt t k).st = .search ∧ (posAt t k).line = k % 34 ∧ (posAt t k).drive = (calOf v k).searchStart)
      ∧ (exec (.engineStart e none (some kr) cal) s = .next (raiseEvent 0x43 0 (leBytes 1 e.val ++ leBytes 1 0) (v.modEng e fun g => { g with st := 1 })))
      ∧ (exec (.engineStart e (some kt) none cal) s = .next (raiseEvent 0x43 0 (leBytes 1 e.val ++ leBytes 1 1) (v.modEng e fun g => { g with st := 1 })))
      ∧ (exec (.engineStart e none none cal) s = .next (raiseEvent 0x43 0 (leBytes 1 e.val ++ leBytes 1 2) (v.modEng e fun g => { g with st := 1 }))))
  ∧ (∀ (e : Fin 8) (tx rx : Option (List KEntry)) (cal : List CalEntry) (s : State), (engineOf s e).st ≠ 0 → exec (.engineStart e tx rx cal) s = .next s)
  ∧ (∀ (e : Fin 8) (x : CalEntry) (s : State), (writeCal e [x] s).oe.cal.get {} (136 * e.val + (if x.rxBank then 68 else 0) + x.ring.val)
      = { ffCoef := x.ffCoef.toNat, searchStart := x.searchStart.toNat, loopGain := x.loopGain.toNat, biasThr := x.biasThr })
  ∧ (∀ (e : Fin 8) (rx : Bool) (ks : List KEntry) (cal : List CalEntry) (loop : List Int) (s : State), engineUp s e = true →
      let b := 2 * e.val + (if rx then 1 else 0)
      ((s.oe.bank.get {} b).refreshed = none → exec (.xtalkRefresh e rx ks cal) s
        = .next ((writeCal e cal s).modBank b fun q => { q with shadow := some (kTable ks), refreshed := some s.aon }))
      ∧ (∀ t, (s.oe.bank.get {} b).refreshed = some t → s.aon < t + 50000000 → exec (.xtalkRefresh e rx ks cal) s = .next s)
      ∧ (LeadsTo (exec (.heaterUpdate e rx loop) s) fun t => (t.oe.bank.get {} b).shadow = none
          ∧ (t.oe.bank.get {} b).k = (s.oe.bank.get {} b).shadow.getD (s.oe.bank.get {} b).k
          ∧ ∀ i, i < 68 → (posAt t (ringPos b i)).drive ≤ 65535 ∧ ((posAt s (ringPos b i)).st = .off → (posAt t (ringPos b i)).drive = 0)))
  ∧ (∀ s : State, (s.dev = .bivouac ∨ (s.dev = .ready ∧ s.oe.idleSince + 5000000 ≤ s.aon) →
        LeadsTo (exec .keepaliveEntry s) fun t => ∀ e, e < 8 → 2 ≤ (engineOf s e).st → (engineOf t e).keepalive = true)
      ∧ (s.dev = .ready → s.aon < s.oe.idleSince + 5000000 → exec .keepaliveEntry s = .next s))
  ∧ (∀ (port : Fin 16) (s : State), (∀ k, k / 68 = port.val → (posAt s k).st = .dark ∧ (posAt s k).since + 50000000 ≤ s.aon) →
      LeadsTo (exec (.portDarkRestart port) s) fun t => portMode t port = 0
        ∧ (∀ k, k / 68 = port.val → posAt t k = { posAt s k with trained := false }) ∧ ∀ k, k / 68 ≠ port.val → posAt t k = posAt s k)
  ∧ (∀ (port : Fin 16) (k : Nat) (s : State), k / 68 = port.val → (posAt s k).st ≠ .dark ∨ s.aon < (posAt s k).since + 50000000 →
      exec (.portDarkRestart port) s = .next s)

/-- Die-to-die directions retrain narrower, take flits in order, and links and meshes that fail are declared down. New failing lanes of a direction in service join its failed ones and start a retrain; above 208 failed lanes the direction falls silent. When the retrain ends the width is that of the failed lanes, never wider than before, and each new lane is recorded. A flit is the sender's next, or the first of a replay that it has been asked for, which begins before the flit leaves the 128 that it keeps; a replayed flit has the bytes it had, and a new one carries the next unit of a packet that crosses, or other traffic. One that arrives undamaged, so that its CRC-32 holds, with the awaited number, advances the receiver, and what it completes has crossed: the packet waits in the next region. One that came before is ignored, and a bad one or a later one asks for the awaited number. The pools of a crossing and what its flits carry are the model's choice (log 151); so are the records of lanes (log 44), the count of a mesh flit's receipts (log 45), when the effects of a loss happen (log 97) and the CRC beside the flit (log 134). LINK_WATCHDOG_EXPIRE of a silent link declares it down; with both regions up the loss is the link's. A mesh flit that a stop receives from a neighbour with a good CRC clears that link's failures, and a bad one counts and is recorded; a packet's way between two stops goes first along x, then along y, and is as short as that allows; MESH_DOWN after the first receipt and 8 retries have failed loses the region with cause 2. -/
def Obligations.DieRing : Prop :=
  (∀ (link : Fin 4) (turn : Turn) (lanes : List (Fin 272)) (s : State),
      let k := dirKey link turn
      let d := d2dDir s k
      let new := (lanes.map fun x => x.val).filter fun x => !d.failed.contains x
      let failed := addLanes new d.failed
      (s.ring.down.get false link = true ∨ d.silent = true ∨ new = [] → exec (.d2dLaneFail link turn lanes) s = .next s)
      ∧ (s.ring.down.get false link = false → d.silent = false → new ≠ [] →
          (failed.length < 16 → exec (.d2dLaneFail link turn lanes) s = .next { s with ring := { s.ring with
            dir := s.ring.dir.set {} k { d with failed := failed, fresh := addLanes new d.fresh, retraining := true } } })
          ∧ (LeadsTo (exec (.d2dLaneFail link turn lanes) s) fun t => d2dDir t k
              = (if 208 < failed.length then { d with failed := failed, silent := true, retraining := false, width := 4 }
                else { d with failed := failed, fresh := addLanes new d.fresh, retraining := true })
              ∧ ∀ j, j ≠ k → d2dDir t j = d2dDir s j)))
  ∧ (∀ new old : List Nat, (∀ x, x ∈ addLanes new old ↔ x < 272 ∧ (x ∈ old ∨ x ∈ new)) ∧ (addLanes new old).Pairwise (· < ·))
  ∧ (∀ (link : Fin 4) (turn : Turn) (s : State),
      let k := dirKey link turn
      let d := d2dDir s k
      let w := max d.width (widthCode d.failed.length)
      (d.retraining = true → exec (.d2dRetrainComplete link turn) s
        = .next (d.fresh.foldl (fun u x => record (laneRecord link k w (if d.width < w then 1 else 0) x) u) { s with ring := { s.ring with
            dir := s.ring.dir.set {} k { d with retraining := false, fresh := [], width := w } } }))
      ∧ (d.retraining = false → exec (.d2dRetrainComplete link turn) s = .next s))
  ∧ (∀ n : Nat, (widthCode n = 0 ↔ n ≤ 16) ∧ (widthCode n = 4 ↔ 208 < n) ∧ widthCode n ≤ widthCode (n + 1))
  ∧ (∀ (link : Fin 4) (turn : Turn) (replay : Bool) (bytes damage : List Byte) (s : State),
      let k := dirKey link turn
      let d := d2dDir s k
      let n := d.sends replay
      let x := sendD2d k n bytes s
      let good := d2dGood (damaged (d2dFlit x.1) damage)
      let u := { x.2 with ring := { x.2.ring with dir := x.2.ring.dir.mod {} k fun d => d.receive n good } }
      (s.ring.down.get false link = false → d.silent = false → d.retraining = false →
          (good = true → n = d.rxNext → exec (.d2dFlitReceive link turn replay bytes damage) s = .next (takeUnits k n u))
          ∧ (good = false ∨ n ≠ d.rxNext → exec (.d2dFlitReceive link turn replay bytes damage) s = .next u))
      ∧ (s.ring.down.get false link = true ∨ d.silent = true ∨ d.retraining = true → exec (.d2dFlitReceive link turn replay bytes damage) s = .next s))
  ∧ (∀ (k n : Nat) (bytes : List Byte) (s : State),
      let d := d2dDir s k
      let gone := fun (u : State) (bs : List Byte) => { u with ring := { u.ring with dir := u.ring.dir.mod {} k fun d => d.sent n bs } }
      (∀ bs, d.again n = some bs → sendD2d k n bytes s = (bs, gone s bs))
      ∧ (d.again n = none → nextCrossing s k = none → sendD2d k n bytes s = (bytes, gone s bytes))
      ∧ (∀ x, d.again n = none → nextCrossing s k = some x →
          let bs := slice x.held.pkt.bytes (244 * x.sent) 244
          sendD2d k n bytes s = (bs, gone (sendUnit k n x s) bs)))
  ∧ (∀ (k n : Nat) (x : Crossing) (s : State),
      (hopUnits x.held ≤ x.sent + 1 → x.held.units = 0 → (sendUnit k n x s).fab
        = { s.fab with cross := s.fab.cross.erase x, wire := s.fab.wire ++ [(k, n, { x with sent := 0 })] })
      ∧ (s.fab.wire = [(k, n, x)] → takeUnits k n s = enqueue x.key { x.held with region := dirTarget k, via := k + 1, units := 0 } { s with fab := { s.fab with wire := [] } }))
  ∧ (∀ (d : D2dDir) (n m : Nat) (good : Bool) (b c : List Byte),
      (good = true → n = d.rxNext → d.receive n good = { d with rxNext := d.rxNext + 1, asked := none })
      ∧ (good = true → n < d.rxNext → d.receive n good = d)
      ∧ (good = false ∨ d.rxNext < n → d.receive n good = { d with asked := some d.rxNext })
      ∧ (∀ replay, d.asked = none → d.sends replay = d.txNext)
      ∧ (∀ a, d.asked = some a → d.sends true = a ∧ d.sends false = if a + 128 ≤ d.txNew then a else d.txNext)
      ∧ (d.sent n b).txNext = n + 1 ∧ (n < d.txNew → d.sent n b = { d with txNext := n + 1 })
      ∧ (d.kept.length ≤ 128 → d.kept.length ≤ d.txNew → let e := d.sent d.txNew b
          e.txNew = d.txNew + 1 ∧ e.kept.length ≤ 128 ∧ e.again d.txNew = some b ∧ (d.again m = some c → d.txNew < m + 128 → e.again m = some c)))
  ∧ (∀ bs : List Byte, d2dGood (damaged (d2dFlit bs) []) = true ∧ (bs.length = 256 → slice (damaged (d2dFlit bs) []) 0 256 = bs))
  ∧ (∀ (link : Fin 4) (s : State), s.ring.down.get false link = false →
      let u := { s with ring := { s.ring with down := s.ring.down.set false link true } }
      let v := [link.val, (link.val + 1) % 4].foldl (fun u r => u.modRegion r fun x => { x with cause := 4 })
        (recordFatal { level := 3, cls := 3, code := 0x403, part := link.val } u)
      (linkSilent s link = false → exec (.linkWatchdogExpire link) s = .next s)
      ∧ (linkSilent s link = true → regionUp s link = true → regionUp s ((link.val + 1) % 4) = true →
          exec (.linkWatchdogExpire link) s = .next (tellLoss none 4 link (applyLoss v)))
      ∧ (linkSilent s link = true → regionUp s link = false ∨ regionUp s ((link.val + 1) % 4) = false →
          exec (.linkWatchdogExpire link) s = .next (applyLoss u)))
  ∧ (∀ (link : Fin 4) (s : State), s.ring.down.get false link = true → exec (.linkWatchdogExpire link) s = .next s)
  ∧ (∀ (r : Fin 4) (stop : Fin 64) (side : MeshSide) (good : Bool) (s : State),
      let k := meshKey r stop side
      (regionRuns s r = true → (neighbour stop side).isSome = true →
        (exec (.meshFlitReceive r stop side true) s = .next { s with ring := { s.ring with meshFails := s.ring.meshFails.set 0 k 0 } })
        ∧ (exec (.meshFlitReceive r stop side false) s = .next (record { level := 2, cls := 1, code := 0x308, region := some r.val }
            { s with ring := { s.ring with meshFails := s.ring.meshFails.mod 0 k (· + 1) } })))
      ∧ (regionRuns s r = false ∨ neighbour stop side = none → exec (.meshFlitReceive r stop side good) s = .next s))
  ∧ (∀ k t : Fin 64, (meshPath 15 k t).length = (stopX k - stopX t) + (stopX t - stopX k) + (stopY k - stopY t) + (stopY t - stopY k)
      ∧ (k ≠ t → (meshPath 15 k t).getLast? = some t.val)
      ∧ ∀ x ∈ meshPath 15 k t, stopY x = stopY k ∨ stopX x = stopX t)
  ∧ (∀ (r : Fin 4) (s : State), regionRuns s r = true →
      ((∃ e ∈ s.ring.meshFails, e.1 % 4 = r.val ∧ 9 ≤ e.2) → exec (.meshDown r) s
          = .next (loseRegion r 2 { s with ring := { s.ring with meshFails := s.ring.meshFails.keep fun k _ => decide (k % 4 ≠ r.val) } }))
      ∧ ((∀ e ∈ s.ring.meshFails, e.1 % 4 = r.val → e.2 < 9) → exec (.meshDown r) s = .next s))

/-- A read of HBM delivers what was written last, and errors of lines and channels have their effects. In a region whose controllers run, with sound buffers: HBM_WRITE of a line in usable memory and a channel that works changes exactly the bytes that the mask names, and a read of any other line delivers what it delivered before, whether the write merges, fills an entry, takes one, evicts the oldest or passes the buffer; blocks, fabric and host are as before. A clean read of a good line delivers it and changes nothing; a corrected one also counts and is recorded; an uncorrectable one delivers 0xFF, marks the line and counts its row. A write outside usable memory or into a failed channel is discarded with a record. A partial entry that leaves the buffer is merged into its line, and one whose line cannot be read leaves it poisoned. PATROL_SCRUB advances the channel's place, counts a corrected line, and records one that cannot be corrected. HBM_REFRESH holds the channel for 4 µs. A channel that lost training and has not retrained within 100 µs fails, and its buffered writes are discarded. POST_PACKAGE_REPAIR without a row left raises the event, and with one makes the row's lines good, with what they and the buffer held, those poisoned that could not be read. That a line stays uncorrectable until it is written (log 40), that scrub's corrections count (log 43), that a failed channel drops its buffer (log 46) and the class of the event (log 22) are the model's. While controllers do not run, reads and writes do nothing. -/
def Obligations.HbmLines : Prop :=
  (∀ (r : Fin 4) (off : BitVec 38) (mask : W64) (data : BitVec 512) (line : Nat) (s : State), hbmRuns s r = true → physLine s r off.toNat = some line →
      chanFailed s (lineChannel line) = false → BufferSound s (lineChannel line) → s.hbm.meet = [] →
      s.hbm.bad.get 0 line = 0 ∨ mask = BitVec.allOnes 64 →
      LeadsTo (exec (.hbmWrite r off mask data []) s) fun t =>
        peekLine t r off.toNat = mergeBytes mask.toNat (leBytes 64 data.toNat) (peekLine s r off.toNat)
        ∧ (∀ r' off', physLine s r' off' ≠ some line → peekLine t r' off' = peekLine s r' off')
        ∧ t = { s with hbm := t.hbm } ∧ t.hbm.pmap = s.hbm.pmap)
  ∧ (∀ (r : Fin 4) (off : BitVec 38) (mask : W64) (data : BitVec 512) (errs : List ReadErr) (s : State), hbmRuns s r = true →
      let bs := leBytes 64 data.toNat
      exec (.hbmWrite r off mask data errs) s = meeting errs (fun v => .next (writeLine r off.toNat mask.toNat bs v)) s
      ∧ (physLine s r off.toNat = none → writeLine r off.toNat mask.toNat bs s = record (hbmRecord 2 0x304 r 0 (off.toNat / 64 * 64) 0 none) s)
      ∧ ∀ line, physLine s r off.toNat = some line → chanFailed s (lineChannel line) = true → writeLine r off.toNat mask.toNat bs s
          = record (hbmRecord 2 0x304 r (lineChannel line) (off.toNat / 64 * 64) (lineFrame line) none) s)
  ∧ (∀ (e : WcEntry) (s : State), chanFailed s (lineChannel e.line) = false → e.mask ≠ fullMask → s.hbm.meet = [] →
      (s.hbm.poison.get false e.line = false → s.hbm.bad.get 0 e.line = 0 →
        dramLine (flushEntry e s) e.line = mergeBytes e.mask e.data (dramLine s e.line) ∧ (flushEntry e s).hbm.poison.get false e.line = false)
      ∧ (s.hbm.poison.get false e.line = true ∨ s.hbm.bad.get 0 e.line ≠ 0 →
        (flushEntry e s).hbm.poison.get false e.line = true ∧ (flushEntry e s).hbm.bad.get 0 e.line = 0))
  ∧ (∀ (r : Fin 4) (off : BitVec 38) (q : Byte) (line : Nat) (s : State), hbmRuns s r = true → physLine s r off.toNat = some line →
      chanFailed s (lineChannel line) = false → s.hbm.bad.get 0 line = 0 →
      let blk := if q.toNat < 64 then some (0xFF, q.toNat) else none
      let ch := lineChannel line
      let a := off.toNat / 64 * 64
      (s.hbm.poison.get false line = false → exec (.hbmRead r off q .clean) s = .next s
        ∧ readLineEcc r off.toNat blk .clean s = (mergedLine s line, false, s)
        ∧ exec (.hbmRead r off q .corrected) s = .next (record (hbmRecord 1 0x301 r ch a (lineFrame line) blk)
            { s with hbm := { s.hbm with corrected := s.hbm.corrected.mod 0 ch (· + 1) } }))
      ∧ (∀ row, (readLineEcc r off.toNat blk (.uncorrectable row) s).1 = poisonBytes
          ∧ exec (.hbmRead r off q (.uncorrectable row)) s = .next (countRow ch (rowKey row line) (record (hbmRecord 2 0x302 r ch a (lineFrame line) blk)
              { s with hbm := { s.hbm with bad := s.hbm.bad.set 0 line (rowKey row line + 1) } }))))
  ∧ (∀ (r : Fin 4) (off : BitVec 38) (q : Byte) (e : Ecc) (mask : W64) (data : BitVec 512) (s : State), hbmRuns s r = false →
      exec (.hbmRead r off q e) s = .next s ∧ exec (.hbmWrite r off mask data []) s = .next s)
  ∧ (∀ (ch : Fin 256) (w : Bool) (s : State), hbmRuns s (ch.val / 64) = true → chanFailed s ch = false →
      let k := s.hbm.scrub.get 0 ch
      let line := ch.val / 64 * 2 ^ 31 + ch.val % 64 * 2 ^ 25 + k
      let u := { s with hbm := { s.hbm with scrub := s.hbm.scrub.set 0 ch ((k + 1) % 2 ^ 25) } }
      let rec' := fun cls code => hbmRecord cls code (ch.val / 64) ch (virtOff s line) (lineFrame line) none
      let fails := fun key => (Host.Outcome.next (countRow ch key (record (rec' 2 0x303) { u with hbm := { u.hbm with bad := u.hbm.bad.set 0 line (key + 1) } })) : Out)
      s.hbm.chanMapout.get false ch = false →
      (s.hbm.bad.get 0 line = 0 → exec (.patrolScrub ch .clean w) s = .next u
        ∧ exec (.patrolScrub ch .corrected w) s = .next (record (rec' 1 0x301) { u with hbm := { u.hbm with corrected := u.hbm.corrected.mod 0 ch (· + 1) } }))
      ∧ (∀ key, s.hbm.bad.get 0 line = key + 1 → exec (.patrolScrub ch .clean w) s = fails key ∧ exec (.patrolScrub ch .corrected w) s = fails key)
      ∧ ∀ row, exec (.patrolScrub ch (.uncorrectable row) w) s = fails (rowKey row line))
  ∧ (∀ (ch : Fin 256) (s : State), hbmRuns s (ch.val / 64) = true →
      exec (.hbmRefresh ch) s = .next { s with hbm := { s.hbm with heldTo := s.hbm.heldTo.set 0 ch (s.aon + 200) } }
      ∧ (chanFailed s ch = false → exec (.channelTrainingLost ch) s = .next { s with hbm := { s.hbm with lostAt := s.hbm.lostAt.set 0 ch (s.aon + 1) } })
      ∧ (chanFailed s ch = true → exec (.channelTrainingLost ch) s = .next s))
  ∧ (∀ (ch : Fin 256) (s : State),
      (s.hbm.lostAt.get 0 ch ≠ 0 → s.hbm.lostAt.get 0 ch + 4999 ≤ s.aon → exec (.channelRetrainTimeout ch) s = .next (failChannel ch 1 s))
      ∧ (s.hbm.lostAt.get 0 ch = 0 ∨ s.aon < s.hbm.lostAt.get 0 ch + 4999 → exec (.channelRetrainTimeout ch) s = .next s))
  ∧ (∀ (ch cause : Nat) (s : State), chanFailed s ch = false → s.hbm.chanMapout.get false ch = false →
      chanFailed (failChannel ch cause s) ch = true ∧ wcbOf (failChannel ch cause s) ch = [] ∧ ∀ k, k ≠ ch → wcbOf (failChannel ch cause s) k = wcbOf s k)
  ∧ (∀ (ch : Fin 256) (lines unread : List Nat) (s : State), s.dev = .boot ∨ s.dev = .ready → regionUp s (ch.val / 64) = true →
      exec (.postPackageRepair ch lines unread false) s = .next (raiseEvent 0x30 0 (leBytes 1 (ch.val / 64) ++ leBytes 1 (ch.val % 64)) s)
      ∧ (LeadsTo (exec (.postPackageRepair ch lines unread true) s) fun t =>
          let line := fun l => ch.val / 64 * 2 ^ 31 + ch.val % 64 * 2 ^ 25 + l % 2 ^ 25
          (∀ l ∈ lines, t.hbm.bad.get 0 (line l) = 0)
            ∧ (∀ l, l ∈ unread ∨ (l ∈ lines ∧ s.hbm.bad.get 0 (line l) ≠ 0) → t.hbm.poison.get false (line l) = true)
            ∧ (∀ l ∈ lines, s.hbm.bad.get 0 (line l) = 0 → s.hbm.poison.get false (line l) = false → (∀ x ∈ unread, line x ≠ line l) → mergedLine t (line l) = mergedLine s (line l))
            ∧ (∀ l ∈ lines ++ unread, ∀ e ∈ wcbOf t ch, e.line ≠ line l)
            ∧ t.hbm.heldTo.get 0 ch = s.aon + 100000))

/-- Leases are renewed, granted and expire, notices fence devices, and a shadow follows its working device. LEASE_RENEW when due sends the renewal with the next REQ_ID and keeps it among the last 16. A grant for a renewal that is kept, of 20 to 2,000 ms and not stale, sets lease and expiry from the time of the request; one for a renewal that is not, or out of range, is counted. At its expiry the lease is lost: the job ends and the device is FENCED. A notice for another device with a later epoch sets its entry, and an older one changes nothing; both are acknowledged. A notice for this device that revokes its lease fences it, and one for an older lease does nothing. BS_DIGEST of the working device is kept under its station. A tee copy on the tee lane that fits enters the log, and one that does not fit stays; one that comes to a parked device, or from a peer that is not ACTIVE, is discarded and counted, and one that comes after the shadow has ended is discarded. The copy at the log's head, with the errors that its reads meet, is handled once the state that it needs is reached, a COL packet when it lands here or is stale; a message that is no marker is dropped. The class of the events (log 22), what a copy waits for (log 92) and the renewal's and the notice's details (log 93) are the model's. -/
def Obligations.Membership : Prop :=
  (∀ s : State, discovers s = true →
      (s.mem.renewAt ≤ s.aon → exec .leaseRenew s = .next (sendFm 0x30 (renewBody s) { s with mem := { s.mem with
        renewals := (s.mem.renewals ++ [(s.mem.reqId, s.aon)]).drop (s.mem.renewals.length + 1 - 16), reqId := (s.mem.reqId + 1) % 2 ^ 32,
        renewAt := s.mem.renewAt + 50000 * s.mem.renewMs } }))
      ∧ (s.aon < s.mem.renewAt → exec .leaseRenew s = .next s)
      ∧ (s.mem.lstate = 1 → s.mem.expiry ≤ s.aon → exec .leaseExpiry s
          = .next (loseLease 0x70 (leBytes 4 s.mem.lease) { s with mem := { s.mem with lstate := 2, lapsedAt := s.aon } }))
      ∧ (s.mem.lstate ≠ 1 ∨ s.aon < s.mem.expiry → exec .leaseExpiry s = .next s))
  ∧ (∀ (c : Carried) (rest : List Carried) (s : State), Message s 0x31 c rest →
      let b := c.pkt.payload.drop 8
      let u := s.modFab fun f => { f with mgtIn := rest }
      let n := field b 4 4
      let ms := field b 8 2
      (grantOk b = false → exec .leaseGrant s = .next (fabCount 0 u))
      ∧ (grantOk b = true → (∀ r ∈ s.mem.renewals, r.1 ≠ field b 0 4) → exec .leaseGrant s = .next (memCount 1 u))
      ∧ (∀ x, grantOk b = true → s.mem.renewals.find? (fun r => r.1 == field b 0 4) = some x →
          (ms < 20 ∨ 2000 < ms ∨ grantStale s n = true → exec .leaseGrant s = .next (memCount 1 u))
          ∧ (20 ≤ ms → ms ≤ 2000 → grantStale s n = false → n ≠ s.mem.lease → exec .leaseGrant s
              = .next (leaveFenced (u.modMem fun m => { m with lease := n, lstate := 1, expiry := x.2 + 49950 * ms })))
          ∧ (20 ≤ ms → ms ≤ 2000 → grantStale s n = false → n = s.mem.lease → s.mem.lstate = 1 → exec .leaseGrant s
              = .next (u.modMem fun m => { m with lease := n, lstate := 1, expiry := max m.expiry (x.2 + 49950 * ms) }))))
  ∧ (∀ s : State, (s.dev = .fenced → leaveFenced s = enterReady s) ∧ (s.dev ≠ .fenced → s.dev ≠ .bivouac → leaveFenced s = s))
  ∧ (∀ (c : Carried) (rest : List Carried) (s : State), Message s 0x32 c rest →
      let b := c.pkt.payload.drop 8
      let u := s.modFab fun f => { f with mgtIn := rest }
      let epoch := field b 0 4
      let d := field b 4 2
      let clear := bit (field b 6 1) 0
      (noticeOk b = false → exec .fenceNotice s = .next (fabCount 0 u))
      ∧ (noticeOk b = true → s.fab.number ≠ some d →
          (epoch ≤ (s.mem.fence.get {} d).epoch → exec .fenceNotice s = .next (leaveStation (fenceAck epoch d u)))
          ∧ ((s.mem.fence.get {} d).epoch < epoch →
              let v := u.modMem fun m => { m with fence := m.fence.set {} d { fenced := !clear, epoch := epoch }, fenceEpoch := max m.fenceEpoch epoch }
              exec .fenceNotice s = .next (leaveStation (fenceAck epoch d (if clear then v else cutOff d v))) ∧ isFenced v d = !clear))
      ∧ (noticeOk b = true → s.fab.number = some d → clear = true ∨ field b 8 4 < s.mem.lease → exec .fenceNotice s = .next u)
      ∧ (noticeOk b = true → s.fab.number = some d → clear = false → s.mem.lease ≤ field b 8 4 → s.mem.lstate ≠ 3 → exec .fenceNotice s
          = .next (fenceAck epoch d (loseLease 0x71 (leBytes 4 s.mem.lease ++ leBytes 4 epoch ++ leBytes 4 (field b 8 4))
              (u.modMem fun m => { m with lstate := 3, revoked := field b 8 4, fenceEpoch := max m.fenceEpoch epoch })))))
  ∧ (∀ (code : Nat) (body : List Byte) (s : State), loseLease code body s = enterFenced (raiseEvent code 0 body (endJob 0x14 s.job.last s))
      ∧ (∀ v : State, discovers v = true → v.dev ≠ .bivouac → enterFenced v = sendHealth 6 0 { leaveKeepalive v with dev := .fenced })
      ∧ (∀ v : State, v.dev = .fault → enterFenced v = v))
  ∧ (∀ (c : Carried) (rest : List Carried) (sh : Shadow) (s : State), Message s 0x35 c rest → s.mem.shadow = some sh →
      let b := c.pkt.payload.drop 8
      let u := s.modFab fun f => { f with mgtIn := rest }
      (bsDigestOk b = false → exec .bsDigest s = .next (fabCount 0 u))
      ∧ (bsDigestOk b = true → c.pkt.src ≠ sh.partner → exec .bsDigest s = .next u)
      ∧ (bsDigestOk b = true → c.pkt.src = sh.partner → s.job.run = none → exec .bsDigest s = .next (u.modMem fun m =>
          { m with bsDigest := m.bsDigest.set [] (field b 0 6) ((List.range 5).map fun i => field b (8 + 8 * i) 8) })))
  ∧ (∀ (port : Fin 16) (line : Fin 34) (errs : List ReadErr) (rest b : List Byte) (s : State), teeLane s port line = true →
      let key := linkKey s port line
      let st := (fabLink s key).stream
      let p := parsePacket b
      nextInStream (st.length + 1) st = (rest, some b) → linkLocal p = false → headerOk b = true →
      let taken := fun v : State => returnCredit { pkt := p, link := key, pool := 7, units := p.units } (v.modLink key fun l => { l with stream := rest })
      let runs := fun g : State → State => exec (.teeCopyReceive port line errs) s = meeting errs (fun v => .next (g v)) s
      ((peerAt s key).st ≠ 3 ∨ s.dev = .bivouac → runs fun v => fabCount 6 (taken v))
      ∧ ((peerAt s key).st = 3 → s.dev ≠ .bivouac →
        (∀ sh, s.mem.shadow = some sh →
          (sh.used + p.size ≤ sh.logLen → runs fun v => logCopy sh p ((taken v).modMem fun m => { m with teeKnown := true, teePort := port, teeLine := line }))
          ∧ (sh.logLen < sh.used + p.size → runs fun v => v))
        ∧ (s.mem.shadow = none → s.mem.ended = true → copyLike s p = true → runs taken)
        ∧ (s.mem.shadow = none → s.mem.ended = false ∨ copyLike s p = false → runs fun v => v)))
  ∧ (∀ (errs : List ReadErr) (s : State), exec (.teeLogHandle errs) s = moving errs (fun v => exec (.teeLogHandle []) v) s)
  ∧ (∀ (sh : Shadow) (p : Packet) (ps : List Packet) (s : State), s.mem.shadow = some sh → sh.log = p :: ps →
      (p.type = 1 → mgtCode p ≠ 0x10 → exec (.teeLogHandle []) s = .next (popCopy s))
      ∧ (p.type = 1 → mgtCode p = 0x10 → exec (.teeLogHandle []) s = .next (teeMarkerCopy (field p.payload 8 6) s))
      ∧ (p.type ≠ 1 → p.jobTag ≠ s.job.tag → exec (.teeLogHandle []) s = .next s)
      ∧ (p.jobTag = s.job.tag → isRequest p.type = true → payloadOk p = true →
          let c : Carried := { pkt := p, region := targetRegion s p }
          (requestWaits s p = true ∨ heldByCheckpoint s p = true → exec (.teeLogHandle []) s = .next s)
          ∧ (requestWaits s p = false → heldByCheckpoint s p = false → exec (.teeLogHandle []) s = .next
              (if p.type = 0x14 then handleClaim c (popCopy s) else if p.type = 0x15 then handleDone c (popCopy s) else handleOrdered c (popCopy s))))
      ∧ (p.jobTag = s.job.tag → isReply p.type = true → exec (.teeLogHandle []) s = .next (teeReply p s))
      ∧ (p.jobTag = s.job.tag → p.type = 0x40 →
          let q := pegOf s (p.seqCh % 2 ^ 14)
          (colLands s p q = true ∨ colAhead s p q = false → exec (.teeLogHandle []) s = .next (handleCol { pkt := p, region := q.block / 68 } (popCopy s)))
          ∧ (colLands s p q = false → colAhead s p q = true → q.done ≠ some (p.src, p.tag, p.gen % 4096) → exec (.teeLogHandle []) s = .next s)))
end

