-- ==== Sys2Proof/Laws/Table.lean ====
section
/-! SUPPORT. Laws of indexed state and byte memories: a read after a write, and the canonical form that every write keeps. -/

namespace Sys2Proof

variable {α : Type}

theorem Table.get_erase_same (t : Table α) (d : α) (k : Nat) : (t.erase k).get d k = d := by
  induction t with
  | nil => rfl
  | cons e r ih =>
    obtain ⟨k', v⟩ := e
    by_cases h : k' = k <;> simp [Table.erase, Table.get, h, ih]

theorem Table.get_erase_other (t : Table α) (d : α) {j k : Nat} (h : j ≠ k) : (t.erase k).get d j = t.get d j := by
  induction t with
  | nil => rfl
  | cons e r ih =>
    obtain ⟨k', v⟩ := e
    by_cases hk : k' = k
    · subst hk; simp [Table.erase, Table.get, ih, Ne.symm h]
    · simp [Table.erase, Table.get, hk, ih]

theorem Table.get_insert_same (t : Table α) (d : α) (k : Nat) (v : α) : (t.insert k v).get d k = v := by
  induction t with
  | nil => simp [Table.insert, Table.get]
  | cons e r ih =>
    obtain ⟨k', w⟩ := e
    by_cases h1 : k < k'
    · simp [Table.insert, Table.get, h1]
    · by_cases h2 : k' = k <;> simp [Table.insert, Table.get, h1, h2, ih]

theorem Table.get_insert_other (t : Table α) (d : α) {j k : Nat} (v : α) (h : j ≠ k) : (t.insert k v).get d j = t.get d j := by
  induction t with
  | nil => simp [Table.insert, Table.get, Ne.symm h]
  | cons e r ih =>
    obtain ⟨k', w⟩ := e
    by_cases h1 : k < k'
    · simp [Table.insert, Table.get, h1, Ne.symm h]
    · by_cases h2 : k' = k
      · subst h2; simp [Table.insert, Table.get, Ne.symm h]
      · simp [Table.insert, Table.get, h1, h2, ih]

/-- What a key reads as after a write. -/
theorem Table.get_set [DecidableEq α] (t : Table α) (d : α) (j k : Nat) (v : α) :
    (t.set d k v).get d j = if j = k then v else t.get d j := by
  by_cases hj : j = k
  · subst hj
    by_cases hv : v = d
    · simp [Table.set, hv, Table.get_erase_same]
    · simp [Table.set, hv, Table.get_insert_same]
  · by_cases hv : v = d
    · simp [Table.set, hv, hj, Table.get_erase_other t d hj]
    · simp [Table.set, hv, hj, Table.get_insert_other t d v hj]

@[simp] theorem Table.get_set_same [DecidableEq α] (t : Table α) (d : α) (k : Nat) (v : α) : (t.set d k v).get d k = v := by
  simp [Table.get_set]

theorem Table.get_set_other [DecidableEq α] (t : Table α) (d : α) {j k : Nat} (v : α) (h : j ≠ k) :
    (t.set d k v).get d j = t.get d j := by
  simp [Table.get_set, h]

@[simp] theorem Table.get_mod_same [DecidableEq α] (t : Table α) (d : α) (k : Nat) (f : α → α) :
    (t.mod d k f).get d k = f (t.get d k) := by
  simp [Table.mod]

theorem Table.get_mod_other [DecidableEq α] (t : Table α) (d : α) {j k : Nat} (f : α → α) (h : j ≠ k) :
    (t.mod d k f).get d j = t.get d j := by
  simp [Table.mod, Table.get_set, h]

/-- Every entry of a table has a property of keys and values. -/
def Table.Every (p : Nat → α → Prop) (t : Table α) : Prop := ∀ e ∈ t, p e.1 e.2

theorem Table.every_erase {p : Nat → α → Prop} {t : Table α} (h : t.Every p) (k : Nat) : (t.erase k).Every p := by
  induction t with
  | nil => exact h
  | cons e r ih =>
    obtain ⟨k', v⟩ := e
    have hr : Table.Every p r := fun x hx => h x (List.mem_cons_of_mem _ hx)
    by_cases hk : k' = k
    · simpa [Table.erase, hk] using ih hr
    · intro x hx
      simp only [Table.erase, hk, if_false, List.mem_cons] at hx
      rcases hx with rfl | hx
      · exact h _ (List.mem_cons_self ..)
      · exact ih hr x hx

theorem Table.every_insert {p : Nat → α → Prop} {t : Table α} (h : t.Every p) (k : Nat) (v : α) (hv : p k v) :
    (t.insert k v).Every p := by
  induction t with
  | nil => intro x hx; simp [Table.insert] at hx; subst hx; exact hv
  | cons e r ih =>
    obtain ⟨k', w⟩ := e
    have hr : Table.Every p r := fun x hx => h x (List.mem_cons_of_mem _ hx)
    have he : p k' w := h (k', w) (List.mem_cons_self ..)
    intro x hx
    by_cases h1 : k < k'
    · simp only [Table.insert, h1, if_true, List.mem_cons] at hx
      rcases hx with rfl | rfl | hx
      · exact hv
      · exact he
      · exact hr x hx
    · by_cases h2 : k' = k
      · simp only [Table.insert, h1, h2, if_true, if_false, List.mem_cons] at hx
        subst h2
        simp only [lt_irrefl, if_false, List.mem_cons] at hx
        rcases hx with rfl | hx
        · exact hv
        · exact hr x hx
      · simp only [Table.insert, h1, h2, if_false, List.mem_cons] at hx
        rcases hx with rfl | hx
        · exact he
        · exact ih hr x hx

theorem Table.rising_cons {k : Nat} {v : α} {r : Table α} :
    Table.rising ((k, v) :: r) = true ↔ r.Every (fun j _ => k < j) ∧ Table.rising r = true := by
  simp [Table.rising, Table.Every]

theorem Table.rising_erase {t : Table α} (h : t.rising = true) (k : Nat) : (t.erase k).rising = true := by
  induction t with
  | nil => rfl
  | cons e r ih =>
    obtain ⟨k', v⟩ := e
    obtain ⟨h1, h2⟩ := Table.rising_cons.1 h
    by_cases hk : k' = k
    · simpa [Table.erase, hk] using ih h2
    · simp only [Table.erase, hk, if_false]
      exact Table.rising_cons.2 ⟨Table.every_erase h1 k, ih h2⟩

theorem Table.rising_insert {t : Table α} (h : t.rising = true) (k : Nat) (v : α) : (t.insert k v).rising = true := by
  induction t with
  | nil => rfl
  | cons e r ih =>
    obtain ⟨k', w⟩ := e
    obtain ⟨h1, h2⟩ := Table.rising_cons.1 h
    by_cases hlt : k < k'
    · simp only [Table.insert, hlt, if_true]
      refine Table.rising_cons.2 ⟨?_, h⟩
      intro x hx
      rcases List.mem_cons.1 hx with rfl | hx
      · exact hlt
      · exact lt_trans hlt (h1 x hx)
    · by_cases hk : k' = k
      · subst hk
        simp only [Table.insert, lt_irrefl, if_false, if_true]
        exact Table.rising_cons.2 ⟨h1, h2⟩
      · simp only [Table.insert, hlt, hk, if_false]
        exact Table.rising_cons.2 ⟨Table.every_insert h1 k v (by omega), ih h2⟩

theorem Table.wf_iff [DecidableEq α] {t : Table α} {d : α} :
    t.wf d = true ↔ t.rising = true ∧ t.Every (fun _ v => v ≠ d) := by
  simp [Table.wf, Table.Every]

/-- A write keeps the canonical form. -/
theorem Table.wf_set [DecidableEq α] {t : Table α} {d : α} (h : t.wf d = true) (k : Nat) (v : α) : (t.set d k v).wf d = true := by
  obtain ⟨h1, h2⟩ := Table.wf_iff.1 h
  by_cases hv : v = d
  · simp only [Table.set, hv, if_true]
    exact Table.wf_iff.2 ⟨Table.rising_erase h1 k, Table.every_erase h2 k⟩
  · simp only [Table.set, hv, if_false]
    exact Table.wf_iff.2 ⟨Table.rising_insert h1 k v, Table.every_insert h2 k v hv⟩

theorem Table.wf_mod [DecidableEq α] {t : Table α} {d : α} (h : t.wf d = true) (k : Nat) (f : α → α) : (t.mod d k f).wf d = true :=
  Table.wf_set h k _

theorem Table.wf_modAll [DecidableEq α] {d : α} (ks : List Nat) (f : Nat → α → α) :
    ∀ {t : Table α}, t.wf d = true → (t.modAll d ks f).wf d = true := by
  unfold Table.modAll
  induction ks with
  | nil => exact fun h => h
  | cons k ks ih => exact fun h => ih (Table.wf_mod h k (f k))

theorem Table.every_keep {p : Nat → α → Prop} {t : Table α} (h : t.Every p) (q : Nat → α → Bool) : (t.keep q).Every p :=
  fun x hx => h x (List.mem_of_mem_filter hx)

theorem Table.rising_keep {t : Table α} (h : t.rising = true) (q : Nat → α → Bool) : (t.keep q).rising = true := by
  induction t with
  | nil => rfl
  | cons e r ih =>
    obtain ⟨k', v⟩ := e
    obtain ⟨h1, h2⟩ := Table.rising_cons.1 h
    by_cases hq : q k' v = true
    · have e1 : Table.keep ((k', v) :: r) q = (k', v) :: Table.keep r q := by simp [Table.keep, hq]
      rw [e1]
      exact Table.rising_cons.2 ⟨Table.every_keep h1 q, ih h2⟩
    · have e1 : Table.keep ((k', v) :: r) q = Table.keep r q := by simp [Table.keep, hq]
      rw [e1]
      exact ih h2

theorem Table.wf_keep [DecidableEq α] {t : Table α} {d : α} (h : t.wf d = true) (q : Nat → α → Bool) : (t.keep q).wf d = true := by
  obtain ⟨h1, h2⟩ := Table.wf_iff.1 h
  exact Table.wf_iff.2 ⟨Table.rising_keep h1 q, Table.every_keep h2 q⟩

/-- A byte read after a byte written. -/
theorem Mem.read_write (m : Mem) (a b : Nat) (v : Byte) : (m.write b v).read a = if a = b then v else m.read a :=
  Table.get_set m 0 a b v

@[simp] theorem Mem.read_write_same (m : Mem) (a : Nat) (v : Byte) : (m.write a v).read a = v := by
  simp [Mem.read_write]

theorem Mem.read_write_other (m : Mem) {a b : Nat} (v : Byte) (h : a ≠ b) : (m.write b v).read a = m.read a := by
  simp [Mem.read_write, h]

/-- A write of one byte keeps the canonical form. -/
theorem Mem.wf_write {m : Mem} (h : m.wf = true) (a : Nat) (v : Byte) : (m.write a v).wf = true :=
  Table.wf_set h a v

/-- A store of bytes keeps the canonical form. -/
theorem Mem.wf_writeN (bs : List Byte) : ∀ {m : Mem} (a : Nat), m.wf = true → (m.writeN a bs).wf = true := by
  induction bs with
  | nil => exact fun _ h => h
  | cons b bs ih => exact fun a h => ih (a + 1) (Mem.wf_write h a b)

/-- A store of bytes leaves every byte outside it. -/
theorem Mem.read_writeN_outside (bs : List Byte) : ∀ (m : Mem) (a j : Nat), (j < a ∨ a + bs.length ≤ j) →
    (m.writeN a bs).read j = m.read j := by
  induction bs with
  | nil => intros; rfl
  | cons b bs ih =>
    intro m a j h
    have hl : (b :: bs).length = bs.length + 1 := rfl
    have : (m.writeN a (b :: bs)) = (m.write a b).writeN (a + 1) bs := rfl
    rw [this, ih _ _ _ (by omega), Mem.read_write_other _ _ (by omega)]

/-- A byte inside a store reads as it was stored. -/
theorem Mem.read_writeN_inside (bs : List Byte) : ∀ (m : Mem) (a i : Nat), i < bs.length →
    (m.writeN a bs).read (a + i) = bs.getD i 0 := by
  induction bs with
  | nil => intro _ _ i h; exact absurd h (Nat.not_lt_zero i)
  | cons b bs ih =>
    intro m a i h
    have : (m.writeN a (b :: bs)) = (m.write a b).writeN (a + 1) bs := rfl
    rw [this]
    cases i with
    | zero =>
      rw [Mem.read_writeN_outside _ _ _ _ (by omega)]
      simp
    | succ i =>
      have h' : i < bs.length := by simpa using h
      have := ih (m.write a b) (a + 1) i h'
      rw [show a + (i + 1) = a + 1 + i by omega, this]
      simp

/-- Reading back what was stored. -/
theorem Mem.readN_writeN (m : Mem) (a : Nat) (bs : List Byte) : (m.writeN a bs).readN a bs.length = bs := by
  apply List.ext_getElem
  · simp [Mem.readN]
  · intro i h1 h2
    simp only [Mem.readN, List.getElem_map, List.getElem_range]
    rw [Mem.read_writeN_inside bs m a i h2]
    simp [List.getD, h2]

@[simp] theorem Mem.readN_length (m : Mem) (a n : Nat) : (m.readN a n).length = n := by simp [Mem.readN]

theorem leBytes_length (n : Nat) : ∀ v, (leBytes n v).length = n := by
  induction n with
  | zero => intro v; rfl
  | succ n ih => intro v; simp [leBytes, ih]

/-- Bytes of a number give the number back (R7). -/
theorem leNat_leBytes (n : Nat) : ∀ v, v < 256 ^ n → leNat (leBytes n v) = v := by
  induction n with
  | zero => intro v h; have : v = 0 := by simpa using h
            subst this; rfl
  | succ n ih =>
    intro v h
    have h2 : v / 256 < 256 ^ n := by
      rw [Nat.div_lt_iff_lt_mul (by norm_num)]
      rw [pow_succ] at h
      exact h
    have hb : (BitVec.ofNat 8 v).toNat = v % 256 := by simp
    rw [leBytes, leNat, ih _ h2, hb]
    omega

end Sys2Proof
end

