-- ==== Sys2Proof/Laws/Keeps.lean ====
section
/-! SUPPORT. `Keeps` as a preorder, and how it goes through the ways in which steps are put together. -/

namespace Sys2Proof.Machine

open Sys2Proof

theorem BitsKept.refl (a : Nat) : BitsKept a a := fun _ h => h

theorem BitsKept.trans {a b c : Nat} (h : BitsKept a b) (g : BitsKept b c) : BitsKept a c := fun i hi => g i (h i hi)

theorem Keeps.refl (s : State) : Keeps s s :=
  ⟨rfl, rfl, BitsKept.refl _, BitsKept.refl _, id, id⟩

theorem Keeps.trans {s t u : State} (h : Keeps s t) (g : Keeps t u) : Keeps s u :=
  ⟨g.queue.trans h.queue, g.otp.trans h.otp, h.svn.trans g.svn, h.revoked.trans g.revoked, fun x => g.key (h.key x),
    fun x => g.host (h.host x)⟩

variable {r s t : State} {α β : Type}

/-- A step whose queue, identity and host memory are those of `s`. -/
theorem Keeps.same (h : Keeps r s) (hq : t.pending = s.pending) (hi : t.idn = s.idn) (hm : t.hostMem = s.hostMem) : Keeps r t := by
  refine h.trans ⟨hq, by rw [hi], by rw [hi]; exact BitsKept.refl _, by rw [hi]; exact BitsKept.refl _, ?_, by rw [hm]; exact id⟩
  rintro ⟨k, hk, hr⟩
  exact ⟨k, by simpa [keyProgrammed, keyHash, otpBytes, hi] using hk, by rw [hi]; exact hr⟩

/-- Identity changes that leave OTP and fuses. -/
theorem Keeps.idn (h : Keeps r s) (hq : t.pending = s.pending) (ho : t.idn.otp = s.idn.otp) (hv : t.idn.svnFuses = s.idn.svnFuses)
    (hr : t.idn.revoked = s.idn.revoked) (hm : t.hostMem = s.hostMem) : Keeps r t := by
  refine h.trans ⟨hq, ho, by rw [hv]; exact BitsKept.refl _, by rw [hr]; exact BitsKept.refl _, ?_, by rw [hm]; exact id⟩
  rintro ⟨k, hk, hb⟩
  exact ⟨k, by simpa [keyProgrammed, keyHash, otpBytes, ho] using hk, by rw [hr]; exact hb⟩

theorem Keeps.store (h : Keeps r s) (a : Nat) (bs : List Byte) : Keeps r { s with hostMem := s.hostMem.writeN a bs } :=
  h.trans ⟨rfl, rfl, BitsKept.refl _, BitsKept.refl _, id, fun x => Mem.wf_writeN bs a x⟩

theorem ite_keeps {c : Prop} [Decidable c] {a b : State} (ha : Keeps r a) (hb : Keeps r b) : Keeps r (if c then a else b) := by
  split <;> assumption

theorem foldl_keeps {f : State → α → State} {l : List α} (h : Keeps r s) (hf : ∀ u x, Keeps r u → Keeps r (f u x)) :
    Keeps r (l.foldl f s) := by
  induction l generalizing s with
  | nil => exact h
  | cons x xs ih => exact ih (hf s x h)

theorem foldl_pair_keeps {f : β × State → α → β × State} {l : List α} {p : β × State} (h : Keeps r p.2)
    (hf : ∀ u x, Keeps r u.2 → Keeps r (f u x).2) : Keeps r (l.foldl f p).2 := by
  induction l generalizing p with
  | nil => exact h
  | cons x xs ih => exact ih (hf p x h)

theorem foldl_triple_keeps {γ : Type} {f : γ × β × State → α → γ × β × State} {l : List α} {p : γ × β × State} (h : Keeps r p.2.2)
    (hf : ∀ u x, Keeps r u.2.2 → Keeps r (f u x).2.2) : Keeps r (l.foldl f p).2.2 := by
  induction l generalizing p with
  | nil => exact h
  | cons x xs ih => exact ih (hf p x h)

/-- An outcome keeps what `Keeps` says: its next state does, and a stop has none. -/
structure OutKeeps (r : State) (o : Out) : Prop where
  keep : ∀ t, o = .next t → Keeps r t

theorem out_next (h : Keeps r s) : OutKeeps r (.next s) := by
  refine ⟨?_⟩
  intro t ht
  cases ht
  exact h

theorem out_fault (f : Fault) : OutKeeps r (.fault f) := by
  refine ⟨?_⟩
  intro t ht
  cases ht

theorem out_refused (f : Refusal) : OutKeeps r (.refused f) := by
  refine ⟨?_⟩
  intro t ht
  cases ht

theorem ite_out {c : Prop} [Decidable c] {a b : Out} (ha : OutKeeps r a) (hb : OutKeeps r b) : OutKeeps r (if c then a else b) := by
  split <;> assumption

/-- A slot's result keeps it. -/
def SlotKeeps (r : State) : SlotRes → Prop
  | .issued s => Keeps r s
  | .stopped s => Keeps r s

theorem slot_issued (h : Keeps r s) : SlotKeeps r (.issued s) := h

theorem slot_stopped (h : Keeps r s) : SlotKeeps r (.stopped s) := h

theorem ite_slot {c : Prop} [Decidable c] {a b : SlotRes} (ha : SlotKeeps r a) (hb : SlotKeeps r b) :
    SlotKeeps r (if c then a else b) := by
  split <;> assumption

theorem State.modHost_keeps (f : HostIf → HostIf) (h : Keeps r s) : Keeps r (s.modHost f) := h.same rfl rfl rfl

theorem State.modFlt_keeps (f : Faults → Faults) (h : Keeps r s) : Keeps r (s.modFlt f) := h.same rfl rfl rfl

theorem State.modJob_keeps (f : Job → Job) (h : Keeps r s) : Keeps r (s.modJob f) := h.same rfl rfl rfl

theorem State.modPins_keeps (f : Pins → Pins) (h : Keeps r s) : Keeps r (s.modPins f) := h.same rfl rfl rfl

theorem State.modPwr_keeps (f : Power → Power) (h : Keeps r s) : Keeps r (s.modPwr f) := h.same rfl rfl rfl

theorem State.modTherm_keeps (f : Thermal → Thermal) (h : Keeps r s) : Keeps r (s.modTherm f) := h.same rfl rfl rfl

theorem State.modHbm_keeps (f : Hbm → Hbm) (h : Keeps r s) : Keeps r (s.modHbm f) := h.same rfl rfl rfl

theorem State.modRing_keeps (f : Ring → Ring) (h : Keeps r s) : Keeps r (s.modRing f) := h.same rfl rfl rfl

theorem State.modBlks_keeps (f : Blocks → Blocks) (h : Keeps r s) : Keeps r (s.modBlks f) := h.same rfl rfl rfl

theorem State.modOe_keeps (f : Optics → Optics) (h : Keeps r s) : Keeps r (s.modOe f) := h.same rfl rfl rfl

theorem State.modFab_keeps (f : Fabric → Fabric) (h : Keeps r s) : Keeps r (s.modFab f) := h.same rfl rfl rfl

theorem State.modRmt_keeps (f : Remote → Remote) (h : Keeps r s) : Keeps r (s.modRmt f) := h.same rfl rfl rfl

theorem State.modCol_keeps (f : Collectives → Collectives) (h : Keeps r s) : Keeps r (s.modCol f) := h.same rfl rfl rfl

theorem State.modMem_keeps (f : Member → Member) (h : Keeps r s) : Keeps r (s.modMem f) := h.same rfl rfl rfl

theorem with_dev_keeps (x : Dev) (h : Keeps r s) : Keeps r { s with dev := x } := h.same rfl rfl rfl

theorem with_aon_keeps (x : Nat) (h : Keeps r s) : Keeps r { s with aon := x } := h.same rfl rfl rfl

theorem with_free_keeps (x : Nat) (h : Keeps r s) : Keeps r { s with free := x } := h.same rfl rfl rfl

theorem with_host_keeps (x : HostIf) (h : Keeps r s) : Keeps r { s with host := x } := h.same rfl rfl rfl

theorem with_flt_keeps (x : Faults) (h : Keeps r s) : Keeps r { s with flt := x } := h.same rfl rfl rfl

theorem with_job_keeps (x : Job) (h : Keeps r s) : Keeps r { s with job := x } := h.same rfl rfl rfl

theorem with_pins_keeps (x : Pins) (h : Keeps r s) : Keeps r { s with pins := x } := h.same rfl rfl rfl

theorem with_pwr_keeps (x : Power) (h : Keeps r s) : Keeps r { s with pwr := x } := h.same rfl rfl rfl

theorem with_therm_keeps (x : Thermal) (h : Keeps r s) : Keeps r { s with therm := x } := h.same rfl rfl rfl

theorem with_hbm_keeps (x : Hbm) (h : Keeps r s) : Keeps r { s with hbm := x } := h.same rfl rfl rfl

theorem with_ring_keeps (x : Ring) (h : Keeps r s) : Keeps r { s with ring := x } := h.same rfl rfl rfl

theorem with_blks_keeps (x : Blocks) (h : Keeps r s) : Keeps r { s with blks := x } := h.same rfl rfl rfl

theorem with_oe_keeps (x : Optics) (h : Keeps r s) : Keeps r { s with oe := x } := h.same rfl rfl rfl

theorem with_fab_keeps (x : Fabric) (h : Keeps r s) : Keeps r { s with fab := x } := h.same rfl rfl rfl

theorem with_rmt_keeps (x : Remote) (h : Keeps r s) : Keeps r { s with rmt := x } := h.same rfl rfl rfl

theorem with_col_keeps (x : Collectives) (h : Keeps r s) : Keeps r { s with col := x } := h.same rfl rfl rfl

theorem with_mem_keeps (x : Member) (h : Keeps r s) : Keeps r { s with mem := x } := h.same rfl rfl rfl

/-- What a slot's result holds, seen through a case split. -/
theorem slot_of_issued {x : SlotRes} (e : x = .issued t) (h : SlotKeeps r x) : Keeps r t := by
  subst e
  exact h

theorem slot_of_stopped {x : SlotRes} (e : x = .stopped t) (h : SlotKeeps r x) : Keeps r t := by
  subst e
  exact h

end Sys2Proof.Machine
end

