-- ==== Sys2Proof/Laws/KeepsOps.lean ====
section
/-! SUPPORT. What the operations of Ops keep: the queue, OTP and fuses, and the canonical form of host memory. -/

namespace Sys2Proof.Machine

open Sys2Proof

variable {s0 : State}

set_option linter.unreachableTactic false
set_option linter.unusedTactic false

theorem BitsKept.blow (f k : Nat) : BitsKept f (f ||| 2 ^ k) := by
  intro i hi
  unfold bit at *
  rw [Nat.testBit_or, hi, Bool.true_or]

theorem blowFuse_keeps (s : State) (h : Keeps s0 s) : Keeps s0 (blowFuse s) := by
  have blow : Keeps s0 { s with idn := { s.idn with svnFuses := s.idn.svnFuses ||| 2 ^ fusedSvn s } } := by
    refine h.trans ⟨rfl, rfl, BitsKept.blow _ _, BitsKept.refl _, ?_, id⟩
    rintro ⟨k, hk, hb⟩
    exact ⟨k, hk, hb⟩
  unfold blowFuse
  extract_lets f t
  split
  · split
    · exact blow.idn rfl rfl rfl rfl rfl
    · exact blow
  · exact h

theorem idle_keeps (s : State) (h : Keeps s0 s) : Keeps s0 (idle s) := by
  unfold idle
  try dsimp only
  repeat' first | with_reducible (first | exact h | assumption | intro _ | apply ite_keeps | apply blowFuse_keeps | apply with_aon_keeps)

theorem raiseVector_keeps (v : Nat) (s : State) (h : Keeps s0 s) : Keeps s0 (raiseVector v s) := by
  unfold raiseVector
  try dsimp only
  repeat' first | with_reducible (first | exact h | assumption | intro _ | apply ite_keeps | apply State.modHost_keeps)

theorem setCplRing_keeps (j : Nat) (r : OutRing) (s : State) (h : Keeps s0 s) : Keeps s0 (setCplRing j r s) := by
  unfold setCplRing
  try dsimp only
  repeat' first | with_reducible (first | exact h | assumption | intro _ | apply State.modHost_keeps)

theorem writeCpl_keeps (j : Nat) (c : Cpl) (s : State) (h : Keeps s0 s) : Keeps s0 (writeCpl j c s) := by
  unfold writeCpl
  try dsimp only
  repeat' first | with_reducible (first | exact h | assumption | intro _ | apply out_next | apply ite_keeps | apply ite_out | apply raiseVector_keeps | apply setCplRing_keeps | apply Keeps.store)

theorem setEvtRing_keeps (r : OutRing) (s : State) (h : Keeps s0 s) : Keeps s0 (setEvtRing r s) := by
  unfold setEvtRing
  try dsimp only
  repeat' first | with_reducible (first | exact h | assumption | intro _ | apply State.modHost_keeps)

theorem writeEvt_keeps (e : Event) (s : State) (h : Keeps s0 s) : Keeps s0 (writeEvt e s) := by
  unfold writeEvt
  try dsimp only
  repeat' first | with_reducible (first | exact h | assumption | intro _ | apply out_next | apply ite_keeps | apply ite_out | apply State.modHost_keeps | apply raiseVector_keeps | apply setEvtRing_keeps | apply Keeps.store)

theorem flushEvtOnce_keeps (s : State) (h : Keeps s0 s) : Keeps s0 (flushEvtOnce s) := by
  unfold flushEvtOnce
  try dsimp only
  repeat' first | with_reducible (first | exact h | assumption | intro _ | apply ite_keeps | apply State.modHost_keeps | apply writeEvt_keeps) | split

theorem flushEvtN_keeps (n : Nat) (s : State) (h : Keeps s0 s) : Keeps s0 (flushEvtN n s) := by
  induction n generalizing s with
  | zero => exact h
  | succ n ih => exact ih _ (flushEvtOnce_keeps s h)

theorem flushEvt_keeps (s : State) (h : Keeps s0 s) : Keeps s0 (flushEvt s) := by
  unfold flushEvt
  try dsimp only
  repeat' first | with_reducible (first | exact h | assumption | intro _ | apply flushEvtN_keeps)

theorem enqueueEvt_keeps (e : Event) (s : State) (h : Keeps s0 s) : Keeps s0 (enqueueEvt e s) := by
  unfold enqueueEvt
  try dsimp only
  repeat' first | with_reducible (first | exact h | assumption | intro _ | apply ite_keeps | apply State.modHost_keeps | apply flushEvt_keeps)

theorem holdWrite_keeps (w : Held) (s : State) (h : Keeps s0 s) : Keeps s0 (holdWrite w s) := by
  unfold holdWrite
  try dsimp only
  repeat' first | with_reducible (first | exact h | assumption | intro _ | apply ite_keeps | apply State.modHost_keeps)

theorem raiseEvent_keeps (code cls : Nat) (body : List Byte) (s : State) (h : Keeps s0 s) : Keeps s0 (raiseEvent code cls body s) := by
  unfold raiseEvent
  try dsimp only
  repeat' first | with_reducible (first | exact h | assumption | intro _ | apply ite_keeps | apply enqueueEvt_keeps | apply holdWrite_keeps)

theorem ringError_keeps (kind i : Nat) (s : State) (h : Keeps s0 s) : Keeps s0 (ringError kind i s) := by
  unfold ringError
  try dsimp only
  repeat' first | with_reducible (first | exact h | assumption | intro _ | apply raiseEvent_keeps)

theorem deliverCpl_keeps (j : Nat) (c : Cpl) (s : State) (h : Keeps s0 s) : Keeps s0 (deliverCpl j c s) := by
  unfold deliverCpl
  try dsimp only
  repeat' first | with_reducible (first | exact h | assumption | intro _ | apply ite_keeps | apply State.modHost_keeps | apply writeCpl_keeps)

theorem postCpl_keeps (j : Nat) (c : Cpl) (s : State) (h : Keeps s0 s) : Keeps s0 (postCpl j c s) := by
  unfold postCpl
  try dsimp only
  repeat' first | with_reducible (first | exact h | assumption | intro _ | apply ite_keeps | apply holdWrite_keeps | apply deliverCpl_keeps)

theorem flushCpl_keeps (j : Nat) (ws : List (Nat × Cpl)) (s : State) (h : Keeps s0 s) : Keeps s0 (flushCpl j ws s) := by
  induction ws generalizing s with
  | nil => exact h
  | cons w ws ih =>
    obtain ⟨k, c⟩ := w
    unfold flushCpl
    split
    · exact ih _ (writeCpl_keeps j c _ (State.modHost_keeps _ h))
    · exact ih _ h

theorem writeStationRecord_keeps (addr : Nat) (bytes : List Byte) (s : State) (h : Keeps s0 s) : Keeps s0 (writeStationRecord addr bytes s) := by
  unfold writeStationRecord
  try dsimp only
  repeat' first | with_reducible (first | exact h | assumption | intro _ | apply ite_keeps | apply holdWrite_keeps | apply Keeps.store)

theorem releaseHeld_keeps (ws : List Held) (s : State) (h : Keeps s0 s) : Keeps s0 (releaseHeld ws s) := by
  induction ws generalizing s with
  | nil => exact h
  | cons w ws ih =>
    cases w with
    | cpl j c => exact ih _ (deliverCpl_keeps j c s h)
    | evt e => exact ih _ (enqueueEvt_keeps e s h)
    | station a b => exact ih _ (Keeps.store h a b)

theorem putRecord_keeps (r : Record) (s : State) (h : Keeps s0 s) : Keeps s0 (putRecord r s) := by
  unfold putRecord
  try dsimp only
  repeat' first | with_reducible (first | exact h | assumption | intro _ | apply State.modFlt_keeps | apply raiseEvent_keeps)

theorem record_keeps (r : Record) (s : State) (h : Keeps s0 s) : Keeps s0 (record r s) := by
  unfold record
  try dsimp only
  repeat' first | with_reducible (first | exact h | assumption | intro _ | apply ite_keeps | apply State.modFlt_keeps | apply putRecord_keeps)

theorem spareExhausted_keeps (kind region unit dir : Nat) (s : State) (h : Keeps s0 s) : Keeps s0 (spareExhausted kind region unit dir s) := by
  unfold spareExhausted
  try dsimp only
  repeat' first | with_reducible (first | exact h | assumption | intro _ | apply ite_keeps | apply State.modFlt_keeps | apply raiseEvent_keeps)

theorem takeCmd_keeps (i : Nat) (s : State) (h : Keeps s0 s) : Keeps s0 (takeCmd i s) := by
  unfold takeCmd
  try dsimp only
  repeat' first | with_reducible (first | exact h | assumption | intro _ | apply ite_keeps | apply State.modHost_keeps)

theorem complete_keeps (id status value : Nat) (s : State) (h : Keeps s0 s) : Keeps s0 (complete id status value s) := by
  unfold complete
  try dsimp only
  repeat' first | with_reducible (first | exact h | assumption | intro _ | apply ite_keeps | apply State.modHost_keeps | apply postCpl_keeps) | split

theorem hostStep_keeps (mine : InCmd → Bool) (body : InCmd → State → State) (s : State) (hbody : ∀ x0 x1, Keeps s0 x1 → Keeps s0 (body x0 x1)) (h : Keeps s0 s) : Keeps s0 (hostStep mine body s) := by
  unfold hostStep
  try dsimp only
  repeat' first | with_reducible (first | exact h | assumption | intro _ | apply ite_keeps | apply hbody | apply takeCmd_keeps | apply complete_keeps) | split

end Sys2Proof.Machine
end

