-- ==== Sys2Proof/Laws/KeepsLinks.lean ====
section
/-! SUPPORT. What the operations of Links keep: the queue, OTP and fuses, and the canonical form of host memory. -/

namespace Sys2Proof.Machine

open Sys2Proof

variable {s0 : State}

set_option linter.unreachableTactic false
set_option linter.unusedTactic false

theorem lanesFail_keeps (link : Fin 4) (turn : Turn) (lanes : List Nat) (s : State) (h : Keeps s0 s) : Keeps s0 (lanesFail link turn lanes s) := by
  unfold lanesFail
  try dsimp only
  repeat' first | with_reducible (first | exact h | assumption | intro _ | apply ite_keeps | apply spareExhausted_keeps | apply State.modRing_keeps)

theorem execD2dLaneFail_keeps (link : Fin 4) (turn : Turn) (lanes : List (Fin 272)) (s : State) (h : Keeps s0 s) : OutKeeps s0 (execD2dLaneFail link turn lanes s) := by
  unfold execD2dLaneFail
  try dsimp only
  repeat' first | with_reducible (first | exact h | assumption | intro _ | apply out_next | apply lanesFail_keeps)

theorem execD2dRetrainComplete_keeps (link : Fin 4) (turn : Turn) (s : State) (h : Keeps s0 s) : OutKeeps s0 (execD2dRetrainComplete link turn s) := by
  unfold execD2dRetrainComplete
  try dsimp only
  repeat' first | with_reducible (first | exact h | assumption | intro _ | apply out_next | apply ite_keeps | apply ite_out | apply record_keeps | apply State.modRing_keeps | apply foldl_keeps | apply foldl_pair_keeps | apply foldl_triple_keeps)

theorem execMeshFlitReceive_keeps (r : Fin 4) (stop : Fin 64) (side : MeshSide) (crcGood : Bool) (s : State) (h : Keeps s0 s) : OutKeeps s0 (execMeshFlitReceive r stop side crcGood s) := by
  unfold execMeshFlitReceive
  try dsimp only
  repeat' first | with_reducible (first | exact h | assumption | intro _ | apply out_next | apply ite_keeps | apply ite_out | apply record_keeps | apply State.modRing_keeps)

end Sys2Proof.Machine
end

