-- ==== Sys2Proof/Laws/KeepsPower.lean ====
section
/-! SUPPORT. What the operations of Power keep: the queue, OTP and fuses, and the canonical form of host memory. -/

namespace Sys2Proof.Machine

open Sys2Proof

variable {s0 : State}

set_option linter.unreachableTactic false
set_option linter.unusedTactic false

theorem State.modReg_keeps (r : Nat) (f : RegPwr → RegPwr) (s : State) (h : Keeps s0 s) : Keeps s0 (State.modReg r f s) := by
  unfold State.modReg
  try dsimp only
  repeat' first | with_reducible (first | exact h | assumption | intro _ | apply State.modPwr_keeps)

theorem powerCount_keeps (k : Nat) (s : State) (h : Keeps s0 s) : Keeps s0 (powerCount k s) := by
  unfold powerCount
  try dsimp only
  repeat' first | with_reducible (first | exact h | assumption | intro _ | apply State.modPwr_keeps)

theorem raiseRungs_keeps (s : State) (h : Keeps s0 s) : Keeps s0 (raiseRungs s) := by
  unfold raiseRungs
  try dsimp only
  repeat' first | with_reducible (first | exact h | assumption | intro _ | apply ite_keeps | apply State.modReg_keeps | apply foldl_keeps | apply foldl_pair_keeps | apply foldl_triple_keeps)

theorem lowerRung_keeps (r : Nat) (s : State) (h : Keeps s0 s) : Keeps s0 (lowerRung r s) := by
  unfold lowerRung
  try dsimp only
  repeat' first | with_reducible (first | exact h | assumption | intro _ | apply ite_keeps | apply State.modReg_keeps)

theorem lowerRungs_keeps (s : State) (h : Keeps s0 s) : Keeps s0 (lowerRungs s) := by
  unfold lowerRungs
  try dsimp only
  repeat' first | with_reducible (first | exact h | assumption | intro _ | apply lowerRung_keeps | apply foldl_keeps | apply foldl_pair_keeps | apply foldl_triple_keeps)

theorem setTarget_keeps (r p : Nat) (s : State) (h : Keeps s0 s) : Keeps s0 (setTarget r p s) := by
  unfold setTarget
  try dsimp only
  repeat' first | with_reducible (first | exact h | assumption | intro _ | apply ite_keeps | apply State.modReg_keeps | apply raiseRungs_keeps)

theorem endFloor_keeps (s : State) (h : Keeps s0 s) : Keeps s0 (endFloor s) := by
  unfold endFloor
  try dsimp only
  repeat' first | with_reducible (first | exact h | assumption | intro _ | apply State.modPwr_keeps)

theorem bringRation_keeps (s : State) (h : Keeps s0 s) : Keeps s0 (bringRation s) := by
  unfold bringRation
  try dsimp only
  repeat' first | with_reducible (first | exact h | assumption | intro _ | apply ite_keeps | apply State.modPwr_keeps | apply endFloor_keeps)

theorem rationArrived_keeps (s : State) (h : Keeps s0 s) : Keeps s0 (rationArrived s) := by
  unfold rationArrived
  try dsimp only
  repeat' first | with_reducible (first | exact h | assumption | intro _ | apply ite_keeps | apply State.modPwr_keeps | apply bringRation_keeps)

theorem alertLimit_keeps (s : State) (h : Keeps s0 s) : Keeps s0 (alertLimit s) := by
  unfold alertLimit
  try dsimp only
  repeat' first | with_reducible (first | exact h | assumption | intro _ | apply ite_keeps | apply State.modPwr_keeps | apply State.modReg_keeps | apply foldl_keeps | apply foldl_pair_keeps | apply foldl_triple_keeps)

theorem alertEvent_keeps (s : State) (h : Keeps s0 s) : Keeps s0 (alertEvent s) := by
  unfold alertEvent
  try dsimp only
  repeat' first | with_reducible (first | exact h | assumption | intro _ | apply ite_keeps | apply raiseEvent_keeps | apply State.modPwr_keeps) | split

theorem alertAsserted_keeps (s : State) (h : Keeps s0 s) : Keeps s0 (alertAsserted s) := by
  unfold alertAsserted
  try dsimp only
  repeat' first | with_reducible (first | exact h | assumption | intro _ | apply ite_keeps | apply State.modPwr_keeps | apply powerCount_keeps | apply alertLimit_keeps | apply alertEvent_keeps)

theorem alertReleased_keeps (s : State) (h : Keeps s0 s) : Keeps s0 (alertReleased s) := by
  unfold alertReleased
  try dsimp only
  repeat' first | with_reducible (first | exact h | assumption | intro _ | apply ite_keeps | apply State.modPwr_keeps)

theorem execVralertLAssert_keeps (s : State) (h : Keeps s0 s) : OutKeeps s0 (execVralertLAssert s) := by
  unfold execVralertLAssert
  try dsimp only
  repeat' first | with_reducible (first | exact h | assumption | intro _ | apply out_next | apply ite_keeps | apply ite_out | apply State.modPins_keeps | apply alertAsserted_keeps)

theorem execVralertLRelease_keeps (s : State) (h : Keeps s0 s) : OutKeeps s0 (execVralertLRelease s) := by
  unfold execVralertLRelease
  try dsimp only
  repeat' first | with_reducible (first | exact h | assumption | intro _ | apply out_next | apply ite_keeps | apply ite_out | apply State.modPins_keeps | apply alertReleased_keeps)

theorem execVralertHoldExpire_keeps (s : State) (h : Keeps s0 s) : OutKeeps s0 (execVralertHoldExpire s) := by
  unfold execVralertHoldExpire
  try dsimp only
  repeat' first | with_reducible (first | exact h | assumption | intro _ | apply out_next | apply ite_keeps | apply ite_out | apply State.modPwr_keeps) | split

theorem execLimitRungReturn_keeps (s : State) (h : Keeps s0 s) : OutKeeps s0 (execLimitRungReturn s) := by
  unfold execLimitRungReturn
  try dsimp only
  repeat' first | with_reducible (first | exact h | assumption | intro _ | apply out_next | apply lowerRungs_keeps)

theorem execInputLow_keeps (mv : Nat) (s : State) (h : Keeps s0 s) : OutKeeps s0 (execInputLow mv s) := by
  unfold execInputLow
  try dsimp only
  repeat' first | with_reducible (first | exact h | assumption | intro _ | apply out_next | apply ite_keeps | apply ite_out | apply State.modPins_keeps | apply alertLimit_keeps)

theorem execInputLowRecover_keeps (mv : Nat) (s : State) (h : Keeps s0 s) : OutKeeps s0 (execInputLowRecover mv s) := by
  unfold execInputLowRecover
  try dsimp only
  repeat' first | with_reducible (first | exact h | assumption | intro _ | apply out_next | apply ite_keeps | apply ite_out | apply State.modPins_keeps | apply State.modPwr_keeps)

theorem execDroopDetect_keeps (r : Fin 4) (_detector : Fin 16) (overOnePercent : Bool) (s : State) (h : Keeps s0 s) : OutKeeps s0 (execDroopDetect r _detector overOnePercent s) := by
  unfold execDroopDetect
  try dsimp only
  repeat' first | with_reducible (first | exact h | assumption | intro _ | apply out_next | apply ite_keeps | apply ite_out | apply State.modReg_keeps | apply powerCount_keeps | apply raiseRungs_keeps)

theorem execDroopRecover_keeps (r : Fin 4) (s : State) (h : Keeps s0 s) : OutKeeps s0 (execDroopRecover r s) := by
  unfold execDroopRecover
  try dsimp only
  repeat' first | with_reducible (first | exact h | assumption | intro _ | apply out_next | apply State.modReg_keeps)

theorem execDroopRungExpire_keeps (r : Fin 4) (s : State) (h : Keeps s0 s) : OutKeeps s0 (execDroopRungExpire r s) := by
  unfold execDroopRungExpire
  try dsimp only
  repeat' first | with_reducible (first | exact h | assumption | intro _ | apply out_next | apply ite_keeps | apply ite_out | apply State.modReg_keeps)

theorem requestWake_keeps (b level : Nat) (s : State) (h : Keeps s0 s) : Keeps s0 (requestWake b level s) := by
  unfold requestWake
  try dsimp only
  repeat' first | with_reducible (first | exact h | assumption | intro _ | apply ite_keeps | apply State.modPwr_keeps | apply State.modReg_keeps | apply powerCount_keeps)

theorem grantWake_keeps (b : Nat) (s : State) (h : Keeps s0 s) : Keeps s0 (grantWake b s) := by
  unfold grantWake
  try dsimp only
  repeat' first | with_reducible (first | exact h | assumption | intro _ | apply State.modPwr_keeps)

theorem execBlockWakeGrant_keeps (r : Fin 4) (s : State) (h : Keeps s0 s) : OutKeeps s0 (execBlockWakeGrant r s) := by
  unfold execBlockWakeGrant
  try dsimp only
  repeat' first | with_reducible (first | exact h | assumption | intro _ | apply out_next | apply ite_keeps | apply ite_out | apply State.modReg_keeps | apply grantWake_keeps | apply foldl_keeps | apply foldl_pair_keeps | apply foldl_triple_keeps)

theorem sampleCurrent_keeps (r ma : Nat) (s : State) (h : Keeps s0 s) : Keeps s0 (sampleCurrent r ma s) := by
  unfold sampleCurrent
  try dsimp only
  repeat' first | with_reducible (first | exact h | assumption | intro _ | apply ite_keeps | apply State.modReg_keeps | apply raiseRungs_keeps | apply lowerRung_keeps)

theorem sampleInput_keeps (mv ma : Nat) (s : State) (h : Keeps s0 s) : Keeps s0 (sampleInput mv ma s) := by
  unfold sampleInput
  try dsimp only
  repeat' first | with_reducible (first | exact h | assumption | intro _ | apply ite_keeps | apply State.modPwr_keeps)

theorem inputCurrentAlert_keeps (ma : Nat) (s : State) (h : Keeps s0 s) : Keeps s0 (inputCurrentAlert ma s) := by
  unfold inputCurrentAlert
  try dsimp only
  repeat' first | with_reducible (first | exact h | assumption | intro _ | apply ite_keeps | apply State.modPins_keeps | apply alertAsserted_keeps | apply alertReleased_keeps)

theorem execRailSample_keeps (m : Rails) (s : State) (h : Keeps s0 s) : OutKeeps s0 (execRailSample m s) := by
  unfold execRailSample
  try dsimp only
  repeat' first | with_reducible (first | exact h | assumption | intro _ | apply out_next | apply ite_keeps | apply ite_out | apply State.modPins_keeps | apply State.modPwr_keeps | apply sampleCurrent_keeps | apply sampleInput_keeps | apply inputCurrentAlert_keeps | apply foldl_keeps | apply foldl_pair_keeps | apply foldl_triple_keeps)

theorem execCurrentLimitStep_keeps (r : Fin 4) (s : State) (h : Keeps s0 s) : OutKeeps s0 (execCurrentLimitStep r s) := by
  unfold execCurrentLimitStep
  try dsimp only
  repeat' first | with_reducible (first | exact h | assumption | intro _ | apply out_next | apply ite_keeps | apply ite_out | apply State.modReg_keeps | apply raiseRungs_keeps)

theorem execGovernorTick_keeps (s : State) (h : Keeps s0 s) : OutKeeps s0 (execGovernorTick s) := by
  unfold execGovernorTick
  try dsimp only
  repeat' first | with_reducible (first | exact h | assumption | intro _ | apply out_next | apply ite_keeps | apply ite_out | apply State.modPwr_keeps | apply raiseRungs_keeps | apply lowerRungs_keeps)

theorem execRationDeadline_keeps (s : State) (h : Keeps s0 s) : OutKeeps s0 (execRationDeadline s) := by
  unfold execRationDeadline
  try dsimp only
  repeat' first | with_reducible (first | exact h | assumption | intro _ | apply out_next | apply ite_keeps | apply ite_out | apply bringRation_keeps) | split

theorem execFloorEpisodeEnd_keeps (s : State) (h : Keeps s0 s) : OutKeeps s0 (execFloorEpisodeEnd s) := by
  unfold execFloorEpisodeEnd
  try dsimp only
  repeat' first | with_reducible (first | exact h | assumption | intro _ | apply out_next | apply ite_keeps | apply ite_out | apply endFloor_keeps)

theorem execPointChangeComplete_keeps (r : Fin 4) (s : State) (h : Keeps s0 s) : OutKeeps s0 (execPointChangeComplete r s) := by
  unfold execPointChangeComplete
  try dsimp only
  repeat' first | with_reducible (first | exact h | assumption | intro _ | apply out_next | apply ite_keeps | apply ite_out | apply State.modReg_keeps)

theorem judgeLocation_keeps (l : Nat) (s : State) (h : Keeps s0 s) : Keeps s0 (judgeLocation l s) := by
  unfold judgeLocation
  try dsimp only
  repeat' first | with_reducible (first | exact h | assumption | intro _ | apply ite_keeps | apply raiseEvent_keeps | apply State.modTherm_keeps | apply powerCount_keeps) | split

theorem judgeLocations_keeps (s : State) (h : Keeps s0 s) : Keeps s0 (judgeLocations s) := by
  unfold judgeLocations
  try dsimp only
  repeat' first | with_reducible (first | exact h | assumption | intro _ | apply judgeLocation_keeps | apply foldl_keeps | apply foldl_pair_keeps | apply foldl_triple_keeps)

theorem takeReading_keeps (v : SensorVal) (s : State) (h : Keeps s0 s) : Keeps s0 (takeReading v s) := by
  unfold takeReading
  try dsimp only
  repeat' first | with_reducible (first | exact h | assumption | intro _ | apply ite_keeps | apply State.modTherm_keeps)

theorem execSensorRead_keeps (readings : List SensorVal) (s : State) (h : Keeps s0 s) : OutKeeps s0 (execSensorRead readings s) := by
  unfold execSensorRead
  try dsimp only
  repeat' first | with_reducible (first | exact h | assumption | intro _ | apply out_next | apply ite_keeps | apply ite_out | apply raiseEvent_keeps | apply State.modTherm_keeps | apply powerCount_keeps | apply raiseRungs_keeps | apply takeReading_keeps | apply foldl_keeps | apply foldl_pair_keeps | apply foldl_triple_keeps) | split

theorem execModelFaultClear_keeps (s : State) (h : Keeps s0 s) : OutKeeps s0 (execModelFaultClear s) := by
  unfold execModelFaultClear
  try dsimp only
  repeat' first | with_reducible (first | exact h | assumption | intro _ | apply out_next | apply ite_keeps | apply ite_out | apply State.modTherm_keeps)

end Sys2Proof.Machine
end

