-- ==== Sys2Proof/Laws/KeepsRoutes.lean ====
section
/-! SUPPORT. What the operations of Routes keep: the queue, OTP and fuses, and the canonical form of host memory. -/

namespace Sys2Proof.Machine

open Sys2Proof

variable {s0 : State}

set_option linter.unreachableTactic false
set_option linter.unusedTactic false

theorem fabCount_keeps (k : Nat) (s : State) (h : Keeps s0 s) : Keeps s0 (fabCount k s) := by
  unfold fabCount
  try dsimp only
  repeat' first | with_reducible (first | exact h | assumption | intro _ | apply State.modFab_keeps)

end Sys2Proof.Machine
end

