-- ==== Sys2Proof/Laws/KeepsOptical.lean ====
section
/-! SUPPORT. What the operations of Optical keep: the queue, OTP and fuses, and the canonical form of host memory. -/

namespace Sys2Proof.Machine

open Sys2Proof

variable {s0 : State}

set_option linter.unreachableTactic false
set_option linter.unusedTactic false

theorem State.modPos_keeps (k : Nat) (f : PosSt → PosSt) (s : State) (h : Keeps s0 s) : Keeps s0 (State.modPos k f s) := by
  unfold State.modPos
  try dsimp only
  repeat' first | with_reducible (first | exact h | assumption | intro _ | apply State.modOe_keeps)

theorem enterPos_keeps (k : Nat) (st : PosState) (s : State) (h : Keeps s0 s) : Keeps s0 (enterPos k st s) := by
  unfold enterPos
  try dsimp only
  repeat' first | with_reducible (first | exact h | assumption | intro _ | apply State.modPos_keeps)

theorem State.modEng_keeps (e : Nat) (f : Engine → Engine) (s : State) (h : Keeps s0 s) : Keeps s0 (State.modEng e f s) := by
  unfold State.modEng
  try dsimp only
  repeat' first | with_reducible (first | exact h | assumption | intro _ | apply State.modOe_keeps)

theorem noteLink_keeps (p line : Nat) (s : State) (h : Keeps s0 s) : Keeps s0 (noteLink p line s) := by
  unfold noteLink
  try dsimp only
  repeat' first | with_reducible (first | exact h | assumption | intro _ | apply ite_keeps | apply State.modFab_keeps)

theorem movePos_keeps (k : Nat) (st : PosState) (s : State) (h : Keeps s0 s) : Keeps s0 (movePos k st s) := by
  unfold movePos
  try dsimp only
  repeat' first | with_reducible (first | exact h | assumption | intro _ | apply enterPos_keeps | apply noteLink_keeps)

theorem spareTaken_keeps (k : Nat) (s : State) (h : Keeps s0 s) : Keeps s0 (spareTaken k s) := by
  unfold spareTaken
  try dsimp only
  repeat' first | with_reducible (first | exact h | assumption | intro _ | apply ite_keeps | apply spareExhausted_keeps)

theorem retirePos_keeps (k : Nat) (s : State) (h : Keeps s0 s) : Keeps s0 (retirePos k s) := by
  unfold retirePos
  try dsimp only
  repeat' first | with_reducible (first | exact h | assumption | intro _ | apply ite_keeps | apply raiseEvent_keeps | apply record_keeps | apply State.modPos_keeps | apply movePos_keeps | apply spareTaken_keeps) | split

theorem searchPos_keeps (k : Nat) (s : State) (h : Keeps s0 s) : Keeps s0 (searchPos k s) := by
  unfold searchPos
  try dsimp only
  repeat' first | with_reducible (first | exact h | assumption | intro _ | apply State.modPos_keeps | apply movePos_keeps)

theorem failPos_keeps (k : Nat) (next : State → State) (s : State) (hnext : ∀ x0, Keeps s0 x0 → Keeps s0 (next x0)) (h : Keeps s0 s) : Keeps s0 (failPos k next s) := by
  unfold failPos
  try dsimp only
  repeat' first | with_reducible (first | exact h | assumption | intro _ | apply ite_keeps | apply hnext | apply State.modPos_keeps | apply retirePos_keeps)

theorem settleMode_keeps (p : Nat) (s : State) (h : Keeps s0 s) : Keeps s0 (settleMode p s) := by
  unfold settleMode
  try dsimp only
  repeat' first | with_reducible (first | exact h | assumption | intro _ | apply ite_keeps | apply State.modOe_keeps)

theorem execLockErrorExceed_keeps (p : Pos) (err : Int) (s : State) (h : Keeps s0 s) : OutKeeps s0 (execLockErrorExceed p err s) := by
  unfold execLockErrorExceed
  try dsimp only
  repeat' first | with_reducible (first | exact h | assumption | intro _ | apply out_next | apply ite_keeps | apply ite_out | apply State.modPos_keeps | apply movePos_keeps)

theorem execSearchComplete_keeps (p : Pos) (found : Option (Fin 34)) (drive : Nat) (s : State) (h : Keeps s0 s) : OutKeeps s0 (execSearchComplete p found drive s) := by
  unfold execSearchComplete
  try dsimp only
  repeat' first | with_reducible (first | exact h | assumption | intro _ | apply out_next | apply ite_keeps | apply ite_out | apply State.modPos_keeps | apply movePos_keeps | apply settleMode_keeps) | split

theorem execPlumbCheckEnd_keeps (p : Pos) (tags : List TagMeas) (s : State) (h : Keeps s0 s) : OutKeeps s0 (execPlumbCheckEnd p tags s) := by
  unfold execPlumbCheckEnd
  try dsimp only
  repeat' first | with_reducible (first | exact h | assumption | intro _ | apply out_next | apply ite_keeps | apply ite_out | apply State.modPos_keeps | apply movePos_keeps | apply failPos_keeps | apply settleMode_keeps) | split

theorem execRetuneComplete_keeps (p : Pos) (s : State) (h : Keeps s0 s) : OutKeeps s0 (execRetuneComplete p s) := by
  unfold execRetuneComplete
  try dsimp only
  repeat' first | with_reducible (first | exact h | assumption | intro _ | apply out_next | apply ite_keeps | apply ite_out | apply State.modPos_keeps | apply movePos_keeps)

theorem learnPeer_keeps (k : Nat) (peer : Nat × Nat) (s : State) (h : Keeps s0 s) : Keeps s0 (learnPeer k peer s) := by
  unfold learnPeer
  try dsimp only
  repeat' first | with_reducible (first | exact h | assumption | intro _ | apply ite_keeps | apply State.modPos_keeps)

theorem reportMismatch_keeps (k line : Nat) (s : State) (h : Keeps s0 s) : Keeps s0 (reportMismatch k line s) := by
  unfold reportMismatch
  try dsimp only
  repeat' first | with_reducible (first | exact h | assumption | intro _ | apply State.modOe_keeps) | split

theorem execTrainingComplete_keeps (p : Pos) (t : Training) (s : State) (h : Keeps s0 s) : OutKeeps s0 (execTrainingComplete p t s) := by
  unfold execTrainingComplete
  try dsimp only
  repeat' first | with_reducible (first | exact h | assumption | intro _ | apply out_next | apply ite_keeps | apply ite_out | apply State.modPos_keeps | apply movePos_keeps | apply spareTaken_keeps | apply searchPos_keeps | apply failPos_keeps | apply settleMode_keeps | apply learnPeer_keeps | apply reportMismatch_keeps) | split

theorem execTrainingMismatchReport_keeps (port : Fin 16) (w : Fin 34) (s : State) (h : Keeps s0 s) : OutKeeps s0 (execTrainingMismatchReport port w s) := by
  unfold execTrainingMismatchReport
  try dsimp only
  repeat' first | with_reducible (first | exact h | assumption | intro _ | apply out_next | apply ite_keeps | apply ite_out | apply searchPos_keeps | apply failPos_keeps)

theorem execCodewordErrors_keeps (p : Pos) (count : Nat) (s : State) (h : Keeps s0 s) : OutKeeps s0 (execCodewordErrors p count s) := by
  unfold execCodewordErrors
  try dsimp only
  repeat' first | with_reducible (first | exact h | assumption | intro _ | apply out_next | apply ite_keeps | apply ite_out | apply movePos_keeps | apply failPos_keeps)

theorem execFailCountReset_keeps (p : Pos) (s : State) (h : Keeps s0 s) : OutKeeps s0 (execFailCountReset p s) := by
  unfold execFailCountReset
  try dsimp only
  repeat' first | with_reducible (first | exact h | assumption | intro _ | apply out_next | apply ite_keeps | apply ite_out | apply State.modPos_keeps)

theorem execLightReturn_keeps (p : Pos) (s : State) (h : Keeps s0 s) : OutKeeps s0 (execLightReturn p s) := by
  unfold execLightReturn
  try dsimp only
  repeat' first | with_reducible (first | exact h | assumption | intro _ | apply out_next | apply ite_keeps | apply ite_out | apply searchPos_keeps)

theorem portLosesLine_keeps (p k : Nat) (s : State) (h : Keeps s0 s) : Keeps s0 (portLosesLine p k s) := by
  unfold portLosesLine
  try dsimp only
  repeat' first | with_reducible (first | exact h | assumption | intro _ | apply ite_keeps | apply State.modPos_keeps | apply movePos_keeps | apply spareTaken_keeps | apply foldl_keeps | apply foldl_pair_keeps | apply foldl_triple_keeps) | split

theorem judgeLine_keeps (e : Nat) (mean : Int) (m : LineMeas) (s : State) (h : Keeps s0 s) : Keeps s0 (judgeLine e mean m s) := by
  unfold judgeLine
  try dsimp only
  repeat' first | with_reducible (first | exact h | assumption | intro _ | apply ite_keeps | apply raiseEvent_keeps | apply State.modOe_keeps | apply portLosesLine_keeps)

theorem execCombLineMeasure_keeps (e : Fin 8) (lines : List LineMeas) (s : State) (h : Keeps s0 s) : OutKeeps s0 (execCombLineMeasure e lines s) := by
  unfold execCombLineMeasure
  try dsimp only
  repeat' first | with_reducible (first | exact h | assumption | intro _ | apply out_next | apply ite_keeps | apply ite_out | apply raiseEvent_keeps | apply State.modOe_keeps | apply State.modEng_keeps | apply judgeLine_keeps | apply foldl_keeps | apply foldl_pair_keeps | apply foldl_triple_keeps)

theorem joinComb_keeps (s : State) (h : Keeps s0 s) : Keeps s0 (joinComb s) := by
  unfold joinComb
  try dsimp only
  repeat' first | with_reducible (first | exact h | assumption | intro _ | apply State.modOe_keeps)

theorem execCombIbi_keeps (ident : W16) (status : Byte) (s : State) (h : Keeps s0 s) : OutKeeps s0 (execCombIbi ident status s) := by
  unfold execCombIbi
  try dsimp only
  repeat' first | with_reducible (first | exact h | assumption | intro _ | apply out_next | apply ite_keeps | apply ite_out | apply State.modOe_keeps | apply joinComb_keeps)

theorem startPos_keeps (k : Nat) (s : State) (h : Keeps s0 s) : Keeps s0 (startPos k s) := by
  unfold startPos
  try dsimp only
  repeat' first | with_reducible (first | exact h | assumption | intro _ | apply ite_keeps | apply State.modPos_keeps)

theorem startPort_keeps (p : Nat) (s : State) (h : Keeps s0 s) : Keeps s0 (startPort p s) := by
  unfold startPort
  try dsimp only
  repeat' first | with_reducible (first | exact h | assumption | intro _ | apply ite_keeps | apply startPos_keeps | apply foldl_keeps | apply foldl_pair_keeps | apply foldl_triple_keeps)

theorem noteLinks_keeps (p : Nat) (s : State) (h : Keeps s0 s) : Keeps s0 (noteLinks p s) := by
  unfold noteLinks
  try dsimp only
  repeat' first | with_reducible (first | exact h | assumption | intro _ | apply ite_keeps | apply noteLink_keeps | apply foldl_keeps | apply foldl_pair_keeps | apply foldl_triple_keeps)

theorem portOff_keeps (p : Nat) (s : State) (h : Keeps s0 s) : Keeps s0 (portOff p s) := by
  unfold portOff
  try dsimp only
  repeat' first | with_reducible (first | exact h | assumption | intro _ | apply ite_keeps | apply State.modOe_keeps) | split

theorem State.modBank_keeps (b : Nat) (f : Bank → Bank) (s : State) (h : Keeps s0 s) : Keeps s0 (State.modBank b f s) := by
  unfold State.modBank
  try dsimp only
  repeat' first | with_reducible (first | exact h | assumption | intro _ | apply State.modOe_keeps)

theorem writeCal_keeps (e : Nat) (cal : List CalEntry) (s : State) (h : Keeps s0 s) : Keeps s0 (writeCal e cal s) := by
  unfold writeCal
  try dsimp only
  repeat' first | with_reducible (first | exact h | assumption | intro _ | apply ite_keeps | apply State.modOe_keeps | apply foldl_keeps | apply foldl_pair_keeps | apply foldl_triple_keeps)

theorem execEngineStart_keeps (e : Fin 8) (tx rx : Option (List KEntry)) (cal : List CalEntry) (s : State) (h : Keeps s0 s) : OutKeeps s0 (execEngineStart e tx rx cal s) := by
  unfold execEngineStart
  try dsimp only
  repeat' first | with_reducible (first | exact h | assumption | intro _ | apply out_next | apply ite_keeps | apply ite_out | exact out_fault _ | apply raiseEvent_keeps | apply State.modEng_keeps | apply startPort_keeps | apply State.modBank_keeps | apply writeCal_keeps) | split

theorem execXtalkRefresh_keeps (e : Fin 8) (rxBank : Bool) (k : List KEntry) (cal : List CalEntry) (s : State) (h : Keeps s0 s) : OutKeeps s0 (execXtalkRefresh e rxBank k cal s) := by
  unfold execXtalkRefresh
  try dsimp only
  repeat' first | with_reducible (first | exact h | assumption | intro _ | apply out_next | apply ite_keeps | apply ite_out | apply State.modBank_keeps | apply writeCal_keeps) | split

theorem execHeaterUpdate_keeps (e : Fin 8) (rxBank : Bool) (loop : List Int) (s : State) (h : Keeps s0 s) : OutKeeps s0 (execHeaterUpdate e rxBank loop s) := by
  unfold execHeaterUpdate
  try dsimp only
  repeat' first | with_reducible (first | exact h | assumption | intro _ | apply out_next | apply ite_keeps | apply ite_out | apply State.modPos_keeps | apply State.modBank_keeps | apply foldl_keeps | apply foldl_pair_keeps | apply foldl_triple_keeps) | split

theorem feedForward_keeps (ring : Nat) (mK : Int) (s : State) (h : Keeps s0 s) : Keeps s0 (feedForward ring mK s) := by
  unfold feedForward
  try dsimp only
  repeat' first | with_reducible (first | exact h | assumption | intro _ | apply ite_keeps | apply State.modPos_keeps)

theorem leaveKeepalive_keeps (s : State) (h : Keeps s0 s) : Keeps s0 (leaveKeepalive s) := by
  unfold leaveKeepalive
  try dsimp only
  repeat' first | with_reducible (first | exact h | assumption | intro _ | apply State.modOe_keeps | apply State.modEng_keeps | apply foldl_keeps | apply foldl_pair_keeps | apply foldl_triple_keeps)

theorem enterKeepalive_keeps (s : State) (h : Keeps s0 s) : Keeps s0 (enterKeepalive s) := by
  unfold enterKeepalive
  try dsimp only
  repeat' first | with_reducible (first | exact h | assumption | intro _ | apply ite_keeps | apply State.modEng_keeps | apply foldl_keeps | apply foldl_pair_keeps | apply foldl_triple_keeps)

theorem execKeepaliveEntry_keeps (s : State) (h : Keeps s0 s) : OutKeeps s0 (execKeepaliveEntry s) := by
  unfold execKeepaliveEntry
  try dsimp only
  repeat' first | with_reducible (first | exact h | assumption | intro _ | apply out_next | apply ite_keeps | apply ite_out | apply enterKeepalive_keeps)

theorem darkRestart_keeps (p : Nat) (s : State) (h : Keeps s0 s) : Keeps s0 (darkRestart p s) := by
  unfold darkRestart
  try dsimp only
  repeat' first | with_reducible (first | exact h | assumption | intro _ | apply State.modOe_keeps | apply State.modPos_keeps | apply foldl_keeps | apply foldl_pair_keeps | apply foldl_triple_keeps)

theorem execPortDarkRestart_keeps (port : Fin 16) (s : State) (h : Keeps s0 s) : OutKeeps s0 (execPortDarkRestart port s) := by
  unfold execPortDarkRestart
  try dsimp only
  repeat' first | with_reducible (first | exact h | assumption | intro _ | apply out_next | apply ite_keeps | apply ite_out | apply darkRestart_keeps)

end Sys2Proof.Machine
end

