-- ==== Sys2Proof/Laws/KeepsFabric.lean ====
section
/-! SUPPORT. What the operations of Fabric keep: the queue, OTP and fuses, and the canonical form of host memory. -/

namespace Sys2Proof.Machine

open Sys2Proof

variable {s0 : State}

set_option linter.unreachableTactic false
set_option linter.unusedTactic false

theorem State.modLink_keeps (key : Nat) (f : Link → Link) (s : State) (h : Keeps s0 s) : Keeps s0 (State.modLink key f s) := by
  unfold State.modLink
  try dsimp only
  repeat' first | with_reducible (first | exact h | assumption | intro _ | apply State.modFab_keeps)

theorem State.modPeer_keeps (key : Nat) (f : Peer → Peer) (s : State) (h : Keeps s0 s) : Keeps s0 (State.modPeer key f s) := by
  unfold State.modPeer
  try dsimp only
  repeat' first | with_reducible (first | exact h | assumption | intro _ | apply State.modFab_keeps)

theorem returnCredit_keeps (c : Carried) (s : State) (h : Keeps s0 s) : Keeps s0 (returnCredit c s) := by
  unfold returnCredit
  try dsimp only
  repeat' first | with_reducible (first | exact h | assumption | intro _ | apply ite_keeps | apply State.modLink_keeps)

theorem enqueue_keeps (key : Nat) (c : Carried) (s : State) (h : Keeps s0 s) : Keeps s0 (enqueue key c s) := by
  unfold enqueue
  try dsimp only
  repeat' first | with_reducible (first | exact h | assumption | intro _ | apply ite_keeps | apply State.modFab_keeps | apply State.modLink_keeps)

theorem escapeRing_keeps (c : Carried) (s : State) (h : Keeps s0 s) : Keeps s0 (escapeRing c s) := by
  unfold escapeRing
  try dsimp only
  repeat' first | with_reducible (first | exact h | assumption | intro _ | apply State.modFab_keeps)

theorem fmMessage_keeps (payload : List Byte) (dev : Nat) (s : State) (h : Keeps s0 s) : Keeps s0 (fmMessage payload dev s) := by
  unfold fmMessage
  try dsimp only
  repeat' first | with_reducible (first | exact h | assumption | intro _ | apply ite_keeps | apply State.modHost_keeps | apply raiseEvent_keeps | apply writeStationRecord_keeps | apply fabCount_keeps)

theorem deliver_keeps (c : Carried) (s : State) (h : Keeps s0 s) : Keeps s0 (deliver c s) := by
  unfold deliver
  try dsimp only
  repeat' first | with_reducible (first | exact h | assumption | intro _ | apply ite_keeps | apply State.modFab_keeps | apply fabCount_keeps | apply returnCredit_keeps | apply fmMessage_keeps)

theorem routePacket_keeps (relay : Bool) (c : Carried) (s : State) (h : Keeps s0 s) : Keeps s0 (routePacket relay c s) := by
  unfold routePacket
  try dsimp only
  repeat' first | with_reducible (first | exact h | assumption | intro _ | apply ite_keeps | apply fabCount_keeps | apply enqueue_keeps | apply escapeRing_keeps | apply deliver_keeps)

theorem spreadOver_keeps (src dst : Nat) (ws : List Nat) (s : State) (h : Keeps s0 s) : Keeps s0 (spreadOver src dst ws s) := by
  unfold spreadOver
  try dsimp only
  repeat' first | with_reducible (first | exact h | assumption | intro _ | apply ite_keeps | apply State.modFab_keeps | apply foldl_keeps | apply foldl_pair_keeps | apply foldl_triple_keeps)

theorem sendCol_keeps (entry : Option (List Nat)) (c : Carried) (s : State) (h : Keeps s0 s) : Keeps s0 (sendCol entry c s) := by
  unfold sendCol
  try dsimp only
  repeat' first | with_reducible (first | exact h | assumption | intro _ | apply State.modFab_keeps | apply fabCount_keeps | apply enqueue_keeps | apply escapeRing_keeps | apply spreadOver_keeps) | split

theorem relayCol_keeps (c : Carried) (s : State) (h : Keeps s0 s) : Keeps s0 (relayCol c s) := by
  unfold relayCol
  try dsimp only
  repeat' first | with_reducible (first | exact h | assumption | intro _ | apply ite_keeps | apply fabCount_keeps | apply escapeRing_keeps | apply sendCol_keeps)

theorem originate_keeps (r : Nat) (p : Packet) (s : State) (h : Keeps s0 s) : Keeps s0 (originate r p s) := by
  unfold originate
  try dsimp only
  repeat' first | with_reducible (first | exact h | assumption | intro _ | apply ite_keeps | apply routePacket_keeps | apply sendCol_keeps)

theorem sendMgt_keeps (code dst : Nat) (body : List Byte) (s : State) (h : Keeps s0 s) : Keeps s0 (sendMgt code dst body s) := by
  unfold sendMgt
  try dsimp only
  repeat' first | with_reducible (first | exact h | assumption | intro _ | apply originate_keeps)

theorem sendFm_keeps (code : Nat) (body : List Byte) (s : State) (h : Keeps s0 s) : Keeps s0 (sendFm code body s) := by
  unfold sendFm
  try dsimp only
  repeat' first | with_reducible (first | exact h | assumption | intro _ | apply ite_keeps | apply fmMessage_keeps | apply originate_keeps)

theorem sendLocal_keeps (key code : Nat) (body : List Byte) (s : State) (lane : Option Nat := none) (h : Keeps s0 s) : Keeps s0 (sendLocal key code body s lane) := by
  unfold sendLocal
  try dsimp only
  repeat' first | with_reducible (first | exact h | assumption | intro _ | apply enqueue_keeps)

theorem sendAcks_keeps (n : Nat) (s : State) (h : Keeps s0 s) : Keeps s0 (sendAcks n s) := by
  induction n generalizing s with
  | zero => exact h
  | succ n ih =>
    unfold sendAcks
    split
    · exact h
    · split
      · exact ih _ (originate_keeps _ _ _ (State.modFab_keeps _ h))
      · exact h

theorem queueAck_keeps (r : Nat) (p : Packet) (s : State) (h : Keeps s0 s) : Keeps s0 (queueAck r p s) := by
  unfold queueAck
  try dsimp only
  repeat' first | with_reducible (first | exact h | assumption | intro _ | apply State.modFab_keeps | apply sendAcks_keeps)

theorem sendHealth_keeps (reason detail : Nat) (s : State) (h : Keeps s0 s) : Keeps s0 (sendHealth reason detail s) := by
  unfold sendHealth
  try dsimp only
  repeat' first | with_reducible (first | exact h | assumption | intro _ | apply sendFm_keeps)

theorem recordFatal_keeps (r : Record) (s : State) (h : Keeps s0 s) : Keeps s0 (recordFatal r s) := by
  unfold recordFatal
  try dsimp only
  repeat' first | with_reducible (first | exact h | assumption | intro _ | apply record_keeps | apply sendHealth_keeps)

theorem pushFlit_keeps (idle : Bool) (data : List Byte) (key : Nat) (s : State) (h : Keeps s0 s) : Keeps s0 (pushFlit idle data key s) := by
  unfold pushFlit
  try dsimp only
  repeat' first | with_reducible (first | exact h | assumption | intro _ | apply ite_keeps | apply idle_keeps | apply State.modFab_keeps | apply State.modLink_keeps) | split

theorem streamOut_keeps (key n : Nat) (bs : List Byte) (s : State) (h : Keeps s0 s) : Keeps s0 (streamOut key n bs s) := by
  induction n generalizing bs s with
  | zero => exact State.modLink_keeps _ _ _ h
  | succ n ih =>
    unfold streamOut
    split
    · exact State.modLink_keeps _ _ _ h
    · exact ih _ _ (pushFlit_keeps _ _ _ _ h)

theorem flushStream_keeps (key : Nat) (s : State) (h : Keeps s0 s) : Keeps s0 (flushStream key s) := by
  unfold flushStream
  try dsimp only
  repeat' first | with_reducible (first | exact h | assumption | intro _ | apply State.modLink_keeps | apply pushFlit_keeps)

theorem pushIdle_keeps (key : Nat) (s : State) (h : Keeps s0 s) : Keeps s0 (pushIdle key s) := by
  unfold pushIdle
  try dsimp only
  repeat' first | with_reducible (first | exact h | assumption | intro _ | apply State.modOe_keeps | apply pushFlit_keeps) | split

theorem alignLine_keeps (key line n : Nat) (s : State) (h : Keeps s0 s) : Keeps s0 (alignLine key line n s) := by
  induction n generalizing s with
  | zero => exact h
  | succ n ih =>
    unfold alignLine
    split
    · exact h
    · exact ih _ (pushIdle_keeps _ _ h)

theorem ownFlit_keeps (key : Nat) (c : Carried) (s : State) (h : Keeps s0 s) : Keeps s0 (ownFlit key c s) := by
  unfold ownFlit
  try dsimp only
  repeat' first | with_reducible (first | exact h | assumption | intro _ | apply ite_keeps | apply flushStream_keeps | apply alignLine_keeps) | split

theorem sendPacket_keeps (key : Nat) (c : Carried) (s : State) (h : Keeps s0 s) : Keeps s0 (sendPacket key c s) := by
  unfold sendPacket
  try dsimp only
  repeat' first | with_reducible (first | exact h | assumption | intro _ | apply ite_keeps | apply State.modLink_keeps | apply returnCredit_keeps | apply streamOut_keeps | apply flushStream_keeps | apply ownFlit_keeps)

theorem escHop_keeps (key : Nat) (t : Option Nat) (c : Carried) (s : State) {y0} {s1 : State} (he : (escHop key t c s) = (y0, s1)) (h : Keeps s0 s) : Keeps s0 s1 := by
  unfold escHop at he
  try dsimp only at he
  repeat' split at he
  all_goals first | (cases he; repeat' first | with_reducible (first | exact h | assumption | intro _ | apply State.modLink_keeps))

theorem escHop_keeps_proj (key : Nat) (t : Option Nat) (c : Carried) (s : State) (h : Keeps s0 s) : Keeps s0 (escHop key t c s).2 := by
  generalize he : (escHop key t c s) = p
  obtain ⟨_, _⟩ := p
  exact escHop_keeps key t c s he h

theorem enterRing_keeps (key : Nat) (s : State) (h : Keeps s0 s) : Keeps s0 (enterRing key s) := by
  unfold enterRing
  try dsimp only
  repeat' first | with_reducible (first | exact h | assumption | intro _ | apply State.modFab_keeps | apply fabCount_keeps | apply enqueue_keeps | (apply escHop_keeps; assumption) | apply escHop_keeps_proj) | split

theorem reroute_keeps (c : Carried) (s : State) (h : Keeps s0 s) : Keeps s0 (reroute c s) := by
  unfold reroute
  try dsimp only
  repeat' first | with_reducible (first | exact h | assumption | intro _ | apply ite_keeps | apply routePacket_keeps | apply sendCol_keeps | apply relayCol_keeps)

theorem moveEsc_keeps (key out : Nat) (c : Carried) (s : State) (h : Keeps s0 s) : Keeps s0 (moveEsc key out c s) := by
  unfold moveEsc
  try dsimp only
  repeat' first | with_reducible (first | exact h | assumption | intro _ | apply State.modLink_keeps | apply enqueue_keeps | (apply escHop_keeps; assumption) | apply escHop_keeps_proj) | split

theorem rerouted_keeps (key : Nat) (s : State) {t : State} (e : rerouted key s = some t) (h : Keeps s0 s) : Keeps s0 t := by
  unfold rerouted at e
  rw [Option.map_eq_some_iff] at e
  obtain ⟨c, -, rfl⟩ := e
  have h' := State.modLink_keeps key (fun l => { l with queue := takeFrom s.aon c l.queue }) s h
  dsimp only
  split
  · split
    · exact moveEsc_keeps _ _ _ _ h'
    · exact h'
  · exact reroute_keeps _ _ h'

theorem idleLink_keeps (port line : Nat) (key : Nat) (s : State) (h : Keeps s0 s) : Keeps s0 (idleLink port line key s) := by
  unfold idleLink
  extract_lets l room
  split
  · exact flushStream_keeps _ _ h
  · split
    · rename_i e
      split at e
      · cases e
      · exact rerouted_keeps _ _ e h
    · split
      · exact pushIdle_keeps _ _ h
      · exact h

theorem sendUnit_keeps (k n : Nat) (x : Crossing) (s : State) (h : Keeps s0 s) : Keeps s0 (sendUnit k n x s) := by
  unfold sendUnit
  try dsimp only
  repeat' first | with_reducible (first | exact h | assumption | intro _ | apply ite_keeps | apply State.modRing_keeps | apply State.modFab_keeps | apply returnCredit_keeps)

theorem crossed_keeps (k : Nat) (x : Crossing) (s : State) (h : Keeps s0 s) : Keeps s0 (crossed k x s) := by
  unfold crossed
  try dsimp only
  repeat' first | with_reducible (first | exact h | assumption | intro _ | apply enqueue_keeps)

theorem takeUnits_keeps (k n : Nat) (s : State) (h : Keeps s0 s) : Keeps s0 (takeUnits k n s) := by
  unfold takeUnits
  try dsimp only
  repeat' first | with_reducible (first | exact h | assumption | intro _ | apply State.modFab_keeps | apply crossed_keeps | apply foldl_keeps | apply foldl_pair_keeps | apply foldl_triple_keeps) | split

theorem sendD2d_keeps (k n : Nat) (bytes : List Byte) (s : State) {y0} {s1 : State} (he : (sendD2d k n bytes s) = (y0, s1)) (h : Keeps s0 s) : Keeps s0 s1 := by
  unfold sendD2d at he
  try dsimp only at he
  repeat' split at he
  all_goals first | (cases he; repeat' first | with_reducible (first | exact h | assumption | intro _ | apply State.modRing_keeps | apply sendUnit_keeps) | split)

theorem sendD2d_keeps_proj (k n : Nat) (bytes : List Byte) (s : State) (h : Keeps s0 s) : Keeps s0 (sendD2d k n bytes s).2 := by
  generalize he : (sendD2d k n bytes s) = p
  obtain ⟨_, _⟩ := p
  exact sendD2d_keeps k n bytes s he h

theorem execD2dFlitReceive_keeps (link : Fin 4) (turn : Turn) (replay : Bool) (bytes damage : List Byte) (s : State) (h : Keeps s0 s) : OutKeeps s0 (execD2dFlitReceive link turn replay bytes damage s) := by
  unfold execD2dFlitReceive
  try dsimp only
  repeat' first | with_reducible (first | exact h | assumption | intro _ | apply out_next | apply ite_keeps | apply ite_out | apply State.modRing_keeps | apply takeUnits_keeps | (apply sendD2d_keeps; assumption) | apply sendD2d_keeps_proj) | split

theorem cutCrossings_keeps (s : State) (h : Keeps s0 s) : Keeps s0 (cutCrossings s) := by
  unfold cutCrossings
  try dsimp only
  repeat' first | with_reducible (first | exact h | assumption | intro _ | apply ite_keeps | apply State.modFab_keeps | apply reroute_keeps | apply foldl_keeps | apply foldl_pair_keeps | apply foldl_triple_keeps) | split

theorem teeCopy_keeps (p : Packet) (s : State) (h : Keeps s0 s) : Keeps s0 (teeCopy p s) := by
  unfold teeCopy
  try dsimp only
  repeat' first | with_reducible (first | exact h | assumption | intro _ | apply enqueue_keeps | apply with_mem_keeps)

theorem deliverTeed_keeps (c : Carried) (s : State) (h : Keeps s0 s) : Keeps s0 (deliverTeed c s) := by
  unfold deliverTeed
  try dsimp only
  repeat' first | with_reducible (first | exact h | assumption | intro _ | apply ite_keeps | apply deliver_keeps | apply teeCopy_keeps)

theorem arrive_keeps (c : Carried) (s : State) (h : Keeps s0 s) : Keeps s0 (arrive c s) := by
  unfold arrive
  try dsimp only
  repeat' first | with_reducible (first | exact h | assumption | intro _ | apply ite_keeps | apply State.modFab_keeps | apply deliverTeed_keeps)

theorem admitWaiting_keeps (s : State) (h : Keeps s0 s) : Keeps s0 (admitWaiting s) := by
  unfold admitWaiting
  try dsimp only
  repeat' first | with_reducible (first | exact h | assumption | intro _ | apply State.modFab_keeps | apply arrive_keeps | apply foldl_keeps | apply foldl_pair_keeps | apply foldl_triple_keeps)

theorem execPacketForward_keeps (port : Fin 16) (line : Fin 34) (s : State) (h : Keeps s0 s) : OutKeeps s0 (execPacketForward port line s) := by
  unfold execPacketForward
  try dsimp only
  repeat' first | with_reducible (first | exact h | assumption | intro _ | apply out_next | apply ite_keeps | apply ite_out | apply State.modLink_keeps | apply sendAcks_keeps | apply sendPacket_keeps | apply enterRing_keeps | apply idleLink_keeps | apply admitWaiting_keeps) | split

theorem takeFlit_keeps (key : Nat) (fecFailed : Bool) (bytes : List Byte) (s : State) (h : Keeps s0 s) : Keeps s0 (takeFlit key fecFailed bytes s) := by
  unfold takeFlit
  try dsimp only
  repeat' first | with_reducible (first | exact h | assumption | intro _ | apply ite_keeps | apply State.modLink_keeps)

theorem execFlitReceive_keeps (port : Fin 16) (line : Fin 34) (badCodes : BitVec 2) (bytes : List Byte) (s : State) (h : Keeps s0 s) : OutKeeps s0 (execFlitReceive port line badCodes bytes s) := by
  unfold execFlitReceive
  try dsimp only
  repeat' first | with_reducible (first | exact h | assumption | intro _ | apply out_next | apply ite_keeps | apply ite_out | exact out_fault _ | apply State.modPos_keeps | apply takeFlit_keeps) | split

theorem execLinkReplayTimeout_keeps (port : Fin 16) (line : Fin 34) (s : State) (h : Keeps s0 s) : OutKeeps s0 (execLinkReplayTimeout port line s) := by
  unfold execLinkReplayTimeout
  try dsimp only
  repeat' first | with_reducible (first | exact h | assumption | intro _ | apply out_next | apply ite_keeps | apply ite_out | apply State.modLink_keeps)

theorem execReplayStoreDiscard_keeps (port : Fin 16) (line : Fin 34) (s : State) (h : Keeps s0 s) : OutKeeps s0 (execReplayStoreDiscard port line s) := by
  unfold execReplayStoreDiscard
  try dsimp only
  repeat' first | with_reducible (first | exact h | assumption | intro _ | apply out_next | apply ite_keeps | apply ite_out | apply State.modLink_keeps)

theorem handlePacket_keeps (c : Carried) (s : State) (h : Keeps s0 s) : Keeps s0 (handlePacket c s) := by
  unfold handlePacket
  try dsimp only
  repeat' first | with_reducible (first | exact h | assumption | intro _ | apply ite_keeps | apply fabCount_keeps | apply State.modLink_keeps | apply returnCredit_keeps | apply deliver_keeps | apply routePacket_keeps | apply relayCol_keeps | apply arrive_keeps | apply with_mem_keeps)

theorem teeOver_keeps (key : Nat) (p : Packet) (s : State) (h : Keeps s0 s) : Keeps s0 (teeOver key p s) := by
  unfold teeOver
  try dsimp only
  repeat' first | with_reducible (first | exact h | assumption | intro _ | apply ite_keeps | apply with_mem_keeps)

theorem execPacketReceive_keeps (port : Fin 16) (line : Fin 34) (s : State) (h : Keeps s0 s) : OutKeeps s0 (execPacketReceive port line s) := by
  unfold execPacketReceive
  try dsimp only
  repeat' first | with_reducible (first | exact h | assumption | intro _ | apply out_next | apply ite_keeps | apply ite_out | apply fabCount_keeps | apply State.modLink_keeps | apply returnCredit_keeps | apply handlePacket_keeps | apply teeOver_keeps) | split

theorem execEscWaitExpire_keeps (port : Fin 16) (line : Fin 34) (s : State) (h : Keeps s0 s) : OutKeeps s0 (execEscWaitExpire port line s) := by
  unfold execEscWaitExpire
  try dsimp only
  repeat' first | with_reducible (first | exact h | assumption | intro _ | apply out_next | apply ite_keeps | apply ite_out | apply State.modFab_keeps | apply State.modLink_keeps | apply escapeRing_keeps) | split

theorem execEscAdvance_keeps (port : Fin 16) (line : Fin 34) (s : State) (h : Keeps s0 s) : OutKeeps s0 (execEscAdvance port line s) := by
  unfold execEscAdvance
  try dsimp only
  repeat' first | with_reducible (first | exact h | assumption | intro _ | apply out_next | apply ite_keeps | apply ite_out | apply fabCount_keeps | apply State.modLink_keeps | apply returnCredit_keeps | apply enqueue_keeps | (apply escHop_keeps; assumption) | apply escHop_keeps_proj | apply deliverTeed_keeps) | split

theorem samplePosition_keeps (p w : Nat) (s : State) (h : Keeps s0 s) : Keeps s0 (samplePosition p w s) := by
  unfold samplePosition
  try dsimp only
  repeat' first | with_reducible (first | exact h | assumption | intro _ | apply ite_keeps | apply State.modFab_keeps | apply foldl_keeps | apply foldl_pair_keeps | apply foldl_triple_keeps)

theorem execCongSample_keeps (s : State) (h : Keeps s0 s) : OutKeeps s0 (execCongSample s) := by
  unfold execCongSample
  try dsimp only
  repeat' first | with_reducible (first | exact h | assumption | intro _ | apply out_next | apply ite_keeps | apply ite_out | apply State.modFab_keeps | apply samplePosition_keeps | apply foldl_keeps | apply foldl_pair_keeps | apply foldl_triple_keeps)

end Sys2Proof.Machine
end

