-- ==== Sys2Proof/Laws/KeepsBlock.lean ====
section
/-! SUPPORT. What the operations of Block keep: the queue, OTP and fuses, and the canonical form of host memory. -/

namespace Sys2Proof.Machine

open Sys2Proof

variable {s0 : State}

set_option linter.unreachableTactic false
set_option linter.unusedTactic false

theorem State.modBlk_keeps (p : Nat) (f : Block → Block) (s : State) (h : Keeps s0 s) : Keeps s0 (State.modBlk p f s) := by
  unfold State.modBlk
  try dsimp only
  repeat' first | with_reducible (first | exact h | assumption | intro _ | apply State.modBlks_keeps)

theorem postCtr_keeps (p c v : Nat) (s : State) (h : Keeps s0 s) : Keeps s0 (postCtr p c v s) := by
  unfold postCtr
  try dsimp only
  repeat' first | with_reducible (first | exact h | assumption | intro _ | apply State.modBlk_keeps)

theorem failBlock_keeps (p : Nat) (cause : Option Nat) (s : State) (h : Keeps s0 s) : Keeps s0 (failBlock p cause s) := by
  unfold failBlock
  try dsimp only
  repeat' first | with_reducible (first | exact h | assumption | intro _ | apply State.modFlt_keeps | apply recordFatal_keeps) | split

theorem haltAt_keeps (p code desc : Nat) (off : Option Nat) (s : State) (h : Keeps s0 s) : Keeps s0 (haltAt p code desc off s) := by
  unfold haltAt
  try dsimp only
  repeat' first | with_reducible (first | exact h | assumption | intro _ | apply ite_keeps | apply State.modFlt_keeps | apply recordFatal_keeps | apply State.modBlk_keeps | apply failBlock_keeps) | split

theorem haltBlock_keeps (p code desc off : Nat) (s : State) (h : Keeps s0 s) : Keeps s0 (haltBlock p code desc off s) := by
  unfold haltBlock
  try dsimp only
  repeat' first | with_reducible (first | exact h | assumption | intro _ | apply ite_keeps | apply haltAt_keeps)

theorem readScratch_keeps (p a n : Nat) (s : State) {y0} {s1 : State} (he : (readScratch p a n s) = (y0, s1)) (h : Keeps s0 s) : Keeps s0 s1 := by
  have e2 : (readScratch p a n s).2 = s1 := by rw [he]
  rw [← e2]
  unfold readScratch
  refine foldl_pair_keeps h ?_
  intro u x hu
  cases x with
  | scratch b off double =>
    dsimp only
    split
    · exact hu
    · split
      · dsimp only
        exact haltBlock_keeps _ _ _ _ _ (with_free_keeps _ hu)
      · dsimp only
        exact record_keeps _ _ hu
  | _ => exact hu

theorem readScratch_keeps_proj (p a n : Nat) (s : State) (h : Keeps s0 s) : Keeps s0 (readScratch p a n s).2 := by
  generalize he : (readScratch p a n s) = p
  obtain ⟨_, _⟩ := p
  exact readScratch_keeps p a n s he h

end Sys2Proof.Machine
end

