-- ==== Sys2Proof/Laws/KeepsHbm.lean ====
section
/-! SUPPORT. What the operations of Hbm keep: the queue, OTP and fuses, and the canonical form of host memory. -/

namespace Sys2Proof.Machine

open Sys2Proof

variable {s0 : State}

set_option linter.unreachableTactic false
set_option linter.unusedTactic false

theorem dramStore_keeps (line : Nat) (data : List Byte) (s : State) (h : Keeps s0 s) : Keeps s0 (dramStore line data s) := by
  unfold dramStore
  try dsimp only
  repeat' first | with_reducible (first | exact h | assumption | intro _ | apply State.modHbm_keeps)

theorem poisonLine_keeps (line : Nat) (s : State) (h : Keeps s0 s) : Keeps s0 (poisonLine line s) := by
  unfold poisonLine
  try dsimp only
  repeat' first | with_reducible (first | exact h | assumption | intro _ | apply State.modHbm_keeps)

theorem failChannel_keeps (ch cause : Nat) (s : State) (h : Keeps s0 s) : Keeps s0 (failChannel ch cause s) := by
  unfold failChannel
  try dsimp only
  repeat' first | with_reducible (first | exact h | assumption | intro _ | apply ite_keeps | apply raiseEvent_keeps | apply recordFatal_keeps | apply State.modHbm_keeps)

theorem countRow_keeps (ch row : Nat) (s : State) (h : Keeps s0 s) : Keeps s0 (countRow ch row s) := by
  unfold countRow
  try dsimp only
  repeat' first | with_reducible (first | exact h | assumption | intro _ | apply ite_keeps | apply State.modHbm_keeps | apply failChannel_keeps)

theorem poisonRead_keeps (r ch off frame : Nat) (blk : Option (Nat × Nat)) (s : State) (h : Keeps s0 s) : Keeps s0 (poisonRead r ch off frame blk s) := by
  unfold poisonRead
  try dsimp only
  repeat' first | with_reducible (first | exact h | assumption | intro _ | apply record_keeps)

theorem correctedRead_keeps (r ch off frame : Nat) (blk : Option (Nat × Nat)) (s : State) (h : Keeps s0 s) : Keeps s0 (correctedRead r ch off frame blk s) := by
  unfold correctedRead
  try dsimp only
  repeat' first | with_reducible (first | exact h | assumption | intro _ | apply record_keeps | apply State.modHbm_keeps)

theorem readPhys_keeps (line r a : Nat) (blk : Option (Nat × Nat)) (lost : State → State) (ecc : Ecc) (s : State) {y0} {s1 : State}
    (he : (readPhys line r a blk lost ecc s) = (y0, s1)) (hlost : ∀ x0, Keeps s0 x0 → Keeps s0 (lost x0)) (h : Keeps s0 s) : Keeps s0 s1 := by
  unfold readPhys at he
  try dsimp only at he
  repeat' split at he
  all_goals first | (cases he; repeat' first | with_reducible (first | exact h | assumption | intro _ | apply ite_keeps | apply hlost | apply State.modHbm_keeps | apply countRow_keeps | apply correctedRead_keeps) | split)

theorem readPhys_keeps_proj (line r a : Nat) (blk : Option (Nat × Nat)) (lost : State → State) (ecc : Ecc) (s : State)
    (hlost : ∀ x0, Keeps s0 x0 → Keeps s0 (lost x0)) (h : Keeps s0 s) : Keeps s0 (readPhys line r a blk lost ecc s).2 :=
  readPhys_keeps line r a blk lost ecc s rfl hlost h

theorem flushEntry_keeps (e : WcEntry) (s : State) (h : Keeps s0 s) : Keeps s0 (flushEntry e s) := by
  unfold flushEntry
  try dsimp only
  repeat' first | with_reducible (first | exact h | assumption | intro _ | apply ite_keeps | apply State.modHbm_keeps | apply dramStore_keeps | apply poisonLine_keeps | apply poisonRead_keeps | (apply readPhys_keeps; assumption) | apply readPhys_keeps_proj) | split

theorem flushChannel_keeps (ch : Nat) (s : State) (h : Keeps s0 s) : Keeps s0 (flushChannel ch s) := by
  unfold flushChannel
  try dsimp only
  repeat' first | with_reducible (first | exact h | assumption | intro _ | apply State.modHbm_keeps | apply flushEntry_keeps | apply foldl_keeps | apply foldl_pair_keeps | apply foldl_triple_keeps)

theorem flushAll_keeps (s : State) (h : Keeps s0 s) : Keeps s0 (flushAll s) := by
  unfold flushAll
  try dsimp only
  repeat' first | with_reducible (first | exact h | assumption | intro _ | apply flushChannel_keeps | apply foldl_keeps | apply foldl_pair_keeps | apply foldl_triple_keeps)

theorem flushRegion_keeps (r : Nat) (s : State) (h : Keeps s0 s) : Keeps s0 (flushRegion r s) := by
  unfold flushRegion
  try dsimp only
  repeat' first | with_reducible (first | exact h | assumption | intro _ | apply flushChannel_keeps | apply foldl_keeps | apply foldl_pair_keeps | apply foldl_triple_keeps)

theorem readLineEcc_keeps (r off : Nat) (blk : Option (Nat × Nat)) (ecc : Ecc) (s : State) {y0 y1} {s1 : State} (he : (readLineEcc r off blk ecc s) = (y0, y1, s1)) (h : Keeps s0 s) : Keeps s0 s1 := by
  unfold readLineEcc at he
  try dsimp only at he
  repeat' split at he
  all_goals first | (with_reducible apply readPhys_keeps <;> assumption) | (cases he; repeat' first | with_reducible (first | exact h | assumption | intro _ | apply poisonRead_keeps | (apply readPhys_keeps; assumption) | apply readPhys_keeps_proj) | split)

theorem readLineEcc_keeps_proj (r off : Nat) (blk : Option (Nat × Nat)) (ecc : Ecc) (s : State) (h : Keeps s0 s) : Keeps s0 (readLineEcc r off blk ecc s).2.2 := by
  generalize he : (readLineEcc r off blk ecc s) = p
  obtain ⟨_, _, _⟩ := p
  exact readLineEcc_keeps r off blk ecc s he h

theorem readLine_keeps (r off : Nat) (blk : Option (Nat × Nat)) (s : State) {y0 y1} {s1 : State} (he : (readLine r off blk s) = (y0, y1, s1)) (h : Keeps s0 s) : Keeps s0 s1 := by
  unfold readLine at he
  exact readLineEcc_keeps _ _ _ _ _ he h

theorem readLine_keeps_proj (r off : Nat) (blk : Option (Nat × Nat)) (s : State) (h : Keeps s0 s) : Keeps s0 (readLine r off blk s).2.2 := by
  generalize he : (readLine r off blk s) = p
  obtain ⟨_, _, _⟩ := p
  exact readLine_keeps r off blk s he h

theorem meeting_keeps (errs : List ReadErr) (f : State → Out) (s : State) (hf : ∀ x0, Keeps s0 x0 → OutKeeps s0 (f x0)) (h : Keeps s0 s) : OutKeeps s0 (meeting errs f s) := by
  unfold meeting
  split
  · exact hf _ h
  · split
    · rename_i e
      exact out_next (State.modHbm_keeps _ ((hf _ (State.modHbm_keeps _ h)).keep _ e))
    · exact hf _ (State.modHbm_keeps _ h)

theorem acceptWrite_keeps (line mask : Nat) (data : List Byte) (s : State) (h : Keeps s0 s) : Keeps s0 (acceptWrite line mask data s) := by
  unfold acceptWrite
  try dsimp only
  repeat' first | with_reducible (first | exact h | assumption | intro _ | apply ite_keeps | apply State.modHbm_keeps | apply dramStore_keeps | apply flushEntry_keeps) | split

theorem writeLine_keeps (r off mask : Nat) (data : List Byte) (s : State) (h : Keeps s0 s) : Keeps s0 (writeLine r off mask data s) := by
  unfold writeLine
  try dsimp only
  repeat' first | with_reducible (first | exact h | assumption | intro _ | apply ite_keeps | apply record_keeps | apply acceptWrite_keeps) | split

theorem writeBytes_keeps (r off : Nat) (bs : List Byte) (s : State) (h : Keeps s0 s) : Keeps s0 (writeBytes r off bs s) := by
  unfold writeBytes
  try dsimp only
  repeat' first | with_reducible (first | exact h | assumption | intro _ | apply writeLine_keeps | apply foldl_keeps | apply foldl_pair_keeps | apply foldl_triple_keeps)

theorem readBytes_keeps (r off n : Nat) (blk : Option (Nat × Nat)) (s : State) {y0 y1} {s1 : State} (he : (readBytes r off n blk s) = (y0, y1, s1)) (h : Keeps s0 s) : Keeps s0 s1 := by
  unfold readBytes at he
  try dsimp only at he
  repeat' split at he
  all_goals first | (with_reducible apply readLine_keeps <;> assumption) | (cases he; repeat' first | with_reducible (first | exact h | assumption | intro _ | (apply readLine_keeps; assumption) | apply readLine_keeps_proj | apply foldl_keeps | apply foldl_pair_keeps | apply foldl_triple_keeps) | split)

theorem readBytes_keeps_proj (r off n : Nat) (blk : Option (Nat × Nat)) (s : State) (h : Keeps s0 s) : Keeps s0 (readBytes r off n blk s).2.2 := by
  generalize he : (readBytes r off n blk s) = p
  obtain ⟨_, _, _⟩ := p
  exact readBytes_keeps r off n blk s he h

theorem clearFrame_keeps (r f : Nat) (s : State) (h : Keeps s0 s) : Keeps s0 (clearFrame r f s) := by
  unfold clearFrame
  try dsimp only
  repeat' first | with_reducible (first | exact h | assumption | intro _ | apply State.modHbm_keeps)

theorem removeFrames_keeps (r : Nat) (isBad : Nat → Bool) (s : State) (h : Keeps s0 s) : Keeps s0 (removeFrames r isBad s) := by
  unfold removeFrames
  try dsimp only
  repeat' first | with_reducible (first | exact h | assumption | intro _ | apply ite_keeps | apply spareExhausted_keeps | apply State.modHbm_keeps) | split

theorem retireOp_keeps (r f : Nat) (s : State) (h : Keeps s0 s) : Keeps s0 (retireOp r f s) := by
  unfold retireOp
  try dsimp only
  repeat' first | with_reducible (first | exact h | assumption | intro _ | apply ite_keeps | apply State.modHbm_keeps | apply removeFrames_keeps)

theorem mapOutOp_keeps (r c : Nat) (s : State) (h : Keeps s0 s) : Keeps s0 (mapOutOp r c s) := by
  unfold mapOutOp
  try dsimp only
  repeat' first | with_reducible (first | exact h | assumption | intro _ | apply ite_keeps | apply State.modHbm_keeps | apply removeFrames_keeps)

theorem reserveOp_keeps (r want : Nat) (s : State) (h : Keeps s0 s) : Keeps s0 (reserveOp r want s) := by
  unfold reserveOp
  try dsimp only
  repeat' first | with_reducible (first | exact h | assumption | intro _ | apply ite_keeps | apply spareExhausted_keeps | apply State.modHbm_keeps | apply clearFrame_keeps | apply foldl_keeps | apply foldl_pair_keeps | apply foldl_triple_keeps) | split

theorem frameOp_keeps (w : Nat) (s : State) (h : Keeps s0 s) : Keeps s0 (frameOp w s) := by
  unfold frameOp
  try dsimp only
  repeat' first | with_reducible (first | exact h | assumption | intro _ | apply retireOp_keeps | apply mapOutOp_keeps | apply reserveOp_keeps) | split

theorem moveLine_keeps (m : Move) (k : Nat) (acc : List Nat × State) (h : Keeps s0 acc.2) : Keeps s0 (moveLine m k acc).2 := by
  unfold moveLine
  extract_lets line a
  have hs := readPhys_keeps_proj (line m.src) m.region a none id (eccMet acc.2 m.region a) acc.2 (fun _ h => h) h
  generalize readPhys (line m.src) m.region a none id (eccMet acc.2 m.region a) acc.2 = q at hs ⊢
  obtain ⟨bs, t⟩ := q
  dsimp only at hs ⊢
  split
  · dsimp only
    apply record_keeps
    exact hs
  · split
    · exact dramStore_keeps _ _ _ hs
    · exact poisonLine_keeps _ _ hs

theorem moveLines_keeps (m : Move) (l : List Nat) (p : List Nat × State) (h : Keeps s0 p.2) : Keeps s0 (l.foldl (fun acc k => moveLine m k acc) p).2 :=
  foldl_pair_keeps h fun u x hu => moveLine_keeps m x u hu

theorem frameRecord_keeps (m : Move) (ks : List Nat) (s : State) (h : Keeps s0 s) : Keeps s0 (frameRecord m ks s) := by
  unfold frameRecord
  try dsimp only
  repeat' first | with_reducible (first | exact h | assumption | intro _ | apply putRecord_keeps) | split

theorem moveFrame_keeps (m : Move) (s : State) (h : Keeps s0 s) : Keeps s0 (moveFrame m s) := by
  unfold moveFrame
  generalize List.range 32768 = l
  exact frameRecord_keeps m _ _ (moveLines_keeps m l _ (clearFrame_keeps _ _ _ h))

theorem doMoves_keeps (s : State) (h : Keeps s0 s) : Keeps s0 (doMoves s) := by
  unfold doMoves
  try dsimp only
  repeat' first | with_reducible (first | exact h | assumption | intro _ | apply State.modHbm_keeps | apply moveFrame_keeps | apply foldl_keeps | apply foldl_pair_keeps | apply foldl_triple_keeps)

theorem execHbmRead_keeps (r : Fin 4) (off : BitVec 38) (requester : Byte) (ecc : Ecc) (s : State) (h : Keeps s0 s) : OutKeeps s0 (execHbmRead r off requester ecc s) := by
  unfold execHbmRead
  try dsimp only
  repeat' first | with_reducible (first | exact h | assumption | intro _ | apply out_next | apply ite_keeps | apply ite_out | (apply readLineEcc_keeps; assumption) | apply readLineEcc_keeps_proj)

theorem execHbmWrite_keeps (r : Fin 4) (off : BitVec 38) (mask : W64) (data : BitVec 512) (errs : List ReadErr) (s : State) (h : Keeps s0 s) : OutKeeps s0 (execHbmWrite r off mask data errs s) := by
  unfold execHbmWrite
  try dsimp only
  repeat' first | with_reducible (first | exact h | assumption | intro _ | apply out_next | apply ite_keeps | apply ite_out | apply meeting_keeps | apply writeLine_keeps)

theorem execPatrolScrub_keeps (ch : Fin 256) (ecc : Ecc) (_writtenSince : Bool) (s : State) (h : Keeps s0 s) : OutKeeps s0 (execPatrolScrub ch ecc _writtenSince s) := by
  unfold execPatrolScrub
  try dsimp only
  repeat' first | with_reducible (first | exact h | assumption | intro _ | apply out_next | apply ite_keeps | apply ite_out | apply record_keeps | apply State.modHbm_keeps | apply countRow_keeps) | split

theorem execHbmRefresh_keeps (ch : Fin 256) (s : State) (h : Keeps s0 s) : OutKeeps s0 (execHbmRefresh ch s) := by
  unfold execHbmRefresh
  try dsimp only
  repeat' first | with_reducible (first | exact h | assumption | intro _ | apply out_next | apply ite_keeps | apply ite_out | apply State.modHbm_keeps)

theorem execChannelTrainingLost_keeps (ch : Fin 256) (s : State) (h : Keeps s0 s) : OutKeeps s0 (execChannelTrainingLost ch s) := by
  unfold execChannelTrainingLost
  try dsimp only
  repeat' first | with_reducible (first | exact h | assumption | intro _ | apply out_next | apply ite_keeps | apply ite_out | apply State.modHbm_keeps)

theorem execChannelRetrainTimeout_keeps (ch : Fin 256) (s : State) (h : Keeps s0 s) : OutKeeps s0 (execChannelRetrainTimeout ch s) := by
  unfold execChannelRetrainTimeout
  try dsimp only
  repeat' first | with_reducible (first | exact h | assumption | intro _ | apply out_next | apply ite_keeps | apply ite_out | apply failChannel_keeps)

theorem repairLine_keeps (unread : Bool) (line : Nat) (s : State) (h : Keeps s0 s) : Keeps s0 (repairLine unread line s) := by
  unfold repairLine
  try dsimp only
  repeat' first | with_reducible (first | exact h | assumption | intro _ | apply ite_keeps | apply record_keeps | apply State.modHbm_keeps | apply dramStore_keeps | apply poisonLine_keeps)

theorem execPostPackageRepair_keeps (ch : Fin 256) (lines unread : List Nat) (rowLeft : Bool) (s : State) (h : Keeps s0 s) : OutKeeps s0 (execPostPackageRepair ch lines unread rowLeft s) := by
  unfold execPostPackageRepair
  try dsimp only
  repeat' first | with_reducible (first | exact h | assumption | intro _ | apply out_next | apply ite_keeps | apply ite_out | apply raiseEvent_keeps | apply record_keeps | apply State.modHbm_keeps | apply repairLine_keeps | apply foldl_keeps | apply foldl_pair_keeps | apply foldl_triple_keeps)

end Sys2Proof.Machine
end

