-- ==== Sys2Proof/Laws/KeepsBundle.lean ====
section
/-! SUPPORT. What the operations of Bundle keep: the queue, OTP and fuses, and the canonical form of host memory. -/

namespace Sys2Proof.Machine

open Sys2Proof

variable {s0 : State}

set_option linter.unreachableTactic false
set_option linter.unusedTactic false

theorem beginTask_keeps (p b : Nat) (ts : List (Nat × Nat)) (s : State) (h : Keeps s0 s) : Keeps s0 (beginTask p b ts s) := by
  unfold beginTask
  try dsimp only
  repeat' first | with_reducible (first | exact h | assumption | intro _ | apply ite_keeps | apply State.modBlk_keeps | apply haltBlock_keeps) | split

theorem nextBundle_keeps (p b : Nat) (s : State) (h : Keeps s0 s) : Keeps s0 (nextBundle p b s) := by
  unfold nextBundle
  try dsimp only
  repeat' first | with_reducible (first | exact h | assumption | intro _ | apply ite_keeps | apply State.modBlk_keeps | apply haltBlock_keeps | apply beginTask_keeps) | split

theorem passBundle_keeps (p b : Nat) (s : State) (h : Keeps s0 s) : Keeps s0 (passBundle p b s) := by
  unfold passBundle
  try dsimp only
  repeat' first | with_reducible (first | exact h | assumption | intro _ | apply ite_keeps | apply nextBundle_keeps)

theorem meetSp_keeps (p : Nat) (e : HwErr) (stop : Block → Block) (s : State) (h : Keeps s0 s) : SlotKeeps s0 (meetSp p e stop s) := by
  unfold meetSp
  try dsimp only
  repeat' first | with_reducible (first | exact h | assumption | intro _ | apply slot_issued | apply slot_stopped | apply record_keeps | apply State.modBlk_keeps | apply haltBlock_keeps) | (apply slot_of_issued; assumption) | (apply slot_of_stopped; assumption) | split

theorem meetError_keeps (p : Nat) (e : HwErr) (s : State) (h : Keeps s0 s) : SlotKeeps s0 (meetError p e s) := by
  unfold meetError
  try dsimp only
  repeat' first | with_reducible (first | exact h | assumption | intro _ | apply slot_issued | apply slot_stopped | apply ite_keeps | apply ite_slot | apply record_keeps | apply haltBlock_keeps | apply meetSp_keeps) | (apply slot_of_issued; assumption) | (apply slot_of_stopped; assumption) | split

theorem doPost_keeps (p w : Nat) (s : State) (h : Keeps s0 s) : SlotKeeps s0 (doPost p w s) := by
  unfold doPost
  try dsimp only
  repeat' first | with_reducible (first | exact h | assumption | intro _ | apply slot_issued | apply slot_stopped | apply postCtr_keeps) | (apply slot_of_issued; assumption) | (apply slot_of_stopped; assumption)

theorem doSet_keeps (p w : Nat) (s : State) (h : Keeps s0 s) : SlotKeeps s0 (doSet p w s) := by
  unfold doSet
  try dsimp only
  repeat' first | with_reducible (first | exact h | assumption | intro _ | apply slot_issued | apply slot_stopped | apply State.modBlk_keeps) | (apply slot_of_issued; assumption) | (apply slot_of_stopped; assumption)

theorem doLoop_keeps (p w : Nat) (s : State) (h : Keeps s0 s) : SlotKeeps s0 (doLoop p w s) := by
  unfold doLoop
  try dsimp only
  repeat' first | with_reducible (first | exact h | assumption | intro _ | apply slot_issued | apply slot_stopped | apply ite_keeps | apply ite_slot | apply State.modBlk_keeps | apply haltBlock_keeps) | (apply slot_of_issued; assumption) | (apply slot_of_stopped; assumption) | split

theorem doAllocEntry_keeps (p : Nat) (v : W32) (s : State) (h : Keeps s0 s) : SlotKeeps s0 (doAllocEntry p v s) := by
  unfold doAllocEntry
  try dsimp only
  repeat' first | with_reducible (first | exact h | assumption | intro _ | apply slot_issued | apply slot_stopped | apply ite_keeps | apply ite_slot | apply State.modBlk_keeps | apply haltBlock_keeps) | (apply slot_of_issued; assumption) | (apply slot_of_stopped; assumption) | split

theorem doEntries_keeps (p : Nat) (es : List W32) (n : Nat) (s : State) (h : Keeps s0 s) : SlotKeeps s0 (doEntries p es n s) := by
  induction n generalizing s with
  | zero => exact h
  | succ n ih =>
    unfold doEntries
    split
    · exact haltBlock_keeps p 0x209 0 0 s h
    · split
      · exact slot_of_stopped (by assumption) (doAllocEntry_keeps p _ s h)
      · exact ih _ (State.modBlk_keeps p _ _ (slot_of_issued (by assumption) (doAllocEntry_keeps p _ s h)))

theorem doAseq_keeps (b p w : Nat) (s : State) (h : Keeps s0 s) : SlotKeeps s0 (doAseq b p w s) := by
  unfold doAseq
  try dsimp only
  repeat' first | with_reducible (first | exact h | assumption | intro _ | apply slot_issued | apply slot_stopped | apply ite_keeps | apply ite_slot | apply haltBlock_keeps | apply doEntries_keeps) | (apply slot_of_issued; assumption) | (apply slot_of_stopped; assumption)

theorem doRelease_keeps (p w : Nat) (s : State) (h : Keeps s0 s) : SlotKeeps s0 (doRelease p w s) := by
  unfold doRelease
  try dsimp only
  repeat' first | with_reducible (first | exact h | assumption | intro _ | apply slot_issued | apply slot_stopped | apply ite_keeps | apply ite_slot | apply State.modBlk_keeps | apply haltBlock_keeps) | (apply slot_of_issued; assumption) | (apply slot_of_stopped; assumption) | split

theorem doDload_keeps (b p w : Nat) (s : State) (h : Keeps s0 s) : SlotKeeps s0 (doDload b p w s) := by
  unfold doDload
  try dsimp only
  repeat' first | with_reducible (first | exact h | assumption | intro _ | apply slot_issued | apply slot_stopped | apply ite_keeps | apply ite_slot | apply State.modBlk_keeps | apply haltBlock_keeps) | (apply slot_of_issued; assumption) | (apply slot_of_stopped; assumption) | split

theorem doSetbase_keeps (p w : Nat) (s : State) (h : Keeps s0 s) : SlotKeeps s0 (doSetbase p w s) := by
  unfold doSetbase
  try dsimp only
  repeat' first | with_reducible (first | exact h | assumption | intro _ | apply slot_issued | apply slot_stopped | apply ite_keeps | apply ite_slot | apply State.modBlk_keeps | apply haltBlock_keeps) | (apply slot_of_issued; assumption) | (apply slot_of_stopped; assumption)

theorem doScalar_keeps (p w : Nat) (s : State) (h : Keeps s0 s) : SlotKeeps s0 (doScalar p w s) := by
  unfold doScalar
  try dsimp only
  repeat' first | with_reducible (first | exact h | assumption | intro _ | apply slot_issued | apply slot_stopped | apply ite_keeps | apply ite_slot | apply State.modBlk_keeps | apply haltBlock_keeps) | (apply slot_of_issued; assumption) | (apply slot_of_stopped; assumption) | split

theorem doStation_keeps (b p w : Nat) (s : State) (h : Keeps s0 s) : SlotKeeps s0 (doStation b p w s) := by
  unfold doStation
  try dsimp only
  repeat' first | with_reducible (first | exact h | assumption | intro _ | apply slot_issued | apply slot_stopped | apply ite_keeps | apply ite_slot | apply State.modJob_keeps | apply haltBlock_keeps) | (apply slot_of_issued; assumption) | (apply slot_of_stopped; assumption) | split

end Sys2Proof.Machine
end

