-- ==== Sys2Proof/Laws/KeepsVectorIssue.lean ====
section
/-! SUPPORT. What the operations of VectorIssue keep: the queue, OTP and fuses, and the canonical form of host memory. -/

namespace Sys2Proof.Machine

open Sys2Proof

variable {s0 : State}

set_option linter.unreachableTactic false
set_option linter.unusedTactic false

theorem takeVec_keeps (p w : Nat) (raw : List Byte) (s : State) (h : Keeps s0 s) : Keeps s0 (takeVec p w raw s) := by
  unfold takeVec
  try dsimp only
  repeat' first | with_reducible (first | exact h | assumption | intro _ | apply State.modBlk_keeps)

theorem vecFault_keeps (p code desc off : Nat) (s : State) (h : Keeps s0 s) : SlotKeeps s0 (vecFault p code desc off s) := by
  unfold vecFault
  try dsimp only
  repeat' first | with_reducible (first | exact h | assumption | intro _ | apply slot_issued | apply slot_stopped | apply State.modBlk_keeps | apply haltBlock_keeps) | (apply slot_of_issued; assumption) | (apply slot_of_stopped; assumption)

theorem vecMove_keeps (p n : Nat) (o : VecOp) (os : List VecOp) (s : State) (h : Keeps s0 s) : SlotKeeps s0 (vecMove p n o os s) := by
  unfold vecMove
  try dsimp only
  repeat' first | with_reducible (first | exact h | assumption | intro _ | apply slot_issued | apply slot_stopped | apply ite_keeps | apply ite_slot | apply State.modBlk_keeps | apply vecFault_keeps) | (apply slot_of_issued; assumption) | (apply slot_of_stopped; assumption) | split

theorem vecDone_keeps (p : Nat) (s : State) (h : Keeps s0 s) : Keeps s0 (vecDone p s) := by
  unfold vecDone
  try dsimp only
  repeat' first | with_reducible (first | exact h | assumption | intro _ | apply State.modBlk_keeps | apply postCtr_keeps) | split

theorem execVectorPost_keeps (b : Fin 256) (upto : EngineMoment) (e : HwErr) (s : State) (h : Keeps s0 s) : OutKeeps s0 (execVectorPost b upto e s) := by
  unfold execVectorPost
  try dsimp only
  repeat' first | with_reducible (first | exact h | assumption | intro _ | apply out_next | apply slot_issued | apply slot_stopped | apply ite_keeps | apply ite_out | apply ite_slot | apply meetSp_keeps | apply vecMove_keeps | apply vecDone_keeps) | (apply slot_of_issued; assumption) | (apply slot_of_stopped; assumption) | split

end Sys2Proof.Machine
end

