-- ==== Sys2Proof/Laws/KeepsArrayIssue.lean ====
section
/-! SUPPORT. What the operations of ArrayIssue keep: the queue, OTP and fuses, and the canonical form of host memory. -/

namespace Sys2Proof.Machine

open Sys2Proof

variable {s0 : State}

set_option linter.unreachableTactic false
set_option linter.unusedTactic false

theorem columnFails_keeps (p c : Nat) (s : State) (h : Keeps s0 s) : Keeps s0 (columnFails p c s) := by
  unfold columnFails
  try dsimp only
  repeat' first | with_reducible (first | exact h | assumption | intro _ | apply ite_keeps | apply State.modFlt_keeps | apply State.modJob_keeps | apply record_keeps | apply spareExhausted_keeps | apply recordFatal_keeps | apply failBlock_keeps)

theorem takeArr_keeps (p w : Nat) (tiles : List (List Byte)) (s : State) (h : Keeps s0 s) : Keeps s0 (takeArr p w tiles s) := by
  unfold takeArr
  try dsimp only
  repeat' first | with_reducible (first | exact h | assumption | intro _ | apply State.modBlk_keeps) | split

theorem partFaults_keeps (p : Nat) (a : ArrSlot) (x : ArrPart) (f : Nat × Nat × List Nat) (s : State) (h : Keeps s0 s) : Keeps s0 (partFaults p a x f s) := by
  unfold partFaults
  try dsimp only
  repeat' first | with_reducible (first | exact h | assumption | intro _ | apply record_keeps | apply columnFails_keeps | apply foldl_keeps | apply foldl_pair_keeps | apply foldl_triple_keeps)

theorem drainPart_keeps (p : Nat) (a : ArrSlot) (x : ArrPart) (e : HwErr) (s : State) {y0 y1} {s1 : State} (he : (drainPart p a x e s) = (y0, y1, s1)) (h : Keeps s0 s) : Keeps s0 s1 := by
  unfold drainPart at he
  try dsimp only at he
  repeat' split at he
  all_goals first | (cases he; repeat' first | with_reducible (first | exact h | assumption | intro _ | apply ite_keeps | exact out_fault _ | apply State.modBlk_keeps) | split)

theorem drainPart_keeps_proj (p : Nat) (a : ArrSlot) (x : ArrPart) (e : HwErr) (s : State) (h : Keeps s0 s) : Keeps s0 (drainPart p a x e s).2.2 := by
  generalize he : (drainPart p a x e s) = p
  obtain ⟨_, _, _⟩ := p
  exact drainPart_keeps p a x e s he h

theorem setPart_keeps (p i : Nat) (x : ArrPart) (s : State) (h : Keeps s0 s) : Keeps s0 (setPart p i x s) := by
  unfold setPart
  try dsimp only
  repeat' first | with_reducible (first | exact h | assumption | intro _ | apply ite_keeps | apply State.modBlk_keeps)

theorem feedStep_keeps (p i g1 : Nat) (a : ArrSlot) (x : ArrPart) (e : HwErr) (s : State) {y0} {s1 : State} (he : (feedStep p i g1 a x e s) = (y0, s1)) (h : Keeps s0 s) : Keeps s0 s1 := by
  unfold feedStep at he
  try dsimp only at he
  repeat' split at he
  all_goals first | (cases he; repeat' first | with_reducible (first | exact h | assumption | intro _ | apply ite_keeps | apply record_keeps | apply State.modBlk_keeps | apply partFaults_keeps | apply setPart_keeps) | split)

theorem feedStep_keeps_proj (p i g1 : Nat) (a : ArrSlot) (x : ArrPart) (e : HwErr) (s : State) (h : Keeps s0 s) : Keeps s0 (feedStep p i g1 a x e s).2 := by
  generalize he : (feedStep p i g1 a x e s) = p
  obtain ⟨_, _⟩ := p
  exact feedStep_keeps p i g1 a x e s he h

theorem drainStep_keeps (p i : Nat) (a : ArrSlot) (x : ArrPart) (e : HwErr) (s : State) {y0} {s1 : State} (he : (drainStep p i a x e s) = (y0, s1)) (h : Keeps s0 s) : Keeps s0 s1 := by
  unfold drainStep at he
  try dsimp only at he
  repeat' split at he
  all_goals first | (with_reducible apply drainPart_keeps <;> assumption) | (cases he; repeat' first | with_reducible (first | exact h | assumption | intro _ | apply ite_keeps | apply partFaults_keeps | (apply drainPart_keeps; assumption) | apply drainPart_keeps_proj | apply setPart_keeps) | split)

theorem drainStep_keeps_proj (p i : Nat) (a : ArrSlot) (x : ArrPart) (e : HwErr) (s : State) (h : Keeps s0 s) : Keeps s0 (drainStep p i a x e s).2 := by
  generalize he : (drainStep p i a x e s) = p
  obtain ⟨_, _⟩ := p
  exact drainStep_keeps p i a x e s he h

theorem execPartPost_keeps (b : Fin 256) (part : Fin 4) (upto : PartMoment) (e : HwErr) (s : State) (h : Keeps s0 s) : OutKeeps s0 (execPartPost b part upto e s) := by
  unfold execPartPost
  try dsimp only
  repeat' first | with_reducible (first | exact h | assumption | intro _ | apply out_next | apply ite_keeps | apply ite_out | apply State.modBlk_keeps | apply postCtr_keeps | (apply feedStep_keeps; assumption) | apply feedStep_keeps_proj | (apply drainStep_keeps; assumption) | apply drainStep_keeps_proj) | split

end Sys2Proof.Machine
end

