-- ==== Sys2Proof/Laws/KeepsRings.lean ====
section
/-! SUPPORT. What the operations of Rings keep: the queue, OTP and fuses, and the canonical form of host memory. -/

namespace Sys2Proof.Machine

open Sys2Proof

variable {s0 : State}

set_option linter.unreachableTactic false
set_option linter.unusedTactic false

theorem flushRing_keeps (j : Nat) (s : State) (h : Keeps s0 s) : Keeps s0 (flushRing j s) := by
  unfold flushRing
  try dsimp only
  repeat' first | with_reducible (first | exact h | assumption | intro _ | apply ite_keeps | (apply flushCpl_keeps; assumption) | apply flushCpl_keeps_proj)

theorem flushRings_keeps (s : State) (h : Keeps s0 s) : Keeps s0 (flushRings s) := by
  unfold flushRings
  try dsimp only
  repeat' first | with_reducible (first | exact h | assumption | intro _ | apply flushRing_keeps | apply foldl_keeps | apply foldl_pair_keeps | apply foldl_triple_keeps)

theorem resume_keeps (s : State) (h : Keeps s0 s) : Keeps s0 (resume s) := by
  unfold resume
  try dsimp only
  repeat' first | with_reducible (first | exact h | assumption | intro _ | apply ite_keeps | apply State.modHost_keeps | apply releaseHeld_keeps | apply flushRings_keeps)

theorem flushEvents_keeps (s : State) (h : Keeps s0 s) : Keeps s0 (flushEvents s) := by
  unfold flushEvents
  try dsimp only
  repeat' first | with_reducible (first | exact h | assumption | intro _ | apply flushEvt_keeps | apply resume_keeps)

theorem ringCmdPi_keeps (i value : Nat) (s : State) (h : Keeps s0 s) : Keeps s0 (ringCmdPi i value s) := by
  unfold ringCmdPi
  try dsimp only
  repeat' first | with_reducible (first | exact h | assumption | intro _ | apply ite_keeps | apply State.modHost_keeps | apply ringError_keeps)

theorem ringCplCi_keeps (j value : Nat) (s : State) (h : Keeps s0 s) : Keeps s0 (ringCplCi j value s) := by
  unfold ringCplCi
  try dsimp only
  repeat' first | with_reducible (first | exact h | assumption | intro _ | apply out_next | apply ite_keeps | apply ite_out | apply setCplRing_keeps | apply flushRing_keeps)

theorem ringEvtCi_keeps (value : Nat) (s : State) (h : Keeps s0 s) : Keeps s0 (ringEvtCi value s) := by
  unfold ringEvtCi
  try dsimp only
  repeat' first | with_reducible (first | exact h | assumption | intro _ | apply out_next | apply ite_keeps | apply ite_out | apply setEvtRing_keeps | apply flushEvents_keeps)

theorem ringBell_keeps (d : Doorbell) (value : Nat) (s : State) (h : Keeps s0 s) : Keeps s0 (ringBell d value s) := by
  unfold ringBell
  try dsimp only
  repeat' first | with_reducible (first | exact h | assumption | intro _ | apply ringCmdPi_keeps | apply ringCplCi_keeps | apply ringEvtCi_keeps) | split

theorem bar2Write_keeps (off value : Nat) (s : State) (h : Keeps s0 s) : Keeps s0 (bar2Write off value s) := by
  unfold bar2Write
  try dsimp only
  repeat' first | with_reducible (first | exact h | assumption | intro _ | apply ite_keeps | apply ringBell_keeps) | split

theorem execCmdPi_keeps (ring : Fin 64) (value : W32) (s : State) (h : Keeps s0 s) : OutKeeps s0 (execCmdPi ring value s) := by
  unfold execCmdPi
  try dsimp only
  repeat' first | with_reducible (first | exact h | assumption | intro _ | apply out_next | apply bar2Write_keeps)

theorem execCplCi_keeps (ring : Fin 64) (value : W32) (s : State) (h : Keeps s0 s) : OutKeeps s0 (execCplCi ring value s) := by
  unfold execCplCi
  try dsimp only
  repeat' first | with_reducible (first | exact h | assumption | intro _ | apply out_next | apply bar2Write_keeps)

theorem execEvtCi_keeps (value : W32) (s : State) (h : Keeps s0 s) : OutKeeps s0 (execEvtCi value s) := by
  unfold execEvtCi
  try dsimp only
  repeat' first | with_reducible (first | exact h | assumption | intro _ | apply out_next | apply bar2Write_keeps)

theorem writeCmdCfg_keeps (i v : Nat) (s : State) (h : Keeps s0 s) : Keeps s0 (writeCmdCfg i v s) := by
  unfold writeCmdCfg
  try dsimp only
  repeat' first | with_reducible (first | exact h | assumption | intro _ | apply ite_keeps | apply State.modHost_keeps | apply ringError_keeps) | split

theorem loseCompletions_keeps (j : Nat) (s : State) (h : Keeps s0 s) : Keeps s0 (loseCompletions j s) := by
  unfold loseCompletions
  try dsimp only
  repeat' first | with_reducible (first | exact h | assumption | intro _ | apply ite_keeps | apply State.modHost_keeps)

theorem writeCplCfg_keeps (j v : Nat) (s : State) (h : Keeps s0 s) : Keeps s0 (writeCplCfg j v s) := by
  unfold writeCplCfg
  try dsimp only
  repeat' first | with_reducible (first | exact h | assumption | intro _ | apply out_next | apply ite_keeps | apply ite_out | apply setCplRing_keeps | apply ringError_keeps | apply flushRing_keeps | apply loseCompletions_keeps) | split

theorem writeEvtCfg_keeps (v : Nat) (s : State) (h : Keeps s0 s) : Keeps s0 (writeEvtCfg v s) := by
  unfold writeEvtCfg
  try dsimp only
  repeat' first | with_reducible (first | exact h | assumption | intro _ | apply out_next | apply ite_keeps | apply ite_out | apply State.modHost_keeps | apply setEvtRing_keeps | apply ringError_keeps | apply resume_keeps | apply flushEvents_keeps) | split

theorem writeFmCfg_keeps (v : Nat) (s : State) (h : Keeps s0 s) : Keeps s0 (writeFmCfg v s) := by
  unfold writeFmCfg
  try dsimp only
  repeat' first | with_reducible (first | exact h | assumption | intro _ | apply ite_keeps | apply State.modHost_keeps)

theorem execCmdRingEnable_keeps (ring : Fin 64) (value : W32) (s : State) (h : Keeps s0 s) : OutKeeps s0 (execCmdRingEnable ring value s) := by
  unfold execCmdRingEnable
  try dsimp only
  repeat' first | with_reducible (first | exact h | assumption | intro _ | apply out_next | apply ite_keeps | apply ite_out | apply writeCmdCfg_keeps)

theorem execCmdRingDisable_keeps (ring : Fin 64) (value : W32) (s : State) (h : Keeps s0 s) : OutKeeps s0 (execCmdRingDisable ring value s) := by
  unfold execCmdRingDisable
  try dsimp only
  repeat' first | with_reducible (first | exact h | assumption | intro _ | apply out_next | apply ite_keeps | apply ite_out | apply writeCmdCfg_keeps)

theorem execCplRingEnable_keeps (ring : Fin 64) (value : W32) (s : State) (h : Keeps s0 s) : OutKeeps s0 (execCplRingEnable ring value s) := by
  unfold execCplRingEnable
  try dsimp only
  repeat' first | with_reducible (first | exact h | assumption | intro _ | apply out_next | apply ite_keeps | apply ite_out | apply writeCplCfg_keeps)

theorem execCplRingDisable_keeps (ring : Fin 64) (value : W32) (s : State) (h : Keeps s0 s) : OutKeeps s0 (execCplRingDisable ring value s) := by
  unfold execCplRingDisable
  try dsimp only
  repeat' first | with_reducible (first | exact h | assumption | intro _ | apply out_next | apply ite_keeps | apply ite_out | apply writeCplCfg_keeps)

theorem execEvtRingEnable_keeps (value : W32) (s : State) (h : Keeps s0 s) : OutKeeps s0 (execEvtRingEnable value s) := by
  unfold execEvtRingEnable
  try dsimp only
  repeat' first | with_reducible (first | exact h | assumption | intro _ | apply out_next | apply ite_keeps | apply ite_out | apply writeEvtCfg_keeps)

theorem execFmBufEnable_keeps (value : W32) (s : State) (h : Keeps s0 s) : OutKeeps s0 (execFmBufEnable value s) := by
  unfold execFmBufEnable
  try dsimp only
  repeat' first | with_reducible (first | exact h | assumption | intro _ | apply out_next | apply ite_keeps | apply ite_out | apply writeFmCfg_keeps)

theorem execInterruptTimer_keeps (ring : Option (Fin 64)) (s : State) (h : Keeps s0 s) : OutKeeps s0 (execInterruptTimer ring s) := by
  unfold execInterruptTimer
  try dsimp only
  repeat' first | with_reducible (first | exact h | assumption | intro _ | apply out_next | apply ite_keeps | apply ite_out | apply raiseVector_keeps | apply setCplRing_keeps | apply setEvtRing_keeps) | split

theorem linkLost_keeps (s : State) (h : Keeps s0 s) : Keeps s0 (linkLost s) := by
  unfold linkLost
  try dsimp only
  repeat' first | with_reducible (first | exact h | assumption | intro _ | apply ite_keeps | apply State.modHost_keeps)

theorem execPcieLinkDown_keeps (s : State) (h : Keeps s0 s) : OutKeeps s0 (execPcieLinkDown s) := by
  unfold execPcieLinkDown
  try dsimp only
  repeat' first | with_reducible (first | exact h | assumption | intro _ | apply out_next | apply ite_keeps | apply ite_out | apply linkLost_keeps)

theorem enterD3_keeps (s : State) (h : Keeps s0 s) : Keeps s0 (enterD3 s) := by
  unfold enterD3
  try dsimp only
  repeat' first | with_reducible (first | exact h | assumption | intro _ | apply State.modHost_keeps)

theorem enterD0_keeps (s : State) (h : Keeps s0 s) : Keeps s0 (enterD0 s) := by
  unfold enterD0
  try dsimp only
  repeat' first | with_reducible (first | exact h | assumption | intro _ | apply State.modHost_keeps | apply flushEvents_keeps)

theorem execPcieLinkUp_keeps (lanes : Fin 4) (speed : Fin 7) (d3hot : Bool) (s : State) (h : Keeps s0 s) : OutKeeps s0 (execPcieLinkUp lanes speed d3hot s) := by
  unfold execPcieLinkUp
  try dsimp only
  repeat' first | with_reducible (first | exact h | assumption | intro _ | apply out_next | apply ite_keeps | apply ite_out | apply State.modHost_keeps | apply enterD3_keeps | apply enterD0_keeps)

end Sys2Proof.Machine
end

