-- ==== Sys2Proof/Laws/KeepsDma.lean ====
section
/-! SUPPORT. What the operations of Dma keep: the queue, OTP and fuses, and the canonical form of host memory. -/

namespace Sys2Proof.Machine

open Sys2Proof

variable {s0 : State}

set_option linter.unreachableTactic false
set_option linter.unusedTactic false

theorem digestTerm_keeps (r type addr mask : Nat) (data : List Byte) (s : State) (h : Keeps s0 s) : Keeps s0 (digestTerm r type addr mask data s) := by
  unfold digestTerm
  try dsimp only
  repeat' first | with_reducible (first | exact h | assumption | intro _ | apply State.modJob_keeps)

theorem digestLines_keeps (r off : Nat) (bs : List Byte) (s : State) (h : Keeps s0 s) : Keeps s0 (digestLines r off bs s) := by
  unfold digestLines
  try dsimp only
  repeat' first | with_reducible (first | exact h | assumption | intro _ | apply digestTerm_keeps | apply foldl_keeps | apply foldl_pair_keeps | apply foldl_triple_keeps)

theorem dmaFault_keeps (p code desc off : Nat) (s : State) (h : Keeps s0 s) : SlotKeeps s0 (dmaFault p code desc off s) := by
  unfold dmaFault
  try dsimp only
  repeat' first | with_reducible (first | exact h | assumption | intro _ | apply slot_issued | apply slot_stopped | apply State.modBlk_keeps | apply haltBlock_keeps) | (apply slot_of_issued; assumption) | (apply slot_of_stopped; assumption)

theorem cutOffRecord_keeps (p : Nat) (s : State) (h : Keeps s0 s) : Keeps s0 (cutOffRecord p s) := by
  unfold cutOffRecord
  try dsimp only
  repeat' first | with_reducible (first | exact h | assumption | intro _ | apply record_keeps)

theorem takeDma_keeps (p desc post : Nat) (raw : List Byte) (s : State) (h : Keeps s0 s) : SlotKeeps s0 (takeDma p desc post raw s) := by
  unfold takeDma
  try dsimp only
  repeat' first | with_reducible (first | exact h | assumption | intro _ | apply slot_issued | apply slot_stopped | apply ite_keeps | apply ite_slot | apply State.modBlks_keeps | apply State.modBlk_keeps | apply dmaFault_keeps) | (apply slot_of_issued; assumption) | (apply slot_of_stopped; assumption) | split

theorem modDma_keeps (p id : Nat) (f : DmaOp → DmaOp) (s : State) (h : Keeps s0 s) : Keeps s0 (modDma p id f s) := by
  unfold modDma
  try dsimp only
  repeat' first | with_reducible (first | exact h | assumption | intro _ | apply ite_keeps | apply State.modBlk_keeps)

theorem dmaBytes_keeps (b p m : Nat) (o : DmaOp) (s : State) (h : Keeps s0 s) : Keeps s0 (dmaBytes b p m o s) := by
  unfold dmaBytes
  try dsimp only
  repeat' first | with_reducible (first | exact h | assumption | intro _ | apply ite_keeps | apply State.modBlk_keeps | apply writeBytes_keeps | (apply readBytes_keeps; assumption) | apply readBytes_keeps_proj | apply digestLines_keeps | apply cutOffRecord_keeps | apply modDma_keeps) | split

theorem dmaMove_keeps (b p n : Nat) (o : DmaOp) (s : State) (h : Keeps s0 s) : SlotKeeps s0 (dmaMove b p n o s) := by
  unfold dmaMove
  try dsimp only
  repeat' first | with_reducible (first | exact h | assumption | intro _ | apply slot_issued | apply slot_stopped | apply ite_keeps | apply ite_slot | apply dmaFault_keeps | apply modDma_keeps | apply dmaBytes_keeps) | (apply slot_of_issued; assumption) | (apply slot_of_stopped; assumption) | split

theorem finishDma_keeps (p id : Nat) (s : State) (h : Keeps s0 s) : Keeps s0 (finishDma p id s) := by
  unfold finishDma
  try dsimp only
  repeat' first | with_reducible (first | exact h | assumption | intro _ | apply State.modBlk_keeps | apply postCtr_keeps) | split

theorem dmaStep_keeps (b p : Nat) (upto : EngineMoment) (o : DmaOp) (s : State) (h : Keeps s0 s) : Keeps s0 (dmaStep b p upto o s) := by
  unfold dmaStep
  try dsimp only
  repeat' first | with_reducible (first | exact h | assumption | intro _ | apply slot_issued | apply slot_stopped | apply dmaMove_keeps | apply finishDma_keeps) | (apply slot_of_issued; assumption) | (apply slot_of_stopped; assumption) | split

theorem execDmaPost_keeps (b : Fin 256) (id : Nat) (upto : EngineMoment) (e : HwErr) (s : State) (h : Keeps s0 s) : OutKeeps s0 (execDmaPost b id upto e s) := by
  unfold execDmaPost
  try dsimp only
  repeat' first | with_reducible (first | exact h | assumption | intro _ | apply out_next | apply slot_issued | apply slot_stopped | apply ite_keeps | apply ite_out | apply ite_slot | apply meeting_keeps | apply meetSp_keeps | apply dmaStep_keeps) | (apply slot_of_issued; assumption) | (apply slot_of_stopped; assumption) | split

end Sys2Proof.Machine
end

