-- ==== Sys2Proof/Laws/KeepsWindows.lean ====
section
/-! SUPPORT. What the operations of Windows keep: the queue, OTP and fuses, and the canonical form of host memory. -/

namespace Sys2Proof.Machine

open Sys2Proof

variable {s0 : State}

set_option linter.unreachableTactic false
set_option linter.unusedTactic false

theorem rmtCount_keeps (k : Nat) (s : State) (h : Keeps s0 s) : Keeps s0 (rmtCount k s) := by
  unfold rmtCount
  try dsimp only
  repeat' first | with_reducible (first | exact h | assumption | intro _ | apply State.modRmt_keeps)

theorem cacheFill_keeps (r line : Nat) (data : List Byte) (s : State) (h : Keeps s0 s) : Keeps s0 (cacheFill r line data s) := by
  unfold cacheFill
  try dsimp only
  repeat' first | with_reducible (first | exact h | assumption | intro _ | apply ite_keeps | apply State.modRmt_keeps)

theorem cacheLose_keeps (r line : Nat) (s : State) (h : Keeps s0 s) : Keeps s0 (cacheLose r line s) := by
  unfold cacheLose
  try dsimp only
  repeat' first | with_reducible (first | exact h | assumption | intro _ | apply State.modRmt_keeps)

theorem cacheRead_keeps (r line : Nat) (s : State) {y0} {s1 : State} (he : (cacheRead r line s) = (y0, s1)) (h : Keeps s0 s) : Keeps s0 s1 := by
  unfold cacheRead at he
  try dsimp only at he
  repeat' split at he
  all_goals first | (cases he; repeat' first | with_reducible (first | exact h | assumption | intro _ | apply ite_keeps | apply record_keeps | apply cacheFill_keeps | apply cacheLose_keeps) | split)

theorem cacheRead_keeps_proj (r line : Nat) (s : State) (h : Keeps s0 s) : Keeps s0 (cacheRead r line s).2 := by
  generalize he : (cacheRead r line s) = p
  obtain ⟨_, _⟩ := p
  exact cacheRead_keeps r line s he h

theorem cacheDrop_keeps (a n : Nat) (s : State) (h : Keeps s0 s) : Keeps s0 (cacheDrop a n s) := by
  unfold cacheDrop
  try dsimp only
  repeat' first | with_reducible (first | exact h | assumption | intro _ | apply State.modRmt_keeps | apply kept_keeps) | split

theorem cacheClear_keeps (s : State) (h : Keeps s0 s) : Keeps s0 (cacheClear s) := by
  unfold cacheClear
  try dsimp only
  repeat' first | with_reducible (first | exact h | assumption | intro _ | apply State.modRmt_keeps)

theorem cacheClearRegion_keeps (r : Nat) (s : State) (h : Keeps s0 s) : Keeps s0 (cacheClearRegion r s) := by
  unfold cacheClearRegion
  try dsimp only
  repeat' first | with_reducible (first | exact h | assumption | intro _ | apply State.modRmt_keeps)

theorem State.modWin_keeps (w : Nat) (f : Window → Window) (s : State) (h : Keeps s0 s) : Keeps s0 (State.modWin w f s) := by
  unfold State.modWin
  try dsimp only
  repeat' first | with_reducible (first | exact h | assumption | intro _ | apply State.modRmt_keeps)

theorem State.modPeg_keeps (p : Nat) (f : Peg → Peg) (s : State) (h : Keeps s0 s) : Keeps s0 (State.modPeg p f s) := by
  unfold State.modPeg
  try dsimp only
  repeat' first | with_reducible (first | exact h | assumption | intro _ | apply State.modRmt_keeps)

theorem sendReply_keeps (r src tag gen seq ch type : Nat) (payload : List Byte) (s : State) (h : Keeps s0 s) : Keeps s0 (sendReply r src tag gen seq ch type payload s) := by
  unfold sendReply
  try dsimp only
  repeat' first | with_reducible (first | exact h | assumption | intro _ | apply ite_keeps | apply originate_keeps)

theorem answerClaim_keeps (c : Claim) (o : Nat) (s : State) (h : Keeps s0 s) : Keeps s0 (answerClaim c o s) := by
  unfold answerClaim
  try dsimp only
  repeat' first | with_reducible (first | exact h | assumption | intro _ | apply sendReply_keeps)

theorem endPeg_keeps (told : Bool) (n : Nat) (s : State) (h : Keeps s0 s) : Keeps s0 (endPeg told n s) := by
  unfold endPeg
  try dsimp only
  repeat' first | with_reducible (first | exact h | assumption | intro _ | apply ite_keeps | apply record_keeps | apply State.modBlk_keeps | apply State.modPeg_keeps)

theorem refuseClaims_keeps (w : Nat) (s : State) (h : Keeps s0 s) : Keeps s0 (refuseClaims w s) := by
  unfold refuseClaims
  try dsimp only
  repeat' first | with_reducible (first | exact h | assumption | intro _ | apply State.modPeg_keeps | apply answerClaim_keeps | apply foldl_keeps | apply foldl_pair_keeps | apply foldl_triple_keeps) | split

theorem shutWindow_keeps (w : Nat) (s : State) (h : Keeps s0 s) : Keeps s0 (shutWindow w s) := by
  unfold shutWindow
  try dsimp only
  repeat' first | with_reducible (first | exact h | assumption | intro _ | apply State.modWin_keeps | apply endPeg_keeps | apply refuseClaims_keeps | apply foldl_keeps | apply foldl_pair_keeps | apply foldl_triple_keeps) | split

theorem closeWindow_keeps (w : Nat) (s : State) (h : Keeps s0 s) : Keeps s0 (closeWindow w s) := by
  unfold closeWindow
  try dsimp only
  repeat' first | with_reducible (first | exact h | assumption | intro _ | apply ite_keeps | apply State.modWin_keeps | apply endPeg_keeps | apply shutWindow_keeps | apply foldl_keeps | apply foldl_pair_keeps | apply foldl_triple_keeps)

theorem settleWindow_keeps (w : Nat) (s : State) (h : Keeps s0 s) : Keeps s0 (settleWindow w s) := by
  unfold settleWindow
  try dsimp only
  repeat' first | with_reducible (first | exact h | assumption | intro _ | apply ite_keeps | apply shutWindow_keeps)

theorem applyEntry_keeps (w : Nat) (e : WinEntry) (s : State) (h : Keeps s0 s) : Keeps s0 (applyEntry w e s) := by
  unfold applyEntry
  try dsimp only
  repeat' first | with_reducible (first | exact h | assumption | intro _ | apply ite_keeps | apply State.modWin_keeps | apply closeWindow_keeps)

theorem resetWindows_keeps (told : Bool) (s : State) (h : Keeps s0 s) : Keeps s0 (resetWindows told s) := by
  unfold resetWindows
  try dsimp only
  repeat' first | with_reducible (first | exact h | assumption | intro _ | apply State.modRmt_keeps | apply endPeg_keeps | apply foldl_keeps | apply foldl_pair_keeps | apply foldl_triple_keeps) | split

theorem execWindowDrainExpire_keeps (w : Fin 1024) (s : State) (h : Keeps s0 s) : OutKeeps s0 (execWindowDrainExpire w s) := by
  unfold execWindowDrainExpire
  try dsimp only
  repeat' first | with_reducible (first | exact h | assumption | intro _ | apply out_next | apply ite_keeps | apply ite_out | apply shutWindow_keeps)

theorem applyMap_keeps (m : List Byte) (s : State) (h : Keeps s0 s) : Keeps s0 (applyMap m s) := by
  unfold applyMap
  try dsimp only
  repeat' first | with_reducible (first | exact h | assumption | intro _ | apply State.modRmt_keeps | apply applyEntry_keeps | apply foldl_keeps | apply foldl_pair_keeps | apply foldl_triple_keeps) | split

theorem grantPeg_keeps (n : Nat) (c : Claim) (s : State) (h : Keeps s0 s) : Keeps s0 (grantPeg n c s) := by
  unfold grantPeg
  try dsimp only
  repeat' first | with_reducible (first | exact h | assumption | intro _ | apply State.modPeg_keeps | apply sendReply_keeps)

theorem doLend_keeps (b p w : Nat) (s : State) (h : Keeps s0 s) : SlotKeeps s0 (doLend b p w s) := by
  unfold doLend
  try dsimp only
  repeat' first | with_reducible (first | exact h | assumption | intro _ | apply slot_issued | apply slot_stopped | apply ite_keeps | apply ite_slot | apply State.modBlk_keeps | apply haltBlock_keeps | apply State.modPeg_keeps | apply grantPeg_keeps) | (apply slot_of_issued; assumption) | (apply slot_of_stopped; assumption) | split

theorem completePeg_keeps (n : Nat) (col : Bool) (s : State) (h : Keeps s0 s) : Keeps s0 (completePeg n col s) := by
  unfold completePeg
  try dsimp only
  repeat' first | with_reducible (first | exact h | assumption | intro _ | apply State.modBlk_keeps | apply postCtr_keeps | apply State.modPeg_keeps | apply settleWindow_keeps)

end Sys2Proof.Machine
end

