-- ==== Sys2Proof/Laws/KeepsRemote.lean ====
section
/-! SUPPORT. What the operations of Remote keep: the queue, OTP and fuses, and the canonical form of host memory. -/

namespace Sys2Proof.Machine

open Sys2Proof

variable {s0 : State}

set_option linter.unreachableTactic false
set_option linter.unusedTactic false

theorem State.modReq_keeps (tag : Nat) (f : Req → Req) (s : State) (h : Keeps s0 s) : Keeps s0 (State.modReq tag f s) := by
  unfold State.modReq
  try dsimp only
  repeat' first | with_reducible (first | exact h | assumption | intro _ | apply State.modRmt_keeps)

theorem State.modOp_keeps (id : Nat) (f : RemOp → RemOp) (s : State) (h : Keeps s0 s) : Keeps s0 (State.modOp id f s) := by
  unfold State.modOp
  try dsimp only
  repeat' first | with_reducible (first | exact h | assumption | intro _ | apply State.modRmt_keeps)

theorem finishReq_keeps (tag outcome : Nat) (data : List (Nat × List Byte)) (s : State) (h : Keeps s0 s) : Keeps s0 (finishReq tag outcome data s) := by
  unfold finishReq
  try dsimp only
  repeat' first | with_reducible (first | exact h | assumption | intro _ | apply ite_keeps | apply State.modRmt_keeps | apply State.modOp_keeps) | split

theorem payloadTerms_keeps (r : Nat) (p : Packet) (s : State) (h : Keeps s0 s) : Keeps s0 (payloadTerms r p s) := by
  unfold payloadTerms
  try dsimp only
  repeat' first | with_reducible (first | exact h | assumption | intro _ | apply ite_keeps | apply digestTerm_keeps | apply foldl_keeps | apply foldl_pair_keeps | apply foldl_triple_keeps) | split

theorem sendReq_keeps (tag : Nat) (s : State) (h : Keeps s0 s) : Keeps s0 (sendReq tag s) := by
  unfold sendReq
  try dsimp only
  repeat' first | with_reducible (first | exact h | assumption | intro _ | apply ite_keeps | apply originate_keeps | apply State.modReq_keeps) | split

theorem countUnderPeg_keeps (key : Nat) (p : Packet) (s : State) (h : Keeps s0 s) : Keeps s0 (countUnderPeg key p s) := by
  unfold countUnderPeg
  try dsimp only
  repeat' first | with_reducible (first | exact h | assumption | intro _ | apply ite_keeps | apply State.modRmt_keeps) | split

theorem issueReq_keeps (o : RemOp) (p : Plan) (tag : Nat) (s : State) (h : Keeps s0 s) : Keeps s0 (issueReq o p tag s) := by
  unfold issueReq
  try dsimp only
  repeat' first | with_reducible (first | exact h | assumption | intro _ | apply ite_keeps | apply State.modRmt_keeps | apply cacheDrop_keeps | apply finishReq_keeps | apply payloadTerms_keeps | apply sendReq_keeps | apply countUnderPeg_keeps)

theorem startTodo_keeps (id n : Nat) (s : State) (h : Keeps s0 s) : Keeps s0 (startTodo id n s) := by
  induction n generalizing s with
  | zero => exact h
  | succ n ih =>
    unfold startTodo
    split
    · exact h
    · split
      · split
        · exact ih _ (issueReq_keeps _ _ _ _ (State.modOp_keeps _ _ _ h))
        · exact h
      · exact h

theorem pumpOps_keeps (s : State) (h : Keeps s0 s) : Keeps s0 (pumpOps s) := by
  unfold pumpOps
  try dsimp only
  repeat' first | with_reducible (first | exact h | assumption | intro _ | apply startTodo_keeps | apply foldl_keeps | apply foldl_pair_keeps | apply foldl_triple_keeps) | split

theorem failWaiting_keeps (key outcome : Nat) (s : State) (h : Keeps s0 s) : Keeps s0 (failWaiting key outcome s) := by
  unfold failWaiting
  try dsimp only
  repeat' first | with_reducible (first | exact h | assumption | intro _ | apply State.modOp_keeps | apply foldl_keeps | apply foldl_pair_keeps | apply foldl_triple_keeps) | split

theorem claimFor_keeps (o : RemOp) (s : State) (h : Keeps s0 s) : Keeps s0 (claimFor o s) := by
  unfold claimFor
  try dsimp only
  repeat' first | with_reducible (first | exact h | assumption | intro _ | apply ite_keeps | apply State.modRmt_keeps | apply sendReq_keeps | apply failWaiting_keeps) | split

theorem pumpClaims_keeps (s : State) (h : Keeps s0 s) : Keeps s0 (pumpClaims s) := by
  unfold pumpClaims
  try dsimp only
  repeat' first | with_reducible (first | exact h | assumption | intro _ | apply ite_keeps | apply claimFor_keeps | apply foldl_keeps | apply foldl_pair_keeps | apply foldl_triple_keeps) | split

theorem gotGrant_keeps (key tag : Nat) (g : Grant) (s : State) (h : Keeps s0 s) : Keeps s0 (gotGrant key tag g s) := by
  unfold gotGrant
  try dsimp only
  repeat' first | with_reducible (first | exact h | assumption | intro _ | apply ite_keeps | apply State.modRmt_keeps | apply State.modOp_keeps | apply pumpOps_keeps | apply foldl_keeps | apply foldl_pair_keeps | apply foldl_triple_keeps) | split

theorem claimFailed_keeps (key tag outcome : Nat) (s : State) (h : Keeps s0 s) : Keeps s0 (claimFailed key tag outcome s) := by
  unfold claimFailed
  try dsimp only
  repeat' first | with_reducible (first | exact h | assumption | intro _ | apply State.modRmt_keeps | apply pumpOps_keeps | apply failWaiting_keeps | apply pumpClaims_keeps)

theorem takeSeq_keeps (dst ch : Nat) (s : State) {y0} {s1 : State} (he : (takeSeq dst ch s) = (y0, s1)) (h : Keeps s0 s) : Keeps s0 s1 := by
  unfold takeSeq at he
  try dsimp only at he
  repeat' split at he
  all_goals first | (cases he; repeat' first | with_reducible (first | exact h | assumption | intro _ | apply State.modRmt_keeps))

theorem takeSeq_keeps_proj (dst ch : Nat) (s : State) (h : Keeps s0 s) : Keeps s0 (takeSeq dst ch s).2 := by
  generalize he : (takeSeq dst ch s) = p
  obtain ⟨_, _⟩ := p
  exact takeSeq_keeps dst ch s he h

theorem numbered_keeps (pkt : Packet) (idx : Nat) (s : State) {y0} {s1 : State} (he : (numbered pkt idx s) = (y0, s1)) (h : Keeps s0 s) : Keeps s0 s1 := by
  unfold numbered at he
  try dsimp only at he
  repeat' split at he
  all_goals first | (with_reducible apply takeSeq_keeps <;> assumption) | (cases he; repeat' first | with_reducible (first | exact h | assumption | intro _ | apply State.modRmt_keeps | (apply takeSeq_keeps; assumption) | apply takeSeq_keeps_proj) | split)

theorem numbered_keeps_proj (pkt : Packet) (idx : Nat) (s : State) (h : Keeps s0 s) : Keeps s0 (numbered pkt idx s).2 := by
  generalize he : (numbered pkt idx s) = p
  obtain ⟨_, _⟩ := p
  exact numbered_keeps pkt idx s he h

theorem numberAll_keeps (pkts : List Packet) (s : State) {y0} {s1 : State} (he : (numberAll pkts s) = (y0, s1)) (h : Keeps s0 s) : Keeps s0 s1 := by
  have e2 : (numberAll pkts s).2 = s1 := by rw [he]
  rw [← e2]
  unfold numberAll
  refine foldl_pair_keeps h ?_
  intro u x hu
  exact numbered_keeps_proj x.1 x.2 u.2 hu

theorem numberAll_keeps_proj (pkts : List Packet) (s : State) (h : Keeps s0 s) : Keeps s0 (numberAll pkts s).2 := by
  generalize he : (numberAll pkts s) = p
  obtain ⟨_, _⟩ := p
  exact numberAll_keeps pkts s he h

theorem markSent_keeps (block dst : Nat) (s : State) (h : Keeps s0 s) : Keeps s0 (markSent block dst s) := by
  unfold markSent
  try dsimp only
  repeat' first | with_reducible (first | exact h | assumption | intro _ | apply State.modRmt_keeps)

theorem countLegOp_keeps (r : Nat) (d : RDesc) (s : State) (h : Keeps s0 s) : Keeps s0 (countLegOp r d s) := by
  unfold countLegOp
  try dsimp only
  repeat' first | with_reducible (first | exact h | assumption | intro _ | apply ite_keeps | apply State.modJob_keeps)

theorem placeOp_keeps (o : RemOp) (s : State) (h : Keeps s0 s) : Keeps s0 (placeOp o s) := by
  unfold placeOp
  try dsimp only
  repeat' first | with_reducible (first | exact h | assumption | intro _ | apply ite_keeps | apply State.modRmt_keeps | apply startTodo_keeps | apply claimFor_keeps | apply markSent_keeps | apply foldl_keeps | apply foldl_pair_keeps | apply foldl_triple_keeps)

theorem beginOp_keeps (o : RemOp) (pkts : List Packet) (s : State) (h : Keeps s0 s) : Keeps s0 (beginOp o pkts s) := by
  unfold beginOp
  try dsimp only
  repeat' first | with_reducible (first | exact h | assumption | intro _ | apply ite_keeps | (apply numberAll_keeps; assumption) | apply numberAll_keeps_proj | apply placeOp_keeps) | split

theorem cacheLines_keeps (r a n : Nat) (s : State) {y0 y1} {s1 : State} (he : (cacheLines r a n s) = (y0, y1, s1)) (h : Keeps s0 s) : Keeps s0 s1 := by
  have e2 : (cacheLines r a n s).2.2 = s1 := by rw [he]
  rw [← e2]
  unfold cacheLines
  refine foldl_triple_keeps h ?_
  intro u i hu
  have hc := cacheRead_keeps_proj r (a + 64 * i) u.2.2 hu
  dsimp only
  split <;> exact hc

theorem cacheLines_keeps_proj (r a n : Nat) (s : State) (h : Keeps s0 s) : Keeps s0 (cacheLines r a n s).2.2 := by
  generalize he : (cacheLines r a n s) = p
  obtain ⟨_, _, _⟩ := p
  exact cacheLines_keeps r a n s he h

theorem plainLoad_keeps (o : RemOp) (d : RDesc) (s : State) (h : Keeps s0 s) : Keeps s0 (plainLoad o d s) := by
  unfold plainLoad
  try dsimp only
  repeat' first | with_reducible (first | exact h | assumption | intro _ | apply beginOp_keeps) | split

theorem cachedLoad_keeps (o : RemOp) (d : RDesc) (s : State) (h : Keeps s0 s) : Keeps s0 (cachedLoad o d s) := by
  unfold cachedLoad
  try dsimp only
  repeat' first | with_reducible (first | exact h | assumption | intro _ | apply ite_keeps | apply beginOp_keeps | (apply cacheLines_keeps; assumption) | apply cacheLines_keeps_proj | apply foldl_keeps | apply foldl_pair_keeps | apply foldl_triple_keeps) | split

theorem beginLoad_keeps (o : RemOp) (d : RDesc) (s : State) (h : Keeps s0 s) : Keeps s0 (beginLoad o d s) := by
  unfold beginLoad
  try dsimp only
  repeat' first | with_reducible (first | exact h | assumption | intro _ | apply ite_keeps | apply plainLoad_keeps | apply cachedLoad_keeps)

theorem beginStore_keeps (o : RemOp) (d : RDesc) (bytes : List Byte) (s : State) (h : Keeps s0 s) : Keeps s0 (beginStore o d bytes s) := by
  unfold beginStore
  try dsimp only
  repeat' first | with_reducible (first | exact h | assumption | intro _ | apply ite_keeps | apply beginOp_keeps) | split

theorem beginAtomic_keeps (o : RemOp) (d : RDesc) (s : State) (h : Keeps s0 s) : Keeps s0 (beginAtomic o d s) := by
  unfold beginAtomic
  try dsimp only
  repeat' first | with_reducible (first | exact h | assumption | intro _ | apply beginOp_keeps)

theorem beginClaim_keeps (o : RemOp) (d : RDesc) (s : State) (h : Keeps s0 s) : Keeps s0 (beginClaim o d s) := by
  unfold beginClaim
  try dsimp only
  repeat' first | with_reducible (first | exact h | assumption | intro _ | apply ite_keeps | apply placeOp_keeps)

theorem beginNotify_keeps (o : RemOp) (d : RDesc) (s : State) (h : Keeps s0 s) : Keeps s0 (beginNotify o d s) := by
  unfold beginNotify
  try dsimp only
  repeat' first | with_reducible (first | exact h | assumption | intro _ | apply ite_keeps | apply placeOp_keeps | apply beginOp_keeps) | split

theorem beginFence_keeps (o : RemOp) (d : RDesc) (s : State) (h : Keeps s0 s) : Keeps s0 (beginFence o d s) := by
  unfold beginFence
  try dsimp only
  repeat' first | with_reducible (first | exact h | assumption | intro _ | apply State.modRmt_keeps | apply placeOp_keeps) | split

theorem remoteDma_keeps (b p desc post : Nat) (raw : List Byte) (s : State) (h : Keeps s0 s) : SlotKeeps s0 (remoteDma b p desc post raw s) := by
  unfold remoteDma
  try dsimp only
  repeat' first | with_reducible (first | exact h | assumption | intro _ | apply slot_issued | apply slot_stopped | apply ite_keeps | apply ite_slot | apply State.modBlks_keeps | apply State.modBlk_keeps | apply dmaFault_keeps | apply State.modRmt_keeps | apply cacheDrop_keeps | apply countLegOp_keeps | apply placeOp_keeps | apply beginLoad_keeps | apply beginStore_keeps | apply beginAtomic_keeps | apply beginClaim_keeps | apply beginNotify_keeps | apply beginFence_keeps) | (apply slot_of_issued; assumption) | (apply slot_of_stopped; assumption) | split

theorem execStoreFlagSend_keeps (id : Nat) (s : State) (h : Keeps s0 s) : OutKeeps s0 (execStoreFlagSend id s) := by
  unfold execStoreFlagSend
  try dsimp only
  repeat' first | with_reducible (first | exact h | assumption | intro _ | apply out_next | apply ite_keeps | apply ite_out | apply State.modOp_keeps | apply startTodo_keeps) | split

theorem execFenceSecondStage_keeps (id : Nat) (s : State) (h : Keeps s0 s) : OutKeeps s0 (execFenceSecondStage id s) := by
  unfold execFenceSecondStage
  try dsimp only
  repeat' first | with_reducible (first | exact h | assumption | intro _ | apply out_next | apply ite_keeps | apply ite_out | apply State.modOp_keeps | apply startTodo_keeps | (apply numberAll_keeps; assumption) | apply numberAll_keeps_proj) | split

theorem sendPegDone_keeps (o : RemOp) (g : Grant) (tag : Nat) (s : State) (h : Keeps s0 s) : Keeps s0 (sendPegDone o g tag s) := by
  unfold sendPegDone
  try dsimp only
  repeat' first | with_reducible (first | exact h | assumption | intro _ | apply State.modRmt_keeps | apply State.modOp_keeps | apply issueReq_keeps | apply pumpClaims_keeps)

theorem execPegDoneSend_keeps (id : Nat) (s : State) (h : Keeps s0 s) : OutKeeps s0 (execPegDoneSend id s) := by
  unfold execPegDoneSend
  try dsimp only
  repeat' first | with_reducible (first | exact h | assumption | intro _ | apply out_next | apply ite_keeps | apply ite_out | apply State.modOp_keeps | apply sendPegDone_keeps) | split

theorem outcomeRecord_keeps (o : RemOp) (s : State) (h : Keeps s0 s) : Keeps s0 (outcomeRecord o s) := by
  unfold outcomeRecord
  try dsimp only
  repeat' first | with_reducible (first | exact h | assumption | intro _ | apply record_keeps) | split

theorem execRemoteComplete_keeps (id : Nat) (s : State) (h : Keeps s0 s) : OutKeeps s0 (execRemoteComplete id s) := by
  unfold execRemoteComplete
  try dsimp only
  repeat' first | with_reducible (first | exact h | assumption | intro _ | apply out_next | apply ite_keeps | apply ite_out | apply State.modBlk_keeps | apply finishDma_keeps | apply State.modRmt_keeps | apply outcomeRecord_keeps | apply foldl_keeps | apply foldl_pair_keeps | apply foldl_triple_keeps) | split

theorem execRetryOrderResend_keeps (tag : Fin 131072) (s : State) (h : Keeps s0 s) : OutKeeps s0 (execRetryOrderResend tag s) := by
  unfold execRetryOrderResend
  try dsimp only
  repeat' first | with_reducible (first | exact h | assumption | intro _ | apply out_next | apply ite_keeps | apply ite_out | apply sendReq_keeps) | split

theorem execDelayedResend_keeps (tag : Fin 131072) (s : State) (h : Keeps s0 s) : OutKeeps s0 (execDelayedResend tag s) := by
  unfold execDelayedResend
  try dsimp only
  repeat' first | with_reducible (first | exact h | assumption | intro _ | apply out_next | apply ite_keeps | apply ite_out | apply sendReq_keeps) | split

end Sys2Proof.Machine
end

