-- ==== Sys2Proof/Laws/KeepsTarget.lean ====
section
/-! SUPPORT. What the operations of Target keep: the queue, OTP and fuses, and the canonical form of host memory. -/

namespace Sys2Proof.Machine

open Sys2Proof

variable {s0 : State}

set_option linter.unreachableTactic false
set_option linter.unusedTactic false

theorem setCtx_keeps (src ch n : Nat) (s : State) (h : Keeps s0 s) : Keeps s0 (setCtx src ch n s) := by
  unfold setCtx
  try dsimp only
  repeat' first | with_reducible (first | exact h | assumption | intro _ | apply State.modRmt_keeps)

theorem addReceipt_keeps (p : Packet) (o value : Nat) (s : State) (h : Keeps s0 s) : Keeps s0 (addReceipt p o value s) := by
  unfold addReceipt
  try dsimp only
  repeat' first | with_reducible (first | exact h | assumption | intro _ | apply State.modRmt_keeps)

theorem execReceiptExpire_keeps (r : Fin 4) (s : State) (h : Keeps s0 s) : OutKeeps s0 (execReceiptExpire r s) := by
  unfold execReceiptExpire
  try dsimp only
  repeat' first | with_reducible (first | exact h | assumption | intro _ | apply out_next | apply State.modRmt_keeps)

theorem reply_keeps (c : Carried) (r type : Nat) (payload : List Byte) (s : State) (h : Keeps s0 s) : Keeps s0 (reply c r type payload s) := by
  unfold reply
  try dsimp only
  repeat' first | with_reducible (first | exact h | assumption | intro _ | apply sendReply_keeps)

theorem replyOutcome_keeps (c : Carried) (r o value : Nat) (s : State) (h : Keeps s0 s) : Keeps s0 (replyOutcome c r o value s) := by
  unfold replyOutcome
  try dsimp only
  repeat' first | with_reducible (first | exact h | assumption | intro _ | apply ite_keeps | apply reply_keeps)

theorem countOutcome_keeps (o : Nat) (s : State) (h : Keeps s0 s) : Keeps s0 (countOutcome o s) := by
  unfold countOutcome
  try dsimp only
  repeat' first | with_reducible (first | exact h | assumption | intro _ | apply rmtCount_keeps) | split

theorem answer_keeps (c : Carried) (r o value : Nat) (s : State) (h : Keeps s0 s) : Keeps s0 (answer c r o value s) := by
  unfold answer
  try dsimp only
  repeat' first | with_reducible (first | exact h | assumption | intro _ | apply replyOutcome_keeps | apply countOutcome_keeps)

theorem readWindow_keeps (e : WinEntry) (off n : Nat) (s : State) {y0} {s1 : State} (he : (readWindow e off n s) = (y0, s1)) (h : Keeps s0 s) : Keeps s0 s1 := by
  unfold readWindow at he
  try dsimp only at he
  repeat' split at he
  all_goals first | (with_reducible apply readScratch_keeps <;> assumption) | (with_reducible apply readBytes_keeps <;> assumption) | (cases he; repeat' first | with_reducible (first | exact h | assumption | intro _ | apply ite_keeps | (apply readScratch_keeps; assumption) | apply readScratch_keeps_proj | (apply readBytes_keeps; assumption) | apply readBytes_keeps_proj) | split)

theorem readWindow_keeps_proj (e : WinEntry) (off n : Nat) (s : State) (h : Keeps s0 s) : Keeps s0 (readWindow e off n s).2 := by
  generalize he : (readWindow e off n s) = p
  obtain ⟨_, _⟩ := p
  exact readWindow_keeps e off n s he h

theorem landBytes_keeps (n : Nat) (sp : Nat) (bs : List Byte) (s : State) (h : Keeps s0 s) : Keeps s0 (landBytes n sp bs s) := by
  unfold landBytes
  try dsimp only
  repeat' first | with_reducible (first | exact h | assumption | intro _ | apply requestWake_keeps | apply State.modBlk_keeps | apply State.modPeg_keeps) | split

theorem writeWindow_keeps (src w off : Nat) (bs : List Byte) (s : State) (h : Keeps s0 s) : Keeps s0 (writeWindow src w off bs s) := by
  unfold writeWindow
  try dsimp only
  repeat' first | with_reducible (first | exact h | assumption | intro _ | apply ite_keeps | apply writeBytes_keeps | apply landBytes_keeps) | split

theorem applyAtomic_keeps (p : Packet) (s : State) {y0} {s1 : State} (he : (applyAtomic p s) = (y0, s1)) (h : Keeps s0 s) : Keeps s0 s1 := by
  unfold applyAtomic at he
  dsimp only at he
  cases he
  exact writeWindow_keeps _ _ _ _ _ (readWindow_keeps_proj _ _ _ _ h)

theorem applyAtomic_keeps_proj (p : Packet) (s : State) (h : Keeps s0 s) : Keeps s0 (applyAtomic p s).2 := by
  generalize he : (applyAtomic p s) = p
  obtain ⟨_, _⟩ := p
  exact applyAtomic_keeps p s he h

theorem applyRequest_keeps (p : Packet) (s : State) {y0} {s1 : State} (he : (applyRequest p s) = (y0, s1)) (h : Keeps s0 s) : Keeps s0 s1 := by
  unfold applyRequest at he
  try dsimp only at he
  repeat' split at he
  all_goals first | (with_reducible apply applyAtomic_keeps <;> assumption) | (cases he; repeat' first | with_reducible (first | exact h | assumption | intro _ | apply flushAll_keeps | apply cacheDrop_keeps | apply writeWindow_keeps | (apply applyAtomic_keeps; assumption) | apply applyAtomic_keeps_proj) | split)

theorem applyRequest_keeps_proj (p : Packet) (s : State) (h : Keeps s0 s) : Keeps s0 (applyRequest p s).2 := by
  generalize he : (applyRequest p s) = p
  obtain ⟨_, _⟩ := p
  exact applyRequest_keeps p s he h

theorem answerLoad_keeps (c : Carried) (r : Nat) (s : State) (h : Keeps s0 s) : Keeps s0 (answerLoad c r s) := by
  unfold answerLoad
  try dsimp only
  repeat' first | with_reducible (first | exact h | assumption | intro _ | apply reply_keeps | (apply readWindow_keeps; assumption) | apply readWindow_keeps_proj) | split

theorem handleOrdered.behind_keeps (c : Carried) (r : Nat) (s : State) (h : Keeps s0 s) : Keeps s0 (handleOrdered.behind c r s) := by
  unfold handleOrdered.behind
  try dsimp only
  repeat' first | with_reducible (first | exact h | assumption | intro _ | apply ite_keeps | apply rmtCount_keeps | apply replyOutcome_keeps | apply answer_keeps | apply answerLoad_keeps) | split

theorem handleOrdered.inOrder_keeps (c : Carried) (r next : Nat) (s : State) (h : Keeps s0 s) : Keeps s0 (handleOrdered.inOrder c r next s) := by
  unfold handleOrdered.inOrder
  try dsimp only
  repeat' first | with_reducible (first | exact h | assumption | intro _ | apply ite_keeps | apply setCtx_keeps | apply addReceipt_keeps | apply answer_keeps | (apply applyRequest_keeps; assumption) | apply applyRequest_keeps_proj | apply answerLoad_keeps) | split

theorem handleOrdered_keeps (c : Carried) (s : State) (h : Keeps s0 s) : Keeps s0 (handleOrdered c s) := by
  unfold handleOrdered
  try dsimp only
  repeat' first | with_reducible (first | exact h | assumption | intro _ | apply ite_keeps | apply answer_keeps | apply handleOrdered.behind_keeps | apply handleOrdered.inOrder_keeps) | split

theorem handleClaim_keeps (c : Carried) (s : State) (h : Keeps s0 s) : Keeps s0 (handleClaim c s) := by
  unfold handleClaim
  try dsimp only
  repeat' first | with_reducible (first | exact h | assumption | intro _ | apply ite_keeps | apply State.modPeg_keeps | apply grantPeg_keeps | apply answer_keeps) | split

theorem handleDone_keeps (c : Carried) (s : State) (h : Keeps s0 s) : Keeps s0 (handleDone c s) := by
  unfold handleDone
  try dsimp only
  repeat' first | with_reducible (first | exact h | assumption | intro _ | apply ite_keeps | apply record_keeps | apply completePeg_keeps | apply answer_keeps) | split

theorem requestStep_keeps (mine : Packet → Bool) (s : State) (h : Keeps s0 s) : OutKeeps s0 (requestStep mine s) := by
  unfold requestStep
  try dsimp only
  repeat' first | with_reducible (first | exact h | assumption | intro _ | apply out_next | apply ite_keeps | apply ite_out | apply State.modFab_keeps | apply fabCount_keeps | apply admitWaiting_keeps | apply answerClaim_keeps | apply handleOrdered_keeps | apply handleClaim_keeps | apply handleDone_keeps) | split

theorem execLoad_keeps (errs : List ReadErr) (s : State) (h : Keeps s0 s) : OutKeeps s0 (execLoad errs s) := by
  unfold execLoad
  try dsimp only
  repeat' first | with_reducible (first | exact h | assumption | intro _ | apply out_next | apply meeting_keeps | apply requestStep_keeps)

theorem execStore_keeps (errs : List ReadErr) (s : State) (h : Keeps s0 s) : OutKeeps s0 (execStore errs s) := by
  unfold execStore
  try dsimp only
  repeat' first | with_reducible (first | exact h | assumption | intro _ | apply out_next | apply meeting_keeps | apply requestStep_keeps)

theorem execStoreFlag_keeps (errs : List ReadErr) (s : State) (h : Keeps s0 s) : OutKeeps s0 (execStoreFlag errs s) := by
  unfold execStoreFlag
  try dsimp only
  repeat' first | with_reducible (first | exact h | assumption | intro _ | apply out_next | apply meeting_keeps | apply requestStep_keeps)

theorem execPegClaim_keeps (s : State) (h : Keeps s0 s) : OutKeeps s0 (execPegClaim s) := by
  unfold execPegClaim
  try dsimp only
  repeat' first | with_reducible (first | exact h | assumption | intro _ | apply out_next | apply requestStep_keeps)

theorem execPegDone_keeps (s : State) (h : Keeps s0 s) : OutKeeps s0 (execPegDone s) := by
  unfold execPegDone
  try dsimp only
  repeat' first | with_reducible (first | exact h | assumption | intro _ | apply out_next | apply requestStep_keeps)

theorem execNotice_keeps (s : State) (h : Keeps s0 s) : OutKeeps s0 (execNotice s) := by
  unfold execNotice
  try dsimp only
  repeat' first | with_reducible (first | exact h | assumption | intro _ | apply out_next | apply requestStep_keeps)

theorem execFence_keeps (errs : List ReadErr) (s : State) (h : Keeps s0 s) : OutKeeps s0 (execFence errs s) := by
  unfold execFence
  try dsimp only
  repeat' first | with_reducible (first | exact h | assumption | intro _ | apply out_next | apply meeting_keeps | apply requestStep_keeps)

theorem atomicStep_keeps (op : Nat) (errs : List ReadErr) (s : State) (h : Keeps s0 s) : OutKeeps s0 (atomicStep op errs s) := by
  unfold atomicStep
  try dsimp only
  repeat' first | with_reducible (first | exact h | assumption | intro _ | apply out_next | apply meeting_keeps | apply requestStep_keeps)

theorem execAtomicAdd_keeps (errs : List ReadErr) (s : State) (h : Keeps s0 s) : OutKeeps s0 (execAtomicAdd errs s) := by
  unfold execAtomicAdd
  try dsimp only
  repeat' first | with_reducible (first | exact h | assumption | intro _ | apply out_next | apply atomicStep_keeps)

theorem execAtomicMin_keeps (errs : List ReadErr) (s : State) (h : Keeps s0 s) : OutKeeps s0 (execAtomicMin errs s) := by
  unfold execAtomicMin
  try dsimp only
  repeat' first | with_reducible (first | exact h | assumption | intro _ | apply out_next | apply atomicStep_keeps)

theorem execAtomicMax_keeps (errs : List ReadErr) (s : State) (h : Keeps s0 s) : OutKeeps s0 (execAtomicMax errs s) := by
  unfold execAtomicMax
  try dsimp only
  repeat' first | with_reducible (first | exact h | assumption | intro _ | apply out_next | apply atomicStep_keeps)

theorem execAtomicAnd_keeps (errs : List ReadErr) (s : State) (h : Keeps s0 s) : OutKeeps s0 (execAtomicAnd errs s) := by
  unfold execAtomicAnd
  try dsimp only
  repeat' first | with_reducible (first | exact h | assumption | intro _ | apply out_next | apply atomicStep_keeps)

theorem execAtomicOr_keeps (errs : List ReadErr) (s : State) (h : Keeps s0 s) : OutKeeps s0 (execAtomicOr errs s) := by
  unfold execAtomicOr
  try dsimp only
  repeat' first | with_reducible (first | exact h | assumption | intro _ | apply out_next | apply atomicStep_keeps)

theorem execAtomicXor_keeps (errs : List ReadErr) (s : State) (h : Keeps s0 s) : OutKeeps s0 (execAtomicXor errs s) := by
  unfold execAtomicXor
  try dsimp only
  repeat' first | with_reducible (first | exact h | assumption | intro _ | apply out_next | apply atomicStep_keeps)

theorem execAtomicSwap_keeps (errs : List ReadErr) (s : State) (h : Keeps s0 s) : OutKeeps s0 (execAtomicSwap errs s) := by
  unfold execAtomicSwap
  try dsimp only
  repeat' first | with_reducible (first | exact h | assumption | intro _ | apply out_next | apply atomicStep_keeps)

theorem execAtomicCas_keeps (errs : List ReadErr) (s : State) (h : Keeps s0 s) : OutKeeps s0 (execAtomicCas errs s) := by
  unfold execAtomicCas
  try dsimp only
  repeat' first | with_reducible (first | exact h | assumption | intro _ | apply out_next | apply atomicStep_keeps)

theorem execAtomicCadd_keeps (errs : List ReadErr) (s : State) (h : Keeps s0 s) : OutKeeps s0 (execAtomicCadd errs s) := by
  unfold execAtomicCadd
  try dsimp only
  repeat' first | with_reducible (first | exact h | assumption | intro _ | apply out_next | apply atomicStep_keeps)

end Sys2Proof.Machine
end

