-- ==== Sys2Proof/Laws/KeepsCollective.lean ====
section
/-! SUPPORT. What the operations of Collective keep: the queue, OTP and fuses, and the canonical form of host memory. -/

namespace Sys2Proof.Machine

open Sys2Proof

variable {s0 : State}

set_option linter.unreachableTactic false
set_option linter.unusedTactic false

theorem colCount_keeps (k n : Nat) (s : State) (h : Keeps s0 s) : Keeps s0 (colCount k n s) := by
  unfold colCount
  try dsimp only
  repeat' first | with_reducible (first | exact h | assumption | intro _ | apply State.modCol_keeps)

theorem State.modColOp_keeps (id : Nat) (f : ColOp → ColOp) (s : State) (h : Keeps s0 s) : Keeps s0 (State.modColOp id f s) := by
  unfold State.modColOp
  try dsimp only
  repeat' first | with_reducible (first | exact h | assumption | intro _ | apply ite_keeps | apply State.modCol_keeps)

theorem readSpace_keeps (o : ColOp) (w off n : Nat) (s : State) {y0} {s1 : State} (he : (readSpace o w off n s) = (y0, s1)) (h : Keeps s0 s) : Keeps s0 s1 := by
  unfold readSpace at he
  try dsimp only at he
  repeat' split at he
  all_goals first | (with_reducible apply readScratch_keeps <;> assumption) | (with_reducible apply readBytes_keeps <;> assumption) | (cases he; repeat' first | with_reducible (first | exact h | assumption | intro _ | apply ite_keeps | exact out_fault _ | (apply readScratch_keeps; assumption) | apply readScratch_keeps_proj | (apply readBytes_keeps; assumption) | apply readBytes_keeps_proj) | split)

theorem readSpace_keeps_proj (o : ColOp) (w off n : Nat) (s : State) (h : Keeps s0 s) : Keeps s0 (readSpace o w off n s).2 := by
  generalize he : (readSpace o w off n s) = p
  obtain ⟨_, _⟩ := p
  exact readSpace_keeps o w off n s he h

theorem holdSpace_keeps (id w off n : Nat) (s : State) {t : State} (e : holdSpace id w off n s = some t) (h : Keeps s0 s) : Keeps s0 t := by
  unfold holdSpace at e
  split at e
  · cases e
  · cases e
    exact State.modColOp_keeps _ _ _ h
  · dsimp only at e
    split at e
    · cases e
    · cases e
      exact State.modColOp_keeps _ _ _ (State.modBlk_keeps _ _ _ h)

theorem putSpace_keeps (w off : Nat) (bs : List Byte) (s : State) (h : Keeps s0 s) : Keeps s0 (putSpace w off bs s) := by
  unfold putSpace
  try dsimp only
  repeat' first | with_reducible (first | exact h | assumption | intro _ | apply State.modBlk_keeps | apply writeBytes_keeps) | split

theorem writeSpace_keeps (id k w off : Nat) (bs : List Byte) (s : State) (h : Keeps s0 s) : Keeps s0 (writeSpace id k w off bs s) := by
  unfold writeSpace
  try dsimp only
  repeat' first | with_reducible (first | exact h | assumption | intro _ | apply State.modColOp_keeps | (apply holdSpace_keeps; assumption) | apply putSpace_keeps) | split

theorem freeSlotTag_keeps (tag : Nat) (s : State) (h : Keeps s0 s) : Keeps s0 (freeSlotTag tag s) := by
  unfold freeSlotTag
  try dsimp only
  repeat' first | with_reducible (first | exact h | assumption | intro _ | apply State.modRmt_keeps)

theorem releaseHeldSegs_keeps (o : ColOp) (s : State) (h : Keeps s0 s) : Keeps s0 (releaseHeldSegs o s) := by
  unfold releaseHeldSegs
  try dsimp only
  repeat' first | with_reducible (first | exact h | assumption | intro _ | apply State.modBlk_keeps | apply foldl_keeps | apply foldl_pair_keeps | apply foldl_triple_keeps)

theorem resultTerms_keeps (o : ColOp) (s : State) (h : Keeps s0 s) : Keeps s0 (resultTerms o s) := by
  unfold resultTerms
  try dsimp only
  repeat' first | with_reducible (first | exact h | assumption | intro _ | apply digestLines_keeps | apply foldl_keeps | apply foldl_pair_keeps | apply foldl_triple_keeps)

theorem writeStatus_keeps (o : ColOp) (s : State) (h : Keeps s0 s) : Keeps s0 (writeStatus o s) := by
  unfold writeStatus
  try dsimp only
  repeat' first | with_reducible (first | exact h | assumption | intro _ | apply ite_keeps | apply State.modBlk_keeps) | split

theorem completeCol_keeps (id : Nat) (s : State) (h : Keeps s0 s) : Keeps s0 (completeCol id s) := by
  unfold completeCol
  try dsimp only
  repeat' first | with_reducible (first | exact h | assumption | intro _ | apply ite_keeps | apply record_keeps | apply postCtr_keeps | apply State.modCol_keeps | apply freeSlotTag_keeps | apply releaseHeldSegs_keeps | apply resultTerms_keeps | apply writeStatus_keeps | apply foldl_keeps | apply foldl_pair_keeps | apply foldl_triple_keeps) | split

theorem endCol_keeps (code : Nat) (id : Nat) (s : State) (h : Keeps s0 s) : Keeps s0 (endCol code id s) := by
  unfold endCol
  try dsimp only
  repeat' first | with_reducible (first | exact h | assumption | intro _ | apply State.modColOp_keeps | apply completeCol_keeps)

theorem writeCounts_keeps (id : Nat) (s : State) (h : Keeps s0 s) : Keeps s0 (writeCounts id s) := by
  unfold writeCounts
  try dsimp only
  repeat' first | with_reducible (first | exact h | assumption | intro _ | apply ite_keeps | apply writeSpace_keeps) | split

theorem settleCol_keeps (id : Nat) (s : State) (h : Keeps s0 s) : Keeps s0 (settleCol id s) := by
  unfold settleCol
  try dsimp only
  repeat' first | with_reducible (first | exact h | assumption | intro _ | apply ite_keeps | apply State.modColOp_keeps | apply completeCol_keeps | apply writeCounts_keeps) | split

theorem endSlot_keeps (tag code : Nat) (s : State) (h : Keeps s0 s) : Keeps s0 (endSlot tag code s) := by
  unfold endSlot
  try dsimp only
  repeat' first | with_reducible (first | exact h | assumption | intro _ | apply ite_keeps | apply State.modColOp_keeps | apply freeSlotTag_keeps | apply settleCol_keeps) | split

theorem sendClaim_keeps (id i tag : Nat) (x : SendSlot) (engine : Nat) (s : State) (h : Keeps s0 s) : Keeps s0 (sendClaim id i tag x engine s) := by
  unfold sendClaim
  try dsimp only
  repeat' first | with_reducible (first | exact h | assumption | intro _ | apply ite_keeps | apply State.modRmt_keeps | apply sendReq_keeps | apply State.modColOp_keeps | apply endSlot_keeps)

theorem pumpSlots_keeps (id n : Nat) (s : State) (h : Keeps s0 s) : Keeps s0 (pumpSlots id n s) := by
  induction n generalizing s with
  | zero => exact h
  | succ n ih =>
    unfold pumpSlots
    split
    · exact h
    · split
      · split
        · exact ih _ (sendClaim_keeps _ _ _ _ _ _ h)
        · exact h
      · exact h

theorem pumpCols_keeps (s : State) (h : Keeps s0 s) : Keeps s0 (pumpCols s) := by
  unfold pumpCols
  try dsimp only
  repeat' first | with_reducible (first | exact h | assumption | intro _ | apply pumpSlots_keeps | apply foldl_keeps | apply foldl_pair_keeps | apply foldl_triple_keeps)

theorem pumpAll_keeps (s : State) (h : Keeps s0 s) : Keeps s0 (pumpAll s) := by
  unfold pumpAll
  try dsimp only
  repeat' first | with_reducible (first | exact h | assumption | intro _ | apply pumpOps_keeps | apply pumpClaims_keeps | apply pumpCols_keeps)

theorem execTagQuarantineEnd_keeps (tag : Fin 131072) (s : State) (h : Keeps s0 s) : OutKeeps s0 (execTagQuarantineEnd tag s) := by
  unfold execTagQuarantineEnd
  try dsimp only
  repeat' first | with_reducible (first | exact h | assumption | intro _ | apply out_next | apply ite_keeps | apply ite_out | apply State.modRmt_keeps | apply pumpAll_keeps)

theorem sendSlotData_keeps (tag : Nat) (first : Bool) (o : ColOp) (x : SendSlot) (q : Req) (s : State) (h : Keeps s0 s) : Keeps s0 (sendSlotData tag first o x q s) := by
  unfold sendSlotData
  try dsimp only
  repeat' first | with_reducible (first | exact h | assumption | intro _ | apply ite_keeps | apply originate_keeps | apply State.modReq_keeps | apply payloadTerms_keeps | apply State.modColOp_keeps | (apply readSpace_keeps; assumption) | apply readSpace_keeps_proj | apply settleCol_keeps | apply endSlot_keeps | apply pumpAll_keeps | apply foldl_keeps | apply foldl_pair_keeps | apply foldl_triple_keeps) | split

theorem execColSlotSend_keeps (tag : Fin 131072) (errs : List ReadErr) (s : State) (h : Keeps s0 s) : OutKeeps s0 (execColSlotSend tag errs s) := by
  unfold execColSlotSend
  try dsimp only
  repeat' first | with_reducible (first | exact h | assumption | intro _ | apply out_next | apply ite_keeps | apply ite_out | apply meeting_keeps | apply State.modReq_keeps | apply sendSlotData_keeps) | split

theorem slotGranted_keeps (tag window off bytes : Nat) (s : State) (h : Keeps s0 s) : Keeps s0 (slotGranted tag window off bytes s) := by
  unfold slotGranted
  try dsimp only
  repeat' first | with_reducible (first | exact h | assumption | intro _ | apply ite_keeps | apply State.modReq_keeps | apply State.modColOp_keeps | apply settleCol_keeps | apply endSlot_keeps) | split

theorem combineSlot_keeps (id : Nat) (r : RecvSlot) (s : State) (h : Keeps s0 s) : Keeps s0 (combineSlot id r s) := by
  unfold combineSlot
  try dsimp only
  repeat' first | with_reducible (first | exact h | assumption | intro _ | apply ite_keeps | apply State.modColOp_keeps | (apply readSpace_keeps; assumption) | apply readSpace_keeps_proj | (apply holdSpace_keeps; assumption) | apply putSpace_keeps) | split

theorem takeLanding_keeps (id k bytes : Nat) (s : State) (h : Keeps s0 s) : Keeps s0 (takeLanding id k bytes s) := by
  unfold takeLanding
  try dsimp only
  repeat' first | with_reducible (first | exact h | assumption | intro _ | apply ite_keeps | apply State.modColOp_keeps | apply settleCol_keeps | apply combineSlot_keeps) | split

theorem noteLanding_keeps (w peg bytes : Nat) (s : State) (h : Keeps s0 s) : Keeps s0 (noteLanding w peg bytes s) := by
  unfold noteLanding
  try dsimp only
  repeat' first | with_reducible (first | exact h | assumption | intro _ | apply State.modCol_keeps | apply takeLanding_keeps) | split

theorem handleCol_keeps (c : Carried) (s : State) (h : Keeps s0 s) : Keeps s0 (handleCol c s) := by
  unfold handleCol
  try dsimp only
  repeat' first | with_reducible (first | exact h | assumption | intro _ | apply ite_keeps | apply fabCount_keeps | apply queueAck_keeps | (apply readScratch_keeps; assumption) | apply readScratch_keeps_proj | apply State.modPeg_keeps | apply completePeg_keeps | apply landBytes_keeps | apply colCount_keeps | apply noteLanding_keeps) | split

theorem execCol_keeps (errs : List ReadErr) (s : State) (h : Keeps s0 s) : OutKeeps s0 (execCol errs s) := by
  unfold execCol
  try dsimp only
  repeat' first | with_reducible (first | exact h | assumption | intro _ | apply out_next | apply ite_keeps | apply ite_out | apply State.modFab_keeps | apply meeting_keeps | apply handleCol_keeps) | split

theorem sendCounts_keeps (o : ColOp) (d : ColDesc) (table : List Byte) (s : State) {y0} {s1 : State} (he : (sendCounts o d table s) = (y0, s1)) (h : Keeps s0 s) : Keeps s0 s1 := by
  unfold sendCounts at he
  try dsimp only at he
  repeat' split at he
  all_goals first | (with_reducible apply readSpace_keeps <;> assumption) | (cases he; repeat' first | with_reducible (first | exact h | assumption | intro _ | apply ite_keeps | (apply readSpace_keeps; assumption) | apply readSpace_keeps_proj) | split)

theorem sendCounts_keeps_proj (o : ColOp) (d : ColDesc) (table : List Byte) (s : State) (h : Keeps s0 s) : Keeps s0 (sendCounts o d table s).2 := by
  generalize he : (sendCounts o d table s) = p
  obtain ⟨_, _⟩ := p
  exact sendCounts_keeps o d table s he h

theorem takeEarly_keeps (id : Nat) (s : State) (h : Keeps s0 s) : Keeps s0 (takeEarly id s) := by
  unfold takeEarly
  try dsimp only
  repeat' first | with_reducible (first | exact h | assumption | intro _ | apply State.modCol_keeps | apply takeLanding_keeps | apply foldl_keeps | apply foldl_pair_keeps | apply foldl_triple_keeps) | split

theorem openCol_keeps (id : Nat) (d : ColDesc) (table : List Byte) (s : State) (h : Keeps s0 s) : Keeps s0 (openCol id d table s) := by
  unfold openCol
  try dsimp only
  repeat' first | with_reducible (first | exact h | assumption | intro _ | apply ite_keeps | apply colCount_keeps | apply State.modColOp_keeps | (apply readSpace_keeps; assumption) | apply readSpace_keeps_proj | apply writeSpace_keeps | apply settleCol_keeps | apply pumpSlots_keeps | (apply sendCounts_keeps; assumption) | apply sendCounts_keeps_proj | apply takeEarly_keeps | apply foldl_keeps | apply foldl_pair_keeps | apply foldl_triple_keeps) | split

theorem colStep_keeps (op : Nat) (e : Fin 4) (s : State) (h : Keeps s0 s) : OutKeeps s0 (colStep op e s) := by
  unfold colStep
  try dsimp only
  repeat' first | with_reducible (first | exact h | assumption | intro _ | apply out_next | apply ite_keeps | apply ite_out | apply State.modCol_keeps | apply endCol_keeps | apply openCol_keeps) | split

theorem execA2a_keeps (engine : Fin 4) (s : State) (h : Keeps s0 s) : OutKeeps s0 (execA2a engine s) := by
  unfold execA2a
  try dsimp only
  repeat' first | with_reducible (first | exact h | assumption | intro _ | apply out_next | apply colStep_keeps)

theorem execA2av_keeps (engine : Fin 4) (s : State) (h : Keeps s0 s) : OutKeeps s0 (execA2av engine s) := by
  unfold execA2av
  try dsimp only
  repeat' first | with_reducible (first | exact h | assumption | intro _ | apply out_next | apply colStep_keeps)

theorem execA2ax_keeps (engine : Fin 4) (s : State) (h : Keeps s0 s) : OutKeeps s0 (execA2ax engine s) := by
  unfold execA2ax
  try dsimp only
  repeat' first | with_reducible (first | exact h | assumption | intro _ | apply out_next | apply colStep_keeps)

theorem execAllgather_keeps (engine : Fin 4) (s : State) (h : Keeps s0 s) : OutKeeps s0 (execAllgather engine s) := by
  unfold execAllgather
  try dsimp only
  repeat' first | with_reducible (first | exact h | assumption | intro _ | apply out_next | apply colStep_keeps)

theorem execReduceScatter_keeps (engine : Fin 4) (s : State) (h : Keeps s0 s) : OutKeeps s0 (execReduceScatter engine s) := by
  unfold execReduceScatter
  try dsimp only
  repeat' first | with_reducible (first | exact h | assumption | intro _ | apply out_next | apply colStep_keeps)

theorem execAllreduce_keeps (engine : Fin 4) (s : State) (h : Keeps s0 s) : OutKeeps s0 (execAllreduce engine s) := by
  unfold execAllreduce
  try dsimp only
  repeat' first | with_reducible (first | exact h | assumption | intro _ | apply out_next | apply colStep_keeps)

theorem execCollectiveDatum_keeps (engine : Fin 4) (s : State) (h : Keeps s0 s) : OutKeeps s0 (execCollectiveDatum engine s) := by
  unfold execCollectiveDatum
  try dsimp only
  repeat' first | with_reducible (first | exact h | assumption | intro _ | apply out_next | apply colStep_keeps)

theorem execBroadcast_keeps (engine : Fin 4) (s : State) (h : Keeps s0 s) : OutKeeps s0 (execBroadcast engine s) := by
  unfold execBroadcast
  try dsimp only
  repeat' first | with_reducible (first | exact h | assumption | intro _ | apply out_next | apply colStep_keeps)

theorem timeoutEvent_keeps (q : Req) (type tag flags : Nat) (s : State) (h : Keeps s0 s) : Keeps s0 (timeoutEvent q type tag flags s) := by
  unfold timeoutEvent
  try dsimp only
  repeat' first | with_reducible (first | exact h | assumption | intro _ | apply raiseEvent_keeps)

theorem slotUnresponsive_keeps (tag type : Nat) (s : State) (h : Keeps s0 s) : Keeps s0 (slotUnresponsive tag type s) := by
  unfold slotUnresponsive
  try dsimp only
  repeat' first | with_reducible (first | exact h | assumption | intro _ | apply ite_keeps | apply sendHealth_keeps | apply State.modReq_keeps | apply endSlot_keeps | apply pumpAll_keeps | apply timeoutEvent_keeps) | split

theorem execColResend_keeps (tag : Fin 131072) (s : State) (h : Keeps s0 s) : OutKeeps s0 (execColResend tag s) := by
  unfold execColResend
  try dsimp only
  repeat' first | with_reducible (first | exact h | assumption | intro _ | apply out_next | apply ite_keeps | apply ite_out | apply State.modReq_keeps | apply colCount_keeps | apply sendSlotData_keeps | apply slotUnresponsive_keeps) | split

theorem poisonSpace_keeps (id w off n : Nat) (pat : List Byte) (s : State) (h : Keeps s0 s) : Keeps s0 (poisonSpace id w off n pat s) := by
  unfold poisonSpace
  try dsimp only
  repeat' first | with_reducible (first | exact h | assumption | intro _ | (apply holdSpace_keeps; assumption) | apply putSpace_keeps | apply foldl_keeps | apply foldl_pair_keeps | apply foldl_triple_keeps) | split

theorem execCollectiveDeadUs_keeps (id : Nat) (s : State) (h : Keeps s0 s) : OutKeeps s0 (execCollectiveDeadUs id s) := by
  unfold execCollectiveDeadUs
  try dsimp only
  repeat' first | with_reducible (first | exact h | assumption | intro _ | apply out_next | apply ite_keeps | apply ite_out | apply endCol_keeps | apply pumpAll_keeps | apply poisonSpace_keeps | apply foldl_keeps | apply foldl_pair_keeps | apply foldl_triple_keeps) | split

theorem abortCols_keeps (code : Nat) (s : State) (h : Keeps s0 s) : Keeps s0 (abortCols code s) := by
  unfold abortCols
  try dsimp only
  repeat' first | with_reducible (first | exact h | assumption | intro _ | apply State.modRmt_keeps | apply State.modCol_keeps | apply endCol_keeps | apply foldl_keeps | apply foldl_pair_keeps | apply foldl_triple_keeps) | split

theorem loseEngine_keeps (r : Nat) (s : State) (h : Keeps s0 s) : Keeps s0 (loseEngine r s) := by
  unfold loseEngine
  try dsimp only
  repeat' first | with_reducible (first | exact h | assumption | intro _ | apply endCol_keeps | apply foldl_keeps | apply foldl_pair_keeps | apply foldl_triple_keeps)

theorem loseCols_keeps (s : State) (h : Keeps s0 s) : Keeps s0 (loseCols s) := by
  unfold loseCols
  try dsimp only
  repeat' first | with_reducible (first | exact h | assumption | intro _ | apply endCol_keeps | apply foldl_keeps | apply foldl_pair_keeps | apply foldl_triple_keeps)

end Sys2Proof.Machine
end

