-- ==== Sys2Proof/Laws/KeepsCopies.lean ====
section
/-! SUPPORT. What the operations of Copies keep: the queue, OTP and fuses, and the canonical form of host memory. -/

namespace Sys2Proof.Machine

open Sys2Proof

variable {s0 : State}

set_option linter.unreachableTactic false
set_option linter.unusedTactic false

theorem coreRequest_keeps (cmd kind jobTag : Nat) (type addr : Nat) (payload : List Byte) (s : State) (h : Keeps s0 s) : Keeps s0 (coreRequest cmd kind jobTag type addr payload s) := by
  unfold coreRequest
  try dsimp only
  repeat' first | with_reducible (first | exact h | assumption | intro _ | apply ite_keeps | apply State.modBlks_keeps | (apply numbered_keeps; assumption) | apply numbered_keeps_proj | apply placeOp_keeps) | split

theorem dropCore_keeps (cmd : Nat) (s : State) (h : Keeps s0 s) : Keeps s0 (dropCore cmd s) := by
  unfold dropCore
  try dsimp only
  repeat' first | with_reducible (first | exact h | assumption | intro _ | apply State.modRmt_keeps) | split

theorem imagePiece_keeps (s : State) (pos : Nat) {y0} {s1 : State} (he : (imagePiece s pos) = (y0, s1)) (h : Keeps s0 s) : Keeps s0 s1 := by
  have e2 : (imagePiece s pos).2 = s1 := by rw [he]
  rw [← e2]
  clear he e2
  unfold imagePiece
  extract_lets bs n q
  split
  · split
    · split
      · exact readScratch_keeps_proj _ _ _ _ h
      · exact h
    · exact h
  · split
    · exact h
    · split
      · exact h
      · split
        · exact h
        · exact h

theorem imagePiece_keeps_proj (s : State) (pos : Nat) (h : Keeps s0 s) : Keeps s0 (imagePiece s pos).2 := by
  generalize he : (imagePiece s pos) = p
  obtain ⟨_, _⟩ := p
  exact imagePiece_keeps s pos he h

theorem putImage_keeps (pos : Nat) (buf bs : List Byte) (s : State) {y0} {s1 : State} (he : (putImage pos buf bs s) = (y0, s1)) (h : Keeps s0 s) : Keeps s0 s1 := by
  have e2 : (putImage pos buf bs s).2 = s1 := by rw [he]
  rw [← e2]
  clear he e2
  unfold putImage
  extract_lets cls n whole endsAt
  split
  · split
    · exact h
    · split
      · dsimp only
        exact State.modBlk_keeps _ _ _ h
      · split
        · dsimp only
          exact State.modBlk_keeps _ _ _ h
        · exact h
  · split
    · dsimp only
      exact State.modRmt_keeps _ h
    · split
      · dsimp only
        exact State.modRmt_keeps _ h
      · split
        · dsimp only
          exact State.modRmt_keeps _ h
        · split
          · dsimp only
            exact State.modMem_keeps _ h
          · exact h

theorem putImage_keeps_proj (pos : Nat) (buf bs : List Byte) (s : State) (h : Keeps s0 s) : Keeps s0 (putImage pos buf bs s).2 := by
  generalize he : (putImage pos buf bs s) = p
  obtain ⟨_, _⟩ := p
  exact putImage_keeps pos buf bs s he h

theorem State.modCkpt_keeps (cmd : Nat) (f : Ckpt → Ckpt) (s : State) (h : Keeps s0 s) : Keeps s0 (State.modCkpt cmd f s) := by
  unfold State.modCkpt
  try dsimp only
  repeat' first | with_reducible (first | exact h | assumption | intro _ | apply ite_keeps | apply State.modMem_keeps)

theorem ckptSend_keeps (cmd : Nat) (s : State) (h : Keeps s0 s) : Keeps s0 (ckptSend cmd s) := by
  unfold ckptSend
  try dsimp only
  repeat' first | with_reducible (first | exact h | assumption | intro _ | (apply readBytes_keeps; assumption) | apply readBytes_keeps_proj | apply coreRequest_keeps | (apply imagePiece_keeps; assumption) | apply imagePiece_keeps_proj | apply State.modCkpt_keeps) | split

theorem endCkpt_keeps (cmd status value : Nat) (s : State) (h : Keeps s0 s) : Keeps s0 (endCkpt cmd status value s) := by
  unfold endCkpt
  try dsimp only
  repeat' first | with_reducible (first | exact h | assumption | intro _ | apply complete_keeps | apply State.modMem_keeps)

theorem ckptReply_keeps (cmd outcome : Nat) (s : State) (h : Keeps s0 s) : Keeps s0 (ckptReply cmd outcome s) := by
  unfold ckptReply
  try dsimp only
  repeat' first | with_reducible (first | exact h | assumption | intro _ | apply ite_keeps | apply State.modCkpt_keeps | apply ckptSend_keeps | apply endCkpt_keeps) | split

theorem takeCheckpoint_keeps (c : InCmd) (s : State) (h : Keeps s0 s) : Keeps s0 (takeCheckpoint c s) := by
  unfold takeCheckpoint
  try dsimp only
  repeat' first | with_reducible (first | exact h | assumption | intro _ | apply ite_keeps | apply complete_keeps | apply State.modMem_keeps) | split

theorem State.modFill_keeps (f : Fill → Fill) (s : State) (h : Keeps s0 s) : Keeps s0 (State.modFill f s) := by
  unfold State.modFill
  try dsimp only
  repeat' first | with_reducible (first | exact h | assumption | intro _ | apply State.modMem_keeps)

theorem zeroFilled_keeps (f : Fill) (s : State) (h : Keeps s0 s) : Keeps s0 (zeroFilled f s) := by
  unfold zeroFilled
  try dsimp only
  repeat' first | with_reducible (first | exact h | assumption | intro _ | apply ite_keeps | apply writeBytes_keeps | apply foldl_keeps | apply foldl_pair_keeps | apply foldl_triple_keeps)

theorem restoreFilled_keeps (f : Fill) (s : State) (h : Keeps s0 s) : Keeps s0 (restoreFilled f s) := by
  unfold restoreFilled
  try dsimp only
  repeat' first | with_reducible (first | exact h | assumption | intro _ | apply ite_keeps | apply State.modBlks_keeps | apply State.modRmt_keeps | apply State.modMem_keeps) | split

theorem failFill_keeps (status value cause : Nat) (s : State) (h : Keeps s0 s) : Keeps s0 (failFill status value cause s) := by
  unfold failFill
  try dsimp only
  repeat' first | with_reducible (first | exact h | assumption | intro _ | apply ite_keeps | apply State.modJob_keeps | apply complete_keeps | apply State.modMem_keeps | apply dropCore_keeps | apply zeroFilled_keeps | apply restoreFilled_keeps | apply fillImage_keeps) | split

theorem abortFill_keeps (cause : Nat) (s : State) (h : Keeps s0 s) : Keeps s0 (abortFill cause s) := by
  unfold abortFill
  try dsimp only
  repeat' first | with_reducible (first | exact h | assumption | intro _ | apply failFill_keeps)

theorem refuseFill_keeps (f : Fill) (status : Nat) (s : State) (h : Keeps s0 s) : Keeps s0 (refuseFill f status s) := by
  unfold refuseFill
  try dsimp only
  repeat' first | with_reducible (first | exact h | assumption | intro _ | apply complete_keeps | apply State.modMem_keeps | apply dropCore_keeps)

theorem fillSend_keeps (s : State) (h : Keeps s0 s) : Keeps s0 (fillSend s) := by
  unfold fillSend
  try dsimp only
  repeat' first | with_reducible (first | exact h | assumption | intro _ | apply coreRequest_keeps) | split

theorem finishFill_keeps (s : State) (h : Keeps s0 s) : Keeps s0 (finishFill s) := by
  unfold finishFill
  try dsimp only
  repeat' first | with_reducible (first | exact h | assumption | intro _ | apply ite_keeps | apply State.modJob_keeps | apply complete_keeps | apply State.modMem_keeps | apply abortFill_keeps | apply fillImage_keeps) | split

theorem fillOnward_keeps (total : Nat) (next : State → State) (s : State) (hnext : ∀ x0, Keeps s0 x0 → Keeps s0 (next x0)) (h : Keeps s0 s) : Keeps s0 (fillOnward total next s) := by
  unfold fillOnward
  try dsimp only
  repeat' first | with_reducible (first | exact h | assumption | intro _ | apply ite_keeps | apply hnext | apply State.modFill_keeps | apply fillSend_keeps) | split

theorem fillImage_keeps (s : State) (h : Keeps s0 s) : Keeps s0 (fillImage s) := by
  unfold fillImage
  try dsimp only
  repeat' first | with_reducible (first | exact h | assumption | intro _ | apply ite_keeps | apply State.modFill_keeps | apply fillSend_keeps | apply finishFill_keeps) | split

theorem takeFillHeader_keeps (f : Fill) (bs : List Byte) (s : State) (h : Keeps s0 s) : Keeps s0 (takeFillHeader f bs s) := by
  unfold takeFillHeader
  try dsimp only
  repeat' first | with_reducible (first | exact h | assumption | intro _ | apply ite_keeps | apply State.modMem_keeps | apply State.modFill_keeps | apply abortFill_keeps | apply refuseFill_keeps | apply fillSend_keeps)

theorem fillRanges_keeps (s : State) (h : Keeps s0 s) : Keeps s0 (fillRanges s) := by
  unfold fillRanges
  try dsimp only
  repeat' first | with_reducible (first | exact h | assumption | intro _ | apply ite_keeps | apply State.modFill_keeps | apply failFill_keeps | apply abortFill_keeps | apply fillSend_keeps) | split

theorem takeFillList_keeps (f : Fill) (bs : List Byte) (s : State) (h : Keeps s0 s) : Keeps s0 (takeFillList f bs s) := by
  unfold takeFillList
  try dsimp only
  repeat' first | with_reducible (first | exact h | assumption | intro _ | apply State.modFill_keeps | apply fillOnward_keeps | apply fillRanges_keeps)

theorem takeFillData_keeps (f : Fill) (bs : List Byte) (s : State) (h : Keeps s0 s) : Keeps s0 (takeFillData f bs s) := by
  unfold takeFillData
  try dsimp only
  repeat' first | with_reducible (first | exact h | assumption | intro _ | apply writeBytes_keeps | apply State.modFill_keeps | apply fillOnward_keeps | apply fillImage_keeps)

theorem takeFillImage_keeps (f : Fill) (bs : List Byte) (s : State) (h : Keeps s0 s) : Keeps s0 (takeFillImage f bs s) := by
  unfold takeFillImage
  exact fillOnward_keeps _ _ _ (fun u hu => finishFill_keeps u hu) (State.modFill_keeps _ _ (putImage_keeps_proj _ _ _ _ h))

theorem fillTake_keeps (bs : List Byte) (s : State) (h : Keeps s0 s) : Keeps s0 (fillTake bs s) := by
  unfold fillTake
  try dsimp only
  repeat' first | with_reducible (first | exact h | assumption | intro _ | apply takeFillHeader_keeps | apply takeFillList_keeps | apply takeFillData_keeps | apply takeFillImage_keeps) | split

theorem fillReply_keeps (cmd outcome : Nat) (bs : List Byte) (s : State) (h : Keeps s0 s) : Keeps s0 (fillReply cmd outcome bs s) := by
  unfold fillReply
  try dsimp only
  repeat' first | with_reducible (first | exact h | assumption | intro _ | apply ite_keeps | apply abortFill_keeps | apply fillTake_keeps) | split

theorem takeFill_keeps (c : InCmd) (s : State) (h : Keeps s0 s) : Keeps s0 (takeFill c s) := by
  unfold takeFill
  try dsimp only
  repeat' first | with_reducible (first | exact h | assumption | intro _ | apply ite_keeps | apply complete_keeps | apply State.modMem_keeps | apply fillSend_keeps | apply fillImage_keeps)

theorem coreDone_keeps (s : State) (h : Keeps s0 s) : Keeps s0 (coreDone s) := by
  unfold coreDone
  try dsimp only
  repeat' first | with_reducible (first | exact h | assumption | intro _ | apply ite_keeps | apply State.modRmt_keeps | apply ckptReply_keeps | apply fillReply_keeps | apply foldl_keeps | apply foldl_pair_keeps | apply foldl_triple_keeps) | split

theorem settleCore_keeps (s : State) (h : Keeps s0 s) : Keeps s0 (settleCore s) := by
  unfold settleCore
  try dsimp only
  repeat' first | with_reducible (first | exact h | assumption | intro _ | apply coreDone_keeps)

theorem execCheckpointOut_keeps (s : State) (h : Keeps s0 s) : OutKeeps s0 (execCheckpointOut s) := by
  unfold execCheckpointOut
  try dsimp only
  repeat' first | with_reducible (first | exact h | assumption | intro _ | apply out_next | apply hostStep_keeps | apply takeCheckpoint_keeps)

theorem ckptRunStep_keeps (id : Nat) (s : State) (h : Keeps s0 s) : OutKeeps s0 (ckptRunStep id s) := by
  unfold ckptRunStep
  try dsimp only
  repeat' first | with_reducible (first | exact h | assumption | intro _ | apply out_next | apply ite_keeps | apply ite_out | apply State.modCkpt_keeps | apply ckptSend_keeps | apply endCkpt_keeps | apply settleCore_keeps) | split

theorem execFillIn_keeps (s : State) (h : Keeps s0 s) : OutKeeps s0 (execFillIn s) := by
  unfold execFillIn
  try dsimp only
  repeat' first | with_reducible (first | exact h | assumption | intro _ | apply out_next | apply hostStep_keeps | apply takeFill_keeps | apply settleCore_keeps)

end Sys2Proof.Machine
end

