-- ==== Sys2Proof/Laws/KeepsReplies.lean ====
section
/-! SUPPORT. What the operations of Replies keep: the queue, OTP and fuses, and the canonical form of host memory. -/

namespace Sys2Proof.Machine

open Sys2Proof

variable {s0 : State}

set_option linter.unreachableTactic false
set_option linter.unusedTactic false

theorem finish_keeps (tag outcome : Nat) (data : List (Nat × List Byte)) (s : State) (h : Keeps s0 s) : Keeps s0 (finish tag outcome data s) := by
  unfold finish
  try dsimp only
  repeat' first | with_reducible (first | exact h | assumption | intro _ | apply ite_keeps | apply finishReq_keeps | apply claimFailed_keeps | apply endSlot_keeps | apply pumpCols_keeps | apply pumpAll_keeps | apply settleCore_keeps) | split

theorem unresponsive_keeps (tag : Nat) (s : State) (h : Keeps s0 s) : Keeps s0 (unresponsive tag s) := by
  unfold unresponsive
  try dsimp only
  repeat' first | with_reducible (first | exact h | assumption | intro _ | apply ite_keeps | apply sendHealth_keeps | apply State.modReq_keeps | apply timeoutEvent_keeps | apply slotUnresponsive_keeps | apply abortFill_keeps | apply settleCore_keeps | apply finish_keeps) | split

theorem e2eStep_keeps (tag : Fin 131072) (s : State) (h : Keeps s0 s) : OutKeeps s0 (e2eStep tag s) := by
  unfold e2eStep
  try dsimp only
  repeat' first | with_reducible (first | exact h | assumption | intro _ | apply out_next | apply ite_keeps | apply ite_out | apply rmtCount_keeps | apply State.modReq_keeps | apply sendReq_keeps | apply finish_keeps | apply unresponsive_keeps) | split

theorem deadStep_keeps (tag : Fin 131072) (s : State) (h : Keeps s0 s) : OutKeeps s0 (deadStep tag s) := by
  unfold deadStep
  try dsimp only
  repeat' first | with_reducible (first | exact h | assumption | intro _ | apply out_next | apply ite_keeps | apply ite_out | apply timeoutEvent_keeps | apply finish_keeps) | split

theorem replyStep_keeps (type : Nat) (body : Nat → Packet → State → State) (s : State) (hbody : ∀ x0 x1 x2, Keeps s0 x2 → Keeps s0 (body x0 x1 x2)) (h : Keeps s0 s) : OutKeeps s0 (replyStep type body s) := by
  unfold replyStep
  try dsimp only
  repeat' first | with_reducible (first | exact h | assumption | intro _ | apply out_next | apply ite_keeps | apply ite_out | apply hbody | apply State.modFab_keeps | apply fabCount_keeps | apply rmtCount_keeps) | split

theorem waitAgain_keeps (tag outcome : Nat) (s : State) (h : Keeps s0 s) : Keeps s0 (waitAgain tag outcome s) := by
  unfold waitAgain
  try dsimp only
  repeat' first | with_reducible (first | exact h | assumption | intro _ | apply State.modReq_keeps) | split

theorem endChannel_keeps (q : Req) (s : State) (h : Keeps s0 s) : Keeps s0 (endChannel q s) := by
  unfold endChannel
  try dsimp only
  repeat' first | with_reducible (first | exact h | assumption | intro _ | apply ite_keeps | apply State.modRmt_keeps | apply finish_keeps | apply foldl_keeps | apply foldl_pair_keeps | apply foldl_triple_keeps) | split

theorem takeOutcome_keeps (tag outcome : Nat) (data : List (Nat × List Byte)) (s : State) (h : Keeps s0 s) : Keeps s0 (takeOutcome tag outcome data s) := by
  unfold takeOutcome
  try dsimp only
  repeat' first | with_reducible (first | exact h | assumption | intro _ | apply ite_keeps | apply rmtCount_keeps | apply finish_keeps | apply waitAgain_keeps | apply endChannel_keeps) | split

theorem ackStep_keeps (s : State) (h : Keeps s0 s) : OutKeeps s0 (ackStep s) := by
  unfold ackStep
  try dsimp only
  repeat' first | with_reducible (first | exact h | assumption | intro _ | apply out_next | apply replyStep_keeps | apply takeOutcome_keeps)

theorem execAtomicResult_keeps (s : State) (h : Keeps s0 s) : OutKeeps s0 (execAtomicResult s) := by
  unfold execAtomicResult
  try dsimp only
  repeat' first | with_reducible (first | exact h | assumption | intro _ | apply out_next | apply ite_keeps | apply ite_out | apply replyStep_keeps | apply takeOutcome_keeps) | split

theorem fillCache_keeps (r addr : Nat) (bs : List Byte) (s : State) (h : Keeps s0 s) : Keeps s0 (fillCache r addr bs s) := by
  unfold fillCache
  try dsimp only
  repeat' first | with_reducible (first | exact h | assumption | intro _ | apply cacheFill_keeps | apply foldl_keeps | apply foldl_pair_keeps | apply foldl_triple_keeps)

theorem execLoadData_keeps (poison : List (Fin 64)) (s : State) (h : Keeps s0 s) : OutKeeps s0 (execLoadData poison s) := by
  unfold execLoadData
  try dsimp only
  repeat' first | with_reducible (first | exact h | assumption | intro _ | apply out_next | apply ite_keeps | apply ite_out | apply rmtCount_keeps | apply abortFill_keeps | apply settleCore_keeps | apply replyStep_keeps | apply takeOutcome_keeps | apply fillCache_keeps) | split

theorem execPegGrant_keeps (s : State) (h : Keeps s0 s) : OutKeeps s0 (execPegGrant s) := by
  unfold execPegGrant
  try dsimp only
  repeat' first | with_reducible (first | exact h | assumption | intro _ | apply out_next | apply ite_keeps | apply ite_out | apply rmtCount_keeps | apply gotGrant_keeps | apply pumpAll_keeps | apply slotGranted_keeps | apply replyStep_keeps) | split

end Sys2Proof.Machine
end

