-- ==== Sys2Proof/Laws/KeepsSettings.lean ====
section
/-! SUPPORT. What the operations of Settings keep: the queue, OTP and fuses, and the canonical form of host memory. -/

namespace Sys2Proof.Machine

open Sys2Proof

variable {s0 : State}

set_option linter.unreachableTactic false
set_option linter.unusedTactic false

theorem stageValue_keeps (t : Staging) (s : State) {y0} {s1 : State} (he : (stageValue t s) = (y0, s1)) (h : Keeps s0 s) : Keeps s0 s1 := by
  unfold stageValue at he
  try dsimp only at he
  repeat' split at he
  all_goals first | (cases he; repeat' first | with_reducible (first | exact h | assumption | intro _ | apply ite_keeps | apply State.modJob_keeps | apply State.modFab_keeps))

theorem stageValue_keeps_proj (t : Staging) (s : State) (h : Keeps s0 s) : Keeps s0 (stageValue t s).2 := by
  generalize he : (stageValue t s) = p
  obtain ⟨_, _⟩ := p
  exact stageValue_keeps t s he h

theorem takeStaging_keeps (c : InCmd) (s : State) (h : Keeps s0 s) : Keeps s0 (takeStaging c s) := by
  unfold takeStaging
  try dsimp only
  repeat' first | with_reducible (first | exact h | assumption | intro _ | apply ite_keeps | apply complete_keeps | (apply stageValue_keeps; assumption) | apply stageValue_keeps_proj) | split

theorem stageStep_keeps (ident : Nat) (s : State) (h : Keeps s0 s) : OutKeeps s0 (stageStep ident s) := by
  unfold stageStep
  try dsimp only
  repeat' first | with_reducible (first | exact h | assumption | intro _ | apply out_next | apply hostStep_keeps | apply takeStaging_keeps)

theorem execRouteTables_keeps (s : State) (h : Keeps s0 s) : OutKeeps s0 (execRouteTables s) := by
  unfold execRouteTables
  try dsimp only
  repeat' first | with_reducible (first | exact h | assumption | intro _ | apply out_next | apply stageStep_keeps)

theorem execWindowMap_keeps (s : State) (h : Keeps s0 s) : OutKeeps s0 (execWindowMap s) := by
  unfold execWindowMap
  try dsimp only
  repeat' first | with_reducible (first | exact h | assumption | intro _ | apply out_next | apply stageStep_keeps)

theorem execOpTarget_keeps (s : State) (h : Keeps s0 s) : OutKeeps s0 (execOpTarget s) := by
  unfold execOpTarget
  try dsimp only
  repeat' first | with_reducible (first | exact h | assumption | intro _ | apply out_next | apply stageStep_keeps)

theorem execFabricMode_keeps (s : State) (h : Keeps s0 s) : OutKeeps s0 (execFabricMode s) := by
  unfold execFabricMode
  try dsimp only
  repeat' first | with_reducible (first | exact h | assumption | intro _ | apply out_next | apply stageStep_keeps)

theorem execJobIdent_keeps (s : State) (h : Keeps s0 s) : OutKeeps s0 (execJobIdent s) := by
  unfold execJobIdent
  try dsimp only
  repeat' first | with_reducible (first | exact h | assumption | intro _ | apply out_next | apply stageStep_keeps)

theorem execBlockSpareMap_keeps (s : State) (h : Keeps s0 s) : OutKeeps s0 (execBlockSpareMap s) := by
  unfold execBlockSpareMap
  try dsimp only
  repeat' first | with_reducible (first | exact h | assumption | intro _ | apply out_next | apply stageStep_keeps)

theorem execColumnSpareMap_keeps (s : State) (h : Keeps s0 s) : OutKeeps s0 (execColumnSpareMap s) := by
  unfold execColumnSpareMap
  try dsimp only
  repeat' first | with_reducible (first | exact h | assumption | intro _ | apply out_next | apply stageStep_keeps)

theorem execFrameRetire_keeps (s : State) (h : Keeps s0 s) : OutKeeps s0 (execFrameRetire s) := by
  unfold execFrameRetire
  try dsimp only
  repeat' first | with_reducible (first | exact h | assumption | intro _ | apply out_next | apply stageStep_keeps)

theorem execBacksightRole_keeps (s : State) (h : Keeps s0 s) : OutKeeps s0 (execBacksightRole s) := by
  unfold execBacksightRole
  try dsimp only
  repeat' first | with_reducible (first | exact h | assumption | intro _ | apply out_next | apply stageStep_keeps)

theorem execDetCtrl_keeps (s : State) (h : Keeps s0 s) : OutKeeps s0 (execDetCtrl s) := by
  unfold execDetCtrl
  try dsimp only
  repeat' first | with_reducible (first | exact h | assumption | intro _ | apply out_next | apply stageStep_keeps)

theorem execLegWdog_keeps (s : State) (h : Keeps s0 s) : OutKeeps s0 (execLegWdog s) := by
  unfold execLegWdog
  try dsimp only
  repeat' first | with_reducible (first | exact h | assumption | intro _ | apply out_next | apply stageStep_keeps)

theorem execRetireFrame_keeps (s : State) (h : Keeps s0 s) : OutKeeps s0 (execRetireFrame s) := by
  unfold execRetireFrame
  try dsimp only
  repeat' first | with_reducible (first | exact h | assumption | intro _ | apply out_next | apply hostStep_keeps | apply takeStaging_keeps)

theorem stageRegister_keeps (ident value : Nat) (s : State) (h : Keeps s0 s) : Keeps s0 (stageRegister ident value s) := by
  unfold stageRegister
  try dsimp only
  repeat' first | with_reducible (first | exact h | assumption | intro _ | apply ite_keeps | apply State.modJob_keeps | (apply stageValue_keeps; assumption) | apply stageValue_keeps_proj) | split

theorem execDetCtrlWrite_keeps (value : W32) (s : State) (h : Keeps s0 s) : OutKeeps s0 (execDetCtrlWrite value s) := by
  unfold execDetCtrlWrite
  try dsimp only
  repeat' first | with_reducible (first | exact h | assumption | intro _ | apply out_next | apply ite_keeps | apply ite_out | apply stageRegister_keeps)

theorem execLegWdogWrite_keeps (value : W32) (s : State) (h : Keeps s0 s) : OutKeeps s0 (execLegWdogWrite value s) := by
  unfold execLegWdogWrite
  try dsimp only
  repeat' first | with_reducible (first | exact h | assumption | intro _ | apply out_next | apply ite_keeps | apply ite_out | apply stageRegister_keeps)

theorem reclassify_keeps (s : State) (h : Keeps s0 s) : Keeps s0 (reclassify s) := by
  unfold reclassify
  try dsimp only
  repeat' first | with_reducible (first | exact h | assumption | intro _ | apply State.modPos_keeps | apply foldl_keeps | apply foldl_pair_keeps | apply foldl_triple_keeps)

theorem applyRoutes_keeps (b : List Byte) (s : State) (h : Keeps s0 s) : Keeps s0 (applyRoutes b s) := by
  unfold applyRoutes
  try dsimp only
  repeat' first | with_reducible (first | exact h | assumption | intro _ | apply State.modFab_keeps | apply reclassify_keeps)

theorem clearOrdering_keeps (s : State) (h : Keeps s0 s) : Keeps s0 (clearOrdering s) := by
  unfold clearOrdering
  try dsimp only
  repeat' first | with_reducible (first | exact h | assumption | intro _ | apply State.modRmt_keeps)

theorem jobEnergy_keeps (tag : Nat) (s : State) (h : Keeps s0 s) : Keeps s0 (jobEnergy tag s) := by
  unfold jobEnergy
  try dsimp only
  repeat' first | with_reducible (first | exact h | assumption | intro _ | apply State.modPwr_keeps)

theorem applyIdent_keeps (b : List Byte) (s : State) (h : Keeps s0 s) : Keeps s0 (applyIdent b s) := by
  unfold applyIdent
  try dsimp only
  repeat' first | with_reducible (first | exact h | assumption | intro _ | apply ite_keeps | apply State.modJob_keeps | apply resetWindows_keeps | apply State.modMem_keeps | apply clearOrdering_keeps | apply jobEnergy_keeps)

theorem applyBlockMap_keeps (b : List Byte) (s : State) (h : Keeps s0 s) : Keeps s0 (applyBlockMap b s) := by
  unfold applyBlockMap
  try dsimp only
  repeat' first | with_reducible (first | exact h | assumption | intro _ | apply ite_keeps | apply spareExhausted_keeps | apply State.modBlks_keeps | apply foldl_keeps | apply foldl_pair_keeps | apply foldl_triple_keeps) | split

theorem applyColumnMap_keeps (b : List Byte) (s : State) (h : Keeps s0 s) : Keeps s0 (applyColumnMap b s) := by
  unfold applyColumnMap
  try dsimp only
  repeat' first | with_reducible (first | exact h | assumption | intro _ | apply spareExhausted_keeps | apply State.modBlks_keeps | apply foldl_keeps | apply foldl_pair_keeps | apply foldl_triple_keeps)

theorem applyTee_keeps (b : List Byte) (s : State) (h : Keeps s0 s) : Keeps s0 (applyTee b s) := by
  unfold applyTee
  try dsimp only
  repeat' first | with_reducible (first | exact h | assumption | intro _ | apply State.modMem_keeps) | split

theorem applySetting_keeps (t : Staging) (s : State) (h : Keeps s0 s) : Keeps s0 (applySetting t s) := by
  unfold applySetting
  try dsimp only
  repeat' first | with_reducible (first | exact h | assumption | intro _ | apply State.modJob_keeps | apply setTarget_keeps | apply State.modFab_keeps | apply frameOp_keeps | apply applyEntry_keeps | apply applyRoutes_keeps | apply applyIdent_keeps | apply applyBlockMap_keeps | apply applyColumnMap_keeps | apply applyTee_keeps | apply foldl_keeps | apply foldl_pair_keeps | apply foldl_triple_keeps) | split

theorem applyOwnCols_keeps (t : Option Nat) (s : State) (h : Keeps s0 s) : Keeps s0 (applyOwnCols t s) := by
  unfold applyOwnCols
  try dsimp only
  repeat' first | with_reducible (first | exact h | assumption | intro _ | apply State.modJob_keeps | apply State.modBlks_keeps | apply foldl_keeps | apply foldl_pair_keeps | apply foldl_triple_keeps)

theorem applyStaged_keeps (t : Option Nat) (s : State) (h : Keeps s0 s) : Keeps s0 (applyStaged t s) := by
  unfold applyStaged
  try dsimp only
  repeat' first | with_reducible (first | exact h | assumption | intro _ | apply applySetting_keeps | apply foldl_keeps | apply foldl_pair_keeps | apply foldl_triple_keeps) | split

theorem applyStagedWindows_keeps (t : Option Nat) (s : State) (h : Keeps s0 s) : Keeps s0 (applyStagedWindows t s) := by
  unfold applyStagedWindows
  try dsimp only
  repeat' first | with_reducible (first | exact h | assumption | intro _ | apply State.modJob_keeps | apply applySetting_keeps | apply applyOwnCols_keeps) | split

end Sys2Proof.Machine
end

