-- ==== Sys2Proof/Laws/KeepsPeers.lean ====
section
/-! SUPPORT. What the operations of Peers keep: the queue, OTP and fuses, and the canonical form of host memory. -/

namespace Sys2Proof.Machine

open Sys2Proof

variable {s0 : State}

set_option linter.unreachableTactic false
set_option linter.unusedTactic false

theorem State.modIdn_keeps (f : Ident → Ident) (s : State) (ho : ∀ d, (f d).otp = d.otp) (hv : ∀ d, (f d).svnFuses = d.svnFuses)
    (hr : ∀ d, (f d).revoked = d.revoked) (h : Keeps s0 s) : Keeps s0 (s.modIdn f) :=
  h.idn rfl (ho _) (hv _) (hr _) rfl

theorem drawEntropy_keeps (s : State) {y0} {s1 : State} (he : (drawEntropy s) = (y0, s1)) (h : Keeps s0 s) : Keeps s0 s1 := by
  unfold drawEntropy at he
  try dsimp only at he
  repeat' split at he
  all_goals first | (cases he; repeat' first | with_reducible (first | exact h | assumption | intro _ | apply with_free_keeps))

theorem drawEntropy_keeps_proj (s : State) (h : Keeps s0 s) : Keeps s0 (drawEntropy s).2 := by
  generalize he : (drawEntropy s) = p
  obtain ⟨_, _⟩ := p
  exact drawEntropy_keeps s he h

theorem dropIdle_keeps (s : State) (h : Keeps s0 s) : Keeps s0 (dropIdle s) := by
  unfold dropIdle
  try dsimp only
  repeat' first | with_reducible (first | exact h | assumption | intro _ | apply State.modFab_keeps)

theorem mgtStep_keeps (code : Nat) (ok : List Byte → Bool) (body : Carried → List Byte → State → State) (s : State) (hbody : ∀ x0 x1 x2, Keeps s0 x2 → Keeps s0 (body x0 x1 x2)) (h : Keeps s0 s) : OutKeeps s0 (mgtStep code ok body s) := by
  unfold mgtStep
  try dsimp only
  repeat' first | with_reducible (first | exact h | assumption | intro _ | apply out_next | apply ite_keeps | apply ite_out | apply hbody | apply State.modFab_keeps | apply fabCount_keeps | apply dropIdle_keeps) | split

theorem sendHello_keeps (key : Nat) (s : State) (h : Keeps s0 s) : Keeps s0 (sendHello key s) := by
  unfold sendHello
  try dsimp only
  repeat' first | with_reducible (first | exact h | assumption | intro _ | apply sendLocal_keeps)

theorem execHelloTimer_keeps (port : Fin 16) (line : Fin 34) (s : State) (h : Keeps s0 s) : OutKeeps s0 (execHelloTimer port line s) := by
  unfold execHelloTimer
  try dsimp only
  repeat' first | with_reducible (first | exact h | assumption | intro _ | apply out_next | apply ite_keeps | apply ite_out | apply sendHello_keeps)

theorem takeHello_keeps (c : Carried) (b : List Byte) (s : State) (h : Keeps s0 s) : Keeps s0 (takeHello c b s) := by
  unfold takeHello
  try dsimp only
  repeat' first | with_reducible (first | exact h | assumption | intro _ | apply ite_keeps | apply raiseEvent_keeps | apply State.modPeer_keeps)

theorem execHello_keeps (s : State) (h : Keeps s0 s) : OutKeeps s0 (execHello s) := by
  unfold execHello
  try dsimp only
  repeat' first | with_reducible (first | exact h | assumption | intro _ | apply out_next | apply mgtStep_keeps | apply takeHello_keeps)

theorem execChallengeSend_keeps (port : Fin 16) (line : Fin 34) (s : State) (h : Keeps s0 s) : OutKeeps s0 (execChallengeSend port line s) := by
  unfold execChallengeSend
  try dsimp only
  repeat' first | with_reducible (first | exact h | assumption | intro _ | apply out_next | apply ite_keeps | apply ite_out | apply State.modPeer_keeps | apply sendLocal_keeps | (apply drawEntropy_keeps; assumption) | apply drawEntropy_keeps_proj) | split

theorem answerChallenge_keeps (c : Carried) (b : List Byte) (s : State) (h : Keeps s0 s) : Keeps s0 (answerChallenge c b s) := by
  unfold answerChallenge
  try dsimp only
  repeat' first | with_reducible (first | exact h | assumption | intro _ | apply sendLocal_keeps)

theorem execChallenge_keeps (s : State) (h : Keeps s0 s) : OutKeeps s0 (execChallenge s) := by
  unfold execChallenge
  try dsimp only
  repeat' first | with_reducible (first | exact h | assumption | intro _ | apply out_next | apply mgtStep_keeps | apply answerChallenge_keeps)

theorem authFails_keeps (key cause : Nat) (s : State) (h : Keeps s0 s) : Keeps s0 (authFails key cause s) := by
  unfold authFails
  try dsimp only
  repeat' first | with_reducible (first | exact h | assumption | intro _ | apply raiseEvent_keeps | apply State.modPeer_keeps)

theorem execChallengeResp_keeps (s : State) (h : Keeps s0 s) : OutKeeps s0 (execChallengeResp s) := by
  unfold execChallengeResp
  try dsimp only
  repeat' first | with_reducible (first | exact h | assumption | intro _ | apply out_next | apply ite_keeps | apply ite_out | apply State.modPeer_keeps | apply mgtStep_keeps | apply authFails_keeps)

theorem execAuthTimeout_keeps (port : Fin 16) (line : Fin 34) (s : State) (h : Keeps s0 s) : OutKeeps s0 (execAuthTimeout port line s) := by
  unfold execAuthTimeout
  try dsimp only
  repeat' first | with_reducible (first | exact h | assumption | intro _ | apply out_next | apply ite_keeps | apply ite_out | apply authFails_keeps)

theorem execPeerLostTimeout_keeps (port : Fin 16) (line : Fin 34) (s : State) (h : Keeps s0 s) : OutKeeps s0 (execPeerLostTimeout port line s) := by
  unfold execPeerLostTimeout
  try dsimp only
  repeat' first | with_reducible (first | exact h | assumption | intro _ | apply out_next | apply ite_keeps | apply ite_out | apply raiseEvent_keeps | apply State.modPeer_keeps)

end Sys2Proof.Machine
end

