-- ==== Sys2Proof/Laws/KeepsStation.lean ====
section
/-! SUPPORT. What the operations of Station keep: the queue, OTP and fuses, and the canonical form of host memory. -/

namespace Sys2Proof.Machine

open Sys2Proof

variable {s0 : State}

set_option linter.unreachableTactic false
set_option linter.unusedTactic false

theorem stopClocks_keeps (s : State) (h : Keeps s0 s) : Keeps s0 (stopClocks s) := by
  unfold stopClocks
  try dsimp only
  repeat' first | with_reducible (first | exact h | assumption | intro _ | apply State.modPwr_keeps | apply State.modReg_keeps | apply foldl_keeps | apply foldl_pair_keeps | apply foldl_triple_keeps)

theorem startPark_keeps (s : State) (h : Keeps s0 s) : Keeps s0 (startPark s) := by
  unfold startPark
  try dsimp only
  repeat' first | with_reducible (first | exact h | assumption | intro _ | apply State.modPwr_keeps | apply stopClocks_keeps)

theorem enterReady_keeps (s : State) (h : Keeps s0 s) : Keeps s0 (enterReady s) := by
  unfold enterReady
  try dsimp only
  repeat' first | with_reducible (first | exact h | assumption | intro _ | apply ite_keeps | apply State.modPwr_keeps | apply State.modOe_keeps | apply with_dev_keeps)

theorem bsReport_keeps (kind regions station : Nat) (s : State) (h : Keeps s0 s) : Keeps s0 (bsReport kind regions station s) := by
  unfold bsReport
  try dsimp only
  repeat' first | with_reducible (first | exact h | assumption | intro _ | apply ite_keeps | apply sendFm_keeps) | split

theorem stopBlocks_keeps (s : State) (h : Keeps s0 s) : Keeps s0 (stopBlocks s) := by
  unfold stopBlocks
  try dsimp only
  repeat' first | with_reducible (first | exact h | assumption | intro _ | apply State.modBlks_keeps) | split

theorem abortCkpts_keeps (s : State) (h : Keeps s0 s) : Keeps s0 (abortCkpts s) := by
  unfold abortCkpts
  try dsimp only
  repeat' first | with_reducible (first | exact h | assumption | intro _ | apply dropCore_keeps | apply endCkpt_keeps | apply foldl_keeps | apply foldl_pair_keeps | apply foldl_triple_keeps)

theorem abortDmas_keeps (s : State) (h : Keeps s0 s) : Keeps s0 (abortDmas s) := by
  unfold abortDmas
  try dsimp only
  repeat' first | with_reducible (first | exact h | assumption | intro _ | apply State.modHost_keeps | apply complete_keeps | apply foldl_keeps | apply foldl_pair_keeps | apply foldl_triple_keeps)

theorem endRun_keeps (status value : Nat) (s : State) (h : Keeps s0 s) : Keeps s0 (endRun status value s) := by
  unfold endRun
  try dsimp only
  repeat' first | with_reducible (first | exact h | assumption | intro _ | apply ite_keeps | apply State.modJob_keeps | apply complete_keeps | apply State.modRmt_keeps | apply State.modMem_keeps | apply stopClocks_keeps | apply startPark_keeps | apply enterReady_keeps | apply stopBlocks_keeps | apply abortCkpts_keeps | apply abortDmas_keeps) | split

theorem abortRemote_keeps (s : State) (h : Keeps s0 s) : Keeps s0 (abortRemote s) := by
  unfold abortRemote
  try dsimp only
  repeat' first | with_reducible (first | exact h | assumption | intro _ | apply ite_keeps | apply State.modRmt_keeps | apply settleCore_keeps | apply clearOrdering_keeps | apply foldl_keeps | apply foldl_pair_keeps | apply foldl_triple_keeps) | split

theorem endJob_keeps (status value : Nat) (s : State) (h : Keeps s0 s) : Keeps s0 (endJob status value s) := by
  unfold endJob
  try dsimp only
  repeat' first | with_reducible (first | exact h | assumption | intro _ | apply ite_keeps | apply State.modJob_keeps | apply State.modBlks_keeps | apply cacheClear_keeps | apply resetWindows_keeps | apply abortCols_keeps | apply jobEnergy_keeps | apply bsReport_keeps | apply abortCkpts_keeps | apply endRun_keeps | apply abortRemote_keeps)

theorem fenceJob_keeps (status value : Nat) (s : State) (h : Keeps s0 s) : Keeps s0 (fenceJob status value s) := by
  unfold fenceJob
  try dsimp only
  repeat' first | with_reducible (first | exact h | assumption | intro _ | apply State.modMem_keeps | apply endJob_keeps)

theorem takeFence_keeps (c : InCmd) (s : State) (h : Keeps s0 s) : Keeps s0 (takeFence c s) := by
  unfold takeFence
  try dsimp only
  repeat' first | with_reducible (first | exact h | assumption | intro _ | apply ite_keeps | apply complete_keeps | apply fenceJob_keeps)

theorem execFenceJob_keeps (s : State) (h : Keeps s0 s) : OutKeeps s0 (execFenceJob s) := by
  unfold execFenceJob
  try dsimp only
  repeat' first | with_reducible (first | exact h | assumption | intro _ | apply out_next | apply hostStep_keeps | apply takeFence_keeps)

theorem readTraverse_keeps (addr len off n : Nat) (s : State) {y0} {s1 : State} (he : (readTraverse addr len off n s) = (y0, s1)) (h : Keeps s0 s) : Keeps s0 s1 := by
  unfold readTraverse at he
  try dsimp only at he
  repeat' split at he
  all_goals first | (with_reducible apply readBytes_keeps <;> assumption) | (cases he; repeat' first | with_reducible (first | exact h | assumption | intro _ | apply ite_keeps | (apply readBytes_keeps; assumption) | apply readBytes_keeps_proj) | split)

theorem readTraverse_keeps_proj (addr len off n : Nat) (s : State) (h : Keeps s0 s) : Keeps s0 (readTraverse addr len off n s).2 := by
  generalize he : (readTraverse addr len off n s) = p
  obtain ⟨_, _⟩ := p
  exact readTraverse_keeps addr len off n s he h

theorem parseTraverse_keeps (addr len : Nat) (parts : TraverseParts) (s : State) {y0} {s1 : State} (he : (parseTraverse addr len parts s) = (y0, s1)) (h : Keeps s0 s) : Keeps s0 s1 := by
  unfold parseTraverse at he
  try dsimp only at he
  repeat' split at he
  all_goals first | (with_reducible apply readTraverse_keeps <;> assumption) | (cases he; repeat' first | with_reducible (first | exact h | assumption | intro _ | (apply readTraverse_keeps; assumption) | apply readTraverse_keeps_proj) | split)

theorem parseTraverse_keeps_proj (addr len : Nat) (parts : TraverseParts) (s : State) (h : Keeps s0 s) : Keeps s0 (parseTraverse addr len parts s).2 := by
  generalize he : (parseTraverse addr len parts s) = p
  obtain ⟨_, _⟩ := p
  exact parseTraverse_keeps addr len parts s he h

theorem installTraverse_keeps (t : Traverse) (s : State) (h : Keeps s0 s) : Keeps s0 (installTraverse t s) := by
  unfold installTraverse
  try dsimp only
  repeat' first | with_reducible (first | exact h | assumption | intro _ | apply State.modJob_keeps | apply State.modBlks_keeps | apply cacheClear_keeps | apply State.modMem_keeps | apply fillImage_keeps) | split

theorem finishLoad_keeps (s : State) (h : Keeps s0 s) : Keeps s0 (finishLoad s) := by
  unfold finishLoad
  try dsimp only
  repeat' first | with_reducible (first | exact h | assumption | intro _ | apply ite_keeps | apply State.modJob_keeps | apply complete_keeps | apply installTraverse_keeps) | split

theorem startMargin_keeps (port line : Nat) (s : State) (h : Keeps s0 s) : Keeps s0 (startMargin port line s) := by
  unfold startMargin
  try dsimp only
  repeat' first | with_reducible (first | exact h | assumption | intro _ | apply State.modOe_keeps | apply sendLocal_keeps)

theorem takeLoad_keeps (parts : TraverseParts) (c : InCmd) (s : State) (h : Keeps s0 s) : Keeps s0 (takeLoad parts c s) := by
  unfold takeLoad
  try dsimp only
  repeat' first | with_reducible (first | exact h | assumption | intro _ | apply ite_keeps | apply State.modJob_keeps | apply complete_keeps | apply leaveKeepalive_keeps | (apply parseTraverse_keeps; assumption) | apply parseTraverse_keeps_proj | apply finishLoad_keeps | apply startMargin_keeps | apply foldl_keeps | apply foldl_pair_keeps | apply foldl_triple_keeps) | split

theorem execLoadTraverse_keeps (parts : TraverseParts) (errs : List ReadErr) (s : State) (h : Keeps s0 s) : OutKeeps s0 (execLoadTraverse parts errs s) := by
  unfold execLoadTraverse
  try dsimp only
  repeat' first | with_reducible (first | exact h | assumption | intro _ | apply out_next | apply hostStep_keeps | apply meeting_keeps | apply takeLoad_keeps)

theorem moveBlock_keeps (old : Table Block) (b p q : Nat) (s : State) (h : Keeps s0 s) : Keeps s0 (moveBlock old b p q s) := by
  unfold moveBlock
  try dsimp only
  repeat' first | with_reducible (first | exact h | assumption | intro _ | apply ite_keeps | apply record_keeps | apply State.modBlk_keeps | apply foldl_keeps | apply foldl_pair_keeps | apply foldl_triple_keeps) | split

theorem moveBlocks_keeps (s : State) (h : Keeps s0 s) : Keeps s0 (moveBlocks s) := by
  unfold moveBlocks
  try dsimp only
  repeat' first | with_reducible (first | exact h | assumption | intro _ | apply ite_keeps | apply State.modBlks_keeps | apply State.modRmt_keeps | apply moveBlock_keeps | apply foldl_keeps | apply foldl_pair_keeps | apply foldl_triple_keeps) | split

theorem noteUnread_keeps (errs : List ReadErr) (s : State) (h : Keeps s0 s) : Keeps s0 (noteUnread errs s) := by
  unfold noteUnread
  try dsimp only
  repeat' first | with_reducible (first | exact h | assumption | intro _ | apply State.modBlk_keeps | apply foldl_keeps | apply foldl_pair_keeps | apply foldl_triple_keeps) | split

theorem moving_keeps (errs : List ReadErr) (f : State → Out) (s : State) (hf : ∀ x0, Keeps s0 x0 → OutKeeps s0 (f x0)) (h : Keeps s0 s) : OutKeeps s0 (moving errs f s) := by
  unfold moving
  try dsimp only
  repeat' first | with_reducible (first | exact h | assumption | intro _ | apply out_next | apply hf | apply meeting_keeps | apply noteUnread_keeps)

theorem dispatchBlock_keeps (t : Traverse) (l : Leg) (b : Nat) (s : State) (h : Keeps s0 s) : Keeps s0 (dispatchBlock t l b s) := by
  unfold dispatchBlock
  try dsimp only
  repeat' first | with_reducible (first | exact h | assumption | intro _ | apply State.modPwr_keeps | apply requestWake_keeps | apply State.modBlk_keeps | apply beginTask_keeps) | split

theorem startLeg_keeps (j : Nat) (s : State) (h : Keeps s0 s) : Keeps s0 (startLeg j s) := by
  unfold startLeg
  try dsimp only
  repeat' first | with_reducible (first | exact h | assumption | intro _ | apply State.modJob_keeps | apply State.modFab_keeps | apply State.modCol_keeps | apply moveBlocks_keeps | apply dispatchBlock_keeps | apply foldl_keeps | apply foldl_pair_keeps | apply foldl_triple_keeps) | split

theorem stepEight_keeps (j : Nat) (s : State) (h : Keeps s0 s) : Keeps s0 (stepEight j s) := by
  unfold stepEight
  try dsimp only
  repeat' first | with_reducible (first | exact h | assumption | intro _ | apply ite_keeps | apply State.modJob_keeps | apply startPark_keeps | apply endRun_keeps | apply startLeg_keeps) | split

theorem packageTables_keeps (j : Nat) (s : State) (h : Keeps s0 s) : Keeps s0 (packageTables j s) := by
  unfold packageTables
  try dsimp only
  repeat' first | with_reducible (first | exact h | assumption | intro _ | apply applyMap_keeps) | split

theorem startRun_keeps (cmd base buf slots seed : Nat) (dev : Dev) (s : State) (h : Keeps s0 s) : Keeps s0 (startRun cmd base buf slots seed dev s) := by
  unfold startRun
  try dsimp only
  repeat' first | with_reducible (first | exact h | assumption | intro _ | apply State.modJob_keeps | apply leaveKeepalive_keeps | apply doMoves_keeps | apply applyStaged_keeps | apply applyStagedWindows_keeps | apply stepEight_keeps | apply packageTables_keeps | apply with_dev_keeps) | split

theorem takeRun_keeps (c : InCmd) (s : State) (h : Keeps s0 s) : Keeps s0 (takeRun c s) := by
  unfold takeRun
  try dsimp only
  repeat' first | with_reducible (first | exact h | assumption | intro _ | apply ite_keeps | apply complete_keeps | apply startRun_keeps) | split

theorem execRun_keeps (errs : List ReadErr) (s : State) (h : Keeps s0 s) : OutKeeps s0 (execRun errs s) := by
  unfold execRun
  try dsimp only
  repeat' first | with_reducible (first | exact h | assumption | intro _ | apply out_next | apply hostStep_keeps | apply moving_keeps | apply takeRun_keeps)

theorem noteMarker_keeps (m : List Byte) (s : State) (h : Keeps s0 s) : Keeps s0 (noteMarker m s) := by
  unfold noteMarker
  try dsimp only
  repeat' first | with_reducible (first | exact h | assumption | intro _ | apply State.modJob_keeps)

theorem teeMarker_keeps (dst : Nat) (fm : Bool) (m : List Byte) (s : State) (h : Keeps s0 s) : Keeps s0 (teeMarker dst fm m s) := by
  unfold teeMarker
  try dsimp only
  repeat' first | with_reducible (first | exact h | assumption | intro _ | apply ite_keeps | apply teeCopy_keeps)

theorem tellReached_keeps (m : List Byte) (s : State) (h : Keeps s0 s) : Keeps s0 (tellReached m s) := by
  unfold tellReached
  try dsimp only
  repeat' first | with_reducible (first | exact h | assumption | intro _ | apply sendFm_keeps | apply teeMarker_keeps)

theorem sendReached_keeps (closed : Bool) (m : List Byte) (s : State) (h : Keeps s0 s) : Keeps s0 (sendReached closed m s) := by
  unfold sendReached
  try dsimp only
  repeat' first | with_reducible (first | exact h | assumption | intro _ | apply ite_keeps | apply State.modJob_keeps | apply sendMgt_keeps | apply noteMarker_keeps | apply teeMarker_keeps | apply tellReached_keeps | apply foldl_keeps | apply foldl_pair_keeps | apply foldl_triple_keeps)

theorem sendCong_keeps (req size k off n : Nat) (s : State) (h : Keeps s0 s) : Keeps s0 (sendCong req size k off n s) := by
  induction k generalizing off n s with
  | zero => exact h
  | succ k ih =>
    unfold sendCong
    split
    · exact h
    · exact ih _ _ _ (sendFm_keeps _ _ _ h)

theorem writeCong_keeps (n tag : Nat) (s : State) (h : Keeps s0 s) : Keeps s0 (writeCong n tag s) := by
  unfold writeCong
  try dsimp only
  repeat' first | with_reducible (first | exact h | assumption | intro _ | apply ite_keeps | apply State.modFab_keeps | apply sendFm_keeps | apply sendCong_keeps)

theorem sendDigests_keeps (s : State) (h : Keeps s0 s) : Keeps s0 (sendDigests s) := by
  unfold sendDigests
  try dsimp only
  repeat' first | with_reducible (first | exact h | assumption | intro _ | apply ite_keeps | apply sendMgt_keeps)

theorem compareDigests_keeps (s : State) (h : Keeps s0 s) : Keeps s0 (compareDigests s) := by
  unfold compareDigests
  try dsimp only
  repeat' first | with_reducible (first | exact h | assumption | intro _ | apply ite_keeps | apply State.modMem_keeps | apply bsReport_keeps | apply endRun_keeps | apply fenceJob_keeps | apply foldl_keeps | apply foldl_pair_keeps | apply foldl_triple_keeps) | split

theorem promote_keeps (n : Nat) (s : State) (h : Keeps s0 s) : Keeps s0 (promote n s) := by
  unfold promote
  split
  · exact h
  · refine State.modJob_keeps _ (with_dev_keeps _ (State.modMem_keeps _ (State.modHost_keeps _ ?_)))
    exact complete_keeps _ _ _ _ h

theorem release_keeps (n : Nat) (s : State) (h : Keeps s0 s) : Keeps s0 (release n s) := by
  unfold release
  try dsimp only
  repeat' first | with_reducible (first | exact h | assumption | intro _ | apply State.modFab_keeps | apply State.modMem_keeps | apply endRun_keeps | apply fenceJob_keeps)

theorem qualify_keeps (n : Nat) (s : State) (h : Keeps s0 s) : Keeps s0 (qualify n s) := by
  unfold qualify
  try dsimp only
  repeat' first | with_reducible (first | exact h | assumption | intro _ | apply State.modMem_keeps | apply bsReport_keeps | apply endRun_keeps | apply fenceJob_keeps)

theorem sendArrived_keeps (n : Nat) (s : State) (h : Keeps s0 s) : Keeps s0 (sendArrived n s) := by
  unfold sendArrived
  try dsimp only
  repeat' first | with_reducible (first | exact h | assumption | intro _ | apply ite_keeps | apply State.modJob_keeps | apply sendFm_keeps | apply noteMarker_keeps)

theorem sealLeg_keeps (closed : Bool) (r : Run) (s : State) (h : Keeps s0 s) : Keeps s0 (sealLeg closed r s) := by
  unfold sealLeg
  try dsimp only
  repeat' first | with_reducible (first | exact h | assumption | intro _ | apply ite_keeps | apply State.modJob_keeps | apply flushAll_keeps)

theorem stepSeven_keeps (n settings : Nat) (s : State) (h : Keeps s0 s) : Keeps s0 (stepSeven n settings s) := by
  unfold stepSeven
  try dsimp only
  repeat' first | with_reducible (first | exact h | assumption | intro _ | apply ite_keeps | apply State.modJob_keeps | apply writeStationRecord_keeps | apply sendHealth_keeps | apply sendReached_keeps | apply writeCong_keeps | apply sendDigests_keeps | apply compareDigests_keeps) | split

theorem leaveStation_keeps (s : State) (h : Keeps s0 s) : Keeps s0 (leaveStation s) := by
  unfold leaveStation
  try dsimp only
  repeat' first | with_reducible (first | exact h | assumption | intro _ | apply ite_keeps | apply stepEight_keeps) | split

theorem toNext_keeps (n settings : Nat) (s : State) (h : Keeps s0 s) : Keeps s0 (toNext n settings s) := by
  unfold toNext
  try dsimp only
  repeat' first | with_reducible (first | exact h | assumption | intro _ | apply ite_keeps | apply State.modJob_keeps | apply doMoves_keeps | apply cacheClear_keeps | apply applyStagedWindows_keeps | apply packageTables_keeps | apply stepSeven_keeps) | split

theorem passStation_keeps (n : Nat) (s : State) (h : Keeps s0 s) : Keeps s0 (passStation n s) := by
  unfold passStation
  try dsimp only
  repeat' first | with_reducible (first | exact h | assumption | intro _ | apply ite_keeps | apply bringRation_keeps | apply doMoves_keeps | apply applyStaged_keeps | apply sendHello_keeps | apply promote_keeps | apply release_keeps | apply qualify_keeps | apply leaveStation_keeps | apply toNext_keeps | apply foldl_keeps | apply foldl_pair_keeps | apply foldl_triple_keeps) | split

theorem execStationReach_keeps (errs : List ReadErr) (s : State) (h : Keeps s0 s) : OutKeeps s0 (execStationReach errs s) := by
  unfold execStationReach
  try dsimp only
  repeat' first | with_reducible (first | exact h | assumption | intro _ | apply out_next | apply ite_keeps | apply ite_out | apply moving_keeps | apply sendArrived_keeps | apply sealLeg_keeps | apply leaveStation_keeps | apply passStation_keeps) | split

theorem execArrivedRepeat_keeps (s : State) (h : Keeps s0 s) : OutKeeps s0 (execArrivedRepeat s) := by
  unfold execArrivedRepeat
  try dsimp only
  repeat' first | with_reducible (first | exact h | assumption | intro _ | apply out_next | apply ite_keeps | apply ite_out | apply sendArrived_keeps) | split

theorem execDrainCheck_keeps (s : State) (h : Keeps s0 s) : OutKeeps s0 (execDrainCheck s) := by
  unfold execDrainCheck
  try dsimp only
  repeat' first | with_reducible (first | exact h | assumption | intro _ | apply out_next | apply ite_keeps | apply ite_out | apply State.modJob_keeps | apply mgtStep_keeps) | split

theorem execDrained_keeps (s : State) (h : Keeps s0 s) : OutKeeps s0 (execDrained s) := by
  unfold execDrained
  try dsimp only
  repeat' first | with_reducible (first | exact h | assumption | intro _ | apply out_next | apply ite_keeps | apply ite_out | apply State.modJob_keeps | apply sendFm_keeps | apply noteMarker_keeps) | split

theorem takeSwap_keeps (b : List Byte) (s : State) (h : Keeps s0 s) : Keeps s0 (takeSwap b s) := by
  unfold takeSwap
  try dsimp only
  repeat' first | with_reducible (first | exact h | assumption | intro _ | apply ite_keeps | apply tellReached_keeps | apply passStation_keeps)

theorem execSwap_keeps (errs : List ReadErr) (s : State) (h : Keeps s0 s) : OutKeeps s0 (execSwap errs s) := by
  unfold execSwap
  try dsimp only
  repeat' first | with_reducible (first | exact h | assumption | intro _ | apply out_next | apply mgtStep_keeps | apply moving_keeps | apply takeSwap_keeps)

theorem execStationMarker_keeps (s : State) (h : Keeps s0 s) : OutKeeps s0 (execStationMarker s) := by
  unfold execStationMarker
  try dsimp only
  repeat' first | with_reducible (first | exact h | assumption | intro _ | apply out_next | apply State.modFab_keeps | apply mgtStep_keeps)

theorem execLegOverdue_keeps (s : State) (h : Keeps s0 s) : OutKeeps s0 (execLegOverdue s) := by
  unfold execLegOverdue
  try dsimp only
  repeat' first | with_reducible (first | exact h | assumption | intro _ | apply out_next | apply ite_keeps | apply ite_out | apply State.modJob_keeps | apply raiseEvent_keeps | apply sendFm_keeps) | split

theorem execBsDigest_keeps (s : State) (h : Keeps s0 s) : OutKeeps s0 (execBsDigest s) := by
  unfold execBsDigest
  try dsimp only
  repeat' first | with_reducible (first | exact h | assumption | intro _ | apply out_next | apply ite_keeps | apply ite_out | apply State.modMem_keeps | apply mgtStep_keeps | apply compareDigests_keeps | apply leaveStation_keeps) | split

end Sys2Proof.Machine
end

