-- ==== Sys2Proof/Laws/KeepsHostCmds.lean ====
section
/-! SUPPORT. What the operations of HostCmds keep: the queue, OTP and fuses, and the canonical form of host memory. -/

namespace Sys2Proof.Machine

open Sys2Proof

variable {s0 : State}

set_option linter.unreachableTactic false
set_option linter.unusedTactic false

theorem moveH2d_keeps (c : InCmd) (s : State) {y0 y1} {s1 : State} (he : (moveH2d c s) = (y0, y1, s1)) (h : Keeps s0 s) : Keeps s0 s1 := by
  unfold moveH2d at he
  try dsimp only at he
  repeat' split at he
  all_goals first | (cases he; repeat' first | with_reducible (first | exact h | assumption | intro _ | apply ite_keeps | apply writeBytes_keeps) | split)

theorem moveH2d_keeps_proj (c : InCmd) (s : State) (h : Keeps s0 s) : Keeps s0 (moveH2d c s).2.2 := by
  generalize he : (moveH2d c s) = p
  obtain ⟨_, _, _⟩ := p
  exact moveH2d_keeps c s he h

theorem moveD2h_keeps (c : InCmd) (s : State) {y0 y1} {s1 : State} (he : (moveD2h c s) = (y0, y1, s1)) (h : Keeps s0 s) : Keeps s0 s1 := by
  unfold moveD2h at he
  try dsimp only at he
  repeat' split at he
  all_goals first | (with_reducible apply readBytes_keeps <;> assumption) | (cases he; repeat' first | with_reducible (first | exact h | assumption | intro _ | apply ite_keeps | (apply readBytes_keeps; assumption) | apply readBytes_keeps_proj | apply Keeps.store) | split)

theorem moveD2h_keeps_proj (c : InCmd) (s : State) (h : Keeps s0 s) : Keeps s0 (moveD2h c s).2.2 := by
  generalize he : (moveD2h c s) = p
  obtain ⟨_, _, _⟩ := p
  exact moveD2h_keeps c s he h

theorem runDma_keeps (c : InCmd) (station : Option Nat) (s : State) (h : Keeps s0 s) : Keeps s0 (runDma c station s) := by
  unfold runDma
  try dsimp only
  repeat' first | with_reducible (first | exact h | assumption | intro _ | apply ite_keeps | apply State.modHost_keeps | (apply moveH2d_keeps; assumption) | apply moveH2d_keeps_proj | (apply moveD2h_keeps; assumption) | apply moveD2h_keeps_proj) | split

theorem takeHostDma_keeps (c : InCmd) (s : State) (h : Keeps s0 s) : Keeps s0 (takeHostDma c s) := by
  unfold takeHostDma
  try dsimp only
  repeat' first | with_reducible (first | exact h | assumption | intro _ | apply ite_keeps | apply State.modHost_keeps | apply complete_keeps | apply runDma_keeps) | split

theorem execDmaH2d_keeps (errs : List ReadErr) (s : State) (h : Keeps s0 s) : OutKeeps s0 (execDmaH2d errs s) := by
  unfold execDmaH2d
  try dsimp only
  repeat' first | with_reducible (first | exact h | assumption | intro _ | apply out_next | apply hostStep_keeps | apply meeting_keeps | apply takeHostDma_keeps)

theorem execDmaD2h_keeps (errs : List ReadErr) (s : State) (h : Keeps s0 s) : OutKeeps s0 (execDmaD2h errs s) := by
  unfold execDmaD2h
  try dsimp only
  repeat' first | with_reducible (first | exact h | assumption | intro _ | apply out_next | apply hostStep_keeps | apply meeting_keeps | apply takeHostDma_keeps)

theorem execDmaAtStation_keeps (id : Nat) (errs : List ReadErr) (s : State) (h : Keeps s0 s) : OutKeeps s0 (execDmaAtStation id errs s) := by
  unfold execDmaAtStation
  try dsimp only
  repeat' first | with_reducible (first | exact h | assumption | intro _ | apply out_next | apply ite_keeps | apply ite_out | apply meeting_keeps | apply runDma_keeps) | split

theorem execHostDmaComplete_keeps (id : Nat) (s : State) (h : Keeps s0 s) : OutKeeps s0 (execHostDmaComplete id s) := by
  unfold execHostDmaComplete
  try dsimp only
  repeat' first | with_reducible (first | exact h | assumption | intro _ | apply out_next | apply State.modHost_keeps | apply complete_keeps | apply leaveStation_keeps) | split

theorem takeQuery_keeps (result : State → List Byte) (c : InCmd) (s : State) (h : Keeps s0 s) : Keeps s0 (takeQuery result c s) := by
  unfold takeQuery
  try dsimp only
  repeat' first | with_reducible (first | exact h | assumption | intro _ | apply ite_keeps | apply complete_keeps | apply Keeps.store)

theorem queryStep_keeps (code : Nat) (result : State → List Byte) (s : State) (h : Keeps s0 s) : OutKeeps s0 (queryStep code result s) := by
  unfold queryStep
  try dsimp only
  repeat' first | with_reducible (first | exact h | assumption | intro _ | apply out_next | apply hostStep_keeps | apply takeQuery_keeps)

theorem execIdentity_keeps (s : State) (h : Keeps s0 s) : OutKeeps s0 (execIdentity s) := by
  unfold execIdentity
  try dsimp only
  repeat' first | with_reducible (first | exact h | assumption | intro _ | apply out_next | apply queryStep_keeps)

theorem execHbmEcc_keeps (s : State) (h : Keeps s0 s) : OutKeeps s0 (execHbmEcc s) := by
  unfold execHbmEcc
  try dsimp only
  repeat' first | with_reducible (first | exact h | assumption | intro _ | apply out_next | apply queryStep_keeps)

theorem execShape_keeps (s : State) (h : Keeps s0 s) : OutKeeps s0 (execShape s) := by
  unfold execShape
  try dsimp only
  repeat' first | with_reducible (first | exact h | assumption | intro _ | apply out_next | apply queryStep_keeps)

theorem execEnergy_keeps (s : State) (h : Keeps s0 s) : OutKeeps s0 (execEnergy s) := by
  unfold execEnergy
  try dsimp only
  repeat' first | with_reducible (first | exact h | assumption | intro _ | apply out_next | apply queryStep_keeps)

theorem ownMessage_keeps (p : Packet) (s : State) (h : Keeps s0 s) : Keeps s0 (ownMessage p s) := by
  unfold ownMessage
  try dsimp only
  repeat' first | with_reducible (first | exact h | assumption | intro _ | apply ite_keeps | apply State.modFab_keeps | apply fabCount_keeps)

theorem takeMgtSend_keeps (c : InCmd) (s : State) (h : Keeps s0 s) : Keeps s0 (takeMgtSend c s) := by
  unfold takeMgtSend
  try dsimp only
  repeat' first | with_reducible (first | exact h | assumption | intro _ | apply ite_keeps | apply complete_keeps | apply enqueue_keeps | apply fmMessage_keeps | apply originate_keeps | apply ownMessage_keeps) | split

theorem execMgtSend_keeps (s : State) (h : Keeps s0 s) : OutKeeps s0 (execMgtSend s) := by
  unfold execMgtSend
  try dsimp only
  repeat' first | with_reducible (first | exact h | assumption | intro _ | apply out_next | apply hostStep_keeps | apply takeMgtSend_keeps)

theorem takeRation_keeps (c : InCmd) (s : State) (h : Keeps s0 s) : Keeps s0 (takeRation c s) := by
  unfold takeRation
  try dsimp only
  repeat' first | with_reducible (first | exact h | assumption | intro _ | apply ite_keeps | apply complete_keeps | apply State.modPwr_keeps | apply rationArrived_keeps)

theorem execRation_keeps (s : State) (h : Keeps s0 s) : OutKeeps s0 (execRation s) := by
  unfold execRation
  try dsimp only
  repeat' first | with_reducible (first | exact h | assumption | intro _ | apply out_next | apply hostStep_keeps | apply takeRation_keeps)

theorem leaving_keeps {o : Out} (h : OutKeeps s0 o) : OutKeeps s0 (leaving o) := by
  refine ⟨fun t e => ?_⟩
  cases o with
  | next u => cases e; exact leaveStation_keeps u (h.keep u rfl)
  | fault f => cases e
  | refused f => cases e

theorem execCheckpointRun_keeps (id : Nat) (errs : List ReadErr) (s : State) (h : Keeps s0 s) : OutKeeps s0 (execCheckpointRun id errs s) :=
  meeting_keeps errs _ s (fun u hu => leaving_keeps (ckptRunStep_keeps id u hu)) h

theorem execAck_keeps (errs : List ReadErr) (s : State) (h : Keeps s0 s) : OutKeeps s0 (execAck errs s) :=
  meeting_keeps errs _ s (fun u hu => leaving_keeps (ackStep_keeps u hu)) h

theorem execE2eTimeout_keeps (tag : Fin 131072) (s : State) (h : Keeps s0 s) : OutKeeps s0 (execE2eTimeout tag s) :=
  leaving_keeps (e2eStep_keeps tag s h)

theorem execDeadUsExpire_keeps (tag : Fin 131072) (s : State) (h : Keeps s0 s) : OutKeeps s0 (execDeadUsExpire tag s) :=
  leaving_keeps (deadStep_keeps tag s h)

end Sys2Proof.Machine
end

