-- ==== Sys2Proof/Laws/KeepsParking.lean ====
section
/-! SUPPORT. What the operations of Parking keep: the queue, OTP and fuses, and the canonical form of host memory. -/

namespace Sys2Proof.Machine

open Sys2Proof

variable {s0 : State}

set_option linter.unreachableTactic false
set_option linter.unusedTactic false

theorem execFloorEpisodeStart_keeps (s : State) (h : Keeps s0 s) : OutKeeps s0 (execFloorEpisodeStart s) := by
  unfold execFloorEpisodeStart
  try dsimp only
  repeat' first | with_reducible (first | exact h | assumption | intro _ | apply out_next | apply ite_keeps | apply ite_out | apply raiseEvent_keeps | apply State.modPwr_keeps | apply powerCount_keeps | apply sendHealth_keeps)

theorem execGraceExpire_keeps (s : State) (h : Keeps s0 s) : OutKeeps s0 (execGraceExpire s) := by
  unfold execGraceExpire
  try dsimp only
  repeat' first | with_reducible (first | exact h | assumption | intro _ | apply out_next | apply ite_keeps | apply ite_out | apply State.modPwr_keeps | apply raiseRungs_keeps | apply startPark_keeps) | split

theorem writePwrCfg_keeps (v : Nat) (s : State) (h : Keeps s0 s) : Keeps s0 (writePwrCfg v s) := by
  unfold writePwrCfg
  try dsimp only
  repeat' first | with_reducible (first | exact h | assumption | intro _ | apply ite_keeps | apply State.modPwr_keeps)

theorem execPwrCfgWrite_keeps (value : W32) (s : State) (h : Keeps s0 s) : OutKeeps s0 (execPwrCfgWrite value s) := by
  unfold execPwrCfgWrite
  try dsimp only
  repeat' first | with_reducible (first | exact h | assumption | intro _ | apply out_next | apply ite_keeps | apply ite_out | apply writePwrCfg_keeps)

theorem takePark_keeps (c : InCmd) (s : State) (h : Keeps s0 s) : Keeps s0 (takePark c s) := by
  unfold takePark
  try dsimp only
  repeat' first | with_reducible (first | exact h | assumption | intro _ | apply ite_keeps | apply State.modPwr_keeps | apply startPark_keeps)

theorem execPark_keeps (s : State) (h : Keeps s0 s) : OutKeeps s0 (execPark s) := by
  unfold execPark
  try dsimp only
  repeat' first | with_reducible (first | exact h | assumption | intro _ | apply out_next | apply hostStep_keeps | apply takePark_keeps)

theorem selfRefresh_keeps (s : State) (h : Keeps s0 s) : Keeps s0 (selfRefresh s) := by
  unfold selfRefresh
  try dsimp only
  repeat' first | with_reducible (first | exact h | assumption | intro _ | apply State.modHbm_keeps | apply flushAll_keeps)

theorem stopPlls_keeps (s : State) (h : Keeps s0 s) : Keeps s0 (stopPlls s) := by
  unfold stopPlls
  try dsimp only
  repeat' first | with_reducible (first | exact h | assumption | intro _ | apply State.modReg_keeps | apply foldl_keeps | apply foldl_pair_keeps | apply foldl_triple_keeps)

theorem completeAll_keeps (ids : List Nat) (status value : Nat) (s : State) (h : Keeps s0 s) : Keeps s0 (completeAll ids status value s) := by
  unfold completeAll
  try dsimp only
  repeat' first | with_reducible (first | exact h | assumption | intro _ | apply complete_keeps | apply foldl_keeps | apply foldl_pair_keeps | apply foldl_triple_keeps)

theorem execParkComplete_keeps (errs : List ReadErr) (s : State) (h : Keeps s0 s) : OutKeeps s0 (execParkComplete errs s) := by
  unfold execParkComplete
  try dsimp only
  repeat' first | with_reducible (first | exact h | assumption | intro _ | apply out_next | apply ite_keeps | apply ite_out | apply State.modPins_keeps | apply State.modPwr_keeps | apply enterKeepalive_keeps | apply meeting_keeps | apply selfRefresh_keeps | apply stopPlls_keeps | apply completeAll_keeps | apply with_dev_keeps)

theorem takeUnpark_keeps (c : InCmd) (s : State) (h : Keeps s0 s) : Keeps s0 (takeUnpark c s) := by
  unfold takeUnpark
  try dsimp only
  repeat' first | with_reducible (first | exact h | assumption | intro _ | apply ite_keeps | apply complete_keeps | apply State.modPwr_keeps)

theorem execUnpark_keeps (s : State) (h : Keeps s0 s) : OutKeeps s0 (execUnpark s) := by
  unfold execUnpark
  try dsimp only
  repeat' first | with_reducible (first | exact h | assumption | intro _ | apply out_next | apply hostStep_keeps | apply takeUnpark_keeps)

theorem startClock_keeps (r : Nat) (s : State) (h : Keeps s0 s) : Keeps s0 (startClock r s) := by
  unfold startClock
  try dsimp only
  repeat' first | with_reducible (first | exact h | assumption | intro _ | apply State.modReg_keeps)

theorem startClocks_keeps (s : State) (h : Keeps s0 s) : Keeps s0 (startClocks s) := by
  unfold startClocks
  try dsimp only
  repeat' first | with_reducible (first | exact h | assumption | intro _ | apply ite_keeps | apply State.modPwr_keeps | apply startClock_keeps | apply foldl_keeps | apply foldl_pair_keeps | apply foldl_triple_keeps)

theorem execUnparkComplete_keeps (errs : List ReadErr) (s : State) (h : Keeps s0 s) : OutKeeps s0 (execUnparkComplete errs s) := by
  unfold execUnparkComplete
  try dsimp only
  repeat' first | with_reducible (first | exact h | assumption | intro _ | apply out_next | apply ite_keeps | apply ite_out | apply State.modPins_keeps | apply State.modPwr_keeps | apply leaveKeepalive_keeps | apply State.modHbm_keeps | apply moving_keeps | apply startLeg_keeps | apply selfRefresh_keeps | apply completeAll_keeps | apply startClocks_keeps | apply with_dev_keeps) | split

theorem i3cSend_keeps (m : MctpMsg) (s : State) (h : Keeps s0 s) : Keeps s0 (i3cSend m s) := by
  unfold i3cSend
  try dsimp only
  repeat' first | with_reducible (first | exact h | assumption | intro _ | apply State.modIdn_keeps | exact rfl)

theorem setRation_keeps (cmd mw : Nat) (s : State) (h : Keeps s0 s) : Keeps s0 (setRation cmd mw s) := by
  unfold setRation
  try dsimp only
  repeat' first | with_reducible (first | exact h | assumption | intro _ | apply ite_keeps | apply State.modPwr_keeps | apply rationArrived_keeps | apply i3cSend_keeps)

theorem rationRequest_keeps (cmd rsv arg : Nat) (s : State) (h : Keeps s0 s) : Keeps s0 (rationRequest cmd rsv arg s) := by
  unfold rationRequest
  try dsimp only
  repeat' first | with_reducible (first | exact h | assumption | intro _ | apply ite_keeps | apply i3cSend_keeps | apply setRation_keeps)

theorem execSetRation_keeps (t : Transport) (cmd rsv : Byte) (mw : W32) (s : State) (h : Keeps s0 s) : OutKeeps s0 (execSetRation t cmd rsv mw s) := by
  unfold execSetRation
  try dsimp only
  repeat' first | with_reducible (first | exact h | assumption | intro _ | apply out_next | apply ite_keeps | apply ite_out | apply rationRequest_keeps)

theorem execGetPower_keeps (t : Transport) (cmd rsv : Byte) (arg : W32) (s : State) (h : Keeps s0 s) : OutKeeps s0 (execGetPower t cmd rsv arg s) := by
  unfold execGetPower
  try dsimp only
  repeat' first | with_reducible (first | exact h | assumption | intro _ | apply out_next | apply ite_keeps | apply ite_out | apply rationRequest_keeps)

theorem endCommands_keeps (s : State) (h : Keeps s0 s) : Keeps s0 (endCommands s) := by
  unfold endCommands
  try dsimp only
  repeat' first | with_reducible (first | exact h | assumption | intro _ | apply ite_keeps | apply complete_keeps | apply foldl_keeps | apply foldl_pair_keeps | apply foldl_triple_keeps)

theorem enterFault_keeps (s : State) (h : Keeps s0 s) : Keeps s0 (enterFault s) := by
  unfold enterFault
  try dsimp only
  repeat' first | with_reducible (first | exact h | assumption | intro _ | exact out_fault _ | apply State.modHost_keeps | apply State.modJob_keeps | apply State.modPwr_keeps | apply State.modMem_keeps | apply stopClocks_keeps | apply stopBlocks_keeps | apply endCommands_keeps | apply with_dev_keeps)

theorem lightsOut_keeps (s : State) (h : Keeps s0 s) : Keeps s0 (lightsOut s) := by
  unfold lightsOut
  try dsimp only
  repeat' first | with_reducible (first | exact h | assumption | intro _ | apply portOff_keeps | apply foldl_keeps | apply foldl_pair_keeps | apply foldl_triple_keeps)

theorem thermalStop_keeps (orderly : Bool) (s : State) (h : Keeps s0 s) : Keeps s0 (thermalStop orderly s) := by
  unfold thermalStop
  try dsimp only
  repeat' first | with_reducible (first | exact h | assumption | intro _ | apply ite_keeps | apply State.modPins_keeps | apply State.modOe_keeps | apply recordFatal_keeps | apply State.modBlks_keeps | apply State.modHbm_keeps | apply selfRefresh_keeps | apply stopPlls_keeps | apply enterFault_keeps | apply lightsOut_keeps)

theorem judgeShutdown_keeps (s : State) (h : Keeps s0 s) : Keeps s0 (judgeShutdown s) := by
  unfold judgeShutdown
  try dsimp only
  repeat' first | with_reducible (first | exact h | assumption | intro _ | apply ite_keeps | apply thermalStop_keeps) | split

theorem judgeRefresh_keeps (s : State) (h : Keeps s0 s) : Keeps s0 (judgeRefresh s) := by
  unfold judgeRefresh
  try dsimp only
  repeat' first | with_reducible (first | exact h | assumption | intro _ | apply State.modHbm_keeps | apply foldl_keeps | apply foldl_pair_keeps | apply foldl_triple_keeps)

theorem takeEstimates_keeps (est : ThermEst) (s : State) (h : Keeps s0 s) : Keeps s0 (takeEstimates est s) := by
  unfold takeEstimates
  try dsimp only
  repeat' first | with_reducible (first | exact h | assumption | intro _ | apply State.modTherm_keeps | apply foldl_keeps | apply foldl_pair_keeps | apply foldl_triple_keeps)

theorem execThermalModelUpdate_keeps (est : ThermEst) (s : State) (h : Keeps s0 s) : OutKeeps s0 (execThermalModelUpdate est s) := by
  unfold execThermalModelUpdate
  try dsimp only
  repeat' first | with_reducible (first | exact h | assumption | intro _ | apply out_next | apply ite_keeps | apply ite_out | apply judgeLocations_keeps | apply feedForward_keeps | apply judgeShutdown_keeps | apply judgeRefresh_keeps | apply takeEstimates_keeps | apply foldl_keeps | apply foldl_pair_keeps | apply foldl_triple_keeps)

end Sys2Proof.Machine
end

