-- ==== Sys2Proof/Laws/KeepsBoot.lean ====
section
/-! SUPPORT. What the operations of Boot keep: the queue, OTP and fuses, and the canonical form of host memory. -/

namespace Sys2Proof.Machine

open Sys2Proof

variable {s0 : State}

set_option linter.unreachableTactic false
set_option linter.unusedTactic false

theorem kept_keeps (s : State) (h : Keeps s0 s) : Keeps s0 (kept s) := h.idn rfl rfl rfl rfl rfl

theorem packageReset_keeps (s : State) (h : Keeps s0 s) : Keeps s0 (packageReset s) := by
  unfold packageReset
  try dsimp only
  repeat' first | with_reducible (first | exact h | assumption | intro _ | apply State.modPins_keeps | apply kept_keeps)

theorem functionReset_keeps (s : State) (h : Keeps s0 s) : Keeps s0 (functionReset s) := h.idn rfl rfl rfl rfl rfl

theorem execPerstLAssert_keeps (s : State) (h : Keeps s0 s) : OutKeeps s0 (execPerstLAssert s) := by
  unfold execPerstLAssert
  try dsimp only
  repeat' first | with_reducible (first | exact h | assumption | intro _ | apply out_next | apply ite_keeps | apply ite_out | apply State.modPins_keeps | apply packageReset_keeps)

theorem execPerstLDeassert_keeps (s : State) (h : Keeps s0 s) : OutKeeps s0 (execPerstLDeassert s) := by
  unfold execPerstLDeassert
  try dsimp only
  repeat' first | with_reducible (first | exact h | assumption | intro _ | apply out_next | apply ite_keeps | apply ite_out | apply State.modPins_keeps | apply packageReset_keeps)

theorem execFunctionLevelReset_keeps (s : State) (h : Keeps s0 s) : OutKeeps s0 (execFunctionLevelReset s) := by
  unfold execFunctionLevelReset
  extract_lets t
  split
  · exact out_next h
  · split
    · exact out_next (h.idn rfl rfl rfl rfl rfl)
    · exact out_next (functionReset_keeps s h)

theorem writeResetCtrl_keeps (v : Nat) (s : State) (h : Keeps s0 s) : Keeps s0 (writeResetCtrl v s) := by
  unfold writeResetCtrl
  try dsimp only
  repeat' first | with_reducible (first | exact h | assumption | intro _ | apply ite_keeps | apply packageReset_keeps)

theorem execPackageReset_keeps (value : W32) (s : State) (h : Keeps s0 s) : OutKeeps s0 (execPackageReset value s) := by
  unfold execPackageReset
  try dsimp only
  repeat' first | with_reducible (first | exact h | assumption | intro _ | apply out_next | apply ite_keeps | apply ite_out | apply writeResetCtrl_keeps)

theorem powerDown_keeps (s : State) (h : Keeps s0 s) : Keeps s0 (powerDown s) := by
  unfold powerDown
  try dsimp only
  repeat' first | with_reducible (first | exact h | assumption | intro _ | apply State.modPins_keeps | apply State.modPwr_keeps | apply packageReset_keeps | apply with_dev_keeps)

theorem powerUp_keeps (good : Bool) (s : State) (h : Keeps s0 s) : Keeps s0 (powerUp good s) := by
  unfold powerUp
  try dsimp only
  repeat' first | with_reducible (first | exact h | assumption | intro _ | apply ite_keeps | apply State.modPins_keeps | apply packageReset_keeps)

theorem inputIs_keeps (mv : Nat) (s : State) (h : Keeps s0 s) : Keeps s0 (inputIs mv s) := by
  unfold inputIs
  try dsimp only
  repeat' first | with_reducible (first | exact h | assumption | intro _ | apply State.modPins_keeps)

theorem execInputRise_keeps (mv : Nat) (railsGood : Bool) (s : State) (h : Keeps s0 s) : OutKeeps s0 (execInputRise mv railsGood s) := by
  unfold execInputRise
  try dsimp only
  repeat' first | with_reducible (first | exact h | assumption | intro _ | apply out_next | apply ite_keeps | apply ite_out | apply State.modPins_keeps | apply powerUp_keeps | apply inputIs_keeps)

theorem execPowerUpRetry_keeps (railsGood : Bool) (s : State) (h : Keeps s0 s) : OutKeeps s0 (execPowerUpRetry railsGood s) := by
  unfold execPowerUpRetry
  try dsimp only
  repeat' first | with_reducible (first | exact h | assumption | intro _ | apply out_next | apply ite_keeps | apply ite_out | apply powerUp_keeps)

theorem execInputUndervoltage_keeps (mv : Nat) (s : State) (h : Keeps s0 s) : OutKeeps s0 (execInputUndervoltage mv s) := by
  unfold execInputUndervoltage
  try dsimp only
  repeat' first | with_reducible (first | exact h | assumption | intro _ | apply out_next | apply ite_keeps | apply ite_out | apply State.modPins_keeps | apply powerDown_keeps)

theorem execInputOvervoltage_keeps (mv : Nat) (s : State) (h : Keeps s0 s) : OutKeeps s0 (execInputOvervoltage mv s) := by
  unfold execInputOvervoltage
  try dsimp only
  repeat' first | with_reducible (first | exact h | assumption | intro _ | apply out_next | apply ite_keeps | apply ite_out | apply State.modPins_keeps | apply powerDown_keeps)

theorem execPwrgdHoldLow_keeps (s : State) (h : Keeps s0 s) : OutKeeps s0 (execPwrgdHoldLow s) := by
  unfold execPwrgdHoldLow
  try dsimp only
  repeat' first | with_reducible (first | exact h | assumption | intro _ | apply out_next | apply ite_keeps | apply ite_out | apply State.modPins_keeps | apply powerDown_keeps)

theorem execPwrgdRelease_keeps (mv : Nat) (railsGood : Bool) (s : State) (h : Keeps s0 s) : OutKeeps s0 (execPwrgdRelease mv railsGood s) := by
  unfold execPwrgdRelease
  try dsimp only
  repeat' first | with_reducible (first | exact h | assumption | intro _ | apply out_next | apply ite_keeps | apply ite_out | apply State.modPins_keeps | apply powerUp_keeps | apply inputIs_keeps)

theorem execThermalComparatorTrip_keeps (sensor : Fin 81) (s : State) (h : Keeps s0 s) : OutKeeps s0 (execThermalComparatorTrip sensor s) := by
  unfold execThermalComparatorTrip
  try dsimp only
  repeat' first | with_reducible (first | exact h | assumption | intro _ | apply out_next | apply ite_keeps | apply ite_out | exact out_fault _ | apply thermalStop_keeps | apply powerDown_keeps)

theorem putMeas_keeps (k : Nat) (bs : List Byte) (s : State) (h : Keeps s0 s) : Keeps s0 (putMeas k bs s) := by
  unfold putMeas
  try dsimp only
  repeat' first | with_reducible (first | exact h | assumption | intro _ | apply State.modIdn_keeps | exact rfl)

theorem measureBoot_keeps (s : State) (h : Keeps s0 s) : Keeps s0 (measureBoot s) := by
  unfold measureBoot
  try dsimp only
  repeat' first | with_reducible (first | exact h | assumption | intro _ | apply putMeas_keeps)

theorem romReads_keeps (readings : List SensorVal) (s : State) (h : Keeps s0 s) : Keeps s0 (romReads readings s) := by
  unfold romReads
  try dsimp only
  repeat' first | with_reducible (first | exact h | assumption | intro _ | apply State.modTherm_keeps | apply foldl_keeps | apply foldl_pair_keeps | apply foldl_triple_keeps)

theorem execSelftestComplete_keeps (sound : Bool) (readings : List SensorVal) (s : State) (h : Keeps s0 s) : OutKeeps s0 (execSelftestComplete sound readings s) := by
  unfold execSelftestComplete
  try dsimp only
  repeat' first | with_reducible (first | exact h | assumption | intro _ | apply out_next | apply ite_keeps | apply ite_out | exact out_fault _ | apply record_keeps | apply State.modIdn_keeps | apply measureBoot_keeps | apply romReads_keeps | apply with_dev_keeps | exact rfl)

theorem execThermalHoldClear_keeps (readings : List SensorVal) (s : State) (h : Keeps s0 s) : OutKeeps s0 (execThermalHoldClear readings s) := by
  unfold execThermalHoldClear
  try dsimp only
  repeat' first | with_reducible (first | exact h | assumption | intro _ | apply out_next | apply ite_keeps | apply ite_out | apply State.modIdn_keeps | apply romReads_keeps | exact rfl)

theorem writeBootCtrl_keeps (v : Nat) (s : State) (h : Keeps s0 s) : Keeps s0 (writeBootCtrl v s) := by
  unfold writeBootCtrl
  try dsimp only
  repeat' first | with_reducible (first | exact h | assumption | intro _ | apply ite_keeps | apply State.modIdn_keeps | exact rfl)

theorem execGo_keeps (value : W32) (s : State) (h : Keeps s0 s) : OutKeeps s0 (execGo value s) := by
  unfold execGo
  try dsimp only
  repeat' first | with_reducible (first | exact h | assumption | intro _ | apply out_next | apply ite_keeps | apply ite_out | apply writeBootCtrl_keeps)

theorem execImageCopyComplete_keeps (pcieError : Bool) (s : State) (h : Keeps s0 s) : OutKeeps s0 (execImageCopyComplete pcieError s) := by
  unfold execImageCopyComplete
  try dsimp only
  repeat' first | with_reducible (first | exact h | assumption | intro _ | apply out_next | apply ite_keeps | apply ite_out | apply State.modTherm_keeps | apply State.modIdn_keeps | apply putMeas_keeps | exact rfl)

theorem bringRegion_keeps (untrained : List Nat) (r : Nat) (s : State) (h : Keeps s0 s) : Keeps s0 (bringRegion untrained r s) := by
  unfold bringRegion
  try dsimp only
  repeat' first | with_reducible (first | exact h | assumption | intro _ | apply ite_keeps | apply State.modHbm_keeps | apply foldl_keeps | apply foldl_pair_keeps | apply foldl_triple_keeps)

theorem execBringupComplete_keeps (untrained : List (Fin 256)) (s : State) (h : Keeps s0 s) : OutKeeps s0 (execBringupComplete untrained s) := by
  unfold execBringupComplete
  try dsimp only
  repeat' first | with_reducible (first | exact h | assumption | intro _ | apply out_next | apply ite_keeps | apply ite_out | apply State.modHbm_keeps | apply State.modMem_keeps | apply State.modIdn_keeps | apply enterReady_keeps | apply startClocks_keeps | apply bringRegion_keeps | apply foldl_keeps | exact rfl | apply foldl_pair_keeps | apply foldl_triple_keeps)

theorem writeSvnCommit_keeps (v : Nat) (s : State) (h : Keeps s0 s) : Keeps s0 (writeSvnCommit v s) := by
  unfold writeSvnCommit
  try dsimp only
  repeat' first | with_reducible (first | exact h | assumption | intro _ | apply ite_keeps | apply State.modIdn_keeps | exact rfl)

theorem execSvnCommit_keeps (value : W32) (s : State) (h : Keeps s0 s) : OutKeeps s0 (execSvnCommit value s) := by
  unfold execSvnCommit
  try dsimp only
  repeat' first | with_reducible (first | exact h | assumption | intro _ | apply out_next | apply ite_keeps | apply ite_out | apply writeSvnCommit_keeps)

theorem revokeSlot_keeps (s : State) (k : Nat) (h : Keeps s0 s) : Keeps s0 (revokeSlot s k) := by
  unfold revokeSlot
  split
  · rename_i hc
    refine h.trans ⟨rfl, rfl, BitsKept.refl _, BitsKept.blow _ _, ?_, id⟩
    intro _
    simp only [Bool.and_eq_true, mayRevoke, List.any_eq_true] at hc
    obtain ⟨-, -, j, -, hj⟩ := hc
    simp only [bne_iff_ne, ne_eq, Bool.not_eq_true'] at hj
    refine ⟨j, hj.1.2, ?_⟩
    have h2 : bit s.idn.revoked j = false := hj.2
    have hne : k ≠ j := fun e => hj.1.1 e.symm
    show bit (s.idn.revoked ||| 2 ^ k) j = false
    unfold bit at *
    rw [Nat.testBit_or, h2, Bool.false_or, Nat.testBit_two_pow_of_ne hne]
  · exact h

theorem writeKeyRevoke_keeps (v : Nat) (s : State) (h : Keeps s0 s) : Keeps s0 (writeKeyRevoke v s) := by
  unfold writeKeyRevoke
  try dsimp only
  repeat' first | with_reducible (first | exact h | assumption | intro _ | apply revokeSlot_keeps | apply foldl_keeps | apply foldl_pair_keeps | apply foldl_triple_keeps)

theorem execKeyRevoke_keeps (value : W32) (s : State) (h : Keeps s0 s) : OutKeeps s0 (execKeyRevoke value s) := by
  unfold execKeyRevoke
  try dsimp only
  repeat' first | with_reducible (first | exact h | assumption | intro _ | apply out_next | apply ite_keeps | apply ite_out | apply writeKeyRevoke_keeps)

end Sys2Proof.Machine
end

