-- ==== Sys2Proof/Laws/KeepsIdentity.lean ====
section
/-! SUPPORT. What the operations of Identity keep: the queue, OTP and fuses, and the canonical form of host memory. -/

namespace Sys2Proof.Machine

open Sys2Proof

variable {s0 : State}

set_option linter.unreachableTactic false
set_option linter.unusedTactic false

theorem State.modTransport_keeps (t : Transport) (f : McTransport → McTransport) (s : State) (h : Keeps s0 s) : Keeps s0 (State.modTransport t f s) := by
  unfold State.modTransport
  try dsimp only
  repeat' first | with_reducible (first | exact h | assumption | intro _ | apply State.modIdn_keeps | exact rfl) | split

theorem mctpSend_keeps (t : Transport) (m : MctpMsg) (s : State) (h : Keeps s0 s) : Keeps s0 (mctpSend t m s) := by
  unfold mctpSend
  try dsimp only
  repeat' first | with_reducible (first | exact h | assumption | intro _ | apply State.modTransport_keeps)

theorem execSetEndpointId_keeps (t : Transport) (eid : Byte) (s : State) (h : Keeps s0 s) : OutKeeps s0 (execSetEndpointId t eid s) := by
  unfold execSetEndpointId
  try dsimp only
  repeat' first | with_reducible (first | exact h | assumption | intro _ | apply out_next | apply ite_keeps | apply ite_out | apply State.modTransport_keeps | apply mctpSend_keeps)

theorem execEntdaa_keeps (addr : BitVec 7) (s : State) (h : Keeps s0 s) : OutKeeps s0 (execEntdaa addr s) := by
  unfold execEntdaa
  try dsimp only
  repeat' first | with_reducible (first | exact h | assumption | intro _ | apply out_next | apply ite_keeps | apply ite_out | apply State.modIdn_keeps | exact rfl)

theorem execGetVendorDefinedMessageSupport_keeps (t : Transport) (s : State) (h : Keeps s0 s) : OutKeeps s0 (execGetVendorDefinedMessageSupport t s) := by
  unfold execGetVendorDefinedMessageSupport
  try dsimp only
  repeat' first | with_reducible (first | exact h | assumption | intro _ | apply out_next | apply ite_keeps | apply ite_out | apply mctpSend_keeps)

theorem spdmSend_keeps (t : Transport) (m : MctpMsg) (s : State) (h : Keeps s0 s) : Keeps s0 (spdmSend t m s) := by
  unfold spdmSend
  try dsimp only
  repeat' first | with_reducible (first | exact h | assumption | intro _ | apply State.modTransport_keeps | apply mctpSend_keeps)

theorem spdmStep_keeps (t : Transport) (need : Nat) (body : State → State) (s : State) (hbody : ∀ x0, Keeps s0 x0 → Keeps s0 (body x0)) (h : Keeps s0 s) : OutKeeps s0 (spdmStep t need body s) := by
  unfold spdmStep
  try dsimp only
  repeat' first | with_reducible (first | exact h | assumption | intro _ | apply out_next | apply ite_keeps | apply ite_out | apply hbody | apply mctpSend_keeps)

theorem connAt_keeps (t : Transport) (n : Nat) (s : State) (h : Keeps s0 s) : Keeps s0 (connAt t n s) := by
  unfold connAt
  try dsimp only
  repeat' first | with_reducible (first | exact h | assumption | intro _ | apply State.modTransport_keeps)

theorem execGetVersion_keeps (t : Transport) (s : State) (h : Keeps s0 s) : OutKeeps s0 (execGetVersion t s) := by
  unfold execGetVersion
  try dsimp only
  repeat' first | with_reducible (first | exact h | assumption | intro _ | apply out_next | apply State.modTransport_keeps | apply spdmSend_keeps | apply spdmStep_keeps)

theorem execGetCapabilities_keeps (t : Transport) (s : State) (h : Keeps s0 s) : OutKeeps s0 (execGetCapabilities t s) := by
  unfold execGetCapabilities
  try dsimp only
  repeat' first | with_reducible (first | exact h | assumption | intro _ | apply out_next | apply spdmSend_keeps | apply spdmStep_keeps | apply connAt_keeps)

theorem execNegotiateAlgorithms_keeps (t : Transport) (s : State) (h : Keeps s0 s) : OutKeeps s0 (execNegotiateAlgorithms t s) := by
  unfold execNegotiateAlgorithms
  try dsimp only
  repeat' first | with_reducible (first | exact h | assumption | intro _ | apply out_next | apply spdmSend_keeps | apply spdmStep_keeps | apply connAt_keeps)

theorem execGetDigests_keeps (t : Transport) (s : State) (h : Keeps s0 s) : OutKeeps s0 (execGetDigests t s) := by
  unfold execGetDigests
  try dsimp only
  repeat' first | with_reducible (first | exact h | assumption | intro _ | apply out_next | apply spdmSend_keeps | apply spdmStep_keeps)

theorem execGetCertificate_keeps (t : Transport) (slot : Byte) (offset length : W16) (s : State) (h : Keeps s0 s) : OutKeeps s0 (execGetCertificate t slot offset length s) := by
  unfold execGetCertificate
  try dsimp only
  repeat' first | with_reducible (first | exact h | assumption | intro _ | apply out_next | apply ite_keeps | apply ite_out | apply mctpSend_keeps | apply spdmSend_keeps | apply spdmStep_keeps)

theorem spdmSignature_keeps (s : State) {y0} {s1 : State} (he : (spdmSignature s) = (y0, s1)) (h : Keeps s0 s) : Keeps s0 s1 := by
  unfold spdmSignature at he
  try dsimp only at he
  repeat' split at he
  all_goals first | (cases he; repeat' first | with_reducible (first | exact h | assumption | intro _ | apply with_free_keeps))

theorem spdmSignature_keeps_proj (s : State) (h : Keeps s0 s) : Keeps s0 (spdmSignature s).2 := by
  generalize he : (spdmSignature s) = p
  obtain ⟨_, _⟩ := p
  exact spdmSignature_keeps s he h

theorem spdmAnswer_keeps (t : Transport) (code : Nat) (ready : Bool) (m : MctpMsg) (s : State) (h : Keeps s0 s) : Keeps s0 (spdmAnswer t code ready m s) := by
  unfold spdmAnswer
  try dsimp only
  repeat' first | with_reducible (first | exact h | assumption | intro _ | apply ite_keeps | apply State.modTransport_keeps | apply mctpSend_keeps | apply spdmSend_keeps | apply with_free_keeps)

theorem execSpdmChallenge_keeps (t : Transport) (slot : Byte) (nonce : BitVec 256) (ready : Bool) (s : State) (h : Keeps s0 s) : OutKeeps s0 (execSpdmChallenge t slot nonce ready s) := by
  unfold execSpdmChallenge
  try dsimp only
  repeat' first | with_reducible (first | exact h | assumption | intro _ | apply out_next | apply ite_keeps | apply ite_out | apply mctpSend_keeps | apply spdmStep_keeps | (apply spdmSignature_keeps; assumption) | apply spdmSignature_keeps_proj | apply spdmAnswer_keeps) | split

theorem execGetMeasurements_keeps (t : Transport) (index : Byte) (signed : Bool) (_nonce : BitVec 256) (ready : Bool) (s : State) (h : Keeps s0 s) : OutKeeps s0 (execGetMeasurements t index signed _nonce ready s) := by
  unfold execGetMeasurements
  try dsimp only
  repeat' first | with_reducible (first | exact h | assumption | intro _ | apply out_next | apply ite_keeps | apply ite_out | apply mctpSend_keeps | apply spdmStep_keeps | (apply spdmSignature_keeps; assumption) | apply spdmSignature_keeps_proj | apply spdmAnswer_keeps) | split

theorem execRespondIfReady_keeps (t : Transport) (code token : Byte) (s : State) (h : Keeps s0 s) : OutKeeps s0 (execRespondIfReady t code token s) := by
  unfold execRespondIfReady
  try dsimp only
  repeat' first | with_reducible (first | exact h | assumption | intro _ | apply out_next | apply mctpSend_keeps | apply spdmStep_keeps | apply spdmAnswer_keeps) | split

theorem execSpdmUnsupportedRequest_keeps (t : Transport) (_code : Byte) (s : State) (h : Keeps s0 s) : OutKeeps s0 (execSpdmUnsupportedRequest t _code s) := by
  unfold execSpdmUnsupportedRequest
  try dsimp only
  repeat' first | with_reducible (first | exact h | assumption | intro _ | apply out_next | apply mctpSend_keeps | apply spdmStep_keeps)

end Sys2Proof.Machine
end

