-- ==== Sys2Proof/Laws/KeepsIssue.lean ====
section
/-! SUPPORT. What the operations of Issue keep: the queue, OTP and fuses, and the canonical form of host memory. -/

namespace Sys2Proof.Machine

open Sys2Proof

variable {s0 : State}

set_option linter.unreachableTactic false
set_option linter.unusedTactic false

theorem ctlEffect_keeps (b p w : Nat) (s : State) (h : Keeps s0 s) : SlotKeeps s0 (ctlEffect b p w s) := by
  unfold ctlEffect
  try dsimp only
  repeat' first | with_reducible (first | exact h | assumption | intro _ | apply slot_issued | apply slot_stopped | apply ite_keeps | apply ite_slot | apply haltBlock_keeps | apply doPost_keeps | apply doSet_keeps | apply doLoop_keeps | apply doAseq_keeps | apply doRelease_keeps | apply doDload_keeps | apply doSetbase_keeps | apply doScalar_keeps | apply doStation_keeps | apply doLend_keeps) | (apply slot_of_issued; assumption) | (apply slot_of_stopped; assumption) | split

theorem ctlSlot_keeps (b p w : Nat) (s : State) (h : Keeps s0 s) : SlotKeeps s0 (ctlSlot b p w s) := by
  unfold ctlSlot
  try dsimp only
  repeat' first | with_reducible (first | exact h | assumption | intro _ | apply slot_issued | apply slot_stopped | apply ite_keeps | apply ite_slot | apply ctlEffect_keeps) | (apply slot_of_issued; assumption) | (apply slot_of_stopped; assumption)

theorem arrPart_keeps (p w : Nat) (l : SlotReads) (s : State) (h : Keeps s0 s) : Keeps s0 (arrPart p w l s) := by
  unfold arrPart
  try dsimp only
  repeat' first | with_reducible (first | exact h | assumption | intro _ | apply ite_keeps | apply takeArr_keeps)

theorem vecPart_keeps (p w : Nat) (l : SlotReads) (s : State) (h : Keeps s0 s) : Keeps s0 (vecPart p w l s) := by
  unfold vecPart
  try dsimp only
  repeat' first | with_reducible (first | exact h | assumption | intro _ | apply ite_keeps | apply takeVec_keeps)

theorem takeDesc_keeps (b p w : Nat) (raw : List Byte) (s : State) (h : Keeps s0 s) : SlotKeeps s0 (takeDesc b p w raw s) := by
  unfold takeDesc
  try dsimp only
  repeat' first | with_reducible (first | exact h | assumption | intro _ | apply slot_issued | apply slot_stopped | apply ite_keeps | apply ite_slot | apply takeDma_keeps | apply remoteDma_keeps) | (apply slot_of_issued; assumption) | (apply slot_of_stopped; assumption)

theorem dmaPart_keeps (b p w : Nat) (l : SlotReads) (s : State) (h : Keeps s0 s) : Keeps s0 (dmaPart b p w l s) := by
  unfold dmaPart
  try dsimp only
  repeat' first | with_reducible (first | exact h | assumption | intro _ | apply slot_issued | apply slot_stopped | apply ite_keeps | apply ite_slot | apply takeDesc_keeps) | (apply slot_of_issued; assumption) | (apply slot_of_stopped; assumption) | split

theorem issueBundle_keeps (b p w : Nat) (s : State) (h : Keeps s0 s) : Keeps s0 (issueBundle b p w s) := by
  unfold issueBundle
  try dsimp only
  repeat' first | with_reducible (first | exact h | assumption | intro _ | apply slot_issued | apply slot_stopped | apply haltBlock_keeps | apply passBundle_keeps | apply ctlSlot_keeps | apply arrPart_keeps | apply vecPart_keeps | apply dmaPart_keeps) | (apply slot_of_issued; assumption) | (apply slot_of_stopped; assumption) | split

theorem bundleRun_keeps (b : Nat) (e : HwErr) (mine : Block → Nat → Bool) (s : State) (h : Keeps s0 s) : Keeps s0 (bundleRun b e mine s) := by
  unfold bundleRun
  try dsimp only
  repeat' first | with_reducible (first | exact h | assumption | intro _ | apply slot_issued | apply slot_stopped | apply ite_keeps | apply ite_slot | apply haltBlock_keeps | apply meetError_keeps | apply issueBundle_keeps) | (apply slot_of_issued; assumption) | (apply slot_of_stopped; assumption) | split

theorem bundleStep_keeps (b : Nat) (e : HwErr) (mine : Block → Nat → Bool) (s : State) (h : Keeps s0 s) : OutKeeps s0 (bundleStep b e mine s) := by
  unfold bundleStep
  try dsimp only
  repeat' first | with_reducible (first | exact h | assumption | intro _ | apply out_next | apply meeting_keeps | apply bundleRun_keeps)

theorem ctlStep_keeps (op : Nat) (b : Fin 256) (e : HwErr) (s : State) (h : Keeps s0 s) : OutKeeps s0 (ctlStep op b e s) := by
  unfold ctlStep
  try dsimp only
  repeat' first | with_reducible (first | exact h | assumption | intro _ | apply out_next | apply bundleStep_keeps)

theorem arrStep_keeps (op : Nat) (b : Fin 256) (e : HwErr) (s : State) (h : Keeps s0 s) : OutKeeps s0 (arrStep op b e s) := by
  unfold arrStep
  try dsimp only
  repeat' first | with_reducible (first | exact h | assumption | intro _ | apply out_next | apply bundleStep_keeps)

theorem vecStep_keeps (op : Nat) (b : Fin 256) (e : HwErr) (s : State) (h : Keeps s0 s) : OutKeeps s0 (vecStep op b e s) := by
  unfold vecStep
  try dsimp only
  repeat' first | with_reducible (first | exact h | assumption | intro _ | apply out_next | apply bundleStep_keeps)

theorem descStep_keeps (kind : Nat) (b : Fin 256) (e : HwErr) (s : State) (h : Keeps s0 s) : OutKeeps s0 (descStep kind b e s) := by
  unfold descStep
  try dsimp only
  repeat' first | with_reducible (first | exact h | assumption | intro _ | apply out_next | apply bundleStep_keeps)

theorem execNop_keeps (b : Fin 256) (e : HwErr) (s : State) (h : Keeps s0 s) : OutKeeps s0 (execNop b e s) := by
  unfold execNop
  try dsimp only
  repeat' first | with_reducible (first | exact h | assumption | intro _ | apply out_next | apply ctlStep_keeps)

theorem execWait_keeps (b : Fin 256) (e : HwErr) (s : State) (h : Keeps s0 s) : OutKeeps s0 (execWait b e s) := by
  unfold execWait
  try dsimp only
  repeat' first | with_reducible (first | exact h | assumption | intro _ | apply out_next | apply ctlStep_keeps)

theorem execPost_keeps (b : Fin 256) (e : HwErr) (s : State) (h : Keeps s0 s) : OutKeeps s0 (execPost b e s) := by
  unfold execPost
  try dsimp only
  repeat' first | with_reducible (first | exact h | assumption | intro _ | apply out_next | apply ctlStep_keeps)

theorem execSet_keeps (b : Fin 256) (e : HwErr) (s : State) (h : Keeps s0 s) : OutKeeps s0 (execSet b e s) := by
  unfold execSet
  try dsimp only
  repeat' first | with_reducible (first | exact h | assumption | intro _ | apply out_next | apply ctlStep_keeps)

theorem execLoop_keeps (b : Fin 256) (e : HwErr) (s : State) (h : Keeps s0 s) : OutKeeps s0 (execLoop b e s) := by
  unfold execLoop
  try dsimp only
  repeat' first | with_reducible (first | exact h | assumption | intro _ | apply out_next | apply ctlStep_keeps)

theorem execAseq_keeps (b : Fin 256) (e : HwErr) (s : State) (h : Keeps s0 s) : OutKeeps s0 (execAseq b e s) := by
  unfold execAseq
  try dsimp only
  repeat' first | with_reducible (first | exact h | assumption | intro _ | apply out_next | apply ctlStep_keeps)

theorem execLend_keeps (b : Fin 256) (e : HwErr) (s : State) (h : Keeps s0 s) : OutKeeps s0 (execLend b e s) := by
  unfold execLend
  try dsimp only
  repeat' first | with_reducible (first | exact h | assumption | intro _ | apply out_next | apply ctlStep_keeps)

theorem execRelease_keeps (b : Fin 256) (e : HwErr) (s : State) (h : Keeps s0 s) : OutKeeps s0 (execRelease b e s) := by
  unfold execRelease
  try dsimp only
  repeat' first | with_reducible (first | exact h | assumption | intro _ | apply out_next | apply ctlStep_keeps)

theorem execDload_keeps (b : Fin 256) (e : HwErr) (s : State) (h : Keeps s0 s) : OutKeeps s0 (execDload b e s) := by
  unfold execDload
  try dsimp only
  repeat' first | with_reducible (first | exact h | assumption | intro _ | apply out_next | apply ctlStep_keeps)

theorem execSetbase_keeps (b : Fin 256) (e : HwErr) (s : State) (h : Keeps s0 s) : OutKeeps s0 (execSetbase b e s) := by
  unfold execSetbase
  try dsimp only
  repeat' first | with_reducible (first | exact h | assumption | intro _ | apply out_next | apply ctlStep_keeps)

theorem execScalar_keeps (b : Fin 256) (e : HwErr) (s : State) (h : Keeps s0 s) : OutKeeps s0 (execScalar b e s) := by
  unfold execScalar
  try dsimp only
  repeat' first | with_reducible (first | exact h | assumption | intro _ | apply out_next | apply ctlStep_keeps)

theorem execStation_keeps (b : Fin 256) (e : HwErr) (s : State) (h : Keeps s0 s) : OutKeeps s0 (execStation b e s) := by
  unfold execStation
  try dsimp only
  repeat' first | with_reducible (first | exact h | assumption | intro _ | apply out_next | apply ctlStep_keeps)

theorem execMac_keeps (b : Fin 256) (e : HwErr) (s : State) (h : Keeps s0 s) : OutKeeps s0 (execMac b e s) := by
  unfold execMac
  try dsimp only
  repeat' first | with_reducible (first | exact h | assumption | intro _ | apply out_next | apply arrStep_keeps)

theorem execMinplus_keeps (b : Fin 256) (e : HwErr) (s : State) (h : Keeps s0 s) : OutKeeps s0 (execMinplus b e s) := by
  unfold execMinplus
  try dsimp only
  repeat' first | with_reducible (first | exact h | assumption | intro _ | apply out_next | apply arrStep_keeps)

theorem execMaxplus_keeps (b : Fin 256) (e : HwErr) (s : State) (h : Keeps s0 s) : OutKeeps s0 (execMaxplus b e s) := by
  unfold execMaxplus
  try dsimp only
  repeat' first | with_reducible (first | exact h | assumption | intro _ | apply out_next | apply arrStep_keeps)

theorem execMaxtimes_keeps (b : Fin 256) (e : HwErr) (s : State) (h : Keeps s0 s) : OutKeeps s0 (execMaxtimes b e s) := by
  unfold execMaxtimes
  try dsimp only
  repeat' first | with_reducible (first | exact h | assumption | intro _ | apply out_next | apply arrStep_keeps)

theorem execL1_keeps (b : Fin 256) (e : HwErr) (s : State) (h : Keeps s0 s) : OutKeeps s0 (execL1 b e s) := by
  unfold execL1
  try dsimp only
  repeat' first | with_reducible (first | exact h | assumption | intro _ | apply out_next | apply arrStep_keeps)

theorem execL2sq_keeps (b : Fin 256) (e : HwErr) (s : State) (h : Keeps s0 s) : OutKeeps s0 (execL2sq b e s) := by
  unfold execL2sq
  try dsimp only
  repeat' first | with_reducible (first | exact h | assumption | intro _ | apply out_next | apply arrStep_keeps)

theorem execCntGt_keeps (b : Fin 256) (e : HwErr) (s : State) (h : Keeps s0 s) : OutKeeps s0 (execCntGt b e s) := by
  unfold execCntGt
  try dsimp only
  repeat' first | with_reducible (first | exact h | assumption | intro _ | apply out_next | apply arrStep_keeps)

theorem execCntGe_keeps (b : Fin 256) (e : HwErr) (s : State) (h : Keeps s0 s) : OutKeeps s0 (execCntGe b e s) := by
  unfold execCntGe
  try dsimp only
  repeat' first | with_reducible (first | exact h | assumption | intro _ | apply out_next | apply arrStep_keeps)

theorem execCntEq_keeps (b : Fin 256) (e : HwErr) (s : State) (h : Keeps s0 s) : OutKeeps s0 (execCntEq b e s) := by
  unfold execCntEq
  try dsimp only
  repeat' first | with_reducible (first | exact h | assumption | intro _ | apply out_next | apply arrStep_keeps)

theorem execHamming_keeps (b : Fin 256) (e : HwErr) (s : State) (h : Keeps s0 s) : OutKeeps s0 (execHamming b e s) := by
  unfold execHamming
  try dsimp only
  repeat' first | with_reducible (first | exact h | assumption | intro _ | apply out_next | apply arrStep_keeps)

theorem execSplit32_keeps (b : Fin 256) (e : HwErr) (s : State) (h : Keeps s0 s) : OutKeeps s0 (execSplit32 b e s) := by
  unfold execSplit32
  try dsimp only
  repeat' first | with_reducible (first | exact h | assumption | intro _ | apply out_next | apply arrStep_keeps)

theorem execAdd_keeps (b : Fin 256) (e : HwErr) (s : State) (h : Keeps s0 s) : OutKeeps s0 (execAdd b e s) := by
  unfold execAdd
  try dsimp only
  repeat' first | with_reducible (first | exact h | assumption | intro _ | apply out_next | apply vecStep_keeps)

theorem execMul_keeps (b : Fin 256) (e : HwErr) (s : State) (h : Keeps s0 s) : OutKeeps s0 (execMul b e s) := by
  unfold execMul
  try dsimp only
  repeat' first | with_reducible (first | exact h | assumption | intro _ | apply out_next | apply vecStep_keeps)

theorem execFma_keeps (b : Fin 256) (e : HwErr) (s : State) (h : Keeps s0 s) : OutKeeps s0 (execFma b e s) := by
  unfold execFma
  try dsimp only
  repeat' first | with_reducible (first | exact h | assumption | intro _ | apply out_next | apply vecStep_keeps)

theorem execMin_keeps (b : Fin 256) (e : HwErr) (s : State) (h : Keeps s0 s) : OutKeeps s0 (execMin b e s) := by
  unfold execMin
  try dsimp only
  repeat' first | with_reducible (first | exact h | assumption | intro _ | apply out_next | apply vecStep_keeps)

theorem execMax_keeps (b : Fin 256) (e : HwErr) (s : State) (h : Keeps s0 s) : OutKeeps s0 (execMax b e s) := by
  unfold execMax
  try dsimp only
  repeat' first | with_reducible (first | exact h | assumption | intro _ | apply out_next | apply vecStep_keeps)

theorem execExp_keeps (b : Fin 256) (e : HwErr) (s : State) (h : Keeps s0 s) : OutKeeps s0 (execExp b e s) := by
  unfold execExp
  try dsimp only
  repeat' first | with_reducible (first | exact h | assumption | intro _ | apply out_next | apply vecStep_keeps)

theorem execLog_keeps (b : Fin 256) (e : HwErr) (s : State) (h : Keeps s0 s) : OutKeeps s0 (execLog b e s) := by
  unfold execLog
  try dsimp only
  repeat' first | with_reducible (first | exact h | assumption | intro _ | apply out_next | apply vecStep_keeps)

theorem execRcp_keeps (b : Fin 256) (e : HwErr) (s : State) (h : Keeps s0 s) : OutKeeps s0 (execRcp b e s) := by
  unfold execRcp
  try dsimp only
  repeat' first | with_reducible (first | exact h | assumption | intro _ | apply out_next | apply vecStep_keeps)

theorem execRsqrt_keeps (b : Fin 256) (e : HwErr) (s : State) (h : Keeps s0 s) : OutKeeps s0 (execRsqrt b e s) := by
  unfold execRsqrt
  try dsimp only
  repeat' first | with_reducible (first | exact h | assumption | intro _ | apply out_next | apply vecStep_keeps)

theorem execCvt_keeps (b : Fin 256) (e : HwErr) (s : State) (h : Keeps s0 s) : OutKeeps s0 (execCvt b e s) := by
  unfold execCvt
  try dsimp only
  repeat' first | with_reducible (first | exact h | assumption | intro _ | apply out_next | apply vecStep_keeps)

theorem execCvtMx_keeps (b : Fin 256) (e : HwErr) (s : State) (h : Keeps s0 s) : OutKeeps s0 (execCvtMx b e s) := by
  unfold execCvtMx
  try dsimp only
  repeat' first | with_reducible (first | exact h | assumption | intro _ | apply out_next | apply vecStep_keeps)

theorem execDatum_keeps (b : Fin 256) (e : HwErr) (s : State) (h : Keeps s0 s) : OutKeeps s0 (execDatum b e s) := by
  unfold execDatum
  try dsimp only
  repeat' first | with_reducible (first | exact h | assumption | intro _ | apply out_next | apply vecStep_keeps)

theorem execDmax_keeps (b : Fin 256) (e : HwErr) (s : State) (h : Keeps s0 s) : OutKeeps s0 (execDmax b e s) := by
  unfold execDmax
  try dsimp only
  repeat' first | with_reducible (first | exact h | assumption | intro _ | apply out_next | apply vecStep_keeps)

theorem execToC_keeps (b : Fin 256) (e : HwErr) (s : State) (h : Keeps s0 s) : OutKeeps s0 (execToC b e s) := by
  unfold execToC
  try dsimp only
  repeat' first | with_reducible (first | exact h | assumption | intro _ | apply out_next | apply vecStep_keeps)

theorem execCadd_keeps (b : Fin 256) (e : HwErr) (s : State) (h : Keeps s0 s) : OutKeeps s0 (execCadd b e s) := by
  unfold execCadd
  try dsimp only
  repeat' first | with_reducible (first | exact h | assumption | intro _ | apply out_next | apply vecStep_keeps)

theorem execFromC_keeps (b : Fin 256) (e : HwErr) (s : State) (h : Keeps s0 s) : OutKeeps s0 (execFromC b e s) := by
  unfold execFromC
  try dsimp only
  repeat' first | with_reducible (first | exact h | assumption | intro _ | apply out_next | apply vecStep_keeps)

theorem execDropout_keeps (b : Fin 256) (e : HwErr) (s : State) (h : Keeps s0 s) : OutKeeps s0 (execDropout b e s) := by
  unfold execDropout
  try dsimp only
  repeat' first | with_reducible (first | exact h | assumption | intro _ | apply out_next | apply vecStep_keeps)

theorem execUniform_keeps (b : Fin 256) (e : HwErr) (s : State) (h : Keeps s0 s) : OutKeeps s0 (execUniform b e s) := by
  unfold execUniform
  try dsimp only
  repeat' first | with_reducible (first | exact h | assumption | intro _ | apply out_next | apply vecStep_keeps)

theorem execRawrand_keeps (b : Fin 256) (e : HwErr) (s : State) (h : Keeps s0 s) : OutKeeps s0 (execRawrand b e s) := by
  unfold execRawrand
  try dsimp only
  repeat' first | with_reducible (first | exact h | assumption | intro _ | apply out_next | apply vecStep_keeps)

theorem execCopy_keeps (b : Fin 256) (e : HwErr) (s : State) (h : Keeps s0 s) : OutKeeps s0 (execCopy b e s) := by
  unfold execCopy
  try dsimp only
  repeat' first | with_reducible (first | exact h | assumption | intro _ | apply out_next | apply vecStep_keeps)

theorem execHbmToSp_keeps (b : Fin 256) (e : HwErr) (s : State) (h : Keeps s0 s) : OutKeeps s0 (execHbmToSp b e s) := by
  unfold execHbmToSp
  try dsimp only
  repeat' first | with_reducible (first | exact h | assumption | intro _ | apply out_next | apply descStep_keeps)

theorem execSpToHbm_keeps (b : Fin 256) (e : HwErr) (s : State) (h : Keeps s0 s) : OutKeeps s0 (execSpToHbm b e s) := by
  unfold execSpToHbm
  try dsimp only
  repeat' first | with_reducible (first | exact h | assumption | intro _ | apply out_next | apply descStep_keeps)

theorem execSpToSp_keeps (b : Fin 256) (e : HwErr) (s : State) (h : Keeps s0 s) : OutKeeps s0 (execSpToSp b e s) := by
  unfold execSpToSp
  try dsimp only
  repeat' first | with_reducible (first | exact h | assumption | intro _ | apply out_next | apply descStep_keeps)

theorem execRload_keeps (b : Fin 256) (e : HwErr) (s : State) (h : Keeps s0 s) : OutKeeps s0 (execRload b e s) := by
  unfold execRload
  try dsimp only
  repeat' first | with_reducible (first | exact h | assumption | intro _ | apply out_next | apply descStep_keeps)

theorem execRstore_keeps (b : Fin 256) (e : HwErr) (s : State) (h : Keeps s0 s) : OutKeeps s0 (execRstore b e s) := by
  unfold execRstore
  try dsimp only
  repeat' first | with_reducible (first | exact h | assumption | intro _ | apply out_next | apply descStep_keeps)

theorem execRatomic_keeps (b : Fin 256) (e : HwErr) (s : State) (h : Keeps s0 s) : OutKeeps s0 (execRatomic b e s) := by
  unfold execRatomic
  try dsimp only
  repeat' first | with_reducible (first | exact h | assumption | intro _ | apply out_next | apply descStep_keeps)

theorem execPegClaimDescriptor_keeps (b : Fin 256) (e : HwErr) (s : State) (h : Keeps s0 s) : OutKeeps s0 (execPegClaimDescriptor b e s) := by
  unfold execPegClaimDescriptor
  try dsimp only
  repeat' first | with_reducible (first | exact h | assumption | intro _ | apply out_next | apply descStep_keeps)

theorem execNotify_keeps (b : Fin 256) (e : HwErr) (s : State) (h : Keeps s0 s) : OutKeeps s0 (execNotify b e s) := by
  unfold execNotify
  try dsimp only
  repeat' first | with_reducible (first | exact h | assumption | intro _ | apply out_next | apply descStep_keeps)

theorem execInval_keeps (b : Fin 256) (e : HwErr) (s : State) (h : Keeps s0 s) : OutKeeps s0 (execInval b e s) := by
  unfold execInval
  try dsimp only
  repeat' first | with_reducible (first | exact h | assumption | intro _ | apply out_next | apply descStep_keeps)

theorem execFenceDescriptor_keeps (b : Fin 256) (e : HwErr) (s : State) (h : Keeps s0 s) : OutKeeps s0 (execFenceDescriptor b e s) := by
  unfold execFenceDescriptor
  try dsimp only
  repeat' first | with_reducible (first | exact h | assumption | intro _ | apply out_next | apply descStep_keeps)

end Sys2Proof.Machine
end

