-- ==== Sys2Proof/Laws/KeepsRegions.lean ====
section
/-! SUPPORT. What the operations of Regions keep: the queue, OTP and fuses, and the canonical form of host memory. -/

namespace Sys2Proof.Machine

open Sys2Proof

variable {s0 : State}

set_option linter.unreachableTactic false
set_option linter.unusedTactic false

theorem State.modRegion_keeps (r : Nat) (f : Region → Region) (s : State) (h : Keeps s0 s) : Keeps s0 (State.modRegion r f s) := by
  unfold State.modRegion
  try dsimp only
  repeat' first | with_reducible (first | exact h | assumption | intro _ | apply State.modFlt_keeps)

theorem dropRegion_keeps (s : State) (h : Keeps s0 s) : Keeps s0 (dropRegion s) := by
  unfold dropRegion
  try dsimp only
  repeat' first | with_reducible (first | exact h | assumption | intro _ | apply State.modRmt_keeps) | split

theorem loseCore_keeps (s : State) (h : Keeps s0 s) : Keeps s0 (loseCore s) := by
  unfold loseCore
  try dsimp only
  repeat' first | with_reducible (first | exact h | assumption | intro _ | apply ite_keeps | apply dropCore_keeps | apply endCkpt_keeps | apply failFill_keeps | apply foldl_keeps | apply foldl_pair_keeps | apply foldl_triple_keeps) | split

theorem applyLoss_keeps (s : State) (h : Keeps s0 s) : Keeps s0 (applyLoss s) := by
  unfold applyLoss
  try dsimp only
  repeat' first | with_reducible (first | exact h | assumption | intro _ | apply cutCrossings_keeps | apply loseCols_keeps | apply finish_keeps | apply leaveStation_keeps | apply dropRegion_keeps | apply loseCore_keeps | apply foldl_keeps | apply foldl_pair_keeps | apply foldl_triple_keeps)

theorem portsDark_keeps (r : Nat) (s : State) (h : Keeps s0 s) : Keeps s0 (portsDark r s) := by
  unfold portsDark
  try dsimp only
  repeat' first | with_reducible (first | exact h | assumption | intro _ | apply noteLinks_keeps | apply foldl_keeps | apply foldl_pair_keeps | apply foldl_triple_keeps)

theorem portsOff_keeps (r : Nat) (s : State) (h : Keeps s0 s) : Keeps s0 (portsOff r s) := by
  unfold portsOff
  try dsimp only
  repeat' first | with_reducible (first | exact h | assumption | intro _ | apply State.modFab_keeps | apply State.modOe_keeps | apply portOff_keeps | apply portsDark_keeps | apply foldl_keeps | apply foldl_pair_keeps | apply foldl_triple_keeps)

theorem tellLoss_keeps (region : Option Nat) (cause link : Nat) (s : State) (h : Keeps s0 s) : Keeps s0 (tellLoss region cause link s) := by
  unfold tellLoss
  try dsimp only
  repeat' first | with_reducible (first | exact h | assumption | intro _ | apply raiseEvent_keeps | apply sendHealth_keeps | apply recordFatal_keeps)

theorem loseRegion_keeps (r cause : Nat) (s : State) (h : Keeps s0 s) : Keeps s0 (loseRegion r cause s) := by
  unfold loseRegion
  try dsimp only
  repeat' first | with_reducible (first | exact h | assumption | intro _ | apply ite_keeps | apply State.modRing_keeps | apply State.modRegion_keeps | apply applyLoss_keeps | apply portsDark_keeps | apply tellLoss_keeps)

theorem execMeshDown_keeps (r : Fin 4) (s : State) (h : Keeps s0 s) : OutKeeps s0 (execMeshDown r s) := by
  unfold execMeshDown
  try dsimp only
  repeat' first | with_reducible (first | exact h | assumption | intro _ | apply out_next | apply ite_keeps | apply ite_out | apply State.modRing_keeps | apply loseRegion_keeps)

theorem execLinkWatchdogExpire_keeps (link : Fin 4) (s : State) (h : Keeps s0 s) : OutKeeps s0 (execLinkWatchdogExpire link s) := by
  unfold execLinkWatchdogExpire
  try dsimp only
  repeat' first | with_reducible (first | exact h | assumption | intro _ | apply out_next | apply ite_keeps | apply ite_out | apply State.modRing_keeps | apply recordFatal_keeps | apply State.modRegion_keeps | apply applyLoss_keeps | apply tellLoss_keeps | apply foldl_keeps | apply foldl_pair_keeps | apply foldl_triple_keeps)

theorem judgeClocks_keeps (r : Nat) (b n : Bool) (s : State) (h : Keeps s0 s) : Keeps s0 (judgeClocks r b n s) := by
  unfold judgeClocks
  try dsimp only
  repeat' first | with_reducible (first | exact h | assumption | intro _ | apply State.modReg_keeps)

theorem loseFabRef_keeps (s : State) (h : Keeps s0 s) : Keeps s0 (loseFabRef s) := by
  unfold loseFabRef
  try dsimp only
  repeat' first | with_reducible (first | exact h | assumption | intro _ | apply State.modRing_keeps | apply State.modOe_keeps | apply recordFatal_keeps | apply enterFault_keeps | apply lightsOut_keeps)

theorem execClockMonitorWindow_keeps (m : ClockMeas) (s : State) (h : Keeps s0 s) : OutKeeps s0 (execClockMonitorWindow m s) := by
  unfold execClockMonitorWindow
  try dsimp only
  repeat' first | with_reducible (first | exact h | assumption | intro _ | apply out_next | apply ite_keeps | apply ite_out | apply State.modRing_keeps | apply linkLost_keeps | apply powerDown_keeps | apply loseRegion_keeps | apply judgeClocks_keeps | apply loseFabRef_keeps | apply foldl_keeps | apply foldl_pair_keeps | apply foldl_triple_keeps)

theorem resetDies_keeps (r : Nat) (s : State) (h : Keeps s0 s) : Keeps s0 (resetDies r s) := by
  unfold resetDies
  try dsimp only
  repeat' first | with_reducible (first | exact h | assumption | intro _ | apply State.modFlt_keeps | apply State.modPwr_keeps | apply State.modReg_keeps | apply State.modBlks_keeps | apply cacheClearRegion_keeps | apply portsOff_keeps)

theorem quietHbm_keeps (r : Nat) (keep : Bool) (s : State) (h : Keeps s0 s) : Keeps s0 (quietHbm r keep s) := by
  unfold quietHbm
  try dsimp only
  repeat' first | with_reducible (first | exact h | assumption | intro _ | apply ite_keeps | apply State.modHbm_keeps | apply flushRegion_keeps | apply selfRefresh_keeps)

theorem takeResetRegion_keeps (c : InCmd) (s : State) (h : Keeps s0 s) : Keeps s0 (takeResetRegion c s) := by
  unfold takeResetRegion
  try dsimp only
  repeat' first | with_reducible (first | exact h | assumption | intro _ | apply ite_keeps | apply complete_keeps | apply loseEngine_keeps | apply fenceJob_keeps | apply State.modRegion_keeps | apply loseRegion_keeps | apply resetDies_keeps | apply quietHbm_keeps)

theorem execResetRegion_keeps (errs : List ReadErr) (s : State) (h : Keeps s0 s) : OutKeeps s0 (execResetRegion errs s) := by
  unfold execResetRegion
  try dsimp only
  repeat' first | with_reducible (first | exact h | assumption | intro _ | apply out_next | apply hostStep_keeps | apply meeting_keeps | apply takeResetRegion_keeps)

theorem zeroRegion_keeps (r : Nat) (s : State) (h : Keeps s0 s) : Keeps s0 (zeroRegion r s) := by
  unfold zeroRegion
  try dsimp only
  repeat' first | with_reducible (first | exact h | assumption | intro _ | apply State.modHbm_keeps)

theorem mapOutLost_keeps (r : Nat) (untrained : List Nat) (s : State) (h : Keeps s0 s) : Keeps s0 (mapOutLost r untrained s) := by
  unfold mapOutLost
  try dsimp only
  repeat' first | with_reducible (first | exact h | assumption | intro _ | apply State.modHbm_keeps | apply mapOutOp_keeps | apply doMoves_keeps | apply foldl_keeps | apply foldl_pair_keeps | apply foldl_triple_keeps)

theorem retrainLinks_keeps (r : Nat) (s : State) (h : Keeps s0 s) : Keeps s0 (retrainLinks r s) := by
  unfold retrainLinks
  try dsimp only
  repeat' first | with_reducible (first | exact h | assumption | intro _ | apply ite_keeps | apply State.modFlt_keeps | apply State.modRing_keeps | apply foldl_keeps | apply foldl_pair_keeps | apply foldl_triple_keeps) | split

theorem regionBack_keeps (r : Nat) (s : State) (h : Keeps s0 s) : Keeps s0 (regionBack r s) := by
  unfold regionBack
  try dsimp only
  repeat' first | with_reducible (first | exact h | assumption | intro _ | apply ite_keeps | apply State.modJob_keeps | apply State.modBlks_keeps | apply State.modRegion_keeps | apply retrainLinks_keeps) | split

theorem bringBack_keeps (r : Nat) (keep : Bool) (untrained : List Nat) (s : State) (h : Keeps s0 s) : Keeps s0 (bringBack r keep untrained s) := by
  unfold bringBack
  try dsimp only
  repeat' first | with_reducible (first | exact h | assumption | intro _ | apply ite_keeps | apply State.modHbm_keeps | apply selfRefresh_keeps | apply startClock_keeps | apply zeroRegion_keeps | apply mapOutLost_keeps | apply regionBack_keeps)

theorem execResetRegionComplete_keeps (r : Fin 4) (untrained : List (Fin 64)) (s : State) (h : Keeps s0 s) : OutKeeps s0 (execResetRegionComplete r untrained s) := by
  unfold execResetRegionComplete
  try dsimp only
  repeat' first | with_reducible (first | exact h | assumption | intro _ | apply out_next | apply ite_keeps | apply ite_out | apply complete_keeps | apply bringBack_keeps) | split

theorem dropBlock_keeps (p : Nat) (s : State) (h : Keeps s0 s) : Keeps s0 (dropBlock p s) := by
  unfold dropBlock
  try dsimp only
  repeat' first | with_reducible (first | exact h | assumption | intro _ | apply ite_keeps | apply State.modRmt_keeps | apply foldl_keeps | apply foldl_pair_keeps | apply foldl_triple_keeps) | split

theorem takeResetBlock_keeps (c : InCmd) (s : State) (h : Keeps s0 s) : Keeps s0 (takeResetBlock c s) := by
  unfold takeResetBlock
  try dsimp only
  repeat' first | with_reducible (first | exact h | assumption | intro _ | apply ite_keeps | apply State.modFlt_keeps | apply complete_keeps | apply State.modBlk_keeps | apply dropBlock_keeps) | split

theorem execResetBlock_keeps (s : State) (h : Keeps s0 s) : OutKeeps s0 (execResetBlock s) := by
  unfold execResetBlock
  try dsimp only
  repeat' first | with_reducible (first | exact h | assumption | intro _ | apply out_next | apply hostStep_keeps | apply takeResetBlock_keeps)

theorem execResetBlockComplete_keeps (b : Fin 256) (columns : List (Fin 132)) (failed : Bool) (s : State) (h : Keeps s0 s) : OutKeeps s0 (execResetBlockComplete b columns failed s) := by
  unfold execResetBlockComplete
  try dsimp only
  repeat' first | with_reducible (first | exact h | assumption | intro _ | apply out_next | apply ite_keeps | apply ite_out | apply complete_keeps | apply failBlock_keeps | apply columnFails_keeps | apply foldl_keeps | apply foldl_pair_keeps | apply foldl_triple_keeps) | split

theorem takeResetPort_keeps (c : InCmd) (s : State) (h : Keeps s0 s) : Keeps s0 (takeResetPort c s) := by
  unfold takeResetPort
  try dsimp only
  repeat' first | with_reducible (first | exact h | assumption | intro _ | apply ite_keeps | apply complete_keeps | apply State.modFab_keeps | apply startPort_keeps | apply noteLinks_keeps | apply portOff_keeps)

theorem execResetPort_keeps (s : State) (h : Keeps s0 s) : OutKeeps s0 (execResetPort s) := by
  unfold execResetPort
  try dsimp only
  repeat' first | with_reducible (first | exact h | assumption | intro _ | apply out_next | apply hostStep_keeps | apply takeResetPort_keeps)

theorem beginTest_keeps (mode r : Nat) (s : State) (h : Keeps s0 s) : Keeps s0 (beginTest mode r s) := by
  unfold beginTest
  try dsimp only
  repeat' first | with_reducible (first | exact h | assumption | intro _ | apply ite_keeps | apply State.modFlt_keeps | apply State.modRing_keeps | apply State.modRegion_keeps | apply portsDark_keeps | apply foldl_keeps | apply foldl_pair_keeps | apply foldl_triple_keeps)

theorem writeTestCtrl_keeps (v : Nat) (s : State) (h : Keeps s0 s) : Keeps s0 (writeTestCtrl v s) := by
  unfold writeTestCtrl
  try dsimp only
  repeat' first | with_reducible (first | exact h | assumption | intro _ | apply ite_keeps | apply State.modFlt_keeps | apply applyLoss_keeps | apply beginTest_keeps | apply foldl_keeps | apply foldl_pair_keeps | apply foldl_triple_keeps)

theorem testStep_keeps (value : Nat) (s : State) (h : Keeps s0 s) : OutKeeps s0 (testStep value s) := by
  unfold testStep
  try dsimp only
  repeat' first | with_reducible (first | exact h | assumption | intro _ | apply out_next | apply ite_keeps | apply ite_out | apply writeTestCtrl_keeps)

theorem execD2dNear_keeps (value : W64) (s : State) (h : Keeps s0 s) : OutKeeps s0 (execD2dNear value s) := by
  unfold execD2dNear
  try dsimp only
  repeat' first | with_reducible (first | exact h | assumption | intro _ | apply out_next | apply testStep_keeps)

theorem execD2dFar_keeps (value : W64) (s : State) (h : Keeps s0 s) : OutKeeps s0 (execD2dFar value s) := by
  unfold execD2dFar
  try dsimp only
  repeat' first | with_reducible (first | exact h | assumption | intro _ | apply out_next | apply testStep_keeps)

theorem execOeElec_keeps (value : W64) (s : State) (h : Keeps s0 s) : OutKeeps s0 (execOeElec value s) := by
  unfold execOeElec
  try dsimp only
  repeat' first | with_reducible (first | exact h | assumption | intro _ | apply out_next | apply testStep_keeps)

theorem execOeDriver_keeps (value : W64) (s : State) (h : Keeps s0 s) : OutKeeps s0 (execOeDriver value s) := by
  unfold execOeDriver
  try dsimp only
  repeat' first | with_reducible (first | exact h | assumption | intro _ | apply out_next | apply testStep_keeps)

theorem execOeOptical_keeps (value : W64) (s : State) (h : Keeps s0 s) : OutKeeps s0 (execOeOptical value s) := by
  unfold execOeOptical
  try dsimp only
  repeat' first | with_reducible (first | exact h | assumption | intro _ | apply out_next | apply testStep_keeps)

theorem execBlockBist_keeps (value : W64) (s : State) (h : Keeps s0 s) : OutKeeps s0 (execBlockBist value s) := by
  unfold execBlockBist
  try dsimp only
  repeat' first | with_reducible (first | exact h | assumption | intro _ | apply out_next | apply testStep_keeps)

theorem execHbmMarch_keeps (value : W64) (s : State) (h : Keeps s0 s) : OutKeeps s0 (execHbmMarch value s) := by
  unfold execHbmMarch
  try dsimp only
  repeat' first | with_reducible (first | exact h | assumption | intro _ | apply out_next | apply testStep_keeps)

theorem endTestRegion_keeps (r : Nat) (s : State) (h : Keeps s0 s) : Keeps s0 (endTestRegion r s) := by
  unfold endTestRegion
  try dsimp only
  repeat' first | with_reducible (first | exact h | assumption | intro _ | apply ite_keeps | apply portsOff_keeps | apply resetDies_keeps | apply quietHbm_keeps | apply regionBack_keeps | apply bringBack_keeps)

theorem rowFails_keeps (line row : Nat) (s : State) (h : Keeps s0 s) : Keeps s0 (rowFails line row s) := by
  unfold rowFails
  try dsimp only
  repeat' first | with_reducible (first | exact h | assumption | intro _ | apply countRow_keeps | apply poisonRead_keeps)

theorem takeFind_keeps (t : TestFind) (s : State) (h : Keeps s0 s) : Keeps s0 (takeFind t s) := by
  unfold takeFind
  try dsimp only
  repeat' first | with_reducible (first | exact h | assumption | intro _ | apply State.modFlt_keeps | apply lanesFail_keeps | apply retirePos_keeps | apply failBlock_keeps | apply failChannel_keeps | apply columnFails_keeps | apply rowFails_keeps | apply foldl_keeps | apply foldl_pair_keeps | apply foldl_triple_keeps)

theorem execTestEnd_keeps (found : List TestFind) (s : State) (h : Keeps s0 s) : OutKeeps s0 (execTestEnd found s) := by
  unfold execTestEnd
  try dsimp only
  repeat' first | with_reducible (first | exact h | assumption | intro _ | apply out_next | apply ite_keeps | apply ite_out | apply State.modFlt_keeps | apply endTestRegion_keeps | apply takeFind_keeps | apply foldl_keeps | apply foldl_pair_keeps | apply foldl_triple_keeps)

end Sys2Proof.Machine
end

