-- ==== Sys2Proof/Laws/KeepsMargin.lean ====
section
/-! SUPPORT. What the operations of Margin keep: the queue, OTP and fuses, and the canonical form of host memory. -/

namespace Sys2Proof.Machine

open Sys2Proof

variable {s0 : State}

set_option linter.unreachableTactic false
set_option linter.unusedTactic false

theorem setTxTest_keeps (k : Nat) (t : Option TxTest) (s : State) (h : Keeps s0 s) : Keeps s0 (setTxTest k t s) := by
  unfold setTxTest
  try dsimp only
  repeat' first | with_reducible (first | exact h | assumption | intro _ | apply State.modOe_keeps)

theorem setRxTest_keeps (k : Nat) (t : Option RxTest) (s : State) (h : Keeps s0 s) : Keeps s0 (setRxTest k t s) := by
  unfold setRxTest
  try dsimp only
  repeat' first | with_reducible (first | exact h | assumption | intro _ | apply State.modOe_keeps)

theorem sendMarginResult_keeps (t : RxTest) (kind pass eye rlm symErr : Nat) (s : State) (h : Keeps s0 s) : Keeps s0 (sendMarginResult t kind pass eye rlm symErr s) := by
  unfold sendMarginResult
  try dsimp only
  repeat' first | with_reducible (first | exact h | assumption | intro _ | apply sendLocal_keeps) | split

theorem takeMarginReq_keeps (key : Nat) (b : List Byte) (s : State) (h : Keeps s0 s) : Keeps s0 (takeMarginReq key b s) := by
  unfold takeMarginReq
  try dsimp only
  repeat' first | with_reducible (first | exact h | assumption | intro _ | apply ite_keeps | apply setRxTest_keeps | apply sendMarginResult_keeps) | split

theorem execMarginReq_keeps (s : State) (h : Keeps s0 s) : OutKeeps s0 (execMarginReq s) := by
  unfold execMarginReq
  try dsimp only
  repeat' first | with_reducible (first | exact h | assumption | intro _ | apply out_next | apply mgtStep_keeps | apply takeMarginReq_keeps)

theorem execMarginCountComplete_keeps (port : Fin 16) (line : Fin 34) (eyeMin rlm : W16) (symErr : W32) (s : State) (h : Keeps s0 s) : OutKeeps s0 (execMarginCountComplete port line eyeMin rlm symErr s) := by
  unfold execMarginCountComplete
  try dsimp only
  repeat' first | with_reducible (first | exact h | assumption | intro _ | apply out_next | apply ite_keeps | apply ite_out | apply setRxTest_keeps | apply sendMarginResult_keeps) | split

theorem setMargin_keeps (port line : Nat) (passed : Bool) (s : State) (h : Keeps s0 s) : Keeps s0 (setMargin port line passed s) := by
  unfold setMargin
  try dsimp only
  repeat' first | with_reducible (first | exact h | assumption | intro _ | apply State.modPos_keeps | apply foldl_keeps | apply foldl_pair_keeps | apply foldl_triple_keeps)

theorem laneTested_keeps (port line : Nat) (s : State) (h : Keeps s0 s) : Keeps s0 (laneTested port line s) := by
  unfold laneTested
  try dsimp only
  repeat' first | with_reducible (first | exact h | assumption | intro _ | apply ite_keeps | apply State.modJob_keeps | apply finishLoad_keeps) | split

theorem endMargin_keeps (port line : Nat) (failed : Option (Nat × List Byte)) (s : State) (h : Keeps s0 s) : Keeps s0 (endMargin port line failed s) := by
  unfold endMargin
  try dsimp only
  repeat' first | with_reducible (first | exact h | assumption | intro _ | apply raiseEvent_keeps | apply setTxTest_keeps | apply setMargin_keeps | apply laneTested_keeps) | split

theorem takeMarginResult_keeps (b : List Byte) (s : State) (h : Keeps s0 s) : Keeps s0 (takeMarginResult b s) := by
  unfold takeMarginResult
  try dsimp only
  repeat' first | with_reducible (first | exact h | assumption | intro _ | apply ite_keeps | apply sendLocal_keeps | apply setTxTest_keeps | apply endMargin_keeps) | split

theorem execMarginResult_keeps (s : State) (h : Keeps s0 s) : OutKeeps s0 (execMarginResult s) := by
  unfold execMarginResult
  try dsimp only
  repeat' first | with_reducible (first | exact h | assumption | intro _ | apply out_next | apply mgtStep_keeps | apply takeMarginResult_keeps)

theorem execMarginTestTimeout_keeps (port : Fin 16) (line : Fin 34) (s : State) (h : Keeps s0 s) : OutKeeps s0 (execMarginTestTimeout port line s) := by
  unfold execMarginTestTimeout
  try dsimp only
  repeat' first | with_reducible (first | exact h | assumption | intro _ | apply out_next | apply ite_keeps | apply ite_out | apply endMargin_keeps) | split

theorem execServiceMarginSample_keeps (port : Fin 16) (line : Fin 34) (deciDbm : Int) (s : State) (h : Keeps s0 s) : OutKeeps s0 (execServiceMarginSample port line deciDbm s) := by
  unfold execServiceMarginSample
  try dsimp only
  repeat' first | with_reducible (first | exact h | assumption | intro _ | apply out_next | apply ite_keeps | apply ite_out | apply State.modPos_keeps | apply sendMgt_keeps) | split

theorem biasStep_keeps (e line headroom : Nat) (s : State) (h : Keeps s0 s) : Keeps s0 (biasStep e line headroom s) := by
  unfold biasStep
  try dsimp only
  repeat' first | with_reducible (first | exact h | assumption | intro _ | apply ite_keeps | apply raiseEvent_keeps | apply State.modOe_keeps | apply joinComb_keeps)

theorem execBiasNeed_keeps (busy : Bool) (headroom : Byte) (s : State) (h : Keeps s0 s) : OutKeeps s0 (execBiasNeed busy headroom s) := by
  unfold execBiasNeed
  try dsimp only
  repeat' first | with_reducible (first | exact h | assumption | intro _ | apply out_next | apply ite_keeps | apply ite_out | apply mgtStep_keeps | apply biasStep_keeps)

theorem execCongRead_keeps (s : State) (h : Keeps s0 s) : OutKeeps s0 (execCongRead s) := by
  unfold execCongRead
  try dsimp only
  repeat' first | with_reducible (first | exact h | assumption | intro _ | apply out_next | apply mgtStep_keeps | apply sendCong_keeps)

end Sys2Proof.Machine
end

