-- ==== Sys2Proof/Laws/KeepsMembership.lean ====
section
/-! SUPPORT. What the operations of Membership keep: the queue, OTP and fuses, and the canonical form of host memory. -/

namespace Sys2Proof.Machine

open Sys2Proof

variable {s0 : State}

set_option linter.unreachableTactic false
set_option linter.unusedTactic false

theorem memCount_keeps (k : Nat) (s : State) (h : Keeps s0 s) : Keeps s0 (memCount k s) := by
  unfold memCount
  try dsimp only
  repeat' first | with_reducible (first | exact h | assumption | intro _ | apply State.modMem_keeps)

theorem execLeaseRenew_keeps (s : State) (h : Keeps s0 s) : OutKeeps s0 (execLeaseRenew s) := by
  unfold execLeaseRenew
  try dsimp only
  repeat' first | with_reducible (first | exact h | assumption | intro _ | apply out_next | apply ite_keeps | apply ite_out | apply sendFm_keeps | apply State.modMem_keeps)

theorem leaveFenced_keeps (s : State) (h : Keeps s0 s) : Keeps s0 (leaveFenced s) := by
  unfold leaveFenced
  try dsimp only
  repeat' first | with_reducible (first | exact h | assumption | intro _ | apply ite_keeps | apply State.modPwr_keeps | apply enterReady_keeps)

theorem takeGrant_keeps (req n ms : Nat) (s : State) (h : Keeps s0 s) : Keeps s0 (takeGrant req n ms s) := by
  unfold takeGrant
  try dsimp only
  repeat' first | with_reducible (first | exact h | assumption | intro _ | apply ite_keeps | apply State.modMem_keeps | apply memCount_keeps | apply leaveFenced_keeps) | split

theorem execLeaseGrant_keeps (s : State) (h : Keeps s0 s) : OutKeeps s0 (execLeaseGrant s) := by
  unfold execLeaseGrant
  try dsimp only
  repeat' first | with_reducible (first | exact h | assumption | intro _ | apply out_next | apply mgtStep_keeps | apply takeGrant_keeps)

theorem enterFenced_keeps (s : State) (h : Keeps s0 s) : Keeps s0 (enterFenced s) := by
  unfold enterFenced
  try dsimp only
  repeat' first | with_reducible (first | exact h | assumption | intro _ | apply ite_keeps | exact out_fault _ | apply State.modPwr_keeps | apply leaveKeepalive_keeps | apply sendHealth_keeps | apply with_dev_keeps)

theorem loseLease_keeps (code : Nat) (body : List Byte) (s : State) (h : Keeps s0 s) : Keeps s0 (loseLease code body s) := by
  unfold loseLease
  try dsimp only
  repeat' first | with_reducible (first | exact h | assumption | intro _ | apply raiseEvent_keeps | apply endJob_keeps | apply enterFenced_keeps)

theorem execLeaseExpiry_keeps (s : State) (h : Keeps s0 s) : OutKeeps s0 (execLeaseExpiry s) := by
  unfold execLeaseExpiry
  try dsimp only
  repeat' first | with_reducible (first | exact h | assumption | intro _ | apply out_next | apply ite_keeps | apply ite_out | apply State.modMem_keeps | apply loseLease_keeps)

theorem writeLeaseCfg_keeps (v : Nat) (s : State) (h : Keeps s0 s) : Keeps s0 (writeLeaseCfg v s) := by
  unfold writeLeaseCfg
  try dsimp only
  repeat' first | with_reducible (first | exact h | assumption | intro _ | apply ite_keeps | apply State.modMem_keeps)

theorem execLeaseCfgWrite_keeps (value : W32) (s : State) (h : Keeps s0 s) : OutKeeps s0 (execLeaseCfgWrite value s) := by
  unfold execLeaseCfgWrite
  try dsimp only
  repeat' first | with_reducible (first | exact h | assumption | intro _ | apply out_next | apply ite_keeps | apply ite_out | apply writeLeaseCfg_keeps)

theorem cutOff_keeps (d : Nat) (s : State) (h : Keeps s0 s) : Keeps s0 (cutOff d s) := by
  unfold cutOff
  try dsimp only
  repeat' first | with_reducible (first | exact h | assumption | intro _ | apply ite_keeps | apply abortFill_keeps | apply settleCore_keeps | apply unresponsive_keeps | apply foldl_keeps | apply foldl_pair_keeps | apply foldl_triple_keeps) | split

theorem fenceAck_keeps (epoch d : Nat) (s : State) (h : Keeps s0 s) : Keeps s0 (fenceAck epoch d s) := by
  unfold fenceAck
  try dsimp only
  repeat' first | with_reducible (first | exact h | assumption | intro _ | apply sendFm_keeps)

theorem fenceOther_keeps (epoch d : Nat) (clear : Bool) (s : State) (h : Keeps s0 s) : Keeps s0 (fenceOther epoch d clear s) := by
  unfold fenceOther
  try dsimp only
  repeat' first | with_reducible (first | exact h | assumption | intro _ | apply ite_keeps | apply State.modMem_keeps | apply cutOff_keeps | apply fenceAck_keeps)

theorem fenceSelf_keeps (epoch d lease : Nat) (clear : Bool) (s : State) (h : Keeps s0 s) : Keeps s0 (fenceSelf epoch d lease clear s) := by
  unfold fenceSelf
  try dsimp only
  repeat' first | with_reducible (first | exact h | assumption | intro _ | apply ite_keeps | apply State.modMem_keeps | apply loseLease_keeps | apply fenceAck_keeps)

theorem execFenceNotice_keeps (s : State) (h : Keeps s0 s) : OutKeeps s0 (execFenceNotice s) := by
  unfold execFenceNotice
  try dsimp only
  repeat' first | with_reducible (first | exact h | assumption | intro _ | apply out_next | apply ite_keeps | apply ite_out | apply mgtStep_keeps | apply leaveStation_keeps | apply fenceOther_keeps | apply fenceSelf_keeps)

theorem startShadow_keeps (c : InCmd) (legs : Nat) (s : State) (h : Keeps s0 s) : Keeps s0 (startShadow c legs s) := by
  unfold startShadow
  try dsimp only
  repeat' first | with_reducible (first | exact h | assumption | intro _ | apply ite_keeps | apply State.modJob_keeps | apply State.modFab_keeps | apply leaveKeepalive_keeps | apply doMoves_keeps | apply State.modMem_keeps | apply applyStaged_keeps | apply applyStagedWindows_keeps | apply stepEight_keeps | apply packageTables_keeps | apply stepSeven_keeps | apply with_dev_keeps) | split

theorem takeBacksight_keeps (c : InCmd) (s : State) (h : Keeps s0 s) : Keeps s0 (takeBacksight c s) := by
  unfold takeBacksight
  try dsimp only
  repeat' first | with_reducible (first | exact h | assumption | intro _ | apply ite_keeps | apply complete_keeps | apply startShadow_keeps) | split

theorem execBacksight_keeps (errs : List ReadErr) (s : State) (h : Keeps s0 s) : OutKeeps s0 (execBacksight errs s) := by
  unfold execBacksight
  try dsimp only
  repeat' first | with_reducible (first | exact h | assumption | intro _ | apply out_next | apply hostStep_keeps | apply moving_keeps | apply takeBacksight_keeps)

theorem State.modShadow_keeps (f : Shadow → Shadow) (s : State) (h : Keeps s0 s) : Keeps s0 (State.modShadow f s) := by
  unfold State.modShadow
  try dsimp only
  repeat' first | with_reducible (first | exact h | assumption | intro _ | apply State.modMem_keeps)

theorem logBytes_keeps (sh : Shadow) (bs : List Byte) (s : State) (h : Keeps s0 s) : Keeps s0 (logBytes sh bs s) := by
  unfold logBytes
  try dsimp only
  repeat' first | with_reducible (first | exact h | assumption | intro _ | apply ite_keeps | apply writeBytes_keeps) | split

theorem logCopy_keeps (sh : Shadow) (p : Packet) (s : State) (h : Keeps s0 s) : Keeps s0 (logCopy sh p s) := by
  unfold logCopy
  try dsimp only
  repeat' first | with_reducible (first | exact h | assumption | intro _ | apply memCount_keeps | apply State.modShadow_keeps | apply logBytes_keeps)

theorem execTeeCopyReceive_keeps (port : Fin 16) (line : Fin 34) (errs : List ReadErr) (s : State) (h : Keeps s0 s) : OutKeeps s0 (execTeeCopyReceive port line errs s) := by
  unfold execTeeCopyReceive
  try dsimp only
  repeat' first | with_reducible (first | exact h | assumption | intro _ | apply out_next | apply ite_keeps | apply ite_out | apply fabCount_keeps | apply State.modLink_keeps | apply returnCredit_keeps | apply meeting_keeps | apply State.modMem_keeps | apply logCopy_keeps) | split

theorem popCopy_keeps (s : State) (h : Keeps s0 s) : Keeps s0 (popCopy s) := by
  unfold popCopy
  try dsimp only
  repeat' first | with_reducible (first | exact h | assumption | intro _ | apply State.modShadow_keeps)

theorem afterOut_keeps (o : Out) (s : State) (ho : OutKeeps s0 o) (h : Keeps s0 s) : Keeps s0 (afterOut o s) := by
  unfold afterOut
  split
  · exact ho.keep _ rfl
  · exact h

theorem teeMarkerCopy_keeps (n : Nat) (s : State) (h : Keeps s0 s) : Keeps s0 (teeMarkerCopy n s) := by
  unfold teeMarkerCopy
  try dsimp only
  repeat' first | with_reducible (first | exact h | assumption | intro _ | apply ite_keeps | apply passStation_keeps | apply popCopy_keeps) | split

theorem teeRequest_keeps (p : Packet) (s : State) (h : Keeps s0 s) : Keeps s0 (teeRequest p s) := by
  unfold teeRequest
  try dsimp only
  repeat' first | with_reducible (first | exact h | assumption | intro _ | apply ite_keeps | apply fabCount_keeps | apply handleOrdered_keeps | apply handleClaim_keeps | apply handleDone_keeps | apply popCopy_keeps)

theorem teeReply_keeps (p : Packet) (s : State) (h : Keeps s0 s) : Keeps s0 (teeReply p s) := by
  unfold teeReply
  try dsimp only
  repeat' first | with_reducible (first | exact h | assumption | intro _ | apply out_next | apply ite_keeps | apply ite_out | apply State.modFab_keeps | apply rmtCount_keeps | apply execAtomicResult_keeps | apply execLoadData_keeps | apply execPegGrant_keeps | apply execAck_keeps | apply popCopy_keeps | apply afterOut_keeps) | split

theorem teeCol_keeps (p : Packet) (s : State) (h : Keeps s0 s) : Keeps s0 (teeCol p s) := by
  unfold teeCol
  try dsimp only
  repeat' first | with_reducible (first | exact h | assumption | intro _ | apply ite_keeps | apply handleCol_keeps | apply popCopy_keeps)

theorem execTeeLogHandle_keeps (errs : List ReadErr) (s : State) (h : Keeps s0 s) : OutKeeps s0 (execTeeLogHandle errs s) := by
  unfold execTeeLogHandle
  try dsimp only
  repeat' first | with_reducible (first | exact h | assumption | intro _ | apply out_next | apply ite_keeps | apply ite_out | apply moving_keeps | apply popCopy_keeps | apply teeMarkerCopy_keeps | apply teeRequest_keeps | apply teeReply_keeps | apply teeCol_keeps) | split

end Sys2Proof.Machine
end

