-- ==== Sys2Proof/Laws/KeepsRegisters.lean ====
section
/-! SUPPORT. What the operations of Registers keep: the queue, OTP and fuses, and the canonical form of host memory. -/

namespace Sys2Proof.Machine

open Sys2Proof

variable {s0 : State}

set_option linter.unreachableTactic false
set_option linter.unusedTactic false

theorem writeCplIrq_keeps (j v : Nat) (s : State) (h : Keeps s0 s) : Keeps s0 (writeCplIrq j v s) := by
  unfold writeCplIrq
  try dsimp only
  repeat' first | with_reducible (first | exact h | assumption | intro _ | apply out_next | apply ite_keeps | apply ite_out | apply raiseVector_keeps | apply setCplRing_keeps)

theorem writeEvtIrq_keeps (v : Nat) (s : State) (h : Keeps s0 s) : Keeps s0 (writeEvtIrq v s) := by
  unfold writeEvtIrq
  try dsimp only
  repeat' first | with_reducible (first | exact h | assumption | intro _ | apply out_next | apply ite_keeps | apply ite_out | apply raiseVector_keeps | apply setEvtRing_keeps)

theorem writeCmdBase_keeps (i off size value : Nat) (s : State) (h : Keeps s0 s) : Keeps s0 (writeCmdBase i off size value s) := by
  unfold writeCmdBase
  try dsimp only
  repeat' first | with_reducible (first | exact h | assumption | intro _ | apply ite_keeps | apply State.modHost_keeps)

theorem clearCmdError_keeps (i v : Nat) (s : State) (h : Keeps s0 s) : Keeps s0 (clearCmdError i v s) := by
  unfold clearCmdError
  try dsimp only
  repeat' first | with_reducible (first | exact h | assumption | intro _ | apply State.modHost_keeps)

theorem writeFmBase_keeps (off size value : Nat) (s : State) (h : Keeps s0 s) : Keeps s0 (writeFmBase off size value s) := by
  unfold writeFmBase
  try dsimp only
  repeat' first | with_reducible (first | exact h | assumption | intro _ | apply ite_keeps | apply State.modHost_keeps)

theorem writeMsix_keeps (k off size value : Nat) (s : State) (h : Keeps s0 s) : Keeps s0 (writeMsix k off size value s) := by
  unfold writeMsix
  try dsimp only
  repeat' first | with_reducible (first | exact h | assumption | intro _ | apply ite_keeps | apply State.modHost_keeps | apply raiseVector_keeps)

theorem testWrite_keeps (off size value : Nat) (s : State) (h : Keeps s0 s) : Keeps s0 (testWrite off size value s) := by
  unfold testWrite
  try dsimp only
  repeat' first | with_reducible (first | exact h | assumption | intro _ | apply writeTestCtrl_keeps)

theorem lowWrite_keeps (r : Reg) (v : Nat) (s : State) (h : Keeps s0 s) : Keeps s0 (lowWrite r v s) := by
  unfold lowWrite
  try dsimp only
  repeat' first | with_reducible (first | exact h | assumption | intro _ | apply out_next | apply State.modJob_keeps | apply setCplRing_keeps | apply setEvtRing_keeps | apply writeCmdCfg_keeps | apply writeCplCfg_keeps | apply writeEvtCfg_keeps | apply writeFmCfg_keeps | apply stageRegister_keeps | apply writePwrCfg_keeps | apply writeResetCtrl_keeps | apply writeBootCtrl_keeps | apply writeSvnCommit_keeps | apply writeKeyRevoke_keeps | apply writeLeaseCfg_keeps | apply writeCplIrq_keeps | apply writeEvtIrq_keeps | apply clearCmdError_keeps) | split

theorem regWrite_keeps (r : Reg) (k off size value : Nat) (s : State) (h : Keeps s0 s) : Keeps s0 (regWrite r k off size value s) := by
  unfold regWrite
  try dsimp only
  repeat' first | with_reducible (first | exact h | assumption | intro _ | apply out_next | apply ite_keeps | apply ite_out | apply setCplRing_keeps | apply setEvtRing_keeps | apply State.modIdn_keeps | apply writeCmdBase_keeps | apply writeFmBase_keeps | apply writeMsix_keeps | apply testWrite_keeps | apply lowWrite_keeps | exact rfl) | split

theorem barWrite_keeps (off size value : Nat) (s : State) (h : Keeps s0 s) : Keeps s0 (barWrite off size value s) := by
  unfold barWrite
  try dsimp only
  repeat' first | with_reducible (first | exact h | assumption | intro _ | apply ite_keeps | apply regWrite_keeps) | split

theorem execRegisterWrite_keeps (off : BitVec 24) (size : Nat) (value : W64) (s : State) (h : Keeps s0 s) : OutKeeps s0 (execRegisterWrite off size value s) := by
  unfold execRegisterWrite
  try dsimp only
  repeat' first | with_reducible (first | exact h | assumption | intro _ | apply out_next | apply barWrite_keeps)

end Sys2Proof.Machine
end

