-- ==== Sys2Proof/Laws/KeepsScalar.lean ====
section
/-! SUPPORT. What the operations of Scalar keep: the queue, OTP and fuses, and the canonical form of host memory. -/

namespace Sys2Proof.Machine

open Sys2Proof

variable {s0 : State}

set_option linter.unreachableTactic false
set_option linter.unusedTactic false

theorem scalarFault_keeps (p code off : Nat) (s : State) (h : Keeps s0 s) : Keeps s0 (scalarFault p code off s) := by
  unfold scalarFault
  try dsimp only
  repeat' first | with_reducible (first | exact h | assumption | intro _ | apply State.modBlk_keeps | apply haltBlock_keeps)

theorem accessFault_keeps (p : Nat) (off : Option Nat) (s : State) (h : Keeps s0 s) : Keeps s0 (accessFault p off s) := by
  unfold accessFault
  try dsimp only
  repeat' first | with_reducible (first | exact h | assumption | intro _ | apply State.modBlk_keeps | apply haltAt_keeps)

theorem retire_keeps (p : Nat) (pc : Nat) (f : Scalar → Scalar) (s : State) (h : Keeps s0 s) : Keeps s0 (retire p pc f s) := by
  unfold retire
  try dsimp only
  repeat' first | with_reducible (first | exact h | assumption | intro _ | apply State.modBlk_keeps)

theorem systemStep_keeps (p b w pc' : Nat) (s : State) (h : Keeps s0 s) : Keeps s0 (systemStep p b w pc' s) := by
  unfold systemStep
  dsimp only
  split
  · refine ite_keeps (scalarFault_keeps _ _ _ _ h) (ite_keeps (ite_keeps (scalarFault_keeps _ _ _ _ h) ?_) (retire_keeps _ _ _ _ h))
    exact retire_keeps _ _ _ _ (State.modJob_keeps _ (with_free_keeps _ h))
  · exact scalarFault_keeps _ _ _ _ h

theorem scalarExec_keeps (p b w len : Nat) (s : State) (h : Keeps s0 s) : Keeps s0 (scalarExec p b w len s) := by
  unfold scalarExec
  try dsimp only
  repeat' first | with_reducible (first | exact h | assumption | intro _ | apply ite_keeps | apply State.modBlk_keeps | apply scalarFault_keeps | apply accessFault_keeps | apply retire_keeps | apply systemStep_keeps) | split

theorem scalarStep_keeps (custom : Option Nat) (b : Fin 256) (e : HwErr) (body : Nat → Nat → Nat → State → State) (s : State) (hbody : ∀ x0 x1 x2 x3, Keeps s0 x3 → Keeps s0 (body x0 x1 x2 x3)) (h : Keeps s0 s) : OutKeeps s0 (scalarStep custom b e body s) := by
  unfold scalarStep
  try dsimp only
  repeat' first | with_reducible (first | exact h | assumption | intro _ | apply out_next | apply slot_issued | apply slot_stopped | apply ite_keeps | apply ite_out | apply ite_slot | apply hbody | apply meetSp_keeps | apply scalarFault_keeps) | (apply slot_of_issued; assumption) | (apply slot_of_stopped; assumption) | split

theorem execScalarInstruction_keeps (b : Fin 256) (e : HwErr) (s : State) (h : Keeps s0 s) : OutKeeps s0 (execScalarInstruction b e s) := by
  unfold execScalarInstruction
  try dsimp only
  repeat' first | with_reducible (first | exact h | assumption | intro _ | apply out_next | apply scalarExec_keeps | apply scalarStep_keeps)

theorem execScPost_keeps (b : Fin 256) (e : HwErr) (s : State) (h : Keeps s0 s) : OutKeeps s0 (execScPost b e s) := by
  unfold execScPost
  try dsimp only
  repeat' first | with_reducible (first | exact h | assumption | intro _ | apply out_next | apply postCtr_keeps | apply retire_keeps | apply scalarStep_keeps) | split

theorem execScWait_keeps (b : Fin 256) (e : HwErr) (s : State) (h : Keeps s0 s) : OutKeeps s0 (execScWait b e s) := by
  unfold execScWait
  try dsimp only
  repeat' first | with_reducible (first | exact h | assumption | intro _ | apply out_next | apply ite_keeps | apply ite_out | apply retire_keeps | apply scalarStep_keeps) | split

theorem execScRead_keeps (b : Fin 256) (e : HwErr) (s : State) (h : Keeps s0 s) : OutKeeps s0 (execScRead b e s) := by
  unfold execScRead
  try dsimp only
  repeat' first | with_reducible (first | exact h | assumption | intro _ | apply out_next | apply retire_keeps | apply scalarStep_keeps) | split

theorem execScSegst_keeps (b : Fin 256) (e : HwErr) (s : State) (h : Keeps s0 s) : OutKeeps s0 (execScSegst b e s) := by
  unfold execScSegst
  try dsimp only
  repeat' first | with_reducible (first | exact h | assumption | intro _ | apply out_next | apply retire_keeps | apply scalarStep_keeps) | split

theorem execScRelease_keeps (b : Fin 256) (e : HwErr) (s : State) (h : Keeps s0 s) : OutKeeps s0 (execScRelease b e s) := by
  unfold execScRelease
  try dsimp only
  repeat' first | with_reducible (first | exact h | assumption | intro _ | apply out_next | apply ite_keeps | apply ite_out | apply State.modBlk_keeps | apply scalarFault_keeps | apply retire_keeps | apply scalarStep_keeps) | split

theorem execScExit_keeps (b : Fin 256) (e : HwErr) (s : State) (h : Keeps s0 s) : OutKeeps s0 (execScExit b e s) := by
  unfold execScExit
  try dsimp only
  repeat' first | with_reducible (first | exact h | assumption | intro _ | apply out_next | apply State.modBlk_keeps | apply postCtr_keeps | apply retire_keeps | apply scalarStep_keeps) | split

end Sys2Proof.Machine
end

