-- ==== Sys2Proof/Laws/State.lean ====
section
/-! SUPPORT. Each field of the state after each update: the field that the update names, and every other one as it was. -/

namespace Sys2Proof.Machine

open Sys2Proof

variable (s : State)

/-! ### modHost -/

@[simp] theorem State.modHost_pending (f : HostIf → HostIf) : (s.modHost f).pending = s.pending := rfl
@[simp] theorem State.modHost_dev (f : HostIf → HostIf) : (s.modHost f).dev = s.dev := rfl
@[simp] theorem State.modHost_aon (f : HostIf → HostIf) : (s.modHost f).aon = s.aon := rfl
@[simp] theorem State.modHost_free (f : HostIf → HostIf) : (s.modHost f).free = s.free := rfl
@[simp] theorem State.modHost_hostMem (f : HostIf → HostIf) : (s.modHost f).hostMem = s.hostMem := rfl
@[simp] theorem State.modHost_host (f : HostIf → HostIf) : (s.modHost f).host = f s.host := rfl
@[simp] theorem State.modHost_flt (f : HostIf → HostIf) : (s.modHost f).flt = s.flt := rfl
@[simp] theorem State.modHost_job (f : HostIf → HostIf) : (s.modHost f).job = s.job := rfl
@[simp] theorem State.modHost_pins (f : HostIf → HostIf) : (s.modHost f).pins = s.pins := rfl
@[simp] theorem State.modHost_pwr (f : HostIf → HostIf) : (s.modHost f).pwr = s.pwr := rfl
@[simp] theorem State.modHost_therm (f : HostIf → HostIf) : (s.modHost f).therm = s.therm := rfl
@[simp] theorem State.modHost_hbm (f : HostIf → HostIf) : (s.modHost f).hbm = s.hbm := rfl
@[simp] theorem State.modHost_ring (f : HostIf → HostIf) : (s.modHost f).ring = s.ring := rfl
@[simp] theorem State.modHost_blks (f : HostIf → HostIf) : (s.modHost f).blks = s.blks := rfl
@[simp] theorem State.modHost_oe (f : HostIf → HostIf) : (s.modHost f).oe = s.oe := rfl
@[simp] theorem State.modHost_fab (f : HostIf → HostIf) : (s.modHost f).fab = s.fab := rfl
@[simp] theorem State.modHost_rmt (f : HostIf → HostIf) : (s.modHost f).rmt = s.rmt := rfl
@[simp] theorem State.modHost_col (f : HostIf → HostIf) : (s.modHost f).col = s.col := rfl
@[simp] theorem State.modHost_mem (f : HostIf → HostIf) : (s.modHost f).mem = s.mem := rfl
@[simp] theorem State.modHost_idn (f : HostIf → HostIf) : (s.modHost f).idn = s.idn := rfl

/-! ### modFlt -/

@[simp] theorem State.modFlt_pending (f : Faults → Faults) : (s.modFlt f).pending = s.pending := rfl
@[simp] theorem State.modFlt_dev (f : Faults → Faults) : (s.modFlt f).dev = s.dev := rfl
@[simp] theorem State.modFlt_aon (f : Faults → Faults) : (s.modFlt f).aon = s.aon := rfl
@[simp] theorem State.modFlt_free (f : Faults → Faults) : (s.modFlt f).free = s.free := rfl
@[simp] theorem State.modFlt_hostMem (f : Faults → Faults) : (s.modFlt f).hostMem = s.hostMem := rfl
@[simp] theorem State.modFlt_host (f : Faults → Faults) : (s.modFlt f).host = s.host := rfl
@[simp] theorem State.modFlt_flt (f : Faults → Faults) : (s.modFlt f).flt = f s.flt := rfl
@[simp] theorem State.modFlt_job (f : Faults → Faults) : (s.modFlt f).job = s.job := rfl
@[simp] theorem State.modFlt_pins (f : Faults → Faults) : (s.modFlt f).pins = s.pins := rfl
@[simp] theorem State.modFlt_pwr (f : Faults → Faults) : (s.modFlt f).pwr = s.pwr := rfl
@[simp] theorem State.modFlt_therm (f : Faults → Faults) : (s.modFlt f).therm = s.therm := rfl
@[simp] theorem State.modFlt_hbm (f : Faults → Faults) : (s.modFlt f).hbm = s.hbm := rfl
@[simp] theorem State.modFlt_ring (f : Faults → Faults) : (s.modFlt f).ring = s.ring := rfl
@[simp] theorem State.modFlt_blks (f : Faults → Faults) : (s.modFlt f).blks = s.blks := rfl
@[simp] theorem State.modFlt_oe (f : Faults → Faults) : (s.modFlt f).oe = s.oe := rfl
@[simp] theorem State.modFlt_fab (f : Faults → Faults) : (s.modFlt f).fab = s.fab := rfl
@[simp] theorem State.modFlt_rmt (f : Faults → Faults) : (s.modFlt f).rmt = s.rmt := rfl
@[simp] theorem State.modFlt_col (f : Faults → Faults) : (s.modFlt f).col = s.col := rfl
@[simp] theorem State.modFlt_mem (f : Faults → Faults) : (s.modFlt f).mem = s.mem := rfl
@[simp] theorem State.modFlt_idn (f : Faults → Faults) : (s.modFlt f).idn = s.idn := rfl

/-! ### modJob -/

@[simp] theorem State.modJob_pending (f : Job → Job) : (s.modJob f).pending = s.pending := rfl
@[simp] theorem State.modJob_dev (f : Job → Job) : (s.modJob f).dev = s.dev := rfl
@[simp] theorem State.modJob_aon (f : Job → Job) : (s.modJob f).aon = s.aon := rfl
@[simp] theorem State.modJob_free (f : Job → Job) : (s.modJob f).free = s.free := rfl
@[simp] theorem State.modJob_hostMem (f : Job → Job) : (s.modJob f).hostMem = s.hostMem := rfl
@[simp] theorem State.modJob_host (f : Job → Job) : (s.modJob f).host = s.host := rfl
@[simp] theorem State.modJob_flt (f : Job → Job) : (s.modJob f).flt = s.flt := rfl
@[simp] theorem State.modJob_job (f : Job → Job) : (s.modJob f).job = f s.job := rfl
@[simp] theorem State.modJob_pins (f : Job → Job) : (s.modJob f).pins = s.pins := rfl
@[simp] theorem State.modJob_pwr (f : Job → Job) : (s.modJob f).pwr = s.pwr := rfl
@[simp] theorem State.modJob_therm (f : Job → Job) : (s.modJob f).therm = s.therm := rfl
@[simp] theorem State.modJob_hbm (f : Job → Job) : (s.modJob f).hbm = s.hbm := rfl
@[simp] theorem State.modJob_ring (f : Job → Job) : (s.modJob f).ring = s.ring := rfl
@[simp] theorem State.modJob_blks (f : Job → Job) : (s.modJob f).blks = s.blks := rfl
@[simp] theorem State.modJob_oe (f : Job → Job) : (s.modJob f).oe = s.oe := rfl
@[simp] theorem State.modJob_fab (f : Job → Job) : (s.modJob f).fab = s.fab := rfl
@[simp] theorem State.modJob_rmt (f : Job → Job) : (s.modJob f).rmt = s.rmt := rfl
@[simp] theorem State.modJob_col (f : Job → Job) : (s.modJob f).col = s.col := rfl
@[simp] theorem State.modJob_mem (f : Job → Job) : (s.modJob f).mem = s.mem := rfl
@[simp] theorem State.modJob_idn (f : Job → Job) : (s.modJob f).idn = s.idn := rfl

/-! ### modPins -/

@[simp] theorem State.modPins_pending (f : Pins → Pins) : (s.modPins f).pending = s.pending := rfl
@[simp] theorem State.modPins_dev (f : Pins → Pins) : (s.modPins f).dev = s.dev := rfl
@[simp] theorem State.modPins_aon (f : Pins → Pins) : (s.modPins f).aon = s.aon := rfl
@[simp] theorem State.modPins_free (f : Pins → Pins) : (s.modPins f).free = s.free := rfl
@[simp] theorem State.modPins_hostMem (f : Pins → Pins) : (s.modPins f).hostMem = s.hostMem := rfl
@[simp] theorem State.modPins_host (f : Pins → Pins) : (s.modPins f).host = s.host := rfl
@[simp] theorem State.modPins_flt (f : Pins → Pins) : (s.modPins f).flt = s.flt := rfl
@[simp] theorem State.modPins_job (f : Pins → Pins) : (s.modPins f).job = s.job := rfl
@[simp] theorem State.modPins_pins (f : Pins → Pins) : (s.modPins f).pins = f s.pins := rfl
@[simp] theorem State.modPins_pwr (f : Pins → Pins) : (s.modPins f).pwr = s.pwr := rfl
@[simp] theorem State.modPins_therm (f : Pins → Pins) : (s.modPins f).therm = s.therm := rfl
@[simp] theorem State.modPins_hbm (f : Pins → Pins) : (s.modPins f).hbm = s.hbm := rfl
@[simp] theorem State.modPins_ring (f : Pins → Pins) : (s.modPins f).ring = s.ring := rfl
@[simp] theorem State.modPins_blks (f : Pins → Pins) : (s.modPins f).blks = s.blks := rfl
@[simp] theorem State.modPins_oe (f : Pins → Pins) : (s.modPins f).oe = s.oe := rfl
@[simp] theorem State.modPins_fab (f : Pins → Pins) : (s.modPins f).fab = s.fab := rfl
@[simp] theorem State.modPins_rmt (f : Pins → Pins) : (s.modPins f).rmt = s.rmt := rfl
@[simp] theorem State.modPins_col (f : Pins → Pins) : (s.modPins f).col = s.col := rfl
@[simp] theorem State.modPins_mem (f : Pins → Pins) : (s.modPins f).mem = s.mem := rfl
@[simp] theorem State.modPins_idn (f : Pins → Pins) : (s.modPins f).idn = s.idn := rfl

/-! ### modPwr -/

@[simp] theorem State.modPwr_pending (f : Power → Power) : (s.modPwr f).pending = s.pending := rfl
@[simp] theorem State.modPwr_dev (f : Power → Power) : (s.modPwr f).dev = s.dev := rfl
@[simp] theorem State.modPwr_aon (f : Power → Power) : (s.modPwr f).aon = s.aon := rfl
@[simp] theorem State.modPwr_free (f : Power → Power) : (s.modPwr f).free = s.free := rfl
@[simp] theorem State.modPwr_hostMem (f : Power → Power) : (s.modPwr f).hostMem = s.hostMem := rfl
@[simp] theorem State.modPwr_host (f : Power → Power) : (s.modPwr f).host = s.host := rfl
@[simp] theorem State.modPwr_flt (f : Power → Power) : (s.modPwr f).flt = s.flt := rfl
@[simp] theorem State.modPwr_job (f : Power → Power) : (s.modPwr f).job = s.job := rfl
@[simp] theorem State.modPwr_pins (f : Power → Power) : (s.modPwr f).pins = s.pins := rfl
@[simp] theorem State.modPwr_pwr (f : Power → Power) : (s.modPwr f).pwr = f s.pwr := rfl
@[simp] theorem State.modPwr_therm (f : Power → Power) : (s.modPwr f).therm = s.therm := rfl
@[simp] theorem State.modPwr_hbm (f : Power → Power) : (s.modPwr f).hbm = s.hbm := rfl
@[simp] theorem State.modPwr_ring (f : Power → Power) : (s.modPwr f).ring = s.ring := rfl
@[simp] theorem State.modPwr_blks (f : Power → Power) : (s.modPwr f).blks = s.blks := rfl
@[simp] theorem State.modPwr_oe (f : Power → Power) : (s.modPwr f).oe = s.oe := rfl
@[simp] theorem State.modPwr_fab (f : Power → Power) : (s.modPwr f).fab = s.fab := rfl
@[simp] theorem State.modPwr_rmt (f : Power → Power) : (s.modPwr f).rmt = s.rmt := rfl
@[simp] theorem State.modPwr_col (f : Power → Power) : (s.modPwr f).col = s.col := rfl
@[simp] theorem State.modPwr_mem (f : Power → Power) : (s.modPwr f).mem = s.mem := rfl
@[simp] theorem State.modPwr_idn (f : Power → Power) : (s.modPwr f).idn = s.idn := rfl

/-! ### modTherm -/

@[simp] theorem State.modTherm_pending (f : Thermal → Thermal) : (s.modTherm f).pending = s.pending := rfl
@[simp] theorem State.modTherm_dev (f : Thermal → Thermal) : (s.modTherm f).dev = s.dev := rfl
@[simp] theorem State.modTherm_aon (f : Thermal → Thermal) : (s.modTherm f).aon = s.aon := rfl
@[simp] theorem State.modTherm_free (f : Thermal → Thermal) : (s.modTherm f).free = s.free := rfl
@[simp] theorem State.modTherm_hostMem (f : Thermal → Thermal) : (s.modTherm f).hostMem = s.hostMem := rfl
@[simp] theorem State.modTherm_host (f : Thermal → Thermal) : (s.modTherm f).host = s.host := rfl
@[simp] theorem State.modTherm_flt (f : Thermal → Thermal) : (s.modTherm f).flt = s.flt := rfl
@[simp] theorem State.modTherm_job (f : Thermal → Thermal) : (s.modTherm f).job = s.job := rfl
@[simp] theorem State.modTherm_pins (f : Thermal → Thermal) : (s.modTherm f).pins = s.pins := rfl
@[simp] theorem State.modTherm_pwr (f : Thermal → Thermal) : (s.modTherm f).pwr = s.pwr := rfl
@[simp] theorem State.modTherm_therm (f : Thermal → Thermal) : (s.modTherm f).therm = f s.therm := rfl
@[simp] theorem State.modTherm_hbm (f : Thermal → Thermal) : (s.modTherm f).hbm = s.hbm := rfl
@[simp] theorem State.modTherm_ring (f : Thermal → Thermal) : (s.modTherm f).ring = s.ring := rfl
@[simp] theorem State.modTherm_blks (f : Thermal → Thermal) : (s.modTherm f).blks = s.blks := rfl
@[simp] theorem State.modTherm_oe (f : Thermal → Thermal) : (s.modTherm f).oe = s.oe := rfl
@[simp] theorem State.modTherm_fab (f : Thermal → Thermal) : (s.modTherm f).fab = s.fab := rfl
@[simp] theorem State.modTherm_rmt (f : Thermal → Thermal) : (s.modTherm f).rmt = s.rmt := rfl
@[simp] theorem State.modTherm_col (f : Thermal → Thermal) : (s.modTherm f).col = s.col := rfl
@[simp] theorem State.modTherm_mem (f : Thermal → Thermal) : (s.modTherm f).mem = s.mem := rfl
@[simp] theorem State.modTherm_idn (f : Thermal → Thermal) : (s.modTherm f).idn = s.idn := rfl

/-! ### modHbm -/

@[simp] theorem State.modHbm_pending (f : Hbm → Hbm) : (s.modHbm f).pending = s.pending := rfl
@[simp] theorem State.modHbm_dev (f : Hbm → Hbm) : (s.modHbm f).dev = s.dev := rfl
@[simp] theorem State.modHbm_aon (f : Hbm → Hbm) : (s.modHbm f).aon = s.aon := rfl
@[simp] theorem State.modHbm_free (f : Hbm → Hbm) : (s.modHbm f).free = s.free := rfl
@[simp] theorem State.modHbm_hostMem (f : Hbm → Hbm) : (s.modHbm f).hostMem = s.hostMem := rfl
@[simp] theorem State.modHbm_host (f : Hbm → Hbm) : (s.modHbm f).host = s.host := rfl
@[simp] theorem State.modHbm_flt (f : Hbm → Hbm) : (s.modHbm f).flt = s.flt := rfl
@[simp] theorem State.modHbm_job (f : Hbm → Hbm) : (s.modHbm f).job = s.job := rfl
@[simp] theorem State.modHbm_pins (f : Hbm → Hbm) : (s.modHbm f).pins = s.pins := rfl
@[simp] theorem State.modHbm_pwr (f : Hbm → Hbm) : (s.modHbm f).pwr = s.pwr := rfl
@[simp] theorem State.modHbm_therm (f : Hbm → Hbm) : (s.modHbm f).therm = s.therm := rfl
@[simp] theorem State.modHbm_hbm (f : Hbm → Hbm) : (s.modHbm f).hbm = f s.hbm := rfl
@[simp] theorem State.modHbm_ring (f : Hbm → Hbm) : (s.modHbm f).ring = s.ring := rfl
@[simp] theorem State.modHbm_blks (f : Hbm → Hbm) : (s.modHbm f).blks = s.blks := rfl
@[simp] theorem State.modHbm_oe (f : Hbm → Hbm) : (s.modHbm f).oe = s.oe := rfl
@[simp] theorem State.modHbm_fab (f : Hbm → Hbm) : (s.modHbm f).fab = s.fab := rfl
@[simp] theorem State.modHbm_rmt (f : Hbm → Hbm) : (s.modHbm f).rmt = s.rmt := rfl
@[simp] theorem State.modHbm_col (f : Hbm → Hbm) : (s.modHbm f).col = s.col := rfl
@[simp] theorem State.modHbm_mem (f : Hbm → Hbm) : (s.modHbm f).mem = s.mem := rfl
@[simp] theorem State.modHbm_idn (f : Hbm → Hbm) : (s.modHbm f).idn = s.idn := rfl

/-! ### modRing -/

@[simp] theorem State.modRing_pending (f : Ring → Ring) : (s.modRing f).pending = s.pending := rfl
@[simp] theorem State.modRing_dev (f : Ring → Ring) : (s.modRing f).dev = s.dev := rfl
@[simp] theorem State.modRing_aon (f : Ring → Ring) : (s.modRing f).aon = s.aon := rfl
@[simp] theorem State.modRing_free (f : Ring → Ring) : (s.modRing f).free = s.free := rfl
@[simp] theorem State.modRing_hostMem (f : Ring → Ring) : (s.modRing f).hostMem = s.hostMem := rfl
@[simp] theorem State.modRing_host (f : Ring → Ring) : (s.modRing f).host = s.host := rfl
@[simp] theorem State.modRing_flt (f : Ring → Ring) : (s.modRing f).flt = s.flt := rfl
@[simp] theorem State.modRing_job (f : Ring → Ring) : (s.modRing f).job = s.job := rfl
@[simp] theorem State.modRing_pins (f : Ring → Ring) : (s.modRing f).pins = s.pins := rfl
@[simp] theorem State.modRing_pwr (f : Ring → Ring) : (s.modRing f).pwr = s.pwr := rfl
@[simp] theorem State.modRing_therm (f : Ring → Ring) : (s.modRing f).therm = s.therm := rfl
@[simp] theorem State.modRing_hbm (f : Ring → Ring) : (s.modRing f).hbm = s.hbm := rfl
@[simp] theorem State.modRing_ring (f : Ring → Ring) : (s.modRing f).ring = f s.ring := rfl
@[simp] theorem State.modRing_blks (f : Ring → Ring) : (s.modRing f).blks = s.blks := rfl
@[simp] theorem State.modRing_oe (f : Ring → Ring) : (s.modRing f).oe = s.oe := rfl
@[simp] theorem State.modRing_fab (f : Ring → Ring) : (s.modRing f).fab = s.fab := rfl
@[simp] theorem State.modRing_rmt (f : Ring → Ring) : (s.modRing f).rmt = s.rmt := rfl
@[simp] theorem State.modRing_col (f : Ring → Ring) : (s.modRing f).col = s.col := rfl
@[simp] theorem State.modRing_mem (f : Ring → Ring) : (s.modRing f).mem = s.mem := rfl
@[simp] theorem State.modRing_idn (f : Ring → Ring) : (s.modRing f).idn = s.idn := rfl

/-! ### modBlks -/

@[simp] theorem State.modBlks_pending (f : Blocks → Blocks) : (s.modBlks f).pending = s.pending := rfl
@[simp] theorem State.modBlks_dev (f : Blocks → Blocks) : (s.modBlks f).dev = s.dev := rfl
@[simp] theorem State.modBlks_aon (f : Blocks → Blocks) : (s.modBlks f).aon = s.aon := rfl
@[simp] theorem State.modBlks_free (f : Blocks → Blocks) : (s.modBlks f).free = s.free := rfl
@[simp] theorem State.modBlks_hostMem (f : Blocks → Blocks) : (s.modBlks f).hostMem = s.hostMem := rfl
@[simp] theorem State.modBlks_host (f : Blocks → Blocks) : (s.modBlks f).host = s.host := rfl
@[simp] theorem State.modBlks_flt (f : Blocks → Blocks) : (s.modBlks f).flt = s.flt := rfl
@[simp] theorem State.modBlks_job (f : Blocks → Blocks) : (s.modBlks f).job = s.job := rfl
@[simp] theorem State.modBlks_pins (f : Blocks → Blocks) : (s.modBlks f).pins = s.pins := rfl
@[simp] theorem State.modBlks_pwr (f : Blocks → Blocks) : (s.modBlks f).pwr = s.pwr := rfl
@[simp] theorem State.modBlks_therm (f : Blocks → Blocks) : (s.modBlks f).therm = s.therm := rfl
@[simp] theorem State.modBlks_hbm (f : Blocks → Blocks) : (s.modBlks f).hbm = s.hbm := rfl
@[simp] theorem State.modBlks_ring (f : Blocks → Blocks) : (s.modBlks f).ring = s.ring := rfl
@[simp] theorem State.modBlks_blks (f : Blocks → Blocks) : (s.modBlks f).blks = f s.blks := rfl
@[simp] theorem State.modBlks_oe (f : Blocks → Blocks) : (s.modBlks f).oe = s.oe := rfl
@[simp] theorem State.modBlks_fab (f : Blocks → Blocks) : (s.modBlks f).fab = s.fab := rfl
@[simp] theorem State.modBlks_rmt (f : Blocks → Blocks) : (s.modBlks f).rmt = s.rmt := rfl
@[simp] theorem State.modBlks_col (f : Blocks → Blocks) : (s.modBlks f).col = s.col := rfl
@[simp] theorem State.modBlks_mem (f : Blocks → Blocks) : (s.modBlks f).mem = s.mem := rfl
@[simp] theorem State.modBlks_idn (f : Blocks → Blocks) : (s.modBlks f).idn = s.idn := rfl

/-! ### modOe -/

@[simp] theorem State.modOe_pending (f : Optics → Optics) : (s.modOe f).pending = s.pending := rfl
@[simp] theorem State.modOe_dev (f : Optics → Optics) : (s.modOe f).dev = s.dev := rfl
@[simp] theorem State.modOe_aon (f : Optics → Optics) : (s.modOe f).aon = s.aon := rfl
@[simp] theorem State.modOe_free (f : Optics → Optics) : (s.modOe f).free = s.free := rfl
@[simp] theorem State.modOe_hostMem (f : Optics → Optics) : (s.modOe f).hostMem = s.hostMem := rfl
@[simp] theorem State.modOe_host (f : Optics → Optics) : (s.modOe f).host = s.host := rfl
@[simp] theorem State.modOe_flt (f : Optics → Optics) : (s.modOe f).flt = s.flt := rfl
@[simp] theorem State.modOe_job (f : Optics → Optics) : (s.modOe f).job = s.job := rfl
@[simp] theorem State.modOe_pins (f : Optics → Optics) : (s.modOe f).pins = s.pins := rfl
@[simp] theorem State.modOe_pwr (f : Optics → Optics) : (s.modOe f).pwr = s.pwr := rfl
@[simp] theorem State.modOe_therm (f : Optics → Optics) : (s.modOe f).therm = s.therm := rfl
@[simp] theorem State.modOe_hbm (f : Optics → Optics) : (s.modOe f).hbm = s.hbm := rfl
@[simp] theorem State.modOe_ring (f : Optics → Optics) : (s.modOe f).ring = s.ring := rfl
@[simp] theorem State.modOe_blks (f : Optics → Optics) : (s.modOe f).blks = s.blks := rfl
@[simp] theorem State.modOe_oe (f : Optics → Optics) : (s.modOe f).oe = f s.oe := rfl
@[simp] theorem State.modOe_fab (f : Optics → Optics) : (s.modOe f).fab = s.fab := rfl
@[simp] theorem State.modOe_rmt (f : Optics → Optics) : (s.modOe f).rmt = s.rmt := rfl
@[simp] theorem State.modOe_col (f : Optics → Optics) : (s.modOe f).col = s.col := rfl
@[simp] theorem State.modOe_mem (f : Optics → Optics) : (s.modOe f).mem = s.mem := rfl
@[simp] theorem State.modOe_idn (f : Optics → Optics) : (s.modOe f).idn = s.idn := rfl

/-! ### modFab -/

@[simp] theorem State.modFab_pending (f : Fabric → Fabric) : (s.modFab f).pending = s.pending := rfl
@[simp] theorem State.modFab_dev (f : Fabric → Fabric) : (s.modFab f).dev = s.dev := rfl
@[simp] theorem State.modFab_aon (f : Fabric → Fabric) : (s.modFab f).aon = s.aon := rfl
@[simp] theorem State.modFab_free (f : Fabric → Fabric) : (s.modFab f).free = s.free := rfl
@[simp] theorem State.modFab_hostMem (f : Fabric → Fabric) : (s.modFab f).hostMem = s.hostMem := rfl
@[simp] theorem State.modFab_host (f : Fabric → Fabric) : (s.modFab f).host = s.host := rfl
@[simp] theorem State.modFab_flt (f : Fabric → Fabric) : (s.modFab f).flt = s.flt := rfl
@[simp] theorem State.modFab_job (f : Fabric → Fabric) : (s.modFab f).job = s.job := rfl
@[simp] theorem State.modFab_pins (f : Fabric → Fabric) : (s.modFab f).pins = s.pins := rfl
@[simp] theorem State.modFab_pwr (f : Fabric → Fabric) : (s.modFab f).pwr = s.pwr := rfl
@[simp] theorem State.modFab_therm (f : Fabric → Fabric) : (s.modFab f).therm = s.therm := rfl
@[simp] theorem State.modFab_hbm (f : Fabric → Fabric) : (s.modFab f).hbm = s.hbm := rfl
@[simp] theorem State.modFab_ring (f : Fabric → Fabric) : (s.modFab f).ring = s.ring := rfl
@[simp] theorem State.modFab_blks (f : Fabric → Fabric) : (s.modFab f).blks = s.blks := rfl
@[simp] theorem State.modFab_oe (f : Fabric → Fabric) : (s.modFab f).oe = s.oe := rfl
@[simp] theorem State.modFab_fab (f : Fabric → Fabric) : (s.modFab f).fab = f s.fab := rfl
@[simp] theorem State.modFab_rmt (f : Fabric → Fabric) : (s.modFab f).rmt = s.rmt := rfl
@[simp] theorem State.modFab_col (f : Fabric → Fabric) : (s.modFab f).col = s.col := rfl
@[simp] theorem State.modFab_mem (f : Fabric → Fabric) : (s.modFab f).mem = s.mem := rfl
@[simp] theorem State.modFab_idn (f : Fabric → Fabric) : (s.modFab f).idn = s.idn := rfl

/-! ### modRmt -/

@[simp] theorem State.modRmt_pending (f : Remote → Remote) : (s.modRmt f).pending = s.pending := rfl
@[simp] theorem State.modRmt_dev (f : Remote → Remote) : (s.modRmt f).dev = s.dev := rfl
@[simp] theorem State.modRmt_aon (f : Remote → Remote) : (s.modRmt f).aon = s.aon := rfl
@[simp] theorem State.modRmt_free (f : Remote → Remote) : (s.modRmt f).free = s.free := rfl
@[simp] theorem State.modRmt_hostMem (f : Remote → Remote) : (s.modRmt f).hostMem = s.hostMem := rfl
@[simp] theorem State.modRmt_host (f : Remote → Remote) : (s.modRmt f).host = s.host := rfl
@[simp] theorem State.modRmt_flt (f : Remote → Remote) : (s.modRmt f).flt = s.flt := rfl
@[simp] theorem State.modRmt_job (f : Remote → Remote) : (s.modRmt f).job = s.job := rfl
@[simp] theorem State.modRmt_pins (f : Remote → Remote) : (s.modRmt f).pins = s.pins := rfl
@[simp] theorem State.modRmt_pwr (f : Remote → Remote) : (s.modRmt f).pwr = s.pwr := rfl
@[simp] theorem State.modRmt_therm (f : Remote → Remote) : (s.modRmt f).therm = s.therm := rfl
@[simp] theorem State.modRmt_hbm (f : Remote → Remote) : (s.modRmt f).hbm = s.hbm := rfl
@[simp] theorem State.modRmt_ring (f : Remote → Remote) : (s.modRmt f).ring = s.ring := rfl
@[simp] theorem State.modRmt_blks (f : Remote → Remote) : (s.modRmt f).blks = s.blks := rfl
@[simp] theorem State.modRmt_oe (f : Remote → Remote) : (s.modRmt f).oe = s.oe := rfl
@[simp] theorem State.modRmt_fab (f : Remote → Remote) : (s.modRmt f).fab = s.fab := rfl
@[simp] theorem State.modRmt_rmt (f : Remote → Remote) : (s.modRmt f).rmt = f s.rmt := rfl
@[simp] theorem State.modRmt_col (f : Remote → Remote) : (s.modRmt f).col = s.col := rfl
@[simp] theorem State.modRmt_mem (f : Remote → Remote) : (s.modRmt f).mem = s.mem := rfl
@[simp] theorem State.modRmt_idn (f : Remote → Remote) : (s.modRmt f).idn = s.idn := rfl

/-! ### modCol -/

@[simp] theorem State.modCol_pending (f : Collectives → Collectives) : (s.modCol f).pending = s.pending := rfl
@[simp] theorem State.modCol_dev (f : Collectives → Collectives) : (s.modCol f).dev = s.dev := rfl
@[simp] theorem State.modCol_aon (f : Collectives → Collectives) : (s.modCol f).aon = s.aon := rfl
@[simp] theorem State.modCol_free (f : Collectives → Collectives) : (s.modCol f).free = s.free := rfl
@[simp] theorem State.modCol_hostMem (f : Collectives → Collectives) : (s.modCol f).hostMem = s.hostMem := rfl
@[simp] theorem State.modCol_host (f : Collectives → Collectives) : (s.modCol f).host = s.host := rfl
@[simp] theorem State.modCol_flt (f : Collectives → Collectives) : (s.modCol f).flt = s.flt := rfl
@[simp] theorem State.modCol_job (f : Collectives → Collectives) : (s.modCol f).job = s.job := rfl
@[simp] theorem State.modCol_pins (f : Collectives → Collectives) : (s.modCol f).pins = s.pins := rfl
@[simp] theorem State.modCol_pwr (f : Collectives → Collectives) : (s.modCol f).pwr = s.pwr := rfl
@[simp] theorem State.modCol_therm (f : Collectives → Collectives) : (s.modCol f).therm = s.therm := rfl
@[simp] theorem State.modCol_hbm (f : Collectives → Collectives) : (s.modCol f).hbm = s.hbm := rfl
@[simp] theorem State.modCol_ring (f : Collectives → Collectives) : (s.modCol f).ring = s.ring := rfl
@[simp] theorem State.modCol_blks (f : Collectives → Collectives) : (s.modCol f).blks = s.blks := rfl
@[simp] theorem State.modCol_oe (f : Collectives → Collectives) : (s.modCol f).oe = s.oe := rfl
@[simp] theorem State.modCol_fab (f : Collectives → Collectives) : (s.modCol f).fab = s.fab := rfl
@[simp] theorem State.modCol_rmt (f : Collectives → Collectives) : (s.modCol f).rmt = s.rmt := rfl
@[simp] theorem State.modCol_col (f : Collectives → Collectives) : (s.modCol f).col = f s.col := rfl
@[simp] theorem State.modCol_mem (f : Collectives → Collectives) : (s.modCol f).mem = s.mem := rfl
@[simp] theorem State.modCol_idn (f : Collectives → Collectives) : (s.modCol f).idn = s.idn := rfl

/-! ### modMem -/

@[simp] theorem State.modMem_pending (f : Member → Member) : (s.modMem f).pending = s.pending := rfl
@[simp] theorem State.modMem_dev (f : Member → Member) : (s.modMem f).dev = s.dev := rfl
@[simp] theorem State.modMem_aon (f : Member → Member) : (s.modMem f).aon = s.aon := rfl
@[simp] theorem State.modMem_free (f : Member → Member) : (s.modMem f).free = s.free := rfl
@[simp] theorem State.modMem_hostMem (f : Member → Member) : (s.modMem f).hostMem = s.hostMem := rfl
@[simp] theorem State.modMem_host (f : Member → Member) : (s.modMem f).host = s.host := rfl
@[simp] theorem State.modMem_flt (f : Member → Member) : (s.modMem f).flt = s.flt := rfl
@[simp] theorem State.modMem_job (f : Member → Member) : (s.modMem f).job = s.job := rfl
@[simp] theorem State.modMem_pins (f : Member → Member) : (s.modMem f).pins = s.pins := rfl
@[simp] theorem State.modMem_pwr (f : Member → Member) : (s.modMem f).pwr = s.pwr := rfl
@[simp] theorem State.modMem_therm (f : Member → Member) : (s.modMem f).therm = s.therm := rfl
@[simp] theorem State.modMem_hbm (f : Member → Member) : (s.modMem f).hbm = s.hbm := rfl
@[simp] theorem State.modMem_ring (f : Member → Member) : (s.modMem f).ring = s.ring := rfl
@[simp] theorem State.modMem_blks (f : Member → Member) : (s.modMem f).blks = s.blks := rfl
@[simp] theorem State.modMem_oe (f : Member → Member) : (s.modMem f).oe = s.oe := rfl
@[simp] theorem State.modMem_fab (f : Member → Member) : (s.modMem f).fab = s.fab := rfl
@[simp] theorem State.modMem_rmt (f : Member → Member) : (s.modMem f).rmt = s.rmt := rfl
@[simp] theorem State.modMem_col (f : Member → Member) : (s.modMem f).col = s.col := rfl
@[simp] theorem State.modMem_mem (f : Member → Member) : (s.modMem f).mem = f s.mem := rfl
@[simp] theorem State.modMem_idn (f : Member → Member) : (s.modMem f).idn = s.idn := rfl

/-! ### modIdn -/

@[simp] theorem State.modIdn_pending (f : Ident → Ident) : (s.modIdn f).pending = s.pending := rfl
@[simp] theorem State.modIdn_dev (f : Ident → Ident) : (s.modIdn f).dev = s.dev := rfl
@[simp] theorem State.modIdn_aon (f : Ident → Ident) : (s.modIdn f).aon = s.aon := rfl
@[simp] theorem State.modIdn_free (f : Ident → Ident) : (s.modIdn f).free = s.free := rfl
@[simp] theorem State.modIdn_hostMem (f : Ident → Ident) : (s.modIdn f).hostMem = s.hostMem := rfl
@[simp] theorem State.modIdn_host (f : Ident → Ident) : (s.modIdn f).host = s.host := rfl
@[simp] theorem State.modIdn_flt (f : Ident → Ident) : (s.modIdn f).flt = s.flt := rfl
@[simp] theorem State.modIdn_job (f : Ident → Ident) : (s.modIdn f).job = s.job := rfl
@[simp] theorem State.modIdn_pins (f : Ident → Ident) : (s.modIdn f).pins = s.pins := rfl
@[simp] theorem State.modIdn_pwr (f : Ident → Ident) : (s.modIdn f).pwr = s.pwr := rfl
@[simp] theorem State.modIdn_therm (f : Ident → Ident) : (s.modIdn f).therm = s.therm := rfl
@[simp] theorem State.modIdn_hbm (f : Ident → Ident) : (s.modIdn f).hbm = s.hbm := rfl
@[simp] theorem State.modIdn_ring (f : Ident → Ident) : (s.modIdn f).ring = s.ring := rfl
@[simp] theorem State.modIdn_blks (f : Ident → Ident) : (s.modIdn f).blks = s.blks := rfl
@[simp] theorem State.modIdn_oe (f : Ident → Ident) : (s.modIdn f).oe = s.oe := rfl
@[simp] theorem State.modIdn_fab (f : Ident → Ident) : (s.modIdn f).fab = s.fab := rfl
@[simp] theorem State.modIdn_rmt (f : Ident → Ident) : (s.modIdn f).rmt = s.rmt := rfl
@[simp] theorem State.modIdn_col (f : Ident → Ident) : (s.modIdn f).col = s.col := rfl
@[simp] theorem State.modIdn_mem (f : Ident → Ident) : (s.modIdn f).mem = s.mem := rfl
@[simp] theorem State.modIdn_idn (f : Ident → Ident) : (s.modIdn f).idn = f s.idn := rfl

/-! ### modBlk -/

@[simp] theorem State.modBlk_pending (p : Nat) (f : Block → Block) : (s.modBlk p f).pending = s.pending := rfl
@[simp] theorem State.modBlk_dev (p : Nat) (f : Block → Block) : (s.modBlk p f).dev = s.dev := rfl
@[simp] theorem State.modBlk_aon (p : Nat) (f : Block → Block) : (s.modBlk p f).aon = s.aon := rfl
@[simp] theorem State.modBlk_free (p : Nat) (f : Block → Block) : (s.modBlk p f).free = s.free := rfl
@[simp] theorem State.modBlk_hostMem (p : Nat) (f : Block → Block) : (s.modBlk p f).hostMem = s.hostMem := rfl
@[simp] theorem State.modBlk_host (p : Nat) (f : Block → Block) : (s.modBlk p f).host = s.host := rfl
@[simp] theorem State.modBlk_flt (p : Nat) (f : Block → Block) : (s.modBlk p f).flt = s.flt := rfl
@[simp] theorem State.modBlk_job (p : Nat) (f : Block → Block) : (s.modBlk p f).job = s.job := rfl
@[simp] theorem State.modBlk_pins (p : Nat) (f : Block → Block) : (s.modBlk p f).pins = s.pins := rfl
@[simp] theorem State.modBlk_pwr (p : Nat) (f : Block → Block) : (s.modBlk p f).pwr = s.pwr := rfl
@[simp] theorem State.modBlk_therm (p : Nat) (f : Block → Block) : (s.modBlk p f).therm = s.therm := rfl
@[simp] theorem State.modBlk_hbm (p : Nat) (f : Block → Block) : (s.modBlk p f).hbm = s.hbm := rfl
@[simp] theorem State.modBlk_ring (p : Nat) (f : Block → Block) : (s.modBlk p f).ring = s.ring := rfl
@[simp] theorem State.modBlk_blks (p : Nat) (f : Block → Block) : (s.modBlk p f).blks = { s.blks with blk := s.blks.blk.mod {} p f } := rfl
@[simp] theorem State.modBlk_oe (p : Nat) (f : Block → Block) : (s.modBlk p f).oe = s.oe := rfl
@[simp] theorem State.modBlk_fab (p : Nat) (f : Block → Block) : (s.modBlk p f).fab = s.fab := rfl
@[simp] theorem State.modBlk_rmt (p : Nat) (f : Block → Block) : (s.modBlk p f).rmt = s.rmt := rfl
@[simp] theorem State.modBlk_col (p : Nat) (f : Block → Block) : (s.modBlk p f).col = s.col := rfl
@[simp] theorem State.modBlk_mem (p : Nat) (f : Block → Block) : (s.modBlk p f).mem = s.mem := rfl
@[simp] theorem State.modBlk_idn (p : Nat) (f : Block → Block) : (s.modBlk p f).idn = s.idn := rfl

/-! ### modLink -/

@[simp] theorem State.modLink_pending (k : Nat) (f : Link → Link) : (s.modLink k f).pending = s.pending := rfl
@[simp] theorem State.modLink_dev (k : Nat) (f : Link → Link) : (s.modLink k f).dev = s.dev := rfl
@[simp] theorem State.modLink_aon (k : Nat) (f : Link → Link) : (s.modLink k f).aon = s.aon := rfl
@[simp] theorem State.modLink_free (k : Nat) (f : Link → Link) : (s.modLink k f).free = s.free := rfl
@[simp] theorem State.modLink_hostMem (k : Nat) (f : Link → Link) : (s.modLink k f).hostMem = s.hostMem := rfl
@[simp] theorem State.modLink_host (k : Nat) (f : Link → Link) : (s.modLink k f).host = s.host := rfl
@[simp] theorem State.modLink_flt (k : Nat) (f : Link → Link) : (s.modLink k f).flt = s.flt := rfl
@[simp] theorem State.modLink_job (k : Nat) (f : Link → Link) : (s.modLink k f).job = s.job := rfl
@[simp] theorem State.modLink_pins (k : Nat) (f : Link → Link) : (s.modLink k f).pins = s.pins := rfl
@[simp] theorem State.modLink_pwr (k : Nat) (f : Link → Link) : (s.modLink k f).pwr = s.pwr := rfl
@[simp] theorem State.modLink_therm (k : Nat) (f : Link → Link) : (s.modLink k f).therm = s.therm := rfl
@[simp] theorem State.modLink_hbm (k : Nat) (f : Link → Link) : (s.modLink k f).hbm = s.hbm := rfl
@[simp] theorem State.modLink_ring (k : Nat) (f : Link → Link) : (s.modLink k f).ring = s.ring := rfl
@[simp] theorem State.modLink_blks (k : Nat) (f : Link → Link) : (s.modLink k f).blks = s.blks := rfl
@[simp] theorem State.modLink_oe (k : Nat) (f : Link → Link) : (s.modLink k f).oe = s.oe := rfl
@[simp] theorem State.modLink_fab (k : Nat) (f : Link → Link) : (s.modLink k f).fab = { s.fab with link := s.fab.link.mod {} k f } := rfl
@[simp] theorem State.modLink_rmt (k : Nat) (f : Link → Link) : (s.modLink k f).rmt = s.rmt := rfl
@[simp] theorem State.modLink_col (k : Nat) (f : Link → Link) : (s.modLink k f).col = s.col := rfl
@[simp] theorem State.modLink_mem (k : Nat) (f : Link → Link) : (s.modLink k f).mem = s.mem := rfl
@[simp] theorem State.modLink_idn (k : Nat) (f : Link → Link) : (s.modLink k f).idn = s.idn := rfl

/-! ### modPeer -/

@[simp] theorem State.modPeer_pending (k : Nat) (f : Peer → Peer) : (s.modPeer k f).pending = s.pending := rfl
@[simp] theorem State.modPeer_dev (k : Nat) (f : Peer → Peer) : (s.modPeer k f).dev = s.dev := rfl
@[simp] theorem State.modPeer_aon (k : Nat) (f : Peer → Peer) : (s.modPeer k f).aon = s.aon := rfl
@[simp] theorem State.modPeer_free (k : Nat) (f : Peer → Peer) : (s.modPeer k f).free = s.free := rfl
@[simp] theorem State.modPeer_hostMem (k : Nat) (f : Peer → Peer) : (s.modPeer k f).hostMem = s.hostMem := rfl
@[simp] theorem State.modPeer_host (k : Nat) (f : Peer → Peer) : (s.modPeer k f).host = s.host := rfl
@[simp] theorem State.modPeer_flt (k : Nat) (f : Peer → Peer) : (s.modPeer k f).flt = s.flt := rfl
@[simp] theorem State.modPeer_job (k : Nat) (f : Peer → Peer) : (s.modPeer k f).job = s.job := rfl
@[simp] theorem State.modPeer_pins (k : Nat) (f : Peer → Peer) : (s.modPeer k f).pins = s.pins := rfl
@[simp] theorem State.modPeer_pwr (k : Nat) (f : Peer → Peer) : (s.modPeer k f).pwr = s.pwr := rfl
@[simp] theorem State.modPeer_therm (k : Nat) (f : Peer → Peer) : (s.modPeer k f).therm = s.therm := rfl
@[simp] theorem State.modPeer_hbm (k : Nat) (f : Peer → Peer) : (s.modPeer k f).hbm = s.hbm := rfl
@[simp] theorem State.modPeer_ring (k : Nat) (f : Peer → Peer) : (s.modPeer k f).ring = s.ring := rfl
@[simp] theorem State.modPeer_blks (k : Nat) (f : Peer → Peer) : (s.modPeer k f).blks = s.blks := rfl
@[simp] theorem State.modPeer_oe (k : Nat) (f : Peer → Peer) : (s.modPeer k f).oe = s.oe := rfl
@[simp] theorem State.modPeer_fab (k : Nat) (f : Peer → Peer) : (s.modPeer k f).fab = { s.fab with peer := s.fab.peer.mod {} k f } := rfl
@[simp] theorem State.modPeer_rmt (k : Nat) (f : Peer → Peer) : (s.modPeer k f).rmt = s.rmt := rfl
@[simp] theorem State.modPeer_col (k : Nat) (f : Peer → Peer) : (s.modPeer k f).col = s.col := rfl
@[simp] theorem State.modPeer_mem (k : Nat) (f : Peer → Peer) : (s.modPeer k f).mem = s.mem := rfl
@[simp] theorem State.modPeer_idn (k : Nat) (f : Peer → Peer) : (s.modPeer k f).idn = s.idn := rfl

/-! ### modPos -/

@[simp] theorem State.modPos_pending (k : Nat) (f : PosSt → PosSt) : (s.modPos k f).pending = s.pending := rfl
@[simp] theorem State.modPos_dev (k : Nat) (f : PosSt → PosSt) : (s.modPos k f).dev = s.dev := rfl
@[simp] theorem State.modPos_aon (k : Nat) (f : PosSt → PosSt) : (s.modPos k f).aon = s.aon := rfl
@[simp] theorem State.modPos_free (k : Nat) (f : PosSt → PosSt) : (s.modPos k f).free = s.free := rfl
@[simp] theorem State.modPos_hostMem (k : Nat) (f : PosSt → PosSt) : (s.modPos k f).hostMem = s.hostMem := rfl
@[simp] theorem State.modPos_host (k : Nat) (f : PosSt → PosSt) : (s.modPos k f).host = s.host := rfl
@[simp] theorem State.modPos_flt (k : Nat) (f : PosSt → PosSt) : (s.modPos k f).flt = s.flt := rfl
@[simp] theorem State.modPos_job (k : Nat) (f : PosSt → PosSt) : (s.modPos k f).job = s.job := rfl
@[simp] theorem State.modPos_pins (k : Nat) (f : PosSt → PosSt) : (s.modPos k f).pins = s.pins := rfl
@[simp] theorem State.modPos_pwr (k : Nat) (f : PosSt → PosSt) : (s.modPos k f).pwr = s.pwr := rfl
@[simp] theorem State.modPos_therm (k : Nat) (f : PosSt → PosSt) : (s.modPos k f).therm = s.therm := rfl
@[simp] theorem State.modPos_hbm (k : Nat) (f : PosSt → PosSt) : (s.modPos k f).hbm = s.hbm := rfl
@[simp] theorem State.modPos_ring (k : Nat) (f : PosSt → PosSt) : (s.modPos k f).ring = s.ring := rfl
@[simp] theorem State.modPos_blks (k : Nat) (f : PosSt → PosSt) : (s.modPos k f).blks = s.blks := rfl
@[simp] theorem State.modPos_oe (k : Nat) (f : PosSt → PosSt) : (s.modPos k f).oe = { s.oe with pos := s.oe.pos.mod {} k f } := rfl
@[simp] theorem State.modPos_fab (k : Nat) (f : PosSt → PosSt) : (s.modPos k f).fab = s.fab := rfl
@[simp] theorem State.modPos_rmt (k : Nat) (f : PosSt → PosSt) : (s.modPos k f).rmt = s.rmt := rfl
@[simp] theorem State.modPos_col (k : Nat) (f : PosSt → PosSt) : (s.modPos k f).col = s.col := rfl
@[simp] theorem State.modPos_mem (k : Nat) (f : PosSt → PosSt) : (s.modPos k f).mem = s.mem := rfl
@[simp] theorem State.modPos_idn (k : Nat) (f : PosSt → PosSt) : (s.modPos k f).idn = s.idn := rfl

/-! ### modEng -/

@[simp] theorem State.modEng_pending (e : Nat) (f : Engine → Engine) : (s.modEng e f).pending = s.pending := rfl
@[simp] theorem State.modEng_dev (e : Nat) (f : Engine → Engine) : (s.modEng e f).dev = s.dev := rfl
@[simp] theorem State.modEng_aon (e : Nat) (f : Engine → Engine) : (s.modEng e f).aon = s.aon := rfl
@[simp] theorem State.modEng_free (e : Nat) (f : Engine → Engine) : (s.modEng e f).free = s.free := rfl
@[simp] theorem State.modEng_hostMem (e : Nat) (f : Engine → Engine) : (s.modEng e f).hostMem = s.hostMem := rfl
@[simp] theorem State.modEng_host (e : Nat) (f : Engine → Engine) : (s.modEng e f).host = s.host := rfl
@[simp] theorem State.modEng_flt (e : Nat) (f : Engine → Engine) : (s.modEng e f).flt = s.flt := rfl
@[simp] theorem State.modEng_job (e : Nat) (f : Engine → Engine) : (s.modEng e f).job = s.job := rfl
@[simp] theorem State.modEng_pins (e : Nat) (f : Engine → Engine) : (s.modEng e f).pins = s.pins := rfl
@[simp] theorem State.modEng_pwr (e : Nat) (f : Engine → Engine) : (s.modEng e f).pwr = s.pwr := rfl
@[simp] theorem State.modEng_therm (e : Nat) (f : Engine → Engine) : (s.modEng e f).therm = s.therm := rfl
@[simp] theorem State.modEng_hbm (e : Nat) (f : Engine → Engine) : (s.modEng e f).hbm = s.hbm := rfl
@[simp] theorem State.modEng_ring (e : Nat) (f : Engine → Engine) : (s.modEng e f).ring = s.ring := rfl
@[simp] theorem State.modEng_blks (e : Nat) (f : Engine → Engine) : (s.modEng e f).blks = s.blks := rfl
@[simp] theorem State.modEng_oe (e : Nat) (f : Engine → Engine) : (s.modEng e f).oe = { s.oe with eng := s.oe.eng.mod {} e f } := rfl
@[simp] theorem State.modEng_fab (e : Nat) (f : Engine → Engine) : (s.modEng e f).fab = s.fab := rfl
@[simp] theorem State.modEng_rmt (e : Nat) (f : Engine → Engine) : (s.modEng e f).rmt = s.rmt := rfl
@[simp] theorem State.modEng_col (e : Nat) (f : Engine → Engine) : (s.modEng e f).col = s.col := rfl
@[simp] theorem State.modEng_mem (e : Nat) (f : Engine → Engine) : (s.modEng e f).mem = s.mem := rfl
@[simp] theorem State.modEng_idn (e : Nat) (f : Engine → Engine) : (s.modEng e f).idn = s.idn := rfl

/-! ### modBank -/

@[simp] theorem State.modBank_pending (b : Nat) (f : Bank → Bank) : (s.modBank b f).pending = s.pending := rfl
@[simp] theorem State.modBank_dev (b : Nat) (f : Bank → Bank) : (s.modBank b f).dev = s.dev := rfl
@[simp] theorem State.modBank_aon (b : Nat) (f : Bank → Bank) : (s.modBank b f).aon = s.aon := rfl
@[simp] theorem State.modBank_free (b : Nat) (f : Bank → Bank) : (s.modBank b f).free = s.free := rfl
@[simp] theorem State.modBank_hostMem (b : Nat) (f : Bank → Bank) : (s.modBank b f).hostMem = s.hostMem := rfl
@[simp] theorem State.modBank_host (b : Nat) (f : Bank → Bank) : (s.modBank b f).host = s.host := rfl
@[simp] theorem State.modBank_flt (b : Nat) (f : Bank → Bank) : (s.modBank b f).flt = s.flt := rfl
@[simp] theorem State.modBank_job (b : Nat) (f : Bank → Bank) : (s.modBank b f).job = s.job := rfl
@[simp] theorem State.modBank_pins (b : Nat) (f : Bank → Bank) : (s.modBank b f).pins = s.pins := rfl
@[simp] theorem State.modBank_pwr (b : Nat) (f : Bank → Bank) : (s.modBank b f).pwr = s.pwr := rfl
@[simp] theorem State.modBank_therm (b : Nat) (f : Bank → Bank) : (s.modBank b f).therm = s.therm := rfl
@[simp] theorem State.modBank_hbm (b : Nat) (f : Bank → Bank) : (s.modBank b f).hbm = s.hbm := rfl
@[simp] theorem State.modBank_ring (b : Nat) (f : Bank → Bank) : (s.modBank b f).ring = s.ring := rfl
@[simp] theorem State.modBank_blks (b : Nat) (f : Bank → Bank) : (s.modBank b f).blks = s.blks := rfl
@[simp] theorem State.modBank_oe (b : Nat) (f : Bank → Bank) : (s.modBank b f).oe = { s.oe with bank := s.oe.bank.mod {} b f } := rfl
@[simp] theorem State.modBank_fab (b : Nat) (f : Bank → Bank) : (s.modBank b f).fab = s.fab := rfl
@[simp] theorem State.modBank_rmt (b : Nat) (f : Bank → Bank) : (s.modBank b f).rmt = s.rmt := rfl
@[simp] theorem State.modBank_col (b : Nat) (f : Bank → Bank) : (s.modBank b f).col = s.col := rfl
@[simp] theorem State.modBank_mem (b : Nat) (f : Bank → Bank) : (s.modBank b f).mem = s.mem := rfl
@[simp] theorem State.modBank_idn (b : Nat) (f : Bank → Bank) : (s.modBank b f).idn = s.idn := rfl

/-! ### modReg -/

@[simp] theorem State.modReg_pending (r : Nat) (f : RegPwr → RegPwr) : (s.modReg r f).pending = s.pending := rfl
@[simp] theorem State.modReg_dev (r : Nat) (f : RegPwr → RegPwr) : (s.modReg r f).dev = s.dev := rfl
@[simp] theorem State.modReg_aon (r : Nat) (f : RegPwr → RegPwr) : (s.modReg r f).aon = s.aon := rfl
@[simp] theorem State.modReg_free (r : Nat) (f : RegPwr → RegPwr) : (s.modReg r f).free = s.free := rfl
@[simp] theorem State.modReg_hostMem (r : Nat) (f : RegPwr → RegPwr) : (s.modReg r f).hostMem = s.hostMem := rfl
@[simp] theorem State.modReg_host (r : Nat) (f : RegPwr → RegPwr) : (s.modReg r f).host = s.host := rfl
@[simp] theorem State.modReg_flt (r : Nat) (f : RegPwr → RegPwr) : (s.modReg r f).flt = s.flt := rfl
@[simp] theorem State.modReg_job (r : Nat) (f : RegPwr → RegPwr) : (s.modReg r f).job = s.job := rfl
@[simp] theorem State.modReg_pins (r : Nat) (f : RegPwr → RegPwr) : (s.modReg r f).pins = s.pins := rfl
@[simp] theorem State.modReg_therm (r : Nat) (f : RegPwr → RegPwr) : (s.modReg r f).therm = s.therm := rfl
@[simp] theorem State.modReg_hbm (r : Nat) (f : RegPwr → RegPwr) : (s.modReg r f).hbm = s.hbm := rfl
@[simp] theorem State.modReg_ring (r : Nat) (f : RegPwr → RegPwr) : (s.modReg r f).ring = s.ring := rfl
@[simp] theorem State.modReg_blks (r : Nat) (f : RegPwr → RegPwr) : (s.modReg r f).blks = s.blks := rfl
@[simp] theorem State.modReg_oe (r : Nat) (f : RegPwr → RegPwr) : (s.modReg r f).oe = s.oe := rfl
@[simp] theorem State.modReg_fab (r : Nat) (f : RegPwr → RegPwr) : (s.modReg r f).fab = s.fab := rfl
@[simp] theorem State.modReg_rmt (r : Nat) (f : RegPwr → RegPwr) : (s.modReg r f).rmt = s.rmt := rfl
@[simp] theorem State.modReg_col (r : Nat) (f : RegPwr → RegPwr) : (s.modReg r f).col = s.col := rfl
@[simp] theorem State.modReg_mem (r : Nat) (f : RegPwr → RegPwr) : (s.modReg r f).mem = s.mem := rfl
@[simp] theorem State.modReg_idn (r : Nat) (f : RegPwr → RegPwr) : (s.modReg r f).idn = s.idn := rfl

/-! ### modRegion -/

@[simp] theorem State.modRegion_pending (r : Nat) (f : Region → Region) : (s.modRegion r f).pending = s.pending := rfl
@[simp] theorem State.modRegion_dev (r : Nat) (f : Region → Region) : (s.modRegion r f).dev = s.dev := rfl
@[simp] theorem State.modRegion_aon (r : Nat) (f : Region → Region) : (s.modRegion r f).aon = s.aon := rfl
@[simp] theorem State.modRegion_free (r : Nat) (f : Region → Region) : (s.modRegion r f).free = s.free := rfl
@[simp] theorem State.modRegion_hostMem (r : Nat) (f : Region → Region) : (s.modRegion r f).hostMem = s.hostMem := rfl
@[simp] theorem State.modRegion_host (r : Nat) (f : Region → Region) : (s.modRegion r f).host = s.host := rfl
@[simp] theorem State.modRegion_flt (r : Nat) (f : Region → Region) : (s.modRegion r f).flt = { s.flt with region := s.flt.region.mod {} r f } := rfl
@[simp] theorem State.modRegion_job (r : Nat) (f : Region → Region) : (s.modRegion r f).job = s.job := rfl
@[simp] theorem State.modRegion_pins (r : Nat) (f : Region → Region) : (s.modRegion r f).pins = s.pins := rfl
@[simp] theorem State.modRegion_pwr (r : Nat) (f : Region → Region) : (s.modRegion r f).pwr = s.pwr := rfl
@[simp] theorem State.modRegion_therm (r : Nat) (f : Region → Region) : (s.modRegion r f).therm = s.therm := rfl
@[simp] theorem State.modRegion_hbm (r : Nat) (f : Region → Region) : (s.modRegion r f).hbm = s.hbm := rfl
@[simp] theorem State.modRegion_ring (r : Nat) (f : Region → Region) : (s.modRegion r f).ring = s.ring := rfl
@[simp] theorem State.modRegion_blks (r : Nat) (f : Region → Region) : (s.modRegion r f).blks = s.blks := rfl
@[simp] theorem State.modRegion_oe (r : Nat) (f : Region → Region) : (s.modRegion r f).oe = s.oe := rfl
@[simp] theorem State.modRegion_fab (r : Nat) (f : Region → Region) : (s.modRegion r f).fab = s.fab := rfl
@[simp] theorem State.modRegion_rmt (r : Nat) (f : Region → Region) : (s.modRegion r f).rmt = s.rmt := rfl
@[simp] theorem State.modRegion_col (r : Nat) (f : Region → Region) : (s.modRegion r f).col = s.col := rfl
@[simp] theorem State.modRegion_mem (r : Nat) (f : Region → Region) : (s.modRegion r f).mem = s.mem := rfl
@[simp] theorem State.modRegion_idn (r : Nat) (f : Region → Region) : (s.modRegion r f).idn = s.idn := rfl

/-! ### modReq -/

@[simp] theorem State.modReq_pending (t : Nat) (f : Req → Req) : (s.modReq t f).pending = s.pending := rfl
@[simp] theorem State.modReq_dev (t : Nat) (f : Req → Req) : (s.modReq t f).dev = s.dev := rfl
@[simp] theorem State.modReq_aon (t : Nat) (f : Req → Req) : (s.modReq t f).aon = s.aon := rfl
@[simp] theorem State.modReq_free (t : Nat) (f : Req → Req) : (s.modReq t f).free = s.free := rfl
@[simp] theorem State.modReq_hostMem (t : Nat) (f : Req → Req) : (s.modReq t f).hostMem = s.hostMem := rfl
@[simp] theorem State.modReq_host (t : Nat) (f : Req → Req) : (s.modReq t f).host = s.host := rfl
@[simp] theorem State.modReq_flt (t : Nat) (f : Req → Req) : (s.modReq t f).flt = s.flt := rfl
@[simp] theorem State.modReq_job (t : Nat) (f : Req → Req) : (s.modReq t f).job = s.job := rfl
@[simp] theorem State.modReq_pins (t : Nat) (f : Req → Req) : (s.modReq t f).pins = s.pins := rfl
@[simp] theorem State.modReq_pwr (t : Nat) (f : Req → Req) : (s.modReq t f).pwr = s.pwr := rfl
@[simp] theorem State.modReq_therm (t : Nat) (f : Req → Req) : (s.modReq t f).therm = s.therm := rfl
@[simp] theorem State.modReq_hbm (t : Nat) (f : Req → Req) : (s.modReq t f).hbm = s.hbm := rfl
@[simp] theorem State.modReq_ring (t : Nat) (f : Req → Req) : (s.modReq t f).ring = s.ring := rfl
@[simp] theorem State.modReq_blks (t : Nat) (f : Req → Req) : (s.modReq t f).blks = s.blks := rfl
@[simp] theorem State.modReq_oe (t : Nat) (f : Req → Req) : (s.modReq t f).oe = s.oe := rfl
@[simp] theorem State.modReq_fab (t : Nat) (f : Req → Req) : (s.modReq t f).fab = s.fab := rfl
@[simp] theorem State.modReq_col (t : Nat) (f : Req → Req) : (s.modReq t f).col = s.col := rfl
@[simp] theorem State.modReq_mem (t : Nat) (f : Req → Req) : (s.modReq t f).mem = s.mem := rfl
@[simp] theorem State.modReq_idn (t : Nat) (f : Req → Req) : (s.modReq t f).idn = s.idn := rfl

/-! ### modOp -/

@[simp] theorem State.modOp_pending (i : Nat) (f : RemOp → RemOp) : (s.modOp i f).pending = s.pending := rfl
@[simp] theorem State.modOp_dev (i : Nat) (f : RemOp → RemOp) : (s.modOp i f).dev = s.dev := rfl
@[simp] theorem State.modOp_aon (i : Nat) (f : RemOp → RemOp) : (s.modOp i f).aon = s.aon := rfl
@[simp] theorem State.modOp_free (i : Nat) (f : RemOp → RemOp) : (s.modOp i f).free = s.free := rfl
@[simp] theorem State.modOp_hostMem (i : Nat) (f : RemOp → RemOp) : (s.modOp i f).hostMem = s.hostMem := rfl
@[simp] theorem State.modOp_host (i : Nat) (f : RemOp → RemOp) : (s.modOp i f).host = s.host := rfl
@[simp] theorem State.modOp_flt (i : Nat) (f : RemOp → RemOp) : (s.modOp i f).flt = s.flt := rfl
@[simp] theorem State.modOp_job (i : Nat) (f : RemOp → RemOp) : (s.modOp i f).job = s.job := rfl
@[simp] theorem State.modOp_pins (i : Nat) (f : RemOp → RemOp) : (s.modOp i f).pins = s.pins := rfl
@[simp] theorem State.modOp_pwr (i : Nat) (f : RemOp → RemOp) : (s.modOp i f).pwr = s.pwr := rfl
@[simp] theorem State.modOp_therm (i : Nat) (f : RemOp → RemOp) : (s.modOp i f).therm = s.therm := rfl
@[simp] theorem State.modOp_hbm (i : Nat) (f : RemOp → RemOp) : (s.modOp i f).hbm = s.hbm := rfl
@[simp] theorem State.modOp_ring (i : Nat) (f : RemOp → RemOp) : (s.modOp i f).ring = s.ring := rfl
@[simp] theorem State.modOp_blks (i : Nat) (f : RemOp → RemOp) : (s.modOp i f).blks = s.blks := rfl
@[simp] theorem State.modOp_oe (i : Nat) (f : RemOp → RemOp) : (s.modOp i f).oe = s.oe := rfl
@[simp] theorem State.modOp_fab (i : Nat) (f : RemOp → RemOp) : (s.modOp i f).fab = s.fab := rfl
@[simp] theorem State.modOp_col (i : Nat) (f : RemOp → RemOp) : (s.modOp i f).col = s.col := rfl
@[simp] theorem State.modOp_mem (i : Nat) (f : RemOp → RemOp) : (s.modOp i f).mem = s.mem := rfl
@[simp] theorem State.modOp_idn (i : Nat) (f : RemOp → RemOp) : (s.modOp i f).idn = s.idn := rfl

/-! ### modWin -/

@[simp] theorem State.modWin_pending (w : Nat) (f : Window → Window) : (s.modWin w f).pending = s.pending := rfl
@[simp] theorem State.modWin_dev (w : Nat) (f : Window → Window) : (s.modWin w f).dev = s.dev := rfl
@[simp] theorem State.modWin_aon (w : Nat) (f : Window → Window) : (s.modWin w f).aon = s.aon := rfl
@[simp] theorem State.modWin_free (w : Nat) (f : Window → Window) : (s.modWin w f).free = s.free := rfl
@[simp] theorem State.modWin_hostMem (w : Nat) (f : Window → Window) : (s.modWin w f).hostMem = s.hostMem := rfl
@[simp] theorem State.modWin_host (w : Nat) (f : Window → Window) : (s.modWin w f).host = s.host := rfl
@[simp] theorem State.modWin_flt (w : Nat) (f : Window → Window) : (s.modWin w f).flt = s.flt := rfl
@[simp] theorem State.modWin_job (w : Nat) (f : Window → Window) : (s.modWin w f).job = s.job := rfl
@[simp] theorem State.modWin_pins (w : Nat) (f : Window → Window) : (s.modWin w f).pins = s.pins := rfl
@[simp] theorem State.modWin_pwr (w : Nat) (f : Window → Window) : (s.modWin w f).pwr = s.pwr := rfl
@[simp] theorem State.modWin_therm (w : Nat) (f : Window → Window) : (s.modWin w f).therm = s.therm := rfl
@[simp] theorem State.modWin_hbm (w : Nat) (f : Window → Window) : (s.modWin w f).hbm = s.hbm := rfl
@[simp] theorem State.modWin_ring (w : Nat) (f : Window → Window) : (s.modWin w f).ring = s.ring := rfl
@[simp] theorem State.modWin_blks (w : Nat) (f : Window → Window) : (s.modWin w f).blks = s.blks := rfl
@[simp] theorem State.modWin_oe (w : Nat) (f : Window → Window) : (s.modWin w f).oe = s.oe := rfl
@[simp] theorem State.modWin_fab (w : Nat) (f : Window → Window) : (s.modWin w f).fab = s.fab := rfl
@[simp] theorem State.modWin_rmt (w : Nat) (f : Window → Window) : (s.modWin w f).rmt = { s.rmt with win := s.rmt.win.mod {} w f } := rfl
@[simp] theorem State.modWin_col (w : Nat) (f : Window → Window) : (s.modWin w f).col = s.col := rfl
@[simp] theorem State.modWin_mem (w : Nat) (f : Window → Window) : (s.modWin w f).mem = s.mem := rfl
@[simp] theorem State.modWin_idn (w : Nat) (f : Window → Window) : (s.modWin w f).idn = s.idn := rfl

/-! ### modPeg -/

@[simp] theorem State.modPeg_pending (p : Nat) (f : Peg → Peg) : (s.modPeg p f).pending = s.pending := rfl
@[simp] theorem State.modPeg_dev (p : Nat) (f : Peg → Peg) : (s.modPeg p f).dev = s.dev := rfl
@[simp] theorem State.modPeg_aon (p : Nat) (f : Peg → Peg) : (s.modPeg p f).aon = s.aon := rfl
@[simp] theorem State.modPeg_free (p : Nat) (f : Peg → Peg) : (s.modPeg p f).free = s.free := rfl
@[simp] theorem State.modPeg_hostMem (p : Nat) (f : Peg → Peg) : (s.modPeg p f).hostMem = s.hostMem := rfl
@[simp] theorem State.modPeg_host (p : Nat) (f : Peg → Peg) : (s.modPeg p f).host = s.host := rfl
@[simp] theorem State.modPeg_flt (p : Nat) (f : Peg → Peg) : (s.modPeg p f).flt = s.flt := rfl
@[simp] theorem State.modPeg_job (p : Nat) (f : Peg → Peg) : (s.modPeg p f).job = s.job := rfl
@[simp] theorem State.modPeg_pins (p : Nat) (f : Peg → Peg) : (s.modPeg p f).pins = s.pins := rfl
@[simp] theorem State.modPeg_pwr (p : Nat) (f : Peg → Peg) : (s.modPeg p f).pwr = s.pwr := rfl
@[simp] theorem State.modPeg_therm (p : Nat) (f : Peg → Peg) : (s.modPeg p f).therm = s.therm := rfl
@[simp] theorem State.modPeg_hbm (p : Nat) (f : Peg → Peg) : (s.modPeg p f).hbm = s.hbm := rfl
@[simp] theorem State.modPeg_ring (p : Nat) (f : Peg → Peg) : (s.modPeg p f).ring = s.ring := rfl
@[simp] theorem State.modPeg_blks (p : Nat) (f : Peg → Peg) : (s.modPeg p f).blks = s.blks := rfl
@[simp] theorem State.modPeg_oe (p : Nat) (f : Peg → Peg) : (s.modPeg p f).oe = s.oe := rfl
@[simp] theorem State.modPeg_fab (p : Nat) (f : Peg → Peg) : (s.modPeg p f).fab = s.fab := rfl
@[simp] theorem State.modPeg_rmt (p : Nat) (f : Peg → Peg) : (s.modPeg p f).rmt = { s.rmt with peg := s.rmt.peg.mod {} p f } := rfl
@[simp] theorem State.modPeg_col (p : Nat) (f : Peg → Peg) : (s.modPeg p f).col = s.col := rfl
@[simp] theorem State.modPeg_mem (p : Nat) (f : Peg → Peg) : (s.modPeg p f).mem = s.mem := rfl
@[simp] theorem State.modPeg_idn (p : Nat) (f : Peg → Peg) : (s.modPeg p f).idn = s.idn := rfl

/-! ### modColOp -/

@[simp] theorem State.modColOp_pending (i : Nat) (f : ColOp → ColOp) : (s.modColOp i f).pending = s.pending := rfl
@[simp] theorem State.modColOp_dev (i : Nat) (f : ColOp → ColOp) : (s.modColOp i f).dev = s.dev := rfl
@[simp] theorem State.modColOp_aon (i : Nat) (f : ColOp → ColOp) : (s.modColOp i f).aon = s.aon := rfl
@[simp] theorem State.modColOp_free (i : Nat) (f : ColOp → ColOp) : (s.modColOp i f).free = s.free := rfl
@[simp] theorem State.modColOp_hostMem (i : Nat) (f : ColOp → ColOp) : (s.modColOp i f).hostMem = s.hostMem := rfl
@[simp] theorem State.modColOp_host (i : Nat) (f : ColOp → ColOp) : (s.modColOp i f).host = s.host := rfl
@[simp] theorem State.modColOp_flt (i : Nat) (f : ColOp → ColOp) : (s.modColOp i f).flt = s.flt := rfl
@[simp] theorem State.modColOp_job (i : Nat) (f : ColOp → ColOp) : (s.modColOp i f).job = s.job := rfl
@[simp] theorem State.modColOp_pins (i : Nat) (f : ColOp → ColOp) : (s.modColOp i f).pins = s.pins := rfl
@[simp] theorem State.modColOp_pwr (i : Nat) (f : ColOp → ColOp) : (s.modColOp i f).pwr = s.pwr := rfl
@[simp] theorem State.modColOp_therm (i : Nat) (f : ColOp → ColOp) : (s.modColOp i f).therm = s.therm := rfl
@[simp] theorem State.modColOp_hbm (i : Nat) (f : ColOp → ColOp) : (s.modColOp i f).hbm = s.hbm := rfl
@[simp] theorem State.modColOp_ring (i : Nat) (f : ColOp → ColOp) : (s.modColOp i f).ring = s.ring := rfl
@[simp] theorem State.modColOp_blks (i : Nat) (f : ColOp → ColOp) : (s.modColOp i f).blks = s.blks := rfl
@[simp] theorem State.modColOp_oe (i : Nat) (f : ColOp → ColOp) : (s.modColOp i f).oe = s.oe := rfl
@[simp] theorem State.modColOp_fab (i : Nat) (f : ColOp → ColOp) : (s.modColOp i f).fab = s.fab := rfl
@[simp] theorem State.modColOp_rmt (i : Nat) (f : ColOp → ColOp) : (s.modColOp i f).rmt = s.rmt := rfl
@[simp] theorem State.modColOp_mem (i : Nat) (f : ColOp → ColOp) : (s.modColOp i f).mem = s.mem := rfl
@[simp] theorem State.modColOp_idn (i : Nat) (f : ColOp → ColOp) : (s.modColOp i f).idn = s.idn := rfl

/-! ### modCkpt -/

@[simp] theorem State.modCkpt_pending (i : Nat) (f : Ckpt → Ckpt) : (s.modCkpt i f).pending = s.pending := rfl
@[simp] theorem State.modCkpt_dev (i : Nat) (f : Ckpt → Ckpt) : (s.modCkpt i f).dev = s.dev := rfl
@[simp] theorem State.modCkpt_aon (i : Nat) (f : Ckpt → Ckpt) : (s.modCkpt i f).aon = s.aon := rfl
@[simp] theorem State.modCkpt_free (i : Nat) (f : Ckpt → Ckpt) : (s.modCkpt i f).free = s.free := rfl
@[simp] theorem State.modCkpt_hostMem (i : Nat) (f : Ckpt → Ckpt) : (s.modCkpt i f).hostMem = s.hostMem := rfl
@[simp] theorem State.modCkpt_host (i : Nat) (f : Ckpt → Ckpt) : (s.modCkpt i f).host = s.host := rfl
@[simp] theorem State.modCkpt_flt (i : Nat) (f : Ckpt → Ckpt) : (s.modCkpt i f).flt = s.flt := rfl
@[simp] theorem State.modCkpt_job (i : Nat) (f : Ckpt → Ckpt) : (s.modCkpt i f).job = s.job := rfl
@[simp] theorem State.modCkpt_pins (i : Nat) (f : Ckpt → Ckpt) : (s.modCkpt i f).pins = s.pins := rfl
@[simp] theorem State.modCkpt_pwr (i : Nat) (f : Ckpt → Ckpt) : (s.modCkpt i f).pwr = s.pwr := rfl
@[simp] theorem State.modCkpt_therm (i : Nat) (f : Ckpt → Ckpt) : (s.modCkpt i f).therm = s.therm := rfl
@[simp] theorem State.modCkpt_hbm (i : Nat) (f : Ckpt → Ckpt) : (s.modCkpt i f).hbm = s.hbm := rfl
@[simp] theorem State.modCkpt_ring (i : Nat) (f : Ckpt → Ckpt) : (s.modCkpt i f).ring = s.ring := rfl
@[simp] theorem State.modCkpt_blks (i : Nat) (f : Ckpt → Ckpt) : (s.modCkpt i f).blks = s.blks := rfl
@[simp] theorem State.modCkpt_oe (i : Nat) (f : Ckpt → Ckpt) : (s.modCkpt i f).oe = s.oe := rfl
@[simp] theorem State.modCkpt_fab (i : Nat) (f : Ckpt → Ckpt) : (s.modCkpt i f).fab = s.fab := rfl
@[simp] theorem State.modCkpt_rmt (i : Nat) (f : Ckpt → Ckpt) : (s.modCkpt i f).rmt = s.rmt := rfl
@[simp] theorem State.modCkpt_col (i : Nat) (f : Ckpt → Ckpt) : (s.modCkpt i f).col = s.col := rfl
@[simp] theorem State.modCkpt_idn (i : Nat) (f : Ckpt → Ckpt) : (s.modCkpt i f).idn = s.idn := rfl

/-! ### modFill -/

@[simp] theorem State.modFill_pending (f : Fill → Fill) : (s.modFill f).pending = s.pending := rfl
@[simp] theorem State.modFill_dev (f : Fill → Fill) : (s.modFill f).dev = s.dev := rfl
@[simp] theorem State.modFill_aon (f : Fill → Fill) : (s.modFill f).aon = s.aon := rfl
@[simp] theorem State.modFill_free (f : Fill → Fill) : (s.modFill f).free = s.free := rfl
@[simp] theorem State.modFill_hostMem (f : Fill → Fill) : (s.modFill f).hostMem = s.hostMem := rfl
@[simp] theorem State.modFill_host (f : Fill → Fill) : (s.modFill f).host = s.host := rfl
@[simp] theorem State.modFill_flt (f : Fill → Fill) : (s.modFill f).flt = s.flt := rfl
@[simp] theorem State.modFill_job (f : Fill → Fill) : (s.modFill f).job = s.job := rfl
@[simp] theorem State.modFill_pins (f : Fill → Fill) : (s.modFill f).pins = s.pins := rfl
@[simp] theorem State.modFill_pwr (f : Fill → Fill) : (s.modFill f).pwr = s.pwr := rfl
@[simp] theorem State.modFill_therm (f : Fill → Fill) : (s.modFill f).therm = s.therm := rfl
@[simp] theorem State.modFill_hbm (f : Fill → Fill) : (s.modFill f).hbm = s.hbm := rfl
@[simp] theorem State.modFill_ring (f : Fill → Fill) : (s.modFill f).ring = s.ring := rfl
@[simp] theorem State.modFill_blks (f : Fill → Fill) : (s.modFill f).blks = s.blks := rfl
@[simp] theorem State.modFill_oe (f : Fill → Fill) : (s.modFill f).oe = s.oe := rfl
@[simp] theorem State.modFill_fab (f : Fill → Fill) : (s.modFill f).fab = s.fab := rfl
@[simp] theorem State.modFill_rmt (f : Fill → Fill) : (s.modFill f).rmt = s.rmt := rfl
@[simp] theorem State.modFill_col (f : Fill → Fill) : (s.modFill f).col = s.col := rfl
@[simp] theorem State.modFill_mem (f : Fill → Fill) : (s.modFill f).mem = { s.mem with fill := s.mem.fill.map f } := rfl
@[simp] theorem State.modFill_idn (f : Fill → Fill) : (s.modFill f).idn = s.idn := rfl

/-! ### modShadow -/

@[simp] theorem State.modShadow_pending (f : Shadow → Shadow) : (s.modShadow f).pending = s.pending := rfl
@[simp] theorem State.modShadow_dev (f : Shadow → Shadow) : (s.modShadow f).dev = s.dev := rfl
@[simp] theorem State.modShadow_aon (f : Shadow → Shadow) : (s.modShadow f).aon = s.aon := rfl
@[simp] theorem State.modShadow_free (f : Shadow → Shadow) : (s.modShadow f).free = s.free := rfl
@[simp] theorem State.modShadow_hostMem (f : Shadow → Shadow) : (s.modShadow f).hostMem = s.hostMem := rfl
@[simp] theorem State.modShadow_host (f : Shadow → Shadow) : (s.modShadow f).host = s.host := rfl
@[simp] theorem State.modShadow_flt (f : Shadow → Shadow) : (s.modShadow f).flt = s.flt := rfl
@[simp] theorem State.modShadow_job (f : Shadow → Shadow) : (s.modShadow f).job = s.job := rfl
@[simp] theorem State.modShadow_pins (f : Shadow → Shadow) : (s.modShadow f).pins = s.pins := rfl
@[simp] theorem State.modShadow_pwr (f : Shadow → Shadow) : (s.modShadow f).pwr = s.pwr := rfl
@[simp] theorem State.modShadow_therm (f : Shadow → Shadow) : (s.modShadow f).therm = s.therm := rfl
@[simp] theorem State.modShadow_hbm (f : Shadow → Shadow) : (s.modShadow f).hbm = s.hbm := rfl
@[simp] theorem State.modShadow_ring (f : Shadow → Shadow) : (s.modShadow f).ring = s.ring := rfl
@[simp] theorem State.modShadow_blks (f : Shadow → Shadow) : (s.modShadow f).blks = s.blks := rfl
@[simp] theorem State.modShadow_oe (f : Shadow → Shadow) : (s.modShadow f).oe = s.oe := rfl
@[simp] theorem State.modShadow_fab (f : Shadow → Shadow) : (s.modShadow f).fab = s.fab := rfl
@[simp] theorem State.modShadow_rmt (f : Shadow → Shadow) : (s.modShadow f).rmt = s.rmt := rfl
@[simp] theorem State.modShadow_col (f : Shadow → Shadow) : (s.modShadow f).col = s.col := rfl
@[simp] theorem State.modShadow_mem (f : Shadow → Shadow) : (s.modShadow f).mem = { s.mem with shadow := s.mem.shadow.map f } := rfl
@[simp] theorem State.modShadow_idn (f : Shadow → Shadow) : (s.modShadow f).idn = s.idn := rfl

end Sys2Proof.Machine
end

