-- ==== Sys2Proof/Laws/Lookup.lean ====
section
/-! SUPPORT. What a lookup answers after an update, and what the shared operations over rings, events and records leave alone. -/

namespace Sys2Proof.Machine

open Sys2Proof

/-! ### Lookups after updates -/

theorem Table.get_mod {α : Type} [DecidableEq α] (t : Table α) (d : α) (j k : Nat) (f : α → α) :
    (t.mod d k f).get d j = if j = k then f (t.get d k) else t.get d j := by
  unfold Table.mod; rw [Table.get_set]

theorem regPwr_modReg (s : State) (k r : Nat) (f : RegPwr → RegPwr) :
    regPwr (s.modReg k f) r = if r = k then f (regPwr s k) else regPwr s r := Table.get_mod _ _ _ _ _

theorem blkOf_modBlk (s : State) (k p : Nat) (f : Block → Block) :
    blkOf (s.modBlk k f) p = if p = k then f (blkOf s k) else blkOf s p := Table.get_mod _ _ _ _ _

theorem winOf_modWin (s : State) (k w : Nat) (f : Window → Window) :
    winOf (s.modWin k f) w = if w = k then f (winOf s k) else winOf s w := Table.get_mod _ _ _ _ _

theorem pegOf_modPeg (s : State) (k p : Nat) (f : Peg → Peg) :
    pegOf (s.modPeg k f) p = if p = k then f (pegOf s k) else pegOf s p := Table.get_mod _ _ _ _ _

theorem posAt_modPos (s : State) (k p : Nat) (f : PosSt → PosSt) :
    posAt (s.modPos k f) p = if p = k then f (posAt s k) else posAt s p := Table.get_mod _ _ _ _ _

theorem engineOf_modEng (s : State) (k e : Nat) (f : Engine → Engine) :
    engineOf (s.modEng k f) e = if e = k then f (engineOf s k) else engineOf s e := Table.get_mod _ _ _ _ _

theorem fabLink_modLink (s : State) (k l : Nat) (f : Link → Link) :
    fabLink (s.modLink k f) l = if l = k then f (fabLink s k) else fabLink s l := Table.get_mod _ _ _ _ _

theorem peerAt_modPeer (s : State) (k p : Nat) (f : Peer → Peer) :
    peerAt (s.modPeer k f) p = if p = k then f (peerAt s k) else peerAt s p := Table.get_mod _ _ _ _ _

theorem regionAt_modRegion (s : State) (k r : Nat) (f : Region → Region) :
    regionAt (s.modRegion k f) r = if r = k then f (regionAt s k) else regionAt s r := Table.get_mod _ _ _ _ _

theorem cplRing_setCplRing (s : State) (j k : Nat) (r : OutRing) :
    cplRing (setCplRing j r s) k = if k = j then r else cplRing s k := Table.get_set _ _ _ _ _

theorem ctrOf_postCtr (s : State) (p c v q d : Nat) :
    ctrOf (blkOf (postCtr p c v s) q) d
      = if q = p ∧ d = c then (ctrOf (blkOf s p) c + v) % 2 ^ 32 else ctrOf (blkOf s q) d := by
  unfold postCtr
  rw [blkOf_modBlk]
  by_cases hq : q = p
  · subst hq
    by_cases hd : d = c <;> simp [ctrOf, Table.get_mod, hd]
  · simp [hq]

/-! ### What touches only the host interface and host memory -/

/-- Only the host interface and host memory may differ. -/
structure HostOnly (s t : State) : Prop where
  eq : t = { s with host := t.host, hostMem := t.hostMem }

/-- Only the host interface, host memory and the error log may differ. -/
structure LogOnly (s t : State) : Prop where
  eq : t = { s with host := t.host, hostMem := t.hostMem, flt := t.flt }

theorem HostOnly.refl (s : State) : HostOnly s s := ⟨rfl⟩

theorem HostOnly.trans {s t u : State} (h : HostOnly s t) (k : HostOnly t u) : HostOnly s u := by
  constructor
  rw [k.eq, h.eq]

theorem HostOnly.log {s t : State} (h : HostOnly s t) : LogOnly s t := by
  constructor
  conv_lhs => rw [h.eq]
  rw [h.eq]

theorem LogOnly.trans {s t u : State} (h : LogOnly s t) (k : LogOnly t u) : LogOnly s u := by
  constructor
  rw [k.eq, h.eq]

theorem HostOnly.ite {s t u : State} {c : Prop} [Decidable c] (h : HostOnly s t) (k : HostOnly s u) : HostOnly s (if c then t else u) := by
  split <;> assumption

theorem modHost_only (f : HostIf → HostIf) (s : State) : HostOnly s (s.modHost f) := ⟨rfl⟩

theorem hostMem_only (m : Mem) (s : State) : HostOnly s { s with hostMem := m } := ⟨rfl⟩

theorem raiseVector_only (v : Nat) (s : State) : HostOnly s (raiseVector v s) := modHost_only _ _

theorem writeCpl_only (j : Nat) (c : Cpl) (s : State) : HostOnly s (writeCpl j c s) := by
  unfold writeCpl
  refine (hostMem_only _ s).trans (HostOnly.ite ((modHost_only _ _).trans (raiseVector_only _ _)) (modHost_only _ _))

theorem writeEvt_only (e : Event) (s : State) : HostOnly s (writeEvt e s) := by
  unfold writeEvt
  dsimp only
  have hx : ∀ (c : Prop) [Decidable c] (m : Mem) (f : HostIf → HostIf),
      HostOnly s (if c then ({ s with hostMem := m } : State).modHost f else { s with hostMem := m }) :=
    fun c _ m f => HostOnly.ite ⟨rfl⟩ ⟨rfl⟩
  exact HostOnly.ite (((hx _ _ _).trans (modHost_only _ _)).trans (raiseVector_only _ _)) ((hx _ _ _).trans (modHost_only _ _))

theorem flushEvtOnce_only (s : State) : HostOnly s (flushEvtOnce s) := by
  unfold flushEvtOnce
  refine HostOnly.ite (HostOnly.ite ((writeEvt_only _ _).trans (modHost_only _ _)) ?_) (HostOnly.refl _)
  split
  · exact HostOnly.refl _
  · exact (modHost_only _ _).trans (writeEvt_only _ _)

theorem flushEvtN_only (n : Nat) : ∀ s : State, HostOnly s (flushEvtN n s) := by
  induction n with
  | zero => exact HostOnly.refl
  | succ n ih => exact fun s => (flushEvtOnce_only s).trans (ih _)

theorem flushEvt_only (s : State) : HostOnly s (flushEvt s) := flushEvtN_only _ s

theorem enqueueEvt_only (e : Event) (s : State) : HostOnly s (enqueueEvt e s) :=
  HostOnly.ite ((modHost_only _ _).trans (flushEvt_only _)) ((modHost_only _ _).trans (flushEvt_only _))

theorem holdWrite_only (w : Held) (s : State) : HostOnly s (holdWrite w s) := modHost_only _ _

theorem raiseEvent_only (code cls : Nat) (body : List Byte) (s : State) : HostOnly s (raiseEvent code cls body s) :=
  HostOnly.ite (enqueueEvt_only _ _) (holdWrite_only _ _)

theorem ringError_only (kind i : Nat) (s : State) : HostOnly s (ringError kind i s) := raiseEvent_only _ _ _ _

theorem deliverCpl_only (j : Nat) (c : Cpl) (s : State) : HostOnly s (deliverCpl j c s) :=
  HostOnly.ite (HostOnly.refl _) (HostOnly.ite (writeCpl_only _ _ _) (modHost_only _ _))

theorem postCpl_only (j : Nat) (c : Cpl) (s : State) : HostOnly s (postCpl j c s) :=
  HostOnly.ite (deliverCpl_only _ _ _) (holdWrite_only _ _)

theorem flushCpl_only (j : Nat) (ws : List (Nat × Cpl)) : ∀ s : State, HostOnly s (flushCpl j ws s) := by
  induction ws with
  | nil => exact HostOnly.refl
  | cons w ws ih =>
    intro s
    unfold flushCpl
    exact HostOnly.ite (((modHost_only _ _).trans (writeCpl_only _ _ _)).trans (ih _)) (ih _)

theorem flushRing_only (j : Nat) (s : State) : HostOnly s (flushRing j s) := HostOnly.ite (flushCpl_only _ _ _) (HostOnly.refl _)

theorem takeCmd_only (i : Nat) (s : State) : HostOnly s (takeCmd i s) := ⟨rfl⟩

/-- Completing a command touches the host interface and host memory alone. -/
theorem complete_only (id status value : Nat) (s : State) : HostOnly s (complete id status value s) := by
  unfold complete
  split
  · exact HostOnly.refl _
  · exact HostOnly.ite (modHost_only _ _) ((modHost_only _ _).trans (postCpl_only _ _ _))

theorem writeStationRecord_only (a : Nat) (bs : List Byte) (s : State) : HostOnly s (writeStationRecord a bs s) :=
  HostOnly.ite (hostMem_only _ _) (holdWrite_only _ _)

theorem modFlt_only (f : Faults → Faults) (s : State) : LogOnly s (s.modFlt f) := ⟨rfl⟩

theorem putRecord_only (r : Record) (s : State) : LogOnly s (putRecord r s) :=
  (modFlt_only _ _).trans (raiseEvent_only _ _ _ _).log

theorem LogOnly.ite {s t u : State} {c : Prop} [Decidable c] (h : LogOnly s t) (k : LogOnly s u) : LogOnly s (if c then t else u) := by
  split <;> assumption

/-- Writing a record touches the error log, the host interface and host memory alone. -/
theorem record_only (r : Record) (s : State) : LogOnly s (record r s) := by
  unfold record
  exact LogOnly.ite (LogOnly.ite ((modFlt_only _ _).trans (putRecord_only _ _)) (modFlt_only _ _)) (putRecord_only _ _)

theorem spareExhausted_only (k r u d : Nat) (s : State) : LogOnly s (spareExhausted k r u d s) := by
  unfold spareExhausted
  split
  · exact (HostOnly.refl s).log
  · exact (modFlt_only _ _).trans (raiseEvent_only _ _ _ _).log

/-! ### Fields that these operations leave alone -/

@[simp] theorem raiseEvent_pending (code cls : Nat) (body : List Byte) (s : State) : (raiseEvent code cls body s).pending = s.pending := by
  rw [(raiseEvent_only code cls body s).eq]

@[simp] theorem raiseEvent_dev (code cls : Nat) (body : List Byte) (s : State) : (raiseEvent code cls body s).dev = s.dev := by
  rw [(raiseEvent_only code cls body s).eq]

@[simp] theorem raiseEvent_aon (code cls : Nat) (body : List Byte) (s : State) : (raiseEvent code cls body s).aon = s.aon := by
  rw [(raiseEvent_only code cls body s).eq]

@[simp] theorem raiseEvent_free (code cls : Nat) (body : List Byte) (s : State) : (raiseEvent code cls body s).free = s.free := by
  rw [(raiseEvent_only code cls body s).eq]

@[simp] theorem raiseEvent_job (code cls : Nat) (body : List Byte) (s : State) : (raiseEvent code cls body s).job = s.job := by
  rw [(raiseEvent_only code cls body s).eq]

@[simp] theorem raiseEvent_pins (code cls : Nat) (body : List Byte) (s : State) : (raiseEvent code cls body s).pins = s.pins := by
  rw [(raiseEvent_only code cls body s).eq]

@[simp] theorem raiseEvent_pwr (code cls : Nat) (body : List Byte) (s : State) : (raiseEvent code cls body s).pwr = s.pwr := by
  rw [(raiseEvent_only code cls body s).eq]

@[simp] theorem raiseEvent_therm (code cls : Nat) (body : List Byte) (s : State) : (raiseEvent code cls body s).therm = s.therm := by
  rw [(raiseEvent_only code cls body s).eq]

@[simp] theorem raiseEvent_hbm (code cls : Nat) (body : List Byte) (s : State) : (raiseEvent code cls body s).hbm = s.hbm := by
  rw [(raiseEvent_only code cls body s).eq]

@[simp] theorem raiseEvent_ring (code cls : Nat) (body : List Byte) (s : State) : (raiseEvent code cls body s).ring = s.ring := by
  rw [(raiseEvent_only code cls body s).eq]

@[simp] theorem raiseEvent_blks (code cls : Nat) (body : List Byte) (s : State) : (raiseEvent code cls body s).blks = s.blks := by
  rw [(raiseEvent_only code cls body s).eq]

@[simp] theorem raiseEvent_oe (code cls : Nat) (body : List Byte) (s : State) : (raiseEvent code cls body s).oe = s.oe := by
  rw [(raiseEvent_only code cls body s).eq]

@[simp] theorem raiseEvent_fab (code cls : Nat) (body : List Byte) (s : State) : (raiseEvent code cls body s).fab = s.fab := by
  rw [(raiseEvent_only code cls body s).eq]

@[simp] theorem raiseEvent_rmt (code cls : Nat) (body : List Byte) (s : State) : (raiseEvent code cls body s).rmt = s.rmt := by
  rw [(raiseEvent_only code cls body s).eq]

@[simp] theorem raiseEvent_col (code cls : Nat) (body : List Byte) (s : State) : (raiseEvent code cls body s).col = s.col := by
  rw [(raiseEvent_only code cls body s).eq]

@[simp] theorem raiseEvent_mem (code cls : Nat) (body : List Byte) (s : State) : (raiseEvent code cls body s).mem = s.mem := by
  rw [(raiseEvent_only code cls body s).eq]

@[simp] theorem raiseEvent_idn (code cls : Nat) (body : List Byte) (s : State) : (raiseEvent code cls body s).idn = s.idn := by
  rw [(raiseEvent_only code cls body s).eq]

@[simp] theorem raiseEvent_flt (code cls : Nat) (body : List Byte) (s : State) : (raiseEvent code cls body s).flt = s.flt := by
  rw [(raiseEvent_only code cls body s).eq]

@[simp] theorem ringError_pending (kind i : Nat) (s : State) : (ringError kind i s).pending = s.pending := by
  rw [(ringError_only kind i s).eq]

@[simp] theorem ringError_dev (kind i : Nat) (s : State) : (ringError kind i s).dev = s.dev := by
  rw [(ringError_only kind i s).eq]

@[simp] theorem ringError_aon (kind i : Nat) (s : State) : (ringError kind i s).aon = s.aon := by
  rw [(ringError_only kind i s).eq]

@[simp] theorem ringError_free (kind i : Nat) (s : State) : (ringError kind i s).free = s.free := by
  rw [(ringError_only kind i s).eq]

@[simp] theorem ringError_job (kind i : Nat) (s : State) : (ringError kind i s).job = s.job := by
  rw [(ringError_only kind i s).eq]

@[simp] theorem ringError_pins (kind i : Nat) (s : State) : (ringError kind i s).pins = s.pins := by
  rw [(ringError_only kind i s).eq]

@[simp] theorem ringError_pwr (kind i : Nat) (s : State) : (ringError kind i s).pwr = s.pwr := by
  rw [(ringError_only kind i s).eq]

@[simp] theorem ringError_therm (kind i : Nat) (s : State) : (ringError kind i s).therm = s.therm := by
  rw [(ringError_only kind i s).eq]

@[simp] theorem ringError_hbm (kind i : Nat) (s : State) : (ringError kind i s).hbm = s.hbm := by
  rw [(ringError_only kind i s).eq]

@[simp] theorem ringError_ring (kind i : Nat) (s : State) : (ringError kind i s).ring = s.ring := by
  rw [(ringError_only kind i s).eq]

@[simp] theorem ringError_blks (kind i : Nat) (s : State) : (ringError kind i s).blks = s.blks := by
  rw [(ringError_only kind i s).eq]

@[simp] theorem ringError_oe (kind i : Nat) (s : State) : (ringError kind i s).oe = s.oe := by
  rw [(ringError_only kind i s).eq]

@[simp] theorem ringError_fab (kind i : Nat) (s : State) : (ringError kind i s).fab = s.fab := by
  rw [(ringError_only kind i s).eq]

@[simp] theorem ringError_rmt (kind i : Nat) (s : State) : (ringError kind i s).rmt = s.rmt := by
  rw [(ringError_only kind i s).eq]

@[simp] theorem ringError_col (kind i : Nat) (s : State) : (ringError kind i s).col = s.col := by
  rw [(ringError_only kind i s).eq]

@[simp] theorem ringError_mem (kind i : Nat) (s : State) : (ringError kind i s).mem = s.mem := by
  rw [(ringError_only kind i s).eq]

@[simp] theorem ringError_idn (kind i : Nat) (s : State) : (ringError kind i s).idn = s.idn := by
  rw [(ringError_only kind i s).eq]

@[simp] theorem ringError_flt (kind i : Nat) (s : State) : (ringError kind i s).flt = s.flt := by
  rw [(ringError_only kind i s).eq]

@[simp] theorem complete_pending (id status value : Nat) (s : State) : (complete id status value s).pending = s.pending := by
  rw [(complete_only id status value s).eq]

@[simp] theorem complete_dev (id status value : Nat) (s : State) : (complete id status value s).dev = s.dev := by
  rw [(complete_only id status value s).eq]

@[simp] theorem complete_aon (id status value : Nat) (s : State) : (complete id status value s).aon = s.aon := by
  rw [(complete_only id status value s).eq]

@[simp] theorem complete_free (id status value : Nat) (s : State) : (complete id status value s).free = s.free := by
  rw [(complete_only id status value s).eq]

@[simp] theorem complete_job (id status value : Nat) (s : State) : (complete id status value s).job = s.job := by
  rw [(complete_only id status value s).eq]

@[simp] theorem complete_pins (id status value : Nat) (s : State) : (complete id status value s).pins = s.pins := by
  rw [(complete_only id status value s).eq]

@[simp] theorem complete_pwr (id status value : Nat) (s : State) : (complete id status value s).pwr = s.pwr := by
  rw [(complete_only id status value s).eq]

@[simp] theorem complete_therm (id status value : Nat) (s : State) : (complete id status value s).therm = s.therm := by
  rw [(complete_only id status value s).eq]

@[simp] theorem complete_hbm (id status value : Nat) (s : State) : (complete id status value s).hbm = s.hbm := by
  rw [(complete_only id status value s).eq]

@[simp] theorem complete_ring (id status value : Nat) (s : State) : (complete id status value s).ring = s.ring := by
  rw [(complete_only id status value s).eq]

@[simp] theorem complete_blks (id status value : Nat) (s : State) : (complete id status value s).blks = s.blks := by
  rw [(complete_only id status value s).eq]

@[simp] theorem complete_oe (id status value : Nat) (s : State) : (complete id status value s).oe = s.oe := by
  rw [(complete_only id status value s).eq]

@[simp] theorem complete_fab (id status value : Nat) (s : State) : (complete id status value s).fab = s.fab := by
  rw [(complete_only id status value s).eq]

@[simp] theorem complete_rmt (id status value : Nat) (s : State) : (complete id status value s).rmt = s.rmt := by
  rw [(complete_only id status value s).eq]

@[simp] theorem complete_col (id status value : Nat) (s : State) : (complete id status value s).col = s.col := by
  rw [(complete_only id status value s).eq]

@[simp] theorem complete_mem (id status value : Nat) (s : State) : (complete id status value s).mem = s.mem := by
  rw [(complete_only id status value s).eq]

@[simp] theorem complete_idn (id status value : Nat) (s : State) : (complete id status value s).idn = s.idn := by
  rw [(complete_only id status value s).eq]

@[simp] theorem complete_flt (id status value : Nat) (s : State) : (complete id status value s).flt = s.flt := by
  rw [(complete_only id status value s).eq]

@[simp] theorem postCpl_pending (j : Nat) (c : Cpl) (s : State) : (postCpl j c s).pending = s.pending := by
  rw [(postCpl_only j c s).eq]

@[simp] theorem postCpl_dev (j : Nat) (c : Cpl) (s : State) : (postCpl j c s).dev = s.dev := by
  rw [(postCpl_only j c s).eq]

@[simp] theorem postCpl_aon (j : Nat) (c : Cpl) (s : State) : (postCpl j c s).aon = s.aon := by
  rw [(postCpl_only j c s).eq]

@[simp] theorem postCpl_free (j : Nat) (c : Cpl) (s : State) : (postCpl j c s).free = s.free := by
  rw [(postCpl_only j c s).eq]

@[simp] theorem postCpl_job (j : Nat) (c : Cpl) (s : State) : (postCpl j c s).job = s.job := by
  rw [(postCpl_only j c s).eq]

@[simp] theorem postCpl_pins (j : Nat) (c : Cpl) (s : State) : (postCpl j c s).pins = s.pins := by
  rw [(postCpl_only j c s).eq]

@[simp] theorem postCpl_pwr (j : Nat) (c : Cpl) (s : State) : (postCpl j c s).pwr = s.pwr := by
  rw [(postCpl_only j c s).eq]

@[simp] theorem postCpl_therm (j : Nat) (c : Cpl) (s : State) : (postCpl j c s).therm = s.therm := by
  rw [(postCpl_only j c s).eq]

@[simp] theorem postCpl_hbm (j : Nat) (c : Cpl) (s : State) : (postCpl j c s).hbm = s.hbm := by
  rw [(postCpl_only j c s).eq]

@[simp] theorem postCpl_ring (j : Nat) (c : Cpl) (s : State) : (postCpl j c s).ring = s.ring := by
  rw [(postCpl_only j c s).eq]

@[simp] theorem postCpl_blks (j : Nat) (c : Cpl) (s : State) : (postCpl j c s).blks = s.blks := by
  rw [(postCpl_only j c s).eq]

@[simp] theorem postCpl_oe (j : Nat) (c : Cpl) (s : State) : (postCpl j c s).oe = s.oe := by
  rw [(postCpl_only j c s).eq]

@[simp] theorem postCpl_fab (j : Nat) (c : Cpl) (s : State) : (postCpl j c s).fab = s.fab := by
  rw [(postCpl_only j c s).eq]

@[simp] theorem postCpl_rmt (j : Nat) (c : Cpl) (s : State) : (postCpl j c s).rmt = s.rmt := by
  rw [(postCpl_only j c s).eq]

@[simp] theorem postCpl_col (j : Nat) (c : Cpl) (s : State) : (postCpl j c s).col = s.col := by
  rw [(postCpl_only j c s).eq]

@[simp] theorem postCpl_mem (j : Nat) (c : Cpl) (s : State) : (postCpl j c s).mem = s.mem := by
  rw [(postCpl_only j c s).eq]

@[simp] theorem postCpl_idn (j : Nat) (c : Cpl) (s : State) : (postCpl j c s).idn = s.idn := by
  rw [(postCpl_only j c s).eq]

@[simp] theorem postCpl_flt (j : Nat) (c : Cpl) (s : State) : (postCpl j c s).flt = s.flt := by
  rw [(postCpl_only j c s).eq]

@[simp] theorem writeStationRecord_pending (a : Nat) (bs : List Byte) (s : State) : (writeStationRecord a bs s).pending = s.pending := by
  rw [(writeStationRecord_only a bs s).eq]

@[simp] theorem writeStationRecord_dev (a : Nat) (bs : List Byte) (s : State) : (writeStationRecord a bs s).dev = s.dev := by
  rw [(writeStationRecord_only a bs s).eq]

@[simp] theorem writeStationRecord_aon (a : Nat) (bs : List Byte) (s : State) : (writeStationRecord a bs s).aon = s.aon := by
  rw [(writeStationRecord_only a bs s).eq]

@[simp] theorem writeStationRecord_free (a : Nat) (bs : List Byte) (s : State) : (writeStationRecord a bs s).free = s.free := by
  rw [(writeStationRecord_only a bs s).eq]

@[simp] theorem writeStationRecord_job (a : Nat) (bs : List Byte) (s : State) : (writeStationRecord a bs s).job = s.job := by
  rw [(writeStationRecord_only a bs s).eq]

@[simp] theorem writeStationRecord_pins (a : Nat) (bs : List Byte) (s : State) : (writeStationRecord a bs s).pins = s.pins := by
  rw [(writeStationRecord_only a bs s).eq]

@[simp] theorem writeStationRecord_pwr (a : Nat) (bs : List Byte) (s : State) : (writeStationRecord a bs s).pwr = s.pwr := by
  rw [(writeStationRecord_only a bs s).eq]

@[simp] theorem writeStationRecord_therm (a : Nat) (bs : List Byte) (s : State) : (writeStationRecord a bs s).therm = s.therm := by
  rw [(writeStationRecord_only a bs s).eq]

@[simp] theorem writeStationRecord_hbm (a : Nat) (bs : List Byte) (s : State) : (writeStationRecord a bs s).hbm = s.hbm := by
  rw [(writeStationRecord_only a bs s).eq]

@[simp] theorem writeStationRecord_ring (a : Nat) (bs : List Byte) (s : State) : (writeStationRecord a bs s).ring = s.ring := by
  rw [(writeStationRecord_only a bs s).eq]

@[simp] theorem writeStationRecord_blks (a : Nat) (bs : List Byte) (s : State) : (writeStationRecord a bs s).blks = s.blks := by
  rw [(writeStationRecord_only a bs s).eq]

@[simp] theorem writeStationRecord_oe (a : Nat) (bs : List Byte) (s : State) : (writeStationRecord a bs s).oe = s.oe := by
  rw [(writeStationRecord_only a bs s).eq]

@[simp] theorem writeStationRecord_fab (a : Nat) (bs : List Byte) (s : State) : (writeStationRecord a bs s).fab = s.fab := by
  rw [(writeStationRecord_only a bs s).eq]

@[simp] theorem writeStationRecord_rmt (a : Nat) (bs : List Byte) (s : State) : (writeStationRecord a bs s).rmt = s.rmt := by
  rw [(writeStationRecord_only a bs s).eq]

@[simp] theorem writeStationRecord_col (a : Nat) (bs : List Byte) (s : State) : (writeStationRecord a bs s).col = s.col := by
  rw [(writeStationRecord_only a bs s).eq]

@[simp] theorem writeStationRecord_mem (a : Nat) (bs : List Byte) (s : State) : (writeStationRecord a bs s).mem = s.mem := by
  rw [(writeStationRecord_only a bs s).eq]

@[simp] theorem writeStationRecord_idn (a : Nat) (bs : List Byte) (s : State) : (writeStationRecord a bs s).idn = s.idn := by
  rw [(writeStationRecord_only a bs s).eq]

@[simp] theorem writeStationRecord_flt (a : Nat) (bs : List Byte) (s : State) : (writeStationRecord a bs s).flt = s.flt := by
  rw [(writeStationRecord_only a bs s).eq]

@[simp] theorem flushRing_pending (j : Nat) (s : State) : (flushRing j s).pending = s.pending := by
  rw [(flushRing_only j s).eq]

@[simp] theorem flushRing_dev (j : Nat) (s : State) : (flushRing j s).dev = s.dev := by
  rw [(flushRing_only j s).eq]

@[simp] theorem flushRing_aon (j : Nat) (s : State) : (flushRing j s).aon = s.aon := by
  rw [(flushRing_only j s).eq]

@[simp] theorem flushRing_free (j : Nat) (s : State) : (flushRing j s).free = s.free := by
  rw [(flushRing_only j s).eq]

@[simp] theorem flushRing_job (j : Nat) (s : State) : (flushRing j s).job = s.job := by
  rw [(flushRing_only j s).eq]

@[simp] theorem flushRing_pins (j : Nat) (s : State) : (flushRing j s).pins = s.pins := by
  rw [(flushRing_only j s).eq]

@[simp] theorem flushRing_pwr (j : Nat) (s : State) : (flushRing j s).pwr = s.pwr := by
  rw [(flushRing_only j s).eq]

@[simp] theorem flushRing_therm (j : Nat) (s : State) : (flushRing j s).therm = s.therm := by
  rw [(flushRing_only j s).eq]

@[simp] theorem flushRing_hbm (j : Nat) (s : State) : (flushRing j s).hbm = s.hbm := by
  rw [(flushRing_only j s).eq]

@[simp] theorem flushRing_ring (j : Nat) (s : State) : (flushRing j s).ring = s.ring := by
  rw [(flushRing_only j s).eq]

@[simp] theorem flushRing_blks (j : Nat) (s : State) : (flushRing j s).blks = s.blks := by
  rw [(flushRing_only j s).eq]

@[simp] theorem flushRing_oe (j : Nat) (s : State) : (flushRing j s).oe = s.oe := by
  rw [(flushRing_only j s).eq]

@[simp] theorem flushRing_fab (j : Nat) (s : State) : (flushRing j s).fab = s.fab := by
  rw [(flushRing_only j s).eq]

@[simp] theorem flushRing_rmt (j : Nat) (s : State) : (flushRing j s).rmt = s.rmt := by
  rw [(flushRing_only j s).eq]

@[simp] theorem flushRing_col (j : Nat) (s : State) : (flushRing j s).col = s.col := by
  rw [(flushRing_only j s).eq]

@[simp] theorem flushRing_mem (j : Nat) (s : State) : (flushRing j s).mem = s.mem := by
  rw [(flushRing_only j s).eq]

@[simp] theorem flushRing_idn (j : Nat) (s : State) : (flushRing j s).idn = s.idn := by
  rw [(flushRing_only j s).eq]

@[simp] theorem flushRing_flt (j : Nat) (s : State) : (flushRing j s).flt = s.flt := by
  rw [(flushRing_only j s).eq]

@[simp] theorem record_pending (r : Record) (s : State) : (record r s).pending = s.pending := by
  rw [(record_only r s).eq]

@[simp] theorem record_dev (r : Record) (s : State) : (record r s).dev = s.dev := by
  rw [(record_only r s).eq]

@[simp] theorem record_aon (r : Record) (s : State) : (record r s).aon = s.aon := by
  rw [(record_only r s).eq]

@[simp] theorem record_free (r : Record) (s : State) : (record r s).free = s.free := by
  rw [(record_only r s).eq]

@[simp] theorem record_job (r : Record) (s : State) : (record r s).job = s.job := by
  rw [(record_only r s).eq]

@[simp] theorem record_pins (r : Record) (s : State) : (record r s).pins = s.pins := by
  rw [(record_only r s).eq]

@[simp] theorem record_pwr (r : Record) (s : State) : (record r s).pwr = s.pwr := by
  rw [(record_only r s).eq]

@[simp] theorem record_therm (r : Record) (s : State) : (record r s).therm = s.therm := by
  rw [(record_only r s).eq]

@[simp] theorem record_hbm (r : Record) (s : State) : (record r s).hbm = s.hbm := by
  rw [(record_only r s).eq]

@[simp] theorem record_ring (r : Record) (s : State) : (record r s).ring = s.ring := by
  rw [(record_only r s).eq]

@[simp] theorem record_blks (r : Record) (s : State) : (record r s).blks = s.blks := by
  rw [(record_only r s).eq]

@[simp] theorem record_oe (r : Record) (s : State) : (record r s).oe = s.oe := by
  rw [(record_only r s).eq]

@[simp] theorem record_fab (r : Record) (s : State) : (record r s).fab = s.fab := by
  rw [(record_only r s).eq]

@[simp] theorem record_rmt (r : Record) (s : State) : (record r s).rmt = s.rmt := by
  rw [(record_only r s).eq]

@[simp] theorem record_col (r : Record) (s : State) : (record r s).col = s.col := by
  rw [(record_only r s).eq]

@[simp] theorem record_mem (r : Record) (s : State) : (record r s).mem = s.mem := by
  rw [(record_only r s).eq]

@[simp] theorem record_idn (r : Record) (s : State) : (record r s).idn = s.idn := by
  rw [(record_only r s).eq]

@[simp] theorem spareExhausted_pending (k r u d : Nat) (s : State) : (spareExhausted k r u d s).pending = s.pending := by
  rw [(spareExhausted_only k r u d s).eq]

@[simp] theorem spareExhausted_dev (k r u d : Nat) (s : State) : (spareExhausted k r u d s).dev = s.dev := by
  rw [(spareExhausted_only k r u d s).eq]

@[simp] theorem spareExhausted_aon (k r u d : Nat) (s : State) : (spareExhausted k r u d s).aon = s.aon := by
  rw [(spareExhausted_only k r u d s).eq]

@[simp] theorem spareExhausted_free (k r u d : Nat) (s : State) : (spareExhausted k r u d s).free = s.free := by
  rw [(spareExhausted_only k r u d s).eq]

@[simp] theorem spareExhausted_job (k r u d : Nat) (s : State) : (spareExhausted k r u d s).job = s.job := by
  rw [(spareExhausted_only k r u d s).eq]

@[simp] theorem spareExhausted_pins (k r u d : Nat) (s : State) : (spareExhausted k r u d s).pins = s.pins := by
  rw [(spareExhausted_only k r u d s).eq]

@[simp] theorem spareExhausted_pwr (k r u d : Nat) (s : State) : (spareExhausted k r u d s).pwr = s.pwr := by
  rw [(spareExhausted_only k r u d s).eq]

@[simp] theorem spareExhausted_therm (k r u d : Nat) (s : State) : (spareExhausted k r u d s).therm = s.therm := by
  rw [(spareExhausted_only k r u d s).eq]

@[simp] theorem spareExhausted_hbm (k r u d : Nat) (s : State) : (spareExhausted k r u d s).hbm = s.hbm := by
  rw [(spareExhausted_only k r u d s).eq]

@[simp] theorem spareExhausted_ring (k r u d : Nat) (s : State) : (spareExhausted k r u d s).ring = s.ring := by
  rw [(spareExhausted_only k r u d s).eq]

@[simp] theorem spareExhausted_blks (k r u d : Nat) (s : State) : (spareExhausted k r u d s).blks = s.blks := by
  rw [(spareExhausted_only k r u d s).eq]

@[simp] theorem spareExhausted_oe (k r u d : Nat) (s : State) : (spareExhausted k r u d s).oe = s.oe := by
  rw [(spareExhausted_only k r u d s).eq]

@[simp] theorem spareExhausted_fab (k r u d : Nat) (s : State) : (spareExhausted k r u d s).fab = s.fab := by
  rw [(spareExhausted_only k r u d s).eq]

@[simp] theorem spareExhausted_rmt (k r u d : Nat) (s : State) : (spareExhausted k r u d s).rmt = s.rmt := by
  rw [(spareExhausted_only k r u d s).eq]

@[simp] theorem spareExhausted_col (k r u d : Nat) (s : State) : (spareExhausted k r u d s).col = s.col := by
  rw [(spareExhausted_only k r u d s).eq]

@[simp] theorem spareExhausted_mem (k r u d : Nat) (s : State) : (spareExhausted k r u d s).mem = s.mem := by
  rw [(spareExhausted_only k r u d s).eq]

@[simp] theorem spareExhausted_idn (k r u d : Nat) (s : State) : (spareExhausted k r u d s).idn = s.idn := by
  rw [(spareExhausted_only k r u d s).eq]

/-! ### Host commands -/

/-- A row's step takes a command of its own. -/
theorem hostStep_takes {mine : InCmd → Bool} {body : InCmd → State → State} {s : State} {i : Nat} {c : InCmd} (h : Takes s i c)
    (hm : mine c = true) (hr : rowless c = false) : hostStep mine body s = body c (takeCmd i s) := by
  obtain ⟨h1, h2, h3⟩ := h
  subst h2
  simp [hostStep, h1, hm, hr, h3]

end Sys2Proof.Machine
end

