-- ==== Sys2Proof/Tests/Slice0.lean ====
section
/-! SUPPORT. Tests: ill-formed commands that the check refuses, single values worked out by hand from the spec, and for every statement
with hypotheses a witness that meets them. -/

namespace Sys2Proof.Tests

set_option Elab.async false

open Sys2Proof Sys2Proof.Machine

/-- READY with the PCIe link up. -/
def ready : State := { State.reset with dev := .ready, host := { State.reset.host with linkUp := true, trained := true } }
/-- Command ring 63 holds one command and is bound to completion ring 0; an event ring is enabled. -/
def withCmd (s : State) (op a0 a1 a2 a3 a4 : Nat) : State := { s with
  hostMem := Mem.writeN s.hostMem 0x1000 ([BitVec.ofNat 8 op, 0] ++ leBytes 6 0xBEEF ++ ([a0, a1, a2, a3, a4].flatMap (leBytes 8))),
  host := { s.host with
    cmd := [(63, { base := 0x1000, enable := true, pi := 1 })]
    cpl := [(0, { base := 0x2000, enable := true })]
    evt := { base := 0x4000, enable := true, log2 := 6 } } }
/-- The command that `withCmd` leaves in turn. -/
def theCmd (op a0 a1 a2 a3 a4 : Nat) : InCmd := { id := 0, ring := 63, cpl := 0, opcode := op, tag := 0xBEEF, arg0 := a0, arg1 := a1, arg2 := a2, arg3 := a3, arg4 := a4 }
/-- A RUN of two legs in its first leg. -/
def aRun : Run :=
  { cmd := 3, base := 0, legs := 2, j := 1, buf := 0x10000, slots := 1, phase := .leg, legStart := 0, overdue := 0, arrived := [], drainAsked := false
    arrivedAt := 0, sealDigest := [1, 2, 3, 4], sealDet := [{}, {}, {}, {}], sealEnergy := 0, sealAon := 0 }
/-- Usable HBM of 2,000 frames in every region, over two channels each. -/
def withHbm (s : State) : State := { s with
  hbm := { s.hbm with pmap := (List.range 4).map fun r => (r, { boot := [0, 63], space := 2048, usable := 2000 }) } }
/-- A bundle of its four slot words. -/
def bundle (ctl arr vec dma : Nat) : BitVec 256 := BitVec.ofNat 256 (arr * 2 ^ 192 + vec * 2 ^ 128 + dma * 2 ^ 64 + ctl)
/-- Logical block 255, on physical block 267, runs a stream of one task in leg 1, with an allocation sequence. -/
def issuing (stream : List (BitVec 256)) (k : Block) : State := withHbm { ready with
  dev := .run
  job := { ready.job with
    run := some aRun, tag := 9
    trav := some { classBlocks := [64, 64, 64, 64], classFrames := [0, 0, 0, 0], streams := [(255, stream)],
                   legs := [{ closed := true, parts := ⟨[], [], [], [(255, [0x40100000, 0x00080F00])], []⟩ }] } }
  pwr := { ready.pwr with clk := [(255, 2)] }
  fab := { ready.fab with number := some 5, recovery := false }
  blks := { ready.blks with blk := [(267, if k.tasks.isEmpty then { k with tasks := [(0, stream.length)] } else k)] } }
/-- A block whose descriptor tables start in segment 0, with 16 OWNED segments and one descriptor. -/
def withDesc (raw : List Byte) : Block :=
  { base := [(0, 1), (1, 1), (2, 1)], seg := (List.range 16).map fun i => (i, { st := .owned })
    sp := Mem.writeN [(0x1000, 0x81), (0x2000, 0x7F)] 0 raw }
/-- A message with CODE and body, and the state in which it is at the head of the intake. -/
def msg (code : Nat) (body : List Byte) : Carried := { pkt := { type := 1, src := 8, payload := leBytes 2 code ++ zeros 6 ++ body } }
def heard (s : State) (code : Nat) (body : List Byte) : State := { s with fab := { s.fab with mgtIn := [msg code body] } }
/-- A traverse of one open leg without tasks lies at offset 0x1000 of region 0. -/
def legParts (plan : List Byte) : LegParts :=
  ⟨plan, zeros 4 ++ leBytes 2 200 ++ leBytes 2 3 ++ leBytes 2 100 ++ leBytes 2 1000 ++ zeros 4, zeros 16, [], [[], [], [], []]⟩
def inHbm (s : State) : State := { withHbm s with
  hbm := { (withHbm s).hbm with dram := Mem.writeN [] 0x1000 (leBytes 4 0x4B443754 ++ leBytes 4 1 ++ leBytes 4 1 ++ [1, 1, 1, 1] ++ zeros 16 ++ leBytes 8 64) } }

/-! ### Ill-formed commands: one for each check -/

def rails (n : Nat) : Rails := ⟨12000, 1000, List.replicate n 0, 0, 0, 0, 0⟩
def oneSensor : SensorVal := ⟨80, 251⟩
def allSensors : List SensorVal := (List.finRange 81).map fun k => ⟨k, 300⟩
def oneEntry : KEntry := ⟨67, 8, 1⟩
def oneCal (thr : Nat) : CalEntry := ⟨67, true, 0, 0, 0, thr⟩
def oneFind : TestFind := ⟨3, 0, 0, [], [], [], [], [], []⟩
def txPos : Pos := ⟨15, .tx, 33⟩

theorem test_rails : (Instr.railSample (rails 4)).wellFormed = true ∧ (Instr.railSample (rails 3)).wellFormed = false := by decide +kernel

theorem test_model_nodes : (Instr.thermalModelUpdate ⟨[(1203, 0), (1203, 1)], none, [], []⟩).wellFormed = false
    ∧ (Instr.thermalModelUpdate ⟨[], none, [(5, 0), (5, 0)], []⟩).wellFormed = false
    ∧ (Instr.thermalModelUpdate ⟨[], none, [], [(5, 0), (5, 0)]⟩).wellFormed = false := by decide +kernel

theorem test_sensors : (Instr.sensorRead [oneSensor, oneSensor]).wellFormed = false ∧ (Instr.thermalHoldClear [oneSensor, oneSensor]).wellFormed = false
    ∧ (Instr.selftestComplete true [oneSensor]).wellFormed = false ∧ (Instr.sensorRead allSensors).wellFormed = true := by decide +kernel

theorem test_clock_counts : (Instr.clockMonitorWindow ⟨[0, 0, 0], [0, 0, 0, 0], 0, 0, false⟩).wellFormed = false
    ∧ (Instr.clockMonitorWindow ⟨[0, 0, 0, 0], [0, 0, 0], 0, 0, false⟩).wellFormed = false := by decide +kernel

theorem test_untrained : (Instr.bringupComplete [255, 255]).wellFormed = false ∧ (Instr.resetRegionComplete 3 [63, 63]).wellFormed = false := by
  decide +kernel

theorem test_access_size : (Instr.registerWrite 0 0 0).wellFormed = false ∧ (Instr.registerWrite 0 9 0).wellFormed = false
    ∧ (Instr.registerWrite 0 8 0).wellFormed = true := by decide +kernel

theorem test_regions_found : (Instr.testEnd [oneFind, oneFind]).wellFormed = false := by decide +kernel

theorem test_error_offsets : (Instr.nop 255 (.spSingle 6291456)).wellFormed = false ∧ (Instr.nop 255 (.spDouble 6291456)).wellFormed = false
    ∧ (Instr.nop 255 (.spDouble 6291455)).wellFormed = true ∧ (Instr.dmaD2h [.scratch 255 6291456 true]).wellFormed = false := by decide +kernel

theorem test_flit_lengths : (Instr.flitReceive 15 33 0 (zeros 255)).wellFormed = false
    ∧ (Instr.d2dFlitReceive 3 .cw false (zeros 257) (zeros 260)).wellFormed = false
    ∧ (Instr.d2dFlitReceive 3 .cw false (zeros 256) (zeros 259)).wellFormed = false := by decide +kernel

theorem test_lines_measured : (Instr.combLineMeasure 7 [⟨33, 100, true⟩, ⟨33, 100, true⟩]).wellFormed = false
    ∧ (Instr.plumbCheckEnd txPos [⟨33, 50, 0⟩, ⟨33, 50, 0⟩]).wellFormed = false := by decide +kernel

theorem test_matrices : (Instr.engineStart 7 (some [oneEntry, oneEntry]) none []).wellFormed = false
    ∧ (Instr.engineStart 7 none (some [oneEntry, oneEntry]) []).wellFormed = false
    ∧ (Instr.xtalkRefresh 7 true [oneEntry, oneEntry] []).wellFormed = false ∧ (Instr.xtalkRefresh 7 true [oneEntry] [oneCal 60]).wellFormed = true
    ∧ (Instr.xtalkRefresh 7 true [] [oneCal 61]).wellFormed = false ∧ (Instr.engineStart 7 none none [oneCal 9]).wellFormed = false
    ∧ (Instr.engineStart 7 none none [oneCal 30, oneCal 31]).wellFormed = false := by decide +kernel

theorem test_ring_count : (Instr.heaterUpdate 7 true (List.replicate 67 0)).wellFormed = false
    ∧ (Instr.heaterUpdate 7 true (List.replicate 68 0)).wellFormed = true := by decide +kernel

theorem test_lanes : (Instr.d2dLaneFail 3 .ccw [271, 271]).wellFormed = false := by decide +kernel

/-! ### Single values, worked out from the spec or published with the standards it names -/

/-- IEEE 802.3 (R279): the published check value of CRC-32 over the nine digits. -/
theorem test_crc32 : crc32 ([0x31, 0x32, 0x33, 0x34, 0x35, 0x36, 0x37, 0x38, 0x39] : List Byte) = 0xCBF43926 := by decide +kernel

/-- FIPS 180-4: the published digest of "abc" under SHA-256. -/
theorem test_sha256 : beNat (sha256 [0x61, 0x62, 0x63]) = 0xba7816bf8f01cfea414140de5dae2223b00361a396177a9cb410ff61f20015ad := by decide +kernel

/-- The published answer of Philox4x32-10 for counter 0 and key 0. -/
theorem test_philox : philoxRounds 10 0 0 (0, 0, 0, 0) = (0x6627e8d5, 0xe169c58d, 0xbc57ac4c, 0x9b00dbd8) := by decide +kernel

/-- Largest E4M3 code (448), the code past it (NaN), and rounding to even: 17/16 lies between 1 and 9/8 (R98, R101). -/
theorem test_e4m3 : e4m3.decode 0x7E = .fin false 14 5 ∧ (e4m3.decode 0x7F).isNan = true ∧ e4m3.narrow false none (.fin false 17 (-4)) = 0x38
    ∧ e4m3.narrow false none (.fin false 19 (-4)) = 0x3A := by decide +kernel

/-- One plus one in FP32, and an overflow with and without SATURATE (R113, R115). -/
theorem test_fp32 : fp32.narrow false none ((fp32.decode 0x3F800000).add (fp32.decode 0x3F800000)) = 0x40000000
    ∧ fp32.narrow false none ((fp32.decode 0x7F7FFFFF).mul (fp32.decode 0x40000000)) = 0x7F800000
    ∧ fp32.narrow true none ((fp32.decode 0x7F7FFFFF).mul (fp32.decode 0x40000000)) = 0x7F7FFFFF := by decide +kernel

/-- Corner to corner of a mesh: seven stops along x, then seven along y (R22, R23). -/
theorem test_mesh_path : meshPath 15 0 63 = [1, 2, 3, 4, 5, 6, 7, 15, 23, 31, 39, 47, 55, 63] := by decide +kernel

/-- A reset device takes no step with an empty queue but the tick of its clock. -/
theorem test_idle : step State.reset = .next { State.reset with aon := 1 } := rfl

/-! ### Witnesses for the host interface, power and rations (O1 to O16) -/

namespace Rings

def queued : State := { ready with pending := [.functionLevelReset, .perstLAssert] }
def off : State := { State.reset with dev := .off, pins := { State.reset.pins with inputMv := 48999, retry := true, attempts := 2 } }
def heldDown : State := { off with pins := { off.pins with pwrgdHeld := true } }
/-- A commit of version 64 has blown all fuses but the last, and one of version 2 none. -/
def blowingLast : State := { ready with idn := { ready.idn with svnFuses := 2 ^ 63 - 1, svn := 64, blowing := true, commit := 1 } }
def pinOff : State := { ready with pins := { ready.pins with pwrgdHeld := true } }
def inFault : State := { ready with dev := .fault, pins := { ready.pins with thermtrip := true } }
def booting : State := { ready with dev := .boot }
def parkedMod : State := { ready with dev := .bivouac }
def inReset : State := { ready with pins := { ready.pins with perst := true } }
def alerting : State := { ready with pins := { ready.pins with alertRail := true }, pwr := { ready.pwr with alert := true } }
def alertOver : State := { ready with aon := 50000, pwr := { ready.pwr with alert := true, alertEnd := some 50000 } }
def inputLow : State := { ready with pins := { ready.pins with alertInput := true }, pwr := { ready.pwr with alert := true } }
def limited : State := { ready with
  aon := 104
  pwr := { ready.pwr with region := [(3, { rung := 20, droopRung := 3, pll := true, changing := true, wake := [5], granted := 100 })] } }
def throttled : State := { ready with therm := { ready.therm with throttle := [(3, true)] } }
def overRation : State := { ready with pwr := { ready.pwr with samples := List.replicate 10 3200001, rationRung := 19 } }
def underRation : State := { ready with pwr := { ready.pwr with samples := List.replicate 10 3000000 } }
def rationDue : State := { ready with aon := 100000, pwr := { ready.pwr with deadline := some 100000 } }
def atFloor : State := { ready with pwr := { ready.pwr with rationRung := 20, overTicks := 10 } }
def floorEpisode : State := { ready with
  dev := .run, aon := 9, pwr := { ready.pwr with floorOn := true, graceEnd := some 9, underTicks := 100 } }
def granting : State := { limited with aon := 103 }
def calibrated : State := { ready with dev := .run, therm := { ready.therm with cal := some [] } }
def modelWrong : State := { ready with therm := { ready.therm with modelFault := true, agree := 100 } }
def thermalHold : State := { State.reset with idn := { State.reset.idn with st := 2 } }
def caseStepTakesOneCommand := { ready with pending := [.perstLAssert] }
def caseStepTakesOneCommandb := { ready with pending := [.helloTimer 0 0, .perstLAssert] }
def caseFusesOnlyBlow := { ready with aon := 1 }
def caseRungsAndPoints2b := { ready with pwr := { ready.pwr with region := [(3, { rung := 19, pll := true })] } }
def caseUK4 := {ready with aon := 1, idn := {ready.idn with revoked := 8}}
def caseUK4b := {ready with idn := {ready.idn with revoked := 8}}

/-- States and operands that meet the hypotheses of `StepRunsFrontCommand`, clause by clause. -/
theorem witness_StepRunsFrontCommand :
    (queued.pending = [Instr.functionLevelReset, Instr.perstLAssert]) := by
  decide +kernel

/-- States and operands that meet the hypotheses of `EmptyQueueIdles`, clause by clause. -/
theorem witness_EmptyQueueIdles :
    (pinOff.pending = [] ∧ pwrgd pinOff = false)
    ∧ (ready.pending = [] ∧ pwrgd ready = true ∧ ready.idn.blowing = false)
    ∧ (blowingLast.pending = [] ∧ pwrgd blowingLast = true ∧ blowingLast.idn.blowing = true) := by
  decide +kernel

/-- States and operands that meet the hypotheses of `EveryCommandCompletes`, clause by clause. -/
theorem witness_EveryCommandCompletes :
    (Instr.functionLevelReset.wellFormed = true) := by
  decide +kernel

/-- States and operands that meet the hypotheses of `MalformedFlitStops`, clause by clause. -/
theorem witness_MalformedFlitStops :
    (([] : List Byte).length ≠ 256) := by
  decide +kernel

/-- States and operands that meet the hypotheses of `StepTakesOneCommand`, clause by clause. -/
theorem witness_StepTakesOneCommand :
    (caseStepTakesOneCommandb.pending = [Instr.helloTimer (0 : Fin 16) (0 : Fin 34), Instr.perstLAssert]
      ∧ step caseStepTakesOneCommandb = Host.Outcome.next caseStepTakesOneCommand) := by
  exact ⟨rfl, rfl⟩

/-- States and operands that meet the hypotheses of `FusesOnlyBlow`, clause by clause. -/
theorem witness_FusesOnlyBlow :
    (step ready = Host.Outcome.next caseFusesOnlyBlow) := by
  rfl

/-- OTP names key hash 0 and no key is revoked. -/
def keyed : State := { ready with idn := { ready.idn with otp := Mem.writeN [] 0x40 [1] } }

/-- A state with a usable key, and a step of it. -/
theorem witness_UsableKeyKept_kept : UsableKey keyed ∧ step keyed = .next { keyed with aon := 1 } := ⟨⟨0, by decide +kernel, by decide +kernel⟩, rfl⟩

/-- States and operands that meet the hypotheses of `UsableKeyKept`, clause by clause. -/
theorem witness_UsableKeyKept :
    (hostWrites ready true = true
      ∧ ready.dev = Dev.ready
      ∧ 3 ≠ ready.idn.keyIndex
      ∧ (∃ j < 4, j ≠ 3 ∧ keyProgrammed ready j = true ∧ bit ready.idn.revoked j = false))
    ∧ ((ready.dev ≠ Dev.ready ∨ 0 = ready.idn.keyIndex ∨ ∀ j < 4, j ≠ 0 → keyProgrammed ready j = true → bit ready.idn.revoked j = true))
    ∧ (bit caseUK4b.idn.revoked 3 = true
      ∧ step caseUK4b = Host.Outcome.next caseUK4) := by
  and_intros <;> first | decide +kernel | exact ⟨0, by decide +kernel⟩ | exact Or.inr (Or.inl (by decide +kernel)) | rfl

/-- States and operands that meet the hypotheses of `HostMemoryCanonical`, clause by clause. -/
theorem witness_HostMemoryCanonical :
    (ready.hostMem.wf = true
      ∧ step ready = Host.Outcome.next caseFusesOnlyBlow) := by
  exact ⟨by decide +kernel, rfl⟩

/-- States and operands that meet the hypotheses of `ResetsKeepFuses`, clause by clause. -/
theorem witness_ResetsKeepFuses :
    (ready.pins.perst = false
      ∧ ready.dev ≠ Dev.off)
    ∧ (inReset.pins.perst = true
      ∧ inReset.dev ≠ Dev.off)
    ∧ (BitVec.getLsbD (4294967295 : W32) 0 = true
      ∧ ready.host.linkUp = true)
    ∧ (ready.pins.thermtrip = false
      ∧ ready.idn.st ≠ 7)
    ∧ (inFault.dev = Dev.fault
      ∧ inFault.pins.perst = false
      ∧ (inFault.pins.thermtrip = true ∨ inFault.idn.st = 7)) := by
  decide +kernel

/-- States and operands that meet the hypotheses of `PowerUpAndDown`, clause by clause. -/
theorem witness_PowerUpAndDown :
    (off.dev = Dev.off
      ∧ off.pins.inputMv < 49000
      ∧ 49000 ≤ 49000
      ∧ off.pins.pwrgdHeld = false)
    ∧ (off.pins.retry = true)
    ∧ (46999 < 47000
      ∧ ready.dev ≠ Dev.off)
    ∧ (66000 < 66001)
    ∧ (ready.pins.pwrgdHeld = false)
    ∧ (heldDown.dev = Dev.off
      ∧ heldDown.pins.pwrgdHeld = true
      ∧ 47000 ≤ 47000
      ∧ 66000 ≤ 66000
      ∧ heldDown.pins.attempts < 3)
    ∧ (46999 < 47000 ∨ 66000 < 46999) := by
  decide +kernel

/-- States and operands that meet the hypotheses of `RegulatorAlert`, clause by clause. -/
theorem witness_RegulatorAlert :
    (((fun (s : State) => s.dev = Dev.ready ∨ s.dev = Dev.run ∨ s.dev = Dev.backsight ∨ s.dev = Dev.fenced) ready)
      ∧ ready.pins.alertRail = false
      ∧ ready.pins.alertCurrent = false)
    ∧ (47000 ≤ ready.pins.inputMv
      ∧ 47000 ≤ 49999
      ∧ 49999 < 50000)
    ∧ (alerting.pins.alertRail = true
      ∧ alerting.pins.alertCurrent = false
      ∧ alerting.pwr.alert = true)
    ∧ (alertOver.pwr.alertEnd = some 50000
      ∧ 50000 ≤ alertOver.aon
      ∧ alertOver.pwr.alert = true
      ∧ alertOver.pins.alertRail = false
      ∧ alertOver.pins.alertCurrent = false)
    ∧ (inputLow.pins.alertInput = true
      ∧ 50500 < 50501
      ∧ inputLow.pins.alertRail = false
      ∧ inputLow.pins.alertCurrent = false)
    ∧ (booting.dev = Dev.boot
      ∧ booting.pins.alertRail = false
      ∧ booting.pins.alertCurrent = false)
    ∧ (parkedMod.dev = Dev.bivouac
      ∧ parkedMod.pins.alertRail = false) := by
  decide +kernel

/-- States and operands that meet the hypotheses of `RungsAndPoints`, clause by clause. -/
theorem witness_RungsAndPoints :
    ((regPwr limited 3).pll = true)
    ∧ ((regPwr caseRungsAndPoints2b 3).rung < 20)
    ∧ (20 ≤ (regPwr limited 3).rung)
    ∧ ((regPwr limited 3).droopRung ≠ 0
      ∧ (regPwr limited 3).droopEnd ≤ limited.aon)
    ∧ ((regPwr limited 3).changing = true)
    ∧ (regionThrottled limited 3 = false)
    ∧ (regionThrottled throttled 3 = true)
    ∧ ((regPwr granting 3).granted ≠ 0
      ∧ granting.aon < (regPwr granting 3).granted + 4)
    ∧ ((regPwr limited 3).wake ≠ []
      ∧ ((regPwr limited 3).granted = 0 ∨ (regPwr limited 3).granted + 4 ≤ limited.aon)) := by
  decide +kernel

/-- States and operands that meet the hypotheses of `RationsAndGovernor`, clause by clause. -/
theorem witness_RationsAndGovernor :
    (ready.dev ≠ Dev.off)
    ∧ (governs overRation = true
      ∧ effRation overRation < inputMw overRation 10
      ∧ overRation.pwr.rationRung < 20)
    ∧ (governs underRation = true
      ∧ inputMw underRation 10 ≤ effRation underRation
      ∧ underRation.pwr.rationRung = 0)
    ∧ (inFault.dev = Dev.bivouac ∨ inFault.dev = Dev.fault)
    ∧ (rationDue.pwr.deadline = some 100000
      ∧ 100000 ≤ rationDue.aon)
    ∧ (governs atFloor = true
      ∧ atFloor.pwr.floorOn = false
      ∧ atFloor.pwr.rationRung = 20
      ∧ 10 ≤ atFloor.pwr.overTicks)
    ∧ (floorEpisode.pwr.floorOn = true
      ∧ 100 ≤ floorEpisode.pwr.underTicks)
    ∧ (floorEpisode.pwr.graceEnd = some 9
      ∧ 9 ≤ floorEpisode.aon
      ∧ floorEpisode.dev = Dev.run)
    ∧ (ready.host.linkUp = true
      ∧ ready.dev ≠ Dev.boot
      ∧ 100 ≤ BitVec.toNat (6553600 : W32) / 65536
      ∧ BitVec.toNat (6553600 : W32) / 65536 ≤ 60000) := by
  decide +kernel

/-- States and operands that meet the hypotheses of `ThermalReadings`, clause by clause. -/
theorem witness_ThermalReadings :
    ((calibrated.dev = Dev.ready ∨ calibrated.dev = Dev.run)
      ∧ calibrated.therm.cal.isSome = true
      ∧ { nodes := [((0 : Fin 1204), (950 : ℤ)), ((1200 : Fin 1204), (300 : ℤ))], shutdownIn := none, rings := [], activity := [] : ThermEst }.shutdownIn = none
      ∧ atShutdown (takeEstimates { nodes := [((0 : Fin 1204), (950 : ℤ)), ((1200 : Fin 1204), (300 : ℤ))], shutdownIn := none, rings := [], activity := [] : ThermEst } calibrated) = false)
    ∧ (calibrated.dev ≠ Dev.off
      ∧ calibrated.therm.modelFault = false
      ∧ 80 < readingGap calibrated ⟨64, 81⟩)
    ∧ (∀ v ∈ [(⟨64, 40⟩ : SensorVal)], readingGap calibrated v ≤ 40)
    ∧ (ready.dev ≠ Dev.off
      ∧ ready.therm.cal = none)
    ∧ (modelWrong.therm.modelFault = true
      ∧ 100 ≤ modelWrong.therm.agree)
    ∧ (ready.pins.vaon = true
      ∧ 32 ≤ 39
      ∧ 39 < 40)
    ∧ ((ready.dev = Dev.ready ∨ ready.dev = Dev.run)
      ∧ (79 < 32 ∨ 40 ≤ 79 ∧ 79 < 80))
    ∧ (thermalHold.dev = Dev.boot
      ∧ thermalHold.pins.perst = false
      ∧ thermalHold.idn.st = 2) := by
  decide +kernel

end Rings

/-! ### Witnesses for reset, boot and identity, registers and regions (O17 to O31) -/

namespace Boot

def ringed : State := withCmd ready 0x10 640000 0 0 0 0
def inProgress : State := { ringed with host := { ringed.host with cmds := [⟨7, 63, 0, false, 2, 0xFFFF, 0, 0, 0, 0, 0⟩] } }
def wrapped : State := { inProgress with host := { inProgress.host with cpl := [(0, { base := 0x2000, enable := true, seq := 31, ci := 1 })] } }
def linkIsDown : State := { inProgress with host := { inProgress.host with linkUp := false }, aon := 100 }
def noCpl : State := { inProgress with host := { inProgress.host with cpl := [] } }
def waiting : State := { ringed with host := { ringed.host with
  cplWait := [(0, ⟨63, 1, 2, 0, 0⟩)], cpl := [(0, { base := 0x2000, enable := true, seq := 15 })],
  evtWait := [⟨0x10, 0, [], 0, 0, 0⟩], evt := { base := 0x4000, enable := true, log2 := 6, seq := 63 } } }
def twoWait : State := { waiting with host := { waiting.host with
  cplWait := [(0, ⟨63, 1, 2, 0, 0⟩), (0, ⟨62, 2, 2, 0, 0⟩)], evtWait := [⟨0x10, 0, [], 0, 0, 0⟩, ⟨0x11, 0, [], 0, 0, 0⟩] } }
def hot : State := { ready with host := { ready.host with linkUp := false, d3hot := true, held := [.station 0x5000 [7]] } }
def timed : State := { ringed with
  aon := 50, host := { ringed.host with cpl := [(0, { enable := true, irqTime := 1, unsig := 1 })], evt := { enable := true, irqTime := 1, unsig := 1 }, msix := [(0, { mask := false })] } }
def firstUp : State := { ready with host := {} }
def stoppedRing : State := withCmd { ready with dev := .fenced } 2 0 0 0 0 0
def badEntry : State := { ready with hostMem := ringed.hostMem.set 0 0x1030 1, host := ringed.host }
def caseCommandsTurnedAway1 := { stoppedRing with dev := .ready, host := {stoppedRing.host with cmds := inProgress.host.cmds}}
def caseRingEnabling4b := { ringed with host := { ringed.host with cmd := [] } }
def staging : State := withCmd { ready with job := { ready.job with run := some aRun } } 3 3 1 0x8000 4 0
def stagingRetire : State := withCmd ready 11 8 5 0x8000 0 0
def stagingPast : State := withCmd { ready with job := { ready.job with last := 5, valid := true } } 3 3 5 0x8000 4 0
def stagingFull : State := withCmd { ready with job := { ready.job with stage := [⟨4, some 1, [0]⟩, ⟨4, some 2, [0]⟩, ⟨4, some 3, [0]⟩, ⟨4, some 4, [0]⟩] } } 3 4 6 0x8000 1 0
def h2d : State := withCmd (withHbm { ready with hostMem := [(0x8000, 0xAB)] }) 4 0x8000 (2000 * 2 ^ 21 - 64) 64 (2 ^ 48 - 1) 0
def h2dWait : State := withCmd (withHbm ready) 4 0x8000 0 64 5 0
def h2dPast : State := withCmd (withHbm { ready with job := { ready.job with last := 5, valid := true } }) 4 0x8000 0 64 5 0
def h2dBad : State := withCmd (withHbm ready) 4 0x8000 0 63 (2 ^ 48 - 1) 0
def d2h : State := withCmd (withHbm ready) 5 0x8000 (3 * 2 ^ 38) 128 (2 ^ 48 - 1) 0
def dmaWaits : State := { h2dWait with dev := .run, job := { h2dWait.job with run := some { aRun with phase := .atStation, j := 5, legs := 5 } }, host := { h2dWait.host with cmds := [theCmd 4 0x8000 0 64 5 0], dmas := [{ cmd := 0, station := some 5 }] } }
def dmaMoved : State := { h2dWait with host := { h2dWait.host with cmds := [theCmd 4 0x8000 0 64 5 0], dmas := [{ cmd := 0, moved := some (0, 64) }] } }
def asks (code a n : Nat) : State := withCmd ready 6 code a n 0 0
def mgtSelf : State := withCmd { ready with hostMem := [(0x8000, 1)], fab := { ready.fab with number := some 5, recovery := false } } 0x0F 0x8000 5 8 0 0
def mgtOther : State := withCmd { ready with hostMem := [(0x8000, 0x10)], fab := { ready.fab with number := some 5, recovery := false } } 0x0F 0x8000 8191 8 0 0
def mgtFar : State := withCmd { ready with hostMem := [(0x8000, 0x10), (0x8002, 1)], fab := { ready.fab with number := some 5, recovery := false } } 0x0F 0x8000 8190 8 0 0
def mgtNear : State := withCmd { ready with
  hostMem := [(0x8000, 1)]
  fab := { ready.fab with number := some 5, recovery := false }
  oe := { ready.oe with pos := [(3, { st := .active, line := 3, peer := some (6, 2) })] } } 0x0F 0x8000 6 8 0 0
/-- The packet that a MGT_SEND of 8 bytes at 0x8000 to `dst` makes. -/
def sent (s : State) (dst : Nat) : Packet := { type := 1, dst := dst, jobTag := s.job.tag, payload := s.hostMem.readN 0x8000 8 }
def caseHostDmas4 := { aRun with phase := .atStation, j := 5, legs := 5 }
def waitGo : State := { ready with dev := .boot, idn := { ready.idn with st := 1 } }
def copying : State := { waitGo with
  idn := { waitGo.idn with st := 3, len := 4096 }
  hostMem := Mem.writeN [] 0 (leBytes 4 0x53555842 ++ leBytes 4 1 ++ leBytes 4 4096 ++ leBytes 4 7 ++ [0, 0, 0x37, 0x4B, 0xB0]) }
def early : State := { ready with dev := .boot, idn := { ready.idn with st := 5 } }
def bringing : State := { early with oe := { early.oe with eng := (List.range 8).map fun k => (k, { st := 1 }) } }
def twoFuses : State := { ready with idn := { ready.idn with svnFuses := 0b1011, svn := 3 } }
def imageOf (s : State) : List Byte := s.hostMem.readN s.idn.src s.idn.len
def caseBootSequence2a := { waitGo with therm := { waitGo.therm with sensor := [(79, 2000)] } }
def caseBootSequence2b := { waitGo with idn := { waitGo.idn with st := 2 } }
def caseBootSequence2c := { waitGo with idn := { waitGo.idn with st := 0, attempts := 65535 } }
def spdm (n : Nat) : State := { ready with idn := { ready.idn with i3c := { ready.idn.i3c with conn := { st := n, later := some (0x83, 7, .algorithms) } } } }
def blowing : State := { twoFuses with idn := { twoFuses.idn with blowing := true, commit := 1 } }

/-- States and operands that meet the hypotheses of `CompletionEntry`, clause by clause. -/
theorem witness_CompletionEntry :
    (cmdOf wrapped 7 = some { id := 7, ring := 63, opcode := 2, tag := 65535, arg0 := 0, arg1 := 0, arg2 := 0, arg3 := 0, arg4 := 0 : InCmd }
      ∧ { id := 7, ring := 63, opcode := 2, tag := 65535, arg0 := 0, arg1 := 0, arg2 := 0, arg3 := 0, arg4 := 0 : InCmd }.lost = false
      ∧ canPost wrapped = true
      ∧ (cplRing wrapped { id := 7, ring := 63, opcode := 2, tag := 65535, arg0 := 0, arg1 := 0, arg2 := 0, arg3 := 0, arg4 := 0 : InCmd }.cpl).room = true
      ∧ (∀ w ∈ wrapped.host.cplWait, w.1 ≠ { id := 7, ring := 63, opcode := 2, tag := 65535, arg0 := 0, arg1 := 0, arg2 := 0, arg3 := 0, arg4 := 0 : InCmd }.cpl))
    ∧ (cmdOf noCpl 7 = some { id := 7, ring := 63, opcode := 2, tag := 65535, arg0 := 0, arg1 := 0, arg2 := 0, arg3 := 0, arg4 := 0 : InCmd }
      ∧ ({ id := 7, ring := 63, opcode := 2, tag := 65535, arg0 := 0, arg1 := 0, arg2 := 0, arg3 := 0, arg4 := 0 : InCmd }.lost = true ∨ canPost noCpl = true ∧ (cplRing noCpl { id := 7, ring := 63, opcode := 2, tag := 65535, arg0 := 0, arg1 := 0, arg2 := 0, arg3 := 0, arg4 := 0 : InCmd }.cpl).enable = false))
    ∧ (cmdOf linkIsDown 7 = some { id := 7, ring := 63, opcode := 2, tag := 65535, arg0 := 0, arg1 := 0, arg2 := 0, arg3 := 0, arg4 := 0 : InCmd }
      ∧ canPost linkIsDown = false
      ∧ linkIsDown.host.held.length < 1024) := by
  decide +kernel

/-- States and operands that meet the hypotheses of `CommandsTurnedAway`, clause by clause. -/
theorem witness_CommandsTurnedAway :
    (nextRing caseCommandsTurnedAway1 = some 63
      ∧ (entryCmd caseCommandsTurnedAway1 63).opcode = 2
      ∧ runInProgress caseCommandsTurnedAway1 = true)
    ∧ (nextRing stoppedRing = some 63
      ∧ (entryCmd stoppedRing 63).opcode = 2
      ∧ ¬((2 = 1 ∨ 2 = 2) ∧ runInProgress stoppedRing = true)
      ∧ accepted stoppedRing.dev 2 = false)
    ∧ (nextRing badEntry = some 63
      ∧ (entryCmd badEntry 63).opcode = 16
      ∧ ¬((16 = 1 ∨ 16 = 2) ∧ runInProgress badEntry = true)
      ∧ accepted badEntry.dev 16 = true
      ∧ (entryClean badEntry 63 = false ∨ argsClean (entryCmd badEntry 63) = false))
    ∧ (nextRing ringed = some 63
      ∧ (entryCmd ringed 63).opcode ≠ 18
      ∧ rowless (entryCmd ringed 63) = false)
    ∧ (nextRing (asks 4 32768 16) = some 63
      ∧ (entryCmd (asks 4 32768 16) 63).opcode = 6
      ∧ (entryCmd (asks 4 32768 16) 63).arg0 ≠ 3) := by
  decide +kernel

/-- States and operands that meet the hypotheses of `Doorbells`, clause by clause. -/
theorem witness_Doorbells :
    (hostWrites ringed false = true
      ∧ (cmdRing ringed 63).enable = true
      ∧ (cmdRing ringed 63).stop = false
      ∧ BitVec.toNat (15 : W32) % 65536 < 2 ^ (cmdRing ringed 63).log2)
    ∧ (2 ^ (cmdRing ringed 63).log2 ≤ BitVec.toNat (16 : W32) % 65536)
    ∧ ((cplRing ringed 0).enable = true
      ∧ (∀ w ∈ ringed.host.cplWait, w.1 ≠ 0))
    ∧ (hostWrites waiting false = true
      ∧ waiting.host.restoring = false
      ∧ (cplRing waiting 0).enable = true
      ∧ waiting.host.cplWait = [⟨63, 1, 2, 0, 0⟩].map (fun c => (0, c))
      ∧ (∀ k < 1, ({ cplRing waiting 0 with ci := 1, seq := 15 + k } : OutRing).room = true))
    ∧ (twoWait.host.cplWait = [⟨63, 1, 2, 0, 0⟩, ⟨62, 2, 2, 0, 0⟩].map (fun c => (0, c))
      ∧ (∀ k < 2, ({ cplRing twoWait 0 with ci := 2, seq := 15 + k } : OutRing).room = true))
    ∧ (ringed.host.evt.enable = true
      ∧ ringed.host.evtWait = []
      ∧ ringed.host.discarded = 0
      ∧ ringed.host.restoring = false)
    ∧ (waiting.host.evt.enable = true
      ∧ waiting.host.discarded = 0
      ∧ waiting.host.restoring = false
      ∧ (∀ k < waiting.host.evtWait.length, ({ waiting.host.evt with ci := 1, seq := 63 + k } : OutRing).room = true))
    ∧ (∀ k < twoWait.host.evtWait.length, ({ twoWait.host.evt with ci := 2, seq := 63 + k } : OutRing).room = true) := by
  decide +kernel

/-- States and operands that meet the hypotheses of `RingEnabling`, clause by clause. -/
theorem witness_RingEnabling :
    (hostWrites ringed false = true
      ∧ (cmdRing ringed 62).enable = false
      ∧ bit (BitVec.toNat (3221487679 : W32)) 31 = true
      ∧ 4 ≤ bits (BitVec.toNat (3221487679 : W32)) 19 16
      ∧ bits (BitVec.toNat (3221487679 : W32)) 19 16 ≤ 12)
    ∧ (bit (BitVec.toNat (2147680256 : W32)) 31 = true
      ∧ (bits (BitVec.toNat (2147680256 : W32)) 19 16 < 4 ∨ 12 < bits (BitVec.toNat (2147680256 : W32)) 19 16))
    ∧ ((cmdRing ringed 63).enable = true
      ∧ bit (BitVec.toNat (1073741824 : W32)) 31 = false)
    ∧ ((cplRing ringed 1).enable = false
      ∧ bit (BitVec.toNat (2148564736 : W32)) 31 = true
      ∧ 4 ≤ bits (BitVec.toNat (2148564736 : W32)) 20 16
      ∧ bits (BitVec.toNat (2148564736 : W32)) 20 16 ≤ 16
      ∧ ringed.host.cplWait = [])
    ∧ (hostWrites caseRingEnabling4b false = true
      ∧ (cplRing caseRingEnabling4b 0).enable = true
      ∧ bit (BitVec.toNat (0 : W32)) 31 = false
      ∧ (∀ i < 64, (cmdRing caseRingEnabling4b i).cpl = 0 → cmdActive caseRingEnabling4b i = false)
      ∧ (∀ c ∈ caseRingEnabling4b.host.cmds, c.cpl ≠ 0))
    ∧ ((cplRing ringed 0).enable = true
      ∧ (∃ i < 64, (cmdRing ringed i).cpl = 0 ∧ cmdActive ringed i = true))
    ∧ (hostWrites ready false = true
      ∧ ready.host.evt.enable = false
      ∧ bit (BitVec.toNat (2148401408 : W32)) 31 = true
      ∧ 6 ≤ bits (BitVec.toNat (2148401408 : W32)) 20 16
      ∧ bits (BitVec.toNat (2148401408 : W32)) 20 16 ≤ 14
      ∧ ready.host.evtWait = []
      ∧ ready.host.discarded = 0
      ∧ ready.host.restoring = false)
    ∧ (ready.host.fmEnable = false
      ∧ bit (BitVec.toNat (2147483903 : W32)) 31 = true
      ∧ BitVec.toNat (2147483903 : W32) % 256 ≠ 0)
    ∧ (BitVec.toNat (2147483904 : W32) % 256 = 0) := by
  and_intros <;> first | decide +kernel

/-- States and operands that meet the hypotheses of `LinkLossHolds`, clause by clause. -/
theorem witness_LinkLossHolds :
    ((ready.host.linkUp = true ∨ ready.host.d3hot = true)
      ∧ ready.dev ≠ Dev.off)
    ∧ (firstUp.host.linkUp = false
      ∧ firstUp.host.d3hot = false
      ∧ firstUp.host.trained = false
      ∧ firstUp.dev ≠ Dev.off
      ∧ firstUp.pins.perst = false)
    ∧ (linkIsDown.host.linkUp = false
      ∧ linkIsDown.host.d3hot = false
      ∧ linkIsDown.host.trained = true
      ∧ linkIsDown.dev ≠ Dev.off
      ∧ linkIsDown.pins.perst = false
      ∧ linkIsDown.host.evtWait = []
      ∧ linkIsDown.host.discarded = 0
      ∧ linkIsDown.host.cplWait = []
      ∧ linkIsDown.host.evt.room = true)
    ∧ (ready.pins.perst = false)
    ∧ (hot.host.linkUp = false
      ∧ hot.host.d3hot = true
      ∧ hot.dev ≠ Dev.off
      ∧ hot.pins.perst = false
      ∧ hot.host.evtWait = []
      ∧ hot.host.discarded = 0
      ∧ hot.host.cplWait = [])
    ∧ (timed.host.linkUp = true
      ∧ (cplRing timed 0).timeUp timed.aon = true)
    ∧ (timed.host.evt.timeUp timed.aon = true) := by
  decide +kernel

/-- States and operands that meet the hypotheses of `RegisterAccess`, clause by clause. -/
theorem witness_RegisterAccess :
    ((accessOk (BitVec.toNat (32770 : BitVec 24)) 8 = false ∨ regAt (BitVec.toNat (32770 : BitVec 24)) = none ∨ BitVec.toNat (32770 : BitVec 24) = 0 ∨ BitVec.toNat (32770 : BitVec 24) = 8))
    ∧ (ready.host.linkUp = true
      ∧ ready.dev ≠ Dev.off)
    ∧ (ready.idn.src < 2 ^ 64)
    ∧ (hostWrites ready false = true)
    ∧ (stageFull (withStaging { ident := 10, target := nextStation ready, payload := leBytes 4 (BitVec.toNat (3 : W32) % 4) : Staging } ready.job.stage) = false)
    ∧ (1 ≤ BitVec.toNat (600000 : W32) % 2 ^ 20
      ∧ BitVec.toNat (600000 : W32) % 2 ^ 20 ≤ 600000
      ∧ stageFull (withStaging { ident := 11, target := nextStation ready, payload := leBytes 4 (BitVec.toNat (600000 : W32) % 2 ^ 20) : Staging } ready.job.stage) = false)
    ∧ (BitVec.toNat (1048576 : W32) % 2 ^ 20 = 0) := by
  decide +kernel

/-- States and operands that meet the hypotheses of `StagingCommands`, clause by clause. -/
theorem witness_StagingCommands :
    (Takes staging 63 (theCmd 3 3 1 32768 4 0)
      ∧ ((fun (ident : ℕ) (row : Instr) (c : InCmd) => c.opcode = 3 ∧ c.arg0 = ident ∧ (ident, row) ∈ [(1, Instr.routeTables), (2, Instr.windowMap), (3, Instr.opTarget), (4, Instr.fabricMode), (5, Instr.jobIdent), (6, Instr.blockSpareMap), (7, Instr.columnSpareMap), (8, Instr.frameRetire), (9, Instr.backsightRole), (10, Instr.detCtrl), (11, Instr.legWdog)] ∨ c.opcode = 11 ∧ c.arg0 = 8 ∧ ident = 8 ∧ row = Instr.retireFrame) 3 Instr.opTarget (theCmd 3 3 1 32768 4 0))
      ∧ (theCmd 3 3 1 32768 4 0).arg2 % 8 = 0
      ∧ ((theCmd 3 3 1 32768 4 0).arg1 ≠ 2 ^ 48 - 1 → latchClosed staging (theCmd 3 3 1 32768 4 0).arg1 = false)
      ∧ hostReadFails staging (theCmd 3 3 1 32768 4 0).arg2 (theCmd 3 3 1 32768 4 0).arg3 = false
      ∧ payloadAccepted staging 3 (staging.hostMem.readN (theCmd 3 3 1 32768 4 0).arg2 (theCmd 3 3 1 32768 4 0).arg3) = true
      ∧ (stageFull (withStaging { ident := 3, target := if (theCmd 3 3 1 32768 4 0).arg1 = 2 ^ 48 - 1 then nextStation staging else some (theCmd 3 3 1 32768 4 0).arg1, payload := staging.hostMem.readN (theCmd 3 3 1 32768 4 0).arg2 (theCmd 3 3 1 32768 4 0).arg3 : Staging } staging.job.stage) = false))
    ∧ (Takes stagingRetire 63 (theCmd 11 8 5 32768 0 0)
      ∧ ((fun (ident : ℕ) (row : Instr) (c : InCmd) => c.opcode = 3 ∧ c.arg0 = ident ∧ (ident, row) ∈ [(1, Instr.routeTables), (2, Instr.windowMap), (3, Instr.opTarget), (4, Instr.fabricMode), (5, Instr.jobIdent), (6, Instr.blockSpareMap), (7, Instr.columnSpareMap), (8, Instr.frameRetire), (9, Instr.backsightRole), (10, Instr.detCtrl), (11, Instr.legWdog)] ∨ c.opcode = 11 ∧ c.arg0 = 8 ∧ ident = 8 ∧ row = Instr.retireFrame) 8 Instr.retireFrame (theCmd 11 8 5 32768 0 0))
      ∧ (theCmd 11 8 5 32768 0 0).arg2 % 8 = 0
      ∧ ((theCmd 11 8 5 32768 0 0).arg1 ≠ 2 ^ 48 - 1 → latchClosed stagingRetire (theCmd 11 8 5 32768 0 0).arg1 = false)
      ∧ hostReadFails stagingRetire (theCmd 11 8 5 32768 0 0).arg2 (theCmd 11 8 5 32768 0 0).arg3 = false
      ∧ payloadAccepted stagingRetire 8 (stagingRetire.hostMem.readN (theCmd 11 8 5 32768 0 0).arg2 (theCmd 11 8 5 32768 0 0).arg3) = false)
    ∧ (Takes stagingFull 63 (theCmd 3 4 6 32768 1 0)
      ∧ ((fun (ident : ℕ) (row : Instr) (c : InCmd) => c.opcode = 3 ∧ c.arg0 = ident ∧ (ident, row) ∈ [(1, Instr.routeTables), (2, Instr.windowMap), (3, Instr.opTarget), (4, Instr.fabricMode), (5, Instr.jobIdent), (6, Instr.blockSpareMap), (7, Instr.columnSpareMap), (8, Instr.frameRetire), (9, Instr.backsightRole), (10, Instr.detCtrl), (11, Instr.legWdog)] ∨ c.opcode = 11 ∧ c.arg0 = 8 ∧ ident = 8 ∧ row = Instr.retireFrame) 4 Instr.fabricMode (theCmd 3 4 6 32768 1 0))
      ∧ (theCmd 3 4 6 32768 1 0).arg2 % 8 = 0
      ∧ ((theCmd 3 4 6 32768 1 0).arg1 ≠ 2 ^ 48 - 1 → latchClosed stagingFull (theCmd 3 4 6 32768 1 0).arg1 = false)
      ∧ hostReadFails stagingFull (theCmd 3 4 6 32768 1 0).arg2 (theCmd 3 4 6 32768 1 0).arg3 = false
      ∧ payloadAccepted stagingFull 4 (stagingFull.hostMem.readN (theCmd 3 4 6 32768 1 0).arg2 (theCmd 3 4 6 32768 1 0).arg3) = true
      ∧ (stageFull (withStaging { ident := 4, target := if (theCmd 3 4 6 32768 1 0).arg1 = 2 ^ 48 - 1 then nextStation stagingFull else some (theCmd 3 4 6 32768 1 0).arg1, payload := stagingFull.hostMem.readN (theCmd 3 4 6 32768 1 0).arg2 (theCmd 3 4 6 32768 1 0).arg3 : Staging } stagingFull.job.stage) = true))
    ∧ (Takes stagingPast 63 (theCmd 3 3 5 32768 4 0)
      ∧ ((fun (ident : ℕ) (row : Instr) (c : InCmd) => c.opcode = 3 ∧ c.arg0 = ident ∧ (ident, row) ∈ [(1, Instr.routeTables), (2, Instr.windowMap), (3, Instr.opTarget), (4, Instr.fabricMode), (5, Instr.jobIdent), (6, Instr.blockSpareMap), (7, Instr.columnSpareMap), (8, Instr.frameRetire), (9, Instr.backsightRole), (10, Instr.detCtrl), (11, Instr.legWdog)] ∨ c.opcode = 11 ∧ c.arg0 = 8 ∧ ident = 8 ∧ row = Instr.retireFrame) 3 Instr.opTarget (theCmd 3 3 5 32768 4 0))
      ∧ (theCmd 3 3 5 32768 4 0).arg2 % 8 = 0
      ∧ (theCmd 3 3 5 32768 4 0).arg1 ≠ 2 ^ 48 - 1
      ∧ (theCmd 3 3 5 32768 4 0).arg1 ≤ stagingPast.job.last) := by
  and_intros <;> first | decide +kernel | (constructor <;> decide +kernel)

/-- States and operands that meet the hypotheses of `HostDmas`, clause by clause. -/
theorem witness_HostDmas :
    (Takes h2d 63 (theCmd 4 32768 (2000 * 2 ^ 21 - 64) 64 (2 ^ 48 - 1) 0)
      ∧ (theCmd 4 32768 (2000 * 2 ^ 21 - 64) 64 (2 ^ 48 - 1) 0).opcode = 4
      ∧ dmaShapeOk (theCmd 4 32768 (2000 * 2 ^ 21 - 64) 64 (2 ^ 48 - 1) 0) = true
      ∧ (theCmd 4 32768 (2000 * 2 ^ 21 - 64) 64 (2 ^ 48 - 1) 0).arg1 % 2 ^ 38 + (theCmd 4 32768 (2000 * 2 ^ 21 - 64) 64 (2 ^ 48 - 1) 0).arg2 ≤ usableBytes h2d ((theCmd 4 32768 (2000 * 2 ^ 21 - 64) 64 (2 ^ 48 - 1) 0).arg1 / 2 ^ 38 % 4)
      ∧ (theCmd 4 32768 (2000 * 2 ^ 21 - 64) 64 (2 ^ 48 - 1) 0).arg3 = 2 ^ 48 - 1
      ∧ dmaReaches h2d (theCmd 4 32768 (2000 * 2 ^ 21 - 64) 64 (2 ^ 48 - 1) 0).arg1 = true
      ∧ readableBytes h2d (theCmd 4 32768 (2000 * 2 ^ 21 - 64) 64 (2 ^ 48 - 1) 0).arg0 (theCmd 4 32768 (2000 * 2 ^ 21 - 64) 64 (2 ^ 48 - 1) 0).arg2 = (theCmd 4 32768 (2000 * 2 ^ 21 - 64) 64 (2 ^ 48 - 1) 0).arg2)
    ∧ (Takes h2dPast 63 (theCmd 4 32768 0 64 5 0)
      ∧ (theCmd 4 32768 0 64 5 0).opcode = 4
      ∧ dmaShapeOk (theCmd 4 32768 0 64 5 0) = true
      ∧ (theCmd 4 32768 0 64 5 0).arg1 % 2 ^ 38 + (theCmd 4 32768 0 64 5 0).arg2 ≤ usableBytes h2dPast ((theCmd 4 32768 0 64 5 0).arg1 / 2 ^ 38 % 4)
      ∧ (theCmd 4 32768 0 64 5 0).arg3 ≠ 2 ^ 48 - 1
      ∧ stationPassed h2dPast (theCmd 4 32768 0 64 5 0).arg3 = true)
    ∧ (Takes h2dWait 63 (theCmd 4 32768 0 64 5 0)
      ∧ (theCmd 4 32768 0 64 5 0).arg1 % 2 ^ 38 + (theCmd 4 32768 0 64 5 0).arg2 ≤ usableBytes h2dWait ((theCmd 4 32768 0 64 5 0).arg1 / 2 ^ 38 % 4)
      ∧ stationPassed h2dWait (theCmd 4 32768 0 64 5 0).arg3 = false)
    ∧ (Takes h2dBad 63 (theCmd 4 32768 0 63 (2 ^ 48 - 1) 0)
      ∧ (theCmd 4 32768 0 63 (2 ^ 48 - 1) 0).opcode = 4
      ∧ dmaShapeOk (theCmd 4 32768 0 63 (2 ^ 48 - 1) 0) = false)
    ∧ (Takes d2h 63 (theCmd 5 32768 (3 * 2 ^ 38) 128 (2 ^ 48 - 1) 0)
      ∧ (theCmd 5 32768 (3 * 2 ^ 38) 128 (2 ^ 48 - 1) 0).opcode = 5
      ∧ dmaShapeOk (theCmd 5 32768 (3 * 2 ^ 38) 128 (2 ^ 48 - 1) 0) = true
      ∧ (theCmd 5 32768 (3 * 2 ^ 38) 128 (2 ^ 48 - 1) 0).arg1 % 2 ^ 38 + (theCmd 5 32768 (3 * 2 ^ 38) 128 (2 ^ 48 - 1) 0).arg2 ≤ usableBytes d2h ((theCmd 5 32768 (3 * 2 ^ 38) 128 (2 ^ 48 - 1) 0).arg1 / 2 ^ 38 % 4)
      ∧ (theCmd 5 32768 (3 * 2 ^ 38) 128 (2 ^ 48 - 1) 0).arg3 = 2 ^ 48 - 1
      ∧ dmaReaches d2h (theCmd 5 32768 (3 * 2 ^ 38) 128 (2 ^ 48 - 1) 0).arg1 = true
      ∧ (theCmd 5 32768 (3 * 2 ^ 38) 128 (2 ^ 48 - 1) 0).arg0 + (theCmd 5 32768 (3 * 2 ^ 38) 128 (2 ^ 48 - 1) 0).arg2 ≤ 2 ^ 64)
    ∧ (List.find? (fun (d : HostDma) => d.cmd == 0) dmaWaits.host.dmas = some { cmd := 0, station := some 5 : HostDma }
      ∧ cmdOf dmaWaits 0 = some (theCmd 4 32768 0 64 5 0)
      ∧ dmaWaits.job.run = some caseHostDmas4
      ∧ { cmd := 0, station := some 5 : HostDma }.moved = none
      ∧ { cmd := 0, station := some 5 : HostDma }.station = some (caseHostDmas4.base + caseHostDmas4.j)
      ∧ caseHostDmas4.phase = Phase.atStation
      ∧ dmaWaits.host.linkUp = true
      ∧ (∀ k ∈ dmaWaits.mem.ckpts, k.station ≠ caseHostDmas4.base + caseHostDmas4.j))
    ∧ (List.find? (fun (d : HostDma) => d.cmd == 0) dmaMoved.host.dmas = some { cmd := 0, moved := some (0, 64) : HostDma }
      ∧ { cmd := 0, moved := some (0, 64) : HostDma }.moved = some (0, 64)
      ∧ dmaMoved.job.run = none) := by
  and_intros <;> first | decide +kernel | (constructor <;> decide +kernel)

/-- States and operands that meet the hypotheses of `Queries`, clause by clause. -/
theorem witness_Queries :
    (Takes (asks 3 32768 2452) 63 (theCmd 6 3 32768 2452 0 0)
      ∧ (theCmd 6 3 32768 2452 0 0).opcode = 6
      ∧ (theCmd 6 3 32768 2452 0 0).arg0 = 3
      ∧ (theCmd 6 3 32768 2452 0 0).arg1 % 64 = 0
      ∧ (shapeResult (asks 3 32768 2452)).length ≤ (theCmd 6 3 32768 2452 0 0).arg2
      ∧ (theCmd 6 3 32768 2452 0 0).arg1 + (shapeResult (asks 3 32768 2452)).length ≤ 2 ^ 64)
    ∧ (Takes (asks 4 32768 15) 63 (theCmd 6 4 32768 15 0 0)
      ∧ (theCmd 6 4 32768 15 0 0).opcode = 6
      ∧ (theCmd 6 4 32768 15 0 0).arg0 = 4
      ∧ ((theCmd 6 4 32768 15 0 0).arg1 % 64 ≠ 0 ∨ (theCmd 6 4 32768 15 0 0).arg2 < (leBytes 8 ((asks 4 32768 15).pwr.jobPj / 1000000) ++ leBytes 8 (asks 4 32768 15).pwr.energyTag).length)) := by
  and_intros <;> first | decide +kernel | (constructor <;> decide +kernel)

/-- States and operands that meet the hypotheses of `MessagesAndRations`, clause by clause. -/
theorem witness_MessagesAndRations :
    (Takes mgtSelf 63 (theCmd 15 32768 5 8 0 0)
      ∧ (theCmd 15 32768 5 8 0 0).opcode = 15
      ∧ 8 ≤ 8 ∧ 8 ≤ 4096
      ∧ hostReadFails mgtSelf 32768 8 = false
      ∧ mgtOk (sent mgtSelf 5) = true
      ∧ mgtSelf.fab.number = some 5
      ∧ mgtSelf.fab.mgtIn.length < 64)
    ∧ (Takes mgtNear 63 (theCmd 15 32768 6 8 0 0)
      ∧ hostReadFails mgtNear 32768 8 = false
      ∧ mgtOk (sent mgtNear 6) = true
      ∧ mgtNear.fab.number ≠ some 6
      ∧ linkLocal (sent mgtNear 6) = true
      ∧ localLink (takeCmd 63 mgtNear) 6 = some 3
      ∧ localLink (takeCmd 63 mgtNear) 7 = none)
    ∧ (Takes mgtOther 63 (theCmd 15 32768 8191 8 0 0)
      ∧ hostReadFails mgtOther 32768 8 = false
      ∧ mgtOk (sent mgtOther 8191) = true
      ∧ mgtOther.fab.number ≠ some 8191
      ∧ linkLocal (sent mgtOther 8191) = false
      ∧ mgtFm (sent mgtOther 8191) = false)
    ∧ (Takes mgtFar 63 (theCmd 15 32768 8190 8 0 0)
      ∧ hostReadFails mgtFar 32768 8 = false
      ∧ mgtOk (sent mgtFar 8190) = true
      ∧ mgtFar.fab.number ≠ some 8190
      ∧ linkLocal (sent mgtFar 8190) = false
      ∧ mgtFm (sent mgtFar 8190) = true
      ∧ fmReachable mgtFar = false)
    ∧ (Takes ringed 63 (theCmd 16 640000 0 0 0 0)
      ∧ (theCmd 16 640000 0 0 0 0).opcode = 16)
    ∧ (ready.dev ≠ Dev.off
      ∧ (0x3A : BitVec 7).toNat = ready.idn.i3cAddr.getD 0x3A)
    ∧ (∀ x : BitVec 7, Transport.pcieVdm = .i3c x → x.toNat ≠ ready.idn.i3cAddr.getD 0x3A)
    ∧ (((0 : Byte) ≠ (0 : Byte) ∨ (2 : Byte) ≠ (1 : Byte) ∧ (2 : Byte) ≠ (2 : Byte) ∨ (2 : Byte) = (2 : Byte) ∧ (1 : W32) ≠ (0 : W32))) := by
  and_intros <;> first | decide +kernel | (constructor <;> decide +kernel) | (intro x h; cases h)

/-- States and operands that meet the hypotheses of `BootSequence`, clause by clause. -/
theorem witness_BootSequence :
    (((fun (s : State) (st : ℕ) => s.dev = Dev.boot ∧ s.pins.perst = false ∧ s.idn.st = st) State.reset 0))
    ∧ (waitGo.host.linkUp = true
      ∧ waitGo.dev = Dev.boot
      ∧ bit (BitVec.toNat (2147487744 : W32)) 31 = true
      ∧ waitGo.idn.st = 1
      ∧ anyHot waitGo = false)
    ∧ (caseBootSequence2a.idn.st = 2 ∨ caseBootSequence2a.idn.st = 1 ∧ anyHot caseBootSequence2a = true)
    ∧ (caseBootSequence2b.host.linkUp = true
      ∧ caseBootSequence2b.dev = Dev.boot
      ∧ caseBootSequence2b.idn.st = 2)
    ∧ (caseBootSequence2c.host.linkUp = true
      ∧ caseBootSequence2c.dev = Dev.boot
      ∧ caseBootSequence2c.idn.st ≠ 1
      ∧ caseBootSequence2c.idn.st ≠ 2)
    ∧ (((fun (s : State) (st : ℕ) => s.dev = Dev.boot ∧ s.pins.perst = false ∧ s.idn.st = st) copying 3))
    ∧ (((fun (s : State) (st : ℕ) => s.dev = Dev.boot ∧ s.pins.perst = false ∧ s.idn.st = st) early 5)
      ∧ enginesStarted early = false)
    ∧ (((fun (s : State) (st : ℕ) => s.dev = Dev.boot ∧ s.pins.perst = false ∧ s.idn.st = st) bringing 5)
      ∧ (∀ k < 8, (bringing.oe.eng.get {} k).st ≠ 0)
      ∧ (∀ r < 4, regionUp bringing r = true)) := by
  decide +kernel

/-- The first three results of an image's checks, each of one that fails there: a copy error, a LEN that differs, a magic number that is wrong. -/
theorem witness_ImageChecks :
    imageResult copying true (imageOf copying) = 2 ∧ imageResult { copying with idn := { copying.idn with len := 4095 } } false (imageOf copying) = 3
    ∧ imageResult copying false ((imageOf copying).set 0 0) = 4 ∧ imageResult copying false ((imageOf copying).set 17 4) = 5 := by
  decide +kernel

/-- States and operands that meet the hypotheses of `FusedSecurityVersion`, clause by clause. -/
theorem witness_FusedSecurityVersion :
    (2 ≤ 64
      ∧ (∀ k < 2, bit twoFuses.idn.svnFuses k = true)
      ∧ (2 = 64 ∨ bit twoFuses.idn.svnFuses 2 = false)) := by
  decide +kernel

/-- States and operands that meet the hypotheses of `FuseWrites`, clause by clause. -/
theorem witness_FuseWrites :
    (hostWrites twoFuses false = true
      ∧ twoFuses.dev = Dev.ready
      ∧ BitVec.toNat (3 : W32) % 128 = twoFuses.idn.svn
      ∧ fusedSvn twoFuses < min twoFuses.idn.svn 64)
    ∧ ((twoFuses.dev ≠ Dev.ready ∨ BitVec.toNat (2 : W32) % 128 ≠ twoFuses.idn.svn ∨ min twoFuses.idn.svn 64 ≤ fusedSvn twoFuses))
    ∧ (blowing.pending = []
      ∧ pwrgd blowing = true
      ∧ blowing.idn.blowing = true
      ∧ fusedSvn blowing < min blowing.idn.svn 64) := by
  decide +kernel

/-- States and operands that meet the hypotheses of `SpdmConnection`, clause by clause. -/
theorem witness_SpdmConnection :
    (mctpReaches (spdm 0) (.i3c 0x3A) = true
      ∧ mctpReaches ready .pcieVdm = true)
    ∧ (mctpReaches (spdm 3) (.i3c 0x3A) = true
      ∧ 1 ≤ (transport (spdm 3) (.i3c 0x3A)).conn.st)
    ∧ (2 ≤ (transport (spdm 3) (.i3c 0x3A)).conn.st)
    ∧ (3 ≤ (transport (spdm 3) (.i3c 0x3A)).conn.st)
    ∧ ((1 : Byte) ≠ (0 : Byte))
    ∧ (measIndices (BitVec.toNat (5 : Byte)) = some [5])
    ∧ (5 < (6 : Byte).toNat ∧ (6 : Byte) ≠ 255)
    ∧ ((transport (spdm 3) (.i3c 0x3A)).conn.later = some ((0x83 : Byte).toNat, (7 : Byte).toNat, MctpMsg.algorithms))
    ∧ ((transport (spdm 3) (.i3c 0x3A)).conn.later.map (fun l => l.2.1) ≠ some (8 : Byte).toNat)
    ∧ ((transport (spdm 0) (.i3c 0x3A)).conn.st < 1)
    ∧ ((66 : Byte) ≠ (0 : Byte)
      ∧ (66 : Byte) ≠ (255 : Byte))
    ∧ (mctpReaches (spdm 0) (.i3c 0) = false) := by
  decide +kernel

end Boot

/-! ### Witnesses for the blocks (O32 to O43) -/

namespace Block

def ctl (op rest : Nat) : BitVec 256 := bundle (2 ^ 63 + op * 2 ^ 57 + rest) 0 0 0
def twoSeg : Block := { seg := [(0, { st := .owned }), (1, { st := .ready })] }
def loopB : BitVec 256 := ctl 4 (1 * 2 ^ 33 + 1 * 2 ^ 22)
def loopS := issuing [loopB, 0] {}
def dloadB : BitVec 256 := ctl 8 (3 * 2 ^ 55 + 255 * 2 ^ 47 + 1 * 2 ^ 40)
def dloadS := issuing [dloadB, 7, 8, 0] {}
def stationB : BitVec 256 := ctl 11 1
def nops := bundle (2^63) (2^63) 0 0
def inLoop (left : Nat) : State := issuing [0, ctl 0 0, 0] { tasks := [(0, 3)], pos := 1, loops := [⟨1, 1, left⟩] }
def waits : State := issuing [ctl 1 1] {}
def twoTasks : State := issuing [ctl 0 0, 0] { tasks := [(0, 1), (1, 1)] }
def arrivedS : State := { issuing [0] {} with job := { (issuing [0] {}).job with run := some { aRun with arrived := [255] } } }
def aseq : BitVec 256 := ctl 5 (1 * 2 ^ 52)
def aseqOf (v : W32) (k : Block) : State :=
  { issuing [aseq] k with job := { (issuing [aseq] k).job with
      trav := some { classBlocks := [64, 64, 64, 64], classFrames := [0, 0, 0, 0], streams := [(255, [aseq])],
                     legs := [{ closed := true, parts := ⟨[], [], [], [(255, [v])], []⟩ }] } } }
def lendRaw : List Byte := [4, 63] ++ leBytes 2 16383 ++ leBytes 4 1023 ++ leBytes 4 0x1000 ++ leBytes 4 64 ++ zeros 48
def lendB : BitVec 256 := ctl 6 0
def lending : State :=
  let s := issuing [lendB] (withDesc lendRaw)
  { s with rmt := { s.rmt with win := [(1023, { st := 1, gen := 4095, entry := { kind := 2, block := 255, base := 0x1000, size := 64 } })] } }
def tileRaw : List Byte := leBytes 4 0x1000 ++ leBytes 4 0x2000 ++ zeros 8 ++ leBytes 4 0x5000 ++ leBytes 4 16 ++ leBytes 2 1 ++ leBytes 2 1 ++ leBytes 2 1 ++ zeros 34
def arrB (op f out : Nat) : BitVec 256 := bundle 0 (2 ^ 63 + op * 2 ^ 59 + f * 2 ^ 54 + f * 2 ^ 49 + out * 2 ^ 41 + 63 * 2 ^ 27) 0 0
def arrS (op f out : Nat) : State := issuing [arrB op f out] (withDesc tileRaw)
def nextOf (s : State) (o : Out) : State := match o with | .next u => u | _ => s
/-- The array state after a MAC issued. -/
def issued1 : State := nextOf ready (exec (.mac 255 .none) (arrS 0 11 0))
def theArr (s : State) : ArrOp := ((blkOf s 267).arr.head?).getD ⟨0, 0, []⟩
def thePart (s : State) : ArrPart := ((theArr s).parts.head?).getD ⟨0, [], [], 0, [], none, none⟩
def fedS : State := setPart 267 0 { thePart issued1 with fed := 1 } issued1
def drainS : State := setPart 267 0 { thePart fedS with held := some [5] } (fedS.modBlk 267 fun k => modSegs [5] SegSt.hold k)
def faultS : State := setPart 267 0 { thePart fedS with fault := some (0x204, 0xFFFF) } fedS
def lentS : State := issued1.modBlk 267 fun k => modSegs [0,1,2] (fun g => { g with st := .lent }) k
/-- What the engine slots of a bundle read in a block. -/
def reads (k : Block) (bv : BitVec 256) : SlotReads := match readSlots k bv.toNat with | .ok l => l | .error _ => {}
/-- The feed that follows `issued1`. -/
def fedBytes (s : State) (n : Nat) : Mem :=
  copyRanges (feedRanges (arrSlot (theArr s).word) (tileOf (thePart s).desc) (thePart s).fed n) (blkOf s 267).sp (thePart s).got

theorem issued_of (bv : BitVec 256) (s : State) (l : SlotReads) (ht : InTurn s 255 267 bv) (h0 : slotValid bv.toNat 0 = false)
    (hr : readSlots (blkOf s 267) bv.toNat = .ok l) : Issued s 255 267 bv s l := ⟨ht, by simp [ctlSlot, h0], hr⟩

def arrK : Block := blkOf (arrS 0 11 0) 267
def vecRaw (s0 s1 s2 count p0 : Nat) : List Byte :=
  leBytes 4 s0 ++ leBytes 4 s1 ++ leBytes 4 s2 ++ leBytes 4 0x5000 ++ leBytes 4 count ++ leBytes 4 p0 ++ zeros 40
def vecB (op fi fo : Nat) : BitVec 256 := bundle 0 0 (2 ^ 63 + op * 2 ^ 57 + fi * 2 ^ 52 + fo * 2 ^ 47 + 63 * 2 ^ 30) 0
def vecS (op fi fo : Nat) (raw : List Byte) : State := issuing [vecB op fi fo] (withDesc raw)
def v2 := vecRaw 0x1000 0x2000 0 2 0
def vecIssued : State := nextOf ready (exec (.add 255 .none) (vecS 0 0 0 v2))
def theVec (s : State) : VecOp := ((blkOf s 267).vec.head?).getD { word := 0, desc := [] }
def vecHalf : State := vecIssued.modBlk 267 fun k => { k with vec := [{ theVec vecIssued with done := 1, held := some [5] }] }
def vecDone : State := nextOf ready (exec (.vectorPost 255 (.moves 1) .none) vecIssued)
def vecDead : State := vecIssued.modBlk 267 fun k => modSegs [1] (fun g => { g with st := .lent }) k
def nanRaw := vecRaw 0x1000 0 0 1 0
def nanB : BitVec 256 := bundle 0 0 (2 ^ 63 + 8 * 2 ^ 57 + 2 ^ 45) 0
def vecNan : State := nextOf ready (exec (.rsqrt 255 .none) (issuing [nanB] { withDesc nanRaw with sp := Mem.writeN (Mem.writeN [] 0 nanRaw) 0x1000 [0, 0, 0x80, 0xBF] }))
/-- What the next `m` elements of the vector instruction in front give. -/
def vecNext (s : State) (m : Nat) : Mem × Bool :=
  vecRun s.job.seed (blkOf s 267).sp (vecSlot (theVec s).word) (vecDesc (theVec s).desc) (theVec s).done m
def xr (r2 r1 f3 rd op : Nat) : Nat := r2 * 2 ^ 20 + r1 * 2 ^ 15 + f3 * 2 ^ 12 + rd * 2 ^ 7 + op
def scalarCoreUp (w : Nat) (x : Table W64) : State := issuing [0] { twoSeg with
  imem := Mem.writeN [] 0x3FFC (leBytes 4 w), sc := { running := true, pc := 0x3FFC, x := x, seg := 0, count := 2, post := 63 }, ctr := [(63, 7)] }
def storeW := xr 2 1 3 8 0x23
def storeS := scalarCoreUp storeW [(1, 0x13FF0), (2, 2 ^ 64 - 1)]
def stK : Block := match storeScalar (blkOf storeS 267) 0x13FF8 8 (2 ^ 64 - 1) with | .ok k => k | .error _ => {}
def dRaw (kind hbm : Nat) : List Byte := leBytes 4 kind ++ leBytes 4 0x1000 ++ leBytes 8 hbm ++ leBytes 4 32 ++ zeros 44
def dmaB : BitVec 256 := bundle 0 0 0 (2 ^ 63 + 63 * 2 ^ 49)
def dmaS (kind hbm : Nat) : State := issuing [dmaB] (withDesc (dRaw kind hbm))
def dmaRuns (kind hbm : Nat) : State :=
  nextOf ready (exec ((match kind with | 1 => Instr.hbmToSp | 2 => .spToHbm | _ => .spToSp) 255 .none) (dmaS kind hbm))
def theDma (s : State) : DmaOp := ((blkOf s 267).dma.head?).getD ⟨0, 0, 0, 0, [], [], 0, 0, false⟩
def dmaDead : State := (dmaRuns 3 24560).modBlk 267 fun k => modSegs [1] (fun g => { g with st := .lent }) k
def dmaMovedS : State := nextOf ready (exec (.dmaPost 255 1 (.moves 2) .none) (dmaRuns 3 24560))
def loads (addr len : Nat) : State := withCmd (inHbm ready) 1 addr len 0 0 0
def litS : State := { loads 0x1000 96 with oe := { ready.oe with pos := [(1053, { st := .active, line := 33 })] } }
def plan1 : List Byte := leBytes 4 1 ++ zeros 4 ++ leBytes 4 1 ++ zeros 4 ++ leBytes 2 0 ++ leBytes 2 7 ++ leBytes 4 0 ++ leBytes 2 1 ++ zeros 6 ++ [0, 0, 1, 0]
def caseTL2 := { loads (3 * 2 ^ 38) 96 with flt := { ready.flt with region := [(3, { mode := .lost })] } }
def caseTL3 := { loads 0x1000 96 with job := { ready.job with loading := some ⟨0, none, []⟩ } }
def trav1 (p : List Byte) : Traverse := ⟨[1, 1, 1, 1], [0, 0, 0, 0], [⟨false, legParts p⟩], []⟩
def shortS : State := { loads 0x1000 96 with blks := { ready.blks with map := some (zeros 256) } }
def runs (a0 a1 a2 : Nat) : State := withCmd { ready with job := { ready.job with trav := some (trav1 (zeros 16)) } } 2 a0 a1 a2 5 0
def barred (s : State) : State := { s with mem := { s.mem with fillBar := true } }
def lostR (s : State) : State := { s with flt := { s.flt with region := [(0, { mode := .lost })] } }
def caseTS := { ready with job := { ready.job with trav := some (trav1 (zeros 16)), run := some aRun } }
def legAt (ph : Phase) (closed : Bool) : State :=
  { issuing [] {} with job := { (issuing [] {}).job with run := some { aRun with phase := ph, arrived := List.range 256, sealClosed := closed } } }
def theRun (ph : Phase) (closed : Bool) : Run := { aRun with phase := ph, arrived := List.range 256, sealClosed := closed }
def openLeg : State := { legAt .leg false with job := { (legAt .leg false).job with trav := some (trav1 (zeros 16)) } }
def caseST3b := { legAt .atStation true with mem := { ready.mem with ckpts := [⟨0, 1, 0, [], false, 0, 0, 0⟩] } }
def caseST5 := { legAt .closedWait true with aon := 50000 }
def drainMsg (n tag : Nat) : List Byte := leBytes 6 n ++ zeros 2 ++ leBytes 4 tag ++ zeros 4
def asked : Run := { theRun .closedWait true with drainAsked := true }
def askedS : State := { legAt .closedWait true with job := { (legAt .closedWait true).job with run := some asked } }
def caseST8 := { askedS with fab := { askedS.fab with reqIn := [msg 0 []] } }
def caseSW4 := { ready with job := { ready.job with tag := 9, valid := true, last := 5 } }
def marker0 : List Byte := leBytes 6 1 ++ [1, 3] ++ leBytes 4 9 ++ leBytes 2 8191 ++ zeros 2
def caseSO := { issuing [0] {} with aon := 500000000 }
def caseSW5 := { ready with job := { ready.job with tag := 9, valid := true, last := 5, reached := [(5, leBytes 6 5 ++ [1, 3] ++ leBytes 4 9 ++ zeros 4)] } }

/-- States and operands that meet the hypotheses of `ControlSlots`, clause by clause. -/
theorem witness_ControlSlots :
    (InTurn (issuing [ctl 0 0] { : Block }) 255 267 (ctl 0 0)
      ∧ slotValid (ctl 0 0).toNat 0 = true
      ∧ ctlReserved (slotWord (ctl 0 0).toNat 0) = 0
      ∧ ctlOp (slotWord (ctl 0 0).toNat 0) = 0)
    ∧ (InTurn (issuing [ctl 1 (63 * 2 ^ 51 + 5)] { ctr := [(63, 5)] : Block }) 255 267 (ctl 1 (63 * 2 ^ 51 + 5))
      ∧ slotValid (ctl 1 (63 * 2 ^ 51 + 5)).toNat 0 = true
      ∧ ctlReserved (slotWord (ctl 1 (63 * 2 ^ 51 + 5)).toNat 0) = 0
      ∧ ctlOp (slotWord (ctl 1 (63 * 2 ^ 51 + 5)).toNat 0) = 1)
    ∧ (InTurn (issuing [ctl 2 (63 * 2 ^ 51 + 1)] { ctr := [(63, 2 ^ 32 - 1)] : Block }) 255 267 (ctl 2 (63 * 2 ^ 51 + 1))
      ∧ slotValid (ctl 2 (63 * 2 ^ 51 + 1)).toNat 0 = true
      ∧ ctlReserved (slotWord (ctl 2 (63 * 2 ^ 51 + 1)).toNat 0) = 0
      ∧ ctlOp (slotWord (ctl 2 (63 * 2 ^ 51 + 1)).toNat 0) = 2)
    ∧ (InTurn (issuing [ctl 3 (63 * 2 ^ 51 + 2 ^ 32 - 1)] { : Block }) 255 267 (ctl 3 (63 * 2 ^ 51 + 2 ^ 32 - 1))
      ∧ slotValid (ctl 3 (63 * 2 ^ 51 + 2 ^ 32 - 1)).toNat 0 = true
      ∧ ctlReserved (slotWord (ctl 3 (63 * 2 ^ 51 + 2 ^ 32 - 1)).toNat 0) = 0
      ∧ ctlOp (slotWord (ctl 3 (63 * 2 ^ 51 + 2 ^ 32 - 1)).toNat 0) = 3)
    ∧ ((blkOf loopS 267).tasks = [(0, 2)]
      ∧ 1 ≤ bits (slotWord loopB.toNat 0) 56 33
      ∧ 1 ≤ bits (slotWord loopB.toNat 0) 32 22
      ∧ bits (slotWord loopB.toNat 0) 32 22 ≤ 1024
      ∧ (blkOf loopS 267).loops.length < 4
      ∧ (∀ l ∈ (blkOf loopS 267).loops.head?, (blkOf loopS 267).pos + bits (slotWord loopB.toNat 0) 32 22 ≤ l.last)
      ∧ (blkOf loopS 267).pos + bits (slotWord loopB.toNat 0) 32 22 < 0 + 2)
    ∧ (InTurn (issuing [ctl 9 (2 * 2 ^ 55 + 1532 * 2 ^ 44)] { : Block }) 255 267 (ctl 9 (2 * 2 ^ 55 + 1532 * 2 ^ 44))
      ∧ slotValid (ctl 9 (2 * 2 ^ 55 + 1532 * 2 ^ 44)).toNat 0 = true
      ∧ ctlReserved (slotWord (ctl 9 (2 * 2 ^ 55 + 1532 * 2 ^ 44)).toNat 0) = 0
      ∧ ctlOp (slotWord (ctl 9 (2 * 2 ^ 55 + 1532 * 2 ^ 44)).toNat 0) = 9
      ∧ bits (slotWord (ctl 9 (2 * 2 ^ 55 + 1532 * 2 ^ 44)).toNat 0) 56 55 < 3
      ∧ bits (slotWord (ctl 9 (2 * 2 ^ 55 + 1532 * 2 ^ 44)).toNat 0) 54 44 ≤ 1532)
    ∧ ((blkOf dloadS 267).tasks = [(0, 4)]
      ∧ bits (slotWord dloadB.toNat 0) 56 55 = 3
      ∧ 1 ≤ bits (slotWord dloadB.toNat 0) 46 40
      ∧ bits (slotWord dloadB.toNat 0) 46 40 ≤ 64
      ∧ bits (slotWord dloadB.toNat 0) 54 47 + bits (slotWord dloadB.toNat 0) 46 40 ≤ 256
      ∧ (blkOf dloadS 267).pos + 2 * bits (slotWord dloadB.toNat 0) 46 40 < 0 + 4)
    ∧ (InTurn (issuing [ctl 7 (0 * 2 ^ 46 + 2 * 2 ^ 35)] twoSeg) 255 267 (ctl 7 (0 * 2 ^ 46 + 2 * 2 ^ 35))
      ∧ slotValid (ctl 7 (0 * 2 ^ 46 + 2 * 2 ^ 35)).toNat 0 = true
      ∧ ctlReserved (slotWord (ctl 7 (0 * 2 ^ 46 + 2 * 2 ^ 35)).toNat 0) = 0
      ∧ ctlOp (slotWord (ctl 7 (0 * 2 ^ 46 + 2 * 2 ^ 35)).toNat 0) = 7
      ∧ 1 ≤ bits (slotWord (ctl 7 (0 * 2 ^ 46 + 2 * 2 ^ 35)).toNat 0) 45 35
      ∧ bits (slotWord (ctl 7 (0 * 2 ^ 46 + 2 * 2 ^ 35)).toNat 0) 56 46 + bits (slotWord (ctl 7 (0 * 2 ^ 46 + 2 * 2 ^ 35)).toNat 0) 45 35 ≤ 1536
      ∧ (∀ i < bits (slotWord (ctl 7 (0 * 2 ^ 46 + 2 * 2 ^ 35)).toNat 0) 45 35, (segOf (blkOf (issuing [ctl 7 (0 * 2 ^ 46 + 2 * 2 ^ 35)] twoSeg) 267) (bits (slotWord (ctl 7 (0 * 2 ^ 46 + 2 * 2 ^ 35)).toNat 0) 56 46 + i)).st = Seg.owned ∨ (segOf (blkOf (issuing [ctl 7 (0 * 2 ^ 46 + 2 * 2 ^ 35)] twoSeg) 267) (bits (slotWord (ctl 7 (0 * 2 ^ 46 + 2 * 2 ^ 35)).toNat 0) 56 46 + i)).st = Seg.ready))
    ∧ (InTurn (issuing [ctl 10 (2 * 2 ^ 43 + 3 * 2 ^ 37 + 2 * 2 ^ 15)] twoSeg) 255 267 (ctl 10 (2 * 2 ^ 43 + 3 * 2 ^ 37 + 2 * 2 ^ 15))
      ∧ slotValid (ctl 10 (2 * 2 ^ 43 + 3 * 2 ^ 37 + 2 * 2 ^ 15)).toNat 0 = true
      ∧ ctlReserved (slotWord (ctl 10 (2 * 2 ^ 43 + 3 * 2 ^ 37 + 2 * 2 ^ 15)).toNat 0) = 0
      ∧ ctlOp (slotWord (ctl 10 (2 * 2 ^ 43 + 3 * 2 ^ 37 + 2 * 2 ^ 15)).toNat 0) = 10
      ∧ bits (slotWord (ctl 10 (2 * 2 ^ 43 + 3 * 2 ^ 37 + 2 * 2 ^ 15)).toNat 0) 56 43 % 2 = 0
      ∧ bits (slotWord (ctl 10 (2 * 2 ^ 43 + 3 * 2 ^ 37 + 2 * 2 ^ 15)).toNat 0) 36 26 + bits (slotWord (ctl 10 (2 * 2 ^ 43 + 3 * 2 ^ 37 + 2 * 2 ^ 15)).toNat 0) 25 15 ≤ 1536
      ∧ (∀ i < bits (slotWord (ctl 10 (2 * 2 ^ 43 + 3 * 2 ^ 37 + 2 * 2 ^ 15)).toNat 0) 25 15, (segOf (blkOf (issuing [ctl 10 (2 * 2 ^ 43 + 3 * 2 ^ 37 + 2 * 2 ^ 15)] twoSeg) 267) (bits (slotWord (ctl 10 (2 * 2 ^ 43 + 3 * 2 ^ 37 + 2 * 2 ^ 15)).toNat 0) 36 26 + i)).st ≠ Seg.free ∧ (segOf (blkOf (issuing [ctl 10 (2 * 2 ^ 43 + 3 * 2 ^ 37 + 2 * 2 ^ 15)] twoSeg) 267) (bits (slotWord (ctl 10 (2 * 2 ^ 43 + 3 * 2 ^ 37 + 2 * 2 ^ 15)).toNat 0) 36 26 + i)).st ≠ Seg.lent))
    ∧ ((blkOf (issuing [stationB] { : Block }) 267).tasks = [(0, 1)]
      ∧ (blkOf (issuing [stationB] { : Block }) 267).pos + 1 = 0 + 1
      ∧ (issuing [stationB] { : Block }).job.run = some aRun
      ∧ bits (slotWord stationB.toNat 0) 31 0 = aRun.j) := by
  and_intros <;> first | decide +kernel | (constructor <;> decide +kernel)

/-- States and operands that meet the hypotheses of `BundlesAdvance`, clause by clause. -/
theorem witness_BundlesAdvance :
    ((blkOf (issuing [ctl 0 0, 0] { halted := true }) 267).halted = true)
    ∧ ((blkOf (issuing [ctl 0 0, 0] {}) 267).halted = false
      ∧ (blkOf (issuing [ctl 0 0, 0] {}) 267).tasks = [(0, 2)]
      ∧ (blkOf (issuing [ctl 0 0, 0] {}) 267).loops = []
      ∧ (blkOf (issuing [ctl 0 0, 0] {}) 267).pos + 1 + (blkOf (issuing [ctl 0 0, 0] {}) 267).skip < 0 + 2)
    ∧ ((blkOf (inLoop 2) 267).tasks = [(0, 3)]
      ∧ (blkOf (inLoop 2) 267).loops = [⟨1, 1, 2⟩]
      ∧ 1 < (blkOf (inLoop 2) 267).pos + 1 + (blkOf (inLoop 2) 267).skip
      ∧ 1 < 2 ∧ 1 < 0 + 3)
    ∧ ((blkOf (inLoop 1) 267).tasks = [(0, 3)]
      ∧ (blkOf (inLoop 1) 267).loops = [⟨1, 1, 1⟩]
      ∧ 1 < (blkOf (inLoop 1) 267).pos + 1 + (blkOf (inLoop 1) 267).skip
      ∧ 1 ≤ 1
      ∧ (blkOf (inLoop 1) 267).pos + 1 + (blkOf (inLoop 1) 267).skip < 0 + 3)
    ∧ ((blkOf twoTasks 267).halted = false
      ∧ (blkOf twoTasks 267).tasks = [(0, 1), (1, 1)]
      ∧ (blkOf twoTasks 267).loops = []
      ∧ 0 + 1 ≤ (blkOf twoTasks 267).pos + 1 + (blkOf twoTasks 267).skip
      ∧ 1 ≤ 1
      ∧ 1 + 1 ≤ (streamOf twoTasks 255).length)
    ∧ ((blkOf (issuing [0] {}) 267).tasks = [(0, 1)]
      ∧ 0 + 1 ≤ (blkOf (issuing [0] {}) 267).pos + 1 + (blkOf (issuing [0] {}) 267).skip
      ∧ legArrived (issuing [0] {}) 255 = false
      ∧ (blkOf arrivedS 267).tasks = [(0, 1)]
      ∧ legArrived arrivedS 255 = true)
    ∧ (InTurn (issuing [0] {}) 255 267 0)
    ∧ (physOf waits 255 = some 267
      ∧ (streamOf waits 255)[(blkOf waits 267).pos]? = some (ctl 1 1)
      ∧ bundleBad (ctl 1 1).toNat = false
      ∧ bundleMayIssue (blkOf waits 267) (ctl 1 1).toNat = false)
    ∧ (physOf (issuing [1] {}) 255 = some 267
      ∧ (streamOf (issuing [1] {}) 255)[(blkOf (issuing [1] {}) 267).pos]? = some 1
      ∧ blockIssues (issuing [1] {}) 255 267 = true
      ∧ bundleBad (BitVec.toNat (1 : BitVec 256)) = true)
    ∧ (InTurn (issuing [ctl 1 (2 ^ 50)] {}) 255 267 (ctl 1 (2 ^ 50))
      ∧ slotValid (ctl 1 (2 ^ 50)).toNat 0 = true
      ∧ ctlOp (slotWord (ctl 1 (2 ^ 50)).toNat 0) = 1
      ∧ ctlReserved (slotWord (ctl 1 (2 ^ 50)).toNat 0) ≠ 0)
    ∧ (physOf (issuing [ctl 2 0] { halted := true }) 255 = some 267
      ∧ (blkOf (issuing [ctl 2 0] { halted := true }) 267).halted = true)
    ∧ (InTurn (issuing [ctl 1 0] {}) 255 267 (ctl 1 0)
      ∧ slotValid (ctl 1 0).toNat 0 = true
      ∧ ctlOp (slotWord (ctl 1 0).toNat 0) = 1)
    ∧ (readSlots (blkOf (arrS 0 11 0) 267) (arrB 0 11 0).toNat = .ok (reads (blkOf (arrS 0 11 0) 267) (arrB 0 11 0))
      ∧ slotValid (arrB 0 11 0).toNat 1 = true
      ∧ (reads (blkOf (arrS 0 11 0) 267) (arrB 0 11 0)).tiles[0]? = some tileRaw)
    ∧ (readSlots (blkOf (vecS 0 0 0 v2) 267) (vecB 0 0 0).toNat = .ok (reads (blkOf (vecS 0 0 0 v2) 267) (vecB 0 0 0))
      ∧ slotValid (vecB 0 0 0).toNat 2 = true)
    ∧ (readSlots (blkOf (dmaS 3 24560) 267) dmaB.toNat = .ok (reads (blkOf (dmaS 3 24560) 267) dmaB)
      ∧ slotValid dmaB.toNat 3 = true) := by
  and_intros <;> first | decide +kernel | (constructor <;> decide +kernel)

/-- States and operands that meet the hypotheses of `AllocationAndLoans`, clause by clause. -/
theorem witness_AllocationAndLoans :
    (InTurn (aseqOf (1074790912 : W32) twoSeg) 255 267 aseq
      ∧ slotValid aseq.toNat 0 = true
      ∧ ctlOp (slotWord aseq.toNat 0) = 5
      ∧ ctlReserved (slotWord aseq.toNat 0) = 0
      ∧ bits (slotWord aseq.toNat 0) 56 52 = 1
      ∧ (allocOf (aseqOf (1074790912 : W32) twoSeg) 255)[(blkOf (aseqOf (1074790912 : W32) twoSeg) 267).alloc]? = some (1074790912 : W32)
      ∧ bits (BitVec.toNat (1074790912 : W32)) 31 30 = 1
      ∧ firstFit (blkOf (aseqOf (1074790912 : W32) twoSeg) 267) (bits (BitVec.toNat (1074790912 : W32)) 29 19) = some (bits (BitVec.toNat (1074790912 : W32)) 18 8))
    ∧ (InTurn (aseqOf (2148532224 : W32) twoSeg) 255 267 aseq
      ∧ slotValid aseq.toNat 0 = true
      ∧ (allocOf (aseqOf (2148532224 : W32) twoSeg) 255)[(blkOf (aseqOf (2148532224 : W32) twoSeg) 267).alloc]? = some (2148532224 : W32)
      ∧ bits (BitVec.toNat (2148532224 : W32)) 31 30 ≠ 1
      ∧ (∀ i ∈ List.map (fun (x : ℕ) => bits (BitVec.toNat (2148532224 : W32)) 18 8 + x) (List.range (bits (BitVec.toNat (2148532224 : W32)) 29 19)), (segOf (blkOf (aseqOf (2148532224 : W32) twoSeg) 267) i).st = Seg.owned ∨ (segOf (blkOf (aseqOf (2148532224 : W32) twoSeg) 267) i).st = Seg.ready))
    ∧ (InTurn (aseqOf (1074791168 : W32) twoSeg) 255 267 aseq
      ∧ slotValid aseq.toNat 0 = true
      ∧ (allocOf (aseqOf (1074791168 : W32) twoSeg) 255)[(blkOf (aseqOf (1074791168 : W32) twoSeg) 267).alloc]? = some (1074791168 : W32)
      ∧ bits (BitVec.toNat (1074791168 : W32)) 31 30 = 1
      ∧ firstFit (blkOf (aseqOf (1074791168 : W32) twoSeg) 267) (bits (BitVec.toNat (1074791168 : W32)) 29 19) ≠ some (bits (BitVec.toNat (1074791168 : W32)) 18 8))
    ∧ (InTurn (aseqOf (2149056512 : W32) twoSeg) 255 267 aseq
      ∧ slotValid aseq.toNat 0 = true
      ∧ (allocOf (aseqOf (2149056512 : W32) twoSeg) 255)[(blkOf (aseqOf (2149056512 : W32) twoSeg) 267).alloc]? = some (2149056512 : W32)
      ∧ bits (BitVec.toNat (2149056512 : W32)) 31 30 ≠ 1
      ∧ (∃ i ∈ List.map (fun (x : ℕ) => bits (BitVec.toNat (2149056512 : W32)) 18 8 + x) (List.range (bits (BitVec.toNat (2149056512 : W32)) 29 19)), (segOf (blkOf (aseqOf (2149056512 : W32) twoSeg) 267) i).st ≠ Seg.owned ∧ (segOf (blkOf (aseqOf (2149056512 : W32) twoSeg) 267) i).st ≠ Seg.ready))
    ∧ (firstFit twoSeg 1534 = some 2)
    ∧ (InTurn lending 255 267 lendB
      ∧ slotValid lendB.toNat 0 = true
      ∧ ctlOp (slotWord lendB.toNat 0) = 6
      ∧ ctlReserved (slotWord lendB.toNat 0) = 0
      ∧ readDesc (blkOf lending 267) 2 (bits (slotWord lendB.toNat 0) 56 49) = Except.ok lendRaw
      ∧ lendOk lendRaw = true
      ∧ lendWindow lending (255) (field lendRaw 4 2) (field lendRaw 8 4) (field lendRaw 12 4) = true
      ∧ (pegOf lending (field lendRaw 2 2)).out = false
      ∧ (pegOf lending (field lendRaw 2 2)).claim = none
      ∧ (∀ g ∈ segsOf (field lendRaw 8 4) (field lendRaw 12 4), (segOf (blkOf lending 267) g).st = Seg.owned)) := by
  and_intros <;> first | decide +kernel | (constructor <;> decide +kernel)

/-- States and operands that meet the hypotheses of `SegmentChanges`, clause by clause. -/
theorem witness_SegmentChanges :
    ({ st := Seg.filling, writers := 1, ended := true : SegSt }.st = Seg.filling
      ∧ { st := Seg.filling, writers := 1, ended := true : SegSt }.writers = 1
      ∧ { st := Seg.filling, writers := 1, ended := true : SegSt }.landing = false)
    ∧ ({ st := Seg.filling, writers := 2 : SegSt }.st = Seg.filling
      ∧ (2 ≤ { st := Seg.filling, writers := 2 : SegSt }.writers ∨ { st := Seg.filling, writers := 2 : SegSt }.landing = true))
    ∧ ({ st := Seg.lent : SegSt }.st = Seg.lent)
    ∧ ({ st := Seg.filling, landing := true : SegSt }.st = Seg.filling
      ∧ { st := Seg.filling, landing := true : SegSt }.writers = 0)
    ∧ ({ st := Seg.filling, writers := 1, landing := true : SegSt }.st = Seg.filling
      ∧ 0 < { st := Seg.filling, writers := 1, landing := true : SegSt }.writers)
    ∧ ([0, 1535].Nodup) := by
  decide +kernel

/-- States and operands that meet the hypotheses of `ArrayInstructions`, clause by clause. -/
theorem witness_ArrayInstructions :
    (Issued (arrS 7 5 0) 255 267 (arrB 7 5 0) (arrS 7 5 0) (reads (blkOf (arrS 7 5 0) 267) (arrB 7 5 0))
      ∧ slotValid (arrB 7 5 0).toNat 1 = true
      ∧ bits (slotWord (arrB 7 5 0).toNat 1) 62 59 = 7)
    ∧ (InTurn (arrS 0 12 0) 255 267 (arrB 0 12 0)
      ∧ slotValid (arrB 0 12 0).toNat 1 = true
      ∧ bits (slotWord (arrB 0 12 0).toNat 1) 62 59 = 0
      ∧ ctlSlot 255 267 (arrB 0 12 0).toNat (arrS 0 12 0) = .issued (arrS 0 12 0)
      ∧ readSlots (blkOf (arrS 0 12 0) 267) (arrB 0 12 0).toNat = Except.error (522, 0, 0)) := by
  and_intros <;> first
    | decide +kernel
    | exact if_neg (by decide +kernel)
    | exact issued_of _ _ _ (by constructor <;> decide +kernel) (by decide +kernel) (by decide +kernel)
    | (constructor <;> decide +kernel)

/-- States and operands that meet the hypotheses of `ArrayInstructions`, in its clauses about what comes after the issue. -/
theorem witness_ArrayInstructions_parts :
    (PartInTurn issued1 255 267 (.fed 1) 0 0 (theArr issued1) (thePart issued1)
      ∧ mayFeed (blkOf issued1 267).arr 0 = true
      ∧ ((thePart issued1).fed ≠ 0 ∨ badColumn issued1 267 (arrSlot (theArr issued1).word).shape (thePart issued1).part = none)
      ∧ feedFault (blkOf issued1 267) (arrSlot (theArr issued1).word) (tileOf (thePart issued1).desc) (thePart issued1).fed 1 = none
      ∧ ((arrSlot (theArr issued1).word).trap && tileNan (1 * granule (rateClass (arrSlot (theArr issued1).word).fa)) (fedBytes issued1 1)
          (arrSlot (theArr issued1).word) (tileOf (thePart issued1).desc)) = false)
    ∧ (PartInTurn lentS 255 267 (.fed 1) 0 0 (theArr lentS) (thePart lentS)
      ∧ feedFault (blkOf lentS 267) (arrSlot (theArr lentS).word) (tileOf (thePart lentS).desc) (thePart lentS).fed 1 = some (0, 518)
      ∧ (arrSlot (theArr lentS).word).trap = false)
    ∧ (PartInTurn fedS 255 267 .drains 0 0 (theArr fedS) (thePart fedS)
      ∧ partFed (thePart fedS) = true
      ∧ (thePart fedS).fault = none
      ∧ drainFault (blkOf fedS 267) (arrSlot (theArr fedS).word) (tileOf (thePart fedS).desc) (thePart fedS).may = none)
    ∧ (PartInTurn faultS 255 267 .drains 0 0 (theArr faultS) (thePart faultS)
      ∧ partFed (thePart faultS) = true
      ∧ (thePart faultS).fault ≠ none)
    ∧ (PartInTurn drainS 255 267 .posts 0 0 (theArr drainS) (thePart drainS)
      ∧ partFed (thePart drainS) = true
      ∧ (thePart drainS).held = some [5]) := by
  and_intros <;> first
    | decide +kernel
    | exact if_neg (by decide +kernel)
    | exact issued_of _ _ _ (by constructor <;> decide +kernel) (by decide +kernel) (by decide +kernel)
    | (constructor <;> decide +kernel)

/-- States and operands that meet the hypotheses of `ArrayArithmetic`, clause by clause. -/
theorem witness_ArrayArithmetic :
    ((arrSlot (slotWord (arrB 0 11 0).toNat 1)).shape ≠ 5
      ∧ (arrSlot (slotWord (arrB 0 11 0).toNat 1)).fa = 11
      ∧ (arrSlot (slotWord (arrB 0 11 0).toNat 1)).op = 0)
    ∧ ((arrSlot (slotWord (arrB 4 11 0).toNat 1)).shape ≠ 5
      ∧ (arrSlot (slotWord (arrB 4 11 0).toNat 1)).fa = 11
      ∧ (arrSlot (slotWord (arrB 4 11 0).toNat 1)).op = 4)
    ∧ ((arrSlot (slotWord (arrB 5 11 0).toNat 1)).shape ≠ 5
      ∧ (arrSlot (slotWord (arrB 5 11 0).toNat 1)).fa = 11
      ∧ (arrSlot (slotWord (arrB 5 11 0).toNat 1)).op = 5)
    ∧ ((arrSlot (slotWord (arrB 1 11 0).toNat 1)).shape ≠ 5
      ∧ (arrSlot (slotWord (arrB 1 11 0).toNat 1)).fa = 11
      ∧ (arrSlot (slotWord (arrB 1 11 0).toNat 1)).op = 1)
    ∧ ((arrSlot (slotWord (arrB 2 11 0).toNat 1)).shape ≠ 5
      ∧ (arrSlot (slotWord (arrB 2 11 0).toNat 1)).fa = 11
      ∧ (arrSlot (slotWord (arrB 2 11 0).toNat 1)).op = 2)
    ∧ ((arrSlot (slotWord (arrB 3 11 0).toNat 1)).shape ≠ 5
      ∧ (arrSlot (slotWord (arrB 3 11 0).toNat 1)).fa = 11
      ∧ (arrSlot (slotWord (arrB 3 11 0).toNat 1)).op = 3)
    ∧ ((arrSlot (slotWord (arrB 6 11 0).toNat 1)).shape ≠ 5
      ∧ 6 ≤ (arrSlot (slotWord (arrB 6 11 0).toNat 1)).op
      ∧ (arrSlot (slotWord (arrB 6 11 0).toNat 1)).op ≤ 8)
    ∧ ((arrSlot (slotWord (arrB 9 12 0).toNat 1)).shape ≠ 5
      ∧ (arrSlot (slotWord (arrB 9 12 0).toNat 1)).op = 9)
    ∧ ((arrSlot (slotWord (arrB 6 11 0).toNat 1)).out = 0)
    ∧ ((arrSlot 0).out = 0) := by
  and_intros <;> first | decide +kernel

/-- States and operands that meet the hypotheses of `VectorInstructions`, clause by clause. -/
theorem witness_VectorInstructions :
    (Issued (vecS 0 0 0 v2) 255 267 (vecB 0 0 0) (vecS 0 0 0 v2) (reads (blkOf (vecS 0 0 0 v2) 267) (vecB 0 0 0))
      ∧ slotValid (vecB 0 0 0).toNat 2 = true
      ∧ bits (slotWord (vecB 0 0 0).toNat 2) 62 57 = 0)
    ∧ (InTurn (vecS 0 11 0 v2) 255 267 (vecB 0 11 0)
      ∧ slotValid (vecB 0 11 0).toNat 2 = true
      ∧ bits (slotWord (vecB 0 11 0).toNat 2) 62 57 = 0
      ∧ ctlSlot 255 267 (vecB 0 11 0).toNat (vecS 0 11 0 v2) = .issued (vecS 0 11 0 v2)
      ∧ readSlots (blkOf (vecS 0 11 0 v2) 267) (vecB 0 11 0).toNat = Except.error (522, 0, 0)) := by
  and_intros <;> first
    | decide +kernel
    | exact if_neg (by decide +kernel)
    | exact issued_of _ _ _ (by constructor <;> decide +kernel) (by decide +kernel) (by decide +kernel)
    | (constructor <;> decide +kernel)

/-- States and operands that meet the hypotheses of `VectorInstructions`, in its clauses about what comes after the issue. -/
theorem witness_VectorInstructions_posts :
    (physOf vecIssued 255 = some 267
      ∧ (blkOf vecIssued 267).vec = [theVec vecIssued]
      ∧ engineRuns vecIssued 255 = true
      ∧ 0 < min (32 * 1) ((vecDesc (theVec vecIssued).desc).count - (theVec vecIssued).done)
      ∧ firstFault (readFault (blkOf vecIssued 267)) (rangeSegs (vecReads (vecSlot (theVec vecIssued).word) (vecDesc (theVec vecIssued).desc) 0 2)) = none
      ∧ firstFault (writeFault (blkOf vecIssued 267)) (rangeSegs (vecWrites (vecSlot (theVec vecIssued).word) (vecDesc (theVec vecIssued).desc) 0 2)) = none
      ∧ ((vecNext vecIssued 2).2 && (vecSlot (theVec vecIssued).word).trap) = false)
    ∧ ((blkOf vecHalf 267).vec = [theVec vecHalf]
      ∧ 0 < min (32 * 1) ((vecDesc (theVec vecHalf).desc).count - (theVec vecHalf).done)
      ∧ (theVec vecHalf).held.isSome = true)
    ∧ ((blkOf vecNan 267).vec = [theVec vecNan]
      ∧ engineRuns vecNan 255 = true
      ∧ 0 < min (32 * 1) ((vecDesc (theVec vecNan).desc).count - (theVec vecNan).done)
      ∧ firstFault (readFault (blkOf vecNan 267)) (rangeSegs (vecReads (vecSlot (theVec vecNan).word) (vecDesc (theVec vecNan).desc) 0 1)) = none
      ∧ firstFault (writeFault (blkOf vecNan 267)) (rangeSegs (vecWrites (vecSlot (theVec vecNan).word) (vecDesc (theVec vecNan).desc) 0 1)) = none
      ∧ ((vecNext vecNan 1).2 && (vecSlot (theVec vecNan).word).trap) = true)
    ∧ ((blkOf vecDead 267).vec = [theVec vecDead]
      ∧ engineRuns vecDead 255 = true
      ∧ firstFault (readFault (blkOf vecDead 267)) (rangeSegs (vecReads (vecSlot (theVec vecDead).word) (vecDesc (theVec vecDead).desc) 0 2)) ≠ none)
    ∧ ((blkOf vecDone 267).vec = [theVec vecDone]
      ∧ engineRuns vecDone 255 = true
      ∧ (vecDesc (theVec vecDone).desc).count ≤ (theVec vecDone).done) := by
  and_intros <;> first
    | decide +kernel
    | exact if_neg (by decide +kernel)
    | exact issued_of _ _ _ (by constructor <;> decide +kernel) (by decide +kernel) (by decide +kernel)
    | (constructor <;> decide +kernel)

/-- States and operands that meet the hypotheses of `VectorResults`, clause by clause. -/
theorem witness_VectorResults :
    ((vecSlot (slotWord (vecB 19 0 0).toNat 2)).vop = 19)
    ∧ ((vecSlot (slotWord (vecB 12 0 0).toNat 2)).vop = 12)
    ∧ ((vecSlot (slotWord (vecB 18 0 13).toNat 2)).vop = 18)
    ∧ ((vecSlot (slotWord (vecB 16 0 0).toNat 2)).vop = 16
      ∧ randomWord 7 (vecDesc (vecRaw 4096 0 0 2 (2 ^ 32 - 1))).tensor 2 (vecDesc (vecRaw 4096 0 0 2 (2 ^ 32 - 1))).draw ((vecDesc (vecRaw 4096 0 0 2 (2 ^ 32 - 1))).base + 0) < (vecDesc (vecRaw 4096 0 0 2 (2 ^ 32 - 1))).p0)
    ∧ ((FV.fin false 3 (0 : ℤ)).isNan = false
      ∧ (FV.inf true).isNan = false)
    ∧ (0 < 1)
    ∧ ((FV.fin false 3 0).isNan = false
      ∧ (FV.inf true).isNan = false)
    ∧ (0 < 1) := by
  decide +kernel

/-- States and operands that meet the hypotheses of `ScalarCore`, clause by clause. -/
theorem witness_ScalarCore :
    (((fun (s : State) (b p w len : ℕ) => physOf s b = some p ∧ scalarRuns s b (blkOf s p) = true ∧ fetchScalar (blkOf s p) = some (w, len)) (scalarCoreUp (xr 0 1 0 1 19 + 4095 * 2 ^ 20) [(1, (5 : W64))]) 255 267 (xr 0 1 0 1 19 + 4095 * 2 ^ 20) 4)
      ∧ bits (xr 0 1 0 1 19 + 4095 * 2 ^ 20) 6 0 = 19
      ∧ bits (xr 0 1 0 1 19 + 4095 * 2 ^ 20) 14 12 = 0)
    ∧ (((fun (s : State) (b p w len : ℕ) => physOf s b = some p ∧ scalarRuns s b (blkOf s p) = true ∧ fetchScalar (blkOf s p) = some (w, len)) (scalarCoreUp (xr 2 1 0 31 51) [(1, (2 : W64) ^ 64 - (1 : W64)), (2, (3 : W64))]) 255 267 (xr 2 1 0 31 51) 4)
      ∧ bits (xr 2 1 0 31 51) 6 0 = 51
      ∧ bits (xr 2 1 0 31 51) 14 12 = 0
      ∧ bits (xr 2 1 0 31 51) 31 25 = 0)
    ∧ (((fun (s : State) (b p w len : ℕ) => physOf s b = some p ∧ scalarRuns s b (blkOf s p) = true ∧ fetchScalar (blkOf s p) = some (w, len)) (scalarCoreUp (1048575 * 2 ^ 12 + xr 0 0 0 31 55) []) 255 267 (1048575 * 2 ^ 12 + xr 0 0 0 31 55) 4)
      ∧ bits (1048575 * 2 ^ 12 + xr 0 0 0 31 55) 6 0 = 55)
    ∧ (((fun (s : State) (b p w len : ℕ) => physOf s b = some p ∧ scalarRuns s b (blkOf s p) = true ∧ fetchScalar (blkOf s p) = some (w, len)) (scalarCoreUp (2 ^ 31 + xr 2 1 0 4 99) [(1, (5 : W64)), (2, (5 : W64))]) 255 267 (2 ^ 31 + xr 2 1 0 4 99) 4)
      ∧ bits (2 ^ 31 + xr 2 1 0 4 99) 6 0 = 99
      ∧ bits (2 ^ 31 + xr 2 1 0 4 99) 14 12 = 0)
    ∧ (((fun (s : State) (b p w len : ℕ) => physOf s b = some p ∧ scalarRuns s b (blkOf s p) = true ∧ fetchScalar (blkOf s p) = some (w, len)) (scalarCoreUp (2 ^ 31 + xr 2 1 0 1 111) []) 255 267 (2 ^ 31 + xr 2 1 0 1 111) 4)
      ∧ bits (2 ^ 31 + xr 2 1 0 1 111) 6 0 = 111)
    ∧ (bits storeW 6 0 = 35
      ∧ bits storeW 14 12 = 3
      ∧ storeScalar (blkOf storeS 267) (BitVec.toNat ((fun (s : State) (p w : ℕ) => xGet (blkOf s p).sc (bits w 19 15)) storeS 267 storeW + sext 12 (bits storeW 31 25 * 32 + bits storeW 11 7))) 8 (BitVec.toNat ((fun (s : State) (p w : ℕ) => xGet (blkOf s p).sc (bits w 24 20)) storeS 267 storeW) % 2 ^ 64) = Except.ok stK)
    ∧ (((fun (s : State) (b p w len : ℕ) => physOf s b = some p ∧ scalarRuns s b (blkOf s p) = true ∧ fetchScalar (blkOf s p) = some (w, len)) (scalarCoreUp (xr 2 1 0 0 11) [(1, (127 : W64)), (2, (2 : W64) ^ 32 + (5 : W64))]) 255 267 (xr 2 1 0 0 11) 4)
      ∧ customOf (xr 2 1 0 0 11) = some 0)
    ∧ (((fun (s : State) (b p w len : ℕ) => physOf s b = some p ∧ scalarRuns s b (blkOf s p) = true ∧ fetchScalar (blkOf s p) = some (w, len)) (scalarCoreUp (xr 2 1 1 0 11) [(1, (127 : W64)), (2, (7 : W64))]) 255 267 (xr 2 1 1 0 11) 4)
      ∧ customOf (xr 2 1 1 0 11) = some 1)
    ∧ (((fun (s : State) (b p w len : ℕ) => physOf s b = some p ∧ scalarRuns s b (blkOf s p) = true ∧ fetchScalar (blkOf s p) = some (w, len)) (scalarCoreUp (xr 2 1 2 5 11) [(1, (127 : W64)), (2, (8 : W64))]) 255 267 (xr 2 1 2 5 11) 4)
      ∧ customOf (xr 2 1 2 5 11) = some 2)
    ∧ (((fun (s : State) (b p w len : ℕ) => physOf s b = some p ∧ scalarRuns s b (blkOf s p) = true ∧ fetchScalar (blkOf s p) = some (w, len)) (scalarCoreUp (xr 2 1 3 5 11) [(1, (1 : W64)), (2, (8 : W64))]) 255 267 (xr 2 1 3 5 11) 4)
      ∧ customOf (xr 2 1 3 5 11) = some 3)
    ∧ (((fun (s : State) (b p w len : ℕ) => physOf s b = some p ∧ scalarRuns s b (blkOf s p) = true ∧ fetchScalar (blkOf s p) = some (w, len)) (scalarCoreUp (xr 2 1 4 5 11) [(2, (2 : W64))]) 255 267 (xr 2 1 4 5 11) 4)
      ∧ customOf (xr 2 1 4 5 11) = some 4
      ∧ 1 ≤ BitVec.toNat ((fun (s : State) (p w : ℕ) => xGet (blkOf s p).sc (bits w 24 20)) (scalarCoreUp (xr 2 1 4 5 11) [(2, (2 : W64))]) 267 (xr 2 1 4 5 11))
      ∧ BitVec.toNat ((fun (s : State) (p w : ℕ) => xGet (blkOf s p).sc (bits w 19 15)) (scalarCoreUp (xr 2 1 4 5 11) [(2, (2 : W64))]) 267 (xr 2 1 4 5 11)) + BitVec.toNat ((fun (s : State) (p w : ℕ) => xGet (blkOf s p).sc (bits w 24 20)) (scalarCoreUp (xr 2 1 4 5 11) [(2, (2 : W64))]) 267 (xr 2 1 4 5 11)) ≤ 1536
      ∧ (∀ i ∈ List.map (fun (x : ℕ) => BitVec.toNat ((fun (s : State) (p w : ℕ) => xGet (blkOf s p).sc (bits w 19 15)) (scalarCoreUp (xr 2 1 4 5 11) [(2, (2 : W64))]) 267 (xr 2 1 4 5 11)) + x) (List.range (BitVec.toNat ((fun (s : State) (p w : ℕ) => xGet (blkOf s p).sc (bits w 24 20)) (scalarCoreUp (xr 2 1 4 5 11) [(2, (2 : W64))]) 267 (xr 2 1 4 5 11)))), (segOf (blkOf (scalarCoreUp (xr 2 1 4 5 11) [(2, (2 : W64))]) 267) i).st = Seg.owned ∨ (segOf (blkOf (scalarCoreUp (xr 2 1 4 5 11) [(2, (2 : W64))]) 267) i).st = Seg.ready))
    ∧ (((fun (s : State) (b p w len : ℕ) => physOf s b = some p ∧ scalarRuns s b (blkOf s p) = true ∧ fetchScalar (blkOf s p) = some (w, len)) (scalarCoreUp (xr 2 1 5 5 11) [(2, (2 : W64))]) 255 267 (xr 2 1 5 5 11) 4)
      ∧ customOf (xr 2 1 5 5 11) = some 5)
    ∧ (physOf (scalarCoreUp 0 []) 255 = some 267
      ∧ scalarRuns (scalarCoreUp 0 []) (255) (blkOf (scalarCoreUp 0 []) 267) = true
      ∧ fetchScalar (blkOf (scalarCoreUp 0 []) 267) = none) := by
  and_intros <;> first | decide +kernel

/-- States and operands that meet the hypotheses of `LocalDma`, clause by clause. -/
theorem witness_LocalDma :
    (Issued (dmaS 3 24560) 255 267 dmaB (dmaS 3 24560) (reads (blkOf (dmaS 3 24560) 267) dmaB)
      ∧ slotValid dmaB.toNat 3 = true
      ∧ field (reads (blkOf (dmaS 3 24560) 267) dmaB).dma 0 1 = 3
      ∧ (dmaDesc (reads (blkOf (dmaS 3 24560) 267) dmaB).dma).indirect = false
      ∧ firstFault (writeFault (blkOf (dmaS 3 24560) 267)) (segsOf 24560 32) = none)
    ∧ (InTurn (dmaS 3 20481) 255 267 dmaB
      ∧ slotValid dmaB.toNat 0 = false
      ∧ slotValid dmaB.toNat 1 = false
      ∧ slotValid dmaB.toNat 2 = false
      ∧ bits (slotWord dmaB.toNat 3) 48 0 = 0
      ∧ readDesc (blkOf (dmaS 3 20481) 267) 2 (bits (slotWord dmaB.toNat 3) 62 55) = Except.ok (dRaw 3 20481)
      ∧ field (dRaw 3 20481) 0 1 = 3
      ∧ dmaOk (dRaw 3 20481) = false) := by
  and_intros <;> first
    | decide +kernel
    | exact issued_of _ _ _ (by constructor <;> decide +kernel) (by decide +kernel) (by decide +kernel)
    | (constructor <;> decide +kernel)

/-- States and operands that meet the hypotheses of `LocalDma`, in its clauses about what comes after the issue. -/
theorem witness_LocalDma_posts :
    (physOf (dmaRuns 3 24560) 255 = some 267
      ∧ (blkOf (dmaRuns 3 24560) 267).dma.find? (fun o => o.id == 1) = some (theDma (dmaRuns 3 24560))
      ∧ engineRuns (dmaRuns 3 24560) 255 = true
      ∧ (dmaDesc (theDma (dmaRuns 3 24560)).raw).kind = (theDma (dmaRuns 3 24560)).kind
      ∧ (theDma (dmaRuns 3 24560)).kind = 3
      ∧ min (64 * 1 - (24560 + 0) % 64) 32 = 16
      ∧ firstFault (readFault (blkOf (dmaRuns 3 24560) 267)) (segsOf (0x1000 + 0) 16) = none)
    ∧ ((theDma (dmaRuns 1 (2 * 2 ^ 38 + 48))).kind = 1
      ∧ (blkOf (dmaRuns 1 (2 * 2 ^ 38 + 48)) 267).dma.find? (fun o => o.id == 1) = some (theDma (dmaRuns 1 (2 * 2 ^ 38 + 48)))
      ∧ roundTrip (dmaRuns 1 (2 * 2 ^ 38 + 48)) (255 / 64) 2 = true)
    ∧ ((theDma (dmaRuns 2 (2 * 2 ^ 38 + 48))).kind = 2
      ∧ (blkOf (dmaRuns 2 (2 * 2 ^ 38 + 48)) 267).dma.find? (fun o => o.id == 1) = some (theDma (dmaRuns 2 (2 * 2 ^ 38 + 48)))
      ∧ firstFault (readFault (blkOf (dmaRuns 2 (2 * 2 ^ 38 + 48)) 267)) (segsOf (0x1000 + 0) 16) = none
      ∧ pathUp (dmaRuns 2 (2 * 2 ^ 38 + 48)) (255 / 64) 2 = true
      ∧ roundTrip (dmaRuns 2 (2 * 2 ^ 38 + 48)) (255 / 64) 2 = true)
    ∧ ((theDma dmaDead).kind = 3
      ∧ (blkOf dmaDead 267).dma.find? (fun o => o.id == 1) = some (theDma dmaDead)
      ∧ engineRuns dmaDead 255 = true
      ∧ firstFault (readFault (blkOf dmaDead 267)) (segsOf (0x1000 + 0) 16) ≠ none)
    ∧ ((blkOf dmaMovedS 267).dma.find? (fun o => o.id == 1) = some (theDma dmaMovedS)
      ∧ engineRuns dmaMovedS 255 = true
      ∧ (theDma dmaMovedS).kind ≤ 3
      ∧ (theDma dmaMovedS).moved = (theDma dmaMovedS).len) := by
  and_intros <;> decide +kernel

/-- States and operands that meet the hypotheses of `TraversesAndRuns`, clause by clause. -/
theorem witness_TraversesAndRuns :
    (Takes (loads 4097 96) 63 (theCmd 1 4097 96 0 0 0)
      ∧ (theCmd 1 4097 96 0 0 0).opcode = 1
      ∧ 4097 % 4096 ≠ 0)
    ∧ (Takes caseTL2 63 (theCmd 1 (3 * 2 ^ 38) 96 0 0 0)
      ∧ 3 * 2 ^ 38 % 4096 = 0
      ∧ (regionUp caseTL2 3 && roundTrip caseTL2 0 3) = false)
    ∧ (Takes caseTL3 63 (theCmd 1 4096 96 0 0 0)
      ∧ (regionUp caseTL3 0 && roundTrip caseTL3 0 0) = true
      ∧ caseTL3.job.loading ≠ none)
    ∧ (Takes litS 63 (theCmd 1 4096 96 0 0 0)
      ∧ (regionUp litS 0 && roundTrip litS 0 0) = true
      ∧ litS.job.loading = none
      ∧ scheduledLanes (leaveKeepalive (takeCmd 63 litS)) ≠ [])
    ∧ (Takes (loads 4096 96) 63 (theCmd 1 4096 96 0 0 0)
      ∧ (regionUp (loads 4096 96) 0 && roundTrip (loads 4096 96) 0 0) = true
      ∧ (loads 4096 96).job.loading = none
      ∧ scheduledLanes (leaveKeepalive (takeCmd 63 (loads 4096 96))) = [])
    ∧ (Takes (withCmd ready 2 0 0 0 0 0) 63 (theCmd 2 0 0 0 0 0)
      ∧ (theCmd 2 0 0 0 0 0).opcode = 2
      ∧ (withCmd ready 2 0 0 0 0 0).job.trav = none)
    ∧ (Takes (barred (runs 0 256 1)) 63 (theCmd 2 0 256 1 5 0)
      ∧ (barred (runs 0 256 1)).job.trav ≠ none
      ∧ ((barred (runs 0 256 1)).mem.fillBar = true ∨ (barred (runs 0 256 1)).mem.fill ≠ none))
    ∧ (Takes (runs 0 255 1) 63 (theCmd 2 0 255 1 5 0)
      ∧ (runs 0 255 1).job.trav = some (trav1 (zeros 16))
      ∧ (runs 0 255 1).mem.fillBar = false
      ∧ (runs 0 255 1).mem.fill = none
      ∧ (255 % 256 ≠ 0 ∨ 1 = 0))
    ∧ (Takes (runs 1 256 1) 63 (theCmd 2 1 256 1 5 0)
      ∧ 256 % 256 = 0 ∧ 1 ≠ 0
      ∧ 1 ≠ (if (runs 1 256 1).job.valid = true then (runs 1 256 1).job.last else 0))
    ∧ (Takes (runs 0 256 1) 63 (theCmd 2 0 256 1 5 0)
      ∧ (runs 0 256 1).job.trav = some (trav1 (zeros 16))
      ∧ (runs 0 256 1).mem.fillBar = false
      ∧ (runs 0 256 1).mem.fill = none
      ∧ 0 = (if (runs 0 256 1).job.valid = true then (runs 0 256 1).job.last else 0)
      ∧ 0 + (trav1 (zeros 16)).legs.length ≤ 281474976710654
      ∧ classUp (runs 0 256 1) = true)
    ∧ (classUp (lostR (runs 0 256 1)) = false
      ∧ (lostR (runs 0 256 1)).job.trav = some (trav1 (zeros 16)))
    ∧ (caseTS.job.trav = some (trav1 (zeros 16))
      ∧ caseTS.job.run = some aRun
      ∧ (trav1 (zeros 16)).legs[aRun.first + 1 - 1]? = some { closed := false, parts := legParts (zeros 16) : Leg })
    ∧ (Takes (withCmd ready 10 0 0 0 0 0) 63 (theCmd 10 0 0 0 0 0)
      ∧ (theCmd 10 0 0 0 0 0).opcode = 10
      ∧ ((theCmd 10 0 0 0 0 0).arg0 = 0 ∨ (theCmd 10 0 0 0 0 0).arg0 = (withCmd ready 10 0 0 0 0 0).job.tag))
    ∧ (Takes (withCmd ready 10 7 0 0 0 0) 63 (theCmd 10 7 0 0 0 0)
      ∧ (theCmd 10 7 0 0 0 0).arg0 ≠ 0
      ∧ (theCmd 10 7 0 0 0 0).arg0 ≠ (withCmd ready 10 7 0 0 0 0).job.tag) := by
  and_intros <;> first | decide +kernel | (constructor <;> decide +kernel)

/-- States and operands that meet the hypotheses of `Stations`, clause by clause. -/
theorem witness_Stations :
    ((noteUnread [] (legAt .leg false)).job.run = some (theRun .leg false)
      ∧ (theRun .leg false).phase ≠ Phase.atStation
      ∧ legRuns (noteUnread [] (legAt .leg false)) = true
      ∧ legDone (noteUnread [] (legAt .leg false)) = true
      ∧ stationClosed (noteUnread [] (legAt .leg false)) (0 + 1) = true)
    ∧ ((noteUnread [] openLeg).job.run = some (theRun .leg false)
      ∧ legRuns (noteUnread [] openLeg) = true
      ∧ legDone (noteUnread [] openLeg) = true
      ∧ stationClosed (noteUnread [] openLeg) (0 + 1) = false)
    ∧ ((issuing [0] {}).job.run = some aRun
      ∧ aRun.phase ≠ Phase.atStation
      ∧ legDone (issuing [0] {}) = false)
    ∧ ((legAt .atStation true).job.run = some (theRun .atStation true)
      ∧ (theRun .atStation true).phase = Phase.atStation
      ∧ stationBusy (legAt .atStation true) (0 + 1) = false)
    ∧ (caseST3b.job.run = some (theRun .atStation true)
      ∧ stationBusy caseST3b (0 + 1) = true)
    ∧ (caseST5.job.run = some (theRun .closedWait true)
      ∧ (theRun .closedWait true).phase = Phase.closedWait
      ∧ (theRun .closedWait true).drainSeen = false
      ∧ (theRun .closedWait true).arrivedAt + 50000 ≤ caseST5.aon)
    ∧ (Message (heard (legAt .closedWait true) 17 (zeros 15)) 17 (msg 17 (zeros 15)) []
      ∧ drainOk (zeros 15) = false)
    ∧ (Message (heard (legAt .closedWait true) 17 (drainMsg 1 9)) 17 (msg 17 (drainMsg 1 9)) []
      ∧ drainOk (drainMsg 1 9) = true
      ∧ (heard (legAt .closedWait true) 17 (drainMsg 1 9)).job.run = some (theRun .closedWait true)
      ∧ field (drainMsg 1 9) 0 6 = 0 + 1
      ∧ field (drainMsg 1 9) 8 4 = (legAt .closedWait true).job.tag
      ∧ (legAt .closedWait true).mem.shadow = none)
    ∧ (askedS.job.run = some asked
      ∧ asked.phase = Phase.closedWait
      ∧ asked.drainAsked = true
      ∧ drainEmpty askedS = true
      ∧ (∀ k ∈ askedS.mem.ckpts, k.station ≠ asked.base + asked.j))
    ∧ (caseST8.job.run = some asked
      ∧ drainEmpty caseST8 = false)
    ∧ (Message (heard ready 18 (zeros 15)) 18 (msg 18 (zeros 15)) [])
    ∧ (Message (heard askedS 18 (drainMsg 1 8)) 18 (msg 18 (drainMsg 1 8)) []
      ∧ drainOk (drainMsg 1 8) = true
      ∧ swapDue (heard askedS 18 (drainMsg 1 8)) 1 = true
      ∧ field (drainMsg 1 8) 8 4 ≠ askedS.job.tag)
    ∧ (Message (heard caseSW4 18 (drainMsg 5 9)) 18 (msg 18 (drainMsg 5 9)) []
      ∧ swapDue (heard caseSW4 18 (drainMsg 5 9)) 5 = false
      ∧ caseSW4.job.reached.get [] 5 = [])
    ∧ (Message (heard askedS 18 (drainMsg 1 9)) 18 (msg 18 (drainMsg 1 9)) []
      ∧ field (drainMsg 1 9) 8 4 = askedS.job.tag
      ∧ field (drainMsg 1 9) 0 6 = asked.base + asked.j
      ∧ askedS.mem.shadow = none)
    ∧ (Message (heard caseSW5 18 (drainMsg 5 9)) 18 (msg 18 (drainMsg 5 9)) []
      ∧ swapDue (heard caseSW5 18 (drainMsg 5 9)) 5 = false
      ∧ caseSW5.job.reached.get [] 5 = leBytes 6 5 ++ [1, 3] ++ leBytes 4 9 ++ zeros 4
      ∧ leBytes 6 5 ++ [1, 3] ++ leBytes 4 9 ++ zeros 4 ≠ []
      ∧ field (drainMsg 5 9) 8 4 = caseSW5.job.tag)
    ∧ (ready.mem.role ≠ 1)
    ∧ (Message (heard ready 16 marker0) 16 (msg 16 marker0) []
      ∧ markerOk marker0 = true)
    ∧ (Message (heard ready 16 (zeros 16)) 16 (msg 16 (zeros 16)) []
      ∧ markerOk (zeros 16) = false)
    ∧ (caseSO.job.run = some aRun
      ∧ (aRun.phase = Phase.leg ∨ aRun.phase = Phase.closedWait)
      ∧ (aRun.overdue + 1) * (50000 * caseSO.job.wdog) ≤ caseSO.aon - aRun.legStart)
    ∧ (aRun.sealDigest.length = 4
      ∧ aRun.sealDet.length = 4
      ∧ 2 ^ 48 - 1 < 2 ^ 48) := by
  and_intros <;> first | decide +kernel | (constructor <;> decide +kernel)

end Block

/-! ### Witnesses for parking, jobs and stations (O44 to O46) -/

namespace Jobs

def trav1 (p : List Byte) : Traverse := ⟨[1, 1, 1, 1], [0, 0, 0, 0], [⟨false, legParts p⟩], []⟩
def cko (a0 a1 a2 a3 a4 : Nat) (s : State) : State := withCmd (withHbm { s with hostMem := Mem.writeN [] 0x8000 (leBytes 8 0x1000 ++ leBytes 8 0x1000) }) 7 a0 a1 a2 a3 a4
def caseCO3 := { ready with job := { ready.job with last := 5, valid := true } }
def lostCore (s : State) : State := { s with flt := { s.flt with region := [(0, { mode := .lost })] } }
def caseCO0 := lostCore ready
def ck (ph : Nat) (im : Bool) : Ckpt := { cmd := 0, station := 1, addr := 4096, list := [(0x1000, 0x1000)], image := im, phase := ph, digest := 77 }
def ckS (ph : Nat) (im closed : Bool) : State :=
  let r : Run := { aRun with phase := if closed then .closedWait else .atStation, sealClosed := closed }
  withHbm { ready with dev := .run, mem := { ready.mem with ckpts := [ck ph im] }, fab := { ready.fab with number := some 5 }, job := { ready.job with run := some r, trav := some (trav1 (zeros 16)) }, host := { ready.host with cmds := [theCmd 7 0x8000 1 4096 1 0] } }
def fills (a0 a1 a2 a3 : Nat) (s : State) : State := withCmd s 8 a0 a1 a2 a3 0
def caseFI1 := { ready with dev := .run }
def aFill (d w : Nat) (ph : Nat) : Fill := { cmd := 0, addr := 0x1000, tag := 9, want := w, key := 0, phase := ph, digest := d, hdrDigest := 7, ranges := [(0x1000, 0x1000)], count := 1 }
def fillS (d w ph : Nat) : State := withHbm { ready with mem := { ready.mem with fill := some (aFill d w ph) }, host := { ready.host with cmds := [theCmd 8 0x1000 9 7 0 0] } }
def bs (a0 a1 a2 : Nat) (s : State) : State := withCmd (withHbm s) 9 a0 a1 a2 0x100 0
def filled : State := { ready with job := { ready.job with trav := some (trav1 (zeros 16)), valid := true, last := 5 }, mem := { ready.mem with fillState := 2, fillImage := true, fillStation := 5 } }
def parks (op : Nat) (s : State) : State := withCmd s op 0 0 0 0 0
def parkingS : State := { ready with pwr := { ready.pwr with parking := true, parkCmds := [0] }, host := { ready.host with cmds := [theCmd 0xD 0 0 0 0 0] } }
def parkedS : State := { ready with dev := .bivouac, pwr := { ready.pwr with parkedFrom := some .fenced, unparkCmds := [0] }, host := { ready.host with cmds := [theCmd 0xE 0 0 0 0 0] } }
def caseUN2 := { ready with dev := .bivouac }
def caseUN3 := { ready with dev := .bivouac, pwr := { ready.pwr with forceMw := 639999 } }
def resetting : State := { withHbm ready with flt := { ready.flt with region := [(3, { mode := .resetting, cmd := some 0 })] }, host := { ready.host with cmds := [theCmd 0xC 3 0 0 0 0] } }
def caseRR2 := { ready with flt := { ready.flt with region := [(3, { mode := .test })] } }
def caseRC2 := { withHbm ready with flt := { ready.flt with region := [(3, { mode := .resetting })] } }
def started : State := { resetting with oe := { resetting.oe with eng := [(6, { st := 1 }), (7, { st := 1 })] } }
def caseRB1 := { ready with blks := { ready.blks with map := some (zeros 256) } }
def caseRB3 := { ready with flt := { ready.flt with region := [(3, { mode := .lost })] } }
def rbRun : State := let s := withCmd { ready with dev := .run } 0x11 255 0 0 0 0; { s with host := { s.host with cmds := [theCmd 2 0 0 0 0 0] } }
def caseRBC := { ready with host := { ready.host with cmds := [theCmd 0x11 255 0 0 0 0] } }
def caseTM3 := { ready with flt := { ready.flt with testRefused := true } }
def caseTM7 := { ready with flt := { ready.flt with testBusy := true } }
def testing : State := { ready with flt := { ready.flt with testBusy := true, region := [(3, { mode := .test })], testResult := [(3, { mode := 7 })] } }
def meas (b3 : Nat) (st : Bool) : ClockMeas := ⟨[1600, 1600, 1600, b3], [1200, 1200, 1200, 1200], 15625, 10000, st⟩
def clocked : State := { ready with pwr := { ready.pwr with region := (List.range 4).map fun r => (r, { pll := true, skip := r == 0 }) } }
def caseCM2 := { ready with pwr := { ready.pwr with region := [(3, { pll := true, skip := true })] } }
def m2 (b3 : Nat) : ClockMeas := ⟨[pointMhz 2, pointMhz 2, pointMhz 2, b3], [1200, 1200, 1200, 1200], 15625, 10000, false⟩
def mf (p f : Nat) : ClockMeas := ⟨[pointMhz 2, pointMhz 2, pointMhz 2, pointMhz 2], [1200, 1200, 1200, 1200], f, p, false⟩

/-- States and operands that meet the hypotheses of `CheckpointsAndFills`, clause by clause. -/
theorem witness_CheckpointsAndFills :
    (Takes (cko 32769 1 0 1 0 ready) 63 (theCmd 7 32769 1 0 1 0)
      ∧ (theCmd 7 32769 1 0 1 0).opcode = 7
      ∧ ((theCmd 7 32769 1 0 1 0).arg0 % 64 ≠ 0 ∨ 2 ^ 48 ≤ (theCmd 7 32769 1 0 1 0).arg1 ∨ (theCmd 7 32769 1 0 1 0).arg2 % 4096 ≠ 0 ∨ (theCmd 7 32769 1 0 1 0).arg3 % 2 ^ 16 = 0 ∨ 1024 < (theCmd 7 32769 1 0 1 0).arg3 % 2 ^ 16 ∨ (theCmd 7 32769 1 0 1 0).arg4 ≠ 0))
    ∧ (Takes (cko 32768 5 4096 1 0 caseCO3) 63 (theCmd 7 32768 5 4096 1 0)
      ∧ (theCmd 7 32768 5 4096 1 0).opcode = 7
      ∧ (theCmd 7 32768 5 4096 1 0).arg0 % 64 = 0
      ∧ (theCmd 7 32768 5 4096 1 0).arg1 < 2 ^ 48
      ∧ bits (theCmd 7 32768 5 4096 1 0).arg2 40 38 = 0
      ∧ (theCmd 7 32768 5 4096 1 0).arg2 % 4096 = 0
      ∧ 1 ≤ (theCmd 7 32768 5 4096 1 0).arg3 % 2 ^ 16
      ∧ (theCmd 7 32768 5 4096 1 0).arg3 % 2 ^ 16 ≤ 1024
      ∧ (theCmd 7 32768 5 4096 1 0).arg3 < 2 ^ 17
      ∧ (theCmd 7 32768 5 4096 1 0).arg4 = 0
      ∧ stationPassed (cko 32768 5 4096 1 0 caseCO3) (theCmd 7 32768 5 4096 1 0).arg1 = true)
    ∧ (Takes (cko (2 ^ 64 - 64) 5 4096 1024 0 ready) 63 (theCmd 7 (2 ^ 64 - 64) 5 4096 1024 0)
      ∧ (theCmd 7 (2 ^ 64 - 64) 5 4096 1024 0).opcode = 7
      ∧ (theCmd 7 (2 ^ 64 - 64) 5 4096 1024 0).arg0 % 64 = 0
      ∧ (theCmd 7 (2 ^ 64 - 64) 5 4096 1024 0).arg1 < 2 ^ 48
      ∧ bits (theCmd 7 (2 ^ 64 - 64) 5 4096 1024 0).arg2 40 38 = 0
      ∧ (theCmd 7 (2 ^ 64 - 64) 5 4096 1024 0).arg2 % 4096 = 0
      ∧ 1 ≤ (theCmd 7 (2 ^ 64 - 64) 5 4096 1024 0).arg3 % 2 ^ 16
      ∧ (theCmd 7 (2 ^ 64 - 64) 5 4096 1024 0).arg3 % 2 ^ 16 ≤ 1024
      ∧ (theCmd 7 (2 ^ 64 - 64) 5 4096 1024 0).arg3 < 2 ^ 17
      ∧ (theCmd 7 (2 ^ 64 - 64) 5 4096 1024 0).arg4 = 0
      ∧ stationPassed (cko (2 ^ 64 - 64) 5 4096 1024 0 ready) (theCmd 7 (2 ^ 64 - 64) 5 4096 1024 0).arg1 = false
      ∧ hostReadFails (cko (2 ^ 64 - 64) 5 4096 1024 0 ready) (theCmd 7 (2 ^ 64 - 64) 5 4096 1024 0).arg0 (16 * ((theCmd 7 (2 ^ 64 - 64) 5 4096 1024 0).arg3 % 2 ^ 16)) = true)
    ∧ (Takes (cko 32768 5 4096 65537 0 ready) 63 (theCmd 7 32768 5 4096 65537 0)
      ∧ (theCmd 7 32768 5 4096 65537 0).opcode = 7
      ∧ (theCmd 7 32768 5 4096 65537 0).arg0 % 64 = 0
      ∧ (theCmd 7 32768 5 4096 65537 0).arg1 < 2 ^ 48
      ∧ bits (theCmd 7 32768 5 4096 65537 0).arg2 40 38 = 0
      ∧ (theCmd 7 32768 5 4096 65537 0).arg2 % 4096 = 0
      ∧ 1 ≤ (theCmd 7 32768 5 4096 65537 0).arg3 % 2 ^ 16
      ∧ (theCmd 7 32768 5 4096 65537 0).arg3 % 2 ^ 16 ≤ 1024
      ∧ (theCmd 7 32768 5 4096 65537 0).arg3 < 2 ^ 17
      ∧ (theCmd 7 32768 5 4096 65537 0).arg4 = 0
      ∧ stationPassed (cko 32768 5 4096 65537 0 ready) (theCmd 7 32768 5 4096 65537 0).arg1 = false
      ∧ hostReadFails (cko 32768 5 4096 65537 0 ready) (theCmd 7 32768 5 4096 65537 0).arg0 (16 * ((theCmd 7 32768 5 4096 65537 0).arg3 % 2 ^ 16)) = false
      ∧ rangesOk (cko 32768 5 4096 65537 0 ready) (rangeList ((cko 32768 5 4096 65537 0 ready).hostMem.readN (theCmd 7 32768 5 4096 65537 0).arg0 (16 * ((theCmd 7 32768 5 4096 65537 0).arg3 % 2 ^ 16))) ((theCmd 7 32768 5 4096 65537 0).arg3 % 2 ^ 16)) = true
      ∧ (bit (theCmd 7 32768 5 4096 65537 0).arg3 16 = false ∨ (cko 32768 5 4096 65537 0 ready).job.run = none)
      ∧ coreLost (cko 32768 5 4096 65537 0 ready) [(0x1000, 0x1000)] true = false)
    ∧ (Takes (cko 32768 5 4096 1 0 caseCO0) 63 (theCmd 7 32768 5 4096 1 0)
      ∧ stationPassed (cko 32768 5 4096 1 0 caseCO0) 5 = false
      ∧ hostReadFails (cko 32768 5 4096 1 0 caseCO0) 32768 16 = false
      ∧ rangesOk (cko 32768 5 4096 1 0 caseCO0) (rangeList ((cko 32768 5 4096 1 0 caseCO0).hostMem.readN 32768 16) 1) = true
      ∧ coreLost (cko 32768 5 4096 1 0 caseCO0) (rangeList ((cko 32768 5 4096 1 0 caseCO0).hostMem.readN 32768 16) 1) false = true)
    ∧ (ckptOf (ckS 0 true false) 0 = some (ck 0 true)
      ∧ (ck 0 true).phase = 0
      ∧ ckptTurn (ckS 0 true false) = true
      ∧ (ck 0 true).station = runStation (ckS 0 true false)
      ∧ (ck 0 true).image = true
      ∧ stationClosed (ckS 0 true false) (ck 0 true).station = false)
    ∧ (ckptOf (ckS 0 true true) 0 = some (ck 0 true)
      ∧ ckptTurn (ckS 0 true true) = true
      ∧ (ck 0 true).station = runStation (ckS 0 true true)
      ∧ ((ck 0 true).image = false ∨ stationClosed (ckS 0 true true) (ck 0 true).station = true)
      ∧ rangesOk (ckS 0 true true) (ck 0 true).list = true
      ∧ coreLost (ckS 0 true true) (ck 0 true).list true = false)
    ∧ (ckptOf (lostCore (ckS 0 true true)) 0 = some (ck 0 true)
      ∧ ckptTurn (lostCore (ckS 0 true true)) = true
      ∧ (ck 0 true).station = runStation (lostCore (ckS 0 true true))
      ∧ stationClosed (lostCore (ckS 0 true true)) (ck 0 true).station = true
      ∧ rangesOk (lostCore (ckS 0 true true)) (ck 0 true).list = true
      ∧ coreLost (lostCore (ckS 0 true true)) (ck 0 true).list true = true)
    ∧ (ckptOf (ckS 3 false false) 0 = some (ck 3 false)
      ∧ 6 ≠ 0)
    ∧ (ckptOf (ckS 7 false false) 0 = some (ck 7 false)
      ∧ (ck 7 false).phase = 7)
    ∧ (Takes (fills 4096 9 1 0 caseFI1) 63 (theCmd 8 4096 9 1 0 0)
      ∧ (theCmd 8 4096 9 1 0 0).opcode = 8
      ∧ ((fills 4096 9 1 0 caseFI1).dev ≠ Dev.ready ∨ (fills 4096 9 1 0 caseFI1).mem.fill ≠ none))
    ∧ (Takes (fills 4097 9 1 0 ready) 63 (theCmd 8 4097 9 1 0 0)
      ∧ (theCmd 8 4097 9 1 0 0).opcode = 8
      ∧ (fills 4097 9 1 0 ready).dev = Dev.ready
      ∧ (fills 4097 9 1 0 ready).mem.fill = none
      ∧ (bits (theCmd 8 4097 9 1 0 0).arg0 40 38 ≠ 0 ∨ (theCmd 8 4097 9 1 0 0).arg0 % 4096 ≠ 0 ∨ 2 ^ 32 ≤ (theCmd 8 4097 9 1 0 0).arg1 ∨ (theCmd 8 4097 9 1 0 0).arg3 ≠ 0 ∨ (theCmd 8 4097 9 1 0 0).arg4 ≠ 0))
    ∧ (Takes (fills 4096 9 1 0 ready) 63 (theCmd 8 4096 9 1 0 0)
      ∧ (fills 4096 9 1 0 ready).dev = Dev.ready
      ∧ (fills 4096 9 1 0 ready).mem.fill = none
      ∧ bits (theCmd 8 4096 9 1 0 0).arg0 40 38 = 0
      ∧ (theCmd 8 4096 9 1 0 0).arg0 % 4096 = 0
      ∧ (theCmd 8 4096 9 1 0 0).arg1 < 2 ^ 32
      ∧ (theCmd 8 4096 9 1 0 0).arg3 = 0
      ∧ (theCmd 8 4096 9 1 0 0).arg4 = 0
      ∧ regionUp (fills 4096 9 1 0 ready) 0 = true)
    ∧ (Takes (fills 4096 9 1 0 (lostCore ready)) 63 (theCmd 8 4096 9 1 0 0)
      ∧ (lostCore ready).dev = Dev.ready
      ∧ regionUp (fills 4096 9 1 0 (lostCore ready)) 0 = false)
    ∧ ((fillS 7 7 2).mem.fill = some (aFill 7 7 2)
      ∧ (aFill 7 7 2).digest = (aFill 7 7 2).want
      ∧ (aFill 7 7 2).digest = (aFill 7 7 2).hdrDigest)
    ∧ ((fillS 7 8 2).mem.fill = some (aFill 7 8 2)
      ∧ ((aFill 7 8 2).digest ≠ (aFill 7 8 2).want ∨ (aFill 7 8 2).digest ≠ (aFill 7 8 2).hdrDigest))
    ∧ (Takes (bs 0 0 0 ready) 63 (theCmd 9 0 0 0 256 0)
      ∧ (theCmd 9 0 0 0 256 0).opcode = 9
      ∧ ((bs 0 0 0 ready).job.trav = none ∨ (bs 0 0 0 ready).dev ≠ Dev.ready ∨ filledHere (bs 0 0 0 ready) = false))
    ∧ ((bs (2 ^ 32) 0 (2 ^ 25) filled).job.trav = some (trav1 (zeros 16))
      ∧ (bs (2 ^ 32) 0 (2 ^ 25) filled).dev = Dev.ready
      ∧ filledHere (bs (2 ^ 32) 0 (2 ^ 25) filled) = true
      ∧ backsightOk (bs (2 ^ 32) 0 (2 ^ 25) filled) (theCmd 9 (2 ^ 32) 0 (2 ^ 25) 256 0) = false)
    ∧ ((bs (2 ^ 32) 0 (2 ^ 26) filled).job.trav = some (trav1 (zeros 16))
      ∧ (bs (2 ^ 32) 0 (2 ^ 26) filled).dev = Dev.ready
      ∧ filledHere (bs (2 ^ 32) 0 (2 ^ 26) filled) = true
      ∧ backsightOk (bs (2 ^ 32) 0 (2 ^ 26) filled) (theCmd 9 (2 ^ 32) 0 (2 ^ 26) 256 0) = true
      ∧ classUp (bs (2 ^ 32) 0 (2 ^ 26) filled) = true)
    ∧ (Takes (bs (2 ^ 32) 0 (2 ^ 26) (lostCore filled)) 63 (theCmd 9 (2 ^ 32) 0 (2 ^ 26) 256 0)
      ∧ backsightOk (bs (2 ^ 32) 0 (2 ^ 26) (lostCore filled)) (theCmd 9 (2 ^ 32) 0 (2 ^ 26) 256 0) = true
      ∧ classUp (bs (2 ^ 32) 0 (2 ^ 26) (lostCore filled)) = false) := by
  and_intros <;> first | decide +kernel | (constructor <;> decide +kernel)

/-- States and operands that meet the hypotheses of `ParkingAndResets`, clause by clause. -/
theorem witness_ParkingAndResets :
    (Takes (parks 13 caseFI1) 63 (theCmd 13 0 0 0 0 0)
      ∧ (theCmd 13 0 0 0 0 0).opcode = 13
      ∧ ((parks 13 caseFI1).dev = Dev.run ∨ (parks 13 caseFI1).dev = Dev.backsight))
    ∧ (Takes (parks 13 ready) 63 (theCmd 13 0 0 0 0 0)
      ∧ (parks 13 ready).dev ≠ Dev.run
      ∧ (parks 13 ready).dev ≠ Dev.backsight)
    ∧ (parkingS.pwr.parking = true)
    ∧ (Takes (parks 14 ready) 63 (theCmd 14 0 0 0 0 0)
      ∧ (theCmd 14 0 0 0 0 0).opcode = 14
      ∧ (parks 14 ready).dev ≠ Dev.bivouac)
    ∧ (Takes (parks 14 caseUN3) 63 (theCmd 14 0 0 0 0 0)
      ∧ (parks 14 caseUN3).dev = Dev.bivouac
      ∧ (parks 14 caseUN3).pwr.forceMw < (parks 14 caseUN3).pwr.floorMw)
    ∧ (Takes (parks 14 caseUN2) 63 (theCmd 14 0 0 0 0 0)
      ∧ (parks 14 caseUN2).dev = Dev.bivouac
      ∧ (parks 14 caseUN2).pwr.floorMw ≤ (parks 14 caseUN2).pwr.forceMw)
    ∧ (parkedS.dev = Dev.bivouac
      ∧ parkedS.pwr.unparkCmds ≠ []
      ∧ parkedS.job.run = none)
    ∧ (Takes (withCmd caseRR2 12 3 0 0 0 0) 63 (theCmd 12 3 0 0 0 0)
      ∧ (theCmd 12 3 0 0 0 0).opcode = 12
      ∧ (theCmd 12 3 0 0 0 0).arg0 < 4
      ∧ (regionMode (withCmd caseRR2 12 3 0 0 0 0) (theCmd 12 3 0 0 0 0).arg0 = RegionMode.resetting ∨ regionMode (withCmd caseRR2 12 3 0 0 0 0) (theCmd 12 3 0 0 0 0).arg0 = RegionMode.test))
    ∧ (Takes (withCmd (withHbm ready) 12 3 0 0 0 0) 63 (theCmd 12 3 0 0 0 0)
      ∧ regionMode (withCmd (withHbm ready) 12 3 0 0 0 0) (theCmd 12 3 0 0 0 0).arg0 ≠ RegionMode.resetting
      ∧ regionMode (withCmd (withHbm ready) 12 3 0 0 0 0) (theCmd 12 3 0 0 0 0).arg0 ≠ RegionMode.test)
    ∧ (regionMode caseRC2 3 = RegionMode.resetting
      ∧ ((engineOf caseRC2 (2 * 3)).st = 0 ∨ (engineOf caseRC2 (2 * 3 + 1)).st = 0)
      ∧ (regionAt caseRC2 3).cmd = none)
    ∧ (regionMode started 3 = RegionMode.resetting
      ∧ (engineOf started (2 * 3)).st ≠ 0
      ∧ (engineOf started (2 * 3 + 1)).st ≠ 0
      ∧ (regionAt started 3).cmd = some 0)
    ∧ ((engineOf started (2 * 3)).st ≠ 0 ∧ (regionAt started 3).keep = false)
    ∧ (Takes (withCmd caseRB1 17 255 0 0 0 0) 63 (theCmd 17 255 0 0 0 0)
      ∧ (theCmd 17 255 0 0 0 0).opcode = 17
      ∧ physOf (withCmd caseRB1 17 255 0 0 0 0) (theCmd 17 255 0 0 0 0).arg0 = none)
    ∧ (physOf (withCmd caseRB3 17 255 0 0 0 0) (theCmd 17 255 0 0 0 0).arg0 = some 267
      ∧ regionUp (withCmd caseRB3 17 255 0 0 0 0) (267 / 68 : ℕ) = false)
    ∧ (physOf rbRun (theCmd 17 255 0 0 0 0).arg0 = some 267
      ∧ regionUp rbRun (267 / 68 : ℕ) = true
      ∧ runInProgress rbRun = true
      ∧ (blkOf rbRun 267).halted = false)
    ∧ (physOf (withCmd ready 17 255 0 0 0 0) (theCmd 17 255 0 0 0 0).arg0 = some 267
      ∧ regionUp (withCmd ready 17 255 0 0 0 0) (267 / 68 : ℕ) = true
      ∧ (runInProgress (withCmd ready 17 255 0 0 0 0) = false ∨ (blkOf (withCmd ready 17 255 0 0 0 0) 267).halted = true))
    ∧ (List.find? (fun (c : InCmd) => c.opcode == 17 && c.arg0 == 255) caseRBC.host.cmds = some (theCmd 17 255 0 0 0 0)
      ∧ physOf caseRBC 255 = some 267)
    ∧ (Takes (withCmd caseRB3 18 15 0 0 0 0) 63 (theCmd 18 15 0 0 0 0)
      ∧ (theCmd 18 15 0 0 0 0).opcode = 18
      ∧ regionUp (withCmd caseRB3 18 15 0 0 0 0) ((theCmd 18 15 0 0 0 0).arg0 / 4) = false)
    ∧ (Takes (withCmd ready 18 15 0 0 0 0) 63 (theCmd 18 15 0 0 0 0)
      ∧ regionUp (withCmd ready 18 15 0 0 0 0) ((theCmd 18 15 0 0 0 0).arg0 / 4) = true) := by
  and_intros <;> first | decide +kernel | (constructor <;> decide +kernel)

/-- States and operands that meet the hypotheses of `TestModesAndClocks`, clause by clause. -/
theorem witness_TestModesAndClocks :
    (hostWrites caseTM3 false = true
      ∧ bit (BitVec.toNat ((60001 : W64) * (2 : W64) ^ 32 + (1073745665 : W64))) 31 = false)
    ∧ (hostWrites ready false = true
      ∧ bit (BitVec.toNat ((60001 : W64) * (2 : W64) ^ 32 + (2147487489 : W64))) 31 = true
      ∧ testMay ready (bits (BitVec.toNat ((60001 : W64) * (2 : W64) ^ 32 + (2147487489 : W64))) 3 0) (bits (BitVec.toNat ((60001 : W64) * (2 : W64) ^ 32 + (2147487489 : W64))) 63 32) = false)
    ∧ (bit (BitVec.toNat ((60000 : W64) * (2 : W64) ^ 32 + (2147487489 : W64))) 31 = true
      ∧ testMay ready (bits (BitVec.toNat ((60000 : W64) * (2 : W64) ^ 32 + (2147487489 : W64))) 3 0) (bits (BitVec.toNat ((60000 : W64) * (2 : W64) ^ 32 + (2147487489 : W64))) 63 32) = true)
    ∧ (hostWrites State.reset false = false)
    ∧ (regionMode ready 3 ≠ RegionMode.resetting)
    ∧ (ready.dev = Dev.ready
      ∧ ready.job.tag = 0
      ∧ ready.fab.recovery = true
      ∧ ready.flt.testBusy = false)
    ∧ (caseTM7.flt.testBusy = true
      ∧ (∀ r < 4, regionMode caseTM7 r ≠ RegionMode.test))
    ∧ (testing.flt.testBusy = true
      ∧ regionMode testing oneFind.region = RegionMode.test)
    ∧ (clocked.dev ≠ Dev.off
      ∧ (meas 1600 true).aonStopped = true)
    ∧ (caseCM2.dev ≠ Dev.off
      ∧ (meas (pointMhz 2) false).aonStopped = false
      ∧ (∀ r < 4, clockLost caseCM2 (meas (pointMhz 2) false) r = false)
      ∧ offTarget (meas (pointMhz 2) false).pcieRef 10000 = false
      ∧ offTarget (meas (pointMhz 2) false).fabRef 15625 = false)
    ∧ ((m2 0).aonStopped = false
      ∧ clockLost clocked (m2 0) 3 = true
      ∧ (∀ k < 4, k ≠ 3 → clockLost clocked (m2 0) k = false)
      ∧ (regionMode clocked 3 = RegionMode.up ∨ regionMode clocked 3 = RegionMode.test)
      ∧ offTarget (m2 0).pcieRef 10000 = false
      ∧ offTarget (m2 0).fabRef 15625 = false)
    ∧ ((mf 10000 0).aonStopped = false
      ∧ offTarget (mf 10000 0).fabRef 15625 = true
      ∧ clocked.ring.refLost = false)
    ∧ ((mf 0 15625).aonStopped = false
      ∧ offTarget (mf 0 15625).pcieRef 10000 = true)
    ∧ (regionMode ready 3 ≠ RegionMode.lost
      ∧ regionMode ready 3 ≠ RegionMode.resetting)
    ∧ (ready.dev ≠ Dev.off) := by
  and_intros <;> first | decide +kernel

end Jobs

/-! ### Witnesses for remote memory at the source (O47, O48) -/

namespace Remote

def rRaw (kind flags aop ch : Nat) (loc remote len : Nat) (lenAddr gen peg op0 op1 : Nat) : List Byte :=
  [BitVec.ofNat 8 kind, BitVec.ofNat 8 flags, BitVec.ofNat 8 aop, BitVec.ofNat 8 ch] ++ leBytes 4 loc ++ leBytes 8 remote ++ leBytes 4 len ++ leBytes 4 lenAddr ++ leBytes 2 gen ++ leBytes 2 peg
    ++ leBytes 4 0x6000 ++ leBytes 8 op0 ++ leBytes 8 op1 ++ zeros 16
def remoteAddr : Nat := 7 * 2 ^ 51 + 1023 * 2 ^ 41 + 4096 - 32
def rB : BitVec 256 := bundle 0 0 0 (2 ^ 63 + 63 * 2 ^ 49)
def rS (raw : List Byte) : State := issuing [rB] (withDesc raw)
def rwLoad := rRaw 5 0 0 62 0x1000 remoteAddr 32 0 4095 0 0 0
def rwLoadU := rRaw 5 1 0 62 0x1000 remoteAddr 64 0 4095 0 0 0
def caseRD5u := { rS rwLoadU with job := { (rS rwLoadU).job with strict := true } }
def rwBad := rRaw 5 2 0 62 0x1000 remoteAddr 64 0 4095 0 0 0
def caseRD5v := { rS rwLoad with job := { (rS rwLoad).job with strict := true } }
def rwStore := rRaw 6 0 0 62 0x1000 remoteAddr 32 0 4095 0 0 0
def op0 : RemOp := { id := 4, block := 267, region := 3, kind := 6, desc := 0, serial := 7, loc := 0x1000, len := 32, status := 0x6000, dst := 7, remote := 7 * 2 ^ 51, left := 1 }
def q0 : Req := { pkt := { type := 0x11, base := 1, dst := 7, jobTag := 9, addr := 7 * 2 ^ 51, ch := 192, payload := zeros 32 }, op := 4, idx := 0, serial := 7 }
def remS (o : RemOp) (tr : List (Nat × Req)) : State := let s := rS rwStore
  { s with rmt := { s.rmt with ops := [(4, some o)], serial := 9, track := tr.map fun e => (e.1, some e.2) }, blks := { s.blks with blk := [(267, { withDesc rwStore with tasks := [(0,1)], dma := [{ id := 4, kind := 6, desc := 0, post := 63, segs := [6] }], seg := [(6, { st := .filling, writers := 1 })] })] } }
def flagOp : RemOp := { op0 with hold := .flag, todo := [⟨q0.pkt, 0, 8⟩] }
def stageOp : RemOp := { op0 with hold := .stage, kind := 11, serial := 8 }
def doneOp : RemOp := { op0 with last := true, peg := 16383 + 16384 * (1023 * 8192 + 7) + 1, todo := [] }
def doneG : Grant := ⟨4095, 0, 64, 64⟩
def doneS : State := let s := remS doneOp []; { s with rmt := { s.rmt with grants := [(doneOp.peg - 1, some doneG)] } }
def reqS (q : Req) : State := remS op0 [(98304, q)]
def caseRP4 := { q0 with wait := .delay }
def caseRP4b := { q0 with wait := .delay, resumeAt := 1 }
def caseRP4c := { q0 with wait := .order }
def caseRP5b := { reqS q0 with mem := { ready.mem with fence := [(7, { fenced := true, epoch := 1 })] } }
def caseRP6 := { reqS q0 with aon := 9, rmt := { (reqS q0).rmt with quar := [(131071, 10)] } }
def caseRP6b := { reqS q0 with aon := 8, rmt := { (reqS q0).rmt with quar := [(131071, 10)] } }
def caseRP7 := { reqS q0 with aon := 10000 }
def caseRP7b := { reqS { q0 with tries := 3 } with aon := 10000 }
def caseRP7bb := { q0 with tries := 3 }
def caseRP7c := { reqS q0 with aon := 9999 }
def caseRP8b := { reqS q0 with fab := { (reqS q0).fab with recovery := true } }
def ql : Req := { q0 with pkt := { q0.pkt with type := 0x10, payload := leBytes 8 32 } }
def recS (q : Req) (n : Nat) : State := { reqS q with aon := n, fab := { (reqS q).fab with recovery := true } }
def lostOp : RemOp := { op0 with left := 0, kind := 5, bad := 1, worst := some (0, 0x42) }
def doneOp2 : RemOp := { doneOp with id := 5, serial := 8 }
def doneS2 : State := { doneS with rmt := { doneS.rmt with ops := [(4, some doneOp), (5, some doneOp2)] } }
def twoOps (a : RemOp) : State := let s := remS a [(98304, { q0 with op := 5 })]
  { s with rmt := { s.rmt with ops := [(4, some a), (5, some { op0 with id := 5 })] } }
def caseRP1b := { flagOp with serial := 8 }
/-- An END descriptor of the block, taken before the fence, has its PEG_DONE still to send. -/
def pegDueS : State := let s := remS stageOp []
  { s with rmt := { s.rmt with ops := [(4, some stageOp), (5, some { doneOp with id := 5, serial := 7 })] } }
def orderedS : State := remS op0 [(98304, caseRP4c), (98305, { q0 with serial := 6 })]
/-- What the DMA slot of `rB` reads in a block. -/
def rl (s : State) : SlotReads := match readSlots (blkOf s 267) rB.toNat with | .ok l => l | .error _ => {}
theorem rIssued (s : State) (ht : InTurn s 255 267 rB) (hr : readSlots (blkOf s 267) rB.toNat = .ok (rl s)) : Issued s 255 267 rB s (rl s) :=
  ⟨ht, if_neg (by decide +kernel), hr⟩

/-- States and operands that meet the hypotheses of `RemoteDescriptors`, clause by clause. -/
theorem witness_RemoteDescriptors :
    (Issued caseRD5v 255 267 rB caseRD5v (rl caseRD5v)
      ∧ slotValid rB.toNat 3 = true
      ∧ field (rl caseRD5v).dma 0 1 = 5
      ∧ caseRD5v.job.strict = true
      ∧ (rdesc (rl caseRD5v).dma).orderFree = true)
    ∧ (Issued caseRD5u 255 267 rB caseRD5u (rl caseRD5u)
      ∧ (caseRD5u.job.strict = false ∨ (rdesc (rl caseRD5u).dma).orderFree = false)
      ∧ bit (rdesc (rl caseRD5u).dma).flags 4 = false
      ∧ firstFault (writeFault (blkOf caseRD5u 267)) (remoteDst (rdesc (rl caseRD5u).dma)) = none)
    ∧ (Issued (rS rwStore) 255 267 rB (rS rwStore) (rl (rS rwStore))
      ∧ field (rl (rS rwStore)).dma 0 1 = 6
      ∧ (rdesc (rl (rS rwStore)).dma).flags = 0
      ∧ firstFault (writeFault (blkOf (rS rwStore) 267)) (remoteDst (rdesc (rl (rS rwStore)).dma)) = none
      ∧ firstFault (readFault (blkOf ((rS rwStore).modBlk 267 (modSegs (remoteDst (rdesc (rl (rS rwStore)).dma)) SegSt.hold)) 267)) (segsOf 0x1000 32) = none)
    ∧ (Issued (rS rwLoad) 255 267 rB (rS rwLoad) (rl (rS rwLoad))
      ∧ 5 = 5
      ∧ bit (rdesc (rl (rS rwLoad)).dma).flags 7 = false
      ∧ bit (rdesc (rl (rS rwLoad)).dma).flags 2 = false
      ∧ 1 ≤ (rdesc (rl (rS rwLoad)).dma).len
      ∧ (rdesc (rl (rS rwLoad)).dma).remote % 4096 + (rdesc (rl (rS rwLoad)).dma).len ≤ 4096
      ∧ freeTag (rS rwLoad) (255 / 64) = some 98304
      ∧ (rS rwLoad).fab.number ≠ some (addrDevice (rdesc (rl (rS rwLoad)).dma).remote)
      ∧ chanKey (addrDevice (rdesc (rl (rS rwLoad)).dma).remote) (64 * (255 / 64) + (rdesc (rl (rS rwLoad)).dma).ch) ∉ (rS rwLoad).rmt.full)
    ∧ (InTurn (rS rwBad) 255 267 rB
      ∧ slotValid rB.toNat 0 = false
      ∧ slotValid rB.toNat 1 = false
      ∧ slotValid rB.toNat 2 = false
      ∧ bits (slotWord rB.toNat 3) 48 0 = 0
      ∧ readDesc (blkOf (rS rwBad) 267) 2 (bits (slotWord rB.toNat 3) 62 55) = Except.ok rwBad
      ∧ field rwBad 0 1 = 5
      ∧ rdescOk rwBad = false)
    ∧ ((4095, 0, 1) ∈ pieces 4095 8194)
    ∧ ((rdesc rwLoad).kind = 5
      ∧ bit (rdesc rwLoad).flags 0 = false) := by
  and_intros <;> first
    | decide +kernel
    | exact rIssued _ (by constructor <;> decide +kernel) (by decide +kernel)
    | (constructor <;> decide +kernel)

/-- States and operands that meet the hypotheses of `RemoteProgress`, clause by clause. -/
theorem witness_RemoteProgress :
    (opOf (remS flagOp []) 4 = some flagOp
      ∧ flagOp.hold = OpHold.flag
      ∧ (earlier (remS flagOp []) flagOp.serial fun (x : ℕ) (p : Packet) => p.dst == flagOp.dst && (p.type == 17 || p.type == 19)) = false)
    ∧ (opOf (twoOps caseRP1b) 4 = some caseRP1b
      ∧ caseRP1b.hold = OpHold.flag
      ∧ (earlier (twoOps caseRP1b) caseRP1b.serial fun (x : ℕ) (p : Packet) => p.dst == caseRP1b.dst && (p.type == 17 || p.type == 19)) = true)
    ∧ (opOf (remS stageOp []) 4 = some stageOp
      ∧ stageOp.hold = OpHold.stage
      ∧ ((earlier (remS stageOp []) stageOp.serial fun (b : ℕ) (p : Packet) => b == stageOp.block && (stageOp.all || p.dst == stageOp.dst)) || pegDoneDue (remS stageOp []) stageOp) = false)
    ∧ (opOf (twoOps stageOp) 4 = some stageOp
      ∧ (earlier (twoOps stageOp) stageOp.serial fun (b : ℕ) (p : Packet) => b == stageOp.block && (stageOp.all || p.dst == stageOp.dst)) = true)
    ∧ (opOf pegDueS 4 = some stageOp
      ∧ pegDoneDue pegDueS stageOp = true)
    ∧ (opOf doneS2 4 = some doneOp
      ∧ doneOp.last = true
      ∧ doneOp.doneSent = false
      ∧ packetsFinal doneOp = true
      ∧ (pegOps doneS2 doneOp.peg fun (x : RemOp) => x.last && !x.doneSent && decide (doneOp.serial < x.serial)) = true)
    ∧ (opOf doneS 4 = some doneOp
      ∧ doneOp.id = 4
      ∧ (pegOps doneS doneOp.peg fun (x : RemOp) => x.last && !x.doneSent && decide (doneOp.serial < x.serial)) = false
      ∧ (pegOps doneS doneOp.peg fun (x : RemOp) => !packetsFinal x) = false
      ∧ doneS.rmt.grants.get none (doneOp.peg - 1) = some doneG
      ∧ freeTag doneS doneOp.region = some 98304)
    ∧ (reqOf (reqS caseRP4) 98304 = some caseRP4
      ∧ caseRP4.wait = Wait.delay
      ∧ caseRP4.resumeAt ≤ (reqS caseRP4).aon)
    ∧ (reqOf (reqS caseRP4b) 98304 = some caseRP4b
      ∧ caseRP4b.wait = Wait.delay
      ∧ (reqS caseRP4b).aon < caseRP4b.resumeAt)
    ∧ (reqOf (reqS caseRP4c) 98304 = some caseRP4c
      ∧ caseRP4c.wait = Wait.order
      ∧ (∀ e ∈ (reqS caseRP4c).rmt.track, ∀ (x : Req), e.2 = some x → caseRP4c.serial ≤ x.serial)
      ∧ (∀ e ∈ (reqS caseRP4c).rmt.ops, ∀ (x : RemOp), e.2 = some x → x.todo = []))
    ∧ (reqOf orderedS 98304 = some caseRP4c
      ∧ reqOf orderedS 98305 = some { q0 with serial := 6 }
      ∧ 6 < caseRP4c.serial
      ∧ q0.pkt.type ≠ 0x14
      ∧ q0.pkt.type ≠ 0x15)
    ∧ (reqOf (reqS q0) 98304 = some q0
      ∧ isFenced (reqS q0) q0.pkt.dst = false)
    ∧ (reqOf caseRP5b 98304 = some q0
      ∧ isFenced caseRP5b q0.pkt.dst = true)
    ∧ (caseRP6.rmt.quar.get 0 131071 ≠ 0
      ∧ caseRP6.rmt.quar.get 0 131071 ≤ caseRP6.aon + 1)
    ∧ (caseRP6b.aon + 1 < caseRP6b.rmt.quar.get 0 131071)
    ∧ (reqOf caseRP7 98304 = some q0
      ∧ isFenced caseRP7 q0.pkt.dst = false
      ∧ q0.wait = Wait.reply
      ∧ orderEnded caseRP7 q0 = false
      ∧ q0.sentAt + 50 * caseRP7.rmt.timers.e2e ≤ caseRP7.aon
      ∧ q0.tries < caseRP7.rmt.timers.retries)
    ∧ (reqOf caseRP7b 98304 = some caseRP7bb
      ∧ isFenced caseRP7b caseRP7bb.pkt.dst = false
      ∧ caseRP7bb.wait = Wait.reply
      ∧ orderEnded caseRP7b caseRP7bb = false
      ∧ caseRP7bb.sentAt + 50 * caseRP7b.rmt.timers.e2e ≤ caseRP7b.aon
      ∧ caseRP7b.rmt.timers.retries ≤ caseRP7bb.tries)
    ∧ (reqOf caseRP7c 98304 = some q0
      ∧ isFenced caseRP7c q0.pkt.dst = false
      ∧ orderEnded caseRP7c q0 = false
      ∧ caseRP7c.aon < q0.sentAt + 50 * caseRP7c.rmt.timers.e2e)
    ∧ (q0.col = false
      ∧ isFillRead (reqS q0) q0 = false
      ∧ (reqS q0).fab.recovery = false)
    ∧ (reqOf (recS ql 0) 98304 = some ql
      ∧ ql.col = false
      ∧ isFillRead (recS ql 0) ql = false
      ∧ (recS ql 0).fab.recovery = true
      ∧ ql.pkt.type = 16)
    ∧ (reqOf caseRP8b 98304 = some q0
      ∧ isFillRead caseRP8b q0 = false
      ∧ caseRP8b.fab.recovery = true
      ∧ q0.pkt.type ≠ 16)
    ∧ (reqOf (recS ql 5000) 98304 = some ql
      ∧ (recS ql 5000).fab.recovery = true
      ∧ isFillRead (recS ql 5000) ql = false
      ∧ ql.firstAt + 50 * (recS ql 5000).rmt.timers.dead ≤ (recS ql 5000).aon)
    ∧ (opOf (remS lostOp []) 4 = some lostOp
      ∧ opDone lostOp = true
      ∧ lostOp.block < 272)
    ∧ (opOf (remS op0 []) 4 = some op0
      ∧ opDone op0 = false)
    ∧ (List.find? (fun (o : DmaOp) => o.id == 4) (blkOf (remS op0 []) 267).dma = some { id := 4, kind := 6, desc := 0, post := 63, segs := [6] : DmaOp }) := by
  and_intros <;> first | decide +kernel

end Remote

/-! ### Witnesses for remote memory at the target, collectives and the fabric (O49 to O60) -/

namespace Fabric

/-- Window 1023 is 8 KB of HBM in region 3, OPEN in generation 4095; window 5 is scratchpad of logical block 255 in generation 0; window 6 is CLOSING. -/
def tS : State := let s := withHbm ready
  { s with job := { s.job with tag := 9 }, fab := { s.fab with number := some 7, recovery := false }
           rmt := { s.rmt with win := [(5, { st := 1, entry := { kind := 2, flags := 1, block := 255, base := 0x2000, size := 8192 } }),
             (6, { st := 2, gen := 1, closeAt := 100, entry := { kind := 1, flags := 3, size := 64 } }),
             (1023, { st := 1, gen := 4095, entry := { kind := 1, flags := 7, base := 3 * 2 ^ 38 + 4096, size := 8192 } })] }
           blks := { s.blks with blk := [(267, { seg := (List.range 16).map fun i => (i, { st := .owned }) })] } }
/-- A request from device 8191 to window w at offset off. -/
def rq (type w off gen seq : Nat) (pl : List Byte) (ch : Nat := 255) : Carried :=
  { pkt := { type := type, base := 1, src := 8191, dst := 7, jobTag := 9, addr := 7 * 2 ^ 51 + w * 2 ^ 41 + off, tag := 131071, gen := gen, seq := seq, ch := ch, payload := pl } }
def at' (c : Carried) (s : State) : State := { s with fab := { s.fab with reqIn := [c] } }
def cLoad := rq 0x10 1023 4096 4095 0 (leBytes 8 4096)
def cStore := rq 0x11 1023 8160 4095 0 (List.replicate 32 7)
def cAtom (op w a b : Nat) := rq 0x13 1023 8184 4095 0 ([BitVec.ofNat 8 (op + 16 * w)] ++ zeros 7 ++ leBytes 8 a ++ leBytes 8 b)
def cNotice := rq 0x16 1023 0 4095 0 (leBytes 8 64)
def cFence := rq 0x17 0 0 4095 0 []
def cBad := rq 0x10 1023 4096 4095 0 (leBytes 8 4097)
def caseTR1u := { at' cLoad tS with flt := { tS.flt with region := [(3, { mode := .lost })] } }
def caseTR1c := { at' cLoad tS with job := { tS.job with tag := 10 } }
def ctxS (n : Nat) : State := { tS with rmt := { tS.rmt with ctx := [(256 * 8191 + 255, n + 1)] } }
def wide (c : Carried) (n : Nat) : Carried := { c with pkt := { c.pkt with seq := n } }
def recS' (n : Nat) : State := { ctxS n with rmt := { (ctxS n).rmt with receipts := [(3, [⟨8191, 131071, 4095, 0, 77, 1000⟩])] } }
def caseTR5 := { tS with aon := 100 }
def caseTR5b := { tS with aon := 99 }
def thePeg : Peg := { out := true, window := 5, block := 267, sp := 0x3000, bytes := 4096, ctr := 63 }
def pegS (p : Peg) : State := { tS with rmt := { tS.rmt with peg := [(16383, p)] }, blks := { tS.blks with blk := [(267, { seg := [(3, { st := .lent })] })] } }
def cClaim := rq 0x14 5 0 0 0 (leBytes 8 16383)
def cDone := rq 0x15 5 0 0 0 (leBytes 4 16383 ++ leBytes 4 0)
def casePC1c := { at' cClaim (pegS thePeg) with dev := .bivouac }
def otherClaim : Peg := { claim := some { src := 0, gen := 0, window := 5, tag := 1, seq := 0, ch := 0 } }
def ended' : Peg := { done := some (8191, 1, 0) }
def casePC2c := { thePeg with grant := some 8191 }
def casePC2i := { thePeg with grant := some 8191, landed := 64 }
def fullReceipts : State := { tS with rmt := { tS.rmt with receipts := [(3, List.replicate 8192 ⟨0, 131071, 0, 0, 0, 1000⟩)] } }
def opA : RemOp := { id := 4, block := 267, region := 3, kind := 5, desc := 0, serial := 7, loc := 0x1000, len := 64, status := 0x6000, dst := 8191, remote := 8191 * 2 ^ 51, left := 1, fetch := true }
def qLoad : Req := { pkt := { type := 0x10, base := 1, src := 7, dst := 8191, jobTag := 9, addr := 8191 * 2 ^ 51, tag := 131071, gen := 5, seq := 2^24-1, ch := 192, payload := leBytes 8 64 }, op := 4, idx := 0, serial := 7 }
def qS (q : Req) : State := { tS with
   rmt := { tS.rmt with ops := [(4, some opA)], serial := 9, track := [(131071, some q)] },
   blks := { tS.blks with blk := [(267, { tasks := [(0,1)], dma := [{ id := 4, kind := 6, desc := 0, post := 63, segs := [1] }], seg := [(1, { st := .filling, writers := 1 }), (6, { st := .filling, writers := 1 })] })] } }
def rsp (type : Nat) (pl : List Byte) : Carried := { pkt := { type := type, base := 2, src := 8191, dst := 7, jobTag := 9, tag := 131071, gen := 5, seq := 2^24-1, ch := 192, payload := pl } }
def rin (c : Carried) (s : State) : State := { s with fab := { s.fab with rspIn := [c] } }
def rLoad := rsp 0x30 (List.replicate 64 5)
def rPois := rsp 0x30 (List.replicate 64 255)
/-- The management core reads a copy, and a poisoned line comes. -/
def fillS : State := let s := rin rPois (qS qLoad); { s with rmt := { s.rmt with ops := [(4, some { opA with block := mgmtCore })] } }
def qCach : Req := { qLoad with pkt := { qLoad.pkt with payload := leBytes 8 (64 + 8192) } }
def qStore : Req := { qLoad with pkt := { qLoad.pkt with type := 0x11, payload := zeros 64 } }
def qAt : Req := { qLoad with pkt := { qLoad.pkt with type := 0x13, payload := zeros 24 } }
def rAt := rsp 0x32 (leBytes 8 0 ++ leBytes 8 77)
def qClaim : Req := { qLoad with pkt := { qLoad.pkt with type := 0x14, payload := leBytes 8 16383 } }
def rGr (n : Nat) := rsp 0x33 (leBytes 2 n ++ leBytes 2 0 ++ leBytes 2 4095 ++ zeros 2 ++ leBytes 4 0 ++ leBytes 4 4096)
def caseR4c := { qClaim with col := true }
def qStP : Req := { qStore with pkt := { qStore.pkt with payload := leBytes 2 16383 ++ zeros 62 } }
def caseR5b := { qS qAt with job := { tS.job with tag := 10 } }
def caseR5c := { qAt with pkt := { qAt.pkt with seq := 0 } }
def caseR7 := { qS qStore with rmt := { (qS qStore).rmt with full := [chanKey 8191 192] } }
/-- A collective table of one descriptor. -/
def colRaw (op alg : Nat) (eng p rank l src dst chunk : Nat) (n : Nat := 2) : List Byte :=
  [BitVec.ofNat 8 op, BitVec.ofNat 8 alg, 0, BitVec.ofNat 8 eng] ++ leBytes 2 p ++ leBytes 2 rank ++ leBytes 2 l ++ leBytes 2 0 ++ leBytes 2 src ++ leBytes 2 dst ++ leBytes 8 0 ++ leBytes 8 0
   ++ leBytes 8 0 ++ leBytes 4 chunk ++ leBytes 2 16000 ++ leBytes 2 64 ++ leBytes 4 144 ++ leBytes 4 (if op = 2 then 160 else 0) ++ leBytes 4 0 ++ leBytes 4 (255 * 2 ^ 23 + 0x10000) ++ [255, 0, 255, 5] ++ leBytes 4 0 ++ zeros 56
def colTab (raw : List Byte) : List Byte := leBytes 4 1 ++ zeros 12 ++ raw ++ leBytes 2 7 ++ leBytes 2 8191 ++ zeros 12 ++ zeros 32
def colS (raw : List Byte) : State := let s := issuing [] {}
  { s with
    rmt := tS.rmt, fab := { s.fab with number := some 7 },
    job := { s.job with
              trav := some { classBlocks := [64, 64, 64, 64], classFrames := [0, 0, 0, 0], streams := [], legs := [{ closed := true, parts := ⟨[], [], colTab raw, [], []⟩ }] } },
    blks := { s.blks with blk := [(267, { seg := (List.range 32).map fun i => (i, { st := .owned }) })] } }
def rA (op : Nat) := colRaw op 0 3 2 0 0 1023 5 4096
def caseC1l := { colS (colRaw 1 0 3 2 0 0 6 5 4096) with flt := { (colS (rA 1)).flt with region := [(0, { mode := .lost })] } }
/-- A descriptor in progress with slots. -/
def snd (st : Nat) (needs : List Nat) : SendSlot := { dev := 8191, peg := 16383, win := 5, off := 0, size := 4096, srcWin := 1023, srcOff := 0, land := 1, needs := needs, st := st, tag := 131071 }
def cop (st : Nat) (needs : List Nat) (rst : Nat) : ColOp := { id := 2, engine := 3, desc := 0, raw := rA 1, sends := [snd st needs], recvs := [{ k := 0, peg := 16000, win := 5, off := 0, size := 4096, st := rst }] }
def cq : Req := { pkt := { type := 0x14, base := 1, src := 7, dst := 8191, jobTag := 9, addr := 8191 * 2 ^ 51 + 5 * 2 ^ 41, tag := 131071, gen := 0, seq := 0, ch := 192, payload := leBytes 8 16383 }, op := 2, idx := 0, serial := 7, col := true, wait := .granted }
def sndS (o : ColOp) (q : Req) (aon : Nat) : State := let s := colS (rA 1)
  { s with
    aon := aon, col := { s.col with ops := [o], nextId := 3 }, rmt := { s.rmt with track := [(131071, some q)] } }
def caseC3r := { cq with tries := 3 }
def cPkt (off n total gen : Nat) : Carried := { pkt := { type := 0x40, base := 5, src := 8191, dst := 7, jobTag := 9, addr := 7 * 2 ^ 51 + 5 * 2 ^ 41 + off, tag := 131071, gen := gen, seq := (16383 + total * 2 ^ 14) % 2 ^ 24, ch := total / 2 ^ 10, payload := List.replicate n 5 } }
def cPeg : Peg := { thePeg with grant := some 8191, tag := 131071, bytes := 8192 }
def cInS (p : Peg) (c : Carried) : State := { pegS p with fab := { tS.fab with colIn := [c] } }
def caseC5b := { cPeg with pieces := [0] }
def caseC5d := { cInS cPeg (cPkt 0x1000 4096 128 0x3000) with job := { tS.job with tag := 10 } }
def deadO : ColOp := { cop 4 [] 0 with quietAt := some 5 }
def deadC : State := { sndS deadO cq 5005 with fab := { (sndS deadO cq 0).fab with recovery := true } }
/-- Port 15 has ACTIVE positions of line 33 in both directions, on a service lane to device 40, whose peer is ACTIVE; device 7 in group 0. -/
def lane (st : PosState) : PosSt := { st := st, line := 33, service := true, margin := true, peer := some (40, 3) }
def fS : State := let s := withHbm ready
  { s with
    fab := { s.fab with number := some 7, epoch := 65535, peer := [(543, { st := 3 })] }, job := { s.job with tag := 9 },
    oe := { s.oe with pos := [(68 * 15 + 33, lane .active), (68 * 15 + 34 + 33, lane .active)] } }
def goodFlit (seq ack ctrl buf units : Nat) := flitBytes seq ack ctrl buf units (zeros 244)
def lnk (l : Link) : State := { fS with fab := { fS.fab with link := [(543, l)] } }
def caseLP3 := { lnk { store := [[]], sent := 1, ackAt := 5 } with aon := 205 }
def caseLP3b := { lnk { store := [[]], sent := 1, ackAt := 5 } with aon := 204 }
def caseLP3c := { lnk { store := [[]], sent := 1, downAt := 1, ackAt := 5000000 } with aon := 5000000 }
def aPkt : Packet := { type := 0x11, base := 1, dst := 7, src := 40, epoch := 65535, jobTag := 9, addr := 7 * 2 ^ 51, payload := zeros 9 }
def strm (p : Packet) : List Byte := zeros 8 ++ p.bytes ++ [0]
def caseLP4c := { aPkt with dst := 8192 }
def crd (p : Packet) : Carried := { pkt := p, link := 543, pool := 1, units := 1, region := 3 }
def badM : Packet := { type := 1, dst := 7, payload := [0xFF, 0, 0, 0, 0, 0, 0, 0] }
def caseLP5c := { fS with dev := .bivouac }
def caseLP5cb := { crd aPkt with link := 0 }
def caseLP5d := { crd badM with pkt := { badM with payload := [1, 0, 0, 0, 0, 0, 0, 0] } }
def caseLP5dn := { aPkt with dst := 8 }
def caseLP6b := { aPkt with type := 0x33 }
def caseLP6c := { aPkt with type := 0x40 }
/-- Routes: member 8 by ports 15. -/
def rtS : State := { fS with
  fab := { fS.fab with
    number := some 7, banks := [(0, (zeros 16 ++ (List.range 32).flatMap fun m => leBytes 4 (if m = 8 then 2 ^ 31 + 2 ^ 15 else 0)) ++ zeros 2048)] },
  oe := { fS.oe with pos := [(68 * 15 + 33, { lane .active with peer := some (8, 3) }), (68 * 15 + 34 + 33, { lane .active with peer := some (8, 3) })] } }
def caseLP7b := { aPkt with dst := 9 }
def caseLP7c := { aPkt with dst := 8, hops := 3 }
def qp : Carried := crd { aPkt with dst := 8 }
def fwS : State := lnk { queue := [qp] }
/-- A request waits before the intake. -/
def fullReq : State := { fS with fab := { fS.fab with inWait := [crd aPkt] } }
def fwF : State := lnk { queue := [qp], store := List.replicate 192 [], sent := 192, carry := zeros 240 }
def waitTee : State := { fS with aon := 1000, mem := { fS.mem with role := 1 }, fab := { fS.fab with inWait := [crd aPkt] } }
def caseLP8e := { lnk {} with oe := { fS.oe with pos := [] } }
def caseLP9 := { lnk { queue := [qp], used := [(1, 68)] } with aon := 1000 }
def ep : Carried := crd { aPkt with esc := true }
def cgS (r : Run) (n : Nat) : State := { fS with dev := .run, job := { fS.job with run := some r }, fab := { fS.fab with samples := n } }
def caseLP11b := { aRun with phase := .atStation }
def hb (serial dev : Nat) : List Byte := leBytes 8 serial ++ leBytes 2 dev ++ [3, 33] ++ zeros 16 ++ zeros 40 ++ zeros 4 ++ leBytes 2 0 ++ zeros 24
def frm (code : Nat) (body : List Byte) : Carried := { msg code body with link := 543 }
def hr (p : Peer) (code : Nat) (body : List Byte) : State := { fS with aon := 7000000, fab := { fS.fab with peer := [(543, p)], mgtIn := [frm code body] } }
def rb (nonce : Nat) : List Byte := leBytes 8 5 ++ leBytes 2 40 ++ [3, 33] ++ zeros 4 ++ beBytes 32 nonce ++ zeros 64 ++ leBytes 2 0 ++ zeros 14
def caseLPm := { badM with payload := [1, 0, 0, 0, 0, 0, 0, 0] }
def caseLPm2 := { fS with fab := { fS.fab with mgtIn := List.replicate 64 (crd aPkt) } }
def mq (req kind : Nat) : List Byte := leBytes 4 req ++ [15, 33, BitVec.ofNat 8 kind] ++ zeros 9
def mS (c : Carried) (t : Option RxTest) : State := { fS with fab := { fS.fab with mgtIn := [c] }, oe := { fS.oe with rxTest := if t.isSome then [(543, t)] else [] } }
def caseMB1d := { frm 0x20 (mq 7 1) with link := 0 }
def rxT : RxTest := { device := 40, req := 7, port := 3, line := 33, told := true, eye := 120, rlm := 950 }
/-- A leg's plan uses port 15, line 33. -/
def usedS : State := { mS (frm 0x20 (mq 7 1)) none with
  job := { fS.job with
    run := some aRun, 
    trav := some { classBlocks := [64, 64, 64, 64], classFrames := [0, 0, 0, 0], streams := [], legs := [{ closed := true, parts := ⟨leBytes 4 1 ++ leBytes 4 0 ++ leBytes 4 1 ++ zeros 4 ++ (leBytes 2 7 ++ leBytes 2 40 ++ leBytes 4 0 ++ leBytes 2 1 ++ zeros 6) ++ leBytes 4 (15 + 33 * 16 + 65536), [], [], [], []⟩ }] } } }
def caseMB2b := { rxT with counting := true }
def caseMB2c := { rxT with told := false }
def mr (kind pass : Nat) : List Byte := leBytes 4 7 ++ [15, 33, BitVec.ofNat 8 kind, BitVec.ofNat 8 pass] ++ leBytes 2 120 ++ leBytes 2 950 ++ leBytes 4 10000 ++ zeros 16
def txT : TxTest := { req := 7, start := 5 }
def tS' (b : List Byte) (t : TxTest) : State := { fS with aon := 2500005, fab := { fS.fab with mgtIn := [frm 0x21 b] }, oe := { fS.oe with txTest := [(543, some t)] } }
def caseMB3d := { txT with req := 8 }
def caseMB4b := { tS' [] txT with aon := 2500004 }
def lowS (n : Nat) (need : Option Nat) : State := { fS with aon := 50000000, oe := { fS.oe with pos := [(68 * 15 + 33, lane .active), (68 * 15 + 34 + 33, { lane .active with lowMs := n, need := need })] } }
def bn (port : Nat) : List Byte := leBytes 2 8191 ++ [BitVec.ofNat 8 port, 33] ++ zeros 12
def bS (b : List Byte) : State := { fS with fab := { fS.fab with mgtIn := [frm 0x22 b] } }
def eS (st : Nat) (p : Table PosSt) : State := { fS with oe := { fS.oe with eng := [(7, { st := st })], pos := p, comb := (List.range 34).map fun k => (7 * 34 + k, { lost := decide (st = 3), noTagMs := 9 }) } }
def pT : Pos := ⟨15, .tx, 33⟩
def pR : Pos := ⟨15, .rx, 33⟩
def at1 (k : Pos) (q : PosSt) : State := { eS 2 [(posKey k, q)] with aon := 3000000000 }
def trn (b : Bool) (l : Fin 34) : Training := ⟨b, 41, 3, l, 1⟩
def caseOE9b := { lane .active with since := 1 }
def caseOE10 := { lane .active with fails := 1 }
def caseOE10b := { lane .active with fails := 2 }
def caseOE11b := { at1 pT (lane .dark) with oe := { (eS 3 []).oe with pos := [(posKey pT, lane .dark)] } }
def caseOE14 := { eS 2 [] with aon := 5000000 }
def caseOE14b := { eS 2 [] with aon := 4999999 }
def caseOE15 := { eS 2 ((List.range 68).map fun i => (1020 + i, { st := .dark })) with aon := 50000000 }
def dS (d : D2dDir) : State := { fS with ring := { fS.ring with dir := [(7, d)] } }
def caseDR6c := { dS { silent := true } with flt := { fS.flt with region := [(0, { mode := .lost })] } }
def caseDR7 := { fS with ring := { fS.ring with down := [(3, true)] } }
def caseDR8 := { fS with ring := { fS.ring with meshFails := [(7, 9)] } }
def caseDR8b := { fS with ring := { fS.ring with meshFails := [(6, 9), (7, 8)] } }
def lastOff : BitVec 38 := BitVec.ofNat 38 (2000 * 2^21 - 1)
def hLine : Nat := (physLine fS 3 (2000 * 2^21 - 1)).getD 0
def wcS : State := { fS with hbm := { fS.hbm with wcb := [(lineChannel hLine, [⟨hLine, 1, List.replicate 64 9⟩, ⟨hLine + 1, 2, List.replicate 64 8⟩])] } }
def caseH4 := { fS with flt := { fS.flt with region := [(3, { mode := .lost })] } }
def caseH5 := { fS with hbm := { fS.hbm with scrub := [(255, 2^25-1)] } }
def caseH6b := { fS with hbm := { fS.hbm with chanFailed := [(255, true)] } }
def caseH7 := { fS with aon := 5000, hbm := { fS.hbm with lostAt := [(255, 1)] } }
def caseH7b := { fS with aon := 4999, hbm := { fS.hbm with lostAt := [(255, 1)] } }
def caseH9 := { fS with hbm := { fS.hbm with bad := [(3 * 2^31 + 63 * 2^25 + 2^25 - 1, 4)] } }
def mm (m : Member → Member) : State := { fS with aon := 100, mem := m fS.mem }
def renewing : State := mm fun m => { m with renewAt := 100, lstate := 1, expiry := 100, renewals := (List.range 16).map fun i => (i, i) }
def notYet : State := mm fun m => { m with renewAt := 101, lstate := 1, expiry := 101 }
def gr (req n ms : Nat) : List Byte := leBytes 4 req ++ leBytes 4 n ++ leBytes 2 ms
def gS (b : List Byte) (f : Member → Member) : State := { mm f with fab := { fS.fab with mgtIn := [frm 0x31 b] } }
def lse (m : Member) : Member := { m with lease := 5, lstate := 1, renewals := [(7, 50)], expiry := 60 }
def caseM3 := { fS with dev := .fenced }
def nt (epoch d fl lease : Nat) : List Byte := leBytes 4 epoch ++ leBytes 2 d ++ [BitVec.ofNat 8 fl, 0] ++ leBytes 4 lease
def nS (b : List Byte) (f : Member → Member) : State := { mm f with fab := { fS.fab with mgtIn := [frm 0x32 b] } }
def fnc (m : Member) : Member := { lse m with fence := [(8191, { fenced := true, epoch := 6 })] }
def shd (ps : List Packet) : Shadow := { cmd := 3, partner := 40, need := 1, logAddr := 3 * 2^38 + 0x1000, logLen := 40, log := ps }
def shS (ps : List Packet) : State := { mm fun m => { m with shadow := some (shd ps), teeKnown := true, teePort := 15, teeLine := 33 } with dev := .backsight, rmt := tS.rmt, job := { tS.job with tag := 9 } }
def bd : List Byte := leBytes 6 (2^48-1) ++ zeros 2 ++ leBytes 8 1 ++ leBytes 8 2 ++ leBytes 8 3 ++ leBytes 8 4 ++ leBytes 8 5
def bdS (b : List Byte) (src : Nat) : State := let s := shS []; { s with fab := { s.fab with mgtIn := [{ frm 0x35 b with pkt := { (frm 0x35 b).pkt with src := src } }] } }
def caseM6 := { frm 0x35 bd with pkt := { (frm 0x35 bd).pkt with src := 40 } }
def caseM6b := { frm 0x35 bd with pkt := { (frm 0x35 bd).pkt with src := 41 } }
def caseM6c := { frm 0x35 [] with pkt := { (frm 0x35 []).pkt with src := 41 } }
def tcS (sh : Shadow) (p : Packet) : State := let s := shS []; { s with mem := { s.mem with shadow := some sh }, fab := { s.fab with link := [(543, { stream := p.bytes })] } }
def tp : Packet := { aPkt with payload := zeros 8, addr := 7 * 2^51 + 1023 * 2^41, gen := 4095, src := 41 }
def caseM7b := { shd [] with logLen := 39 }
def mk : Packet := { badM with payload := mgtPayload 0x10 false (leBytes 6 0 ++ zeros 10) }
def caseM8d := { tp with gen := 0 }
def caseM8e := { tp with type := 0x31 }
def caseM8f := { tp with type := 0x40 }
def crd8 : Carried := crd { aPkt with dst := 8 }
def ep8 : Carried := crd { aPkt with dst := 8, esc := true, escTo := 7 }
/-- The escape ring goes on to device 8 by port 15. -/
def ringS : State := { rtS with fab := { rtS.fab with banks := [(0, zeros 4 ++ leBytes 2 8 ++ zeros 10 ++ (List.range 32).flatMap (fun m => leBytes 4 (if m = 8 then 2 ^ 31 + 2 ^ 15 else 0)) ++ zeros 2048)] } }
def staged (used : Nat) : State := { ringS with fab := { ringS.fab with link := [(543, { stage := [ep8], used := [(8, used)] })] } }
def caseLP9i := { staged 0 with oe := { fS.oe with pos := [] } }
def waitS : State := { ringS with fab := { ringS.fab with escWait := [(crd8, none)] } }
def caseLP1n := { fS with oe := { fS.oe with pos := [] } }
def caseLP5k := { aPkt with esc := true }
def caseLP5l := { aPkt with type := 0x40, dst := 8 }
def teeS : State := let s := shS []; { s with fab := { s.fab with link := [(543, { stream := strm aPkt })] } }
def caseDR5n := { dS {} with ring := { fS.ring with down := [(3, true)] } }
def refreshedS : State := let s := eS 2 []; { s with aon := 5, oe := { s.oe with bank := [(15, { refreshed := some 5 })] } }
def lateS : State := { caseOE15 with aon := 49999999 }
def keptD : D2dDir := { txNew := 6, txNext := 6, kept := [[5]], asked := some 5 }
def aCross : Crossing := { held := { pkt := { type := 1, dst := 7, payload := zeros 16 }, link := 0, pool := 0, units := 0, region := 0, since := 4 }, key := 543 }
/-- A packet of region 0 waits to cross to region 3. -/
def crossS : State := let s := dS {}; { s with fab := { s.fab with cross := [aCross] } }
def wireS : State := let s := dS {}; { s with fab := { s.fab with wire := [(7, 0, aCross)] } }
def deadCh : State := { fS with hbm := { fS.hbm with chanFailed := [(lineChannel hLine, true)] } }
def poisS : State := { fS with hbm := { fS.hbm with poison := [(hLine, true)] } }
def lostPeer : State := let s := tcS (shd []) tp; { s with fab := { s.fab with peer := [] } }
def lateCopy : Packet := { tp with dst := 40 }
def endedS : State := let s := tcS (shd []) lateCopy; { s with dev := .ready, mem := { s.mem with shadow := none, ended := true } }
def noShadow : State := let s := tcS (shd []) tp; { s with dev := .ready, mem := { s.mem with shadow := none } }
def otherJob : Packet := { tp with jobTag := 8 }
def oldCol : Packet := { tp with type := 0x40, gen := 4094 }
def earlyCol : Packet := { tp with type := 0x40, addr := 7 * 2 ^ 51 + 5 * 2 ^ 41, gen := 0 }
def caseM5c := { fS with dev := .fault }
def badScrub : State := { fS with hbm := { fS.hbm with scrub := [(255, 2^25-1)], bad := [(3 * 2^31 + 63 * 2^25 + 2^25 - 1, 4)] } }

/-- As many replies wait as the output holds. -/
def busyS : State := { at' cStore tS with
  fab := { (at' cStore tS).fab with
    link := [(543, { queue := List.replicate (Config.replyRoom + 1) { pkt := { type := 0x31, src := 7 }, link := 0, pool := 0, units := 0, region := 3 } })] } }

/-- The first clause of `TargetRequests` has a state for every size of the reply output. -/
theorem witness_TargetRequests_full : busyS.fab.reqIn = [cStore] ∧ (cStore.pkt.type == 0x11) = true ∧ targetRuns busyS = true ∧ busyS.dev ≠ .bivouac
    ∧ heldByCheckpoint busyS cStore.pkt = false ∧ replySlotFree busyS = false := by
  have own : isOwnReply busyS { pkt := { type := 0x31, src := 7 }, link := 0, pool := 0, units := 0, region := 3 } = true := by decide +kernel
  refine ⟨rfl, by decide +kernel, by decide +kernel, by decide +kernel, by decide +kernel, ?_⟩
  have h : repliesWaiting busyS = Config.replyRoom + 1 := by
    have e : busyS.fab.escWait = [] := rfl
    have x : busyS.fab.cross = [] := rfl
    simp only [repliesWaiting, e, x]
    simp [busyS] at own ⊢
    simp [List.filter_replicate, own]
  simp [replySlotFree, h]

/-- States and operands that meet the hypotheses of `TargetRequests`, clause by clause. -/
theorem witness_TargetRequests :
    ((at' cLoad tS).fab.reqIn = [cLoad]
      ∧ (cLoad.pkt.type == 16) = true
      ∧ targetRuns (at' cLoad tS) = true
      ∧ (at' cLoad tS).dev ≠ Dev.bivouac
      ∧ heldByCheckpoint (at' cLoad tS) cLoad.pkt = false
      ∧ replySlotFree (at' cLoad tS) = true
      ∧ payloadOk cLoad.pkt = true
      ∧ cLoad.pkt.jobTag = (at' cLoad tS).job.tag
      ∧ unreachable (at' cLoad tS) cLoad = false)
    ∧ (caseTR1u.fab.reqIn = [cLoad]
      ∧ targetRuns caseTR1u = true
      ∧ caseTR1u.dev ≠ Dev.bivouac
      ∧ heldByCheckpoint caseTR1u cLoad.pkt = false
      ∧ replySlotFree caseTR1u = true
      ∧ cLoad.pkt.jobTag = caseTR1u.job.tag
      ∧ unreachable caseTR1u cLoad = true)
    ∧ ((at' cBad tS).fab.reqIn = [cBad]
      ∧ (cBad.pkt.type == 16) = true
      ∧ targetRuns (at' cBad tS) = true
      ∧ (at' cBad tS).dev ≠ Dev.bivouac
      ∧ heldByCheckpoint (at' cBad tS) cBad.pkt = false
      ∧ replySlotFree (at' cBad tS) = true
      ∧ payloadOk cBad.pkt = false)
    ∧ (caseTR1c.fab.reqIn = [cLoad]
      ∧ targetRuns caseTR1c = true
      ∧ caseTR1c.dev ≠ Dev.bivouac
      ∧ heldByCheckpoint caseTR1c cLoad.pkt = false
      ∧ replySlotFree caseTR1c = true
      ∧ cLoad.pkt.jobTag ≠ caseTR1c.job.tag)
    ∧ ((ctxNext tS cLoad.pkt.src cLoad.pkt.ch = some cLoad.pkt.seq ∨ ctxNext tS cLoad.pkt.src cLoad.pkt.ch = none ∧ cLoad.pkt.seq = 0 ∧ List.length tS.rmt.ctx < 65536)
      ∧ checkRequest tS cLoad.pkt = 0
      ∧ cLoad.pkt.type = 16)
    ∧ ((ctxNext tS cStore.pkt.src cStore.pkt.ch = some cStore.pkt.seq ∨ ctxNext tS cStore.pkt.src cStore.pkt.ch = none ∧ cStore.pkt.seq = 0 ∧ List.length tS.rmt.ctx < 65536)
      ∧ checkRequest tS cStore.pkt = 0
      ∧ cStore.pkt.type ≠ 16
      ∧ cStore.pkt.type ≠ 19)
    ∧ ((ctxNext tS (cAtom 0 1 5 0).pkt.src (cAtom 0 1 5 0).pkt.ch = some (cAtom 0 1 5 0).pkt.seq ∨ ctxNext tS (cAtom 0 1 5 0).pkt.src (cAtom 0 1 5 0).pkt.ch = none ∧ (cAtom 0 1 5 0).pkt.seq = 0 ∧ List.length tS.rmt.ctx < 65536)
      ∧ checkRequest tS (cAtom 0 1 5 0).pkt = 0
      ∧ (cAtom 0 1 5 0).pkt.type = 19
      ∧ (receiptsFor tS (cAtom 0 1 5 0).pkt.tag).length < 8192)
    ∧ ((ctxNext tS (rq 17 1023 0 4094 0 [(1 : Byte)]).pkt.src (rq 17 1023 0 4094 0 [(1 : Byte)]).pkt.ch = some (rq 17 1023 0 4094 0 [(1 : Byte)]).pkt.seq ∨ ctxNext tS (rq 17 1023 0 4094 0 [(1 : Byte)]).pkt.src (rq 17 1023 0 4094 0 [(1 : Byte)]).pkt.ch = none ∧ (rq 17 1023 0 4094 0 [(1 : Byte)]).pkt.seq = 0 ∧ List.length tS.rmt.ctx < 65536)
      ∧ checkRequest tS (rq 17 1023 0 4094 0 [(1 : Byte)]).pkt ≠ 0
      ∧ checkRequest tS (rq 17 1023 0 4094 0 [(1 : Byte)]).pkt ≠ 8
      ∧ (receiptsFor tS (rq 17 1023 0 4094 0 [(1 : Byte)]).pkt.tag).length < 8192)
    ∧ ((ctxNext fullReceipts (rq 17 6 0 0 0 [(1 : Byte)]).pkt.src (rq 17 6 0 0 0 [(1 : Byte)]).pkt.ch = some (rq 17 6 0 0 0 [(1 : Byte)]).pkt.seq ∨ ctxNext fullReceipts (rq 17 6 0 0 0 [(1 : Byte)]).pkt.src (rq 17 6 0 0 0 [(1 : Byte)]).pkt.ch = none ∧ (rq 17 6 0 0 0 [(1 : Byte)]).pkt.seq = 0 ∧ List.length fullReceipts.rmt.ctx < 65536)
      ∧ checkRequest fullReceipts (rq 17 6 0 0 0 [(1 : Byte)]).pkt ≠ 8
      ∧ (checkRequest fullReceipts (rq 17 6 0 0 0 [(1 : Byte)]).pkt ≠ 0 ∨ (rq 17 6 0 0 0 [(1 : Byte)]).pkt.type = 19)
      ∧ ¬(receiptsFor fullReceipts (rq 17 6 0 0 0 [(1 : Byte)]).pkt.tag).length < 8192)
    ∧ ((ctxNext tS (rq 17 6 0 2 0 [(1 : Byte)]).pkt.src (rq 17 6 0 2 0 [(1 : Byte)]).pkt.ch = some (rq 17 6 0 2 0 [(1 : Byte)]).pkt.seq ∨ ctxNext tS (rq 17 6 0 2 0 [(1 : Byte)]).pkt.src (rq 17 6 0 2 0 [(1 : Byte)]).pkt.ch = none ∧ (rq 17 6 0 2 0 [(1 : Byte)]).pkt.seq = 0 ∧ List.length tS.rmt.ctx < 65536)
      ∧ checkRequest tS (rq 17 6 0 2 0 [(1 : Byte)]).pkt = 8)
    ∧ (ctxNext tS (wide cLoad 1).pkt.src (wide cLoad 1).pkt.ch = none
      ∧ (wide cLoad 1).pkt.seq ≠ 0)
    ∧ (ctxNext (ctxS (2 ^ 24 - 1)) (wide cLoad 0).pkt.src (wide cLoad 0).pkt.ch = some (2 ^ 24 - 1)
      ∧ 2 ^ 24 - 1 < 2 ^ 24
      ∧ (wide cLoad 0).pkt.seq < 2 ^ 24
      ∧ 0 < ((wide cLoad 0).pkt.seq + 2 ^ 24 - (2 ^ 24 - 1)) % 2 ^ 24
      ∧ ((wide cLoad 0).pkt.seq + 2 ^ 24 - (2 ^ 24 - 1)) % 2 ^ 24 < 2 ^ 23)
    ∧ (findReceipt (recS' (2 ^ 23)) (wide (cAtom 0 1 5 0) 0).pkt = some { src := 8191, tag := 131071, gen := 4095, outcome := 0, value := 77, expires := 1000 : Receipt })
    ∧ (2 ^ 23 ≤ ((wide (cAtom 0 1 5 0) 0).pkt.seq + 2 ^ 24 - 2 ^ 23) % 2 ^ 24
      ∧ findReceipt (ctxS (2 ^ 23)) (wide (cAtom 0 1 5 0) 0).pkt = none
      ∧ (wide (cAtom 0 1 5 0) 0).pkt.type ≠ 16)
    ∧ (2 ^ 23 ≤ ((wide cLoad 0).pkt.seq + 2 ^ 24 - 2 ^ 23) % 2 ^ 24
      ∧ findReceipt (ctxS (2 ^ 23)) (wide cLoad 0).pkt = none
      ∧ (wide cLoad 0).pkt.type = 16
      ∧ checkRequest (ctxS (2 ^ 23)) (wide cLoad 0).pkt = 0)
    ∧ ((cStore.pkt.type = 17 ∨ cStore.pkt.type = 18)
      ∧ (winOf tS (addrWindow cStore.pkt.addr)).entry.kind = 1)
    ∧ (cNotice.pkt.type = 22)
    ∧ (cFence.pkt.type = 23)
    ∧ ((winOf caseTR5 6).st = 2
      ∧ (winOf caseTR5 6).closeAt ≤ caseTR5.aon)
    ∧ (((winOf caseTR5b 6).st ≠ 2 ∨ caseTR5b.aon < (winOf caseTR5b 6).closeAt)) := by
  and_intros <;> first | decide +kernel

/-- States and operands that meet the hypotheses of `AtomicArithmetic`, clause by clause. -/
theorem witness_AtomicArithmetic :
    ((8 = 4 ∨ 8 = 8)
      ∧ 7 < 2 ^ (8 * 8)) := by
  decide +kernel

/-- States and operands that meet the hypotheses of `PegsAndClaims`, clause by clause. -/
theorem witness_PegsAndClaims :
    ((at' cClaim (pegS thePeg)).fab.reqIn = [cClaim]
      ∧ targetRuns (at' cClaim (pegS thePeg)) = true
      ∧ payloadOk cClaim.pkt = true
      ∧ cClaim.pkt.jobTag = (at' cClaim (pegS thePeg)).job.tag
      ∧ heldByCheckpoint (at' cClaim (pegS thePeg)) cClaim.pkt = false
      ∧ ((at' cClaim (pegS thePeg)).dev = Dev.bivouac ∨ replySlotFree (at' cClaim (pegS thePeg)) = true)
      ∧ cClaim.pkt.type = 20
      ∧ (at' cClaim (pegS thePeg)).dev ≠ Dev.bivouac
      ∧ unreachable (at' cClaim (pegS thePeg)) cClaim = false)
    ∧ (casePC1c.fab.reqIn = [cClaim]
      ∧ targetRuns casePC1c = true
      ∧ cClaim.pkt.jobTag = casePC1c.job.tag
      ∧ heldByCheckpoint casePC1c cClaim.pkt = false
      ∧ (casePC1c.dev = Dev.bivouac ∨ replySlotFree casePC1c = true)
      ∧ casePC1c.dev = Dev.bivouac)
    ∧ ((at' cDone (pegS thePeg)).fab.reqIn = [cDone]
      ∧ targetRuns (at' cDone (pegS thePeg)) = true
      ∧ payloadOk cDone.pkt = true
      ∧ cDone.pkt.jobTag = (at' cDone (pegS thePeg)).job.tag
      ∧ heldByCheckpoint (at' cDone (pegS thePeg)) cDone.pkt = false
      ∧ ((at' cDone (pegS thePeg)).dev = Dev.bivouac ∨ replySlotFree (at' cDone (pegS thePeg)) = true)
      ∧ cDone.pkt.type = 21
      ∧ (at' cDone (pegS thePeg)).dev ≠ Dev.bivouac
      ∧ unreachable (at' cDone (pegS thePeg)) cDone = false)
    ∧ (winLive (pegS thePeg) (addrWindow (rq 20 5 0 1 0 (leBytes 8 16383)).pkt.addr) (rq 20 5 0 1 0 (leBytes 8 16383)).pkt.gen = false)
    ∧ (winLive (pegS thePeg) (addrWindow cClaim.pkt.addr) cClaim.pkt.gen = true
      ∧ (pegOf (pegS thePeg) (field cClaim.pkt.payload 0 2)).out = true
      ∧ (pegOf (pegS thePeg) (field cClaim.pkt.payload 0 2)).window = addrWindow cClaim.pkt.addr
      ∧ ((pegOf (pegS thePeg) (field cClaim.pkt.payload 0 2)).grant = none ∧ (winOf (pegS thePeg) (addrWindow cClaim.pkt.addr)).st = 1 ∨ (pegOf (pegS thePeg) (field cClaim.pkt.payload 0 2)).grant = some cClaim.pkt.src))
    ∧ (winLive (pegS { : Peg }) (addrWindow cClaim.pkt.addr) cClaim.pkt.gen = true
      ∧ ¬((pegOf (pegS { : Peg }) (field cClaim.pkt.payload 0 2)).out = true ∧ (pegOf (pegS { : Peg }) (field cClaim.pkt.payload 0 2)).window = addrWindow cClaim.pkt.addr
          ∧ ((pegOf (pegS { : Peg }) (field cClaim.pkt.payload 0 2)).grant = none ∧ (winOf (pegS { : Peg }) (addrWindow cClaim.pkt.addr)).st = 1
            ∨ (pegOf (pegS { : Peg }) (field cClaim.pkt.payload 0 2)).grant = some cClaim.pkt.src))
      ∧ ((pegOf (pegS { : Peg }) (field cClaim.pkt.payload 0 2)).claim = none ∨ ∃ (x : Claim), (pegOf (pegS { : Peg }) (field cClaim.pkt.payload 0 2)).claim = some x ∧ x.src = cClaim.pkt.src))
    ∧ (¬((pegOf (pegS otherClaim) (field cClaim.pkt.payload 0 2)).out = true ∧ (pegOf (pegS otherClaim) (field cClaim.pkt.payload 0 2)).window = addrWindow cClaim.pkt.addr
          ∧ ((pegOf (pegS otherClaim) (field cClaim.pkt.payload 0 2)).grant = none ∧ (winOf (pegS otherClaim) (addrWindow cClaim.pkt.addr)).st = 1
            ∨ (pegOf (pegS otherClaim) (field cClaim.pkt.payload 0 2)).grant = some cClaim.pkt.src))
      ∧ winLive (pegS otherClaim) (addrWindow cClaim.pkt.addr) cClaim.pkt.gen = true
      ∧ (pegOf (pegS otherClaim) (field cClaim.pkt.payload 0 2)).claim = some { src := 0, gen := 0, window := 5, tag := 1, seq := 0, ch := 0 : Claim }
      ∧ { src := 0, gen := 0, window := 5, tag := 1, seq := 0, ch := 0 : Claim }.src ≠ cClaim.pkt.src)
    ∧ (winLive (pegS casePC2c) (addrWindow cDone.pkt.addr) cDone.pkt.gen = true
      ∧ (pegOf (pegS casePC2c) (field cDone.pkt.payload 0 2)).out = true
      ∧ (pegOf (pegS casePC2c) (field cDone.pkt.payload 0 2)).window = addrWindow cDone.pkt.addr
      ∧ (pegOf (pegS casePC2c) (field cDone.pkt.payload 0 2)).grant = some cDone.pkt.src
      ∧ (pegOf (pegS casePC2c) (field cDone.pkt.payload 0 2)).landed = field cDone.pkt.payload 4 4)
    ∧ (winLive (pegS casePC2i) (addrWindow cDone.pkt.addr) cDone.pkt.gen = true
      ∧ (pegOf (pegS casePC2i) (field cDone.pkt.payload 0 2)).out = true
      ∧ (pegOf (pegS casePC2i) (field cDone.pkt.payload 0 2)).window = addrWindow cDone.pkt.addr
      ∧ (pegOf (pegS casePC2i) (field cDone.pkt.payload 0 2)).grant = some cDone.pkt.src
      ∧ (pegOf (pegS casePC2i) (field cDone.pkt.payload 0 2)).landed ≠ field cDone.pkt.payload 4 4)
    ∧ (winLive (pegS ended') (addrWindow cDone.pkt.addr) cDone.pkt.gen = true
      ∧ ¬((pegOf (pegS ended') (field cDone.pkt.payload 0 2)).out = true ∧ (pegOf (pegS ended') (field cDone.pkt.payload 0 2)).window = addrWindow cDone.pkt.addr
        ∧ (pegOf (pegS ended') (field cDone.pkt.payload 0 2)).grant = some cDone.pkt.src)
      ∧ (pegOf (pegS ended') (field cDone.pkt.payload 0 2)).done = some (cDone.pkt.src, 1, 0))
    ∧ (winLive (pegS { : Peg }) (addrWindow cDone.pkt.addr) cDone.pkt.gen = true
      ∧ ¬((pegOf (pegS { : Peg }) (field cDone.pkt.payload 0 2)).out = true ∧ (pegOf (pegS { : Peg }) (field cDone.pkt.payload 0 2)).window = addrWindow cDone.pkt.addr
        ∧ (pegOf (pegS { : Peg }) (field cDone.pkt.payload 0 2)).grant = some cDone.pkt.src)
      ∧ (pegOf (pegS { : Peg }) (field cDone.pkt.payload 0 2)).done = none)
    ∧ ((winOf (pegS casePC2c) (pegOf (pegS casePC2c) 16383).window).st ≠ 2) := by
  and_intros <;> first | decide +kernel

/-- States and operands that meet the hypotheses of `Replies`, clause by clause. -/
theorem witness_Replies :
    (Reply (rin rLoad (qS qLoad)) 48 rLoad [] 131071
      ∧ reqOf (rin rLoad (qS qLoad)) 131071 = some qLoad
      ∧ opOf (rin rLoad (qS qLoad)) qLoad.op = some opA
      ∧ rLoad.pkt.payload.length = bits (field qLoad.pkt.payload 0 8) 12 0
      ∧ ¬(isFillRead (rin rLoad (qS qLoad)) qLoad = true ∧ poisonedIn [0] rLoad.pkt.payload = true)
      ∧ bit (field qLoad.pkt.payload 0 8) 13 = false)
    ∧ (Reply (rin rLoad (qS qCach)) 48 rLoad [] 131071
      ∧ reqOf (rin rLoad (qS qCach)) 131071 = some qCach
      ∧ opOf (rin rLoad (qS qCach)) qCach.op = some opA
      ∧ rLoad.pkt.payload.length = bits (field qCach.pkt.payload 0 8) 12 0
      ∧ ¬(isFillRead (rin rLoad (qS qCach)) qCach = true ∧ poisonedIn [0] rLoad.pkt.payload = true)
      ∧ bit (field qCach.pkt.payload 0 8) 13 = true
      ∧ (rin rLoad (qS qCach)).fab.number ≠ some qCach.pkt.dst
      ∧ opA.data = [])
    ∧ (Reply fillS 48 rPois [] 131071
      ∧ reqOf fillS 131071 = some qLoad
      ∧ rPois.pkt.payload.length = bits (field qLoad.pkt.payload 0 8) 12 0
      ∧ isFillRead fillS qLoad = true
      ∧ poisonedIn [0] rPois.pkt.payload = true)
    ∧ (Reply (rin (rsp 48 [(5 : Byte)]) (qS qLoad)) 48 (rsp 48 [(5 : Byte)]) [] 131071
      ∧ reqOf (rin (rsp 48 [(5 : Byte)]) (qS qLoad)) 131071 = some qLoad
      ∧ opOf (rin (rsp 48 [(5 : Byte)]) (qS qLoad)) qLoad.op = some opA
      ∧ (rsp 48 [(5 : Byte)]).pkt.payload.length ≠ bits (field qLoad.pkt.payload 0 8) 12 0)
    ∧ (Reply (rin (rsp 49 (leBytes 8 2)) (qS qStore)) 49 (rsp 49 (leBytes 8 2)) [] 131071)
    ∧ (Reply (rin rAt (qS qAt)) 50 rAt [] 131071
      ∧ reqOf (rin rAt (qS qAt)) 131071 = some qAt
      ∧ opOf (rin rAt (qS qAt)) qAt.op = some opA)
    ∧ (Reply (rin (rGr 16383) (qS qClaim)) 51 (rGr 16383) [] 131071
      ∧ reqOf (rin (rGr 16383) (qS qClaim)) 131071 = some qClaim
      ∧ qClaim.pkt.type = 20
      ∧ field (rGr 16383).pkt.payload 0 2 = field qClaim.pkt.payload 0 2
      ∧ qClaim.col = false)
    ∧ (Reply (rin (rGr 16383) (qS caseR4c)) 51 (rGr 16383) [] 131071
      ∧ reqOf (rin (rGr 16383) (qS caseR4c)) 131071 = some caseR4c
      ∧ caseR4c.pkt.type = 20
      ∧ field (rGr 16383).pkt.payload 0 2 = field caseR4c.pkt.payload 0 2
      ∧ caseR4c.col = true)
    ∧ (Reply (rin (rGr 16383) (qS qStP)) 51 (rGr 16383) [] 131071
      ∧ reqOf (rin (rGr 16383) (qS qStP)) 131071 = some qStP
      ∧ qStP.pkt.type ≠ 20)
    ∧ ((51, Instr.pegGrant) ∈ ([(48, Instr.loadData []), (50, Instr.atomicResult), (51, Instr.pegGrant)] : List (Nat × Instr))
      ∧ (rin (rsp 51 []) tS).fab.rspIn = [rsp 51 []]
      ∧ (rsp 51 []).pkt.type = 51
      ∧ replyOk (rsp 51 []).pkt = false)
    ∧ ((50, Instr.atomicResult) ∈ ([(48, Instr.loadData []), (50, Instr.atomicResult), (51, Instr.pegGrant)] : List (Nat × Instr))
      ∧ (rin rAt caseR5b).fab.rspIn = [rAt]
      ∧ rAt.pkt.type = 50
      ∧ replyOk rAt.pkt = true
      ∧ tagAccepted (rin rAt caseR5b) rAt.pkt = false)
    ∧ ((rin (rGr 1) (qS caseR5c)).fab.rspIn = [rGr 1]
      ∧ (rGr 1).pkt.type = 51
      ∧ replyOk (rGr 1).pkt = true
      ∧ tagAccepted (rin (rGr 1) (qS caseR5c)) (rGr 1).pkt = true
      ∧ requestFor (rin (rGr 1) (qS caseR5c)) (rGr 1).pkt = none)
    ∧ (reqOf (qS qAt) 131071 = some qAt
      ∧ qAt.col = false
      ∧ orderEnded (qS qAt) qAt = false)
    ∧ (reqOf caseR7 131071 = some qStore
      ∧ qStore.col = false
      ∧ orderEnded caseR7 qStore = true
      ∧ 10 ∈ [6, 7, 8, 10]) := by
  and_intros <;> first | decide +kernel | (simp; done) | (constructor <;> decide +kernel)

/-- States and operands that meet the hypotheses of `Collectives`, clause by clause. -/
theorem witness_Collectives :
    (startable (colS (rA 1)) 3 = some 0
      ∧ (colDesc (slice (colTable (colS (rA 1))) (16 + 128 * 0) 128)).op = 1
      ∧ colLost (colS (rA 1)) (3) (colDesc (slice (colTable (colS (rA 1))) (16 + 128 * 0) 128)) = false
      ∧ colStartOk (colS (rA 1)) (colDesc (slice (colTable (colS (rA 1))) (16 + 128 * 0) 128)) (colTable (colS (rA 1))) = true)
    ∧ (startable (colS (colRaw 1 0 3 2 0 0 1022 5 4096)) 3 = some 0
      ∧ (colDesc (slice (colTable (colS (colRaw 1 0 3 2 0 0 1022 5 4096))) (16 + 128 * 0) 128)).op = 1
      ∧ colLost (colS (colRaw 1 0 3 2 0 0 1022 5 4096)) (3) (colDesc (slice (colTable (colS (colRaw 1 0 3 2 0 0 1022 5 4096))) (16 + 128 * 0) 128)) = false
      ∧ colStartOk (colS (colRaw 1 0 3 2 0 0 1022 5 4096)) (colDesc (slice (colTable (colS (colRaw 1 0 3 2 0 0 1022 5 4096))) (16 + 128 * 0) 128)) (colTable (colS (colRaw 1 0 3 2 0 0 1022 5 4096))) = false)
    ∧ (startable caseC1l 3 = some 0
      ∧ (colDesc (slice (colTable caseC1l) (16 + 128 * 0) 128)).op = 1
      ∧ colLost caseC1l (3) (colDesc (slice (colTable caseC1l) (16 + 128 * 0) 128)) = true)
    ∧ ((colDesc (slice (colTable (colS (rA 1))) (16 + 128 * 0) 128)).op ≠ 4)
    ∧ (startable (colS (rA 1)) 2 = none)
    ∧ ((snd 2 [0]).st = 2
      ∧ (∀ k ∈ (snd 2 [0]).needs, ∀ r ∈ (cop 2 [0] 2).recvs, r.k = k → r.st = 2))
    ∧ ((snd 3 [0]).st ≠ 2)
    ∧ ((snd 3 [0]).st = 3
      ∧ cq.wait ≠ Wait.dead
      ∧ isFenced (sndS (cop 3 [0] 2) cq 10000) (snd 3 [0]).dev = false
      ∧ cq.sentAt + 50 * (sndS (cop 3 [0] 2) cq 10000).rmt.timers.e2e ≤ (sndS (cop 3 [0] 2) cq 10000).aon
      ∧ cq.tries < (sndS (cop 3 [0] 2) cq 10000).rmt.timers.retries)
    ∧ (caseC3r.wait ≠ Wait.dead
      ∧ isFenced (sndS (cop 3 [0] 2) caseC3r 10000) (snd 3 [0]).dev = false
      ∧ caseC3r.sentAt + 50 * (sndS (cop 3 [0] 2) caseC3r 10000).rmt.timers.e2e ≤ (sndS (cop 3 [0] 2) caseC3r 10000).aon
      ∧ (sndS (cop 3 [0] 2) caseC3r 10000).rmt.timers.retries ≤ caseC3r.tries)
    ∧ ((cInS cPeg (cPkt 4096 64 128 12288)).fab.colIn = [cPkt 4096 64 128 12288]
      ∧ targetRuns (cInS cPeg (cPkt 4096 64 128 12288)) = true)
    ∧ (startable (colS (rA 4)) 3 = some 0
      ∧ (colDesc (slice (colTable (colS (rA 4))) (16 + 128 * 0) 128)).op = 4
      ∧ colLost (colS (rA 4)) (3) (colDesc (slice (colTable (colS (rA 4))) (16 + 128 * 0) 128)) = false
      ∧ colStartOk (colS (rA 4)) (colDesc (slice (colTable (colS (rA 4))) (16 + 128 * 0) 128)) (colTable (colS (rA 4))) = true)
    ∧ ((cPkt 4096 4096 128 12288).pkt.jobTag ≠ caseC5d.job.tag)
    ∧ ((cPkt 12289 4096 128 12288).pkt.jobTag = (cInS cPeg (cPkt 4096 4096 128 12288)).job.tag
      ∧ (pegOf (cInS cPeg (cPkt 4096 4096 128 12288)) ((cPkt 12289 4096 128 12288).pkt.seqCh % 2 ^ 14)).doneCol = false
      ∧ colLands (cInS cPeg (cPkt 4096 4096 128 12288)) (cPkt 12289 4096 128 12288).pkt (pegOf (cInS cPeg (cPkt 4096 4096 128 12288)) ((cPkt 12289 4096 128 12288).pkt.seqCh % 2 ^ 14)) = false)
    ∧ ((cPkt 4096 4096 128 12288).pkt.jobTag = (cInS caseC5b (cPkt 4096 4096 128 12288)).job.tag
      ∧ (pegOf (cInS caseC5b (cPkt 4096 4096 128 12288)) ((cPkt 4096 4096 128 12288).pkt.seqCh % 2 ^ 14)).doneCol = false
      ∧ colLands (cInS caseC5b (cPkt 4096 4096 128 12288)) (cPkt 4096 4096 128 12288).pkt (pegOf (cInS caseC5b (cPkt 4096 4096 128 12288)) ((cPkt 4096 4096 128 12288).pkt.seqCh % 2 ^ 14)) = true
      ∧ pathUp (cInS caseC5b (cPkt 4096 4096 128 12288)) (cPkt 4096 4096 128 12288).region ((pegOf (cInS caseC5b (cPkt 4096 4096 128 12288)) ((cPkt 4096 4096 128 12288).pkt.seqCh % 2 ^ 14)).block / 68) = true
      ∧ ((winOf (cInS caseC5b (cPkt 4096 4096 128 12288)) (addrWindow (cPkt 4096 4096 128 12288).pkt.addr)).entry.base + addrOffset (cPkt 4096 4096 128 12288).pkt.addr - (pegOf (cInS caseC5b (cPkt 4096 4096 128 12288)) ((cPkt 4096 4096 128 12288).pkt.seqCh % 2 ^ 14)).sp) / 4096 ∈ (pegOf (cInS caseC5b (cPkt 4096 4096 128 12288)) ((cPkt 4096 4096 128 12288).pkt.seqCh % 2 ^ 14)).pieces)
    ∧ ((cPkt 8192 4096 128 0).pkt.jobTag = (cInS cPeg (cPkt 8192 4096 128 0)).job.tag
      ∧ (pegOf (cInS cPeg (cPkt 8192 4096 128 0)) ((cPkt 8192 4096 128 0).pkt.seqCh % 2 ^ 14)).doneCol = false
      ∧ colLands (cInS cPeg (cPkt 8192 4096 128 0)) (cPkt 8192 4096 128 0).pkt (pegOf (cInS cPeg (cPkt 8192 4096 128 0)) ((cPkt 8192 4096 128 0).pkt.seqCh % 2 ^ 14)) = true
      ∧ pathUp (cInS cPeg (cPkt 8192 4096 128 0)) (cPkt 8192 4096 128 0).region ((pegOf (cInS cPeg (cPkt 8192 4096 128 0)) ((cPkt 8192 4096 128 0).pkt.seqCh % 2 ^ 14)).block / 68) = true
      ∧ ((winOf (cInS cPeg (cPkt 8192 4096 128 0)) (addrWindow (cPkt 8192 4096 128 0).pkt.addr)).entry.base + addrOffset (cPkt 8192 4096 128 0).pkt.addr - (pegOf (cInS cPeg (cPkt 8192 4096 128 0)) ((cPkt 8192 4096 128 0).pkt.seqCh % 2 ^ 14)).sp) / 4096 ∉ (pegOf (cInS cPeg (cPkt 8192 4096 128 0)) ((cPkt 8192 4096 128 0).pkt.seqCh % 2 ^ 14)).pieces
      ∧ (pegOf (State.modPeg ((cPkt 8192 4096 128 0).pkt.seqCh % 2 ^ 14) (fun (q : Peg) => { out := q.out, window := q.window, gen := q.gen, block := q.block, sp := q.sp, bytes := q.bytes, ctr := q.ctr, grant := q.grant, tag := q.tag, landed := q.landed, total := some ((cPkt 8192 4096 128 0).pkt.seqCh / 2 ^ 14), pieces := q.pieces ++ [((winOf (cInS cPeg (cPkt 8192 4096 128 0)) (addrWindow (cPkt 8192 4096 128 0).pkt.addr)).entry.base + addrOffset (cPkt 8192 4096 128 0).pkt.addr - q.sp) / 4096], done := q.done, doneCol := q.doneCol, claim := q.claim : Peg }) (landBytes ((cPkt 8192 4096 128 0).pkt.seqCh % 2 ^ 14) ((winOf (cInS cPeg (cPkt 8192 4096 128 0)) (addrWindow (cPkt 8192 4096 128 0).pkt.addr)).entry.base + addrOffset (cPkt 8192 4096 128 0).pkt.addr) (landed ((cPkt 8192 4096 128 0).pkt.gen / 4096 % 4) ((blkOf (cInS cPeg (cPkt 8192 4096 128 0)) (pegOf (cInS cPeg (cPkt 8192 4096 128 0)) ((cPkt 8192 4096 128 0).pkt.seqCh % 2 ^ 14)).block).sp.readN ((winOf (cInS cPeg (cPkt 8192 4096 128 0)) (addrWindow (cPkt 8192 4096 128 0).pkt.addr)).entry.base + addrOffset (cPkt 8192 4096 128 0).pkt.addr) (cPkt 8192 4096 128 0).pkt.payload.length) (cPkt 8192 4096 128 0).pkt.payload) (cInS cPeg (cPkt 8192 4096 128 0)))) ((cPkt 8192 4096 128 0).pkt.seqCh % 2 ^ 14)).landed ≠ 64 * ((cPkt 8192 4096 128 0).pkt.seqCh / 2 ^ 14))
    ∧ (colOf deadC 2 = some deadO
      ∧ deadO.quietAt = some 5
      ∧ deadO.heard = false
      ∧ deadC.fab.recovery = true
      ∧ 5 + 50 * deadC.rmt.timers.dead ≤ deadC.aon
      ∧ (∃ r ∈ deadO.recvs, r.st = 0))
    ∧ (startable (colS (rA 6)) 3 = some 0
      ∧ (colDesc (slice (colTable (colS (rA 6))) (16 + 128 * 0) 128)).op = 6
      ∧ colLost (colS (rA 6)) (3) (colDesc (slice (colTable (colS (rA 6))) (16 + 128 * 0) 128)) = false
      ∧ colStartOk (colS (rA 6)) (colDesc (slice (colTable (colS (rA 6))) (16 + 128 * 0) 128)) (colTable (colS (rA 6))) = true) := by
  and_intros <;> first | decide +kernel

theorem pick_one (p : Packet) : pickLane p [543] = 543 := by
  have h : (List.range 544).filter [543].contains = [543] := by decide +kernel
  simp [pickLane, h, Nat.mod_one]

theorem ring_lanes : escLanes waitS none 3 = [543] ∧ escLanes (staged 0) none 3 = [543] := by decide +kernel

/-- The waiting packet enters the ring by port 15. -/
theorem ring_enters : escEntry waitS 543 = some (crd8, none) := by
  have h : (decide ((fabLink waitS 543).used.get 0 8 + 34 ≤ poolRoom waitS 543 8) && laneLink waitS 543 == 543) = true := by decide +kernel
  have e : waitS.fab.escWait = [(crd8, none)] := rfl
  simp only [Bool.and_eq_true] at h
  simp [escEntry, e, show crd8.region = 3 from rfl, ring_lanes.1, pick_one, h.1, h.2]

/-- The staged packet finds room at the next stage. -/
theorem ring_goes : (fabLink (staged 0) (laneLink (staged 0) (pickLane ep8.pkt (escLanes (staged 0) (if (staged 0).fab.number = some ep8.pkt.escTo
    then none else some ep8.pkt.escTo) ep8.region)))).used.get 0 8 + 17 ≤ poolRoom (staged 0) (laneLink (staged 0) (pickLane ep8.pkt (escLanes (staged 0)
    (if (staged 0).fab.number = some ep8.pkt.escTo then none else some ep8.pkt.escTo) ep8.region))) 8 := by
  have h : (if (staged 0).fab.number = some ep8.pkt.escTo then none else some ep8.pkt.escTo) = none := by decide +kernel
  simp only [h, show ep8.region = 3 from rfl, ring_lanes.2, pick_one]
  decide +kernel

/-- States and operands that meet the hypotheses of `LinksAndPackets`, clause by clause: flits and headers. -/
theorem witness_LinksAndPackets :
    ((zeros 256).length = 256)
    ∧ (activePos caseLP1n 15 1 33 = none)
    ∧ (false = false
      ∧ crcGood (goodFlit 65535 0 2 0 0) = true
      ∧ field (goodFlit 65535 0 2 0 0) 0 2 = (fabLink (lnk { rxNext := 65535 : Link }) 543).rxNext)
    ∧ ((false = true ∨ crcGood (zeros 255 ++ [(1 : Byte)]) = false))
    ∧ (crcGood (goodFlit 32768 0 0 0 0) = true
      ∧ 0 < ((fabLink (lnk { : Link }) 543).rxNext + 65536 - field (goodFlit 32768 0 0 0 0) 0 2) % 65536
      ∧ ((fabLink (lnk { : Link }) 543).rxNext + 65536 - field (goodFlit 32768 0 0 0 0) 0 2) % 65536 ≤ 32768)
    ∧ ({ store := [goodFlit 65535 0 0 0 0, goodFlit 0 0 0 0 0, goodFlit 1 0 0 0 0] : Link }.store = [goodFlit 65535 0 0 0 0, goodFlit 0 0 0 0 0, goodFlit 1 0 0 0 0]
      ∧ 1 ≤ 2
      ∧ 2 ≤ { store := [goodFlit 65535 0 0 0 0, goodFlit 0 0 0 0 0, goodFlit 1 0 0 0 0] : Link }.store.length
      ∧ 2 < 65536)
    ∧ ((fabLink caseLP3 (linkKey caseLP3 15 33)).store ≠ []
      ∧ (fabLink caseLP3 (linkKey caseLP3 15 33)).ackAt + 200 ≤ caseLP3.aon)
    ∧ (((fabLink caseLP3b (linkKey caseLP3b 15 33)).store = [] ∨ caseLP3b.aon < (fabLink caseLP3b (linkKey caseLP3b 15 33)).ackAt + 200))
    ∧ ((fabLink caseLP3c (linkKey caseLP3c 15 33)).downAt ≠ 0
      ∧ (fabLink caseLP3c (linkKey caseLP3c 15 33)).downAt + 4999999 ≤ caseLP3c.aon)
    ∧ (((fabLink caseLP3 (linkKey caseLP3 15 33)).downAt = 0 ∨ caseLP3.aon < (fabLink caseLP3 (linkKey caseLP3 15 33)).downAt + 4999999))
    ∧ (nextInStream ((fabLink (lnk { stream := zeros 15 : Link }) (linkKey (lnk { stream := zeros 15 : Link }) 15 33)).stream.length + 1) (fabLink (lnk { stream := zeros 15 : Link }) (linkKey (lnk { stream := zeros 15 : Link }) 15 33)).stream = (zeros 7, none))
    ∧ (nextInStream ((fabLink (lnk { stream := strm aPkt : Link }) (linkKey (lnk { stream := strm aPkt : Link }) 15 33)).stream.length + 1) (fabLink (lnk { stream := strm aPkt : Link }) (linkKey (lnk { stream := strm aPkt : Link }) 15 33)).stream = ([(0 : Byte)], some aPkt.bytes)
      ∧ headerOk aPkt.bytes = true
      ∧ isTeeCopy (lnk { stream := strm aPkt : Link }) (linkKey (lnk { stream := strm aPkt : Link }) 15 33) (parsePacket aPkt.bytes) = false)
    ∧ (nextInStream ((fabLink teeS (linkKey teeS 15 33)).stream.length + 1) (fabLink teeS (linkKey teeS 15 33)).stream = ([(0 : Byte)], some aPkt.bytes)
      ∧ isTeeCopy teeS (linkKey teeS 15 33) (parsePacket aPkt.bytes) = true)
    ∧ (nextInStream ((fabLink (lnk { stream := strm caseLP4c : Link }) (linkKey (lnk { stream := strm caseLP4c : Link }) 15 33)).stream.length + 1) (fabLink (lnk { stream := strm caseLP4c : Link }) (linkKey (lnk { stream := strm caseLP4c : Link }) 15 33)).stream = ([(0 : Byte)], some caseLP4c.bytes)
      ∧ headerOk caseLP4c.bytes = false)
    ∧ ((fS.mem.ended = false ∨ fS.mem.teeKnown = false))
    ∧ ((crd badM).pkt.type = 1
      ∧ mgtOk (crd badM).pkt = false)
    ∧ (mgtOk caseLP5d.pkt = true
      ∧ linkLocal caseLP5d.pkt = true)
    ∧ (caseLP5c.dev = Dev.bivouac
      ∧ (caseLP5cb.pkt.type = 1 → mgtOk caseLP5cb.pkt = true)
      ∧ linkLocal caseLP5cb.pkt = false
      ∧ keepAlivePath caseLP5c caseLP5cb.pkt = false)
    ∧ (fS.dev ≠ Dev.bivouac
      ∧ ((peerAt fS caseLP5cb.link).st ≠ 3 ∨ linkFromSelf fS caseLP5cb.link = true))
    ∧ (((crd caseLP5k).pkt.type = 1 → mgtOk (crd caseLP5k).pkt = true)
      ∧ linkLocal (crd caseLP5k).pkt = false
      ∧ (peerAt fS (crd caseLP5k).link).st = 3
      ∧ linkFromSelf fS (crd caseLP5k).link = false
      ∧ ((crd caseLP5k).pkt.type = 1 ∨ isFenced fS (crd caseLP5k).pkt.src = false)
      ∧ (crd caseLP5k).pkt.esc = true)
    ∧ (((crd aPkt).pkt.type = 1 → mgtOk (crd aPkt).pkt = true)
      ∧ linkLocal (crd aPkt).pkt = false
      ∧ (peerAt fS (crd aPkt).link).st = 3
      ∧ linkFromSelf fS (crd aPkt).link = false
      ∧ ((crd aPkt).pkt.type = 1 ∨ isFenced fS (crd aPkt).pkt.src = false)
      ∧ (crd aPkt).pkt.esc = false
      ∧ fS.fab.number = some (crd aPkt).pkt.dst)
    ∧ (((crd caseLP5l).pkt.type = 1 → mgtOk (crd caseLP5l).pkt = true)
      ∧ linkLocal (crd caseLP5l).pkt = false
      ∧ (peerAt fS (crd caseLP5l).link).st = 3
      ∧ linkFromSelf fS (crd caseLP5l).link = false
      ∧ ((crd caseLP5l).pkt.type = 1 ∨ isFenced fS (crd caseLP5l).pkt.src = false)
      ∧ (crd caseLP5l).pkt.esc = false
      ∧ fS.fab.number ≠ some (crd caseLP5l).pkt.dst
      ∧ (crd caseLP5l).pkt.type = 64)
    ∧ (((crd caseLP5dn).pkt.type = 1 → mgtOk (crd caseLP5dn).pkt = true)
      ∧ linkLocal (crd caseLP5dn).pkt = false
      ∧ (peerAt fS (crd caseLP5dn).link).st = 3
      ∧ linkFromSelf fS (crd caseLP5dn).link = false
      ∧ ((crd caseLP5dn).pkt.type = 1 ∨ isFenced fS (crd caseLP5dn).pkt.src = false)
      ∧ (crd caseLP5dn).pkt.esc = false
      ∧ fS.fab.number ≠ some (crd caseLP5dn).pkt.dst
      ∧ (crd caseLP5dn).pkt.type ≠ 64) := by
  and_intros <;> first
    | decide +kernel
    | (constructor <;> decide +kernel)

/-- States and operands that meet the hypotheses of `LinksAndPackets`, clause by clause: packets for this device and packets with a way. -/
theorem witness_LinksAndPackets_arrivals :
    (mayEnter fS (crd aPkt).pkt = true
      ∧ mustFollow fS (crd aPkt).pkt = false)
    ∧ ((mayEnter fullReq (crd aPkt).pkt = false ∨ mustFollow fullReq (crd aPkt).pkt = true))
    ∧ (isRequest (crd aPkt).pkt.type = true
      ∧ (crd aPkt).pkt.jobTag = fS.job.tag
      ∧ fS.mem.role ≠ 1)
    ∧ ((crd badM).pkt.type = 1)
    ∧ ((fS.mem.role ≠ 1 ∨ (crd aPkt).pkt.type = 1))
    ∧ ((crd caseLPm).pkt.type = 1
      ∧ mgtFm (crd caseLPm).pkt = false
      ∧ fS.fab.mgtIn.length < 64)
    ∧ (64 ≤ caseLPm2.fab.mgtIn.length)
    ∧ ((crd aPkt).pkt.jobTag = fS.job.tag
      ∧ isRequest (crd aPkt).pkt.type = true)
    ∧ ((crd caseLP6b).pkt.jobTag = fS.job.tag
      ∧ isReply (crd caseLP6b).pkt.type = true)
    ∧ ((crd caseLP6c).pkt.jobTag = fS.job.tag
      ∧ (crd caseLP6c).pkt.type = 64)
    ∧ ((crd aPkt).region = alwaysOn ∨ (crd aPkt).region = 543 / 136)
    ∧ ((crd aPkt).region ≠ alwaysOn
      ∧ (crd aPkt).region ≠ 0 / 136)
    ∧ (rtS.fab.number ≠ some (crd caseLP7c).pkt.dst
      ∧ ((crd caseLP7c).pkt.hops = 3 ∨ (crd caseLP7c).pkt.epoch ≠ rtS.fab.epoch))
    ∧ (rtS.fab.number ≠ some (crd caseLP7b).pkt.dst
      ∧ (crd caseLP7b).pkt.hops ≠ 3
      ∧ (crd caseLP7b).pkt.epoch = rtS.fab.epoch
      ∧ routeLanes rtS (crd caseLP7b).pkt (crd caseLP7b).region = [])
    ∧ (rtS.fab.number ≠ some (crd caseLP5dn).pkt.dst
      ∧ (crd caseLP5dn).pkt.hops ≠ 3
      ∧ (crd caseLP5dn).pkt.epoch = rtS.fab.epoch
      ∧ routeLanes rtS (crd caseLP5dn).pkt (crd caseLP5dn).region ≠ []) := by
  and_intros <;> first
    | decide +kernel
    | exact Or.inr (by decide +kernel)
    | (constructor <;> decide +kernel)

/-- States and operands that meet the hypotheses of `LinksAndPackets`, clause by clause: what a link sends. -/
theorem witness_LinksAndPackets_forward :
    (linkMute (lnk { store := [zeros 256] : Link }) 15 33 = false
      ∧ (fabLink (lnk { store := [zeros 256] : Link }) (linkKey (lnk { store := [zeros 256] : Link }) 15 33)).sent < (fabLink (lnk { store := [zeros 256] : Link }) (linkKey (lnk { store := [zeros 256] : Link }) 15 33)).store.length)
    ∧ (linkMute fwS 15 33 = false
      ∧ (fabLink fwS (linkKey fwS 15 33)).store.length ≤ (fabLink fwS (linkKey fwS 15 33)).sent
      ∧ nextPacket (if linkPeerActive fwS (linkKey fwS 15 33) = true then enterRing (linkKey fwS 15 33) fwS else fwS) (linkKey fwS 15 33) = some (qp, ((nextPacket (enterRing 543 fwS) 543).getD (qp, { : Link })).2)
      ∧ (fabLink (enterRing 543 fwS) 543).store.length + ((nextPacket (enterRing 543 fwS) 543).getD (qp, { : Link })).2.flitsFor qp + alignFlits (enterRing 543 fwS) 543 qp ≤ storeFlits (enterRing 543 fwS) 543)
    ∧ (linkMute fwF 15 33 = false
      ∧ (fabLink fwF (linkKey fwF 15 33)).store.length ≤ (fabLink fwF (linkKey fwF 15 33)).sent
      ∧ nextPacket (if linkPeerActive fwF (linkKey fwF 15 33) = true then enterRing (linkKey fwF 15 33) fwF else fwF) (linkKey fwF 15 33) = some (qp, ((nextPacket (enterRing 543 fwF) 543).getD (qp, { : Link })).2)
      ∧ ¬((fabLink (enterRing 543 fwF) 543).store.length + ((nextPacket (enterRing 543 fwF) 543).getD (qp, { : Link })).2.flitsFor qp + alignFlits (enterRing 543 fwF) 543 qp ≤ storeFlits (enterRing 543 fwF) 543))
    ∧ (linkMute (lnk { : Link }) 15 33 = false
      ∧ (fabLink (lnk { : Link }) (linkKey (lnk { : Link }) 15 33)).store.length ≤ (fabLink (lnk { : Link }) (linkKey (lnk { : Link }) 15 33)).sent
      ∧ (nextPacket (if linkPeerActive (lnk { : Link }) (linkKey (lnk { : Link }) 15 33) = true then enterRing (linkKey (lnk { : Link }) 15 33) (lnk { : Link }) else lnk { : Link }) (linkKey (lnk { : Link }) 15 33) = none))
    ∧ (linkMute caseLP8e 15 33 = true)
    ∧ (linkMute (lnk { due := true : Link }) 15 33 = false
      ∧ (fabLink (lnk { due := true : Link }) 543).store.length < storeFlits (lnk { due := true : Link }) 543
      ∧ (fabLink (lnk { due := true : Link }) 543).due = true)
    ∧ (linkMute (lnk { returns := [(8, 17)] : Link }) 15 33 = false
      ∧ linkDown (lnk { returns := [(8, 17)] : Link }) 15 33 = false
      ∧ (fabLink (lnk { returns := [(8, 17)] : Link }) 543).store.length < storeFlits (lnk { returns := [(8, 17)] : Link }) 543
      ∧ (fabLink (lnk { returns := [(8, 17)] : Link }) 543).due = false
      ∧ linkPeerActive (lnk { returns := [(8, 17)] : Link }) 543 = true
      ∧ (fabLink (lnk { returns := [(8, 17)] : Link }) 543).returns ≠ []
      ∧ underTest (lnk { returns := [(8, 17)] : Link }) 543 = false) := by
  and_intros <;> first
    | decide +kernel
    | (constructor <;> decide +kernel)

/-- States and operands that meet the hypotheses of `LinksAndPackets`, clause by clause: the escape ring and CONG. -/
theorem witness_LinksAndPackets_ring :
    (escEntry fS 543 = none)
    ∧ (escEntry waitS 543 = some (crd8, none))
    ∧ ((fabLink caseLP9 (linkKey caseLP9 15 33)).queue = [qp]
      ∧ 1 ≤ poolOf qp
      ∧ poolOf qp ≤ 6
      ∧ qp.pkt.type ≠ 1
      ∧ noCredit caseLP9 (15) (33) (linkKey caseLP9 15 33) qp = true
      ∧ qp.since + 1000 ≤ caseLP9.aon)
    ∧ ((∀ d ∈ (fabLink (lnk { : Link }) (linkKey (lnk { : Link }) 15 33)).queue, d.pkt.type = 1 ∨ noCredit (lnk { : Link }) (15) (33) (linkKey (lnk { : Link }) 15 33) d = false ∨ (lnk { : Link }).aon < d.since + 1000)
      ∧ ((lnk { : Link }).mem.role ≠ 1 ∨ (lnk { : Link }).fab.inWait = []))
    ∧ ((∀ d ∈ (fabLink waitTee (linkKey waitTee 15 33)).queue, d.pkt.type = 1 ∨ noCredit waitTee (15) (33) (linkKey waitTee 15 33) d = false ∨ waitTee.aon < d.since + 1000)
      ∧ waitTee.mem.role = 1
      ∧ waitTee.fab.inWait = [crd aPkt]
      ∧ (crd aPkt).link = linkKey waitTee 15 33
      ∧ 1 ≤ (crd aPkt).pool
      ∧ (crd aPkt).pool ≤ 6
      ∧ (crd aPkt).since + 1000 ≤ waitTee.aon)
    ∧ ((lnk { stage := [ep] : Link }).dev ≠ Dev.bivouac
      ∧ (fabLink (lnk { stage := [ep] : Link }) (linkKey (lnk { stage := [ep] : Link }) 15 33)).stage = [ep]
      ∧ (lnk { stage := [ep] : Link }).fab.number = some ep.pkt.dst
      ∧ intakeHasRoom (lnk { stage := [ep] : Link }) ep.pkt = true
      ∧ (isTeed (lnk { stage := [ep] : Link }) ep.pkt = false ∨ teeCredit (lnk { stage := [ep] : Link }) ep.pkt = true))
    ∧ ((staged 0).dev ≠ Dev.bivouac
      ∧ (fabLink (staged 0) (linkKey (staged 0) 15 33)).stage = [ep8]
      ∧ ((staged 0).fab.number ≠ some ep8.pkt.dst ∨ intakeHasRoom (staged 0) ep8.pkt = false ∨ (isTeed (staged 0) ep8.pkt = true ∧ teeCredit (staged 0) ep8.pkt = false))
      ∧ (escLanes (staged 0) (if (staged 0).fab.number = some ep8.pkt.escTo then none else some ep8.pkt.escTo) ep8.region ≠ [])
      ∧ ((fabLink (staged 0) (laneLink (staged 0) (pickLane ep8.pkt (escLanes (staged 0) (if (staged 0).fab.number = some ep8.pkt.escTo then none else some ep8.pkt.escTo) ep8.region)))).used.get 0 8 + 17 ≤ poolRoom (staged 0) (laneLink (staged 0) (pickLane ep8.pkt (escLanes (staged 0) (if (staged 0).fab.number = some ep8.pkt.escTo then none else some ep8.pkt.escTo) ep8.region))) 8))
    ∧ (caseLP9i.dev ≠ Dev.bivouac
      ∧ (fabLink caseLP9i (linkKey caseLP9i 15 33)).stage = [ep8]
      ∧ (caseLP9i.fab.number ≠ some ep8.pkt.dst ∨ intakeHasRoom caseLP9i ep8.pkt = false ∨ (isTeed caseLP9i ep8.pkt = true ∧ teeCredit caseLP9i ep8.pkt = false))
      ∧ (escLanes caseLP9i (if caseLP9i.fab.number = some ep8.pkt.escTo then none else some ep8.pkt.escTo) ep8.region = [] ∨ poolRoom caseLP9i (laneLink caseLP9i (pickLane ep8.pkt (escLanes caseLP9i (if caseLP9i.fab.number = some ep8.pkt.escTo then none else some ep8.pkt.escTo) ep8.region))) 8 < (fabLink caseLP9i (laneLink caseLP9i (pickLane ep8.pkt (escLanes caseLP9i (if caseLP9i.fab.number = some ep8.pkt.escTo then none else some ep8.pkt.escTo) ep8.region)))).used.get 0 8 + 17))
    ∧ ((fabLink fS (linkKey fS 15 33)).stage = [])
    ∧ (Message (heard fS 65 (leBytes 4 0 ++ leBytes 4 0 ++ leBytes 4 64 ++ zeros 4)) 65 (msg 65 (leBytes 4 0 ++ leBytes 4 0 ++ leBytes 4 64 ++ zeros 4)) []
      ∧ congReadOk (List.drop 8 (msg 65 (leBytes 4 0 ++ leBytes 4 0 ++ leBytes 4 64 ++ zeros 4)).pkt.payload) = true)
    ∧ (Message (heard fS 65 (leBytes 4 0 ++ leBytes 4 34879 ++ leBytes 4 2 ++ zeros 4)) 65 (msg 65 (leBytes 4 0 ++ leBytes 4 34879 ++ leBytes 4 2 ++ zeros 4)) []
      ∧ congReadOk (List.drop 8 (msg 65 (leBytes 4 0 ++ leBytes 4 34879 ++ leBytes 4 2 ++ zeros 4)).pkt.payload) = false)
    ∧ ((cgS aRun (2 ^ 32 - 2)).job.run = some aRun
      ∧ (cgS aRun (2 ^ 32 - 2)).dev = Dev.run
      ∧ aRun.phase = Phase.leg
      ∧ (cgS aRun (2 ^ 32 - 2)).fab.samples < 2 ^ 32 - 1)
    ∧ ((cgS caseLP11b 0).job.run = some caseLP11b
      ∧ caseLP11b.phase ≠ Phase.leg) := by
  and_intros <;> first
    | decide +kernel
    | exact ring_enters
    | exact ring_goes
    | (constructor <;> decide +kernel)

/-! A root key, and a CHAIN of an intermediate and a device certificate under it, made with an outside tool; the device's serial number is 0xA5. -/

def rootKey : List Byte := beBytes 64 0x2f7d36373785949a5acdde9ec6f30389f32379849f0ccf2e79aba7ec5b36c0d6e63c79117658463002fc09b1d4c7a2b2087eb7d202ed00059c55ef2a698c7564
def certCa : List Byte := beBytes 347 0x308201573081fda003020102020101300a06082a8648ce3d040302300c310a300806035504030c0152301e170d3236313132393131353135335a170d3336313132363131353135335a300c310a300806035504030c01413059301306072a8648ce3d020106082a8648ce3d030107034200046d5906a9a761f75a754a710704d0b13bc95c8ba4f1917fb7df854202ba7de98b4c23f3b2d2eb248995cb4928acabd530ab1f045b829caf2a037ad6771975aee9a350304e300c0603551d13040530030101ff301d0603551d0e04160414b9726ac74bacc47eb42c88f934f603464a368a55301f0603551d2304183016801448356bd62ad71950ee03d8564cdce417a761aeba300a06082a8648ce3d04030203490030460221009a5a51dd65298b0face64d07ff2d4e435a1aeb26a0371ec9a195ffe31ef067e1022100c27b247f24cda1c4390898bc228cac7f9ed2b860bcd3d967979ee3f9b5513375
def certDev : List Byte := beBytes 360 0x3082016430820109a003020102020102300a06082a8648ce3d040302300c310a300806035504030c0141301e170d3236313132393131353135335a170d3336313132363131353135335a301b3119301706035504051310303030303030303030303030303041353059301306072a8648ce3d020106082a8648ce3d030107034200040005d1a219cf4d917b07cacbb5987fff5a8f9184bda45dc4d24d0030f32cfc1892a13856b0d8f406357b24bedace2880d4983a137bc406bef866556f904f29c5a34d304b30090603551d1304023000301d0603551d0e04160414fadf3d5e6baf60aa6d5f32e9effecc7e2f66c76f301f0603551d23041830168014b9726ac74bacc47eb42c88f934f603464a368a55300a06082a8648ce3d0403020349003046022100ad31a8fc4e812b3daf12c93c6a299e179495453175d6fbdc95a3cc74e0b5469a022100a5e7e466628e1b7992c29c401b31d59b111e2db5fd84072b4a2f0586eed15af2
def chainBytes : List Byte := leBytes 2 347 ++ certCa ++ leBytes 2 360 ++ certDev
def headBytes : List Byte := leBytes 8 0xA5 ++ leBytes 2 40 ++ [3, 33] ++ zeros 4 ++ beBytes 32 77
def sigBytes : List Byte := beBytes 64 0xd7396afc86ddac6f135f53d325b3f6bbea9f0aea7323df28beb4e6492e3201e744ac5e1b1535b9790210c9dc0185eb0b5c362b9e74679aae1ba94c715b2c113b
/-- The response of that device to nonce 77 of module 9, signed by its key with the same tool. -/
def goodResp : List Byte := headBytes ++ sigBytes ++ leBytes 2 711 ++ zeros 14 ++ chainBytes

/-- What the two certificates hold. -/
def caCert : Cert := ⟨beBytes 256 0x3081fda003020102020101300a06082a8648ce3d040302300c310a300806035504030c0152301e170d3236313132393131353135335a170d3336313132363131353135335a300c310a300806035504030c01413059301306072a8648ce3d020106082a8648ce3d030107034200046d5906a9a761f75a754a710704d0b13bc95c8ba4f1917fb7df854202ba7de98b4c23f3b2d2eb248995cb4928acabd530ab1f045b829caf2a037ad6771975aee9a350304e300c0603551d13040530030101ff301d0603551d0e04160414b9726ac74bacc47eb42c88f934f603464a368a55301f0603551d2304183016801448356bd62ad71950ee03d8564cdce417a761aeba, beBytes 64 0x9a5a51dd65298b0face64d07ff2d4e435a1aeb26a0371ec9a195ffe31ef067e1c27b247f24cda1c4390898bc228cac7f9ed2b860bcd3d967979ee3f9b5513375,
  beBytes 64 0x6d5906a9a761f75a754a710704d0b13bc95c8ba4f1917fb7df854202ba7de98b4c23f3b2d2eb248995cb4928acabd530ab1f045b829caf2a037ad6771975aee9, none⟩
def devCert : Cert := ⟨beBytes 269 0x30820109a003020102020102300a06082a8648ce3d040302300c310a300806035504030c0141301e170d3236313132393131353135335a170d3336313132363131353135335a301b3119301706035504051310303030303030303030303030303041353059301306072a8648ce3d020106082a8648ce3d030107034200040005d1a219cf4d917b07cacbb5987fff5a8f9184bda45dc4d24d0030f32cfc1892a13856b0d8f406357b24bedace2880d4983a137bc406bef866556f904f29c5a34d304b30090603551d1304023000301d0603551d0e04160414fadf3d5e6baf60aa6d5f32e9effecc7e2f66c76f301f0603551d23041830168014b9726ac74bacc47eb42c88f934f603464a368a55, beBytes 64 0xad31a8fc4e812b3daf12c93c6a299e179495453175d6fbdc95a3cc74e0b5469aa5e7e466628e1b7992c29c401b31d59b111e2db5fd84072b4a2f0586eed15af2,
  beBytes 64 0x0005d1a219cf4d917b07cacbb5987fff5a8f9184bda45dc4d24d0030f32cfc1892a13856b0d8f406357b24bedace2880d4983a137bc406bef866556f904f29c5, some 0xA5⟩

theorem test_certificate_ca : Cert.read certCa = some caCert := by decide +kernel

theorem test_certificate_device : Cert.read certDev = some devCert := by decide +kernel

theorem test_certificate_ca_verifies : ecdsaValid rootKey caCert.signed caCert.sig = true := by decide +kernel

theorem test_certificate_device_verifies : ecdsaValid caCert.key devCert.signed devCert.sig = true := by decide +kernel

def sigMsg : List Byte := beBytes 64 0x4b443750454552310900000000000000a5000000000000002800032100000000000000000000000000000000000000000000000000000000000000000000004d

theorem test_response_signature : ecdsaValid devCert.key sigMsg sigBytes = true := by decide +kernel

theorem sig_message : [0x4B, 0x44, 0x37, 0x50, 0x45, 0x45, 0x52, 0x31] ++ leBytes 8 9 ++ headBytes = sigMsg := by decide +kernel

theorem slice_middle (a b c : List Byte) (i n : Nat) (ha : a.length = i) (hb : b.length = n) : slice (a ++ (b ++ c)) i n = b := by
  subst ha hb
  apply List.ext_getElem
  · simp [slice]
  · intro k h1 h2
    simp [slice, List.getElem?_append_right, List.getElem?_append_left h2, h2]

theorem slice_last (a b : List Byte) (i n : Nat) (ha : a.length = i) (hb : b.length = n) : slice (a ++ b) i n = b := by
  simpa using slice_middle a b [] i n ha hb

theorem chain_verifies : deviceCert rootKey chainBytes = some devCert := by
  have n : field chainBytes 0 2 = 347 := by decide +kernel
  have m : field chainBytes 349 2 = 360 := by decide +kernel
  have la : certCa.length = 347 := by decide +kernel
  have ld : certDev.length = 360 := by decide +kernel
  have a : (chainCerts chainBytes).1 = certCa := by
    simp only [chainCerts, n]
    rw [chainBytes, List.append_assoc, List.append_assoc]
    exact slice_middle _ _ _ _ _ rfl la
  have b : (chainCerts chainBytes).2 = certDev := by
    simp only [chainCerts, n, m, show 2 + 347 = 349 from rfl, show 4 + 347 = 351 from rfl]
    rw [chainBytes]
    exact slice_last _ _ _ _ (by simp [la, leBytes]) ld
  simp [deviceCert, a, b, test_certificate_ca, test_certificate_device, Cert.verifies, test_certificate_ca_verifies, test_certificate_device_verifies]

/-- Module 9, which has sent that device its nonce. -/
def respS : State := let s := hr { st := 2, hello := hb 0xA5 40 ++ zeros 2, nonce := 77 } 3 goodResp
  { s with idn := { s.idn with otp := Mem.writeN (Mem.writeN [] 0 [9]) 0x100 rootKey } }

/-- A response that verifies: the last clause of `PeerDiscovery`. -/
theorem witness_PeerDiscovery_verifies : responseVerifies respS 543 goodResp = true := by
  have n : (beNat (slice goodResp 16 32) == (peerAt respS 543).nonce) = true := by decide +kernel
  have q : ((List.range 34).findSome? fun l => if linkKey respS (543 / 34) l = 543 then lanePeer respS (543 / 34) 1 l else none) = some (40, 3) := by decide +kernel
  have p : ((3 : Nat) == field goodResp 10 1) = true := by decide +kernel
  have l : (field goodResp 11 1 == lineField respS 543) = true := by decide +kernel
  have r : otpBytes respS 0x100 64 = rootKey := by decide +kernel
  have g : field goodResp 112 2 = chainBytes.length := by decide +kernel
  have h : headBytes.length = 48 := by decide +kernel
  have k : sigBytes.length = 64 := by decide +kernel
  have c : slice goodResp 128 (field goodResp 112 2) = chainBytes := by
    rw [g, goodResp]
    exact slice_last _ _ _ _ (by simp [h, k, leBytes, zeros]) rfl
  have s1 : slice goodResp 0 48 = headBytes := by
    rw [goodResp, List.append_assoc, List.append_assoc, List.append_assoc]
    exact slice_middle [] _ _ _ _ rfl h
  have s2 : slice goodResp 48 64 = sigBytes := by
    rw [goodResp, List.append_assoc, List.append_assoc, List.append_assoc]
    exact slice_middle _ _ _ _ _ h k
  have m : responseSigned respS goodResp = sigMsg := by
    rw [responseSigned, s1, ← sig_message]
    congr 1
  have d : (devCert.serial == some (field goodResp 0 8) && field goodResp 0 8 == (helloId (peerAt respS 543).hello).1) = true := by decide +kernel
  simp only [responseVerifies, r, c, chain_verifies, m, s2, test_response_signature, n, l, q, p, Bool.true_and, Bool.and_true]
  exact d

/-- The vector for P-256 and SHA-256 of RFC 6979, A.2.5, message "sample". -/
theorem test_ecdsa_rfc6979 : ecdsaValid (beBytes 64 0x60FED4BA255A9D31C961EB74C6356D68C049B8923B61FA6CE669622E60F29FB67903FE1008B8BC99A41AE9E95628BC64F2F1B20C2D7E9F5177A3C294D4462299)
    [0x73, 0x61, 0x6D, 0x70, 0x6C, 0x65] (beBytes 64 0xEFD48B2AACB6A8FD1140DD9CD45E81D69D2C877B56AAF991C34D0EA84EAF3716F7CB1C942D657C41D436C7A1B6E29F65F3E900DBB9AFF4064DC4AB2F843ACDA8) = true := by
  decide +kernel

/-- States and operands that meet the hypotheses of `PeerDiscovery`, clause by clause. -/
theorem witness_PeerDiscovery :
    (discovers fS = true
      ∧ (activePos fS 15 0 33).isSome = true
      ∧ linkMute fS 15 33 = false)
    ∧ (activePos fS 15 0 32 = none ∨ linkMute fS 15 32 = true)
    ∧ (Message (hr { : Peer } 1 (zeros 95)) 1 (frm 1 (zeros 95)) []
      ∧ helloOk (List.drop 8 (frm 1 (zeros 95)).pkt.payload) = false)
    ∧ (Message (hr { st := 4 : Peer } 1 (hb 5 8191 ++ zeros 30)) 1 (frm 1 (hb 5 8191 ++ zeros 30)) []
      ∧ helloOk (List.drop 8 (frm 1 (hb 5 8191 ++ zeros 30)).pkt.payload) = true
      ∧ ((peerAt (hr { st := 4 : Peer } 1 (hb 5 8191 ++ zeros 30)) (frm 1 (hb 5 8191 ++ zeros 30)).link).st = 0 ∨ (peerAt (hr { st := 4 : Peer } 1 (hb 5 8191 ++ zeros 30)) (frm 1 (hb 5 8191 ++ zeros 30)).link).st = 4))
    ∧ (Message (hr { st := 3, hello := hb 5 40 ++ zeros 2 : Peer } 1 (hb 5 40 ++ zeros 30)) 1 (frm 1 (hb 5 40 ++ zeros 30)) []
      ∧ helloOk (List.drop 8 (frm 1 (hb 5 40 ++ zeros 30)).pkt.payload) = true
      ∧ ((peerAt (hr { st := 3, hello := hb 5 40 ++ zeros 2 : Peer } 1 (hb 5 40 ++ zeros 30)) (frm 1 (hb 5 40 ++ zeros 30)).link).st = 1 ∨ ((peerAt (hr { st := 3, hello := hb 5 40 ++ zeros 2 : Peer } 1 (hb 5 40 ++ zeros 30)) (frm 1 (hb 5 40 ++ zeros 30)).link).st = 2 ∨ (peerAt (hr { st := 3, hello := hb 5 40 ++ zeros 2 : Peer } 1 (hb 5 40 ++ zeros 30)) (frm 1 (hb 5 40 ++ zeros 30)).link).st = 3) ∧ helloId (List.drop 8 (frm 1 (hb 5 40 ++ zeros 30)).pkt.payload) = helloId (peerAt (hr { st := 3, hello := hb 5 40 ++ zeros 2 : Peer } 1 (hb 5 40 ++ zeros 30)) (frm 1 (hb 5 40 ++ zeros 30)).link).hello))
    ∧ (Message (hr { st := 2, hello := hb 6 40 ++ zeros 2 : Peer } 1 (hb 5 40 ++ zeros 30)) 1 (frm 1 (hb 5 40 ++ zeros 30)) []
      ∧ ((peerAt (hr { st := 2, hello := hb 6 40 ++ zeros 2 : Peer } 1 (hb 5 40 ++ zeros 30)) (frm 1 (hb 5 40 ++ zeros 30)).link).st = 2 ∨ (peerAt (hr { st := 2, hello := hb 6 40 ++ zeros 2 : Peer } 1 (hb 5 40 ++ zeros 30)) (frm 1 (hb 5 40 ++ zeros 30)).link).st = 3)
      ∧ helloId (List.drop 8 (frm 1 (hb 5 40 ++ zeros 30)).pkt.payload) ≠ helloId (peerAt (hr { st := 2, hello := hb 6 40 ++ zeros 2 : Peer } 1 (hb 5 40 ++ zeros 30)) (frm 1 (hb 5 40 ++ zeros 30)).link).hello)
    ∧ (discovers (hr { st := 1, helloAt := 5500000, notBefore := 7000000 : Peer } 1 []) = true
      ∧ (peerAt (hr { st := 1, helloAt := 5500000, notBefore := 7000000 : Peer } 1 []) (linkKey (hr { st := 1, helloAt := 5500000, notBefore := 7000000 : Peer } 1 []) 15 33)).st = 1
      ∧ (peerAt (hr { st := 1, helloAt := 5500000, notBefore := 7000000 : Peer } 1 []) (linkKey (hr { st := 1, helloAt := 5500000, notBefore := 7000000 : Peer } 1 []) 15 33)).notBefore ≤ (hr { st := 1, helloAt := 5500000, notBefore := 7000000 : Peer } 1 []).aon)
    ∧ (((peerAt (hr { st := 2, challengedAt := 2000000 : Peer } 1 []) (linkKey (hr { st := 2, challengedAt := 2000000 : Peer } 1 []) 15 33)).st ≠ 1 ∨ (hr { st := 2, challengedAt := 2000000 : Peer } 1 []).aon < (peerAt (hr { st := 2, challengedAt := 2000000 : Peer } 1 []) (linkKey (hr { st := 2, challengedAt := 2000000 : Peer } 1 []) 15 33)).notBefore))
    ∧ ((peerAt (hr { st := 2, challengedAt := 2000000 : Peer } 1 []) (linkKey (hr { st := 2, challengedAt := 2000000 : Peer } 1 []) 15 33)).st = 2
      ∧ (peerAt (hr { st := 2, challengedAt := 2000000 : Peer } 1 []) (linkKey (hr { st := 2, challengedAt := 2000000 : Peer } 1 []) 15 33)).challengedAt + 5000000 ≤ (hr { st := 2, challengedAt := 2000000 : Peer } 1 []).aon)
    ∧ ((peerAt (hr { st := 1, helloAt := 5500000, notBefore := 7000000 : Peer } 1 []) (linkKey (hr { st := 1, helloAt := 5500000, notBefore := 7000000 : Peer } 1 []) 15 33)).st ≠ 2)
    ∧ (1 ≤ (peerAt (hr { st := 2, challengedAt := 2000000 : Peer } 1 []) (linkKey (hr { st := 2, challengedAt := 2000000 : Peer } 1 []) 15 33)).st
      ∧ (peerAt (hr { st := 2, challengedAt := 2000000 : Peer } 1 []) (linkKey (hr { st := 2, challengedAt := 2000000 : Peer } 1 []) 15 33)).st ≤ 3
      ∧ (peerAt (hr { st := 2, challengedAt := 2000000 : Peer } 1 []) (linkKey (hr { st := 2, challengedAt := 2000000 : Peer } 1 []) 15 33)).helloAt + 1500000 ≤ (hr { st := 2, challengedAt := 2000000 : Peer } 1 []).aon)
    ∧ (((peerAt (hr { st := 1, helloAt := 5500001, notBefore := 7000001 : Peer } 1 []) (linkKey (hr { st := 1, helloAt := 5500001, notBefore := 7000001 : Peer } 1 []) 15 33)).st = 0 ∨ 4 ≤ (peerAt (hr { st := 1, helloAt := 5500001, notBefore := 7000001 : Peer } 1 []) (linkKey (hr { st := 1, helloAt := 5500001, notBefore := 7000001 : Peer } 1 []) 15 33)).st ∨ (hr { st := 1, helloAt := 5500001, notBefore := 7000001 : Peer } 1 []).aon < (peerAt (hr { st := 1, helloAt := 5500001, notBefore := 7000001 : Peer } 1 []) (linkKey (hr { st := 1, helloAt := 5500001, notBefore := 7000001 : Peer } 1 []) 15 33)).helloAt + 1500000))
    ∧ (Message (hr { : Peer } 2 (zeros 40)) 2 (frm 2 (zeros 40)) []
      ∧ 40 ≤ (List.drop 8 (frm 2 (zeros 40)).pkt.payload).length)
    ∧ (Message (hr { : Peer } 2 (zeros 39)) 2 (frm 2 (zeros 39)) []
      ∧ (List.drop 8 (frm 2 (zeros 39)).pkt.payload).length < 40)
    ∧ (Message (hr { st := 1 : Peer } 3 (zeros 127)) 3 (frm 3 (zeros 127)) []
      ∧ responseOk (List.drop 8 (frm 3 (zeros 127)).pkt.payload) = false)
    ∧ (Message (hr { st := 1, hello := hb 5 40 ++ zeros 2, nonce := 77 : Peer } 3 (rb 77)) 3 (frm 3 (rb 77)) []
      ∧ responseOk (List.drop 8 (frm 3 (rb 77)).pkt.payload) = true
      ∧ (peerAt (hr { st := 1, hello := hb 5 40 ++ zeros 2, nonce := 77 : Peer } 3 (rb 77)) (frm 3 (rb 77)).link).st ≠ 2)
    ∧ (Message respS 3 (frm 3 goodResp) []
      ∧ responseOk (List.drop 8 (frm 3 goodResp).pkt.payload) = true
      ∧ (peerAt respS (frm 3 goodResp).link).st = 2) := by
  and_intros <;> first
    | decide +kernel
    | (constructor <;> decide +kernel)

/-- States and operands that meet the hypotheses of `MarginsAndBias`, clause by clause. -/
theorem witness_MarginsAndBias :
    (Message (mS (frm 32 (mq 7 3)) none) 32 (frm 32 (mq 7 3)) []
      ∧ marginReqOk (List.drop 8 (frm 32 (mq 7 3)).pkt.payload) = false)
    ∧ (Message (mS caseMB1d none) 32 caseMB1d []
      ∧ marginReqOk (List.drop 8 caseMB1d.pkt.payload) = true
      ∧ lanePeer (mS caseMB1d none) (caseMB1d.link / 34) 1 (field (List.drop 8 caseMB1d.pkt.payload) 5 1) = none)
    ∧ (marginReqOk (List.drop 8 (frm 32 (mq 7 1)).pkt.payload) = true
      ∧ lanePeer (mS (frm 32 (mq 7 1)) none) ((frm 32 (mq 7 1)).link / 34) 1 (field (List.drop 8 (frm 32 (mq 7 1)).pkt.payload) 5 1) = some (40, 3)
      ∧ field (List.drop 8 (frm 32 (mq 7 1)).pkt.payload) 6 1 = 1
      ∧ planUses (mS (frm 32 (mq 7 1)) none) ((frm 32 (mq 7 1)).link / 34) (field (List.drop 8 (frm 32 (mq 7 1)).pkt.payload) 5 1) = false)
    ∧ (lanePeer usedS ((frm 32 (mq 7 1)).link / 34) 1 (field (List.drop 8 (frm 32 (mq 7 1)).pkt.payload) 5 1) = some (40, 3)
      ∧ planUses usedS ((frm 32 (mq 7 1)).link / 34) (field (List.drop 8 (frm 32 (mq 7 1)).pkt.payload) 5 1) = true)
    ∧ (rxTestOf (mS (frm 32 (mq 7 2)) (some rxT)) (34 * ((frm 32 (mq 7 2)).link / 34) + field (List.drop 8 (frm 32 (mq 7 2)).pkt.payload) 5 1) = some rxT
      ∧ rxT.req = field (List.drop 8 (frm 32 (mq 7 2)).pkt.payload) 0 4
      ∧ rxT.told = true)
    ∧ (rxTestOf (mS (frm 32 (mq 8 2)) (some rxT)) (34 * ((frm 32 (mq 8 2)).link / 34) + field (List.drop 8 (frm 32 (mq 8 2)).pkt.payload) 5 1) = some rxT
      ∧ (rxT.req ≠ field (List.drop 8 (frm 32 (mq 8 2)).pkt.payload) 0 4 ∨ rxT.told = false))
    ∧ (rxTestOf (mS (frm 32 (mq 7 1)) none) (34 * 15 + 33) = none)
    ∧ (rxTestOf (mS (frm 32 (mq 7 1)) (some caseMB2b)) (34 * 15 + 33) = some caseMB2b
      ∧ caseMB2b.counting = true)
    ∧ (rxTestOf (mS (frm 32 (mq 7 1)) (some caseMB2c)) (34 * 15 + 33) = some caseMB2c
      ∧ caseMB2c.counting = false
      ∧ caseMB2c.told = false)
    ∧ (Message (tS' (mr 2 7) caseMB3d) 33 (frm 33 (mr 2 7)) []
      ∧ marginResultOk (List.drop 8 (frm 33 (mr 2 7)).pkt.payload) = true
      ∧ txTestOf (tS' (mr 2 7) caseMB3d) (34 * field (List.drop 8 (frm 33 (mr 2 7)).pkt.payload) 4 1 + field (List.drop 8 (frm 33 (mr 2 7)).pkt.payload) 5 1) = some caseMB3d
      ∧ caseMB3d.req ≠ field (List.drop 8 (frm 33 (mr 2 7)).pkt.payload) 0 4)
    ∧ (Message (tS' (mr 1 0) txT) 33 (frm 33 (mr 1 0)) []
      ∧ marginResultOk (List.drop 8 (frm 33 (mr 1 0)).pkt.payload) = true
      ∧ txTestOf (tS' (mr 1 0) txT) (34 * field (List.drop 8 (frm 33 (mr 1 0)).pkt.payload) 4 1 + field (List.drop 8 (frm 33 (mr 1 0)).pkt.payload) 5 1) = some txT
      ∧ txT.req = field (List.drop 8 (frm 33 (mr 1 0)).pkt.payload) 0 4
      ∧ field (List.drop 8 (frm 33 (mr 1 0)).pkt.payload) 6 1 = 1
      ∧ txT.reduced = false)
    ∧ (Message (tS' (mr 2 15) txT) 33 (frm 33 (mr 2 15)) []
      ∧ marginResultOk (List.drop 8 (frm 33 (mr 2 15)).pkt.payload) = true
      ∧ txTestOf (tS' (mr 2 15) txT) (34 * field (List.drop 8 (frm 33 (mr 2 15)).pkt.payload) 4 1 + field (List.drop 8 (frm 33 (mr 2 15)).pkt.payload) 5 1) = some txT
      ∧ txT.req = field (List.drop 8 (frm 33 (mr 2 15)).pkt.payload) 0 4
      ∧ field (List.drop 8 (frm 33 (mr 2 15)).pkt.payload) 6 1 = 2
      ∧ bit (field (List.drop 8 (frm 33 (mr 2 15)).pkt.payload) 7 1) 3 = true)
    ∧ (Message (tS' (mr 2 7) txT) 33 (frm 33 (mr 2 7)) []
      ∧ txTestOf (tS' (mr 2 7) txT) (34 * field (List.drop 8 (frm 33 (mr 2 7)).pkt.payload) 4 1 + field (List.drop 8 (frm 33 (mr 2 7)).pkt.payload) 5 1) = some txT
      ∧ txT.req = field (List.drop 8 (frm 33 (mr 2 7)).pkt.payload) 0 4
      ∧ field (List.drop 8 (frm 33 (mr 2 7)).pkt.payload) 6 1 = 2
      ∧ bit (field (List.drop 8 (frm 33 (mr 2 7)).pkt.payload) 7 1) 3 = false)
    ∧ (txTestOf (tS' [] txT) (34 * 15 + 33) = some txT
      ∧ txT.start + 2500000 ≤ (tS' [] txT).aon)
    ∧ (txTestOf caseMB4b (34 * 15 + 33) = some txT
      ∧ caseMB4b.aon < txT.start + 2500000)
    ∧ (33 < 34
      ∧ (tS' [] txT).job.loading = none)
    ∧ (activePos fS 15 1 33 = some 1087
      ∧ (posAt fS 1087).service = true
      ∧ (posAt fS 1087).peer = some (40, 3)
      ∧ (↑(calOf fS 1087).biasThr ≤ (-50 : ℤ) + (80 : ℤ) ∨ (posAt fS 1087).lowMs + 1 < 64))
    ∧ (activePos (lowS 63 (some 0)) 15 1 33 = some 1087
      ∧ (posAt (lowS 63 (some 0)) 1087).service = true
      ∧ (posAt (lowS 63 (some 0)) 1087).peer = some (40, 3)
      ∧ (-51 : ℤ) + (80 : ℤ) < ↑(calOf (lowS 63 (some 0)) 1087).biasThr
      ∧ 63 ≤ (posAt (lowS 63 (some 0)) 1087).lowMs
      ∧ (∀ (t : ℕ), (posAt (lowS 63 (some 0)) 1087).need = some t → t + 50000000 ≤ (lowS 63 (some 0)).aon))
    ∧ (Message (bS (bn 15)) 34 (frm 34 (bn 15)) []
      ∧ biasNeedOk (List.drop 8 (frm 34 (bn 15)).pkt.payload) = true
      ∧ stepAllowed (bS (bn 15)) (field (List.drop 8 (frm 34 (bn 15)).pkt.payload) 2 1 / 2) (field (List.drop 8 (frm 34 (bn 15)).pkt.payload) 3 1) false = true)
    ∧ (stepAllowed (bS (bn 15)) (field (List.drop 8 (frm 34 (bn 15)).pkt.payload) 2 1 / 2) (field (List.drop 8 (frm 34 (bn 15)).pkt.payload) 3 1) true = false)
    ∧ (Message (bS (bn 16)) 34 (frm 34 (bn 16)) []
      ∧ biasNeedOk (List.drop 8 (frm 34 (bn 16)).pkt.payload) = false) := by
  and_intros <;> first | decide +kernel | (constructor <;> decide +kernel)

/-- Every position of port 15 has been dark for 1 s. -/
theorem port15_dark : ∀ k < 1088, k / 68 = 15 → (posAt caseOE15 k).st = PosState.dark ∧ (posAt caseOE15 k).since + 50000000 ≤ caseOE15.aon := by
  decide +kernel

/-- States and operands that meet the hypotheses of `OpticalEngines`, clause by clause. -/
theorem witness_OpticalEngines :
    ((eS 2 []).dev ≠ Dev.off)
    ∧ (100 < (-101 : ℤ).natAbs
      ∧ loopRuns (posAt (at1 pT (lane PosState.active)) (posKey pT)) = true)
    ∧ (((-100 : ℤ).natAbs ≤ 100 ∨ loopRuns (posAt (at1 pT (lane PosState.active)) (posKey pT)) = false))
    ∧ (((posAt (at1 pT (lane PosState.search)) (posKey pT)).st = PosState.search ∨ (posAt (at1 pT (lane PosState.search)) (posKey pT)).st = PosState.unlocked))
    ∧ ((posAt (at1 pT (lane PosState.plumb)) (posKey pT)).st = PosState.plumb
      ∧ plumbPasses (posAt (at1 pT (lane PosState.plumb)) (posKey pT)).line [{ line := (33 : Fin 34), depth := 50, level := (0 : ℤ) : TagMeas }, { line := (32 : Fin 34), depth := 50, level := (-100 : ℤ) : TagMeas }] = true)
    ∧ ((posAt (at1 pT (lane PosState.mislocked)) (posKey pT)).st = PosState.mislocked)
    ∧ ((posAt (at1 pR (lane PosState.train)) (posKey pR)).st = PosState.train
      ∧ ((trn true (33 : Fin 34)).completed = true ∧ ↑(trn true (33 : Fin 34)).line = (posAt (at1 pR (lane PosState.train)) (posKey pR)).line))
    ∧ ((¬((trn true (32 : Fin 34)).completed = true ∧ ↑(trn true (32 : Fin 34)).line = (posAt (at1 pR (lane PosState.train)) (posKey pR)).line)))
    ∧ ((posAt (at1 pR (lane PosState.standby)) (posKey pR)).st = PosState.standby
      ∧ pR.dir = Dir.rx
      ∧ ((trn true (33 : Fin 34)).completed = true ∧ ↑(trn true (33 : Fin 34)).line = (posAt (at1 pR (lane PosState.standby)) (posKey pR)).line))
    ∧ (({ completed := true, device := (41 : BitVec 13), port := (3 : Fin 16), line := (33 : Fin 34), lane := (33 : Fin 34) : Training }.completed = true ∧ ↑{ completed := true, device := (41 : BitVec 13), port := (3 : Fin 16), line := (33 : Fin 34), lane := (33 : Fin 34) : Training }.line = (posAt (at1 pR (lane PosState.standby)) (posKey pR)).line)
      ∧ substituteLane (at1 pR (lane PosState.standby)) (posKey pR) { completed := true, device := (41 : BitVec 13), port := (3 : Fin 16), line := (33 : Fin 34), lane := (33 : Fin 34) : Training } = none)
    ∧ ((posAt (at1 pT (lane PosState.train)) (68 * 15 + 33)).st = PosState.train)
    ∧ ((posAt (at1 pT (lane PosState.active)) (posKey pT)).st = PosState.active
      ∧ 64 < 65)
    ∧ ((posAt (at1 pT caseOE9b) (posKey pT)).st = PosState.active
      ∧ 64 ≤ 64)
    ∧ ((posAt (at1 pT (lane PosState.active)) (posKey pT)).since + 3000000000 ≤ (at1 pT (lane PosState.active)).aon)
    ∧ ((at1 pT caseOE9b).aon < (posAt (at1 pT caseOE9b) (posKey pT)).since + 3000000000)
    ∧ ((posAt (at1 pT caseOE10) 1053).fails < 2)
    ∧ (2 ≤ (posAt (at1 pT caseOE10b) 1053).fails)
    ∧ ((posAt (at1 pT (lane PosState.dark)) (posKey pT)).st = PosState.dark
      ∧ (pT.dir = Dir.rx ∨ (combOf (at1 pT (lane PosState.dark)) (↑pT.port / 2) (posAt (at1 pT (lane PosState.dark)) (posKey pT)).line).lost = false))
    ∧ ((posAt caseOE11b (posKey pT)).st = PosState.dark
      ∧ pT.dir = Dir.tx
      ∧ (combOf caseOE11b (↑pT.port / 2) (posAt caseOE11b (posKey pT)).line).lost = true)
    ∧ ((engineOf (eS 0 []) 7).st = 0
      ∧ regionUp (eS 0 []) (7 / 2) = true
      ∧ (eS 0 []).dev = Dev.ready)
    ∧ ((engineOf (eS 1 []) 7).st ≠ 0)
    ∧ (engineUp (eS 2 []) 7 = true
      ∧ (((eS 2 []).oe.bank.get { : Bank } (2 * 7 + if true = true then 1 else 0)).refreshed = none))
    ∧ ((caseOE14.dev = Dev.bivouac ∨ caseOE14.dev = Dev.ready ∧ caseOE14.oe.idleSince + 5000000 ≤ caseOE14.aon))
    ∧ (caseOE14b.dev = Dev.ready
      ∧ caseOE14b.aon < caseOE14b.oe.idleSince + 5000000)
    ∧ ((∀ (k : ℕ), k / 68 = 15 → (posAt caseOE15 k).st = PosState.dark ∧ (posAt caseOE15 k).since + 50000000 ≤ caseOE15.aon)) := by
  and_intros <;> first | decide +kernel | exact fun k hk => port15_dark k (by omega) hk

/-- The clauses of `OpticalEngines` on a plumb check that fails, a spare that a lane has moved to, a refresh too early, and a port that does not restart. -/
theorem witness_OpticalEngines_more :
    ((posAt (at1 pT (lane .plumb)) (posKey pT)).st = .plumb
      ∧ plumbPasses (posAt (at1 pT (lane .plumb)) (posKey pT)).line [{ line := 32, depth := 50, level := -100 }] = false
      ∧ strongest [{ line := 32, depth := 50, level := -100 }] = some 32)
    ∧ (substituteLane (at1 pR (lane .standby)) (posKey pR) { completed := true, device := 41, port := 3, line := 33, lane := 1 } = some 1)
    ∧ (engineUp refreshedS 7 = true
      ∧ (refreshedS.oe.bank.get {} (2 * 7 + 1)).refreshed = some 5
      ∧ refreshedS.aon < 5 + 50000000)
    ∧ (1021 / 68 = 15
      ∧ ((posAt lateS 1021).st ≠ .dark ∨ lateS.aon < (posAt lateS 1021).since + 50000000)) := by
  and_intros <;> first
    | decide +kernel
    | (constructor <;> decide +kernel)

/-- States and operands that meet the hypotheses of `DieRing`, clause by clause. -/
theorem witness_DieRing :
    (((dS { : D2dDir }).ring.down.get false 3 = true ∨ (d2dDir (dS { : D2dDir }) (dirKey (3) Turn.ccw)).silent = true ∨ List.filter (fun (x : ℕ) => !(d2dDir (dS { : D2dDir }) (dirKey (3) Turn.ccw)).failed.contains x) (List.map (fun (x : Fin 272) => ↑x) []) = []))
    ∧ ((dS { failed := List.map (fun (x : ℕ) => x + 100) (List.range 13) : D2dDir }).ring.down.get false 3 = false
      ∧ (d2dDir (dS { failed := List.map (fun (x : ℕ) => x + 100) (List.range 13) : D2dDir }) (dirKey (3) Turn.ccw)).silent = false
      ∧ List.filter (fun (x : ℕ) => !(d2dDir (dS { failed := List.map (fun (x : ℕ) => x + 100) (List.range 13) : D2dDir }) (dirKey (3) Turn.ccw)).failed.contains x) (List.map (fun (x : Fin 272) => ↑x) [(271 : Fin 272), (0 : Fin 272)]) ≠ []
      ∧ (addLanes (List.filter (fun (x : ℕ) => !(d2dDir (dS { failed := List.map (fun (x : ℕ) => x + 100) (List.range 13) : D2dDir }) (dirKey (3) Turn.ccw)).failed.contains x) (List.map (fun (x : Fin 272) => ↑x) [(271 : Fin 272), (0 : Fin 272)])) (d2dDir (dS { failed := List.map (fun (x : ℕ) => x + 100) (List.range 13) : D2dDir }) (dirKey (3) Turn.ccw)).failed).length < 16)
    ∧ ((d2dDir (dS { failed := List.range 17, fresh := [16], retraining := true : D2dDir }) (dirKey (3) Turn.ccw)).retraining = true)
    ∧ ((d2dDir (dS { : D2dDir }) (dirKey (3) Turn.ccw)).retraining = false)
    ∧ ((dS { rxNext := 5 : D2dDir }).ring.down.get false 3 = false
      ∧ (d2dDir (dS { rxNext := 5 : D2dDir }) (dirKey (3) Turn.ccw)).silent = false
      ∧ (d2dDir (dS { rxNext := 5 : D2dDir }) (dirKey (3) Turn.ccw)).retraining = false)
    ∧ ((caseDR5n.ring.down.get false 3 = true ∨ (d2dDir caseDR5n (dirKey (3) Turn.ccw)).silent = true ∨ (d2dDir caseDR5n (dirKey (3) Turn.ccw)).retraining = true))
    ∧ (true = true
      ∧ 5 = { txNew := 9, txNext := 9, rxNext := 5, asked := some 5 : D2dDir }.rxNext)
    ∧ (4 < { txNew := 9, txNext := 9, rxNext := 5, asked := some 5 : D2dDir }.rxNext)
    ∧ ((true = false ∨ { txNew := 9, txNext := 9, rxNext := 5, asked := some 5 : D2dDir }.rxNext < 6))
    ∧ ((false = false ∨ { txNew := 9, txNext := 9, rxNext := 5, asked := some 5 : D2dDir }.asked = none))
    ∧ ((dS { : D2dDir }).ring.down.get false 3 = false
      ∧ linkSilent (dS { : D2dDir }) 3 = false)
    ∧ ((dS { silent := true : D2dDir }).ring.down.get false 3 = false
      ∧ linkSilent (dS { silent := true : D2dDir }) 3 = true
      ∧ regionUp (dS { silent := true : D2dDir }) 3 = true
      ∧ regionUp (dS { silent := true : D2dDir }) ((3 + 1) % 4) = true)
    ∧ (caseDR6c.ring.down.get false 3 = false
      ∧ linkSilent caseDR6c 3 = true
      ∧ (regionUp caseDR6c 3 = false ∨ regionUp caseDR6c ((3 + 1) % 4) = false))
    ∧ (caseDR7.ring.down.get false 3 = true)
    ∧ (regionUp caseDR8 3 = true
      ∧ (neighbour (7) MeshSide.south).isSome = true)
    ∧ ((regionUp caseDR8 3 = false ∨ neighbour (7) MeshSide.north = none))
    ∧ ((0 : Fin 64) ≠ (63 : Fin 64))
    ∧ ((∃ e ∈ caseDR8.ring.meshFails, e.1 % 4 = 3 ∧ 9 ≤ e.2))
    ∧ (regionUp caseDR8b 3 = true
      ∧ (∀ e ∈ caseDR8b.ring.meshFails, e.1 % 4 = 3 → e.2 < 9)) := by
  and_intros <;> first | decide +kernel

theorem crc_half : (zeros 128).foldl (fun c b => crcByte 8 (c ^^^ b.toNat)) 0xFFFFFFFF = 1029113186 := by decide +kernel
theorem crc_rest : (zeros 128).foldl (fun c b => crcByte 8 (c ^^^ b.toNat)) 1029113186 = 4066998951 := by decide +kernel

/-- CRC-32 of an idle flit. -/
theorem test_crc_idle : crc32 (zeros 256) = 227968344 := by
  rw [crc32, show zeros 256 = zeros 128 ++ zeros 128 from by decide +kernel, List.foldl_append, crc_half, crc_rest]
  decide +kernel

theorem idle_flit : d2dFlit [] = zeros 256 ++ leBytes 4 227968344 := by
  rw [d2dFlit, show padTo 256 [] = zeros 256 from by decide +kernel, test_crc_idle]

/-- The flit of `witness_DieRing_more` that arrives undamaged. -/
theorem witness_DieRing_good : d2dGood (damaged (d2dFlit []) []) = true := by
  rw [idle_flit, show damaged (zeros 256 ++ leBytes 4 227968344) [] = zeros 256 ++ leBytes 4 227968344 from by decide +kernel, d2dGood,
    show slice (zeros 256 ++ leBytes 4 227968344) 0 256 = zeros 256 from by decide +kernel, test_crc_idle]
  decide +kernel

/-- The clauses of `DieRing` on what a flit carries and on the flits that the sender keeps. -/
theorem witness_DieRing_more :
    (D2dDir.again keptD 5 = some [5])
    ∧ (D2dDir.again keptD 6 = none ∧ nextCrossing (dS keptD) 7 = none)
    ∧ (D2dDir.again {} 0 = none ∧ nextCrossing crossS 7 = some aCross)
    ∧ (hopUnits aCross.held ≤ 1 + aCross.sent + 1 ∧ aCross.held.units = 0)
    ∧ (wireS.fab.wire = [(7, 0, aCross)])
    ∧ (keptD.asked = some 5 ∧ keptD.kept.length ≤ 128 ∧ keptD.kept.length ≤ keptD.txNew ∧ keptD.txNew < 5 + 128)
    ∧ ((sendD2d 7 0 [] (dS {})).1 = [] ∧ D2dDir.sends {} false = (d2dDir (dS {}) 7).rxNext)
    ∧ (D2dDir.sends keptD false ≠ (d2dDir (dS keptD) 7).rxNext)
    ∧ ((zeros 256).length = 256)
    ∧ (regionRuns caseDR8 3 = true ∧ (neighbour 7 .south).isSome = true) := by
  and_intros <;> first
    | decide +kernel
    | (constructor <;> decide +kernel)

/-- States and operands that meet the hypotheses of `HbmLines`, clause by clause. -/
theorem witness_HbmLines :
    (hbmRuns wcS 3 = true
      ∧ physLine wcS (3) lastOff.toNat = some hLine
      ∧ chanFailed wcS (lineChannel hLine) = false
      ∧ BufferSound wcS (lineChannel hLine)
      ∧ wcS.hbm.meet = []
      ∧ (wcS.hbm.bad.get 0 hLine = 0 ∨ (6 : W64) = BitVec.allOnes 64))
    ∧ (hbmRuns fS 3 = true
      ∧ physLine fS (3) (BitVec.ofNat 38 (2000 * 2 ^ 21)).toNat = none)
    ∧ (wcS.hbm.bad.get 0 hLine = 0
      ∧ wcS.hbm.poison.get false hLine = false)
    ∧ (hbmRuns caseH4 3 = false)
    ∧ (hbmRuns caseH5 (255 / 64) = true
      ∧ chanFailed caseH5 255 = false
      ∧ caseH5.hbm.chanMapout.get false 255 = false
      ∧ caseH5.hbm.bad.get 0 (255 / 64 * 2 ^ 31 + 255 % 64 * 2 ^ 25 + caseH5.hbm.scrub.get 0 255) = 0)
    ∧ (badScrub.hbm.bad.get 0 (255 / 64 * 2 ^ 31 + 255 % 64 * 2 ^ 25 + badScrub.hbm.scrub.get 0 255) = 3 + 1)
    ∧ (hbmRuns fS (255 / 64) = true)
    ∧ (chanFailed fS 255 = false)
    ∧ (hbmRuns caseH6b (255 / 64) = true
      ∧ chanFailed caseH6b 255 = true)
    ∧ (caseH7.hbm.lostAt.get 0 255 ≠ 0
      ∧ caseH7.hbm.lostAt.get 0 255 + 4999 ≤ caseH7.aon)
    ∧ ((caseH7b.hbm.lostAt.get 0 255 = 0 ∨ caseH7b.aon < caseH7b.hbm.lostAt.get 0 255 + 4999))
    ∧ (chanFailed wcS 255 = false
      ∧ wcS.hbm.chanMapout.get false 255 = false)
    ∧ ((caseH9.dev = Dev.boot ∨ caseH9.dev = Dev.ready)
      ∧ regionUp caseH9 (255 / 64) = true) := by
  and_intros <;> first | decide +kernel | (constructor <;> decide +kernel)

/-- The clauses of `HbmLines` on discarded writes, entries that leave the buffer, reads that meet errors and lines that a repair keeps. -/
theorem witness_HbmLines_more :
    (hbmRuns deadCh 3 = true
      ∧ physLine deadCh 3 lastOff.toNat = some hLine
      ∧ chanFailed deadCh (lineChannel hLine) = true)
    ∧ (chanFailed wcS (lineChannel hLine) = false
      ∧ (1 : Nat) ≠ fullMask
      ∧ wcS.hbm.meet = []
      ∧ wcS.hbm.poison.get false hLine = false
      ∧ wcS.hbm.bad.get 0 hLine = 0)
    ∧ ((poisS.hbm.poison.get false hLine = true ∨ poisS.hbm.bad.get 0 hLine ≠ 0)
      ∧ chanFailed poisS (lineChannel hLine) = false
      ∧ poisS.hbm.meet = [])
    ∧ (hbmRuns fS 3 = true
      ∧ physLine fS 3 lastOff.toNat = some hLine
      ∧ chanFailed fS (lineChannel hLine) = false
      ∧ fS.hbm.bad.get 0 hLine = 0
      ∧ fS.hbm.poison.get false hLine = false)
    ∧ (let line := fun l => 255 / 64 * 2 ^ 31 + 255 % 64 * 2 ^ 25 + l % 2 ^ 25
      (wcS.dev = Dev.boot ∨ wcS.dev = Dev.ready)
      ∧ regionUp wcS (255 / 64) = true
      ∧ line hLine = hLine
      ∧ wcS.hbm.bad.get 0 (line hLine) = 0
      ∧ wcS.hbm.poison.get false (line hLine) = false
      ∧ ∀ x ∈ [hLine + 1], line x ≠ line hLine) := by
  and_intros <;> first
    | decide +kernel
    | (constructor <;> decide +kernel)

/-- States and operands that meet the hypotheses of `Membership`, clause by clause. -/
theorem witness_Membership :
    (discovers renewing = true
      ∧ renewing.mem.renewAt ≤ renewing.aon)
    ∧ (discovers notYet = true
      ∧ notYet.aon < notYet.mem.renewAt)
    ∧ (renewing.mem.lstate = 1
      ∧ renewing.mem.expiry ≤ renewing.aon)
    ∧ ((notYet.mem.lstate ≠ 1 ∨ notYet.aon < notYet.mem.expiry))
    ∧ (Message (gS (gr 8 0 20) lse) 49 (frm 49 (gr 8 0 20)) []
      ∧ grantOk (List.drop 8 (frm 49 (gr 8 0 20)).pkt.payload) = false)
    ∧ (Message (gS (gr 8 5 20) lse) 49 (frm 49 (gr 8 5 20)) []
      ∧ grantOk (List.drop 8 (frm 49 (gr 8 5 20)).pkt.payload) = true
      ∧ (∀ r ∈ (gS (gr 8 5 20) lse).mem.renewals, r.1 ≠ field (List.drop 8 (frm 49 (gr 8 5 20)).pkt.payload) 0 4))
    ∧ (grantOk (List.drop 8 (frm 49 (gr 7 6 2001)).pkt.payload) = true
      ∧ List.find? (fun (r : ℕ × ℕ) => r.1 == field (List.drop 8 (frm 49 (gr 7 6 2001)).pkt.payload) 0 4) (gS (gr 7 6 2001) lse).mem.renewals = some (7, 50)
      ∧ (field (List.drop 8 (frm 49 (gr 7 6 2001)).pkt.payload) 8 2 < 20 ∨ 2000 < field (List.drop 8 (frm 49 (gr 7 6 2001)).pkt.payload) 8 2 ∨ grantStale (gS (gr 7 6 2001) lse) (field (List.drop 8 (frm 49 (gr 7 6 2001)).pkt.payload) 4 4) = true))
    ∧ (grantOk (List.drop 8 (frm 49 (gr 7 6 2000)).pkt.payload) = true
      ∧ List.find? (fun (r : ℕ × ℕ) => r.1 == field (List.drop 8 (frm 49 (gr 7 6 2000)).pkt.payload) 0 4) (gS (gr 7 6 2000) lse).mem.renewals = some (7, 50)
      ∧ 20 ≤ field (List.drop 8 (frm 49 (gr 7 6 2000)).pkt.payload) 8 2
      ∧ field (List.drop 8 (frm 49 (gr 7 6 2000)).pkt.payload) 8 2 ≤ 2000
      ∧ grantStale (gS (gr 7 6 2000) lse) (field (List.drop 8 (frm 49 (gr 7 6 2000)).pkt.payload) 4 4) = false
      ∧ field (List.drop 8 (frm 49 (gr 7 6 2000)).pkt.payload) 4 4 ≠ (gS (gr 7 6 2000) lse).mem.lease)
    ∧ (grantOk (List.drop 8 (frm 49 (gr 7 5 20)).pkt.payload) = true
      ∧ List.find? (fun (r : ℕ × ℕ) => r.1 == field (List.drop 8 (frm 49 (gr 7 5 20)).pkt.payload) 0 4) (gS (gr 7 5 20) lse).mem.renewals = some (7, 50)
      ∧ 20 ≤ field (List.drop 8 (frm 49 (gr 7 5 20)).pkt.payload) 8 2
      ∧ field (List.drop 8 (frm 49 (gr 7 5 20)).pkt.payload) 8 2 ≤ 2000
      ∧ grantStale (gS (gr 7 5 20) lse) (field (List.drop 8 (frm 49 (gr 7 5 20)).pkt.payload) 4 4) = false
      ∧ field (List.drop 8 (frm 49 (gr 7 5 20)).pkt.payload) 4 4 = (gS (gr 7 5 20) lse).mem.lease
      ∧ (gS (gr 7 5 20) lse).mem.lstate = 1)
    ∧ (caseM3.dev = Dev.fenced)
    ∧ (fS.dev ≠ Dev.fenced
      ∧ fS.dev ≠ Dev.bivouac)
    ∧ (Message (nS (nt 0 7 0 5) fnc) 50 (frm 50 (nt 0 7 0 5)) []
      ∧ noticeOk (List.drop 8 (frm 50 (nt 0 7 0 5)).pkt.payload) = false)
    ∧ (Message (nS (nt 6 8191 0 0) fnc) 50 (frm 50 (nt 6 8191 0 0)) []
      ∧ noticeOk (List.drop 8 (frm 50 (nt 6 8191 0 0)).pkt.payload) = true
      ∧ (nS (nt 6 8191 0 0) fnc).fab.number ≠ some (field (List.drop 8 (frm 50 (nt 6 8191 0 0)).pkt.payload) 4 2)
      ∧ field (List.drop 8 (frm 50 (nt 6 8191 0 0)).pkt.payload) 0 4 ≤ ((nS (nt 6 8191 0 0) fnc).mem.fence.get { : Fenced } (field (List.drop 8 (frm 50 (nt 6 8191 0 0)).pkt.payload) 4 2)).epoch)
    ∧ (Message (nS (nt 7 0 0 0) fnc) 50 (frm 50 (nt 7 0 0 0)) []
      ∧ noticeOk (List.drop 8 (frm 50 (nt 7 0 0 0)).pkt.payload) = true
      ∧ (nS (nt 7 0 0 0) fnc).fab.number ≠ some (field (List.drop 8 (frm 50 (nt 7 0 0 0)).pkt.payload) 4 2)
      ∧ ((nS (nt 7 0 0 0) fnc).mem.fence.get { : Fenced } (field (List.drop 8 (frm 50 (nt 7 0 0 0)).pkt.payload) 4 2)).epoch < field (List.drop 8 (frm 50 (nt 7 0 0 0)).pkt.payload) 0 4)
    ∧ (Message (nS (nt 7 7 0 4) fnc) 50 (frm 50 (nt 7 7 0 4)) []
      ∧ noticeOk (List.drop 8 (frm 50 (nt 7 7 0 4)).pkt.payload) = true
      ∧ (nS (nt 7 7 0 4) fnc).fab.number = some (field (List.drop 8 (frm 50 (nt 7 7 0 4)).pkt.payload) 4 2)
      ∧ (bit (field (List.drop 8 (frm 50 (nt 7 7 0 4)).pkt.payload) 6 1) 0 = true ∨ field (List.drop 8 (frm 50 (nt 7 7 0 4)).pkt.payload) 8 4 < (nS (nt 7 7 0 4) fnc).mem.lease))
    ∧ (Message (nS (nt 7 7 0 5) fnc) 50 (frm 50 (nt 7 7 0 5)) []
      ∧ noticeOk (List.drop 8 (frm 50 (nt 7 7 0 5)).pkt.payload) = true
      ∧ (nS (nt 7 7 0 5) fnc).fab.number = some (field (List.drop 8 (frm 50 (nt 7 7 0 5)).pkt.payload) 4 2)
      ∧ bit (field (List.drop 8 (frm 50 (nt 7 7 0 5)).pkt.payload) 6 1) 0 = false
      ∧ (nS (nt 7 7 0 5) fnc).mem.lease ≤ field (List.drop 8 (frm 50 (nt 7 7 0 5)).pkt.payload) 8 4
      ∧ (nS (nt 7 7 0 5) fnc).mem.lstate ≠ 3)
    ∧ (discovers fS = true)
    ∧ (caseM5c.dev = Dev.fault)
    ∧ (Message (bdS [] 41) 53 caseM6c []
      ∧ (bdS [] 41).mem.shadow = some (shd [])
      ∧ bsDigestOk (List.drop 8 caseM6c.pkt.payload) = false)
    ∧ (Message (bdS bd 41) 53 caseM6b []
      ∧ (bdS bd 41).mem.shadow = some (shd [])
      ∧ bsDigestOk (List.drop 8 caseM6b.pkt.payload) = true
      ∧ caseM6b.pkt.src ≠ (shd []).partner)
    ∧ (Message (bdS bd 40) 53 caseM6 []
      ∧ (bdS bd 40).mem.shadow = some (shd [])
      ∧ bsDigestOk (List.drop 8 caseM6.pkt.payload) = true
      ∧ caseM6.pkt.src = (shd []).partner
      ∧ (bdS bd 40).job.run = none)
    ∧ ((tcS (shd []) tp).mem.shadow = some (shd [])
      ∧ teeLane (tcS (shd []) tp) 15 33 = true
      ∧ nextInStream ((fabLink (tcS (shd []) tp) (linkKey (tcS (shd []) tp) 15 33)).stream.length + 1) (fabLink (tcS (shd []) tp) (linkKey (tcS (shd []) tp) 15 33)).stream = ([], some tp.bytes)
      ∧ linkLocal (parsePacket tp.bytes) = false
      ∧ headerOk tp.bytes = true
      ∧ (peerAt (tcS (shd []) tp) (linkKey (tcS (shd []) tp) 15 33)).st = 3
      ∧ (shd []).used + (parsePacket tp.bytes).size ≤ (shd []).logLen)
    ∧ ((tcS caseM7b tp).mem.shadow = some caseM7b
      ∧ teeLane (tcS caseM7b tp) 15 33 = true
      ∧ nextInStream ((fabLink (tcS caseM7b tp) (linkKey (tcS caseM7b tp) 15 33)).stream.length + 1) (fabLink (tcS caseM7b tp) (linkKey (tcS caseM7b tp) 15 33)).stream = ([], some tp.bytes)
      ∧ (peerAt (tcS caseM7b tp) (linkKey (tcS caseM7b tp) 15 33)).st = 3
      ∧ caseM7b.logLen < caseM7b.used + (parsePacket tp.bytes).size)
    ∧ ((shS [badM]).mem.shadow = some (shd [badM])
      ∧ (shd [badM]).log = [badM]
      ∧ badM.type = 1
      ∧ mgtCode badM ≠ 16)
    ∧ ((shS [mk]).mem.shadow = some (shd [mk])
      ∧ (shd [mk]).log = [mk]
      ∧ mk.type = 1
      ∧ mgtCode mk = 16)
    ∧ ((shS [caseM8d]).mem.shadow = some (shd [caseM8d])
      ∧ (shd [caseM8d]).log = [caseM8d]
      ∧ caseM8d.jobTag = (shS [caseM8d]).job.tag
      ∧ isRequest caseM8d.type = true
      ∧ payloadOk caseM8d = true
      ∧ requestWaits (shS [caseM8d]) caseM8d = true)
    ∧ ((shS [tp]).mem.shadow = some (shd [tp])
      ∧ (shd [tp]).log = [tp]
      ∧ tp.jobTag = (shS [tp]).job.tag
      ∧ isRequest tp.type = true
      ∧ payloadOk tp = true
      ∧ requestWaits (shS [tp]) tp = false
      ∧ heldByCheckpoint (shS [tp]) tp = false
      ∧ tp.type ≠ 20
      ∧ tp.type ≠ 21)
    ∧ ((shS [caseM8e]).mem.shadow = some (shd [caseM8e])
      ∧ (shd [caseM8e]).log = [caseM8e]
      ∧ caseM8e.jobTag = (shS [caseM8e]).job.tag
      ∧ isReply caseM8e.type = true)
    ∧ ((shS [caseM8f]).mem.shadow = some (shd [caseM8f])
      ∧ (shd [caseM8f]).log = [caseM8f]
      ∧ caseM8f.jobTag = (shS [caseM8f]).job.tag
      ∧ caseM8f.type = 64)
    ∧ (ready.dev ≠ .bivouac) := by
  and_intros <;> first | decide +kernel | (constructor <;> decide +kernel)

/-- The clauses of `Membership` on tee copies that are discarded or left, and on copies that wait. -/
theorem witness_Membership_more :
    (teeLane lostPeer 15 33 = true
      ∧ nextInStream ((fabLink lostPeer (linkKey lostPeer 15 33)).stream.length + 1) (fabLink lostPeer (linkKey lostPeer 15 33)).stream = ([], some tp.bytes)
      ∧ ((peerAt lostPeer (linkKey lostPeer 15 33)).st ≠ 3 ∨ lostPeer.dev = .bivouac))
    ∧ (teeLane endedS 15 33 = true
      ∧ nextInStream ((fabLink endedS (linkKey endedS 15 33)).stream.length + 1) (fabLink endedS (linkKey endedS 15 33)).stream = ([], some lateCopy.bytes)
      ∧ linkLocal (parsePacket lateCopy.bytes) = false
      ∧ headerOk lateCopy.bytes = true
      ∧ (peerAt endedS (linkKey endedS 15 33)).st = 3
      ∧ endedS.dev ≠ .bivouac
      ∧ endedS.mem.shadow = none
      ∧ endedS.mem.ended = true
      ∧ copyLike endedS (parsePacket lateCopy.bytes) = true)
    ∧ (teeLane noShadow 15 33 = true
      ∧ (peerAt noShadow (linkKey noShadow 15 33)).st = 3
      ∧ noShadow.dev ≠ .bivouac
      ∧ noShadow.mem.shadow = none
      ∧ (noShadow.mem.ended = false ∨ copyLike noShadow (parsePacket tp.bytes) = false))
    ∧ ((shS [otherJob]).mem.shadow = some (shd [otherJob])
      ∧ (shd [otherJob]).log = [otherJob]
      ∧ otherJob.type ≠ 1
      ∧ otherJob.jobTag ≠ (shS [otherJob]).job.tag)
    ∧ ((shS [oldCol]).mem.shadow = some (shd [oldCol])
      ∧ oldCol.jobTag = (shS [oldCol]).job.tag
      ∧ oldCol.type = 64
      ∧ (colLands (shS [oldCol]) oldCol (pegOf (shS [oldCol]) (oldCol.seqCh % 2 ^ 14)) = true
        ∨ colAhead (shS [oldCol]) oldCol (pegOf (shS [oldCol]) (oldCol.seqCh % 2 ^ 14)) = false))
    ∧ ((shS [earlyCol]).mem.shadow = some (shd [earlyCol])
      ∧ earlyCol.jobTag = (shS [earlyCol]).job.tag
      ∧ earlyCol.type = 64
      ∧ colLands (shS [earlyCol]) earlyCol (pegOf (shS [earlyCol]) (earlyCol.seqCh % 2 ^ 14)) = false
      ∧ colAhead (shS [earlyCol]) earlyCol (pegOf (shS [earlyCol]) (earlyCol.seqCh % 2 ^ 14)) = true
      ∧ (pegOf (shS [earlyCol]) (earlyCol.seqCh % 2 ^ 14)).done ≠ some (earlyCol.src, earlyCol.tag, earlyCol.gen % 4096)) := by
  and_intros <;> first
    | decide +kernel
    | (constructor <;> decide +kernel)

end Fabric

end Sys2Proof.Tests
end

/-! SUPPORT. Proofs of the statements about commands that are turned away (O18) and about register writes (O22). -/

namespace Sys2Proof.Machine

open Sys2Proof

/-! ### What decides whose turn it is (R393, R396, R400) -/

/-- `u` agrees with `s` in everything that the choice of the next command and its turning away read. -/
structure SameTurn (s u : State) : Prop where
  host : u.host = s.host
  hostMem : u.hostMem = s.hostMem
  dev : u.dev = s.dev
  idn : u.idn = s.idn

theorem SameTurn.refl (s : State) : SameTurn s s := ⟨rfl, rfl, rfl, rfl⟩

theorem SameTurn.trans {s t u : State} (h : SameTurn s t) (k : SameTurn t u) : SameTurn s u :=
  ⟨k.host.trans h.host, k.hostMem.trans h.hostMem, k.dev.trans h.dev, k.idn.trans h.idn⟩

theorem sameTurn_modHbm (f : Hbm → Hbm) (s : State) : SameTurn s (s.modHbm f) := ⟨rfl, rfl, rfl, rfl⟩

theorem sameTurn_modBlk (p : Nat) (f : Block → Block) (s : State) : SameTurn s (s.modBlk p f) := ⟨rfl, rfl, rfl, rfl⟩

theorem sameTurn_noteUnread (errs : List ReadErr) : ∀ s : State, SameTurn s (noteUnread errs s) := by
  induction errs with
  | nil => exact SameTurn.refl
  | cons x xs ih =>
    intro s
    refine SameTurn.trans ?_ (ih _)
    dsimp only
    split
    · split
      · exact sameTurn_modBlk _ _ _
      · exact SameTurn.refl s
    · exact SameTurn.refl s

theorem SameTurn.entryCmd {s u : State} (h : SameTurn s u) : entryCmd u = entryCmd s := by
  cases s; cases u
  obtain ⟨rfl, rfl, rfl, rfl⟩ := h
  rfl

theorem SameTurn.nextRing {s u : State} (h : SameTurn s u) : nextRing u = nextRing s := by
  cases s; cases u
  obtain ⟨rfl, rfl, rfl, rfl⟩ := h
  rfl

theorem SameTurn.turnedAway {s u : State} (h : SameTurn s u) : turnedAway u = turnedAway s := by
  cases s; cases u
  obtain ⟨rfl, rfl, rfl, rfl⟩ := h
  rfl

/-! ### The step of a row -/

/-- A row's step takes its own command and turns it away with the status that the turn gives. -/
theorem hostStep_turnedAway {mine : InCmd → Bool} {body : InCmd → State → State} {s : State} {i st : Nat}
    (turn : nextRing s = some i) (hm : mine (entryCmd s i) = true) (away : turnedAway s i = some st) :
    hostStep mine body s = complete (entryCmd s i).id st 0 (takeCmd i s) := by
  simp [hostStep, turn, hm, away]

/-- A row's step leaves the command of another row where it is. -/
theorem hostStep_leaves {mine : InCmd → Bool} {body : InCmd → State → State} {s : State} {i : Nat}
    (turn : nextRing s = some i) (hm : mine (entryCmd s i) = false) (hr : rowless (entryCmd s i) = false) :
    hostStep mine body s = s := by
  simp [hostStep, turn, hm, hr]

/-- How a row runs its step: it asks the step only about states with the same turn. -/
def AsksSameTurn (wrap : (State → Out) → State → Out) : Prop :=
  ∀ (f g : State → Out) (s : State), (∀ u, SameTurn s u → f u = g u) → wrap f s = wrap g s

theorem asksSameTurn_id : AsksSameTurn id := fun _ _ s h => h s (SameTurn.refl s)

theorem asksSameTurn_meeting (errs : List ReadErr) : AsksSameTurn (meeting errs) := by
  intro f g s h
  unfold meeting
  rw [h s (SameTurn.refl s), h _ (sameTurn_modHbm _ s)]

theorem asksSameTurn_moving (errs : List ReadErr) : AsksSameTurn (moving errs) :=
  fun f g s h => asksSameTurn_meeting errs f g _ fun u hu => h u ((sameTurn_noteUnread errs s).trans hu)

/-- A command belongs to a row: it has the row's opcode, and where the row has one its setting, query or kind in operand 0. -/
def OfRow (op : Nat) (arg : Option Nat) (c : InCmd) : Prop := c.opcode = op ∧ ∀ k, arg = some k → c.arg0 = k

/-- The row `row` serves the commands with opcode `op` and operand `arg` from a ring, run as `wrap` does. -/
structure ServesRow (op : Nat) (arg : Option Nat) (row : Instr) (wrap : (State → Out) → State → Out) : Prop where
  listed : opcodeListed op = true
  asks : AsksSameTurn wrap
  step : ∃ (mine : InCmd → Bool) (body : InCmd → State → State), (∀ c, mine c = true ↔ OfRow op arg c)
    ∧ ∀ s, exec row s = wrap (fun u => .next (hostStep mine body u)) s

/-- A row that takes every command of its opcode. -/
theorem servesRow_opcode {op : Nat} {row : Instr} {wrap : (State → Out) → State → Out} (body : InCmd → State → State)
    (asks : AsksSameTurn wrap) (run : ∀ s, exec row s = wrap (fun u => .next (hostStep (fun c => c.opcode == op) body u)) s)
    (listed : opcodeListed op = true := by decide) : ServesRow op none row wrap :=
  ⟨listed, asks, _, body, fun c => by simp [OfRow], run⟩

/-- A row that takes the commands of its opcode with one value of operand 0. -/
theorem servesRow_operand {op k : Nat} {row : Instr} (body : InCmd → State → State)
    (run : ∀ s, exec row s = .next (hostStep (fun c => c.opcode == op && c.arg0 == k) body s))
    (listed : opcodeListed op = true := by decide) : ServesRow op (some k) row id :=
  ⟨listed, asksSameTurn_id, _, body, fun c => by simp [OfRow], run⟩

section
variable {op i : Nat} {arg : Option Nat} {row : Instr} {wrap : (State → Out) → State → Out} {s : State}

theorem ServesRow.ends (h : ServesRow op arg row wrap) {st : Nat} (turn : nextRing s = some i)
    (own : OfRow op arg (entryCmd s i)) (away : turnedAway s i = some st) :
    exec row s = wrap (fun u => .next (complete (entryCmd s i).id st 0 (takeCmd i u))) s := by
  obtain ⟨mine, body, hmine, run⟩ := h.step
  rw [run]
  refine h.asks _ _ s fun u hu => ?_
  rw [← hu.nextRing] at turn
  rw [← hu.entryCmd] at own ⊢
  rw [← hu.turnedAway] at away
  rw [hostStep_turnedAway turn ((hmine _).2 own) away]

theorem ServesRow.leaves (h : ServesRow op arg row wrap) (turn : nextRing s = some i)
    (other : ¬ OfRow op arg (entryCmd s i)) (hr : rowless (entryCmd s i) = false) :
    exec row s = wrap (fun u => .next u) s := by
  obtain ⟨mine, body, hmine, run⟩ := h.step
  rw [run]
  refine h.asks _ _ s fun u hu => ?_
  rw [← hu.nextRing] at turn
  rw [← hu.entryCmd] at other hr
  rw [hostStep_leaves turn (Bool.eq_false_iff.2 (mt (hmine _).1 other)) hr]

end

/-! ### The status of a command that may not start (R400, R12; log 25) -/

theorem noOrderError {s : State} {op : Nat} (free : ¬((op = 1 ∨ op = 2) ∧ runInProgress s = true)) :
    (runInProgress s && (op == 1 || op == 2)) = false := by
  rw [Bool.eq_false_iff]
  intro h
  exact free (by simpa [and_comm] using h)

section
variable {s : State} {i : Nat} (listed : opcodeListed (entryCmd s i).opcode = true)
include listed

theorem turnedAway_orderError (job : (entryCmd s i).opcode = 1 ∨ (entryCmd s i).opcode = 2) (busy : runInProgress s = true) :
    turnedAway s i = some 3 := by
  simp [turnedAway, listed, busy, job]

theorem turnedAway_stateError (free : ¬(((entryCmd s i).opcode = 1 ∨ (entryCmd s i).opcode = 2) ∧ runInProgress s = true))
    (hacc : accepted s.dev (entryCmd s i).opcode = false) : turnedAway s i = some 2 := by
  simp [turnedAway, listed, noOrderError free, hacc]

theorem turnedAway_fieldError (free : ¬(((entryCmd s i).opcode = 1 ∨ (entryCmd s i).opcode = 2) ∧ runInProgress s = true))
    (hacc : accepted s.dev (entryCmd s i).opcode = true) (dirty : entryClean s i = false ∨ argsClean (entryCmd s i) = false) :
    turnedAway s i = some 1 := by
  have hdirty : (entryClean s i && argsClean (entryCmd s i)) = false := Bool.and_eq_false_iff.2 dirty
  simp [turnedAway, listed, noOrderError free, hacc, hdirty]

end

/-! ### Taking a command -/

theorem takeCmd_ci (i : Nat) (s : State) : (cmdRing (takeCmd i s) i).ci = ((cmdRing s i).ci + 1) % 2 ^ (cmdRing s i).log2 := by
  simp [takeCmd, cmdRing]

/-- Taking a command moves the turn of the rings of its kind alone (R396). -/
theorem takeCmd_turns (i : Nat) (s : State) :
    if (cmdRing s i).prio = true then (takeCmd i s).host.turnPrio = (i + 1) % 64 ∧ (takeCmd i s).host.turn = s.host.turn
    else (takeCmd i s).host.turn = (i + 1) % 64 ∧ (takeCmd i s).host.turnPrio = s.host.turnPrio := by
  split <;> rename_i h <;> simp [takeCmd, h]

/-- Settles O18: every row's step is `hostStep` on its own commands, run over states with the same turn. -/
theorem commandsTurnedAway : Obligations.CommandsTurnedAway := by
  unfold Obligations.CommandsTurnedAway
  intro rows mine
  have serves : ∀ (parts : TraverseParts) (errs : List ReadErr), ∀ x ∈ rows parts errs, ServesRow x.1 x.2.1 x.2.2.1 x.2.2.2 := by
    intro parts errs
    have met := asksSameTurn_meeting errs
    have moved := asksSameTurn_moving errs
    have plain := asksSameTurn_id
    simp only [rows, List.forall_mem_cons, List.not_mem_nil, false_imp_iff, implies_true, and_true]
    exact ⟨servesRow_opcode (takeLoad parts) met fun _ => rfl, servesRow_opcode takeRun moved fun _ => rfl,
      servesRow_opcode takeHostDma met fun _ => rfl, servesRow_opcode takeHostDma met fun _ => rfl,
      servesRow_opcode takeCheckpoint plain fun _ => rfl, servesRow_opcode (fun c s => settleCore (takeFill c s)) plain fun _ => rfl,
      servesRow_opcode takeBacksight moved fun _ => rfl, servesRow_opcode takeFence plain fun _ => rfl,
      servesRow_operand takeStaging fun _ => rfl, servesRow_opcode takeResetRegion met fun _ => rfl,
      servesRow_opcode takePark plain fun _ => rfl, servesRow_opcode takeUnpark plain fun _ => rfl,
      servesRow_opcode takeMgtSend plain fun _ => rfl, servesRow_opcode takeRation plain fun _ => rfl,
      servesRow_opcode takeResetBlock plain fun _ => rfl, servesRow_opcode takeResetPort plain fun _ => rfl,
      servesRow_operand (takeQuery identityResult) fun _ => rfl, servesRow_operand (takeQuery eccResult) fun _ => rfl,
      servesRow_operand (takeQuery shapeResult) fun _ => rfl, servesRow_operand (takeQuery energyResult) fun _ => rfl,
      servesRow_operand takeStaging fun _ => rfl, servesRow_operand takeStaging fun _ => rfl, servesRow_operand takeStaging fun _ => rfl,
      servesRow_operand takeStaging fun _ => rfl, servesRow_operand takeStaging fun _ => rfl, servesRow_operand takeStaging fun _ => rfl,
      servesRow_operand takeStaging fun _ => rfl, servesRow_operand takeStaging fun _ => rfl, servesRow_operand takeStaging fun _ => rfl,
      servesRow_operand takeStaging fun _ => rfl, servesRow_operand takeStaging fun _ => rfl⟩
  constructor
  · intro parts errs op i arg row wrap s hrow turn c ends
    have serve : ServesRow op arg row wrap := serves parts errs _ hrow
    refine ⟨?_, ?_, ?_, fun other hr => serve.leaves turn other hr⟩
    · rintro own ⟨job, busy⟩
      obtain rfl : c.opcode = op := own.1
      exact serve.ends turn own (turnedAway_orderError serve.listed job busy)
    · intro own free hacc
      obtain rfl : c.opcode = op := own.1
      exact serve.ends turn own (turnedAway_stateError serve.listed free hacc)
    · intro own free hacc dirty
      obtain rfl : c.opcode = op := own.1
      exact serve.ends turn own (turnedAway_fieldError serve.listed free hacc dirty)
  · intro i s
    exact ⟨takeCmd_ci i s, rfl, takeCmd_turns i s, (takeCmd_only i s).eq⟩

/-! ### Register writes (R9, R529, R530) -/

/-- DEVICE_ID and DEVICE_SERIAL are read-only. -/
theorem regWrite_readOnly {r : Reg} (h : r = .deviceId ∨ r = .deviceSerial) (k off size v : Nat) (s : State) :
    regWrite r k off size v s = s := by
  rcases h with rfl | rfl <;> exact ite_self s

/-- A write that no register takes leaves the state. -/
theorem barWrite_ignored {off size : Nat} (v : Nat) (s : State)
    (h : accessOk off size = false ∨ regAt off = none ∨ off = 0 ∨ off = 8) : barWrite off size v s = s := by
  rcases h with h | h | rfl | rfl
  · simp [barWrite, h]
  · simp [barWrite, h]
  · have hreg : regAt 0 = some (.deviceId, 0, true) := rfl
    simp [barWrite, hreg, regWrite_readOnly (.inl rfl)]
  · have hreg : regAt 8 = some (.deviceSerial, 0, true) := rfl
    simp [barWrite, hreg, regWrite_readOnly (.inr rfl)]

theorem regAt_bootSrc : regAt 0x001000 = some (.bootSrc, 0, true) := rfl

/-- BOOT_SRC takes a write in every state with the link up, BOOT included, with bits 11 to 0 clear. -/
theorem barWrite_bootSrc {size : Nat} (v : Nat) {s : State} (hsize : size = 4 ∨ size = 8) (hl : s.host.linkUp = true) (hd : s.dev ≠ .off) :
    barWrite 0x001000 size v s
      = { s with idn := { s.idn with src := mergeHalves s.idn.src 0x001000 size v / 4096 * 4096 } } := by
  have hok : accessOk 0x001000 size = true := by rcases hsize with rfl | rfl <;> rfl
  have hw : hostWrites s true = true := by simp [hostWrites, hl, hd]
  have hset : regWrite .bootSrc 0 0x001000 size v s
      = { s with idn := { s.idn with src := mergeHalves s.idn.src 0x001000 size v / 4096 * 4096 } } := rfl
  simp [barWrite, hok, regAt_bootSrc, hw, hset]

theorem exec_registerWrite_bootSrc {size : Nat} (v : W64) {s : State} (hsize : size = 4 ∨ size = 8) (hl : s.host.linkUp = true)
    (hd : s.dev ≠ .off) :
    exec (.registerWrite 0x001000 size v) s
      = .next { s with idn := { s.idn with src := mergeHalves s.idn.src 0x001000 size v.toNat / 4096 * 4096 } } :=
  congrArg Host.Outcome.next (barWrite_bootSrc v.toNat hsize hl hd)

theorem barRead_bootSrc (s : State) (h : s.idn.src < 2 ^ 64) : barRead s 0x001000 = s.idn.src := by
  have hreg : regAt (0x001000 / 8 * 8) = some (.bootSrc, 0, true) := regAt_bootSrc
  have hword : regWord s .bootSrc 0 = s.idn.src := rfl
  simp only [barRead, hreg, Bool.not_true, Bool.and_false, Bool.false_eq_true, if_false, hword]
  exact Nat.mod_eq_of_lt h

/-! ### Settings written to registers (R87 to R90, R533) -/

/-- Four bytes of a number, read back as a field. -/
theorem field_leBytes_four {n : Nat} (h : n < 2 ^ 32) : field (leBytes 4 n) 0 4 = n := leNat_leBytes 4 n h

/-- A value that its setting accepts, with room among the stagings, is staged for the next RUN or station. -/
theorem stageRegister_stages {ident v : Nat} {s : State} (hid : ident ≠ 1) (hok : payloadAccepted s ident (leBytes 4 v) = true)
    (room : stageFull (withStaging ⟨ident, nextStation s, leBytes 4 v⟩ s.job.stage) = false) :
    stageRegister ident v s = { s with job := { s.job with stage := withStaging ⟨ident, nextStation s, leBytes 4 v⟩ s.job.stage } } := by
  simp [stageRegister, stageValue, hok, room, hid, State.modJob]

/-- A value that its setting does not accept is noted as refused. -/
theorem stageRegister_refuses {ident v : Nat} {s : State} (hno : payloadAccepted s ident (leBytes 4 v) = false) :
    stageRegister ident v s = { s with job := { s.job with regRefused := true } } := by
  simp [stageRegister, stageValue, hno, State.modJob]

theorem payloadAccepted_detCtrl (v : Nat) (s : State) : payloadAccepted s 10 (leBytes 4 (v % 4)) = true := by
  have hv : v % 4 < 4 := Nat.mod_lt _ (by decide)
  simp [payloadAccepted, leBytes_length, field_leBytes_four (show v % 4 < 2 ^ 32 by omega), hv]

theorem payloadAccepted_legWdog {n : Nat} (h : n < 2 ^ 32) (s : State) :
    payloadAccepted s 11 (leBytes 4 n) = true ↔ 1 ≤ n ∧ n ≤ 600000 := by
  simp [payloadAccepted, leBytes_length, field_leBytes_four h]

theorem writeLeaseCfg_eq (v : Nat) (s : State) :
    writeLeaseCfg v s = if 10 ≤ v % 4096 ∧ v % 4096 ≤ 500 then { s with mem := { s.mem with renewMs := v % 4096 } } else s := by
  have hbits : bits v 11 0 = v % 4096 := by simp [bits]
  simp only [writeLeaseCfg, hbits, State.modMem]

section
variable {s : State} (hw : hostWrites s false = true)
include hw

theorem exec_leaseCfgWrite (v : W32) : exec (.leaseCfgWrite v) s = .next (writeLeaseCfg v.toNat s) :=
  congrArg Host.Outcome.next (if_pos hw)

theorem exec_detCtrlWrite (v : W32) : exec (.detCtrlWrite v) s = .next (stageRegister 10 (v.toNat % 4) s) :=
  congrArg Host.Outcome.next (if_pos hw)

theorem exec_legWdogWrite (v : W32) : exec (.legWdogWrite v) s = .next (stageRegister 11 (v.toNat % 2 ^ 20) s) :=
  congrArg Host.Outcome.next (if_pos hw)

end

/-- Settles O22, from what each register does with a write. -/
theorem registerAccess : Obligations.RegisterAccess := by
  unfold Obligations.RegisterAccess
  refine ⟨fun off size v s h => ?_, fun v s hl hd => ?_, fun v s hl hd _ => ?_, fun v s hw => ?_, fun v s hw room => ?_,
    fun v s hw hlo hhi room => ?_, fun v s hw hz => ?_⟩
  · exact congrArg Host.Outcome.next (barWrite_ignored v.toNat s h)
  · have hsrc : mergeHalves s.idn.src 0x001000 8 v.toNat = v.toNat := Nat.mod_eq_of_lt v.isLt
    rw [exec_registerWrite_bootSrc v (.inr rfl) hl hd, hsrc]
    exact ⟨_, rfl, rfl, barRead_bootSrc _ (lt_of_le_of_lt (Nat.div_mul_le_self _ _) v.isLt)⟩
  · have hsrc : mergeHalves s.idn.src 0x001000 4 v.toNat = s.idn.src / 2 ^ 32 * 2 ^ 32 + v.toNat % 2 ^ 32 := rfl
    rw [exec_registerWrite_bootSrc v (.inl rfl) hl hd, hsrc]
    refine ⟨_, rfl, ?_⟩
    dsimp only
    omega
  · rw [exec_leaseCfgWrite hw, writeLeaseCfg_eq]
  · rw [exec_detCtrlWrite hw, stageRegister_stages (by decide) (payloadAccepted_detCtrl _ s) room]
  · rw [exec_legWdogWrite hw, stageRegister_stages (by decide) ((payloadAccepted_legWdog (by omega) s).2 ⟨hlo, hhi⟩) room]
  · have hno : payloadAccepted s 11 (leBytes 4 (v.toNat % 2 ^ 20)) = false := by
      rw [Bool.eq_false_iff, ne_eq, payloadAccepted_legWdog (by omega)]
      omega
    rw [exec_legWdogWrite hw, stageRegister_refuses hno]

end Sys2Proof.Machine

/-! SUPPORT. What a loss, an error or a station leaves standing: one equation for each operation that they may run. -/

namespace Sys2Proof.Machine

open Sys2Proof

/-- What the loss of a region, a station or an error elsewhere leaves as it is: the device's state, the host's link, the regions' service and tests,
which NCLKs run, which stacks are in self-refresh, the fabric reference, the engines and the pins. -/
structure Standing where
  dev : Dev
  link : Bool
  region : Table Region
  results : Table TestResult
  busy : Bool
  nclk : Nat → Bool
  refresh : Table Bool
  refLost : Bool
  engines : Table Engine
  pins : Pins

def standing (s : State) : Standing :=
  { dev := s.dev, link := s.host.linkUp, region := s.flt.region, results := s.flt.testResult, busy := s.flt.testBusy,
    nclk := fun r => (regPwr s r).nclk, refresh := s.hbm.selfRefresh, refLost := s.ring.refLost, engines := s.oe.eng, pins := s.pins }

@[simp] theorem standing_ite (c : Prop) [Decidable c] (a b : State) :
    standing (if c then a else b) = if c then standing a else standing b := apply_ite _ _ _ _

@[simp] theorem standing_foldl {α : Type} {f : State → α → State} (l : List α) (s : State) (h : ∀ u x, standing (f u x) = standing u) :
    standing (l.foldl f s) = standing s := by
  induction l generalizing s with
  | nil => rfl
  | cons x xs ih => rw [List.foldl_cons, ih, h]

theorem standing_foldl_snd {α β : Type} {f : β × State → α → β × State} (l : List α) (x : β × State)
    (h : ∀ u a, standing (f u a).2 = standing u.2) : standing (l.foldl f x).2 = standing x.2 := by
  induction l generalizing x with
  | nil => rfl
  | cons a l ih => rw [List.foldl_cons, ih, h]

theorem standing_foldl_snd_snd {α β γ : Type} {f : β × γ × State → α → β × γ × State} (l : List α) (x : β × γ × State)
    (h : ∀ u a, standing (f u a).2.2 = standing u.2.2) : standing (l.foldl f x).2.2 = standing x.2.2 := by
  induction l generalizing x with
  | nil => rfl
  | cons a l ih => rw [List.foldl_cons, ih, h]

section
variable (s : State)

@[simp] theorem standing_modHost (f : HostIf → HostIf) (h : ∀ x, (f x).linkUp = x.linkUp) : standing (s.modHost f) = standing s := by
  simp [standing, regPwr, h]

@[simp] theorem standing_modFlt (f : Faults → Faults) (hr : ∀ x, (f x).region = x.region) (ht : ∀ x, (f x).testResult = x.testResult)
    (hb : ∀ x, (f x).testBusy = x.testBusy) : standing (s.modFlt f) = standing s := by
  simp [standing, regPwr, hr, ht, hb]

@[simp] theorem standing_modPwr (f : Power → Power) (h : ∀ x, (f x).region = x.region) : standing (s.modPwr f) = standing s := by
  simp [standing, regPwr, h]

@[simp] theorem standing_modReg (r : Nat) (f : RegPwr → RegPwr) (h : ∀ x, (f x).nclk = x.nclk) :
    standing (s.modReg r f) = standing s := by
  have hall : ∀ k, (regPwr (s.modReg r f) k).nclk = (regPwr s k).nclk := by
    intro k
    rw [regPwr_modReg]
    split
    · next hk => rw [h, hk]
    · rfl
  simp [standing, hall]

@[simp] theorem standing_modHbm (f : Hbm → Hbm) (h : ∀ x, (f x).selfRefresh = x.selfRefresh) : standing (s.modHbm f) = standing s := by
  simp [standing, regPwr, h]

@[simp] theorem standing_modRing (f : Ring → Ring) (h : ∀ x, (f x).refLost = x.refLost) : standing (s.modRing f) = standing s := by
  simp [standing, regPwr, h]

@[simp] theorem standing_modOe (f : Optics → Optics) (h : ∀ x, (f x).eng = x.eng) : standing (s.modOe f) = standing s := by
  simp [standing, regPwr, h]

@[simp] theorem standing_modJob (f : Job → Job) : standing (s.modJob f) = standing s := by simp [standing, regPwr]
@[simp] theorem standing_modBlks (f : Blocks → Blocks) : standing (s.modBlks f) = standing s := by simp [standing, regPwr]
@[simp] theorem standing_modBlk (p : Nat) (f : Block → Block) : standing (s.modBlk p f) = standing s := by simp [standing, regPwr]
@[simp] theorem standing_modFab (f : Fabric → Fabric) : standing (s.modFab f) = standing s := by simp [standing, regPwr]
@[simp] theorem standing_modLink (k : Nat) (f : Link → Link) : standing (s.modLink k f) = standing s := by simp [standing, regPwr]
@[simp] theorem standing_modPos (k : Nat) (f : PosSt → PosSt) : standing (s.modPos k f) = standing s := by simp [standing, regPwr]
@[simp] theorem standing_modRmt (f : Remote → Remote) : standing (s.modRmt f) = standing s := by simp [standing, regPwr]
@[simp] theorem standing_modPeg (k : Nat) (f : Peg → Peg) : standing (s.modPeg k f) = standing s := by simp [standing, regPwr]
@[simp] theorem standing_modReq (k : Nat) (f : Req → Req) : standing (s.modReq k f) = standing s := by simp [standing, regPwr]
@[simp] theorem standing_modOp (k : Nat) (f : RemOp → RemOp) : standing (s.modOp k f) = standing s := by simp [standing, regPwr]
@[simp] theorem standing_modCol (f : Collectives → Collectives) : standing (s.modCol f) = standing s := by simp [standing, regPwr]
@[simp] theorem standing_modColOp (k : Nat) (f : ColOp → ColOp) : standing (s.modColOp k f) = standing s := by simp [standing, regPwr]
@[simp] theorem standing_modMem (f : Member → Member) : standing (s.modMem f) = standing s := by simp [standing, regPwr]
@[simp] theorem standing_modCkpt (k : Nat) (f : Ckpt → Ckpt) : standing (s.modCkpt k f) = standing s := by simp [standing, regPwr]
@[simp] theorem standing_modFill (f : Fill → Fill) : standing (s.modFill f) = standing s := by simp [standing, regPwr]

end

/-- Where only host memory and the host interface differ, the link decides. -/
theorem HostOnly.standing {s t : State} (h : HostOnly s t) (hl : t.host.linkUp = s.host.linkUp) : standing t = standing s := by
  rw [h.eq]
  simp [Machine.standing, regPwr, hl]

@[simp] theorem raiseVector_link (v : Nat) (s : State) : (raiseVector v s).host.linkUp = s.host.linkUp := by
  unfold raiseVector; dsimp; split <;> rfl

@[simp] theorem writeEvt_link (e : Event) (s : State) : (writeEvt e s).host.linkUp = s.host.linkUp := by
  unfold writeEvt; dsimp; split <;> split <;> simp [setEvtRing]

@[simp] theorem flushEvtOnce_link (s : State) : (flushEvtOnce s).host.linkUp = s.host.linkUp := by
  unfold flushEvtOnce; split
  · split
    · simp
    · split <;> simp
  · rfl

@[simp] theorem flushEvtN_link (n : Nat) : ∀ s : State, (flushEvtN n s).host.linkUp = s.host.linkUp := by
  induction n with
  | zero => exact fun s => rfl
  | succ n ih => exact fun s => (ih _).trans (flushEvtOnce_link s)

@[simp] theorem holdWrite_link (w : Held) (s : State) : (holdWrite w s).host.linkUp = s.host.linkUp := by
  unfold holdWrite; dsimp; split <;> rfl

@[simp] theorem raiseEvent_link (code cls : Nat) (body : List Byte) (s : State) : (raiseEvent code cls body s).host.linkUp = s.host.linkUp := by
  unfold raiseEvent; split
  · unfold enqueueEvt flushEvt; split <;> simp
  · simp

@[simp] theorem writeCpl_link (j : Nat) (c : Cpl) (s : State) : (writeCpl j c s).host.linkUp = s.host.linkUp := by
  unfold writeCpl; dsimp; split <;> simp [setCplRing]

@[simp] theorem postCpl_link (j : Nat) (c : Cpl) (s : State) : (postCpl j c s).host.linkUp = s.host.linkUp := by
  unfold postCpl; split
  · unfold deliverCpl; dsimp; split
    · rfl
    · split <;> simp
  · simp

@[simp] theorem complete_link (id status value : Nat) (s : State) : (complete id status value s).host.linkUp = s.host.linkUp := by
  unfold complete; split
  · rfl
  · dsimp; split <;> simp

@[simp] theorem writeStationRecord_link (a : Nat) (bs : List Byte) (s : State) : (writeStationRecord a bs s).host.linkUp = s.host.linkUp := by
  unfold writeStationRecord; split <;> simp

@[simp] theorem standing_raiseEvent (code cls : Nat) (body : List Byte) (s : State) : standing (raiseEvent code cls body s) = standing s :=
  (raiseEvent_only code cls body s).standing (by simp)

@[simp] theorem standing_complete (id status value : Nat) (s : State) : standing (complete id status value s) = standing s :=
  (complete_only id status value s).standing (by simp)

@[simp] theorem standing_writeStationRecord (a : Nat) (bs : List Byte) (s : State) : standing (writeStationRecord a bs s) = standing s :=
  (writeStationRecord_only a bs s).standing (by simp)

@[simp] theorem standing_putRecord (r : Record) (s : State) : standing (putRecord r s) = standing s := by
  simp [putRecord]

@[simp] theorem standing_record (r : Record) (s : State) : standing (record r s) = standing s := by
  simp [record]

@[simp] theorem standing_spareExhausted (k r u d : Nat) (s : State) : standing (spareExhausted k r u d s) = standing s := by
  simp [spareExhausted]

/-! ### Packets and messages -/

@[simp] theorem standing_fabCount (k : Nat) (s : State) : standing (fabCount k s) = standing s := by simp [fabCount]

@[simp] theorem standing_noteLink (p line : Nat) (s : State) : standing (noteLink p line s) = standing s := by simp [noteLink]

@[simp] theorem standing_returnCredit (c : Carried) (s : State) : standing (returnCredit c s) = standing s := by simp [returnCredit]

@[simp] theorem standing_enqueue (key : Nat) (c : Carried) (s : State) : standing (enqueue key c s) = standing s := by simp [enqueue]

@[simp] theorem standing_escapeRing (c : Carried) (s : State) : standing (escapeRing c s) = standing s := by simp [escapeRing]

@[simp] theorem standing_fmMessage (payload : List Byte) (dev : Nat) (s : State) : standing (fmMessage payload dev s) = standing s := by
  simp [fmMessage]

@[simp] theorem standing_deliver (c : Carried) (s : State) : standing (deliver c s) = standing s := by simp [deliver]

@[simp] theorem standing_routePacket (relay : Bool) (c : Carried) (s : State) : standing (routePacket relay c s) = standing s := by
  simp [routePacket]

@[simp] theorem standing_spreadOver (src dst : Nat) (ws : List Nat) (s : State) : standing (spreadOver src dst ws s) = standing s := by
  simp [spreadOver]

@[simp] theorem standing_sendCol (entry : Option (List Nat)) (c : Carried) (s : State) : standing (sendCol entry c s) = standing s := by
  unfold sendCol
  dsimp only
  split <;> simp

@[simp] theorem standing_relayCol (c : Carried) (s : State) : standing (relayCol c s) = standing s := by simp [relayCol]

@[simp] theorem standing_originate (r : Nat) (p : Packet) (s : State) : standing (originate r p s) = standing s := by simp [originate]

@[simp] theorem standing_sendFm (code : Nat) (body : List Byte) (s : State) : standing (sendFm code body s) = standing s := by simp [sendFm]

@[simp] theorem standing_sendHealth (reason detail : Nat) (s : State) : standing (sendHealth reason detail s) = standing s := by
  simp [sendHealth]

@[simp] theorem standing_recordFatal (r : Record) (s : State) : standing (recordFatal r s) = standing s := by simp [recordFatal]

@[simp] theorem standing_reroute (c : Carried) (s : State) : standing (reroute c s) = standing s := by simp [reroute]

@[simp] theorem standing_cutCrossings (s : State) : standing (cutCrossings s) = standing s := by simp [cutCrossings]

/-! ### Clocks, lanes and positions -/

@[simp] theorem standing_powerCount (k : Nat) (s : State) : standing (powerCount k s) = standing s := by simp [powerCount]

@[simp] theorem standing_requestWake (b level : Nat) (s : State) : standing (requestWake b level s) = standing s := by simp [requestWake]

@[simp] theorem standing_stopClocks (s : State) : standing (stopClocks s) = standing s := by simp [stopClocks]

@[simp] theorem standing_startPark (s : State) : standing (startPark s) = standing s := by simp [startPark]

@[simp] theorem standing_lanesFail (link : Fin 4) (turn : Turn) (lanes : List Nat) (s : State) :
    standing (lanesFail link turn lanes s) = standing s := by
  simp [lanesFail]

@[simp] theorem standing_movePos (k : Nat) (st : PosState) (s : State) : standing (movePos k st s) = standing s := by
  simp [movePos, enterPos]

@[simp] theorem standing_retirePos (k : Nat) (s : State) : standing (retirePos k s) = standing s := by
  unfold retirePos
  dsimp only
  generalize (if k % 34 < 32 then _ else _) = spare
  cases spare <;> simp [spareTaken]

@[simp] theorem standing_noteLinks (p : Nat) (s : State) : standing (noteLinks p s) = standing s := by simp [noteLinks]

@[simp] theorem standing_portOff (p : Nat) (s : State) : standing (portOff p s) = standing s := by simp [portOff]

@[simp] theorem standing_lightsOut (s : State) : standing (lightsOut s) = standing s := by simp [lightsOut]

@[simp] theorem standing_portsDark (r : Nat) (s : State) : standing (portsDark r s) = standing s := by simp [portsDark]

@[simp] theorem standing_tellLoss (region : Option Nat) (cause link : Nat) (s : State) : standing (tellLoss region cause link s) = standing s := by
  simp [tellLoss]

/-! ### HBM -/

@[simp] theorem standing_dramStore (line : Nat) (data : List Byte) (s : State) : standing (dramStore line data s) = standing s := by
  simp [dramStore]

@[simp] theorem standing_poisonLine (line : Nat) (s : State) : standing (poisonLine line s) = standing s := by simp [poisonLine]

@[simp] theorem standing_failChannel (ch cause : Nat) (s : State) : standing (failChannel ch cause s) = standing s := by simp [failChannel]

@[simp] theorem standing_countRow (ch row : Nat) (s : State) : standing (countRow ch row s) = standing s := by simp [countRow]

@[simp] theorem standing_poisonRead (r ch off frame : Nat) (blk : Option (Nat × Nat)) (s : State) :
    standing (poisonRead r ch off frame blk s) = standing s := by
  simp [poisonRead]

@[simp] theorem standing_readPhys (line r a : Nat) (blk : Option (Nat × Nat)) (lost : State → State) (ecc : Ecc) (s : State)
    (hlost : ∀ u, standing (lost u) = standing u) : standing (readPhys line r a blk lost ecc s).2 = standing s := by
  unfold readPhys
  dsimp only
  split
  · exact hlost s
  · split
    · simp [hlost]
    · simp [hlost]
    · split
      · exact hlost s
      · simp [correctedRead]

theorem standing_of_readPhys {line r a : Nat} {blk : Option (Nat × Nat)} {lost : State → State} {ecc : Ecc} {s u : State}
    {bs : Option (List Byte)} (h : readPhys line r a blk lost ecc s = (bs, u)) (hlost : ∀ u, standing (lost u) = standing u) :
    standing u = standing s := by
  rw [← standing_readPhys line r a blk lost ecc s hlost, h]

@[simp] theorem standing_flushEntry (e : WcEntry) (s : State) : standing (flushEntry e s) = standing s := by
  unfold flushEntry
  dsimp only
  split
  · rfl
  · split
    · simp
    · split <;> next h => simp [standing_of_readPhys h]

@[simp] theorem standing_flushChannel (ch : Nat) (s : State) : standing (flushChannel ch s) = standing s := by
  simp [flushChannel, -List.foldl_reverse]

@[simp] theorem standing_flushAll (s : State) : standing (flushAll s) = standing s := by simp [flushAll]

@[simp] theorem standing_flushRegion (r : Nat) (s : State) : standing (flushRegion r s) = standing s := by simp [flushRegion]

@[simp] theorem standing_readLine (r off : Nat) (blk : Option (Nat × Nat)) (s : State) : standing (readLine r off blk s).2.2 = standing s := by
  unfold readLine readLineEcc
  dsimp only
  split
  · simp
  · split <;> next h => exact standing_of_readPhys h (by simp)

@[simp] theorem standing_acceptWrite (line mask : Nat) (data : List Byte) (s : State) : standing (acceptWrite line mask data s) = standing s := by
  unfold acceptWrite
  extract_lets ch es rest u e
  have hu : standing u = standing s := by simp [u]
  split
  · simp
  · split
    · simp [hu]
    · split
      · simp [hu]
      · split <;> simp [hu]

@[simp] theorem standing_writeLine (r off mask : Nat) (data : List Byte) (s : State) : standing (writeLine r off mask data s) = standing s := by
  unfold writeLine
  split <;> simp

@[simp] theorem standing_writeBytes (r off : Nat) (bs : List Byte) (s : State) : standing (writeBytes r off bs s) = standing s := by
  simp [writeBytes]

@[simp] theorem standing_readBytes (r off n : Nat) (blk : Option (Nat × Nat)) (s : State) : standing (readBytes r off n blk s).2.2 = standing s := by
  unfold readBytes
  exact standing_foldl_snd_snd _ _ (by simp)

@[simp] theorem standing_clearFrame (r f : Nat) (s : State) : standing (clearFrame r f s) = standing s := by simp [clearFrame]

@[simp] theorem standing_removeFrames (r : Nat) (isBad : Nat → Bool) (s : State) : standing (removeFrames r isBad s) = standing s := by
  simp [removeFrames]

@[simp] theorem standing_mapOutOp (r c : Nat) (s : State) : standing (mapOutOp r c s) = standing s := by simp [mapOutOp]

@[simp] theorem standing_moveLine (m : Move) (k : Nat) (acc : List Nat × State) : standing (moveLine m k acc).2 = standing acc.2 := by
  unfold moveLine
  dsimp only
  split
  · simp
  · split <;> simp

@[simp] theorem standing_frameRecord (m : Move) (ks : List Nat) (s : State) : standing (frameRecord m ks s) = standing s := by
  unfold frameRecord
  split <;> simp

@[simp] theorem standing_moveFrame (m : Move) (s : State) : standing (moveFrame m s) = standing s := by
  unfold moveFrame
  dsimp only
  rw [standing_frameRecord, standing_foldl_snd _ _ fun u k => standing_moveLine m k u]
  simp

@[simp] theorem standing_doMoves (s : State) : standing (doMoves s) = standing s := by simp [doMoves]

@[simp] theorem standing_rowFails (line row : Nat) (s : State) : standing (rowFails line row s) = standing s := by simp [rowFails]

/-! ### Blocks -/

@[simp] theorem standing_failBlock (p : Nat) (cause : Option Nat) (s : State) : standing (failBlock p cause s) = standing s := by
  simp [failBlock]

@[simp] theorem standing_haltAt (p code desc : Nat) (off : Option Nat) (s : State) : standing (haltAt p code desc off s) = standing s := by
  simp [haltAt]

@[simp] theorem standing_haltBlock (p code desc off : Nat) (s : State) : standing (haltBlock p code desc off s) = standing s := by
  simp [haltBlock]

@[simp] theorem standing_readScratch (p a n : Nat) (s : State) : standing (readScratch p a n s).2 = standing s := by
  refine standing_foldl_snd _ _ fun u x => ?_
  obtain ⟨bs, u⟩ := u
  dsimp only
  split
  · split
    · rfl
    · split
      · exact standing_haltBlock _ _ _ _ _
      · exact standing_record _ _
  · rfl

@[simp] theorem standing_beginTask (p b : Nat) (ts : List (Nat × Nat)) (s : State) : standing (beginTask p b ts s) = standing s := by
  unfold beginTask
  split <;> simp

@[simp] theorem standing_columnFails (p c : Nat) (s : State) : standing (columnFails p c s) = standing s := by simp [columnFails]

@[simp] theorem standing_digestTerm (r type addr mask : Nat) (data : List Byte) (s : State) :
    standing (digestTerm r type addr mask data s) = standing s := by
  simp [digestTerm]

@[simp] theorem standing_digestLines (r off : Nat) (bs : List Byte) (s : State) : standing (digestLines r off bs s) = standing s := by
  simp [digestLines]

/-! ### Remote operations -/

@[simp] theorem standing_cacheDrop (a n : Nat) (s : State) : standing (cacheDrop a n s) = standing s := by simp [cacheDrop]

@[simp] theorem standing_cacheClear (s : State) : standing (cacheClear s) = standing s := by simp [cacheClear]

@[simp] theorem standing_cacheClearRegion (r : Nat) (s : State) : standing (cacheClearRegion r s) = standing s := by simp [cacheClearRegion]

@[simp] theorem standing_endPeg (told : Bool) (n : Nat) (s : State) : standing (endPeg told n s) = standing s := by simp [endPeg]

@[simp] theorem standing_resetWindows (told : Bool) (s : State) : standing (resetWindows told s) = standing s := by simp [resetWindows]

@[simp] theorem standing_finishReq (tag outcome : Nat) (data : List (Nat × List Byte)) (s : State) :
    standing (finishReq tag outcome data s) = standing s := by
  unfold finishReq
  split <;> simp

@[simp] theorem standing_payloadTerms (r : Nat) (p : Packet) (s : State) : standing (payloadTerms r p s) = standing s := by
  unfold payloadTerms
  split <;> simp

@[simp] theorem standing_sendReq (tag : Nat) (s : State) : standing (sendReq tag s) = standing s := by
  unfold sendReq
  split <;> simp

@[simp] theorem standing_countUnderPeg (key : Nat) (p : Packet) (s : State) : standing (countUnderPeg key p s) = standing s := by
  simp [countUnderPeg]

@[simp] theorem standing_issueReq (o : RemOp) (p : Plan) (tag : Nat) (s : State) : standing (issueReq o p tag s) = standing s := by
  simp [issueReq]

@[simp] theorem standing_startTodo (id n : Nat) (s : State) : standing (startTodo id n s) = standing s := by
  induction n generalizing s with
  | zero => rfl
  | succ n ih =>
    unfold startTodo
    split
    · rfl
    · split
      · split
        · simp [ih]
        · rfl
      · rfl

@[simp] theorem standing_pumpOps (s : State) : standing (pumpOps s) = standing s := by
  refine standing_foldl _ _ fun u id => ?_
  split <;> simp

@[simp] theorem standing_failWaiting (key outcome : Nat) (s : State) : standing (failWaiting key outcome s) = standing s :=
  standing_foldl _ _ fun _ _ => rfl

@[simp] theorem standing_claimFor (o : RemOp) (s : State) : standing (claimFor o s) = standing s := by
  unfold claimFor
  dsimp only
  split
  · rfl
  · split <;> simp

@[simp] theorem standing_pumpClaims (s : State) : standing (pumpClaims s) = standing s := by
  refine standing_foldl _ _ fun u id => ?_
  split <;> simp

@[simp] theorem standing_claimFailed (key tag outcome : Nat) (s : State) : standing (claimFailed key tag outcome s) = standing s := by
  simp [claimFailed]

@[simp] theorem standing_numbered (pkt : Packet) (idx : Nat) (s : State) : standing (numbered pkt idx s).2 = standing s := by
  simp [numbered, takeSeq]

@[simp] theorem standing_placeOp (o : RemOp) (s : State) : standing (placeOp o s) = standing s := by
  have hsent : ∀ (l : List Nat) (u : State), standing (l.foldl (fun s d => if o.kind = 11 then s else markSent o.block d s) u) = standing u :=
    fun l u => standing_foldl l u fun v d => by split <;> rfl
  simp [placeOp, hsent]

@[simp] theorem standing_dropRegion (s : State) : standing (dropRegion s) = standing s := by simp [dropRegion]

@[simp] theorem standing_clearOrdering (s : State) : standing (clearOrdering s) = standing s := by simp [clearOrdering]

/-! ### Collectives -/

@[simp] theorem standing_putSpace (w off : Nat) (bs : List Byte) (s : State) : standing (putSpace w off bs s) = standing s := by
  unfold putSpace
  split <;> simp

theorem standing_of_holdSpace {id w off n : Nat} {s u : State} (h : holdSpace id w off n s = some u) : standing u = standing s := by
  unfold holdSpace at h
  split at h
  · cases h
  · cases h
    rfl
  · dsimp only at h
    split at h
    · cases h
    · cases h
      rfl

@[simp] theorem standing_writeSpace (id k w off : Nat) (bs : List Byte) (s : State) : standing (writeSpace id k w off bs s) = standing s := by
  unfold writeSpace
  split
  · next h => simp [standing_of_holdSpace h]
  · simp

@[simp] theorem standing_freeSlotTag (tag : Nat) (s : State) : standing (freeSlotTag tag s) = standing s := by simp [freeSlotTag]

@[simp] theorem standing_releaseHeldSegs (o : ColOp) (s : State) : standing (releaseHeldSegs o s) = standing s :=
  standing_foldl _ _ fun _ _ => rfl

@[simp] theorem standing_resultTerms (o : ColOp) (s : State) : standing (resultTerms o s) = standing s := by simp [resultTerms]

@[simp] theorem standing_writeStatus (o : ColOp) (s : State) : standing (writeStatus o s) = standing s := by
  unfold writeStatus
  dsimp only
  split <;> simp

@[simp] theorem standing_completeCol (id : Nat) (s : State) : standing (completeCol id s) = standing s := by
  unfold completeCol
  split
  · rfl
  · dsimp only
    split <;> simp [postCtr]

@[simp] theorem standing_endCol (code id : Nat) (s : State) : standing (endCol code id s) = standing s := by simp [endCol]

@[simp] theorem standing_writeCounts (id : Nat) (s : State) : standing (writeCounts id s) = standing s := by
  unfold writeCounts
  split <;> simp

@[simp] theorem standing_settleCol (id : Nat) (s : State) : standing (settleCol id s) = standing s := by
  unfold settleCol
  dsimp only
  split <;> simp

@[simp] theorem standing_endSlot (tag code : Nat) (s : State) : standing (endSlot tag code s) = standing s := by
  unfold endSlot
  split <;> simp

@[simp] theorem standing_sendClaim (id i tag : Nat) (x : SendSlot) (engine : Nat) (s : State) :
    standing (sendClaim id i tag x engine s) = standing s := by
  simp [sendClaim]

@[simp] theorem standing_pumpSlots (id n : Nat) (s : State) : standing (pumpSlots id n s) = standing s := by
  induction n generalizing s with
  | zero => rfl
  | succ n ih =>
    unfold pumpSlots
    split
    · rfl
    · split <;> simp [ih]

@[simp] theorem standing_pumpCols (s : State) : standing (pumpCols s) = standing s :=
  standing_foldl _ _ fun u _ => standing_pumpSlots _ _ u

@[simp] theorem standing_pumpAll (s : State) : standing (pumpAll s) = standing s := by simp [pumpAll]

@[simp] theorem standing_abortCols (code : Nat) (s : State) : standing (abortCols code s) = standing s := by simp [abortCols]

@[simp] theorem standing_loseEngine (r : Nat) (s : State) : standing (loseEngine r s) = standing s := by simp [loseEngine]

@[simp] theorem standing_loseCols (s : State) : standing (loseCols s) = standing s := by simp [loseCols]

/-! ### Checkpoints and fills -/

@[simp] theorem standing_coreRequest (cmd kind jobTag type addr : Nat) (payload : List Byte) (s : State) :
    standing (coreRequest cmd kind jobTag type addr payload s) = standing s := by
  simp [coreRequest]

@[simp] theorem standing_dropCore (cmd : Nat) (s : State) : standing (dropCore cmd s) = standing s := by simp [dropCore]

@[simp] theorem standing_imagePiece (s : State) (pos : Nat) : standing (imagePiece s pos).2 = standing s := by
  generalize h : imagePiece s pos = x
  unfold imagePiece at h
  dsimp only at h
  split at h
  · split at h
    · split at h
      · rw [← h, standing_readScratch]
      · rw [← h]
    · rw [← h]
  · split at h
    · rw [← h]
    · split at h
      · rw [← h]
      · split at h <;> rw [← h]

@[simp] theorem standing_putImage (pos : Nat) (buf bs : List Byte) (s : State) : standing (putImage pos buf bs s).2 = standing s := by
  generalize h : putImage pos buf bs s = x
  unfold putImage at h
  dsimp only at h
  split at h
  · split at h
    · rw [← h]
    · split at h
      · rw [← h, standing_modBlk]
      · split at h
        · rw [← h, standing_modBlk]
        · rw [← h]
  · split at h
    · rw [← h, standing_modRmt]
    · split at h
      · rw [← h, standing_modRmt]
      · split at h
        · rw [← h, standing_modRmt]
        · split at h
          · rw [← h, standing_modMem]
          · rw [← h]

@[simp] theorem standing_endCkpt (cmd status value : Nat) (s : State) : standing (endCkpt cmd status value s) = standing s := by simp [endCkpt]

@[simp] theorem standing_ckptSend (cmd : Nat) (s : State) : standing (ckptSend cmd s) = standing s := by
  unfold ckptSend
  split
  · rfl
  · dsimp only
    split
    case h_4 => rw [standing_coreRequest, standing_modCkpt, standing_imagePiece]
    all_goals simp

@[simp] theorem standing_ckptReply (cmd outcome : Nat) (s : State) : standing (ckptReply cmd outcome s) = standing s := by
  unfold ckptReply
  split <;> simp

@[simp] theorem standing_zeroFilled (f : Fill) (s : State) : standing (zeroFilled f s) = standing s := by simp [zeroFilled]

@[simp] theorem standing_restoreFilled (f : Fill) (s : State) : standing (restoreFilled f s) = standing s := by simp [restoreFilled]

@[simp] theorem standing_failFill (status value cause : Nat) (s : State) : standing (failFill status value cause s) = standing s := by
  unfold failFill
  split <;> simp

@[simp] theorem standing_abortFill (cause : Nat) (s : State) : standing (abortFill cause s) = standing s := by simp [abortFill]

@[simp] theorem standing_refuseFill (f : Fill) (status : Nat) (s : State) : standing (refuseFill f status s) = standing s := by
  simp [refuseFill]

@[simp] theorem standing_fillSend (s : State) : standing (fillSend s) = standing s := by
  unfold fillSend
  split
  · rfl
  · dsimp only
    split <;> simp

@[simp] theorem standing_finishFill (s : State) : standing (finishFill s) = standing s := by
  unfold finishFill
  split <;> simp

@[simp] theorem standing_fillOnward (total : Nat) (next : State → State) (s : State) (hnext : ∀ u, standing (next u) = standing u) :
    standing (fillOnward total next s) = standing s := by
  unfold fillOnward
  split <;> simp [hnext]

@[simp] theorem standing_fillImage (s : State) : standing (fillImage s) = standing s := by
  unfold fillImage
  split <;> simp

@[simp] theorem standing_takeFillHeader (f : Fill) (bs : List Byte) (s : State) : standing (takeFillHeader f bs s) = standing s := by
  simp [takeFillHeader]

@[simp] theorem standing_fillRanges (s : State) : standing (fillRanges s) = standing s := by
  unfold fillRanges
  split <;> simp

@[simp] theorem standing_fillTake (bs : List Byte) (s : State) : standing (fillTake bs s) = standing s := by
  unfold fillTake
  split
  · rfl
  · split <;> simp [takeFillList, takeFillData, takeFillImage]

@[simp] theorem standing_fillReply (cmd outcome : Nat) (bs : List Byte) (s : State) : standing (fillReply cmd outcome bs s) = standing s := by
  unfold fillReply
  split <;> simp

@[simp] theorem standing_settleCore (s : State) : standing (settleCore s) = standing s := by simp [settleCore, coreDone]

@[simp] theorem standing_finish (tag outcome : Nat) (data : List (Nat × List Byte)) (s : State) :
    standing (finish tag outcome data s) = standing s := by
  unfold finish
  split <;> simp

@[simp] theorem standing_loseCore (s : State) : standing (loseCore s) = standing s := by
  unfold loseCore
  dsimp only
  split <;> simp

/-! ### Stations, and the end of a job -/

@[simp] theorem standing_stopBlocks (s : State) : standing (stopBlocks s) = standing s := by simp [stopBlocks]

@[simp] theorem standing_abortCkpts (s : State) : standing (abortCkpts s) = standing s := by simp [abortCkpts]

@[simp] theorem standing_abortDmas (s : State) : standing (abortDmas s) = standing s := by simp [abortDmas]

@[simp] theorem standing_abortRemote (s : State) : standing (abortRemote s) = standing s := by simp [abortRemote]

@[simp] theorem standing_bsReport (kind regions station : Nat) (s : State) : standing (bsReport kind regions station s) = standing s := by
  simp [bsReport]

@[simp] theorem standing_jobEnergy (tag : Nat) (s : State) : standing (jobEnergy tag s) = standing s := by simp [jobEnergy]

@[simp] theorem standing_endCommands (s : State) : standing (endCommands s) = standing s := by simp [endCommands]

@[simp] theorem standing_moveBlock (old : Table Block) (b p q : Nat) (s : State) : standing (moveBlock old b p q s) = standing s := by
  unfold moveBlock
  dsimp only
  rw [standing_foldl _ _ fun u g => standing_record _ u, standing_foldl, standing_modBlk]
  intro u x
  split
  · split <;> simp
  · rfl

@[simp] theorem standing_moveBlocks (s : State) : standing (moveBlocks s) = standing s := by
  simp [moveBlocks]

@[simp] theorem standing_dispatchBlock (t : Traverse) (l : Leg) (b : Nat) (s : State) : standing (dispatchBlock t l b s) = standing s := by
  unfold dispatchBlock
  split <;> simp

@[simp] theorem standing_startLeg (j : Nat) (s : State) : standing (startLeg j s) = standing s := by
  unfold startLeg
  split
  · split <;> simp
  · rfl

/-! ### Losses

The end of a RUN takes the device to READY; `apart` forgets the device's state. -/

/-- What stands, but for the device's state. -/
def apart (s : State) : Standing := { standing s with dev := .off }

theorem apart_of_standing {s t : State} (h : standing t = standing s) : apart t = apart s := by rw [apart, h, apart]

theorem apart_enterReady (s : State) : apart (enterReady s) = apart s := by
  unfold enterReady
  split
  · exact apart_of_standing (standing_modPwr s _ fun _ => rfl)
  · have hdev : apart { s with dev := .ready } = apart s := rfl
    exact (apart_of_standing (by simp)).trans hdev

theorem apart_endRun (status value : Nat) (s : State) : apart (endRun status value s) = apart s := by
  unfold endRun
  split
  · rfl
  · dsimp only
    split
    · exact (apart_of_standing (standing_startPark _)).trans ((apart_enterReady _).trans (apart_of_standing (by simp)))
    · exact (apart_enterReady _).trans (apart_of_standing (by simp))

theorem apart_endJob (status value : Nat) (s : State) : apart (endJob status value s) = apart s := by
  unfold endJob
  dsimp only
  generalize hu : endRun status value (abortCols 0x41 (bsReport 3 0 s.job.last s)) = u
  have hrun : apart u = apart s := by
    rw [← hu, apart_endRun]
    exact apart_of_standing (by simp)
  refine (apart_of_standing ?_).trans hrun
  rw [standing_modJob]
  split <;> simp

theorem apart_fenceJob (status value : Nat) (s : State) : apart (fenceJob status value s) = apart s :=
  (apart_of_standing (standing_modMem _ _)).trans (apart_endJob status value s)

theorem apart_stepEight (j : Nat) (s : State) : apart (stepEight j s) = apart s := by
  unfold stepEight
  split
  · split
    · exact apart_endRun _ _ s
    · split
      · exact apart_endRun _ _ s
      · split <;> exact apart_of_standing (by simp)
  · rfl

theorem apart_leaveStation (s : State) : apart (leaveStation s) = apart s := by
  unfold leaveStation
  split
  · split
    · exact apart_stepEight _ s
    · rfl
  · rfl

theorem apart_applyLoss (s : State) : apart (applyLoss s) = apart s :=
  (apart_leaveStation _).trans (apart_of_standing (by simp))

/-- The state right after a region's mark as lost, before anything else of its loss. -/
def markLost (r cause : Nat) (s : State) : State :=
  (s.modRegion r fun x => { x with mode := .lost, cause := cause }).modRing fun g =>
    { g with dir := g.dir.modAll {} (sends r) fun _ d => { d with silent := true, retraining := false } }

theorem loseRegion_eq {r cause : Nat} {s : State} (hl : regionMode s r ≠ .lost) (hr : regionMode s r ≠ .resetting) :
    loseRegion r cause s = tellLoss (some r) cause 0xFF (applyLoss (portsDark r (markLost r cause s))) := by
  simp [loseRegion, hl, hr, markLost]

/-- A region that is lost or being reset is not lost again. -/
theorem loseRegion_again {r cause : Nat} {s : State} (h : regionMode s r = .lost ∨ regionMode s r = .resetting) : loseRegion r cause s = s := by
  rcases h with h | h <;> simp [loseRegion, h]

theorem apart_loseRegion {r cause : Nat} {s : State} (hl : regionMode s r ≠ .lost) (hr : regionMode s r ≠ .resetting) :
    apart (loseRegion r cause s) = apart (s.modRegion r fun x => { x with mode := .lost, cause := cause }) := by
  rw [loseRegion_eq hl hr]
  exact (apart_of_standing (standing_tellLoss _ _ _ _)).trans
    ((apart_applyLoss _).trans (apart_of_standing ((standing_portsDark _ _).trans (standing_modRing _ _ fun _ => rfl))))

/-- All that stands at the loss of a region, whatever its state was, but for the device's state and the regions' modes. -/
theorem loseRegion_leaves (r cause : Nat) (s : State) : { apart (loseRegion r cause s) with region := [] } = { apart s with region := [] } := by
  by_cases h : regionMode s r = .lost ∨ regionMode s r = .resetting
  · rw [loseRegion_again h]
  · rw [not_or] at h
    rw [apart_loseRegion h.1 h.2]
    rfl

end Sys2Proof.Machine

/-! SUPPORT. Proof of the statement about test modes and lost clocks (O46). -/

namespace Sys2Proof.Machine

open Sys2Proof

/-! ### Regions, tests and folds -/

/-- What a loop over states answers about a part that no step of it changes. -/
theorem foldl_view {α β : Type} (view : State → β) {f : State → α → State} (h : ∀ u x, view (f u x) = view u) (l : List α) (s : State) :
    view (l.foldl f s) = view s := by
  induction l generalizing s with
  | nil => rfl
  | cons x xs ih => rw [List.foldl_cons, ih, h]

/-- The regions' service, the results of their tests, and whether a test is under way. -/
def service (s : State) : Table Region × Table TestResult × Bool := (s.flt.region, s.flt.testResult, s.flt.testBusy)

theorem service_of_standing {s t : State} (h : standing t = standing s) : service t = service s :=
  congrArg (fun x : Standing => (x.region, x.results, x.busy)) h

theorem regionAt_of_service {s t : State} (h : service t = service s) (k : Nat) : regionAt t k = regionAt s k :=
  congrArg (fun x : Table Region × Table TestResult × Bool => x.1.get {} k) h

theorem regionMode_of_service {s t : State} (h : service t = service s) (k : Nat) : regionMode t k = regionMode s k :=
  congrArg Region.mode (regionAt_of_service h k)

theorem testResult_of_service {s t : State} (h : service t = service s) : t.flt.testResult = s.flt.testResult :=
  congrArg (fun x : Table Region × Table TestResult × Bool => x.2.1) h

theorem testBusy_of_service {s t : State} (h : service t = service s) : t.flt.testBusy = s.flt.testBusy :=
  congrArg (fun x : Table Region × Table TestResult × Bool => x.2.2) h

section
variable (s : State)

@[simp] theorem service_modFlt (f : Faults → Faults) (hr : ∀ x, (f x).region = x.region) (ht : ∀ x, (f x).testResult = x.testResult)
    (hb : ∀ x, (f x).testBusy = x.testBusy) : service (s.modFlt f) = service s := by
  simp [service, hr, ht, hb]

@[simp] theorem service_modHbm (f : Hbm → Hbm) : service (s.modHbm f) = service s := by simp [service]
@[simp] theorem service_modPwr (f : Power → Power) : service (s.modPwr f) = service s := by simp [service]
@[simp] theorem service_modReg (r : Nat) (f : RegPwr → RegPwr) : service (s.modReg r f) = service s := by simp [service]
@[simp] theorem service_modBlks (f : Blocks → Blocks) : service (s.modBlks f) = service s := by simp [service]
@[simp] theorem service_modRing (f : Ring → Ring) : service (s.modRing f) = service s := by simp [service]
@[simp] theorem service_modJob (f : Job → Job) : service (s.modJob f) = service s := by simp [service]

theorem service_modRegion (r : Nat) (f : Region → Region) :
    service (s.modRegion r f) = ((service s).1.mod {} r f, (service s).2) := by
  simp [service, State.modRegion]

end

theorem regionMode_modRegion (s : State) (k r : Nat) (f : Region → Region) :
    regionMode (s.modRegion k f) r = if r = k then (f (regionAt s k)).mode else regionMode s r := by
  have h := congrArg Region.mode (regionAt_modRegion s k r f)
  rwa [apply_ite Region.mode] at h

/-! ### A write of TEST_CTRL (R468) -/

/-- The rows of the seven test modes. -/
def testRows : List (W64 → Instr) := [.d2dNear, .d2dFar, .oeElec, .oeDriver, .oeOptical, .blockBist, .hbmMarch]

theorem exec_testRow {row : W64 → Instr} (h : row ∈ testRows) (v : W64) (s : State) : exec (row v) s = testStep v.toNat s := by
  simp only [testRows, List.mem_cons, List.not_mem_nil, or_false] at h
  rcases h with rfl | rfl | rfl | rfl | rfl | rfl | rfl <;> rfl

/-- TEST_CTRL after a write of `v`, but for what START does. -/
def setTestCtrl (v : Nat) (s : State) : State :=
  s.modFlt fun f =>
    { f with testParam := bits v 63 32, testRegions := bits v 11 8, testMode := bits v 3 0, testRefused := f.testRefused && !(bit v 30) }

theorem testMay_setTestCtrl (v mode param : Nat) (s : State) : testMay (setTestCtrl v s) mode param = testMay s mode param := rfl

theorem writeTestCtrl_sets {v : Nat} (s : State) (h : bit v 31 = false) : writeTestCtrl v s = setTestCtrl v s := by
  simp [writeTestCtrl, setTestCtrl, h]

theorem writeTestCtrl_refuses {v : Nat} {s : State} (h : bit v 31 = true) (hno : testMay s (bits v 3 0) (bits v 63 32) = false) :
    writeTestCtrl v s = (setTestCtrl v s).modFlt fun f => { f with testRefused := true } := by
  rw [← testMay_setTestCtrl v, setTestCtrl] at hno
  simp [writeTestCtrl, setTestCtrl, h, hno]

theorem writeTestCtrl_starts {v : Nat} {s : State} (h : bit v 31 = true) (hmay : testMay s (bits v 3 0) (bits v 63 32) = true) :
    writeTestCtrl v s = applyLoss ((testRegionsOf (bits v 11 8)).foldl (fun u r => beginTest (bits v 3 0) r u)
      ((setTestCtrl v s).modFlt fun f => { f with testBusy := true })) := by
  rw [← testMay_setTestCtrl v, setTestCtrl] at hmay
  simp [writeTestCtrl, setTestCtrl, h, hmay]

theorem service_beginTest {mode r : Nat} {s : State} (h : regionMode s r ≠ .resetting) :
    service (beginTest mode r s)
      = service ((s.modRegion r fun x => { x with mode := .test }).modFlt fun f => { f with testResult := f.testResult.set {} r { mode := mode } }) := by
  have hnot : (regionMode s r == RegionMode.resetting) = false := by simpa using h
  unfold beginTest
  rw [if_neg (by simp [hnot])]
  refine service_of_standing ((standing_portsDark _ _).trans ?_)
  split
  · exact standing_modRing _ _ fun _ => rfl
  · rfl

theorem regionMode_beginTest {mode r : Nat} {s : State} (h : regionMode s r ≠ .resetting) (k : Nat) :
    regionMode (beginTest mode r s) k = if k = r then .test else regionMode s k :=
  (regionMode_of_service (service_beginTest h) k).trans (regionMode_modRegion s r k fun x => { x with mode := .test })

theorem testResult_beginTest {mode r : Nat} {s : State} (h : regionMode s r ≠ .resetting) :
    (beginTest mode r s).flt.testResult.get {} r = { mode := mode } :=
  (congrArg (·.get {} r) (testResult_of_service (service_beginTest h))).trans (Table.get_set_same _ _ _ _)

/-! ### The end of a test (R469, R470) -/

@[simp] theorem standing_mapOutLost (r : Nat) (un : List Nat) (s : State) : standing (mapOutLost r un s) = standing s := by simp [mapOutLost]

@[simp] theorem service_portsOff (r : Nat) (s : State) : service (portsOff r s) = service s := by
  have hrest : ∀ (u : State) (f : Optics → Optics) (g : Fabric → Fabric), service ((u.modOe f).modFab g) = service u := fun _ _ _ => rfl
  rw [portsOff, hrest]
  exact service_of_standing (by simp)

@[simp] theorem service_resetDies (r : Nat) (s : State) : service (resetDies r s) = service s := by
  have hcache : ∀ u, service (cacheClearRegion r u) = service u := fun u => service_of_standing (standing_cacheClearRegion r u)
  simp [resetDies, hcache]

@[simp] theorem service_quietHbm (r : Nat) (keep : Bool) (s : State) : service (quietHbm r keep s) = service s := by
  have hflush : service (flushRegion r s) = service s := service_of_standing (standing_flushRegion r s)
  cases keep <;> simp [quietHbm, hflush]

theorem service_regionBack (r : Nat) (s : State) :
    service (regionBack r s) = service (s.modRegion r fun x => { x with mode := .up, cmd := none, keep := false }) := by
  simp [regionBack, retrainLinks, service_modRegion]

theorem service_bringBack (r : Nat) (keep : Bool) (un : List Nat) (s : State) :
    service (bringBack r keep un s) = service (s.modRegion r fun x => { x with mode := .up, cmd := none, keep := false }) := by
  have hmoved : ∀ u, service (mapOutLost r un u) = service u := fun u => service_of_standing (standing_mapOutLost r un u)
  cases keep <;> simp [bringBack, service_regionBack, service_modRegion, startClock, zeroRegion, hmoved]

theorem service_endTestRegion (r : Nat) (s : State) :
    service (endTestRegion r s) = service (s.modRegion r fun x => { x with mode := .up, cmd := none, keep := false }) := by
  unfold endTestRegion
  dsimp only
  split
  · rw [service_bringBack]
    simp [service_modRegion]
  · rw [service_regionBack]
    simp [service_modRegion]

/-- The regions in TEST. -/
def tested (s : State) : List Nat := (List.range 4).filter fun r => regionMode s r == .test

theorem mem_tested {s : State} {r : Nat} : r ∈ tested s ↔ r < 4 ∧ regionMode s r = .test := by simp [tested]

/-- Some regions return to service. -/
def endTests (l : List Nat) (s : State) : State := l.foldl (fun s r => endTestRegion r s) s

theorem endTests_leaves (l : List Nat) (s : State) :
    (endTests l s).flt.testResult = s.flt.testResult ∧ (endTests l s).flt.testBusy = s.flt.testBusy :=
  ⟨foldl_view (·.flt.testResult) (fun u r => (testResult_of_service (service_endTestRegion r u)).trans rfl) l s,
    foldl_view (·.flt.testBusy) (fun u r => (testBusy_of_service (service_endTestRegion r u)).trans rfl) l s⟩

theorem regionMode_endTests (l : List Nat) (s : State) (k : Nat) :
    regionMode (endTests l s) k = if k ∈ l then .up else regionMode s k := by
  induction l generalizing s with
  | nil => rfl
  | cons r l ih =>
    have hr : regionMode (endTestRegion r s) k = if k = r then .up else regionMode s k := by
      rw [regionMode_of_service (service_endTestRegion r s), regionMode_modRegion]
    rw [endTests, List.foldl_cons, ← endTests, ih, hr]
    by_cases hk : k = r <;> simp [hk]

/-- Some regions have passed their test. -/
def passTests (l : List Nat) (s : State) : State :=
  l.foldl (fun s r => s.modFlt fun f => { f with testResult := f.testResult.mod {} r fun x => { x with done := true, pass := true } }) s

theorem passTests_leaves (l : List Nat) (s : State) :
    (∀ k, regionMode (passTests l s) k = regionMode s k) ∧ (passTests l s).flt.testBusy = s.flt.testBusy := by
  unfold passTests
  exact ⟨fun k => foldl_view (regionMode · k) (by simp [regionMode]) l s, foldl_view (·.flt.testBusy) (by simp) l s⟩

/-- A mark of a passed test stays through further ones. -/
theorem passTests_passed {l : List Nat} {s : State} {k : Nat}
    (h : k ∈ l ∨ (s.flt.testResult.get {} k).done = true ∧ (s.flt.testResult.get {} k).pass = true) :
    ((passTests l s).flt.testResult.get {} k).done = true ∧ ((passTests l s).flt.testResult.get {} k).pass = true := by
  induction l generalizing s with
  | nil => simpa [passTests] using h
  | cons r l ih =>
    rw [passTests, List.foldl_cons, ← passTests]
    apply ih
    rcases h with h | h
    · rcases List.mem_cons.1 h with rfl | h
      · exact .inr (by simp)
      · exact .inl h
    · by_cases hk : k = r <;> simp [Table.get_mod, hk, h]

theorem exec_testEnd (found : List TestFind) {s : State} (h : s.flt.testBusy = true) :
    exec (.testEnd found) s = .next ((found.filter fun t => (tested s).contains t.region.val).foldl (fun s t => takeFind t s)
      (passTests (tested s) (endTests (tested s) (s.modFlt fun f => { f with testBusy := false })))) :=
  if_pos h

/-- The result of a region of which the test has found `t`. -/
def foundResult (t : TestFind) (x : TestResult) : TestResult :=
  { x with done := true, pass := t.failedUnits == 0, failed := min 65535 t.failedUnits, errors := min 65535 t.errors }

theorem standing_takeFind (t : TestFind) (s : State) :
    standing (takeFind t s) = standing (s.modFlt fun f => { f with testResult := f.testResult.mod {} t.region (foundResult t) }) := by
  have hfound : foundResult t = fun x =>
      { x with done := true, pass := t.failedUnits == 0, failed := min 65535 t.failedUnits, errors := min 65535 t.errors } := rfl
  simp [takeFind, hfound]

/-- What the test has found of a region is its result. -/
theorem testResult_takeFind (t : TestFind) (s : State) :
    (takeFind t s).flt.testResult.get {} t.region = foundResult t (s.flt.testResult.get {} t.region) := by
  have hresults : (takeFind t s).flt.testResult = s.flt.testResult.mod {} t.region (foundResult t) :=
    congrArg Standing.results (standing_takeFind t s)
  rw [hresults, Table.get_mod, if_pos rfl]

/-! ### Lost clocks (R35, R36) -/

/-- The regions whose BCLK or NCLK the window finds lost. -/
def lostClocks (m : ClockMeas) (s : State) : List Nat := (List.range 4).filter (clockLost s m)

theorem mem_lostClocks {m : ClockMeas} {s : State} {r : Nat} : r ∈ lostClocks m s ↔ r < 4 ∧ clockLost s m r = true := by
  simp [lostClocks]

/-- Every region's clocks as the window has judged them. -/
def judgeAll (m : ClockMeas) (s : State) : State :=
  ((List.range 4).map fun r => (r, bclkLost s m r, nclkLost s m r)).foldl (fun s x => judgeClocks x.1 x.2.1 x.2.2 s) s

theorem judgeAll_leaves (m : ClockMeas) (s : State) : (judgeAll m s).flt = s.flt ∧ (judgeAll m s).ring = s.ring := by
  unfold judgeAll
  exact ⟨foldl_view State.flt (by simp [judgeClocks]) _ s, foldl_view State.ring (by simp [judgeClocks]) _ s⟩

/-- The losses of some regions for a lost clock. -/
def loseAll (l : List Nat) (s : State) : State := l.foldl (fun s r => loseRegion r 1 s) s

theorem loseAll_leaves (l : List Nat) (s : State) : (loseAll l s).ring.refLost = s.ring.refLost :=
  foldl_view (·.ring.refLost) (fun u r => congrArg Standing.refLost (loseRegion_leaves r 1 u)) l s

/-- What the window finds of the PCIe and the fabric reference. -/
def judgeRefs (m : ClockMeas) (s : State) : State :=
  let s := if offTarget m.pcieRef 10000 then linkLost s else s
  let u := s.modRing fun g => { g with refLost := offTarget m.fabRef 15625 }
  if offTarget m.fabRef 15625 && !s.ring.refLost then loseFabRef u else u

theorem exec_clockMonitorWindow {m : ClockMeas} {s : State} (h : s.dev ≠ .off) (ha : m.aonStopped = false) :
    exec (.clockMonitorWindow m) s = .next (judgeRefs m (loseAll (lostClocks m s) (judgeAll m s))) := by
  have hrun : exec (.clockMonitorWindow m) s = execClockMonitorWindow m s := rfl
  rw [hrun, execClockMonitorWindow, if_neg (by simpa using h), if_neg (by simp [ha])]
  rfl

theorem exec_clockMonitorWindow_stopped {m : ClockMeas} {s : State} (h : s.dev ≠ .off) (ha : m.aonStopped = true) :
    exec (.clockMonitorWindow m) s = .next (powerDown s) := by
  have hrun : exec (.clockMonitorWindow m) s = execClockMonitorWindow m s := rfl
  rw [hrun, execClockMonitorWindow, if_neg (by simpa using h), if_pos ha]

/-- With no clock lost, every region's next window is judged whole. -/
theorem judgeAll_good {m : ClockMeas} {s : State} (h : ∀ r, r < 4 → clockLost s m r = false) :
    judgeAll m s = [0, 1, 2, 3].foldl (fun u r => judgeClocks r false false u) s := by
  have hgood : ∀ r, r < 4 → bclkLost s m r = false ∧ nclkLost s m r = false := fun r hr => by simpa [clockLost] using h r hr
  have hrange : List.range 4 = [0, 1, 2, 3] := rfl
  simp [judgeAll, hrange, hgood 0, hgood 1, hgood 2, hgood 3]

theorem lostClocks_none {m : ClockMeas} {s : State} (h : ∀ r, r < 4 → clockLost s m r = false) : lostClocks m s = [] := by
  rw [List.eq_nil_iff_forall_not_mem]
  intro r hr
  obtain ⟨hlt, hlost⟩ := mem_lostClocks.1 hr
  simp [h r hlt] at hlost

theorem lostClocks_single {m : ClockMeas} {s : State} {r : Fin 4} (h : clockLost s m r = true)
    (hother : ∀ k, k < 4 → k ≠ r.val → clockLost s m k = false) : lostClocks m s = [r.val] := by
  have honly : ∀ k ∈ List.range 4, clockLost s m k = (k == r.val) := by
    intro k hk
    by_cases hkr : k = r.val
    · simp [hkr, h]
    · simp [hkr, hother k (List.mem_range.1 hk) hkr]
  have hpick : ∀ r : Fin 4, (List.range 4).filter (· == r.val) = [r.val] := by decide
  rw [lostClocks, List.filter_congr honly, hpick]

theorem standing_enterFault (s : State) : standing (enterFault s) = { standing s with dev := .fault } := by
  unfold enterFault
  dsimp only
  generalize hu : State.modPwr _ _ = u
  have hsame : standing u = standing s := by simp [← hu]
  rw [← hsame]
  rfl

theorem standing_loseFabRef (s : State) : standing (loseFabRef s) = { standing s with dev := .fault, engines := [] } := by
  have hdark : ∀ u, standing (u.modOe fun o => { o with eng := [] }) = { standing u with engines := [] } := fun _ => rfl
  rw [loseFabRef, standing_recordFatal, standing_modRing _ _ (by simp), hdark, standing_lightsOut, standing_enterFault]

theorem linkLost_down (s : State) : (linkLost s).host.linkUp = false := by
  unfold linkLost
  split
  · rfl
  · next h => exact (Bool.or_eq_false_iff.1 (Bool.eq_false_iff.2 h)).1

theorem linkLost_leaves (s : State) : (linkLost s).ring = s.ring := by
  unfold linkLost
  split <;> rfl

theorem regionAt_markLost (r cause k : Nat) (s : State) :
    regionAt (markLost r cause s) k = if k = r then { regionAt s r with mode := .lost, cause := cause } else regionAt s k :=
  regionAt_modRegion s r k _

theorem regionAt_loseRegion {r cause : Nat} {s : State} (hl : regionMode s r ≠ .lost) (hr : regionMode s r ≠ .resetting) :
    regionAt (loseRegion r cause s) r = { regionAt s r with mode := .lost, cause := cause } :=
  (congrArg (fun x : Standing => x.region.get {} r) (apart_loseRegion hl hr)).trans ((regionAt_markLost r cause r s).trans (if_pos rfl))

/-- With the fabric reference off its target for the first time, the device has lost it. -/
theorem judgeRefs_fabRef {m : ClockMeas} {s : State} (hoff : offTarget m.fabRef 15625 = true) (hwas : s.ring.refLost = false) :
    ∃ u, u.ring.refLost = true ∧ judgeRefs m s = loseFabRef u := by
  have hkept : (if offTarget m.pcieRef 10000 then linkLost s else s).ring.refLost = false := by
    split
    · rw [linkLost_leaves, hwas]
    · exact hwas
  exact ⟨_, hoff, if_pos (by rw [hkept, hoff]; rfl)⟩

/-- With the PCIe reference off its target, the link is down. -/
theorem judgeRefs_pcieRef {m : ClockMeas} {s : State} (hoff : offTarget m.pcieRef 10000 = true) : (judgeRefs m s).host.linkUp = false := by
  unfold judgeRefs
  dsimp only
  rw [if_pos hoff]
  split
  · exact (congrArg Standing.link (standing_loseFabRef _)).trans (linkLost_down s)
  · exact linkLost_down s

theorem judgeRefs_good {m : ClockMeas} {s : State} (hp : offTarget m.pcieRef 10000 = false) (hf : offTarget m.fabRef 15625 = false) :
    judgeRefs m s = s.modRing fun g => { g with refLost := false } := by
  simp [judgeRefs, hp, hf]

theorem exec_combIbi {s : State} (i : W16) (b : Byte) (h : s.dev ≠ .off) : exec (.combIbi i b) s = .next { s with oe := { s.oe with
    combAddr := some 0x5C, combIfver := 1, combIdent := i.toNat, combStatus := b.toNat % 4 } } :=
  if_neg (by simpa using h)

/-- TEST_END over regions of which nothing is told. -/
theorem testEnd_passes {s : State} (hbusy : s.flt.testBusy = true) : LeadsTo (exec (.testEnd []) s) fun t => t.flt.testBusy = false
    ∧ ∀ r, r < 4 → regionMode s r = .test → regionMode t r = .up ∧ (t.flt.testResult.get {} r).done = true ∧ (t.flt.testResult.get {} r).pass = true := by
  refine ⟨_, exec_testEnd [] hbusy, (passTests_leaves _ _).2.trans (endTests_leaves _ _).2, fun r hr ht => ?_⟩
  have hmine : r ∈ tested s := mem_tested.2 ⟨hr, ht⟩
  exact ⟨((passTests_leaves _ _).1 r).trans ((regionMode_endTests _ _ r).trans (if_pos hmine)), passTests_passed (.inl hmine)⟩

/-- TEST_END with something told of a region in TEST. -/
theorem testEnd_finds {f : TestFind} {s : State} (hbusy : s.flt.testBusy = true) (hf : regionMode s f.region = .test) :
    LeadsTo (exec (.testEnd [f]) s) fun t => ∃ x, t.flt.testResult.get {} f.region = foundResult f x := by
  have hmine : (tested s).contains f.region.val = true := List.contains_iff_mem.2 (mem_tested.2 ⟨f.region.isLt, hf⟩)
  have hone : [f].filter (fun t => (tested s).contains t.region.val) = [f] := List.filter_cons_of_pos hmine
  refine ⟨_, exec_testEnd [f] hbusy, ?_⟩
  rw [hone, List.foldl_cons, List.foldl_nil]
  exact ⟨_, testResult_takeFind f _⟩

/-- The loss of one region's clock, with the references on their targets. -/
theorem clockMonitorWindow_loses {m : ClockMeas} {s : State} {r : Fin 4} (hd : s.dev ≠ .off) (ha : m.aonStopped = false)
    (hlost : clockLost s m r = true) (hother : ∀ k, k < 4 → k ≠ r.val → clockLost s m k = false)
    (hserves : regionMode s r = .up ∨ regionMode s r = .test) (hp : offTarget m.pcieRef 10000 = false) (hf : offTarget m.fabRef 15625 = false) :
    LeadsTo (exec (.clockMonitorWindow m) s) fun t => regionMode t r = .lost ∧ (regionAt t r).cause = 1 ∧ t.ring.refLost = false := by
  have hmode : regionMode (judgeAll m s) r = regionMode s r := by rw [regionMode, (judgeAll_leaves m s).1, regionMode]
  have hl : regionMode (judgeAll m s) r ≠ .lost := by rw [hmode]; rcases hserves with h | h <;> simp [h]
  have hr : regionMode (judgeAll m s) r ≠ .resetting := by rw [hmode]; rcases hserves with h | h <;> simp [h]
  have hsame : ∀ (u : State) (k : Nat), regionAt (u.modRing fun g => { g with refLost := false }) k = regionAt u k := fun _ _ => rfl
  have hnow := (hsame _ r).trans (regionAt_loseRegion (cause := 1) hl hr)
  refine ⟨_, exec_clockMonitorWindow hd ha, ?_⟩
  rw [lostClocks_single hlost hother, judgeRefs_good hp hf, loseAll, List.foldl_cons, List.foldl_nil]
  exact ⟨congrArg Region.mode hnow, congrArg Region.cause hnow, rfl⟩

/-- The loss of the fabric reference, whatever else the window finds. -/
theorem clockMonitorWindow_fabRef {m : ClockMeas} {s : State} (hd : s.dev ≠ .off) (ha : m.aonStopped = false)
    (hoff : offTarget m.fabRef 15625 = true) (hwas : s.ring.refLost = false) :
    LeadsTo (exec (.clockMonitorWindow m) s) fun t => t.dev = .fault ∧ t.ring.refLost = true ∧ t.oe.eng = [] := by
  have hkept : (loseAll (lostClocks m s) (judgeAll m s)).ring.refLost = false := by rw [loseAll_leaves, (judgeAll_leaves m s).2, hwas]
  obtain ⟨u, hlost, hu⟩ := judgeRefs_fabRef hoff hkept
  have hst := standing_loseFabRef u
  rw [exec_clockMonitorWindow hd ha, hu]
  exact ⟨_, rfl, congrArg Standing.dev hst, (congrArg Standing.refLost hst).trans hlost, congrArg Standing.engines hst⟩

/-- Settles O46: a test touches a region through `service`, a lost clock through `loseRegion`, and what else happens then leaves both standing. -/
theorem testModesAndClocks : Obligations.TestModesAndClocks := by
  unfold Obligations.TestModesAndClocks
  refine ⟨fun row v s hrow hw => ?_, fun row v s hrow hw => ?_, fun mode r s hr => ?_, fun s hready hjob hrec hfree => ?_, fun s hbusy hnone => ?_,
    fun s hbusy => testEnd_passes hbusy, fun f s hbusy hf => ?_, fun m s hd => ⟨exec_clockMonitorWindow_stopped hd, fun ha hgood hp hf => ?_,
    fun r ha => clockMonitorWindow_loses hd ha, fun ha => clockMonitorWindow_fabRef hd ha,
    fun ha hoff => ⟨_, exec_clockMonitorWindow hd ha, judgeRefs_pcieRef hoff⟩⟩, fun r b n s => rfl, fun r cause s hl hr => ?_,
    fun i b s hd => exec_combIbi i b hd⟩
  · rw [exec_testRow hrow, testStep, if_pos hw]
    exact ⟨fun h => by rw [writeTestCtrl_sets s h]; rfl, fun h hno => by rw [writeTestCtrl_refuses h hno]; rfl,
      fun h hmay => by rw [writeTestCtrl_starts h hmay]; rfl⟩
  · rw [exec_testRow hrow, testStep, if_neg (by simp [hw])]
  · have hmode := regionMode_beginTest (mode := mode) hr
    exact ⟨(hmode r).trans (if_pos rfl), testResult_beginTest hr, fun k hk => (hmode k).trans (if_neg hk)⟩
  · simp [testMay, hready, hjob, hrec, hfree]
  · have htested : tested s = [] := List.eq_nil_iff_forall_not_mem.2 fun r hr => hnone r (mem_tested.1 hr).1 (mem_tested.1 hr).2
    rw [exec_testEnd [] hbusy, htested, passTests, endTests, List.filter_nil, List.foldl_nil, List.foldl_nil, List.foldl_nil, State.modFlt]
  · obtain ⟨t, hrun, x, hx⟩ := testEnd_finds hbusy hf
    refine ⟨t, hrun, ?_⟩
    beta_reduce
    rw [hx]
    exact ⟨rfl, rfl, beq_iff_eq⟩
  · rw [exec_clockMonitorWindow hd ha, lostClocks_none hgood, judgeAll_good hgood, loseAll, List.foldl_nil, judgeRefs_good hp hf]
  · have hmark := regionAt_markLost r cause
    exact ⟨markLost r cause s, loseRegion_eq hl hr, congrArg Region.mode ((hmark r s).trans (if_pos rfl)),
      congrArg Region.cause ((hmark r s).trans (if_pos rfl)), fun k hk => (hmark k s).trans (if_neg hk)⟩

end Sys2Proof.Machine

/-! SUPPORT. Proof of the statement about parking and resets (O45). -/

namespace Sys2Proof.Machine

open Sys2Proof

/-! ### Running a command over what the memories report -/

theorem SameTurn.takes {s u : State} {i : Nat} {c : InCmd} (h : SameTurn s u) (ht : Takes s i c) : Takes u i c :=
  ⟨h.nextRing ▸ ht.turn, h.entryCmd ▸ ht.entry, h.turnedAway ▸ ht.ok⟩

/-- A command of a row that takes every command of its opcode, but for settings, queries and DET commands. -/
theorem hostStep_own {op i : Nat} {body : InCmd → State → State} {s : State} {c : InCmd} (h : Takes s i c) (hop : c.opcode = op)
    (hrow : opcodeListed op = true ∧ op ≠ 3 ∧ op ≠ 0x0B ∧ op ≠ 6) : hostStep (fun c => c.opcode == op) body s = body c (takeCmd i s) := by
  obtain ⟨hlisted, h3, hb, h6⟩ := hrow
  exact hostStep_takes h (by simp [hop]) (by simp [rowless, hop, hlisted, h3, hb, h6])

theorem meeting_congr {errs : List ReadErr} {f g : State → Out} {s : State}
    (h : ∀ m, f (s.modHbm fun x => { x with meet := m }) = g (s.modHbm fun x => { x with meet := m })) : meeting errs f s = meeting errs g s := by
  unfold meeting
  split
  · exact h s.hbm.meet
  · rw [h errs]

theorem leadsTo_meeting {errs : List ReadErr} {f : State → Out} {s : State} {p : State → Prop}
    (hp : ∀ t, p t → p (t.modHbm fun x => { x with meet := [] })) (h : ∀ m, LeadsTo (f (s.modHbm fun x => { x with meet := m })) p) :
    LeadsTo (meeting errs f s) p := by
  unfold meeting
  split
  · exact h s.hbm.meet
  · obtain ⟨t, ht, hpt⟩ := h errs
    rw [ht]
    exact ⟨_, rfl, hp t hpt⟩

/-- Noting words that cannot be read changes blocks alone. -/
theorem noteUnread_view {β : Type} (view : State → β) (h : ∀ u p f, view (State.modBlk p f u) = view u) (errs : List ReadErr) (s : State) :
    view (noteUnread errs s) = view s := by
  refine foldl_view view (fun u x => ?_) errs s
  split
  · split
    · exact h _ _ _
    · rfl
  · rfl

/-! ### Parking (R33, R430, R433) -/

@[simp] theorem completeAll_dev (ids : List Nat) (status value : Nat) (s : State) : (completeAll ids status value s).dev = s.dev :=
  foldl_view State.dev (fun u i => complete_dev i status value u) ids s

@[simp] theorem completeAll_job (ids : List Nat) (status value : Nat) (s : State) : (completeAll ids status value s).job = s.job :=
  foldl_view State.job (fun u i => complete_job i status value u) ids s

@[simp] theorem completeAll_pins (ids : List Nat) (status value : Nat) (s : State) : (completeAll ids status value s).pins = s.pins :=
  foldl_view State.pins (fun u i => complete_pins i status value u) ids s

@[simp] theorem completeAll_pwr (ids : List Nat) (status value : Nat) (s : State) : (completeAll ids status value s).pwr = s.pwr :=
  foldl_view State.pwr (fun u i => complete_pwr i status value u) ids s

@[simp] theorem completeAll_hbm (ids : List Nat) (status value : Nat) (s : State) : (completeAll ids status value s).hbm = s.hbm :=
  foldl_view State.hbm (fun u i => complete_hbm i status value u) ids s

@[simp] theorem stopPlls_dev (s : State) : (stopPlls s).dev = s.dev := foldl_view State.dev (by simp) _ s

@[simp] theorem stopPlls_hbm (s : State) : (stopPlls s).hbm = s.hbm := foldl_view State.hbm (by simp) _ s

theorem pll_stopPlls {r : Nat} (hr : r < 4) (s : State) : (regPwr (stopPlls s) r).pll = false := by
  have hrange : List.range 4 = [0, 1, 2, 3] := rfl
  interval_cases r <;> simp [stopPlls, hrange, regPwr_modReg]

/-- Keep-alive is the engines' own: entering it changes nothing else. -/
theorem enterKeepalive_view {β : Type} (view : State → β) (h : ∀ u e f, view (State.modEng e f u) = view u) (s : State) :
    view (enterKeepalive s) = view s := by
  unfold enterKeepalive
  exact foldl_view view (fun u e => h u e _) _ s

theorem leaveKeepalive_view {β : Type} (view : State → β) (h : ∀ u e f, view (State.modEng e f u) = view u)
    (ho : ∀ u f, view (State.modOe f u) = view u) (s : State) : view (leaveKeepalive s) = view s := by
  unfold leaveKeepalive
  exact (ho _ _).trans (foldl_view view (fun u e => h u e _) _ s)

theorem dev_of_standing {s t : State} (h : standing t = standing s) : t.dev = s.dev := congrArg Standing.dev h

@[simp] theorem selfRefresh_dev (s : State) : (selfRefresh s).dev = s.dev := by
  rw [selfRefresh, State.modHbm_dev]
  exact dev_of_standing (standing_flushAll s)

theorem selfRefresh_table (s : State) : (selfRefresh s).hbm.selfRefresh = tableOf false [true, true, true, true] := by
  have h : selfRefresh s = (flushAll s).modHbm fun h => { h with selfRefresh := tableOf false [true, true, true, true] } := by rw [selfRefresh]
  rw [h, State.modHbm_hbm]

theorem selfRefresh_all {k : Nat} (hk : k < 4) (s : State) : (selfRefresh s).hbm.selfRefresh.get false k = true := by
  have hall : ∀ k : Fin 4, (tableOf false [true, true, true, true]).get false k = true := by decide
  rw [selfRefresh_table]
  exact hall ⟨k, hk⟩

/-- What the start of the clocks does not change: its loop over the regions moves their power state alone. -/
theorem startClocks_view {β : Type} (view : State → β) (h : ∀ u r f, view (State.modReg r f u) = view u)
    (ha : ∀ u a e, view (State.modPwr (fun p => { p with alert := a, alertEnd := e }) u) = view u) (s : State) :
    view (startClocks s) = view s := by
  refine (foldl_view view (fun u r => ?_) _ _).trans (ha _ _ _)
  split
  · exact h _ _ _
  · rfl

/-- A region in service has its clock once the loop has reached it. -/
theorem pll_startClocks_loop {r : Nat} (l : List Nat) {s : State} (hup : regionUp s r = true) (h : r ∈ l ∨ (regPwr s r).pll = true) :
    (regPwr (l.foldl (fun s k => if regionUp s k then startClock k s else s) s) r).pll = true := by
  induction l generalizing s with
  | nil => simpa using h
  | cons k l ih =>
    rw [List.foldl_cons]
    by_cases hkr : r = k
    · subst hkr
      rw [if_pos hup]
      exact ih hup (.inr (by simp [startClock, regPwr_modReg]))
    · have hl : r ∈ l ∨ (regPwr s r).pll = true := by simpa [hkr] using h
      split
      · refine ih hup (hl.imp_right fun hp => ?_)
        simpa [startClock, regPwr_modReg, hkr] using hp
      · exact ih hup hl

theorem pll_startClocks {r : Nat} (hr : r < 4) {s : State} (hup : regionUp s r = true) : (regPwr (startClocks s) r).pll = true :=
  pll_startClocks_loop _ hup (.inl (List.mem_range.2 hr))

theorem startPark_pwr (s : State) : (startPark s).pwr.parking = true ∧ (startPark s).pwr.clk = [] ∧ (startPark s).pwr.want = [] := by
  unfold startPark stopClocks
  exact ⟨foldl_view (·.pwr.parking) (by simp [State.modReg]) _ _, foldl_view (·.pwr.clk) (by simp [State.modReg]) _ _,
    foldl_view (·.pwr.want) (by simp [State.modReg]) _ _⟩

/-- The device as its clocks, its stacks and VCORE stop. -/
def stopped (s : State) : State := (stopPlls (selfRefresh s)).modPins fun p => { p with vcore := false }

/-- The parking is over; the device's state is kept for the return. -/
def parkingOver (u : State) : State :=
  u.modPwr fun p => { p with parking := false, parkPending := false, parkGrace := false, graceEnd := none, parkCmds := [], parkedFrom := some u.dev }

/-- Where PARK_COMPLETE ends. -/
def parked (s : State) : State :=
  let u := enterKeepalive (stopped s)
  completeAll u.pwr.parkCmds 0 (if (parkingOver u).job.valid then (parkingOver u).job.last else 0) { parkingOver u with dev := .bivouac }

theorem parkComplete_leads {errs : List ReadErr} {s : State} {p : State → Prop} (hpark : s.pwr.parking = true)
    (hp : ∀ t, p t → p (t.modHbm fun x => { x with meet := [] })) (h : ∀ m, p (parked (s.modHbm fun x => { x with meet := m }))) :
    LeadsTo (exec (.parkComplete errs) s) p := by
  have hrun : exec (.parkComplete errs) s = execParkComplete errs s := rfl
  rw [hrun, execParkComplete]
  refine leadsTo_meeting hp fun m => ⟨parked (s.modHbm fun x => { x with meet := m }), ?_, h m⟩
  rw [State.modHbm_pwr, if_pos hpark]
  rfl

theorem parked_spec (s : State) : (parked s).dev = .bivouac ∧ (parked s).pwr.parking = false ∧ (parked s).pwr.parkedFrom = some s.dev
      ∧ (parked s).pwr.parkCmds = [] ∧ (parked s).pins.vcore = false ∧ (∀ k, k < 4 → (parked s).hbm.selfRefresh.get false k = true)
      ∧ (∀ r, r < 4 → (regPwr (parked s) r).pll = false) := by
  have hdev : (enterKeepalive (stopped s)).dev = s.dev := by
    rw [enterKeepalive_view State.dev (by simp)]
    simp [stopped]
  have hpins : (enterKeepalive (stopped s)).pins.vcore = false := by
    rw [enterKeepalive_view State.pins (by simp)]
    rfl
  have hhbm : (enterKeepalive (stopped s)).hbm = (selfRefresh s).hbm := by
    rw [enterKeepalive_view State.hbm (by simp)]
    simp [stopped]
  have hpll : ∀ r, r < 4 → (regPwr (enterKeepalive (stopped s)) r).pll = false := fun r hr => by
    rw [regPwr, enterKeepalive_view State.pwr (by simp)]
    exact pll_stopPlls hr (selfRefresh s)
  rw [parked]
  generalize enterKeepalive (stopped s) = u at *
  rw [completeAll_dev, completeAll_pwr, completeAll_pins, completeAll_hbm]
  refine ⟨rfl, rfl, congrArg some hdev, rfl, hpins, fun k hk => ?_, fun r hr => ?_⟩
  · exact (congrArg (fun h : Hbm => h.selfRefresh.get false k) hhbm).trans (selfRefresh_all hk s)
  · rw [regPwr, completeAll_pwr]
    exact hpll r hr

theorem exec_park {s : State} {i : Nat} {c : InCmd} (h : Takes s i c) (hop : c.opcode = 0x0D) : exec .park s = .next (takePark c (takeCmd i s)) :=
  congrArg Host.Outcome.next (hostStep_own h hop (by decide))

theorem exec_unpark {s : State} {i : Nat} {c : InCmd} (h : Takes s i c) (hop : c.opcode = 0x0E) :
    exec .unpark s = .next (takeUnpark c (takeCmd i s)) :=
  congrArg Host.Outcome.next (hostStep_own h hop (by decide))

theorem takePark_waits {c : InCmd} {s : State} (h : s.dev = .run ∨ s.dev = .backsight) : takePark c s
      = (s.modPwr fun p => { p with parkCmds := p.parkCmds ++ [c.id] }).modPwr fun p => { p with parkPending := true } := by
  rcases h with h | h <;> simp [takePark, h]

theorem takePark_starts {c : InCmd} {s : State} (hrun : s.dev ≠ .run) (hback : s.dev ≠ .backsight) :
    takePark c s = startPark (s.modPwr fun p => { p with parkCmds := p.parkCmds ++ [c.id] }) := by
  simp [takePark, hrun, hback]

/-! ### Unparking (R433) -/

theorem takeUnpark_awake {c : InCmd} {s : State} (h : s.dev ≠ .bivouac) : takeUnpark c s = complete c.id 0 0 s := by
  simp [takeUnpark, h]

theorem takeUnpark_low {c : InCmd} {s : State} (h : s.dev = .bivouac) (hlow : s.pwr.forceMw < s.pwr.floorMw) :
    takeUnpark c s = complete c.id 0x32 0 s := by
  simp [takeUnpark, h, hlow]

theorem takeUnpark_waits {c : InCmd} {s : State} (h : s.dev = .bivouac) (hok : s.pwr.floorMw ≤ s.pwr.forceMw) :
    takeUnpark c s = s.modPwr fun p => { p with unparkCmds := p.unparkCmds ++ [c.id] } := by
  simp [takeUnpark, h, Nat.not_lt.2 hok]

/-- The device as VCORE returns, at rung 5. -/
def waking (s : State) : State :=
  (s.modPins fun p => { p with vcore := true }).modPwr fun p => { p with rationRung := 5, lowTicks := 0, sinceMove := 0 }

/-- The device with its clocks and stacks running again. -/
def running (s : State) : State := leaveKeepalive ((startClocks (waking s)).modHbm fun h => { h with selfRefresh := [] })

/-- Where UNPARK_COMPLETE ends on a device without a RUN. -/
def unparked (s : State) : State :=
  let v := running s
  completeAll v.pwr.unparkCmds 0 0
    (({ v with dev := v.pwr.parkedFrom.getD .ready } : State).modPwr fun p => { p with unparkCmds := [], parkedFrom := none })

/-- Starting the clocks and the stacks changes engines, optics, stacks, the regions' power and the alert alone. -/
theorem running_view {β : Type} (view : State → β) (heng : ∀ u e f, view (State.modEng e f u) = view u) (hoe : ∀ u f, view (State.modOe f u) = view u)
    (hhbm : ∀ u f, view (State.modHbm f u) = view u) (hreg : ∀ u r f, view (State.modReg r f u) = view u)
    (halert : ∀ u a e, view (State.modPwr (fun p => { p with alert := a, alertEnd := e }) u) = view u) (s : State) :
    view (running s) = view (waking s) :=
  (leaveKeepalive_view view heng hoe _).trans ((hhbm _ _).trans (startClocks_view view hreg halert _))

theorem running_pwr (s : State) : (running s).pwr.parkedFrom = s.pwr.parkedFrom ∧ (running s).pwr.rationRung = 5 :=
  ⟨running_view (·.pwr.parkedFrom) (by simp) (by simp) (by simp) (by simp [State.modReg]) (by simp) s,
    running_view (·.pwr.rationRung) (by simp) (by simp) (by simp) (by simp [State.modReg]) (by simp) s⟩

theorem running_pins (s : State) : (running s).pins.vcore = true :=
  running_view (·.pins.vcore) (by simp) (by simp) (by simp) (by simp) (by simp) s

theorem running_job (s : State) : (running s).job = s.job :=
  running_view State.job (by simp) (by simp) (by simp) (by simp) (by simp) s

theorem running_refresh (s : State) : (running s).hbm.selfRefresh = [] := by
  rw [running, leaveKeepalive_view (·.hbm.selfRefresh) (by simp) (by simp)]
  simp

theorem pll_running {r : Nat} (hr : r < 4) {s : State} (hup : regionUp s r = true) : (regPwr (running s) r).pll = true := by
  rw [running, leaveKeepalive_view (fun u => (regPwr u r).pll) (by simp [regPwr]) (by simp [regPwr])]
  rw [regPwr, State.modHbm_pwr]
  exact pll_startClocks (s := waking s) hr hup

theorem unparked_job (s : State) : (unparked s).job = s.job := by
  have h := running_job s
  rw [unparked]
  generalize running s = v at *
  rw [completeAll_job, State.modPwr_job]
  exact h

theorem unparked_spec (s : State) : (unparked s).dev = s.pwr.parkedFrom.getD .ready ∧ (unparked s).pwr.rationRung = 5
      ∧ (unparked s).pwr.unparkCmds = [] ∧ (unparked s).pwr.parkedFrom = none ∧ (unparked s).pins.vcore = true ∧ (unparked s).hbm.selfRefresh = []
      ∧ ∀ r, r < 4 → regionUp s r = true → (regPwr (unparked s) r).pll = true := by
  obtain ⟨hfrom, hrung⟩ := running_pwr s
  have hpll : ∀ r, r < 4 → regionUp s r = true → (regPwr (running s) r).pll = true := fun r hr => pll_running hr
  have hpins := running_pins s
  have hrefresh := running_refresh s
  rw [unparked]
  generalize running s = v at *
  rw [completeAll_dev, completeAll_pwr, completeAll_pins, completeAll_hbm]
  refine ⟨congrArg (Option.getD · Dev.ready) hfrom, hrung, rfl, rfl, hpins, hrefresh, fun r hr hup => ?_⟩
  rw [regPwr, completeAll_pwr]
  exact hpll r hr hup

theorem unparkComplete_leads {errs : List ReadErr} {s : State} {p : State → Prop} (hdev : s.dev = .bivouac) (hcmds : s.pwr.unparkCmds ≠ [])
    (hrun : s.job.run = none) (hp : ∀ t, p t → p (t.modHbm fun x => { x with meet := [] }))
    (h : ∀ m, p (unparked ((noteUnread errs s).modHbm fun x => { x with meet := m }))) : LeadsTo (exec (.unparkComplete errs) s) p := by
  have hexec : exec (.unparkComplete errs) s = execUnparkComplete errs s := rfl
  rw [hexec, execUnparkComplete, moving]
  refine leadsTo_meeting hp fun m => ⟨_, ?_, h m⟩
  have hd : (noteUnread errs s).dev = s.dev := noteUnread_view State.dev (by simp) errs s
  have hc : (noteUnread errs s).pwr = s.pwr := noteUnread_view State.pwr (by simp) errs s
  have hj : (noteUnread errs s).job = s.job := noteUnread_view State.job (by simp) errs s
  rw [State.modHbm_dev, State.modHbm_pwr, if_pos (by simp [hd, hc, hdev, hcmds])]
  have hend : (unparked ((noteUnread errs s).modHbm fun x => { x with meet := m })).job.run = none := by
    rw [unparked_job, State.modHbm_job, hj, hrun]
  generalize (noteUnread errs s).modHbm _ = u at *
  rw [unparked, running, waking] at hend ⊢
  dsimp only at hend ⊢
  rw [hend]

/-! ### RESET_REGION (R465) -/

/-- What a table that keeps entries by their keys answers at a key it does not keep. -/
theorem get_keep_dropped {α : Type} (t : Table α) (d : α) (q : Nat → Bool) {k : Nat} (h : q k = false) : (t.keep fun k _ => q k).get d k = d := by
  induction t with
  | nil => rfl
  | cons e t ih =>
    obtain ⟨j, v⟩ := e
    by_cases hj : q j = true
    · have hjk : j ≠ k := fun hjk => by simp [hjk, h] at hj
      simpa [Table.keep, Table.get, hj, hjk] using ih
    · simpa [Table.keep, hj] using ih

/-- The device after steps 1 and 2 of RESET_REGION: the region's collectives and the job have ended, and the region is lost. -/
def fenced (r : Nat) (s : State) : State :=
  let s := loseEngine r s
  let s := if s.dev == .run || s.dev == .backsight then fenceJob 0x15 s.job.last s else s
  loseRegion r 3 s

theorem fenced_leaves (r : Nat) (s : State) : { apart (fenced r s) with region := [] } = { apart s with region := [] } := by
  have hengine : apart (loseEngine r s) = apart s := apart_of_standing (by simp)
  rw [fenced, loseRegion_leaves, ← hengine]
  split
  · rw [apart_fenceJob]
  · rfl

theorem nclk_fenced (r k : Nat) (s : State) : (regPwr (fenced r s) k).nclk = (regPwr s k).nclk :=
  congrArg (fun x : Standing => x.nclk k) (fenced_leaves r s)

theorem refresh_fenced (r : Nat) (s : State) : (fenced r s).hbm.selfRefresh = s.hbm.selfRefresh :=
  congrArg Standing.refresh (fenced_leaves r s)

/-- Step 3 of RESET_REGION for command `id`, whose stacks keep their contents or not. -/
def emptied (r id : Nat) (keep : Bool) (s : State) : State :=
  resetDies r (quietHbm r keep (s.modRegion r fun x => { x with mode := .resetting, cmd := some id, keep := keep }))

theorem takeResetRegion_refuses {c : InCmd} {s : State} (h : regionMode s c.arg0 = .resetting ∨ regionMode s c.arg0 = .test) :
    takeResetRegion c s = complete c.id 0x15 0 s := by
  rw [takeResetRegion, if_pos]
  rcases h with h | h <;> simp [h]

theorem takeResetRegion_resets {c : InCmd} {s : State} (hr : regionMode s c.arg0 ≠ .resetting) (ht : regionMode s c.arg0 ≠ .test) :
    takeResetRegion c s = emptied c.arg0 c.id (regPwr s c.arg0).nclk (fenced c.arg0 s) := by
  rw [takeResetRegion, if_neg (by simp [hr, ht]), ← nclk_fenced c.arg0 c.arg0 s, emptied, fenced]

theorem regionAt_emptied (r id : Nat) (keep : Bool) (s : State) :
    regionAt (emptied r id keep s) r = { regionAt s r with mode := .resetting, cmd := some id, keep := keep } := by
  have h : service (emptied r id keep s) = _ := (service_resetDies _ _).trans (service_quietHbm _ _ _)
  rw [regionAt_of_service h, regionAt_modRegion, if_pos rfl]

theorem noteLinks_view {β : Type} (view : State → β) (h : ∀ u p l, view (noteLink p l u) = view u) (p : Nat) (s : State) :
    view (noteLinks p s) = view s := by
  refine foldl_view view (fun u l => ?_) _ s
  split
  · rfl
  · exact h u p l

theorem regionMode_emptied (r id : Nat) (keep : Bool) (s : State) : regionMode (emptied r id keep s) r = .resetting :=
  congrArg Region.mode (regionAt_emptied r id keep s)

/-- A region's ports and engines going off touches the engines and the fabric alone. -/
theorem portsOff_view {β : Type} (view : State → β) (hoe : ∀ u f, view (State.modOe f u) = view u) (hfab : ∀ u f, view (State.modFab f u) = view u)
    (r : Nat) (s : State) : view (portsOff r s) = view s := by
  unfold portsOff portsDark
  rw [hfab, hoe, foldl_view view fun u p => noteLinks_view view (fun u p l => hfab u _) p u]
  exact foldl_view view (fun u p => hoe u _) _ s

@[simp] theorem resetDies_hbm (r : Nat) (s : State) : (resetDies r s).hbm = s.hbm := by
  unfold resetDies
  rw [portsOff_view State.hbm (by simp) (by simp)]
  simp [cacheClearRegion]

theorem resetDies_blk (r : Nat) (s : State) : (resetDies r s).blks.blk = s.blks.blk.keep fun p _ => decide (p / 68 ≠ r) := by
  unfold resetDies
  rw [portsOff_view (·.blks.blk) (by simp) (by simp)]
  simp [cacheClearRegion]

theorem blkOf_emptied {r id p : Nat} (keep : Bool) (s : State) (h : p / 68 = r) : blkOf (emptied r id keep s) p = {} := by
  rw [blkOf, emptied, resetDies_blk]
  exact get_keep_dropped _ _ (fun p => decide (p / 68 ≠ r)) (by simp [h])

theorem refresh_quietHbm (r : Nat) (keep : Bool) (s : State) :
    (quietHbm r keep s).hbm.selfRefresh.get false r = (keep || s.hbm.selfRefresh.get false r) := by
  cases keep <;> simp [quietHbm]

theorem refresh_emptied (r id : Nat) (keep : Bool) (s : State) :
    (emptied r id keep s).hbm.selfRefresh.get false r = (keep || s.hbm.selfRefresh.get false r) := by
  rw [emptied, resetDies_hbm, refresh_quietHbm]
  rfl
theorem exec_resetRegion_refuses {errs : List ReadErr} {i : Nat} {c : InCmd} {s : State} (ht : Takes s i c) (hop : c.opcode = 0x0C)
    (h : regionMode s c.arg0 = .resetting ∨ regionMode s c.arg0 = .test) :
    exec (.resetRegion errs) s = meeting errs (fun v => .next (complete c.id 0x15 0 (takeCmd i v))) s := by
  have hrun : exec (.resetRegion errs) s = execResetRegion errs s := rfl
  rw [hrun, execResetRegion]
  refine meeting_congr fun m => ?_
  rw [hostStep_own ((sameTurn_modHbm _ s).takes ht) hop (by decide)]
  exact congrArg Host.Outcome.next (takeResetRegion_refuses (s := takeCmd i _) h)

theorem exec_resetRegion_leads {errs : List ReadErr} {i : Nat} {c : InCmd} {s : State} {p : State → Prop} (ht : Takes s i c) (hop : c.opcode = 0x0C)
    (hr : regionMode s c.arg0 ≠ .resetting) (hn : regionMode s c.arg0 ≠ .test) (hp : ∀ t, p t → p (t.modHbm fun x => { x with meet := [] }))
    (h : ∀ m, p (emptied c.arg0 c.id (regPwr s c.arg0).nclk (fenced c.arg0 (takeCmd i (s.modHbm fun x => { x with meet := m }))))) :
    LeadsTo (exec (.resetRegion errs) s) p := by
  have hrun : exec (.resetRegion errs) s = execResetRegion errs s := rfl
  rw [hrun, execResetRegion]
  refine leadsTo_meeting hp fun m => ⟨_, ?_, h m⟩
  rw [hostStep_own ((sameTurn_modHbm _ s).takes ht) hop (by decide)]
  exact congrArg Host.Outcome.next (takeResetRegion_resets (s := takeCmd i _) hr hn)

/-! ### RESET_REGION_COMPLETE (R465) -/

theorem resetRegionComplete_waits {r : Fin 4} (un : List (Fin 64)) {s : State} (h : (engineOf s (2 * r)).st = 0 ∨ (engineOf s (2 * r + 1)).st = 0) :
    exec (.resetRegionComplete r un) s = .next s := by
  have hrun : exec (.resetRegionComplete r un) s = execResetRegionComplete r un s := rfl
  rw [hrun, execResetRegionComplete, if_neg]
  rcases h with h | h <;> simp [regionEngines, h]

section
variable {r : Fin 4} (un : List (Fin 64)) {s : State} (hmode : regionMode s r = .resetting)
  (h0 : (engineOf s (2 * r)).st ≠ 0) (h1 : (engineOf s (2 * r + 1)).st ≠ 0)
include hmode h0 h1

theorem resetRegionComplete_completes {id : Nat} (hid : (regionAt s r).cmd = some id) :
    exec (.resetRegionComplete r un) s = .next (complete id 0 0 (bringBack r (regionAt s r).keep (un.map fun c => c.val) s)) := by
  have hrun : exec (.resetRegionComplete r un) s = execResetRegionComplete r un s := rfl
  rw [hrun, execResetRegionComplete, if_pos (by simp [hmode, regionEngines, h0, h1])]
  dsimp only
  rw [hid]

theorem resetRegionComplete_ends (hnone : (regionAt s r).cmd = none) :
    exec (.resetRegionComplete r un) s = .next (bringBack r (regionAt s r).keep (un.map fun c => c.val) s) := by
  have hrun : exec (.resetRegionComplete r un) s = execResetRegionComplete r un s := rfl
  rw [hrun, execResetRegionComplete, if_pos (by simp [hmode, regionEngines, h0, h1])]
  dsimp only
  rw [hnone]

end

theorem regionMode_bringBack (r : Nat) (keep : Bool) (un : List Nat) (s : State) : regionMode (bringBack r keep un s) r = .up := by
  rw [regionMode_of_service (service_bringBack r keep un s), regionMode_modRegion, if_pos rfl]

theorem bringBack_trav (r : Nat) (keep : Bool) (un : List Nat) (s : State) : (bringBack r keep un s).job.trav = none := by
  simp [bringBack, regionBack]

theorem bringBack_dram (r : Nat) (un : List Nat) (s : State) : (bringBack r false un s).hbm.dram
    = (mapOutLost r un (s.modHbm fun h => { h with selfRefresh := h.selfRefresh.set false r false })).hbm.dram.keep
        fun a _ => decide (a / 2 ^ 37 ≠ r) := by
  simp [bringBack, regionBack, retrainLinks, startClock, zeroRegion]

/-- No byte of a region whose contents were not kept is anything but zero. -/
theorem bringBack_clears {r : Nat} (un : List Nat) {s : State} {x : Nat × Byte} (hx : x ∈ (bringBack r false un s).hbm.dram) : x.1 / 2 ^ 37 ≠ r := by
  rw [bringBack_dram] at hx
  exact of_decide_eq_true (List.mem_filter.1 hx).2

/-! ### RESET_BLOCK (R466) -/

theorem exec_resetBlock {s : State} {i : Nat} {c : InCmd} (h : Takes s i c) (hop : c.opcode = 0x11) :
    exec .resetBlock s = .next (takeResetBlock c (takeCmd i s)) :=
  congrArg Host.Outcome.next (hostStep_own h hop (by decide))

/-- Taking a command that begins no RUN leaves it open whether a RUN is in progress. -/
theorem runInProgress_takeCmd {s : State} {i : Nat} {c : InCmd} (h : Takes s i c) (hop : c.opcode ≠ 2 ∧ c.opcode ≠ 9) :
    runInProgress (takeCmd i s) = runInProgress s := by
  have hcmds : (takeCmd i s).host.cmds = s.host.cmds ++ [c] := by rw [← h.entry]; rfl
  simp [runInProgress, hcmds, hop]

theorem takeResetBlock_none {c : InCmd} {s : State} (h : physOf s c.arg0 = none) : takeResetBlock c s = complete c.id 1 0 s := by
  rw [takeResetBlock, h]

theorem takeResetBlock_down {c : InCmd} {s : State} {p : Nat} (h : physOf s c.arg0 = some p) (hup : regionUp s (p / 68) = false) :
    takeResetBlock c s = complete c.id 0x15 0 s := by
  rw [takeResetBlock, h]
  simp [hup]

theorem takeResetBlock_running {c : InCmd} {s : State} {p : Nat} (h : physOf s c.arg0 = some p) (hup : regionUp s (p / 68) = true)
    (hrun : runInProgress s = true) (hhalt : (blkOf s p).halted = false) : takeResetBlock c s = complete c.id 3 0 s := by
  rw [takeResetBlock, h]
  simp [hup, hrun, hhalt]

theorem takeResetBlock_empties {c : InCmd} {s : State} {p : Nat} (h : physOf s c.arg0 = some p) (hup : regionUp s (p / 68) = true)
    (hidle : runInProgress s = false ∨ (blkOf s p).halted = true) : takeResetBlock c s
      = ((dropBlock p s).modBlk p fun _ => { halted := true }).modFlt fun f => { f with spUnc := f.spUnc.set 0 p 0 } := by
  rw [takeResetBlock, h]
  rcases hidle with hidle | hidle <;> simp [hup, hidle]

theorem exec_resetBlockComplete {b : Fin 256} {cols : List (Fin 132)} {failed : Bool} {c : InCmd} {p : Nat} {s : State}
    (hc : s.host.cmds.find? (fun c => c.opcode == 0x11 && c.arg0 == b.val) = some c) (hp : physOf s b = some p) :
    exec (.resetBlockComplete b cols failed) s = .next (complete c.id 0 0
      (if failed then failBlock p none (cols.foldl (fun s k => columnFails p k s) s) else cols.foldl (fun s k => columnFails p k s) s)) := by
  have hrun : exec (.resetBlockComplete b cols failed) s = execResetBlockComplete b cols failed s := rfl
  rw [hrun, execResetBlockComplete, hc, hp]

/-! ### RESET_PORT (R467) -/

theorem exec_resetPort {s : State} {i : Nat} {c : InCmd} (h : Takes s i c) (hop : c.opcode = 0x12) :
    exec .resetPort s = .next (takeResetPort c (takeCmd i s)) :=
  congrArg Host.Outcome.next (hostStep_own h hop (by decide))

/-- The device as a port goes off, which forgets the peers behind it. -/
def portQuiet (p : Nat) (s : State) : State :=
  (noteLinks p (portOff p s)).modFab fun f => { f with peer := f.peer.keep fun k _ => decide (k / 34 ≠ p) }

theorem takeResetPort_down {c : InCmd} {s : State} (h : regionUp s (c.arg0 / 4) = false) : takeResetPort c s = complete c.id 0x15 0 s := by
  simp [takeResetPort, h]

theorem takeResetPort_starts {c : InCmd} {s : State} (h : regionUp s (c.arg0 / 4) = true) :
    takeResetPort c s = complete c.id 0 0 (startPort c.arg0 (portQuiet c.arg0 s)) := by
  simp [takeResetPort, h, portQuiet]

theorem peer_portQuiet (p : Nat) (s : State) : (portQuiet p s).fab.peer = s.fab.peer.keep fun k _ => decide (k / 34 ≠ p) := by
  have hnote : (noteLinks p (portOff p s)).fab.peer = s.fab.peer :=
    (noteLinks_view (·.fab.peer) (by simp [noteLink]) p _).trans (by simp [portOff])
  rw [portQuiet, State.modFab_fab, hnote]

theorem peerAt_portQuiet {p k : Nat} (s : State) (h : k / 34 = p) : peerAt (portQuiet p s) k = {} := by
  rw [peerAt, peer_portQuiet]
  exact get_keep_dropped _ _ (fun k => decide (k / 34 ≠ p)) (by simp [h])

/-! ### The statement -/

/-- Settles O45: each command's step is the equation of its case, and what the longer ones lead to is read off `parked`, `unparked`, `emptied`,
`bringBack` and `portQuiet`. -/
theorem parkingAndResets : Obligations.ParkingAndResets := by
  unfold Obligations.ParkingAndResets
  refine ⟨?park, ?parkComplete, ?unpark, ?unparkComplete, ?region, ?waits, ?regionComplete, ?block, ?blockComplete, ?port⟩
  case park =>
    intro i c s ht hop v
    rw [exec_park ht hop]
    refine ⟨fun h => ?_, fun hrun hback => ⟨?_, startPark_pwr v⟩⟩
    · exact congrArg Host.Outcome.next (takePark_waits (s := takeCmd i s) h)
    · exact congrArg Host.Outcome.next (takePark_starts (s := takeCmd i s) hrun hback)
  case parkComplete =>
    intro errs s hpark
    exact parkComplete_leads hpark (fun t h => h) fun m => parked_spec (s.modHbm fun x => { x with meet := m })
  case unpark =>
    intro i c s ht hop
    rw [exec_unpark ht hop]
    refine ⟨fun h => ?_, fun h hlow => ?_, fun h hok => ?_⟩
    · exact congrArg Host.Outcome.next (takeUnpark_awake (s := takeCmd i s) h)
    · exact congrArg Host.Outcome.next (takeUnpark_low (s := takeCmd i s) h hlow)
    · exact congrArg Host.Outcome.next (takeUnpark_waits (s := takeCmd i s) h hok)
  case unparkComplete =>
    intro errs s hdev hcmds hrun
    refine unparkComplete_leads hdev hcmds hrun (fun t h => h) fun m => ?_
    have hspec := unparked_spec ((noteUnread errs s).modHbm fun x => { x with meet := m })
    have hp : (noteUnread errs s).pwr = s.pwr := noteUnread_view State.pwr (by simp) errs s
    have hf : ∀ r, regionUp (noteUnread errs s) r = regionUp s r := fun r =>
      noteUnread_view (fun u => regionUp u r) (fun _ _ _ => rfl) errs s
    rw [State.modHbm_pwr, hp] at hspec
    obtain ⟨h1, h2, h3, h4, h5, h6, h7⟩ := hspec
    exact ⟨h1, h2, h3, h4, h5, h6, fun r hr hup => h7 r hr ((hf r).trans hup)⟩
  case region =>
    intro errs i c s ht hop hr
    refine ⟨fun h => exec_resetRegion_refuses ht hop h, fun hres htest => ?_⟩
    refine exec_resetRegion_leads ht hop hres htest (fun t h => h) fun m => ?_
    refine ⟨regionMode_emptied _ _ _ _, ?_, fun p hp => blkOf_emptied _ _ hp, ?_, ?_⟩
    · rw [regionAt_emptied]
    · rw [regionAt_emptied]
    · rw [refresh_emptied, refresh_fenced]
      rfl
  case waits =>
    intro r un s _ h
    exact resetRegionComplete_waits un h
  case regionComplete =>
    intro r un s hmode h0 h1 t
    refine ⟨fun id hid => resetRegionComplete_completes un hmode h0 h1 hid, fun hnone => resetRegionComplete_ends un hmode h0 h1 hnone,
      regionMode_bringBack _ _ _ _, bringBack_trav _ _ _ _, fun hkeep x hx => ?_⟩
    refine bringBack_clears (un.map fun c => c.val) (s := s) ?_
    rwa [← hkeep]
  case block =>
    intro i c s ht hop
    rw [exec_resetBlock ht hop]
    have hsame : runInProgress (takeCmd i s) = runInProgress s := runInProgress_takeCmd ht (by simp [hop])
    refine ⟨fun h => ?_, fun p h => ⟨fun hup => ?_, fun hup hrun hhalt => ?_, fun hup hidle => ?_⟩⟩
    · exact congrArg Host.Outcome.next (takeResetBlock_none (s := takeCmd i s) h)
    · exact congrArg Host.Outcome.next (takeResetBlock_down (s := takeCmd i s) h hup)
    · exact congrArg Host.Outcome.next (takeResetBlock_running (s := takeCmd i s) h hup (hsame.trans hrun) hhalt)
    · exact congrArg Host.Outcome.next (takeResetBlock_empties (s := takeCmd i s) h hup (hidle.imp_left hsame.trans))
  case blockComplete =>
    intro b cols failed c p s hc hp
    exact exec_resetBlockComplete hc hp
  case port =>
    intro i c s ht hop
    rw [exec_resetPort ht hop]
    refine ⟨fun h => ?_, fun h => ⟨portQuiet c.arg0 (takeCmd i s), ?_, fun k hk => peerAt_portQuiet _ hk, peer_portQuiet _ _⟩⟩
    · exact congrArg Host.Outcome.next (takeResetPort_down (s := takeCmd i s) h)
    · exact congrArg Host.Outcome.next (takeResetPort_starts (s := takeCmd i s) h)

end Sys2Proof.Machine

/-! SUPPORT. Proof of the statement about the arithmetic of atomics (O50). -/

namespace Sys2Proof.Machine

open Sys2Proof

/-! ### The cell of an atomic, and the operations on it (R54, R348) -/

theorem untwos_mod (n a : Nat) : untwos n (a % 2 ^ n) = untwos n a := by simp [untwos]

section
variable (w old a b : Nat)

theorem untwos_atomicMin : untwos (8 * w) (atomicValue 1 w old a b) = min (untwos (8 * w) old) (untwos (8 * w) a) := by
  simp only [atomicValue, untwos_mod]
  split
  · next h => exact (min_eq_left h.le).symm
  · next h => rw [untwos_mod, min_eq_right (not_lt.1 h)]

theorem untwos_atomicMax : untwos (8 * w) (atomicValue 2 w old a b) = max (untwos (8 * w) old) (untwos (8 * w) a) := by
  simp only [atomicValue, untwos_mod]
  split
  · next h => rw [untwos_mod, max_eq_right h.le]
  · next h => exact (max_eq_left (not_lt.1 h)).symm

theorem testBit_atomicAnd (i : Nat) :
    (atomicValue 3 w old a b).testBit i = (old.testBit i && (decide (i < 8 * w) && a.testBit i)) := by
  rw [← Nat.testBit_mod_two_pow]
  exact Nat.testBit_and ..

theorem testBit_atomicOr (i : Nat) :
    (atomicValue 4 w old a b).testBit i = (old.testBit i || (decide (i < 8 * w) && a.testBit i)) := by
  rw [← Nat.testBit_mod_two_pow]
  exact Nat.testBit_or ..

theorem testBit_atomicXor (i : Nat) :
    (atomicValue 5 w old a b).testBit i = (old.testBit i).xor (decide (i < 8 * w) && a.testBit i) := by
  rw [← Nat.testBit_mod_two_pow]
  exact Nat.testBit_xor ..

/-- An atomic's new value fits its cell when the prior value does. -/
theorem atomicValue_lt {w old : Nat} (hw : 0 < w) (hold : old < 2 ^ (8 * w)) (op : Nat) : atomicValue op w old a b < 2 ^ (8 * w) := by
  have hmod : ∀ x, x % 2 ^ (8 * w) < 2 ^ (8 * w) := fun x => Nat.mod_lt _ (Nat.two_pow_pos _)
  unfold atomicValue
  dsimp only
  split
  case h_1 => exact hmod _
  case h_2 => split; exacts [hold, hmod a]
  case h_3 => split; exacts [hmod a, hold]
  case h_4 => exact lt_of_le_of_lt Nat.and_le_left hold
  case h_5 => exact Nat.or_lt_two_pow hold (hmod a)
  case h_6 => exact Nat.xor_lt_two_pow hold (hmod a)
  case h_7 => exact hmod a
  case h_8 => split; exacts [hmod b, hold]
  case h_9 =>
    unfold closureAdd
    split
    · exact Nat.pow_lt_pow_right (by decide) (by omega)
    · exact hmod _

end

/-- CADD is an addition in closure form. -/
theorem atomicCadd (w old a b : Nat) : atomicValue 8 w old a b
    = if old = 2 ^ (8 * w - 1) ∨ a % 2 ^ (8 * w) = 2 ^ (8 * w - 1) then 2 ^ (8 * w - 1) else (old + a) % 2 ^ (8 * w) := by
  simp [atomicValue, closureAdd, closurePoison]

/-- Settles O50, operation by operation; that ADD wraps, SWAP replaces and CAS compares is how the model has them. -/
theorem atomicArithmetic : Obligations.AtomicArithmetic := by
  unfold Obligations.AtomicArithmetic
  intro w old a b hcell hold
  have hw : 0 < w := by omega
  exact ⟨rfl, untwos_atomicMin .., untwos_atomicMax .., testBit_atomicAnd w old a b, testBit_atomicOr w old a b, testBit_atomicXor w old a b, rfl, rfl,
    atomicCadd .., fun op _ => atomicValue_lt a b hw hold op⟩

end Sys2Proof.Machine

/-! SUPPORT. What the sending of a packet leaves alone, and what a fault makes of its block (R190). -/

namespace Sys2Proof.Machine

open Sys2Proof

/-! ### Sending touches the fabric, the host's side and the error log -/

/-- Only the fabric, the host interface, host memory and the error log may differ. -/
structure FabricOnly (s t : State) : Prop where
  eq : t = { s with host := t.host, hostMem := t.hostMem, flt := t.flt, fab := t.fab }

theorem FabricOnly.refl (s : State) : FabricOnly s s := ⟨rfl⟩

theorem FabricOnly.trans {s t u : State} (h : FabricOnly s t) (k : FabricOnly t u) : FabricOnly s u := by
  constructor
  rw [k.eq, h.eq]

theorem FabricOnly.ite {s t u : State} {c : Prop} [Decidable c] (h : FabricOnly s t) (k : FabricOnly s u) : FabricOnly s (if c then t else u) := by
  split <;> assumption

theorem LogOnly.fabric {s t : State} (h : LogOnly s t) : FabricOnly s t := by
  constructor
  conv_lhs => rw [h.eq]
  rw [h.eq]

theorem FabricOnly.blks {s t : State} (h : FabricOnly s t) : t.blks = s.blks := by rw [h.eq]

theorem FabricOnly.rmt {s t : State} (h : FabricOnly s t) : t.rmt = s.rmt := by rw [h.eq]

theorem modFab_only (f : Fabric → Fabric) (s : State) : FabricOnly s (s.modFab f) := ⟨rfl⟩

theorem fabCount_only (k : Nat) (s : State) : FabricOnly s (fabCount k s) := modFab_only _ _

theorem escapeRing_only (c : Carried) (s : State) : FabricOnly s (escapeRing c s) := modFab_only _ _

theorem enqueue_only (key : Nat) (c : Carried) (s : State) : FabricOnly s (enqueue key c s) := FabricOnly.ite (modFab_only _ _) (modFab_only _ _)

theorem fmMessage_only (payload : List Byte) (dev : Nat) (s : State) : FabricOnly s (fmMessage payload dev s) :=
  FabricOnly.ite (((writeStationRecord_only _ _ _).trans (modHost_only _ _)).trans (raiseEvent_only _ _ _ _)).log.fabric (fabCount_only _ _)

theorem deliver_only (c : Carried) (s : State) : FabricOnly s (deliver c s) := by
  have hcredit : FabricOnly s (returnCredit c s) := FabricOnly.ite (FabricOnly.refl s) (modFab_only _ _)
  refine hcredit.trans ?_
  exact FabricOnly.ite
    (FabricOnly.ite (FabricOnly.ite (fmMessage_only _ _ _) (fabCount_only _ _)) (FabricOnly.ite (modFab_only _ _) (fabCount_only _ _)))
    (FabricOnly.ite (fabCount_only _ _) (FabricOnly.ite (modFab_only _ _) (FabricOnly.ite (modFab_only _ _) (modFab_only _ _))))

theorem routePacket_only (relay : Bool) (c : Carried) (s : State) : FabricOnly s (routePacket relay c s) :=
  FabricOnly.ite (deliver_only c s)
    (FabricOnly.ite ((FabricOnly.ite (fabCount_only _ _) (FabricOnly.refl s)).trans (escapeRing_only _ _))
      (FabricOnly.ite (escapeRing_only _ _) (enqueue_only _ _ _)))

theorem sendCol_only (entry : Option (List Nat)) (c : Carried) (s : State) : FabricOnly s (sendCol entry c s) := by
  have hspread : ∀ ws, FabricOnly s (spreadOver c.pkt.src c.pkt.dst ws s) := fun ws => FabricOnly.ite (FabricOnly.refl s) (modFab_only _ _)
  unfold sendCol
  dsimp only
  refine (hspread ((entry.getD []).filter (colLane s c.region))).trans ?_
  split
  · exact (fabCount_only _ _).trans (escapeRing_only _ _)
  · exact (modFab_only _ _).trans (enqueue_only _ _ _)

/-- Sending a packet touches the fabric, the host's side and the error log alone. -/
theorem originate_only (r : Nat) (p : Packet) (s : State) : FabricOnly s (originate r p s) :=
  FabricOnly.ite (FabricOnly.ite (sendCol_only _ _ _) (routePacket_only _ _ _)) (FabricOnly.refl s)

/-- A fatal record with its report to the fabric manager touches the same parts alone (R480). -/
theorem recordFatal_only (r : Record) (s : State) : FabricOnly s (recordFatal r s) :=
  (record_only r s).fabric.trans (FabricOnly.ite (originate_only _ _ _) (fmMessage_only _ _ _))

@[simp] theorem originate_blks (r : Nat) (p : Packet) (s : State) : (originate r p s).blks = s.blks := (originate_only r p s).blks

@[simp] theorem originate_rmt (r : Nat) (p : Packet) (s : State) : (originate r p s).rmt = s.rmt := (originate_only r p s).rmt

@[simp] theorem recordFatal_blks (r : Record) (s : State) : (recordFatal r s).blks = s.blks := (recordFatal_only r s).blks

@[simp] theorem recordFatal_rmt (r : Record) (s : State) : (recordFatal r s).rmt = s.rmt := (recordFatal_only r s).rmt

/-! ### Faults of a block (R190, R458) -/

/-- The block as a fault leaves it. -/
def haltedBy (code : Nat) (off : Option Nat) (k : Block) : Block :=
  { k with halted := true, bad := if code = 0x214 then insertNat (off.getD 0 / 8) k.bad else k.bad }

theorem FabricOnly.modBlk {s t : State} (h : FabricOnly s t) (p : Nat) (f : Block → Block) : FabricOnly (s.modBlk p f) (t.modBlk p f) := by
  constructor
  conv_lhs => rw [h.eq]
  rfl

theorem failBlock_only (p : Nat) (cause : Option Nat) (s : State) : FabricOnly s (failBlock p cause s) :=
  (modFlt_only _ s).fabric.trans (recordFatal_only _ _)

/-- A fault halts its block; for the rest it is a record and its report. -/
theorem haltAt_only (p code desc : Nat) (off : Option Nat) (s : State) :
    FabricOnly (s.modBlk p (haltedBy code off)) (haltAt p code desc off s) := by
  refine ((recordFatal_only _ s).modBlk p _).trans (FabricOnly.ite ?_ (FabricOnly.refl _))
  exact (modFlt_only _ _).fabric.trans (FabricOnly.ite (failBlock_only _ _ _) (FabricOnly.refl _))

@[simp] theorem haltAt_rmt (p code desc : Nat) (off : Option Nat) (s : State) : (haltAt p code desc off s).rmt = s.rmt :=
  (haltAt_only p code desc off s).rmt

@[simp] theorem haltBlock_rmt (p code desc off : Nat) (s : State) : (haltBlock p code desc off s).rmt = s.rmt := haltAt_rmt ..

@[simp] theorem blkOf_modBlk_same (p : Nat) (f : Block → Block) (s : State) : blkOf (s.modBlk p f) p = f (blkOf s p) := Table.get_mod_same ..

theorem blkOf_haltAt (p code desc : Nat) (off : Option Nat) (s : State) :
    blkOf (haltAt p code desc off s) p = haltedBy code off (blkOf s p) :=
  (congrArg (fun b : Blocks => b.blk.get {} p) (haltAt_only p code desc off s).blks).trans (blkOf_modBlk_same ..)

/-- What a fault with its plain offset makes of the block. -/
theorem blkOf_haltBlock (p code desc off : Nat) (s : State) :
    ∃ o, blkOf (haltBlock p code desc off s) p = haltedBy code o (blkOf s p) := ⟨_, blkOf_haltAt ..⟩

end Sys2Proof.Machine

/-! SUPPORT. Proof of the statement about the scalar core (O40). -/

namespace Sys2Proof.Machine

open Sys2Proof

/-! ### Segments and counters under the core's operations -/

@[simp] theorem modSegs_sc (is : List Nat) (f : SegSt → SegSt) (k : Block) : (modSegs is f k).sc = k.sc := by
  induction is generalizing k with
  | nil => rfl
  | cons i is ih => exact ih (modSeg i f k)

@[simp] theorem modSegs_ctr (is : List Nat) (f : SegSt → SegSt) (k : Block) : (modSegs is f k).ctr = k.ctr := by
  induction is generalizing k with
  | nil => rfl
  | cons i is ih => exact ih (modSeg i f k)

/-- What becomes of the segments depends on the segments alone. -/
theorem modSegs_seg_congr (is : List Nat) (f : SegSt → SegSt) {j k : Block} (h : j.seg = k.seg) : (modSegs is f j).seg = (modSegs is f k).seg := by
  induction is generalizing j k with
  | nil => exact h
  | cons i is ih => exact ih (by simp [modSeg, h])

theorem releaseSegs_ok {k : Block} {a n : Nat}
    (h : ∀ i ∈ (List.range n).map (a + ·), (segOf k i).st = .owned ∨ (segOf k i).st = .ready) :
    releaseSegs k a n = .ok (modSegs ((List.range n).map (a + ·)) (fun g => { g with st := .owned }) k) := by
  have hnone : (((List.range n).map (a + ·)).find? fun i => !((segOf k i).st == .owned || (segOf k i).st == .ready)) = none :=
    List.find?_eq_none.2 fun i hi => by simpa [or_iff_not_imp_left] using h i hi
  simp only [releaseSegs, hnone]

/-! ### Faults and retirement (R174) -/

/-- The fault of an instruction halts the block and stops the core. -/
theorem accessFault_stops (p : Nat) (off : Option Nat) (s : State) :
    (blkOf (accessFault p off s) p).halted = true ∧ (blkOf (accessFault p off s) p).sc.running = false := by
  simp [accessFault, blkOf_haltAt, haltedBy, stopScalar]

theorem scalarFault_stops (p code off : Nat) (s : State) :
    (blkOf (scalarFault p code off s) p).halted = true ∧ (blkOf (scalarFault p code off s) p).sc.running = false := by
  obtain ⟨o, h⟩ := blkOf_haltBlock p code 0 off (s.modBlk p stopScalar)
  simp [scalarFault, h, haltedBy, stopScalar]

@[simp] theorem blkOf_retire (p pc : Nat) (f : Scalar → Scalar) (s : State) :
    blkOf (retire p pc f s) p = { blkOf s p with sc := { f (blkOf s p).sc with pc := pc, instret := (blkOf s p).sc.instret + 1 } } :=
  blkOf_modBlk_same ..

theorem blkOf_retire_other {p q : Nat} (pc : Nat) (f : Scalar → Scalar) (s : State) (h : q ≠ p) : blkOf (retire p pc f s) q = blkOf s q := by
  rw [retire, blkOf_modBlk, if_neg h]

/-! ### The step of the core -/

/-- The core of block `b` executes the instruction `w` of length `len` next. -/
structure Fetched (s : State) (b p w len : Nat) : Prop where
  phys : physOf s b = some p
  runs : scalarRuns s b (blkOf s p) = true
  fetch : fetchScalar (blkOf s p) = some (w, len)

/-- The row that an instruction belongs to executes it. -/
theorem Fetched.step {s : State} {b : Fin 256} {p w len : Nat} (h : Fetched s b p w len) {custom : Option Nat} (hc : customOf w = custom)
    (body : Nat → Nat → Nat → State → State) : scalarStep custom b .none body s = .next (body p w len s) := by
  simp [scalarStep, h.phys, h.runs, h.fetch, hc, meetSp]

theorem customOf_ordinary {w op : Nat} (h : bits w 6 0 = op) (hne : op ≠ 0x0B) : customOf w = none := by simp [customOf, h, hne]

/-- An ordinary instruction is executed as RV64IM has it. -/
theorem Fetched.ordinary {s : State} {b : Fin 256} {p w len : Nat} (h : Fetched s b p w len) (hc : customOf w = none) :
    exec (.scalarInstruction b .none) s = .next (scalarExec p b w len s) :=
  h.step hc fun p w len s => scalarExec p b w len s

/-- An instruction that cannot be fetched stops the core. -/
theorem unfetched_faults {s : State} {b : Fin 256} {p : Nat} (hp : physOf s b = some p) (hr : scalarRuns s b (blkOf s p) = true)
    (hf : fetchScalar (blkOf s p) = none) : exec (.scalarInstruction b .none) s = .next (scalarFault p 0x20F 0 s) := by
  have hrun : exec (.scalarInstruction b .none) s = execScalarInstruction b .none s := rfl
  simp [hrun, execScalarInstruction, scalarStep, hp, hr, hf]

/-! ### Instructions of RV64IM -/

section
variable (p b w len : Nat) (s : State)

/-- An opcode outside RV64IM faults. -/
theorem scalarExec_unlisted (h : bits w 6 0 ∉ [0x37, 0x17, 0x6F, 0x67, 0x63, 0x03, 0x23, 0x13, 0x1B, 0x33, 0x3B, 0x0F, 0x73]) :
    scalarExec p b w len s = scalarFault p 0x20F 0 s := by
  unfold scalarExec
  dsimp only
  split <;> simp_all

/-- ECALL and EBREAK fault, as any SYSTEM instruction that reads no CSR. -/
theorem systemStep_noRead (pc : Nat) (h : bits w 14 12 = 0) : systemStep p b w pc s = scalarFault p 0x20F 0 s := by
  unfold systemStep
  dsimp only
  split <;> simp [h]

theorem scalarExec_addi (hop : bits w 6 0 = 0x13) (hf : bits w 14 12 = 0) : scalarExec p b w len s
    = retire p ((blkOf s p).sc.pc + len) (xSet (bits w 11 7) (xGet (blkOf s p).sc (bits w 19 15) + sext 12 (bits w 31 20))) s := by
  simp [scalarExec, hop, hf, aluOp]

theorem scalarExec_add (hop : bits w 6 0 = 0x33) (hf : bits w 14 12 = 0) (hg : bits w 31 25 = 0) : scalarExec p b w len s
    = retire p ((blkOf s p).sc.pc + len)
        (xSet (bits w 11 7) (xGet (blkOf s p).sc (bits w 19 15) + xGet (blkOf s p).sc (bits w 24 20))) s := by
  simp [scalarExec, hop, hf, hg, aluOp]

theorem scalarExec_lui (hop : bits w 6 0 = 0x37) : scalarExec p b w len s
    = retire p ((blkOf s p).sc.pc + len) (xSet (bits w 11 7) (sext 32 (bits w 31 12 * 4096))) s := by
  simp only [scalarExec, hop]

theorem scalarExec_jal (hop : bits w 6 0 = 0x6F) : scalarExec p b w len s
    = retire p (BitVec.ofNat 64 (blkOf s p).sc.pc
          + sext 21 (bits w 31 31 * 2 ^ 20 + bits w 19 12 * 2 ^ 12 + bits w 20 20 * 2 ^ 11 + bits w 30 21 * 2)).toNat
        (xSet (bits w 11 7) (BitVec.ofNat 64 ((blkOf s p).sc.pc + len))) s := by
  simp only [scalarExec, hop]

theorem scalarExec_branch {t : Bool} (hop : bits w 6 0 = 0x63)
    (h : branchTaken (bits w 14 12) (xGet (blkOf s p).sc (bits w 19 15)) (xGet (blkOf s p).sc (bits w 24 20)) = some t) :
    scalarExec p b w len s
      = retire p (if t then (BitVec.ofNat 64 (blkOf s p).sc.pc
            + sext 13 (bits w 31 31 * 2 ^ 12 + bits w 7 7 * 2 ^ 11 + bits w 30 25 * 32 + bits w 11 8 * 2)).toNat
          else (blkOf s p).sc.pc + len) id s := by
  simp only [scalarExec, hop, h]

theorem scalarExec_branch_unlisted (hop : bits w 6 0 = 0x63) (hf : bits w 14 12 = 2 ∨ bits w 14 12 = 3) :
    scalarExec p b w len s = scalarFault p 0x20F 0 s := by
  rcases hf with hf | hf <;> simp [scalarExec, hop, hf, branchTaken]

theorem scalarExec_load {v : Nat} (hop : bits w 6 0 = 0x03) (hf : bits w 14 12 < 7)
    (h : loadScalar (blkOf s p) (xGet (blkOf s p).sc (bits w 19 15) + sext 12 (bits w 31 20)).toNat (2 ^ (bits w 14 12 % 4)) = .ok v) :
    scalarExec p b w len s = retire p ((blkOf s p).sc.pc + len)
      (xSet (bits w 11 7) (if bits w 14 12 < 4 then sext (8 * 2 ^ (bits w 14 12 % 4)) v else BitVec.ofNat 64 v)) s := by
  simp only [scalarExec, hop, hf.ne, if_false, h]

theorem scalarExec_load_refused {o : Option Nat} (hop : bits w 6 0 = 0x03) (hf : bits w 14 12 < 7)
    (h : loadScalar (blkOf s p) (xGet (blkOf s p).sc (bits w 19 15) + sext 12 (bits w 31 20)).toNat (2 ^ (bits w 14 12 % 4)) = .error o) :
    scalarExec p b w len s = accessFault p o s := by
  simp only [scalarExec, hop, hf.ne, if_false, h]

theorem scalarExec_store {k : Block} (hop : bits w 6 0 = 0x23) (hf : bits w 14 12 < 4)
    (h : storeScalar (blkOf s p) (xGet (blkOf s p).sc (bits w 19 15) + sext 12 (bits w 31 25 * 32 + bits w 11 7)).toNat (2 ^ bits w 14 12)
      ((xGet (blkOf s p).sc (bits w 24 20)).toNat % 2 ^ (8 * 2 ^ bits w 14 12)) = .ok k) :
    scalarExec p b w len s = retire p ((blkOf s p).sc.pc + len) id (s.modBlk p fun _ => k) := by
  simp only [scalarExec, hop, show ¬3 < bits w 14 12 by omega, if_false, h]

theorem scalarExec_store_refused {o : Option Nat} (hop : bits w 6 0 = 0x23) (hf : bits w 14 12 < 4)
    (h : storeScalar (blkOf s p) (xGet (blkOf s p).sc (bits w 19 15) + sext 12 (bits w 31 25 * 32 + bits w 11 7)).toNat (2 ^ bits w 14 12)
      ((xGet (blkOf s p).sc (bits w 24 20)).toNat % 2 ^ (8 * 2 ^ bits w 14 12)) = .error o) :
    scalarExec p b w len s = accessFault p o s := by
  simp only [scalarExec, hop, show ¬3 < bits w 14 12 by omega, if_false, h]

end

/-! ### Custom instructions (R172, R173) -/

section
variable {s : State} {b : Fin 256} {p w len : Nat} (h : Fetched s b p w len)
include h

theorem Fetched.post (hc : customOf w = some 0) : exec (.scPost b .none) s
    = .next (postCtr p ((xGet (blkOf s p).sc (bits w 19 15)).toNat % 64) ((xGet (blkOf s p).sc (bits w 24 20)).toNat % 2 ^ 32)
        (retire p ((blkOf s p).sc.pc + len) id s)) := by
  have hrun : exec (.scPost b .none) s = execScPost b .none s := rfl
  rw [hrun, execScPost, h.step hc, customArgs]

theorem Fetched.wait (hc : customOf w = some 1) : exec (.scWait b .none) s
    = .next (if reached (ctrOf (blkOf s p) ((xGet (blkOf s p).sc (bits w 19 15)).toNat % 64)) ((xGet (blkOf s p).sc (bits w 24 20)).toNat % 2 ^ 32)
        then retire p ((blkOf s p).sc.pc + len) id s else s) := by
  have hrun : exec (.scWait b .none) s = execScWait b .none s := rfl
  rw [hrun, execScWait, h.step hc, customArgs]

theorem Fetched.read (hc : customOf w = some 2) : exec (.scRead b .none) s
    = .next (retire p ((blkOf s p).sc.pc + len)
        (xSet (bits w 11 7) (BitVec.ofNat 64 (ctrOf (blkOf s p) ((xGet (blkOf s p).sc (bits w 19 15)).toNat % 64)))) s) := by
  have hrun : exec (.scRead b .none) s = execScRead b .none s := rfl
  rw [hrun, execScRead, h.step hc, customArgs]

theorem Fetched.segst (hc : customOf w = some 3) : exec (.scSegst b .none) s
    = .next (retire p ((blkOf s p).sc.pc + len)
        (xSet (bits w 11 7) (BitVec.ofNat 64 (segCode (segOf (blkOf s p) ((xGet (blkOf s p).sc (bits w 19 15)).toNat % 2048))))) s) := by
  have hrun : exec (.scSegst b .none) s = execScSegst b .none s := rfl
  rw [hrun, execScSegst, h.step hc, customArgs]

/-- SC.RELEASE of segments that are all OWNED or READY. -/
theorem Fetched.release (hc : customOf w = some 4) {a n : Nat}
    (ha : (xGet (blkOf s p).sc (bits w 19 15)).toNat = a) (hn : (xGet (blkOf s p).sc (bits w 24 20)).toNat = n)
    (h1 : 1 ≤ n) (hle : a + n ≤ 1536) (hst : ∀ i ∈ (List.range n).map (a + ·), (segOf (blkOf s p) i).st = .owned ∨ (segOf (blkOf s p) i).st = .ready) :
    exec (.scRelease b .none) s = .next (retire p ((blkOf s p).sc.pc + len) id
      (s.modBlk p (modSegs ((List.range n).map (a + ·)) fun g => { g with st := .owned }))) := by
  have hrun : exec (.scRelease b .none) s = execScRelease b .none s := rfl
  rw [hrun, execScRelease, h.step hc]
  simp only [customArgs, ha, hn, releaseSegs_ok hst, show ¬(n = 0 ∨ 1536 < a + n) by omega, if_false]
  rfl

/-- SC.EXIT stops the core, posts, and lets the granted segments go. -/
theorem Fetched.exit (hc : customOf w = some 5) :
    let c := (blkOf s p).sc
    LeadsTo (exec (.scExit b .none) s) fun t => (blkOf t p).sc.running = false
      ∧ ctrOf (blkOf t p) c.post = (ctrOf (blkOf s p) c.post + 1) % 2 ^ 32
      ∧ (blkOf t p).seg = (modSegs ((List.range c.count).map (c.seg + ·)) SegSt.drop (blkOf s p)).seg := by
  intro c
  have hrun : exec (.scExit b .none) s = execScExit b .none s := rfl
  rw [hrun, execScExit, h.step hc]
  refine ⟨_, rfl, ?_, ?_, ?_⟩
  · simp [postCtr]
  · rw [ctrOf_postCtr]
    simp [ctrOf, c]
  · simp only [postCtr, blkOf_modBlk_same, blkOf_retire]
    exact modSegs_seg_congr _ _ rfl

end

/-! ### The statement -/

/-- Settles O40: the step of each instruction is the equation of its case, and every fault halts the block with its core stopped. -/
theorem scalarCore : Obligations.ScalarCore := by
  unfold Obligations.ScalarCore
  refine ⟨fun b p w len s ⟨hp, hr, hf⟩ => ?runs, fun b p w len s hp hr => ?stops, fun p pc f s => ?retires, fun c v => ⟨rfl, rfl⟩⟩
  case runs =>
    have h : Fetched s b p w len := ⟨hp, hr, hf⟩
    have hord : ∀ op, bits w 6 0 = op → op ≠ 0x0B → exec (.scalarInstruction b .none) s = .next (scalarExec p b w len s) :=
      fun op hop hne => h.ordinary (customOf_ordinary hop hne)
    refine ⟨fun hop hf => ?addi, fun hop hf hg => ?add, fun hop => ?lui, fun hop hf => ?beq, fun hop => ?jal, fun v hop hf hl => ?load,
      fun v hop hlo hf hl => ?loadU, fun k hop hf hs => ?store, h.post, h.wait, h.read, h.segst,
      fun hc => h.release hc rfl rfl, h.exit⟩
    case addi => rw [hord _ hop (by decide), scalarExec_addi _ _ _ _ _ hop hf]
    case add => rw [hord _ hop (by decide), scalarExec_add _ _ _ _ _ hop hf hg]
    case lui => rw [hord _ hop (by decide), scalarExec_lui _ _ _ _ _ hop]
    case beq =>
      have ht : branchTaken (bits w 14 12) (xGet (blkOf s p).sc (bits w 19 15)) (xGet (blkOf s p).sc (bits w 24 20))
          = some (xGet (blkOf s p).sc (bits w 19 15) == xGet (blkOf s p).sc (bits w 24 20)) := by rw [hf]; rfl
      rw [hord _ hop (by decide), scalarExec_branch _ _ _ _ _ hop ht]
      simp only [beq_iff_eq]
    case jal => rw [hord _ hop (by decide), scalarExec_jal _ _ _ _ _ hop]
    case load =>
      have hmod : bits w 14 12 % 4 = bits w 14 12 := Nat.mod_eq_of_lt hf
      rw [hord _ hop (by decide), scalarExec_load _ _ _ _ _ hop (by omega) (hmod.symm ▸ hl), if_pos hf, hmod]
    case loadU =>
      have hmod : bits w 14 12 % 4 = bits w 14 12 - 4 := by omega
      rw [hord _ hop (by decide), scalarExec_load _ _ _ _ _ hop hf (hmod.symm ▸ hl), if_neg (by omega)]
    case store => rw [hord _ hop (by decide), scalarExec_store _ _ _ _ _ hop hf hs]
  case stops =>
    have hfault : ∀ code off, LeadsTo (.next (scalarFault p code off s)) fun t => (blkOf t p).halted = true ∧ (blkOf t p).sc.running = false :=
      fun code off => ⟨_, rfl, scalarFault_stops p code off s⟩
    refine ⟨fun hf => ?_, fun hf => ?_⟩
    · rw [unfetched_faults hp hr hf]
      exact hfault _ _
    have h : Fetched s b p w len := ⟨hp, hr, hf⟩
    refine ⟨fun hop hc => ?unlisted, fun hop hbad => ?custom, fun hop hf => ?branch, fun hop hf => ?system, fun o hop hf hl => ?loadRefused,
      fun o hop hf hs => ?storeRefused⟩
    case unlisted =>
      rw [h.ordinary hc, scalarExec_unlisted _ _ _ _ _ hop]
      exact hfault _ _
    case custom =>
      have hc : customOf w = none := if_neg (by omega)
      rw [h.ordinary hc, scalarExec_unlisted _ _ _ _ _ (by rw [hop]; decide)]
      exact hfault _ _
    case branch =>
      rw [h.ordinary (customOf_ordinary hop (by decide)), scalarExec_branch_unlisted _ _ _ _ _ hop hf]
      exact hfault _ _
    case system =>
      have hsys : scalarExec p b w len s = systemStep p b w ((blkOf s p).sc.pc + len) s := by simp only [scalarExec, hop]
      rw [h.ordinary (customOf_ordinary hop (by decide)), hsys, systemStep_noRead _ _ _ _ _ hf]
      exact hfault _ _
    case loadRefused =>
      have hmod : bits w 14 12 % 4 = bits w 14 12 := Nat.mod_eq_of_lt hf
      rw [h.ordinary (customOf_ordinary hop (by decide)), scalarExec_load_refused _ _ _ _ _ hop (by omega) (hmod.symm ▸ hl)]
      exact ⟨_, rfl, accessFault_stops p o s⟩
    case storeRefused =>
      rw [h.ordinary (customOf_ordinary hop (by decide)), scalarExec_store_refused _ _ _ _ _ hop hf hs]
      exact ⟨_, rfl, accessFault_stops p o s⟩
  case retires =>
    rw [blkOf_retire]
    exact ⟨rfl, rfl, fun q hq => blkOf_retire_other pc f s hq⟩

end Sys2Proof.Machine

/-! SUPPORT. Proof of the statement about remote descriptors (O47). -/

namespace Sys2Proof.Machine

open Sys2Proof

/-! ### The issue of a bundle (R157 to R159) -/

/-- The bundle in turn issues for a row that names one of its slots. -/
theorem InTurn.step {s : State} {b p : Nat} {bv : BitVec 256} (h : InTurn s b p bv) {mine : Block → Nat → Bool}
    (hm : mine (afterCtl b p bv.toNat s) bv.toNat = true) : bundleStep b .none mine s = .next (issueBundle b p bv.toNat s) := by
  have hrun : bundleRun b .none mine s = issueBundle b p bv.toNat s := by
    simp [bundleRun, h.phys, h.bundle, h.issues, h.good, h.may, hm, meetError, meetSp]
  exact congrArg Host.Outcome.next hrun

theorem Issued.issue {s u : State} {b p : Nat} {bv : BitVec 256} {l : SlotReads} (h : Issued s b p bv u l) :
    issueBundle b p bv.toNat s = passBundle p b (dmaPart b p bv.toNat l (vecPart p bv.toNat l (arrPart p bv.toNat l u))) := by
  simp [issueBundle, h.ctl, h.reads]

theorem Issued.afterCtl {s u : State} {b p : Nat} {bv : BitVec 256} {l : SlotReads} (h : Issued s b p bv u l) :
    afterCtl b p bv.toNat s = blkOf u p := by
  simp [Machine.afterCtl, h.ctl]

/-- A DMA slot whose descriptors have been read holds the descriptor that it names. -/
theorem readDesc_of_readSlots {k : Block} {w : Nat} {l : SlotReads} (h : readSlots k w = .ok l) (hv : slotValid w 3 = true) :
    readDesc k 2 (bits (slotWord w 3) 62 55) = .ok l.dma := by
  have hdma : readDma k (slotWord w 3) = .ok l.dma := by
    simp only [readSlots, hv, if_true] at h
    split at h
    · cases h
    split at h
    · cases h
    split at h
    · cases h
    next d hd =>
      cases h
      exact hd
  simp only [readDma] at hdma
  split at hdma
  · cases hdma
  next raw hraw =>
    rw [hraw]
    split at hdma
    · cases hdma
    split at hdma <;> split at hdma <;> cases hdma <;> rfl

theorem dmaKind_of_readDesc {k : Block} {x : Nat} {raw : List Byte} (h : readDesc k 2 (bits x 62 55) = .ok raw) :
    dmaKind k x = field raw 0 1 := by
  simp [dmaKind, h]

/-- The rows of the remote descriptors, by KIND (R326). -/
def remoteRows : List (Nat × (Fin 256 → HwErr → Instr)) :=
  [(5, .rload), (6, .rstore), (7, .ratomic), (8, .pegClaimDescriptor), (9, .notify), (10, .inval), (11, .fenceDescriptor)]

theorem remoteRows_spec {kind : Nat} {row : Fin 256 → HwErr → Instr} (h : (kind, row) ∈ remoteRows) :
    5 ≤ kind ∧ kind ≤ 11 ∧ ∀ b e s, exec (row b e) s = descStep kind b e s := by
  simp only [remoteRows, List.mem_cons, Prod.mk.injEq, List.not_mem_nil, or_false] at h
  rcases h with ⟨rfl, rfl⟩ | ⟨rfl, rfl⟩ | ⟨rfl, rfl⟩ | ⟨rfl, rfl⟩ | ⟨rfl, rfl⟩ | ⟨rfl, rfl⟩ | ⟨rfl, rfl⟩ <;>
    exact ⟨by decide, by decide, fun _ _ _ => rfl⟩

theorem remoteKind_of_row {kind : Nat} {row : Fin 256 → HwErr → Instr} (h : (kind, row) ∈ remoteRows) : remoteKind kind = true := by
  obtain ⟨h5, h11, -⟩ := remoteRows_spec h
  simp only [remoteKind, Bool.and_eq_true, decide_eq_true_eq]
  omega

/-- A bundle with a remote descriptor in its DMA slot issues for the descriptor's row. -/
theorem exec_remoteRow {kind : Nat} {row : Fin 256 → HwErr → Instr} (hrow : (kind, row) ∈ remoteRows) {b : Fin 256} {p : Nat} {bv : BitVec 256}
    {s : State} {raw : List Byte} (ht : InTurn s b p bv) (hv : slotValid bv.toNat 3 = true)
    (hd : readDesc (afterCtl b p bv.toNat s) 2 (bits (slotWord bv.toNat 3) 62 55) = .ok raw) (hk : field raw 0 1 = kind) :
    exec (row b .none) s = .next (issueBundle b p bv.toNat s) := by
  obtain ⟨-, -, hstep⟩ := remoteRows_spec hrow
  rw [hstep, descStep, ht.step]
  simp [hv, dmaKind_of_readDesc hd, hk]

/-- The bundle issues whole, with its remote descriptor. -/
theorem Issued.remote {kind : Nat} {row : Fin 256 → HwErr → Instr} (hrow : (kind, row) ∈ remoteRows) {b : Fin 256} {p : Nat} {bv : BitVec 256}
    {s u : State} {l : SlotReads} (h : Issued s b p bv u l) (hv : slotValid bv.toNat 3 = true) (hk : field l.dma 0 1 = kind) :
    exec (row b .none) s = .next (passBundle p b (dmaPart b p bv.toNat l (vecPart p bv.toNat l (arrPart p bv.toNat l u)))) := by
  rw [← h.issue]
  exact exec_remoteRow hrow h.turn hv (h.afterCtl ▸ readDesc_of_readSlots h.reads hv) hk

/-! ### Passing a bundle leaves remote operations alone -/

@[simp] theorem beginTask_rmt (p b : Nat) (ts : List (Nat × Nat)) (s : State) : (beginTask p b ts s).rmt = s.rmt := by
  unfold beginTask
  split
  · rfl
  · dsimp only
    split <;> simp

@[simp] theorem passBundle_rmt (p b : Nat) (s : State) : (passBundle p b s).rmt = s.rmt := by
  unfold passBundle nextBundle
  split
  · rfl
  · dsimp only
    split
    · rfl
    · split
      · rfl
      · split <;> simp

theorem passBundle_halted {p b : Nat} {s : State} (h : (blkOf s p).halted = true) : passBundle p b s = s := if_pos h

/-! ### Pieces of a range (R328) -/

theorem cutPieces_succ {k a o n : Nat} (h : n ≠ 0) : cutPieces (k + 1) a o n
    = (a, o, min n (4096 - a % 4096)) :: cutPieces k (a + min n (4096 - a % 4096)) (o + min n (4096 - a % 4096)) (n - min n (4096 - a % 4096)) := by
  simp [cutPieces, h]

@[simp] theorem cutPieces_empty (k a o : Nat) : cutPieces k a o 0 = [] := by cases k <;> simp [cutPieces]

/-- With fuel for every 4,096 bytes that the range touches, the pieces make it up. -/
theorem cutPieces_sum (k : Nat) : ∀ a o n : Nat, n ≤ 4096 * k - a % 4096 → ((cutPieces k a o n).map fun x => x.2.2).sum = n := by
  induction k with
  | zero =>
    intro a o n h
    obtain rfl : n = 0 := by omega
    rfl
  | succ k ih =>
    intro a o n h
    by_cases hn : n = 0
    · simp [hn]
    · simp only [cutPieces_succ hn, List.map_cons, List.sum_cons]
      rw [ih _ _ _ (by omega)]
      omega

/-- Each piece holds a byte at least and lies between two multiples of 4,096, at its place in the range. -/
theorem cutPieces_mem (k : Nat) : ∀ a o n : Nat, ∀ x ∈ cutPieces k a o n, 1 ≤ x.2.2 ∧ x.1 % 4096 + x.2.2 ≤ 4096 ∧ x.1 + o = a + x.2.1 := by
  induction k with
  | zero => simp [cutPieces]
  | succ k ih =>
    intro a o n x hx
    by_cases hn : n = 0
    · simp [hn] at hx
    · rw [cutPieces_succ hn, List.mem_cons] at hx
      rcases hx with rfl | hx
      · dsimp only
        omega
      · obtain ⟨h1, h2, h3⟩ := ih _ _ _ x hx
        omega

theorem cutPieces_head {k a o n : Nat} {y : Nat × Nat × Nat} (h : y ∈ (cutPieces k a o n).head?) : y.1 = a := by
  cases k with
  | zero => simp [cutPieces] at h
  | succ k =>
    by_cases hn : n = 0
    · simp [hn] at h
    · rw [cutPieces_succ hn] at h
      obtain rfl := Option.some.inj h
      rfl

/-- Each piece begins where the one before it ends. -/
theorem cutPieces_chain (k : Nat) : ∀ a o n : Nat, (cutPieces k a o n).IsChain fun x y => y.1 = x.1 + x.2.2 := by
  induction k with
  | zero => intro a o n; exact List.isChain_nil
  | succ k ih =>
    intro a o n
    by_cases hn : n = 0
    · simp [hn]
    · rw [cutPieces_succ hn, List.isChain_cons]
      exact ⟨fun y hy => cutPieces_head hy, ih _ _ _⟩

/-- A range within 4,096 bytes is one piece. -/
theorem pieces_single {a n : Nat} (h1 : 1 ≤ n) (h : a % 4096 + n ≤ 4096) : pieces a n = [(a, 0, n)] := by
  have hm : min n (4096 - a % 4096) = n := by omega
  rw [pieces, cutPieces_succ (by omega), hm, Nat.sub_self, cutPieces_empty]

/-! ### What a remote descriptor begins (R60, R326, R327, R329) -/

/-- The bytes that a remote descriptor moves: the smaller of its length word and LENGTH, or LENGTH alone. -/
def remoteLength (k : Block) (d : RDesc) : Nat := if bit d.flags 4 then min (leNat (k.sp.readN d.lenAddr 4)) d.len else d.len

/-- The operation of a descriptor's kind begins; `bytes` is what an RSTORE sends. -/
def beginRemote (d : RDesc) (o : RemOp) (bytes : List Byte) (s : State) : State :=
  match d.kind with
  | 5 => beginLoad o d s
  | 6 => beginStore o d bytes s
  | 7 => beginAtomic o d s
  | 8 => beginClaim o d s
  | 9 => beginNotify o d s
  | 10 => placeOp o (cacheDrop d.remote d.len s)
  | _ => beginFence o d s

/-- The descriptor is in progress under a number of its own. -/
def remoteTaken (p : Nat) (d : RDesc) (desc post : Nat) (s : State) : State :=
  (({ s with blks := { s.blks with nextId := s.blks.nextId + 1 } } : State).modBlk p fun k =>
    { k with dma := k.dma ++ [{ id := s.blks.nextId, kind := d.kind, desc := desc, post := post, segs := remoteDst d }] }).modRmt fun m =>
      { m with serial := m.serial + 1 }

section
variable (r p : Nat) (d : RDesc) (desc post : Nat) (s : State)

@[simp] theorem countLegOp_rmt : (countLegOp r d s).rmt = s.rmt := rfl

@[simp] theorem countLegOp_aon : (countLegOp r d s).aon = s.aon := rfl

@[simp] theorem countLegOp_fab : (countLegOp r d s).fab = s.fab := rfl

@[simp] theorem countLegOp_tag : (countLegOp r d s).job.tag = s.job.tag := rfl

@[simp] theorem remoteTaken_rmt : (remoteTaken p d desc post s).rmt = { s.rmt with serial := s.rmt.serial + 1 } := rfl

@[simp] theorem remoteTaken_aon : (remoteTaken p d desc post s).aon = s.aon := rfl

@[simp] theorem remoteTaken_fab : (remoteTaken p d desc post s).fab = s.fab := rfl

@[simp] theorem remoteTaken_job : (remoteTaken p d desc post s).job = s.job := rfl

end

/-- What the descriptor, taken from block `b`'s DMA slot, makes of the state. -/
def remoteIssued (b p desc post : Nat) (d : RDesc) (s : State) : State :=
  beginRemote d (newOp s.blks.nextId b p desc s.rmt.serial d (remoteLength (blkOf s p) d)) ((blkOf s p).sp.readN d.loc (remoteLength (blkOf s p) d))
    (countLegOp (b / 64) d (remoteTaken p d desc post (s.modBlk p (modSegs (remoteDst d) SegSt.hold))))

/-- What must hold for an accepted descriptor to be taken: STRICT allows it (R64), its length word and the bytes that it stores may be read, and
its destination may be written (R170, R171). -/
structure RemoteMayStart (p : Nat) (d : RDesc) (s : State) : Prop where
  order : s.job.strict = false ∨ d.orderFree = false
  lenWord : bit d.flags 4 = true → firstFault (readFault (blkOf s p)) (segsOf d.lenAddr 4) = none
  writes : firstFault (writeFault (blkOf s p)) (remoteDst d) = none
  reads : d.kind = 6 → firstFault (readFault (blkOf (s.modBlk p (modSegs (remoteDst d) SegSt.hold)) p)) (segsOf d.loc (remoteLength (blkOf s p) d)) = none

section
variable {b p desc post : Nat} {raw : List Byte} {s : State}

theorem remoteDma_issues (h : RemoteMayStart p (rdesc raw) s) :
    remoteDma b p desc post raw s = .issued (remoteIssued b p desc post (rdesc raw) s) := by
  have horder : (s.job.strict && (rdesc raw).orderFree) = false := by simpa [or_iff_not_imp_left] using h.order
  have hword : (if bit (rdesc raw).flags 4 then firstFault (readFault (blkOf s p)) (segsOf (rdesc raw).lenAddr 4) else none) = none :=
    ite_eq_right_iff.2 h.lenWord
  have hreads : (if (rdesc raw).kind = 6 then firstFault (readFault (blkOf (s.modBlk p (modSegs (remoteDst (rdesc raw)) SegSt.hold)) p))
      (segsOf (rdesc raw).loc (remoteLength (blkOf s p) (rdesc raw))) else none) = none := ite_eq_right_iff.2 h.reads
  have hlen : (if bit (rdesc raw).flags 4 = true then Nat.min (leNat ((blkOf s p).sp.readN (rdesc raw).lenAddr 4)) (rdesc raw).len
      else (rdesc raw).len) = remoteLength (blkOf s p) (rdesc raw) := rfl
  simp only [remoteDma, horder, hword, h.writes, hlen, hreads, Bool.false_eq_true, if_false]
  rfl

theorem remoteDma_strict (hs : s.job.strict = true) (ho : (rdesc raw).orderFree = true) :
    remoteDma b p desc post raw s = dmaFault p 0x210 desc 0 s := by
  simp [remoteDma, hs, ho]

end

/-! ### The packet of a plain load or store (R328, R335) -/

theorem freeTag_congr {s t : State} (ht : t.rmt.track = s.rmt.track) (hq : t.rmt.quar = s.rmt.quar) (r : Nat) : freeTag t r = freeTag s r := by
  simp only [freeTag, reqOf, ht, hq]

theorem reqOf_congr {s t : State} (h : t.rmt = s.rmt) (tag : Nat) : reqOf t tag = reqOf s tag := by rw [reqOf, h, reqOf]

/-- The digest of what a packet carries belongs to the job. -/
theorem payloadTerms_view {β : Type} (view : State → β) (h : ∀ u f, view (State.modJob f u) = view u) (r : Nat) (p : Packet) (s : State) :
    view (payloadTerms r p s) = view s := by
  have hterm : ∀ (l : List (Nat × Nat × List Byte)) (u : State),
      view (l.foldl (fun s (o, x, b) => digestTerm r 2 o (maskOf x b.length) (partData x b) s) u) = view u :=
    fun l u => foldl_view view (fun u x => h u _) l u
  unfold payloadTerms
  split
  · exact hterm _ _
  · exact hterm _ _
  · dsimp only
    split
    · exact (hterm _ _).trans (hterm _ _)
    · exact hterm _ _
  · exact hterm _ _
  · rfl

/-- The tracker's entry of a packet that is sent for the first time. -/
def firstSent (o : RemOp) (x : Plan) (tag now : Nat) : Req :=
  { pkt := { x.pkt with tag := tag }, op := o.id, idx := x.idx, serial := x.serial, firstAt := now, sentAt := now }

/-- A request that is sent waits for its reply. -/
theorem reqOf_sendReq {s : State} {tag : Nat} {q : Req} (h : reqOf s tag = some q) :
    reqOf (sendReq tag s) tag = some { q with wait := .reply, sentAt := s.aon } := by
  have hmod : reqOf (s.modReq tag fun q => { q with wait := .reply, sentAt := s.aon }) tag = some { q with wait := .reply, sentAt := s.aon } := by
    have hget : reqOf (s.modReq tag fun q => { q with wait := .reply, sentAt := s.aon }) tag
        = (reqOf s tag).map fun q => { q with wait := .reply, sentAt := s.aon } := Table.get_mod_same ..
    rw [hget, h]
    rfl
  simp only [sendReq, h]
  split
  · exact hmod
  · rw [← hmod]
    exact reqOf_congr (originate_rmt ..) tag

theorem sendReq_ops (tag : Nat) (s : State) : (sendReq tag s).rmt.ops = s.rmt.ops := by
  unfold sendReq
  split
  · rfl
  · dsimp only
    split
    · rfl
    · rw [originate_rmt]
      rfl

theorem cacheDrop_aon (a n : Nat) (s : State) : (cacheDrop a n s).aon = s.aon := rfl

theorem cacheDrop_track (a n : Nat) (s : State) : (cacheDrop a n s).rmt.track = s.rmt.track := rfl

theorem cacheDrop_ops (a n : Nat) (s : State) : (cacheDrop a n s).rmt.ops = s.rmt.ops := rfl

theorem view_ite {β : Type} (view : State → β) {c : Prop} [Decidable c] {s t : State} (h : view t = view s) :
    view (if c then s else t) = view s := by
  split
  · rfl
  · exact h

/-- What issuing a packet asks of its channel and of its way: the channel is not full, and the packet leaves the device. -/
structure MayIssue (s : State) (pkt : Packet) : Prop where
  room : chanKey pkt.dst pkt.ch ∉ s.rmt.full
  away : s.fab.number ≠ some pkt.dst

theorem pathLost_away {s : State} {p : Packet} (h : s.fab.number ≠ some p.dst) (r : Nat) : pathLost s r p = false := by simp [pathLost, h]

/-- The state from which a packet under no peg is sent: it is in the tracker, its payload counts, and what it writes has left the caches. -/
theorem issueReq_sends {o : RemOp} {x : Plan} {s : State} (tag : Nat) (h : MayIssue s x.pkt) (hpeg : o.peg = 0) :
    ∃ u, issueReq o x tag s = sendReq tag u ∧ u.aon = s.aon ∧ u.rmt.track = s.rmt.track.set none tag (some (firstSent o x tag s.aon))
      ∧ u.rmt.ops = s.rmt.ops := by
  have hfull : s.rmt.full.contains (chanKey x.pkt.dst x.pkt.ch) = false := by simpa using h.room
  have hlost : ∀ (v : State) (p : Packet), v.fab = s.fab → p.dst = x.pkt.dst → ¬pathLost v o.region p = true := by
    intro v p hv hp
    rw [pathLost_away (by rw [hv, hp]; exact h.away)]
    decide
  unfold issueReq
  dsimp only
  rw [if_neg (by simp only [State.modRmt_rmt, hfull, Bool.false_and, Bool.false_eq_true, not_false_eq_true]), if_neg (by exact hlost _ _ rfl rfl),
    countUnderPeg, if_pos hpeg]
  refine ⟨_, rfl, ?_, ?_, ?_⟩
  · exact (view_ite State.aon (cacheDrop_aon _ _ _)).trans (view_ite State.aon (payloadTerms_view State.aon (fun _ _ => rfl) _ _ _))
  · exact (view_ite (·.rmt.track) (cacheDrop_track _ _ _)).trans (view_ite (·.rmt.track) (payloadTerms_view (·.rmt.track) (fun _ _ => rfl) _ _ _))
  · exact (view_ite (·.rmt.ops) (cacheDrop_ops _ _ _)).trans (view_ite (·.rmt.ops) (payloadTerms_view (·.rmt.ops) (fun _ _ => rfl) _ _ _))

/-- A packet issued under no peg waits for its reply under its tag. -/
theorem reqOf_issueReq {o : RemOp} {x : Plan} {s : State} (tag : Nat) (h : MayIssue s x.pkt) (hpeg : o.peg = 0) :
    reqOf (issueReq o x tag s) tag = some (firstSent o x tag s.aon) := by
  obtain ⟨u, hu, haon, htrack, -⟩ := issueReq_sends tag h hpeg
  have hq : reqOf u tag = some (firstSent o x tag s.aon) := by rw [reqOf, htrack, Table.get_set_same]
  rw [hu, reqOf_sendReq hq, haon]
  rfl

theorem issueReq_ops {o : RemOp} {x : Plan} {s : State} (tag : Nat) (h : MayIssue s x.pkt) (hpeg : o.peg = 0) :
    (issueReq o x tag s).rmt.ops = s.rmt.ops := by
  obtain ⟨u, hu, -, -, hops⟩ := issueReq_sends tag h hpeg
  rw [hu, sendReq_ops, hops]

/-- An operation of one packet sends it under the lowest free tag, and has nothing more to send. -/
theorem reqOf_startTodo {o : RemOp} {x : Plan} {s : State} {tag : Nat} (hop : opOf s o.id = some o) (hhold : o.hold = .none) (htodo : o.todo = [x])
    (hpeg : o.peg = 0) (htag : freeTag s o.region = some tag) (h : MayIssue s x.pkt) :
    reqOf (startTodo o.id 2 s) tag = some (firstSent o x tag s.aon) := by
  have hmay : MayIssue (s.modOp o.id fun o => { o with todo := [] }) x.pkt := ⟨h.room, h.away⟩
  have hrest : opOf (issueReq o x tag (s.modOp o.id fun o => { o with todo := [] })) o.id = some { o with todo := [] } := by
    have hget : opOf (s.modOp o.id fun o => { o with todo := [] }) o.id = (opOf s o.id).map fun o => { o with todo := [] } := Table.get_mod_same ..
    rw [opOf, issueReq_ops tag hmay hpeg, ← opOf, hget, hop]
    rfl
  have hfirst : startTodo o.id 2 s = startTodo o.id 1 (issueReq o x tag (s.modOp o.id fun o => { o with todo := [] })) := by
    rw [startTodo]
    simp [hop, hhold, htodo, htag]
  have hlast : ∀ v : State, opOf v o.id = some { o with todo := [] } → startTodo o.id 1 v = v := by
    intro v hv
    simp [startTodo, hv, hhold]
  rw [hfirst, hlast _ hrest, reqOf_issueReq tag hmay hpeg]
  rfl

/-- An operation of one packet that nothing holds back sends it as it is placed. -/
theorem reqOf_placeOp {o : RemOp} {x : Plan} {s : State} {tag : Nat} (hhold : o.hold = .none) (htodo : o.todo = [x]) (hpeg : o.peg = 0)
    (hkind : o.kind ≠ 11) (htag : freeTag s o.region = some tag) (h : MayIssue s x.pkt) :
    reqOf (placeOp o s) tag = some (firstSent o x tag s.aon) := by
  have hdedup : [x.pkt.dst].dedup = [x.pkt.dst] := (List.nodup_singleton _).dedup
  have hplace : placeOp o s
      = startTodo o.id 2 (markSent o.block x.pkt.dst (s.modRmt fun m => { m with ops := m.ops.set none o.id (some o) })) := by
    simp [placeOp, hhold, htodo, hkind, hdedup]
  have hop : opOf (markSent o.block x.pkt.dst (s.modRmt fun m => { m with ops := m.ops.set none o.id (some o) })) o.id = some o :=
    Table.get_set_same s.rmt.ops none o.id (some o)
  rw [hplace, reqOf_startTodo hop hhold htodo hpeg ((freeTag_congr rfl rfl _).trans htag) ⟨h.room, h.away⟩]
  rfl

/-- An operation of one packet, under no peg and without a flag, sends it with the next number of its channel (R335). -/
theorem reqOf_beginOp {o : RemOp} {pkt : Packet} {s : State} {tag : Nat} (hpeg : o.peg = 0) (hkind : o.kind ≠ 11) (htype : pkt.type ≠ 0x12)
    (htag : freeTag s o.region = some tag) (h : MayIssue s pkt) :
    reqOf (beginOp o [pkt] s) tag
      = some (firstSent o { pkt := { pkt with seq := s.rmt.seq.get 0 (chanKey pkt.dst pkt.ch) }, idx := 0, serial := s.rmt.serial } tag s.aon) := by
  have hflag : ([pkt].any fun p => p.type == 0x12) = false := by simp [htype]
  have hbegin : beginOp o [pkt] s = placeOp
      { o with todo := [{ pkt := { pkt with seq := s.rmt.seq.get 0 (chanKey pkt.dst pkt.ch) }, idx := 0, serial := s.rmt.serial }],
               hold := .none, left := 1 + (if o.last then 1 else 0) } (numbered pkt 0 s).2 := by
    simp only [beginOp, hpeg, hflag]
    rfl
  rw [hbegin]
  exact reqOf_placeOp (s := (numbered pkt 0 s).2) rfl rfl hpeg hkind ((freeTag_congr rfl rfl _).trans htag) ⟨h.room, h.away⟩

/-! ### Plain loads and stores -/

/-- A load without the cache of a range within 4,096 bytes sends one request. -/
theorem beginLoad_single {o : RemOp} {d : RDesc} (hcache : bit d.flags 7 = false) (h1 : 1 ≤ o.len) (hle : d.remote % 4096 + o.len ≤ 4096) (s : State) :
    beginLoad o d s = beginOp o [{ basePacket s o d 0x10 with payload := leBytes 8 o.len }] s := by
  simp [beginLoad, plainLoad, hcache, pieces_single h1 hle, bitAt, basePacket]

theorem slice_all (bs : List Byte) : slice bs 0 bs.length = bs := by
  apply List.ext_getElem <;> simp +contextual [slice]

/-- A store without a flag of a range within 4,096 bytes sends one request. -/
theorem beginStore_single {o : RemOp} {d : RDesc} {bytes : List Byte} (hflag : bit d.flags 1 = false) (hlen : bytes.length = o.len) (h1 : 1 ≤ o.len)
    (hle : d.remote % 4096 + o.len ≤ 4096) (s : State) :
    beginStore o d bytes s = beginOp o [{ basePacket s o d 0x11 with payload := bytes }] s := by
  have hall : slice bytes 0 o.len = bytes := hlen ▸ slice_all bytes
  simp [beginStore, hflag, pieces_single h1 hle, hall, basePacket]

/-- The request of a plain load or store, as the tracker holds it. -/
theorem reqOf_beginRemote {d : RDesc} {o : RemOp} {bytes : List Byte} {s : State} {tag : Nat}
    (hplain : (d.kind = 5 ∧ bit d.flags 7 = false) ∨ (d.kind = 6 ∧ bit d.flags 1 = false)) (hkind : o.kind = d.kind) (hpeg : o.peg = 0)
    (hbytes : bytes.length = o.len) (h1 : 1 ≤ o.len) (hle : d.remote % 4096 + o.len ≤ 4096) (htag : freeTag s o.region = some tag)
    (h : ∀ type, MayIssue s (basePacket s o d type)) :
    ∃ serial, reqOf (beginRemote d o bytes s) tag = some (firstSent o
      { pkt := { basePacket s o d (if d.kind = 5 then 0x10 else 0x11) with
          payload := if d.kind = 5 then leBytes 8 o.len else bytes, seq := s.rmt.seq.get 0 (chanKey o.dst o.ch) },
        idx := 0, serial := serial } tag s.aon) := by
  refine ⟨s.rmt.serial, ?_⟩
  rcases hplain with ⟨hk, hcache⟩ | ⟨hk, hflag⟩
  · have hmay : MayIssue s { basePacket s o d 0x10 with payload := leBytes 8 o.len } := ⟨(h 0x10).room, (h 0x10).away⟩
    have hbegin : beginRemote d o bytes s = beginLoad o d s := by simp only [beginRemote, hk]
    rw [hbegin, beginLoad_single hcache h1 hle, reqOf_beginOp hpeg (by omega) (by decide : (0x10 : Nat) ≠ 0x12) htag hmay]
    simp only [hk, if_true]
    rfl
  · have hmay : MayIssue s { basePacket s o d 0x11 with payload := bytes } := ⟨(h 0x11).room, (h 0x11).away⟩
    have hbegin : beginRemote d o bytes s = beginStore o d bytes s := by simp only [beginRemote, hk]
    rw [hbegin, beginStore_single hflag hbytes h1 hle, reqOf_beginOp hpeg (by omega) (by decide : (0x11 : Nat) ≠ 0x12) htag hmay]
    simp only [hk, show (6 : Nat) ≠ 5 by decide, if_false]
    rfl

/-! ### The remote descriptor in its bundle -/

/-- A plain load or store of one piece that goes out at once under the tag `tag`: no length word, no peg, no cache, a tag that is free, a
channel that is not full (R336), and another device as its destination. -/
structure PlainRequest (b p tag : Nat) (d : RDesc) (s : State) : Prop where
  start : RemoteMayStart p d s
  direct : bit d.flags 4 = false
  plain : (d.kind = 5 ∧ bit d.flags 7 = false ∧ bit d.flags 2 = false) ∨ (d.kind = 6 ∧ d.flags = 0)
  bytes : 1 ≤ d.len
  piece : d.remote % 4096 + d.len ≤ 4096
  free : freeTag s (b / 64) = some tag
  away : s.fab.number ≠ some (addrDevice d.remote)
  room : chanKey (addrDevice d.remote) (64 * (b / 64) + d.ch) ∉ s.rmt.full

/-- The request of a plain load or store. -/
def plainPacket (b p tag : Nat) (d : RDesc) (s : State) : Packet :=
  { type := if d.kind = 5 then 0x10 else 0x11, base := 1, dst := addrDevice d.remote, jobTag := s.job.tag, addr := d.remote, tag := tag, gen := d.gen,
    seq := s.rmt.seq.get 0 (chanKey (addrDevice d.remote) (64 * (b / 64) + d.ch)), ch := 64 * (b / 64) + d.ch,
    payload := if d.kind = 5 then leBytes 8 d.len else (blkOf s p).sp.readN d.loc d.len }

section
variable {kind : Nat} {row : Fin 256 → HwErr → Instr} {b : Nat} {p w : Nat} {l : SlotReads} {s : State}

/-- The DMA engine takes the remote descriptor of its slot. -/
theorem takeDesc_remote (hrow : (kind, row) ∈ remoteRows) (hk : field l.dma 0 1 = kind) (x : Nat) :
    takeDesc b p x l.dma s = remoteDma b p (bits x 62 55) (bits x 54 49) l.dma s := by
  rw [takeDesc, hk, remoteKind_of_row hrow, if_pos rfl]

theorem dmaPart_remote_issues (hrow : (kind, row) ∈ remoteRows) (hk : field l.dma 0 1 = kind) (hv : slotValid w 3 = true)
    (h : RemoteMayStart p (rdesc l.dma) s) :
    dmaPart b p w l s = remoteIssued b p (bits (slotWord w 3) 62 55) (bits (slotWord w 3) 54 49) (rdesc l.dma) s := by
  simp only [dmaPart, hv, if_true, takeDesc_remote hrow hk, remoteDma_issues h]

theorem dmaPart_remote_strict (hrow : (kind, row) ∈ remoteRows) (hk : field l.dma 0 1 = kind) (hv : slotValid w 3 = true)
    (hs : s.job.strict = true) (ho : (rdesc l.dma).orderFree = true) :
    dmaPart b p w l s = haltBlock p 0x210 (bits (slotWord w 3) 62 55) 0 (s.modBlk p (stopEngine 3)) := by
  simp only [dmaPart, hv, if_true, takeDesc_remote hrow hk, remoteDma_strict hs ho, dmaFault]

/-- The one request that a plain load or store of one piece sends. -/
theorem PlainRequest.sends {tag : Nat} (h : PlainRequest b p tag (rdesc l.dma) s) (hrow : (kind, row) ∈ remoteRows) (hk : field l.dma 0 1 = kind)
    (hv : slotValid w 3 = true) :
    ∃ q, reqOf (dmaPart b p w l s) tag = some q ∧ q.wait = .reply ∧ q.op = s.blks.nextId ∧ q.firstAt = s.aon
      ∧ q.pkt = plainPacket b p tag (rdesc l.dma) s := by
  obtain ⟨hstart, hdirect, hplain, hlen, hle, htag, haway, hroom⟩ := h
  have hlength : remoteLength (blkOf s p) (rdesc l.dma) = (rdesc l.dma).len := if_neg (by simp [hdirect])
  rw [dmaPart_remote_issues hrow hk hv hstart, remoteIssued, hlength]
  generalize rdesc l.dma = d at *
  generalize hu : countLegOp (b / 64) d (remoteTaken p d (bits (slotWord w 3) 62 55) (bits (slotWord w 3) 54 49)
    (s.modBlk p (modSegs (remoteDst d) SegSt.hold))) = u
  have hrmt : u.rmt = { s.rmt with serial := s.rmt.serial + 1 } := by simp [← hu]
  have haon : u.aon = s.aon := by simp [← hu]
  have hfab : u.fab = s.fab := by simp [← hu]
  have hjob : u.job.tag = s.job.tag := by simp [← hu]
  have hcase : (d.kind = 5 ∧ bit d.flags 7 = false) ∨ (d.kind = 6 ∧ bit d.flags 1 = false) :=
    hplain.imp (fun h => ⟨h.1, h.2.1⟩) fun h => ⟨h.1, by simp [h.2, bit]⟩
  have hpeg : (newOp s.blks.nextId b p (bits (slotWord w 3) 62 55) s.rmt.serial d d.len).peg = 0 := by
    rcases hplain with ⟨h5, -, h2⟩ | ⟨h6, hflags⟩
    · simp [newOp, h5, h2]
    · simp [newOp, h6, hflags, bit]
  have hfree : freeTag u (b / 64) = some tag := (freeTag_congr (by rw [hrmt]) (by rw [hrmt]) _).trans htag
  have hmay : ∀ type, MayIssue u (basePacket u (newOp s.blks.nextId b p (bits (slotWord w 3) 62 55) s.rmt.serial d d.len) d type) :=
    fun type => ⟨by rw [hrmt]; exact hroom, by rw [hfab]; exact haway⟩
  obtain ⟨serial, hq⟩ := reqOf_beginRemote (bytes := (blkOf s p).sp.readN d.loc d.len) hcase rfl hpeg (Mem.readN_length ..) hlen hle hfree hmay
  refine ⟨_, hq, rfl, rfl, haon, ?_⟩
  simp only [firstSent, basePacket, newOp, plainPacket, hrmt, hjob]

end

/-- A remote descriptor that is not accepted, alone in its bundle, fails as the slots are read. -/
theorem readSlots_refused {k : Block} {w : Nat} {raw : List Byte} (h1 : slotValid w 1 = false) (h2 : slotValid w 2 = false)
    (h3 : slotValid w 3 = true) (hres : bits (slotWord w 3) 48 0 = 0) (hd : readDesc k 2 (bits (slotWord w 3) 62 55) = .ok raw)
    (hk : remoteKind (field raw 0 1) = true) (hbad : rdescOk raw = false) :
    readSlots k w = .error (0x211, bits (slotWord w 3) 62 55, 0) := by
  have hdma : readDma k (slotWord w 3) = .error (0x211, bits (slotWord w 3) 62 55, 0) := by
    simp [readDma, hd, hres, hk, hbad]
  simp [readSlots, h1, h2, h3, hdma]

/-- A load without ORDER counts as one of R60's operations, up to the end of its counter (R62). -/
theorem countLegOp_load {r : Nat} {d : RDesc} (h5 : d.kind = 5) (h0 : bit d.flags 0 = false) (s : State) :
    ((countLegOp r d s).job.liveDet.get {} r).loadUnord = min 0xFFFFFF ((s.job.liveDet.get {} r).loadUnord + 1) := by
  simp [countLegOp, h5, h0, satAdd]

/-! ### The statement -/

/-- Settles O47: what each bundle does is what its DMA slot's descriptor makes of `remoteDma`, and the request of a plain load or store is the one
packet that its operation begins with. -/
theorem remoteDescriptors : Obligations.RemoteDescriptors := by
  unfold Obligations.RemoteDescriptors
  refine ⟨fun kind row b p bv s u l hrow h hv hk => ?issued, fun kind row b p bv raw s hrow ht h0 h1 h2 h3 hres hd hk hbad => ?refused,
    fun a n => ?pieces, fun r d s h5 h0 => ?counts⟩
  case issued =>
    intro w v x k d n len held
    have hrun := h.remote hrow hv hk
    refine ⟨fun hs ho => ?strict, fun horder hword hwrites hreads => ?issues, fun horder hword hwrites tag hplain hlen hle hreads htag haway hroom => ?request⟩
    case strict =>
      rw [hrun, dmaPart_remote_strict hrow hk hv hs ho]
      obtain ⟨off, hblk⟩ := blkOf_haltBlock p 0x210 n 0 (v.modBlk p (stopEngine 3))
      have hhalt : (blkOf (haltBlock p 0x210 n 0 (v.modBlk p (stopEngine 3))) p).halted = true := by rw [hblk]; rfl
      refine ⟨_, congrArg Host.Outcome.next (passBundle_halted hhalt), hhalt, ?_, ?_⟩ <;>
        rw [hblk, blkOf_modBlk_same] <;> rfl
    case issues =>
      have hmay : RemoteMayStart p d v := ⟨horder, hword, hwrites, fun h6 => hreads (hk.symm.trans h6)⟩
      rw [hrun, dmaPart_remote_issues hrow hk hv hmay]
      rfl
    case request =>
      have hlength : remoteLength k d = d.len := if_neg (by simp [hword])
      have hmay : RemoteMayStart p d v :=
        ⟨horder, fun h4 => absurd h4 (by simp [hword]), hwrites, fun h6 => hlength ▸ hreads (hk.symm.trans h6)⟩
      have hkind : d.kind = kind := hk
      have hreq : PlainRequest b p tag d v := ⟨hmay, hword, by rwa [hkind], hlen, hle, htag, haway, hroom⟩
      obtain ⟨q, hq, hwait, hop, hat, hpkt⟩ := hreq.sends hrow hk hv
      refine ⟨_, hrun, q, (reqOf_congr (passBundle_rmt ..) tag).trans hq, hwait, hop, hat, ?_⟩
      rw [hpkt, ← hkind]
      rfl
  case refused =>
    have hctl : ctlSlot b p bv.toNat s = .issued s := if_neg (by simp [h0])
    have hafter : afterCtl b p bv.toNat s = blkOf s p := by simp [afterCtl, hctl]
    rw [exec_remoteRow hrow ht h3 (hafter ▸ hd) hk]
    simp [issueBundle, hctl, readSlots_refused h1 h2 h3 hres hd (hk ▸ remoteKind_of_row hrow) hbad]
  case pieces =>
    refine ⟨cutPieces_sum _ a 0 n (by omega), fun x hx => ?_, cutPieces_chain _ a 0 n⟩
    obtain ⟨h1, h2, h3⟩ := cutPieces_mem _ a 0 n x hx
    exact ⟨h1, h2, h3⟩
  case counts => exact countLegOp_load h5 h0 s

end Sys2Proof.Machine

/-! SUPPORT. Proof of the statement about stagings (O23). -/

namespace Sys2Proof.Machine

open Sys2Proof

/-! ### The rows that stage (R87, R394) -/

/-- The rows of STAGE_CONFIG, by setting identifier. -/
def settingRows : List (Nat × Instr) :=
  [(1, .routeTables), (2, .windowMap), (3, .opTarget), (4, .fabricMode), (5, .jobIdent), (6, .blockSpareMap), (7, .columnSpareMap),
    (8, .frameRetire), (9, .backsightRole), (10, .detCtrl), (11, .legWdog)]

/-- Row `row` takes command `c` as a staging of setting `ident`: STAGE_CONFIG, or RETIRE_FRAME for FRAME_RETIRE. -/
def Stages (ident : Nat) (row : Instr) (c : InCmd) : Prop :=
  (c.opcode = 3 ∧ c.arg0 = ident ∧ (ident, row) ∈ settingRows) ∨ (c.opcode = 0x0B ∧ c.arg0 = 8 ∧ ident = 8 ∧ row = .retireFrame)

theorem settingRows_step : ∀ x ∈ settingRows, identListed x.1 = true ∧ ∀ s, exec x.2 s = stageStep x.1 s := by
  simp only [settingRows, List.forall_mem_cons, List.not_mem_nil, false_imp_iff, implies_true, and_true]
  refine ⟨?_, ?_, ?_, ?_, ?_, ?_, ?_, ?_, ?_, ?_, ?_⟩ <;> exact ⟨rfl, fun _ => rfl⟩

theorem Stages.ident_eq {ident : Nat} {row : Instr} {c : InCmd} (h : Stages ident row c) : c.arg0 = ident := by
  rcases h with ⟨-, harg, -⟩ | ⟨-, harg, hid, -⟩
  · exact harg
  · exact harg.trans hid.symm

/-- Whichever row it is, its command is taken as a staging. -/
theorem Stages.exec_eq {ident i : Nat} {row : Instr} {c : InCmd} {s : State} (h : Stages ident row c) (ht : Takes s i c) :
    exec row s = .next (takeStaging c (takeCmd i s)) := by
  rcases h with ⟨hop, rfl, hrow⟩ | ⟨hop, harg, -, rfl⟩
  · obtain ⟨hlisted, hstep⟩ := settingRows_step _ hrow
    rw [hstep]
    exact congrArg Host.Outcome.next (hostStep_takes ht (by simp [hop]) (by simp [rowless, hop, hlisted, opcodeListed]))
  · exact congrArg Host.Outcome.next (hostStep_takes ht (by simp [hop, harg]) (by simp [rowless, hop, harg, opcodeListed]))

/-! ### The outcome of a staging (R87 to R90; logs 27 and 107) -/

/-- The target that a staging command names: a station, or the next one. -/
def stagingTarget (s : State) (c : InCmd) : Option Nat := if c.arg1 = 2 ^ 48 - 1 then nextStation s else some c.arg1

/-- The staging that command `c` asks for, its payload read from host memory. -/
def stagingOf (s : State) (c : InCmd) : Staging := ⟨c.arg0, stagingTarget s c, s.hostMem.readN c.arg2 c.arg3⟩

/-- An accepted value joins the stagings; ROUTE_TABLES also go into the bank not in force. -/
def withStaged (t : Staging) (s : State) : State :=
  { s with
    job := { s.job with stage := withStaging t s.job.stage }
    fab := if t.ident = 1 then { s.fab with banks := s.fab.banks.set [] (1 - s.fab.bank) t.payload } else s.fab }

section
variable {t : Staging} {s : State}

theorem stageValue_refused (h : payloadAccepted s t.ident t.payload = false) : stageValue t s = (1, s) := by
  simp [stageValue, h]

theorem stageValue_full (h : payloadAccepted s t.ident t.payload = true) (hfull : stageFull (withStaging t s.job.stage) = true) :
    stageValue t s = (0x21, s) := by
  simp [stageValue, h, hfull]

theorem stageValue_staged (h : payloadAccepted s t.ident t.payload = true) (hroom : stageFull (withStaging t s.job.stage) = false) :
    stageValue t s = (0, withStaged t s) := by
  simp only [stageValue, withStaged, h, hroom, Bool.not_true, Bool.false_eq_true, if_false]
  split <;> rfl

end

section
variable {c : InCmd} {s : State} (halign : c.arg2 % 8 = 0)
include halign

theorem takeStaging_late (hnamed : c.arg1 ≠ 2 ^ 48 - 1) (hlatch : latchClosed s c.arg1 = true) :
    takeStaging c s = complete c.id 0x20 0 s := by
  have hclosed : (!decide (c.arg1 = 2 ^ 48 - 1) && latchClosed s c.arg1) = true := by rw [decide_eq_false hnamed, hlatch]; rfl
  rw [takeStaging, if_neg (by simp [halign]), if_pos hclosed]

/-- Past the checks of the target and of the payload's range, the value decides. -/
theorem takeStaging_value (hlatch : c.arg1 ≠ 2 ^ 48 - 1 → latchClosed s c.arg1 = false) (hread : hostReadFails s c.arg2 c.arg3 = false)
    {st : Nat} {u : State} (hv : stageValue (stagingOf s c) s = (st, u)) :
    takeStaging c s = complete c.id st (if st = 0 then resolved u (stagingTarget s c) else 0) u := by
  have hopen : (!decide (c.arg1 = 2 ^ 48 - 1) && latchClosed s c.arg1) = false := by
    by_cases hn : c.arg1 = 2 ^ 48 - 1
    · simp [hn]
    · simp [hlatch hn]
  rw [takeStaging, if_neg (by simp [halign]), if_neg (Bool.eq_false_iff.1 hopen), if_neg (Bool.eq_false_iff.1 hread)]
  exact congrArg (fun x : Nat × State => complete c.id x.1 (if x.1 = 0 then resolved x.2 (stagingTarget s c) else 0) x.2) hv

end

/-- What a payload is judged by, taking a command leaves as it is. -/
theorem payloadAccepted_takeCmd (i ident : Nat) (b : List Byte) (s : State) :
    payloadAccepted (takeCmd i s) ident b = payloadAccepted s ident b := by
  cases s
  rfl

/-! ### Payloads (R86, R312, R419) -/

theorem payloadAccepted_opTarget (b : List Byte) (s : State) :
    payloadAccepted s 3 b = true ↔ b.length = 4 ∧ ∀ x ∈ b, x.toNat ≤ 5 := by
  simp [payloadAccepted]

theorem payloadAccepted_fabricMode (b : List Byte) (s : State) : payloadAccepted s 4 b = true ↔ b = [0] ∨ b = [1] := by
  have hsmall : ∀ x : Byte, x.toNat < 2 ↔ x = 0 ∨ x = 1 := by
    intro x
    bv_omega
  match b with
  | [] => simp [payloadAccepted]
  | [x] => simp [payloadAccepted, field, slice, leNat, hsmall]
  | _ :: _ :: _ => simp [payloadAccepted]

theorem payloadAccepted_jobIdent (b : List Byte) (s : State) :
    payloadAccepted s 5 b = true ↔ b.length = 24 ∧ field b 0 4 ≠ 0 ∧ field b 4 4 = 0 := by
  simp [payloadAccepted, and_assoc]

/-- Settles O23: each row takes its command as a staging, and the value's three outcomes are those of `stageValue`. -/
theorem stagingCommands : Obligations.StagingCommands := by
  unfold Obligations.StagingCommands
  intro rows mine
  refine ⟨fun ident row i c s ht hm halign hlatch hread => ?value, fun ident row i c s ht hm halign hnamed hlast => ?late,
    fun b s => ⟨payloadAccepted_opTarget b s, payloadAccepted_fabricMode b s, payloadAccepted_jobIdent b s⟩⟩
  case value =>
    intro target b ts u
    have hst : Stages ident row c := hm
    obtain rfl := hst.ident_eq
    have hpay : payloadAccepted u c.arg0 b = payloadAccepted s c.arg0 b := payloadAccepted_takeCmd i c.arg0 b s
    have value : ∀ {st : Nat} {w : State}, stageValue (stagingOf u c) u = (st, w) →
        exec row s = .next (complete c.id st (if st = 0 then resolved w target else 0) w) := fun hv => by
      rw [hst.exec_eq ht, takeStaging_value (s := u) halign hlatch hread hv]
      rfl
    refine ⟨fun hok room => ?_, fun hbad => ?_, fun hok full => ?_⟩
    · exact value (stageValue_staged (hpay.trans hok) room)
    · exact value (stageValue_refused (hpay.trans hbad))
    · exact value (stageValue_full (hpay.trans hok) full)
  case late =>
    have hst : Stages ident row c := hm
    have hclosed : latchClosed (takeCmd i s) c.arg1 = true := by simp [latchClosed, takeCmd, hlast]
    rw [hst.exec_eq ht, takeStaging_late halign hnamed hclosed]

end Sys2Proof.Machine

/-! SUPPORT. Proof of the statement about traverses, RUN and FENCE_JOB (O42). -/

namespace Sys2Proof.Machine

open Sys2Proof

/-! ### Steps whose reads meet errors of the memories -/

/-- `u` is `s` but for blocks and HBM: the state that a step works on once the errors that it meets are laid down. -/
def Noted (s u : State) : Prop := ∃ b h, u = { s with blks := b, hbm := h }

theorem Noted.sameTurn {s u : State} (h : Noted s u) : SameTurn s u := by
  obtain ⟨b, h, rfl⟩ := h
  exact ⟨rfl, rfl, rfl, rfl⟩

/-- Two steps that agree on every state with the errors laid down agree over them. -/
theorem meeting_of_noted {errs : List ReadErr} {f g : State → Out} {s : State} (h : ∀ u, Noted s u → f u = g u) :
    meeting errs f s = meeting errs g s :=
  meeting_congr fun _ => h _ ⟨_, _, rfl⟩

theorem noteUnread_noted (errs : List ReadErr) (s : State) : Noted s (noteUnread errs s) := by
  have hview : { noteUnread errs s with blks := s.blks } = s :=
    noteUnread_view (fun u => { u with blks := s.blks }) (fun _ _ _ => rfl) errs s
  exact ⟨_, _, congrArg (fun u => { u with blks := (noteUnread errs s).blks }) hview⟩

/-- The same where blocks may move. -/
theorem moving_of_noted {errs : List ReadErr} {f g : State → Out} {s : State} (h : ∀ u, Noted s u → f u = g u) :
    moving errs f s = moving errs g s := by
  refine meeting_of_noted fun u hu => h u ?_
  obtain ⟨b, x, hs⟩ := noteUnread_noted errs s
  obtain ⟨c, y, rfl⟩ := hu
  exact ⟨c, y, by rw [hs]⟩

/-! ### LOAD_TRAVERSE (R69, R265, R463) -/

/-- The region of the traverse is up, and region 0 reaches it, there and back. -/
def loadReaches (c : InCmd) (s : State) : Bool := regionUp s (c.arg0 / 2 ^ 38) && roundTrip s 0 (c.arg0 / 2 ^ 38)

/-- LOAD_TRAVERSE once the engines have left keep-alive. -/
def startLoad (parts : TraverseParts) (c : InCmd) (s : State) : State :=
  let (trav, u) := parseTraverse c.arg0 c.arg1 parts s
  let u := u.modJob fun j => { j with loading := some { cmd := c.id, trav := trav, lanes := scheduledLanes s } }
  if (scheduledLanes s).isEmpty then finishLoad u else (scheduledLanes s).foldl (fun x e => startMargin e.1 e.2 x) u

theorem takeLoad_eq (parts : TraverseParts) (c : InCmd) (s : State) :
    takeLoad parts c s =
      if c.arg0 % 4096 ≠ 0 then complete c.id 1 0 (leaveKeepalive s)
      else if loadReaches c (leaveKeepalive s) = false then complete c.id 0x15 0 (leaveKeepalive s)
      else if (leaveKeepalive s).job.loading ≠ none then complete c.id 3 0 (leaveKeepalive s)
      else startLoad parts c (leaveKeepalive s) := by
  simp only [takeLoad, Bool.not_eq_true', Option.isSome_iff_ne_none]
  rfl

theorem exec_loadTraverse {parts : TraverseParts} {errs : List ReadErr} {i : Nat} {c : InCmd} {s : State} (ht : Takes s i c)
    (hop : c.opcode = 1) {g : State → State}
    (h : ∀ u, Noted s u → takeLoad parts c (takeCmd i u) = g (leaveKeepalive (takeCmd i u))) :
    exec (.loadTraverse parts errs) s = meeting errs (fun v => .next (g (leaveKeepalive (takeCmd i v)))) s :=
  meeting_of_noted fun u hu =>
    congrArg Host.Outcome.next ((hostStep_own (hu.sameTurn.takes ht) hop (by decide)).trans (h u hu))

/-- Leaving keep-alive changes neither a region, a path nor the job. -/
theorem leaveKeepalive_load {i : Nat} {c : InCmd} {s u : State} (h : Noted s u) :
    loadReaches c (leaveKeepalive (takeCmd i u)) = loadReaches c s ∧ (leaveKeepalive (takeCmd i u)).job = s.job := by
  obtain ⟨b, x, rfl⟩ := h
  exact ⟨leaveKeepalive_view (loadReaches c) (fun _ _ _ => rfl) (fun _ _ => rfl) _,
    leaveKeepalive_view State.job (fun _ _ _ => rfl) (fun _ _ => rfl) _⟩

theorem scheduledLanes_congr {s u : State} (hflt : u.flt = s.flt) (hpos : u.oe.pos = s.oe.pos) : scheduledLanes u = scheduledLanes s := by
  have hup : ∀ r, regionUp u r = regionUp s r := fun r => congrArg (fun f : Faults => (f.region.get {} r).mode == .up) hflt
  have hat : posAt u = posAt s := congrArg (fun p : Table PosSt => p.get {}) hpos
  have hactive : activePos u = activePos s := by
    funext p d line
    rw [activePos, hup, hat, activePos]
  have hlines : activeLines u = activeLines s := by
    funext p d
    rw [activeLines, hactive, activeLines]
  rw [scheduledLanes, hat, hactive, hlines, scheduledLanes]

theorem leaveKeepalive_pos (s : State) : (leaveKeepalive s).oe.pos = s.oe.pos := by
  rw [leaveKeepalive, State.modOe_oe]
  exact foldl_view (·.oe.pos) (by simp) _ s

theorem scheduledLanes_leaveKeepalive (s : State) : scheduledLanes (leaveKeepalive s) = scheduledLanes s :=
  scheduledLanes_congr (leaveKeepalive_view State.flt (fun _ _ _ => rfl) (fun _ _ => rfl) s) (leaveKeepalive_pos s)

/-- The scheduled lanes are those of the state before, whatever the reads meet. -/
theorem scheduledLanes_noted (i : Nat) {s u : State} (h : Noted s u) :
    scheduledLanes (leaveKeepalive (takeCmd i u)) = scheduledLanes (leaveKeepalive (takeCmd i s)) := by
  obtain ⟨b, x, rfl⟩ := h
  rw [scheduledLanes_leaveKeepalive, scheduledLanes_leaveKeepalive]
  exact scheduledLanes_congr rfl rfl

theorem finishLoad_malformed (id : Nat) (lanes : List (Nat × Nat)) (s : State) :
    finishLoad (s.modJob fun j => { j with loading := some { cmd := id, trav := none, lanes := lanes } })
      = complete id 1 0 { s with job := { s.job with loading := none } } := rfl

/-- A well-formed traverse meets the checks of R69 in their order. -/
theorem finishLoad_wellFormed (id : Nat) (lanes : List (Nat × Nat)) (t : Traverse) (s : State) :
    let z := { s with job := { s.job with loading := none } }
    finishLoad (s.modJob fun j => { j with loading := some { cmd := id, trav := some t, lanes := lanes } })
      = if z.job.run ≠ none then complete id 3 0 z
        else if shapeMeets z t = false then complete id 0x10 0 z
        else if ∃ l ∈ t.legs, ∃ w ∈ planWords l.parts.plan, laneAvailable z w = false then complete id 0x11 0 z
        else complete id 0 t.legs.length (installTraverse t z) := by
  intro z
  have hrun : z.job.run.isSome = true ↔ z.job.run ≠ none := Option.isSome_iff_ne_none
  have hshape : (!shapeMeets z t) = true ↔ shapeMeets z t = false := by rw [Bool.not_eq_true']
  have hlanes : (!(t.legs.all fun g => (planWords g.parts.plan).all (laneAvailable z))) = true
      ↔ ∃ l ∈ t.legs, ∃ w ∈ planWords l.parts.plan, laneAvailable z w = false := by simp
  simp only [← hrun, ← hshape, ← hlanes]
  rfl

/-! ### RUN (R72, R463; log 128) -/

theorem exec_run {errs : List ReadErr} {i : Nat} {c : InCmd} {s : State} (ht : Takes s i c) (hop : c.opcode = 2) {g : State → State}
    (h : ∀ u, Noted s u → takeRun c (takeCmd i u) = g (takeCmd i u)) :
    exec (.run errs) s = moving errs (fun v => .next (g (takeCmd i v))) s :=
  moving_of_noted fun u hu =>
    congrArg Host.Outcome.next ((hostStep_own (hu.sameTurn.takes ht) hop (by decide)).trans (h u hu))

/-- The station that a RUN starts from. -/
def runBase (s : State) : Nat := if s.job.valid then s.job.last else 0

/-- RUN reads the job, the fills and the regions, which neither its taking nor the errors of the memories change. -/
theorem takeRun_noted (c : InCmd) (i : Nat) {s u : State} (h : Noted s u) :
    takeRun c (takeCmd i u) =
      match s.job.trav with
      | none => complete c.id 2 0 (takeCmd i u)
      | some t =>
        if s.mem.fillBar || s.mem.fill.isSome then complete c.id 2 0 (takeCmd i u)
        else if c.arg1 % 256 ≠ 0 || c.arg2 = 0 then complete c.id 1 0 (takeCmd i u)
        else if c.arg0 ≠ runBase s || decide (0xFFFFFFFFFFFE < c.arg0 + t.legs.length) then complete c.id 0x12 0 (takeCmd i u)
        else if !classUp s then complete c.id 0x15 0 (takeCmd i u)
        else startRun c.id c.arg0 c.arg1 c.arg2 c.arg3 .run (takeCmd i u) := by
  obtain ⟨b, x, rfl⟩ := h
  rfl

/-! ### The start of a leg (R73, R191) -/

@[simp] theorem haltBlock_job (p code desc off : Nat) (s : State) : (haltBlock p code desc off s).job = s.job := by
  rw [haltBlock, (haltAt_only p code desc _ s).eq, State.modBlk_job]

@[simp] theorem beginTask_job (p b : Nat) (ts : List (Nat × Nat)) (s : State) : (beginTask p b ts s).job = s.job := by
  unfold beginTask
  split
  · rfl
  · dsimp only
    split <;> simp

@[simp] theorem requestWake_job (b level : Nat) (s : State) : (requestWake b level s).job = s.job := by
  unfold requestWake powerCount
  dsimp only
  split
  · rfl
  · split <;> rfl

@[simp] theorem dispatchBlock_job (t : Traverse) (l : Leg) (b : Nat) (s : State) : (dispatchBlock t l b s).job = s.job := by
  unfold dispatchBlock
  split <;> simp

@[simp] theorem moveBlock_aon (old : Table Block) (b p q : Nat) (s : State) : (moveBlock old b p q s).aon = s.aon := by
  unfold moveBlock
  dsimp only
  rw [foldl_view State.aon fun u g => record_aon _ u, foldl_view State.aon, State.modBlk_aon]
  intro u x
  split
  · split <;> simp
  · rfl

@[simp] theorem moveBlocks_aon (s : State) : (moveBlocks s).aon = s.aon := by
  unfold moveBlocks
  dsimp only
  split <;> simp [foldl_view State.aon fun u x => moveBlock_aon ..]

/-- The blocks without a task in a leg. -/
def idleBlocks (t : Traverse) (l : Leg) : List Nat := (List.range 256).filter fun b => (tasksOf t l b).isEmpty

theorem mem_idleBlocks {t : Traverse} {l : Leg} {b : Nat} : b ∈ idleBlocks t l ↔ b < 256 ∧ tasksOf t l b = [] := by
  simp [idleBlocks]

/-- The RUN as the start of leg `j` notes it. -/
theorem startLeg_run {j : Nat} {t : Traverse} {r : Run} {l : Leg} {s : State} (htrav : s.job.trav = some t) (hrun : s.job.run = some r)
    (hleg : r.legAt t j = some l) :
    (startLeg j s).job.run = some { r with j := j, phase := .leg, legStart := s.aon, overdue := 0, arrived := idleBlocks t l,
                                           drainAsked := false, drainSeen := false } := by
  have hblocks : ∀ u : State, ((List.range 256).foldl (fun s b => dispatchBlock t l b s) u).job = u.job :=
    foldl_view State.job (fun u b => dispatchBlock_job t l b u) _
  simp only [startLeg, htrav, hrun, hleg, hblocks, State.modFab_job, State.modCol_job, State.modJob_job, moveBlocks_aon]
  rfl

/-! ### FENCE_JOB (R401; log 109) -/

theorem exec_fenceJob {i : Nat} {c : InCmd} {s : State} (ht : Takes s i c) (hop : c.opcode = 0x0A) :
    exec .fenceJob s = .next (takeFence c (takeCmd i s)) :=
  congrArg Host.Outcome.next (hostStep_own ht hop (by decide))

/-! ### The statement -/

/-- Settles O42: LOAD_TRAVERSE and RUN by the checks of `takeLoad` and `takeRun` in their order, the start of a leg by what it notes. -/
theorem traversesAndRuns : Obligations.TraversesAndRuns := by
  unfold Obligations.TraversesAndRuns
  refine ⟨fun parts errs i c s ht hop => ?load, fun t u => ⟨rfl, rfl, rfl, rfl⟩, fun errs i c s ht hop => ?run,
    fun j t r l s htrav hrun hleg => ?leg, fun i c s ht hop => ?fence, fun st v s => ⟨rfl, rfl, rfl, rfl, rfl, rfl, rfl, rfl, rfl, rfl⟩⟩
  case load =>
    intro u up does
    have hreach : ∀ v, Noted s v → loadReaches c (leaveKeepalive (takeCmd i v)) = up := fun v hv => (leaveKeepalive_load hv).1
    have hjob : ∀ v, Noted s v → (leaveKeepalive (takeCmd i v)).job = s.job := fun v hv => (leaveKeepalive_load (c := c) hv).2
    have hlanes : ∀ v, Noted s v → scheduledLanes (leaveKeepalive (takeCmd i v)) = scheduledLanes u := fun v => scheduledLanes_noted i
    have ends : ∀ g : State → State, (∀ v, Noted s v → takeLoad parts c (takeCmd i v) = g (leaveKeepalive (takeCmd i v))) → does g :=
      fun g => exec_loadTraverse ht hop
    clear_value does -- so that `ends` is matched by its argument
    have starts : c.arg0 % 4096 = 0 → up = true → s.job.loading = none → ∀ v, Noted s v →
        takeLoad parts c (takeCmd i v) = startLoad parts c (leaveKeepalive (takeCmd i v)) := fun halign hup hfree v hv => by
      rw [takeLoad_eq, if_neg (by simpa), hreach v hv, if_neg (by simpa), hjob v hv, if_neg (by simpa)]
    refine ⟨fun halign => ?_, fun halign hup => ?_, fun halign hup hbusy => ?_, fun halign hup hfree hsome => ?_, fun halign hup hfree hnone => ?_⟩
    all_goals refine ends _ fun v hv => ?_
    · rw [takeLoad_eq, if_pos halign]
    · rw [takeLoad_eq, if_neg (by simpa), hreach v hv, if_pos hup]
    · rw [takeLoad_eq, if_neg (by simpa), hreach v hv, if_neg (by simpa), hjob v hv, if_pos hbusy]
    · rw [starts halign hup hfree v hv]
      simp only [startLoad, hlanes v hv, List.isEmpty_iff, hsome, if_false]
      rfl
    · rw [starts halign hup hfree v hv]
      simp only [startLoad, hlanes v hv, hnone, List.isEmpty_nil, if_true]
      generalize parseTraverse c.arg0 c.arg1 parts (leaveKeepalive (takeCmd i v)) = w
      obtain ⟨_ | t, w⟩ := w
      · exact finishLoad_malformed c.id [] w
      · exact finishLoad_wellFormed c.id [] t w
  case run =>
    intro does
    refine ⟨fun hnone => ?_, fun hsome hbar => ?_, fun t htrav hbar hfill => ⟨fun hargs => ?_, fun hbuf hslots hbase => ?_,
      fun hbuf hslots hbase hlast hup => ?_, fun hbuf hslots hbase hlast hdown => ?_⟩⟩
    all_goals refine exec_run ht hop fun v hv => ?_
    · rw [takeRun_noted c i hv, hnone]
    · obtain ⟨t, htrav⟩ := Option.ne_none_iff_exists'.1 hsome
      simp only [takeRun_noted c i hv, htrav]
      rw [if_pos (by simpa [Option.isSome_iff_ne_none] using hbar)]
    all_goals simp only [takeRun_noted c i hv, htrav]; rw [if_neg (by simp [hbar, hfill])]
    · rw [if_pos (by simpa using hargs)]
    · rw [if_neg (by simp [hbuf, hslots]), if_pos (by simpa using .inl hbase)]
    all_goals
      have hstation : ¬ ((decide (c.arg0 ≠ runBase s) || decide (0xFFFFFFFFFFFE < c.arg0 + t.legs.length)) = true) := by
        rw [show runBase s = c.arg0 from hbase.symm]
        simpa using hlast
      rw [if_neg (by simp [hbuf, hslots]), if_neg hstation]
    · rw [if_neg (by simp [hup])]
    · rw [if_pos (by simp [hdown])]
  case leg =>
    refine ⟨_, startLeg_run htrav hrun hleg, rfl, rfl, rfl, rfl, rfl, fun b => mem_idleBlocks⟩
  case fence =>
    rw [exec_fenceJob ht hop]
    exact ⟨fun hmine => congrArg Host.Outcome.next (if_pos hmine),
      fun h0 hother => congrArg Host.Outcome.next (if_neg (not_or.2 ⟨h0, hother⟩))⟩

end Sys2Proof.Machine

/-! SUPPORT. Proof of the statement about stations (O43). -/

namespace Sys2Proof.Machine

open Sys2Proof

/-! ### A flush touches the memory, the fabric, the host's side and the error log (R212) -/

/-- Only HBM, the fabric, the host interface, host memory and the error log may differ. -/
structure MemoryOnly (s t : State) : Prop where
  eq : t = { s with host := t.host, hostMem := t.hostMem, flt := t.flt, fab := t.fab, hbm := t.hbm }

theorem MemoryOnly.refl (s : State) : MemoryOnly s s := ⟨rfl⟩

theorem MemoryOnly.trans {s t u : State} (h : MemoryOnly s t) (k : MemoryOnly t u) : MemoryOnly s u := by
  constructor
  rw [k.eq, h.eq]

theorem MemoryOnly.ite {s t u : State} {c : Prop} [Decidable c] (h : MemoryOnly s t) (k : MemoryOnly s u) :
    MemoryOnly s (if c then t else u) := by
  split <;> assumption

theorem FabricOnly.memory {s t : State} (h : FabricOnly s t) : MemoryOnly s t := by
  constructor
  conv_lhs => rw [h.eq]
  rw [h.eq]

theorem modHbm_only (f : Hbm → Hbm) (s : State) : MemoryOnly s (s.modHbm f) := ⟨rfl⟩

theorem MemoryOnly.foldl {α : Type} {f : State → α → State} (h : ∀ u x, MemoryOnly u (f u x)) (l : List α) (s : State) :
    MemoryOnly s (l.foldl f s) := by
  induction l generalizing s with
  | nil => exact MemoryOnly.refl s
  | cons x xs ih => exact (h s x).trans (ih _)

theorem record_memory (r : Record) (s : State) : MemoryOnly s (record r s) := (record_only r s).fabric.memory

theorem failChannel_only (ch cause : Nat) (s : State) : MemoryOnly s (failChannel ch cause s) :=
  MemoryOnly.ite (MemoryOnly.refl s)
    (((modHbm_only _ s).trans (recordFatal_only _ _).memory).trans (raiseEvent_only _ _ _ _).log.fabric.memory)

theorem countRow_only (ch row : Nat) (s : State) : MemoryOnly s (countRow ch row s) :=
  MemoryOnly.ite ((modHbm_only _ s).trans (failChannel_only _ _ _)) (modHbm_only _ s)

theorem readPhys_only (line r a : Nat) (blk : Option (Nat × Nat)) {lost : State → State} (ecc : Ecc) (s : State)
    (hlost : ∀ u, MemoryOnly u (lost u)) : MemoryOnly s (readPhys line r a blk lost ecc s).2 := by
  unfold readPhys
  dsimp only
  split
  · exact hlost s
  · split
    · exact ((modHbm_only _ s).trans (hlost _)).trans (countRow_only _ _ _)
    · exact (hlost s).trans (countRow_only _ _ _)
    · split
      · exact hlost s
      · exact MemoryOnly.ite ((modHbm_only _ s).trans (record_memory _ _)) (MemoryOnly.refl s)

theorem flushEntry_only (e : WcEntry) (s : State) : MemoryOnly s (flushEntry e s) := by
  have hread : ∀ (r a : Nat) (x : Record) (ecc : Ecc) (u : State), MemoryOnly u (readPhys e.line r a none (record x) ecc u).2 :=
    fun r a x ecc u => readPhys_only _ _ _ _ _ _ (record_memory x)
  unfold flushEntry
  dsimp only
  split
  · exact MemoryOnly.refl s
  · split
    · exact modHbm_only _ s
    · split
      · next h => exact ((modHbm_only _ s).trans (h ▸ hread ..)).trans (modHbm_only _ _)
      · next h => exact (((modHbm_only _ s).trans (h ▸ hread ..)).trans (modHbm_only _ _)).trans (modHbm_only _ _)

theorem flushChannel_only (ch : Nat) (s : State) : MemoryOnly s (flushChannel ch s) := by
  unfold flushChannel
  exact (MemoryOnly.foldl (fun u e => flushEntry_only e u) _ s).trans (modHbm_only _ _)

theorem flushAll_only (s : State) : MemoryOnly s (flushAll s) := by
  unfold flushAll
  exact MemoryOnly.foldl (fun u ch => flushChannel_only ch u) _ s

@[simp] theorem flushAll_job (s : State) : (flushAll s).job = s.job := by rw [(flushAll_only s).eq]

@[simp] theorem flushAll_pwr (s : State) : (flushAll s).pwr = s.pwr := by rw [(flushAll_only s).eq]

@[simp] theorem flushAll_aon (s : State) : (flushAll s).aon = s.aon := by rw [(flushAll_only s).eq]

/-! ### A station is reached, and left (R74 to R79) -/

/-- The RUN as steps 2 and 3 seal it. -/
def sealedRun (closed : Bool) (r : Run) (s : State) : Run :=
  { r with sealDigest := (List.range 4).map fun i => s.job.liveDigest.get 0 i, sealDet := (List.range 4).map fun i => s.job.liveDet.get {} i,
           sealEnergy := s.pwr.jobPj / 1000000, sealAon := s.aon - r.legStart, sealTag := s.job.tag, sealClosed := closed,
           phase := if closed then .closedWait else .atStation }

theorem sealLeg_job (closed : Bool) (r : Run) (s : State) :
    (sealLeg closed r s).job =
      { s.job with run := some (sealedRun closed r s), detLeg := s.job.liveDet, liveDigest := [], liveDet := [] } := by
  simp [sealLeg, sealedRun]

/-- What STATION_REACH does in one state. -/
def stationTurn (s : State) : Out :=
  match s.job.run with
  | some r =>
    if r.phase == .atStation then .next (leaveStation s)
    else if legRuns s && legDone s then
      if stationClosed s (r.base + r.j) then .next (sendArrived (r.base + r.j) (sealLeg true r s))
      else .next (passStation (r.base + r.j) (sealLeg false r s))
    else .next s
  | none => .next s

theorem exec_stationReach (errs : List ReadErr) (s : State) :
    exec (.stationReach errs) s = meeting errs stationTurn (noteUnread errs s) := rfl

theorem exec_stationReach_nil (s : State) : exec (.stationReach []) s = stationTurn s := rfl

section
variable {r : Run} {s : State} (hrun : s.job.run = some r)
include hrun

theorem stationTurn_reaches (hphase : r.phase ≠ .atStation) (hleg : legRuns s = true) (hdone : legDone s = true) :
    stationTurn s = if stationClosed s (r.base + r.j) then .next (sendArrived (r.base + r.j) (sealLeg true r s))
      else .next (passStation (r.base + r.j) (sealLeg false r s)) := by
  simp [stationTurn, hrun, hphase, hleg, hdone]

/-- The same over what the memories report: a leg that is done reaches its station, closed or open. -/
theorem meeting_stationTurn (errs : List ReadErr) (hphase : r.phase ≠ .atStation) (hleg : legRuns s = true) (hdone : legDone s = true) :
    (stationClosed s (r.base + r.j) = true →
      meeting errs stationTurn s = meeting errs (fun v => .next (sendArrived (r.base + r.j) (sealLeg true r v))) s)
    ∧ (stationClosed s (r.base + r.j) = false →
      meeting errs stationTurn s = meeting errs (fun v => .next (passStation (r.base + r.j) (sealLeg false r v))) s) := by
  have turn := fun m => stationTurn_reaches (s := s.modHbm fun x => { x with meet := m }) hrun hphase hleg hdone
  have hsame : ∀ m, stationClosed (s.modHbm fun x => { x with meet := m }) (r.base + r.j) = stationClosed s (r.base + r.j) := fun _ => rfl
  refine ⟨fun hclosed => meeting_congr fun m => ?_, fun hopen => meeting_congr fun m => ?_⟩
  · rw [turn m, hsame, if_pos hclosed]
  · rw [turn m, hsame, if_neg (Bool.eq_false_iff.1 hopen)]

theorem stationTurn_early (hphase : r.phase ≠ .atStation) (hdone : legDone s = false) : stationTurn s = .next s := by
  simp [stationTurn, hrun, hphase, hdone]

theorem stationTurn_leaves (hphase : r.phase = .atStation) :
    stationTurn s = .next (if stationBusy s (r.base + r.j) then s else stepEight (r.j + 1) s) := by
  cases hbusy : stationBusy s (r.base + r.j) <;> simp [stationTurn, leaveStation, hrun, hphase, hbusy]

theorem exec_arrivedRepeat (hphase : r.phase = .closedWait) (hseen : r.drainSeen = false) (hdue : r.arrivedAt + 50000 ≤ s.aon) :
    exec .arrivedRepeat s = .next (sendArrived (r.base + r.j) s) := by
  have hexec : exec .arrivedRepeat s = execArrivedRepeat s := rfl
  simp [hexec, execArrivedRepeat, hrun, hphase, hseen, hdue]

/-! ### The drain (R80, R481) -/

theorem exec_drained (hphase : r.phase = .closedWait) (hasked : r.drainAsked = true) (hempty : drainEmpty s = true)
    (hckpts : ∀ k ∈ s.mem.ckpts, k.station ≠ r.base + r.j) :
    exec .drained s = .next (sendFm 0x10 (markerBytes (r.base + r.j) true 3 s.job.tag s)
      { s with job := { s.job with run := some { r with drainAsked := false }, marker := markerBytes (r.base + r.j) true 3 s.job.tag s } }) := by
  have hexec : exec .drained s = execDrained s := rfl
  have hnone : (s.mem.ckpts.any fun k => k.station == r.base + r.j) = false := by simpa using hckpts
  simp [hexec, execDrained, hrun, hphase, hasked, hempty, hnone, noteMarker, State.modJob]

theorem exec_drained_waits (hbusy : drainEmpty s = false) : exec .drained s = .next s := by
  have hexec : exec .drained s = execDrained s := rfl
  simp [hexec, execDrained, hrun, hbusy]

/-! ### The leg watchdog (R94; log 22) -/

theorem exec_legOverdue (hphase : r.phase = .leg ∨ r.phase = .closedWait)
    (hdue : (r.overdue + 1) * (50000 * s.job.wdog) ≤ s.aon - r.legStart) :
    exec .legOverdue s =
      .next (let v := raiseEvent 0x20 0 (overdueBody r (r.overdue + 1) s) (s.modJob fun j => { j with run := some { r with overdue := r.overdue + 1 } })
             if s.fab.recovery then v else sendFm 0x13 (overdueBody r (r.overdue + 1) s) v) := by
  have hexec : exec .legOverdue s = execLegOverdue s := rfl
  simp [hexec, execLegOverdue, hrun, hphase, hdue]

end

/-! ### Messages at the head of the intake (R287; log 150) -/

/-- The state once the message at the head of the intake has been taken, `rest` behind it. -/
def mgtRest (rest : List Carried) (s : State) : State := s.modFab fun f => { f with mgtIn := rest }

@[simp] theorem mgtRest_job (rest : List Carried) (s : State) : (mgtRest rest s).job = s.job := rfl

/-- The step of a message that is its turn: a body that keeps its layout has its effect, any other is counted. -/
theorem mgtStep_takes {code : Nat} {ok : List Byte → Bool} {body : Carried → List Byte → State → State} {c : Carried} {rest : List Carried}
    {s : State} (h : Message s code c rest) (htaken : mgtTaken code = true) :
    mgtStep code ok body s = .next (if ok (c.pkt.payload.drop 8) then body c (c.pkt.payload.drop 8) (mgtRest rest s)
      else fabCount 0 (mgtRest rest s)) := by
  have hhead : (dropIdle s).fab.mgtIn = c :: rest := by simp [dropIdle, h.head, h.code, htaken]
  simp only [mgtStep, h.runs, hhead, h.code, if_true, beq_self_eq_true]
  rfl

theorem mayArrive_of_noShadow {s : State} (h : s.mem.shadow = none) (n : Nat) : mayArrive s n = true := by simp [mayArrive, h]

theorem swapDue_atClosedStation {r : Run} {s : State} (hrun : s.job.run = some r) (hphase : r.phase = .closedWait) (h : s.mem.shadow = none) :
    swapDue s (r.base + r.j) = true := by
  simp [swapDue, hrun, hphase, mayArrive_of_noShadow h]

theorem exec_drainCheck_bad {c : Carried} {rest : List Carried} {s : State} (h : Message s 0x11 c rest)
    (hbad : drainOk (c.pkt.payload.drop 8) = false) : exec .drainCheck s = .next (fabCount 0 (mgtRest rest s)) := by
  have hexec : exec .drainCheck s = execDrainCheck s := rfl
  rw [hexec, execDrainCheck, mgtStep_takes h rfl, if_neg (Bool.eq_false_iff.1 hbad)]

/-- DRAIN_CHECK of the closed station that the device stands at asks for the drain (R80, R287). -/
theorem exec_drainCheck {c : Carried} {rest : List Carried} {r : Run} {s : State} (h : Message s 0x11 c rest)
    (hok : drainOk (c.pkt.payload.drop 8) = true) (hrun : s.job.run = some r) (hphase : r.phase = .closedWait)
    (hn : field (c.pkt.payload.drop 8) 0 6 = r.base + r.j) (htag : field (c.pkt.payload.drop 8) 8 4 = s.job.tag) (hshadow : s.mem.shadow = none) :
    exec .drainCheck s = .next ((mgtRest rest s).modJob fun j =>
      { j with run := some { r with drainAsked := true, drainSeen := true } }) := by
  have hexec : exec .drainCheck s = execDrainCheck s := rfl
  have hmay : mayArrive (mgtRest rest s) (r.base + r.j) = true := mayArrive_of_noShadow hshadow _
  rw [hexec, execDrainCheck, mgtStep_takes h rfl, if_pos hok]
  simp [hrun, hphase, hn, htag, hmay]

/-- A marker that keeps R83's layout is recorded under its device. -/
theorem exec_stationMarker {c : Carried} {rest : List Carried} {s : State} (h : Message s 0x10 c rest) :
    exec .stationMarker s = .next (if markerOk (c.pkt.payload.drop 8) then
      (mgtRest rest s).modFab fun f =>
        { f with marker := f.marker.set [] (field (c.pkt.payload.drop 8) 12 2) (slice (c.pkt.payload.drop 8) 0 16) }
      else fabCount 0 (mgtRest rest s)) := by
  have hexec : exec .stationMarker s = execStationMarker s := rfl
  rw [hexec, execStationMarker, mgtStep_takes h rfl]

/-- SWAP over what the memories report: its step runs on the state with the message taken. -/
theorem exec_swap {errs : List ReadErr} {c : Carried} {rest : List Carried} {s : State} (h : Message s 0x12 c rest) {g : State → State}
    (hg : ∀ u, Noted s u → (if drainOk (c.pkt.payload.drop 8) then takeSwap (c.pkt.payload.drop 8) (mgtRest rest u)
      else fabCount 0 (mgtRest rest u)) = g (mgtRest rest u)) :
    exec (.swap errs) s = moving errs (fun v => .next (g (mgtRest rest v))) s := by
  refine moving_of_noted fun u hu => ?_
  have hm : Message u 0x12 c rest := by
    obtain ⟨b, x, rfl⟩ := hu
    exact ⟨h.head, h.code, h.runs⟩
  exact (mgtStep_takes hm rfl).trans (congrArg Host.Outcome.next (hg u hu))

/-- SWAP reads the job, its stagings and the shadow, which the errors of the memories leave as they are. -/
theorem takeSwap_noted (b : List Byte) (rest : List Carried) {s u : State} (h : Noted s u) :
    takeSwap b (mgtRest rest u) =
      if swapDue s (field b 0 6) then
        if field b 8 4 = s.job.tag then passStation (field b 0 6) (mgtRest rest u)
        else mgtRest rest u
      else if s.job.reached.get [] (field b 0 6) ≠ []
          ∧ (field b 8 4 = s.job.tag ∨ field b 8 4 = field (s.job.reached.get [] (field b 0 6)) 8 4) then
        tellReached (s.job.reached.get [] (field b 0 6)) (mgtRest rest u)
      else mgtRest rest u := by
  obtain ⟨y, x, rfl⟩ := h
  rfl

/-! ### The REACHED marker (R83, R286, R489) -/

theorem tellReached_noTee (m : List Byte) {s : State} (h : s.mem.role ≠ 1) : tellReached m s = sendFm 0x10 m s := by
  simp [tellReached, teeMarker, h]

/-- The fabric manager is told of a closed station by its marker, which the device then keeps. -/
theorem sendReached_closed (m : List Byte) (s : State) :
    ∃ t, sendReached true m s = tellReached m t ∧ t.job.reached.get [] (field m 0 6) = m :=
  ⟨_, rfl, Table.get_set_same ..⟩

/-! ### The station record (R84) -/

theorem field_append_left {k : Nat} {a b : List Byte} (h : a.length = k) : field (a ++ b) 0 k = leNat a := by
  subst h
  refine congrArg leNat (List.ext_getElem (by simp [slice]) fun i _ hi => ?_)
  simp [slice, List.getElem?_append_left hi, hi]

theorem field_append_right {k n : Nat} {a b : List Byte} (ha : a.length = n) (hb : b.length = k) : field (a ++ b) n k = leNat b := by
  subst ha hb
  refine congrArg leNat (List.ext_getElem (by simp [slice]) fun i _ hi => ?_)
  simp [slice, hi]

theorem flatMap_leBytes_length {α : Type} (k : Nat) (f : α → Nat) (l : List α) : (l.flatMap fun x => leBytes k (f x)).length = k * l.length := by
  simp [List.length_flatMap, leBytes_length, Nat.mul_comm]

/-- R84's record has 256 bytes, begins with its station and ends with its sequence number. -/
theorem recordBytes_fields {n flags settings : Nat} {r : Run} {s : State} (hdigest : r.sealDigest.length = 4) (hdet : r.sealDet.length = 4)
    (hn : n < 2 ^ 48) :
    (recordBytes n flags settings r s).length = 256 ∧ field (recordBytes n flags settings r s) 0 6 = n
      ∧ field (recordBytes n flags settings r s) 248 8 = n + 2 ^ 63 := by
  have hblocks : (shapeBlocks s).length = 4 := flatMap_leBytes_length 1 _ _
  have hframes : (shapeFrames s).length = 16 := flatMap_leBytes_length 4 _ _
  have hdigests : (r.sealDigest.flatMap (leBytes 8)).length = 32 := (flatMap_leBytes_length 8 id _).trans (by rw [hdigest])
  have hdets : (r.sealDet.flatMap fun d => leBytes 8 (detWord d)).length = 32 := by rw [flatMap_leBytes_length, hdet]
  have hzeros : (zeros 120).length = 120 := List.length_replicate
  refine ⟨?_, ?_, ?_⟩
  · simp only [recordBytes, List.length_append, leBytes_length, hblocks, hframes, hdigests, hdets, hzeros]
  · simp only [recordBytes, List.append_assoc]
    rw [field_append_left (leBytes_length ..), leNat_leBytes 6 n (by omega)]
  · rw [recordBytes, field_append_right _ (leBytes_length ..), leNat_leBytes 8 _ (by omega)]
    simp only [List.length_append, leBytes_length, hblocks, hframes, hdigests, hdets, hzeros]

/-! ### The statement -/

/-- Settles O43: `stationTurn` is what STATION_REACH does, `sealedRun` what it seals, and a message's step is `mgtStep` on the message that is
its turn. -/
theorem stations : Obligations.Stations := by
  unfold Obligations.Stations
  refine ⟨fun errs r s => ?reach, fun r s hrun hphase hdone => ?early, fun r s hrun hphase => ?leave, fun closed r s => ?seals,
    fun r s => exec_arrivedRepeat, fun c rest r s h => ?check, fun r s => exec_drained, fun r s => exec_drained_waits,
    fun errs c rest s h => ?swap, fun m s => tellReached_noTee m, sendReached_closed, fun c rest s h => ?marker,
    fun r s => exec_legOverdue, fun n flags settings r s hdigest hdet hn => recordBytes_fields hdigest hdet hn⟩
  case reach =>
    intro u hrun hphase hleg hdone
    rw [exec_stationReach]
    exact meeting_stationTurn hrun errs hphase hleg hdone
  case early => rw [exec_stationReach_nil, stationTurn_early hrun hphase hdone]
  case leave =>
    rw [exec_stationReach_nil, stationTurn_leaves hrun hphase]
    exact ⟨fun hfree => congrArg Host.Outcome.next (if_neg (Bool.eq_false_iff.1 hfree)), fun hbusy => congrArg Host.Outcome.next (if_pos hbusy)⟩
  case seals =>
    rw [sealLeg_job]
    exact ⟨_, rfl, rfl, rfl, rfl, rfl, rfl, rfl, rfl⟩
  case check =>
    exact ⟨exec_drainCheck_bad h, fun hok hrun hphase hn htag hshadow => exec_drainCheck h hok hrun hphase hn htag hshadow⟩
  case swap =>
    intro b does
    have ends : ∀ g : State → State, (∀ u, Noted s u → (if drainOk b then takeSwap b (mgtRest rest u)
        else fabCount 0 (mgtRest rest u)) = g (mgtRest rest u)) → does g :=
      fun g => exec_swap h
    clear_value does -- so that `ends` is matched by its argument
    refine ⟨fun hbad => ?_, fun hok hdue htag => ?_, fun hok hdue hnone => ?_, fun r hok htag hrun hphase hn hshadow => ?_,
      fun m hok hdue hm hsome htag => ?_⟩
    all_goals refine ends _ fun u hu => ?_
    · exact if_neg (Bool.eq_false_iff.1 hbad)
    all_goals rw [if_pos hok, takeSwap_noted b rest hu]
    · rw [if_pos hdue, if_neg htag]
    · rw [if_neg (Bool.eq_false_iff.1 hdue), if_neg fun hagain => hagain.1 hnone]
    · rw [if_pos (hn ▸ swapDue_atClosedStation hrun hphase hshadow), if_pos htag, hn]
    · rw [if_neg (Bool.eq_false_iff.1 hdue), hm, if_pos ⟨hsome, htag⟩]
  case marker =>
    rw [exec_stationMarker h]
    exact ⟨fun hok => congrArg Host.Outcome.next (if_pos hok), fun hbad => congrArg Host.Outcome.next (if_neg (Bool.eq_false_iff.1 hbad))⟩

end Sys2Proof.Machine

/-! SUPPORT. Proof of the statement about the arithmetic of integer tiles (O37). -/

namespace Sys2Proof.Machine

open Sys2Proof

/-! ### Numbers in two's complement -/

/-- The integer is one that 32 bits hold in two's complement. -/
def Fits32 (x : Int) : Prop := -2 ^ 31 ≤ x ∧ x < 2 ^ 31

theorem untwos_twos {x : Int} (h : Fits32 x) : untwos 32 (twos 32 x) = x := by
  obtain ⟨hlo, hhi⟩ := h
  simp only [untwos, twos]
  omega

theorem twos_natCast (n : Nat) : twos 32 (n : Int) = n % 2 ^ 32 := rfl

theorem twos_add (x y : Int) : (twos 32 x + twos 32 y) % 2 ^ 32 = twos 32 (x + y) := by
  simp only [twos]
  omega

/-- An INT8 operand. -/
theorem untwos_byte (c : Nat) : -128 ≤ untwos 8 c ∧ untwos 8 c < 128 := by
  simp only [untwos]
  split <;> omega

theorem fits32_add_bytes (c d : Nat) : Fits32 (untwos 8 c + untwos 8 d) := by
  have hc := untwos_byte c
  have hd := untwos_byte d
  constructor <;> omega

theorem fits32_mul_bytes (c d : Nat) : Fits32 (untwos 8 c * untwos 8 d) := by
  obtain ⟨hc, hc'⟩ := untwos_byte c
  obtain ⟨hd, hd'⟩ := untwos_byte d
  constructor <;> nlinarith

theorem Fits32.min {x y : Int} (hx : Fits32 x) (hy : Fits32 y) : Fits32 (min x y) := by
  rcases min_choice x y with h | h <;> rwa [h]

theorem Fits32.max {x y : Int} (hx : Fits32 x) (hy : Fits32 y) : Fits32 (max x y) := by
  rcases max_choice x y with h | h <;> rwa [h]

/-! ### Combining integer accumulators (R109, R120) -/

/-- On the integers that `P` allows, the combining step of `op` acts as `g`, and stays within `P`. -/
structure CombinesAs (op : Nat) (sat : Bool) (P : Int → Prop) (g : Int → Int → Int) : Prop where
  step : ∀ x y, P x → P y → combine op sat (.int (twos 32 x)) (.int (twos 32 y)) = .int (twos 32 (g x y))
  keeps : ∀ x y, P x → P y → P (g x y)

theorem combinesAs_add {op : Nat} (hmin : op ≠ 1) (hmax : op ≠ 2) (htimes : op ≠ 3) (sat : Bool) :
    CombinesAs op sat (fun _ => True) (· + ·) where
  step x y _ _ := by rw [combine, twos_add] <;> assumption
  keeps _ _ _ _ := trivial

theorem combinesAs_min (sat : Bool) : CombinesAs 1 sat Fits32 min where
  step x y hx hy := by rw [combine, untwos_twos hx, untwos_twos hy]
  keeps _ _ := Fits32.min

theorem combinesAs_max {op : Nat} (hop : op = 2 ∨ op = 3) (sat : Bool) : CombinesAs op sat Fits32 max where
  step x y hx hy := by rcases hop with rfl | rfl <;> rw [combine, untwos_twos hx, untwos_twos hy]
  keeps _ _ := Fits32.max

/-- Terms entered one after another. -/
theorem CombinesAs.fold {op : Nat} {sat : Bool} {P : Int → Prop} {g : Int → Int → Int} (h : CombinesAs op sat P g) {f : Nat → Int}
    (hf : ∀ k, P (f k)) (ks : List Nat) : ∀ {v : Int}, P v →
    ks.foldl (fun acc k => combine op sat acc (.int (twos 32 (f k)))) (.int (twos 32 v)) = .int (twos 32 ((ks.map f).foldl g v)) := by
  induction ks with
  | nil => exact fun _ => rfl
  | cons k ks ih =>
    intro v hv
    rw [List.foldl_cons, h.step v (f k) hv (hf k), ih (h.keeps v (f k) hv (hf k)), List.map_cons, List.foldl_cons]

/-! ### The accumulator of a tile outside MV (R107) -/

section
variable (m : Mem) {s : ArrSlot} (t : Tile) (i l : Nat)

theorem outputAcc_groups (hshape : s.shape ≠ 5) (hop : s.op ≠ 10) : outputAcc m s t i l
    = (List.range (tileK s t / groupOf s.fa)).foldl (fun acc j => combine s.op s.sat acc (groupTerm m s t i l (j * groupOf s.fa)))
        (identity s.op s.fa) := by
  simp [outputAcc, accAfter, hshape, hop]

/-- The term of one K index with INT8 operands. -/
def int8Term (m : Mem) (s : ArrSlot) (t : Tile) (i l k : Nat) : Int :=
  intTerm s.op (untwos 8 (codeA m s t i k)) (untwos 8 (codeB m s t l k))

theorem groupTerm_int8 (hfa : s.fa = 11) (hop : s.op < 6) (k : Nat) : groupTerm m s t i l k = .int (twos 32 (int8Term m s t i l k)) := by
  have hcount : isCount s.op = false := by simp [isCount, show ¬6 ≤ s.op by omega]
  simp [groupTerm, hfa, hcount, show s.op ≠ 9 by omega, int8Term]

/-- With INT8 operands every K index is a group of its own. -/
theorem outputAcc_int8 (hshape : s.shape ≠ 5) (hfa : s.fa = 11) (hop : s.op < 6) {P : Int → Prop} {g : Int → Int → Int} {v : Int}
    (h : CombinesAs s.op s.sat P g) (hid : identity s.op 11 = .int (twos 32 v)) (hv : P v) (hterm : ∀ k, P (int8Term m s t i l k)) :
    outputAcc m s t i l = .int (twos 32 (((List.range (tileK s t)).map (int8Term m s t i l)).foldl g v)) := by
  have hgroup : groupOf 11 = 1 := rfl
  rw [outputAcc_groups m t i l hshape (by omega), hfa, hgroup, Nat.div_one, hid]
  simp only [Nat.mul_one, groupTerm_int8 m t i l hfa hop]
  exact h.fold hterm _ hv

/-- MAC, L1 and L2SQ: the sum of the terms. -/
theorem outputAcc_int8_sum (hshape : s.shape ≠ 5) (hfa : s.fa = 11) (hop : s.op = 0 ∨ s.op = 4 ∨ s.op = 5) :
    outputAcc m s t i l = .int (twos 32 ((List.range (tileK s t)).map (int8Term m s t i l)).sum) := by
  have hid : identity s.op 11 = .int (twos 32 0) := by rcases hop with h | h | h <;> rw [h] <;> rfl
  rw [List.sum_eq_foldl]
  exact outputAcc_int8 m t i l hshape hfa (by omega) (combinesAs_add (by omega) (by omega) (by omega) s.sat) hid trivial fun _ => trivial

/-- MINPLUS: the least term. -/
theorem outputAcc_int8_min (hshape : s.shape ≠ 5) (hfa : s.fa = 11) (hop : s.op = 1) :
    outputAcc m s t i l = .int (twos 32 (((List.range (tileK s t)).map (int8Term m s t i l)).foldl min (2 ^ 31 - 1))) := by
  refine outputAcc_int8 m t i l hshape hfa (by omega) (hop ▸ combinesAs_min s.sat) (by rw [hop]; rfl) ⟨by norm_num, by norm_num⟩ fun k => ?_
  rw [int8Term, hop]
  exact fits32_add_bytes _ _

/-- MAXPLUS and MAXTIMES: the greatest term. -/
theorem outputAcc_int8_max (hshape : s.shape ≠ 5) (hfa : s.fa = 11) (hop : s.op = 2 ∨ s.op = 3) :
    outputAcc m s t i l = .int (twos 32 (((List.range (tileK s t)).map (int8Term m s t i l)).foldl max (-2 ^ 31))) := by
  have hid : identity s.op 11 = .int (twos 32 (-2 ^ 31)) := by rcases hop with h | h <;> rw [h] <;> rfl
  refine outputAcc_int8 m t i l hshape hfa (by omega) (combinesAs_max hop s.sat) hid ⟨le_refl _, by norm_num⟩ fun k => ?_
  rcases hop with h | h <;> rw [int8Term, h]
  · exact fits32_add_bytes _ _
  · exact fits32_mul_bytes _ _

/-! ### Counts (R122) -/

/-- K indices of group `j`. -/
def groupKs (g j : Nat) : List Nat := (List.range g).map (j * g + ·)

theorem flatMap_groupKs (g n : Nat) : (List.range n).flatMap (groupKs g) = List.range (n * g) := by
  induction n with
  | zero => simp
  | succ n ih => rw [List.range_succ, List.flatMap_append, ih, Nat.succ_mul, List.range_add, List.flatMap_singleton, groupKs]

/-- K is a whole number of groups. -/
theorem tileK_groups : tileK s t / groupOf s.fa * groupOf s.fa = tileK s t := by
  refine Nat.div_mul_cancel ?_
  unfold groupOf
  split
  · next h => exact Dvd.dvd.mul_left (by rw [h]; decide) t.kgran
  · exact one_dvd _

/-- A count's groups each give the number of their pairs that are counted; the accumulator is the number over all K. -/
theorem outputAcc_count (hshape : s.shape ≠ 5) (hop : 6 ≤ s.op ∧ s.op ≤ 9) {p : Nat → Bool}
    (hgroup : ∀ j, groupTerm m s t i l (j * groupOf s.fa) = .int ((groupKs (groupOf s.fa) j).countP p % 2 ^ 32)) :
    outputAcc m s t i l = .int (((List.range (tileK s t)).filter p).length % 2 ^ 32) := by
  have hid : identity s.op s.fa = .int (twos 32 0) := by
    obtain ⟨h6, h9⟩ := hop
    interval_cases s.op <;> simp [identity, intAcc, twos]
  have hcount : ((List.range (tileK s t / groupOf s.fa)).map fun j => ((groupKs (groupOf s.fa) j).countP p : Int)).sum
      = (((List.range (tileK s t)).filter p).length : Int) := by
    have hks : List.range (tileK s t) = (List.range (tileK s t / groupOf s.fa)).flatMap (groupKs (groupOf s.fa)) := by
      rw [flatMap_groupKs, tileK_groups]
    rw [← List.countP_eq_length_filter, hks, List.countP_flatMap, Nat.cast_list_sum, List.map_map]
    rfl
  rw [outputAcc_groups m t i l hshape (by omega), hid]
  simp only [hgroup, ← twos_natCast, ← hcount]
  rw [(combinesAs_add (op := s.op) (by omega) (by omega) (by omega) s.sat).fold (fun _ => trivial) _ trivial, List.sum_eq_foldl]

/-- A sum of ones and zeros counts the ones. -/
theorem sum_ite_eq_countP (p : Nat → Bool) (ks : List Nat) : (ks.map fun k => if p k = true then 1 else 0).sum = ks.countP p := by
  induction ks with
  | nil => rfl
  | cons k ks ih => cases hk : p k <;> simp [hk, ih, Nat.add_comm]

/-- CNT_GT, CNT_GE and CNT_EQ. -/
theorem outputAcc_comparisons (hshape : s.shape ≠ 5) (h6 : 6 ≤ s.op) (h8 : s.op ≤ 8) : outputAcc m s t i l
    = .int (((List.range (tileK s t)).filter fun k => countHit s.op (elemA m s t i k) (elemB m s t l k)).length % 2 ^ 32) := by
  refine outputAcc_count m t i l hshape ⟨h6, by omega⟩ fun j => ?_
  have hcount : isCount s.op = true := by simp [isCount, h6, show s.op ≤ 9 by omega]
  rw [groupTerm, if_neg (by omega), if_pos hcount, ← sum_ite_eq_countP]
  rfl

/-- HAMMING. -/
theorem outputAcc_hamming (hshape : s.shape ≠ 5) (hop : s.op = 9) : outputAcc m s t i l
    = .int (((List.range (tileK s t)).filter fun k => decide (codeA m s t i k ≠ codeB m s t l k)).length % 2 ^ 32) := by
  refine outputAcc_count m t i l hshape ⟨by omega, by omega⟩ fun j => ?_
  rw [groupTerm, if_pos hop, ← sum_ite_eq_countP]
  simp only [decide_eq_true_eq, ne_eq, ite_not]
  rfl

end

/-! ### The statement -/

/-- Settles O37: outside MV an accumulator is a fold of its groups' terms, on which the combining step acts as the sum, the minimum or the
maximum of integers. -/
theorem arrayArithmetic : Obligations.ArrayArithmetic := by
  unfold Obligations.ArrayArithmetic
  intro m s t i l hshape a b ks
  have hterms : ∀ {op : Nat}, s.op = op → int8Term m s t i l = fun k => intTerm op (a k) (b k) := fun h => by rw [← h]; rfl
  refine ⟨fun hfa hop => ?mac, fun hfa hop => ?l1, fun hfa hop => ?l2sq, fun hfa hop => ?minplus, fun hfa hop => ?maxplus,
    fun hfa hop => ?maxtimes, outputAcc_comparisons m t i l hshape, outputAcc_hamming m t i l hshape, fun w v hout => ?drain⟩
  case mac => rw [outputAcc_int8_sum m t i l hshape hfa (.inl hop), hterms hop]; rfl
  case l1 => rw [outputAcc_int8_sum m t i l hshape hfa (.inr (.inl hop)), hterms hop]; rfl
  case l2sq => rw [outputAcc_int8_sum m t i l hshape hfa (.inr (.inr hop)), hterms hop]; rfl
  case minplus => rw [outputAcc_int8_min m t i l hshape hfa hop, hterms hop]; rfl
  case maxplus => rw [outputAcc_int8_max m t i l hshape hfa (.inl hop), hterms hop]; rfl
  case maxtimes => rw [outputAcc_int8_max m t i l hshape hfa (.inr hop), hterms hop]; rfl
  case drain => simp [drainCode, hout]

end Sys2Proof.Machine

/-! SUPPORT. Proof of the statement about vector instructions (O38). -/

namespace Sys2Proof.Machine

open Sys2Proof

/-! ### The vector instruction in its bundle (R158, R159, R168) -/

/-- The rows of the vector operations, by VOP. -/
def vectorRows : List (Nat × (Fin 256 → HwErr → Instr)) :=
  [(0, .add), (1, .mul), (2, .fma), (3, .min), (4, .max), (5, .exp), (6, .log), (7, .rcp), (8, .rsqrt), (9, .cvt)]
    ++ [(10, .cvtMx), (11, .datum), (12, .dmax), (13, .toC), (14, .cadd), (15, .fromC), (16, .dropout), (17, .uniform), (18, .rawrand), (19, .copy)]

theorem exec_vectorRow {op : Nat} {row : Fin 256 → HwErr → Instr} (h : (op, row) ∈ vectorRows) (b : Fin 256) (e : HwErr) (s : State) :
    exec (row b e) s = vecStep op b e s := by
  have hall : vectorRows.Forall fun x => exec (x.2 b e) s = vecStep x.1 b e s := by
    simp only [vectorRows, List.cons_append, List.nil_append, List.Forall]
    and_intros <;> rfl
  exact List.forall_iff_forall_mem.1 hall _ h

/-- A bundle in turn with a vector operation in its VEC slot issues for the operation's row. -/
theorem exec_vectorRow_issues {op : Nat} {row : Fin 256 → HwErr → Instr} (hrow : (op, row) ∈ vectorRows) {b : Fin 256} {p : Nat} {bv : BitVec 256}
    {s : State} (ht : InTurn s b p bv) (hv : slotValid bv.toNat 2 = true) (hop : bits (slotWord bv.toNat 2) 62 57 = op) :
    exec (row b .none) s = .next (issueBundle b p bv.toNat s) := by
  rw [exec_vectorRow hrow, vecStep, ht.step]
  simp [hv, hop]

/-- A bundle whose descriptors fail leaves no effect but its fault. -/
theorem issueBundle_unread {b p w c d x : Nat} {s u : State} (hctl : ctlSlot b p w s = .issued u)
    (hreads : readSlots (blkOf u p) w = .error (c, d, x)) : issueBundle b p w s = haltBlock p c d x s := by
  simp [issueBundle, hctl, hreads]

/-! ### The faults of the oldest instruction's next elements (R181, R183, R184) -/

section
variable {k : Block} {o : VecOp} {m : Nat}

/-- Segments that the next `m` elements read, the instruction's own destination aside. -/
def vecReadSegs (o : VecOp) (m : Nat) : List Nat :=
  (rangeSegs (vecReads (vecSlot o.word) (vecDesc o.desc) o.done m)).filter fun g => !(o.held.getD []).contains g

theorem vecFaults_none (hreads : firstFault (readFault k) (vecReadSegs o m) = none)
    (hdst : o.held.isSome = true ∨ firstFault (writeFault k) (vecDst o) = none) : vecFaults k o m = none := by
  simp only [vecReadSegs] at hreads
  simp only [vecFaults, hreads]
  split
  · rfl
  · next hheld => exact hdst.resolve_left hheld

theorem vecFaults_some (h : firstFault (readFault k) (vecReadSegs o m) ≠ none ∨ (o.held = none ∧ firstFault (writeFault k) (vecDst o) ≠ none)) :
    ∃ f, vecFaults k o m = some f := by
  rw [← Option.ne_none_iff_exists']
  intro hnone
  cases hreads : firstFault (readFault k) (vecReadSegs o m) with
  | some f =>
    simp only [vecReadSegs] at hreads
    simp only [vecFaults, hreads, reduceCtorEq] at hnone
  | none =>
    obtain ⟨hheld, hdst⟩ := h.resolve_left (not_not.2 hreads)
    simp only [vecReadSegs] at hreads
    simp only [vecFaults, hreads] at hnone
    exact hdst (by simpa [hheld] using hnone)

end

/-! ### What a step of the vector unit does (R113, R168) -/

/-- The elements that a step of `n` groups processes. -/
def vecBatch (n : Nat) (o : VecOp) : Nat := min (32 * n) ((vecDesc o.desc).count - o.done)

section
variable {p n : Nat} {o : VecOp} {os : List VecOp} {s : State}

/-- With every element processed a step does nothing. -/
theorem vecMove_idle (h : vecBatch n o = 0) : vecMove p n o os s = .issued s := if_pos h

theorem vecMove_faults (hm : 0 < vecBatch n o) {f : Nat × Nat} (hf : vecFaults (blkOf s p) o (vecBatch n o) = some f) :
    vecMove p n o os s = vecFault p f.1 (vecSlot o.word).desc (4096 * f.2) s := by
  rw [vecBatch] at hm hf
  simp only [vecMove, hm.ne', if_false, hf]

variable (hm : 0 < vecBatch n o) (hf : vecFaults (blkOf s p) o (vecBatch n o) = none)
include hm hf

theorem vecMove_traps
    (ht : ((vecRun s.job.seed (blkOf s p).sp (vecSlot o.word) (vecDesc o.desc) o.done (vecBatch n o)).2 && (vecSlot o.word).trap) = true) :
    vecMove p n o os s = vecFault p 0x203 (vecSlot o.word).desc 0 s := by
  rw [vecBatch] at hm hf ht
  simp only [vecMove, hm.ne', if_false, hf, ht, if_true]

theorem vecMove_writes
    (ht : ((vecRun s.job.seed (blkOf s p).sp (vecSlot o.word) (vecDesc o.desc) o.done (vecBatch n o)).2 && (vecSlot o.word).trap) = false) :
    vecMove p n o os s = .issued (s.modBlk p (vecWrote o os (vecBatch n o)
      (vecRun s.job.seed (blkOf s p).sp (vecSlot o.word) (vecDesc o.desc) o.done (vecBatch n o)).1)) := by
  rw [vecBatch] at hm hf ht ⊢
  simp only [vecMove, hm.ne', if_false, hf, ht, Bool.false_eq_true]

end

/-- A fault of the vector unit halts the block and empties its queue; the scratchpad is as it was. -/
theorem vecFault_stops (p code desc off : Nat) (s : State) : ∃ t, vecFault p code desc off s = .stopped t
    ∧ (blkOf t p).halted = true ∧ (blkOf t p).vec = [] ∧ (blkOf t p).sp = (blkOf s p).sp := by
  obtain ⟨x, hx⟩ := blkOf_haltBlock p code desc off (s.modBlk p (stopEngine 2))
  rw [blkOf_modBlk_same] at hx
  exact ⟨_, rfl, by rw [hx]; rfl, by rw [hx]; rfl, by rw [hx]; rfl⟩

/-! ### VECTOR_POST -/

/-- `o` is the oldest vector instruction of block `b`, served by `p`, and `os` are those behind it; the block's engines run. -/
structure VecInTurn (s : State) (b p : Nat) (o : VecOp) (os : List VecOp) : Prop where
  phys : physOf s b = some p
  queue : (blkOf s p).vec = o :: os
  runs : engineRuns s b = true

section
variable {s t : State} {b : Fin 256} {p n : Nat} {o : VecOp} {os : List VecOp} (h : VecInTurn s b p o os)
include h

/-- A step answers what `vecMove` leads to, whether the vector unit goes on or stops. -/
theorem VecInTurn.moves (hmove : vecMove p n o os s = .issued t ∨ vecMove p n o os s = .stopped t) :
    exec (.vectorPost b (.moves n) .none) s = .next t := by
  have hrun : exec (.vectorPost b (.moves n) .none) s = execVectorPost b (.moves n) .none s := rfl
  rcases hmove with hmove | hmove <;> simp [hrun, execVectorPost, h.phys, h.queue, h.runs, meetSp, hmove]

/-- A step that meets a fault. -/
theorem VecInTurn.moves_faults {code desc off : Nat} (hmove : vecMove p n o os s = vecFault p code desc off s) :
    LeadsTo (exec (.vectorPost b (.moves n) .none) s) fun t =>
      (blkOf t p).halted = true ∧ (blkOf t p).vec = [] ∧ (blkOf t p).sp = (blkOf s p).sp := by
  obtain ⟨t, ht, hstops⟩ := vecFault_stops p code desc off s
  exact ⟨t, h.moves (.inr (hmove.trans ht)), hstops⟩

/-- With every element processed the instruction posts. -/
theorem VecInTurn.posts (hdone : (vecDesc o.desc).count ≤ o.done) : exec (.vectorPost b .posts .none) s
    = .next (postCtr p (vecSlot o.word).post 1 (s.modBlk p fun k => { modSegs (o.held.getD []) SegSt.drop k with vec := os })) := by
  have hrun : exec (.vectorPost b .posts .none) s = execVectorPost b .posts .none s := rfl
  have hidle : vecMove p (vecDesc o.desc).count o os s = .issued s := vecMove_idle (by rw [vecBatch]; omega)
  simp [hrun, execVectorPost, h.phys, h.queue, h.runs, meetSp, hidle, vecDone]

end

/-! ### The statement -/

/-- Settles O38: each row's bundle issues as `issueBundle` has it, and VECTOR_POST does what `vecMove` makes of its faults and its results. -/
theorem vectorInstructions : Obligations.VectorInstructions := by
  unfold Obligations.VectorInstructions
  refine ⟨fun op row b p bv s u l hrow h hv hop => ?issued, fun op row b p c d x bv s u hrow ht hv hop hctl hreads => ?unread,
    fun b p n o os s hp hq hr => ?moves, fun b p o os s hp hq hr => VecInTurn.posts ⟨hp, hq, hr⟩⟩
  case issued =>
    rw [exec_vectorRow_issues hrow h.turn hv hop, h.issue, vecPart, if_pos hv]
    rfl
  case unread => rw [exec_vectorRow_issues hrow ht hv hop, issueBundle_unread hctl hreads]
  case moves =>
    intro v d m k reads dst r hm
    have h : VecInTurn s b p o os := ⟨hp, hq, hr⟩
    refine ⟨fun hreads hdst => ⟨fun hsound => ?writes, fun htrap => ?traps⟩, fun hbad => ?faults⟩
    case writes => exact h.moves (.inl (vecMove_writes hm (vecFaults_none hreads hdst) hsound))
    case traps => exact h.moves_faults (vecMove_traps hm (vecFaults_none hreads hdst) htrap)
    case faults =>
      obtain ⟨f, hf⟩ := vecFaults_some hbad
      exact h.moves_faults (vecMove_faults hm hf)

end Sys2Proof.Machine

/-! SUPPORT. Proof of the statement about the results of vector operations (O39). -/

namespace Sys2Proof.Machine

open Sys2Proof

/-! ### Element-by-element operations (R100, R124, R127, R167) -/

section
variable (seed : Nat) (m : Mem) {v : VecSlot} (d : VecDesc) (k : Nat)

theorem vecElem_copy (h : v.vop = 0x13) : vecElem seed m v d k = (elem m d.s0 (widthOf v.fi) k, false) := by
  simp only [vecElem, h]

theorem vecElem_dmax (h : v.vop = 0x0C) :
    vecElem seed m v d k = (Nat.max (m.read (d.s0 + k)).toNat (m.read (d.s1 + k)).toNat, false) := by
  simp only [vecElem, h]

theorem vecElem_rawrand (h : v.vop = 0x12) : vecElem seed m v d k = (randomWord seed d.tensor 3 d.draw (d.base + k), false) := by
  simp only [vecElem, h]

/-- DROPOUT drops an element whose random word lies below the threshold. -/
theorem vecElem_dropped (h : v.vop = 0x10) (hlow : randomWord seed d.tensor 2 d.draw (d.base + k) < d.p0) :
    vecElem seed m v d k = (0, false) := by
  simp only [vecElem, h, hlow, if_true]

end

/-! ### Minimum and maximum (R121) -/

section
variable {x y : FV} (hx : x.isNan = false) (hy : y.isNan = false)
include hx hy

theorem FV.min_choice : x.min y = x ∨ x.min y = y := by
  simp only [FV.min, hx, hy, Bool.or_self, Bool.false_eq_true, if_false]
  split_ifs <;> simp

theorem FV.max_choice : x.max y = x ∨ x.max y = y := by
  simp only [FV.max, hx, hy, Bool.or_self, Bool.false_eq_true, if_false]
  split_ifs <;> simp

end

/-! ### Fixed functions outside their domain (R125) -/

section
variable {n : Nat} (e : Int) (h : 0 < n)
include h

theorem fvLog_negative : fvLog (.fin true n e) = .nan := by simp [fvLog, h.ne']

theorem fvRsqrt_negative : fvRsqrt (.fin true n e) = .nan := by simp [fvRsqrt, h.ne']

end

/-! ### The statement -/

/-- Settles O39; what the three arithmetic operations round is how the model has them. -/
theorem vectorResults : Obligations.VectorResults := by
  unfold Obligations.VectorResults
  intro seed m v d k
  refine ⟨vecElem_copy seed m d k, vecElem_dmax seed m d k, vecElem_rawrand seed m d k, vecElem_dropped seed m d k, fun sat x y z => ⟨rfl, rfl, rfl⟩,
    fun x y hx hy => ⟨FV.min_choice hx hy, FV.max_choice hx hy⟩, ⟨rfl, rfl, rfl⟩, fun n e hn => ?negative⟩
  case negative =>
    rw [fvLog_negative e hn, fvRsqrt_negative e hn]
    exact ⟨rfl, rfl⟩

end Sys2Proof.Machine

/-! SUPPORT. Proof of the statement about array instructions (O36). -/

namespace Sys2Proof.Machine

open Sys2Proof

/-! ### The array instruction in its bundle (R143, R146, R158) -/

/-- The rows of the array operations, by OP. -/
def arrayRows : List (Nat × (Fin 256 → HwErr → Instr)) :=
  [(0, .mac), (1, .minplus), (2, .maxplus), (3, .maxtimes), (4, .l1), (5, .l2sq), (6, .cntGt), (7, .cntGe), (8, .cntEq), (9, .hamming), (10, .split32)]

theorem exec_arrayRow {op : Nat} {row : Fin 256 → HwErr → Instr} (h : (op, row) ∈ arrayRows) (b : Fin 256) (e : HwErr) (s : State) :
    exec (row b e) s = arrStep op b e s := by
  have hall : arrayRows.Forall fun x => exec (x.2 b e) s = arrStep x.1 b e s := by
    simp only [arrayRows, List.Forall]
    and_intros <;> rfl
  exact List.forall_iff_forall_mem.1 hall _ h

/-- A bundle in turn with an array operation in its ARR slot issues for the operation's row. -/
theorem exec_arrayRow_issues {op : Nat} {row : Fin 256 → HwErr → Instr} (hrow : (op, row) ∈ arrayRows) {b : Fin 256} {p : Nat} {bv : BitVec 256}
    {s : State} (ht : InTurn s b p bv) (hv : slotValid bv.toNat 1 = true) (hop : bits (slotWord bv.toNat 1) 62 59 = op) :
    exec (row b .none) s = .next (issueBundle b p bv.toNat s) := by
  rw [exec_arrayRow hrow, arrStep, ht.step]
  simp [hv, hop]

/-! ### Records of a part's fault (R155, R451) -/

/-- Only corrected errors are withheld: every other record takes a sequence number. -/
theorem record_seq {r : Record} (h : r.cls ≠ 1) (s : State) : (record r s).flt.seq = s.flt.seq + 1 := by
  simp [record, putRecord, h, State.modFlt]

/-- A fault that names no failed column is a deferred record and nothing else. -/
theorem partFaults_record (p : Nat) (a : ArrSlot) (x : ArrPart) (code col : Nat) (s : State) :
    ∃ r : Record, r.cls = 2 ∧ partFaults p a x (code, col, []) s = record r s :=
  ⟨{ blockRecord s p 2 0 code (a.desc + x.part) 0 with part := x.part, sub := col }, rfl, rfl⟩

theorem partFaults_seq (p : Nat) (a : ArrSlot) (x : ArrPart) (code col : Nat) (s : State) :
    (partFaults p a x (code, col, []) s).flt.seq = s.flt.seq + 1 := by
  obtain ⟨r, hcls, heq⟩ := partFaults_record p a x code col s
  rw [heq, record_seq (by simp [hcls])]

theorem blkOf_partFaults (p : Nat) (a : ArrSlot) (x : ArrPart) (code col : Nat) (s : State) (k : Nat) :
    blkOf (partFaults p a x (code, col, []) s) k = blkOf s k := by
  obtain ⟨r, -, heq⟩ := partFaults_record p a x code col s
  rw [heq, blkOf, record_blks, blkOf]

/-! ### Parts of the array (R147) -/

@[simp] theorem setPart_flt (p i : Nat) (x : ArrPart) (s : State) : (setPart p i x s).flt = s.flt := rfl

theorem blkOf_setPart (p i : Nat) (x : ArrPart) (s : State) : ∃ ops, blkOf (setPart p i x s) p = { blkOf s p with arr := ops } :=
  ⟨_, blkOf_modBlk_same ..⟩

/-- The part that `findPart` names has the moment before it. -/
theorem findPart_awaits {u : PartMoment} {q i : Nat} {ops : List ArrOp} {o : ArrOp} {x : ArrPart} (h : findPart u q ops = some (i, o, x)) :
    awaits u x = true := by
  obtain ⟨⟨o', i'⟩, -, hfind⟩ := List.exists_of_findSome?_eq_some h
  obtain ⟨y, hy, heq⟩ := Option.map_eq_some_iff.1 hfind
  cases heq
  exact (Bool.and_eq_true_iff.1 (List.find?_some (p := fun y : ArrPart => y.part == q && awaits u y) hy)).2

/-- A part with a granule to take has not faulted. -/
theorem fault_of_not_partFed {x : ArrPart} (h : partFed x = false) : x.fault = none :=
  Option.not_isSome_iff_eq_none.1 fun hsome => by simp [partFed, hsome] at h

/-! ### The feed (R145, R147, R148) -/

/-- The part with the bytes of its granules up to `g` delivered. -/
def fedTo (k : Block) (a : ArrSlot) (x : ArrPart) (g : Nat) : ArrPart :=
  { x with fed := g, got := copyRanges (feedRanges a (tileOf x.desc) x.fed g) k.sp x.got }

section
variable {p i g : Nat} {a : ArrSlot} {x : ArrPart} {s : State}

section
variable (hcol : x.fed ≠ 0 ∨ badColumn s p a.shape x.part = none)
include hcol

/-- A part's first granule finds no failed column, and a later one asks for none. -/
theorem feed_column_none : (if x.fed = 0 then badColumn s p a.shape x.part else none) = none := by
  split
  · next hfed => exact hcol.resolve_left (not_not.2 hfed)
  · rfl

theorem feedPart_sound (hx : x.fault = none) (hreads : feedFault (blkOf s p) a (tileOf x.desc) x.fed g = none)
    (hnan : (a.trap && tileNan (g * granule (rateClass a.fa)) (fedTo (blkOf s p) a x g).got a (tileOf x.desc)) = false) :
    feedPart p a x g .none s = (fedTo (blkOf s p) a x g, none) := by
  simp only [fedTo] at hnan
  simp [feedPart, feed_column_none hcol, hreads, hnan, checkFault, fedTo, hx]

/-- Without TRAP the first read that is not allowed stops the feed, behind the granules before it. -/
theorem feedPart_faults {h c : Nat} (hreads : feedFault (blkOf s p) a (tileOf x.desc) x.fed g = some (h, c)) (htrap : a.trap = false) :
    feedPart p a x g .none s = ({ fedTo (blkOf s p) a x h with fault := some (c, 0xFFFF) }, some (c, 0xFFFF, [])) := by
  simp [feedPart, feed_column_none hcol, hreads, htrap, fedTo]

end

/-- A part that has taken its last beat is fed no more. -/
theorem feedStep_fed (e : HwErr) (h : partFed x = true) : feedStep p i g a x e s = (x, s) := by
  simp [feedStep, h]

section
variable (hx : partFed x = false) (hmay : mayFeed (blkOf s p).arr i = true) {y : ArrPart}
include hx hmay

theorem feedStep_sound (hfeed : feedPart p a x (min g (tileOf x.desc).kgran) .none s = (y, none)) :
    feedStep p i g a x .none s = (y, setPart p i y s) := by
  simp [feedStep, hx, hmay, hfeed]

theorem feedStep_faults {f : Nat × Nat × List Nat} (hfeed : feedPart p a x (min g (tileOf x.desc).kgran) .none s = (y, some f)) :
    feedStep p i g a x .none s = (y, partFaults p a y f (setPart p i y s)) := by
  simp [feedStep, hx, hmay, hfeed]

end

/-! ### The drain (R135, R148, R155) -/

/-- Segments that the drain of a part finds writable. -/
def drainSegs (k : Block) (x : ArrPart) : List Nat := x.may.filter fun g => (writeFault k g).isNone

/-- The drain of a part with `code` as its outputs' bits: it holds its segments in FILLING from now on. -/
def drainInto (p i : Nat) (a : ArrSlot) (x : ArrPart) (code : Nat → Nat → Nat) (s : State) : State :=
  setPart p i { x with held := some (drainSegs (blkOf s p) x) }
    (s.modBlk p fun k => modSegs (drainSegs (blkOf s p) x) SegSt.hold (drainTile a (tileOf x.desc) (drainSegs (blkOf s p) x) code k))

/-- A drain that has begun begins no more. -/
theorem drainStep_held (e : HwErr) (h : x.held.isSome = true) : drainStep p i a x e s = (x, s) := by
  simp [drainStep, h]

section
variable (hfed : partFed x = true) (hheld : x.held = none)
include hfed hheld

theorem drainStep_sound (hx : x.fault = none) (hwrites : drainFault (blkOf s p) a (tileOf x.desc) x.may = none) :
    (drainStep p i a x .none s).2 = drainInto p i a x (tileCode s.job.seed x.got a (tileOf x.desc)) s := by
  simp [drainStep, drainPart, hfed, hheld, hx, checkFault, hwrites, drainInto, drainSegs]

theorem drainStep_poison (e : HwErr) (hx : x.fault ≠ none) :
    (drainStep p i a x e s).2 = drainInto p i a x (fun _ _ => poisonFill a) s := by
  have hsome : x.fault.isSome = true := Option.isSome_iff_ne_none.2 hx
  simp [drainStep, drainPart, hfed, hheld, hsome, drainInto, drainSegs]

end
end

/-! ### PART_POST -/

section
variable {s : State} {b : Fin 256} {p n i : Nat} {q : Fin 4} {o : ArrOp} {x : ArrPart}

theorem exec_partPost (b : Fin 256) (q : Fin 4) (u : PartMoment) (e : HwErr) (s : State) : exec (.partPost b q u e) s = execPartPost b q u e s := rfl

theorem PartInTurn.feeds (h : PartInTurn s b p (.fed n) q i o x) :
    exec (.partPost b q (.fed n) .none) s = .next (feedStep p i (x.fed + n) (arrSlot o.word) x .none s).2 := by
  simp [exec_partPost, execPartPost, h.phys, h.part, h.runs]

/-- A part whose feed is what comes next has a granule to take. -/
theorem PartInTurn.not_fed (h : PartInTurn s b p (.fed n) q i o x) : partFed x = false := by
  simpa [awaits] using findPart_awaits h.part

theorem PartInTurn.drains (h : PartInTurn s b p .drains q i o x) (hfed : partFed x = true) :
    exec (.partPost b q .drains .none) s = .next (drainStep p i (arrSlot o.word) x .none s).2 := by
  simp [exec_partPost, execPartPost, h.phys, h.part, h.runs, feedStep_fed .none hfed]

/-- A part whose drain is what comes next holds no segments. -/
theorem PartInTurn.not_held (h : PartInTurn s b p .drains q i o x) : x.held = none := by
  simpa [awaits] using findPart_awaits h.part

theorem PartInTurn.posts (h : PartInTurn s b p .posts q i o x) (hfed : partFed x = true) {segs : List Nat} (hheld : x.held = some segs) :
    exec (.partPost b q .posts .none) s = .next (postCtr p (arrSlot o.word).post 1 (s.modBlk p fun k =>
      { modSegs segs SegSt.drop k with arr := dropPart i q k.arr })) := by
  have hbegun : x.held.isSome = true := hheld ▸ rfl
  simp [exec_partPost, execPartPost, h.phys, h.part, h.runs, feedStep_fed .none hfed, drainStep_held .none hbegun, hheld]

end

/-! ### The statement -/

/-- Settles O36: each row's bundle issues as `issueBundle` has it, and PART_POST goes on with the part as `feedStep` and `drainStep` have it. -/
theorem arrayInstructions : Obligations.ArrayInstructions := by
  unfold Obligations.ArrayInstructions
  refine ⟨fun op row b p bv s u l hrow h hv hop => ?issued, fun op row b p c d x bv s u hrow ht hv hop hctl hreads => ?unread,
    fun b q n i p o x s h hmay hcol => ⟨fun hreads hnan => ?feeds, fun g c hreads htrap => ?faults⟩,
    fun b q i p o x s h hfed => ⟨fun hx hwrites => ?drains, fun hx => ?poisons⟩,
    fun b q i p o x segs s h hfed hheld => h.posts hfed hheld⟩
  case issued =>
    rw [exec_arrayRow_issues hrow h.turn hv hop, h.issue, arrPart, if_pos hv]
    rfl
  case unread => rw [exec_arrayRow_issues hrow ht hv hop, issueBundle_unread hctl hreads]
  case feeds =>
    rw [h.feeds, feedStep_sound h.not_fed hmay (feedPart_sound hcol (fault_of_not_partFed h.not_fed) hreads hnan)]
    rfl
  case faults =>
    rw [h.feeds, feedStep_faults h.not_fed hmay (feedPart_faults hcol hreads htrap)]
    refine ⟨_, rfl, partFaults_seq .., ?_, ?_, _, congrArg Block.arr (blkOf_partFaults ..), rfl, rfl, rfl⟩ <;>
      · rw [blkOf_partFaults]
        obtain ⟨ops, hk⟩ := blkOf_setPart p i _ s
        rw [hk]
  case drains => rw [h.drains hfed, drainStep_sound hfed h.not_held hx hwrites, drainInto, drainSegs]
  case poisons => rw [h.drains hfed, drainStep_poison hfed h.not_held .none hx, drainInto, drainSegs]

end Sys2Proof.Machine

/-! SUPPORT. Proof of the statement about control slots (O32). -/

namespace Sys2Proof.Machine

open Sys2Proof

/-! ### The control slot in its bundle (R158 to R160) -/

/-- A bundle whose CTL effect leads to `u` answers what `Issues` says. -/
theorem issueBundle_issues {b p w : Nat} {s u : State} (hctl : ctlSlot b p w s = .issued u) : Issues s b p w u (.next (issueBundle b p w s)) := by
  refine ⟨fun l hl => ?_, fun c d x hx => ?_⟩
  · simp [issueBundle, hctl, hl]
  · rw [issueBundle_unread hctl hx]

theorem issueBundle_stopped {b p w : Nat} {s t : State} (hctl : ctlSlot b p w s = .stopped t) : issueBundle b p w s = t := by
  simp [issueBundle, hctl]

section
variable {s : State} {b : Fin 256} {p op : Nat} {bv : BitVec 256} (h : InTurn s b p bv)
include h

/-- A bundle in turn with operation `op` in its CTL slot issues for the operation's row. -/
theorem InTurn.ctlStep (hv : slotValid bv.toNat 0 = true) (hop : ctlOp (slotWord bv.toNat 0) = op) :
    ctlStep op b .none s = .next (issueBundle b p bv.toNat s) := by
  rw [Machine.ctlStep, h.step]
  simp [hv, hop]

theorem InTurn.issued (hv : slotValid bv.toNat 0 = true) (hop : ctlOp (slotWord bv.toNat 0) = op) {u : State}
    (heff : ctlEffect b p (slotWord bv.toNat 0) s = .issued u) : Issues s b p bv.toNat u (Machine.ctlStep op b .none s) := by
  rw [h.ctlStep hv hop]
  exact issueBundle_issues (by rw [ctlSlot, if_pos hv, heff])

theorem InTurn.stopped (hv : slotValid bv.toNat 0 = true) (hop : ctlOp (slotWord bv.toNat 0) = op) {t : State}
    (heff : ctlEffect b p (slotWord bv.toNat 0) s = .stopped t) : Machine.ctlStep op b .none s = .next t := by
  rw [h.ctlStep hv hop, issueBundle_stopped (by rw [ctlSlot, if_pos hv, heff])]

end

/-! ### The effect of each control operation (R160 to R166, R173, R183, R192) -/

section
variable {b p w : Nat} {s : State}

theorem ctlEffect_reserved (hres : ctlReserved w ≠ 0) : ctlEffect b p w s = .stopped (haltBlock p 0x209 0 0 s) := by
  simp [ctlEffect, hres]

variable (hres : ctlReserved w = 0)
include hres

theorem ctlEffect_nop (hop : ctlOp w = 0) : ctlEffect b p w s = .issued s := by simp [ctlEffect, hres, hop]

theorem ctlEffect_wait (hop : ctlOp w = 1) : ctlEffect b p w s = .issued s := by simp [ctlEffect, hres, hop]

theorem ctlEffect_post (hop : ctlOp w = 2) : ctlEffect b p w s = .issued (postCtr p (bits w 56 51) (bits w 31 0) s) := by
  simp [ctlEffect, hres, hop, doPost]

theorem ctlEffect_set (hop : ctlOp w = 3) :
    ctlEffect b p w s = .issued (s.modBlk p fun k => { k with ctr := k.ctr.set 0 (bits w 56 51) (bits w 31 0) }) := by
  simp [ctlEffect, hres, hop, doSet]

/-- LOOP opens a loop within R163's bounds, inside the innermost one and short of the task's end. -/
theorem ctlEffect_loop (hop : ctlOp w = 4) {st n : Nat} {ts : List (Nat × Nat)} (htasks : (blkOf s p).tasks = (st, n) :: ts)
    (htrips : 1 ≤ bits w 56 33) (hbody : 1 ≤ bits w 32 22) (hmax : bits w 32 22 ≤ 1024) (hdepth : (blkOf s p).loops.length < 4)
    (hin : ∀ l ∈ (blkOf s p).loops.head?, (blkOf s p).pos + bits w 32 22 ≤ l.last) (hend : (blkOf s p).pos + bits w 32 22 < st + n) :
    ctlEffect b p w s = .issued (s.modBlk p fun k =>
      { k with loops := { first := k.pos + 1, last := k.pos + bits w 32 22, left := bits w 56 33 } :: k.loops }) := by
  simp only [ctlEffect, hres, hop, doLoop, htasks]
  cases hl : (blkOf s p).loops with
  | nil =>
    rw [if_neg (by simp), if_neg (by simp only [List.length_nil]; omega)]
    rfl
  | cons l ls =>
    have hlast : (blkOf s p).pos + bits w 32 22 ≤ l.last := hin l (by simp [hl])
    rw [hl] at hdepth
    dsimp only
    rw [if_neg (by simp), if_neg (by omega)]
    rfl

theorem ctlEffect_release (hop : ctlOp w = 7) (hn : 1 ≤ bits w 45 35) (hle : bits w 56 46 + bits w 45 35 ≤ 1536)
    (hst : ∀ i, i < bits w 45 35 → (segOf (blkOf s p) (bits w 56 46 + i)).st = .owned ∨ (segOf (blkOf s p) (bits w 56 46 + i)).st = .ready) :
    ctlEffect b p w s = .issued (s.modBlk p (modSegs ((List.range (bits w 45 35)).map (bits w 56 46 + ·)) fun g => { g with st := .owned })) := by
  have hsegs : ∀ i ∈ (List.range (bits w 45 35)).map (bits w 56 46 + ·), (segOf (blkOf s p) i).st = .owned ∨ (segOf (blkOf s p) i).st = .ready := by
    simpa using hst
  simp only [ctlEffect, hres, hop, doRelease, releaseSegs_ok hsegs]
  rw [if_neg (by simp), if_neg (by omega)]
  rfl

/-- DLOAD into instruction memory stores the bundles that follow as data. -/
theorem ctlEffect_dload (hop : ctlOp w = 8) {st n : Nat} {ts : List (Nat × Nat)} (htasks : (blkOf s p).tasks = (st, n) :: ts)
    (htbl : bits w 56 55 = 3) (hn : 1 ≤ bits w 46 40) (hmax : bits w 46 40 ≤ 64) (hle : bits w 54 47 + bits w 46 40 ≤ 256)
    (hend : (blkOf s p).pos + 2 * bits w 46 40 < st + n) :
    ctlEffect b p w s = .issued (s.modBlk p fun k => { k with
      skip := 2 * bits w 46 40,
      imem := k.imem.writeN (64 * bits w 54 47)
        ((((streamOf s b).drop ((blkOf s p).pos + 1)).take (2 * bits w 46 40)).flatMap fun v => leBytes 32 v.toNat) }) := by
  simp only [ctlEffect, hres, hop, doDload, htasks, htbl]
  rw [if_neg (by simp), if_neg (by omega), if_pos trivial]

theorem ctlEffect_setbase (hop : ctlOp w = 9) (htbl : bits w 56 55 < 3) (hseg : bits w 54 44 ≤ 1532) :
    ctlEffect b p w s = .issued (s.modBlk p fun k => { k with base := k.base.set 0 (bits w 56 55) (bits w 54 44 + 1) }) := by
  simp only [ctlEffect, hres, hop, doSetbase]
  rw [if_neg (by simp), if_neg (by omega)]

theorem ctlEffect_scalar (hop : ctlOp w = 10) (hentry : bits w 56 43 % 2 = 0) (hle : bits w 36 26 + bits w 25 15 ≤ 1536)
    (hst : firstFault (writeFault (blkOf s p)) ((List.range (bits w 25 15)).map (bits w 36 26 + ·)) = none) :
    ctlEffect b p w s = .issued (s.modBlk p fun k =>
      { modSegs ((List.range (bits w 25 15)).map (bits w 36 26 + ·)) SegSt.hold k with
        sc := { k.sc with running := true, pc := bits w 56 43, post := bits w 42 37, seg := bits w 36 26, count := bits w 25 15 } }) := by
  simp only [ctlEffect, hres, hop, doScalar, hst]
  rw [if_neg (by simp), if_neg (by omega)]

/-- STATION in the last bundle of the last task, with the leg's index. -/
theorem ctlEffect_station (hop : ctlOp w = 11) {st n : Nat} {r : Run} (htasks : (blkOf s p).tasks = [(st, n)])
    (hlast : (blkOf s p).pos + 1 = st + n) (hrun : s.job.run = some r) (hleg : bits w 31 0 = r.j) :
    ctlEffect b p w s = .issued { s with job := { s.job with run := some { r with arrived := insertNat b r.arrived } } } := by
  simp only [ctlEffect, hres, hop, doStation, htasks, hrun]
  simp [hlast, hleg, State.modJob]

end

/-! ### Faults of segments (R183, R184) -/

theorem writeFault_none {k : Block} {i : Nat} : writeFault k i = none ↔ (segOf k i).st ≠ .free ∧ (segOf k i).st ≠ .lent := by
  unfold writeFault
  cases (segOf k i).st <;> decide

theorem readFault_none {k : Block} {i : Nat} : readFault k i = none ↔ (segOf k i).st = .owned ∨ (segOf k i).st = .ready := by
  unfold readFault
  cases (segOf k i).st <;> decide

theorem firstFault_none {f : Nat → Option Nat} {is : List Nat} : firstFault f is = none ↔ ∀ i ∈ is, f i = none := by
  simp [firstFault, List.findSome?_eq_none_iff]

/-! ### The statement -/

/-- Settles O32: each row's bundle issues as `issueBundle` has it, behind the effect that `ctlEffect` gives the operation. -/
theorem controlSlots : Obligations.ControlSlots := by
  unfold Obligations.ControlSlots
  intro b p bv s h hv w k does hres
  have issues : ∀ {op : Nat} {u : State}, ctlOp w = op → ctlEffect b p w s = .issued u → does (ctlStep op b .none s) u :=
    fun hop heff => h.issued hv hop heff
  refine ⟨fun hop => issues hop (ctlEffect_nop hres hop), fun hop => issues hop (ctlEffect_wait hres hop),
    fun hop => issues hop (ctlEffect_post hres hop), fun hop => issues hop (ctlEffect_set hres hop),
    fun hop st n ts htasks htrips hbody hmax hdepth hin hend => issues hop (ctlEffect_loop hres hop htasks htrips hbody hmax hdepth hin hend),
    fun hop htbl hseg => issues hop (ctlEffect_setbase hres hop htbl hseg),
    fun hop st n ts htasks htbl hn hmax hle hend => issues hop (ctlEffect_dload hres hop htasks htbl hn hmax hle hend),
    fun hop hn hle hst => issues hop (ctlEffect_release hres hop hn hle hst),
    fun hop hentry hle hst => issues hop (ctlEffect_scalar hres hop hentry hle ?scalar),
    fun hop st n r htasks hlast hrun hleg => issues hop (ctlEffect_station hres hop htasks hlast hrun hleg)⟩
  case scalar =>
    refine firstFault_none.2 fun i hi => writeFault_none.2 ?_
    obtain ⟨j, hj, rfl⟩ := List.mem_map.1 hi
    exact hst j (List.mem_range.1 hj)

end Sys2Proof.Machine

/-! SUPPORT. Proofs of the statements about segments (O35), and about the allocation sequence and LEND (O34). -/

namespace Sys2Proof.Machine

open Sys2Proof

/-! ### One segment, and several (R182 to R184) -/

@[simp] theorem segOf_modSeg (i j : Nat) (f : SegSt → SegSt) (k : Block) : segOf (modSeg i f k) j = if j = i then f (segOf k i) else segOf k j :=
  Table.get_mod ..

/-- Segments outside the list stay as they are. -/
theorem segOf_modSegs_of_notMem {is : List Nat} {i : Nat} (f : SegSt → SegSt) (k : Block) (h : i ∉ is) : segOf (modSegs is f k) i = segOf k i := by
  induction is generalizing k with
  | nil => rfl
  | cons j is ih =>
    obtain ⟨hj, his⟩ := not_or.1 (List.mem_cons.not.1 h)
    exact (ih (modSeg j f k) his).trans (by simp [hj])

/-- Each listed segment moves once where none is listed twice. -/
theorem segOf_modSegs {is : List Nat} (f : SegSt → SegSt) (k : Block) (i : Nat) (h : is.Nodup) :
    segOf (modSegs is f k) i = if i ∈ is then f (segOf k i) else segOf k i := by
  induction is generalizing k with
  | nil => rfl
  | cons j is ih =>
    obtain ⟨hj, his⟩ := List.nodup_cons.1 h
    have hcons : segOf (modSegs (j :: is) f k) i = segOf (modSegs is f (modSeg j f k)) i := rfl
    by_cases hi : i = j
    · subst hi
      rw [hcons, segOf_modSegs_of_notMem _ _ hj]
      simp
    · rw [hcons, ih _ his]
      simp [hi]

/-- Moving segments changes nothing else of the block. -/
theorem modSegs_frame (is : List Nat) (f : SegSt → SegSt) (k : Block) : modSegs is f k = { k with seg := (modSegs is f k).seg } := by
  induction is generalizing k with
  | nil => rfl
  | cons i is ih => exact ih (modSeg i f k)

/-- Settles O35: each move of a segment by the cases of its definition, and a list of moves by induction. -/
theorem segmentChanges : Obligations.SegmentChanges := by
  unfold Obligations.SegmentChanges
  refine ⟨fun g => ⟨rfl, rfl⟩, fun g hst hw hl => ?last, fun g hst hw => ?earlier, fun g hst => ?lent, fun g hst hw => ?free, fun g hst hw => ?written,
    fun k i => ⟨readFault_none, writeFault_none⟩, fun is f k h => ⟨fun i => segOf_modSegs f k i h, modSegs_frame is f k⟩⟩
  case last => simp [SegSt.drop, hst, hw, hl]
  case earlier =>
    have hkeeps : g.drop = { g with writers := g.writers - 1 } := if_neg fun ⟨hle, hland, _⟩ => by
      rcases hw with h2 | hl
      · omega
      · simp [hl] at hland
    simp [hkeeps, hst]
  case lent => simp [SegSt.land, SegSt.landed, SegSt.pegEnded, hst]
  case free => simp [SegSt.landed, SegSt.pegEnded, hst, hw]
  case written => simp [SegSt.landed, SegSt.pegEnded, hst, hw.ne']

/-! ### The allocation sequence (R185, R186) -/

/-- A fault halts its block and leaves its segments, its place and its scratchpad as they were (R190). -/
theorem haltBlock_halts (p code desc off : Nat) (s : State) :
    (blkOf (haltBlock p code desc off s) p).halted = true ∧ (blkOf (haltBlock p code desc off s) p).seg = (blkOf s p).seg
      ∧ (blkOf (haltBlock p code desc off s) p).pos = (blkOf s p).pos ∧ (blkOf (haltBlock p code desc off s) p).sp = (blkOf s p).sp := by
  obtain ⟨o, h⟩ := blkOf_haltBlock p code desc off s
  simp [h, haltedBy]

theorem firstFit_some {k : Block} {n a : Nat} (h : firstFit k n = some a) :
    a + n ≤ 1536 ∧ (∀ i, i < n → (segOf k (a + i)).st = .free) ∧ ∀ x, x < a → ∃ i, i < n ∧ (segOf k (x + i)).st ≠ .free := by
  obtain ⟨hfit, hmem, hbelow⟩ := List.find?_range_eq_some.1 h
  have ha : a < 1537 - n := List.mem_range.1 hmem
  exact ⟨by omega, by simpa using hfit, fun x hx => by simpa using hbelow x hx⟩

/-- Segments that an entry of the sequence names. -/
def allocSegs (v : W32) : List Nat := (List.range (bits v.toNat 29 19)).map (bits v.toNat 18 8 + ·)

section
variable {p : Nat} {v : W32} {s : State}

theorem doAllocEntry_alloc (hcode : bits v.toNat 31 30 = 1) (hfit : firstFit (blkOf s p) (bits v.toNat 29 19) = some (bits v.toNat 18 8)) :
    doAllocEntry p v s = .issued (s.modBlk p (modSegs (allocSegs v) fun g => { g with st := .owned })) := by
  simp [doAllocEntry, allocSegs, hcode, hfit]

theorem doAllocEntry_free (hcode : bits v.toNat 31 30 ≠ 1)
    (hst : ∀ i ∈ allocSegs v, (segOf (blkOf s p) i).st = .owned ∨ (segOf (blkOf s p) i).st = .ready) :
    doAllocEntry p v s = .issued (s.modBlk p (modSegs (allocSegs v) fun _ => {})) := by
  have hnone : (allocSegs v).find? (fun i => !((segOf (blkOf s p) i).st == .owned || (segOf (blkOf s p) i).st == .ready)) = none :=
    List.find?_eq_none.2 fun i hi => by simpa [or_iff_not_imp_left] using hst i hi
  unfold allocSegs at hnone ⊢
  simp only [doAllocEntry, if_neg hcode, hnone]

/-- An ALLOC entry elsewhere than at the lowest place halts the block. -/
theorem doAllocEntry_misplaced (hcode : bits v.toNat 31 30 = 1)
    (hfit : firstFit (blkOf s p) (bits v.toNat 29 19) ≠ some (bits v.toNat 18 8)) : ∃ code off, doAllocEntry p v s = .stopped (haltBlock p code 0 off s) := by
  cases hf : firstFit (blkOf s p) (bits v.toNat 29 19) with
  | none => exact ⟨0x20B, 0, by simp only [doAllocEntry, if_pos hcode, hf]⟩
  | some a =>
    have hne : a ≠ bits v.toNat 18 8 := fun ha => hfit (by rw [hf, ha])
    exact ⟨0x20C, 4096 * a, by simp only [doAllocEntry, if_pos hcode, hf, if_pos hne]⟩

/-- A FREE entry over a segment that is neither OWNED nor READY halts the block. -/
theorem doAllocEntry_misfreed (hcode : bits v.toNat 31 30 ≠ 1) (hst : ∃ i ∈ allocSegs v,
      (segOf (blkOf s p) i).st ≠ .owned ∧ (segOf (blkOf s p) i).st ≠ .ready) : ∃ code off, doAllocEntry p v s = .stopped (haltBlock p code 0 off s) := by
  obtain ⟨i, hi, hbad⟩ := hst
  have hsome : ((allocSegs v).find? (fun i => !((segOf (blkOf s p) i).st == .owned || (segOf (blkOf s p) i).st == .ready))).isSome = true :=
    List.find?_isSome.2 ⟨i, hi, by simpa using hbad⟩
  obtain ⟨j, hj⟩ := Option.isSome_iff_exists.1 hsome
  unfold allocSegs at hj
  exact ⟨0x208, 4096 * j, by simp only [doAllocEntry, if_neg hcode, hj]⟩

section
variable {b w : Nat} (hres : ctlReserved w = 0) (hop : ctlOp w = 5) (hcount : bits w 56 52 = 1) (hentry : (allocOf s b)[(blkOf s p).alloc]? = some v)
include hres hop hcount hentry

/-- ASEQ with COUNT 1 carries out the block's next entry. -/
theorem ctlEffect_aseq {t : State} (h : doAllocEntry p v s = .issued t) :
    ctlEffect b p w s = .issued (t.modBlk p fun k => { k with alloc := k.alloc + 1 }) := by
  simp [ctlEffect, hres, hop, doAseq, hcount, doEntries, hentry, h]

theorem ctlEffect_aseq_stopped {t : State} (h : doAllocEntry p v s = .stopped t) : ctlEffect b p w s = .stopped t := by
  simp [ctlEffect, hres, hop, doAseq, hcount, doEntries, hentry, h]

end
end

/-! ### LEND (R187, R188, R343) -/

/-- LEND of OWNED segments, with no claim parked for the peg. -/
theorem ctlEffect_lend {b p w : Nat} {s : State} {d : List Byte} (hres : ctlReserved w = 0) (hop : ctlOp w = 6)
    (hd : readDesc (blkOf s p) 2 (bits w 56 49) = .ok d) (hok : lendOk d = true) (hwin : lendWindow s b (field d 4 2) (field d 8 4) (field d 12 4) = true)
    (hout : (pegOf s (field d 2 2)).out = false) (hclaim : (pegOf s (field d 2 2)).claim = none)
    (howned : ∀ g ∈ segsOf (field d 8 4) (field d 12 4), (segOf (blkOf s p) g).st = .owned) :
    ctlEffect b p w s = .issued ((s.modBlk p (modSegs (segsOf (field d 8 4) (field d 12 4)) fun g => { g with st := .lent })).modPeg
      (field d 2 2) fun q => { q with
        out := true, window := field d 4 2, gen := (winOf s (field d 4 2)).gen, block := p, sp := field d 8 4, bytes := field d 12 4,
        ctr := field d 1 1, grant := none, landed := 0, total := none, pieces := [] }) := by
  have hnone : ((segsOf (field d 8 4) (field d 12 4)).find? fun g => (segOf (blkOf s p) g).st != .owned) = none :=
    List.find?_eq_none.2 fun g hg => by simp [howned g hg]
  have hpeg : ∀ f g, (pegOf ((s.modBlk p g).modPeg (field d 2 2) f) (field d 2 2)) = f (pegOf s (field d 2 2)) :=
    fun f g => Table.get_mod_same ..
  simp [ctlEffect, hres, hop, doLend, hd, hok, hwin, hout, hnone, hpeg, hclaim]

/-! ### The statement -/

/-- Settles O34: ASEQ carries out its entry by the entry's case, and LEND by the equation of its effect. -/
theorem allocationAndLoans : Obligations.AllocationAndLoans := by
  unfold Obligations.AllocationAndLoans
  refine ⟨fun b p bv v s h hv hop hres hcount hentry => ?aseq, fun k n a => firstFit_some,
    fun b p bv d s h hv hop hres hd hok hwin hout hclaim howned =>
      h.issued hv hop (ctlEffect_lend hres hop hd hok hwin hout hclaim howned)⟩
  case aseq =>
    intro n base segs
    have issues : ∀ {t : State}, doAllocEntry p v s = .issued t →
        Issues s b p bv.toNat (t.modBlk p fun k => { k with alloc := k.alloc + 1 }) (ctlStep 5 b .none s) :=
      fun hentry' => h.issued hv hop (ctlEffect_aseq hres hop hcount hentry hentry')
    have halts : (∃ code off, doAllocEntry p v s = .stopped (haltBlock p code 0 off s)) →
        LeadsTo (ctlStep 5 b .none s) fun t => (blkOf t p).halted = true ∧ (blkOf t p).seg = (blkOf s p).seg := by
      rintro ⟨code, off, hentry'⟩
      obtain ⟨hhalted, hseg, -⟩ := haltBlock_halts p code 0 off s
      exact ⟨_, h.stopped hv hop (ctlEffect_aseq_stopped hres hop hcount hentry hentry'), hhalted, hseg⟩
    exact ⟨fun hcode hfit => issues (doAllocEntry_alloc hcode hfit), fun hcode hst => issues (doAllocEntry_free hcode hst),
      fun hcode hfit => halts (doAllocEntry_misplaced hcode hfit), fun hcode hst => halts (doAllocEntry_misfreed hcode hst)⟩

end Sys2Proof.Machine

/-! SUPPORT. Proof of the statement about the advance of bundles (O33). -/

namespace Sys2Proof.Machine

open Sys2Proof

/-! ### Records under the sending of packets (R449, R480) -/

section
variable (s : State)

@[simp] theorem fabCount_flt (k : Nat) : (fabCount k s).flt = s.flt := rfl

@[simp] theorem escapeRing_flt (c : Carried) : (escapeRing c s).flt = s.flt := rfl

@[simp] theorem returnCredit_flt (c : Carried) : (returnCredit c s).flt = s.flt := by simp [returnCredit, apply_ite State.flt]

@[simp] theorem enqueue_flt (key : Nat) (c : Carried) : (enqueue key c s).flt = s.flt := by simp [enqueue, apply_ite State.flt]

@[simp] theorem fmMessage_flt (payload : List Byte) (dev : Nat) : (fmMessage payload dev s).flt = s.flt := by simp [fmMessage, apply_ite State.flt]

@[simp] theorem deliver_flt (c : Carried) : (deliver c s).flt = s.flt := by simp [deliver, apply_ite State.flt]

@[simp] theorem routePacket_flt (relay : Bool) (c : Carried) : (routePacket relay c s).flt = s.flt := by simp [routePacket, apply_ite State.flt]

@[simp] theorem spreadOver_flt (src dst : Nat) (ws : List Nat) : (spreadOver src dst ws s).flt = s.flt := by simp [spreadOver, apply_ite State.flt]

@[simp] theorem sendCol_flt (entry : Option (List Nat)) (c : Carried) : (sendCol entry c s).flt = s.flt := by
  unfold sendCol
  dsimp only
  split <;> simp

/-- Sending a packet writes no record. -/
@[simp] theorem originate_flt (r : Nat) (p : Packet) : (originate r p s).flt = s.flt := by simp [originate, apply_ite State.flt]

@[simp] theorem sendFm_flt (code : Nat) (body : List Byte) : (sendFm code body s).flt = s.flt := by simp [sendFm, apply_ite State.flt]

theorem recordFatal_seq {r : Record} (h : r.cls ≠ 1) : (recordFatal r s).flt.seq = s.flt.seq + 1 := by
  rw [recordFatal, sendHealth, sendFm_flt, record_seq h]

/-- A block fault other than a double-bit error writes one record. -/
theorem haltBlock_seq {code : Nat} (p desc off : Nat) (h : code ≠ 0x214) : (haltBlock p code desc off s).flt.seq = s.flt.seq + 1 := by
  simp [haltBlock, haltAt, h, recordFatal_seq, blockRecord]

end

/-! ### Past the bundle (R163, R191, R192) -/

section
variable {p b st n : Nat} {ts : List (Nat × Nat)} {s : State}

section
variable (hrun : (blkOf s p).halted = false) (htasks : (blkOf s p).tasks = (st, n) :: ts)
include hrun htasks

/-- Short of the task's end the block goes where its loops send it. -/
theorem passBundle_within {pos : Nat} {loops : List LoopSt} (hunwind : unwind (blkOf s p).loops ((blkOf s p).pos + 1 + (blkOf s p).skip) = (pos, loops))
    (hpos : pos < st + n) : passBundle p b s = s.modBlk p fun k => { k with pos := pos, loops := loops, skip := 0 } := by
  simp [passBundle, nextBundle, hrun, htasks, hunwind, hpos]

/-- Past the task's end the next one begins, where there is one or the block has executed STATION. -/
theorem passBundle_beyond (hloops : (blkOf s p).loops = []) (hpos : st + n ≤ (blkOf s p).pos + 1 + (blkOf s p).skip)
    (hmore : ts ≠ [] ∨ legArrived s b = true) : passBundle p b s = beginTask p b ts s := by
  rcases hmore with hmore | hmore <;> simp [passBundle, nextBundle, hrun, htasks, hloops, unwind, not_lt.2 hpos, hmore]

end

/-- Past the last task without STATION the block halts. -/
theorem passBundle_unarrived (hrun : (blkOf s p).halted = false) (htasks : (blkOf s p).tasks = [(st, n)]) (hloops : (blkOf s p).loops = [])
    (hpos : st + n ≤ (blkOf s p).pos + 1 + (blkOf s p).skip) (harr : legArrived s b = false) : passBundle p b s = haltBlock p 0x209 0 0 s := by
  simp [passBundle, nextBundle, hrun, htasks, hloops, unwind, not_lt.2 hpos, harr]

/-- A task within its stream begins at its START. -/
theorem beginTask_within (hn : 1 ≤ n) (hlen : st + n ≤ (streamOf s b).length) :
    beginTask p b ((st, n) :: ts) s = s.modBlk p fun k => { k with tasks := (st, n) :: ts, pos := st, skip := 0, loops := [] } := by
  have hstream : ∀ f, streamOf (s.modBlk p f) b = streamOf s b := fun f => rfl
  simp only [beginTask, hstream]
  rw [if_neg (by omega)]

/-- A loop with rounds left begins its body again, and in its last round it is left. -/
theorem unwind_again {l : LoopSt} (ls : List LoopSt) {nxt : Nat} (hend : l.last < nxt) (hleft : 1 < l.left) :
    unwind (l :: ls) nxt = (l.first, { l with left := l.left - 1 } :: ls) := by
  simp [unwind, not_le.2 hend, hleft]

theorem unwind_leave {l : LoopSt} (ls : List LoopSt) {nxt : Nat} (hend : l.last < nxt) (hleft : l.left ≤ 1) : unwind (l :: ls) nxt = unwind ls nxt := by
  simp [unwind, not_le.2 hend, not_lt.2 hleft]

end

/-! ### Bundles that do not issue (R157, R158, R177, R190) -/

section
variable {s : State} {b p : Nat} {bv : BitVec 256} {e : HwErr} {mine : Block → Nat → Bool}

theorem bundleStep_eq (he : errsOf e = []) : bundleStep b e mine s = .next (bundleRun b e mine s) := by simp [bundleStep, he, meeting]

/-- A block that cannot issue answers no row. -/
theorem bundleRun_idle (hp : physOf s b = some p) (hi : blockIssues s b p = false) : bundleRun b e mine s = s := by
  unfold bundleRun
  rw [hp]
  dsimp only
  split <;> simp [hi]

section
variable (hp : physOf s b = some p) (hbv : (streamOf s b)[(blkOf s p).pos]? = some bv)
include hp hbv

theorem bundleRun_waits (hgood : bundleBad bv.toNat = false) (hmay : bundleMayIssue (blkOf s p) bv.toNat = false) : bundleRun b e mine s = s := by
  simp [bundleRun, hp, hbv, hgood, hmay]

theorem bundleRun_bad (hi : blockIssues s b p = true) (hbad : bundleBad bv.toNat = true) : bundleRun b e mine s = haltBlock p 0x209 0 0 s := by
  simp [bundleRun, hp, hbv, hi, hbad]

end

/-- What a bundle in turn meets in the hardware stops it before any of its slots. -/
theorem InTurn.meets (h : InTurn s b p bv) (he : errsOf e = []) (hm : mine (afterCtl b p bv.toNat s) bv.toNat = true) {t : State}
    (hmeet : meetError p e s = .stopped t) : bundleStep b e mine s = .next t := by
  rw [bundleStep_eq he]
  simp [bundleRun, h.phys, h.bundle, h.issues, h.good, h.may, hm, hmeet]

end

/-! ### What the engine slots read (R146, R159, R167) -/

/-- The tile descriptors read are the table's, one for each part. -/
theorem readTiles_ok {k : Block} {a : ArrSlot} {ds : List (List Byte)} (h : readTiles k a = .ok ds) :
    ds.length = (shapeDims a.shape).2.2 ∧ ∀ (q : Nat) (d : List Byte), ds[q]? = some d → readDesc k 0 (a.desc + q) = .ok d := by
  unfold readTiles at h
  generalize shapeDims a.shape = dims at h ⊢
  obtain ⟨_, _, n⟩ := dims
  dsimp only at h ⊢
  induction n generalizing ds with
  | zero =>
    cases h
    exact ⟨rfl, fun q d hd => by simp at hd⟩
  | succ n ih =>
    rw [List.range_succ, List.foldl_append, List.foldl_cons, List.foldl_nil] at h
    split at h
    · cases h
    next es hes =>
      split at h
      · cases h
      next d' hd' =>
        cases h
        obtain ⟨hlen, hall⟩ := ih hes
        refine ⟨by simp [hlen], fun q d hd => ?_⟩
        rcases lt_or_ge q es.length with hq | hq
        · exact hall q d (by rwa [List.getElem?_append_left hq] at hd)
        · rw [List.getElem?_append_right hq, List.getElem?_singleton] at hd
          split at hd
          · next hz =>
            cases hd
            rw [show q = n by omega, hd']
          · cases hd

/-- An accepted ARR slot: its word, its tiles and each descriptor keep R146. -/
theorem readArr_ok {k : Block} {w : Nat} {ds : List (List Byte)} (h : readArr k w = .ok ds) :
    arrSlotOk w = true ∧ readTiles k (arrSlot w) = .ok ds ∧ ∀ d ∈ ds, tileClean d = true ∧ tileOk (arrSlot w) (tileOf d) = true := by
  unfold readArr at h
  dsimp only at h
  split at h
  · cases h
  next hok =>
    split at h
    · cases h
    next es hes =>
      split at h
      next hall =>
        cases h
        simp only [Bool.and_eq_true, List.all_eq_true, List.mem_map, forall_exists_index, and_imp, forall_apply_eq_imp_iff₂] at hall
        obtain ⟨⟨hclean, htile⟩, -⟩ := hall
        exact ⟨by simpa using hok, hes, fun d hd => ⟨hclean d hd, htile d hd⟩⟩
      · cases h

theorem readVec_ok {k : Block} {w : Nat} {d : List Byte} (h : readVec k w = .ok d) :
    readDesc k 1 (vecSlot w).desc = .ok d ∧ vecOk w d = true := by
  unfold readVec at h
  dsimp only at h
  split at h
  · cases h
  split at h
  · cases h
  next raw hraw =>
    split at h
    next hok =>
      cases h
      exact ⟨hraw, hok⟩
    · cases h

/-- Every slot of a bundle whose reads are in order has read what its engine accepts. -/
theorem readSlots_ok {k : Block} {w : Nat} {l : SlotReads} (h : readSlots k w = .ok l) :
    (slotValid w 1 = true → readArr k (slotWord w 1) = .ok l.tiles) ∧ (slotValid w 2 = true → readVec k (slotWord w 2) = .ok l.vec) := by
  unfold readSlots at h
  split at h
  · cases h
  next ts hts =>
    split at h
    · cases h
    next v hv =>
      split at h
      · cases h
      · cases h
        exact ⟨fun h1 => by rwa [if_pos h1] at hts, fun h2 => by rwa [if_pos h2] at hv⟩

/-! ### The rows of NOP, WAIT and POST -/

theorem exec_wait (b : Fin 256) (e : HwErr) (s : State) : exec (.wait b e) s = ctlStep 1 b e s := rfl

theorem exec_post (b : Fin 256) (e : HwErr) (s : State) : exec (.post b e) s = ctlStep 2 b e s := rfl

/-- A bundle without any slot is NOP's, and passes. -/
theorem InTurn.empty {b : Fin 256} {p : Nat} {s : State} (h : InTurn s b p 0) : Machine.ctlStep 0 b .none s = .next (passBundle p b s) := by
  have hnone : ∀ k, slotValid 0 k = false := fun k => by
    have hzero : slotWord 0 k = 0 := by unfold slotWord; split <;> rfl
    rw [slotValid, hzero]
    rfl
  rw [Machine.ctlStep, h.step (by simp)]
  simp [issueBundle, ctlSlot, readSlots, dmaPart, vecPart, arrPart, hnone]

/-! ### The statement -/

/-- Settles O33: where a block goes by the cases of `nextBundle`, what stops a bundle by those of `bundleRun`, and what the slots read by those of
`readSlots`. -/
theorem bundlesAdvance : Obligations.BundlesAdvance := by
  unfold Obligations.BundlesAdvance
  refine ⟨fun p b s h => passBundle_halted h, fun p b st n ts s hrun htasks hloops hpos => ?next, fun p b st n ts l ls s hrun htasks hloops hend hleft hpos => ?again,
    fun p b st n ts l s hrun htasks hloops hend hleft hpos => ?leave, fun p b st n st' n' ts s hrun htasks hloops hend hn hlen => ?task,
    fun p b st n s hrun htasks hloops hend => ⟨fun harr => ?rest, fun harr => ?unarrived⟩, fun b p s h => h.empty,
    fun b p bv s hp hbv hgood hmay => ?waits, fun b p bv s hp hbv hi hbad => ?bad, fun b p bv s h hv hop hres => ?reserved,
    fun b p s hp hh => ?halted, fun b p off bv s h hv hop => ?hardware, fun k w l h => ?reads⟩
  case next => exact passBundle_within hrun htasks (congrArg (unwind · _) hloops) hpos
  case again => exact passBundle_within hrun htasks ((congrArg (unwind · _) hloops).trans (unwind_again ls hend hleft)) hpos
  case leave => exact passBundle_within hrun htasks ((congrArg (unwind · _) hloops).trans (unwind_leave [] hend hleft)) hpos
  case task => rw [passBundle_beyond hrun htasks hloops hend (.inl (List.cons_ne_nil _ _)), beginTask_within hn hlen]
  case rest => exact passBundle_beyond hrun htasks hloops hend (.inr harr)
  case unarrived =>
    rw [passBundle_unarrived hrun htasks hloops hend harr]
    obtain ⟨hhalted, -, hpos, -⟩ := haltBlock_halts p 0x209 0 0 s
    exact ⟨hhalted, hpos⟩
  case waits => rw [exec_wait, ctlStep, bundleStep_eq rfl, bundleRun_waits hp hbv hgood hmay]
  case bad =>
    rw [exec_wait, ctlStep, bundleStep_eq rfl, bundleRun_bad hp hbv hi hbad]
    refine ⟨_, rfl, ?_, haltBlock_seq s p 0 0 (by decide)⟩
    obtain ⟨hhalted, -⟩ := haltBlock_halts p 0x209 0 0 s
    exact hhalted
  case reserved =>
    obtain ⟨hhalted, -⟩ := haltBlock_halts p 0x209 0 0 s
    exact ⟨_, h.stopped hv hop (ctlEffect_reserved hres), hhalted⟩
  case halted => rw [exec_post, ctlStep, bundleStep_eq rfl, bundleRun_idle hp (by simp [blockIssues, hh])]
  case hardware =>
    have meets : ∀ {e : HwErr} {t : State}, errsOf e = [] → meetError p e s = .stopped t → ctlStep 1 b e s = .next t :=
      fun he hmeet => h.meets he (by simp [hv, hop]) hmeet
    rw [exec_wait, exec_wait]
    refine ⟨⟨_, meets rfl rfl, ?_⟩, ⟨_, meets rfl rfl, ?_⟩⟩
    · obtain ⟨hhalted, -, -, hsp⟩ := haltBlock_halts p 0x214 0 (off % 0x600000) (s.modBlk p id)
      exact ⟨hhalted, hsp.trans (by simp)⟩
    · obtain ⟨hhalted, -, -, hsp⟩ := haltBlock_halts p 0x215 0 0 s
      exact ⟨hhalted, hsp⟩
  case reads =>
    obtain ⟨harr, hvec⟩ := readSlots_ok h
    refine ⟨fun h1 => ?_, fun h2 => readVec_ok (hvec h2), fun h3 => readDesc_of_readSlots h h3⟩
    obtain ⟨hok, hread, hall⟩ := readArr_ok (harr h1)
    obtain ⟨hlen, hdesc⟩ := readTiles_ok hread
    exact ⟨hok, hlen, fun q d hd => ⟨hdesc q d hd, hall d (List.mem_of_getElem? hd)⟩⟩

end Sys2Proof.Machine

/-! SUPPORT. Proof of the statement about the local DMA (O41). -/

namespace Sys2Proof.Machine

open Sys2Proof

/-! ### The local descriptor in its bundle (R158, R169 to R171) -/

/-- The rows of the local descriptors, by KIND (R169). -/
def localRows : List (Nat × (Fin 256 → HwErr → Instr)) := [(1, .hbmToSp), (2, .spToHbm), (3, .spToSp)]

theorem localRows_spec {kind : Nat} {row : Fin 256 → HwErr → Instr} (h : (kind, row) ∈ localRows) :
    remoteKind kind = false ∧ ∀ b e s, exec (row b e) s = descStep kind b e s := by
  simp only [localRows, List.mem_cons, Prod.mk.injEq, List.not_mem_nil, or_false] at h
  rcases h with ⟨rfl, rfl⟩ | ⟨rfl, rfl⟩ | ⟨rfl, rfl⟩ <;> exact ⟨by decide, fun _ _ _ => rfl⟩

section
variable {kind : Nat} {row : Fin 256 → HwErr → Instr} {b : Fin 256} {p : Nat} {bv : BitVec 256} {s : State}

/-- A bundle with a local descriptor in its DMA slot issues for the descriptor's row. -/
theorem exec_localRow (hrow : (kind, row) ∈ localRows) {raw : List Byte} (ht : InTurn s b p bv) (hv : slotValid bv.toNat 3 = true)
    (hd : readDesc (afterCtl b p bv.toNat s) 2 (bits (slotWord bv.toNat 3) 62 55) = .ok raw) (hk : field raw 0 1 = kind) :
    exec (row b .none) s = .next (issueBundle b p bv.toNat s) := by
  obtain ⟨-, hstep⟩ := localRows_spec hrow
  rw [hstep, descStep, ht.step]
  simp [hv, dmaKind_of_readDesc hd, hk]

theorem Issued.localDma {u : State} {l : SlotReads} (hrow : (kind, row) ∈ localRows) (h : Issued s b p bv u l) (hv : slotValid bv.toNat 3 = true)
    (hk : field l.dma 0 1 = kind) :
    exec (row b .none) s = .next (passBundle p b (dmaPart b p bv.toNat l (vecPart p bv.toNat l (arrPart p bv.toNat l u)))) := by
  rw [← h.issue]
  exact exec_localRow hrow h.turn hv (h.afterCtl ▸ readDesc_of_readSlots h.reads hv) hk

end

/-- What a change makes of a block depends on the block as it stands. -/
theorem modBlk_congr {p : Nat} {f g : Block → Block} {s : State} (h : f (blkOf s p) = g (blkOf s p)) : s.modBlk p f = s.modBlk p g :=
  congrArg (fun k => s.modBlks fun b => { b with blk := b.blk.set {} p k }) h

/-- The descriptor joins the queue under a number of its own and holds its destination. -/
def dmaTaken (p desc post : Nat) (raw : List Byte) (s : State) : State :=
  let d := dmaDesc raw
  ({ s with blks := { s.blks with nextId := s.blks.nextId + 1 } } : State).modBlk p fun k =>
    { modSegs (dmaDst d) SegSt.hold k with
      dma := k.dma ++ [{
        id := s.blks.nextId, kind := d.kind, desc := desc, post := post, segs := dmaDst d, raw := raw,
        len := if d.indirect then min (leNat ((blkOf s p).sp.readN d.lenAddr 4)) d.len else d.len }] }

theorem takeDma_issues {p : Nat} {raw : List Byte} {s : State} (desc post : Nat)
    (hword : (dmaDesc raw).indirect = true → firstFault (readFault (blkOf s p)) (segsOf (dmaDesc raw).lenAddr 4) = none
      ∧ leNat ((blkOf s p).sp.readN (dmaDesc raw).lenAddr 4) % 16 = 0)
    (hdst : firstFault (writeFault (blkOf s p)) (dmaDst (dmaDesc raw)) = none) : takeDma p desc post raw s = .issued (dmaTaken p desc post raw s) := by
  have hread : (if (dmaDesc raw).indirect then firstFault (readFault (blkOf s p)) (segsOf (dmaDesc raw).lenAddr 4) else none) = none := by
    split
    · next hind => exact (hword hind).1
    · rfl
  have hbeat : ((dmaDesc raw).indirect && leNat ((blkOf s p).sp.readN (dmaDesc raw).lenAddr 4) % 16 != 0) = false := by
    cases hind : (dmaDesc raw).indirect with
    | false => rfl
    | true => simp [(hword hind).2]
  simp only [takeDma, hread, hbeat, hdst, Bool.false_eq_true, if_false]
  exact congrArg SlotRes.issued (modBlk_congr rfl)

/-- The DMA engine takes the local descriptor of its slot. -/
theorem dmaPart_local {kind b p w : Nat} {row : Fin 256 → HwErr → Instr} {l : SlotReads} {s : State} (hrow : (kind, row) ∈ localRows)
    (hk : field l.dma 0 1 = kind) (hv : slotValid w 3 = true)
    (hword : (dmaDesc l.dma).indirect = true → firstFault (readFault (blkOf s p)) (segsOf (dmaDesc l.dma).lenAddr 4) = none
      ∧ leNat ((blkOf s p).sp.readN (dmaDesc l.dma).lenAddr 4) % 16 = 0)
    (hdst : firstFault (writeFault (blkOf s p)) (dmaDst (dmaDesc l.dma)) = none) :
    dmaPart b p w l s = dmaTaken p (bits (slotWord w 3) 62 55) (bits (slotWord w 3) 54 49) l.dma s := by
  obtain ⟨hlocal, -⟩ := localRows_spec hrow
  simp [dmaPart, hv, takeDesc, hk, hlocal, takeDma_issues _ _ hword hdst]

/-- What a descriptor writes lies in the scratchpad for the kinds that write there. -/
theorem dmaDst_of_kind {d : DmaDesc} {kind : Nat} (hk : d.kind = kind) :
    dmaDst d = if kind = 1 then segsOf d.sp d.len else if kind = 3 then segsOf d.hbm d.len else [] := by
  subst hk
  unfold dmaDst
  split
  · next h => rw [if_pos h]
  · next h => rw [if_neg (by omega), if_pos h]
  · next h1 h3 => rw [if_neg h1, if_neg h3]

/-- A local descriptor that is not accepted, alone in its bundle, fails as the slots are read. -/
theorem readSlots_badDma {k : Block} {w : Nat} {raw : List Byte} (h1 : slotValid w 1 = false) (h2 : slotValid w 2 = false)
    (h3 : slotValid w 3 = true) (hd : readDesc k 2 (bits (slotWord w 3) 62 55) = .ok raw)
    (hk : remoteKind (field raw 0 1) = false) (hbad : dmaOk raw = false) :
    readSlots k w = .error (0x21A, bits (slotWord w 3) 62 55, 0) := by
  have hdma : readDma k (slotWord w 3) = .error (0x21A, bits (slotWord w 3) 62 55, 0) := by
    simp [readDma, hd, hk, hbad]
  simp [readSlots, h1, h2, h3, hdma]

/-! ### The moves of a descriptor (R169, R171, R463) -/

/-- A descriptor's number, counter and destination. -/
def dmaHold (o : DmaOp) : Nat × Nat × List Nat := (o.id, o.post, o.segs)

/-- What stays of a block while its local descriptors move: counters, segments, and what each descriptor holds. -/
def dmaBook (k : Block) : Table Nat × Table SegSt × List (Nat × Nat × List Nat) := (k.ctr, k.seg, k.dma.map dmaHold)

theorem dmaBook_modDma (p id : Nat) (f : DmaOp → DmaOp) (s : State) (hf : ∀ o, dmaHold (f o) = dmaHold o) :
    dmaBook (blkOf (modDma p id f s) p) = dmaBook (blkOf s p) := by
  simp only [modDma, blkOf_modBlk_same, dmaBook, List.map_map, Prod.mk.injEq, true_and]
  refine List.map_congr_left fun o _ => ?_
  dsimp only [Function.comp]
  split
  · exact hf o
  · rfl

@[simp] theorem dmaBook_writeSp (a : Nat) (bs : List Byte) (k : Block) : dmaBook (k.writeSp a bs) = dmaBook k := rfl

@[simp] theorem dmaBook_cutOff (p id : Nat) (s : State) :
    dmaBook (blkOf (cutOffRecord p (modDma p id (fun o => { o with cut := true }) s)) p) = dmaBook (blkOf s p) := by
  rw [cutOffRecord, blkOf, record_blks]
  exact dmaBook_modDma p id _ s fun _ => rfl

/-- A step that has no byte left to move stays within the book. -/
theorem dmaBook_dmaBytes_zero (b p : Nat) (o : DmaOp) (s : State) : dmaBook (blkOf (dmaBytes b p 0 o s) p) = dmaBook (blkOf s p) := by
  have hread : ∀ r off blk, readBytes r off 0 blk s = ([], false, s) := fun r off blk => by simp [readBytes, linesOf, slice]
  have hnone : (blkOf s p).sp.readN ((dmaDesc o.raw).sp + o.moved) 0 = [] := List.eq_nil_of_length_eq_zero (Mem.readN_length ..)
  have htold : ∀ (c : Bool) (t : State), dmaBook (blkOf t p) = dmaBook (blkOf s p) →
      dmaBook (blkOf (if c then t else cutOffRecord p (modDma p o.id (fun o => { o with cut := true }) t)) p) = dmaBook (blkOf s p) := by
    intro c t ht
    cases c
    · exact (dmaBook_cutOff ..).trans ht
    · exact ht
  unfold dmaBytes
  dsimp only
  split
  · split
    · simp [hread]
    · exact htold _ _ (by simp)
  · rw [hnone]
    refine htold _ _ ?_
    split <;> rfl
  · simp

/-- Digest terms leave every way between regions as it was. -/
theorem pathUp_digestLines (r off : Nat) (bs : List Byte) (s : State) (a t : Nat) : pathUp (digestLines r off bs s) a t = pathUp s a t := by
  have hflt : (digestLines r off bs s).flt = s.flt := foldl_view State.flt (fun _ _ => by simp [digestTerm]) _ s
  have hring : (digestLines r off bs s).ring = s.ring := foldl_view State.ring (fun _ _ => by simp [digestTerm]) _ s
  simp only [pathUp, regionUp, regionMode, hflt, hring]

/-- Where a descriptor's next byte lies in the scratchpad (R169). -/
def dmaSp (o : DmaOp) : Nat := (dmaDesc o.raw).sp + o.moved

/-- Where it lies at the descriptor's other end. -/
def dmaFar (o : DmaOp) : Nat := (dmaDesc o.raw).hbm + o.moved

section
variable {b p m : Nat} {o : DmaOp} {s : State}

theorem dmaBytes_spToSp (hk : (dmaDesc o.raw).kind = 3) :
    dmaBytes b p m o s = s.modBlk p fun k => k.writeSp (dmaFar o) (k.sp.readN (dmaSp o) m) := by
  simp only [dmaBytes, hk, dmaFar, dmaSp]

theorem dmaBytes_hbmToSp (hk : (dmaDesc o.raw).kind = 1) (hway : roundTrip s (b / 64) (dmaFar o / 2 ^ 38) = true) :
    dmaBytes b p m o s = (readBytes (dmaFar o / 2 ^ 38) (dmaFar o % 2 ^ 38) m (some (p % 68, b % 64)) s).2.2.modBlk p
      (Block.writeSp (dmaSp o) (readBytes (dmaFar o / 2 ^ 38) (dmaFar o % 2 ^ 38) m (some (p % 68, b % 64)) s).1) := by
  unfold dmaFar at hway ⊢
  simp only [dmaBytes, hk, hway, dmaSp, if_true]

theorem dmaBytes_spToHbm (hk : (dmaDesc o.raw).kind = 2) (hpath : pathUp s (b / 64) (dmaFar o / 2 ^ 38) = true)
    (hway : roundTrip s (b / 64) (dmaFar o / 2 ^ 38) = true) :
    dmaBytes b p m o s = writeBytes (dmaFar o / 2 ^ 38) (dmaFar o % 2 ^ 38) ((blkOf s p).sp.readN (dmaSp o) m)
      (digestLines (dmaFar o / 2 ^ 38) (dmaFar o % 2 ^ 38) ((blkOf s p).sp.readN (dmaSp o) m) s) := by
  unfold dmaFar at hpath hway ⊢
  simp only [dmaBytes, hk, hway, pathUp_digestLines, hpath, dmaSp, if_true, Bool.true_or]

/-- The sources of the next `m` bytes in the scratchpad. -/
def dmaSrc (o : DmaOp) (m : Nat) : List Nat := if o.kind = 1 then [] else segsOf (dmaSp o) m

variable {n : Nat}

theorem dmaMove_moves (hsrc : firstFault (readFault (blkOf s p)) (dmaSrc o (dmaSpan o n)) = none) :
    dmaMove b p n o s = .issued (modDma p o.id (fun x => { x with moved := x.moved + dmaSpan o n }) (dmaBytes b p (dmaSpan o n) o s)) := by
  unfold dmaSrc dmaSp at hsrc
  simp only [dmaMove, hsrc]

/-- A source segment that may not be read stops the engine (R181, R190). -/
theorem dmaMove_faults (hsrc : firstFault (readFault (blkOf s p)) (dmaSrc o (dmaSpan o n)) ≠ none) :
    ∃ code off, dmaMove b p n o s = .stopped (haltBlock p code o.desc off (s.modBlk p (stopEngine 3))) := by
  obtain ⟨⟨c, g⟩, hfault⟩ := Option.ne_none_iff_exists'.1 hsrc
  unfold dmaSrc dmaSp at hfault
  exact ⟨c, 4096 * g, by simp only [dmaMove, hfault, dmaFault]⟩

/-! ### DMA_POST (R169) -/

/-- Descriptor `o` of block `b`, with number `id`, is a local one in progress, and the block's engines run. -/
structure DmaInTurn (s : State) (b p id : Nat) (o : DmaOp) : Prop where
  phys : physOf s b = some p
  found : (blkOf s p).dma.find? (fun o => o.id == id) = some o
  kind : o.kind ≤ 3
  runs : engineRuns s b = true

theorem DmaInTurn.step {b : Fin 256} {id : Nat} (h : DmaInTurn s b p id o) (upto : EngineMoment) :
    exec (.dmaPost b id upto .none) s = .next (dmaStep b p upto o s) := by
  have hrun : exec (.dmaPost b id upto .none) s = execDmaPost b id upto .none s := rfl
  simp [hrun, execDmaPost, h.phys, h.found, h.kind, h.runs, meeting, errsOf, meetSp]

theorem DmaInTurn.moves {b : Fin 256} {id : Nat} (h : DmaInTurn s b p id o)
    (hsrc : firstFault (readFault (blkOf s p)) (dmaSrc o (dmaSpan o n)) = none) :
    exec (.dmaPost b id (.moves n) .none) s
      = .next (modDma p o.id (fun x => { x with moved := x.moved + dmaSpan o n }) (dmaBytes b p (dmaSpan o n) o s)) := by
  rw [h.step, dmaStep, dmaMove_moves hsrc]

/-- What the post of a descriptor leaves: its counter is one up, its segments are let go and it is gone. -/
def dmaPosted (id : Nat) (o : DmaOp) (k : Block) : Block :=
  { modSegs o.segs SegSt.drop k with
    dma := k.dma.filter fun x => x.id != id, ctr := k.ctr.mod 0 o.post fun x => (x + 1) % 2 ^ 32 }

theorem blkOf_finishDma {id : Nat} (h : (blkOf s p).dma.find? (fun o => o.id == id) = some o) :
    blkOf (finishDma p id s) p = dmaPosted id o (blkOf s p) := by
  simp only [finishDma, h, postCtr, blkOf_modBlk_same, dmaPosted, modSegs_ctr]

/-- A descriptor found by its number has that number. -/
theorem id_of_found {k : Block} {id : Nat} (h : k.dma.find? (fun o => o.id == id) = some o) : o.id = id := by
  simpa using List.find?_some h

/-- The number finds a descriptor with the same counter and destination in a block with the same book. -/
theorem found_of_dmaBook {j k : Block} {id : Nat} (h : dmaBook k = dmaBook j) (hfound : j.dma.find? (fun o => o.id == id) = some o) :
    ∃ x, k.dma.find? (fun o => o.id == id) = some x ∧ x.post = o.post ∧ x.segs = o.segs := by
  have hbook : k.dma.map dmaHold = j.dma.map dmaHold := congrArg (fun y => y.2.2) h
  have hfind : ∀ l : List DmaOp, (l.map dmaHold).find? (fun y => y.1 == id) = (l.find? fun o => o.id == id).map dmaHold := fun l => List.find?_map ..
  have hx : (k.dma.find? fun o => o.id == id).map dmaHold = some (dmaHold o) := by
    rw [← hfind, hbook, hfind, hfound]
    rfl
  obtain ⟨x, hfx, heq⟩ := Option.map_eq_some_iff.1 hx
  simp only [dmaHold, Prod.mk.injEq] at heq
  obtain ⟨-, hpost, hsegs⟩ := heq
  exact ⟨x, hfx, hpost, hsegs⟩

/-- A descriptor that has moved all its bytes posts with nothing left to move. -/
theorem DmaInTurn.posts {b : Fin 256} {id : Nat} (h : DmaInTurn s b p id o) (hall : o.moved = o.len) :
    LeadsTo (exec (.dmaPost b id .posts .none) s) fun t => ∃ x k, blkOf t p = dmaPosted id x k ∧ dmaBook k = dmaBook (blkOf s p)
      ∧ x.post = o.post ∧ x.segs = o.segs := by
  have hspan : dmaSpan o (o.len + 1) = 0 := by simp [dmaSpan, hall]
  have hsrc : firstFault (readFault (blkOf s p)) (dmaSrc o (dmaSpan o (o.len + 1))) = none := by
    rw [hspan, dmaSrc]
    split <;> rfl
  have hbook : dmaBook (blkOf (modDma p o.id (fun x => { x with moved := x.moved + dmaSpan o (o.len + 1) })
      (dmaBytes b p (dmaSpan o (o.len + 1)) o s)) p) = dmaBook (blkOf s p) := by
    refine (dmaBook_modDma p o.id (fun x => { x with moved := x.moved + dmaSpan o (o.len + 1) }) _ fun _ => rfl).trans ?_
    rw [hspan, dmaBook_dmaBytes_zero]
  obtain ⟨x, hx, hpost, hsegs⟩ := found_of_dmaBook hbook h.found
  refine ⟨_, by rw [h.step, dmaStep, dmaMove_moves hsrc], x, _, ?_, hbook, hpost, hsegs⟩
  rw [id_of_found h.found] at hx ⊢
  exact blkOf_finishDma hx

/-- What a posted descriptor leaves of its block: its counter, the descriptors and the segments. -/
theorem dmaPosted_spec {id : Nat} {x : DmaOp} {j k : Block} (hbook : dmaBook k = dmaBook j) (hpost : x.post = o.post) (hsegs : x.segs = o.segs) :
    ctrOf (dmaPosted id x k) o.post = (ctrOf j o.post + 1) % 2 ^ 32 ∧ (dmaPosted id x k).dma.find? (fun y => y.id == id) = none
      ∧ ∀ i, segOf (dmaPosted id x k) i = segOf (modSegs o.segs SegSt.drop j) i := by
  simp only [dmaBook, Prod.mk.injEq] at hbook
  obtain ⟨hctr, hseg, -⟩ := hbook
  refine ⟨?_, ?_, fun i => ?_⟩
  · simp [ctrOf, dmaPosted, hpost, hctr]
  · simp [dmaPosted, List.find?_eq_none]
  · exact congrArg (fun t : Table SegSt => t.get {} i) (hsegs ▸ modSegs_seg_congr x.segs SegSt.drop hseg)

end

/-! ### The statement -/

/-- Settles O41: a local descriptor joins the queue as `takeDma` has it, and DMA_POST goes on with it as `dmaMove` and `finishDma` have it. -/
theorem localDma : Obligations.LocalDma := by
  unfold Obligations.LocalDma
  refine ⟨fun kind row b p bv s u l hrow h hv hk => ?issued, fun b p bv raw s ht h0 h1 h2 h3 hres hd hk hbad => ?refused,
    fun b id p n o s hp hfound hruns hkind h1 h3 => ?moves, fun b id p o s hp hfound hkind hruns hall => ?posts⟩
  case issued =>
    intro w v d dst word hword hdst
    have hd : dmaDst d = dst := dmaDst_of_kind hk
    rw [h.localDma hrow hv hk, dmaPart_local hrow hk hv hword (hd ▸ hdst), dmaTaken, ← hk, ← hd]
    rfl
  case refused =>
    have hctl : ctlSlot b p bv.toNat s = .issued s := if_neg (by simp [h0])
    have hafter : afterCtl b p bv.toNat s = blkOf s p := by simp [afterCtl, hctl]
    have hrow : (3, Instr.spToSp) ∈ localRows := by simp [localRows]
    rw [exec_localRow hrow ht h3 (hafter ▸ hd) hk, issueBundle_unread hctl (readSlots_badDma h1 h2 h3 hd (by rw [hk]; decide) hbad)]
  case moves =>
    intro d m r off src bs gone
    have h : DmaInTurn s b p id o := ⟨hp, hfound, h3, hruns⟩
    have moves : firstFault (readFault (blkOf s p)) (dmaSrc o m) = none → ∀ {t}, dmaBytes b p m o s = t →
        exec (.dmaPost b id (.moves n) .none) s = .next (gone t) := by
      rintro hsrc t rfl
      exact h.moves hsrc
    refine ⟨fun h3 hsrc => moves (by rwa [dmaSrc, if_neg (by omega)]) (dmaBytes_spToSp (hkind.trans h3)),
      fun h1 hway => moves (by rw [dmaSrc, if_pos h1]; rfl) (dmaBytes_hbmToSp (hkind.trans h1) hway),
      fun h2 hsrc hpath hway => moves (by rwa [dmaSrc, if_neg (by omega)]) (dmaBytes_spToHbm (hkind.trans h2) hpath hway), fun h1 hsrc => ?_⟩
    obtain ⟨code, off, hstop⟩ := dmaMove_faults (b := b) (n := n) (o := o) (s := s) (p := p) (by rwa [dmaSrc, if_neg h1])
    obtain ⟨x, hblk⟩ := blkOf_haltBlock p code o.desc off (s.modBlk p (stopEngine 3))
    refine ⟨haltBlock p code o.desc off (s.modBlk p (stopEngine 3)), by rw [h.step, dmaStep, hstop], ?_⟩
    dsimp only
    rw [hblk, blkOf_modBlk_same]
    exact ⟨rfl, rfl, rfl⟩
  case posts =>
    have h : DmaInTurn s b p id o := ⟨hp, hfound, hkind, hruns⟩
    obtain ⟨t, ht, x, k, hblk, hbook, hpost, hsegs⟩ := h.posts hall
    refine ⟨t, ht, ?_⟩
    dsimp only
    rw [hblk]
    exact dmaPosted_spec hbook hpost hsegs

end Sys2Proof.Machine

/-! SUPPORT. Proof of the statement about pegs and their claims (O51). -/

namespace Sys2Proof.Machine

open Sys2Proof

/-! ### Packets that enter behind a request (R310, R489) -/

/-- What decides whether a request reaches its target: the device's state, the job, the regions' service, the windows and the ring. -/
def requestView (s : State) : Dev × Job × Faults × Remote × Ring := (s.dev, s.job, s.flt, s.rmt, s.ring)

theorem FabricOnly.requestView {s t : State} (h : FabricOnly s t) (hflt : t.flt = s.flt) : requestView t = requestView s := by
  rw [Machine.requestView, h.eq, Machine.requestView, hflt]

theorem requestView_arrive (c : Carried) (s : State) : requestView (arrive c s) = requestView s := by
  have hdeliver : ∀ u, requestView (deliver c u) = requestView u := fun u => (deliver_only c u).requestView (deliver_flt u c)
  have htee : ∀ p, requestView (teeCopy p s) = requestView s := fun p => (enqueue_only _ _ _).requestView (enqueue_flt _ _ _)
  unfold arrive deliverTeed
  split
  · split
    · rw [hdeliver, htee]
    · exact hdeliver s
  · rfl

theorem requestView_admitWaiting (s : State) : requestView (admitWaiting s) = requestView s :=
  foldl_view requestView (fun u c => requestView_arrive c u) _ _

theorem unreachable_congr {s u : State} (h : requestView u = requestView s) (c : Carried) : unreachable u c = unreachable s c := by
  simp only [requestView, Prod.mk.injEq] at h
  obtain ⟨-, -, hflt, hrmt, hring⟩ := h
  simp only [unreachable, targetRegion, winOf, roundTrip, pathUp, regionUp, regionMode, hflt, hrmt, hring]

/-! ### The request at the head of the intake (R310, R431) -/

/-- The request `c` heads the intake, with `rest` behind it: it keeps its layout, belongs to the job, and its reply finds a slot. -/
structure RequestTaken (s : State) (c : Carried) (rest : List Carried) : Prop where
  head : s.fab.reqIn = c :: rest
  runs : targetRuns s = true
  layout : payloadOk c.pkt = true
  job : c.pkt.jobTag = s.job.tag
  free : heldByCheckpoint s c.pkt = false
  slot : s.dev = .bivouac ∨ replySlotFree s = true

/-- The intake without the request, once the packets that waited have entered. -/
def behindRequest (rest : List Carried) (s : State) : State := admitWaiting (s.modFab fun f => { f with reqIn := rest })

theorem requestView_behindRequest (rest : List Carried) (s : State) : requestView (behindRequest rest s) = requestView s :=
  requestView_admitWaiting _

section
variable {s : State} {c : Carried} {rest : List Carried} {mine : Packet → Bool} (h : RequestTaken s c rest) (hm : mine c.pkt = true)
include h hm

/-- A row's own request is taken in the device's present state. -/
theorem RequestTaken.step (hturn : requestInTurn s = some c) : requestStep mine s
    = if s.dev == .bivouac then .next (answerClaim (claimOf c.pkt) 10 (behindRequest rest s))
      else if unreachable s c then .next (behindRequest rest s)
      else if c.pkt.type = 0x14 then .next (handleClaim c (behindRequest rest s))
      else if c.pkt.type = 0x15 then .next (handleDone c (behindRequest rest s))
      else .next (handleOrdered c (behindRequest rest s)) := by
  have hview := requestView_behindRequest rest s
  have hdev : (behindRequest rest s).dev = s.dev := congrArg Prod.fst hview
  have hjob : (behindRequest rest s).job = s.job := congrArg (fun v => v.2.1) hview
  have hslot : (s.dev == .bivouac || replySlotFree s) = true := by simpa using h.slot
  have hrest : admitWaiting (s.modFab fun f => { f with reqIn := f.reqIn.erase c }) = behindRequest rest s := by
    simp [behindRequest, State.modFab, h.head]
  simp only [requestStep, hturn, h.runs, hm, h.free, hslot, hrest, h.layout, hdev, hjob, unreachable_congr hview]
  simp [h.job]

/-- A device that is not parked serves the oldest request. -/
theorem RequestTaken.serve (hdev : s.dev ≠ .bivouac) (hway : unreachable s c = false) : requestStep mine s
    = if c.pkt.type = 0x14 then .next (handleClaim c (behindRequest rest s))
      else if c.pkt.type = 0x15 then .next (handleDone c (behindRequest rest s))
      else .next (handleOrdered c (behindRequest rest s)) := by
  rw [h.step hm (by simp [requestInTurn, hdev, h.head])]
  simp [hdev, hway]

/-- A parked device answers every claim with CLAIM_PARKED. -/
theorem RequestTaken.parked (htype : c.pkt.type = 0x14) (hdev : s.dev = .bivouac) :
    requestStep mine s = .next (answerClaim (claimOf c.pkt) 10 (behindRequest rest s)) := by
  rw [h.step hm (by simp [requestInTurn, hdev, h.head, htype])]
  simp [hdev]

end

/-! ### What a claim and a PEG_DONE are answered (R342 to R344) -/

section
variable {c : Carried} {s : State}

theorem handleClaim_closed (h : winLive s (addrWindow c.pkt.addr) c.pkt.gen = false) : handleClaim c s = answer c 0 1 0 s := by
  simp [handleClaim, h]

theorem handleDone_closed (h : winLive s (addrWindow c.pkt.addr) c.pkt.gen = false) : handleDone c s = answer c 0 1 0 s := by
  simp [handleDone, h]

/-- The peg that a claim or a PEG_DONE names. -/
def pegNamed (s : State) (p : Packet) : Peg := pegOf s (field p.payload 0 2)

/-- The peg that a claim names may be granted to its source, anew or again. -/
def claimGrants (s : State) (p : Packet) : Prop :=
  let q := pegNamed s p
  q.out = true ∧ q.window = addrWindow p.addr ∧ ((q.grant = none ∧ (winOf s (addrWindow p.addr)).st = 1) ∨ q.grant = some p.src)

/-- The peg that a PEG_DONE names is granted to its source. -/
def doneCompletes (s : State) (p : Packet) : Prop :=
  let q := pegNamed s p
  q.out = true ∧ q.window = addrWindow p.addr ∧ q.grant = some p.src

variable (hlive : winLive s (addrWindow c.pkt.addr) c.pkt.gen = true)
include hlive

theorem handleClaim_grants (h : claimGrants s c.pkt) : handleClaim c s = grantPeg (field c.pkt.payload 0 2) (claimOf c.pkt) s := by
  unfold claimGrants pegNamed at h
  obtain ⟨hout, hwin, ⟨hfree, hopen⟩ | hmine⟩ := h
  · simp [handleClaim, hlive, hout, hwin, hfree, hopen]
  · simp [handleClaim, hlive, hout, hwin, hmine]

/-- Every other claim is parked, unless another source's stands. -/
theorem handleClaim_waits (h : ¬claimGrants s c.pkt) : handleClaim c s
    = if ∀ x ∈ (pegNamed s c.pkt).claim, x.src = c.pkt.src then
        answer c 0 10 0 (s.modPeg (field c.pkt.payload 0 2) fun q => { q with claim := some (claimOf c.pkt) })
      else answer c 0 4 0 s := by
  unfold claimGrants at h
  unfold pegNamed at h ⊢
  generalize hq : pegOf s (field c.pkt.payload 0 2) = q at h ⊢
  have hfree : ¬(q.out && q.window == addrWindow c.pkt.addr && q.grant.isNone && (winOf s (addrWindow c.pkt.addr)).st == 1) = true := by
    simp only [Bool.and_eq_true, beq_iff_eq, Option.isNone_iff_eq_none]
    exact fun ⟨⟨⟨hout, hwin⟩, hnone⟩, hopen⟩ => h ⟨hout, hwin, .inl ⟨hnone, hopen⟩⟩
  have hmine : ¬(q.out && q.window == addrWindow c.pkt.addr && q.grant == some c.pkt.src) = true := by
    simp only [Bool.and_eq_true, beq_iff_eq]
    exact fun ⟨⟨hout, hwin⟩, hgrant⟩ => h ⟨hout, hwin, .inr hgrant⟩
  simp only [handleClaim, hlive, hq, hfree, hmine, Bool.not_true, Bool.false_eq_true, if_false]
  cases q.claim with
  | none => simp
  | some x => simp

/-- As many bytes as have landed complete the landing. -/
theorem handleDone_whole (h : doneCompletes s c.pkt) (hall : (pegNamed s c.pkt).landed = field c.pkt.payload 4 4) :
    handleDone c s = answer c 0 0 0 (completePeg (field c.pkt.payload 0 2) false s) := by
  unfold doneCompletes pegNamed at h
  obtain ⟨hout, hwin, hmine⟩ := h
  unfold pegNamed at hall
  simp [handleDone, hlive, hout, hwin, hmine, hall]

/-- Another count is recorded first. -/
theorem handleDone_short (h : doneCompletes s c.pkt) (hless : (pegNamed s c.pkt).landed ≠ field c.pkt.payload 4 4) :
    handleDone c s = answer c 0 0 0 (completePeg (field c.pkt.payload 0 2) false
      (record { level := 2, cls := 2, code := 0x30A, region := some ((pegNamed s c.pkt).block / 68), detail := field c.pkt.payload 0 2 } s)) := by
  unfold doneCompletes pegNamed at h
  obtain ⟨hout, hwin, hmine⟩ := h
  unfold pegNamed at hless ⊢
  simp [handleDone, hlive, hout, hwin, hmine, hless]

/-- Any other PEG_DONE is answered by who made the last landing. -/
theorem handleDone_repeats (h : ¬doneCompletes s c.pkt) : handleDone c s
    = if ∃ x ∈ (pegNamed s c.pkt).done, x.1 = c.pkt.src then answer c 0 0 0 s else answer c 0 3 0 s := by
  unfold doneCompletes at h
  unfold pegNamed at h ⊢
  generalize hq : pegOf s (field c.pkt.payload 0 2) = q at h ⊢
  have hmine : ¬(q.out && q.window == addrWindow c.pkt.addr && q.grant == some c.pkt.src) = true := by
    simp only [Bool.and_eq_true, beq_iff_eq]
    exact fun ⟨⟨hout, hwin⟩, hgrant⟩ => h ⟨hout, hwin, hgrant⟩
  simp only [handleDone, hlive, hq, hmine, Bool.not_true, Bool.false_eq_true, if_false]
  cases q.done with
  | none => simp
  | some x => simp

end

/-! ### A grant (R343) -/

theorem rmt_sendReply (r src tag gen seq ch type : Nat) (payload : List Byte) (s : State) : (sendReply r src tag gen seq ch type payload s).rmt = s.rmt := by
  unfold sendReply
  split
  · rfl
  · exact originate_rmt ..

theorem pegOf_grantPeg (n : Nat) (c : Claim) (s : State) (m : Nat) :
    pegOf (grantPeg n c s) m = if m = n then { pegOf s n with grant := some c.src, tag := c.tag, claim := (pegOf s n).claim.filter fun x => x.src != c.src }
      else pegOf s m := by
  rw [grantPeg, pegOf, rmt_sendReply]
  exact pegOf_modPeg ..

/-! ### A completed landing (R183, R189) -/

theorem segsOf_nodup (a n : Nat) : (segsOf a n).Nodup := by
  unfold segsOf
  split
  · exact List.nodup_nil
  · exact (List.nodup_range).map fun _ _ h => Nat.add_left_cancel h

section
variable {n : Nat} {s : State} (col : Bool) (hopen : (winOf s (pegOf s n).window).st ≠ 2)
include hopen

/-- Where its window is not CLOSING, a landing moves its block and its peg, and nothing else of either. -/
theorem completePeg_eq : completePeg n col s = (postCtr (pegOf s n).block (pegOf s n).ctr 1
    (s.modBlk (pegOf s n).block (modSegs (pegSegs (pegOf s n)) SegSt.landed))).modPeg n fun q =>
      { q with out := false, grant := none, done := some ((pegOf s n).grant.getD 0, (pegOf s n).tag, (pegOf s n).gen), doneCol := col, landed := 0,
               total := none, pieces := [] } := by
  have hwin : ∀ k f g h c v, winOf ((postCtr k c v (s.modBlk k g)).modPeg h f) (pegOf s n).window = winOf s (pegOf s n).window :=
    fun k f g h c v => by simp [winOf, postCtr]
  simp [completePeg, settleWindow, hwin, hopen]

theorem pegOf_completePeg (m : Nat) : pegOf (completePeg n col s) m = if m = n then { pegOf s n with
      out := false, grant := none, done := some ((pegOf s n).grant.getD 0, (pegOf s n).tag, (pegOf s n).gen), doneCol := col, landed := 0,
      total := none, pieces := [] } else pegOf s m := by
  rw [completePeg_eq col hopen, pegOf_modPeg]
  rfl

theorem blkOf_completePeg (p : Nat) : blkOf (completePeg n col s) p = if p = (pegOf s n).block then
      { modSegs (pegSegs (pegOf s n)) SegSt.landed (blkOf s p) with ctr := (blkOf s p).ctr.mod 0 (pegOf s n).ctr fun x => (x + 1) % 2 ^ 32 }
    else blkOf s p := by
  have hpeg : ∀ f u, blkOf (State.modPeg n f u) p = blkOf u p := fun _ _ => rfl
  rw [completePeg_eq col hopen, hpeg, postCtr, blkOf_modBlk, blkOf_modBlk, blkOf_modBlk]
  split
  · next h => simp [h]
  · rfl

end

/-! ### The statement -/

/-- Settles O51: the request at the head of the intake is handled by `handleClaim` or `handleDone`, by the cases of each, and a grant and a completed
landing move their peg and its block alone. -/
theorem pegsAndClaims : Obligations.PegsAndClaims := by
  unfold Obligations.PegsAndClaims
  refine ⟨fun c rest s hhead hruns hlayout hjob hheld hslot => ?taken, fun c s => ?handled, fun n c s => ?granted, fun n col s hopen => ?completed⟩
  case taken =>
    have h : RequestTaken s c rest := ⟨hhead, hruns, hlayout, hjob, hheld, hslot⟩
    have hclaim : exec .pegClaim s = requestStep (fun p => p.type == 0x14) s := rfl
    have hdone : exec .pegDone s = requestStep (fun p => p.type == 0x15) s := rfl
    rw [hclaim, hdone]
    refine ⟨fun htype hdev hway => ?claims, fun htype hdev => ?parked, fun htype hdev hway => ?dones⟩
    case claims => rw [h.serve (by simp [htype]) hdev hway, if_pos htype, behindRequest]
    case parked => rw [h.parked (by simp [htype]) htype hdev, behindRequest]
    case dones => rw [h.serve (by simp [htype]) hdev hway, if_neg (by simp [htype]), if_pos htype, behindRequest]
  case handled =>
    intro p w n q
    refine ⟨fun hclosed => ⟨handleClaim_closed hclosed, handleDone_closed hclosed⟩,
      fun hlive hout hwin hgrant => handleClaim_grants hlive ⟨hout, hwin, hgrant⟩,
      fun hlive hno => ⟨fun hmine => ?parks, fun x hx hother => ?refuses⟩,
      fun hlive hout hwin hgrant => ⟨handleDone_whole hlive ⟨hout, hwin, hgrant⟩, handleDone_short hlive ⟨hout, hwin, hgrant⟩⟩,
      fun hlive hno => ⟨fun hdone => ?repeated, fun hother => ?unknown⟩⟩
    case parks =>
      rw [handleClaim_waits hlive hno, if_pos]
      rintro x hx
      rcases hmine with hnone | ⟨y, hy, hsrc⟩
      · cases hnone.symm.trans hx
      · cases hy.symm.trans hx
        exact hsrc
    case refuses => rw [handleClaim_waits hlive hno, if_neg fun hall => hother (hall x hx)]
    case repeated =>
      obtain ⟨tag, gen, hdone⟩ := hdone
      rw [handleDone_repeats hlive hno, if_pos ⟨_, hdone, rfl⟩]
    case unknown =>
      rw [handleDone_repeats hlive hno, if_neg]
      rintro ⟨⟨src, tag, gen⟩, hdone, rfl⟩
      exact hother tag gen hdone
  case granted =>
    intro t
    have hpeg := pegOf_grantPeg n c s
    refine ⟨?_, ?_, ?_, fun m hm => (hpeg m).trans (if_neg hm)⟩ <;>
      rw [hpeg, if_pos rfl]
  case completed =>
    intro q t
    have hpeg := pegOf_completePeg col hopen
    have hblk := blkOf_completePeg col hopen
    refine ⟨?_, ?_, ?_, ?_, fun i => ?_, fun m hm => (hpeg m).trans (if_neg hm), fun p hp => (hblk p).trans (if_neg hp)⟩
    · rw [hpeg, if_pos rfl]
    · rw [hpeg, if_pos rfl]
    · rw [hpeg, if_pos rfl]
    · rw [hblk, if_pos rfl]
      simp [ctrOf, q]
    · rw [hblk, if_pos rfl]
      exact segOf_modSegs SegSt.landed _ i (segsOf_nodup _ _)

end Sys2Proof.Machine

/-! SUPPORT. Proof of the statement about host DMAs (O24). -/

namespace Sys2Proof.Machine

open Sys2Proof

/-! ### A step over the errors that its reads meet -/

theorem State.meets_eq (errs : List ReadErr) (s : State) :
    s.meets errs = s.modHbm fun h => { h with meet := if errs.isEmpty then h.meet else errs } := by
  unfold State.meets
  split <;> rfl

/-- Two steps that agree on the state with the errors laid down agree over them. -/
theorem meeting_congr_meets {errs : List ReadErr} {f g : State → Out} {s : State} (h : f (s.meets errs) = g (s.meets errs)) :
    meeting errs f s = meeting errs g s := by
  unfold State.meets at h
  unfold meeting
  split
  · next he => rwa [if_pos he] at h
  · next he =>
    rw [if_neg he] at h
    rw [h]

theorem leadsTo_meeting_meets {errs : List ReadErr} {f : State → Out} {s : State} {p : State → Prop}
    (hp : ∀ t, p t → p (t.modHbm fun x => { x with meet := [] })) (h : LeadsTo (f (s.meets errs)) p) : LeadsTo (meeting errs f s) p := by
  unfold meeting
  unfold State.meets at h
  split
  · next he => rwa [if_pos he] at h
  · next he =>
    rw [if_neg he] at h
    obtain ⟨t, ht, hpt⟩ := h
    rw [ht]
    exact ⟨_, rfl, hp t hpt⟩

/-! ### Lines of the host's side that a DMA moves (R397) -/

theorem goodLines_all {ok : Nat → Bool} {n : Nat} (h : ∀ i < n / 64, ok i = true) : goodLines ok n = n / 64 := by
  have hall : (List.range (n / 64)).takeWhile ok = List.range (n / 64) :=
    List.takeWhile_eq_self_iff.2 fun i hi => h i (List.mem_range.1 hi)
  rw [goodLines, hall, List.length_range]

/-- Whole lines below the end of the address space can all be written. -/
theorem writableBytes_all {a n : Nat} (hend : a + n ≤ 2 ^ 64) (hlines : n % 64 = 0) : writableBytes a n = n := by
  rw [writableBytes, goodLines_all fun i hi => decide_eq_true (by omega)]
  omega

/-- A shape that R397 accepts moves whole lines. -/
theorem dmaShapeOk_lines {c : InCmd} (h : dmaShapeOk c = true) : c.arg2 % 64 = 0 := by
  simp only [dmaShapeOk, Bool.and_eq_true, beq_iff_eq] at h
  exact h.1.1.1.2

/-! ### Taking the command (R397, R398) -/

section
variable {c : InCmd} {s : State}

theorem takeHostDma_forbidden (hshape : dmaShapeOk c = false) : takeHostDma c s = complete c.id 1 0 s := by
  simp [takeHostDma, hshape]

variable (hshape : dmaShapeOk c = true) (hroom : c.arg1 % 2 ^ 38 + c.arg2 ≤ usableBytes s (c.arg1 / 2 ^ 38 % 4))
include hshape hroom

/-- Past the checks of shape and space, the station that the command names decides. -/
theorem takeHostDma_station : takeHostDma c s =
    if c.arg3 = 2 ^ 48 - 1 then runDma c none s
    else if stationPassed s c.arg3 = true then complete c.id 0x20 0 s
    else s.modHost fun h => { h with dmas := h.dmas ++ [{ cmd := c.id, station := some c.arg3 }] } := by
  have hfits : ¬usableBytes s (hbmPlace c.arg1).1 < (hbmPlace c.arg1).2 + c.arg2 := Nat.not_lt.2 hroom
  dsimp only [takeHostDma]
  rw [if_neg (by simp [hshape]), if_neg hfits]

theorem takeHostDma_now (hnow : c.arg3 = 2 ^ 48 - 1) : takeHostDma c s = runDma c none s := by
  rw [takeHostDma_station hshape hroom, if_pos hnow]

theorem takeHostDma_late (hnamed : c.arg3 ≠ 2 ^ 48 - 1) (hpassed : stationPassed s c.arg3 = true) :
    takeHostDma c s = complete c.id 0x20 0 s := by
  rw [takeHostDma_station hshape hroom, if_neg hnamed, if_pos hpassed]

theorem takeHostDma_waits (hnamed : c.arg3 ≠ 2 ^ 48 - 1) (hahead : stationPassed s c.arg3 = false) :
    takeHostDma c s = s.modHost fun h => { h with dmas := h.dmas ++ [{ cmd := c.id, station := some c.arg3 }] } := by
  rw [takeHostDma_station hshape hroom, if_neg hnamed, if_neg (by simp [hahead])]

end

/-- The host interface once DMA `id` has run: its completion is owed with `status` and `n` bytes moved. -/
def owing (id : Nat) (station : Option Nat) (status n : Nat) (h : HostIf) : HostIf :=
  { h with dmas := (h.dmas.filter fun d => d.cmd != id) ++ [{ cmd := id, station := station, moved := some (status, n) }] }

section
variable {c : InCmd} {s : State} (station : Option Nat) (hreach : dmaReaches s c.arg1 = true)
include hreach

/-- A DMA into HBM whose source can all be read moves the whole of it. -/
theorem runDma_h2d (hop : c.opcode = 4) (hread : readableBytes s c.arg0 c.arg2 = c.arg2) :
    runDma c station s = (writeBytes (c.arg1 / 2 ^ 38 % 4) (c.arg1 % 2 ^ 38) (s.hostMem.readN c.arg0 c.arg2) s).modHost
      (owing c.id station 0 c.arg2) := by
  simp only [runDma, hreach, hop, moveH2d, hread, Bool.not_true, Bool.false_eq_true, if_true, if_false]
  rfl

/-- A DMA out of HBM whose destination can all be written moves what the lines deliver; a poisoned one gives status 6. -/
theorem runDma_d2h (hop : c.opcode = 5) (hwrite : writableBytes c.arg0 c.arg2 = c.arg2) :
    let out := readBytes (c.arg1 / 2 ^ 38 % 4) (c.arg1 % 2 ^ 38) c.arg2 none s
    runDma c station s = ({ out.2.2 with hostMem := out.2.2.hostMem.writeN c.arg0 out.1 } : State).modHost
      (owing c.id station (if out.2.1 then 6 else 0) c.arg2) := by
  simp only [runDma, hreach, hop, moveD2h, hwrite, Bool.not_true, Bool.false_eq_true, if_false, ne_eq, not_true, Nat.reduceEqDiff]
  rfl

end

/-- The state in which the checks and the move of a command run that ring `i` gives. -/
def takenMet (i : Nat) (errs : List ReadErr) (s : State) : State := takeCmd i (s.meets errs)

section
variable (i : Nat) (errs : List ReadErr) (s : State)

theorem usableBytes_takenMet (r : Nat) : usableBytes (takenMet i errs s) r = usableBytes s r := by
  rw [takenMet, State.meets_eq]
  rfl

theorem dmaReaches_takenMet (a : Nat) : dmaReaches (takenMet i errs s) a = dmaReaches s a := by
  rw [takenMet, State.meets_eq]
  rfl

theorem readableBytes_takenMet (a n : Nat) : readableBytes (takenMet i errs s) a n = readableBytes s a n := by
  rw [takenMet, State.meets_eq]
  rfl

theorem stationPassed_takenMet (n : Nat) : stationPassed (takenMet i errs s) n = stationPassed s n := by
  rw [takenMet, State.meets_eq]
  rfl

theorem takenMet_hostMem : (takenMet i errs s).hostMem = s.hostMem := by
  rw [takenMet, State.meets_eq]
  rfl

end

section
variable {errs : List ReadErr} {i : Nat} {c : InCmd} {s : State} (ht : Takes s i c)
include ht

theorem hostStep_meets {op : Nat} {body : InCmd → State → State} (hop : c.opcode = op)
    (hrow : opcodeListed op = true ∧ op ≠ 3 ∧ op ≠ 0x0B ∧ op ≠ 6) :
    hostStep (fun c => c.opcode == op) body (s.meets errs) = body c (takenMet i errs s) := by
  have hturn : SameTurn s (s.meets errs) := State.meets_eq errs s ▸ sameTurn_modHbm _ s
  exact hostStep_own (hturn.takes ht) hop hrow

theorem exec_dmaH2d {g : State → State} (hop : c.opcode = 4) (h : takeHostDma c (takenMet i errs s) = g (s.meets errs)) :
    exec (.dmaH2d errs) s = meeting errs (fun u => .next (g u)) s := by
  show meeting errs (fun u => .next (hostStep (fun c => c.opcode == 4) takeHostDma u)) s = _
  refine meeting_congr_meets (congrArg Host.Outcome.next ?_)
  rw [hostStep_meets ht hop (by decide), h]

theorem exec_dmaD2h {p : State → Prop} (hop : c.opcode = 5) (hp : ∀ t, p t → p (t.modHbm fun x => { x with meet := [] }))
    (h : p (takeHostDma c (takenMet i errs s))) : LeadsTo (exec (.dmaD2h errs) s) p := by
  show LeadsTo (meeting errs (fun u => .next (hostStep (fun c => c.opcode == 5) takeHostDma u)) s) p
  refine leadsTo_meeting_meets hp ⟨_, rfl, ?_⟩
  rwa [hostStep_meets ht hop (by decide)]

end

/-! ### At the station, and the completion (R398, R404) -/

section
variable {id : Nat} {d : HostDma} {s : State} (hfind : s.host.dmas.find? (fun d => d.cmd == id) = some d)
include hfind

theorem exec_dmaAtStation {c : InCmd} {r : Run} (errs : List ReadErr) (hcmd : cmdOf s id = some c) (hrun : s.job.run = some r)
    (hnew : d.moved = none) (hstation : d.station = some (r.base + r.j)) (hphase : r.phase = .atStation) (hlink : s.host.linkUp = true)
    (hckpts : ∀ k ∈ s.mem.ckpts, k.station ≠ r.base + r.j) :
    exec (.dmaAtStation id errs) s = meeting errs (fun u => .next (runDma c (some (r.base + r.j)) u)) s := by
  have hnone : (s.mem.ckpts.any fun k => k.station == r.base + r.j) = false := by simpa using hckpts
  show execDmaAtStation id errs s = _
  simp [execDmaAtStation, hfind, hcmd, hrun, hnew, hstation, hphase, hlink, hnone]

theorem exec_hostDmaComplete {st n : Nat} (hmoved : d.moved = some (st, n)) (hrun : s.job.run = none) :
    exec (.hostDmaComplete id) s
      = .next (complete id st n { s with host := { s.host with dmas := s.host.dmas.filter fun x => x.cmd != id } }) := by
  have hleave : ∀ u : State, u.job.run = none → leaveStation u = u := fun u hu => by simp [leaveStation, hu]
  show execHostDmaComplete id s = _
  simp only [execHostDmaComplete, hfind, hmoved]
  exact congrArg Host.Outcome.next (hleave _ (by simpa using hrun))

end

/-! ### The statement -/

/-- Settles O24: taking a DMA is `takeHostDma`, past whose checks the station that the command names decides, and its move is `runDma`. -/
theorem hostDmas : Obligations.HostDmas := by
  unfold Obligations.HostDmas
  refine ⟨fun i c errs s ht hop hshape hroom => ?h2d, fun i c errs s ht hop hshape => exec_dmaH2d ht hop (takeHostDma_forbidden hshape),
    fun i c errs s ht hop hshape hroom hnow hreach hend => ?d2h,
    fun id d c r errs s hfind hcmd hrun hnew hstation hphase hlink hckpts =>
      exec_dmaAtStation hfind errs hcmd hrun hnew hstation hphase hlink hckpts,
    fun id st n d s hfind hmoved hrun => exec_hostDmaComplete hfind hmoved hrun⟩
  case h2d =>
    rw [← usableBytes_takenMet i errs] at hroom
    refine ⟨fun hnow hreach hread => ?_, fun hnamed hpassed => ?_, fun hnamed hahead => ?_⟩
    · rw [← dmaReaches_takenMet i errs] at hreach
      rw [← readableBytes_takenMet i errs] at hread
      rw [← takenMet_hostMem i errs]
      exact exec_dmaH2d ht hop ((takeHostDma_now hshape hroom hnow).trans (runDma_h2d none hreach hop hread))
    · rw [← stationPassed_takenMet i errs] at hpassed
      exact exec_dmaH2d ht hop (takeHostDma_late hshape hroom hnamed hpassed)
    · rw [← stationPassed_takenMet i errs] at hahead
      exact exec_dmaH2d ht hop (takeHostDma_waits hshape hroom hnamed hahead)
  case d2h =>
    rw [← usableBytes_takenMet i errs] at hroom
    rw [← dmaReaches_takenMet i errs] at hreach
    have hwrite := writableBytes_all hend (dmaShapeOk_lines hshape)
    refine exec_dmaD2h ht hop (fun t h => h) ?_
    rw [takeHostDma_now hshape hroom hnow, runDma_d2h none hreach hop hwrite]
    exact ⟨rfl, rfl⟩

end Sys2Proof.Machine

/-! SUPPORT. Proof of the statement about replies (O52). -/

namespace Sys2Proof.Machine

open Sys2Proof

/-! ### The reply at the head of the intake (R329, R334) -/

/-- The intake for replies without its head. -/
def behindReply (rest : List Carried) (s : State) : State := s.modFab fun f => { f with rspIn := rest }

section
variable {type : Nat} {body : Nat → Packet → State → State} {c : Carried} {rest : List Carried} {s : State}
  (hhead : s.fab.rspIn = c :: rest) (htype : c.pkt.type = type)
include hhead htype

theorem replyStep_malformed (hbad : replyOk c.pkt = false) : replyStep type body s = .next (fabCount 0 (behindReply rest s)) := by
  simp [replyStep, hhead, htype, hbad, behindReply]

variable (hok : replyOk c.pkt = true)
include hok

theorem replyStep_otherJob (hjob : tagAccepted s c.pkt = false) : replyStep type body s = .next (fabCount 2 (behindReply rest s)) := by
  have hjob' : tagAccepted (behindReply rest s) c.pkt = false := hjob
  unfold behindReply at hjob' ⊢
  simp [replyStep, hhead, htype, hok, hjob']

variable (hjob : tagAccepted s c.pkt = true)
include hjob

theorem replyStep_noRequest (hnone : requestFor s c.pkt = none) : replyStep type body s = .next (rmtCount 5 (behindReply rest s)) := by
  have hjob' : tagAccepted (behindReply rest s) c.pkt = true := hjob
  have hnone' : requestFor (behindReply rest s) c.pkt = none := hnone
  unfold behindReply at hjob' hnone' ⊢
  simp [replyStep, hhead, htype, hok, hjob', hnone']

theorem replyStep_acts {tag : Nat} (hmine : requestFor s c.pkt = some tag) :
    replyStep type body s = .next (body tag c.pkt (behindReply rest s)) := by
  have hjob' : tagAccepted (behindReply rest s) c.pkt = true := hjob
  have hmine' : requestFor (behindReply rest s) c.pkt = some tag := hmine
  unfold behindReply at hjob' hmine' ⊢
  simp [replyStep, hhead, htype, hok, hjob', hmine']

end

section
variable {type tag : Nat} {c : Carried} {rest : List Carried} {s : State}

/-- A reply for a request acts on it. -/
theorem Reply.step (h : Reply s type c rest tag) (body : Nat → Packet → State → State) :
    replyStep type body s = .next (body tag c.pkt (behindReply rest s)) := replyStep_acts h.head h.type h.layout h.job h.mine

/-- What the memories report leaves the reply where it is. -/
theorem Reply.noted {u : State} (h : Reply s type c rest tag) (hu : Noted s u) : Reply u type c rest tag := by
  obtain ⟨b, m, rfl⟩ := hu
  exact ⟨h.head, h.type, h.layout, h.job, h.mine⟩

end

/-! ### LOAD_DATA (R225, R334, R345) -/

/-- Bytes that a load's request asks for. -/
def askedBytes (q : Req) : Nat := bits (field q.pkt.payload 0 8) 12 0

/-- The request asks for lines for the cache, of another device. -/
def asksLines (s : State) (q : Req) : Bool := bit (field q.pkt.payload 0 8) 13 && s.fab.number != some q.pkt.dst

/-- The lines that data brings to a range of `len` bytes, cut at its end: line `i` at place `a i`. -/
def linesAt (a : Nat → Nat) (len n : Nat) (bs : List Byte) : List (Nat × List Byte) :=
  (List.range (n / 64)).map fun i => (a i, (slice bs (64 * i) 64).take (len - a i))

section
variable {c : Carried} {rest : List Carried} {tag : Nat} {q : Req} {o : RemOp} {s : State} {poison : List (Fin 64)}
  (h : Reply s 0x30 c rest tag) (hreq : reqOf s tag = some q) (hop : opOf s q.op = some o)
include h hreq hop

/-- Data for a request is checked for its length, then for the poison that ends a fill; then it answers its load, and a cached one fills the cache. -/
theorem exec_loadData : exec (.loadData poison) s = .next (
    let a := q.pkt.addr - o.remote
    if c.pkt.payload.length ≠ askedBytes q then rmtCount 5 (behindReply rest s)
    else if isFillRead s q = true ∧ poisonedIn poison c.pkt.payload = true then settleCore (abortFill 5 (behindReply rest s))
    else if asksLines s q = true then
      takeOutcome tag 0 ((linesAt (fun i => a + 64 * i) o.len (askedBytes q) c.pkt.payload).filter fun e => !(o.data.map fun x => x.1).contains e.1)
        (fillCache o.region q.pkt.addr c.pkt.payload (behindReply rest s))
    else takeOutcome tag 0 [(a, c.pkt.payload)] (behindReply rest s)) := by
  have hreq' : reqOf (behindReply rest s) tag = some q := hreq
  have hop' : opOf (behindReply rest s) q.op = some o := hop
  show execLoadData poison s = _
  rw [execLoadData, h.step]
  simp only [hreq', hop', ← Bool.and_eq_true]
  refine congrArg Host.Outcome.next (ite_congr rfl (fun _ => rfl) fun _ => ite_congr rfl (fun _ => rfl) fun _ => ?_)
  cases hlines : asksLines s q <;>
  · have hcached : (bit (field q.pkt.payload 0 8) 13 && (behindReply rest s).fab.number != some q.pkt.dst) = asksLines s q := rfl
    rw [hcached, hlines]
    rfl

theorem loadData_wrongLength (hlen : c.pkt.payload.length ≠ askedBytes q) :
    exec (.loadData poison) s = .next (rmtCount 5 (behindReply rest s)) := by
  rw [exec_loadData h hreq hop, if_pos hlen]

variable (hlen : c.pkt.payload.length = askedBytes q)
include hlen

theorem loadData_poisoned (hfill : isFillRead s q = true) (hpoison : poisonedIn poison c.pkt.payload = true) :
    exec (.loadData poison) s = .next (settleCore (abortFill 5 (behindReply rest s))) := by
  rw [exec_loadData h hreq hop, if_neg (not_not.2 hlen), if_pos ⟨hfill, hpoison⟩]

variable (hgood : ¬(isFillRead s q = true ∧ poisonedIn poison c.pkt.payload = true))
include hgood

theorem loadData_plain (hplain : bit (field q.pkt.payload 0 8) 13 = false) :
    exec (.loadData poison) s = .next (takeOutcome tag 0 [(q.pkt.addr - o.remote, c.pkt.payload)] (behindReply rest s)) := by
  have hno : ¬asksLines s q = true := by simp [asksLines, hplain]
  rw [exec_loadData h hreq hop, if_neg (not_not.2 hlen), if_neg hgood, if_neg hno]

/-- A cached load to which no line has come before takes all of them, and so does the cache. -/
theorem loadData_cached (hcached : bit (field q.pkt.payload 0 8) 13 = true) (hother : s.fab.number ≠ some q.pkt.dst) (hfresh : o.data = []) :
    exec (.loadData poison) s = .next (takeOutcome tag 0
      (linesAt (fun i => q.pkt.addr - o.remote + 64 * i) o.len (askedBytes q) c.pkt.payload)
      (fillCache o.region q.pkt.addr c.pkt.payload (behindReply rest s))) := by
  have hlines : asksLines s q = true := by simp [asksLines, hcached, hother]
  rw [exec_loadData h hreq hop, if_neg (not_not.2 hlen), if_neg hgood, if_pos hlines, hfresh]
  simp

end

/-! ### ACK, ATOMIC_RESULT and PEG_GRANT (R331, R342, R371) -/

theorem exec_ack (errs : List ReadErr) {c : Carried} {rest : List Carried} {tag : Nat} {s : State} (h : Reply s 0x31 c rest tag) :
    exec (.ack errs) s
      = meeting errs (fun v => .next (leaveStation (takeOutcome tag (field c.pkt.payload 0 1) [] (behindReply rest v)))) s := by
  show meeting errs (fun v => leaving (ackStep v)) s = _
  refine meeting_of_noted fun u hu => ?_
  rw [ackStep, (h.noted hu).step]
  rfl

theorem exec_atomicResult {c : Carried} {rest : List Carried} {tag : Nat} {q : Req} {o : RemOp} {s : State} (h : Reply s 0x32 c rest tag)
    (hreq : reqOf s tag = some q) (hop : opOf s q.op = some o) :
    exec .atomicResult s = .next (takeOutcome tag (field c.pkt.payload 0 1) (if o.fetch then [(0, slice c.pkt.payload 8 8)] else [])
      (behindReply rest s)) := by
  have hsame : (reqOf (behindReply rest s) tag).bind (fun q => opOf (behindReply rest s) q.op) = some o := by
    rw [show reqOf (behindReply rest s) tag = some q from hreq]
    exact hop
  show execAtomicResult s = _
  rw [execAtomicResult, h.step]
  simp only [hsame]

/-- A grant releases what waits for it: a descriptor's packets, or a slot. -/
theorem exec_pegGrant {c : Carried} {rest : List Carried} {tag : Nat} {q : Req} {s : State} (h : Reply s 0x33 c rest tag)
    (hreq : reqOf s tag = some q) : exec .pegGrant s = .next (
      let b := c.pkt.payload
      if q.pkt.type ≠ 0x14 ∨ field b 0 2 ≠ field q.pkt.payload 0 2 then rmtCount 5 (behindReply rest s)
      else if q.col = true then pumpAll (slotGranted tag (field b 2 2) (field b 8 4) (field b 12 4) (behindReply rest s))
      else pumpAll (gotGrant (claimKey q) tag { gen := field b 4 2, off := field b 8 4, bytes := field b 12 4, sent := 0 } (behindReply rest s))) := by
  have hsame : reqOf (behindReply rest s) tag = some q := hreq
  show execPegGrant s = _
  rw [execPegGrant, h.step]
  simp only [hsame, Bool.or_eq_true, decide_eq_true_eq]

/-! ### Outcomes (R331, R336, R341) -/

section
variable {tag : Nat} {data : List (Nat × List Byte)} {q : Req} {s : State} (hreq : reqOf s tag = some q) (hcol : q.col = false)
include hreq hcol

/-- An outcome of a request that is no slot's: one that is not final has it wait, or ends it where its channel has ended. -/
theorem takeOutcome_eq (o : Nat) : takeOutcome tag o data s =
    if isFinal o = false then (if orderEnded s q = true then finish tag 9 [] s else waitAgain tag o s)
    else if o = 9 then endChannel q (finish tag 9 data s)
    else finish tag (if o = 5 then duplicateOutcome q else o) data s := by
  simp only [takeOutcome, hreq, hcol, Bool.not_eq_true', Bool.false_eq_true, if_false]

theorem takeOutcome_waits {o : Nat} (hwait : isFinal o = false) (hopen : orderEnded s q = false) :
    takeOutcome tag o data s = waitAgain tag o s := by
  rw [takeOutcome_eq hreq hcol, if_pos hwait, if_neg (by simp [hopen])]

theorem takeOutcome_ended {o : Nat} (hwait : isFinal o = false) (hended : orderEnded s q = true) :
    takeOutcome tag o data s = finish tag 9 [] s := by
  rw [takeOutcome_eq hreq hcol, if_pos hwait, if_pos hended]

theorem takeOutcome_ok : takeOutcome tag 0 data s = finish tag 0 data s := takeOutcome_eq hreq hcol 0

theorem takeOutcome_duplicate : takeOutcome tag 5 data s = finish tag (duplicateOutcome q) data s := takeOutcome_eq hreq hcol 5

theorem takeOutcome_orderFull : takeOutcome tag 9 data s = endChannel q (finish tag 9 data s) := takeOutcome_eq hreq hcol 9

end

/-! ### The statement -/

/-- Settles O52: a reply's step is its body on the request that it is for, and an outcome ends the request or has it wait by the cases of
`takeOutcome`. -/
theorem replies : Obligations.Replies := by
  unfold Obligations.Replies
  refine ⟨fun poison c rest tag q o s h hreq hop => ⟨fun hlen hgood hplain => loadData_plain h hreq hop hlen hgood hplain,
      fun hlen hfill hpoison => loadData_poisoned h hreq hop hlen hfill hpoison,
      fun hlen hgood hcached hother hfresh => loadData_cached h hreq hop hlen hgood hcached hother hfresh,
      fun hlen => loadData_wrongLength h hreq hop hlen⟩,
    fun errs c rest tag s h => exec_ack errs h, fun c rest tag q o s h hreq hop => exec_atomicResult h hreq hop,
    fun c rest tag q s h hreq => ⟨fun htype hpeg hcol => ?grants, fun htype hpeg hcol => ?slots, fun htype => ?stray⟩,
    fun type row c rest s hrow hhead htype => ?unmatched, fun tag data q s hreq hcol hopen => ?outcomes,
    fun tag o data q s hreq hcol hended ho => ?ended⟩
  case grants => rw [exec_pegGrant h hreq, if_neg (by simp [htype, hpeg]), if_neg (by simp [hcol]), behindReply]
  case slots => rw [exec_pegGrant h hreq, if_neg (by simp [htype, hpeg]), if_pos hcol, behindReply]
  case stray => rw [exec_pegGrant h hreq, if_pos (Or.inl htype), behindReply]
  case unmatched =>
    have hstep : ∃ body, exec row s = replyStep type body s := by
      simp only [List.mem_cons, Prod.mk.injEq, List.not_mem_nil, or_false] at hrow
      obtain ⟨rfl, rfl⟩ | ⟨rfl, rfl⟩ | ⟨rfl, rfl⟩ := hrow
      · exact ⟨_, show execLoadData [] s = _ from rfl⟩
      · exact ⟨_, show execAtomicResult s = _ from rfl⟩
      · exact ⟨_, show execPegGrant s = _ from rfl⟩
    obtain ⟨body, hbody⟩ := hstep
    rw [hbody]
    exact ⟨replyStep_malformed hhead htype, replyStep_otherJob hhead htype, replyStep_noRequest hhead htype⟩
  case outcomes =>
    have hwaits : ∀ o, isFinal o = false → takeOutcome tag o data s = waitAgain tag o s :=
      fun o ho => takeOutcome_waits hreq hcol ho hopen
    have hdelay : takeOutcome tag 8 data s = takeOutcome tag 7 data s := (hwaits 8 rfl).trans (hwaits 7 rfl).symm
    exact ⟨takeOutcome_ok hreq hcol, takeOutcome_duplicate hreq hcol, hwaits 6 rfl, hwaits 10 rfl, hwaits 7 rfl, hdelay,
      takeOutcome_orderFull hreq hcol⟩
  case ended =>
    refine takeOutcome_ended hreq hcol ?_ hended
    simp only [List.mem_cons, List.not_mem_nil, or_false] at ho
    obtain rfl | rfl | rfl | rfl := ho <;> rfl

end Sys2Proof.Machine

/-! SUPPORT. Proof of the statement about die-to-die links and the meshes (O58). -/

namespace Sys2Proof.Machine

open Sys2Proof

/-! ### Lanes and widths (R231 to R233) -/

theorem mem_addLanes {new old : List Nat} {x : Nat} : x ∈ addLanes new old ↔ x < 272 ∧ (x ∈ old ∨ x ∈ new) := by
  simp [addLanes]

theorem addLanes_ascending (new old : List Nat) : (addLanes new old).Pairwise (· < ·) :=
  List.pairwise_lt_range.filter _

theorem widthCode_zero {n : Nat} : widthCode n = 0 ↔ n ≤ 16 := by
  unfold widthCode
  split_ifs <;> simp <;> omega

theorem widthCode_four {n : Nat} : widthCode n = 4 ↔ 208 < n := by
  unfold widthCode
  split_ifs <;> simp <;> omega

/-- More failed lanes never make a direction wider. -/
theorem widthCode_step (n : Nat) : widthCode n ≤ widthCode (n + 1) := by
  unfold widthCode
  split_ifs <;> omega

section
variable (k : Nat) (d : D2dDir) (s : State)

/-- Direction `k` becomes `d`. -/
def setDir : State := s.modRing fun g => { g with dir := g.dir.set {} k d }

theorem d2dDir_setDir (j : Nat) : d2dDir (setDir k d s) j = if j = k then d else d2dDir s j := Table.get_set ..

end

/-- A direction in which `new` lanes have failed: it retrains without them, or above 208 failed lanes falls silent. -/
def withFailed (new : List Nat) (d : D2dDir) : D2dDir :=
  if 208 < (addLanes new d.failed).length then { d with failed := addLanes new d.failed, silent := true, retraining := false, width := 4 }
  else { d with failed := addLanes new d.failed, fresh := addLanes new d.fresh, retraining := true }

section
variable {link : Fin 4} {turn : Turn} {lanes : List Nat} {s : State}

/-- Lanes that have not failed before. -/
def newLanes (lanes : List Nat) (d : D2dDir) : List Nat := lanes.filter fun x => !d.failed.contains x

theorem lanesFail_idle (h : s.ring.down.get false link = true ∨ (d2dDir s (dirKey link turn)).silent = true
      ∨ newLanes lanes (d2dDir s (dirKey link turn)) = []) : lanesFail link turn lanes s = s := by
  refine if_pos ?_
  rw [Bool.or_eq_true, Bool.or_eq_true, List.isEmpty_iff, or_assoc]
  exact h

variable (hup : s.ring.down.get false link = false) (hsound : (d2dDir s (dirKey link turn)).silent = false)
  (hnew : newLanes lanes (d2dDir s (dirKey link turn)) ≠ [])
include hup hsound hnew

/-- New lanes that fail change their direction; with 16 failed ones the spares have gone, which is told. -/
theorem lanesFail_eq : lanesFail link turn lanes s =
    let k := dirKey link turn
    let d := d2dDir s k
    let u := setDir k (withFailed (newLanes lanes d) d) s
    if 16 ≤ (addLanes (newLanes lanes d) d.failed).length then spareExhausted 4 (dirRegion k) link (k % 2) u else u := by
  refine if_neg ?_
  rw [Bool.or_eq_true, Bool.or_eq_true, List.isEmpty_iff, or_assoc]
  exact not_or.2 ⟨by simp [hup], not_or.2 ⟨by simp [hsound], hnew⟩⟩

/-- While spares are left nothing else happens than the retrain. -/
theorem lanesFail_spares (hfew : (addLanes (newLanes lanes (d2dDir s (dirKey link turn))) (d2dDir s (dirKey link turn)).failed).length < 16) :
    lanesFail link turn lanes s = setDir (dirKey link turn) (let d := d2dDir s (dirKey link turn)
      { d with failed := addLanes (newLanes lanes d) d.failed, fresh := addLanes (newLanes lanes d) d.fresh, retraining := true }) s := by
  rw [lanesFail_eq hup hsound hnew]
  dsimp only
  rw [if_neg (by omega), withFailed, if_neg (by omega)]

theorem d2dDir_lanesFail (j : Nat) : d2dDir (lanesFail link turn lanes s) j = if j = dirKey link turn then
    withFailed (newLanes lanes (d2dDir s (dirKey link turn))) (d2dDir s (dirKey link turn)) else d2dDir s j := by
  have hring : (lanesFail link turn lanes s).ring
      = (setDir (dirKey link turn) (withFailed (newLanes lanes (d2dDir s (dirKey link turn))) (d2dDir s (dirKey link turn))) s).ring := by
    rw [lanesFail_eq hup hsound hnew]
    dsimp only
    split
    · exact spareExhausted_ring _ _ _ _ _
    · rfl
  rw [← d2dDir_setDir]
  exact congrArg (fun g : Ring => g.dir.get {} j) hring

end

/-! ### Flits in order (R229) -/

section
variable (d : D2dDir) (n m : Nat) (b : List Byte)

theorem D2dDir.receive_next (h : n = d.rxNext) : d.receive n true = { d with rxNext := d.rxNext + 1, asked := none } := by
  simp [D2dDir.receive, h]

theorem D2dDir.receive_old (h : n < d.rxNext) : d.receive n true = d := by
  simp [D2dDir.receive, h, h.ne]

/-- A damaged flit, or one ahead of the one in turn, asks for that one. -/
theorem D2dDir.receive_asks {good : Bool} (h : good = false ∨ d.rxNext < n) : d.receive n good = { d with asked := some d.rxNext } := by
  rcases h with rfl | h
  · simp [D2dDir.receive]
  · simp [D2dDir.receive, h.ne', h.le]

theorem D2dDir.sends_unasked (replay : Bool) (h : d.asked = none) : d.sends replay = d.txNext := by simp [D2dDir.sends, h]

theorem D2dDir.sends_asked {a : Nat} (h : d.asked = some a) :
    d.sends true = a ∧ d.sends false = if a + 128 ≤ d.txNew then a else d.txNext := by
  simp [D2dDir.sends, h]

theorem D2dDir.sent_txNext : (d.sent n b).txNext = n + 1 := by
  unfold D2dDir.sent
  split <;> rfl

/-- Sending a flit again keeps what the sender keeps. -/
theorem D2dDir.sent_again (h : n < d.txNew) : d.sent n b = { d with txNext := n + 1 } := if_pos h

theorem D2dDir.sent_new : d.sent d.txNew b =
    { d with txNext := d.txNew + 1, txNew := d.txNew + 1, kept := (d.kept ++ [b]).drop (d.kept.length - 127) } := if_neg (lt_irrefl _)

/-- A flit sent for the first time joins the 128 that the sender keeps, from which only the oldest falls out. -/
theorem D2dDir.sent_keeps (hfew : d.kept.length ≤ 128) :
    let e := d.sent d.txNew b
    e.txNew = d.txNew + 1 ∧ e.kept.length ≤ 128 ∧ e.again d.txNew = some b
      ∧ ∀ c, d.again m = some c → d.txNew < m + 128 → e.again m = some c := by
  rw [D2dDir.sent_new]
  refine ⟨rfl, ?_, ?_, fun c hc hrecent => ?_⟩
  · simp only [List.length_drop, List.length_append, List.length_singleton]
    omega
  · have hlast : d.kept.length - 127 + (d.txNew + (d.kept.length + 1 - (d.kept.length - 127)) - (d.txNew + 1)) = d.kept.length := by omega
    simp only [D2dDir.again, List.length_drop, List.length_append, List.length_singleton, List.getElem?_drop]
    rw [if_pos (by omega), hlast]
    simp
  · unfold D2dDir.again at hc
    split at hc
    · next hin =>
      have hplace : d.kept.length - 127 + (m + (d.kept.length + 1 - (d.kept.length - 127)) - (d.txNew + 1)) = m + d.kept.length - d.txNew := by
        omega
      simp only [D2dDir.again, List.length_drop, List.length_append, List.length_singleton, List.getElem?_drop]
      rw [if_pos (by omega), hplace, List.getElem?_append_left (by omega), hc]
    · cases hc

end

/-! ### The CRC of a flit (R229; log 134) -/

theorem slice_append_left {a b : List Byte} {n : Nat} (h : a.length = n) : slice (a ++ b) 0 n = a := by
  subst h
  apply List.ext_getElem
  · simp [slice]
  · intro i hi h
    simp [slice, List.getElem?_append_left h, h]

theorem slice_append_right {a b : List Byte} {i n : Nat} (ha : a.length = i) (hb : b.length = n) : slice (a ++ b) i n = b := by
  subst ha hb
  apply List.ext_getElem <;> simp +contextual [slice]

theorem crcByte_lt (n : Nat) : ∀ c < 2 ^ 32, crcByte n c < 2 ^ 32 := by
  induction n with
  | zero => exact fun c h => h
  | succ n ih =>
    intro c h
    refine ih _ ?_
    split
    · exact Nat.xor_lt_two_pow (by omega) (by norm_num)
    · omega

theorem crc32_lt (bs : List Byte) : crc32 bs < 256 ^ 4 := by
  have hfold : ∀ c < 2 ^ 32, bs.foldl (fun c b => crcByte 8 (c ^^^ b.toNat)) c < 2 ^ 32 := by
    induction bs with
    | nil => exact fun c h => h
    | cons b bs ih => exact fun c h => ih _ (crcByte_lt 8 _ (Nat.xor_lt_two_pow h (b.isLt.trans (by norm_num))))
  have hout : crc32 bs < 2 ^ 32 := Nat.xor_lt_two_pow (hfold _ (by norm_num)) (by norm_num)
  exact hout.trans_eq (by norm_num)

theorem zip_zeros (bs : List Byte) : (bs.zip (zeros bs.length)).map (fun (a, b) => a ^^^ b) = bs := by
  apply List.ext_getElem <;> simp [zeros]

theorem padTo_nil (n : Nat) : padTo n [] = zeros n := by
  apply List.ext_getElem <;> simp [padTo, slice, zeros]

/-- With no bit turned over a flit arrives as it was sent. -/
theorem damaged_none {flit : List Byte} (h : flit.length = 260) : damaged flit [] = flit := by
  rw [damaged, padTo_nil, ← h, zip_zeros]

section
variable (bs : List Byte)

@[simp] theorem padTo_length (n : Nat) : (padTo n bs).length = n := by simp [padTo, slice]

theorem damaged_d2dFlit_none : damaged (d2dFlit bs) [] = d2dFlit bs := damaged_none (by simp [d2dFlit, leBytes_length])

theorem d2dGood_d2dFlit : d2dGood (d2dFlit bs) = true := by
  rw [d2dGood, beq_iff_eq, d2dFlit, slice_append_left (padTo_length bs 256), field,
    slice_append_right (padTo_length bs 256) (leBytes_length ..), leNat_leBytes 4 _ (crc32_lt _)]

theorem slice_d2dFlit (h : bs.length = 256) : slice (d2dFlit bs) 0 256 = bs := by
  have hwhole : padTo 256 bs = bs := h ▸ slice_all bs
  rw [d2dFlit, hwhole, slice_append_left h]

end

/-! ### What a flit carries (R15, R294; log 151) -/

/-- Direction `k` has sent flit `n` with the bytes given. -/
def noteSent (k n : Nat) (bs : List Byte) (s : State) : State :=
  s.modRing fun g => { g with dir := g.dir.mod {} k fun d => d.sent n bs }

section
variable {k n : Nat} {bytes : List Byte} {s : State}

theorem sendD2d_again {bs : List Byte} (h : (d2dDir s k).again n = some bs) : sendD2d k n bytes s = (bs, noteSent k n bs s) := by
  simp only [sendD2d, h]
  rfl

theorem sendD2d_other (hnew : (d2dDir s k).again n = none) (hnone : nextCrossing s k = none) :
    sendD2d k n bytes s = (bytes, noteSent k n bytes s) := by
  simp only [sendD2d, hnew, hnone]
  rfl

theorem sendD2d_crossing {x : Crossing} (hnew : (d2dDir s k).again n = none) (hx : nextCrossing s k = some x) :
    sendD2d k n bytes s = (slice x.held.pkt.bytes (244 * x.sent) 244, noteSent k n (slice x.held.pkt.bytes (244 * x.sent) 244) (sendUnit k n x s)) := by
  simp only [sendD2d, hnew, hx]
  rfl

/-- The last unit of a packet takes it out of its pool and onto the wire. -/
theorem sendUnit_last {x : Crossing} (hlast : hopUnits x.held ≤ x.sent + 1) (hfree : x.held.units = 0) :
    (sendUnit k n x s).fab = { s.fab with cross := s.fab.cross.erase x, wire := s.fab.wire ++ [(k, n, { x with sent := 0 })] } := by
  simp [sendUnit, returnCredit, hlast, hfree]

theorem takeUnits_wire {x : Crossing} (hwire : s.fab.wire = [(k, n, x)]) : takeUnits k n s
    = enqueue x.key { x.held with region := dirTarget k, via := k + 1, units := 0 } { s with fab := { s.fab with wire := [] } } := by
  simp only [takeUnits, hwire, beq_self_eq_true, Bool.and_self, List.filter_cons_of_pos, List.filter_nil, List.foldl_cons, List.foldl_nil, crossed]
  congr 1
  simp [State.modFab, hwire]

end

/-! ### A flit arrives (R229) -/

/-- Flit `n` arrives in direction `k`, undamaged or not. -/
def noteReceived (k n : Nat) (good : Bool) (s : State) : State :=
  s.modRing fun g => { g with dir := g.dir.mod {} k fun d => d.receive n good }

section
variable {link : Fin 4} {turn : Turn} {replay : Bool} {bytes damage : List Byte} {s : State}

theorem exec_d2dFlitReceive : exec (.d2dFlitReceive link turn replay bytes damage) s =
    let k := dirKey link turn
    let d := d2dDir s k
    let x := sendD2d k (d.sends replay) bytes s
    let good := d2dGood (damaged (d2dFlit x.1) damage)
    let u := noteReceived k (d.sends replay) good x.2
    if s.ring.down.get false link = true ∨ d.silent = true ∨ d.retraining = true then .next s
    else if good = true ∧ d.sends replay = d.rxNext then .next (takeUnits k (d.sends replay) u)
    else .next u := by
  dsimp only
  show execD2dFlitReceive link turn replay bytes damage s = _
  unfold execD2dFlitReceive
  simp only [Bool.or_eq_true, Bool.and_eq_true, beq_iff_eq, or_assoc]
  split
  · rfl
  · split <;> rfl

end

/-! ### A link that falls silent (R462, R464) -/

section
variable {link : Fin 4} {s : State}

theorem exec_linkWatchdogExpire : exec (.linkWatchdogExpire link) s =
    let u := s.modRing fun g => { g with down := g.down.set false link true }
    let v := [link.val, (link.val + 1) % 4].foldl (fun u r => u.modRegion r fun x => { x with cause := 4 })
      (recordFatal { level := 3, cls := 3, code := 0x403, part := link.val } u)
    if s.ring.down.get false link = true ∨ linkSilent s link = false then .next s
    else if regionUp s link = true ∧ regionUp s ((link.val + 1) % 4) = true then .next (tellLoss none 4 link (applyLoss v))
    else .next (applyLoss u) := by
  dsimp only
  show execLinkWatchdogExpire link s = _
  unfold execLinkWatchdogExpire
  simp only [Bool.or_eq_true, Bool.not_eq_true']
  split
  · rfl
  · simp only [← Bool.and_eq_true]
    rfl

end

/-! ### The mesh (R22, R23, R454) -/

section
variable {r : Fin 4} {stop : Fin 64} {side : MeshSide} {good : Bool} {s : State}

theorem exec_meshFlitReceive : exec (.meshFlitReceive r stop side good) s =
    if regionRuns s r = true ∧ (neighbour stop side).isSome = true then
      if good = true then .next (s.modRing fun g => { g with meshFails := g.meshFails.set 0 (meshKey r stop side) 0 })
      else .next (record { level := 2, cls := 1, code := 0x308, region := some r.val }
        (s.modRing fun g => { g with meshFails := g.meshFails.mod 0 (meshKey r stop side) (· + 1) }))
    else .next s := by
  show execMeshFlitReceive r stop side good s = _
  simp only [execMeshFlitReceive, Bool.and_eq_true]

/-- A mesh link's 9 failing receipts lose its region; fewer do nothing. -/
theorem exec_meshDown (hruns : regionRuns s r = true) : exec (.meshDown r) s =
    if ∃ e ∈ s.ring.meshFails, e.1 % 4 = r.val ∧ 9 ≤ e.2 then
      .next (loseRegion r 2 (s.modRing fun g => { g with meshFails := g.meshFails.keep fun k _ => decide (k % 4 ≠ r.val) }))
    else .next s := by
  show execMeshDown r s = _
  simp only [execMeshDown, hruns, meshIsDown, Bool.true_and, List.any_eq_true, Bool.and_eq_true, decide_eq_true_eq]

end

/-- Hops between two stops: along x, then along y. -/
def meshHops (k t : Nat) : Nat := (stopX k - stopX t) + (stopX t - stopX k) + (stopY k - stopY t) + (stopY t - stopY k)

section
variable {k t : Nat}

theorem meshHops_zero (h : meshHops k t = 0) : k = t := by
  simp only [meshHops, stopX, stopY] at h
  omega

/-- A hop goes along x until x is that of the target, then along y. -/
theorem meshNext_cases (h : k ≠ t) :
    (stopX k < stopX t ∧ stopX (meshNext k t) = stopX k + 1 ∧ stopY (meshNext k t) = stopY k)
    ∨ (stopX t < stopX k ∧ stopX (meshNext k t) + 1 = stopX k ∧ stopY (meshNext k t) = stopY k)
    ∨ (stopX k = stopX t ∧ stopX (meshNext k t) = stopX k ∧ stopY k < stopY t ∧ stopY (meshNext k t) = stopY k + 1)
    ∨ (stopX k = stopX t ∧ stopX (meshNext k t) = stopX k ∧ stopY t < stopY k ∧ stopY (meshNext k t) + 1 = stopY k) := by
  have hdiff : ¬(stopX k = stopX t ∧ stopY k = stopY t) := by
    simp only [stopX, stopY]
    omega
  unfold meshNext
  split
  · next hx =>
    refine Or.inl ⟨hx, ?_⟩
    simp only [stopX, stopY] at hx ⊢
    omega
  · split
    · next hx =>
      refine Or.inr (Or.inl ⟨hx, ?_⟩)
      simp only [stopX, stopY] at hx ⊢
      omega
    · have hx : stopX k = stopX t := by omega
      split
      · next hy =>
        refine Or.inr (Or.inr (Or.inl ⟨hx, ?_, hy, ?_⟩)) <;> simp only [stopX, stopY] <;> omega
      · split
        · next hy =>
          refine Or.inr (Or.inr (Or.inr ⟨hx, ?_, hy, ?_⟩)) <;> simp only [stopX, stopY] at hy ⊢ <;> omega
        · omega

/-- It takes a packet one stop nearer. -/
theorem meshNext_nearer (h : k ≠ t) : meshHops k t = meshHops (meshNext k t) t + 1 := by
  unfold meshHops
  rcases meshNext_cases h with ⟨hlt, hx, hy⟩ | ⟨hlt, hx, hy⟩ | ⟨heq, hx, hlt, hy⟩ | ⟨heq, hx, hlt, hy⟩ <;> omega

theorem meshNext_turns (h : k ≠ t) : (stopY (meshNext k t) = stopY k ∨ stopX (meshNext k t) = stopX t)
    ∧ (stopX k = stopX t → stopX (meshNext k t) = stopX t) := by
  rcases meshNext_cases h with ⟨hlt, hx, hy⟩ | ⟨hlt, hx, hy⟩ | ⟨heq, hx, hlt, hy⟩ | ⟨heq, hx, hlt, hy⟩ <;> omega

theorem meshPath_self (n : Nat) : meshPath n t t = [] := by
  cases n with
  | zero => rfl
  | succ n => simp [meshPath]

theorem meshPath_step (n : Nat) (h : k ≠ t) : meshPath (n + 1) k t = meshNext k t :: meshPath n (meshNext k t) t := if_neg h

/-- With the hops that it needs, a packet's way is as long as that. -/
theorem meshPath_length (n : Nat) : ∀ k, meshHops k t ≤ n → (meshPath n k t).length = meshHops k t := by
  induction n with
  | zero => exact fun k h => (Nat.le_zero.1 h).symm
  | succ n ih =>
    intro k h
    by_cases hk : k = t
    · subst hk
      simp [meshPath_self, meshHops]
    · have hnear := meshNext_nearer hk
      rw [meshPath_step n hk, List.length_cons, ih _ (by omega), hnear]

/-- And it ends at its target. -/
theorem meshPath_last (n : Nat) : ∀ k, meshHops k t ≤ n → k ≠ t → (meshPath n k t).getLast? = some t := by
  induction n with
  | zero => exact fun k h hk => absurd (meshHops_zero (Nat.le_zero.1 h)) hk
  | succ n ih =>
    intro k h hk
    have hnear := meshNext_nearer hk
    rw [meshPath_step n hk, List.getLast?_cons]
    by_cases hnext : meshNext k t = t
    · rw [hnext, meshPath_self]
      rfl
    · rw [ih _ (by omega) hnext]
      rfl

theorem meshPath_x (n : Nat) : ∀ k, stopX k = stopX t → ∀ x ∈ meshPath n k t, stopX x = stopX t := by
  induction n with
  | zero => exact fun k _ x hx => absurd hx List.not_mem_nil
  | succ n ih =>
    intro k hk x hx
    by_cases hkt : k = t
    · simp [hkt, meshPath_self] at hx
    · rw [meshPath_step n hkt, List.mem_cons] at hx
      have hnext := (meshNext_turns hkt).2 hk
      rcases hx with rfl | hx
      · exact hnext
      · exact ih _ hnext x hx

/-- Every stop on the way lies in the row of the first or in the column of the last. -/
theorem meshPath_turns (n : Nat) : ∀ k, ∀ x ∈ meshPath n k t, stopY x = stopY k ∨ stopX x = stopX t := by
  induction n with
  | zero => exact fun k x hx => absurd hx List.not_mem_nil
  | succ n ih =>
    intro k x hx
    by_cases hkt : k = t
    · simp [hkt, meshPath_self] at hx
    · rw [meshPath_step n hkt, List.mem_cons] at hx
      rcases hx with rfl | hx
      · exact (meshNext_turns hkt).1
      · rcases (meshNext_turns hkt).1 with hrow | hcol
        · rw [← hrow]
          exact ih _ x hx
        · exact Or.inr (meshPath_x n _ hcol x hx)

end

/-- 14 hops lie at most between two of a region's 64 stops. -/
theorem meshHops_le (k t : Fin 64) : meshHops k t ≤ 15 := by
  have hk := k.isLt
  have ht := t.isLt
  simp only [meshHops, stopX, stopY]
  omega

/-! ### The statement -/

/-- Settles O58: lanes, flits, watchdog and meshes by the equation of each command, and a packet's way by induction over its hops. -/
theorem dieRing : Obligations.DieRing := by
  unfold Obligations.DieRing
  refine ⟨fun link turn lanes s => ?lanes, fun new old => ⟨fun x => mem_addLanes, addLanes_ascending new old⟩, fun link turn s => ?retrained,
    fun n => ⟨widthCode_zero, widthCode_four, widthCode_step n⟩, fun link turn replay bytes damage s => ?arrives,
    fun k n bytes s => ⟨fun bs h => sendD2d_again h, fun hnew hnone => sendD2d_other hnew hnone, fun x hnew hx => sendD2d_crossing hnew hx⟩,
    fun k n x s => ⟨fun hlast hfree => sendUnit_last hlast hfree, fun hwire => takeUnits_wire hwire⟩, fun d n m good b c => ?order,
    fun bs => ?crc, fun link s hup => ?silent, fun link s hdown => ?down, fun r stop side good s => ?meshFlit, fun k t => ?way,
    fun r s hruns => ?meshDown⟩
  case lanes =>
    intro k d new failed
    refine ⟨fun h => congrArg Host.Outcome.next (lanesFail_idle h), fun hup hsound hnew => ⟨fun hfew => ?_, _, rfl, ?_, fun j hj => ?_⟩⟩
    · exact congrArg Host.Outcome.next (lanesFail_spares hup hsound hnew hfew)
    · rw [d2dDir_lanesFail hup hsound hnew, if_pos rfl]
      rfl
    · rw [d2dDir_lanesFail hup hsound hnew, if_neg hj]
  case retrained =>
    exact ⟨fun h => if_pos h, fun h => if_neg (by simp [h])⟩
  case arrives =>
    intro k d n x good u
    rw [exec_d2dFlitReceive]
    refine ⟨fun hup hsound htrained => ?_, fun h => if_pos h⟩
    have hserves : ¬(s.ring.down.get false link = true ∨ d.silent = true ∨ d.retraining = true) := by simp [hup, hsound, htrained]
    refine ⟨fun hgood hn => (if_neg hserves).trans (if_pos ⟨hgood, hn⟩), fun h => (if_neg hserves).trans (if_neg ?_)⟩
    rintro ⟨hgood, hn⟩
    rcases h with h | h
    · exact Bool.false_ne_true (h.symm.trans hgood)
    · exact h hn
  case order =>
    refine ⟨fun hgood hn => hgood ▸ d.receive_next n hn, fun hgood hn => hgood ▸ d.receive_old n hn, fun h => d.receive_asks n h,
      fun replay h => d.sends_unasked replay h, fun a h => d.sends_asked h, d.sent_txNext n b, fun h => d.sent_again n b h, fun hfew _ => ?_⟩
    obtain ⟨hnew, hlen, hagain, hkept⟩ := d.sent_keeps m b hfew
    exact ⟨hnew, hlen, hagain, hkept c⟩
  case crc =>
    rw [damaged_d2dFlit_none]
    exact ⟨d2dGood_d2dFlit bs, slice_d2dFlit bs⟩
  case silent =>
    intro u v
    rw [exec_linkWatchdogExpire]
    refine ⟨fun hsounds => if_pos (Or.inr hsounds), fun hsilent h1 h2 => ?_, fun hsilent hlost => ?_⟩
    · exact (if_neg (by simp [hup, hsilent])).trans (if_pos ⟨h1, h2⟩)
    · refine (if_neg (by simp [hup, hsilent])).trans (if_neg ?_)
      rcases hlost with h | h <;> simp [h]
  case down =>
    rw [exec_linkWatchdogExpire]
    exact if_pos (Or.inl hdown)
  case meshFlit =>
    intro k
    refine ⟨fun hruns hside => ?_, fun hidle => ?_⟩
    · have hserves : regionRuns s r = true ∧ (neighbour stop side).isSome = true := ⟨hruns, hside⟩
      exact ⟨exec_meshFlitReceive.trans ((if_pos hserves).trans (if_pos rfl)),
        exec_meshFlitReceive.trans ((if_pos hserves).trans (if_neg Bool.false_ne_true))⟩
    · rw [exec_meshFlitReceive, if_neg]
      rcases hidle with h | h <;> simp [h]
  case way => exact ⟨meshPath_length 15 k (meshHops_le k t), fun h => meshPath_last 15 k (meshHops_le k t) (Fin.val_ne_of_ne h), meshPath_turns 15 k⟩
  case meshDown =>
    rw [exec_meshDown hruns]
    refine ⟨fun hdown => if_pos hdown, fun hfew => if_neg ?_⟩
    rintro ⟨e, he, hr, h9⟩
    have hlt := hfew e he hr
    omega

end Sys2Proof.Machine

/-! SUPPORT. What a read of an HBM line depends on, and what each operation of the controllers makes of it (R197 to R217). -/

namespace Sys2Proof.Machine

open Sys2Proof

/-! ### Bytes of a line -/

/-- A store elsewhere leaves a range of bytes. -/
theorem readN_writeN_apart (m : Mem) {a b n : Nat} {bs : List Byte} (h : a + n ≤ b ∨ b + bs.length ≤ a) :
    (m.writeN b bs).readN a n = m.readN a n := by
  refine List.map_congr_left fun i hi => Mem.read_writeN_outside bs m b (a + i) ?_
  have hlt := List.mem_range.1 hi
  omega

@[simp] theorem mergeBytes_length (mask : Nat) (new old : List Byte) : (mergeBytes mask new old).length = 64 := by simp [mergeBytes]

theorem mergeBytes_getD (mask : Nat) (new old : List Byte) {j : Nat} (h : j < 64) :
    (mergeBytes mask new old).getD j 0 = if mask.testBit j then new.getD j 0 else old.getD j 0 := by
  simp [mergeBytes, h]

theorem padTo_self {bs : List Byte} {n : Nat} (h : bs.length = n) : padTo n bs = bs := h ▸ slice_all bs

/-- A full mask leaves nothing of the line before. -/
theorem mergeBytes_full (new old : List Byte) : mergeBytes fullMask new old = padTo 64 new := by
  unfold mergeBytes padTo slice
  refine List.map_congr_left fun j hj => ?_
  have hbit : fullMask.testBit j = true := by
    rw [fullMask, Nat.testBit_two_pow_sub_one]
    exact decide_eq_true (List.mem_range.1 hj)
  rw [if_pos hbit, Nat.zero_add]

/-- Bytes merged under the same mask once more. -/
theorem mergeBytes_again (mask : Nat) (new mid old : List Byte) : mergeBytes mask (mergeBytes mask new mid) old = mergeBytes mask new old := by
  refine List.map_congr_left fun j hj => ?_
  rw [mergeBytes_getD mask new mid (List.mem_range.1 hj)]
  split <;> rfl

/-- Two writes merged into one entry deliver the later over the earlier. -/
theorem mergeBytes_or (first mask : Nat) (new mid old : List Byte) :
    mergeBytes (first ||| mask) (mergeBytes mask new mid) old = mergeBytes mask new (mergeBytes first mid old) := by
  refine List.map_congr_left fun j hj => ?_
  have hlt := List.mem_range.1 hj
  rw [mergeBytes_getD mask new mid hlt, mergeBytes_getD first mid old hlt, Nat.testBit_or]
  cases mask.testBit j <;> simp

/-! ### The state of one line -/

/-- All that a read of a physical line depends on: its channel has failed, its code is known to fail, its marker, its buffer entry and its bytes
in the DRAM. -/
structure LineState where
  failed : Bool
  bad : Nat
  poison : Bool
  entry : Option WcEntry
  dram : List Byte

/-- The entry of a buffer that holds line `l`. -/
def entryOf (l : Nat) (es : List WcEntry) : Option WcEntry := es.find? fun e => e.line == l

def lineState (s : State) (l : Nat) : LineState :=
  { failed := chanFailed s (lineChannel l), bad := s.hbm.bad.get 0 l, poison := s.hbm.poison.get false l,
    entry := entryOf l (wcbOf s (lineChannel l)), dram := dramLine s l }

/-- The bytes of the line with what the buffer holds for it (R209). -/
def LineState.merged (x : LineState) : List Byte := x.entry.elim x.dram fun e => mergeBytes e.mask e.data x.dram

/-- What a clean read delivers (R199, R217). -/
def LineState.delivered (x : LineState) : List Byte := if x.failed = true ∨ x.bad ≠ 0 ∨ x.poison = true then poisonBytes else x.merged

/-- The line holds `bs` in the DRAM, with a good code and no marker. -/
def LineState.stored (x : LineState) (bs : List Byte) : LineState := { x with bad := 0, poison := false, dram := bs }

/-- The line with the buffer entry `o`. -/
def LineState.holding (x : LineState) (o : Option WcEntry) : LineState := { x with entry := o }

theorem delivered_readable {x : LineState} (hfailed : x.failed = false) (hbad : x.bad = 0) (hpoison : x.poison = false) :
    x.delivered = x.merged := if_neg (by simp [hfailed, hbad, hpoison])

theorem delivered_holding {x : LineState} (hfailed : x.failed = false) (hbad : x.bad = 0) (hpoison : x.poison = false) (e : WcEntry) :
    (x.holding (some e)).delivered = mergeBytes e.mask e.data x.dram := delivered_readable hfailed hbad hpoison

theorem delivered_stored {x : LineState} (hfailed : x.failed = false) (bs : List Byte) : ((x.holding none).stored bs).delivered = bs :=
  delivered_readable hfailed rfl rfl

theorem mergedLine_eq (s : State) (l : Nat) : mergedLine s l = (lineState s l).merged := by
  unfold mergedLine LineState.merged lineState entryOf
  dsimp only
  cases (wcbOf s (lineChannel l)).find? fun e => e.line == l <;> rfl

theorem merged_length (s : State) (l : Nat) : (lineState s l).merged.length = 64 := by
  unfold LineState.merged
  cases (lineState s l).entry
  · exact Mem.readN_length _ _ _
  · exact mergeBytes_length _ _ _

/-- Lines are read in HBM alone. -/
theorem lineState_congr {s t : State} (h : t.hbm = s.hbm) (l : Nat) : lineState t l = lineState s l := by
  simp only [lineState, chanFailed, wcbOf, dramLine, h]

@[simp] theorem lineState_record (r : Record) (s : State) (l : Nat) : lineState (record r s) l = lineState s l :=
  lineState_congr (record_hbm r s) l

/-! ### Entries of a buffer -/

section
variable {es : List WcEntry} {line l : Nat}

theorem entryOf_none : entryOf l es = none ↔ ∀ e ∈ es, e.line ≠ l := by simp [entryOf]

theorem entryOf_cons_same {e : WcEntry} (h : e.line = l) : entryOf l (e :: es) = some e := by simp [entryOf, h]

theorem entryOf_cons_other {e : WcEntry} (h : e.line ≠ l) : entryOf l (e :: es) = entryOf l es := by simp [entryOf, h]

theorem entryOf_without (es : List WcEntry) : entryOf l (es.filter fun e => e.line != line) = if l = line then none else entryOf l es := by
  split
  · next h =>
    rw [h, entryOf_none]
    simp
  · next h =>
    rw [entryOf, List.find?_filter, entryOf]
    congr 1
    funext e
    by_cases he : e.line = l <;> simp [he, h]

/-- The last of a buffer that holds each line once: its line is found there, and every other line before it. -/
theorem entryOf_concat {old : WcEntry} (honce : ((es ++ [old]).map fun e => e.line).Nodup) :
    entryOf l (es ++ [old]) = if l = old.line then some old else entryOf l es := by
  rw [List.map_append, List.nodup_append] at honce
  obtain ⟨-, -, hapart⟩ := honce
  rw [entryOf, List.find?_append]
  split
  · next h =>
    have hnone : entryOf l es = none := entryOf_none.2 fun e he heq => hapart _ (List.mem_map_of_mem he) _ (List.mem_singleton.2 rfl) (heq.trans h)
    rw [show es.find? (fun e => e.line == l) = none from hnone]
    simp [h]
  · next h => simp [entryOf, Ne.symm h]

theorem entryOf_last_gone {old : WcEntry} (honce : ((es ++ [old]).map fun e => e.line).Nodup) : entryOf old.line es = none := by
  rw [List.map_append, List.nodup_append] at honce
  obtain ⟨-, -, hapart⟩ := honce
  exact entryOf_none.2 fun e he heq => hapart _ (List.mem_map_of_mem he) _ (List.mem_singleton.2 rfl) heq

end

/-! ### Stores, and moves of a buffer -/

/-- Only lines and buffers may differ: bytes, markers, codes and entries. -/
def LinesOnly (s t : State) : Prop :=
  t = s.modHbm fun h => { h with dram := t.hbm.dram, poison := t.hbm.poison, bad := t.hbm.bad, wcb := t.hbm.wcb }

section
variable {s t u : State}

theorem LinesOnly.refl (s : State) : LinesOnly s s := rfl

theorem LinesOnly.trans (h : LinesOnly s t) (k : LinesOnly t u) : LinesOnly s u := by
  unfold LinesOnly at h k ⊢
  rw [k, h]
  rfl

theorem LinesOnly.frame (h : LinesOnly s t) : t = { s with hbm := t.hbm } := by
  unfold LinesOnly at h
  rw [h]
  rfl

theorem LinesOnly.pmap (h : LinesOnly s t) : t.hbm.pmap = s.hbm.pmap := by
  unfold LinesOnly at h
  rw [h]
  rfl

theorem LinesOnly.meet (h : LinesOnly s t) : t.hbm.meet = s.hbm.meet := by
  unfold LinesOnly at h
  rw [h]
  rfl

theorem LinesOnly.chanFailed (h : LinesOnly s t) : t.hbm.chanFailed = s.hbm.chanFailed := by
  unfold LinesOnly at h
  rw [h]
  rfl

theorem LinesOnly.physLine (h : LinesOnly s t) (r off : Nat) : physLine t r off = physLine s r off := by
  unfold Machine.physLine pmapOf
  rw [h.pmap]

end

/-- The buffer of channel `ch` holds `es`. -/
def setBuffer (ch : Nat) (es : List WcEntry) (s : State) : State := s.modHbm fun h => { h with wcb := h.wcb.set [] ch es }

/-- The buffer no longer holds the line. -/
def withoutLine (line : Nat) (s : State) : State :=
  s.modHbm fun h => { h with wcb := h.wcb.mod [] (lineChannel line) fun es => es.filter fun e => e.line != line }

section
variable (line l : Nat) (s : State)

theorem linesOnly_dramStore (data : List Byte) : LinesOnly s (dramStore line data s) := by
  unfold LinesOnly dramStore
  rfl

theorem linesOnly_setBuffer (ch : Nat) (es : List WcEntry) : LinesOnly s (setBuffer ch es s) := rfl

theorem linesOnly_withoutLine : LinesOnly s (withoutLine line s) := rfl

theorem lineState_dramStore (data : List Byte) :
    lineState (dramStore line data s) l = if l = line then (lineState s l).stored (padTo 64 data) else lineState s l := by
  have hdram : dramLine (dramStore line data s) l = if l = line then padTo 64 data else dramLine s l := by
    have hlen : (padTo 64 data).length = 64 := padTo_length data 64
    split
    · next h =>
      have hread := Mem.readN_writeN s.hbm.dram (64 * line) (padTo 64 data)
      rw [hlen] at hread
      exact h ▸ hread
    · exact readN_writeN_apart _ (by omega)
  have hbad : (dramStore line data s).hbm.bad.get 0 l = if l = line then 0 else s.hbm.bad.get 0 l := Table.get_set s.hbm.bad 0 l line 0
  have hpoison : (dramStore line data s).hbm.poison.get false l = if l = line then false else s.hbm.poison.get false l :=
    Table.get_set s.hbm.poison false l line false
  rw [lineState, hdram, hbad, hpoison]
  split <;> rfl

theorem lineState_setBuffer (ch : Nat) (es : List WcEntry) :
    lineState (setBuffer ch es s) l = if lineChannel l = ch then (lineState s l).holding (entryOf l es) else lineState s l := by
  have hwcb : wcbOf (setBuffer ch es s) (lineChannel l) = if lineChannel l = ch then es else wcbOf s (lineChannel l) := Table.get_set ..
  rw [lineState, hwcb]
  split <;> rfl

theorem lineState_withoutLine :
    lineState (withoutLine line s) l = if l = line then (lineState s l).holding none else lineState s l := by
  have hwcb : wcbOf (withoutLine line s) (lineChannel l) = if lineChannel l = lineChannel line
      then (wcbOf s (lineChannel line)).filter (fun e => e.line != line) else wcbOf s (lineChannel l) := Table.get_mod ..
  have hentry : entryOf l (wcbOf (withoutLine line s) (lineChannel l)) = if l = line then none else entryOf l (wcbOf s (lineChannel l)) := by
    rw [hwcb]
    by_cases hch : lineChannel l = lineChannel line
    · rw [if_pos hch, entryOf_without, hch]
    · rw [if_neg hch, if_neg fun h => hch (congrArg lineChannel h)]
  rw [lineState, hentry]
  split <;> rfl

theorem lineState_poisonLine :
    lineState (poisonLine line s) l = if l = line then { lineState s l with poison := true } else lineState s l := by
  have hpoison : (poisonLine line s).hbm.poison.get false l = if l = line then true else s.hbm.poison.get false l :=
    Table.get_set s.hbm.poison false l line true
  rw [lineState, hpoison]
  split <;> rfl

end

end Sys2Proof.Machine

/-! SUPPORT. Proof of the statement about lines of HBM (O59). -/

namespace Sys2Proof.Machine

open Sys2Proof

/-! ### A controller reads a line (R197 to R199, R209, R216) -/

section
variable {line r a : Nat} {blk : Option (Nat × Nat)} {lost : State → State} {s : State}

section
variable (hchan : chanFailed s (lineChannel line) = false)
include hchan

theorem readPhys_uncorrectable (row : Nat) : readPhys line r a blk lost (.uncorrectable row) s
    = (none, countRow (lineChannel line) (rowKey row line) (lost (s.modHbm fun h => { h with bad := h.bad.set 0 line (rowKey row line + 1) }))) := by
  simp [readPhys, hchan]

theorem readPhys_bad {ecc : Ecc} (hecc : ecc = .clean ∨ ecc = .corrected) {key : Nat} (hbad : s.hbm.bad.get 0 line = key + 1) :
    readPhys line r a blk lost ecc s = (none, countRow (lineChannel line) key (lost s)) := by
  rcases hecc with rfl | rfl <;> simp [readPhys, hchan, hbad]

theorem readPhys_poison {ecc : Ecc} (hecc : ecc = .clean ∨ ecc = .corrected) (hbad : s.hbm.bad.get 0 line = 0)
    (hpoison : s.hbm.poison.get false line = true) : readPhys line r a blk lost ecc s = (none, lost s) := by
  rcases hecc with rfl | rfl <;> simp [readPhys, hchan, hbad, hpoison]

variable (hbad : s.hbm.bad.get 0 line = 0) (hpoison : s.hbm.poison.get false line = false)
include hbad hpoison

theorem readPhys_clean : readPhys line r a blk lost .clean s = (some (mergedLine s line), s) := by
  simp [readPhys, hchan, hbad, hpoison]

theorem readPhys_corrected :
    readPhys line r a blk lost .corrected s = (some (mergedLine s line), correctedRead r (lineChannel line) a (lineFrame line) blk s) := by
  simp [readPhys, hchan, hbad, hpoison]

end

/-- What a clean read delivers is decided by the line's own state. -/
theorem readPhys_clean_fst : (readPhys line r a blk lost .clean s).1.getD poisonBytes = (lineState s line).delivered := by
  have hstate : (lineState s line).delivered = if chanFailed s (lineChannel line) = true ∨ s.hbm.bad.get 0 line ≠ 0
      ∨ s.hbm.poison.get false line = true then poisonBytes else (lineState s line).merged := rfl
  rw [hstate, ← mergedLine_eq]
  cases hchan : chanFailed s (lineChannel line)
  case true => simp [readPhys, hchan]
  case false =>
    cases hbad : s.hbm.bad.get 0 line
    case succ key => simp [readPhys_bad hchan (.inl rfl) hbad]
    case zero =>
      cases hpoison : s.hbm.poison.get false line
      case true => simp [readPhys_poison hchan (.inl rfl) hbad hpoison]
      case false => simp [readPhys_clean hchan hbad hpoison]

/-- A line whose code is known to fail, or whose marker is set, is not read. -/
theorem readPhys_unreadable (hchan : chanFailed s (lineChannel line) = false)
    (h : s.hbm.poison.get false line = true ∨ s.hbm.bad.get 0 line ≠ 0) : (readPhys line r a blk lost .clean s).1 = none := by
  cases hbad : s.hbm.bad.get 0 line
  case succ key => rw [readPhys_bad hchan (.inl rfl) hbad]
  case zero => rw [readPhys_poison hchan (.inl rfl) hbad (h.resolve_right fun hne => hne hbad)]

end

section
variable {r off line : Nat} {s : State}

theorem readLineEcc_eq (blk : Option (Nat × Nat)) (ecc : Ecc) (hphys : physLine s r off = some line) {x : Option (List Byte) × State}
    (hread : readPhys line r (off / 64 * 64) blk (poisonRead r (lineChannel line) (off / 64 * 64) (lineFrame line) blk) ecc s = x) :
    readLineEcc r off blk ecc s = (x.1.getD poisonBytes, x.1.isNone, x.2) := by
  obtain ⟨o, u⟩ := x
  simp only [readLineEcc, hphys, hread]
  cases o <;> rfl

theorem eccMet_none (hmeet : s.hbm.meet = []) : eccMet s r off = .clean := by simp [eccMet, hmeet]

/-- A line reads as its state delivers it. -/
theorem peekLine_eq (hmeet : s.hbm.meet = []) (hphys : physLine s r off = some line) : peekLine s r off = (lineState s line).delivered := by
  rw [peekLine, readLine, eccMet_none hmeet, readLineEcc_eq none .clean hphys rfl, readPhys_clean_fst]

theorem peekLine_outside (hphys : physLine s r off = none) : peekLine s r off = poisonBytes := by
  simp only [peekLine, readLine, readLineEcc, hphys]

end

/-! ### HBM_READ (R198 to R202, R210; log 42) -/

section
variable {r : Fin 4} {off : BitVec 38} {q : Byte}

/-- The requester that a record names: a logical block of the region, or none. -/
def requesterBlock (q : Byte) : Option (Nat × Nat) := if q.toNat < 64 then some (0xFF, q.toNat) else none

theorem exec_hbmRead (ecc : Ecc) {s : State} (hruns : hbmRuns s r = true) :
    exec (.hbmRead r off q ecc) s = .next (readLineEcc r off.toNat (requesterBlock q) ecc s).2.2 := if_pos hruns

theorem exec_hbmRead_idle (ecc : Ecc) {s : State} (hidle : hbmRuns s r = false) : exec (.hbmRead r off q ecc) s = .next s :=
  if_neg (by simp [hidle])

/-- A write's own checks, run over what the read of an evicted entry meets. -/
theorem exec_hbmWrite (mask : W64) (data : BitVec 512) (errs : List ReadErr) {s : State} (hruns : hbmRuns s r = true) :
    exec (.hbmWrite r off mask data errs) s
      = meeting errs (fun v => .next (writeLine r off.toNat mask.toNat (leBytes 64 data.toNat) v)) s := by
  show meeting errs (fun v => if hbmRuns v r then .next (writeLine r off.toNat mask.toNat (leBytes 64 data.toNat) v) else .next v) s = _
  refine meeting_congr_meets (if_pos ?_)
  rw [State.meets_eq]
  exact hruns

theorem exec_hbmWrite_idle (mask : W64) (data : BitVec 512) {s : State} (hidle : hbmRuns s r = false) :
    exec (.hbmWrite r off mask data []) s = .next s := if_neg (by simp [hidle])

end

/-! ### Entries that leave the buffer (R201, R212) -/

section
variable {e : WcEntry} {s : State} (hchan : chanFailed s (lineChannel e.line) = false)
include hchan

theorem flushEntry_full (hfull : e.mask = fullMask) : flushEntry e s = dramStore e.line e.data s := by
  simp [flushEntry, hchan, hfull]

variable (hpart : e.mask ≠ fullMask) (hmeet : s.hbm.meet = [])
include hpart hmeet

/-- A partial entry's line is read for the merge; one that cannot be read is written with its marker set. -/
theorem flushEntry_reads {x : Option (List Byte) × State}
    (hread : readPhys e.line (e.line / 2 ^ 31) (virtOff s e.line) none
      (poisonRead (e.line / 2 ^ 31) (lineChannel e.line) (virtOff s e.line) (lineFrame e.line) none) .clean (withoutLine e.line s) = x) :
    flushEntry e s = x.1.elim (poisonLine e.line (x.2.modHbm fun h => { h with bad := h.bad.set 0 e.line 0 }))
      fun old => dramStore e.line (mergeBytes e.mask e.data old) x.2 := by
  obtain ⟨o, u⟩ := x
  unfold withoutLine at hread
  simp only [flushEntry, hchan, Bool.false_eq_true, if_false, if_neg hpart, hmeet, List.isEmpty_nil, if_true, hread]
  cases o <;> rfl

/-- A partial entry is merged into a line that can be read. -/
theorem flushEntry_partial (hbad : s.hbm.bad.get 0 e.line = 0) (hpoison : s.hbm.poison.get false e.line = false) :
    flushEntry e s = dramStore e.line (mergeBytes e.mask e.data (dramLine s e.line)) (withoutLine e.line s) := by
  have hline : mergedLine (withoutLine e.line s) e.line = dramLine s e.line := by
    rw [mergedLine_eq, lineState_withoutLine, if_pos rfl]
    rfl
  rw [flushEntry_reads hchan hpart hmeet (readPhys_clean (s := withoutLine e.line s) hchan hbad hpoison), hline]
  rfl

theorem flushEntry_unreadable (h : s.hbm.poison.get false e.line = true ∨ s.hbm.bad.get 0 e.line ≠ 0) :
    (flushEntry e s).hbm.poison.get false e.line = true ∧ (flushEntry e s).hbm.bad.get 0 e.line = 0 := by
  rw [flushEntry_reads hchan hpart hmeet rfl, readPhys_unreadable (s := withoutLine e.line s) hchan h]
  exact ⟨Table.get_set_same _ false e.line true, Table.get_set_same _ 0 e.line 0⟩

end

/-- The entry's bytes go into a line that can be read; no other line changes. -/
theorem flushEntry_good {e : WcEntry} {s : State} (hchan : chanFailed s (lineChannel e.line) = false) (hmeet : s.hbm.meet = [])
    (hbad : s.hbm.bad.get 0 e.line = 0) (hpoison : s.hbm.poison.get false e.line = false) (hout : (lineState s e.line).entry = none) (l : Nat) :
    LinesOnly s (flushEntry e s) ∧ lineState (flushEntry e s) l
      = if l = e.line then (lineState s l).stored (mergeBytes e.mask e.data (lineState s l).dram) else lineState s l := by
  by_cases hfull : e.mask = fullMask
  · rw [flushEntry_full hchan hfull]
    refine ⟨linesOnly_dramStore _ _ _, ?_⟩
    rw [lineState_dramStore, hfull, mergeBytes_full]
  · rw [flushEntry_partial hchan hfull hmeet hbad hpoison]
    refine ⟨(linesOnly_withoutLine _ _).trans (linesOnly_dramStore _ _ _), ?_⟩
    rw [lineState_dramStore, lineState_withoutLine, padTo_self (mergeBytes_length _ _ _)]
    split
    · next h =>
      subst h
      rw [← hout]
      rfl
    · rfl

/-! ### A write into a channel that works (R209, R211) -/

/-- `t` is `s` with line `line` written so that a read delivers `bs`. -/
structure Wrote (s t : State) (line : Nat) (bs : List Byte) : Prop where
  only : LinesOnly s t
  written : (lineState t line).delivered = bs
  others : ∀ l, l ≠ line → (lineState t l).delivered = (lineState s l).delivered

/-- The buffer entry of a line once `data` under `mask` has been merged into it. -/
def writtenEntry (line mask : Nat) (data : List Byte) (o : Option WcEntry) : WcEntry :=
  match o with
  | some e => { line := line, mask := e.mask ||| mask, data := mergeBytes mask data e.data }
  | none => { line := line, mask := mask, data := mergeBytes mask data (zeros 64) }

section
variable (line mask : Nat) (data : List Byte)

theorem writtenEntry_line (o : Option WcEntry) : (writtenEntry line mask data o).line = line := by cases o <;> rfl

/-- The entry, merged into the DRAM line, gives the write merged into what the line held. -/
theorem writtenEntry_merged (x : LineState) :
    mergeBytes (writtenEntry line mask data x.entry).mask (writtenEntry line mask data x.entry).data x.dram = mergeBytes mask data x.merged := by
  unfold LineState.merged
  cases x.entry with
  | some e => exact mergeBytes_or ..
  | none => exact mergeBytes_again ..

/-- A line that reads as poison takes a write over the pattern that it delivers. -/
def unpoisoned (s : State) : State := if s.hbm.poison.get false line = true then dramStore line poisonBytes s else s

/-- The rest of the buffer that a write to the line finds. -/
def otherEntries (s : State) : List WcEntry := (wcbOf s (lineChannel line)).filter fun e => e.line != line

theorem entryOf_otherEntries (s : State) {l : Nat} (hch : lineChannel l = lineChannel line) :
    entryOf l (otherEntries line s) = if l = line then none else (lineState s l).entry := by
  rw [otherEntries, entryOf_without, lineState, hch]

theorem linesOnly_unpoisoned (s : State) : LinesOnly s (unpoisoned line s) := by
  unfold unpoisoned
  split
  · exact linesOnly_dramStore ..
  · exact LinesOnly.refl s

theorem lineState_unpoisoned_other (s : State) {l : Nat} (h : l ≠ line) : lineState (unpoisoned line s) l = lineState s l := by
  unfold unpoisoned
  split
  · rw [lineState_dramStore, if_neg h]
  · rfl

end

/-- The line unpoisoned, and its channel's buffer holding `es`. -/
def rebuffered (line : Nat) (es : List WcEntry) (s : State) : State := setBuffer (lineChannel line) es (unpoisoned line s)

section
variable {line mask : Nat} {data : List Byte} {s : State}

/-- A write of the whole line goes to the DRAM, and its entry is gone. -/
theorem acceptWrite_whole (hchan : chanFailed s (lineChannel line) = false) (hfull : mask = fullMask) (old : List Byte) :
    Wrote s (acceptWrite line mask data s) line (mergeBytes mask data old) := by
  have heq : acceptWrite line mask data s = dramStore line data (setBuffer (lineChannel line) (otherEntries line s) s) := if_pos hfull
  rw [heq]
  refine ⟨(linesOnly_setBuffer _ _ _).trans (linesOnly_dramStore _ _ _), ?_, fun l hl => ?_⟩
  · rw [lineState_dramStore, if_pos rfl, lineState_setBuffer, if_pos rfl, entryOf_otherEntries line s rfl, if_pos rfl, hfull, mergeBytes_full]
    exact delivered_stored hchan _
  · rw [lineState_dramStore, if_neg hl, lineState_setBuffer]
    split
    · next hch => rw [entryOf_otherEntries line s hch, if_neg hl]; rfl
    · rfl

variable (hpart : mask ≠ fullMask)
include hpart

theorem acceptWrite_fills (hfull : (writtenEntry line mask data (lineState s line).entry).mask = fullMask) : acceptWrite line mask data s
    = flushEntry (writtenEntry line mask data (lineState s line).entry) (rebuffered line (otherEntries line s) s) :=
  (if_neg hpart).trans (if_pos hfull)

variable (hopen : (writtenEntry line mask data (lineState s line).entry).mask ≠ fullMask)
include hopen

theorem acceptWrite_joins (hroom : (otherEntries line s).length < 64) : acceptWrite line mask data s
    = rebuffered line (writtenEntry line mask data (lineState s line).entry :: otherEntries line s) s :=
  (if_neg hpart).trans ((if_neg hopen).trans (if_pos hroom))

theorem acceptWrite_evicts {kept : List WcEntry} {old : WcEntry} (hrest : otherEntries line s = kept ++ [old]) (hfull : ¬(otherEntries line s).length < 64) :
    acceptWrite line mask data s = flushEntry old
      (rebuffered line (writtenEntry line mask data (lineState s line).entry :: kept) s) := by
  refine (if_neg hpart).trans ((if_neg hopen).trans ((if_neg hfull).trans ?_))
  have hlast : (otherEntries line s).getLast? = some old := by rw [hrest, List.getLast?_concat]
  have hkept : (otherEntries line s).dropLast = kept := by rw [hrest, List.dropLast_concat]
  rw [← hkept]
  split
  · next x hx =>
    obtain rfl : x = old := Option.some.inj (hx.symm.trans hlast)
    rfl
  · next hx => cases hx.symm.trans hlast

end

section
variable (line : Nat) (es : List WcEntry) (s : State)

theorem linesOnly_rebuffered : LinesOnly s (rebuffered line es s) := (linesOnly_unpoisoned line s).trans (linesOnly_setBuffer _ _ _)

theorem lineState_rebuffered_same :
    lineState (rebuffered line es s) line = (lineState (unpoisoned line s) line).holding (entryOf line es) := by
  rw [rebuffered, lineState_setBuffer, if_pos rfl]

/-- Another line is as it was, where its entry is. -/
theorem lineState_rebuffered_other {l : Nat} (hl : l ≠ line)
    (hentry : lineChannel l = lineChannel line → entryOf l es = (lineState s l).entry) : lineState (rebuffered line es s) l = lineState s l := by
  rw [rebuffered, lineState_setBuffer, lineState_unpoisoned_other line s hl]
  split
  · next hch => rw [hentry hch]; rfl
  · rfl

end

/-- An entry that has left such a buffer goes into its line. -/
theorem flushEntry_rebuffered {e : WcEntry} {line : Nat} {es : List WcEntry} {s : State} (hchan : chanFailed s (lineChannel e.line) = false)
    (hmeet : s.hbm.meet = []) (hbad : (lineState (rebuffered line es s) e.line).bad = 0)
    (hpoison : (lineState (rebuffered line es s) e.line).poison = false) (hout : (lineState (rebuffered line es s) e.line).entry = none) :
    LinesOnly s (flushEntry e (rebuffered line es s)) ∧ ∀ l, lineState (flushEntry e (rebuffered line es s)) l
      = if l = e.line then (lineState (rebuffered line es s) l).stored (mergeBytes e.mask e.data (lineState (rebuffered line es s) l).dram)
        else lineState (rebuffered line es s) l := by
  have honly := linesOnly_rebuffered line es s
  have hworks : chanFailed (rebuffered line es s) (lineChannel e.line) = false := by
    rw [chanFailed, honly.chanFailed]
    exact hchan
  have hflush := fun l => flushEntry_good hworks (honly.meet.trans hmeet) hbad hpoison hout l
  exact ⟨honly.trans (hflush 0).1, fun l => (hflush l).2⟩

section
variable {line mask : Nat} {data : List Byte} {s : State} (hchan : chanFailed s (lineChannel line) = false)
  (hsound : BufferSound s (lineChannel line)) (hbad : s.hbm.bad.get 0 line = 0)
include hchan hsound hbad

/-- Once it is unpoisoned, the line can be read and holds what a read delivered. -/
theorem lineState_unpoisoned : let x := lineState (unpoisoned line s) line
    x.failed = false ∧ x.bad = 0 ∧ x.poison = false ∧ x.entry = (lineState s line).entry ∧ x.merged = (lineState s line).delivered := by
  unfold unpoisoned
  cases hpoison : s.hbm.poison.get false line
  case false =>
    rw [if_neg Bool.false_ne_true]
    exact ⟨hchan, hbad, hpoison, rfl, (delivered_readable hchan hbad hpoison).symm⟩
  case true =>
    have hnone : (lineState s line).entry = none := entryOf_none.2 fun e he heq => by
      have hgood := (hsound.good e he).1
      rw [heq, hpoison] at hgood
      cases hgood
    have hdelivered : (lineState s line).delivered = poisonBytes := if_pos (Or.inr (Or.inr hpoison))
    rw [if_pos rfl, lineState_dramStore, if_pos rfl, padTo_self (by simp [poisonBytes]), hdelivered]
    exact ⟨hchan, rfl, rfl, rfl, by rw [LineState.merged, LineState.stored, hnone]; rfl⟩

/-- The written entry, in the buffer or merged into the DRAM, delivers the write over what a read delivered. -/
theorem delivered_writtenEntry : let x := lineState (unpoisoned line s) line
    let e := writtenEntry line mask data (lineState s line).entry
    let bs := mergeBytes mask data (lineState s line).delivered
    (x.holding (some e)).delivered = bs ∧ ((x.holding none).stored (mergeBytes e.mask e.data x.dram)).delivered = bs := by
  obtain ⟨hfailed, hgood, hclear, hentry, hmerged⟩ := lineState_unpoisoned hchan hsound hbad
  have hwritten := writtenEntry_merged line mask data (lineState (unpoisoned line s) line)
  rw [hentry, hmerged] at hwritten
  exact ⟨(delivered_holding hfailed hgood hclear _).trans hwritten, (delivered_stored hfailed _).trans hwritten⟩

variable (hmeet : s.hbm.meet = []) (hpart : mask ≠ fullMask)
include hpart

theorem acceptWrite_joins_wrote (hopen : (writtenEntry line mask data (lineState s line).entry).mask ≠ fullMask)
    (hroom : (otherEntries line s).length < 64) :
    Wrote s (acceptWrite line mask data s) line (mergeBytes mask data (lineState s line).delivered) := by
  obtain ⟨hheld, -⟩ := delivered_writtenEntry (mask := mask) (data := data) hchan hsound hbad
  have hline := writtenEntry_line line mask data (lineState s line).entry
  rw [acceptWrite_joins hpart hopen hroom]
  generalize writtenEntry line mask data (lineState s line).entry = e at hline hheld ⊢
  refine ⟨linesOnly_rebuffered _ _ _, ?_, fun l hl => congrArg LineState.delivered (lineState_rebuffered_other _ _ _ hl fun hch => ?_)⟩
  · rw [lineState_rebuffered_same, entryOf_cons_same hline]
    exact hheld
  · rw [entryOf_cons_other (hline.trans_ne hl.symm), entryOf_otherEntries line s hch, if_neg hl]

include hmeet

theorem acceptWrite_fills_wrote (hfull : (writtenEntry line mask data (lineState s line).entry).mask = fullMask) :
    Wrote s (acceptWrite line mask data s) line (mergeBytes mask data (lineState s line).delivered) := by
  obtain ⟨-, hstored⟩ := delivered_writtenEntry (mask := mask) (data := data) hchan hsound hbad
  obtain ⟨-, hgood, hclear, -, -⟩ := lineState_unpoisoned hchan hsound hbad
  have hsame := lineState_rebuffered_same line (otherEntries line s) s
  rw [entryOf_otherEntries line s rfl, if_pos rfl] at hsame
  have hline := writtenEntry_line line mask data (lineState s line).entry
  rw [acceptWrite_fills hpart hfull]
  generalize writtenEntry line mask data (lineState s line).entry = e at hline hstored ⊢
  subst hline
  obtain ⟨honly, hflush⟩ := flushEntry_rebuffered (e := e) (line := e.line) (es := otherEntries e.line s) hchan hmeet
    ((congrArg LineState.bad hsame).trans hgood) ((congrArg LineState.poison hsame).trans hclear) (congrArg LineState.entry hsame)
  refine ⟨honly, ?_, fun l hl => congrArg LineState.delivered ?_⟩
  · rw [hflush, if_pos rfl, hsame]
    exact hstored
  · rw [hflush, if_neg hl, lineState_rebuffered_other _ _ _ hl fun hch => ?_]
    rw [entryOf_otherEntries e.line s hch, if_neg hl]

/-- The evicted entry's line delivers what it delivered while the buffer held it. -/
theorem acceptWrite_evicts_wrote (hopen : (writtenEntry line mask data (lineState s line).entry).mask ≠ fullMask)
    (hfull : ¬(otherEntries line s).length < 64) :
    Wrote s (acceptWrite line mask data s) line (mergeBytes mask data (lineState s line).delivered) := by
  obtain ⟨hheld, -⟩ := delivered_writtenEntry (mask := mask) (data := data) hchan hsound hbad
  have hline := writtenEntry_line line mask data (lineState s line).entry
  have hne : otherEntries line s ≠ [] := fun h => hfull (by simp [h])
  obtain ⟨kept, old, hrest⟩ : ∃ kept old, otherEntries line s = kept ++ [old] := ⟨_, _, (List.dropLast_concat_getLast hne).symm⟩
  have honce : ((kept ++ [old]).map fun e => e.line).Nodup := hrest ▸ hsound.once.sublist (List.filter_sublist.map _)
  have hmem : old ∈ otherEntries line s := hrest ▸ List.mem_append_right _ (List.mem_singleton.2 rfl)
  obtain ⟨hold, hapart⟩ : old ∈ wcbOf s (lineChannel line) ∧ old.line ≠ line := by simpa [otherEntries] using hmem
  obtain ⟨hclear, hgood⟩ := hsound.good old hold
  have hch := hsound.own old hold
  rw [acceptWrite_evicts hpart hopen hrest hfull]
  generalize writtenEntry line mask data (lineState s line).entry = e at hline hheld ⊢
  have hin : ∀ l, l ≠ line → lineChannel l = lineChannel line → (lineState s l).entry = if l = old.line then some old else entryOf l kept := by
    intro l hl hc
    rw [← entryOf_concat honce, ← hrest, entryOf_otherEntries line s hc, if_neg hl]
  have hgone : entryOf old.line (e :: kept) = none := by
    rw [entryOf_cons_other (hline.trans_ne hapart.symm), entryOf_last_gone honce]
  have hold' : lineState (rebuffered line (e :: kept) s) old.line = (lineState s old.line).holding none := by
    rw [rebuffered, lineState_setBuffer, if_pos hch, hgone, lineState_unpoisoned_other line s hapart]
  obtain ⟨honly, hflush⟩ := flushEntry_rebuffered (e := old) (line := line) (es := e :: kept) (hch ▸ hchan) hmeet
    ((congrArg LineState.bad hold').trans hgood) ((congrArg LineState.poison hold').trans hclear) (congrArg LineState.entry hold')
  refine ⟨honly, ?_, fun l hl => ?_⟩
  · rw [hflush, if_neg hapart.symm, lineState_rebuffered_same, entryOf_cons_same hline]
    exact hheld
  · rw [hflush]
    by_cases hl' : l = old.line
    · subst hl'
      have hfailed : (lineState s old.line).failed = false := (congrArg (chanFailed s) hch).trans hchan
      have hentry : (lineState s old.line).entry = some old := (hin _ hl hch).trans (if_pos rfl)
      rw [if_pos rfl, hold', delivered_stored hfailed, delivered_readable hfailed hgood hclear, LineState.merged, hentry]
      rfl
    · rw [if_neg hl', lineState_rebuffered_other _ _ _ hl fun hc => ?_]
      rw [entryOf_cons_other (hline.trans_ne hl.symm), hin l hl hc, if_neg hl']

/-- A write under a partial mask, whichever way its entry takes: it fills up and goes to the DRAM, it finds room, or the oldest makes room. -/
theorem acceptWrite_part : Wrote s (acceptWrite line mask data s) line (mergeBytes mask data (lineState s line).delivered) := by
  by_cases hfull : (writtenEntry line mask data (lineState s line).entry).mask = fullMask
  · exact acceptWrite_fills_wrote hchan hsound hbad hmeet hpart hfull
  · by_cases hroom : (otherEntries line s).length < 64
    · exact acceptWrite_joins_wrote hchan hsound hbad hpart hfull hroom
    · exact acceptWrite_evicts_wrote hchan hsound hbad hmeet hpart hfull hroom

end

/-! ### HBM_WRITE (R209, R211, R217) -/

section
variable {r : Fin 4} {off : BitVec 38} {mask : W64} {data : BitVec 512} {line : Nat} {s : State}

theorem writeLine_outside {m : Nat} {bs : List Byte} (hphys : physLine s r off.toNat = none) :
    writeLine r off.toNat m bs s = record (hbmRecord 2 0x304 r 0 (off.toNat / 64 * 64) 0 none) s := by
  simp only [writeLine, hphys]

theorem writeLine_failed {m : Nat} {bs : List Byte} (hphys : physLine s r off.toNat = some line) (hchan : chanFailed s (lineChannel line) = true) :
    writeLine r off.toNat m bs s = record (hbmRecord 2 0x304 r (lineChannel line) (off.toNat / 64 * 64) (lineFrame line) none) s := by
  simp only [writeLine, hphys, hchan, if_true]

theorem writeLine_accepts {m : Nat} {bs : List Byte} (hphys : physLine s r off.toNat = some line) (hchan : chanFailed s (lineChannel line) = false) :
    writeLine r off.toNat m bs s = acceptWrite line m bs s := by
  simp only [writeLine, hphys, hchan, Bool.false_eq_true, if_false]

/-- A read after a write delivers the line that the write left, at every offset. -/
theorem Wrote.peeks {t : State} {bs : List Byte} (h : Wrote s t line bs) (hmeet : s.hbm.meet = []) :
    (∀ r off, physLine s r off = some line → peekLine t r off = bs)
      ∧ ∀ r off, physLine s r off ≠ some line → peekLine t r off = peekLine s r off := by
  have hmeet' := h.only.meet.trans hmeet
  refine ⟨fun r off hphys => ?_, fun r off hphys => ?_⟩
  · rw [peekLine_eq hmeet' ((h.only.physLine r off).trans hphys), h.written]
  · cases hother : physLine s r off with
    | none => rw [peekLine_outside hother, peekLine_outside ((h.only.physLine r off).trans hother)]
    | some l =>
      rw [peekLine_eq hmeet hother, peekLine_eq hmeet' ((h.only.physLine r off).trans hother)]
      exact h.others l fun hl => hphys (hother.trans (congrArg some hl))

theorem acceptWrite_wrote (hchan : chanFailed s (lineChannel line) = false) (hsound : BufferSound s (lineChannel line)) (hmeet : s.hbm.meet = [])
    (hwritable : s.hbm.bad.get 0 line = 0 ∨ mask = BitVec.allOnes 64) (bs : List Byte) :
    Wrote s (acceptWrite line mask.toNat bs s) line (mergeBytes mask.toNat bs (lineState s line).delivered) := by
  by_cases hfull : mask.toNat = fullMask
  · exact acceptWrite_whole hchan hfull _
  · refine acceptWrite_part hchan hsound (hwritable.resolve_right fun hall => hfull ?_) hmeet hfull
    rw [hall, BitVec.toNat_allOnes, fullMask]

end

/-! ### Scrub, training and failed channels (R203, R216, R217) -/

/-- A channel that fails drops its buffer; no other channel's changes. -/
theorem failChannel_fails {ch cause : Nat} {s : State} (hchan : chanFailed s ch = false) (hmapped : s.hbm.chanMapout.get false ch = false) :
    (failChannel ch cause s).hbm
      = { s.hbm with chanFailed := s.hbm.chanFailed.set false ch true, wcb := s.hbm.wcb.set [] ch [], lostAt := s.hbm.lostAt.set 0 ch 0 } := by
  have hfatal : ∀ (x : Record) (u : State), (recordFatal x u).hbm = u.hbm := fun x u => by rw [(recordFatal_only x u).eq]
  rw [failChannel, if_neg (by simp [hchan, hmapped]), raiseEvent_hbm, hfatal]
  rfl

section
variable {ch : Fin 256} {s : State}

theorem exec_channelRetrainTimeout : exec (.channelRetrainTimeout ch) s
    = if s.hbm.lostAt.get 0 ch ≠ 0 ∧ s.hbm.lostAt.get 0 ch + 4999 ≤ s.aon then .next (failChannel ch 1 s) else .next s := by
  show (if s.hbm.lostAt.get 0 ch ≠ 0 ∧ s.hbm.lostAt.get 0 ch - 1 + 5000 ≤ s.aon then Host.Outcome.next (failChannel ch 1 s) else .next s) = _
  refine if_congr ?_ rfl rfl
  omega

/-- The line that patrol scrub reads next. -/
def scrubLine (ch : Fin 256) (s : State) : Nat := ch.val / 64 * 2 ^ 31 + ch.val % 64 * 2 ^ 25 + s.hbm.scrub.get 0 ch

/-- The channel's place one line on. -/
def scrubbed (ch : Fin 256) (s : State) : State :=
  s.modHbm fun h => { h with scrub := h.scrub.set 0 ch ((s.hbm.scrub.get 0 ch + 1) % 2 ^ 25) }

/-- What scrub records of its line. -/
def scrubRecord (ch : Fin 256) (s : State) (cls code : Nat) : Record :=
  hbmRecord cls code (ch.val / 64) ch (virtOff s (scrubLine ch s)) (lineFrame (scrubLine ch s)) none

/-- Scrub past a line that cannot be corrected, in the row that `key` names. -/
def scrubFailed (ch : Fin 256) (key : Nat) (s : State) : State :=
  countRow ch key (record (scrubRecord ch s 2 0x303) ((scrubbed ch s).modHbm fun h => { h with bad := h.bad.set 0 (scrubLine ch s) (key + 1) }))

section
variable (hruns : hbmRuns s (ch.val / 64) = true) (hchan : chanFailed s ch = false) (hmapped : s.hbm.chanMapout.get false ch = false) (w : Bool)
include hruns hchan hmapped

theorem patrolScrub_uncorrectable (row : Nat) :
    exec (.patrolScrub ch (.uncorrectable row) w) s = .next (scrubFailed ch (rowKey row (scrubLine ch s)) s) := by
  show execPatrolScrub ch (.uncorrectable row) w s = _
  simp only [execPatrolScrub, hruns, hchan, hmapped, Bool.not_false, Bool.and_self, if_true]
  rfl

theorem patrolScrub_bad {ecc : Ecc} (hecc : ecc = .clean ∨ ecc = .corrected) {key : Nat} (hbad : s.hbm.bad.get 0 (scrubLine ch s) = key + 1) :
    exec (.patrolScrub ch ecc w) s = .next (scrubFailed ch key s) := by
  show execPatrolScrub ch ecc w s = _
  simp only [scrubLine] at hbad
  rcases hecc with rfl | rfl <;>
  · simp only [execPatrolScrub, hruns, hchan, hmapped, Bool.not_false, Bool.and_self, if_true, State.modHbm_hbm, hbad]
    rfl

variable (hbad : s.hbm.bad.get 0 (scrubLine ch s) = 0)
include hbad

theorem patrolScrub_clean : exec (.patrolScrub ch .clean w) s = .next (scrubbed ch s) := by
  show execPatrolScrub ch .clean w s = _
  simp only [scrubLine] at hbad
  simp only [execPatrolScrub, hruns, hchan, hmapped, Bool.not_false, Bool.and_self, if_true, State.modHbm_hbm, hbad]
  rfl

theorem patrolScrub_corrected : exec (.patrolScrub ch .corrected w) s = .next (record (scrubRecord ch s 1 0x301)
    ((scrubbed ch s).modHbm fun h => { h with corrected := h.corrected.mod 0 ch (· + 1) })) := by
  show execPatrolScrub ch .corrected w s = _
  simp only [scrubLine] at hbad
  simp only [execPatrolScrub, hruns, hchan, hmapped, Bool.not_false, Bool.and_self, if_true, State.modHbm_hbm, hbad]
  rfl

end

end

/-! ### Post-package repair (R214, R215) -/

/-- A line of a row that has been repaired: as it was read, or with its marker where it could not be read or reads as poison. -/
def LineState.repaired (lost : Bool) (x : LineState) : LineState :=
  if lost = true ∨ x.bad ≠ 0 ∨ x.poison = true then { x.holding none with bad := 0, poison := true } else (x.holding none).stored x.merged

theorem lineState_setBad (line v l : Nat) (s : State) : lineState (s.modHbm fun h => { h with bad := h.bad.set 0 line v }) l
    = if l = line then { lineState s l with bad := v } else lineState s l := by
  have hbad : (s.hbm.bad.set 0 line v).get 0 l = if l = line then v else s.hbm.bad.get 0 l := Table.get_set s.hbm.bad 0 l line v
  have hstate : lineState (s.modHbm fun h => { h with bad := h.bad.set 0 line v }) l
      = { lineState s l with bad := (s.hbm.bad.set 0 line v).get 0 l } := rfl
  rw [hstate, hbad]
  split <;> rfl

/-- The line's code is good again, and no entry of the buffer holds it. -/
def renewed (line : Nat) (s : State) : State := (withoutLine line s).modHbm fun h => { h with bad := h.bad.set 0 line 0 }

theorem lineState_renewed (line l : Nat) (s : State) :
    lineState (renewed line s) l = if l = line then { (lineState s l).holding none with bad := 0 } else lineState s l := by
  rw [renewed, lineState_setBad, lineState_withoutLine]
  split <;> rfl

theorem lineState_repairLine (lost : Bool) (line l : Nat) (s : State) :
    lineState (repairLine lost line s) l = if l = line then (lineState s l).repaired lost else lineState s l := by
  by_cases h : lost = true ∨ s.hbm.bad.get 0 line ≠ 0 ∨ s.hbm.poison.get false line = true
  · have hmarked : lineState (repairLine lost line s) l = lineState (poisonLine line (renewed line s)) l := by
      unfold repairLine
      dsimp only
      split
      · rw [lineState_record]
        rfl
      · next hlost =>
        rw [Bool.or_eq_true, decide_eq_true_eq, not_or] at hlost
        rw [if_pos ((h.resolve_left hlost.1).resolve_left hlost.2)]
        rfl
    rw [hmarked, lineState_poisonLine, lineState_renewed]
    split
    · next hl =>
      subst hl
      exact (if_pos h).symm
    · rfl
  · have hstored : repairLine lost line s = dramStore line (mergedLine s line) (renewed line s) := by
      rw [not_or, not_or] at h
      obtain ⟨hread, hbad, hpoison⟩ := h
      exact (if_neg (by simp [hread, not_not.1 hbad])).trans (if_neg hpoison)
    rw [hstored, lineState_dramStore, lineState_renewed]
    split
    · next hl =>
      subst hl
      rw [mergedLine_eq, padTo_self (merged_length s l)]
      exact (if_neg h).symm
    · rfl

/-- What holds once element `a` has been met, and stays, holds after the fold. -/
theorem foldl_reaches {α β : Type} {p : β → Prop} {f : β → α → β} {l : List α} {a : α} (ha : a ∈ l) (hmakes : ∀ x, p (f x a))
    (hkeeps : ∀ x b, p x → p (f x b)) (x : β) : p (l.foldl f x) := by
  obtain ⟨before, after, rfl⟩ := List.append_of_mem ha
  rw [List.foldl_append, List.foldl_cons]
  exact List.foldlRecOn after f (hmakes _) fun y hy b _ => hkeeps y b hy

section
variable (line : Nat → Nat) (unread : List Nat) (ls : List Nat) (s : State)

/-- Lines `line l` for the `l` of a list are written back after a repair, `unread` of them as poison. -/
def repairLines : State := ls.foldl (fun s l => repairLine (unread.contains l) (line l) s) s

theorem lineState_repairLine_keeps {p : LineState → Prop} (k : Nat) (hp : ∀ lost x, p x → p (x.repaired lost)) (lost : Bool) (l : Nat) {u : State}
    (h : p (lineState u k)) : p (lineState (repairLine lost l u) k) := by
  rw [lineState_repairLine]
  split
  · exact hp _ _ h
  · exact h

variable {line unread ls s} {l k : Nat}

/-- A line of the list is good and has no entry afterwards. -/
theorem repairLines_good (hl : l ∈ ls) :
    (lineState (repairLines line unread ls s) (line l)).bad = 0 ∧ (lineState (repairLines line unread ls s) (line l)).entry = none := by
  have hp : ∀ lost (x : LineState), (x.repaired lost).bad = 0 ∧ (x.repaired lost).entry = none := by
    intro lost x
    unfold LineState.repaired
    split <;> exact ⟨rfl, rfl⟩
  refine foldl_reaches (p := fun u => (lineState u (line l)).bad = 0 ∧ (lineState u (line l)).entry = none) hl (fun u => ?_)
    (fun u b h => lineState_repairLine_keeps (p := fun x => x.bad = 0 ∧ x.entry = none) (line l) (fun lost x _ => hp lost x) _ _ h) s
  rw [lineState_repairLine, if_pos rfl]
  exact hp _ _

theorem repaired_lost {lost : Bool} {x : LineState} (h : lost = true ∨ x.bad ≠ 0 ∨ x.poison = true) : (x.repaired lost).poison = true := by
  rw [LineState.repaired, if_pos h]

/-- A line that could not be read keeps its marker. -/
theorem repairLines_unread (hl : l ∈ ls) (hu : l ∈ unread) : (lineState (repairLines line unread ls s) (line l)).poison = true := by
  refine foldl_reaches (p := fun u => (lineState u (line l)).poison = true) hl (fun u => ?_)
    (fun u b h => lineState_repairLine_keeps (p := fun x => x.poison = true) (line l) (fun lost x h => repaired_lost (.inr (.inr h))) _ _ h) s
  rw [lineState_repairLine, if_pos rfl]
  exact repaired_lost (.inl (by simpa using hu))

/-- So does one whose code was known to fail. -/
theorem repairLines_bad (hl : l ∈ ls) (hbad : (lineState s (line l)).bad ≠ 0) :
    (lineState (repairLines line unread ls s) (line l)).poison = true := by
  have hkept : (lineState (repairLines line unread ls s) (line l)).bad ≠ 0 ∨ (lineState (repairLines line unread ls s) (line l)).poison = true :=
    List.foldlRecOn (motive := fun u => (lineState u (line l)).bad ≠ 0 ∨ (lineState u (line l)).poison = true) ls _ (.inl hbad)
      fun u h b _ => lineState_repairLine_keeps (p := fun x => x.bad ≠ 0 ∨ x.poison = true) (line l) (fun lost x h => .inr (repaired_lost (.inr h))) _ _ h
  exact hkept.resolve_left (not_not.2 (repairLines_good hl).1)

/-- A line that was read holds what it and the buffer held. -/
theorem repairLines_read (hread : ∀ x ∈ ls, x ∈ unread → line x ≠ k) (hbad : (lineState s k).bad = 0) (hpoison : (lineState s k).poison = false) :
    (lineState (repairLines line unread ls s) k).merged = (lineState s k).merged := by
  have hkept := List.foldlRecOn (motive := fun u => (lineState u k).bad = 0 ∧ (lineState u k).poison = false
    ∧ (lineState u k).merged = (lineState s k).merged) ls (fun s l => repairLine (unread.contains l) (line l) s) ⟨hbad, hpoison, rfl⟩ ?_
  · exact hkept.2.2
  · rintro u ⟨hb, hp, hm⟩ b hmem
    rw [lineState_repairLine]
    split
    · next hk =>
      have hin : unread.contains b = false := by simpa using fun hu => hread b hmem hu hk.symm
      have hgood : ¬(unread.contains b = true ∨ (lineState u k).bad ≠ 0 ∨ (lineState u k).poison = true) := by rw [hin, hb, hp]; decide
      rw [LineState.repaired, if_neg hgood]
      exact ⟨rfl, rfl, hm⟩
    · exact ⟨hb, hp, hm⟩

end

section
variable {ch : Fin 256} {lines unread : List Nat} {s : State}

/-- Line `l` of the channel. -/
def channelLine (ch : Fin 256) (l : Nat) : Nat := ch.val / 64 * 2 ^ 31 + ch.val % 64 * 2 ^ 25 + l % 2 ^ 25

theorem lineChannel_channelLine (ch : Fin 256) (l : Nat) : lineChannel (channelLine ch l) = ch := by
  unfold lineChannel channelLine
  omega

theorem repairLine_heldTo (lost : Bool) (line : Nat) (s : State) : (repairLine lost line s).hbm.heldTo = s.hbm.heldTo := by
  unfold repairLine
  dsimp only
  split
  · rw [record_hbm]
    rfl
  · split <;> rfl

/-- The channel is held for the repair. -/
def heldForRepair (ch : Fin 256) (s : State) : State := s.modHbm fun h => { h with heldTo := h.heldTo.set 0 ch (s.aon + 100000) }

theorem lineState_heldForRepair (ch : Fin 256) (s : State) (k : Nat) : lineState (heldForRepair ch s) k = lineState s k := by
  unfold lineState heldForRepair
  rfl

/-- The record of a channel's repair (R215). -/
def repairRecord (ch : Fin 256) : Record :=
  { level := 2, cls := 1, flags := 1, code := 0x307, region := some (ch.val / 64), sub := ch.val % 64 }

/-- The row's lines, repaired. -/
def repairedRow (ch : Fin 256) (lines unread : List Nat) (s : State) : State :=
  repairLines (channelLine ch) unread (lines ++ unread).dedup (heldForRepair ch s)

theorem repairedRow_heldTo : (repairedRow ch lines unread s).hbm.heldTo.get 0 ch = s.aon + 100000 := by
  have hfold : (repairedRow ch lines unread s).hbm.heldTo = (heldForRepair ch s).hbm.heldTo :=
    foldl_view (fun u => u.hbm.heldTo) (fun u l => repairLine_heldTo _ _ u) _ _
  rw [hfold]
  exact Table.get_set_same s.hbm.heldTo 0 ch (s.aon + 100000)

/-- After the repair the row's lines are good and out of the buffer, with their bytes where they were read and their marker where they were not. -/
theorem repairedRow_spec {t : State} (h : t.hbm = (repairedRow ch lines unread s).hbm) :
    (∀ l ∈ lines, t.hbm.bad.get 0 (channelLine ch l) = 0)
    ∧ (∀ l, l ∈ unread ∨ (l ∈ lines ∧ s.hbm.bad.get 0 (channelLine ch l) ≠ 0) → t.hbm.poison.get false (channelLine ch l) = true)
    ∧ (∀ l ∈ lines, s.hbm.bad.get 0 (channelLine ch l) = 0 → s.hbm.poison.get false (channelLine ch l) = false
        → (∀ x ∈ unread, channelLine ch x ≠ channelLine ch l) → mergedLine t (channelLine ch l) = mergedLine s (channelLine ch l))
    ∧ (∀ l ∈ lines ++ unread, ∀ e ∈ wcbOf t ch, e.line ≠ channelLine ch l)
    ∧ t.hbm.heldTo.get 0 ch = s.aon + 100000 := by
  have hstate : ∀ k, lineState t k = lineState (repairedRow ch lines unread s) k := lineState_congr h
  have hmem : ∀ l, l ∈ lines ++ unread → l ∈ (lines ++ unread).dedup := fun l hl => List.mem_dedup.2 hl
  refine ⟨fun l hl => ?_, fun l hl => ?_, fun l hl hbad hpoison hread => ?_, fun l hl => ?_, h ▸ repairedRow_heldTo⟩
  · exact (congrArg LineState.bad (hstate _)).trans (repairLines_good (hmem l (List.mem_append_left _ hl))).1
  · refine (congrArg LineState.poison (hstate _)).trans ?_
    rcases hl with hu | ⟨hl, hbad⟩
    · exact repairLines_unread (hmem l (List.mem_append_right _ hu)) hu
    · refine repairLines_bad (hmem l (List.mem_append_left _ hl)) ?_
      rw [lineState_heldForRepair]
      exact hbad
  · rw [mergedLine_eq, mergedLine_eq, hstate, ← lineState_heldForRepair ch s]
    refine repairLines_read (fun x _ hx => hread x hx) ?_ ?_ <;> rw [lineState_heldForRepair]
    · exact hbad
    · exact hpoison
  · have hnone := (repairLines_good (line := channelLine ch) (unread := unread) (s := heldForRepair ch s) (hmem l hl)).2
    have hbuffer := entryOf_none.1 ((congrArg LineState.entry (hstate _)).trans hnone)
    rwa [lineChannel_channelLine] at hbuffer

section
variable (hdev : s.dev = .boot ∨ s.dev = .ready) (hup : regionUp s (ch.val / 64) = true)
include hdev hup

theorem exec_repair_noRow : exec (.postPackageRepair ch lines unread false) s
    = .next (raiseEvent 0x30 0 (leBytes 1 (ch.val / 64) ++ leBytes 1 (ch.val % 64)) s) :=
  if_pos (by rcases hdev with h | h <;> simp [h, hup])

theorem exec_repair_row : exec (.postPackageRepair ch lines unread true) s
    = .next (record (repairRecord ch) (repairedRow ch lines unread s)) :=
  if_pos (by rcases hdev with h | h <;> simp [h, hup])

end

end

/-! ### The statement -/

/-- Settles O59: what a read delivers by the state of its line, which each operation changes as its equation says. -/
theorem hbmLines : Obligations.HbmLines := by
  unfold Obligations.HbmLines
  refine ⟨fun r off mask data line s hruns hphys hchan hsound hmeet hwritable => ?writes, fun r off mask data errs s hruns => ?discards,
    fun e s hchan hpart hmeet => ⟨fun hpoison hbad => ?merges, fun h => flushEntry_unreadable hchan hpart hmeet h⟩,
    fun r off q line s hruns hphys hchan hbad => ⟨fun hpoison => ?reads, fun row => ?unreadable⟩,
    fun r off q e mask data s hidle => ⟨exec_hbmRead_idle e hidle, exec_hbmWrite_idle mask data hidle⟩,
    fun ch w s hruns hchan => ?scrubs, fun ch s hruns => ?trains, fun ch s => ?times, fun ch cause s hchan hmapped => ?fails,
    fun ch lines unread s hdev hup => ⟨exec_repair_noRow hdev hup, _, exec_repair_row hdev hup, ?repairs⟩⟩
  case writes =>
    have hwrote := acceptWrite_wrote hchan hsound hmeet hwritable (leBytes 64 data.toNat)
    obtain ⟨hsame, hothers⟩ := hwrote.peeks hmeet
    refine ⟨_, (exec_hbmWrite mask data [] hruns).trans (congrArg Host.Outcome.next (writeLine_accepts hphys hchan)), ?_, hothers, hwrote.only.frame,
      hwrote.only.pmap⟩
    rw [hsame r off.toNat hphys, peekLine_eq hmeet hphys]
  case discards =>
    exact ⟨exec_hbmWrite mask data errs hruns, writeLine_outside, fun line hphys hchan => writeLine_failed hphys hchan⟩
  case merges =>
    rw [flushEntry_partial hchan hpart hmeet hbad hpoison]
    have hline := lineState_dramStore e.line e.line (withoutLine e.line s) (mergeBytes e.mask e.data (dramLine s e.line))
    rw [if_pos rfl, padTo_self (mergeBytes_length _ _ _)] at hline
    exact ⟨congrArg LineState.dram hline, congrArg LineState.poison hline⟩
  case reads =>
    rw [exec_hbmRead .clean hruns, exec_hbmRead .corrected hruns, readLineEcc_eq _ .corrected hphys (readPhys_corrected hchan hbad hpoison)]
    have hclean := readLineEcc_eq (requesterBlock q) .clean hphys (readPhys_clean hchan hbad hpoison)
    exact ⟨by rw [hclean], hclean, rfl⟩
  case unreadable =>
    have hlost := readLineEcc_eq (requesterBlock q) (.uncorrectable row) hphys (readPhys_uncorrectable hchan row)
    rw [exec_hbmRead (.uncorrectable row) hruns, hlost]
    exact ⟨congrArg Prod.fst hlost, rfl⟩
  case scrubs =>
    intro k line u rec' fails hmapped
    exact ⟨fun hbad => ⟨patrolScrub_clean hruns hchan hmapped w hbad, patrolScrub_corrected hruns hchan hmapped w hbad⟩,
      fun key hbad => ⟨patrolScrub_bad hruns hchan hmapped w (.inl rfl) hbad, patrolScrub_bad hruns hchan hmapped w (.inr rfl) hbad⟩,
      patrolScrub_uncorrectable hruns hchan hmapped w⟩
  case trains =>
    exact ⟨if_pos hruns, fun hchan => if_pos (by simp [hruns, hchan]), fun hchan => if_neg (by simp [hchan])⟩
  case times =>
    rw [exec_channelRetrainTimeout]
    exact ⟨fun hlost hlate => if_pos ⟨hlost, hlate⟩, fun h => if_neg fun ⟨hlost, hlate⟩ => h.elim hlost (Nat.not_lt.2 hlate)⟩
  case fails =>
    have hfails := failChannel_fails (cause := cause) hchan hmapped
    simp only [chanFailed, wcbOf, hfails]
    exact ⟨Table.get_set_same .., Table.get_set_same .., fun k hk => Table.get_set_other _ _ _ hk⟩
  case repairs =>
    have hrow := repairedRow_spec (ch := ch) (lines := lines) (unread := unread) (s := s) (record_hbm (repairRecord ch) _)
    unfold channelLine at hrow
    exact hrow

end Sys2Proof.Machine

/-! SUPPORT. What the operations of the optical engines make of the positions (R252 to R269). -/

namespace Sys2Proof.Machine

open Sys2Proof

/-! ### Loops over positions -/

/-- Only what an update makes of the position counts. -/
theorem modPos_congr {s : State} {k : Nat} {f g : PosSt → PosSt} (h : f (posAt s k) = g (posAt s k)) : s.modPos k f = s.modPos k g :=
  congrArg (fun q => s.modOe fun o => { o with pos := o.pos.set {} k q }) h

/-- A loop of which each step changes one position, in its own way: the positions it meets change once, the others stay. -/
theorem posAt_foldl {step : State → Nat → State} {key : Nat → Nat} {f : Nat → PosSt → PosSt} {inv : State → Prop}
    (hstep : ∀ u i, inv u → inv (step u i) ∧ ∀ k, posAt (step u i) k = if k = key i then f i (posAt u k) else posAt u k)
    (l : List Nat) (hl : (l.map key).Nodup) {s : State} (hs : inv s) :
    (∀ k, k ∉ l.map key → posAt (l.foldl step s) k = posAt s k) ∧ ∀ i ∈ l, posAt (l.foldl step s) (key i) = f i (posAt s (key i)) := by
  induction l generalizing s with
  | nil => exact ⟨fun _ _ => rfl, fun _ hi => absurd hi List.not_mem_nil⟩
  | cons a l ih =>
    obtain ⟨ha, hl⟩ := List.nodup_cons.1 hl
    obtain ⟨hinv, hone⟩ := hstep s a hs
    obtain ⟨hout, hin⟩ := ih hl hinv
    refine ⟨fun k hk => ?_, fun i hi => ?_⟩
    · obtain ⟨hka, hkl⟩ := not_or.1 (mt List.mem_cons.2 hk)
      rw [List.foldl_cons, hout k hkl, hone, if_neg hka]
    · rw [List.foldl_cons]
      rcases List.mem_cons.1 hi with rfl | hi
      · rw [hout _ ha, hone, if_pos rfl]
      · have hne : key i ≠ key a := fun h => ha (h ▸ List.mem_map_of_mem hi)
        rw [hin i hi, hone, if_neg hne]

/-- The loop that updates the positions `key i`, for each `i` of a list by `f i`. -/
theorem posAt_foldl_modPos {key : Nat → Nat} {f : Nat → PosSt → PosSt} (l : List Nat) (hl : (l.map key).Nodup) (s : State) :
    (∀ k, k ∉ l.map key → posAt (l.foldl (fun s i => s.modPos (key i) (f i)) s) k = posAt s k)
      ∧ ∀ i ∈ l, posAt (l.foldl (fun s i => s.modPos (key i) (f i)) s) (key i) = f i (posAt s (key i)) := by
  refine posAt_foldl (inv := fun _ => True) (fun u i _ => ⟨trivial, fun k => ?_⟩) l hl trivial
  rw [posAt_modPos]
  split
  · next hk => rw [hk]
  · rfl

theorem mem_portPositions {p d k : Nat} : k ∈ portPositions p d ↔ 68 * p + 34 * d ≤ k ∧ k < 68 * p + 34 * d + 34 := by
  simp only [portPositions, List.mem_map, List.mem_range]
  exact ⟨fun ⟨i, hi, h⟩ => by omega, fun h => ⟨k - (68 * p + 34 * d), by omega, by omega⟩⟩

theorem nodup_portPositions (p d : Nat) : (portPositions p d).Nodup :=
  List.nodup_range.map fun _ _ h => Nat.add_left_cancel h

end Sys2Proof.Machine

/-! SUPPORT. Proof of the statement about margin tests and bias steps (O56). -/

namespace Sys2Proof.Machine

open Sys2Proof

/-! ### MARGIN_REQ (R265, R288; logs 90 and 96) -/

@[simp] theorem lanePeer_mgtRest (rest : List Carried) (s : State) (p d line : Nat) : lanePeer (mgtRest rest s) p d line = lanePeer s p d line := rfl

@[simp] theorem planUses_mgtRest (rest : List Carried) (s : State) (p line : Nat) : planUses (mgtRest rest s) p line = planUses s p line := rfl

@[simp] theorem linkKey_mgtRest (rest : List Carried) (s : State) (p line : Nat) : linkKey (mgtRest rest s) p line = linkKey s p line := rfl

@[simp] theorem rxTestOf_mgtRest (rest : List Carried) (s : State) (k : Nat) : rxTestOf (mgtRest rest s) k = rxTestOf s k := rfl

@[simp] theorem txTestOf_mgtRest (rest : List Carried) (s : State) (k : Nat) : txTestOf (mgtRest rest s) k = txTestOf s k := rfl

section
variable {c : Carried} {rest : List Carried} {s : State}

theorem exec_marginReq (h : Message s 0x20 c rest) : exec .marginReq s
    = .next (if marginReqOk (c.pkt.payload.drop 8) then takeMarginReq c.link (c.pkt.payload.drop 8) (mgtRest rest s) else fabCount 0 (mgtRest rest s)) :=
  mgtStep_takes h rfl

theorem exec_marginReq_ok (h : Message s 0x20 c rest) (hok : marginReqOk (c.pkt.payload.drop 8) = true) : exec .marginReq s
    = .next (takeMarginReq c.link (c.pkt.payload.drop 8) (mgtRest rest s)) := by
  rw [exec_marginReq h, if_pos hok]

end

section
variable {key : Nat} {b : List Byte} {s : State} (rest : List Carried)

theorem takeMarginReq_noPeer (hpeer : lanePeer s (key / 34) 1 (field b 5 1) = none) : takeMarginReq key b (mgtRest rest s) = mgtRest rest s := by
  simp [takeMarginReq, hpeer]

variable {d p : Nat} (hpeer : lanePeer s (key / 34) 1 (field b 5 1) = some (d, p))
include hpeer

/-- Step 1 starts the receiver's test, or is answered BUSY where the leg's plan uses the lane. -/
theorem takeMarginReq_start (hstep : field b 6 1 = 1) :
    let t : RxTest := { device := d, req := field b 0 4, port := field b 4 1, line := field b 5 1 }
    takeMarginReq key b (mgtRest rest s) = if planUses s (key / 34) (field b 5 1) then sendMarginResult t 3 0 0 0 0 (mgtRest rest s)
      else setRxTest (34 * (key / 34) + field b 5 1) (some t) (mgtRest rest s) := by
  cases huse : planUses s (key / 34) (field b 5 1) <;> simp [takeMarginReq, hpeer, hstep, huse]

/-- Step 2 starts the count of the test that it names, once the receiver has told of the first part. -/
theorem takeMarginReq_count {x : RxTest} (hstep : field b 6 1 = 2) (hx : rxTestOf s (34 * (key / 34) + field b 5 1) = some x) :
    takeMarginReq key b (mgtRest rest s) = if x.req = field b 0 4 ∧ x.told = true then
        setRxTest (34 * (key / 34) + field b 5 1) (some { x with counting := true }) (mgtRest rest s)
      else mgtRest rest s := by
  simp [takeMarginReq, hpeer, hstep, hx]

end

/-! ### MARGIN_COUNT_COMPLETE (R265, R288) -/

section
variable (port : Fin 16) (line : Fin 34) (eye rlm : W16) (errs : W32) {s : State}

theorem exec_marginCountComplete (s : State) : exec (.marginCountComplete port line eye rlm errs) s = execMarginCountComplete port line eye rlm errs s := rfl

theorem marginCountComplete_none (h : rxTestOf s (34 * port.val + line.val) = none) :
    exec (.marginCountComplete port line eye rlm errs) s = .next s := by
  rw [exec_marginCountComplete, execMarginCountComplete, h]

variable {t : RxTest} (h : rxTestOf s (34 * port.val + line.val) = some t)
include h

theorem marginCountComplete_ends (hc : t.counting = true) : exec (.marginCountComplete port line eye rlm errs) s
    = .next (setRxTest (34 * port.val + line.val) none (sendMarginResult t 2 (marginPass t.eye t.rlm errs.toNat) t.eye t.rlm errs.toNat s)) := by
  rw [exec_marginCountComplete, execMarginCountComplete, h]
  exact if_pos hc

theorem marginCountComplete_tells (hc : t.counting = false) (ht : t.told = false) : exec (.marginCountComplete port line eye rlm errs) s
    = .next (sendMarginResult { t with told := true, eye := eye.toNat, rlm := rlm.toNat } 1 0 eye.toNat rlm.toNat 0
        (setRxTest (34 * port.val + line.val) (some { t with told := true, eye := eye.toNat, rlm := rlm.toNat }) s)) := by
  rw [exec_marginCountComplete, execMarginCountComplete, h]
  simp [hc, ht]

end

/-- Four flags of a number, each in its own bit. -/
theorem bit_flags : ∀ a b c d : Bool,
    bit (bitAt a 0 + bitAt b 1 + bitAt c 2 + bitAt d 3) 0 = a ∧ bit (bitAt a 0 + bitAt b 1 + bitAt c 2 + bitAt d 3) 1 = b
      ∧ bit (bitAt a 0 + bitAt b 1 + bitAt c 2 + bitAt d 3) 2 = c ∧ bit (bitAt a 0 + bitAt b 1 + bitAt c 2 + bitAt d 3) 3 = d := by
  decide

/-- PASS holds R265's three limits, and whether all are met. -/
theorem bit_marginPass (eye rlm errs : Nat) :
    (bit (marginPass eye rlm errs) 0 = true ↔ 120 ≤ eye) ∧ (bit (marginPass eye rlm errs) 1 = true ↔ errs ≤ 10000)
      ∧ (bit (marginPass eye rlm errs) 2 = true ↔ 950 ≤ rlm) ∧ (bit (marginPass eye rlm errs) 3 = true ↔ 120 ≤ eye ∧ errs ≤ 10000 ∧ 950 ≤ rlm) := by
  obtain ⟨h0, h1, h2, h3⟩ := bit_flags (decide (120 ≤ eye)) (decide (errs ≤ 10000)) (decide (950 ≤ rlm))
    (decide (120 ≤ eye) && decide (errs ≤ 10000) && decide (950 ≤ rlm))
  rw [marginPass, h0, h1, h2, h3]
  simp [and_assoc]

/-! ### MARGIN_RESULT (R265, R288) -/

theorem exec_marginResult {c : Carried} {rest : List Carried} {s : State} (h : Message s 0x21 c rest)
    (hok : marginResultOk (c.pkt.payload.drop 8) = true) : exec .marginResult s = .next (takeMarginResult (c.pkt.payload.drop 8) (mgtRest rest s)) := by
  have hrun : exec .marginResult s = mgtStep 0x21 marginResultOk (fun _ b s => takeMarginResult b s) s := rfl
  rw [hrun, mgtStep_takes h rfl, if_pos hok]

section
variable {b : List Byte} {t : TxTest} {s : State} (rest : List Carried) (ht : txTestOf s (34 * field b 4 1 + field b 5 1) = some t)
include ht

theorem takeMarginResult_other (hreq : t.req ≠ field b 0 4) : takeMarginResult b (mgtRest rest s) = mgtRest rest s := by
  simp [takeMarginResult, ht, hreq]

/-- The first result of a test reduces the bias and asks for step 2. -/
theorem takeMarginResult_first (hreq : t.req = field b 0 4) (hkind : field b 6 1 = 1) (hnew : t.reduced = false) : takeMarginResult b (mgtRest rest s)
    = sendLocal (linkKey s (field b 4 1) (field b 5 1)) 0x20 (marginReqBody t.req (field b 4 1) (field b 5 1) 2)
        (setTxTest (34 * field b 4 1 + field b 5 1) (some { t with reduced := true, eye := field b 8 2, rlm := field b 10 2 }) (mgtRest rest s))
        (some (field b 5 1)) := by
  simp [takeMarginResult, ht, hreq, hkind, hnew]

/-- A final result ends the test, by its PASS. -/
theorem takeMarginResult_final (hreq : t.req = field b 0 4) (hkind : field b 6 1 = 2) : takeMarginResult b (mgtRest rest s)
    = if bit (field b 7 1) 3 then endMargin (field b 4 1) (field b 5 1) none (mgtRest rest s)
      else endMargin (field b 4 1) (field b 5 1) (some (1, marginWords (field b 7 1) (field b 8 2) (field b 10 2) (field b 12 4))) (mgtRest rest s) := by
  simp [takeMarginResult, ht, hreq, hkind]

end

/-! ### A test ends (R265, R266, R539) -/

theorem marginTestTimeout_of_test {port : Fin 16} {line : Fin 34} {t : TxTest} {s : State} (h : txTestOf s (34 * port.val + line.val) = some t) :
    exec (.marginTestTimeout port line) s
      = if t.start + 2500000 ≤ s.aon then .next (endMargin port line (some (3, marginWords 0 t.eye t.rlm 0)) s) else .next s := by
  have hrun : exec (.marginTestTimeout port line) s = execMarginTestTimeout port line s := rfl
  rw [hrun, execMarginTestTimeout, h]

/-- What a test's result marks: the positions that carry the line, and no other part of the state. -/
theorem setMargin_leaves (port line : Nat) (passed : Bool) (s : State) :
    (setMargin port line passed s).job = s.job ∧ (setMargin port line passed s).oe.txTest = s.oe.txTest := by
  unfold setMargin
  exact ⟨foldl_view State.job (by simp) _ s, foldl_view (·.oe.txTest) (by simp) _ s⟩

theorem posAt_setMargin (port line : Nat) (passed : Bool) (s : State) :
    (∀ k ∈ portPositions port 0, (posAt s k).line = line → posAt (setMargin port line passed s) k = { posAt s k with margin := passed })
      ∧ ∀ k, (posAt s k).line ≠ line → posAt (setMargin port line passed s) k = posAt s k := by
  have hnodup := (nodup_portPositions port 0).filter fun k => (posAt s k).line == line
  obtain ⟨hout, hin⟩ := posAt_foldl_modPos (key := id) (f := fun _ q => { q with margin := passed }) _ (hnodup.map Function.injective_id) s
  refine ⟨fun k hk hline => hin k (List.mem_filter.2 ⟨hk, beq_iff_eq.2 hline⟩), fun k hline => hout k fun hk => hline ?_⟩
  rw [List.map_id] at hk
  exact beq_iff_eq.1 (List.mem_filter.1 hk).2

/-- With no traverse being loaded, the end of a test touches the engines by its mark alone. -/
theorem endMargin_oe (port line : Nat) (failed : Option (Nat × List Byte)) {s : State} (hload : s.job.loading = none) :
    (endMargin port line failed s).oe = (setMargin port line failed.isNone (setTxTest (34 * port + line) none s)).oe := by
  have hjob : (setMargin port line failed.isNone (setTxTest (34 * port + line) none s)).job.loading = none :=
    (congrArg Job.loading (setMargin_leaves _ _ _ _).1).trans hload
  cases failed with
  | none => simp only [endMargin, laneTested, hjob]
  | some x => simp only [endMargin, laneTested, raiseEvent_job, hjob, raiseEvent_oe]

/-! ### Service lanes (R267) -/

/-- The state with a service position's sample in it. -/
def sampled (k : Nat) (m : Int) (s : State) : State :=
  s.modPos k fun q => { q with marginDb := m, lowMs := if m < (calOf s k).biasThr then q.lowMs + 1 else 0 }

theorem posAt_sampled (k : Nat) (m : Int) (s : State) : posAt (sampled k m s) k
    = { posAt s k with marginDb := m, lowMs := if m < (calOf s k).biasThr then (posAt s k).lowMs + 1 else 0 } :=
  (posAt_modPos s k k _).trans (if_pos rfl)

section
variable {port : Fin 16} {line : Fin 34} {k d p : Nat} {s : State} (hpos : activePos s port 1 line = some k) (hservice : (posAt s k).service = true)
  (hpeer : (posAt s k).peer = some (d, p)) (db : Int)
include hpos hservice hpeer

/-- BIAS_NEED goes out with the 64th low sample in a row, at most once per second. -/
theorem exec_serviceMarginSample : exec (.serviceMarginSample port line db) s
    = .next (if 64 ≤ (posAt (sampled k (db + 80) s) k).lowMs ∧ (∀ t, (posAt s k).need = some t → t + 50000000 ≤ s.aon) then
        sendMgt 0x22 d (biasNeedBody p line (db + 80) (sampled k (db + 80) s)) ((sampled k (db + 80) s).modPos k fun q => { q with need := some s.aon })
      else sampled k (db + 80) s) := by
  have hrun : exec (.serviceMarginSample port line db) s = execServiceMarginSample port line db s := rfl
  have hsample : (s.modPos k fun q =>
      { q with marginDb := db + 80, lowMs := if db + 80 < (calOf s k).biasThr then (posAt s k).lowMs + 1 else 0 }) = sampled k (db + 80) s :=
    modPos_congr rfl
  have haon : (sampled k (db + 80) s).aon = s.aon := rfl
  rw [hrun, execServiceMarginSample, hpos]
  simp only [hservice, hsample, posAt_sampled, hpeer, haon]
  cases (posAt s k).need <;> simp [apply_ite Host.Outcome.next]

theorem serviceMarginSample_quiet (h : ((calOf s k).biasThr : Int) ≤ db + 80 ∨ (posAt s k).lowMs + 1 < 64) :
    exec (.serviceMarginSample port line db) s = .next (sampled k (db + 80) s) := by
  rw [exec_serviceMarginSample hpos hservice hpeer, if_neg]
  rintro ⟨hlow, -⟩
  rw [posAt_sampled] at hlow
  dsimp only at hlow
  split at hlow <;> omega

theorem serviceMarginSample_asks (hm : db + 80 < ((calOf s k).biasThr : Int)) (hlow : 63 ≤ (posAt s k).lowMs)
    (hneed : ∀ t, (posAt s k).need = some t → t + 50000000 ≤ s.aon) : exec (.serviceMarginSample port line db) s
      = .next (sendMgt 0x22 d (biasNeedBody p line (db + 80) (sampled k (db + 80) s))
          ((sampled k (db + 80) s).modPos k fun q => { q with need := some s.aon })) := by
  rw [exec_serviceMarginSample hpos hservice hpeer, if_pos]
  refine ⟨?_, hneed⟩
  rw [posAt_sampled]
  dsimp only
  rw [if_pos hm]
  omega

end

/-! ### Bias steps (R240, R268; log 131) -/

theorem exec_biasNeed {c : Carried} {rest : List Carried} {s : State} (h : Message s 0x22 c rest) (busy : Bool) (head : Byte) :
    let b := c.pkt.payload.drop 8
    exec (.biasNeed busy head) s = .next (if biasNeedOk b then
        if stepAllowed s (field b 2 1 / 2) (field b 3 1) busy then biasStep (field b 2 1 / 2) (field b 3 1) head.toNat (mgtRest rest s) else mgtRest rest s
      else fabCount 0 (mgtRest rest s)) := by
  have hrun : exec (.biasNeed busy head) s = execBiasNeed busy head s := rfl
  rw [hrun, execBiasNeed, mgtStep_takes h rfl]
  rfl

/-- The aging record of a line after one more step. -/
def Aging.stepped (headroom now : Nat) (a : Aging) : Aging :=
  { a with steps := min 65535 (a.steps + 1), headroom := headroom, exhausted := decide (headroom = 0), last := some now }

/-- A step touches, of the engines, the line's aging record and the comb source's selection. -/
theorem biasStep_oe (e line h : Nat) (s : State) : (biasStep e line h s).oe = { s.oe with
    combAddr := some 0x5C, combIfver := 1, aging := s.oe.aging.set {} (34 * e + line) ((agingOf s e line).stepped h s.aon),
    combSelect := e + 256 * line } := by
  unfold biasStep
  dsimp only
  split
  · exact raiseEvent_oe ..
  · rfl

theorem agingOf_biasStep (e line h : Nat) (s : State) : agingOf (biasStep e line h s) e line = (agingOf s e line).stepped h s.aon := by
  rw [agingOf, biasStep_oe]
  exact Table.get_set_same ..

/-! ### The statement -/

/-- Settles O56: each message and measurement meets its test, lane or line as the equations of its step say. -/
theorem marginsAndBias : Obligations.MarginsAndBias := by
  unfold Obligations.MarginsAndBias
  refine ⟨fun c rest s h => ⟨fun hbad => ?_, fun hok hpeer => ?_, fun d p hok hpeer => ⟨fun hstep hfree => ?_, fun hstep hused => ?_,
      fun hstep x hx => ⟨fun hreq htold => ?_, fun hother => ?_⟩⟩⟩,
    fun port line eye rlm errs s => ⟨marginCountComplete_none port line eye rlm errs, fun t => marginCountComplete_ends port line eye rlm errs,
      fun t => marginCountComplete_tells port line eye rlm errs⟩,
    fun c rest t s h => ?_, fun port line t s ht => ?_, fun port line f s _ hload => ?_, bit_marginPass,
    fun port line db k d p s hpos hservice hpeer => ⟨serviceMarginSample_quiet hpos hservice hpeer db, serviceMarginSample_asks hpos hservice hpeer db⟩,
    fun busy head c rest s h => ?_, fun e line h s => ?_⟩
  · rw [exec_marginReq h, if_neg (Bool.eq_false_iff.1 hbad)]
    rfl
  · rw [exec_marginReq_ok h hok, takeMarginReq_noPeer rest hpeer]
    rfl
  · rw [exec_marginReq_ok h hok, takeMarginReq_start rest hpeer hstep, if_neg (Bool.eq_false_iff.1 hfree)]
    rfl
  · rw [exec_marginReq_ok h hok, takeMarginReq_start rest hpeer hstep, if_pos hused]
    rfl
  · rw [exec_marginReq_ok h hok, takeMarginReq_count rest hpeer hstep hx, if_pos ⟨hreq, htold⟩]
    rfl
  · rw [exec_marginReq_ok h hok, takeMarginReq_count rest hpeer hstep hx, if_neg fun ⟨hreq, htold⟩ => by simp [hreq, htold] at hother]
    rfl
  · intro b u port line k hok ht
    rw [exec_marginResult h hok]
    refine ⟨fun hreq => ?_, fun hreq hkind hnew => ?_, fun hreq hkind hpass => ?_, fun hreq hkind hfail => ?_⟩
    · rw [takeMarginResult_other rest ht hreq]
      rfl
    · rw [takeMarginResult_first rest ht hreq hkind hnew]
      rfl
    · rw [takeMarginResult_final rest ht hreq hkind, if_pos hpass]
      rfl
    · rw [takeMarginResult_final rest ht hreq hkind, if_neg (Bool.eq_false_iff.1 hfail)]
      rfl
  · rw [marginTestTimeout_of_test ht]
    exact ⟨fun hlate => if_pos hlate, fun hearly => if_neg (Nat.not_le.2 hearly)⟩
  · have hoe := endMargin_oe port line f hload
    obtain ⟨hmarked, hothers⟩ := posAt_setMargin port line f.isNone (setTxTest (34 * port + line) none s)
    refine ⟨?_, fun k hk hline => ?_, fun k hline => ?_⟩
    · rw [txTestOf, hoe, (setMargin_leaves _ _ _ _).2]
      exact Table.get_set_same s.oe.txTest none _ none
    · rw [posAt, hoe]
      exact congrArg PosSt.margin (hmarked k hk hline)
    · rw [posAt, hoe]
      exact hothers k hline
  · intro b u
    rw [exec_biasNeed h]
    exact ⟨fun hok hmay => by rw [if_pos hok, if_pos hmay]; rfl, fun hok hmay => by rw [if_pos hok, if_neg (Bool.eq_false_iff.1 hmay)]; rfl,
      fun hbad => by rw [if_neg (Bool.eq_false_iff.1 hbad)]; rfl⟩
  · rw [agingOf_biasStep, biasStep_oe]
    exact ⟨rfl, rfl, rfl, rfl, rfl⟩

end Sys2Proof.Machine

/-! SUPPORT. Proof of the statement about the optical engines (O57). -/

namespace Sys2Proof.Machine

open Sys2Proof

/-! ### Moves of one position (R252, R253, R259) -/

@[simp] theorem spareTaken_oe (k : Nat) (s : State) : (spareTaken k s).oe = s.oe := by
  unfold spareTaken
  split <;> simp

section
variable (k : Nat) (st : PosState) (s : State)

@[simp] theorem posAt_movePos_same : posAt (movePos k st s) k = { posAt s k with st := st, since := s.aon, frame := 0 } :=
  (posAt_modPos s k k _).trans (if_pos rfl)

theorem posAt_movePos_other {j : Nat} (h : j ≠ k) : posAt (movePos k st s) j = posAt s j :=
  (posAt_modPos s k j _).trans (if_neg h)

@[simp] theorem posAt_modPos_same (f : PosSt → PosSt) : posAt (s.modPos k f) k = f (posAt s k) :=
  (posAt_modPos s k k f).trans (if_pos rfl)

theorem posAt_modPos_other (f : PosSt → PosSt) {j : Nat} (h : j ≠ k) : posAt (s.modPos k f) j = posAt s j :=
  (posAt_modPos s k j f).trans (if_neg h)

end

/-- A spare is a position of its own. -/
theorem spareFor_ne {s : State} {k j : Nat} (hk : k % 34 < 32) (h : spareFor s k = some j) : j ≠ k := by
  have hmem := List.mem_of_find?_eq_some h
  simp only [List.map_cons, List.map_nil, List.mem_cons, List.not_mem_nil, or_false] at hmem
  omega

theorem posAt_congr {s t : State} (h : t.oe = s.oe) (k : Nat) : posAt t k = posAt s k := congrArg (fun o : Optics => o.pos.get {} k) h

/-- A position that is retired stays so while a spare takes its line and the loss is recorded. -/
theorem posAt_retirePos (k : Nat) (s : State) : (posAt (retirePos k s) k).st = .retired := by
  have hretired : (posAt (movePos k .retired s) k).st = .retired := by rw [posAt_movePos_same]
  unfold retirePos
  dsimp only
  generalize hspare : (if k % 34 < 32 then spareFor (movePos k .retired s) k else none) = spare
  cases spare with
  | none =>
    rw [posAt_congr (s := movePos k .retired s) (by simp)]
    exact hretired
  | some j =>
    obtain ⟨hk, hfor⟩ := Option.ite_none_right_eq_some.1 hspare
    have hne : k ≠ j := (spareFor_ne hk hfor).symm
    dsimp only [Option.isSome_some]
    rw [if_pos rfl, posAt_congr (spareTaken_oe ..), posAt_congr (raiseEvent_oe ..), posAt_congr (record_oe ..), posAt_movePos_other _ _ _ hne,
      posAt_modPos_other _ _ _ hne]
    exact hretired

/-- A failure below the third sends the position on. -/
theorem failPos_again {k : Nat} {next : State → State} {s : State} (h : (posAt s k).fails < 2) :
    failPos k next s = next (s.modPos k fun q => { q with fails := q.fails + 1 }) := by
  unfold failPos
  dsimp only
  rw [posAt_modPos_same, if_neg (by dsimp only; omega)]

/-- The third failure retires it. -/
theorem failPos_third {k : Nat} {next : State → State} {s : State} (h : 2 ≤ (posAt s k).fails) : (posAt (failPos k next s) k).st = .retired := by
  unfold failPos
  dsimp only
  rw [posAt_modPos_same, if_pos (by dsimp only; omega)]
  exact posAt_retirePos _ _

/-! ### Lock, search and plumb check (R245, R246, R254, R255) -/

theorem exec_lockErrorExceed (p : Pos) (err : Int) (s : State) : exec (.lockErrorExceed p err) s
    = if 100 < err.natAbs ∧ loopRuns (posAt s (posKey p)) = true then
        .next (movePos (posKey p) .unlocked (s.modPos (posKey p) fun q => { q with lockErr := err }))
      else .next (s.modPos (posKey p) fun q => { q with lockErr := err }) := by
  have hrun : exec (.lockErrorExceed p err) s = execLockErrorExceed p err s := rfl
  rw [hrun, execLockErrorExceed]
  simp [loopRuns]

theorem exec_searchComplete {p : Pos} (found : Option (Fin 34)) (drive : Nat) {s : State}
    (h : (posAt s (posKey p)).st = .search ∨ (posAt s (posKey p)).st = .unlocked) : exec (.searchComplete p found drive) s
      = .next (if found.isSome then
          movePos (posKey p) .plumb (s.modPos (posKey p) fun q => { q with drive := min drive 65535, retune := (min drive 65535 : Nat) })
        else settleMode p.port (movePos (posKey p) .dark s)) := by
  have hst : ((posAt s (posKey p)).st == .search || (posAt s (posKey p)).st == .unlocked) = true := by simpa using h
  cases found <;> exact if_pos hst

section
variable {p : Pos} {tags : List TagMeas} {s : State} (hst : (posAt s (posKey p)).st = .plumb)
include hst

theorem plumbCheckEnd_passes (h : plumbPasses (posAt s (posKey p)).line tags = true) : exec (.plumbCheckEnd p tags) s
    = .next (settleMode p.port (movePos (posKey p) (if ownSpare (posKey p) (posAt s (posKey p)) then .standby else .train) s)) := by
  have hrun : exec (.plumbCheckEnd p tags) s = execPlumbCheckEnd p tags s := rfl
  rw [hrun, execPlumbCheckEnd, if_pos (beq_iff_eq.2 hst), if_pos h]

theorem plumbCheckEnd_fails {d : Nat} (h : plumbPasses (posAt s (posKey p)).line tags = false) (hd : strongest tags = some d) :
    exec (.plumbCheckEnd p tags) s
      = .next (settleMode p.port (failPos (posKey p) (movePos (posKey p) .mislocked) (s.modPos (posKey p) fun q => { q with detected := d }))) := by
  have hrun : exec (.plumbCheckEnd p tags) s = execPlumbCheckEnd p tags s := rfl
  rw [hrun, execPlumbCheckEnd, if_pos (beq_iff_eq.2 hst), if_neg (Bool.eq_false_iff.1 h), hd]

end

theorem exec_retuneComplete {p : Pos} {s : State} (hst : (posAt s (posKey p)).st = .mislocked) : exec (.retuneComplete p) s
    = .next (movePos (posKey p) .plumb (s.modPos (posKey p) fun q =>
        { q with drive := retuned (posKey p) q, retune := (retuned (posKey p) q : Nat), detected := 63 })) :=
  if_pos (beq_iff_eq.2 hst)

theorem exec_lightReturn {p : Pos} {s : State} (hst : (posAt s (posKey p)).st = .dark) : exec (.lightReturn p) s
    = if p.dir = .tx ∧ (combOf s (p.port / 2) (posAt s (posKey p)).line).lost = true then .next s else .next (searchPos (posKey p) s) := by
  have hrun : exec (.lightReturn p) s = execLightReturn p s := rfl
  rw [hrun, execLightReturn]
  simp only [hst]
  by_cases htx : p.dir = .tx <;> cases (combOf s (p.port / 2) (posAt s (posKey p)).line).lost <;> simp [htx]

/-! ### Training, codeword errors and the count of failures (R252, R253, R256, R259) -/

section
variable {p : Pos} {t : Training} {s : State}

theorem exec_trainingComplete : exec (.trainingComplete p t) s = execTrainingComplete p t s := rfl

theorem trainingComplete_good (hst : (posAt s (posKey p)).st = .train) (hgood : t.completed = true ∧ t.line.val = (posAt s (posKey p)).line) :
    exec (.trainingComplete p t) s
      = .next (settleMode p.port (movePos (posKey p) .active (learnPeer (posKey p) (t.device.toNat, t.port.val) s))) := by
  obtain ⟨hcompleted, hline⟩ := hgood
  rw [exec_trainingComplete, execTrainingComplete]
  simp [hst, hcompleted, hline]

theorem trainingComplete_bad (hst : (posAt s (posKey p)).st = .train) (hbad : ¬(t.completed = true ∧ t.line.val = (posAt s (posKey p)).line)) :
    exec (.trainingComplete p t) s = .next (settleMode p.port (failPos (posKey p) (searchPos (posKey p))
      (if t.completed = true ∧ p.dir = .rx then reportMismatch (posKey p) t.line s else s))) := by
  rw [exec_trainingComplete, execTrainingComplete]
  simp [hst, hbad]

section
variable (hst : (posAt s (posKey p)).st = .standby) (hrx : p.dir = .rx) (hgood : t.completed = true ∧ t.line.val = (posAt s (posKey p)).line)
include hst hrx hgood

/-- A spare whose sender names another lane takes it. -/
theorem trainingComplete_taken {lane : Nat} (hsub : substituteLane s (posKey p) t = some lane) : exec (.trainingComplete p t) s
    = .next (spareTaken (posKey p) (movePos (posKey p) .plumb (s.modPos (posKey p) fun q => { q with sub := lane }))) := by
  obtain ⟨hcompleted, hline⟩ := hgood
  rw [exec_trainingComplete, execTrainingComplete]
  simp [hst, hrx, hcompleted, hline, hsub]

theorem trainingComplete_own (hsub : substituteLane s (posKey p) t = none) : exec (.trainingComplete p t) s = .next s := by
  obtain ⟨hcompleted, hline⟩ := hgood
  rw [exec_trainingComplete, execTrainingComplete]
  simp [hst, hrx, hcompleted, hline, hsub]

end

end

section
variable {p : Pos} {s : State} (hst : (posAt s (posKey p)).st = .active)
include hst

theorem exec_codewordErrors (n : Nat) : exec (.codewordErrors p n) s
    = if 64 < n then .next (failPos (posKey p) (movePos (posKey p) .train) s) else .next s := by
  have hrun : exec (.codewordErrors p n) s = execCodewordErrors p n s := rfl
  rw [hrun, execCodewordErrors]
  simp [hst]

theorem exec_failCountReset : exec (.failCountReset p) s
    = if (posAt s (posKey p)).since + 3000000000 ≤ s.aon then .next (s.modPos (posKey p) fun q => { q with fails := 0 }) else .next s := by
  have hrun : exec (.failCountReset p) s = execFailCountReset p s := rfl
  rw [hrun, execFailCountReset]
  simp [hst]

end

/-! ### Comb lines (R241, R242) -/

/-- What one measurement makes of a line's record. -/
def judgedLine (mean : Int) (m : LineMeas) (c : CombLine) : CombLine :=
  let meets := m.tag && decide (80 ≤ m.deciDbm) && decide (m.deciDbm ≤ 140) && decide ((m.deciDbm - mean).natAbs ≤ 15)
  let good := if meets then c.goodMs + 1 else 0
  let gone := if m.tag then 0 else c.noTagMs + 1
  let lost := decide (m.deciDbm < 20) || decide (10 ≤ gone)
  { power := m.deciDbm, tag := m.tag, meets := meets, goodMs := good, noTagMs := gone, lost := lost,
    lowTold := decide (m.deciDbm < 80) || (c.lowTold && decide (good < 1000)), lostTold := lost || (c.lostTold && decide (good < 1000)) }

theorem portLosesLine_comb (p k : Nat) (s : State) : (portLosesLine p k s).oe.comb = s.oe.comb := by
  have hmove : ∀ (j : Nat) (st : PosState) (u : State), (movePos j st u).oe.comb = u.oe.comb := fun _ _ _ => rfl
  have hdark : ∀ held : List Nat, (held.foldl (fun s j => movePos j .dark s) s).oe.comb = s.oe.comb := fun held =>
    foldl_view (·.oe.comb) (fun u j => hmove j .dark u) held s
  unfold portLosesLine
  dsimp only
  split
  · split
    · rw [spareTaken_oe, hmove, State.modPos_oe, hdark]
    · rw [hdark]
  · rw [hdark]

theorem judgeLine_comb (e : Nat) (mean : Int) (m : LineMeas) (s : State) :
    (judgeLine e mean m s).oe.comb = s.oe.comb.set {} (34 * e + m.line) (judgedLine mean m (combOf s e m.line)) := by
  have htell : ∀ (c : Bool) (code : Nat) (body : List Byte) (u : State), (if c then raiseEvent code 0 body u else u).oe.comb = u.oe.comb := by
    intro c code body u
    cases c <;> simp
  have hlose : ∀ (c : Bool) (p q : Nat) (u : State),
      (if c then portLosesLine p m.line (portLosesLine q m.line u) else u).oe.comb = u.oe.comb := by
    intro c p q u
    cases c <;> simp [portLosesLine_comb]
  exact (hlose ..).trans ((htell ..).trans (htell ..))

theorem combOf_judgeLine (e : Nat) (mean : Int) (m : LineMeas) (s : State) :
    combOf (judgeLine e mean m s) e m.line = judgedLine mean m (combOf s e m.line) := by
  rw [combOf, judgeLine_comb]
  exact Table.get_set_same ..

theorem judgedLine_spec (mean : Int) (m : LineMeas) (c : CombLine) :
    (judgedLine mean m c).power = m.deciDbm ∧ (judgedLine mean m c).tag = m.tag
      ∧ (judgedLine mean m c).noTagMs = (if m.tag then 0 else c.noTagMs + 1)
      ∧ ((judgedLine mean m c).lost = true ↔ m.deciDbm < 20 ∨ 10 ≤ (judgedLine mean m c).noTagMs)
      ∧ (judgedLine mean m c).goodMs
        = (if m.tag = true ∧ 80 ≤ m.deciDbm ∧ m.deciDbm ≤ 140 ∧ (m.deciDbm - mean).natAbs ≤ 15 then c.goodMs + 1 else 0) := by
  refine ⟨rfl, rfl, rfl, ?_, ?_⟩
  · simp [judgedLine]
  · simp [judgedLine, and_assoc]

/-- The state of an engine by its lines: dark with all of them lost, running again with one back. -/
def Engine.lit (dark : Bool) (g : Engine) : Engine :=
  if g.st = 2 && dark then { g with st := 3 } else if g.st = 3 && !dark then { g with st := 2 } else g

theorem Engine.lit_st (dark : Bool) (g : Engine) :
    (g.lit dark).st = (if g.st = 2 ∧ dark = true then 3 else if g.st = 3 ∧ dark = false then 2 else g.st) := by
  unfold Engine.lit
  simp only [apply_ite Engine.st, Bool.and_eq_true, decide_eq_true_eq, Bool.not_eq_true']

/-- After its lines have been judged, a measurement changes the engine's own state, what has been told of it, and the event ring. -/
theorem exec_combLineMeasure (e : Fin 8) (lines : List LineMeas) {s : State} (h : s.dev ≠ .off) :
    let v := lines.foldl (fun u m => judgeLine e (meanPower lines) m u) s
    ∃ w : State, exec (.combLineMeasure e lines) s = .next (w.modEng e (Engine.lit (allLost v e))) ∧ w.oe.comb = v.oe.comb ∧ w.oe.eng = v.oe.eng := by
  have hrun : exec (.combLineMeasure e lines) s = execCombLineMeasure e lines s := rfl
  rw [hrun, execCombLineMeasure, if_neg (by simpa using h)]
  refine ⟨_, rfl, ?_, ?_⟩ <;> simp [apply_ite State.oe]

/-! ### Engines start (R246, R248, R252, R270) -/

theorem mem_positionsOf {p k : Nat} : k ∈ portPositions p 0 ++ portPositions p 1 ↔ k / 68 = p := by
  rw [List.mem_append, mem_portPositions, mem_portPositions]
  omega

theorem nodup_positionsOf (p : Nat) : (portPositions p 0 ++ portPositions p 1).Nodup := by
  refine (nodup_portPositions p 0).append (nodup_portPositions p 1) fun k h0 h1 => ?_
  rw [mem_portPositions] at h0 h1
  omega

/-- What the start of its port makes of a position whose ring has calibration `c`. -/
def PosSt.begun (c : Cal) (now k : Nat) (q : PosSt) : PosSt :=
  if q.st = .off then { q with st := .search, since := now, line := k % 34, drive := c.searchStart, retune := (c.searchStart : Nat) } else q

theorem posAt_startPos (k j : Nat) (s : State) :
    posAt (startPos k s) j = if j = k then (posAt s k).begun (calOf s k) s.aon k else posAt s j := by
  unfold startPos PosSt.begun
  by_cases hoff : (posAt s k).st = .off
  · rw [if_pos (beq_iff_eq.2 hoff), if_pos hoff, posAt_modPos]
  · rw [if_neg (mt beq_iff_eq.1 hoff), if_neg hoff]
    split
    · next hj => rw [hj]
    · rfl

theorem startPos_view {β : Type} (view : State → β) (h : ∀ u k f, view (State.modPos k f u) = view u) (k : Nat) (s : State) :
    view (startPos k s) = view s := by
  unfold startPos
  split
  · exact h s k _
  · rfl

theorem startPort_view {β : Type} (view : State → β) (h : ∀ u k f, view (State.modPos k f u) = view u) (p : Nat) (s : State) :
    view (startPort p s) = view s := by
  unfold startPort
  split
  · exact foldl_view view (fun u k => startPos_view view h k u) _ s
  · rfl

theorem posAt_startPort {p : Nat} {s : State} (hup : engineUp s (p / 2) = true) (k : Nat) :
    posAt (startPort p s) k = if k / 68 = p then (posAt s k).begun (calOf s k) s.aon k else posAt s k := by
  have hstep : ∀ (u : State) (i : Nat), u.oe.cal = s.oe.cal ∧ u.aon = s.aon →
      ((startPos i u).oe.cal = s.oe.cal ∧ (startPos i u).aon = s.aon)
        ∧ ∀ k, posAt (startPos i u) k = if k = id i then (posAt u k).begun (calOf s i) s.aon i else posAt u k := by
    rintro u i ⟨hcal, haon⟩
    refine ⟨⟨(startPos_view (·.oe.cal) (fun _ _ _ => rfl) i u).trans hcal, (startPos_view State.aon (fun _ _ _ => rfl) i u).trans haon⟩,
      fun k => ?_⟩
    rw [posAt_startPos, calOf, hcal, haon]
    by_cases hk : k = i
    · rw [if_pos hk, if_pos (show k = id i from hk), hk, calOf]
    · rw [if_neg hk, if_neg (show k ≠ id i from hk)]
  obtain ⟨hout, hin⟩ := posAt_foldl hstep _ ((nodup_positionsOf p).map Function.injective_id) ⟨rfl, rfl⟩
  rw [startPort, if_pos hup]
  split
  · next hk => exact hin k (mem_positionsOf.2 hk)
  · next hk => exact hout k (by rw [List.map_id]; exact mt mem_positionsOf.1 hk)

/-- An engine with both of its matrices, before its ports start. -/
def readied (e : Nat) (kt kr : List KEntry) (s : State) : State :=
  ((s.modBank (2 * e) fun _ => { k := kTable kt }).modBank (2 * e + 1) fun _ => { k := kTable kr }).modEng e fun g => { g with st := 2 }

/-- An engine that starts with both of its matrices. -/
def engineStarted (e : Nat) (kt kr : List KEntry) (s : State) : State := startPort (2 * e + 1) (startPort (2 * e) (readied e kt kr s))

theorem engineStarted_view {β : Type} (view : State → β) (h : ∀ u k f, view (State.modPos k f u) = view u) (e : Nat) (kt kr : List KEntry) (s : State) :
    view (engineStarted e kt kr s) = view (readied e kt kr s) :=
  (startPort_view view h _ _).trans (startPort_view view h _ _)

theorem engineOf_readied (e : Nat) (kt kr : List KEntry) (s : State) : (engineOf (readied e kt kr s) e).st = 2 := by
  rw [readied, engineOf_modEng, if_pos rfl]

theorem bank_readied (e : Nat) (kt kr : List KEntry) (s : State) :
    (readied e kt kr s).oe.bank.get {} (2 * e) = { k := kTable kt } ∧ (readied e kt kr s).oe.bank.get {} (2 * e + 1) = { k := kTable kr } := by
  simp [readied, Table.get_mod]

/-- The positions of an engine that starts begin their searches, each from the drive set for its ring. -/
theorem posAt_engineStarted {e k : Nat} (kt kr : List KEntry) (s : State) (hk : k / 136 = e) :
    posAt (engineStarted e kt kr s) k = (posAt s k).begun (calOf s k) s.aon k := by
  have hup : engineUp (readied e kt kr s) e = true := by simp [engineUp, engineOf_readied]
  have hfirst := posAt_startPort (p := 2 * e) (s := readied e kt kr s) (by rwa [show 2 * e / 2 = e by omega]) k
  have hup' : engineUp (startPort (2 * e) (readied e kt kr s)) e = true :=
    (startPort_view (engineUp · e) (fun _ _ _ => rfl) _ _).trans hup
  have hcal : calOf (startPort (2 * e) (readied e kt kr s)) k = calOf s k := startPort_view (calOf · k) (fun _ _ _ => rfl) _ _
  have haon : (startPort (2 * e) (readied e kt kr s)).aon = s.aon := startPort_view State.aon (fun _ _ _ => rfl) _ _
  rw [engineStarted, posAt_startPort (by rwa [show (2 * e + 1) / 2 = e by omega]), hcal, haon]
  by_cases hport : k / 68 = 2 * e
  · rw [if_neg (by omega), hfirst, if_pos hport]
    rfl
  · rw [if_pos (by omega), hfirst, if_neg hport]
    rfl

section
variable {e : Fin 8} {s : State}

theorem exec_engineStart (tx rx : Option (List KEntry)) (cal : List CalEntry) : exec (.engineStart e tx rx cal) s = execEngineStart e tx rx cal s := rfl

theorem engineStart_again (tx rx : Option (List KEntry)) (cal : List CalEntry) (h : (engineOf s e).st ≠ 0) :
    exec (.engineStart e tx rx cal) s = .next s := by
  rw [exec_engineStart, execEngineStart, if_pos (by simp [h])]

variable (hst : (engineOf s e).st = 0) (hup : regionUp s (e.val / 2) = true) (hdev : s.dev = .ready)
include hst hup hdev

theorem engineStart_both (kt kr : List KEntry) (cal : List CalEntry) :
    exec (.engineStart e (some kt) (some kr) cal) s = .next (engineStarted e kt kr (writeCal e cal s)) := by
  rw [exec_engineStart, execEngineStart, if_neg (by simp [hst, hup, hdev])]
  rfl

/-- An engine with a calibration missing notes the bank that has failed: 0 transmit, 1 receive, 2 both. -/
theorem engineStart_missing {tx rx : Option (List KEntry)} (cal : List CalEntry) (h : tx = none ∨ rx = none) :
    exec (.engineStart e tx rx cal) s = .next (raiseEvent 0x43 0
      (leBytes 1 e.val ++ leBytes 1 (if tx.isNone && rx.isNone then 2 else if tx.isNone then 0 else 1))
      ((writeCal e cal s).modEng e fun g => { g with st := 1 })) := by
  rw [exec_engineStart, execEngineStart, if_neg (by simp [hst, hup, hdev])]
  rcases h with rfl | rfl
  · rfl
  · cases tx <;> rfl

end

/-! ### Matrices and heaters (R247, R248) -/

section
variable (e : Fin 8) (rx : Bool) {s : State}

theorem xtalkRefresh_first (hup : engineUp s e = true) (ks : List KEntry) (cal : List CalEntry)
    (h : (s.oe.bank.get {} (2 * e.val + (if rx then 1 else 0))).refreshed = none) :
    exec (.xtalkRefresh e rx ks cal) s = .next ((writeCal e cal s).modBank (2 * e.val + (if rx then 1 else 0)) fun q =>
      { q with shadow := some (kTable ks), refreshed := some s.aon }) := by
  have hrun : exec (.xtalkRefresh e rx ks cal) s = execXtalkRefresh e rx ks cal s := rfl
  rw [hrun, execXtalkRefresh]
  simp [hup, h]

theorem xtalkRefresh_soon (ks : List KEntry) (cal : List CalEntry) {t : Nat}
    (h : (s.oe.bank.get {} (2 * e.val + (if rx then 1 else 0))).refreshed = some t) (hsoon : s.aon < t + 50000000) :
    exec (.xtalkRefresh e rx ks cal) s = .next s := by
  have hrun : exec (.xtalkRefresh e rx ks cal) s = execXtalkRefresh e rx ks cal s := rfl
  rw [hrun, execXtalkRefresh]
  simp [h, hsoon]

end

/-- A bank after the switch to its shadow matrix. -/
def Bank.switched (q : Bank) : Bank := match q.shadow with | some k => { q with k := k, shadow := none } | none => q

theorem Bank.switched_spec (q : Bank) : q.switched.shadow = none ∧ q.switched.k = q.shadow.getD q.k := by
  unfold Bank.switched
  cases h : q.shadow <;> simp [h]

/-- A bank's update up to its drives: the switch, and one step of the feed-forward terms. -/
def heatersStepped (b : Nat) (s : State) : State :=
  (List.range 68).foldl (fun s i => s.modPos (ringPos b i) fun q => { q with ffK := min 10 (q.ffK + 1) }) (s.modBank b Bank.switched)

/-- The drives of a bank's rings by matrix `k` and targets `ts`. -/
def drivesSet (b : Nat) (k : Table Nat) (ts : List Int) (s : State) : State :=
  (List.range 68).foldl
    (fun s i => s.modPos (ringPos b i) fun q => { q with drive := if q.st = .off then 0 else ringDrive k (fun j => ts.getD j 0) i }) s

theorem exec_heaterUpdate (e : Fin 8) (rx : Bool) (loop : List Int) {s : State} (hup : engineUp s e = true) :
    let b := 2 * e.val + (if rx then 1 else 0)
    ∃ k ts, exec (.heaterUpdate e rx loop) s = .next (drivesSet b k ts (heatersStepped b s)) :=
  ⟨_, _, if_pos hup⟩

theorem bank_heaterUpdate (b : Nat) (k : Table Nat) (ts : List Int) (s : State) :
    (drivesSet b k ts (heatersStepped b s)).oe.bank.get {} b = (s.oe.bank.get {} b).switched := by
  have hdrives : (drivesSet b k ts (heatersStepped b s)).oe.bank = (heatersStepped b s).oe.bank := foldl_view (·.oe.bank) (by simp) _ _
  have hsteps : (heatersStepped b s).oe.bank = (s.modBank b Bank.switched).oe.bank := foldl_view (·.oe.bank) (by simp) _ _
  rw [hdrives, hsteps]
  exact Table.get_mod_same ..

theorem nodup_ringPos (b : Nat) : ((List.range 68).map (ringPos b)).Nodup :=
  List.nodup_range.map_on fun i hi j hj h => by
    simp only [List.mem_range, ringPos] at hi hj h
    omega

theorem drive_heaterUpdate {b i : Nat} (k : Table Nat) (ts : List Int) (s : State) (hi : i < 68) :
    (posAt (drivesSet b k ts (heatersStepped b s)) (ringPos b i)).drive
      = if (posAt s (ringPos b i)).st = .off then 0 else ringDrive k (fun j => ts.getD j 0) i := by
  have hstepped := (posAt_foldl_modPos (f := fun _ q => { q with ffK := min 10 (q.ffK + 1) }) _ (nodup_ringPos b) (s.modBank b Bank.switched)).2 i
    (List.mem_range.2 hi)
  have hdriven := (posAt_foldl_modPos (f := fun i q => { q with drive := if q.st = .off then 0 else ringDrive k (fun j => ts.getD j 0) i }) _
    (nodup_ringPos b) (heatersStepped b s)).2 i (List.mem_range.2 hi)
  rw [drivesSet, hdriven, heatersStepped, hstepped]
  rfl

/-- The drive of each ring is clamped to 16 bits. -/
theorem drive_heaterUpdate_le {b i : Nat} (k : Table Nat) (ts : List Int) (s : State) (hi : i < 68) :
    (posAt (drivesSet b k ts (heatersStepped b s)) (ringPos b i)).drive ≤ 65535 := by
  rw [drive_heaterUpdate k ts s hi]
  split
  · exact Nat.zero_le _
  · exact Nat.min_le_left ..

/-! ### Keep-alive and dark ports (R260, R269) -/

theorem exec_keepaliveEntry (s : State) : exec .keepaliveEntry s
    = if s.dev = .bivouac ∨ s.dev = .ready ∧ s.oe.idleSince + 5000000 ≤ s.aon then .next (enterKeepalive s) else .next s := by
  have hrun : exec .keepaliveEntry s = execKeepaliveEntry s := rfl
  rw [hrun, execKeepaliveEntry]
  simp

/-- What keep-alive makes of an engine. -/
def Engine.alive (g : Engine) : Engine := if 2 ≤ g.st then { g with keepalive := true } else g

theorem Engine.alive_st (g : Engine) : g.alive.st = g.st := by
  unfold Engine.alive
  split <;> rfl

theorem Engine.alive_keepalive {g : Engine} (h : 2 ≤ g.alive.st) : g.alive.keepalive = true := by
  rw [Engine.alive_st] at h
  rw [Engine.alive, if_pos h]

theorem engineOf_enterKeepalive {e : Nat} (he : e < 8) {s : State} (hst : 2 ≤ (engineOf s e).st) : (engineOf (enterKeepalive s) e).keepalive = true := by
  have hst' : 2 ≤ (engineOf (enterKeepalive s) e).st := by
    have hkept : (engineOf (enterKeepalive s) e).st = (engineOf s e).st := by
      refine foldl_view (fun u => (engineOf u e).st) (fun u x => ?_) _ s
      rw [engineOf_modEng]
      split
      · next h => rw [h]; exact Engine.alive_st _
      · rfl
    rwa [hkept]
  refine foldl_reaches (p := fun u => 2 ≤ (engineOf u e).st → (engineOf u e).keepalive = true) (List.mem_range.2 he)
    (fun u hu => ?_) (fun u x hu hu' => ?_) s hst'
  · rw [engineOf_modEng, if_pos rfl] at hu ⊢
    exact Engine.alive_keepalive hu
  · rw [engineOf_modEng] at hu' ⊢
    by_cases hx : e = x
    · rw [if_pos hx] at hu' ⊢
      exact Engine.alive_keepalive hu'
    · rw [if_neg hx] at hu' ⊢
      exact hu hu'

theorem portDarkRestart_restarts {port : Fin 16} {s : State}
    (h : ∀ k, k / 68 = port.val → (posAt s k).st = .dark ∧ (posAt s k).since + 50000000 ≤ s.aon) :
    exec (.portDarkRestart port) s = .next (darkRestart port s) := by
  refine if_pos (List.all_eq_true.2 fun k hk => ?_)
  obtain ⟨hdark, hlong⟩ := h k (mem_positionsOf.1 hk)
  simp [hdark, hlong]

theorem portDarkRestart_waits {port : Fin 16} {k : Nat} {s : State} (hk : k / 68 = port.val)
    (h : (posAt s k).st ≠ .dark ∨ s.aon < (posAt s k).since + 50000000) : exec (.portDarkRestart port) s = .next s := by
  refine if_neg fun hall => ?_
  have hdark := List.all_eq_true.1 hall k (mem_positionsOf.2 hk)
  simp only [Bool.and_eq_true, beq_iff_eq, decide_eq_true_eq] at hdark
  exact h.elim (· hdark.1) (Nat.not_lt.2 hdark.2)

theorem darkRestart_mode (p : Nat) (s : State) : portMode (darkRestart p s) p = 0 := by
  have hkept : (darkRestart p s).oe.port = s.oe.port.set {} p {} := foldl_view (·.oe.port) (by simp) _ _
  rw [portMode, hkept, Table.get_set_same]

theorem posAt_darkRestart (p : Nat) (s : State) : (∀ k, k / 68 = p → posAt (darkRestart p s) k = { posAt s k with trained := false })
    ∧ ∀ k, k / 68 ≠ p → posAt (darkRestart p s) k = posAt s k := by
  obtain ⟨hout, hin⟩ := posAt_foldl_modPos (key := id) (f := fun _ q => { q with trained := false }) _ ((nodup_positionsOf p).map Function.injective_id)
    (s.modOe fun o => { o with port := o.port.set {} p {} })
  refine ⟨fun k hk => hin k (mem_positionsOf.2 hk), fun k hk => hout k ?_⟩
  rw [List.map_id]
  exact mt mem_positionsOf.1 hk

/-! ### The statement -/

/-- Settles O57: each command's step on its position, its line's record, its engine or its bank, and loops that meet each position once. -/
theorem opticalEngines : Obligations.OpticalEngines := by
  unfold Obligations.OpticalEngines
  refine ⟨fun e lines s hdev => ?measured, fun e mean m s => ?judged, fun p err s => ?lock, fun p line drive s hst => ?search,
    fun p tags s hst => ⟨plumbCheckEnd_passes hst, fun d => plumbCheckEnd_fails hst⟩, fun p s hst => ?retune, fun p t s => ?training,
    fun port w s hst => if_pos (beq_iff_eq.2 hst), fun p n s hst => ?active, fun k next s => ⟨failPos_again, failPos_third⟩, fun k s => ?searching,
    fun p s hst => ?light, fun e kt kr cal s hst hup hdev => ?starts, fun e tx rx cal s => engineStart_again tx rx cal,
    fun e x s => Table.get_set_same .., fun e rx ks cal loop s hup => ?matrix, fun s => ?keepalive, fun port s h => ?restart,
    fun port k s => portDarkRestart_waits⟩
  case measured =>
    obtain ⟨w, hrun, hcomb, heng⟩ := exec_combLineMeasure e lines hdev
    refine ⟨_, hrun, hcomb, ?_⟩
    have hsame : engineOf w e = engineOf (lines.foldl (fun u m => judgeLine e (meanPower lines) m u) s) e := by rw [engineOf, heng, engineOf]
    rw [engineOf_modEng, if_pos rfl, Engine.lit_st, hsame]
  case judged =>
    intro c c'
    have hc' : c' = judgedLine mean m c := combOf_judgeLine e mean m s
    rw [hc']
    exact judgedLine_spec mean m c
  case lock =>
    rw [exec_lockErrorExceed]
    exact ⟨fun hfar hloop => if_pos ⟨hfar, hloop⟩, fun h => if_neg fun ⟨hfar, hloop⟩ => by simp [hloop, Nat.not_le.2 hfar] at h⟩
  case search => exact ⟨exec_searchComplete (some line) drive hst, exec_searchComplete none drive hst⟩
  case retune =>
    refine ⟨_, exec_retuneComplete hst, ?_⟩
    beta_reduce
    rw [posAt_movePos_same, posAt_modPos_same]
    exact ⟨rfl, rfl, rfl⟩
  case training =>
    exact ⟨trainingComplete_good, trainingComplete_bad,
      fun hst hrx hgood => ⟨fun lane => trainingComplete_taken hst hrx hgood, trainingComplete_own hst hrx hgood⟩⟩
  case active =>
    rw [exec_codewordErrors hst, exec_failCountReset hst]
    exact ⟨fun h => if_pos h, fun h => if_neg (Nat.not_lt.2 h), fun h => if_pos h, fun h => if_neg (Nat.not_le.2 h)⟩
  case searching =>
    have hown : posAt (searchPos k s) k = { posAt s k with
        st := .search, since := s.aon, frame := 0, drive := (calOf s k).searchStart, retune := ((calOf s k).searchStart : Nat) } := by
      rw [searchPos, posAt_movePos_same, posAt_modPos_same]
      rfl
    rw [hown]
    exact ⟨rfl, rfl, fun j hj => (posAt_movePos_other k .search _ hj).trans (posAt_modPos_other k s _ hj)⟩
  case light =>
    rw [exec_lightReturn hst]
    exact ⟨fun h => if_neg fun ⟨htx, hlost⟩ => by simp [htx, hlost] at h, fun htx hlost => if_pos ⟨htx, hlost⟩⟩
  case starts =>
    intro v
    refine ⟨⟨_, engineStart_both hst hup hdev kt kr cal, ?_, ?_, ?_, ?_, fun k hk hoff => ?_⟩, engineStart_missing hst hup hdev cal (.inl rfl),
      engineStart_missing hst hup hdev cal (.inr rfl), engineStart_missing hst hup hdev cal (.inl rfl)⟩
    · exact (engineStarted_view (fun u => (engineOf u e).st) (fun _ _ _ => rfl) e kt kr v).trans (engineOf_readied e kt kr v)
    · exact (engineStarted_view (fun u => (u.oe.bank.get {} (2 * e.val)).k) (fun _ _ _ => rfl) e kt kr v).trans
        (congrArg Bank.k (bank_readied e kt kr v).1)
    · exact (engineStarted_view (fun u => (u.oe.bank.get {} (2 * e.val + 1)).k) (fun _ _ _ => rfl) e kt kr v).trans
        (congrArg Bank.k (bank_readied e kt kr v).2)
    · exact engineStarted_view (·.oe.cal) (fun _ _ _ => rfl) e kt kr v
    · rw [posAt_engineStarted kt kr v hk, PosSt.begun, if_pos (show (posAt v k).st = .off from hoff)]
      exact ⟨rfl, rfl, rfl⟩
  case matrix =>
    intro b
    obtain ⟨k, ts, hrun⟩ := exec_heaterUpdate e rx loop hup
    obtain ⟨hshadow, hk⟩ := Bank.switched_spec (s.oe.bank.get {} b)
    refine ⟨xtalkRefresh_first e rx hup ks cal, fun t => xtalkRefresh_soon e rx ks cal, _, hrun, ?_, ?_, fun i hi => ?_⟩
    · rw [bank_heaterUpdate, hshadow]
    · rw [bank_heaterUpdate, hk]
    · exact ⟨drive_heaterUpdate_le k ts s hi, fun hoff => (drive_heaterUpdate k ts s hi).trans (if_pos hoff)⟩
  case keepalive =>
    rw [exec_keepaliveEntry]
    refine ⟨fun h => ⟨_, if_pos h, fun e he hst => engineOf_enterKeepalive he hst⟩, fun hready hsoon => if_neg ?_⟩
    rintro (h | ⟨-, h⟩)
    · simp [hready] at h
    · exact Nat.not_lt.2 h hsoon
  case restart =>
    obtain ⟨hown, hothers⟩ := posAt_darkRestart port s
    exact ⟨_, portDarkRestart_restarts h, darkRestart_mode port s, hown, hothers⟩

end Sys2Proof.Machine

/-! SUPPORT. Proof of the statement about HELLO, challenges and the states of a peer (O55). -/

namespace Sys2Proof.Machine

open Sys2Proof

/-! ### HELLO (R313, R314) -/

/-- Only what an update makes of the peer counts. -/
theorem modPeer_congr {s : State} {key : Nat} {f g : Peer → Peer} (h : f (peerAt s key) = g (peerAt s key)) : s.modPeer key f = s.modPeer key g :=
  congrArg (fun q => s.modFab fun b => { b with peer := b.peer.set {} key q }) h

section
variable {port : Fin 16} {line : Fin 34} {s : State}

theorem exec_helloTimer_sends (hruns : discovers s = true) (hpos : (activePos s port 0 line).isSome = true) (hon : linkMute s port line = false) :
    exec (.helloTimer port line) s = .next (sendLocal (linkKey s port line) 1 (helloBody s (linkKey s port line)) s) :=
  if_pos (by simp [hruns, hpos, hon])

theorem exec_helloTimer_quiet (h : activePos s port 0 line = none ∨ linkMute s port line = true) : exec (.helloTimer port line) s = .next s :=
  if_neg (by rcases h with h | h <;> simp [h])

end

section
variable {c : Carried} {b : List Byte} {s : State}

/-- The event of a peer whose HELLO names another device than the one before (R314; log 22). -/
def peerChanged (key : Nat) (b : List Byte) (s : State) : State :=
  raiseEvent 0x51 0 (peerEventBody s key ++ leBytes 8 (helloId b).1 ++ leBytes 2 (helloId b).2) s

theorem takeHello_new (hst : (peerAt s c.link).st = 0 ∨ (peerAt s c.link).st = 4) :
    takeHello c b s = s.modPeer c.link fun q => { q with hello := slice b 0 96, helloAt := s.aon, st := 1, seenAt := s.aon } := by
  have hknown : ((peerAt s c.link).st == 2 || (peerAt s c.link).st == 3) = false := by rcases hst with hst | hst <;> simp [hst]
  unfold takeHello
  simp only [hknown, Bool.false_and]
  exact modPeer_congr (by simp [hst])

theorem takeHello_known (hst : (peerAt s c.link).st = 1
      ∨ ((peerAt s c.link).st = 2 ∨ (peerAt s c.link).st = 3) ∧ helloId b = helloId (peerAt s c.link).hello) :
    takeHello c b s = s.modPeer c.link fun q => { q with hello := slice b 0 96, helloAt := s.aon } := by
  have hkept : (peerAt s c.link).st ≠ 0 ∧ (peerAt s c.link).st ≠ 4 := by omega
  have hsame : (((peerAt s c.link).st == 2 || (peerAt s c.link).st == 3) && helloId b != helloId (peerAt s c.link).hello) = false := by
    rcases hst with hst | ⟨-, hid⟩
    · simp [hst]
    · simp [hid]
  unfold takeHello
  simp only [hsame]
  exact modPeer_congr (by simp [hkept])

theorem takeHello_changed (hst : (peerAt s c.link).st = 2 ∨ (peerAt s c.link).st = 3) (hid : helloId b ≠ helloId (peerAt s c.link).hello) :
    takeHello c b s = (peerChanged c.link b s).modPeer c.link fun q =>
      { q with hello := slice b 0 96, helloAt := s.aon, st := 1, seenAt := s.aon } := by
  have hchanged : (((peerAt s c.link).st == 2 || (peerAt s c.link).st == 3) && helloId b != helloId (peerAt s c.link).hello) = true := by
    simp [hst, hid]
  unfold takeHello
  simp only [hchanged, if_true, Bool.true_or, raiseEvent_aon]
  rfl

end

theorem exec_hello {c : Carried} {rest : List Carried} {s : State} (h : Message s 1 c rest) : exec .hello s
    = .next (if helloOk (c.pkt.payload.drop 8) then takeHello c (c.pkt.payload.drop 8) (mgtRest rest s) else fabCount 0 (mgtRest rest s)) :=
  mgtStep_takes h rfl

/-! ### Challenges, their answers, and what ends them (R314, R511) -/

theorem exec_challengeSend (port : Fin 16) (line : Fin 34) (s : State) :
    let key := linkKey s port line
    let nonce := (Config.entropy s.free).toNat
    exec (.challengeSend port line) s = if discovers s = true ∧ (peerAt s key).st = 1 ∧ (peerAt s key).notBefore ≤ s.aon then
        .next (sendLocal (reverseKey s key) 2 (beBytes 32 nonce ++ leBytes 8 (serialOf s))
          ({ s with free := s.free + 1 }.modPeer key fun q => { q with st := 2, nonce := nonce, challengedAt := s.aon }))
      else .next s := by
  show execChallengeSend port line s = _
  unfold execChallengeSend
  simp only [Bool.and_eq_true, beq_iff_eq, decide_eq_true_eq, and_assoc]
  rfl

theorem exec_authTimeout (port : Fin 16) (line : Fin 34) (s : State) :
    let key := linkKey s port line
    exec (.authTimeout port line) s = if (peerAt s key).st = 2 ∧ (peerAt s key).challengedAt + 5000000 ≤ s.aon then .next (authFails key 2 s)
      else .next s := rfl

theorem exec_peerLostTimeout (port : Fin 16) (line : Fin 34) (s : State) :
    let key := linkKey s port line
    exec (.peerLostTimeout port line) s =
      if 1 ≤ (peerAt s key).st ∧ (peerAt s key).st ≤ 3 ∧ (peerAt s key).helloAt + 1500000 ≤ s.aon then
        .next ((raiseEvent 0x52 0 (peerEventBody s key ++ leBytes 1 (peerAt s key).st) s).modPeer key fun q => { q with st := 4 })
      else .next s := rfl

theorem exec_challenge {c : Carried} {rest : List Carried} {s : State} (h : Message s 2 c rest) : exec .challenge s
    = .next (if 40 ≤ (c.pkt.payload.drop 8).length then answerChallenge c (c.pkt.payload.drop 8) (mgtRest rest s) else fabCount 0 (mgtRest rest s)) := by
  have hexec : exec .challenge s = execChallenge s := rfl
  rw [hexec, execChallenge, mgtStep_takes h rfl]
  simp only [decide_eq_true_eq]

/-- An answer is made of the device's identity, and goes by the link that answers the one the challenge came by; the intake has no part in it. -/
theorem answerChallenge_mgtRest (c : Carried) (b : List Byte) (rest : List Carried) (s : State) :
    let key := reverseKey s c.link
    answerChallenge c b (mgtRest rest s) = sendLocal key 3 (responseHead s key (slice b 0 32)
        ++ beBytes 64 (Config.sign (sha256 (peerLabel ++ slice b 32 8 ++ responseHead s key (slice b 0 32)))).toNat
        ++ leBytes 2 3072 ++ zeros 14 ++ otpBytes s 0x400 3072) (mgtRest rest s) := rfl

/-! ### Responses (R512) -/

@[simp] theorem peerAt_mgtRest (rest : List Carried) (s : State) (key : Nat) : peerAt (mgtRest rest s) key = peerAt s key := rfl

theorem exec_challengeResp {c : Carried} {rest : List Carried} {s : State} (h : Message s 3 c rest) :
    let b := c.pkt.payload.drop 8
    let u := mgtRest rest s
    exec .challengeResp s = .next (if responseOk b then
        if (peerAt s c.link).st ≠ 2 then u
        else if responseVerifies u c.link b then u.modPeer c.link fun q => { q with st := 3 } else authFails c.link 1 u
      else fabCount 0 u) := by
  have hexec : exec .challengeResp s = execChallengeResp s := rfl
  rw [hexec, execChallengeResp, mgtStep_takes h rfl, peerAt_mgtRest]

theorem of_responseVerifies {s : State} {key : Nat} {b : List Byte} (h : responseVerifies s key b = true) :
    beNat (slice b 16 32) = (peerAt s key).nonce ∧ field b 0 8 = (helloId (peerAt s key).hello).1 ∧ field b 11 1 = lineField s key
      ∧ ∃ x, deviceCert (otpBytes s 0x100 64) (slice b 128 (field b 112 2)) = some x ∧ x.serial = some (field b 0 8)
        ∧ ecdsaValid x.key (responseSigned s b) (slice b 48 64) = true := by
  simp only [responseVerifies, Bool.and_eq_true, beq_iff_eq] at h
  obtain ⟨⟨⟨hnonce, -⟩, hline⟩, hchain⟩ := h
  split at hchain
  · next x hx =>
    simp only [Bool.and_eq_true, beq_iff_eq] at hchain
    obtain ⟨⟨hserial, hhello⟩, hsig⟩ := hchain
    exact ⟨hnonce, hhello, hline, x, hx, hserial, hsig⟩
  · exact absurd hchain Bool.false_ne_true

/-! ### The statement -/

/-- Settles O55: a HELLO by the peer's state and identity, each challenge and timer by its equation, and a response by what its verification asks. -/
theorem peerDiscovery : Obligations.PeerDiscovery := by
  unfold Obligations.PeerDiscovery
  refine ⟨fun port line s hruns => ⟨exec_helloTimer_sends hruns, exec_helloTimer_quiet⟩, fun c rest s h => ?hello, fun port line s => ?timers,
    fun key cause s => rfl, fun c rest s h => ?challenge, fun c rest s h => ?response, fun key b s => of_responseVerifies⟩
  case hello =>
    rw [exec_hello h]
    refine ⟨fun hbad => ?_, fun hok hst => ?_, fun hok hst => ?_, fun hok hst hid => ?_⟩
    · rw [if_neg (Bool.eq_false_iff.1 hbad)]
      rfl
    · rw [if_pos hok, takeHello_new (s := mgtRest rest s) hst]
      rfl
    · rw [if_pos hok, takeHello_known (s := mgtRest rest s) hst]
      rfl
    · rw [if_pos hok, takeHello_changed (s := mgtRest rest s) hst hid]
      rfl
  case timers =>
    intro key q nonce
    rw [exec_challengeSend, exec_authTimeout, exec_peerLostTimeout]
    refine ⟨fun hruns hst hdue => if_pos ⟨hruns, hst, hdue⟩, fun hnot => if_neg fun ⟨_, hst, hdue⟩ => hnot.elim (· hst) (Nat.not_lt.2 hdue),
      fun hst hlate => if_pos ⟨hst, hlate⟩, fun hst => if_neg fun h => hst h.1, fun hlow hhigh hlate => if_pos ⟨hlow, hhigh, hlate⟩,
      fun hnot => if_neg ?_⟩
    rcases hnot with hnew | hlost | hearly
    · exact fun h => Nat.one_le_iff_ne_zero.1 h.1 hnew
    · exact fun h => Nat.not_le.2 hlost h.2.1
    · exact fun h => Nat.not_le.2 hearly h.2.2
  case challenge =>
    rw [exec_challenge h]
    refine ⟨fun hlong => ?_, fun hshort => ?_⟩
    · rw [if_pos hlong, answerChallenge_mgtRest]
      rfl
    · rw [if_neg (Nat.not_le.2 hshort)]
      rfl
  case response =>
    rw [exec_challengeResp h]
    refine ⟨fun hbad => ?_, fun hok hst => ?_, fun hok hst => ?_⟩
    · rw [if_neg (Bool.eq_false_iff.1 hbad)]
      rfl
    · rw [if_pos hok, if_pos hst]
      rfl
    · rw [if_pos hok, if_neg (not_not.2 hst)]
      rfl

end Sys2Proof.Machine

/-! SUPPORT. Proof of the statement about links, packets and the escape ring (O54). -/

namespace Sys2Proof.Machine

open Sys2Proof

/-! ### Flits arrive (R278, R280; log 106) -/

section
variable {port : Fin 16} {line : Fin 34} {bad : BitVec 2} {b : List Byte} {s : State} (hlen : b.length = 256)
include hlen

theorem exec_flitReceive_active {k : Nat} (hpos : activePos s port 1 line = some k) : exec (.flitReceive port line bad b) s
    = .next (takeFlit (linkKey s port line) (fecLost bad (posAt s k).frame) b (s.modPos k fun q => { q with frame := (q.frame + 1) % 5 })) := by
  have hexec : exec (.flitReceive port line bad b) s = execFlitReceive port line bad b s := rfl
  rw [hexec, execFlitReceive, if_neg (not_not.2 hlen), hpos]

theorem exec_flitReceive_dark (hpos : activePos s port 1 line = none) : exec (.flitReceive port line bad b) s = .next s := by
  have hexec : exec (.flitReceive port line bad b) s = execFlitReceive port line bad b s := rfl
  rw [hexec, execFlitReceive, if_neg (not_not.2 hlen), hpos]

end

theorem fecLost_iff (bad : BitVec 2) (n : Nat) :
    fecLost bad n = true ↔ (bad.getLsbD 0 = true ∧ n % 5 ≤ 2) ∨ (bad.getLsbD 1 = true ∧ 2 ≤ n % 5) := by
  simp [fecLost]

section
variable {key : Nat} {lost : Bool} {b : List Byte} {s : State}

theorem takeFlit_inOrder (hread : lost = false) (hcrc : crcGood b = true) (hseq : field b 0 2 = (fabLink s key).rxNext) : takeFlit key lost b s
    = (s.modLink key fun l => { l with
        rxNext := (l.rxNext + 1) % 65536, nak := false, nakOwed := false,
        stream := if bit (field b 4 1) 1 then l.stream else l.stream ++ slice b 8 244 }).modLink (reverseKey s key) fun l =>
          takeCredit (field b 5 1 % 16) (field b 6 2 % 4096) (takeAck (field b 2 2) (bit (field b 4 1) 0) s.aon l) := by
  unfold takeFlit
  rw [if_neg (by simp [hread, hcrc, hseq])]
  rfl

theorem takeFlit_damaged (h : lost = true ∨ crcGood b = false) : takeFlit key lost b s
    = s.modLink key fun l => { l with nakOwed := l.nakOwed || !l.nak, nak := true } := by
  unfold takeFlit
  rcases h with h | h <;> simp [h]

/-- A flit that came before is behind the awaited SEQ by no more than half of the sequence space. -/
theorem takeFlit_again (hread : lost = false) (hcrc : crcGood b = true) (hpos : 0 < ((fabLink s key).rxNext + 65536 - field b 0 2) % 65536)
    (hhalf : ((fabLink s key).rxNext + 65536 - field b 0 2) % 65536 ≤ 32768) : takeFlit key lost b s = s := by
  have hseq : field b 0 2 ≠ (fabLink s key).rxNext := by
    intro h
    rw [h, Nat.add_sub_cancel_left] at hpos
    exact absurd hpos (by decide)
  unfold takeFlit
  simp [hread, hcrc, hseq, hhalf]

end

theorem leNat_lt (bs : List Byte) : leNat bs < 256 ^ bs.length := by
  induction bs with
  | nil => exact Nat.one_pos
  | cons b bs ih =>
    have hb := b.isLt
    rw [leNat, List.length_cons, Nat.pow_succ]
    omega

theorem field_two_lt (b : List Byte) (a : Nat) : field b a 2 < 65536 :=
  Nat.lt_of_lt_of_eq (leNat_lt _) (by simp [slice])

/-- An ACK of the `n`-th flit of the store, counted by SEQ modulo 65,536, takes that flit and those before it out (R280). -/
theorem takeAck_store {f : List Byte} {fs : List (List Byte)} {n now : Nat} {nak : Bool} {l : Link} (hstore : l.store = f :: fs)
    (hle : n ≤ l.store.length) (hn : n < 65536) : (takeAck ((field f 0 2 + n + 65535) % 65536) nak now l).store = l.store.drop n := by
  have hfirst := field_two_lt f 0
  have hcount : ((field f 0 2 + n + 65535) % 65536 + 65537 - field f 0 2) % 65536 = n := by omega
  rw [hstore] at hle
  simp only [takeAck, hstore, hcount, if_pos hle]

/-! ### The replay store (R280) -/

/-- Only what an update makes of the link counts. -/
theorem modLink_congr {s : State} {key : Nat} {f g : Link → Link} (h : f (fabLink s key) = g (fabLink s key)) : s.modLink key f = s.modLink key g :=
  congrArg (fun l => s.modFab fun b => { b with link := b.link.set {} key l }) h

section
variable (port : Fin 16) (line : Fin 34) (s : State)

theorem exec_linkReplayTimeout : let key := linkKey s port line
    exec (.linkReplayTimeout port line) s = if (fabLink s key).store ≠ [] ∧ (fabLink s key).ackAt + 200 ≤ s.aon then
        .next (s.modLink key fun l => { l with sent := 0, ackAt := s.aon })
      else .next s := by
  show execLinkReplayTimeout port line s = _
  simp [execLinkReplayTimeout]

theorem exec_replayStoreDiscard : let key := linkKey s port line
    exec (.replayStoreDiscard port line) s = if (fabLink s key).downAt ≠ 0 ∧ (fabLink s key).downAt + 4999999 ≤ s.aon then
        .next (s.modLink key fun l => { l with store := [], sent := 0, next := 0, used := [], carry := [], due := false })
      else .next s := by
  show execReplayStoreDiscard port line s = _
  unfold execReplayStoreDiscard
  refine if_congr ?_ rfl rfl
  simp only [Bool.and_eq_true, decide_eq_true_eq]
  omega

end

/-! ### Packets of a stream (R283, R290, R489) -/

section
variable {port : Fin 16} {line : Fin 34} {rest : List Byte} {s : State}

/-- A packet as it comes off the stream of link `key` (R290, R292): the pool it lies in and the units that it holds there. -/
def received (key region : Nat) (b : List Byte) : Carried :=
  { pkt := parsePacket b, link := key, pool := poolOf { pkt := parsePacket b },
    units := if (parsePacket b).esc then 17 else (parsePacket b).units, region := region }

/-- Link `key` with its stream cut to `rest`. -/
def streamCut (key : Nat) (rest : List Byte) (s : State) : State := s.modLink key fun l => { l with stream := rest }

theorem exec_packetReceive_partial
    (h : nextInStream ((fabLink s (linkKey s port line)).stream.length + 1) (fabLink s (linkKey s port line)).stream = (rest, none)) :
    exec (.packetReceive port line) s = .next (streamCut (linkKey s port line) rest s) := by
  show execPacketReceive port line s = _
  simp only [execPacketReceive, h]
  rfl

theorem exec_packetReceive_whole {b : List Byte}
    (h : nextInStream ((fabLink s (linkKey s port line)).stream.length + 1) (fabLink s (linkKey s port line)).stream = (rest, some b)) :
    let key := linkKey s port line
    let p := parsePacket b
    exec (.packetReceive port line) s =
      if headerOk b = false then .next (fabCount 0 (returnCredit (received key (port / 4) b) (streamCut key rest s)))
      else if isTeeCopy s key p = true then .next s
      else .next (handlePacket { received key (port / 4) b with pkt := { p with hops := min 3 (p.hops + 1) }, came := p.hops }
        (teeOver key p (streamCut key rest s))) := by
  show execPacketReceive port line s = _
  simp only [execPacketReceive, h, Bool.not_eq_true']
  rfl

end

theorem teeOver_of_noTee {s : State} (h : s.mem.ended = false ∨ s.mem.teeKnown = false) (key : Nat) (p : Packet) : teeOver key p s = s :=
  if_neg (by rcases h with h | h <;> simp [h])

/-! ### Packets off a lane (R301, R315, R431, R477; log 118) -/

section
variable {c : Carried} {s : State}

theorem handlePacket_badMgt (htype : c.pkt.type = 1) (hbad : mgtOk c.pkt = false) : handlePacket c s = fabCount 0 (returnCredit c s) :=
  if_pos (by simp [htype, hbad])

theorem badMgt_eq_false (h : c.pkt.type = 1 → mgtOk c.pkt = true) : (c.pkt.type = 1 && !mgtOk c.pkt) = false := by simpa using h

theorem handlePacket_linkLocal (hok : mgtOk c.pkt = true) (hlocal : linkLocal c.pkt = true) : handlePacket c s = deliver c s := by
  simp [handlePacket, hok, hlocal]

section
variable (hmgt : c.pkt.type = 1 → mgtOk c.pkt = true) (hlocal : linkLocal c.pkt = false)
include hmgt hlocal

theorem handlePacket_parked (hdev : s.dev = .bivouac) (hpath : keepAlivePath s c.pkt = false) :
    handlePacket c s = fabCount 6 (returnCredit c s) := by
  simp [handlePacket, badMgt_eq_false hmgt, hlocal, hdev, hpath]

variable (hdev : s.dev ≠ .bivouac)
include hdev

theorem handlePacket_badPeer (h : (peerAt s c.link).st ≠ 3 ∨ linkFromSelf s c.link = true) :
    handlePacket c s = fabCount 6 (returnCredit c s) := by
  have hdevice : (s.dev == .bivouac) = false := by simpa using hdev
  simp [handlePacket, badMgt_eq_false hmgt, hlocal, hdevice, h]

/-- A packet of an ACTIVE peer that is another device, from no fenced source, goes by where it is bound. -/
theorem handlePacket_accepted (hpeer : (peerAt s c.link).st = 3) (hother : linkFromSelf s c.link = false)
    (hfence : c.pkt.type = 1 ∨ isFenced s c.pkt.src = false) :
    handlePacket c s = if c.pkt.esc = true then s.modLink c.link fun l => { l with stage := l.stage ++ [c] }
      else if s.fab.number = some c.pkt.dst then arrive { c with since := s.aon } s
      else if c.pkt.type = 0x40 then relayCol c s
      else routePacket true c s := by
  have hdevice : (s.dev == .bivouac) = false := by simpa using hdev
  have hfree : (c.pkt.type ≠ 1 && isFenced s c.pkt.src) = false := by rcases hfence with h | h <;> simp [h]
  simp only [handlePacket, badMgt_eq_false hmgt, hlocal, hdevice, hpeer, hother, hfree, Bool.false_and, ne_eq, not_true_eq_false, decide_false, Bool.or_false,
    Bool.false_eq_true, if_false, bne, Bool.not_false, Bool.and_true]

end
end

/-! ### Packets for this device (R303, R310, R489) -/

section
variable {c : Carried} {s : State}

theorem tagAccepted_own {p : Packet} (h : p.jobTag = s.job.tag) : tagAccepted s p = true := by simp [tagAccepted, h]

theorem isRequest_type {t : Nat} (h : isRequest t = true) : t ≠ 1 ∧ t ≠ 0x40 := by
  simp only [isRequest, Bool.and_eq_true, decide_eq_true_eq] at h
  omega

theorem isReply_type {t : Nat} (h : isReply t = true) : t ≠ 1 ∧ t ≠ 0x40 ∧ isRequest t = false := by
  simp only [isReply, Bool.and_eq_true, decide_eq_true_eq] at h
  simp only [isRequest, Bool.and_eq_false_iff, decide_eq_false_iff_not]
  omega

theorem arrive_enters (hmay : mayEnter s c.pkt = true) (hfirst : mustFollow s c.pkt = false) : arrive c s = deliverTeed c s :=
  if_pos (by simp [hmay, hfirst])

theorem arrive_waits (h : mayEnter s c.pkt = false ∨ mustFollow s c.pkt = true) :
    arrive c s = s.modFab fun f => { f with inWait := f.inWait ++ [c] } :=
  if_neg (by rcases h with h | h <;> simp [h])

theorem isTeed_eq_false {p : Packet} (h : s.mem.role ≠ 1 ∨ p.type = 1) : isTeed s p = false := by
  rcases h with h | h <;> simp [isTeed, h]

theorem mayEnter_request {p : Packet} (hreq : isRequest p.type = true) (htag : p.jobTag = s.job.tag) (hrole : s.mem.role ≠ 1) :
    mayEnter s p = true ↔ s.fab.reqIn.length < Config.intakeRoom + 1 := by
  simp [mayEnter, intakeHasRoom, isTeed_eq_false (.inl hrole), tagAccepted_own htag, hreq, (isRequest_type hreq).1]

theorem message_enters {p : Packet} (h : p.type = 1) : mayEnter s p = true ∧ mustFollow s p = false := by
  simp [mayEnter, mustFollow, h]

theorem deliverTeed_plain (h : s.mem.role ≠ 1 ∨ c.pkt.type = 1) : deliverTeed c s = deliver c s :=
  if_neg (by simp [isTeed_eq_false h])

@[simp] theorem returnCredit_job (c : Carried) (s : State) : (returnCredit c s).job = s.job := by simp [returnCredit, apply_ite State.job]

@[simp] theorem returnCredit_mgtIn (c : Carried) (s : State) : (returnCredit c s).fab.mgtIn = s.fab.mgtIn := by
  unfold returnCredit
  split <;> rfl

theorem deliver_message (htype : c.pkt.type = 1) (hcore : mgtFm c.pkt = false) :
    deliver c s = if s.fab.mgtIn.length < 64 then (returnCredit c s).modFab fun f => { f with mgtIn := f.mgtIn ++ [{ c with units := 0 }] }
      else fabCount 5 (returnCredit c s) := by
  simp [deliver, htype, hcore]

theorem deliver_jobPacket (htype : c.pkt.type ≠ 1) (htag : c.pkt.jobTag = s.job.tag) :
    deliver c s = if c.pkt.type = 0x40 then (returnCredit c s).modFab fun f => { f with colIn := f.colIn ++ [{ c with units := 0 }] }
      else if isRequest c.pkt.type then (returnCredit c s).modFab fun f => { f with reqIn := f.reqIn ++ [{ c with units := 0 }] }
      else (returnCredit c s).modFab fun f => { f with rspIn := f.rspIn ++ [{ c with units := 0 }] } := by
  have haccepted : tagAccepted (returnCredit c s) c.pkt = true := tagAccepted_own (by simpa using htag)
  simp [deliver, htype, haccepted]

end

/-! ### Packets with a way (R294, R299, R301, R305; log 151) -/

section
variable {c : Carried} {s : State} (hdst : s.fab.number ≠ some c.pkt.dst)
include hdst

theorem routePacket_escapes (h : c.pkt.hops = 3 ∨ c.pkt.epoch ≠ s.fab.epoch) : routePacket false c s = escapeRing c s := by
  simp [routePacket, hdst, h]

theorem routePacket_inEpoch (hhops : c.pkt.hops ≠ 3) (hepoch : c.pkt.epoch = s.fab.epoch) : routePacket false c s =
    if routeLanes s c.pkt c.region = [] then escapeRing c s else enqueue (laneLink s (pickLane c.pkt (routeLanes s c.pkt c.region))) c s := by
  simp [routePacket, hdst, hhops, hepoch]

end

/-! ### What a link sends (R280, R292, R293; logs 65, 66 and 147) -/

theorem fabLink_modLink_store {f : Link → Link} (hf : ∀ l, (f l).store = l.store) (key k : Nat) (s : State) :
    (fabLink (s.modLink key f) k).store = (fabLink s k).store := by
  rw [fabLink_modLink]
  split
  · next hk => rw [hf, hk]
  · rfl

section
variable (key : Nat) (c : Carried) (s : State)

theorem fabLink_enqueue_store (k : Nat) : (fabLink (enqueue key c s) k).store = (fabLink s k).store := by
  unfold enqueue
  split
  · refine fabLink_modLink_store ?_ key k s
    exact fun _ => rfl
  · rfl

theorem fabLink_escHop_store (t : Option Nat) (k : Nat) : (fabLink (escHop key t c s).2 k).store = (fabLink s k).store := by
  refine fabLink_modLink_store ?_ key k s
  exact fun _ => rfl

@[simp] theorem enqueue_escWait : (enqueue key c s).fab.escWait = s.fab.escWait := by
  unfold enqueue
  split <;> rfl

@[simp] theorem enqueue_count : (enqueue key c s).fab.count = s.fab.count := by
  unfold enqueue
  split <;> rfl

end

section
variable {key : Nat} {s : State}

theorem enterRing_none (h : escEntry s key = none) : enterRing key s = s := by simp only [enterRing, h]

theorem enterRing_some {c : Carried} {t : Option Nat} (h : escEntry s key = some (c, t)) :
    let v := s.modFab fun f => { f with escWait := f.escWait.erase (c, t) }
    enterRing key s = enqueue key (escHop key t c v).1 (fabCount 4 (escHop key t c v).2) := by
  simp only [enterRing, h]

/-- The packet that enters the ring takes a slot of its stage and joins the queue; what has been sent stays in the store. -/
theorem fabLink_enterRing_store (k : Nat) : (fabLink (enterRing key s) k).store = (fabLink s k).store := by
  cases h : escEntry s key with
  | none => rw [enterRing_none h]
  | some e =>
    rw [enterRing_some h, fabLink_enqueue_store]
    exact fabLink_escHop_store key e.1 (s.modFab fun f => { f with escWait := f.escWait.erase e }) e.2 k

theorem enterRing_enters {e : Carried × Option Nat} (h : escEntry s key = some e) :
    (enterRing key s).fab.escWait = s.fab.escWait.erase e ∧ (enterRing key s).fab.count.get 0 4 = s.fab.count.get 0 4 + 1 := by
  rw [enterRing_some h, enqueue_escWait, enqueue_count]
  exact ⟨rfl, Table.get_mod_same s.fab.count 0 4 (· + 1)⟩

end

section
variable {port : Fin 16} {line : Fin 34} {s : State}

theorem exec_packetForward_mute (hmute : linkMute s port line = true) :
    exec (.packetForward port line) s = .next (idleLink port line (linkKey s port line) s) := by
  show execPacketForward port line s = _
  simp only [execPacketForward, hmute, if_true]

variable (hmute : linkMute s port line = false)
include hmute

theorem exec_packetForward_replays (h : (fabLink s (linkKey s port line)).sent < (fabLink s (linkKey s port line)).store.length) :
    exec (.packetForward port line) s
      = .next (s.modLink (linkKey s port line) fun l => { l with sent := l.store.length, ackAt := s.aon }) := by
  show execPacketForward port line s = _
  simp only [execPacketForward, hmute, Bool.false_eq_true, if_false, if_pos h]

variable (hsent : (fabLink s (linkKey s port line)).store.length ≤ (fabLink s (linkKey s port line)).sent)
include hsent

theorem exec_packetForward_idle :
    let key := linkKey s port line
    let u := if linkPeerActive s key then enterRing key s else s
    nextPacket u key = none → exec (.packetForward port line) s = .next (idleLink port line key u) := by
  intro key u hnone
  show execPacketForward port line s = _
  simp only [execPacketForward, hmute, Bool.false_eq_true, if_false, if_neg (Nat.not_lt.2 hsent)]
  change (match nextPacket u key with | some (c, l') => _ | none => _) = _
  rw [hnone]

theorem exec_packetForward_packet :
    let key := linkKey s port line
    let u := if linkPeerActive s key then enterRing key s else s
    ∀ c l', nextPacket u key = some (c, l') →
      let v := sendPacket key c (u.modLink key fun _ => { l' with queue := takeFrom u.aon c l'.queue })
      exec (.packetForward port line) s =
        if (fabLink u key).store.length + l'.flitsFor c + alignFlits u key c ≤ storeFlits u key then .next (admitWaiting (sendAcks v.fab.ackWait.length v))
        else .next u := by
  intro key u c l' hnext v
  have hstore : (fabLink u key).store = (fabLink s key).store := by
    show (fabLink (if _ then _ else _) key).store = _
    split
    · exact fabLink_enterRing_store key
    · rfl
  show execPacketForward port line s = _
  simp only [execPacketForward, hmute, Bool.false_eq_true, if_false, if_neg (Nat.not_lt.2 hsent)]
  change (match nextPacket u key with | some (c, l') => _ | none => _) = _
  rw [hnext, hstore]

end

section
variable {port line key : Nat} {s : State} (hmute : linkMute s port line = false) (hroom : (fabLink s key).store.length < storeFlits s key)
include hmute hroom

theorem idleLink_flushes (hdue : (fabLink s key).due = true) : idleLink port line key s = flushStream key s := by
  simp [idleLink, hmute, hroom, hdue]

theorem idleLink_returns (hdue : (fabLink s key).due = false) (hup : linkDown s port line = false) (hpeer : linkPeerActive s key = true)
    (hcredit : (fabLink s key).returns ≠ []) (htest : underTest s key = false) : idleLink port line key s = pushFlit true [] key s := by
  have hnone : s.oe.txTest.get none (testKey s key) = none := by simpa [underTest] using htest
  simp [idleLink, hmute, hroom, hdue, hup, hpeer, hcredit, pushIdle, hnone]

end

/-! ### Packets without credit (R308) -/

/-- Packet `c` of a queue goes to the escape ring: no MGT, 20 µs without credit. -/
def waitedOut (s : State) (port line key : Nat) (c : Carried) : Bool :=
  c.pkt.type != 1 && noCredit s port line key c && decide (c.since + 1000 ≤ s.aon)

/-- The packet at the head of a pool of link `key` that goes to the escape ring. -/
def expired (s : State) (port line key : Nat) : Option Carried :=
  [1, 2, 3, 4, 5, 6].findSome? fun pool => (headOf true (fabLink s key) pool).filter (waitedOut s port line key)

/-- The packet of this device that has waited 20 µs in its pool for tee credit (R489). -/
def heldTooLong (s : State) (key : Nat) : Option Carried :=
  if s.mem.role = 1 then s.fab.inWait.find? fun c => c.link == key && decide (1 ≤ c.pool) && decide (c.pool ≤ 6) && decide (c.since + 1000 ≤ s.aon)
  else none

section
variable {port line key : Nat} {c : Carried} {s : State}

theorem waitedOut_iff : waitedOut s port line key c = true ↔ c.pkt.type ≠ 1 ∧ noCredit s port line key c = true ∧ c.since + 1000 ≤ s.aon := by
  simp [waitedOut, and_assoc]

theorem mem_of_expired (h : expired s port line key = some c) : c ∈ (fabLink s key).queue ∧ waitedOut s port line key c = true := by
  obtain ⟨pool, -, hpool⟩ := List.exists_of_findSome?_eq_some h
  obtain ⟨hhead, hwaited⟩ := Option.filter_eq_some_iff.1 hpool
  exact ⟨List.mem_of_find?_eq_some hhead, hwaited⟩

theorem expired_none (h : ∀ d ∈ (fabLink s key).queue, d.pkt.type = 1 ∨ noCredit s port line key d = false ∨ s.aon < d.since + 1000) :
    expired s port line key = none := by
  refine Option.eq_none_iff_forall_not_mem.2 fun d hd => ?_
  obtain ⟨hmem, hwaited⟩ := mem_of_expired hd
  obtain ⟨htype, hcredit, hsince⟩ := waitedOut_iff.1 hwaited
  rcases h d hmem with hmgt | hhas | hnew
  · exact htype hmgt
  · exact absurd hcredit (Bool.eq_false_iff.1 hhas)
  · exact Nat.not_lt.2 hsince hnew

theorem heldTooLong_none (h : s.mem.role ≠ 1 ∨ s.fab.inWait = []) : heldTooLong s key = none := by
  rcases h with h | h <;> simp [heldTooLong, h]

theorem heldTooLong_alone (hrole : s.mem.role = 1) (hwait : s.fab.inWait = [c]) (hlink : c.link = key) (hlow : 1 ≤ c.pool) (hhigh : c.pool ≤ 6)
    (hsince : c.since + 1000 ≤ s.aon) : heldTooLong s key = some c := by
  simp [heldTooLong, hrole, hwait, hlink, hlow, hhigh, hsince]

theorem expired_alone (hqueue : (fabLink s key).queue = [c]) (hlow : 1 ≤ poolOf c) (hhigh : poolOf c ≤ 6)
    (hwaited : waitedOut s port line key c = true) : expired s port line key = some c := by
  cases h : expired s port line key with
  | none =>
    have hmem : poolOf c ∈ [1, 2, 3, 4, 5, 6] := by simp only [List.mem_cons, List.not_mem_nil]; omega
    have hhead : headOf true (fabLink s key) (poolOf c) = some c := by simp [headOf, hqueue]
    have hnone := List.findSome?_eq_none_iff.1 h _ hmem
    rw [hhead, Option.filter_some_pos hwaited] at hnone
    exact absurd hnone (Option.some_ne_none c)
  | some d =>
    have hd := (mem_of_expired h).1
    rw [hqueue, List.mem_singleton] at hd
    rw [hd]

end

section
variable {port : Fin 16} {line : Fin 34} {c : Carried} {s : State}

theorem exec_escWaitExpire_queue (h : expired s port line (linkKey s port line) = some c) : exec (.escWaitExpire port line) s
    = .next (escapeRing c (s.modLink (linkKey s port line) fun l => { l with queue := takeFrom s.aon c l.queue })) := by
  show execEscWaitExpire port line s = _
  unfold expired waitedOut at h
  simp only [execEscWaitExpire, h]

theorem exec_escWaitExpire_pool (h : expired s port line (linkKey s port line) = none) (hheld : heldTooLong s (linkKey s port line) = some c) :
    exec (.escWaitExpire port line) s = .next (escapeRing c (s.modFab fun f => { f with inWait := f.inWait.erase c })) := by
  show execEscWaitExpire port line s = _
  unfold expired waitedOut at h
  unfold heldTooLong at hheld
  simp only [execEscWaitExpire, h, hheld]

theorem exec_escWaitExpire_none (h : expired s port line (linkKey s port line) = none) (hheld : heldTooLong s (linkKey s port line) = none) :
    exec (.escWaitExpire port line) s = .next s := by
  show execEscWaitExpire port line s = _
  unfold expired waitedOut at h
  unfold heldTooLong at hheld
  simp only [execEscWaitExpire, h, hheld]

theorem takeFrom_alone (now : Nat) (c : Carried) : takeFrom now c [c] = [] := by simp [takeFrom]

end

/-! ### The escape ring (R307) -/

section
variable {port : Fin 16} {line : Fin 34} {c : Carried} {rest : List Carried} {s : State}

theorem exec_escAdvance_empty (h : (fabLink s (linkKey s port line)).stage = []) : exec (.escAdvance port line) s = .next s := by
  show execEscAdvance port line s = _
  simp only [execEscAdvance, h]

theorem exec_escAdvance (hdev : s.dev ≠ .bivouac) (hstage : (fabLink s (linkKey s port line)).stage = c :: rest) :
    let taken := s.modLink (linkKey s port line) fun l => { l with stage := rest }
    let t := if s.fab.number = some c.pkt.escTo then none else some c.pkt.escTo
    let out := laneLink s (pickLane c.pkt (escLanes s t c.region))
    exec (.escAdvance port line) s =
      if s.fab.number = some c.pkt.dst ∧ intakeHasRoom s c.pkt = true ∧ (isTeed s c.pkt = false ∨ teeCredit s c.pkt = true) then
        .next (deliverTeed c taken)
      else if escLanes s t c.region ≠ [] ∧ (fabLink s out).used.get 0 8 + 17 ≤ poolRoom s out 8 then
        .next (enqueue out (escHop out t c taken).1 (escHop out t c taken).2)
      else .next s := by
  have hdevice : (s.dev == .bivouac) = false := by simpa using hdev
  show execEscAdvance port line s = _
  simp only [execEscAdvance, hstage, hdevice, Bool.false_eq_true, if_false, Bool.and_eq_true, decide_eq_true_eq, Bool.or_eq_true, Bool.not_eq_true',
    List.isEmpty_eq_false_iff, and_assoc]

end

/-! ### Congestion (R316, R317) -/

theorem exec_congRead {c : Carried} {rest : List Carried} {s : State} (h : Message s 0x41 c rest) :
    let b := c.pkt.payload.drop 8
    exec .congRead s = .next (if congReadOk b then sendCong (field b 0 4) 4064 9 (field b 4 4) (field b 8 4) (mgtRest rest s)
      else fabCount 0 (mgtRest rest s)) := by
  have hexec : exec .congRead s = execCongRead s := rfl
  rw [hexec, execCongRead, mgtStep_takes h rfl]

/-- The state with its congestion samples left out. -/
def withoutSamples (s : State) : State := s.modFab fun f => { f with samples := 0, bins := [] }

theorem eq_of_withoutSamples {s t : State} (h : withoutSamples t = withoutSamples s) :
    t = { s with fab := { s.fab with samples := t.fab.samples, bins := t.fab.bins } } :=
  congrArg (fun u : State => { u with fab := { u.fab with samples := t.fab.samples, bins := t.fab.bins } }) h

/-- Sampling a position changes its counts alone. -/
theorem samplePosition_view {β : Type} (view : State → β)
    (h : ∀ u (b : Table Nat → Table Nat), view (u.modFab fun f => { f with bins := b f.bins }) = view u) (p w : Nat) (s : State) :
    view (samplePosition p w s) = view s := by
  unfold samplePosition
  refine foldl_view view (fun u k => ?_) _ s
  exact h u fun b => b.mod 0 _ (· + 1)

theorem exec_congSample_inLeg {s : State} (hleg : inLeg s = true) (hmany : s.fab.samples < 2 ^ 32 - 1) :
    LeadsTo (exec .congSample s) fun t => t.fab.samples = s.fab.samples + 1
      ∧ t = { s with fab := { s.fab with samples := t.fab.samples, bins := t.fab.bins } } := by
  refine ⟨_, if_pos hleg, ?_, eq_of_withoutSamples ?_⟩
  · refine (foldl_view (fun u => u.fab.samples) (fun u n => ?_) _ _).trans (Nat.min_eq_right hmany)
    exact samplePosition_view (fun u => u.fab.samples) (fun _ _ => rfl) _ _ u
  · refine foldl_view withoutSamples (fun u n => ?_) _ _
    exact samplePosition_view withoutSamples (fun _ _ => rfl) _ _ u

/-! ### The statement -/

/-- Settles O54: each command's step is the equation of its case, and a packet goes by what its link, its peer and its destination say. -/
theorem linksAndPackets : Obligations.LinksAndPackets := by
  unfold Obligations.LinksAndPackets
  refine ⟨fun port line bad b s hlen => ⟨fun k => exec_flitReceive_active hlen, exec_flitReceive_dark hlen⟩, fecLost_iff,
    fun key lost b s => ⟨takeFlit_inOrder, takeFlit_damaged, takeFlit_again⟩, fun f fs n now nak l hstore _ => takeAck_store hstore,
    fun port line s => ?store, fun port line rest s => ?stream, fun key p s h => teeOver_of_noTee h key p,
    fun c s => ⟨handlePacket_badMgt, handlePacket_linkLocal, fun hdev hmgt hlocal => handlePacket_parked hmgt hlocal hdev⟩,
    fun c s hdev hmgt hlocal => ⟨handlePacket_badPeer hmgt hlocal hdev, fun hpeer hother hfence => ?accepted⟩,
    fun c s => ⟨arrive_enters, arrive_waits, mayEnter_request, message_enters⟩, fun c s => deliverTeed_plain,
    fun c s htype hcore => ?message, fun c s htag => ?job,
    fun key c s => ⟨fun h => if_pos h, fun hon haway => if_neg (not_or.2 ⟨hon, haway⟩)⟩, fun c s hdst => ?route,
    fun port line s hmute => ⟨exec_packetForward_replays hmute, fun hsent => ⟨fun c l' hnext => ?packet, exec_packetForward_idle hmute hsent⟩⟩,
    fun port line s => exec_packetForward_mute,
    fun port line key s hmute hroom => ⟨idleLink_flushes hmute hroom, fun hdue hup => idleLink_returns hmute hroom hdue hup⟩,
    fun key s => ⟨enterRing_none, fun e => enterRing_enters⟩, fun port line c s => ?expire,
    fun port line c rest s hdev => ?advance, fun port line s => exec_escAdvance_empty, fun c rest s h => ?read, fun r s hrun => ?sample⟩
  case store =>
    rw [exec_linkReplayTimeout, exec_replayStoreDiscard]
    exact ⟨fun hstore hlate => if_pos ⟨hstore, hlate⟩, fun h => if_neg fun ⟨hstore, hlate⟩ => h.elim hstore (Nat.not_lt.2 hlate),
      fun hdown hlate => if_pos ⟨hdown, hlate⟩, fun h => if_neg fun ⟨hdown, hlate⟩ => h.elim hdown (Nat.not_lt.2 hlate)⟩
  case stream =>
    refine ⟨exec_packetReceive_partial, fun b hnext => ?_⟩
    intro p c
    rw [exec_packetReceive_whole hnext]
    refine ⟨fun hok hcopy => ?_, fun hok hcopy => ?_, fun hbad => ?_⟩
    · rw [if_neg (by simp [hok]), if_neg (Bool.eq_false_iff.1 hcopy)]
      rfl
    · rw [if_neg (by simp [hok]), if_pos hcopy]
    · rw [if_pos hbad]
      rfl
  case accepted =>
    rw [handlePacket_accepted hmgt hlocal hdev hpeer hother hfence]
    refine ⟨fun hesc => if_pos hesc, fun hesc hhere => ?_, fun hesc haway hcol => ?_, fun hesc haway hcol => ?_⟩
    all_goals rw [if_neg (Bool.eq_false_iff.1 hesc)]
    · rw [if_pos hhere]
    · rw [if_neg haway, if_pos hcol]
    · rw [if_neg haway, if_neg hcol]
  case message =>
    rw [deliver_message htype hcore]
    exact ⟨fun hroom => if_pos hroom, fun hfull => if_neg (Nat.not_lt.2 hfull)⟩
  case job =>
    refine ⟨fun hreq => ?_, fun hrsp => ?_, fun hcol => ?_⟩
    · obtain ⟨hmgt, hcol⟩ := isRequest_type hreq
      rw [deliver_jobPacket hmgt htag, if_neg hcol, if_pos hreq]
    · obtain ⟨hmgt, hcol, hreq⟩ := isReply_type hrsp
      rw [deliver_jobPacket hmgt htag, if_neg hcol, if_neg (Bool.eq_false_iff.1 hreq)]
    · rw [deliver_jobPacket (by simp [hcol]) htag, if_pos hcol]
  case route =>
    refine ⟨routePacket_escapes hdst, fun hhops hepoch hnone => ?_, fun hhops hepoch hsome => ?_⟩
    · rw [routePacket_inEpoch hdst hhops hepoch, if_pos hnone]
    · rw [routePacket_inEpoch hdst hhops hepoch, if_neg hsome]
  case packet =>
    rw [exec_packetForward_packet hmute hsent c l' hnext]
    exact ⟨fun hroom => if_pos hroom, fun hfull => if_neg hfull⟩
  case expire =>
    refine ⟨fun hqueue hlow hhigh htype hcredit hsince => ?_, fun hqueue => ⟨fun h => ?_, fun hrole hwait hlink hlow hhigh hsince => ?_⟩⟩
    · have h := expired_alone hqueue hlow hhigh (waitedOut_iff.2 ⟨htype, hcredit, hsince⟩)
      have hempty : takeFrom s.aon c (fabLink s (linkKey s port line)).queue = [] := by rw [hqueue, takeFrom_alone]
      rw [exec_escWaitExpire_queue h, modLink_congr (g := fun l => { l with queue := [] })]
      exact congrArg (fun q => { fabLink s (linkKey s port line) with queue := q }) hempty
    · exact exec_escWaitExpire_none (expired_none hqueue) (heldTooLong_none h)
    · rw [exec_escWaitExpire_pool (expired_none hqueue) (heldTooLong_alone hrole hwait hlink hlow hhigh hsince)]
      simp [State.modFab, hwait]
  case advance =>
    intro key taken t out hstage
    rw [exec_escAdvance hdev hstage]
    refine ⟨fun hdst hroom htee => if_pos ⟨hdst, hroom, htee⟩, fun hstays => ?_⟩
    rw [if_neg]
    · exact ⟨fun hlanes hslot => if_pos ⟨hlanes, hslot⟩, fun h => if_neg fun ⟨hlanes, hslot⟩ => h.elim hlanes (Nat.not_lt.2 hslot)⟩
    · rintro ⟨hdst, hroom, htee⟩
      rcases hstays with haway | hfull | ⟨hteed, hcredit⟩
      · exact haway hdst
      · exact Bool.eq_false_iff.1 hfull hroom
      · simp [hteed, hcredit] at htee
  case read =>
    intro b u
    rw [exec_congRead h]
    exact ⟨fun hok => by rw [if_pos hok]; rfl, fun hbad => by rw [if_neg (Bool.eq_false_iff.1 hbad)]; rfl⟩
  case sample =>
    exact ⟨fun hdev hphase => exec_congSample_inLeg (by simp [inLeg, hdev, hrun, hphase]), fun hphase => if_neg (by simp [inLeg, hrun, hphase])⟩

end Sys2Proof.Machine

/-! SUPPORT. Proof of the statement about remote requests on their way and their ends (O48). -/

namespace Sys2Proof.Machine

open Sys2Proof

/-- A key that does not read as an unlisted one is listed. -/
theorem Table.mem_of_get {α : Type} {t : Table α} {d v : α} {k : Nat} (h : t.get d k = v) (hv : v ≠ d) : (k, v) ∈ t := by
  induction t with
  | nil => exact absurd h.symm hv
  | cons e r ih =>
    obtain ⟨j, w⟩ := e
    by_cases hj : j = k
    · have hw : w = v := by rw [← h, Table.get, if_pos hj]
      rw [hj, hw]
      exact List.mem_cons_self
    · exact List.mem_cons_of_mem _ (ih (by rw [← h, Table.get, if_neg hj]))

/-! ### Operations whose turn comes (R338, R344, R351) -/

section
variable {id : Nat} {o : RemOp} {s : State} (hop : opOf s id = some o)
include hop

/-- A flag store goes on once no earlier store or atomic to its target is open. -/
theorem exec_storeFlagSend (hhold : o.hold = .flag) : exec (.storeFlagSend id) s =
    if earlier s o.serial (fun _ p => p.dst == o.dst && (p.type == 0x11 || p.type == 0x13)) = false then
      .next (startTodo id (o.todo.length + 1) (s.modOp id fun o => { o with hold := .none }))
    else .next s := by
  show execStoreFlagSend id s = _
  simp only [execStoreFlagSend, hop, hhold, decide_true, Bool.true_and, Bool.not_eq_true']

/-- A fence numbers its packets once nothing that it covers is open, a PEG_DONE still to be sent among it. -/
theorem exec_fenceSecondStage (hhold : o.hold = .stage) : exec (.fenceSecondStage id) s =
    if (earlier s o.serial (fun b p => b == o.block && (o.all || p.dst == o.dst)) || pegDoneDue s o) = false then
      let out := numberAll (o.todo.map fun p => p.pkt) s
      .next (startTodo id (out.1.length + 1) (out.2.modOp id fun o => { o with hold := .none, todo := out.1 }))
    else .next s := by
  show execFenceSecondStage id s = _
  simp only [execFenceSecondStage, hop, hhold, decide_true, Bool.true_and, Bool.and_eq_true, Bool.not_eq_true', Bool.or_eq_false_iff]

section
variable (hlast : o.last = true) (hunsent : o.doneSent = false) (hfinal : packetsFinal o = true)
include hlast hunsent hfinal

theorem exec_pegDoneSend_followed (hnext : (pegOps s o.peg fun x => x.last && !x.doneSent && decide (o.serial < x.serial)) = true) :
    exec (.pegDoneSend id) s = .next (s.modOp id fun o => { o with last := false, left := 0 }) := by
  show execPegDoneSend id s = _
  simp only [execPegDoneSend, hop, hlast, hunsent, hfinal, hnext, Bool.not_false, Bool.and_self, if_true]

theorem exec_pegDoneSend_releases {g : Grant} {tag : Nat}
    (hnext : (pegOps s o.peg fun x => x.last && !x.doneSent && decide (o.serial < x.serial)) = false)
    (hopen : (pegOps s o.peg fun x => !packetsFinal x) = false) (hgrant : s.rmt.grants.get none (o.peg - 1) = some g)
    (htag : freeTag s o.region = some tag) : exec (.pegDoneSend id) s = .next (sendPegDone o g tag s) := by
  show execPegDoneSend id s = _
  simp only [execPegDoneSend, hop, hlast, hunsent, hfinal, hnext, hopen, hgrant, htag, Bool.not_false, Bool.and_self, if_true, Bool.false_eq_true,
    if_false]

end

end

/-! ### Requests that are sent again (R331, R333, R349) -/

section
variable {s : State} {q : Req}

/-- An earlier packet of the channel under a tag has no final outcome. -/
theorem channelBefore_tracked {tag : Nat} {x : Req} (hreq : reqOf s tag = some x) (hserial : x.serial < q.serial) (hdst : x.pkt.dst = q.pkt.dst)
    (hch : x.pkt.ch = q.pkt.ch) (hcol : x.col = false) (hclaim : x.pkt.type ≠ 0x14) (hdone : x.pkt.type ≠ 0x15) : channelBefore s q = true := by
  refine Bool.or_eq_true_iff.2 (.inl (List.any_eq_true.2 ⟨(tag, some x), Table.mem_of_get hreq nofun, ?_⟩))
  simp [hserial, hdst, hch, hcol, hclaim, hdone]

/-- No packet is before one whose number no tracked request undercuts, where no operation has packets to send. -/
theorem channelBefore_first (htrack : ∀ e ∈ s.rmt.track, ∀ x, e.2 = some x → q.serial ≤ x.serial)
    (hops : ∀ e ∈ s.rmt.ops, ∀ x, e.2 = some x → x.todo = []) : channelBefore s q = false := by
  refine Bool.or_eq_false_iff.2 ⟨List.any_eq_false.2 fun ⟨t, x⟩ hx => ?_, List.any_eq_false.2 fun ⟨i, o⟩ ho => ?_⟩
  · cases x with
    | none => simp
    | some x => simp [htrack _ hx x rfl]
  · cases o with
    | none => simp
    | some o => simp [hops _ ho o rfl]

end

section
variable {q : Req} {s : State}

section
variable {tag : Nat} (hreq : reqOf s tag = some q)
include hreq

/-- A request that is sent waits for its reply, and is sent on its way but to a fenced device. -/
theorem sendReq_eq : sendReq tag s = if isFenced s q.pkt.dst = true then s.modReq tag fun q => { q with wait := .reply, sentAt := s.aon }
    else originate (tag / 32768) q.pkt (s.modReq tag fun q => { q with wait := .reply, sentAt := s.aon }) := by
  simp only [sendReq, hreq]
  rfl

end

variable {tag : Fin 131072} (hreq : reqOf s tag = some q)
include hreq

theorem exec_delayedResend (hwait : q.wait = .delay) :
    exec (.delayedResend tag) s = if q.resumeAt ≤ s.aon then .next (sendReq tag s) else .next s := by
  show execDelayedResend tag s = _
  simp only [execDelayedResend, hreq, hwait, decide_true, Bool.true_and, decide_eq_true_eq]

theorem exec_retryOrderResend :
    exec (.retryOrderResend tag) s = if q.wait = .order ∧ channelBefore s q = false then .next (sendReq tag s) else .next s := by
  show execRetryOrderResend tag s = _
  simp only [execRetryOrderResend, hreq, Bool.and_eq_true, decide_eq_true_eq, Bool.not_eq_true']

/-- A request whose reply is late is sent again while retries are left; then its target is unresponsive. -/
theorem exec_e2eTimeout (hfence : isFenced s q.pkt.dst = false) (hwait : q.wait = .reply) (hopen : orderEnded s q = false) :
    exec (.e2eTimeout tag) s = .next (leaveStation (
      if q.sentAt + 50 * s.rmt.timers.e2e ≤ s.aon then
        if q.tries < s.rmt.timers.retries then sendReq tag (rmtCount 4 (s.modReq tag fun q => { q with tries := q.tries + 1 }))
        else unresponsive tag s
      else s)) := by
  show leaving (e2eStep tag s) = _
  have hdead : (q.wait == .dead || q.wait == .granted) = false := by rw [hwait]; rfl
  have hclaim : (q.wait == .claim) = false := by rw [hwait]; rfl
  have hreply : (q.wait == .reply) = true := by rw [hwait]; rfl
  simp only [e2eStep, hreq, hdead, hfence, hclaim, hreply, hopen, Bool.false_and, Bool.true_and, Bool.false_eq_true, if_false, decide_eq_true_eq]
  split
  · split <;> rfl
  · rfl

/-- In RECOVERY a load ends DEAD_US after it was first sent. -/
theorem exec_deadUsExpire (hmode : s.fab.recovery = true) (hload : q.pkt.type = 0x10) (hfill : isFillRead s q = false)
    (hlate : q.firstAt + 50 * s.rmt.timers.dead ≤ s.aon) :
    exec (.deadUsExpire tag) s = .next (leaveStation (finish tag 0x42 [] (timeoutEvent q 0x10 tag 2 s))) := by
  show leaving (deadStep tag s) = _
  simp only [deadStep, hreq, hmode, hload, hfill, hlate, decide_true, beq_self_eq_true, Bool.not_false, Bool.and_self, if_true]
  rfl

end

/-- A tag whose quarantine is over is free, and what waits for one goes on. -/
theorem exec_tagQuarantineEnd (tag : Fin 131072) (s : State) : exec (.tagQuarantineEnd tag) s =
    if s.rmt.quar.get 0 tag ≠ 0 ∧ s.rmt.quar.get 0 tag ≤ s.aon + 1 then
      .next (pumpAll { s with rmt := { s.rmt with quar := s.rmt.quar.set 0 tag 0 } })
    else .next s := by
  show execTagQuarantineEnd tag s = _
  simp only [execTagQuarantineEnd, Nat.sub_le_iff_le_add]
  rfl

/-! ### Unresponsive targets and final outcomes (R355, R480) -/

section
variable {tag : Nat} {q : Req} {s : State} (hreq : reqOf s tag = some q)
include hreq

section
variable (hcol : q.col = false) (hfill : isFillRead s q = false)
include hcol hfill

/-- In SERVICE the request is held. -/
theorem unresponsive_service (hmode : s.fab.recovery = false) : unresponsive tag s = sendHealth 1 q.pkt.dst
    (timeoutEvent q q.pkt.type tag (bitAt (q.pkt.type == 0x13) 0) (s.modReq tag fun q => { q with wait := .dead })) := by
  simp only [unresponsive, hreq, hcol, hfill, hmode, Bool.false_eq_true, if_false]

variable (hmode : s.fab.recovery = true)
include hmode

/-- In RECOVERY a load is held until DEAD_US. -/
theorem unresponsive_load (hload : q.pkt.type = 0x10) :
    unresponsive tag s = (sendHealth 1 q.pkt.dst s).modReq tag fun q => { q with wait := .dead } := by
  simp only [unresponsive, hreq, hcol, hfill, hmode, hload, Bool.false_eq_true, if_false, if_true]

/-- In RECOVERY any other request ends. -/
theorem unresponsive_ends (hload : q.pkt.type ≠ 0x10) : unresponsive tag s
    = finish tag (if q.pkt.type == 0x13 then 0x40 else 0x42) []
      (timeoutEvent q q.pkt.type tag (bitAt (q.pkt.type == 0x13) 0 + 2) (sendHealth 1 q.pkt.dst s)) := by
  simp only [unresponsive, hreq, hcol, hfill, hmode, hload, Bool.false_eq_true, if_false, if_true]

end

/-- A request that has its final outcome has left its tag, which an atomic's quarantine then holds. -/
theorem finishReq_rmt (outcome : Nat) (data : List (Nat × List Byte)) :
    (finishReq tag outcome data s).rmt.track = s.rmt.track.set none tag none
      ∧ (finishReq tag outcome data s).rmt.quar
        = if q.pkt.type = 0x13 then s.rmt.quar.set 0 tag (s.aon + holdTime s.rmt.timers + 1) else s.rmt.quar := by
  simp only [finishReq, hreq]
  exact ⟨rfl, rfl⟩

theorem reqOf_finishReq (outcome : Nat) (data : List (Nat × List Byte)) : reqOf (finishReq tag outcome data s) tag = none := by
  rw [reqOf, (finishReq_rmt hreq outcome data).1, Table.get_set_same]

theorem quar_finishReq (outcome : Nat) (data : List (Nat × List Byte)) : (finishReq tag outcome data s).rmt.quar.get 0 tag
    = if q.pkt.type = 0x13 then s.aon + holdTime s.rmt.timers + 1 else s.rmt.quar.get 0 tag := by
  rw [(finishReq_rmt hreq outcome data).2]
  split
  · exact Table.get_set_same ..
  · rfl

end

/-! ### Descriptors that complete (R169, R329, R330) -/

/-- The status word of a remote operation: the outcome of its first packet that failed, and how many failed. -/
def RemOp.statusWord (o : RemOp) : List Byte := leBytes 4 (match o.worst with | some (_, c) => c | none => 0) ++ leBytes 4 o.bad

/-- What a remote operation writes into its block: its data, over 0xFF where a load has a packet that failed, and its status word. -/
def RemOp.writes (o : RemOp) (k : Block) : Block :=
  (o.data.foldl (fun (k : Block) e => k.writeSp (o.loc + e.1) e.2)
    (if o.kind = 5 ∧ o.bad ≠ 0 then k.writeSp o.loc (List.replicate o.len 0xFF) else k)).writeSp o.status o.statusWord

section
variable {id : Nat} {o : RemOp} {s : State} (hop : opOf s id = some o)
include hop

theorem exec_remoteComplete_done (hdone : opDone o = true) (hblock : o.block < 272) : exec (.remoteComplete id) s
    = .next (finishDma o.block id ((outcomeRecord o (s.modBlk o.block o.writes)).modRmt fun m => { m with ops := m.ops.set none id none })) := by
  have hmay : (opDone o && decide (o.block < mgmtCore)) = true := by rw [hdone, Bool.true_and]; exact decide_eq_true hblock
  show execRemoteComplete id s = _
  simp only [execRemoteComplete, hop, hmay, if_true]
  rfl

theorem exec_remoteComplete_open (hopen : opDone o = false) : exec (.remoteComplete id) s = .next s := by
  show execRemoteComplete id s = _
  simp only [execRemoteComplete, hop, hopen, Bool.false_and, Bool.false_eq_true, if_false]

end

/-! ### The statement -/

/-- Settles O48: each command's step is the equation of its case, and what is before a request is what `earlier` and `channelBefore` find. -/
theorem remoteProgress : Obligations.RemoteProgress := by
  unfold Obligations.RemoteProgress
  refine ⟨fun id o s hop hhold => ?flag, fun id o s hop hhold => ?fence,
    fun id o s hop hlast hunsent hfinal hnext => exec_pegDoneSend_followed hop hlast hunsent hfinal hnext,
    fun id tag o g s hop hid hlast hunsent hfinal hnext hopen hgrant htag => ?releases, fun tag q s hreq => ?resends, fun tag q s hreq => ?sends,
    fun tag s => ?quarantine, fun tag q s hreq hfence hwait hopen => ?timeout,
    fun tag q s hreq hcol hfill => ⟨unresponsive_service hreq hcol hfill, unresponsive_load hreq hcol hfill, unresponsive_ends hreq hcol hfill⟩,
    fun tag q s hreq hmode hload hfill hlate => exec_deadUsExpire hreq hmode hload hfill hlate,
    fun tag outcome data q s hreq => ⟨reqOf_finishReq hreq outcome data, quar_finishReq hreq outcome data⟩,
    fun id o s hop => ⟨exec_remoteComplete_done hop, exec_remoteComplete_open hop⟩, fun p id o s hdma => ?posts⟩
  case flag =>
    rw [exec_storeFlagSend hop hhold]
    exact ⟨fun hclear => if_pos hclear, fun hbefore => if_neg (ne_false_of_eq_true hbefore)⟩
  case fence =>
    rw [exec_fenceSecondStage hop hhold]
    exact ⟨fun hclear => if_pos hclear, fun hbefore => if_neg (ne_false_of_eq_true hbefore)⟩
  case releases =>
    rw [exec_pegDoneSend_releases hop hlast hunsent hfinal hnext hopen hgrant htag, ← hid]
    rfl
  case resends =>
    refine ⟨fun hwait hlate => ?_, fun hwait hearly => ?_, fun hwait htrack hops => ?_, fun tag' x hx hserial hdst hch hcol hclaim hdone => ?_⟩
    · rw [exec_delayedResend hreq hwait, if_pos hlate]
    · rw [exec_delayedResend hreq hwait, if_neg (Nat.not_le.2 hearly)]
    · rw [exec_retryOrderResend hreq, if_pos ⟨hwait, channelBefore_first htrack hops⟩]
    · have hbefore := channelBefore_tracked hx hserial hdst hch hcol hclaim hdone
      rw [exec_retryOrderResend hreq, if_neg (by simp [hbefore])]
  case sends =>
    rw [sendReq_eq hreq]
    exact ⟨fun hopen => if_neg (Bool.eq_false_iff.1 hopen), fun hfence => if_pos hfence⟩
  case quarantine =>
    rw [exec_tagQuarantineEnd]
    exact ⟨fun hset hover => if_pos ⟨hset, hover⟩, fun hearly => if_neg fun ⟨_, hover⟩ => absurd hover (Nat.not_le.2 hearly)⟩
  case timeout =>
    rw [exec_e2eTimeout hreq hfence hwait hopen]
    refine ⟨fun hlate hleft => ?_, fun hlate hspent => ?_, fun hearly => ?_⟩
    · rw [if_pos hlate, if_pos hleft]
    · rw [if_pos hlate, if_neg (Nat.not_lt.2 hspent)]
    · rw [if_neg (Nat.not_le.2 hearly)]
  case posts => rw [finishDma, hdma]

end Sys2Proof.Machine

/-! SUPPORT. Proof of the statement about requests at their target (O49). -/

namespace Sys2Proof.Machine

open Sys2Proof

/-! ### The request in turn, and the rows that take it (R310, R463, R483) -/

/-- The request `c` heads the intake of a device that serves requests, with `rest` behind it, and no checkpoint holds it. -/
structure RequestHeads (s : State) (c : Carried) (rest : List Carried) : Prop where
  head : s.fab.reqIn = c :: rest
  runs : targetRuns s = true
  awake : s.dev ≠ .bivouac
  free : heldByCheckpoint s c.pkt = false

/-- Requests that are handled in their channel's order: neither PEG_CLAIM nor PEG_DONE. -/
def isOrdered (p : Packet) : Prop := p.type ≠ 0x14 ∧ p.type ≠ 0x15

/-- What the request `c` makes of `v`, decided by what `s` says of its layout, its job and its way. -/
def servedRequest (c : Carried) (rest : List Carried) (s v : State) : State :=
  if payloadOk c.pkt = false then fabCount 0 (behindRequest rest v)
  else if c.pkt.jobTag ≠ s.job.tag then fabCount 2 (behindRequest rest v)
  else if unreachable s c = true then behindRequest rest v
  else handleOrdered c (behindRequest rest v)

section
variable {s : State} {c : Carried} {rest : List Carried} {mine : Packet → Bool} (h : RequestHeads s c rest)
include h

theorem RequestHeads.inTurn : requestInTurn s = some c := by simp [requestInTurn, h.awake, h.head]

theorem RequestHeads.noted {u : State} (hu : Noted s u) : RequestHeads u c rest := by
  obtain ⟨b, m, rfl⟩ := hu
  exact ⟨h.head, h.runs, h.awake, h.free⟩

theorem RequestHeads.waits (hfull : replySlotFree s = false) : requestStep mine s = .next s := by
  have hawake : (s.dev == .bivouac) = false := beq_eq_false_iff_ne.2 h.awake
  simp only [requestStep, h.inTurn, hawake, hfull, Bool.or_self, Bool.and_false, Bool.false_eq_true, if_false]

theorem RequestHeads.serves (hm : mine c.pkt = true) (hslot : replySlotFree s = true) (hordered : isOrdered c.pkt) :
    requestStep mine s = .next (servedRequest c rest s s) := by
  have hview := requestView_behindRequest rest s
  have hdev : (behindRequest rest s).dev = s.dev := congrArg Prod.fst hview
  have hawake : (s.dev == .bivouac) = false := beq_eq_false_iff_ne.2 h.awake
  have hjob : (behindRequest rest s).job = s.job := congrArg (fun v => v.2.1) hview
  have hrest : admitWaiting (s.modFab fun f => { f with reqIn := f.reqIn.erase c }) = behindRequest rest s := by
    simp [behindRequest, State.modFab, h.head]
  simp only [requestStep, h.inTurn, h.runs, hm, h.free, hslot, Bool.not_false, Bool.or_true, Bool.and_self, if_true]
  simp only [hrest, hdev, hawake, hjob, unreachable_congr hview, hordered.1, hordered.2, servedRequest, Bool.not_eq_true', Bool.false_eq_true,
    if_false]
  simp only [apply_ite Host.Outcome.next]

end

/-- `row` takes the request `p`: it is the step of some requests, `p` among them, over the errors that it meets. -/
structure RowTakes (row : List ReadErr → Instr) (p : Packet) : Prop where
  ordered : isOrdered p
  step : ∃ mine : Packet → Bool, mine p = true ∧
    ∀ errs s, (row errs = .notice → errs = []) → exec (row errs) s = meeting errs (requestStep mine) s

theorem isOrdered_of_type {p : Packet} {n : Nat} (h : (p.type == n) = true) (hn : n ≠ 0x14 ∧ n ≠ 0x15) : isOrdered p := by
  rwa [isOrdered, beq_iff_eq.1 h]

/-- The rows of the nine atomics, in the order of their numbers (R348). -/
def atomicRows : List (List ReadErr → Instr) :=
  [.atomicAdd, .atomicMin, .atomicMax, .atomicAnd, .atomicOr, .atomicXor, .atomicSwap, .atomicCas, .atomicCadd]

theorem exec_atomicRow : ∀ e ∈ atomicRows.zipIdx, ∀ errs s, exec (e.1 errs) s = atomicStep e.2 errs s := by
  simp only [atomicRows, List.zipIdx_cons, List.zipIdx_nil, List.forall_mem_cons, List.not_mem_nil, false_implies, implies_true, and_true]
  and_intros <;> exact fun _ _ => rfl

/-- The requests of each row, and the row. -/
def requestRows : List ((Packet → Bool) × (List ReadErr → Instr)) :=
  [(fun p => p.type == 0x10, .load), (fun p => p.type == 0x11, .store), (fun p => p.type == 0x12, .storeFlag), (fun p => p.type == 0x16, fun _ => .notice),
    (fun p => p.type == 0x17, .fence)]
  ++ atomicRows.zipIdx.map fun e => (fun p => p.type == 0x13 && field p.payload 0 1 % 16 == e.2, e.1)

theorem rowTakes_of_mem {mine : Packet → Bool} {row : List ReadErr → Instr} {p : Packet} (hrow : (mine, row) ∈ requestRows) (hm : mine p = true) :
    RowTakes row p := by
  rcases List.mem_append.1 hrow with hplain | hatomic
  · simp only [List.mem_cons, Prod.mk.injEq, List.not_mem_nil, or_false] at hplain
    obtain ⟨rfl, rfl⟩ | ⟨rfl, rfl⟩ | ⟨rfl, rfl⟩ | ⟨rfl, rfl⟩ | ⟨rfl, rfl⟩ := hplain
    · exact ⟨isOrdered_of_type hm (by decide), _, hm, fun _ _ _ => rfl⟩
    · exact ⟨isOrdered_of_type hm (by decide), _, hm, fun _ _ _ => rfl⟩
    · exact ⟨isOrdered_of_type hm (by decide), _, hm, fun _ _ _ => rfl⟩
    · refine ⟨isOrdered_of_type hm (by decide), fun p => p.type == 0x16, hm, fun errs s hnone => ?_⟩
      rw [hnone rfl]
      rfl
    · exact ⟨isOrdered_of_type hm (by decide), _, hm, fun _ _ _ => rfl⟩
  · obtain ⟨⟨atomic, op⟩, he, heq⟩ := List.mem_map.1 hatomic
    obtain ⟨rfl, rfl⟩ := Prod.mk.inj heq
    obtain ⟨htype, hop⟩ := Bool.and_eq_true_iff.1 hm
    refine ⟨isOrdered_of_type htype (by decide), _, ?_, fun errs s _ => exec_atomicRow _ he errs s⟩
    simp only [htype, hop, Bool.true_or, Bool.and_self]

section
variable {row : List ReadErr → Instr} {c : Carried} {rest : List Carried} {s : State} {errs : List ReadErr}
  (hrow : RowTakes row c.pkt) (hnotice : row errs = .notice → errs = []) (h : RequestHeads s c rest)
include hrow hnotice h

theorem RowTakes.waits (hfull : replySlotFree s = false) : exec (row errs) s = meeting errs (fun v => .next v) s := by
  obtain ⟨mine, hm, hstep⟩ := hrow.step
  rw [hstep errs s hnotice]
  refine meeting_of_noted fun u hu => (h.noted hu).waits ?_
  obtain ⟨b, m, rfl⟩ := hu
  exact hfull

theorem RowTakes.serves (hslot : replySlotFree s = true) :
    exec (row errs) s = meeting errs (fun v => .next (servedRequest c rest s v)) s := by
  obtain ⟨mine, hm, hstep⟩ := hrow.step
  rw [hstep errs s hnotice]
  refine meeting_of_noted fun u hu => ?_
  have hheads := h.noted hu
  obtain ⟨b, m, rfl⟩ := hu
  exact hheads.serves hm hslot hrow.ordered

end

/-! ### Effects (R337, R347, R348, R351) -/

section
variable {p : Packet} {s : State}

theorem applyRequest_store (htype : p.type = 0x11 ∨ p.type = 0x12) :
    applyRequest p s = (0, writeWindow p.src (addrWindow p.addr) (addrOffset p.addr) p.payload s) := by
  rcases htype with h | h <;> simp only [applyRequest, h]

theorem writeWindow_hbm {src w off : Nat} {bs : List Byte} (hkind : (winOf s w).entry.kind = 1) : writeWindow src w off bs s
    = writeBytes ((winOf s w).entry.base / 2 ^ 38) ((winOf s w).entry.base % 2 ^ 38 + off) bs s := by
  simp only [writeWindow, winPlace, hkind, if_true]

theorem applyRequest_atomic (htype : p.type = 0x13) : applyRequest p s = applyAtomic p s := by
  simp only [applyRequest, htype]

theorem applyRequest_notice (htype : p.type = 0x16) : applyRequest p s = (0, cacheDrop p.addr (field p.payload 0 8) s) := by
  simp only [applyRequest, htype]

theorem applyRequest_fence (htype : p.type = 0x17) : applyRequest p s = (0, flushAll s) := by
  simp only [applyRequest, htype]

end

/-! ### The procedure of R339 -/

/-- The request has its channel's expected number: that of its context, or 0 where there is none and room for one. -/
def seqExpected (s : State) (p : Packet) : Prop :=
  ctxNext s p.src p.ch = some p.seq ∨ (ctxNext s p.src p.ch = none ∧ p.seq = 0 ∧ s.rmt.ctx.length < 65536)

section
variable {c : Carried} {s : State}

theorem handleOrdered_expected (h : seqExpected s c.pkt) : handleOrdered c s = handleOrdered.inOrder c (targetRegion s c.pkt) c.pkt.seq s := by
  rcases h with hnext | ⟨hnone, hzero, hroom⟩
  · have hahead : (c.pkt.seq + 2 ^ 24 - c.pkt.seq) % 2 ^ 24 = 0 := by rw [Nat.add_sub_cancel_left, Nat.mod_self]
    simp only [handleOrdered, hnext, hahead]
    rfl
  · have hfew : decide (65536 ≤ s.rmt.ctx.length) = false := decide_eq_false (Nat.not_le.2 hroom)
    simp only [handleOrdered, hnone, hzero, hfew]
    rfl

/-- A channel without a context begins at 0. -/
theorem handleOrdered_unopened (hnone : ctxNext s c.pkt.src c.pkt.ch = none) (hseq : c.pkt.seq ≠ 0) :
    handleOrdered c s = answer c (targetRegion s c.pkt) 6 0 s := by
  simp only [handleOrdered, hnone, hseq, decide_false, Bool.false_and, Bool.false_eq_true, if_false]

section
variable {n : Nat} (hnext : ctxNext s c.pkt.src c.pkt.ch = some n)
include hnext

theorem handleOrdered_ahead (hpos : 0 < (c.pkt.seq + 2 ^ 24 - n) % 2 ^ 24) (hhalf : (c.pkt.seq + 2 ^ 24 - n) % 2 ^ 24 < 2 ^ 23) :
    handleOrdered c s = answer c (targetRegion s c.pkt) 6 0 s := by
  simp only [handleOrdered, hnext, Nat.not_le.2 hhalf, hpos, if_false, if_true]

theorem handleOrdered_behind (hhalf : 2 ^ 23 ≤ (c.pkt.seq + 2 ^ 24 - n) % 2 ^ 24) :
    handleOrdered c s = handleOrdered.behind c (targetRegion s c.pkt) s := by
  simp only [handleOrdered, hnext, hhalf, if_true]

end

/-! ### A duplicate (R336, R349) -/

theorem behind_receipt {x : Receipt} (r : Nat) (h : findReceipt s c.pkt = some x) :
    handleOrdered.behind c r s = replyOutcome c r x.outcome x.value (rmtCount 3 s) := by
  simp only [handleOrdered.behind, h]

theorem behind_unknown (r : Nat) (h : findReceipt s c.pkt = none) (htype : c.pkt.type ≠ 0x10) :
    handleOrdered.behind c r s = answer c r 5 0 s := by
  simp only [handleOrdered.behind, h, htype, if_false]

/-- A load is answered again. -/
theorem behind_load (r : Nat) (h : findReceipt s c.pkt = none) (htype : c.pkt.type = 0x10) (hok : checkRequest s c.pkt = 0) :
    handleOrdered.behind c r s = answerLoad c r s := by
  simp only [handleOrdered.behind, h, htype, hok, if_true]

/-! ### The expected number (R336, R339, R340) -/

/-- The table of receipts that the request's tag names has room. -/
def receiptRoom (s : State) (p : Packet) : Prop := (receiptsFor s p.tag).length < 8192

section
variable (r n : Nat)

/-- A window on its way to the next generation leaves the context where it is. -/
theorem inOrder_genAhead (ho : checkRequest s c.pkt = 8) :
    handleOrdered.inOrder c r n s = answer c r 8 0 (setCtx c.pkt.src c.pkt.ch n s) := by
  simp only [handleOrdered.inOrder, ho, if_true]

section
variable (ho : checkRequest s c.pkt ≠ 8)
include ho

/-- What needs a receipt waits for room in its table. -/
theorem inOrder_noRoom (hkeeps : checkRequest s c.pkt ≠ 0 ∨ c.pkt.type = 0x13) (hfull : ¬receiptRoom s c.pkt) :
    handleOrdered.inOrder c r n s = answer c r 7 0 (setCtx c.pkt.src c.pkt.ch n s) := by
  have hno : ((c.pkt.type == 0x13 || checkRequest s c.pkt != 0) && decide (8192 ≤ (receiptsFor s c.pkt.tag).length)) = true := by
    simpa using ⟨hkeeps.symm, Nat.not_lt.1 hfull⟩
  simp only [handleOrdered.inOrder, ho, hno, if_false, if_true]

/-- A failed check has no effect. -/
theorem inOrder_refused (hbad : checkRequest s c.pkt ≠ 0) (hroom : receiptRoom s c.pkt) : handleOrdered.inOrder c r n s
    = answer c r (checkRequest s c.pkt) 0
      (addReceipt c.pkt (checkRequest s c.pkt) 0 (setCtx c.pkt.src c.pkt.ch ((n + 1) % 2 ^ 24) s)) := by
  have hfits : decide (8192 ≤ (receiptsFor s c.pkt.tag).length) = false := decide_eq_false (Nat.not_le.2 hroom)
  have hkeeps : (c.pkt.type == 0x13 || checkRequest s c.pkt != 0) = true := by simp [hbad]
  simp only [handleOrdered.inOrder, ho, hbad, hfits, hkeeps, decide_false, Bool.and_false, Bool.false_and, Bool.false_eq_true, if_false, if_true]

end

section
variable (ho : checkRequest s c.pkt = 0)
include ho

theorem inOrder_load (htype : c.pkt.type = 0x10) :
    handleOrdered.inOrder c r n s = answerLoad c r (setCtx c.pkt.src c.pkt.ch ((n + 1) % 2 ^ 24) s) := by
  simp only [handleOrdered.inOrder, ho, htype]
  rfl

/-- What returns nothing is answered OK after its effect. -/
theorem inOrder_applies (hload : c.pkt.type ≠ 0x10) (hatomic : c.pkt.type ≠ 0x13) : handleOrdered.inOrder c r n s
    = answer c r 0 (applyRequest c.pkt (setCtx c.pkt.src c.pkt.ch ((n + 1) % 2 ^ 24) s)).1
      (applyRequest c.pkt (setCtx c.pkt.src c.pkt.ch ((n + 1) % 2 ^ 24) s)).2 := by
  have hkeeps : (c.pkt.type == 0x13) = false := beq_eq_false_iff_ne.2 hatomic
  simp only [handleOrdered.inOrder, ho, hkeeps, hload]
  rfl

/-- An atomic's prior value is noted before it is answered. -/
theorem inOrder_atomic (hatomic : c.pkt.type = 0x13) (hroom : receiptRoom s c.pkt) : handleOrdered.inOrder c r n s
    = answer c r 0 (applyAtomic c.pkt (setCtx c.pkt.src c.pkt.ch ((n + 1) % 2 ^ 24) s)).1
      (addReceipt c.pkt 0 (applyAtomic c.pkt (setCtx c.pkt.src c.pkt.ch ((n + 1) % 2 ^ 24) s)).1
        (applyAtomic c.pkt (setCtx c.pkt.src c.pkt.ch ((n + 1) % 2 ^ 24) s)).2) := by
  have hfits : decide (8192 ≤ (receiptsFor s c.pkt.tag).length) = false := decide_eq_false (Nat.not_le.2 hroom)
  simp only [handleOrdered.inOrder, ho, hatomic, hfits, ← applyRequest_atomic hatomic]
  rfl

end

end

end

/-! ### Times that are over (R349, R353) -/

theorem exec_windowDrainExpire (w : Fin 1024) (s : State) : exec (.windowDrainExpire w) s
    = if (winOf s w).st = 2 ∧ (winOf s w).closeAt ≤ s.aon then .next (shutWindow w s) else .next s := by
  show execWindowDrainExpire w s = _
  simp only [execWindowDrainExpire, Bool.and_eq_true, decide_eq_true_eq]

/-! ### The statement -/

/-- Settles O49: a row takes the request at the head as `servedRequest` has it, and its number decides how `handleOrdered` handles it. -/
theorem targetRequests : Obligations.TargetRequests := by
  unfold Obligations.TargetRequests
  refine ⟨fun mine row errs c rest s hrow hnotice hhead hm hruns hawake hfree => ?taken, fun c s => ?ordered,
    fun p s => ⟨fun htype hkind => ?stores, applyRequest_notice, applyRequest_fence⟩, fun r s => rfl, fun w s => ?drains⟩
  case taken =>
    have hrow := rowTakes_of_mem hrow hm
    have h : RequestHeads s c rest := ⟨hhead, hruns, hawake, hfree⟩
    refine ⟨hrow.waits hnotice h, fun hslot => ?_⟩
    rw [hrow.serves hnotice h hslot]
    unfold servedRequest
    refine ⟨fun hlayout hjob hway => ?_, fun hlayout hjob hlost => ?_, fun hbad => ?_, fun hlayout hother => ?_⟩
    · simp only [hlayout, hjob, hway, Bool.true_eq_false, Bool.false_eq_true, ne_eq, not_true_eq_false, if_false]
      rfl
    · simp only [hlayout, hjob, hlost, Bool.true_eq_false, ne_eq, not_true_eq_false, if_false, if_true]
      rfl
    · simp only [hbad, if_true]
      rfl
    · simp only [hlayout, hother, Bool.true_eq_false, ne_eq, not_false_eq_true, if_false, if_true]
      rfl
  case ordered =>
    intro p r o u room
    refine ⟨fun h => ?expected, handleOrdered_unopened, fun n hnext _ _ => ?numbered⟩
    case expected =>
      rw [handleOrdered_expected h]
      refine ⟨inOrder_load r p.seq, inOrder_applies r p.seq, inOrder_atomic r p.seq, fun hbad hlive hroom => ?_, fun hlive hkeeps hfull => ?_,
        inOrder_genAhead r p.seq⟩
      · exact inOrder_refused r p.seq hlive hbad hroom
      · exact inOrder_noRoom r p.seq hlive hkeeps hfull
    case numbered =>
      intro ahead
      have hbehind : 2 ^ 23 ≤ ahead → handleOrdered c s = handleOrdered.behind c r s := handleOrdered_behind hnext
      exact ⟨handleOrdered_ahead hnext, fun hhalf x hx => (hbehind hhalf).trans (behind_receipt r hx),
        fun hhalf hnone htype => (hbehind hhalf).trans (behind_unknown r hnone htype),
        fun hhalf hnone htype hok => (hbehind hhalf).trans (behind_load r hnone htype hok)⟩
  case stores => rw [applyRequest_store htype, writeWindow_hbm hkind]
  case drains =>
    rw [exec_windowDrainExpire]
    refine ⟨fun hclosing hover => if_pos ⟨hclosing, hover⟩, fun h => if_neg fun ⟨hclosing, hover⟩ => ?_⟩
    exact h.elim (fun hst => hst hclosing) fun hearly => absurd hover (Nat.not_le.2 hearly)

end Sys2Proof.Machine

/-! SUPPORT. Proof of the statement about values at reset (O10). -/

namespace Sys2Proof.Machine

open Sys2Proof

/-! ### Lookups at reset: no table lists anything -/

theorem regPwr_reset (r : Nat) : regPwr State.reset r = {} := rfl

theorem cmdRing_reset (i : Nat) : cmdRing State.reset i = {} := rfl

theorem cplRing_reset (j : Nat) : cplRing State.reset j = {} := rfl

theorem winOf_reset (w : Nat) : winOf State.reset w = {} := rfl

theorem blkOf_reset (p : Nat) : blkOf State.reset p = {} := rfl

/-- Every counter since package reset is 0. -/
theorem counters_reset (k : Nat) : let s := State.reset
    s.flt.count.get 0 k = 0 ∧ s.pwr.count.get 0 k = 0 ∧ s.fab.count.get 0 k = 0 ∧ s.rmt.count.get 0 k = 0 ∧ s.col.count.get 0 k = 0
      ∧ s.mem.count.get 0 k = 0 := ⟨rfl, rfl, rfl, rfl, rfl, rfl⟩

/-! ### The statement -/

/-- Settles O10: the state after reset is made of default values, and what its tables do not list reads as one. -/
theorem resetValues : Obligations.ResetValues := by
  unfold Obligations.ResetValues
  intro s
  exact ⟨rfl, rfl, rfl, rfl, rfl, rfl, rfl, rfl, rfl, rfl, rfl, rfl, rfl, rfl, fun r => by rw [regPwr_reset],
    rfl, rfl, rfl, rfl, rfl, rfl, rfl, rfl, rfl, rfl, fun i => by rw [cmdRing_reset], fun j => by rw [cplRing_reset], rfl,
    fun w => by rw [winOf_reset]; exact ⟨rfl, rfl⟩, fun p g => by rw [blkOf_reset]; rfl, counters_reset⟩

end Sys2Proof.Machine

/-! SUPPORT. Proofs of the statements about steps: the front of the queue (O1, O4, O5), what every step keeps (O6, O8), and values at reset (O9). -/

namespace Sys2Proof.Machine

open Sys2Proof

/-! ### Every command keeps the queue, OTP, blown fuses, a usable key and the form of host memory -/

/-- One case for each command: what its meaning keeps has its own lemma in the layer of the Keeps files. -/
theorem exec_keeps (c : Instr) {r s : State} (h : Keeps r s) : OutKeeps r (exec c s) :=
  match c with
    | .inputRise mv railsGood => execInputRise_keeps mv railsGood s h
    | .powerUpRetry railsGood => execPowerUpRetry_keeps railsGood s h
    | .inputLow mv => execInputLow_keeps mv s h
    | .inputLowRecover mv => execInputLowRecover_keeps mv s h
    | .inputUndervoltage mv => execInputUndervoltage_keeps mv s h
    | .inputOvervoltage mv => execInputOvervoltage_keeps mv s h
    | .pwrgdHoldLow => execPwrgdHoldLow_keeps s h
    | .perstLAssert => execPerstLAssert_keeps s h
    | .perstLDeassert => execPerstLDeassert_keeps s h
    | .functionLevelReset => execFunctionLevelReset_keeps s h
    | .packageReset value => execPackageReset_keeps value s h
    | .vralertLAssert => execVralertLAssert_keeps s h
    | .vralertHoldExpire => execVralertHoldExpire_keeps s h
    | .limitRungReturn => execLimitRungReturn_keeps s h
    | .droopDetect r detector overOnePercent => execDroopDetect_keeps r detector overOnePercent s h
    | .droopRungExpire r => execDroopRungExpire_keeps r s h
    | .railSample m => execRailSample_keeps m s h
    | .thermalModelUpdate est => execThermalModelUpdate_keeps est s h
    | .sensorRead readings => execSensorRead_keeps readings s h
    | .modelFaultClear => execModelFaultClear_keeps s h
    | .currentLimitStep r => execCurrentLimitStep_keeps r s h
    | .thermalComparatorTrip sensor => execThermalComparatorTrip_keeps sensor s h
    | .governorTick => execGovernorTick_keeps s h
    | .rationDeadline => execRationDeadline_keeps s h
    | .floorEpisodeStart => execFloorEpisodeStart_keeps s h
    | .floorEpisodeEnd => execFloorEpisodeEnd_keeps s h
    | .graceExpire => execGraceExpire_keeps s h
    | .pointChangeComplete r => execPointChangeComplete_keeps r s h
    | .blockWakeGrant r => execBlockWakeGrant_keeps r s h
    | .setRation t cmd rsv mw => execSetRation_keeps t cmd rsv mw s h
    | .getPower t cmd rsv arg => execGetPower_keeps t cmd rsv arg s h
    | .setEndpointId t eid => execSetEndpointId_keeps t eid s h
    | .entdaa addr => execEntdaa_keeps addr s h
    | .getVendorDefinedMessageSupport t => execGetVendorDefinedMessageSupport_keeps t s h
    | .getVersion t => execGetVersion_keeps t s h
    | .getCapabilities t => execGetCapabilities_keeps t s h
    | .negotiateAlgorithms t => execNegotiateAlgorithms_keeps t s h
    | .getDigests t => execGetDigests_keeps t s h
    | .getCertificate t slot offset length => execGetCertificate_keeps t slot offset length s h
    | .spdmChallenge t slot nonce ready => execSpdmChallenge_keeps t slot nonce ready s h
    | .getMeasurements t index signed nonce ready => execGetMeasurements_keeps t index signed nonce ready s h
    | .respondIfReady t code token => execRespondIfReady_keeps t code token s h
    | .spdmUnsupportedRequest t code => execSpdmUnsupportedRequest_keeps t code s h
    | .combIbi ident status => execCombIbi_keeps ident status s h
    | .clockMonitorWindow m => execClockMonitorWindow_keeps m s h
    | .go value => execGo_keeps value s h
    | .imageCopyComplete pcieError => execImageCopyComplete_keeps pcieError s h
    | .bringupComplete untrained => execBringupComplete_keeps untrained s h
    | .thermalHoldClear readings => execThermalHoldClear_keeps readings s h
    | .svnCommit value => execSvnCommit_keeps value s h
    | .keyRevoke value => execKeyRevoke_keeps value s h
    | .cmdPi ring value => execCmdPi_keeps ring value s h
    | .cplCi ring value => execCplCi_keeps ring value s h
    | .evtCi value => execEvtCi_keeps value s h
    | .cmdRingEnable ring value => execCmdRingEnable_keeps ring value s h
    | .cmdRingDisable ring value => execCmdRingDisable_keeps ring value s h
    | .cplRingEnable ring value => execCplRingEnable_keeps ring value s h
    | .cplRingDisable ring value => execCplRingDisable_keeps ring value s h
    | .evtRingEnable value => execEvtRingEnable_keeps value s h
    | .fmBufEnable value => execFmBufEnable_keeps value s h
    | .registerWrite off size value => execRegisterWrite_keeps off size value s h
    | .detCtrlWrite value => execDetCtrlWrite_keeps value s h
    | .legWdogWrite value => execLegWdogWrite_keeps value s h
    | .leaseCfgWrite value => execLeaseCfgWrite_keeps value s h
    | .pwrCfgWrite value => execPwrCfgWrite_keeps value s h
    | .pcieLinkDown => execPcieLinkDown_keeps s h
    | .pcieLinkUp lanes speed d3hot => execPcieLinkUp_keeps lanes speed d3hot s h
    | .interruptTimer ring => execInterruptTimer_keeps ring s h
    | .loadTraverse parts errs => execLoadTraverse_keeps parts errs s h
    | .run errs => execRun_keeps errs s h
    | .routeTables => execRouteTables_keeps s h
    | .windowMap => execWindowMap_keeps s h
    | .opTarget => execOpTarget_keeps s h
    | .fabricMode => execFabricMode_keeps s h
    | .jobIdent => execJobIdent_keeps s h
    | .blockSpareMap => execBlockSpareMap_keeps s h
    | .columnSpareMap => execColumnSpareMap_keeps s h
    | .frameRetire => execFrameRetire_keeps s h
    | .backsightRole => execBacksightRole_keeps s h
    | .detCtrl => execDetCtrl_keeps s h
    | .legWdog => execLegWdog_keeps s h
    | .retireFrame => execRetireFrame_keeps s h
    | .dmaH2d errs => execDmaH2d_keeps errs s h
    | .dmaD2h errs => execDmaD2h_keeps errs s h
    | .dmaAtStation id errs => execDmaAtStation_keeps id errs s h
    | .hostDmaComplete id => execHostDmaComplete_keeps id s h
    | .identity => execIdentity_keeps s h
    | .hbmEcc => execHbmEcc_keeps s h
    | .shape => execShape_keeps s h
    | .energy => execEnergy_keeps s h
    | .checkpointOut => execCheckpointOut_keeps s h
    | .checkpointRun id errs => execCheckpointRun_keeps id errs s h
    | .fillIn => execFillIn_keeps s h
    | .backsight errs => execBacksight_keeps errs s h
    | .fenceJob => execFenceJob_keeps s h
    | .resetRegion errs => execResetRegion_keeps errs s h
    | .resetRegionComplete r untrained => execResetRegionComplete_keeps r untrained s h
    | .park => execPark_keeps s h
    | .parkComplete errs => execParkComplete_keeps errs s h
    | .unpark => execUnpark_keeps s h
    | .unparkComplete errs => execUnparkComplete_keeps errs s h
    | .mgtSend => execMgtSend_keeps s h
    | .ration => execRation_keeps s h
    | .resetBlock => execResetBlock_keeps s h
    | .resetBlockComplete b columns failed => execResetBlockComplete_keeps b columns failed s h
    | .resetPort => execResetPort_keeps s h
    | .d2dNear value => execD2dNear_keeps value s h
    | .d2dFar value => execD2dFar_keeps value s h
    | .oeElec value => execOeElec_keeps value s h
    | .oeDriver value => execOeDriver_keeps value s h
    | .oeOptical value => execOeOptical_keeps value s h
    | .blockBist value => execBlockBist_keeps value s h
    | .hbmMarch value => execHbmMarch_keeps value s h
    | .testEnd found => execTestEnd_keeps found s h
    | .stationReach errs => execStationReach_keeps errs s h
    | .arrivedRepeat => execArrivedRepeat_keeps s h
    | .drainCheck => execDrainCheck_keeps s h
    | .drained => execDrained_keeps s h
    | .swap errs => execSwap_keeps errs s h
    | .stationMarker => execStationMarker_keeps s h
    | .legOverdue => execLegOverdue_keeps s h
    | .nop b e => execNop_keeps b e s h
    | .wait b e => execWait_keeps b e s h
    | .post b e => execPost_keeps b e s h
    | .set b e => execSet_keeps b e s h
    | .loop b e => execLoop_keeps b e s h
    | .aseq b e => execAseq_keeps b e s h
    | .lend b e => execLend_keeps b e s h
    | .release b e => execRelease_keeps b e s h
    | .dload b e => execDload_keeps b e s h
    | .setbase b e => execSetbase_keeps b e s h
    | .scalar b e => execScalar_keeps b e s h
    | .station b e => execStation_keeps b e s h
    | .mac b e => execMac_keeps b e s h
    | .minplus b e => execMinplus_keeps b e s h
    | .maxplus b e => execMaxplus_keeps b e s h
    | .maxtimes b e => execMaxtimes_keeps b e s h
    | .l1 b e => execL1_keeps b e s h
    | .l2sq b e => execL2sq_keeps b e s h
    | .cntGt b e => execCntGt_keeps b e s h
    | .cntGe b e => execCntGe_keeps b e s h
    | .cntEq b e => execCntEq_keeps b e s h
    | .hamming b e => execHamming_keeps b e s h
    | .split32 b e => execSplit32_keeps b e s h
    | .partPost b part upto e => execPartPost_keeps b part upto e s h
    | .add b e => execAdd_keeps b e s h
    | .mul b e => execMul_keeps b e s h
    | .fma b e => execFma_keeps b e s h
    | .min b e => execMin_keeps b e s h
    | .max b e => execMax_keeps b e s h
    | .exp b e => execExp_keeps b e s h
    | .log b e => execLog_keeps b e s h
    | .rcp b e => execRcp_keeps b e s h
    | .rsqrt b e => execRsqrt_keeps b e s h
    | .cvt b e => execCvt_keeps b e s h
    | .cvtMx b e => execCvtMx_keeps b e s h
    | .datum b e => execDatum_keeps b e s h
    | .dmax b e => execDmax_keeps b e s h
    | .toC b e => execToC_keeps b e s h
    | .cadd b e => execCadd_keeps b e s h
    | .fromC b e => execFromC_keeps b e s h
    | .dropout b e => execDropout_keeps b e s h
    | .uniform b e => execUniform_keeps b e s h
    | .rawrand b e => execRawrand_keeps b e s h
    | .copy b e => execCopy_keeps b e s h
    | .vectorPost b upto e => execVectorPost_keeps b upto e s h
    | .hbmToSp b e => execHbmToSp_keeps b e s h
    | .spToHbm b e => execSpToHbm_keeps b e s h
    | .spToSp b e => execSpToSp_keeps b e s h
    | .dmaPost b id upto e => execDmaPost_keeps b id upto e s h
    | .rload b e => execRload_keeps b e s h
    | .rstore b e => execRstore_keeps b e s h
    | .ratomic b e => execRatomic_keeps b e s h
    | .pegClaimDescriptor b e => execPegClaimDescriptor_keeps b e s h
    | .notify b e => execNotify_keeps b e s h
    | .inval b e => execInval_keeps b e s h
    | .fenceDescriptor b e => execFenceDescriptor_keeps b e s h
    | .fenceSecondStage id => execFenceSecondStage_keeps id s h
    | .remoteComplete id => execRemoteComplete_keeps id s h
    | .scPost b e => execScPost_keeps b e s h
    | .scWait b e => execScWait_keeps b e s h
    | .scRead b e => execScRead_keeps b e s h
    | .scSegst b e => execScSegst_keeps b e s h
    | .scRelease b e => execScRelease_keeps b e s h
    | .scExit b e => execScExit_keeps b e s h
    | .scalarInstruction b e => execScalarInstruction_keeps b e s h
    | .load errs => execLoad_keeps errs s h
    | .store errs => execStore_keeps errs s h
    | .storeFlag errs => execStoreFlag_keeps errs s h
    | .storeFlagSend id => execStoreFlagSend_keeps id s h
    | .atomicAdd errs => execAtomicAdd_keeps errs s h
    | .atomicMin errs => execAtomicMin_keeps errs s h
    | .atomicMax errs => execAtomicMax_keeps errs s h
    | .atomicAnd errs => execAtomicAnd_keeps errs s h
    | .atomicOr errs => execAtomicOr_keeps errs s h
    | .atomicXor errs => execAtomicXor_keeps errs s h
    | .atomicSwap errs => execAtomicSwap_keeps errs s h
    | .atomicCas errs => execAtomicCas_keeps errs s h
    | .atomicCadd errs => execAtomicCadd_keeps errs s h
    | .pegClaim => execPegClaim_keeps s h
    | .pegDone => execPegDone_keeps s h
    | .pegDoneSend id => execPegDoneSend_keeps id s h
    | .notice => execNotice_keeps s h
    | .fence errs => execFence_keeps errs s h
    | .loadData poison => execLoadData_keeps poison s h
    | .ack errs => execAck_keeps errs s h
    | .atomicResult => execAtomicResult_keeps s h
    | .pegGrant => execPegGrant_keeps s h
    | .e2eTimeout tag => execE2eTimeout_keeps tag s h
    | .deadUsExpire tag => execDeadUsExpire_keeps tag s h
    | .retryOrderResend tag => execRetryOrderResend_keeps tag s h
    | .delayedResend tag => execDelayedResend_keeps tag s h
    | .receiptExpire r => execReceiptExpire_keeps r s h
    | .tagQuarantineEnd tag => execTagQuarantineEnd_keeps tag s h
    | .windowDrainExpire w => execWindowDrainExpire_keeps w s h
    | .a2a engine => execA2a_keeps engine s h
    | .a2av engine => execA2av_keeps engine s h
    | .a2ax engine => execA2ax_keeps engine s h
    | .allgather engine => execAllgather_keeps engine s h
    | .reduceScatter engine => execReduceScatter_keeps engine s h
    | .allreduce engine => execAllreduce_keeps engine s h
    | .collectiveDatum engine => execCollectiveDatum_keeps engine s h
    | .broadcast engine => execBroadcast_keeps engine s h
    | .colSlotSend tag errs => execColSlotSend_keeps tag errs s h
    | .col errs => execCol_keeps errs s h
    | .colResend tag => execColResend_keeps tag s h
    | .collectiveDeadUs id => execCollectiveDeadUs_keeps id s h
    | .flitReceive port line badCodes bytes => execFlitReceive_keeps port line badCodes bytes s h
    | .linkReplayTimeout port line => execLinkReplayTimeout_keeps port line s h
    | .replayStoreDiscard port line => execReplayStoreDiscard_keeps port line s h
    | .packetReceive port line => execPacketReceive_keeps port line s h
    | .packetForward port line => execPacketForward_keeps port line s h
    | .escWaitExpire port line => execEscWaitExpire_keeps port line s h
    | .escAdvance port line => execEscAdvance_keeps port line s h
    | .helloTimer port line => execHelloTimer_keeps port line s h
    | .hello => execHello_keeps s h
    | .challengeSend port line => execChallengeSend_keeps port line s h
    | .challenge => execChallenge_keeps s h
    | .challengeResp => execChallengeResp_keeps s h
    | .authTimeout port line => execAuthTimeout_keeps port line s h
    | .peerLostTimeout port line => execPeerLostTimeout_keeps port line s h
    | .marginReq => execMarginReq_keeps s h
    | .marginCountComplete port line eyeMin rlm symErr => execMarginCountComplete_keeps port line eyeMin rlm symErr s h
    | .marginResult => execMarginResult_keeps s h
    | .marginTestTimeout port line => execMarginTestTimeout_keeps port line s h
    | .serviceMarginSample port line deciDbm => execServiceMarginSample_keeps port line deciDbm s h
    | .biasNeed busy headroom => execBiasNeed_keeps busy headroom s h
    | .congRead => execCongRead_keeps s h
    | .congSample => execCongSample_keeps s h
    | .combLineMeasure e lines => execCombLineMeasure_keeps e lines s h
    | .lockErrorExceed p err => execLockErrorExceed_keeps p err s h
    | .searchComplete p found drive => execSearchComplete_keeps p found drive s h
    | .plumbCheckEnd p tags => execPlumbCheckEnd_keeps p tags s h
    | .retuneComplete p => execRetuneComplete_keeps p s h
    | .trainingComplete p t => execTrainingComplete_keeps p t s h
    | .trainingMismatchReport port w => execTrainingMismatchReport_keeps port w s h
    | .codewordErrors p count => execCodewordErrors_keeps p count s h
    | .failCountReset p => execFailCountReset_keeps p s h
    | .lightReturn p => execLightReturn_keeps p s h
    | .engineStart e tx rx cal => execEngineStart_keeps e tx rx cal s h
    | .xtalkRefresh e rxBank k cal => execXtalkRefresh_keeps e rxBank k cal s h
    | .heaterUpdate e rxBank loop => execHeaterUpdate_keeps e rxBank loop s h
    | .keepaliveEntry => execKeepaliveEntry_keeps s h
    | .portDarkRestart port => execPortDarkRestart_keeps port s h
    | .d2dLaneFail link turn lanes => execD2dLaneFail_keeps link turn lanes s h
    | .d2dRetrainComplete link turn => execD2dRetrainComplete_keeps link turn s h
    | .d2dFlitReceive link turn replay bytes damage => execD2dFlitReceive_keeps link turn replay bytes damage s h
    | .linkWatchdogExpire link => execLinkWatchdogExpire_keeps link s h
    | .meshFlitReceive r stop side crcGood => execMeshFlitReceive_keeps r stop side crcGood s h
    | .meshDown r => execMeshDown_keeps r s h
    | .hbmRead r off requester ecc => execHbmRead_keeps r off requester ecc s h
    | .hbmWrite r off mask data errs => execHbmWrite_keeps r off mask data errs s h
    | .patrolScrub ch ecc writtenSince => execPatrolScrub_keeps ch ecc writtenSince s h
    | .hbmRefresh ch => execHbmRefresh_keeps ch s h
    | .channelRetrainTimeout ch => execChannelRetrainTimeout_keeps ch s h
    | .postPackageRepair ch lines unread rowLeft => execPostPackageRepair_keeps ch lines unread rowLeft s h
    | .leaseRenew => execLeaseRenew_keeps s h
    | .leaseGrant => execLeaseGrant_keeps s h
    | .leaseExpiry => execLeaseExpiry_keeps s h
    | .fenceNotice => execFenceNotice_keeps s h
    | .bsDigest => execBsDigest_keeps s h
    | .teeCopyReceive port line errs => execTeeCopyReceive_keeps port line errs s h
    | .teeLogHandle errs => execTeeLogHandle_keeps errs s h
    | .vralertLRelease => execVralertLRelease_keeps s h
    | .pwrgdRelease mv railsGood => execPwrgdRelease_keeps mv railsGood s h
    | .droopRecover r => execDroopRecover_keeps r s h
    | .selftestComplete sound readings => execSelftestComplete_keeps sound readings s h
    | .channelTrainingLost ch => execChannelTrainingLost_keeps ch s h

/-- A step with a command at the front keeps all this of the state whose queue is the rest. -/
theorem step_keeps_of_cons {c : Instr} {r : List Instr} {s t : State} (hq : s.pending = c :: r) (ht : step s = .next t) :
    Keeps { s with pending := r } t := by
  simp only [step, hq] at ht
  exact (exec_keeps c (Keeps.refl _)).keep t ht

/-- What a step keeps beside the queue, whether a command is at the front or the device idles. -/
theorem step_keeps {s t : State} (ht : step s = .next t) : Keeps { s with pending := t.pending } t := by
  cases hq : s.pending with
  | nil =>
    simp only [step, hq] at ht
    cases ht
    have h := idle_keeps s (Keeps.refl s)
    exact ⟨rfl, h.otp, h.svn, h.revoked, h.key, h.host⟩
  | cons c r =>
    have h := step_keeps_of_cons hq ht
    exact ⟨rfl, h.otp, h.svn, h.revoked, h.key, h.host⟩

/-! ### The statements -/

/-- Settles O1: the second equation of the step. -/
theorem stepRunsFrontCommand : Obligations.StepRunsFrontCommand := by
  unfold Obligations.StepRunsFrontCommand
  intro c r s hq
  simp only [step, hq]

/-- Settles O4: the test of FLIT_RECEIVE on the number of bytes comes first. -/
theorem malformedFlitStops : Obligations.MalformedFlitStops := by
  unfold Obligations.MalformedFlitStops
  intro p l f bs s h
  exact if_pos h

/-- Settles O5: every command keeps the queue that it finds, which is the rest. -/
theorem stepTakesOneCommand : Obligations.StepTakesOneCommand := by
  unfold Obligations.StepTakesOneCommand
  intro c r s t hq ht
  exact (step_keeps_of_cons hq ht).queue

/-- Settles O6: every command, and an idle tick, keeps OTP and every blown fuse. -/
theorem fusesOnlyBlow : Obligations.FusesOnlyBlow := by
  unfold Obligations.FusesOnlyBlow
  intro s t ht
  have h := step_keeps ht
  exact ⟨h.otp, h.svn, h.revoked⟩

/-- Settles O8: every command, and an idle tick, writes host memory in its canonical form. -/
theorem hostMemoryCanonical : Obligations.HostMemoryCanonical := by
  unfold Obligations.HostMemoryCanonical
  intro s t hs ht
  exact (step_keeps ht).host hs

/-- Settles O9: slot 0 is programmed at reset and no slot is revoked, host memory lists nothing, and the queue is empty. -/
theorem resetHoldsInvariants : Obligations.ResetHoldsInvariants := by
  unfold Obligations.ResetHoldsInvariants
  exact ⟨⟨0, by decide, rfl⟩, rfl, rfl⟩

end Sys2Proof.Machine

/-! SUPPORT. Proofs of the statements about an idle step and the security-version fuses (O2, O29, O30), and about key revocation (O7). -/

namespace Sys2Proof.Machine

open Sys2Proof

variable {s : State}

/-! ### Fuses read as a thermometer code (R502) -/

theorem bit_or_two_pow (f m k : Nat) : bit (f ||| 2 ^ m) k = (bit f k || decide (m = k)) := by
  simp only [bit, Nat.testBit_or, Nat.testBit_two_pow]

/-- The count from `n` on ends at the first fuse that is not blown, or at the end of the field. -/
theorem fusedFrom_eq {f top : Nat} (fuel n : Nat) (hn : n ≤ top) (htop : top ≤ n + fuel) (hblown : ∀ k, n ≤ k → k < top → bit f k = true)
    (hstop : top = n + fuel ∨ bit f top = false) : fusedFrom f fuel n = top := by
  induction fuel generalizing n with
  | zero => exact Nat.le_antisymm hn htop
  | succ fuel ih =>
    rcases Nat.eq_or_lt_of_le hn with rfl | hlt
    · have hno : bit f n = false := hstop.resolve_left (by omega)
      simp [fusedFrom, hno]
    · rw [fusedFrom, if_pos (hblown n (Nat.le_refl n) hlt)]
      exact ih (n + 1) hlt (by omega) (fun k hk => hblown k (by omega)) (hstop.imp_left fun h => by omega)

/-- Every fuse that was counted is blown, and the count grows with `n`. -/
theorem fusedFrom_blown (f fuel n : Nat) : n ≤ fusedFrom f fuel n ∧ ∀ k, n ≤ k → k < fusedFrom f fuel n → bit f k = true := by
  induction fuel generalizing n with
  | zero => exact ⟨Nat.le_refl n, fun k hk hlt => absurd hlt (Nat.not_lt.2 hk)⟩
  | succ fuel ih =>
    rw [fusedFrom]
    split
    next hb =>
      obtain ⟨hle, hall⟩ := ih (n + 1)
      refine ⟨by omega, fun k hk hlt => ?_⟩
      rcases Nat.eq_or_lt_of_le hk with rfl | hk
      · exact hb
      · exact hall k hk hlt
    next => exact ⟨Nat.le_refl n, fun k hk hlt => absurd hlt (Nat.not_lt.2 hk)⟩

/-- Blowing the fuse at which the count stopped moves the count on. -/
theorem fusedFrom_grows {f : Nat} (h : fusedFrom f 64 0 < 64) : fusedFrom f 64 0 < fusedFrom (f ||| 2 ^ fusedFrom f 64 0) 64 0 := by
  by_contra hno
  let m := fusedFrom f 64 0
  have hall := (fusedFrom_blown f 64 0).2
  have hmore : ∀ fuel n, n ≤ m → m < n + fuel → m < fusedFrom (f ||| 2 ^ m) fuel n := by
    intro fuel
    induction fuel with
    | zero => intro n h1 h2; omega
    | succ fuel ih =>
      intro n hn hlt
      have hb : bit (f ||| 2 ^ m) n = true := by
        rw [bit_or_two_pow]
        rcases Nat.eq_or_lt_of_le hn with hm | hn
        · simp [hm]
        · simp [hall n (Nat.zero_le n) hn]
      rw [fusedFrom, if_pos hb]
      rcases Nat.eq_or_lt_of_le hn with hm | hn
      · have hle := (fusedFrom_blown (f ||| 2 ^ m) fuel (n + 1)).1
        omega
      · exact ih (n + 1) hn (by omega)
  exact hno (hmore 64 0 (Nat.zero_le _) (by omega))

/-! ### An idle step (R30, R503; logs 2 and 153) -/

theorem step_idle (h : s.pending = []) : step s = .next (idle s) := by
  simp only [step, h]

theorem idle_off (h : pwrgd s = false) : idle s = s := by
  unfold pwrgd at h
  simp [idle, h]

theorem idle_quiet (h : pwrgd s = true) (hb : s.idn.blowing = false) : idle s = { s with aon := s.aon + 1 } := by
  unfold pwrgd at h
  simp [idle, h, blowFuse, hb]

/-- One tick of a commit in progress. -/
def blown (s : State) : State :=
  let f := s.idn.svnFuses ||| 2 ^ fusedFrom s.idn.svnFuses 64 0
  let last := decide (min s.idn.svn 64 ≤ fusedFrom f 64 0)
  { s with aon := s.aon + 1, idn := { s.idn with svnFuses := f, blowing := !last, commit := if last then 2 else s.idn.commit } }

theorem idle_blowing (h : pwrgd s = true) (hb : s.idn.blowing = true) : idle s = blown s := by
  unfold pwrgd at h
  simp only [idle, h, if_true, blowFuse, hb, blown, fusedSvn]
  split
  next hlast => simp only [hlast, decide_true, Bool.not_true, if_true]
  next hmore =>
    simp only [hmore, decide_false, Bool.not_false, Bool.false_eq_true, if_false]

/-- Settles O2: one equation of the idle step for each of its three cases. -/
theorem emptyQueueIdles : Obligations.EmptyQueueIdles := by
  unfold Obligations.EmptyQueueIdles
  intro s hq
  rw [step_idle hq]
  exact ⟨fun h => by rw [idle_off h], fun h hb => by rw [idle_quiet h hb], fun h hb => by rw [idle_blowing h hb]; rfl⟩

/-- Settles O29: the count stops at the first fuse that is not blown. -/
theorem fusedSecurityVersion : Obligations.FusedSecurityVersion := by
  unfold Obligations.FusedSecurityVersion
  intro n s hn hall hstop
  exact fusedFrom_eq 64 0 (Nat.zero_le n) (by omega) (fun k _ => hall k) (by omega)

/-! ### A commit runs to its end (R503) -/

/-- The step of a machine that may have stopped. -/
def stepOut (o : Out) : Out := match o with | .next u => step u | o => o

/-- Where a commit ends that began at `s`, after `n` ticks. -/
def Committed (s : State) (n : Nat) (t : State) : Prop :=
  t = { s with aon := s.aon + n, idn := { s.idn with svnFuses := t.idn.svnFuses, blowing := false, commit := 2 } }
    ∧ ∀ k, bit t.idn.svnFuses k = (bit s.idn.svnFuses k || decide (k < min s.idn.svn 64))

/-- The tick that blows the last fuse ends the commit. -/
theorem blown_last (hless : fusedSvn s < min s.idn.svn 64)
    (hlast : min s.idn.svn 64 ≤ fusedFrom (s.idn.svnFuses ||| 2 ^ fusedFrom s.idn.svnFuses 64 0) 64 0) : Committed s 1 (blown s) := by
  refine ⟨by simp only [blown, hlast, decide_true, Bool.not_true, if_true], fun k => ?_⟩
  have hall := (fusedFrom_blown (s.idn.svnFuses ||| 2 ^ fusedFrom s.idn.svnFuses 64 0) 64 0).2 k (Nat.zero_le k)
  unfold fusedSvn at hless
  by_cases hk : k < min s.idn.svn 64
  · simp only [blown, hall (by omega), hk, decide_true, Bool.or_true]
  · have hne : fusedFrom s.idn.svnFuses 64 0 ≠ k := by omega
    simp only [blown, bit_or_two_pow, hne, hk, decide_false]

/-- A tick that is not the last leaves the same commit in progress, one fuse further on. -/
theorem committed_of_blown {n : Nat} {t : State} (hless : fusedSvn s < min s.idn.svn 64)
    (hmore : fusedFrom (s.idn.svnFuses ||| 2 ^ fusedFrom s.idn.svnFuses 64 0) 64 0 < min s.idn.svn 64) (h : Committed (blown s) n t) :
    Committed s (n + 1) t := by
  obtain ⟨ht, hbits⟩ := h
  refine ⟨?_, fun k => ?_⟩
  · rw [ht]
    simp only [blown, Nat.not_le.2 hmore, decide_false, Bool.not_false, Nat.add_assoc, Nat.add_comm 1 n]
  · rw [hbits k]
    unfold fusedSvn at hless
    by_cases hk : fusedFrom s.idn.svnFuses 64 0 = k
    · subst hk
      simp [blown, hless]
    · simp only [blown, bit_or_two_pow, hk, decide_false, Bool.or_false]
      rfl

/-- Each tick raises the count, so that the commit ends. -/
theorem commit_ends (d : Nat) : ∀ s : State, min s.idn.svn 64 ≤ fusedSvn s + d → s.pending = [] → pwrgd s = true → s.idn.blowing = true →
    fusedSvn s < min s.idn.svn 64 → ∃ n t, 1 ≤ n ∧ n ≤ d ∧ stepOut^[n] (.next s) = .next t ∧ Committed s n t := by
  induction d with
  | zero => intro s hd _ _ _ hless; omega
  | succ d ih =>
    intro s hd hq hg hb hless
    have htick : stepOut (.next s) = .next (blown s) := by rw [stepOut, step_idle hq, idle_blowing hg hb]
    have hgrow : fusedSvn s < fusedFrom (s.idn.svnFuses ||| 2 ^ fusedFrom s.idn.svnFuses 64 0) 64 0 :=
      fusedFrom_grows (show fusedSvn s < 64 by omega)
    by_cases hlast : min s.idn.svn 64 ≤ fusedFrom (s.idn.svnFuses ||| 2 ^ fusedFrom s.idn.svnFuses 64 0) 64 0
    · exact ⟨1, blown s, Nat.le_refl 1, by omega, htick, blown_last hless hlast⟩
    · have hstill : (blown s).idn.blowing = true := by simp [blown, hlast]
      have hrest : min (blown s).idn.svn 64 ≤ fusedSvn (blown s) + d := by
        show min s.idn.svn 64 ≤ fusedFrom (s.idn.svnFuses ||| 2 ^ fusedFrom s.idn.svnFuses 64 0) 64 0 + d
        omega
      obtain ⟨n, t, h1, hn, hrun, hdone⟩ := ih (blown s) hrest hq hg hstill (Nat.not_le.1 hlast)
      refine ⟨n + 1, t, by omega, by omega, ?_, committed_of_blown hless (Nat.not_le.1 hlast) hdone⟩
      rw [Function.iterate_succ_apply, htick, hrun]

/-- Settles O30: a commit is accepted or refused by its guard, and one in progress ends by induction on the fuses that it has still to blow. -/
theorem fuseWrites : Obligations.FuseWrites := by
  unfold Obligations.FuseWrites
  refine ⟨fun v s hw hr hv hless => ?_, fun v s hw hno => ?_, fun s hq hg hb hless => ?_⟩
  · have hguard : (s.dev == .ready && v.toNat % 128 == s.idn.svn && decide (fusedSvn s < min (v.toNat % 128) 64)) = true := by
      simp [hr, hv, Nat.lt_min.1 hless]
    simp only [exec, execSvnCommit, hw, if_true, writeSvnCommit, hguard]
    rfl
  · have hguard : ¬(s.dev == .ready && v.toNat % 128 == s.idn.svn && decide (fusedSvn s < min (v.toNat % 128) 64)) = true := by
      simp only [Bool.and_eq_true, beq_iff_eq, decide_eq_true_eq]
      rintro ⟨⟨hr, hv⟩, hless⟩
      rw [hv] at hless
      exact hno.elim (fun h => h hr) fun h => h.elim (fun h => h hv) fun h => absurd hless (Nat.not_lt.2 h)
    simp only [exec, execSvnCommit, hw, if_true, writeSvnCommit, hguard]
    rfl
  · obtain ⟨n, t, h1, hn, hrun, heq, hbits⟩ := commit_ends 64 s (by omega) hq hg hb hless
    exact ⟨n, t, h1, hn, hrun, heq, hbits⟩

/-! ### Revoking a key slot (R504) -/

theorem exec_keyRevoke (v : W32) (s : State) : exec (.keyRevoke v) s = .next (if hostWrites s true then writeKeyRevoke v.toNat s else s) := rfl

/-- A value with bit `k` alone names slot `k` alone. -/
theorem slots_of_bit (k : Fin 4) : (List.range 4).filter (bit (BitVec.ofNat 32 (2 ^ k.val)).toNat) = [k.val] := by
  revert k
  decide

theorem exec_keyRevoke_bit {k : Fin 4} (hw : hostWrites s true = true) :
    exec (.keyRevoke (BitVec.ofNat 32 (2 ^ k.val))) s = .next (revokeSlot s k) := by
  rw [exec_keyRevoke, if_pos hw, writeKeyRevoke, slots_of_bit]
  rfl

theorem mayRevoke_iff {k : Nat} : mayRevoke s k = true ↔
    s.dev = .ready ∧ k ≠ s.idn.keyIndex ∧ ∃ j, j < 4 ∧ j ≠ k ∧ keyProgrammed s j = true ∧ bit s.idn.revoked j = false := by
  simp [mayRevoke, and_assoc]

theorem revokeSlot_revokes {k : Nat} (h : mayRevoke s k = true) :
    revokeSlot s k = { s with idn := { s.idn with revoked := s.idn.revoked ||| 2 ^ k } } := by
  unfold revokeSlot
  by_cases hb : bit s.idn.revoked k = true
  · have hsame : s.idn.revoked ||| 2 ^ k = s.idn.revoked := by
      apply Nat.eq_of_testBit_eq
      intro i
      rw [Nat.testBit_or, Nat.testBit_two_pow]
      by_cases hi : k = i
      · subst hi
        simpa [bit] using hb
      · simp [hi]
    simp only [hb, Bool.not_true, Bool.false_and, Bool.false_eq_true, if_false, hsame]
  · simp [hb, h]
    rfl

theorem revokeSlot_refuses {k : Nat} (h : ¬mayRevoke s k = true) : revokeSlot s k = s := by
  simp [revokeSlot, h]

/-- What revoking several slots changes: the fuses of those slots at most. -/
theorem revokeSlots_frame (l : List Nat) (s : State) : let t := l.foldl revokeSlot s
    t = { s with idn := { s.idn with revoked := t.idn.revoked } } ∧ ∀ k, k ∉ l → bit t.idn.revoked k = bit s.idn.revoked k := by
  induction l generalizing s with
  | nil => exact ⟨rfl, fun _ _ => rfl⟩
  | cons x xs ih =>
    obtain ⟨heq, hbits⟩ := ih (revokeSlot s x)
    by_cases hx : mayRevoke s x = true
    · rw [revokeSlot_revokes hx] at heq hbits
      simp only [List.foldl_cons, revokeSlot_revokes hx]
      refine ⟨heq, fun k hk => ?_⟩
      rw [hbits k (List.not_mem_of_not_mem_cons hk), bit_or_two_pow, decide_eq_false (List.ne_of_not_mem_cons hk).symm, Bool.or_false]
    · rw [revokeSlot_refuses hx] at heq hbits
      simp only [List.foldl_cons, revokeSlot_refuses hx]
      exact ⟨heq, fun k hk => hbits k (List.not_mem_of_not_mem_cons hk)⟩

/-- Settles O7: the write by the guard of a slot's revocation, and every other step by what steps keep. -/
theorem usableKeyKept : Obligations.UsableKeyKept := by
  unfold Obligations.UsableKeyKept
  refine ⟨fun k s hw hr hk hother => ?_, fun k s hw hno => ?_, fun v s => ?_, fun k s t hk ht => (step_keeps ht).revoked k hk,
    fun s t hs ht => (step_keeps ht).key hs⟩
  · rw [exec_keyRevoke_bit hw, revokeSlot_revokes (mayRevoke_iff.2 ⟨hr, hk, hother⟩)]
  · rw [exec_keyRevoke_bit hw, revokeSlot_refuses]
    rw [mayRevoke_iff]
    rintro ⟨hr, hk, j, hj, hne, hprog, hlive⟩
    rcases hno with h | h | h
    · exact h hr
    · exact hk h
    · rw [h j hj hne hprog] at hlive
      cases hlive
  · rw [exec_keyRevoke]
    split
    · obtain ⟨heq, hbits⟩ := revokeSlots_frame ((List.range 4).filter (bit v.toNat)) s
      refine ⟨_, rfl, heq, fun k hk => hbits k fun hmem => ?_⟩
      obtain ⟨hlt, hb⟩ := List.mem_filter.1 hmem
      rcases hk with h | h
      · rw [h] at hb
        cases hb
      · exact absurd (List.mem_range.1 hlt) (Nat.not_lt.2 h)
    · exact ⟨s, rfl, rfl, fun _ _ => rfl⟩

end Sys2Proof.Machine

/-! SUPPORT. Proof of the statement that every well-formed command completes (O3). -/

namespace Sys2Proof.Machine

open Sys2Proof

/-! ### Outcomes that are a next state -/

theorem completes_next (s : State) : Completes (.next s) := ⟨s, rfl⟩

theorem completes_ite {c : Prop} [Decidable c] {a b : Out} (ha : Completes a) (hb : Completes b) : Completes (if c then a else b) := by
  split <;> assumption

/-- A step that happens under a guard, and otherwise leaves the state. -/
theorem completes_guarded {c : Prop} [Decidable c] (t u : State) : Completes (if c then .next t else .next u) :=
  completes_ite (completes_next t) (completes_next u)

theorem completes_leaving {o : Out} (h : Completes o) : Completes (leaving o) := by
  obtain ⟨t, rfl⟩ := h
  exact completes_next _

theorem completes_meeting {f : State → Out} (errs : List ReadErr) (h : ∀ u, Completes (f u)) (s : State) : Completes (meeting errs f s) := by
  refine completes_ite (h s) ?_
  obtain ⟨t, ht⟩ := h (s.modHbm fun h => { h with meet := errs })
  rw [ht]
  exact completes_next _

theorem completes_moving {f : State → Out} (errs : List ReadErr) (h : ∀ u, Completes (f u)) (s : State) : Completes (moving errs f s) :=
  completes_meeting errs h _

/-! ### Steps that several commands share -/

theorem completes_bundleStep (b : Nat) (e : HwErr) (mine : Block → Nat → Bool) (s : State) : Completes (bundleStep b e mine s) :=
  completes_meeting _ (fun _ => completes_next _) s

theorem completes_scalarStep (custom : Option Nat) (b : Fin 256) (e : HwErr) (body : Nat → Nat → Nat → State → State) (s : State) :
    Completes (scalarStep custom b e body s) := by
  unfold scalarStep
  split
  · exact completes_next _
  · refine completes_ite (completes_next _) ?_
    split
    · exact completes_next _
    · refine completes_ite ?_ (completes_next _)
      split <;> exact completes_next _

theorem completes_requestStep (mine : Packet → Bool) (s : State) : Completes (requestStep mine s) := by
  unfold requestStep
  split
  · exact completes_next _
  · refine completes_ite ?_ (completes_next _)
    refine completes_ite (completes_next _) (completes_ite (completes_next _) (completes_ite (completes_next _) ?_))
    exact completes_ite (completes_next _) (completes_ite (completes_next _) (completes_guarded _ _))

theorem completes_replyStep (type : Nat) (body : Nat → Packet → State → State) (s : State) : Completes (replyStep type body s) := by
  unfold replyStep
  split
  · exact completes_next _
  · refine completes_ite (completes_next _) (completes_ite (completes_next _) (completes_ite (completes_next _) ?_))
    split <;> exact completes_next _

theorem completes_mgtStep (code : Nat) (ok : List Byte → Bool) (body : Carried → List Byte → State → State) (s : State) :
    Completes (mgtStep code ok body s) := by
  refine completes_ite ?_ (completes_next _)
  dsimp only
  split
  · exact completes_next _
  · exact completes_guarded _ _

theorem completes_spdmStep (t : Transport) (need : Nat) (body : State → State) (s : State) : Completes (spdmStep t need body s) :=
  completes_ite (completes_next _) (completes_guarded _ _)

theorem completes_colStep (op : Nat) (e : Fin 4) (s : State) : Completes (colStep op e s) := by
  unfold colStep
  split
  · exact completes_next _
  · exact completes_ite (completes_next _) (completes_ite (completes_next _) (completes_guarded _ _))

theorem completes_ckptRunStep (id : Nat) (s : State) : Completes (ckptRunStep id s) := by
  unfold ckptRunStep
  repeat' split
  all_goals exact completes_next _

theorem completes_e2eStep (tag : Fin 131072) (s : State) : Completes (e2eStep tag s) := by
  unfold e2eStep
  dsimp only
  repeat' split
  all_goals exact completes_next _

theorem completes_deadStep (tag : Fin 131072) (s : State) : Completes (deadStep tag s) := by
  unfold deadStep
  repeat' split
  all_goals exact completes_next _

/-! ### One lemma for each command whose meaning is more than one next state -/

theorem execInputRise_completes (mv : Nat) (railsGood : Bool) (s : State) : Completes (execInputRise mv railsGood s) := completes_guarded _ _

theorem execPowerUpRetry_completes (railsGood : Bool) (s : State) : Completes (execPowerUpRetry railsGood s) := completes_guarded _ _

theorem execInputLow_completes (mv : Nat) (s : State) : Completes (execInputLow mv s) := completes_guarded _ _

theorem execInputLowRecover_completes (mv : Nat) (s : State) : Completes (execInputLowRecover mv s) := completes_guarded _ _

theorem execInputUndervoltage_completes (mv : Nat) (s : State) : Completes (execInputUndervoltage mv s) := completes_guarded _ _

theorem execInputOvervoltage_completes (mv : Nat) (s : State) : Completes (execInputOvervoltage mv s) := completes_guarded _ _

theorem execPwrgdHoldLow_completes (s : State) : Completes (execPwrgdHoldLow s) := completes_guarded _ _

theorem execPerstLAssert_completes (s : State) : Completes (execPerstLAssert s) := completes_guarded _ _

theorem execPerstLDeassert_completes (s : State) : Completes (execPerstLDeassert s) := completes_guarded _ _

theorem execFunctionLevelReset_completes (s : State) :
    Completes (execFunctionLevelReset s) := completes_ite (completes_next _) (completes_guarded _ _)

theorem execVralertLAssert_completes (s : State) : Completes (execVralertLAssert s) := completes_guarded _ _

theorem execVralertHoldExpire_completes (s : State) : Completes (execVralertHoldExpire s) := by
  unfold execVralertHoldExpire
  repeat' split
  all_goals exact completes_next _

theorem execDroopDetect_completes (r : Fin 4) (detector : Fin 16) (overOnePercent : Bool) (s : State) :
    Completes (execDroopDetect r detector overOnePercent s) := completes_guarded _ _

theorem execDroopRungExpire_completes (r : Fin 4) (s : State) : Completes (execDroopRungExpire r s) := completes_guarded _ _

theorem execRailSample_completes (m : Rails) (s : State) : Completes (execRailSample m s) := completes_guarded _ _

theorem execThermalModelUpdate_completes (est : ThermEst) (s : State) : Completes (execThermalModelUpdate est s) := completes_guarded _ _

theorem execSensorRead_completes (readings : List SensorVal) (s : State) : Completes (execSensorRead readings s) := by
  unfold execSensorRead
  dsimp only
  repeat' split
  all_goals exact completes_next _

theorem execModelFaultClear_completes (s : State) : Completes (execModelFaultClear s) := completes_guarded _ _

theorem execCurrentLimitStep_completes (r : Fin 4) (s : State) : Completes (execCurrentLimitStep r s) := completes_guarded _ _

theorem execThermalComparatorTrip_completes (sensor : Fin 81) (s : State) :
    Completes (execThermalComparatorTrip sensor s) := completes_ite (completes_next _) (completes_ite (completes_next _) (completes_guarded _ _))

theorem execGovernorTick_completes (s : State) : Completes (execGovernorTick s) := by
  unfold execGovernorTick
  dsimp only
  repeat' split
  all_goals exact completes_next _

theorem execRationDeadline_completes (s : State) : Completes (execRationDeadline s) := by
  unfold execRationDeadline
  repeat' split
  all_goals exact completes_next _

theorem execFloorEpisodeStart_completes (s : State) : Completes (execFloorEpisodeStart s) := completes_guarded _ _

theorem execFloorEpisodeEnd_completes (s : State) : Completes (execFloorEpisodeEnd s) := completes_guarded _ _

theorem execGraceExpire_completes (s : State) : Completes (execGraceExpire s) := by
  unfold execGraceExpire
  dsimp only
  repeat' split
  all_goals exact completes_next _

theorem execPointChangeComplete_completes (r : Fin 4) (s : State) : Completes (execPointChangeComplete r s) := completes_guarded _ _

theorem execBlockWakeGrant_completes (r : Fin 4) (s : State) : Completes (execBlockWakeGrant r s) := completes_guarded _ _

theorem execSetEndpointId_completes (t : Transport) (eid : Byte) (s : State) : Completes (execSetEndpointId t eid s) := completes_guarded _ _

theorem execGetVersion_completes (t : Transport) (s : State) : Completes (execGetVersion t s) := completes_spdmStep _ _ _ _

theorem execGetCapabilities_completes (t : Transport) (s : State) : Completes (execGetCapabilities t s) := completes_spdmStep _ _ _ _

theorem execNegotiateAlgorithms_completes (t : Transport) (s : State) : Completes (execNegotiateAlgorithms t s) := completes_spdmStep _ _ _ _

theorem execGetDigests_completes (t : Transport) (s : State) : Completes (execGetDigests t s) := completes_spdmStep _ _ _ _

theorem execGetCertificate_completes (t : Transport) (slot : Byte) (offset length : W16) (s : State) :
    Completes (execGetCertificate t slot offset length s) := completes_spdmStep _ _ _ _

theorem execSpdmChallenge_completes (t : Transport) (slot : Byte) (nonce : BitVec 256) (ready : Bool) (s : State) :
    Completes (execSpdmChallenge t slot nonce ready s) := completes_spdmStep _ _ _ _

theorem execGetMeasurements_completes (t : Transport) (index : Byte) (signed : Bool) (nonce : BitVec 256) (ready : Bool) (s : State) :
    Completes (execGetMeasurements t index signed nonce ready s) := completes_spdmStep _ _ _ _

theorem execRespondIfReady_completes (t : Transport) (code token : Byte) (s : State) :
    Completes (execRespondIfReady t code token s) := completes_spdmStep _ _ _ _

theorem execSpdmUnsupportedRequest_completes (t : Transport) (code : Byte) (s : State) :
    Completes (execSpdmUnsupportedRequest t code s) := completes_spdmStep _ _ _ _

theorem execCombIbi_completes (ident : W16) (status : Byte) (s : State) : Completes (execCombIbi ident status s) := completes_guarded _ _

theorem execClockMonitorWindow_completes (m : ClockMeas) (s : State) :
    Completes (execClockMonitorWindow m s) := completes_ite (completes_next _) (completes_guarded _ _)

theorem execImageCopyComplete_completes (pcieError : Bool) (s : State) :
    Completes (execImageCopyComplete pcieError s) := completes_ite (completes_guarded _ _) (completes_next _)

theorem execBringupComplete_completes (untrained : List (Fin 256)) (s : State) : Completes (execBringupComplete untrained s) := completes_guarded _ _

theorem execThermalHoldClear_completes (readings : List SensorVal) (s : State) : Completes (execThermalHoldClear readings s) := completes_guarded _ _

theorem execPcieLinkDown_completes (s : State) : Completes (execPcieLinkDown s) := completes_guarded _ _

theorem execPcieLinkUp_completes (lanes : Fin 4) (speed : Fin 7) (d3hot : Bool) (s : State) :
    Completes (execPcieLinkUp lanes speed d3hot s) := completes_ite (completes_next _) (completes_ite (completes_next _) (completes_guarded _ _))

theorem execInterruptTimer_completes (ring : Option (Fin 64)) (s : State) : Completes (execInterruptTimer ring s) := by
  unfold execInterruptTimer
  repeat' split
  all_goals exact completes_next _

theorem execLoadTraverse_completes (parts : TraverseParts) (errs : List ReadErr) (s : State) :
    Completes (execLoadTraverse parts errs s) := completes_meeting _ (fun _ => completes_next _) _

theorem execRun_completes (errs : List ReadErr) (s : State) : Completes (execRun errs s) := completes_meeting _ (fun _ => completes_next _) _

theorem execDmaH2d_completes (errs : List ReadErr) (s : State) : Completes (execDmaH2d errs s) := completes_meeting _ (fun _ => completes_next _) _

theorem execDmaD2h_completes (errs : List ReadErr) (s : State) : Completes (execDmaD2h errs s) := completes_meeting _ (fun _ => completes_next _) _

theorem execDmaAtStation_completes (id : Nat) (errs : List ReadErr) (s : State) : Completes (execDmaAtStation id errs s) := by
  unfold execDmaAtStation
  split
  · exact completes_ite (completes_meeting _ (fun _ => completes_next _) _) (completes_next _)
  · exact completes_next _

theorem execHostDmaComplete_completes (id : Nat) (s : State) : Completes (execHostDmaComplete id s) := by
  unfold execHostDmaComplete
  repeat' split
  all_goals exact completes_next _

theorem execCheckpointRun_completes (id : Nat) (errs : List ReadErr) (s : State) :
    Completes (execCheckpointRun id errs s) := completes_meeting _ (fun v => completes_leaving (completes_ckptRunStep id v)) s

theorem execBacksight_completes (errs : List ReadErr) (s : State) :
    Completes (execBacksight errs s) := completes_meeting _ (fun _ => completes_next _) _

theorem execResetRegion_completes (errs : List ReadErr) (s : State) :
    Completes (execResetRegion errs s) := completes_meeting _ (fun _ => completes_next _) _

theorem execResetRegionComplete_completes (r : Fin 4) (untrained : List (Fin 64)) (s : State) :
    Completes (execResetRegionComplete r untrained s) := completes_guarded _ _

theorem execParkComplete_completes (errs : List ReadErr) (s : State) :
    Completes (execParkComplete errs s) := completes_meeting _ (fun _ => completes_guarded _ _) _

theorem execUnparkComplete_completes (errs : List ReadErr) (s : State) : Completes (execUnparkComplete errs s) := by
  refine completes_moving _ (fun v => ?_) _
  dsimp only
  repeat' split
  all_goals exact completes_next _

theorem execResetBlockComplete_completes (b : Fin 256) (columns : List (Fin 132)) (failed : Bool) (s : State) :
    Completes (execResetBlockComplete b columns failed s) := by
  unfold execResetBlockComplete
  repeat' split
  all_goals exact completes_next _

theorem execTestEnd_completes (found : List TestFind) (s : State) : Completes (execTestEnd found s) := completes_guarded _ _

theorem execStationReach_completes (errs : List ReadErr) (s : State) : Completes (execStationReach errs s) := by
  refine completes_moving _ (fun v => ?_) _
  dsimp only
  repeat' split
  all_goals exact completes_next _

theorem execArrivedRepeat_completes (s : State) : Completes (execArrivedRepeat s) := by
  unfold execArrivedRepeat
  repeat' split
  all_goals exact completes_next _

theorem execDrainCheck_completes (s : State) : Completes (execDrainCheck s) := completes_mgtStep _ _ _ _

theorem execDrained_completes (s : State) : Completes (execDrained s) := by
  unfold execDrained
  dsimp only
  repeat' split
  all_goals exact completes_next _

theorem execSwap_completes (errs : List ReadErr) (s : State) : Completes (execSwap errs s) := completes_moving _ (completes_mgtStep _ _ _) _

theorem execStationMarker_completes (s : State) : Completes (execStationMarker s) := completes_mgtStep _ _ _ _

theorem execLegOverdue_completes (s : State) : Completes (execLegOverdue s) := by
  unfold execLegOverdue
  repeat' split
  all_goals exact completes_next _

theorem execNop_completes (b : Fin 256) (e : HwErr) (s : State) : Completes (execNop b e s) := completes_bundleStep _ _ _ _

theorem execWait_completes (b : Fin 256) (e : HwErr) (s : State) : Completes (execWait b e s) := completes_bundleStep _ _ _ _

theorem execPost_completes (b : Fin 256) (e : HwErr) (s : State) : Completes (execPost b e s) := completes_bundleStep _ _ _ _

theorem execSet_completes (b : Fin 256) (e : HwErr) (s : State) : Completes (execSet b e s) := completes_bundleStep _ _ _ _

theorem execLoop_completes (b : Fin 256) (e : HwErr) (s : State) : Completes (execLoop b e s) := completes_bundleStep _ _ _ _

theorem execAseq_completes (b : Fin 256) (e : HwErr) (s : State) : Completes (execAseq b e s) := completes_bundleStep _ _ _ _

theorem execLend_completes (b : Fin 256) (e : HwErr) (s : State) : Completes (execLend b e s) := completes_bundleStep _ _ _ _

theorem execRelease_completes (b : Fin 256) (e : HwErr) (s : State) : Completes (execRelease b e s) := completes_bundleStep _ _ _ _

theorem execDload_completes (b : Fin 256) (e : HwErr) (s : State) : Completes (execDload b e s) := completes_bundleStep _ _ _ _

theorem execSetbase_completes (b : Fin 256) (e : HwErr) (s : State) : Completes (execSetbase b e s) := completes_bundleStep _ _ _ _

theorem execScalar_completes (b : Fin 256) (e : HwErr) (s : State) : Completes (execScalar b e s) := completes_bundleStep _ _ _ _

theorem execStation_completes (b : Fin 256) (e : HwErr) (s : State) : Completes (execStation b e s) := completes_bundleStep _ _ _ _

theorem execMac_completes (b : Fin 256) (e : HwErr) (s : State) : Completes (execMac b e s) := completes_bundleStep _ _ _ _

theorem execMinplus_completes (b : Fin 256) (e : HwErr) (s : State) : Completes (execMinplus b e s) := completes_bundleStep _ _ _ _

theorem execMaxplus_completes (b : Fin 256) (e : HwErr) (s : State) : Completes (execMaxplus b e s) := completes_bundleStep _ _ _ _

theorem execMaxtimes_completes (b : Fin 256) (e : HwErr) (s : State) : Completes (execMaxtimes b e s) := completes_bundleStep _ _ _ _

theorem execL1_completes (b : Fin 256) (e : HwErr) (s : State) : Completes (execL1 b e s) := completes_bundleStep _ _ _ _

theorem execL2sq_completes (b : Fin 256) (e : HwErr) (s : State) : Completes (execL2sq b e s) := completes_bundleStep _ _ _ _

theorem execCntGt_completes (b : Fin 256) (e : HwErr) (s : State) : Completes (execCntGt b e s) := completes_bundleStep _ _ _ _

theorem execCntGe_completes (b : Fin 256) (e : HwErr) (s : State) : Completes (execCntGe b e s) := completes_bundleStep _ _ _ _

theorem execCntEq_completes (b : Fin 256) (e : HwErr) (s : State) : Completes (execCntEq b e s) := completes_bundleStep _ _ _ _

theorem execHamming_completes (b : Fin 256) (e : HwErr) (s : State) : Completes (execHamming b e s) := completes_bundleStep _ _ _ _

theorem execSplit32_completes (b : Fin 256) (e : HwErr) (s : State) : Completes (execSplit32 b e s) := completes_bundleStep _ _ _ _

theorem execPartPost_completes (b : Fin 256) (part : Fin 4) (upto : PartMoment) (e : HwErr) (s : State) :
    Completes (execPartPost b part upto e s) := by
  unfold execPartPost
  dsimp only
  repeat' split
  all_goals exact completes_next _

theorem execAdd_completes (b : Fin 256) (e : HwErr) (s : State) : Completes (execAdd b e s) := completes_bundleStep _ _ _ _

theorem execMul_completes (b : Fin 256) (e : HwErr) (s : State) : Completes (execMul b e s) := completes_bundleStep _ _ _ _

theorem execFma_completes (b : Fin 256) (e : HwErr) (s : State) : Completes (execFma b e s) := completes_bundleStep _ _ _ _

theorem execMin_completes (b : Fin 256) (e : HwErr) (s : State) : Completes (execMin b e s) := completes_bundleStep _ _ _ _

theorem execMax_completes (b : Fin 256) (e : HwErr) (s : State) : Completes (execMax b e s) := completes_bundleStep _ _ _ _

theorem execExp_completes (b : Fin 256) (e : HwErr) (s : State) : Completes (execExp b e s) := completes_bundleStep _ _ _ _

theorem execLog_completes (b : Fin 256) (e : HwErr) (s : State) : Completes (execLog b e s) := completes_bundleStep _ _ _ _

theorem execRcp_completes (b : Fin 256) (e : HwErr) (s : State) : Completes (execRcp b e s) := completes_bundleStep _ _ _ _

theorem execRsqrt_completes (b : Fin 256) (e : HwErr) (s : State) : Completes (execRsqrt b e s) := completes_bundleStep _ _ _ _

theorem execCvt_completes (b : Fin 256) (e : HwErr) (s : State) : Completes (execCvt b e s) := completes_bundleStep _ _ _ _

theorem execCvtMx_completes (b : Fin 256) (e : HwErr) (s : State) : Completes (execCvtMx b e s) := completes_bundleStep _ _ _ _

theorem execDatum_completes (b : Fin 256) (e : HwErr) (s : State) : Completes (execDatum b e s) := completes_bundleStep _ _ _ _

theorem execDmax_completes (b : Fin 256) (e : HwErr) (s : State) : Completes (execDmax b e s) := completes_bundleStep _ _ _ _

theorem execToC_completes (b : Fin 256) (e : HwErr) (s : State) : Completes (execToC b e s) := completes_bundleStep _ _ _ _

theorem execCadd_completes (b : Fin 256) (e : HwErr) (s : State) : Completes (execCadd b e s) := completes_bundleStep _ _ _ _

theorem execFromC_completes (b : Fin 256) (e : HwErr) (s : State) : Completes (execFromC b e s) := completes_bundleStep _ _ _ _

theorem execDropout_completes (b : Fin 256) (e : HwErr) (s : State) : Completes (execDropout b e s) := completes_bundleStep _ _ _ _

theorem execUniform_completes (b : Fin 256) (e : HwErr) (s : State) : Completes (execUniform b e s) := completes_bundleStep _ _ _ _

theorem execRawrand_completes (b : Fin 256) (e : HwErr) (s : State) : Completes (execRawrand b e s) := completes_bundleStep _ _ _ _

theorem execCopy_completes (b : Fin 256) (e : HwErr) (s : State) : Completes (execCopy b e s) := completes_bundleStep _ _ _ _

theorem execVectorPost_completes (b : Fin 256) (upto : EngineMoment) (e : HwErr) (s : State) : Completes (execVectorPost b upto e s) := by
  unfold execVectorPost
  repeat' split
  all_goals exact completes_next _

theorem execHbmToSp_completes (b : Fin 256) (e : HwErr) (s : State) : Completes (execHbmToSp b e s) := completes_bundleStep _ _ _ _

theorem execSpToHbm_completes (b : Fin 256) (e : HwErr) (s : State) : Completes (execSpToHbm b e s) := completes_bundleStep _ _ _ _

theorem execSpToSp_completes (b : Fin 256) (e : HwErr) (s : State) : Completes (execSpToSp b e s) := completes_bundleStep _ _ _ _

theorem execDmaPost_completes (b : Fin 256) (id : Nat) (upto : EngineMoment) (e : HwErr) (s : State) : Completes (execDmaPost b id upto e s) := by
  unfold execDmaPost
  split
  · exact completes_next _
  · split
    · refine completes_ite (completes_meeting _ (fun v => ?_) s) (completes_next _)
      split <;> exact completes_next _
    · exact completes_next _

theorem execRload_completes (b : Fin 256) (e : HwErr) (s : State) : Completes (execRload b e s) := completes_bundleStep _ _ _ _

theorem execRstore_completes (b : Fin 256) (e : HwErr) (s : State) : Completes (execRstore b e s) := completes_bundleStep _ _ _ _

theorem execRatomic_completes (b : Fin 256) (e : HwErr) (s : State) : Completes (execRatomic b e s) := completes_bundleStep _ _ _ _

theorem execPegClaimDescriptor_completes (b : Fin 256) (e : HwErr) (s : State) :
    Completes (execPegClaimDescriptor b e s) := completes_bundleStep _ _ _ _

theorem execNotify_completes (b : Fin 256) (e : HwErr) (s : State) : Completes (execNotify b e s) := completes_bundleStep _ _ _ _

theorem execInval_completes (b : Fin 256) (e : HwErr) (s : State) : Completes (execInval b e s) := completes_bundleStep _ _ _ _

theorem execFenceDescriptor_completes (b : Fin 256) (e : HwErr) (s : State) : Completes (execFenceDescriptor b e s) := completes_bundleStep _ _ _ _

theorem execFenceSecondStage_completes (id : Nat) (s : State) : Completes (execFenceSecondStage id s) := by
  unfold execFenceSecondStage
  repeat' split
  all_goals exact completes_next _

theorem execRemoteComplete_completes (id : Nat) (s : State) : Completes (execRemoteComplete id s) := by
  unfold execRemoteComplete
  dsimp only
  repeat' split
  all_goals exact completes_next _

theorem execScPost_completes (b : Fin 256) (e : HwErr) (s : State) : Completes (execScPost b e s) := completes_scalarStep _ _ _ _ _

theorem execScWait_completes (b : Fin 256) (e : HwErr) (s : State) : Completes (execScWait b e s) := completes_scalarStep _ _ _ _ _

theorem execScRead_completes (b : Fin 256) (e : HwErr) (s : State) : Completes (execScRead b e s) := completes_scalarStep _ _ _ _ _

theorem execScSegst_completes (b : Fin 256) (e : HwErr) (s : State) : Completes (execScSegst b e s) := completes_scalarStep _ _ _ _ _

theorem execScRelease_completes (b : Fin 256) (e : HwErr) (s : State) : Completes (execScRelease b e s) := completes_scalarStep _ _ _ _ _

theorem execScExit_completes (b : Fin 256) (e : HwErr) (s : State) : Completes (execScExit b e s) := completes_scalarStep _ _ _ _ _

theorem execScalarInstruction_completes (b : Fin 256) (e : HwErr) (s : State) :
    Completes (execScalarInstruction b e s) := completes_scalarStep _ _ _ _ _

theorem execLoad_completes (errs : List ReadErr) (s : State) : Completes (execLoad errs s) := completes_meeting _ (completes_requestStep _) _

theorem execStore_completes (errs : List ReadErr) (s : State) : Completes (execStore errs s) := completes_meeting _ (completes_requestStep _) _

theorem execStoreFlag_completes (errs : List ReadErr) (s : State) :
    Completes (execStoreFlag errs s) := completes_meeting _ (completes_requestStep _) _

theorem execStoreFlagSend_completes (id : Nat) (s : State) : Completes (execStoreFlagSend id s) := by
  unfold execStoreFlagSend
  repeat' split
  all_goals exact completes_next _

theorem execAtomicAdd_completes (errs : List ReadErr) (s : State) :
    Completes (execAtomicAdd errs s) := completes_meeting _ (completes_requestStep _) _

theorem execAtomicMin_completes (errs : List ReadErr) (s : State) :
    Completes (execAtomicMin errs s) := completes_meeting _ (completes_requestStep _) _

theorem execAtomicMax_completes (errs : List ReadErr) (s : State) :
    Completes (execAtomicMax errs s) := completes_meeting _ (completes_requestStep _) _

theorem execAtomicAnd_completes (errs : List ReadErr) (s : State) :
    Completes (execAtomicAnd errs s) := completes_meeting _ (completes_requestStep _) _

theorem execAtomicOr_completes (errs : List ReadErr) (s : State) : Completes (execAtomicOr errs s) := completes_meeting _ (completes_requestStep _) _

theorem execAtomicXor_completes (errs : List ReadErr) (s : State) :
    Completes (execAtomicXor errs s) := completes_meeting _ (completes_requestStep _) _

theorem execAtomicSwap_completes (errs : List ReadErr) (s : State) :
    Completes (execAtomicSwap errs s) := completes_meeting _ (completes_requestStep _) _

theorem execAtomicCas_completes (errs : List ReadErr) (s : State) :
    Completes (execAtomicCas errs s) := completes_meeting _ (completes_requestStep _) _

theorem execAtomicCadd_completes (errs : List ReadErr) (s : State) :
    Completes (execAtomicCadd errs s) := completes_meeting _ (completes_requestStep _) _

theorem execPegClaim_completes (s : State) : Completes (execPegClaim s) := completes_requestStep _ _

theorem execPegDone_completes (s : State) : Completes (execPegDone s) := completes_requestStep _ _

theorem execPegDoneSend_completes (id : Nat) (s : State) : Completes (execPegDoneSend id s) := by
  unfold execPegDoneSend
  repeat' split
  all_goals exact completes_next _

theorem execNotice_completes (s : State) : Completes (execNotice s) := completes_requestStep _ _

theorem execFence_completes (errs : List ReadErr) (s : State) : Completes (execFence errs s) := completes_meeting _ (completes_requestStep _) _

theorem execLoadData_completes (poison : List (Fin 64)) (s : State) : Completes (execLoadData poison s) := completes_replyStep _ _ _

theorem execAck_completes (errs : List ReadErr) (s : State) :
    Completes (execAck errs s) := completes_meeting _ (fun _ => completes_leaving (completes_replyStep _ _ _)) _

theorem execAtomicResult_completes (s : State) : Completes (execAtomicResult s) := completes_replyStep _ _ _

theorem execPegGrant_completes (s : State) : Completes (execPegGrant s) := completes_replyStep _ _ _

theorem execE2eTimeout_completes (tag : Fin 131072) (s : State) : Completes (execE2eTimeout tag s) := completes_leaving (completes_e2eStep tag s)

theorem execDeadUsExpire_completes (tag : Fin 131072) (s : State) : Completes (execDeadUsExpire tag s) := completes_leaving (completes_deadStep tag s)

theorem execRetryOrderResend_completes (tag : Fin 131072) (s : State) : Completes (execRetryOrderResend tag s) := by
  unfold execRetryOrderResend
  repeat' split
  all_goals exact completes_next _

theorem execDelayedResend_completes (tag : Fin 131072) (s : State) : Completes (execDelayedResend tag s) := by
  unfold execDelayedResend
  repeat' split
  all_goals exact completes_next _

theorem execTagQuarantineEnd_completes (tag : Fin 131072) (s : State) : Completes (execTagQuarantineEnd tag s) := completes_guarded _ _

theorem execWindowDrainExpire_completes (w : Fin 1024) (s : State) : Completes (execWindowDrainExpire w s) := completes_guarded _ _

theorem execA2a_completes (engine : Fin 4) (s : State) : Completes (execA2a engine s) := completes_colStep _ _ _

theorem execA2av_completes (engine : Fin 4) (s : State) : Completes (execA2av engine s) := completes_colStep _ _ _

theorem execA2ax_completes (engine : Fin 4) (s : State) : Completes (execA2ax engine s) := completes_colStep _ _ _

theorem execAllgather_completes (engine : Fin 4) (s : State) : Completes (execAllgather engine s) := completes_colStep _ _ _

theorem execReduceScatter_completes (engine : Fin 4) (s : State) : Completes (execReduceScatter engine s) := completes_colStep _ _ _

theorem execAllreduce_completes (engine : Fin 4) (s : State) : Completes (execAllreduce engine s) := completes_colStep _ _ _

theorem execCollectiveDatum_completes (engine : Fin 4) (s : State) : Completes (execCollectiveDatum engine s) := completes_colStep _ _ _

theorem execBroadcast_completes (engine : Fin 4) (s : State) : Completes (execBroadcast engine s) := completes_colStep _ _ _

theorem execColSlotSend_completes (tag : Fin 131072) (errs : List ReadErr) (s : State) : Completes (execColSlotSend tag errs s) := by
  refine completes_meeting _ (fun v => ?_) _
  repeat' split
  all_goals exact completes_next _

theorem execCol_completes (errs : List ReadErr) (s : State) : Completes (execCol errs s) := by
  refine completes_meeting _ (fun v => ?_) _
  repeat' split
  all_goals exact completes_next _

theorem execColResend_completes (tag : Fin 131072) (s : State) : Completes (execColResend tag s) := by
  unfold execColResend
  repeat' split
  all_goals exact completes_next _

theorem execCollectiveDeadUs_completes (id : Nat) (s : State) : Completes (execCollectiveDeadUs id s) := by
  unfold execCollectiveDeadUs
  repeat' split
  all_goals exact completes_next _

theorem execLinkReplayTimeout_completes (port : Fin 16) (line : Fin 34) (s : State) :
    Completes (execLinkReplayTimeout port line s) := completes_guarded _ _

theorem execReplayStoreDiscard_completes (port : Fin 16) (line : Fin 34) (s : State) :
    Completes (execReplayStoreDiscard port line s) := completes_guarded _ _

theorem execPacketReceive_completes (port : Fin 16) (line : Fin 34) (s : State) : Completes (execPacketReceive port line s) := by
  unfold execPacketReceive
  dsimp only
  repeat' split
  all_goals exact completes_next _

theorem execPacketForward_completes (port : Fin 16) (line : Fin 34) (s : State) : Completes (execPacketForward port line s) := by
  unfold execPacketForward
  dsimp only
  repeat' split
  all_goals exact completes_next _

theorem execEscWaitExpire_completes (port : Fin 16) (line : Fin 34) (s : State) : Completes (execEscWaitExpire port line s) := by
  unfold execEscWaitExpire
  dsimp only
  repeat' split
  all_goals exact completes_next _

theorem execEscAdvance_completes (port : Fin 16) (line : Fin 34) (s : State) : Completes (execEscAdvance port line s) := by
  unfold execEscAdvance
  dsimp only
  repeat' split
  all_goals exact completes_next _

theorem execHelloTimer_completes (port : Fin 16) (line : Fin 34) (s : State) : Completes (execHelloTimer port line s) := completes_guarded _ _

theorem execHello_completes (s : State) : Completes (execHello s) := completes_mgtStep _ _ _ _

theorem execChallengeSend_completes (port : Fin 16) (line : Fin 34) (s : State) : Completes (execChallengeSend port line s) := completes_guarded _ _

theorem execChallenge_completes (s : State) : Completes (execChallenge s) := completes_mgtStep _ _ _ _

theorem execChallengeResp_completes (s : State) : Completes (execChallengeResp s) := completes_mgtStep _ _ _ _

theorem execAuthTimeout_completes (port : Fin 16) (line : Fin 34) (s : State) : Completes (execAuthTimeout port line s) := completes_guarded _ _

theorem execPeerLostTimeout_completes (port : Fin 16) (line : Fin 34) (s : State) :
    Completes (execPeerLostTimeout port line s) := completes_guarded _ _

theorem execMarginReq_completes (s : State) : Completes (execMarginReq s) := completes_mgtStep _ _ _ _

theorem execMarginCountComplete_completes (port : Fin 16) (line : Fin 34) (eyeMin rlm : W16) (symErr : W32) (s : State) :
    Completes (execMarginCountComplete port line eyeMin rlm symErr s) := by
  unfold execMarginCountComplete
  dsimp only
  repeat' split
  all_goals exact completes_next _

theorem execMarginResult_completes (s : State) : Completes (execMarginResult s) := completes_mgtStep _ _ _ _

theorem execMarginTestTimeout_completes (port : Fin 16) (line : Fin 34) (s : State) : Completes (execMarginTestTimeout port line s) := by
  unfold execMarginTestTimeout
  repeat' split
  all_goals exact completes_next _

theorem execServiceMarginSample_completes (port : Fin 16) (line : Fin 34) (deciDbm : Int) (s : State) :
    Completes (execServiceMarginSample port line deciDbm s) := by
  unfold execServiceMarginSample
  dsimp only
  repeat' split
  all_goals exact completes_next _

theorem execBiasNeed_completes (busy : Bool) (headroom : Byte) (s : State) : Completes (execBiasNeed busy headroom s) := completes_mgtStep _ _ _ _

theorem execCongRead_completes (s : State) : Completes (execCongRead s) := completes_mgtStep _ _ _ _

theorem execCongSample_completes (s : State) : Completes (execCongSample s) := completes_guarded _ _

theorem execCombLineMeasure_completes (e : Fin 8) (lines : List LineMeas) (s : State) :
    Completes (execCombLineMeasure e lines s) := completes_guarded _ _

theorem execLockErrorExceed_completes (p : Pos) (err : Int) (s : State) : Completes (execLockErrorExceed p err s) := completes_guarded _ _

theorem execSearchComplete_completes (p : Pos) (found : Option (Fin 34)) (drive : Nat) (s : State) :
    Completes (execSearchComplete p found drive s) := by
  unfold execSearchComplete
  dsimp only
  repeat' split
  all_goals exact completes_next _

theorem execPlumbCheckEnd_completes (p : Pos) (tags : List TagMeas) (s : State) : Completes (execPlumbCheckEnd p tags s) := by
  unfold execPlumbCheckEnd
  dsimp only
  repeat' split
  all_goals exact completes_next _

theorem execRetuneComplete_completes (p : Pos) (s : State) : Completes (execRetuneComplete p s) := completes_guarded _ _

theorem execTrainingComplete_completes (p : Pos) (t : Training) (s : State) : Completes (execTrainingComplete p t s) := by
  unfold execTrainingComplete
  dsimp only
  repeat' split
  all_goals exact completes_next _

theorem execTrainingMismatchReport_completes (port : Fin 16) (w : Fin 34) (s : State) :
    Completes (execTrainingMismatchReport port w s) := completes_guarded _ _

theorem execCodewordErrors_completes (p : Pos) (count : Nat) (s : State) : Completes (execCodewordErrors p count s) := completes_guarded _ _

theorem execFailCountReset_completes (p : Pos) (s : State) : Completes (execFailCountReset p s) := completes_guarded _ _

theorem execLightReturn_completes (p : Pos) (s : State) : Completes (execLightReturn p s) := completes_guarded _ _

theorem execEngineStart_completes (e : Fin 8) (tx rx : Option (List KEntry)) (cal : List CalEntry) (s : State) :
    Completes (execEngineStart e tx rx cal s) := by
  unfold execEngineStart
  repeat' split
  all_goals exact completes_next _

theorem execXtalkRefresh_completes (e : Fin 8) (rxBank : Bool) (k : List KEntry) (cal : List CalEntry) (s : State) :
    Completes (execXtalkRefresh e rxBank k cal s) := completes_guarded _ _

theorem execHeaterUpdate_completes (e : Fin 8) (rxBank : Bool) (loop : List Int) (s : State) :
    Completes (execHeaterUpdate e rxBank loop s) := completes_guarded _ _

theorem execKeepaliveEntry_completes (s : State) : Completes (execKeepaliveEntry s) := completes_guarded _ _

theorem execPortDarkRestart_completes (port : Fin 16) (s : State) : Completes (execPortDarkRestart port s) := completes_guarded _ _

theorem execD2dRetrainComplete_completes (link : Fin 4) (turn : Turn) (s : State) :
    Completes (execD2dRetrainComplete link turn s) := completes_guarded _ _

theorem execD2dFlitReceive_completes (link : Fin 4) (turn : Turn) (replay : Bool) (bytes damage : List Byte) (s : State) :
    Completes (execD2dFlitReceive link turn replay bytes damage s) := completes_guarded _ _

theorem execLinkWatchdogExpire_completes (link : Fin 4) (s : State) :
    Completes (execLinkWatchdogExpire link s) := completes_ite (completes_next _) (completes_guarded _ _)

theorem execMeshFlitReceive_completes (r : Fin 4) (stop : Fin 64) (side : MeshSide) (crcGood : Bool) (s : State) :
    Completes (execMeshFlitReceive r stop side crcGood s) := completes_ite (completes_guarded _ _) (completes_next _)

theorem execMeshDown_completes (r : Fin 4) (s : State) : Completes (execMeshDown r s) := completes_guarded _ _

theorem execHbmRead_completes (r : Fin 4) (off : BitVec 38) (requester : Byte) (ecc : Ecc) (s : State) :
    Completes (execHbmRead r off requester ecc s) := completes_guarded _ _

theorem execHbmWrite_completes (r : Fin 4) (off : BitVec 38) (mask : W64) (data : BitVec 512) (errs : List ReadErr) (s : State) :
    Completes (execHbmWrite r off mask data errs s) := completes_meeting _ (fun _ => completes_guarded _ _) _

theorem execPatrolScrub_completes (ch : Fin 256) (ecc : Ecc) (writtenSince : Bool) (s : State) :
    Completes (execPatrolScrub ch ecc writtenSince s) := by
  unfold execPatrolScrub
  dsimp only
  repeat' split
  all_goals exact completes_next _

theorem execHbmRefresh_completes (ch : Fin 256) (s : State) : Completes (execHbmRefresh ch s) := completes_guarded _ _

theorem execChannelRetrainTimeout_completes (ch : Fin 256) (s : State) : Completes (execChannelRetrainTimeout ch s) := completes_guarded _ _

theorem execPostPackageRepair_completes (ch : Fin 256) (lines unread : List Nat) (rowLeft : Bool) (s : State) :
    Completes (execPostPackageRepair ch lines unread rowLeft s) := completes_ite (completes_guarded _ _) (completes_next _)

theorem execLeaseRenew_completes (s : State) : Completes (execLeaseRenew s) := completes_guarded _ _

theorem execLeaseGrant_completes (s : State) : Completes (execLeaseGrant s) := completes_mgtStep _ _ _ _

theorem execLeaseExpiry_completes (s : State) : Completes (execLeaseExpiry s) := completes_guarded _ _

theorem execFenceNotice_completes (s : State) : Completes (execFenceNotice s) := completes_mgtStep _ _ _ _

theorem execBsDigest_completes (s : State) : Completes (execBsDigest s) := completes_mgtStep _ _ _ _

theorem execTeeCopyReceive_completes (port : Fin 16) (line : Fin 34) (errs : List ReadErr) (s : State) :
    Completes (execTeeCopyReceive port line errs s) := by
  refine completes_meeting _ (fun v => ?_) _
  dsimp only
  repeat' split
  all_goals exact completes_next _

theorem execTeeLogHandle_completes (errs : List ReadErr) (s : State) : Completes (execTeeLogHandle errs s) := by
  refine completes_moving _ (fun v => ?_) _
  repeat' split
  all_goals exact completes_next _

theorem execVralertLRelease_completes (s : State) : Completes (execVralertLRelease s) := completes_guarded _ _

theorem execPwrgdRelease_completes (mv : Nat) (railsGood : Bool) (s : State) : Completes (execPwrgdRelease mv railsGood s) := completes_guarded _ _

theorem execSelftestComplete_completes (sound : Bool) (readings : List SensorVal) (s : State) :
    Completes (execSelftestComplete sound readings s) := completes_ite (completes_guarded _ _) (completes_next _)

theorem execChannelTrainingLost_completes (ch : Fin 256) (s : State) : Completes (execChannelTrainingLost ch s) := completes_guarded _ _

theorem execFlitReceive_completes (port : Fin 16) (line : Fin 34) (badCodes : BitVec 2) {bytes : List Byte} (h : bytes.length = 256) (s : State) :
    Completes (execFlitReceive port line badCodes bytes s) := by
  unfold execFlitReceive
  rw [if_neg (not_not.2 h)]
  split <;> exact completes_next _

/-! ### The statement -/

/-- One case for each command. -/
theorem exec_completes (c : Instr) (s : State) (h : c.wellFormed = true) : Completes (exec c s) :=
  match c, h with
  | .inputRise mv railsGood, _ => execInputRise_completes mv railsGood s
  | .powerUpRetry railsGood, _ => execPowerUpRetry_completes railsGood s
  | .inputLow mv, _ => execInputLow_completes mv s
  | .inputLowRecover mv, _ => execInputLowRecover_completes mv s
  | .inputUndervoltage mv, _ => execInputUndervoltage_completes mv s
  | .inputOvervoltage mv, _ => execInputOvervoltage_completes mv s
  | .pwrgdHoldLow, _ => execPwrgdHoldLow_completes s
  | .perstLAssert, _ => execPerstLAssert_completes s
  | .perstLDeassert, _ => execPerstLDeassert_completes s
  | .functionLevelReset, _ => execFunctionLevelReset_completes s
  | .packageReset _, _ => completes_next _
  | .vralertLAssert, _ => execVralertLAssert_completes s
  | .vralertHoldExpire, _ => execVralertHoldExpire_completes s
  | .limitRungReturn, _ => completes_next _
  | .droopDetect r detector overOnePercent, _ => execDroopDetect_completes r detector overOnePercent s
  | .droopRungExpire r, _ => execDroopRungExpire_completes r s
  | .railSample m, _ => execRailSample_completes m s
  | .thermalModelUpdate est, _ => execThermalModelUpdate_completes est s
  | .sensorRead readings, _ => execSensorRead_completes readings s
  | .modelFaultClear, _ => execModelFaultClear_completes s
  | .currentLimitStep r, _ => execCurrentLimitStep_completes r s
  | .thermalComparatorTrip sensor, _ => execThermalComparatorTrip_completes sensor s
  | .governorTick, _ => execGovernorTick_completes s
  | .rationDeadline, _ => execRationDeadline_completes s
  | .floorEpisodeStart, _ => execFloorEpisodeStart_completes s
  | .floorEpisodeEnd, _ => execFloorEpisodeEnd_completes s
  | .graceExpire, _ => execGraceExpire_completes s
  | .pointChangeComplete r, _ => execPointChangeComplete_completes r s
  | .blockWakeGrant r, _ => execBlockWakeGrant_completes r s
  | .setRation _ _ _ _, _ => completes_next _
  | .getPower _ _ _ _, _ => completes_next _
  | .setEndpointId t eid, _ => execSetEndpointId_completes t eid s
  | .entdaa _, _ => completes_next _
  | .getVendorDefinedMessageSupport _, _ => completes_next _
  | .getVersion t, _ => execGetVersion_completes t s
  | .getCapabilities t, _ => execGetCapabilities_completes t s
  | .negotiateAlgorithms t, _ => execNegotiateAlgorithms_completes t s
  | .getDigests t, _ => execGetDigests_completes t s
  | .getCertificate t slot offset length, _ => execGetCertificate_completes t slot offset length s
  | .spdmChallenge t slot nonce ready, _ => execSpdmChallenge_completes t slot nonce ready s
  | .getMeasurements t index signed nonce ready, _ => execGetMeasurements_completes t index signed nonce ready s
  | .respondIfReady t code token, _ => execRespondIfReady_completes t code token s
  | .spdmUnsupportedRequest t code, _ => execSpdmUnsupportedRequest_completes t code s
  | .combIbi ident status, _ => execCombIbi_completes ident status s
  | .clockMonitorWindow m, _ => execClockMonitorWindow_completes m s
  | .go _, _ => completes_next _
  | .imageCopyComplete pcieError, _ => execImageCopyComplete_completes pcieError s
  | .bringupComplete untrained, _ => execBringupComplete_completes untrained s
  | .thermalHoldClear readings, _ => execThermalHoldClear_completes readings s
  | .svnCommit _, _ => completes_next _
  | .keyRevoke _, _ => completes_next _
  | .cmdPi _ _, _ => completes_next _
  | .cplCi _ _, _ => completes_next _
  | .evtCi _, _ => completes_next _
  | .cmdRingEnable _ _, _ => completes_next _
  | .cmdRingDisable _ _, _ => completes_next _
  | .cplRingEnable _ _, _ => completes_next _
  | .cplRingDisable _ _, _ => completes_next _
  | .evtRingEnable _, _ => completes_next _
  | .fmBufEnable _, _ => completes_next _
  | .registerWrite _ _ _, _ => completes_next _
  | .detCtrlWrite _, _ => completes_next _
  | .legWdogWrite _, _ => completes_next _
  | .leaseCfgWrite _, _ => completes_next _
  | .pwrCfgWrite _, _ => completes_next _
  | .pcieLinkDown, _ => execPcieLinkDown_completes s
  | .pcieLinkUp lanes speed d3hot, _ => execPcieLinkUp_completes lanes speed d3hot s
  | .interruptTimer ring, _ => execInterruptTimer_completes ring s
  | .loadTraverse parts errs, _ => execLoadTraverse_completes parts errs s
  | .run errs, _ => execRun_completes errs s
  | .routeTables, _ => completes_next _
  | .windowMap, _ => completes_next _
  | .opTarget, _ => completes_next _
  | .fabricMode, _ => completes_next _
  | .jobIdent, _ => completes_next _
  | .blockSpareMap, _ => completes_next _
  | .columnSpareMap, _ => completes_next _
  | .frameRetire, _ => completes_next _
  | .backsightRole, _ => completes_next _
  | .detCtrl, _ => completes_next _
  | .legWdog, _ => completes_next _
  | .retireFrame, _ => completes_next _
  | .dmaH2d errs, _ => execDmaH2d_completes errs s
  | .dmaD2h errs, _ => execDmaD2h_completes errs s
  | .dmaAtStation id errs, _ => execDmaAtStation_completes id errs s
  | .hostDmaComplete id, _ => execHostDmaComplete_completes id s
  | .identity, _ => completes_next _
  | .hbmEcc, _ => completes_next _
  | .shape, _ => completes_next _
  | .energy, _ => completes_next _
  | .checkpointOut, _ => completes_next _
  | .checkpointRun id errs, _ => execCheckpointRun_completes id errs s
  | .fillIn, _ => completes_next _
  | .backsight errs, _ => execBacksight_completes errs s
  | .fenceJob, _ => completes_next _
  | .resetRegion errs, _ => execResetRegion_completes errs s
  | .resetRegionComplete r untrained, _ => execResetRegionComplete_completes r untrained s
  | .park, _ => completes_next _
  | .parkComplete errs, _ => execParkComplete_completes errs s
  | .unpark, _ => completes_next _
  | .unparkComplete errs, _ => execUnparkComplete_completes errs s
  | .mgtSend, _ => completes_next _
  | .ration, _ => completes_next _
  | .resetBlock, _ => completes_next _
  | .resetBlockComplete b columns failed, _ => execResetBlockComplete_completes b columns failed s
  | .resetPort, _ => completes_next _
  | .d2dNear _, _ => completes_next _
  | .d2dFar _, _ => completes_next _
  | .oeElec _, _ => completes_next _
  | .oeDriver _, _ => completes_next _
  | .oeOptical _, _ => completes_next _
  | .blockBist _, _ => completes_next _
  | .hbmMarch _, _ => completes_next _
  | .testEnd found, _ => execTestEnd_completes found s
  | .stationReach errs, _ => execStationReach_completes errs s
  | .arrivedRepeat, _ => execArrivedRepeat_completes s
  | .drainCheck, _ => execDrainCheck_completes s
  | .drained, _ => execDrained_completes s
  | .swap errs, _ => execSwap_completes errs s
  | .stationMarker, _ => execStationMarker_completes s
  | .legOverdue, _ => execLegOverdue_completes s
  | .nop b e, _ => execNop_completes b e s
  | .wait b e, _ => execWait_completes b e s
  | .post b e, _ => execPost_completes b e s
  | .set b e, _ => execSet_completes b e s
  | .loop b e, _ => execLoop_completes b e s
  | .aseq b e, _ => execAseq_completes b e s
  | .lend b e, _ => execLend_completes b e s
  | .release b e, _ => execRelease_completes b e s
  | .dload b e, _ => execDload_completes b e s
  | .setbase b e, _ => execSetbase_completes b e s
  | .scalar b e, _ => execScalar_completes b e s
  | .station b e, _ => execStation_completes b e s
  | .mac b e, _ => execMac_completes b e s
  | .minplus b e, _ => execMinplus_completes b e s
  | .maxplus b e, _ => execMaxplus_completes b e s
  | .maxtimes b e, _ => execMaxtimes_completes b e s
  | .l1 b e, _ => execL1_completes b e s
  | .l2sq b e, _ => execL2sq_completes b e s
  | .cntGt b e, _ => execCntGt_completes b e s
  | .cntGe b e, _ => execCntGe_completes b e s
  | .cntEq b e, _ => execCntEq_completes b e s
  | .hamming b e, _ => execHamming_completes b e s
  | .split32 b e, _ => execSplit32_completes b e s
  | .partPost b part upto e, _ => execPartPost_completes b part upto e s
  | .add b e, _ => execAdd_completes b e s
  | .mul b e, _ => execMul_completes b e s
  | .fma b e, _ => execFma_completes b e s
  | .min b e, _ => execMin_completes b e s
  | .max b e, _ => execMax_completes b e s
  | .exp b e, _ => execExp_completes b e s
  | .log b e, _ => execLog_completes b e s
  | .rcp b e, _ => execRcp_completes b e s
  | .rsqrt b e, _ => execRsqrt_completes b e s
  | .cvt b e, _ => execCvt_completes b e s
  | .cvtMx b e, _ => execCvtMx_completes b e s
  | .datum b e, _ => execDatum_completes b e s
  | .dmax b e, _ => execDmax_completes b e s
  | .toC b e, _ => execToC_completes b e s
  | .cadd b e, _ => execCadd_completes b e s
  | .fromC b e, _ => execFromC_completes b e s
  | .dropout b e, _ => execDropout_completes b e s
  | .uniform b e, _ => execUniform_completes b e s
  | .rawrand b e, _ => execRawrand_completes b e s
  | .copy b e, _ => execCopy_completes b e s
  | .vectorPost b upto e, _ => execVectorPost_completes b upto e s
  | .hbmToSp b e, _ => execHbmToSp_completes b e s
  | .spToHbm b e, _ => execSpToHbm_completes b e s
  | .spToSp b e, _ => execSpToSp_completes b e s
  | .dmaPost b id upto e, _ => execDmaPost_completes b id upto e s
  | .rload b e, _ => execRload_completes b e s
  | .rstore b e, _ => execRstore_completes b e s
  | .ratomic b e, _ => execRatomic_completes b e s
  | .pegClaimDescriptor b e, _ => execPegClaimDescriptor_completes b e s
  | .notify b e, _ => execNotify_completes b e s
  | .inval b e, _ => execInval_completes b e s
  | .fenceDescriptor b e, _ => execFenceDescriptor_completes b e s
  | .fenceSecondStage id, _ => execFenceSecondStage_completes id s
  | .remoteComplete id, _ => execRemoteComplete_completes id s
  | .scPost b e, _ => execScPost_completes b e s
  | .scWait b e, _ => execScWait_completes b e s
  | .scRead b e, _ => execScRead_completes b e s
  | .scSegst b e, _ => execScSegst_completes b e s
  | .scRelease b e, _ => execScRelease_completes b e s
  | .scExit b e, _ => execScExit_completes b e s
  | .scalarInstruction b e, _ => execScalarInstruction_completes b e s
  | .load errs, _ => execLoad_completes errs s
  | .store errs, _ => execStore_completes errs s
  | .storeFlag errs, _ => execStoreFlag_completes errs s
  | .storeFlagSend id, _ => execStoreFlagSend_completes id s
  | .atomicAdd errs, _ => execAtomicAdd_completes errs s
  | .atomicMin errs, _ => execAtomicMin_completes errs s
  | .atomicMax errs, _ => execAtomicMax_completes errs s
  | .atomicAnd errs, _ => execAtomicAnd_completes errs s
  | .atomicOr errs, _ => execAtomicOr_completes errs s
  | .atomicXor errs, _ => execAtomicXor_completes errs s
  | .atomicSwap errs, _ => execAtomicSwap_completes errs s
  | .atomicCas errs, _ => execAtomicCas_completes errs s
  | .atomicCadd errs, _ => execAtomicCadd_completes errs s
  | .pegClaim, _ => execPegClaim_completes s
  | .pegDone, _ => execPegDone_completes s
  | .pegDoneSend id, _ => execPegDoneSend_completes id s
  | .notice, _ => execNotice_completes s
  | .fence errs, _ => execFence_completes errs s
  | .loadData poison, _ => execLoadData_completes poison s
  | .ack errs, _ => execAck_completes errs s
  | .atomicResult, _ => execAtomicResult_completes s
  | .pegGrant, _ => execPegGrant_completes s
  | .e2eTimeout tag, _ => execE2eTimeout_completes tag s
  | .deadUsExpire tag, _ => execDeadUsExpire_completes tag s
  | .retryOrderResend tag, _ => execRetryOrderResend_completes tag s
  | .delayedResend tag, _ => execDelayedResend_completes tag s
  | .receiptExpire _, _ => completes_next _
  | .tagQuarantineEnd tag, _ => execTagQuarantineEnd_completes tag s
  | .windowDrainExpire w, _ => execWindowDrainExpire_completes w s
  | .a2a engine, _ => execA2a_completes engine s
  | .a2av engine, _ => execA2av_completes engine s
  | .a2ax engine, _ => execA2ax_completes engine s
  | .allgather engine, _ => execAllgather_completes engine s
  | .reduceScatter engine, _ => execReduceScatter_completes engine s
  | .allreduce engine, _ => execAllreduce_completes engine s
  | .collectiveDatum engine, _ => execCollectiveDatum_completes engine s
  | .broadcast engine, _ => execBroadcast_completes engine s
  | .colSlotSend tag errs, _ => execColSlotSend_completes tag errs s
  | .col errs, _ => execCol_completes errs s
  | .colResend tag, _ => execColResend_completes tag s
  | .collectiveDeadUs id, _ => execCollectiveDeadUs_completes id s
  | .flitReceive port line badCodes _, h => execFlitReceive_completes port line badCodes (of_decide_eq_true h) s
  | .linkReplayTimeout port line, _ => execLinkReplayTimeout_completes port line s
  | .replayStoreDiscard port line, _ => execReplayStoreDiscard_completes port line s
  | .packetReceive port line, _ => execPacketReceive_completes port line s
  | .packetForward port line, _ => execPacketForward_completes port line s
  | .escWaitExpire port line, _ => execEscWaitExpire_completes port line s
  | .escAdvance port line, _ => execEscAdvance_completes port line s
  | .helloTimer port line, _ => execHelloTimer_completes port line s
  | .hello, _ => execHello_completes s
  | .challengeSend port line, _ => execChallengeSend_completes port line s
  | .challenge, _ => execChallenge_completes s
  | .challengeResp, _ => execChallengeResp_completes s
  | .authTimeout port line, _ => execAuthTimeout_completes port line s
  | .peerLostTimeout port line, _ => execPeerLostTimeout_completes port line s
  | .marginReq, _ => execMarginReq_completes s
  | .marginCountComplete port line eyeMin rlm symErr, _ => execMarginCountComplete_completes port line eyeMin rlm symErr s
  | .marginResult, _ => execMarginResult_completes s
  | .marginTestTimeout port line, _ => execMarginTestTimeout_completes port line s
  | .serviceMarginSample port line deciDbm, _ => execServiceMarginSample_completes port line deciDbm s
  | .biasNeed busy headroom, _ => execBiasNeed_completes busy headroom s
  | .congRead, _ => execCongRead_completes s
  | .congSample, _ => execCongSample_completes s
  | .combLineMeasure e lines, _ => execCombLineMeasure_completes e lines s
  | .lockErrorExceed p err, _ => execLockErrorExceed_completes p err s
  | .searchComplete p found drive, _ => execSearchComplete_completes p found drive s
  | .plumbCheckEnd p tags, _ => execPlumbCheckEnd_completes p tags s
  | .retuneComplete p, _ => execRetuneComplete_completes p s
  | .trainingComplete p t, _ => execTrainingComplete_completes p t s
  | .trainingMismatchReport port w, _ => execTrainingMismatchReport_completes port w s
  | .codewordErrors p count, _ => execCodewordErrors_completes p count s
  | .failCountReset p, _ => execFailCountReset_completes p s
  | .lightReturn p, _ => execLightReturn_completes p s
  | .engineStart e tx rx cal, _ => execEngineStart_completes e tx rx cal s
  | .xtalkRefresh e rxBank k cal, _ => execXtalkRefresh_completes e rxBank k cal s
  | .heaterUpdate e rxBank loop, _ => execHeaterUpdate_completes e rxBank loop s
  | .keepaliveEntry, _ => execKeepaliveEntry_completes s
  | .portDarkRestart port, _ => execPortDarkRestart_completes port s
  | .d2dLaneFail _ _ _, _ => completes_next _
  | .d2dRetrainComplete link turn, _ => execD2dRetrainComplete_completes link turn s
  | .d2dFlitReceive link turn replay bytes damage, _ => execD2dFlitReceive_completes link turn replay bytes damage s
  | .linkWatchdogExpire link, _ => execLinkWatchdogExpire_completes link s
  | .meshFlitReceive r stop side crcGood, _ => execMeshFlitReceive_completes r stop side crcGood s
  | .meshDown r, _ => execMeshDown_completes r s
  | .hbmRead r off requester ecc, _ => execHbmRead_completes r off requester ecc s
  | .hbmWrite r off mask data errs, _ => execHbmWrite_completes r off mask data errs s
  | .patrolScrub ch ecc writtenSince, _ => execPatrolScrub_completes ch ecc writtenSince s
  | .hbmRefresh ch, _ => execHbmRefresh_completes ch s
  | .channelRetrainTimeout ch, _ => execChannelRetrainTimeout_completes ch s
  | .postPackageRepair ch lines unread rowLeft, _ => execPostPackageRepair_completes ch lines unread rowLeft s
  | .leaseRenew, _ => execLeaseRenew_completes s
  | .leaseGrant, _ => execLeaseGrant_completes s
  | .leaseExpiry, _ => execLeaseExpiry_completes s
  | .fenceNotice, _ => execFenceNotice_completes s
  | .bsDigest, _ => execBsDigest_completes s
  | .teeCopyReceive port line errs, _ => execTeeCopyReceive_completes port line errs s
  | .teeLogHandle errs, _ => execTeeLogHandle_completes errs s
  | .vralertLRelease, _ => execVralertLRelease_completes s
  | .pwrgdRelease mv railsGood, _ => execPwrgdRelease_completes mv railsGood s
  | .droopRecover _, _ => completes_next _
  | .selftestComplete sound readings, _ => execSelftestComplete_completes sound readings s
  | .channelTrainingLost ch, _ => execChannelTrainingLost_completes ch s

/-- Settles O3: the one stop of the model needs a list of bytes that is no flit, which no well-formed command carries. -/
theorem everyCommandCompletes : Obligations.EveryCommandCompletes := by
  unfold Obligations.EveryCommandCompletes
  exact exec_completes

end Sys2Proof.Machine

/-! SUPPORT. Proofs of the statements about an image's checks (O28) and about the SPDM connection (O31). -/

namespace Sys2Proof.Machine

open Sys2Proof

variable {s : State}

/-! ### The checks of an image (R499, R500) -/

theorem not_imageHeaderOk (b : List Byte) : (!imageHeaderOk b) = true ↔ field b 0 4 ≠ 0x53555842 ∨ field b 4 4 ≠ 1 ∨ field b 18 2 ≠ 0x4B37
    ∨ field b 20 1 ≠ 0xB0 ∨ field b 21 3 ≠ 0 ∨ leNat (slice b 28 36) ≠ 0 ∨ leNat (slice b 192 64) ≠ 0 := by
  simp only [imageHeaderOk, Bool.not_and, Bool.or_eq_true, Bool.not_eq_true', decide_eq_false_iff_not, ne_eq, or_assoc]

/-- A key slot that cannot have signed the image. -/
theorem not_keyUsable (s : State) (k : Nat) (h : List Byte) : (!(keyProgrammed s k) || bit s.idn.revoked k || keyHash s k != h) = true ↔
    4 ≤ k ∨ keyHash s k = zeros 32 ∨ bit s.idn.revoked k = true ∨ keyHash s k ≠ h := by
  simp [keyProgrammed, bne, or_assoc]

/-- Settles O28: the checks stand in the same order, and each fails in the same cases. -/
theorem imageChecks : Obligations.ImageChecks := by
  unfold Obligations.ImageChecks
  intro e b s len k
  refine if_congr (by rw [Bool.or_eq_true]) rfl (if_congr Iff.rfl rfl (if_congr (not_imageHeaderOk b) rfl (if_congr (not_keyUsable s k _) rfl ?_)))
  exact if_congr (by rw [Bool.not_eq_true']; rfl) rfl rfl

/-! ### One transport at a time (R509) -/

/-- The transport that a request did not come over. -/
def otherTransport (tr : Transport) : Transport := match tr with | .pcieVdm => Transport.i3c 0 | .i3c _ => Transport.pcieVdm

/-- Only the transport and the count of draws may differ. -/
def OverTransport (tr : Transport) (s t : State) : Prop :=
  t = { s with idn := t.idn, free := t.free } ∧ transport t (otherTransport tr) = transport s (otherTransport tr)
    ∧ t.idn = { s.idn with pcie := t.idn.pcie, i3c := t.idn.i3c }

/-- The request is answered `m`, the connection stands at `st`. -/
def Replies (o : Out) (tr : Transport) (s : State) (st : Nat) (m : MctpMsg) : Prop :=
  LeadsTo o fun t => (transport t tr).out = some m ∧ (transport t tr).conn.st = st ∧ (transport t tr).eid = (transport s tr).eid ∧ OverTransport tr s t

/-- The answer `m` waits under the code and the token that draw `n` gives. -/
def RepliesLater (o : Out) (tr : Transport) (s : State) (st code n : Nat) (m : MctpMsg) : Prop :=
  LeadsTo o fun t => (transport t tr).out = some (.notReady code (Config.spdmToken n).toNat) ∧ (transport t tr).conn.st = st
    ∧ (transport t tr).conn.later = some (code, (Config.spdmToken n).toNat, m) ∧ OverTransport tr s t

@[simp] theorem transport_modTransport (tr : Transport) (f : McTransport → McTransport) (s : State) :
    transport (s.modTransport tr f) tr = f (transport s tr) := by
  cases tr <;> rfl

@[simp] theorem transport_with_free (n : Nat) (tr : Transport) (s : State) : transport { s with free := n } tr = transport s tr := by
  cases tr <;> rfl

theorem overTransport_modTransport (tr : Transport) (f : McTransport → McTransport) (n : Nat) (s : State) :
    OverTransport tr s ({ s with free := n }.modTransport tr f) := by
  cases tr <;> exact ⟨rfl, rfl, rfl⟩

theorem modTransport_modTransport (tr : Transport) (f g : McTransport → McTransport) (s : State) :
    (s.modTransport tr f).modTransport tr g = s.modTransport tr fun x => g (f x) := by
  cases tr <;> rfl

variable {tr : Transport}

/-- An answer by way of the transport alone, over a state that may have drawn. -/
theorem replies_modTransport {o : Out} {f : McTransport → McTransport} {st : Nat} {m : MctpMsg} (n : Nat)
    (ho : o = .next ({ s with free := n }.modTransport tr f)) (hout : ∀ x, (f x).out = some m) (heid : ∀ x, (f x).eid = x.eid)
    (hst : (f (transport s tr)).conn.st = st) : Replies o tr s st m := by
  subst ho
  exact ⟨_, rfl, by simp [hout], by simp [hst], by simp [heid], overTransport_modTransport tr f n s⟩

theorem repliesLater_modTransport {o : Out} {f : McTransport → McTransport} {st code d : Nat} {m : MctpMsg} (n : Nat)
    (ho : o = .next ({ s with free := n }.modTransport tr f)) (hout : ∀ x, (f x).out = some (.notReady code (Config.spdmToken d).toNat))
    (hst : (f (transport s tr)).conn.st = st) (hlater : ∀ x, (f x).conn.later = some (code, (Config.spdmToken d).toNat, m)) :
    RepliesLater o tr s st code d m := by
  subst ho
  exact ⟨_, rfl, by simp [hout], by simp [hst], by simp [hlater], overTransport_modTransport tr f n s⟩

/-! ### A request and its step of the connection (R510; log 85) -/

theorem spdmStep_unreached {need : Nat} {body : State → State} (h : mctpReaches s tr = false) : spdmStep tr need body s = .next s := by
  simp [spdmStep, h]

theorem spdmStep_due {need : Nat} {body : State → State} (h : mctpReaches s tr = true) (hneed : need ≤ (transport s tr).conn.st) :
    spdmStep tr need body s = .next (body s) := by
  simp [spdmStep, h, Nat.not_lt.2 hneed]

/-- ERROR leaves the connection where it stands. -/
theorem replies_error {o : Out} {code : Nat} (h : o = .next (mctpSend tr (.error code) s)) :
    Replies o tr s (transport s tr).conn.st (.error code) :=
  replies_modTransport s.free h (fun _ => rfl) (fun _ => rfl) rfl

/-- A request before its step is not expected. -/
theorem replies_early {need : Nat} {body : State → State} (h : mctpReaches s tr = true) (hneed : (transport s tr).conn.st < need) :
    Replies (spdmStep tr need body s) tr s (transport s tr).conn.st (.error 4) :=
  replies_error (by simp [spdmStep, h, hneed])

/-- An answer of the transcript after a change of the transport that keeps its endpoint. -/
theorem replies_spdmSend {o : Out} {f : McTransport → McTransport} {st : Nat} {m : MctpMsg} (n : Nat)
    (ho : o = .next (spdmSend tr m ({ s with free := n }.modTransport tr f))) (heid : ∀ x, (f x).eid = x.eid)
    (hst : (f (transport s tr)).conn.st = st) : Replies o tr s st m := by
  rw [spdmSend, mctpSend, modTransport_modTransport, modTransport_modTransport] at ho
  exact replies_modTransport n ho (fun _ => rfl) heid hst

/-- An answer of the transcript in the state as it is. -/
theorem replies_spdmSend_same {o : Out} {m : MctpMsg} (ho : o = .next (spdmSend tr m s)) : Replies o tr s (transport s tr).conn.st m := by
  rw [spdmSend, mctpSend, modTransport_modTransport] at ho
  exact replies_modTransport s.free ho (fun _ => rfl) (fun _ => rfl) rfl

/-- An answer that is ready goes, and none waits any more. -/
theorem replies_spdmAnswer {o : Out} {code : Nat} {m : MctpMsg} (n : Nat)
    (ho : o = .next (spdmAnswer tr code true m { s with free := n })) : Replies o tr s (transport s tr).conn.st m :=
  replies_spdmSend n ho (fun _ => rfl) rfl

/-- One that is not ready waits under its token. -/
theorem repliesLater_spdmAnswer {o : Out} {code : Nat} {m : MctpMsg} (n : Nat)
    (ho : o = .next (spdmAnswer tr code false m { s with free := n })) : RepliesLater o tr s (transport s tr).conn.st code n m := by
  have hfold : spdmAnswer tr code false m { s with free := n } = ({ s with free := n + 1 } : State).modTransport tr fun x =>
      { x with out := some (.notReady code (Config.spdmToken n).toNat), conn := { x.conn with later := some (code, (Config.spdmToken n).toNat, m) } } := by
    cases tr <;> rfl
  exact repliesLater_modTransport (n + 1) (ho.trans (by rw [hfold])) (fun _ => rfl) rfl (fun _ => rfl)

/-! ### The requests -/

theorem replies_version (h : mctpReaches s tr = true) : Replies (execGetVersion tr s) tr s 1 (.version [(1, 2), (1, 3)]) :=
  replies_spdmSend s.free (spdmStep_due h (Nat.zero_le _)) (fun _ => rfl) rfl

theorem replies_capabilities (h : mctpReaches s tr = true) (hst : 1 ≤ (transport s tr).conn.st) :
    Replies (execGetCapabilities tr s) tr s 2 (.capabilities true true true) :=
  replies_spdmSend s.free (spdmStep_due h hst) (fun _ => rfl) rfl

theorem replies_algorithms (h : mctpReaches s tr = true) (hst : 2 ≤ (transport s tr).conn.st) :
    Replies (execNegotiateAlgorithms tr s) tr s 3 .algorithms :=
  replies_spdmSend s.free (spdmStep_due h hst) (fun _ => rfl) rfl

theorem replies_digests (h : mctpReaches s tr = true) (hst : 3 ≤ (transport s tr).conn.st) :
    Replies (execGetDigests tr s) tr s (transport s tr).conn.st (.digests (sha256 (certChain s))) :=
  replies_spdmSend_same (spdmStep_due h hst)

theorem challenge_answers (h : mctpReaches s tr = true) (hst : 3 ≤ (transport s tr).conn.st) (n : BitVec 256) (r : Bool) :
    execSpdmChallenge tr 0 n r s = .next (spdmAnswer tr 0x83 r
      (.challengeAuth n.toNat (sha256 ([1, 2, 3, 4, 5].flatMap (measurement s))) (Config.spdmSign s.free).toNat) { s with free := s.free + 1 }) :=
  spdmStep_due h hst


theorem replies_certificate (h : mctpReaches s tr = true) (hst : 3 ≤ (transport s tr).conn.st) {o n : W16} (ho : o.toNat < (certChain s).length) :
    let part := ((certChain s).drop o.toNat).take n.toNat
    Replies (execGetCertificate tr 0 o n s) tr s (transport s tr).conn.st (.certificate part ((certChain s).length - o.toNat - part.length)) := by
  intro part
  refine replies_spdmSend_same ((spdmStep_due h hst).trans ?_)
  simp [Nat.not_le.2 ho, part]

theorem replies_certificate_refused (h : mctpReaches s tr = true) (hst : 3 ≤ (transport s tr).conn.st) {slot : Byte} {o n : W16}
    (hbad : slot ≠ 0 ∨ (certChain s).length ≤ o.toNat) : Replies (execGetCertificate tr slot o n s) tr s (transport s tr).conn.st (.error 1) := by
  refine replies_error ((spdmStep_due h hst).trans ?_)
  have hguard : (slot != 0 || decide ((certChain s).length ≤ o.toNat)) = true := by simpa [bne] using hbad
  simp only [hguard, if_true]

theorem replies_challenge_refused (h : mctpReaches s tr = true) (hst : 3 ≤ (transport s tr).conn.st) {slot : Byte} {n : BitVec 256} {r : Bool}
    (hbad : slot ≠ 0) : Replies (execSpdmChallenge tr slot n r s) tr s (transport s tr).conn.st (.error 1) := by
  refine replies_error ((spdmStep_due h hst).trans ?_)
  have hguard : (slot != 0) = true := by simpa [bne] using hbad
  simp only [hguard, if_true]

/-- What GET_MEASUREMENTS of a listed index answers: it draws where it is signed. -/
theorem getMeasurements_answers (h : mctpReaches s tr = true) (hst : 3 ≤ (transport s tr).conn.st) {ks : List Nat} {i : Byte} {sig r : Bool}
    {n : BitVec 256} (hi : measIndices i.toNat = some ks) : execGetMeasurements tr i sig n r s = .next (spdmAnswer tr 0xE0 r
      (.measurements 5 (ks.map fun k => (k, measurement s k)) (if sig then some (Config.spdmSign s.free).toNat else none))
      { s with free := if sig then s.free + 1 else s.free }) := by
  refine (spdmStep_due h hst).trans ?_
  simp only [hi]
  cases sig <;> rfl

theorem replies_measurements_refused (h : mctpReaches s tr = true) (hst : 3 ≤ (transport s tr).conn.st) {i : Byte} {sig r : Bool}
    {n : BitVec 256} (hi : 5 < i.toNat) (hne : i ≠ 255) : Replies (execGetMeasurements tr i sig n r s) tr s (transport s tr).conn.st (.error 1) := by
  have hne' : i.toNat ≠ 255 := fun he => hne (BitVec.eq_of_toNat_eq he)
  have hnone : measIndices i.toNat = none := by
    rw [measIndices, if_neg (by omega), if_neg hne', if_neg (by omega)]
  refine replies_error ((spdmStep_due h hst).trans ?_)
  simp only [hnone]

theorem respondIfReady_waiting (h : mctpReaches s tr = true) {code token : Byte} {m : MctpMsg}
    (hl : (transport s tr).conn.later = some (code.toNat, token.toNat, m)) :
    execRespondIfReady tr code token s = .next (spdmAnswer tr code.toNat true m s) := by
  refine (spdmStep_due h (Nat.zero_le _)).trans ?_
  simp [laterAnswer, hl]

theorem respondIfReady_none (h : mctpReaches s tr = true) {code token : Byte}
    (hl : ∀ m, (transport s tr).conn.later ≠ some (code.toNat, token.toNat, m)) :
    execRespondIfReady tr code token s = .next (mctpSend tr (.error 4) s) := by
  refine (spdmStep_due h (Nat.zero_le _)).trans ?_
  have hnone : laterAnswer s tr code.toNat token.toNat = none := by
    unfold laterAnswer
    split
    next c k m hsome => exact if_neg fun ⟨hc, hk⟩ => hl m (by rw [hsome, hc, hk])
    next => rfl
  simp only [hnone]

theorem answer_clears_later (tr : Transport) (code : Nat) (m : MctpMsg) (s : State) : (transport (spdmAnswer tr code true m s) tr).conn.later = none := by
  cases tr <;> rfl

theorem setEndpointId_sets (h : mctpReaches s tr = true) {e : Byte} (h0 : e ≠ 0) (hF : e ≠ 0xFF) :
    LeadsTo (execSetEndpointId tr e s) fun t => (transport t tr).eid = e.toNat ∧ OverTransport tr s t := by
  refine ⟨mctpSend tr (.endpoint e.toNat) (s.modTransport tr fun x => { x with eid := e.toNat }), ?_, ?_, ?_⟩
  · have hguard : (mctpReaches s tr && e != 0 && e != 0xFF) = true := by
      simp only [h, Bool.true_and, Bool.and_eq_true, bne_iff_ne, ne_eq]
      exact ⟨h0, hF⟩
    exact if_pos hguard
  · simp [mctpSend]
  · rw [mctpSend, modTransport_modTransport]
    exact overTransport_modTransport tr _ s.free s

theorem not_off_of_mctpReaches (h : mctpReaches s tr = true) : (s.dev == .off) = false := by
  cases hd : s.dev == .off with
  | true => simp [mctpReaches, hd] at h
  | false => rfl

/-- Settles O31: each request by the step of the connection that it needs. -/
theorem spdmConnection : Obligations.SpdmConnection := by
  unfold Obligations.SpdmConnection
  intro other frame replies later
  refine ⟨fun tr s h => ?_, fun tr e s h => ?_⟩
  · intro st sum meas
    refine ⟨?version, fun hst => ?capabilities, fun hst => ?algorithms, fun hst => ?digests, fun hst o n ho => replies_certificate h hst ho,
      fun hst slot o n hbad => replies_certificate_refused h hst hbad, fun hst n => ?challenge, fun hst slot n r => replies_challenge_refused h hst,
      fun hst n ks i sig hi => ?measured, fun hst n i sig r => replies_measurements_refused (n := n) h hst, fun code token m hl => ?ready,
      fun code token hl => replies_error (respondIfReady_none h hl), fun c => ?unsupported,
      fun hst => ?earlyCapabilities, fun hst => ?earlyAlgorithms, fun hst slot i o n x sig r => ?earlyRest,
      fun e h0 hF => setEndpointId_sets h h0 hF, fun a => ?entdaa, ?vendor⟩
    case version => exact replies_version h
    case capabilities => exact replies_capabilities h hst
    case algorithms => exact replies_algorithms h hst
    case digests => exact replies_digests h hst
    case challenge =>
      exact ⟨replies_spdmAnswer (s.free + 1) (challenge_answers h hst n true), repliesLater_spdmAnswer (s.free + 1) (challenge_answers h hst n false)⟩
    case measured => exact ⟨replies_spdmAnswer _ (getMeasurements_answers (n := n) h hst hi), repliesLater_spdmAnswer _ (getMeasurements_answers (n := n) h hst hi)⟩
    case ready =>
      exact ⟨replies_spdmAnswer s.free (respondIfReady_waiting h hl), _, respondIfReady_waiting h hl, answer_clears_later tr _ m s⟩
    case earlyCapabilities =>
      show Replies (execGetCapabilities tr s) tr s st (.error 4)
      exact replies_early h hst
    case earlyAlgorithms =>
      show Replies (execNegotiateAlgorithms tr s) tr s st (.error 4)
      exact replies_early h hst
    case earlyRest =>
      show Replies (execGetDigests tr s) tr s st (.error 4) ∧ Replies (execGetCertificate tr slot o n s) tr s st (.error 4)
        ∧ Replies (execSpdmChallenge tr slot x r s) tr s st (.error 4) ∧ Replies (execGetMeasurements tr i sig x r s) tr s st (.error 4)
      exact ⟨replies_early h hst, replies_early h hst, replies_early h hst, replies_early h hst⟩
    case unsupported => exact replies_error (show execSpdmUnsupportedRequest tr c s = _ from spdmStep_due h (Nat.zero_le _))
    case entdaa =>
      show execEntdaa a s = _
      simp only [execEntdaa, not_off_of_mctpReaches h, Bool.false_eq_true, if_false]
      rfl
    case vendor =>
      refine ⟨mctpSend tr (.vendor Config.enterprise.toNat) s, ?_, by simp [mctpSend], overTransport_modTransport tr _ s.free s⟩
      show execGetVendorDefinedMessageSupport tr s = _
      simp only [execGetVendorDefinedMessageSupport, h, if_true]
  · show execGetVersion tr s = _ ∧ execGetCapabilities tr s = _ ∧ execGetDigests tr s = _ ∧ execSetEndpointId tr e s = _
      ∧ execGetVendorDefinedMessageSupport tr s = _
    refine ⟨spdmStep_unreached h, spdmStep_unreached h, spdmStep_unreached h, ?_, ?_⟩
    · simp [execSetEndpointId, h]
    · simp [execGetVendorDefinedMessageSupport, h]

end Sys2Proof.Machine

/-! SUPPORT. Proofs of the statements about resets (O11) and about power-up and power-down (O12). -/

namespace Sys2Proof.Machine

open Sys2Proof

variable {s : State}

/-! ### What a reset makes of the state (R412, R504, R505; logs 98 and 115) -/

/-- The device begins BOOT anew, with what lies outside the package as it was. -/
structure Fresh (s t : State) : Prop where
  dev : t.dev = .boot
  st : t.idn.st = 0
  cmds : t.host.cmds = []
  trav : t.job.trav = none
  run : t.job.run = none
  number : t.fab.number = none
  otp : t.idn.otp = s.idn.otp
  svn : t.idn.svnFuses = s.idn.svnFuses
  revoked : t.idn.revoked = s.idn.revoked
  host : t.hostMem = s.hostMem

theorem Fresh.all {s t : State} (h : Fresh s t) : t.dev = .boot ∧ t.idn.st = 0 ∧ t.host.cmds = [] ∧ t.job.trav = none ∧ t.job.run = none
    ∧ t.fab.number = none ∧ t.idn.otp = s.idn.otp ∧ t.idn.svnFuses = s.idn.svnFuses ∧ t.idn.revoked = s.idn.revoked ∧ t.hostMem = s.hostMem :=
  ⟨h.dev, h.st, h.cmds, h.trav, h.run, h.number, h.otp, h.svn, h.revoked, h.host⟩

theorem fresh_packageReset (s : State) : Fresh s (packageReset s) := ⟨rfl, rfl, rfl, rfl, rfl, rfl, rfl, rfl, rfl, rfl⟩

theorem fresh_functionReset (s : State) : Fresh s (functionReset s) := ⟨rfl, rfl, rfl, rfl, rfl, rfl, rfl, rfl, rfl, rfl⟩

theorem beq_off_false {d : Dev} (h : d ≠ .off) : (d == .off) = false := by
  simpa using h

theorem exec_perstLAssert (hp : s.pins.perst = false) (hd : s.dev ≠ .off) :
    exec .perstLAssert s = .next (packageReset (s.modPins fun p => { p with perst := true })) := by
  show execPerstLAssert s = _
  simp only [execPerstLAssert, hp, Bool.false_eq_true, if_false, State.modPins_dev, beq_off_false hd]

theorem exec_perstLDeassert (hp : s.pins.perst = true) (hd : s.dev ≠ .off) :
    exec .perstLDeassert s = .next (packageReset (s.modPins fun p => { p with perst := false })) := by
  show execPerstLDeassert s = _
  simp only [execPerstLDeassert, hp, Bool.not_true, Bool.false_eq_true, if_false, State.modPins_dev, beq_off_false hd]

theorem exec_packageReset {v : W32} (hv : v.getLsbD 0 = true) (hl : s.host.linkUp = true) (hd : s.dev ≠ .off) :
    exec (.packageReset v) s = .next (packageReset s) := by
  show execPackageReset v s = _
  have hw : hostWrites s true = true := by simp [hostWrites, hl, hd]
  have hb : bit v.toNat 0 = true := hv
  simp only [execPackageReset, hw, if_true, writeResetCtrl, hb]

theorem exec_functionLevelReset (hd : s.dev ≠ .off) (hp : s.pins.perst = false) (ht : s.pins.thermtrip = false) (hst : s.idn.st ≠ 7) :
    exec .functionLevelReset s = .next (functionReset s) := by
  show execFunctionLevelReset s = _
  simp [execFunctionLevelReset, hd, hp, needsPackageReset, ht, hst]

/-- A FAULT that only a package reset leaves stays, with what boot has found. -/
theorem exec_functionLevelReset_fault (hd : s.dev = .fault) (hp : s.pins.perst = false) (hneed : s.pins.thermtrip = true ∨ s.idn.st = 7) :
    exec .functionLevelReset s = .next { functionReset s with
      dev := s.dev, therm := s.therm, idn := { s.idn with pcie := {}, i3c := {}, i3cAddr := none } } := by
  show execFunctionLevelReset s = _
  have hneeds : needsPackageReset s = true := by simpa [needsPackageReset] using hneed
  have hguard : ¬(s.dev == .off || s.pins.perst) = true := by simp [hd, hp]
  simp only [execFunctionLevelReset, hguard, hneeds, if_true]
  rfl

/-- Settles O11: each cause of a reset by the one state that it leads to. -/
theorem resetsKeepFuses : Obligations.ResetsKeepFuses := by
  unfold Obligations.ResetsKeepFuses
  intro fresh
  refine ⟨fun s hp hd => ⟨_, exec_perstLAssert hp hd, ?_, rfl, rfl⟩, fun s hp hd => ⟨_, exec_perstLDeassert hp hd, ?_, rfl, rfl⟩,
    fun v s hv hl hd => ⟨_, exec_packageReset hv hl hd, (fresh_packageReset s).all, rfl, rfl⟩,
    fun s hd hp ht hst => ⟨_, exec_functionLevelReset hd hp ht hst, (fresh_functionReset s).all, rfl, rfl, rfl, rfl, rfl⟩,
    fun s hd hp hneed => ⟨_, exec_functionLevelReset_fault hd hp hneed, hd, rfl, rfl, rfl, rfl, rfl, rfl, rfl, rfl, rfl⟩⟩
  · exact (fresh_packageReset (s.modPins fun p => { p with perst := true })).all
  · exact (fresh_packageReset (s.modPins fun p => { p with perst := false })).all

/-! ### Power-up and power-down (R514, R519 to R521; logs 99 and 146) -/

/-- Every rail is on, or every rail is off. -/
def RailsAre (t : State) (b : Bool) : Prop :=
  t.pins.vcore = b ∧ t.pins.vsram = b ∧ t.pins.vhbm = b ∧ t.pins.vopt = b ∧ t.pins.vaon = b

/-- The module has powered up. -/
def PoweredUp (t : State) : Prop :=
  t.dev = .boot ∧ RailsAre t true ∧ t.pins.pwrgdReleased = true ∧ t.pins.retry = false ∧ t.idn.st = 0

/-- Attempt `n + 1` has failed. -/
def PowerUpFailed (s t : State) (n : Nat) : Prop :=
  t.dev = .off ∧ RailsAre t false ∧ t.pins.attempts = n + 1 ∧ (t.pins.retry = true ↔ n + 1 < 3) ∧ t.pins.pwrgdReleased = s.pins.pwrgdReleased

theorem powerUp_good (s : State) : PoweredUp (powerUp true s) := ⟨rfl, ⟨rfl, rfl, rfl, rfl, rfl⟩, rfl, rfl, rfl⟩

theorem powerUp_bad (hd : s.dev = .off) : PowerUpFailed s (powerUp false s) s.pins.attempts :=
  ⟨hd, ⟨rfl, rfl, rfl, rfl, rfl⟩, rfl, decide_eq_true_iff, rfl⟩

theorem powerUp_alertInput (good : Bool) (s : State) : (powerUp good s).pins.alertInput = s.pins.alertInput := by
  cases good <;> rfl

theorem powerDown_off (s : State) : (powerDown s).dev = .off ∧ RailsAre (powerDown s) false ∧ (powerDown s).pins.pwrgdReleased = false :=
  ⟨rfl, ⟨rfl, rfl, rfl, rfl, rfl⟩, rfl⟩

/-- The input has risen to `mv`, and no attempt has failed since. -/
def risen (mv : Nat) (s : State) : State := (inputIs mv s).modPins fun p => { p with attempts := 0, retry := false }

theorem exec_inputRise {mv : Nat} (good : Bool) (hd : s.dev = .off) (hlow : s.pins.inputMv < 49000) (hmv : 49000 ≤ mv) (htop : mv ≤ 66000)
    (hheld : s.pins.pwrgdHeld = false) : exec (.inputRise mv good) s = .next (powerUp good (risen mv s)) := by
  show execInputRise mv good s = _
  have hheld' : (risen mv s).pins.pwrgdHeld = false := hheld
  have hguard : (s.dev == .off && decide (s.pins.inputMv < 49000) && decide (49000 ≤ mv) && decide (mv ≤ 66000)) = true := by
    simp [hd, hlow, hmv, htop]
  unfold execInputRise
  rw [if_pos hguard]
  exact congrArg Host.Outcome.next (if_neg (by rw [← risen, hheld']; exact Bool.false_ne_true))

theorem exec_powerUpRetry (good : Bool) (hd : s.dev = .off) (hretry : s.pins.retry = true) (hheld : s.pins.pwrgdHeld = false) :
    exec (.powerUpRetry good) s = .next (powerUp good s) := by
  show execPowerUpRetry good s = _
  simp [execPowerUpRetry, hd, hretry, hheld]

theorem exec_inputUndervoltage {mv : Nat} (hmv : mv < 47000) (hd : s.dev ≠ .off) :
    exec (.inputUndervoltage mv) s = .next (powerDown (s.modPins fun p => { p with inputMv := mv })) := by
  show execInputUndervoltage mv s = _
  simp [execInputUndervoltage, hmv, hd]

theorem exec_inputOvervoltage {mv : Nat} (hmv : 66000 < mv) (hd : s.dev ≠ .off) :
    exec (.inputOvervoltage mv) s = .next (powerDown (s.modPins fun p => { p with inputMv := mv })) := by
  show execInputOvervoltage mv s = _
  simp [execInputOvervoltage, hmv, hd]

theorem exec_pwrgdHoldLow (hheld : s.pins.pwrgdHeld = false) (hd : s.dev ≠ .off) :
    exec .pwrgdHoldLow s = .next (powerDown (s.modPins fun p => { p with pwrgdHeld := true })) := by
  show execPwrgdHoldLow s = _
  simp [execPwrgdHoldLow, hheld, hd]

/-- The input reads `mv`, and nobody holds PWRGD low. -/
def letGo (mv : Nat) (s : State) : State := inputIs mv (s.modPins fun p => { p with pwrgdHeld := false })

theorem exec_pwrgdRelease {mv : Nat} (good : Bool) (hd : s.dev = .off) (hheld : s.pins.pwrgdHeld = true) (hmv : 47000 ≤ mv) (htop : mv ≤ 66000)
    (hfew : s.pins.attempts < 3) : exec (.pwrgdRelease mv good) s = .next (powerUp good (letGo mv s)) := by
  show execPwrgdRelease mv good s = _
  have hfew' : (letGo mv s).pins.attempts < 3 := hfew
  have hguard : (s.dev == .off && inputValid mv) = true := by simp [hd, inputValid, hmv, htop]
  simp only [execPwrgdRelease, hheld, if_true, State.modPins_dev, hguard]
  rw [← letGo, if_pos hfew']

theorem exec_pwrgdRelease_invalid {mv : Nat} (good : Bool) (hheld : s.pins.pwrgdHeld = true) (hmv : mv < 47000 ∨ 66000 < mv) :
    exec (.pwrgdRelease mv good) s = .next { s with pins := { s.pins with pwrgdHeld := false } } := by
  show execPwrgdRelease mv good s = _
  have hinvalid : inputValid mv = false := by
    simp only [inputValid, Bool.and_eq_false_iff, decide_eq_false_iff_not]
    omega
  simp only [execPwrgdRelease, hheld, if_true, hinvalid, Bool.and_false, Bool.false_eq_true, if_false]
  rfl

/-- Settles O12: each cause by the attempt or the power-down that it leads to. -/
theorem powerUpAndDown : Obligations.PowerUpAndDown := by
  unfold Obligations.PowerUpAndDown
  intro rails up failed
  refine ⟨fun mv s hd hlow hmv htop hheld => ⟨⟨_, exec_inputRise true hd hlow hmv htop hheld, powerUp_good _, rfl, rfl, ?_⟩,
      ⟨_, exec_inputRise false hd hlow hmv htop hheld, powerUp_bad (s := risen mv s) hd⟩⟩,
    fun s hd hretry hheld => ⟨⟨_, exec_powerUpRetry true hd hretry hheld, powerUp_good s⟩,
      ⟨_, exec_powerUpRetry false hd hretry hheld, powerUp_bad hd⟩⟩,
    fun mv s hmv hd => ⟨_, exec_inputUndervoltage hmv hd, powerDown_off _⟩,
    fun mv s hmv hd => ⟨_, exec_inputOvervoltage hmv hd, powerDown_off _⟩,
    fun s hheld hd => ⟨_, exec_pwrgdHoldLow hheld hd, rfl, ⟨rfl, rfl, rfl, rfl, rfl⟩, rfl, rfl⟩,
    fun mv s hd hheld hmv htop hfew => ⟨⟨_, exec_pwrgdRelease true hd hheld hmv htop hfew, powerUp_good _, rfl, rfl⟩,
      ⟨_, exec_pwrgdRelease false hd hheld hmv htop hfew, powerUp_bad (s := letGo mv s) hd, rfl⟩⟩,
    fun mv good s _ hheld hmv => exec_pwrgdRelease_invalid good hheld hmv⟩
  rw [powerUp_alertInput]
  show (s.pins.alertInput || decide (mv < 50000)) = true ↔ _
  rw [Bool.or_eq_true, decide_eq_true_iff, or_comm]

end Sys2Proof.Machine

/-! SUPPORT. What the rungs of the regions depend on, and proofs of the statements about the regulator alert (O13) and about rungs and points (O14). -/

namespace Sys2Proof.Machine

open Sys2Proof

variable {s : State}

/-! ### Loops over regions -/

/-- A loop in which one step alone changes a part of the state applies that step to it. -/
theorem foldl_view_own {β : Type} (view : State → β) (g : β → β) {step : State → Nat → State} {r : Nat}
    (hother : ∀ u k, k ≠ r → view (step u k) = view u) (hown : ∀ u, view (step u r) = g (view u)) {l : List Nat} (hl : l.Nodup) (s : State) :
    view (l.foldl step s) = if r ∈ l then g (view s) else view s := by
  induction l generalizing s with
  | nil => rfl
  | cons k l ih =>
    obtain ⟨hk, hl⟩ := List.nodup_cons.1 hl
    rw [List.foldl_cons, ih hl]
    by_cases hkr : k = r
    · subst hkr
      simp [hk, hown]
    · simp [hother s k hkr, Ne.symm hkr]

/-- What the rung of a region depends on: its own state, the rest of the power state, the model fault and AON time. -/
structure RegionView where
  reg : RegPwr
  rest : Power
  fault : Bool
  now : Nat

/-- The power state but for the regions. -/
def restPwr (s : State) : Power := { s.pwr with region := [] }

@[simp] theorem restPwr_modReg (r : Nat) (f : RegPwr → RegPwr) (s : State) : restPwr (s.modReg r f) = restPwr s := rfl

def regionView (s : State) (r : Nat) : RegionView := ⟨regPwr s r, restPwr s, s.therm.modelFault, s.aon⟩

/-- The lowest-numbered rung that the limits allow (R418). -/
def RegionView.allowed (v : RegionView) : Nat :=
  [v.reg.target, v.rest.rationRung, if v.rest.alert then 20 else 0, if v.fault then 5 else 0, v.reg.curRung, v.reg.droopRung,
    if v.rest.parkPending && v.rest.parkGrace then 20 else 0].foldl max 0

@[simp] theorem regionView_reg (s : State) (r : Nat) : (regionView s r).reg = regPwr s r := rfl

@[simp] theorem regionView_now (s : State) (r : Nat) : (regionView s r).now = s.aon := rfl

@[simp] theorem regionView_allowed (s : State) (r : Nat) : (regionView s r).allowed = allowedRung s r := rfl

/-- The droop penalty is one of the limits. -/
theorem droopRung_le_allowedRung (s : State) (r : Nat) : (regPwr s r).droopRung ≤ allowedRung s r := by
  simp only [allowedRung, List.foldl_cons, List.foldl_nil]
  omega

theorem regionView_modReg (s : State) (k r : Nat) (f : RegPwr → RegPwr) :
    regionView (s.modReg k f) r = if r = k then { regionView s k with reg := f (regPwr s k) } else regionView s r := by
  by_cases h : r = k
  · subst h
    simp [regionView, regPwr_modReg]
  · simp [regionView, regPwr_modReg, h]

/-- The region after `raiseRungs` and after `lowerRungs`. -/
def RegionView.raised (v : RegionView) : RegionView := if v.reg.rung < v.allowed then { v with reg := moveRung v.allowed v.reg } else v

def RegionView.lowered (v : RegionView) : RegionView :=
  if v.allowed < v.reg.rung ∧ (v.reg.lowered = 0 ∨ v.reg.lowered + 4999 ≤ v.now) then
    { v with reg := moveRung (v.reg.rung - 1) { v.reg with lowered := v.now + 1 } } else v

theorem regionView_raiseRungs {r : Nat} (hr : r < 4) (s : State) : regionView (raiseRungs s) r = (regionView s r).raised := by
  have hloop := foldl_view_own (fun u => regionView u r) RegionView.raised (r := r)
    (step := fun s r => if (regPwr s r).rung < allowedRung s r then s.modReg r (moveRung (allowedRung s r)) else s)
    (fun u k hk => by
      split
      · rw [regionView_modReg, if_neg (Ne.symm hk)]
      · rfl)
    (fun u => by
      unfold RegionView.raised
      by_cases h : (regPwr u r).rung < allowedRung u r
      · rw [if_pos h, if_pos (show (regionView u r).reg.rung < (regionView u r).allowed from h), regionView_modReg, if_pos rfl]
        rfl
      · rw [if_neg h, if_neg (show ¬(regionView u r).reg.rung < (regionView u r).allowed from h)])
    (List.nodup_range (n := 4)) s
  rwa [if_pos (List.mem_range.2 hr)] at hloop

theorem regionView_lowerRungs {r : Nat} (hr : r < 4) (s : State) : regionView (lowerRungs s) r = (regionView s r).lowered := by
  have hloop := foldl_view_own (fun u => regionView u r) RegionView.lowered (r := r) (step := fun s r => lowerRung r s)
    (fun u k hk => by
      unfold lowerRung
      split
      · rw [regionView_modReg, if_neg (Ne.symm hk)]
      · rfl)
    (fun u => by
      unfold RegionView.lowered lowerRung
      have hguard : (decide (allowedRung u r < (regPwr u r).rung) && mayLower u r) = true ↔
          (regionView u r).allowed < (regionView u r).reg.rung
            ∧ ((regionView u r).reg.lowered = 0 ∨ (regionView u r).reg.lowered + 4999 ≤ (regionView u r).now) := by
        rw [Bool.and_eq_true, decide_eq_true_iff, mayLower, Bool.or_eq_true, beq_iff_eq, decide_eq_true_iff]
        rfl
      by_cases h : (decide (allowedRung u r < (regPwr u r).rung) && mayLower u r) = true
      · rw [if_pos h, if_pos (hguard.1 h), regionView_modReg, if_pos rfl]
        rfl
      · rw [if_neg h, if_neg fun hv => h (hguard.2 hv)])
    (List.nodup_range (n := 4)) s
  rwa [if_pos (List.mem_range.2 hr)] at hloop

/-- What raising leaves of a region: everything but rung, point and clock. -/
@[simp] theorem moveRung_rung (n : Nat) (g : RegPwr) : (moveRung n g).rung = n := by
  simp only [moveRung, apply_ite RegPwr.rung, ite_self]

@[simp] theorem moveRung_stretch (n : Nat) (g : RegPwr) : (moveRung n g).stretch = g.stretch := by
  simp only [moveRung, apply_ite RegPwr.stretch, ite_self]

@[simp] theorem moveRung_droopRung (n : Nat) (g : RegPwr) : (moveRung n g).droopRung = g.droopRung := by
  simp only [moveRung, apply_ite RegPwr.droopRung, ite_self]

@[simp] theorem moveRung_droopEnd (n : Nat) (g : RegPwr) : (moveRung n g).droopEnd = g.droopEnd := by
  simp only [moveRung, apply_ite RegPwr.droopEnd, ite_self]

@[simp] theorem moveRung_lowered (n : Nat) (g : RegPwr) : (moveRung n g).lowered = g.lowered := by
  simp only [moveRung, apply_ite RegPwr.lowered, ite_self]

@[simp] theorem moveRung_curLimit (n : Nat) (g : RegPwr) : (moveRung n g).curLimit = g.curLimit := by
  simp only [moveRung, apply_ite RegPwr.curLimit, ite_self]

theorem regPwr_raiseRungs {r : Nat} (hr : r < 4) (s : State) : regPwr (raiseRungs s) r
    = if (regPwr s r).rung < allowedRung s r then moveRung (allowedRung s r) (regPwr s r) else regPwr s r := by
  rw [← regionView_reg, regionView_raiseRungs hr, RegionView.raised, regionView_reg, regionView_allowed, apply_ite RegionView.reg, regionView_reg]

theorem regPwr_lowerRungs {r : Nat} (hr : r < 4) (s : State) : regPwr (lowerRungs s) r
    = if allowedRung s r < (regPwr s r).rung ∧ ((regPwr s r).lowered = 0 ∨ (regPwr s r).lowered + 4999 ≤ s.aon) then
        moveRung ((regPwr s r).rung - 1) { regPwr s r with lowered := s.aon + 1 } else regPwr s r := by
  rw [← regionView_reg, regionView_lowerRungs hr, RegionView.lowered, regionView_reg, regionView_allowed, regionView_now,
    apply_ite RegionView.reg, regionView_reg]

theorem allowedRung_le_raiseRungs {r : Nat} (hr : r < 4) (s : State) : allowedRung s r ≤ (regPwr (raiseRungs s) r).rung := by
  rw [regPwr_raiseRungs hr]
  split
  · rw [moveRung_rung]
  next h => exact Nat.not_lt.1 h

/-- Every part of the state that no change of a region touches is as it was. -/
theorem raiseRungs_view {β : Type} (view : State → β) (h : ∀ u r f, view (State.modReg r f u) = view u) (s : State) :
    view (raiseRungs s) = view s := by
  refine foldl_view view (fun u k => ?_) _ s
  split
  · exact h ..
  · rfl

theorem lowerRung_view {β : Type} (view : State → β) (h : ∀ u r f, view (State.modReg r f u) = view u) (r : Nat) (s : State) :
    view (lowerRung r s) = view s := by
  unfold lowerRung
  split
  · exact h ..
  · rfl

theorem lowerRungs_view {β : Type} (view : State → β) (h : ∀ u r f, view (State.modReg r f u) = view u) (s : State) :
    view (lowerRungs s) = view s :=
  foldl_view view (fun u k => lowerRung_view view h k u) _ s

@[simp] theorem restPwr_raiseRungs (s : State) : restPwr (raiseRungs s) = restPwr s := raiseRungs_view restPwr (fun _ _ _ => rfl) s

@[simp] theorem restPwr_lowerRungs (s : State) : restPwr (lowerRungs s) = restPwr s := lowerRungs_view restPwr (fun _ _ _ => rfl) s

theorem count_of_restPwr {s t : State} (h : restPwr t = restPwr s) : t.pwr.count = s.pwr.count := by
  show (restPwr t).count = (restPwr s).count
  rw [h]

@[simp] theorem count_powerCount (k j : Nat) (s : State) : (powerCount k s).pwr.count.get 0 j
    = if j = k then s.pwr.count.get 0 k + 1 else s.pwr.count.get 0 j :=
  Table.get_mod s.pwr.count 0 j k (· + 1)

@[simp] theorem regPwr_powerCount (k r : Nat) (s : State) : regPwr (powerCount k s) r = regPwr s r := rfl

/-! ### The regulator alert (R434, R435, R514, R516) -/

/-- The device executes. -/
def Executes (s : State) : Prop := s.dev = .ready ∨ s.dev = .run ∨ s.dev = .backsight ∨ s.dev = .fenced

theorem Executes.awake (h : Executes s) : (s.dev == .bivouac) = false ∧ (s.dev == .off) = false ∧ (s.dev == .boot) = false := by
  rcases h with h | h | h | h <;> rw [h] <;> exact ⟨rfl, rfl, rfl⟩

theorem Executes.not_poweringUp (h : Executes s) : poweringUp s = false := by
  obtain ⟨-, hoff, hboot⟩ := h.awake
  simp [poweringUp, hoff, hboot]

/-- What R434 makes of a region. -/
def alerted (g : RegPwr) : RegPwr :=
  if g.pll then { g with rung := 20, point := 5, volt := 5, safe := true, changing := true, skip := g.skip || !g.safe }
  else { g with rung := 20, point := 5, volt := 5 }

theorem alerted_rung (g : RegPwr) : (alerted g).rung = 20 := by unfold alerted; split <;> rfl

theorem alertLimit_eq (h : Executes s) :
    alertLimit s = (List.range 4).foldl (fun s r => s.modReg r alerted) (s.modPwr fun p => { p with alert := true }) := by
  obtain ⟨hbiv, hoff, hboot⟩ := h.awake
  simp only [alertLimit, hbiv, hoff, hboot, Bool.or_false, Bool.false_eq_true, if_false]
  rfl

/-- Under the limit every region stands at rung 20. -/
theorem rung_alertLimit (h : Executes s) {r : Nat} (hr : r < 4) : (regPwr (alertLimit s) r).rung = 20 := by
  rw [alertLimit_eq h]
  have hloop := foldl_view_own (fun u => regPwr u r) alerted (r := r) (step := fun s r => s.modReg r alerted)
    (fun u k hk => (regPwr_modReg u k r alerted).trans (if_neg (Ne.symm hk))) (fun u => (regPwr_modReg u r r alerted).trans (if_pos rfl))
    (List.nodup_range (n := 4)) (s.modPwr fun p => { p with alert := true })
  rw [if_pos (List.mem_range.2 hr)] at hloop
  rw [hloop, alerted_rung]

theorem alertLimit_view {β : Type} (view : State → β) (hreg : ∀ u r f, view (State.modReg r f u) = view u) (h : Executes s) :
    view (alertLimit s) = view (s.modPwr fun p => { p with alert := true }) := by
  rw [alertLimit_eq h]
  exact foldl_view view (fun u k => hreg u k alerted) _ _

/-- The VRALERT event tells the count, and changes no other part of the power state. -/
theorem alertEvent_view {β : Type} (view : State → β) (hevt : ∀ c k b u, view (raiseEvent c k b u) = view u)
    (hpwr : ∀ u : State, view (u.modPwr fun p => { p with alertTold := some u.aon, alertCount := 0 }) = view u) (s : State) :
    view (alertEvent s) = view s := by
  have hif : ∀ c : Prop, ∀ _ : Decidable c, view (if c then raiseEvent 0x64 0 (leBytes 4 s.pwr.alertCount)
      (s.modPwr fun p => { p with alertTold := some s.aon, alertCount := 0 }) else s) = view s := by
    intro c _
    split
    · rw [hevt, hpwr]
    · rfl
  exact hif _ _

/-- What an assertion sets beside the regions, and what is left of it once its event is told. -/
def AlertRest (s : State) : Pins × Bool × Option Nat × Table Nat := (s.pins, s.pwr.alert, s.pwr.alertEnd, s.pwr.count)

def AlertPart (s : State) : Table RegPwr × Pins × Bool × Option Nat × Table Nat := (s.pwr.region, AlertRest s)

theorem alertPart_alertEvent (s : State) : AlertPart (alertEvent s) = AlertPart s :=
  alertEvent_view AlertPart (fun c k b u => by simp [AlertPart, AlertRest]) (fun _ => rfl) s

/-- The state of an assertion before the limit takes hold: it is counted. -/
def assertCounted (s : State) : State := powerCount 0 (s.modPwr fun p => { p with alert := true, alertEnd := none, alertCount := p.alertCount + 1 })

theorem alertAsserted_runs (h : Executes s) : alertAsserted s = alertEvent (alertLimit (assertCounted s)) := by
  obtain ⟨hbiv, hoff, -⟩ := h.awake
  simp only [alertAsserted, h.not_poweringUp, hbiv, hoff, Bool.or_false, Bool.false_eq_true, if_false]
  rfl

/-- An assertion that the device executes under. -/
theorem alertAsserted_spec (h : Executes s) : let t := alertAsserted s
    (∀ r, r < 4 → (regPwr t r).rung = 20) ∧ t.pwr.alert = true ∧ t.pwr.alertEnd = none ∧ t.pins = s.pins
      ∧ t.pwr.count.get 0 0 = s.pwr.count.get 0 0 + 1 := by
  intro t
  have hex : Executes (assertCounted s) := h
  have hpart : AlertPart t = AlertPart (alertLimit (assertCounted s)) := by
    rw [show t = alertEvent (alertLimit (assertCounted s)) from alertAsserted_runs h, alertPart_alertEvent]
  have hlim : AlertRest (alertLimit (assertCounted s)) = AlertRest ((assertCounted s).modPwr fun p => { p with alert := true }) :=
    alertLimit_view AlertRest (fun _ _ _ => rfl) hex
  have hrest : AlertRest t = (s.pins, true, none, (assertCounted s).pwr.count) :=
    (congrArg (fun x : Table RegPwr × Pins × Bool × Option Nat × Table Nat => x.2) hpart).trans hlim
  refine ⟨fun r hr => ?_, ?_, ?_, ?_, ?_⟩
  · have hreg : regPwr t r = regPwr (alertLimit (assertCounted s)) r :=
      congrArg (fun x : Table RegPwr × Pins × Bool × Option Nat × Table Nat => x.1.get {} r) hpart
    rw [hreg, rung_alertLimit hex hr]
  · exact congrArg (fun x : Pins × Bool × Option Nat × Table Nat => x.2.1) hrest
  · exact congrArg (fun x : Pins × Bool × Option Nat × Table Nat => x.2.2.1) hrest
  · exact congrArg (fun x : Pins × Bool × Option Nat × Table Nat => x.1) hrest
  · have hcount : t.pwr.count = (assertCounted s).pwr.count := congrArg (fun x : Pins × Bool × Option Nat × Table Nat => x.2.2.2) hrest
    rw [hcount]
    exact count_powerCount 0 0 _

theorem exec_vralertLAssert (hrail : s.pins.alertRail = false) : exec .vralertLAssert s
    = .next (if s.pins.alertCurrent then s.modPins fun p => { p with alertRail := true }
        else alertAsserted (s.modPins fun p => { p with alertRail := true })) := by
  show execVralertLAssert s = _
  cases hc : s.pins.alertCurrent <;> simp [execVralertLAssert, hrail, hc]

theorem vralertLAssert_runs (h : Executes s) (hrail : s.pins.alertRail = false) (hcur : s.pins.alertCurrent = false) :
    LeadsTo (exec .vralertLAssert s) fun t => (∀ r, r < 4 → (regPwr t r).rung = 20) ∧ t.pwr.alert = true ∧ t.pwr.alertEnd = none
      ∧ t.pins.alertRail = true ∧ t.pwr.count.get 0 0 = s.pwr.count.get 0 0 + 1 := by
  have hex : Executes (s.modPins fun p => { p with alertRail := true }) := h
  obtain ⟨hrung, halert, hend, hpins, hcount⟩ := alertAsserted_spec hex
  refine ⟨_, (exec_vralertLAssert hrail).trans (by rw [hcur]; rfl), hrung, halert, hend, ?_, hcount⟩
  rw [hpins]
  rfl

theorem inputLow_runs {mv : Nat} (h : Executes s) (hwas : 47000 ≤ s.pins.inputMv) (hmv : 47000 ≤ mv) (hlow : mv < 50000) :
    LeadsTo (exec (.inputLow mv) s) fun t => (∀ r, r < 4 → (regPwr t r).rung = 20) ∧ t.pwr.alert = true ∧ t.pins.alertInput = true
      ∧ t.pins.inputMv = mv := by
  have hex : Executes (s.modPins fun p => { p with inputMv := mv, alertInput := true }) := h
  have hguard : ¬(decide (s.pins.inputMv < 47000) || decide (mv < 47000) || decide (50000 ≤ mv)) = true := by
    simp only [Bool.or_eq_true, decide_eq_true_iff]
    omega
  have hrest := alertLimit_view AlertRest (fun _ _ _ => rfl) hex
  refine ⟨_, if_neg hguard, fun r hr => rung_alertLimit hex hr, congrArg (fun x : Pins × Bool × Option Nat × Table Nat => x.2.1) hrest,
    congrArg (fun x : Pins × Bool × Option Nat × Table Nat => x.1.alertInput) hrest,
    congrArg (fun x : Pins × Bool × Option Nat × Table Nat => x.1.inputMv) hrest⟩

theorem vralertLRelease_runs (h : Executes s) (hrail : s.pins.alertRail = true) (hcur : s.pins.alertCurrent = false) (hal : s.pwr.alert = true) :
    exec .vralertLRelease s = .next { s with
      pins := { s.pins with alertRail := false }, pwr := { s.pwr with alertEnd := some (s.aon + 50000) } } := by
  have hex : Executes (s.modPins fun p => { p with alertRail := false }) := h
  have hguard : ¬(alertPin (s.modPins fun p => { p with alertRail := false }) || !s.pwr.alert || poweringUp (s.modPins fun p => { p with alertRail := false })) = true := by
    simp [alertPin, hcur, hal, hex.not_poweringUp]
  exact (if_pos hrail).trans (congrArg Host.Outcome.next (if_neg hguard))

theorem vralertHoldExpire_ends {n : Nat} (hend : s.pwr.alertEnd = some n) (hn : n ≤ s.aon) (hal : s.pwr.alert = true)
    (hrail : s.pins.alertRail = false) (hcur : s.pins.alertCurrent = false) :
    exec .vralertHoldExpire s = .next { s with pwr := { s.pwr with alert := s.pins.alertInput, alertEnd := none } } := by
  show execVralertHoldExpire s = _
  simp only [execVralertHoldExpire, hend, hal, decide_eq_true hn, alertPin, hrail, hcur, Bool.or_false, Bool.not_false, Bool.and_true, if_true]
  rfl

theorem inputLowRecover_ends {mv : Nat} (h : Executes s) (hin : s.pins.alertInput = true) (hmv : 50500 < mv) (hrail : s.pins.alertRail = false)
    (hcur : s.pins.alertCurrent = false) : exec (.inputLowRecover mv) s = .next { s with
      pins := { s.pins with inputMv := mv, alertInput := false }, pwr := { s.pwr with alert := s.pwr.alert && s.pwr.alertEnd.isSome } } := by
  have hex : Executes (s.modPins fun p => { p with inputMv := mv, alertInput := false }) := h
  show execInputLowRecover mv s = _
  have hnone : (alertPin (s.modPins fun p => { p with inputMv := mv, alertInput := false }) || s.pwr.alertEnd.isSome
      || poweringUp (s.modPins fun p => { p with inputMv := mv, alertInput := false })) = s.pwr.alertEnd.isSome := by
    simp [alertPin, hrail, hcur, hex.not_poweringUp]
  refine (if_pos (by simp [hin, hmv])).trans (congrArg Host.Outcome.next ?_)
  simp only [State.modPins_pwr, hnone]
  cases hsome : s.pwr.alertEnd.isSome
  · rw [if_neg Bool.false_ne_true, Bool.and_false]
    rfl
  · rw [if_pos rfl, Bool.and_true]
    rfl

/-- Settles O13: an assertion by the limit that it brings, and each end of the limit by its own equation. -/
theorem regulatorAlert : Obligations.RegulatorAlert := by
  unfold Obligations.RegulatorAlert
  intro runs
  refine ⟨fun s h hrail hcur => vralertLAssert_runs h hrail hcur, fun mv s h hwas hmv hlow => inputLow_runs h hwas hmv hlow,
    fun s h hrail hcur hal => vralertLRelease_runs h hrail hcur hal, fun n s hend hn hal hrail hcur => vralertHoldExpire_ends hend hn hal hrail hcur,
    fun mv s h hin hmv hrail hcur => inputLowRecover_ends h hin hmv hrail hcur, fun s hboot hrail hcur => ?boot, fun s hbiv hrail => ?parked⟩
  case boot =>
    rw [exec_vralertLAssert hrail, hcur, if_neg Bool.false_ne_true]
    simp only [alertAsserted, poweringUp, State.modPins_dev, hboot, beq_self_eq_true, Bool.true_or, if_true]
    rw [← hboot]
    rfl
  case parked =>
    rw [exec_vralertLAssert hrail]
    have hsame : alertAsserted (s.modPins fun p => { p with alertRail := true }) = s.modPins fun p => { p with alertRail := true } := by
      simp [alertAsserted, poweringUp, hbiv]
    rw [hsame, ite_self]
    rfl

/-! ### Rungs, droop and points (R420, R436, R437, R444; log 31) -/

theorem limitRungReturn_moves (s : State) : LeadsTo (exec .limitRungReturn s) fun t => ∀ r, r < 4 →
    if allowedRung s r < (regPwr s r).rung ∧ ((regPwr s r).lowered = 0 ∨ (regPwr s r).lowered + 4999 ≤ s.aon) then
      (regPwr t r).rung = (regPwr s r).rung - 1 ∧ (regPwr t r).lowered = s.aon + 1
    else regPwr t r = regPwr s r := by
  refine ⟨lowerRungs s, rfl, fun r hr => ?_⟩
  rw [regPwr_lowerRungs hr]
  split
  · exact ⟨moveRung_rung .., moveRung_lowered ..⟩
  · rfl

/-- The clock of a region is stretched, and that is counted. -/
def stretched (r : Nat) (s : State) : State := powerCount 1 (s.modReg r fun g => { g with stretch := true })

theorem regPwr_stretched (r : Nat) (s : State) : regPwr (stretched r s) r = { regPwr s r with stretch := true } := by
  rw [stretched, regPwr_powerCount, regPwr_modReg, if_pos rfl]

/-- The penalty of a droop of more than 1 %, before the limits are judged. -/
def penalized (r : Nat) (s : State) : State := powerCount 2 (s.modReg r fun g => { g with droopRung := g.rung + 1, droopEnd := s.aon + 50000 })

theorem exec_droopDetect {r : Fin 4} {d : Fin 16} {large : Bool} (hpll : (regPwr s r).pll = true) : exec (.droopDetect r d large) s
    = .next (if large = true ∧ (regPwr s r).rung < 20 then raiseRungs (penalized r (stretched r s)) else stretched r s) := by
  have hrung : (regPwr (stretched r s) r).rung = (regPwr s r).rung := by rw [regPwr_stretched]
  refine (if_pos hpll).trans ?_
  show Host.Outcome.next (if (large && decide ((regPwr (stretched r s) r).rung < 20)) = true then raiseRungs (penalized r (stretched r s)) else stretched r s) = _
  rw [hrung]
  simp only [Bool.and_eq_true, decide_eq_true_iff]

theorem droopDetect_small {r : Fin 4} {d : Fin 16} (hpll : (regPwr s r).pll = true) :
    LeadsTo (exec (.droopDetect r d false) s) fun t => (regPwr t r).stretch = true ∧ (regPwr t r).rung = (regPwr s r).rung
      ∧ t.pwr.count.get 0 1 = s.pwr.count.get 0 1 + 1 := by
  refine ⟨stretched r s, (exec_droopDetect hpll).trans (by simp), ?_, ?_, ?_⟩
  · rw [regPwr_stretched]
  · rw [regPwr_stretched]
  · exact count_powerCount 1 1 _

theorem droopDetect_large {r : Fin 4} {d : Fin 16} (hpll : (regPwr s r).pll = true) (hrung : (regPwr s r).rung < 20) :
    LeadsTo (exec (.droopDetect r d true) s) fun t => (regPwr t r).stretch = true ∧ (regPwr t r).droopRung = (regPwr s r).rung + 1
      ∧ (regPwr t r).droopEnd = s.aon + 50000 ∧ (regPwr s r).rung + 1 ≤ (regPwr t r).rung
      ∧ t.pwr.count.get 0 2 = s.pwr.count.get 0 2 + 1 := by
  have hown : regPwr (penalized r (stretched r s)) r
      = { regPwr s r with stretch := true, droopRung := (regPwr s r).rung + 1, droopEnd := s.aon + 50000 } := by
    rw [penalized, regPwr_powerCount, regPwr_modReg, if_pos rfl, regPwr_stretched]
    rfl
  have hle : (regPwr s r).rung + 1 ≤ allowedRung (penalized r (stretched r s)) r := by
    have h := droopRung_le_allowedRung (penalized r (stretched r s)) r
    rwa [hown] at h
  refine ⟨raiseRungs (penalized r (stretched r s)), (exec_droopDetect hpll).trans (by simp [hrung]), ?_, ?_, ?_, ?_, ?_⟩
  · rw [regPwr_raiseRungs r.isLt]
    split <;> simp [hown]
  · rw [regPwr_raiseRungs r.isLt]
    split <;> simp [hown]
  · rw [regPwr_raiseRungs r.isLt]
    split <;> simp [hown]
  · exact hle.trans (allowedRung_le_raiseRungs r.isLt _)
  · rw [count_of_restPwr (restPwr_raiseRungs _)]
    exact (count_powerCount 2 2 _).trans (congrArg (· + 1) (count_powerCount 1 2 _))

theorem currentLimitStep_free {r : Fin 4} (h : regionThrottled s r = false) :
    exec (.currentLimitStep r) s = .next (s.modReg r fun g => { g with curLimit := min 100 (g.curLimit + 5) }) := by
  show execCurrentLimitStep r s = _
  simp only [execCurrentLimitStep, h, Bool.false_eq_true, if_false]

theorem currentLimitStep_throttled {r : Fin 4} (h : regionThrottled s r = true) :
    LeadsTo (exec (.currentLimitStep r) s) fun t => (regPwr t r).curLimit = max 20 ((regPwr s r).curLimit - 5) := by
  refine ⟨_, if_pos h, ?_⟩
  split
  · rw [regPwr_raiseRungs r.isLt]
    split <;> simp [regPwr_modReg]
  · simp [regPwr_modReg]

/-- Granting a block its clock leaves the regions, and raises the level of that block alone. -/
theorem region_grantWake (b : Nat) (s : State) : (grantWake b s).pwr.region = s.pwr.region := rfl

theorem blockClock_grantWake (b : Nat) (s : State) : blockClock (grantWake b s) b = max (s.pwr.want.get 0 b) (blockClock s b) :=
  (Table.get_mod ..).trans (if_pos rfl)

theorem exec_blockWakeGrant_early {r : Fin 4} (h0 : (regPwr s r).granted ≠ 0) (hearly : s.aon < (regPwr s r).granted + 4) :
    exec (.blockWakeGrant r) s = .next s := by
  have hguard : ¬((regPwr s r).pll && ((regPwr s r).granted == 0 || decide ((regPwr s r).granted + 4 ≤ s.aon)) && !(regPwr s r).wake.isEmpty) = true := by
    simp [h0, Nat.not_le.2 hearly]
  exact if_neg hguard

theorem exec_blockWakeGrant {r : Fin 4} (hpll : (regPwr s r).pll = true) (hw : (regPwr s r).wake ≠ [])
    (hdue : (regPwr s r).granted = 0 ∨ (regPwr s r).granted + 4 ≤ s.aon) : exec (.blockWakeGrant r) s
      = .next (((regPwr s r).wake.take 4).foldl (fun s lb => grantWake (64 * r + lb) s)
          (s.modReg r fun g => { g with wake := g.wake.drop 4, granted := s.aon + 1 })) := by
  have hguard : ((regPwr s r).pll && ((regPwr s r).granted == 0 || decide ((regPwr s r).granted + 4 ≤ s.aon)) && !(regPwr s r).wake.isEmpty) = true := by
    simpa [hpll, hw] using hdue
  exact if_pos hguard

theorem blockWakeGrant_grants {r : Fin 4} (hpll : (regPwr s r).pll = true) (hw : (regPwr s r).wake ≠ [])
    (hdue : (regPwr s r).granted = 0 ∨ (regPwr s r).granted + 4 ≤ s.aon) : LeadsTo (exec (.blockWakeGrant r) s) fun t =>
      (regPwr t r).wake = (regPwr s r).wake.drop 4 ∧ (regPwr t r).granted = s.aon + 1
        ∧ ∀ lb, (regPwr s r).wake = [lb] → blockClock t (64 * r + lb) = max (s.pwr.want.get 0 (64 * r + lb)) (blockClock s (64 * r + lb)) := by
  refine ⟨_, exec_blockWakeGrant hpll hw hdue, ?_⟩
  have hreg : ∀ (l : List Nat) (u : State), regPwr (l.foldl (fun s lb => grantWake (64 * r + lb) s) u) r = regPwr u r := fun l u =>
    foldl_view (fun u => regPwr u r) (f := fun s lb => grantWake (64 * r + lb) s) (fun _ _ => rfl) l u
  refine ⟨?_, ?_, fun lb hlb => ?_⟩
  · rw [hreg]
    simp [regPwr_modReg]
  · rw [hreg]
    simp [regPwr_modReg]
  · rw [hlb]
    exact blockClock_grantWake ..

/-- Settles O14: each command by the equation of its own effect. -/
theorem rungsAndPoints : Obligations.RungsAndPoints := by
  unfold Obligations.RungsAndPoints
  refine ⟨limitRungReturn_moves, fun r d s hpll => ⟨droopDetect_small hpll, fun hrung => droopDetect_large hpll hrung, fun hrung => ?top⟩, fun r s => rfl,
    fun r s hpen hend => if_pos ⟨hpen, hend⟩, fun r s hch => if_pos hch, fun r s h => currentLimitStep_free h,
    fun r s h => currentLimitStep_throttled h, fun r s h0 hearly => exec_blockWakeGrant_early h0 hearly,
    fun r s hpll hw hdue => blockWakeGrant_grants hpll hw hdue⟩
  case top =>
    rw [exec_droopDetect hpll, exec_droopDetect hpll]
    simp [Nat.not_lt.2 hrung]

end Sys2Proof.Machine

/-! SUPPORT. Proofs of the statements about rations and the governor (O15) and about temperatures (O16). -/

namespace Sys2Proof.Machine

open Sys2Proof

variable {s t : State}

theorem FabricOnly.pwr (h : FabricOnly s t) : t.pwr = s.pwr := by rw [h.eq]

theorem FabricOnly.pins (h : FabricOnly s t) : t.pins = s.pins := by rw [h.eq]

theorem FabricOnly.therm (h : FabricOnly s t) : t.therm = s.therm := by rw [h.eq]

theorem FabricOnly.dev (h : FabricOnly s t) : t.dev = s.dev := by rw [h.eq]

theorem sendHealth_only (reason detail : Nat) (s : State) : FabricOnly s (sendHealth reason detail s) :=
  FabricOnly.ite (originate_only _ _ _) (fmMessage_only _ _ _)

/-- What both branches leave as it is, a branching leaves as it is. -/
theorem ite_view {β : Type} (view : State → β) {c : Prop} [Decidable c] {t u : State} {b : β} (ht : view t = b) (hu : view u = b) :
    view (if c then t else u) = b := by
  split <;> assumption

/-! ### What a sample of the rails adds up (R415, R438) -/

/-- The samples, the energy counts and the input voltage: what the sample itself sets, and neither a limit nor an alert touches. -/
def EnergyView (s : State) : List Nat × Nat × Nat × Nat × Nat :=
  (s.pwr.samples, s.pwr.totalPj, s.pwr.jobPj, s.pwr.reportPj, s.pins.inputMv)

theorem energyView_sampleCurrent (r ma : Nat) (s : State) : EnergyView (sampleCurrent r ma s) = EnergyView s := by
  have hraise : ∀ u, EnergyView (raiseRungs u) = EnergyView u := raiseRungs_view EnergyView fun _ _ _ => rfl
  have hlower : ∀ u, EnergyView (lowerRung r u) = EnergyView u := lowerRung_view EnergyView (fun _ _ _ => rfl) r
  exact ite_view EnergyView (hraise _) (ite_view EnergyView (ite_view EnergyView (ite_view EnergyView rfl (hlower _)) rfl) rfl)

theorem energyView_alertLimit (s : State) : EnergyView (alertLimit s) = EnergyView s := by
  refine ite_view EnergyView rfl (foldl_view EnergyView (fun u r => ?_) _ _)
  rfl

theorem energyView_alertAsserted (s : State) : EnergyView (alertAsserted s) = EnergyView s := by
  have hevent : ∀ u, EnergyView (alertEvent u) = EnergyView u :=
    alertEvent_view EnergyView (fun c k b u => by simp [EnergyView]) fun _ => rfl
  exact ite_view EnergyView rfl (ite_view EnergyView rfl ((hevent _).trans (energyView_alertLimit _)))

theorem energyView_alertReleased (s : State) : EnergyView (alertReleased s) = EnergyView s :=
  ite_view EnergyView rfl rfl

theorem energyView_inputCurrentAlert (ma : Nat) (s : State) : EnergyView (inputCurrentAlert ma s) = EnergyView s :=
  ite_view EnergyView (ite_view EnergyView rfl (ite_view EnergyView (energyView_alertAsserted _) rfl))
    (ite_view EnergyView (energyView_alertReleased _) rfl)

theorem railSample_adds (m : Rails) (hoff : s.dev ≠ .off) : LeadsTo (exec (.railSample m) s) fun t =>
    t.pwr.samples = (m.inputMv * m.inputMa / 1000 :: s.pwr.samples).take 100000
      ∧ t.pwr.totalPj = s.pwr.totalPj + m.inputMv * m.inputMa * 10 ∧ t.pwr.jobPj = s.pwr.jobPj + m.inputMv * m.inputMa * 10
      ∧ t.pwr.reportPj = s.pwr.reportPj + m.inputMv * m.inputMa * 10 ∧ t.pins.inputMv = m.inputMv := by
  refine ⟨_, if_neg (by simpa using hoff), ?_⟩
  have hview := (energyView_inputCurrentAlert m.inputMa _).trans
    (foldl_view EnergyView (fun u r => energyView_sampleCurrent r (m.vcoreMa.getD r 0) u) (List.range 4)
      (((sampleInput m.inputMv m.inputMa s).modPwr fun p =>
        { p with vsramMa := m.vsramMa, vhbmMa := m.vhbmMa, voptMa := m.voptMa, vaonMa := m.vaonMa }).modPins fun p => { p with inputMv := m.inputMv }))
  simp only [EnergyView, Prod.mk.injEq] at hview
  exact hview

/-! ### The governor (R424) -/

/-- What every tick of a governed device counts. -/
def ticked (s : State) : State := s.modPwr fun p =>
  { p with lowTicks := if 10 * inputMw s 10 < 9 * effRation s then s.pwr.lowTicks + 1 else 0, sinceMove := p.sinceMove + 1,
           underTicks := if inputMw s 10 ≤ effRation s then p.underTicks + 1 else 0,
           overTicks := if effRation s < inputMw s 10 ∧ p.rationRung = 20 then p.overTicks + 1 else 0 }

theorem governorTick_over (hg : governs s = true) (hover : effRation s < inputMw s 10) (hrung : s.pwr.rationRung < 20) : exec .governorTick s
    = .next (raiseRungs ((ticked s).modPwr fun p => { p with rationRung := min 20 (max p.rationRung (topRung s) + 1), sinceMove := 0 })) :=
  (if_pos hg).trans ((if_pos hover).trans (if_pos hrung))

theorem governorTick_raises (hg : governs s = true) (hover : effRation s < inputMw s 10) (hrung : s.pwr.rationRung < 20) :
    LeadsTo (exec .governorTick s) fun t => t.pwr.rationRung = min 20 (max s.pwr.rationRung (topRung s) + 1) ∧ t.pwr.sinceMove = 0
      ∧ t.pwr.lowTicks = if 10 * inputMw s 10 < 9 * effRation s then s.pwr.lowTicks + 1 else 0 :=
  ⟨_, governorTick_over hg hover hrung, raiseRungs_view (fun u => u.pwr.rationRung) (fun _ _ _ => rfl) _,
    raiseRungs_view (fun u => u.pwr.sinceMove) (fun _ _ _ => rfl) _, raiseRungs_view (fun u => u.pwr.lowTicks) (fun _ _ _ => rfl) _⟩

theorem governorTick_under (hg : governs s = true) (hunder : inputMw s 10 ≤ effRation s) (hrung : s.pwr.rationRung = 0) :
    exec .governorTick s = .next (ticked s) :=
  (if_pos hg).trans ((if_neg (Nat.not_lt.2 hunder)).trans (if_neg fun h => h.2.2 hrung))

theorem governorTick_counts (hg : governs s = true) (hunder : inputMw s 10 ≤ effRation s) (hrung : s.pwr.rationRung = 0) :
    LeadsTo (exec .governorTick s) fun t => t.pwr.rationRung = 0 ∧ t.pwr.underTicks = s.pwr.underTicks + 1 ∧ t.pwr.overTicks = 0 :=
  ⟨_, governorTick_under hg hunder hrung, hrung, if_pos hunder, if_neg fun h => absurd h.1 (Nat.not_lt.2 hunder)⟩

theorem governorTick_clockless (hd : s.dev = .bivouac ∨ s.dev = .fault) : exec .governorTick s = .next { s with pwr := { s.pwr with
    underTicks := if inputMw s 10 ≤ effRation s then s.pwr.underTicks + 1 else 0 } } := by
  have hg : ¬governs s = true := by rcases hd with hd | hd <;> simp [governs, hd]
  have hoff : ¬(s.dev == .off) = true := by rcases hd with hd | hd <;> simp [hd]
  exact (if_neg hg).trans (if_neg hoff)

/-! ### Rations and the floor (R422, R427 to R429) -/

theorem bringRation_brings (s : State) : (bringRation s).pwr.forceMw = newRation s ∧ (bringRation s).pwr.deadline = none :=
  ⟨ite_view (fun u => u.pwr.forceMw) rfl rfl, ite_view (fun u => u.pwr.deadline) rfl rfl⟩

theorem rationDeadline_brings {n : Nat} (hdl : s.pwr.deadline = some n) (hn : n ≤ s.aon) : LeadsTo (exec .rationDeadline s) fun t =>
    t.pwr.forceMw = min (min s.pwr.hostMw s.pwr.mctpMw) 3200000 ∧ t.pwr.deadline = none := by
  have hrun : exec .rationDeadline s = .next (bringRation s) := by
    show execRationDeadline s = _
    rw [execRationDeadline, hdl]
    exact if_pos hn
  exact ⟨_, hrun, bringRation_brings s⟩

/-- The state at the start of an episode, before it is told. -/
def floorStarted (s : State) : State := powerCount 3 (s.modPwr fun p =>
  { p with floorOn := true, graceEnd := some (s.aon + 50000 * p.graceMs), underTicks := 0 })

theorem floorEpisodeStart_starts (hg : governs s = true) (hoff : s.pwr.floorOn = false) (hrung : s.pwr.rationRung = 20) (hover : 10 ≤ s.pwr.overTicks) :
    LeadsTo (exec .floorEpisodeStart s) fun t => t.pwr.floorOn = true ∧ t.pwr.graceEnd = some (s.aon + 50000 * s.pwr.graceMs)
      ∧ t.pwr.count.get 0 3 = s.pwr.count.get 0 3 + 1 := by
  refine ⟨_, if_pos (by simp [hg, hoff, hrung, hover]), ?_⟩
  beta_reduce
  rw [(sendHealth_only 5 0 _).pwr, raiseEvent_pwr]
  exact ⟨rfl, rfl, count_powerCount 3 3 _⟩

theorem floorEpisodeEnd_ends (hon : s.pwr.floorOn = true) (hunder : 100 ≤ s.pwr.underTicks) : LeadsTo (exec .floorEpisodeEnd s) fun t =>
    t.pwr.floorOn = false ∧ t.pwr.graceEnd = none ∧ t.pwr.parkGrace = false :=
  ⟨endFloor s, if_pos (by simp [hon, hunder]), rfl, rfl, rfl⟩

theorem graceExpire_asks {n : Nat} (hend : s.pwr.graceEnd = some n) (hn : n ≤ s.aon) (hrun : s.dev = .run) : LeadsTo (exec .graceExpire s) fun t =>
    t.pwr.graceEnd = none ∧ t.pwr.parkPending = true ∧ t.pwr.parkGrace = true ∧ t.dev = .run := by
  have hgo : exec .graceExpire s = .next (raiseRungs (s.modPwr fun p => { p with graceEnd := none, parkPending := true, parkGrace := true })) := by
    show execGraceExpire s = _
    rw [execGraceExpire, hend]
    exact (if_pos hn).trans (if_pos (by simp [hrun]))
  exact ⟨_, hgo, raiseRungs_view (fun u => u.pwr.graceEnd) (fun _ _ _ => rfl) _, raiseRungs_view (fun u => u.pwr.parkPending) (fun _ _ _ => rfl) _,
    raiseRungs_view (fun u => u.pwr.parkGrace) (fun _ _ _ => rfl) _, (raiseRungs_view State.dev (fun _ _ _ => rfl) _).trans hrun⟩

theorem bits_high (v : W32) : bits v.toNat 31 16 = v.toNat / 65536 := by
  have := v.isLt
  simp only [bits]
  omega

theorem pwrCfgWrite_takes {v : W32} (hlink : s.host.linkUp = true) (hoff : s.dev ≠ .off) (hboot : s.dev ≠ .boot) (hlo : 100 ≤ v.toNat / 65536)
    (hhi : v.toNat / 65536 ≤ 60000) : LeadsTo (exec (.pwrCfgWrite v) s) fun t => t.pwr.graceMs = v.toNat / 65536 := by
  have hw : hostWrites s false = true := by simp [hostWrites, hlink, hoff, hboot]
  refine ⟨writePwrCfg v.toNat s, congrArg Host.Outcome.next (if_pos hw), ?_⟩
  rw [writePwrCfg, bits_high]
  exact congrArg (fun u : State => u.pwr.graceMs) (if_pos ⟨hlo, hhi⟩)

/-- Settles O15: what adds up is a view that no limit and no alert changes; the rest is each command's own equation. -/
theorem rationsAndGovernor : Obligations.RationsAndGovernor := by
  unfold Obligations.RationsAndGovernor
  exact ⟨fun m s hoff => railSample_adds m hoff, fun s hg hover hrung => governorTick_raises hg hover hrung,
    fun s hg hunder hrung => governorTick_counts hg hunder hrung, fun s hd => governorTick_clockless hd,
    fun n s hdl hn => rationDeadline_brings hdl hn, fun s hg hoff hrung hover => floorEpisodeStart_starts hg hoff hrung hover,
    fun s hon hunder => floorEpisodeEnd_ends hon hunder, fun n s hend hn hrun => graceExpire_asks hend hn hrun,
    fun v s hlink hoff hboot hlo hhi => pwrCfgWrite_takes hlink hoff hboot hlo hhi⟩

/-! ### Temperatures (R440 to R443) -/

/-- What the levels are compared with, and the prediction. -/
structure TempView where
  node : Table Int
  sensor : Table Int
  fault : Bool
  shutdownIn : Option Nat

def tempView (s : State) : TempView := ⟨s.therm.node, s.therm.sensor, s.therm.modelFault, s.therm.shutdownIn⟩

def TempView.temp (v : TempView) (l : Nat) : Int :=
  if v.fault then hottest v.sensor (locSensors l) + 80 else hottest v.node (locNodes l)

theorem locTemp_view (s : State) (l : Nat) : locTemp s l = (tempView s).temp l := rfl

theorem atShutdown_congr (h : tempView t = tempView s) : atShutdown t = atShutdown s := by
  have htemp : ∀ l, locTemp t l = locTemp s l := fun l => by rw [locTemp_view, locTemp_view, h]
  simp only [atShutdown, htemp]

/-- Telling a crossing leaves the thermal state. -/
theorem judgeLocation_therm (l : Nat) (s : State) : (judgeLocation l s).therm = { s.therm with
    warn := s.therm.warn.set false l (levelFlag (s.therm.warn.get false l) (locTemp s l) (locLevels l).1 (locLevels l).2.2.2)
    throttle := s.therm.throttle.set false l (levelFlag (s.therm.throttle.get false l) (locTemp s l) (locLevels l).2.1 (locLevels l).2.2.2) } :=
  ite_view State.therm ((raiseEvent_therm ..).trans (ite_view State.therm (raiseEvent_therm ..) rfl))
    (ite_view State.therm (raiseEvent_therm ..) rfl)

theorem judgeLocation_dev (l : Nat) (s : State) : (judgeLocation l s).dev = s.dev :=
  ite_view State.dev ((raiseEvent_dev ..).trans (ite_view State.dev (raiseEvent_dev ..) rfl)) (ite_view State.dev (raiseEvent_dev ..) rfl)

theorem tempView_judgeLocation (l : Nat) (s : State) : tempView (judgeLocation l s) = tempView s := by
  simp only [tempView, judgeLocation_therm]

/-- The temperatures and the warning flag of location `l`. -/
def warnView (l : Nat) (s : State) : TempView × Bool := (tempView s, s.therm.warn.get false l)

/-- The flag after its comparison. -/
def warned (l : Nat) (x : TempView × Bool) : TempView × Bool := (x.1, levelFlag x.2 (x.1.temp l) (locLevels l).1 (locLevels l).2.2.2)

theorem warnView_judgeLocation (l k : Nat) (s : State) : warnView l (judgeLocation k s) = if l = k then warned l (warnView l s) else warnView l s := by
  by_cases h : l = k
  · subst h
    simp [warnView, warned, tempView_judgeLocation, judgeLocation_therm, locTemp_view]
  · simp [warnView, tempView_judgeLocation, judgeLocation_therm, h, Table.get_set_other]

theorem warnView_judgeLocations {l : Nat} (hl : l < 16) (s : State) : warnView l (judgeLocations s) = warned l (warnView l s) := by
  have hloop := foldl_view_own (warnView l) (warned l) (r := l) (step := fun s l => judgeLocation l s)
    (fun u k hk => (warnView_judgeLocation l k u).trans (if_neg (Ne.symm hk))) (fun u => (warnView_judgeLocation l l u).trans (if_pos rfl))
    (List.nodup_range (n := 16)) s
  rwa [if_pos (List.mem_range.2 hl)] at hloop

/-- The refresh rates follow the estimates, and feed-forward follows the rings: neither touches the thermal state. -/
theorem judgeRefresh_view {β : Type} (view : State → β) (h : ∀ f u, view (State.modHbm f u) = view u) (s : State) : view (judgeRefresh s) = view s := by
  refine foldl_view view (fun u k => ?_) _ s
  exact h _ u

theorem feedForwards_view {β : Type} (view : State → β) (h : ∀ k f u, view (State.modPos k f u) = view u) (rings : List (Fin 1088 × Int)) (s : State) :
    view (rings.foldl (fun s (k, mK) => feedForward k.val mK s) s) = view s := by
  refine foldl_view view (fun u k => ?_) _ s
  exact h _ _ u

/-- The state that an update brings, before shutdown is judged. -/
def updated (est : ThermEst) (s : State) : State :=
  est.rings.foldl (fun s (k, mK) => feedForward k.val mK s) (judgeRefresh (judgeLocations (takeEstimates est s)))

theorem updated_view {β : Type} (view : State → β) (hhbm : ∀ f u, view (State.modHbm f u) = view u) (hpos : ∀ k f u, view (State.modPos k f u) = view u)
    (est : ThermEst) (s : State) : view (updated est s) = view (judgeLocations (takeEstimates est s)) :=
  (feedForwards_view view hpos _ _).trans (judgeRefresh_view view hhbm _)

theorem updated_dev (est : ThermEst) (s : State) : (updated est s).dev = s.dev :=
  (updated_view State.dev (fun _ _ => rfl) (fun _ _ _ => rfl) est s).trans (foldl_view State.dev (fun u l => judgeLocation_dev l u) _ _)

theorem tempView_updated (est : ThermEst) (s : State) : tempView (updated est s) = tempView (takeEstimates est s) :=
  (updated_view tempView (fun _ _ => rfl) (fun _ _ _ => rfl) est s).trans (foldl_view tempView (fun u l => tempView_judgeLocation l u) _ _)

theorem warn_updated {l : Nat} (hl : l < 16) (est : ThermEst) (s : State) : (updated est s).therm.warn.get false l
    = levelFlag (s.therm.warn.get false l) (locTemp (takeEstimates est s) l) (locLevels l).1 (locLevels l).2.2.2 := by
  have h := (updated_view (warnView l) (fun _ _ => rfl) (fun _ _ _ => rfl) est s).trans (warnView_judgeLocations hl _)
  exact congrArg Prod.snd h

/-- Where no location is at its shutdown level and no shutdown is predicted, nothing stops. -/
theorem judgeShutdown_none (hcool : atShutdown s = false) (hnone : s.therm.shutdownIn = none) : judgeShutdown s = s := by
  simp [judgeShutdown, hcool, hnone]

theorem thermalModelUpdate_takes {est : ThermEst} (hd : s.dev = .ready ∨ s.dev = .run) (hcal : s.therm.cal.isSome = true) (hnone : est.shutdownIn = none)
    (hcool : atShutdown (takeEstimates est s) = false) : LeadsTo (exec (.thermalModelUpdate est) s) fun t => t.dev = s.dev
      ∧ t.therm.node = (takeEstimates est s).therm.node
      ∧ ∀ l, l < 16 → t.therm.warn.get false l
          = levelFlag (s.therm.warn.get false l) (locTemp (takeEstimates est s) l) (locLevels l).1 (locLevels l).2.2.2 := by
  have hruns : ¬(!modelRuns s) = true := by rcases hd with hd | hd <;> simp [modelRuns, hd, hcal]
  have hview := tempView_updated est s
  have hstay : judgeShutdown (updated est s) = updated est s :=
    judgeShutdown_none ((atShutdown_congr hview).trans hcool) ((congrArg TempView.shutdownIn hview).trans hnone)
  exact ⟨updated est s, (if_neg hruns).trans (congrArg Host.Outcome.next hstay), updated_dev est s, congrArg TempView.node hview,
    fun l hl => warn_updated hl est s⟩

/-! ### Readings (R441) -/

/-- The thermal state after one reading. -/
def Thermal.taking (m : Thermal) (runs : Bool) (v : SensorVal) : Thermal :=
  let m := { m with sensor := m.sensor.set 0 v.sensor v.deciC }
  let n := sensorNode v.sensor
  if runs then { m with offset := m.offset.mod 0 n (· + (v.deciC - m.node.get 0 n)), node := m.node.set 0 n v.deciC } else m

theorem takeReading_eq (v : SensorVal) (s : State) : takeReading v s = s.modTherm fun m => m.taking (modelRuns s) v := rfl

/-- Taking readings sets readings and estimates, and nothing else. -/
theorem takeReadings_view {β : Type} (view : State → β)
    (h : ∀ (u : State) f, (∀ m : Thermal, (f m).modelFault = m.modelFault ∧ (f m).agree = m.agree) → view (u.modTherm f) = view u)
    (rs : List SensorVal) (s : State) : view (rs.foldl (fun s v => takeReading v s) s) = view s := by
  refine foldl_view view (fun u v => ?_) rs s
  rw [takeReading_eq]
  refine h u _ fun m => ?_
  unfold Thermal.taking
  split <;> exact ⟨rfl, rfl⟩

theorem allRead_iff (rs : List SensorVal) : allRead rs = true ↔ ∀ k : Fin 81, ∃ v ∈ rs, v.sensor = k := by
  simp only [allRead, List.all_eq_true, List.mem_range, List.any_eq_true, beq_iff_eq]
  exact ⟨fun h k => (h k.val k.isLt).imp fun v hv => ⟨hv.1, Fin.ext hv.2⟩, fun h k hk => (h ⟨k, hk⟩).imp fun v hv => ⟨hv.1, congrArg Fin.val hv.2⟩⟩

/-- What the event of a model fault tells. -/
def gapBody (s : State) (v : SensorVal) : List Byte :=
  leBytes 1 (match sensorLoc v.sensor with | some l => locRegion l | none => 0) ++ leBytes 1 v.sensor
    ++ leBytes 1 (twos 8 (s.therm.node.get 0 (sensorNode v.sensor) / 10)) ++ leBytes 1 (twos 8 (v.deciC / 10))

theorem sensorRead_far {v : SensorVal} (hoff : s.dev ≠ .off) (hcal : s.therm.cal.isSome = true) (hfault : s.therm.modelFault = false)
    (hgap : 80 < readingGap s v) : exec (.sensorRead [v]) s = .next (raiseEvent 0x63 0 (gapBody s v) (raiseRungs (powerCount 5
      (((takeReading v s).modTherm fun m => { m with agree := 0 }).modTherm fun m => { m with modelFault := true })))) := by
  have hruns : modelRuns s = true := by simp [modelRuns, hoff, hcal]
  have hfar : [v].find? (fun v => decide (80 < readingGap s v)) = some v := by simp [hgap]
  have hnear : (modelRuns s && allRead [v] && [v].all fun v => decide (readingGap s v ≤ 40)) = false := by
    simp
    omega
  have hnot : ¬((takeReading v s).modTherm fun m => { m with agree := 0 }).therm.modelFault = true := by
    simp [takeReading, hruns, hfault]
  refine (if_neg (by simpa using hoff)).trans ?_
  rw [hnear, hruns, if_pos rfl, hfar]
  simp only [List.foldl_cons, List.foldl_nil, Bool.false_eq_true, if_false]
  exact if_neg hnot

theorem sensorRead_faults {v : SensorVal} (hoff : s.dev ≠ .off) (hcal : s.therm.cal.isSome = true) (hfault : s.therm.modelFault = false)
    (hgap : 80 < readingGap s v) : LeadsTo (exec (.sensorRead [v]) s) fun t => t.therm.modelFault = true ∧ t.therm.sensor.get 0 v.sensor = v.deciC
      ∧ t.therm.node.get 0 (sensorNode v.sensor) = v.deciC ∧ t.therm.agree = 0 ∧ t.pwr.count.get 0 5 = s.pwr.count.get 0 5 + 1 := by
  have hruns : modelRuns s = true := by simp [modelRuns, hoff, hcal]
  refine ⟨_, sensorRead_far hoff hcal hfault hgap, ?_⟩
  simp only [raiseEvent_therm, raiseEvent_pwr, raiseRungs_view State.therm fun _ _ _ => rfl, count_of_restPwr (restPwr_raiseRungs _), count_powerCount]
  simp [takeReading, hruns, powerCount]

theorem sensorRead_near {rs : List SensorVal} (hoff : s.dev ≠ .off) (hcal : s.therm.cal.isSome = true) (hgap : ∀ v ∈ rs, readingGap s v ≤ 40) :
    exec (.sensorRead rs) s
      = .next ((rs.foldl (fun s v => takeReading v s) s).modTherm fun m => { m with agree := if allRead rs then m.agree + 1 else 0 }) := by
  have hruns : modelRuns s = true := by simp [modelRuns, hoff, hcal]
  have hfar : rs.find? (fun v => decide (80 < readingGap s v)) = none := by
    simp only [List.find?_eq_none, decide_eq_true_iff]
    intro v hv
    have := hgap v hv
    omega
  have hnear : (modelRuns s && allRead rs && rs.all fun v => decide (readingGap s v ≤ 40)) = allRead rs := by
    have hall : (rs.all fun v => decide (readingGap s v ≤ 40)) = true := by simpa using hgap
    rw [hruns, hall, Bool.true_and, Bool.and_true]
  refine (if_neg (by simpa using hoff)).trans ?_
  simp only [hruns, if_true, hfar]
  rw [← hruns, hnear]

theorem sensorRead_agrees {rs : List SensorVal} (hoff : s.dev ≠ .off) (hcal : s.therm.cal.isSome = true) (hgap : ∀ v ∈ rs, readingGap s v ≤ 40) :
    LeadsTo (exec (.sensorRead rs) s) fun t => t.therm.modelFault = s.therm.modelFault
      ∧ t.therm.agree = if (∀ k : Fin 81, ∃ v ∈ rs, v.sensor = k) then s.therm.agree + 1 else 0 := by
  have hfault : (rs.foldl (fun s v => takeReading v s) s).therm.modelFault = s.therm.modelFault :=
    takeReadings_view (fun u => u.therm.modelFault) (fun u f hf => (hf u.therm).1) rs s
  have hagree : (rs.foldl (fun s v => takeReading v s) s).therm.agree = s.therm.agree :=
    takeReadings_view (fun u => u.therm.agree) (fun u f hf => (hf u.therm).2) rs s
  refine ⟨_, sensorRead_near hoff hcal hgap, hfault, ?_⟩
  simp only [State.modTherm_therm, hagree, allRead_iff]

theorem sensorRead_unmodelled {v : SensorVal} (hoff : s.dev ≠ .off) (hcal : s.therm.cal = none) : exec (.sensorRead [v]) s
    = .next { s with therm := { s.therm with sensor := s.therm.sensor.set 0 v.sensor v.deciC, agree := 0 } } := by
  have hruns : modelRuns s = false := by simp [modelRuns, hcal]
  refine (if_neg (by simpa using hoff)).trans ?_
  simp only [hruns, Bool.false_eq_true, if_false, Bool.false_and, List.foldl_cons, List.foldl_nil, takeReading]
  rfl

/-! ### Thermal stops (R447, R448) -/

/-- The rails go, and with them what they held. -/
def railsGone (s : State) : State :=
  let s := (stopPlls (lightsOut s)).modPins fun p => { p with vcore := false, vopt := false, vsram := false, vhbm := false, thermtrip := true }
  ((s.modBlks fun b => { b with blk := [] }).modHbm fun h => { h with dram := [], poison := [], bad := [], wcb := [] }).modOe
    fun o => { o with eng := [], txTest := [] }

theorem railsGone_dev (s : State) : (railsGone s).dev = s.dev := by
  have hlights : (lightsOut s).dev = s.dev := congrArg Standing.dev (standing_lightsOut s)
  simp only [railsGone, State.modOe_dev, State.modHbm_dev, State.modBlks_dev, State.modPins_dev, stopPlls_dev, hlights]

theorem thermalStop_eq (orderly : Bool) (s : State) : thermalStop orderly s = recordFatal { level := 3, cls := 3, code := 0x407, detail := bitAt orderly 0 }
    (railsGone (if orderly then selfRefresh (enterFault s) else enterFault s)) := rfl

theorem thermalStop_stops (orderly : Bool) (s : State) : (thermalStop orderly s).dev = .fault ∧ (thermalStop orderly s).pins.thermtrip = true
    ∧ (thermalStop orderly s).pins.vcore = false := by
  have hfault : (enterFault s).dev = .fault := congrArg Standing.dev (standing_enterFault s)
  have hgone := recordFatal_only { level := 3, cls := 3, code := 0x407, detail := bitAt orderly 0 }
    (railsGone (if orderly then selfRefresh (enterFault s) else enterFault s))
  rw [thermalStop_eq, hgone.dev, hgone.pins, railsGone_dev]
  exact ⟨ite_view State.dev ((selfRefresh_dev _).trans hfault) hfault, rfl, rfl⟩

theorem sensorLoc_baseDie {k : Nat} (hlo : 32 ≤ k) (hhi : k < 40) : sensorLoc k = some 4 := by
  rw [sensorLoc, if_neg (by omega), if_pos (by omega)]
  congr 1
  omega

/-- A sensor of any other location. -/
theorem sensorLoc_other {k : Nat} (h : k < 32 ∨ (40 ≤ k ∧ k < 80)) : ∃ l, sensorLoc k = some l ∧ l ≠ 4 := by
  unfold sensorLoc
  split
  · exact ⟨_, rfl, by omega⟩
  · split
    · exact ⟨_, rfl, by omega⟩
    · rw [if_pos (by omega)]
      exact ⟨_, rfl, by omega⟩

theorem comparatorTrip_powersDown {k : Fin 81} (hoff : s.dev ≠ .off) (hvaon : s.pins.vaon = true) (hlo : 32 ≤ k.val) (hhi : k.val < 40) :
    LeadsTo (exec (.thermalComparatorTrip k) s) fun t => t.dev = .off := by
  have hloc := sensorLoc_baseDie hlo hhi
  exact ⟨powerDown s, (if_neg (by simp [hoff, hloc])).trans (if_pos (by simp [hloc, hvaon])), rfl⟩

theorem comparatorTrip_stops {k : Fin 81} (hd : s.dev = .ready ∨ s.dev = .run) (hk : k.val < 32 ∨ (40 ≤ k.val ∧ k.val < 80)) :
    LeadsTo (exec (.thermalComparatorTrip k) s) fun t => t.dev = .fault ∧ t.pins.thermtrip = true ∧ t.pins.vcore = false := by
  obtain ⟨l, hloc, hl⟩ := sensorLoc_other hk
  have hoff : ¬(s.dev == .off || (sensorLoc k).isNone) = true := by rcases hd with hd | hd <;> simp [hd, hloc]
  have hbase : ¬(sensorLoc k == some 4 && s.pins.vaon) = true := by simp [hloc, hl]
  have hstopped : ¬(s.dev == .fault && s.pins.thermtrip) = true := by rcases hd with hd | hd <;> simp [hd]
  exact ⟨thermalStop false s, (if_neg hoff).trans ((if_neg hbase).trans (if_neg hstopped)), thermalStop_stops false s⟩

theorem thermalHoldClear_clears {rs : List SensorVal} (hboot : s.dev = .boot) (hperst : s.pins.perst = false) (hst : s.idn.st = 2) :
    LeadsTo (exec (.thermalHoldClear rs) s) fun t => t.idn.st = if anyHot (romReads rs s) = false ∧ allRead rs = true then 1 else 2 := by
  refine ⟨_, if_pos (by simp [bootAt, hboot, hperst, hst]), ?_⟩
  cases anyHot (romReads rs s) <;> cases allRead rs <;> simp [romReads, hst]

/-- Settles O16: an update is a run of views over the locations; readings, comparators and the hold by each one's equation. -/
theorem thermalReadings : Obligations.ThermalReadings := by
  unfold Obligations.ThermalReadings
  exact ⟨fun est s hd hcal hnone hcool => thermalModelUpdate_takes hd hcal hnone hcool,
    fun v s hoff hcal hfault hgap => sensorRead_faults hoff hcal hfault hgap, fun rs s hoff hcal hgap => sensorRead_agrees hoff hcal hgap,
    fun v s hoff hcal => sensorRead_unmodelled hoff hcal, fun s hfault hagree => if_pos (by simp [hfault, hagree]),
    fun k s hoff hvaon hlo hhi => comparatorTrip_powersDown hoff hvaon hlo hhi, fun k s hd hk => comparatorTrip_stops hd hk,
    fun rs s hboot hperst hst => thermalHoldClear_clears hboot hperst hst⟩

end Sys2Proof.Machine

/-! SUPPORT. Proof of the statement about the boot sequence (O27). -/

namespace Sys2Proof.Machine

open Sys2Proof

variable {s : State}

theorem bootAt_of {st : Nat} (h : s.dev = .boot ∧ s.pins.perst = false ∧ s.idn.st = st) : bootAt s st = true := by
  obtain ⟨hdev, hperst, hst⟩ := h
  simp [bootAt, hdev, hperst, hst]

/-! ### Self-test (R448, R497, R507) -/

theorem anyHot_measureBoot (s : State) : anyHot (measureBoot s) = anyHot s := rfl

theorem selftest_sound {rs : List SensorVal} (h : bootAt s 0 = true) : exec (.selftestComplete true rs) s
    = .next ((measureBoot (romReads rs s)).modIdn fun d => { d with st := if anyHot (romReads rs s) || !allRead rs then 2 else 1 }) :=
  if_pos h

theorem measureBoot_meas (s : State) : (measureBoot s).idn.meas.get [] 1 = beBytes 32 Config.romHash.toNat
    ∧ (measureBoot s).idn.meas.get [] 5 = otpBytes s 0 8 ++ otpBytes s 8 4 ++ zeros 20
    ∧ (measureBoot s).idn.meas.get [] 2 = sha256 (otpBytes s 0x40 128 ++ leBytes 1 s.idn.revoked ++ leBytes 8 s.idn.svnFuses) := by
  simp only [measureBoot, putMeas, State.modIdn_idn, Table.get_set]
  exact ⟨rfl, rfl, rfl⟩

theorem romReads_idn (rs : List SensorVal) (s : State) : (romReads rs s).idn = s.idn := rfl

theorem otpBytes_romReads (rs : List SensorVal) (s : State) (a n : Nat) : otpBytes (romReads rs s) a n = otpBytes s a n := rfl

/-- The boot step stands apart from the measurements. -/
theorem meas_setSt (n : Nat) (s : State) : (s.modIdn fun d => { d with st := n }).idn.meas = s.idn.meas := rfl

theorem selftest_passes {rs : List SensorVal} (h : s.dev = .boot ∧ s.pins.perst = false ∧ s.idn.st = 0) :
    LeadsTo (exec (.selftestComplete true rs) s) fun t => t.dev = .boot
      ∧ t.idn.st = (if anyHot (romReads rs s) = true ∨ allRead rs = false then 2 else 1)
      ∧ t.idn.meas.get [] 1 = beBytes 32 Config.romHash.toNat ∧ t.idn.meas.get [] 5 = otpBytes s 0 8 ++ otpBytes s 8 4 ++ zeros 20
      ∧ t.idn.meas.get [] 2 = sha256 (otpBytes s 0x40 128 ++ leBytes 1 s.idn.revoked ++ leBytes 8 s.idn.svnFuses) := by
  refine ⟨_, selftest_sound (bootAt_of h), h.1, ?_, ?_⟩
  · simp only [State.modIdn_idn, Bool.or_eq_true, Bool.not_eq_true']
  · have h := measureBoot_meas (romReads rs s)
    rw [otpBytes_romReads, otpBytes_romReads, otpBytes_romReads, romReads_idn] at h
    rwa [meas_setSt]

theorem selftest_fails {rs : List SensorVal} (h : bootAt s 0 = true) :
    LeadsTo (exec (.selftestComplete false rs) s) fun t => t.dev = .fault ∧ t.idn.st = 7 :=
  ⟨_, if_pos h, rfl, rfl⟩

/-! ### GO (R498) -/

/-- An attempt is counted. -/
def attempted (s : State) : State := s.modIdn fun d => { d with attempts := min 65535 (d.attempts + 1) }

theorem exec_go {v : W32} (hlink : s.host.linkUp = true) (hboot : s.dev = .boot) (hgo : bit v.toNat 31 = true) : exec (.go v) s
    = .next (if s.idn.st = 2 ∨ s.idn.st = 1 ∧ anyHot s then (attempted s).modIdn fun d => { d with st := 2, result := 8 }
        else if s.idn.st = 1 then (attempted s).modIdn fun d => { d with st := 3, len := bits v.toNat 22 0 }
        else (attempted s).modIdn fun d => { d with result := 9 }) := by
  have hw : hostWrites s true = true := by simp [hostWrites, hlink, hboot]
  have hgo' : ¬(!bit v.toNat 31) = true := by simp [hgo]
  exact congrArg Host.Outcome.next ((if_pos hw).trans (if_neg hgo'))

theorem go_loads {v : W32} (hlink : s.host.linkUp = true) (hboot : s.dev = .boot) (hgo : bit v.toNat 31 = true) (hst : s.idn.st = 1)
    (hcool : anyHot s = false) : exec (.go v) s
      = .next { s with idn := { s.idn with attempts := min 65535 (s.idn.attempts + 1), st := 3, len := v.toNat % 2 ^ 23 } } := by
  have hlen : bits v.toNat 22 0 = v.toNat % 2 ^ 23 := by simp [bits]
  rw [exec_go hlink hboot hgo, if_neg (by simp [hst, hcool]), if_pos hst, hlen]
  rfl

theorem go_refused {v : W32} (hlink : s.host.linkUp = true) (hboot : s.dev = .boot) (hgo : bit v.toNat 31 = true)
    (h : s.idn.st = 2 ∨ s.idn.st = 1 ∧ anyHot s = true) : exec (.go v) s
      = .next { s with idn := { s.idn with attempts := min 65535 (s.idn.attempts + 1), st := 2, result := 8 } } := by
  rw [exec_go hlink hboot hgo, if_pos h]
  rfl

theorem go_elsewhere {v : W32} (hlink : s.host.linkUp = true) (hboot : s.dev = .boot) (hgo : bit v.toNat 31 = true) (h1 : s.idn.st ≠ 1)
    (h2 : s.idn.st ≠ 2) : exec (.go v) s = .next { s with idn := { s.idn with attempts := min 65535 (s.idn.attempts + 1), result := 9 } } := by
  rw [exec_go hlink hboot hgo, if_neg (by simp [h1, h2]), if_neg h1]
  rfl

/-! ### The image (R499 to R501) -/

/-- The state in which an image that has passed every check starts. -/
def imageStarts (b : List Byte) (s : State) : State :=
  (putMeas 4 (slice b 12 4 ++ slice b 16 1 ++ slice b 17 1 ++ zeros 26)
      (putMeas 3 (sha256 (signedPart b)) (s.modTherm fun m => { m with cal := some (Config.thermalCal b) }))).modIdn fun d =>
    { d with st := 5, result := 1, image := b, version := field b 12 4, svn := field b 16 1, keyIndex := field b 17 1 }

theorem exec_imageCopyComplete {e : Bool} (h : bootAt s 3 = true) : exec (.imageCopyComplete e) s
    = .next (if imageResult s e (s.hostMem.readN s.idn.src s.idn.len) = 1 then imageStarts (s.hostMem.readN s.idn.src s.idn.len) s
        else s.modIdn fun d => { d with st := 1, result := imageResult s e (s.hostMem.readN s.idn.src s.idn.len), image := [] }) := by
  refine (if_pos h).trans ?_
  rw [apply_ite Host.Outcome.next]
  rfl

theorem imageStarts_meas (b : List Byte) (s : State) : (imageStarts b s).idn.meas.get [] 3 = sha256 (slice b 0 128 ++ b.drop 256)
    ∧ (imageStarts b s).idn.meas.get [] 4 = slice b 12 4 ++ slice b 16 1 ++ slice b 17 1 ++ zeros 26 := by
  simp only [imageStarts, putMeas, State.modIdn_idn, Table.get_set]
  exact ⟨rfl, rfl⟩

theorem imageCopyComplete_verifies {e : Bool} (h : bootAt s 3 = true) :
    let b := s.hostMem.readN s.idn.src s.idn.len
    let res := imageResult s e b
    LeadsTo (exec (.imageCopyComplete e) s) fun t => t.idn.result = res
      ∧ if res = 1 then t.idn.st = 5 ∧ t.idn.image = b
          ∧ t.idn.version = field b 12 4 ∧ t.idn.svn = field b 16 1 ∧ t.idn.keyIndex = field b 17 1
          ∧ t.idn.meas.get [] 3 = sha256 (slice b 0 128 ++ b.drop 256)
          ∧ t.idn.meas.get [] 4 = slice b 12 4 ++ slice b 16 1 ++ slice b 17 1 ++ zeros 26
          ∧ t = { s with idn := t.idn, therm := { s.therm with cal := some (Config.thermalCal b) } }
        else t = { s with idn := { s.idn with st := 1, result := res, image := [] } } := by
  intro b res
  have hrun := exec_imageCopyComplete (e := e) h
  by_cases hres : res = 1
  · obtain ⟨h3, h4⟩ := imageStarts_meas b s
    refine ⟨imageStarts b s, hrun.trans (congrArg Host.Outcome.next (if_pos hres)), hres.symm, ?_⟩
    rw [if_pos hres]
    exact ⟨rfl, rfl, rfl, rfl, rfl, h3, h4, rfl⟩
  · refine ⟨_, hrun.trans (congrArg Host.Outcome.next (if_neg hres)), rfl, ?_⟩
    rw [if_neg hres]
    rfl

/-! ### Bring-up (R193, R207, R506) -/

/-- The flags of channels after those of a list that satisfy `q` have been set. -/
theorem get_setAll {q : Nat → Prop} [DecidablePred q] (l : List Nat) (t : Table Bool) (k : Nat) :
    (l.foldl (fun t c => if q c then t.set false c true else t) t).get false k = true ↔ t.get false k = true ∨ k ∈ l ∧ q k := by
  induction l generalizing t with
  | nil => simp
  | cons c l ih =>
    rw [List.foldl_cons, ih, List.mem_cons]
    by_cases hq : q c
    · rw [if_pos hq]
      by_cases hkc : k = c
      · subst hkc
        simp [hq]
      · simp [Table.get_set_other _ _ _ hkc, hkc]
    · rw [if_neg hq]
      by_cases hkc : k = c
      · subst hkc
        simp [hq]
      · simp [hkc]

/-- A flag of the channels that `bringRegion` sets for each of its region's that did not train. -/
theorem flag_bringRegions (flag : Hbm → Table Bool) (bad : List Nat)
    (hflag : ∀ r (u : State), flag (bringRegion bad r u).hbm = bad.foldl (fun t c => if c / 64 = r then t.set false c true else t) (flag u.hbm))
    (rs : List Nat) (s : State) (k : Nat) : (flag (rs.foldl (fun s r => bringRegion bad r s) s).hbm).get false k = true
      ↔ (flag s.hbm).get false k = true ∨ k ∈ bad ∧ k / 64 ∈ rs := by
  induction rs generalizing s with
  | nil => simp
  | cons r rs ih =>
    rw [List.foldl_cons, ih, hflag, get_setAll (q := fun c => c / 64 = r), List.mem_cons]
    tauto

/-- HBM before its regions are brought up: zero, and no channel failed. -/
def hbmCleared (s : State) : State :=
  s.modHbm fun h => { h with dram := [], poison := [], bad := [], wcb := [], chanFailed := [], chanMapout := [] }

/-- The regions' memory is up. -/
def memoryUp (bad : List Nat) (s : State) : State := (List.range 4).foldl (fun s r => bringRegion bad r s) (hbmCleared s)

/-- Every part of the state that training does not touch is as it was. -/
theorem memoryUp_view {β : Type} (view : State → β) (h : ∀ f u, view (State.modHbm f u) = view u) (bad : List Nat) (s : State) :
    view (memoryUp bad s) = view s := by
  refine (foldl_view view (fun u r => ?_) _ _).trans (h _ _)
  unfold bringRegion
  exact h _ u

/-- The state before the device enters READY. -/
def clocksUp (bad : List Nat) (s : State) : State :=
  ((startClocks (memoryUp bad s)).modIdn fun d => { d with st := 6 }).modMem
    fun m => { m with renewAt := (startClocks (memoryUp bad s)).aon + 50000 * m.renewMs }

/-- The state at the end of bring-up. -/
def broughtUp (bad : List Nat) (s : State) : State := enterReady (clocksUp bad s)

theorem exec_bringupComplete {cs : List (Fin 256)} (hat : bootAt s 5 = true) (hstarted : enginesStarted s = true) :
    exec (.bringupComplete cs) s = .next (broughtUp (cs.map fun c => c.val) s) :=
  if_pos (by rw [hat, hstarted]; rfl)

theorem enginesStarted_of (h : ∀ k, k < 8 → (s.oe.eng.get {} k).st ≠ 0) : enginesStarted s = true := by
  simpa [enginesStarted] using h

theorem startClocks_dev (s : State) : (startClocks s).dev = s.dev := startClocks_view State.dev (fun _ _ _ => rfl) (fun _ _ _ => rfl) s

theorem startClocks_hbm (s : State) : (startClocks s).hbm = s.hbm := startClocks_view State.hbm (fun _ _ _ => rfl) (fun _ _ _ => rfl) s

theorem startClocks_aon (s : State) : (startClocks s).aon = s.aon := startClocks_view State.aon (fun _ _ _ => rfl) (fun _ _ _ => rfl) s

theorem startClocks_mem (s : State) : (startClocks s).mem = s.mem := startClocks_view State.mem (fun _ _ _ => rfl) (fun _ _ _ => rfl) s

/-- From BOOT the device enters READY. -/
theorem enterReady_boot (h : s.dev = .boot) : enterReady s = { s with dev := .ready }.modOe fun o => { o with idleSince := s.aon } :=
  if_neg (by simp [h])

theorem broughtUp_ends (bad : List Nat) (hboot : s.dev = .boot) : let t := broughtUp bad s
    t.dev = .ready ∧ t.idn.st = 6 ∧ t.hbm = (memoryUp bad s).hbm ∧ t.pwr = (startClocks (memoryUp bad s)).pwr
      ∧ t.mem.renewAt = s.aon + 50000 * s.mem.renewMs := by
  intro t
  have hdev : (clocksUp bad s).dev = .boot := by
    rw [clocksUp, State.modMem_dev, State.modIdn_dev, startClocks_dev, memoryUp_view State.dev fun _ _ => rfl, hboot]
  have hmem : (clocksUp bad s).mem.renewAt = s.aon + 50000 * s.mem.renewMs := by
    simp only [clocksUp, State.modMem_mem, State.modIdn_mem, startClocks_aon, startClocks_mem, memoryUp_view State.aon fun _ _ => rfl,
      memoryUp_view State.mem fun _ _ => rfl]
  have ht : t = { clocksUp bad s with dev := .ready }.modOe fun o => { o with idleSince := (clocksUp bad s).aon } := enterReady_boot hdev
  rw [ht]
  simp only [State.modOe_dev, State.modOe_idn, State.modOe_hbm, State.modOe_pwr, State.modOe_mem, hmem, true_and, and_true]
  simp only [clocksUp, State.modMem_idn, State.modMem_hbm, State.modMem_pwr, State.modIdn_idn, State.modIdn_hbm, State.modIdn_pwr, startClocks_hbm,
    and_self]

theorem regionUp_memoryUp (bad : List Nat) (s : State) (r : Nat) : regionUp (memoryUp bad s) r = regionUp s r :=
  memoryUp_view (fun u => regionUp u r) (fun _ _ => rfl) bad s

theorem chanFailed_memoryUp (bad : List Nat) (s : State) {k : Nat} (hk : k < 256) : (memoryUp bad s).hbm.chanFailed.get false k = true ↔ k ∈ bad := by
  have hr : k / 64 ∈ List.range 4 := List.mem_range.2 (by omega)
  have hclear : (hbmCleared s).hbm.chanFailed.get false k = false := rfl
  refine (flag_bringRegions Hbm.chanFailed bad (fun _ _ => rfl) (List.range 4) (hbmCleared s) k).trans ?_
  simp [hclear, hr]

theorem chanMapout_memoryUp (bad : List Nat) (s : State) {k : Nat} (hk : k < 256) : (memoryUp bad s).hbm.chanMapout.get false k = true ↔ k ∈ bad := by
  have hr : k / 64 ∈ List.range 4 := List.mem_range.2 (by omega)
  have hclear : (hbmCleared s).hbm.chanMapout.get false k = false := rfl
  refine (flag_bringRegions Hbm.chanMapout bad (fun _ _ => rfl) (List.range 4) (hbmCleared s) k).trans ?_
  simp [hclear, hr]

/-- HBM's lines stay as they were cleared while the regions are brought up. -/
theorem lines_memoryUp (bad : List Nat) (s : State) : (memoryUp bad s).hbm.dram = [] ∧ (memoryUp bad s).hbm.poison = [] := by
  have h : (fun u : State => (u.hbm.dram, u.hbm.poison)) (memoryUp bad s) = ([], []) :=
    (foldl_view (fun u : State => (u.hbm.dram, u.hbm.poison)) (f := fun s r => bringRegion bad r s) (fun _ _ => rfl) _ _).trans rfl
  exact ⟨congrArg Prod.fst h, congrArg Prod.snd h⟩

theorem bringupComplete_ready {cs : List (Fin 256)} (h : s.dev = .boot ∧ s.pins.perst = false ∧ s.idn.st = 5)
    (heng : ∀ k, k < 8 → (s.oe.eng.get {} k).st ≠ 0) (hup : ∀ r, r < 4 → regionUp s r = true) :
    LeadsTo (exec (.bringupComplete cs) s) fun t => t.dev = .ready ∧ t.idn.st = 6 ∧ t.hbm.dram = [] ∧ t.hbm.poison = []
      ∧ (∀ k : Fin 256, (t.hbm.chanFailed.get false k = true ↔ k ∈ cs) ∧ (t.hbm.chanMapout.get false k = true ↔ k ∈ cs))
      ∧ (∀ r, r < 4 → (regPwr t r).pll = true) ∧ t.mem.renewAt = s.aon + 50000 * s.mem.renewMs := by
  have hmem : ∀ k : Fin 256, k.val ∈ cs.map (fun c => c.val) ↔ k ∈ cs := fun k => by simp [Fin.val_inj]
  obtain ⟨hdram, hpoison⟩ := lines_memoryUp (cs.map fun c => c.val) s
  obtain ⟨hready, hst, hhbm, hpwr, hrenew⟩ := broughtUp_ends (cs.map fun c => c.val) h.1
  have hpll : ∀ r, r < 4 → (regPwr (startClocks (memoryUp (cs.map fun c => c.val) s)) r).pll = true := fun r hr =>
    pll_startClocks hr ((regionUp_memoryUp _ s r).trans (hup r hr))
  refine ⟨_, exec_bringupComplete (bootAt_of h) (enginesStarted_of heng), hready, hst, ?_, ?_, fun k => ?_, fun r hr => ?_, hrenew⟩
  · rw [hhbm, hdram]
  · rw [hhbm, hpoison]
  · rw [hhbm]
    exact ⟨(chanFailed_memoryUp _ s k.isLt).trans (hmem k), (chanMapout_memoryUp _ s k.isLt).trans (hmem k)⟩
  · rw [regPwr, hpwr]
    exact hpll r hr

/-- Settles O27: each step of the sequence by the equation of its command; the failed channels by a loop over regions. -/
theorem bootSequence : Obligations.BootSequence := by
  unfold Obligations.BootSequence
  intro waits
  exact ⟨fun rs s h => ⟨selftest_passes h, selftest_fails (bootAt_of h)⟩, fun v s hlink hboot hgo =>
      ⟨fun hst hcool => go_loads hlink hboot hgo hst hcool, fun h => go_refused hlink hboot hgo h, fun h1 h2 => go_elsewhere hlink hboot hgo h1 h2⟩,
    fun e s h => imageCopyComplete_verifies (bootAt_of h), fun cs s h hnot => if_neg (by simp [hnot]),
    fun cs s h heng hup => bringupComplete_ready h heng hup⟩

end Sys2Proof.Machine

/-! SUPPORT. What a written entry does to its ring, and proofs of the statements about completion entries (O17), doorbells (O19), the enabling of rings (O20) and the loss of the link (O21). -/

namespace Sys2Proof.Machine

open Sys2Proof

variable {s : State}

/-! ### A written entry (R402, R411) -/

/-- Raising a vector sets pending bits and counts signals, and nothing else. -/
theorem raiseVector_eq (v : Nat) (s : State) : ∃ pba irq, raiseVector v s = s.modHost fun h => { h with pba := pba, irqSent := irq } := by
  by_cases h : (s.host.msix.get {} v).mask = true
  · exact ⟨_, s.host.irqSent, congrArg (fun x => { s with host := x }) (if_pos h)⟩
  · exact ⟨s.host.pba, _, congrArg (fun x => { s with host := x }) (if_neg h)⟩

/-- The ring after one entry more, up to its count towards an interrupt. -/
def OutRing.after (r : OutRing) (n unsig oldest : Nat) : OutRing := { r with seq := r.seq + n, unsig := unsig, oldest := oldest }

theorem OutRing.seq_after (r : OutRing) (n u o : Nat) : (r.after n u o).seq = r.seq + n := rfl

theorem OutRing.base_after (r : OutRing) (n u o : Nat) : (r.after n u o).base = r.base := rfl

theorem OutRing.pi_after (r : OutRing) (n u o : Nat) : (r.after n u o).pi = { r with seq := r.seq + n }.pi := rfl

theorem OutRing.phase_after (r : OutRing) (n u o : Nat) : (r.after n u o).phase = { r with seq := r.seq + n }.phase := rfl

theorem writeCpl_eq (j : Nat) (c : Cpl) (s : State) : ∃ u o pba irq, writeCpl j c s = { s with
    hostMem := s.hostMem.writeN ((cplRing s j).base.toNat + 32 * (cplRing s j).pi) (c.bytes (cplRing s j).seq (cplRing s j).phase)
    host := { s.host with cpl := s.host.cpl.set {} j ((cplRing s j).after 1 u o), pba := pba, irqSent := irq } } := by
  unfold writeCpl
  dsimp only
  split
  · obtain ⟨pba, irq, h⟩ := raiseVector_eq (cplRing s j).vector (setCplRing j { (cplRing s j).noted s.aon with unsig := 0 }
      { s with hostMem := s.hostMem.writeN ((cplRing s j).base.toNat + 32 * (cplRing s j).pi) (c.bytes (cplRing s j).seq (cplRing s j).phase) })
    exact ⟨0, _, pba, irq, h⟩
  · exact ⟨_, _, s.host.pba, s.host.irqSent, rfl⟩

theorem countEvt_eq (due : Bool) (now v : Nat) (r : OutRing) (s : State) : ∃ u o pba irq,
    (if due then raiseVector v (setEvtRing { r.noted now with unsig := 0 } s) else setEvtRing (r.noted now) s)
      = s.modHost fun h => { h with evt := r.after 1 u o, pba := pba, irqSent := irq } := by
  cases due
  · exact ⟨_, _, s.host.pba, s.host.irqSent, rfl⟩
  · obtain ⟨pba, irq, h⟩ := raiseVector_eq v (setEvtRing { r.noted now with unsig := 0 } s)
    exact ⟨0, _, pba, irq, (if_pos rfl).trans h⟩

/-- The entry lies in host memory; a fabric manager's message has its slot. -/
theorem placeEvt_eq (e : Event) (n : Nat) (m : Mem) (s : State) : ∃ fm, (if e.code = 0x13 then
      ({ s with hostMem := m } : State).modHost fun h => { h with fmSlot := h.fmSlot.set 0 (field e.body 0 2) n } else { s with hostMem := m })
    = ({ s with hostMem := m, host := { s.host with fmSlot := fm } } : State) := by
  split
  · exact ⟨_, rfl⟩
  · exact ⟨s.host.fmSlot, rfl⟩

theorem writeEvt_eq (e : Event) (s : State) : ∃ u o pba irq fm, writeEvt e s = { s with
    hostMem := s.hostMem.writeN (s.host.evt.base.toNat + 128 * s.host.evt.pi) (e.bytes s.host.evt.seq s.host.evt.phase)
    host := { s.host with evt := s.host.evt.after 1 u o, pba := pba, irqSent := irq, fmSlot := fm } } := by
  unfold writeEvt
  dsimp only
  generalize s.hostMem.writeN (s.host.evt.base.toNat + 128 * s.host.evt.pi) (e.bytes s.host.evt.seq s.host.evt.phase) = m
  obtain ⟨fm, hfm⟩ := placeEvt_eq e (s.host.evt.seq + 2) m s
  rw [hfm]
  obtain ⟨u, o, pba, irq, h⟩ := countEvt_eq ((s.host.evt.noted s.aon).due (e.cls == 3)) s.aon s.host.evt.vector s.host.evt
    { s with hostMem := m, host := { s.host with fmSlot := fm } }
  exact ⟨u, o, pba, irq, fm, h⟩

/-- An event reaches no part of the host interface that is not an event's. -/
theorem writeEvt_host {β : Type} (view : HostIf → β)
    (h : ∀ (x : HostIf) r pba irq fm, view { x with evt := r, pba := pba, irqSent := irq, fmSlot := fm } = view x) (e : Event) (s : State) :
    view (writeEvt e s).host = view s.host := by
  obtain ⟨u, o, pba, irq, fm, heq⟩ := writeEvt_eq e s
  rw [heq]
  exact h ..

/-! ### The completion entry (R402 to R404) -/

/-- The completion entry of a command in progress. -/
def InCmd.cplEntry (c : InCmd) (status value : Nat) : Cpl := { ring := c.ring, tag := c.tag, opcode := c.opcode, status := status, value := value }

/-- The command is no longer in progress. -/
def ended (id : Nat) (s : State) : State := s.modHost fun h => { h with cmds := h.cmds.filter fun d => d.id != id }

theorem complete_eq {id : Nat} {c : InCmd} (hc : cmdOf s id = some c) (status value : Nat) :
    complete id status value s = if c.lost then ended id s else postCpl c.cpl (c.cplEntry status value) (ended id s) := by
  unfold complete
  rw [hc]
  rfl

theorem complete_writes {id st v : Nat} {c : InCmd} (hc : cmdOf s id = some c) (hlost : c.lost = false) (hpost : canPost s = true)
    (hroom : (cplRing s c.cpl).room = true) (hfirst : ∀ w ∈ s.host.cplWait, w.1 ≠ c.cpl) :
    complete id st v s = writeCpl c.cpl (c.cplEntry st v) (ended id s) := by
  have henable : ¬(!(cplRing s c.cpl).enable) = true := by
    simp only [OutRing.room, Bool.and_eq_true] at hroom
    simp [hroom.1]
  have hwait : ((cplRing s c.cpl).room && !(s.host.cplWait.any fun w => w.1 == c.cpl)) = true := by
    rw [hroom]
    simpa using hfirst
  rw [complete_eq hc, if_neg (by simp [hlost])]
  exact (if_pos (show canPost (ended id s) = true from hpost)).trans ((if_neg henable).trans (if_pos hwait))

theorem complete_disabled {id st v : Nat} {c : InCmd} (hc : cmdOf s id = some c)
    (h : c.lost = true ∨ (canPost s = true ∧ (cplRing s c.cpl).enable = false)) : complete id st v s = ended id s := by
  rw [complete_eq hc]
  rcases h with hlost | ⟨hpost, hoff⟩
  · exact if_pos hlost
  · have hdis : (!(cplRing s c.cpl).enable) = true := by simp [hoff]
    have hdrop : postCpl c.cpl (c.cplEntry st v) (ended id s) = ended id s :=
      (if_pos (show canPost (ended id s) = true from hpost)).trans (if_pos hdis)
    rw [hdrop, ite_self]

theorem complete_held {id st v : Nat} {c : InCmd} (hc : cmdOf s id = some c) (hlost : c.lost = false) (hpost : canPost s = false)
    (hroom : s.host.held.length < 1024) : complete id st v s = (ended id s).modHost fun h => { h with held := h.held ++ [.cpl c.cpl (c.cplEntry st v)] } := by
  rw [complete_eq hc, if_neg (by simp [hlost])]
  refine (if_neg (show ¬canPost (ended id s) = true by rw [show canPost (ended id s) = false from hpost]; exact Bool.false_ne_true)).trans ?_
  exact congrArg (fun x => { ended id s with host := x }) (if_pos hroom)

/-- Settles O17: a completion is one entry more of its ring; a disabled ring and a lost link each by the equation of what is left. -/
theorem completionEntry : Obligations.CompletionEntry := by
  unfold Obligations.CompletionEntry
  refine ⟨fun id st v c s hc hlost hpost hroom hfirst => ?_, fun id st v c s hc h => complete_disabled hc h,
    fun id st v c s hc hlost hpost hroom => complete_held hc hlost hpost hroom⟩
  intro j r t
  obtain ⟨u, o, pba, irq, heq⟩ := writeCpl_eq c.cpl (c.cplEntry st v) (ended id s)
  have ht : t = _ := (complete_writes hc hlost hpost hroom hfirst).trans heq
  have hring : ∀ k, cplRing t k = if k = j then r.after 1 u o else cplRing s k := fun k => by
    rw [ht]
    exact Table.get_set ..
  refine ⟨by rw [ht]; rfl, ?_, fun k hk => ?_, by rw [ht]; rfl, (complete_only id st v s).eq⟩
  · rw [hring, if_pos rfl]
    rfl
  · rw [hring, if_neg hk]

/-! ### Doorbells (R387, R392, R393, R409) -/

theorem doorbellAt_cmdPi (i : Fin 64) : doorbellAt (Doorbell.cmdPi i).offset = some (.cmdPi i) := by
  have hdiv : 4096 * i.val / 4096 = i.val := by omega
  rw [doorbellAt, Doorbell.offset, if_pos (by omega), hdiv]

theorem doorbellAt_cplCi (j : Fin 64) : doorbellAt (Doorbell.cplCi j).offset = some (.cplCi j) := by
  have hdiv : (4096 * j.val + 8) / 4096 = j.val := by omega
  rw [doorbellAt, Doorbell.offset, if_neg (by omega), if_pos (by omega), hdiv]

theorem bar2Write_rings {d : Doorbell} (hat : doorbellAt d.offset = some d) (hw : hostWrites s false = true) (v : Nat) :
    bar2Write d.offset v s = ringBell d v s := by
  rw [bar2Write, hat]
  exact if_pos hw

theorem exec_cmdPi {i : Fin 64} {v : W32} (hw : hostWrites s false = true) : exec (.cmdPi i v) s = .next (ringCmdPi i v.toNat s) :=
  congrArg Host.Outcome.next (bar2Write_rings (doorbellAt_cmdPi i) hw v.toNat)

theorem exec_cplCi {j : Fin 64} {v : W32} (hw : hostWrites s false = true) : exec (.cplCi j v) s = .next (ringCplCi j v.toNat s) :=
  congrArg Host.Outcome.next (bar2Write_rings (doorbellAt_cplCi j) hw v.toNat)

theorem exec_evtCi {v : W32} (hw : hostWrites s false = true) : exec (.evtCi v) s = .next (ringEvtCi v.toNat s) :=
  congrArg Host.Outcome.next (bar2Write_rings (d := .evtCi) rfl hw v.toNat)

theorem ringCmdPi_running {i : Nat} (hon : (cmdRing s i).enable = true) (hstop : (cmdRing s i).stop = false) (v : Nat) : ringCmdPi i v s
    = if v % 65536 < 2 ^ (cmdRing s i).log2 then s.modHost fun h => { h with cmd := h.cmd.mod {} i fun r => { r with pi := v % 65536 } }
      else ringError 0 i (s.modHost fun h => { h with cmd := h.cmd.mod {} i fun r => { r with error := true, stop := true } }) :=
  if_neg (by simp [hon, hstop])

/-! ### Completions that wait (R392) -/

/-- Completions for other rings go on waiting. -/
theorem flushCpl_others {j : Nat} (ws : List (Nat × Cpl)) (h : ∀ w ∈ ws, w.1 ≠ j) (s : State) : flushCpl j ws s = s := by
  induction ws with
  | nil => rfl
  | cons w ws ih =>
    have hw : w.1 ≠ j := h w List.mem_cons_self
    rw [flushCpl, if_neg (by simp [hw])]
    exact ih fun x hx => h x (List.mem_cons_of_mem _ hx)

theorem flushRing_others {j : Nat} (h : ∀ w ∈ s.host.cplWait, w.1 ≠ j) : flushRing j s = s := by
  rw [flushRing, flushCpl_others _ h, ite_self]

theorem flushRing_none {j : Nat} (h : s.host.cplWait = []) : flushRing j s = s := flushRing_others (by simp [h])

/-- Completions that all wait for one ring, with room made for them, are written in their order. -/
theorem flushCpl_writes {j : Nat} {r : OutRing} (cs : List Cpl) {s : State} {n u o : Nat} (hring : cplRing s j = r.after n u o)
    (hwait : s.host.cplWait = cs.map fun c => (j, c)) (hroom : ∀ k, k < cs.length → { r with seq := r.seq + (n + k) }.room = true) :
    let t := flushCpl j (cs.map fun c => (j, c)) s
    t.host.cplWait = [] ∧ (cplRing t j).seq = r.seq + n + cs.length
      ∧ t.hostMem = (cs.zipIdx n).foldl (fun m (c, k) => m.writeN (r.base.toNat + 32 * { r with seq := r.seq + k }.pi)
          (c.bytes { r with seq := r.seq + k }.seq { r with seq := r.seq + k }.phase)) s.hostMem := by
  induction cs generalizing s n u o with
  | nil => exact ⟨hwait, by rw [List.map_nil, flushCpl, hring]; rfl, rfl⟩
  | cons c cs ih =>
    have hnow : (cplRing s j).room = true := by
      rw [hring]
      exact hroom 0 (by simp)
    obtain ⟨v, p, pba, irq, heq⟩ := writeCpl_eq j c (s.modHost fun h => { h with cplWait := h.cplWait.erase (j, c) })
    have hstep : flushCpl j ((c :: cs).map fun c => (j, c)) s
        = flushCpl j (cs.map fun c => (j, c)) (writeCpl j c (s.modHost fun h => { h with cplWait := h.cplWait.erase (j, c) })) := by
      rw [List.map_cons, flushCpl, if_pos (by simp [hnow])]
    have hring' : cplRing (writeCpl j c (s.modHost fun h => { h with cplWait := h.cplWait.erase (j, c) })) j = r.after (n + 1) v p := by
      have hsame : cplRing (s.modHost fun h => { h with cplWait := h.cplWait.erase (j, c) }) j = r.after n u o := hring
      rw [heq]
      exact (Table.get_set_same ..).trans (by rw [hsame]; rfl)
    have hwait' : (writeCpl j c (s.modHost fun h => { h with cplWait := h.cplWait.erase (j, c) })).host.cplWait = cs.map fun c => (j, c) := by
      rw [heq]
      show s.host.cplWait.erase (j, c) = _
      rw [hwait, List.map_cons, List.erase_cons_head]
    have hmem : (writeCpl j c (s.modHost fun h => { h with cplWait := h.cplWait.erase (j, c) })).hostMem
        = s.hostMem.writeN (r.base.toNat + 32 * { r with seq := r.seq + n }.pi) (c.bytes (r.seq + n) { r with seq := r.seq + n }.phase) := by
      rw [heq]
      show s.hostMem.writeN ((cplRing s j).base.toNat + 32 * (cplRing s j).pi) (c.bytes (cplRing s j).seq (cplRing s j).phase) = _
      rw [hring, r.base_after, r.pi_after, r.phase_after, r.seq_after]
    obtain ⟨hempty, hseq, hwritten⟩ := ih hring' hwait' fun k hk => by
      have := hroom (k + 1) (by simpa using hk)
      rwa [show n + (k + 1) = n + 1 + k by omega] at this
    rw [hstep]
    refine ⟨hempty, hseq.trans (by rw [List.length_cons]; omega), ?_⟩
    rw [hwritten, hmem]
    rfl

theorem ringCplCi_moves {j : Nat} (hon : (cplRing s j).enable = true) (v : Nat) : ringCplCi j v s
    = flushRing j (setCplRing j { cplRing s j with ci := v % 65536 % 2 ^ (cplRing s j).log2 } s) := if_pos hon

/-! ### Events that wait (R409) -/

theorem flushEvtN_none (n : Nat) (hwait : s.host.evtWait = []) (hdisc : s.host.discarded = 0) : flushEvtN n s = s := by
  have hstep : flushEvtOnce s = s := by
    rw [flushEvtOnce, hdisc, hwait]
    simp
  induction n with
  | zero => rfl
  | succ n ih => rw [flushEvtN, hstep, ih]

theorem resume_idle (h : s.host.restoring = false) : resume s = s := by
  simp [resume, h]

theorem flushEvents_none (hwait : s.host.evtWait = []) (hdisc : s.host.discarded = 0) (hrest : s.host.restoring = false) : flushEvents s = s := by
  rw [flushEvents, flushEvt, flushEvtN_none _ hwait hdisc, resume_idle hrest]

/-- The first event that waits is written where there is room. -/
theorem flushEvtOnce_writes {e : Event} {es : List Event} (hroom : s.host.evt.room = true) (hlink : s.host.linkUp = true) (hdisc : s.host.discarded = 0)
    (hwait : s.host.evtWait = e :: es) : flushEvtOnce s = writeEvt e (s.modHost fun h => { h with evtWait := es }) := by
  rw [flushEvtOnce, if_pos (by rw [hroom, hlink]; rfl), if_neg (by simp [hdisc]), hwait]

/-- Events that wait, with room made for them, are written in their order. -/
theorem flushEvtN_writes {r : OutRing} (es : List Event) {s : State} {n u o : Nat} (hring : s.host.evt = r.after n u o) (hwait : s.host.evtWait = es)
    (hlink : s.host.linkUp = true) (hdisc : s.host.discarded = 0)
    (hroom : ∀ k, k < es.length → { r with seq := r.seq + (n + k) }.room = true) :
    let t := flushEvtN (es.length + 1) s
    t.host.evtWait = [] ∧ t.host.evt.seq = r.seq + n + es.length ∧ t.host.restoring = s.host.restoring
      ∧ t.hostMem = (es.zipIdx n).foldl (fun m (e, k) => m.writeN (r.base.toNat + 128 * { r with seq := r.seq + k }.pi)
          (e.bytes { r with seq := r.seq + k }.seq { r with seq := r.seq + k }.phase)) s.hostMem := by
  induction es generalizing s n u o with
  | nil =>
    rw [flushEvtN_none _ hwait hdisc]
    exact ⟨hwait, by rw [hring]; rfl, rfl, rfl⟩
  | cons e es ih =>
    have hnow : s.host.evt.room = true := by
      rw [hring]
      exact hroom 0 (by simp)
    obtain ⟨v, p, pba, irq, fm, heq⟩ := writeEvt_eq e (s.modHost fun h => { h with evtWait := es })
    have hstep : flushEvtN ((e :: es).length + 1) s = flushEvtN (es.length + 1) (writeEvt e (s.modHost fun h => { h with evtWait := es })) := by
      rw [List.length_cons, flushEvtN, flushEvtOnce_writes hnow hlink hdisc hwait]
    have hring' : (writeEvt e (s.modHost fun h => { h with evtWait := es })).host.evt = r.after (n + 1) v p := by
      rw [heq]
      show s.host.evt.after 1 v p = _
      rw [hring]
      rfl
    have hmem : (writeEvt e (s.modHost fun h => { h with evtWait := es })).hostMem
        = s.hostMem.writeN (r.base.toNat + 128 * { r with seq := r.seq + n }.pi) (e.bytes (r.seq + n) { r with seq := r.seq + n }.phase) := by
      simp only [heq, State.modHost_host, State.modHost_hostMem, hring, OutRing.base_after, OutRing.pi_after, OutRing.phase_after, OutRing.seq_after]
    obtain ⟨hempty, hseq, hrest, hwritten⟩ := ih hring' (by rw [heq]; rfl) (by rw [heq]; exact hlink) (by rw [heq]; exact hdisc) fun k hk => by
      have := hroom (k + 1) (by simpa using hk)
      rwa [show n + (k + 1) = n + 1 + k by omega] at this
    rw [hstep]
    refine ⟨hempty, hseq.trans (by rw [List.length_cons]; omega), hrest.trans (by rw [heq]; rfl), ?_⟩
    rw [hwritten, hmem]
    rfl

theorem ringEvtCi_moves (hon : s.host.evt.enable = true) (v : Nat) : ringEvtCi v s
    = flushEvents (setEvtRing { s.host.evt with ci := v % 65536 % 2 ^ s.host.evt.log2 } s) := if_pos hon

theorem linkUp_of_hostWrites {b : Bool} (hw : hostWrites s b = true) : s.host.linkUp = true := by
  simp only [hostWrites, Bool.and_eq_true] at hw
  exact hw.1.1

/-- Settles O19: an index is set by its doorbell; what waits follows entry by entry. -/
theorem doorbells : Obligations.Doorbells := by
  unfold Obligations.Doorbells
  refine ⟨fun i v s hw hon hstop => ⟨fun hin => ?_, fun hout => ?_⟩, fun j v s hw hon hwait => ?_, fun j v cs s hw hrest hon hwait => ?_,
    fun v s hw hon hwait hdisc hrest => ?_, fun v es s hw hon hwait hdisc hrest => ?_⟩
  · rw [exec_cmdPi hw, ringCmdPi_running hon hstop, if_pos hin]
    rfl
  · rw [exec_cmdPi hw, ringCmdPi_running hon hstop, if_neg (Nat.not_lt.2 hout)]
    rfl
  · rw [exec_cplCi hw, ringCplCi_moves hon, flushRing_others (s := setCplRing _ _ s) hwait]
    rfl
  · intro r hroom
    have hring : cplRing (setCplRing j { cplRing s j with ci := v.toNat % 65536 % 2 ^ (cplRing s j).log2 } s) j
        = OutRing.after { cplRing s j with ci := v.toNat % 65536 % 2 ^ (cplRing s j).log2 } 0 (cplRing s j).unsig (cplRing s j).oldest :=
      (cplRing_setCplRing ..).trans (if_pos rfl)
    obtain ⟨hempty, hseq, hmem⟩ := flushCpl_writes cs hring hwait fun k hk => by
      rw [Nat.zero_add]
      exact hroom k hk
    have hpost : canPost (setCplRing j { cplRing s j with ci := v.toNat % 65536 % 2 ^ (cplRing s j).log2 } s) = true := by
      show (s.host.linkUp && !s.host.restoring) = true
      rw [linkUp_of_hostWrites hw, hrest]
      rfl
    refine ⟨flushCpl j (cs.map fun c => (j.val, c)) _, ?_, hempty, hseq, hmem⟩
    rw [exec_cplCi hw, ringCplCi_moves hon, flushRing, if_pos hpost, ← hwait]
    rfl
  · rw [exec_evtCi hw, ringEvtCi_moves hon]
    exact congrArg Host.Outcome.next (flushEvents_none (s := setEvtRing _ s) hwait hdisc hrest)
  · intro r hroom
    obtain ⟨hempty, hseq, hsame, hmem⟩ := flushEvtN_writes es (s := setEvtRing { s.host.evt with ci := v.toNat % 65536 % 2 ^ s.host.evt.log2 } s)
      (r := { s.host.evt with ci := v.toNat % 65536 % 2 ^ s.host.evt.log2 }) (n := 0) (u := s.host.evt.unsig) (o := s.host.evt.oldest) rfl hwait
      (linkUp_of_hostWrites hw) hdisc fun k hk => by
        rw [Nat.zero_add]
        exact hroom k hk
    refine ⟨_, ?_, hempty, hseq, hmem⟩
    rw [exec_evtCi hw, ringEvtCi_moves hon, flushEvents, resume_idle]
    · rw [flushEvt, ← hwait]
      rfl
    · rw [flushEvt, show (setEvtRing { s.host.evt with ci := v.toNat % 65536 % 2 ^ s.host.evt.log2 } s).host.evtWait = es from hwait, hsame]
      exact hrest

end Sys2Proof.Machine

/-! SUPPORT. Proofs of the statements about the enabling of rings (O20) and the loss of the link (O21). -/

namespace Sys2Proof.Machine

open Sys2Proof

variable {s : State}

/-! ### An event leaves the command and completion rings (R391) -/

theorem flushEvtOnce_cmd (s : State) : (flushEvtOnce s).host.cmd = s.host.cmd := by
  have hwrite : ∀ e (u : State), (writeEvt e u).host.cmd = u.host.cmd := writeEvt_host HostIf.cmd fun _ _ _ _ _ => rfl
  unfold flushEvtOnce
  split
  · split
    · exact hwrite _ _
    · split
      · rfl
      · exact hwrite _ _
  · rfl

theorem flushEvtN_cmd (n : Nat) (s : State) : (flushEvtN n s).host.cmd = s.host.cmd := by
  induction n generalizing s with
  | zero => rfl
  | succ n ih => rw [flushEvtN, ih, flushEvtOnce_cmd]

theorem raiseEvent_cmd (code cls : Nat) (body : List Byte) (s : State) : (raiseEvent code cls body s).host.cmd = s.host.cmd := by
  have hflush : ∀ u : State, (flushEvt u).host.cmd = u.host.cmd := fun u => flushEvtN_cmd _ u
  unfold raiseEvent
  split
  · exact ite_view (fun u => u.host.cmd) (hflush _) (hflush _)
  · unfold holdWrite
    rw [State.modHost_host]
    split <;> rfl

/-! ### The configuration of a command ring (R390, R393) -/

section
variable {i : Fin 64} {v : W32}

theorem exec_cmdRingEnable (hw : hostWrites s false = true) : exec (.cmdRingEnable i v) s = .next (writeCmdCfg i v.toNat s) :=
  congrArg Host.Outcome.next (if_pos hw)

/-- A disabled command ring as a write of its configuration finds it. -/
def configured (s : State) (i : Fin 64) (v : W32) : CmdRing :=
  { cmdRing s i with log2 := bits v.toNat 19 16, cpl := bits v.toNat 5 0, prio := bit v.toNat 30 }

/-- The ring stands in its place. -/
def putCmdRing (i : Nat) (r : CmdRing) (s : State) : State := s.modHost fun h => { h with cmd := h.cmd.set {} i r }

theorem writeCmdCfg_enable (hoff : (cmdRing s i).enable = false) (hon : bit v.toNat 31 = true) : writeCmdCfg i v.toNat s
    = if bits v.toNat 19 16 < 4 ∨ 12 < bits v.toNat 19 16 then ringError 0 i (putCmdRing i { configured s i v with error := true } s)
      else putCmdRing i { configured s i v with enable := true, ci := 0, pi := 0, stop := (cmdRing s i).stop && (cmdRing s i).error } s := by
  simp only [writeCmdCfg, hoff, hon, Bool.false_eq_true, if_false, Bool.not_true]
  rw [configured, hoff]
  rfl

theorem cmdRing_ringError (i k : Nat) (r : CmdRing) (s : State) : cmdRing (ringError 0 i (putCmdRing i r s)) k = if k = i then r else cmdRing s k := by
  rw [cmdRing, ringError, raiseEvent_cmd]
  exact Table.get_set ..

theorem writeCmdCfg_disable (hon : (cmdRing s i).enable = true) (hoff : bit v.toNat 31 = false) :
    writeCmdCfg i v.toNat s = putCmdRing i { cmdRing s i with enable := false, prio := bit v.toNat 30 } s := by
  simp only [writeCmdCfg, hon, hoff, if_true, Bool.not_false]
  rfl

end

/-! ### The configuration of the output rings (R390, R391) -/

theorem configure_enable {lo hi v : Nat} {r : OutRing} (hoff : r.enable = false) (hon : bit v 31 = true) (hlo : lo ≤ bits v 20 16)
    (hhi : bits v 20 16 ≤ hi) : r.configure lo hi v
      = ({ r with enable := true, log2 := bits v 20 16, vector := bits v 14 8, seq := 0, ci := 0, unsig := 0 }, false) := by
  have hin : ¬(bits v 20 16 < lo ∨ hi < bits v 20 16) := by omega
  simp only [OutRing.configure, hoff, hon, Bool.false_eq_true, if_false, Bool.not_true, if_neg hin]

theorem configure_disable {lo hi v : Nat} {r : OutRing} (hon : r.enable = true) (hoff : bit v 31 = false) :
    r.configure lo hi v = ({ r with enable := false, vector := bits v 14 8 }, false) := by
  simp only [OutRing.configure, hon, hoff, if_true, Bool.not_false]

theorem writeCplCfg_enable {j v : Nat} (hoff : (cplRing s j).enable = false) (hon : bit v 31 = true) (hlo : 4 ≤ bits v 20 16)
    (hhi : bits v 20 16 ≤ 16) (hwait : s.host.cplWait = []) : writeCplCfg j v s
      = setCplRing j { cplRing s j with enable := true, log2 := bits v 20 16, vector := bits v 14 8, seq := 0, ci := 0, unsig := 0 } s := by
  simp only [writeCplCfg, configure_enable hoff hon hlo hhi, hoff, Bool.false_and, Bool.false_eq_true, if_false]
  exact flushRing_none hwait

/-- The state of a completion ring's disabling, before RING_ERROR. -/
def cplDisabled (j v : Nat) (s : State) : State :=
  loseCompletions j (setCplRing j { cplRing s j with enable := false, vector := bits v 14 8 } s)

theorem writeCplCfg_disable {j v : Nat} (hon : (cplRing s j).enable = true) (hoff : bit v 31 = false) :
    writeCplCfg j v s = if ringInUse s j then ringError 1 j (cplDisabled j v s) else cplDisabled j v s := by
  simp only [writeCplCfg, configure_disable hon hoff, hon, Bool.false_eq_true, if_false, Bool.not_false, Bool.and_true, if_true]
  rfl

theorem ringInUse_iff {j : Nat} : ringInUse s j = true ↔ (∃ i, i < 64 ∧ (cmdRing s i).cpl = j ∧ cmdActive s i = true) ∨ ∃ c ∈ s.host.cmds, c.cpl = j := by
  simp only [ringInUse, Bool.or_eq_true, List.any_eq_true, List.mem_range, Bool.and_eq_true, beq_iff_eq]

/-- Slots of the fabric manager's buffer that no entry of the event ring names any more. -/
def slotsFreed (s : State) : State := s.modHost fun h => { h with fmSlot := h.fmSlot.keep fun _ q => q == 1 }

theorem writeEvtCfg_enable {v : Nat} (hoff : s.host.evt.enable = false) (hon : bit v 31 = true) (hlo : 6 ≤ bits v 20 16) (hhi : bits v 20 16 ≤ 14)
    (hwait : s.host.evtWait = []) (hdisc : s.host.discarded = 0) (hrest : s.host.restoring = false) : writeEvtCfg v s
      = slotsFreed (setEvtRing
          { s.host.evt with enable := true, log2 := bits v 20 16, vector := bits v 14 8, seq := 0, ci := 0, unsig := 0 } s) := by
  simp only [writeEvtCfg, configure_enable hoff hon hlo hhi, hoff, Bool.false_eq_true, if_false, Bool.not_false, Bool.and_self, if_true]
  exact flushEvents_none hwait hdisc hrest

theorem exec_fmBufEnable {v : W32} (hw : hostWrites s false = true) : exec (.fmBufEnable v) s = .next (writeFmCfg v.toNat s) :=
  congrArg Host.Outcome.next (if_pos hw)

/-- Settles O20: each write of a configuration by the case of ENABLE and LOG2 that it meets. -/
theorem ringEnabling : Obligations.RingEnabling := by
  unfold Obligations.RingEnabling
  refine ⟨fun i v s hw hoff hon => ?cmd, fun i v s hw hon hoff => ?cmdOff, fun j v s hw hoff hon hlo hhi hwait => ?cpl, fun j v s hw hon hoff => ?cplOff,
    fun v s hw hoff hon hlo hhi hwait hdisc hrest => ?evt, fun v s hw hoff => ⟨fun hon hslots => ?fmOn, fun hzero => ?fmOff⟩⟩
  case cmd =>
    intro r
    refine ⟨fun hlo hhi => ?_, fun hout => ⟨_, (exec_cmdRingEnable hw).trans (congrArg _ ((writeCmdCfg_enable hoff hon).trans (if_pos hout))), ?_, ?_⟩⟩
    · rw [exec_cmdRingEnable hw, writeCmdCfg_enable hoff hon, if_neg (by omega)]
      rfl
    · rw [cmdRing_ringError, if_pos rfl]
      rfl
    · intro k hk
      rw [cmdRing_ringError, if_neg hk]
  case cmdOff =>
    refine congrArg Host.Outcome.next ((if_pos hw).trans ((writeCmdCfg_disable hon hoff).trans ?_))
    rfl
  case cpl =>
    refine congrArg Host.Outcome.next ((if_pos hw).trans ((writeCplCfg_enable hoff hon hlo hhi hwait).trans ?_))
    rfl
  case cplOff =>
    intro u
    have hrun : exec (.cplRingDisable j v) s = .next (if ringInUse s j then ringError 1 j u else u) :=
      congrArg Host.Outcome.next ((if_pos hw).trans (writeCplCfg_disable hon hoff))
    refine ⟨fun hidle hcmds => ?_, fun hused => ?_⟩
    · have hfree : ¬ringInUse s j = true := by
        rw [ringInUse_iff]
        rintro (⟨i, hi, hcpl, hact⟩ | ⟨c, hc, hcpl⟩)
        · exact Bool.false_ne_true ((hidle i hi hcpl).symm.trans hact)
        · exact hcmds c hc hcpl
      rw [hrun, if_neg hfree]
    · rw [hrun, if_pos (ringInUse_iff.2 (.inl hused))]
      rfl
  case evt =>
    exact ⟨_, congrArg Host.Outcome.next ((if_pos hw).trans (writeEvtCfg_enable hoff hon hlo hhi hwait hdisc hrest)), rfl, rfl⟩
  case fmOn =>
    rw [exec_fmBufEnable hw]
    simp only [writeFmCfg, State.modHost, hon, hoff, decide_eq_true hslots, Bool.true_and, Bool.not_false, if_true]
  case fmOff =>
    refine ⟨_, exec_fmBufEnable hw, ?_, rfl⟩
    simp [writeFmCfg, hzero]

/-! ### The link's loss and return (R386, R389) -/

theorem pcieLinkDown_notes (h : s.host.linkUp = true ∨ s.host.d3hot = true) (hoff : s.dev ≠ .off) : exec .pcieLinkDown s
    = .next { s with host := { s.host with linkUp := false, d3hot := false, downSince := s.aon, aer := s.host.aer ||| 0x20 } } :=
  (if_neg (by simpa using hoff)).trans (congrArg Host.Outcome.next (if_pos (by simpa using h)))

/-- A device that trains: it has power, and PERST_L is high. -/
theorem exec_pcieLinkUp {w : Fin 4} {v : Fin 7} {d : Bool} (hoff : s.dev ≠ .off) (hperst : s.pins.perst = false) : exec (.pcieLinkUp w v d) s
    = if s.host.linkUp then .next (if d then enterD3 s else s)
      else if s.host.d3hot then .next (if d then s else enterD0 s)
      else
        let t := s.modHost fun h => { h with trained := true, rate := { width := 2 ^ w.val, speed := v.val + 1 } }
        let u := if (!s.host.trained) = true then t else t.modHost fun h => { h with restoring := true, evtWait := linkRestored s :: h.evtWait }
        .next (if d then enterD3 u else if (!s.host.trained) = true then u.modHost fun h => { h with linkUp := true } else enterD0 u) :=
  if_neg (by simp [hoff, hperst])

theorem pcieLinkUp_first {w : Fin 4} {v : Fin 7} (hlink : s.host.linkUp = false) (hd3 : s.host.d3hot = false) (htr : s.host.trained = false)
    (hoff : s.dev ≠ .off) (hperst : s.pins.perst = false) : exec (.pcieLinkUp w v false) s
      = .next { s with host := { s.host with linkUp := true, trained := true, rate := { width := 2 ^ w.val, speed := v + 1 } } } := by
  rw [exec_pcieLinkUp hoff hperst, if_neg (by simp [hlink]), if_neg (by simp [hd3])]
  simp only [htr, Bool.not_false, Bool.false_eq_true, if_true, if_false]
  rfl

/-- The host interface with a vector raised. -/
def HostIf.raised (v : Nat) (h : HostIf) : HostIf :=
  if (h.msix.get {} v).mask then { h with pba := h.pba.set false v true } else { h with irqSent := h.irqSent.mod 0 v (· + 1) }

/-- The host interface with an event entry written. -/
def HostIf.wrote (e : Event) (now : Nat) (h : HostIf) : HostIf :=
  let g := if e.code = 0x13 then { h with fmSlot := h.fmSlot.set 0 (field e.body 0 2) (h.evt.seq + 2) } else h
  if (h.evt.noted now).due (e.cls == 3) then HostIf.raised h.evt.vector { g with evt := { h.evt.noted now with unsig := 0 } }
  else { g with evt := h.evt.noted now }

theorem writeEvt_wrote (e : Event) (s : State) : writeEvt e s = { s with
    hostMem := s.hostMem.writeN (s.host.evt.base.toNat + 128 * s.host.evt.pi) (e.bytes s.host.evt.seq s.host.evt.phase)
    host := s.host.wrote e s.aon } := by
  unfold writeEvt HostIf.wrote
  dsimp only
  generalize s.hostMem.writeN (s.host.evt.base.toNat + 128 * s.host.evt.pi) (e.bytes s.host.evt.seq s.host.evt.phase) = m
  by_cases hcode : e.code = 0x13
  · simp only [if_pos hcode]
    by_cases hdue : (s.host.evt.noted s.aon).due (e.cls == 3) = true
    · rw [if_pos hdue]
      exact if_pos hdue
    · rw [if_neg hdue]
      exact if_neg hdue
  · simp only [if_neg hcode]
    by_cases hdue : (s.host.evt.noted s.aon).due (e.cls == 3) = true
    · simp only [if_pos hdue]
      rfl
    · simp only [if_neg hdue]
      rfl

/-- Writing an event does not look at what the link's return is about. -/
theorem HostIf.wrote_released (e : Event) (now : Nat) (h : HostIf) :
    { h.wrote e now with restoring := false, held := [] } = HostIf.wrote e now { h with restoring := false, held := [] } := by
  have hraise : ∀ v (g : HostIf), { g.raised v with restoring := false, held := [] } = HostIf.raised v { g with restoring := false, held := [] } :=
    fun v g => by
      unfold HostIf.raised
      split <;> rfl
  unfold HostIf.wrote
  dsimp only
  by_cases hdue : (h.evt.noted now).due (e.cls == 3) = true
  · rw [if_pos hdue, if_pos hdue, hraise]
    split <;> rfl
  · rw [if_neg hdue, if_neg hdue]
    split <;> rfl

theorem writeEvt_released (e : Event) (s : State) : (writeEvt e s).modHost (fun h => { h with restoring := false, held := [] })
    = writeEvt e (s.modHost fun h => { h with restoring := false, held := [] }) := by
  rw [writeEvt_wrote, writeEvt_wrote, State.modHost_host, State.modHost_aon, ← HostIf.wrote_released]
  rfl

theorem flushRings_none (h : s.host.cplWait = []) : flushRings s = s := by
  unfold flushRings
  generalize List.range 64 = l
  induction l with
  | nil => rfl
  | cons j l ih => rw [List.foldl_cons, flushRing_none h, ih]

/-- Nothing waits any more: what was held is written. -/
theorem resume_releases (hlink : s.host.linkUp = true) (hrest : s.host.restoring = true) (hwait : s.host.evtWait = []) (hcpl : s.host.cplWait = []) :
    resume s = releaseHeld s.host.held (s.modHost fun h => { h with restoring := false, held := [] }) := by
  have hguard : (s.host.linkUp && s.host.restoring && !(restorePending s && s.host.evt.enable)) = true := by
    simp [hlink, hrest, restorePending, hwait]
  rw [resume, if_pos hguard]
  exact congrArg (releaseHeld s.host.held) (flushRings_none hcpl)

/-- Behind LINK_RESTORED what was held is written. -/
theorem flushEvents_restores {e : Event} (hlink : s.host.linkUp = true) (hrest : s.host.restoring = true) (hwait : s.host.evtWait = [e])
    (hdisc : s.host.discarded = 0) (hcpl : s.host.cplWait = []) (hroom : s.host.evt.room = true) :
    flushEvents s = releaseHeld s.host.held (writeEvt e (s.modHost fun h => { h with evtWait := [], restoring := false, held := [] })) := by
  have hkeep : ∀ {β : Type} (view : HostIf → β), (∀ (x : HostIf) r pba irq fm, view { x with evt := r, pba := pba, irqSent := irq, fmSlot := fm } = view x) →
      view (writeEvt e (s.modHost fun h => { h with evtWait := [] })).host = view (s.modHost fun h => { h with evtWait := [] }).host :=
    fun view h => writeEvt_host view h e _
  have hflush : flushEvt s = writeEvt e (s.modHost fun h => { h with evtWait := [] }) := by
    rw [flushEvt, hwait, List.length_singleton, flushEvtN, flushEvtOnce_writes hroom hlink hdisc hwait]
    exact flushEvtN_none _ (hkeep HostIf.evtWait fun _ _ _ _ _ => rfl) ((hkeep HostIf.discarded fun _ _ _ _ _ => rfl).trans hdisc)
  rw [flushEvents, hflush, resume_releases ((hkeep HostIf.linkUp fun _ _ _ _ _ => rfl).trans hlink)
    ((hkeep HostIf.restoring fun _ _ _ _ _ => rfl).trans hrest) (hkeep HostIf.evtWait fun _ _ _ _ _ => rfl)
    ((hkeep HostIf.cplWait fun _ _ _ _ _ => rfl).trans hcpl), writeEvt_released, hkeep HostIf.held fun _ _ _ _ _ => rfl]
  rfl

/-- The host interface over a link that works again. -/
def HostIf.on (h : HostIf) : HostIf := { h with linkUp := true, d3hot := false, restoring := false, held := [], evtWait := [] }

theorem pcieLinkUp_again {w : Fin 4} {v : Fin 7} (hlink : s.host.linkUp = false) (hd3 : s.host.d3hot = false) (htr : s.host.trained = true)
    (hoff : s.dev ≠ .off) (hperst : s.pins.perst = false) (hwait : s.host.evtWait = []) (hdisc : s.host.discarded = 0) (hcpl : s.host.cplWait = [])
    (hroom : s.host.evt.room = true) : exec (.pcieLinkUp w v false) s = .next (releaseHeld s.host.held (writeEvt (linkRestored s)
      { s with host := { s.host.on with rate := { width := 2 ^ w.val, speed := v + 1 } } })) := by
  rw [exec_pcieLinkUp hoff hperst, if_neg (by simp [hlink]), if_neg (by simp [hd3])]
  simp only [htr, Bool.not_true, Bool.false_eq_true, if_false]
  rw [enterD0, flushEvents_restores (e := linkRestored s)]
  · rw [HostIf.on, ← htr]
    rfl
  · rfl
  · rfl
  · exact congrArg (linkRestored s :: ·) hwait
  · exact hdisc
  · exact hcpl
  · exact hroom

theorem enterD0_releases (hwait : s.host.evtWait = []) (hdisc : s.host.discarded = 0) (hcpl : s.host.cplWait = []) :
    enterD0 s = releaseHeld s.host.held { s with host := s.host.on } := by
  rw [enterD0, flushEvents, flushEvt, flushEvtN_none, resume_releases]
  · rw [HostIf.on, ← hwait]
    rfl
  · rfl
  · rfl
  · exact hwait
  · exact hcpl
  · exact hwait
  · exact hdisc

theorem pcieLinkUp_d0 {w : Fin 4} {v : Fin 7} (hlink : s.host.linkUp = false) (hd3 : s.host.d3hot = true) (hoff : s.dev ≠ .off)
    (hperst : s.pins.perst = false) (hwait : s.host.evtWait = []) (hdisc : s.host.discarded = 0) (hcpl : s.host.cplWait = []) :
    exec (.pcieLinkUp w v false) s = .next (releaseHeld s.host.held { s with host := s.host.on }) := by
  rw [exec_pcieLinkUp hoff hperst, if_neg (by simp [hlink]), if_pos hd3, if_neg Bool.false_ne_true, enterD0_releases hwait hdisc hcpl]

/-- What a vector is raised to. -/
theorem raiseVector_raises (v : Nat) (s : State) : if (s.host.msix.get {} v).mask then
      (raiseVector v s).host.pba.get false v = true ∧ (raiseVector v s).host.irqSent = s.host.irqSent
    else (raiseVector v s).host.irqSent.get 0 v = s.host.irqSent.get 0 v + 1 := by
  unfold raiseVector
  rw [State.modHost_host]
  split
  · exact ⟨Table.get_set_same s.host.pba false v true, rfl⟩
  · exact Table.get_mod_same s.host.irqSent 0 v (· + 1)

theorem interruptTimer_ring {j : Fin 64} (hlink : s.host.linkUp = true) (hup : (cplRing s j).timeUp s.aon = true) :
    LeadsTo (exec (.interruptTimer (some j)) s) fun t => (cplRing t j).unsig = 0
      ∧ let v := (cplRing s j).vector
        if (s.host.msix.get {} v).mask then t.host.pba.get false v = true ∧ t.host.irqSent = s.host.irqSent
        else t.host.irqSent.get 0 v = s.host.irqSent.get 0 v + 1 := by
  refine ⟨raiseVector (cplRing s j).vector (setCplRing j { cplRing s j with unsig := 0 } s),
    congrArg Host.Outcome.next (if_pos (by rw [hlink, hup]; rfl)), ?_, raiseVector_raises _ (setCplRing j { cplRing s j with unsig := 0 } s)⟩
  obtain ⟨pba, irq, h⟩ := raiseVector_eq (cplRing s j).vector (setCplRing j { cplRing s j with unsig := 0 } s)
  rw [h]
  exact congrArg OutRing.unsig ((cplRing_setCplRing ..).trans (if_pos rfl))

theorem interruptTimer_events (hlink : s.host.linkUp = true) (hup : s.host.evt.timeUp s.aon = true) :
    LeadsTo (exec (.interruptTimer none) s) fun t => t.host.evt.unsig = 0
      ∧ let v := s.host.evt.vector
        if (s.host.msix.get {} v).mask then t.host.pba.get false v = true ∧ t.host.irqSent = s.host.irqSent
        else t.host.irqSent.get 0 v = s.host.irqSent.get 0 v + 1 := by
  refine ⟨raiseVector s.host.evt.vector (setEvtRing { s.host.evt with unsig := 0 } s),
    congrArg Host.Outcome.next (if_pos (by rw [hlink, hup]; rfl)), ?_, raiseVector_raises _ (setEvtRing { s.host.evt with unsig := 0 } s)⟩
  obtain ⟨pba, irq, h⟩ := raiseVector_eq s.host.evt.vector (setEvtRing { s.host.evt with unsig := 0 } s)
  rw [h]
  rfl

/-- Settles O21: the way down and up by the branch of PCIE_LINK_UP that it takes, LINK_RESTORED by the rule of a written event. -/
theorem linkLossHolds : Obligations.LinkLossHolds := by
  unfold Obligations.LinkLossHolds
  intro on
  refine ⟨fun s h hoff => pcieLinkDown_notes h hoff, fun w v s hlink hd3 htr hoff hperst => pcieLinkUp_first hlink hd3 htr hoff hperst,
    fun w v s hlink hd3 htr hoff hperst hwait hdisc hcpl hroom => ?again, fun h hs s => ⟨rfl, by cases h <;> rfl⟩,
    fun w v s hlink hoff hperst => ?moved, fun w v s hlink hd3 hoff hperst hwait hdisc hcpl => pcieLinkUp_d0 hlink hd3 hoff hperst hwait hdisc hcpl,
    fun j s hlink hup => interruptTimer_ring hlink hup, fun s hlink hup => interruptTimer_events hlink hup⟩
  case again =>
    intro e u
    obtain ⟨n, o, pba, irq, fm, heq⟩ := writeEvt_eq e { s with host := { on s.host with rate := { width := 2 ^ w.val, speed := v + 1 } } }
    refine ⟨pcieLinkUp_again hlink hd3 htr hoff hperst hwait hdisc hcpl hroom, ?_, ?_⟩
    · show (writeEvt e _).host.evt.seq = _
      rw [heq]
      rfl
    · show (writeEvt e _).hostMem = _
      rw [heq]
  case moved =>
    rw [exec_pcieLinkUp hoff hperst, exec_pcieLinkUp hoff hperst, if_pos hlink, if_pos hlink]
    exact ⟨rfl, rfl⟩

end Sys2Proof.Machine

/-! SUPPORT. Proofs of the statements about queries (O25) and about messages and rations (O26). -/

namespace Sys2Proof.Machine

open Sys2Proof

variable {s : State} {i : Nat} {c : InCmd}

/-! ### Queries (R399, R408) -/

/-- A query's step on a query that it takes. -/
theorem queryStep_takes {code : Nat} {result : State → List Byte} (h : Takes s i c) (hop : c.opcode = 6) (harg : c.arg0 = code)
    (hcode : queryListed code = true) (hsame : result (takeCmd i s) = result s) : queryStep code result s
      = .next (if c.arg1 % 64 ≠ 0 ∨ c.arg2 < (result s).length then complete c.id 1 0 (takeCmd i s)
          else if 2 ^ 64 < c.arg1 + (result s).length then complete c.id 4 0 (takeCmd i s)
          else complete c.id 0 (result s).length { takeCmd i s with hostMem := s.hostMem.writeN c.arg1 (result s) }) := by
  rw [queryStep, hostStep_takes h (by simp [hop, harg]) (by simp [rowless, hop, harg, hcode, opcodeListed]), ← hsame]
  rfl

theorem query_answers {code : Nat} {row : Instr} {result : State → List Byte} (hrow : exec row s = queryStep code result s) (h : Takes s i c)
    (hop : c.opcode = 6) (harg : c.arg0 = code) (hcode : queryListed code = true) (hsame : result (takeCmd i s) = result s) :
    (c.arg1 % 64 = 0 → (result s).length ≤ c.arg2 → c.arg1 + (result s).length ≤ 2 ^ 64 →
        exec row s = .next (complete c.id 0 (result s).length { takeCmd i s with hostMem := s.hostMem.writeN c.arg1 (result s) }))
      ∧ (c.arg1 % 64 ≠ 0 ∨ c.arg2 < (result s).length → exec row s = .next (complete c.id 1 0 (takeCmd i s))) := by
  rw [hrow, queryStep_takes h hop harg hcode hsame]
  refine ⟨fun halign hlen hend => ?_, fun hbad => by rw [if_pos hbad]⟩
  rw [if_neg (by omega), if_neg (by omega)]

theorem identityResult_length (s : State) : (identityResult s).length = 64 := by
  simp [identityResult, leBytes_length, zeros]

theorem eccResult_length (s : State) : (eccResult s).length = 2048 :=
  (flatMap_leBytes_length 8 _ _).trans (by rw [List.length_range])

theorem shapeResult_length (s : State) : (shapeResult s).length = 2452 := by
  have hblocks : (shapeBlocks s).length = 4 := flatMap_leBytes_length 1 _ _
  have hframes : (shapeFrames s).length = 16 := flatMap_leBytes_length 4 _ _
  have hmap : ((List.range 256).flatMap fun b => leBytes 1 (mapByte s b)).length = 256 :=
    (flatMap_leBytes_length 1 _ _).trans (by rw [List.length_range])
  have hcols : ((List.range 272).flatMap (columnEntries s)).length = 2176 := by
    have hentry : ∀ p, (columnEntries s p).length = 8 := fun p => padTo_length _ 8
    simp only [List.length_flatMap, hentry, List.map_const', List.length_range, List.sum_replicate, smul_eq_mul]
  simp only [shapeResult, List.length_append, hblocks, hframes, hmap, hcols]

theorem energyResult_length (s : State) : (energyResult s).length = 16 := by
  simp [energyResult, leBytes_length]

/-- Settles O25: the four rows are one step with a result of its own. -/
theorem queries : Obligations.Queries := by
  unfold Obligations.Queries
  refine ⟨fun code row result i c s hrow h hop harg => ?_, fun s =>
    ⟨identityResult_length s, eccResult_length s, shapeResult_length s, energyResult_length s⟩⟩
  simp only [List.mem_cons, Prod.mk.injEq, List.not_mem_nil, or_false] at hrow
  obtain ⟨rfl, rfl, rfl⟩ | ⟨rfl, rfl, rfl⟩ | ⟨rfl, rfl, rfl⟩ | ⟨rfl, rfl, rfl⟩ := hrow
  · exact query_answers (result := identityResult) rfl h hop harg rfl rfl
  · exact query_answers (result := eccResult) rfl h hop harg rfl rfl
  · exact query_answers (result := shapeResult) rfl h hop harg rfl rfl
  · exact query_answers (result := energyResult) rfl h hop harg rfl rfl

/-! ### MGT_SEND (R394) -/

/-- The packet of a message that the host hands over. -/
def handed (s : State) (c : InCmd) : Packet := { type := 1, dst := c.arg1, jobTag := s.job.tag, payload := s.hostMem.readN c.arg0 c.arg2 }

theorem fmReachable_takeCmd (i : Nat) (s : State) : fmReachable (takeCmd i s) = fmReachable s := rfl

theorem exec_mgtSend (h : Takes s i c) (hop : c.opcode = 0x0F) (hlo : 8 ≤ c.arg2) (hhi : c.arg2 ≤ 4096) (hread : hostReadFails s c.arg0 c.arg2 = false)
    (hok : mgtOk (handed s c) = true) : exec .mgtSend s
      = .next (if s.fab.number = some c.arg1 then
          complete c.id 0 0 (ownMessage { handed s c with src := c.arg1, epoch := s.fab.epoch } (takeCmd i s))
        else if linkLocal (handed s c) then
          match localLink (takeCmd i s) c.arg1 with
          | some k => complete c.id 0 0 (enqueue k
              { pkt := { handed s c with src := s.fab.number.getD 0, epoch := s.fab.epoch }, region := k / 136 } (takeCmd i s))
          | none => complete c.id 0 0 (takeCmd i s)
        else if mgtFm (handed s c) && !fmReachable (takeCmd i s) then complete c.id 0 0 (fmMessage (handed s c).payload (deviceField s) (takeCmd i s))
        else complete c.id 0 0 (originate alwaysOn (handed s c) (takeCmd i s))) := by
  have hread' : ¬hostReadFails (takeCmd i s) c.arg0 c.arg2 = true := by
    rw [show hostReadFails (takeCmd i s) c.arg0 c.arg2 = false from hread]
    exact Bool.false_ne_true
  have hok' : ¬(!mgtOk (handed s c)) = true := by simp [hok]
  show Host.Outcome.next (hostStep (fun c => c.opcode == 0x0F) takeMgtSend s) = _
  rw [hostStep_own h hop (by decide)]
  exact congrArg Host.Outcome.next ((if_neg (by omega)).trans ((if_neg hread').trans (if_neg hok')))

theorem mgtSend_sends (h : Takes s i c) (hop : c.opcode = 0x0F) (hlo : 8 ≤ c.arg2) (hhi : c.arg2 ≤ 4096) (hread : hostReadFails s c.arg0 c.arg2 = false)
    (hok : mgtOk (handed s c) = true) :
    (s.fab.number = some c.arg1 → s.fab.mgtIn.length < 64 → exec .mgtSend s = .next (complete c.id 0 0 ((takeCmd i s).modFab fun f =>
        { f with mgtIn := f.mgtIn ++ [{ pkt := { handed s c with src := c.arg1, epoch := s.fab.epoch } }] })))
      ∧ (s.fab.number ≠ some c.arg1 → linkLocal (handed s c) = true →
          (∀ k, localLink (takeCmd i s) c.arg1 = some k → exec .mgtSend s = .next (complete c.id 0 0 (enqueue k
            { pkt := { handed s c with src := s.fab.number.getD 0, epoch := s.fab.epoch }, region := k / 136 } (takeCmd i s))))
          ∧ (localLink (takeCmd i s) c.arg1 = none → exec .mgtSend s = .next (complete c.id 0 0 (takeCmd i s))))
      ∧ (s.fab.number ≠ some c.arg1 → linkLocal (handed s c) = false → mgtFm (handed s c) = false ∨ fmReachable s = true →
          exec .mgtSend s = .next (complete c.id 0 0 (originate alwaysOn (handed s c) (takeCmd i s))))
      ∧ (s.fab.number ≠ some c.arg1 → linkLocal (handed s c) = false → mgtFm (handed s c) = true → fmReachable s = false →
          exec .mgtSend s = .next (complete c.id 0 0 (fmMessage (handed s c).payload (deviceField s) (takeCmd i s)))) := by
  rw [exec_mgtSend h hop hlo hhi hread hok, fmReachable_takeCmd]
  refine ⟨fun hown hroom => ?own, fun hown hlocal => ⟨fun k hk => ?link, fun hk => ?noLink⟩, fun hown hlocal hfm => ?out, fun hown hlocal hfm hreach => ?host⟩
  case own =>
    rw [if_pos hown]
    exact congrArg (fun u => Host.Outcome.next (complete c.id 0 0 u)) (if_pos hroom)
  case link => rw [if_neg hown, if_pos hlocal, hk]
  case noLink => rw [if_neg hown, if_pos hlocal, hk]
  case out => rw [if_neg hown, if_neg (by simp [hlocal]), if_neg (by simpa [or_iff_not_imp_left] using hfm)]
  case host => rw [if_neg hown, if_neg (by simp [hlocal]), if_pos (by simp [hfm, hreach])]

/-! ### Rations (R421 to R425) -/

/-- What the arrival of a ration leaves: all but the value in force, its time, and the floor's episode. -/
def RationRest (s : State) : HostIf × Ident × Dev × Nat × Nat × Nat := (s.host, s.idn, s.dev, s.pwr.hostMw, s.pwr.mctpMw, s.pwr.floorMw)

theorem rationRest_rationArrived (s : State) : RationRest (rationArrived s) = RationRest s :=
  ite_view RationRest rfl (ite_view RationRest rfl rfl)

/-- A value arrives while a RUN or BACKSIGHT goes on. -/
theorem rationArrived_pending (h : s.dev = .run ∨ s.dev = .backsight) :
    rationArrived s = s.modPwr fun p => { p with deadline := some (p.deadline.getD (s.aon + 100000)) } :=
  if_pos (by rcases h with h | h <;> simp [h])

theorem rationArrived_brings (h : ¬(s.dev = .run ∨ s.dev = .backsight)) : rationArrived s = bringRation s :=
  if_neg (by simpa using h)

theorem rationArrived_force (s : State) : if s.dev = .run ∨ s.dev = .backsight then
      (rationArrived s).pwr.forceMw = s.pwr.forceMw ∧ (rationArrived s).pwr.deadline = some (s.pwr.deadline.getD (s.aon + 100000))
    else (rationArrived s).pwr.forceMw = newRation s ∧ (rationArrived s).pwr.deadline = none := by
  split
  next h =>
    rw [rationArrived_pending h]
    exact ⟨rfl, rfl⟩
  next h =>
    rw [rationArrived_brings h]
    exact bringRation_brings s

theorem newRation_rationArrived (s : State) : newRation (rationArrived s) = newRation s := by
  have h := rationRest_rationArrived s
  simp only [RationRest, Prod.mk.injEq] at h
  simp only [newRation, h]

theorem ration_sets (h : Takes s i c) (hop : c.opcode = 0x10) : let w := min (min c.arg0 s.pwr.mctpMw) 3200000
    ∃ u, exec .ration s = .next (complete c.id (if w < s.pwr.floorMw then 0x32 else 0) 0 u) ∧ u.host = (takeCmd i s).host ∧ u.pwr.hostMw = c.arg0
      ∧ if s.dev = .run ∨ s.dev = .backsight then u.pwr.forceMw = s.pwr.forceMw ∧ u.pwr.deadline = some (s.pwr.deadline.getD (s.aon + 100000))
        else u.pwr.forceMw = w ∧ u.pwr.deadline = none := by
  intro w
  have hforce := rationArrived_force ((takeCmd i s).modPwr fun p => { p with hostMw := c.arg0 })
  have hrest := rationRest_rationArrived ((takeCmd i s).modPwr fun p => { p with hostMw := c.arg0 })
  have hnew := newRation_rationArrived ((takeCmd i s).modPwr fun p => { p with hostMw := c.arg0 })
  simp only [RationRest, Prod.mk.injEq] at hrest
  obtain ⟨hhost, -, -, hown, -, hfloor⟩ := hrest
  refine ⟨rationArrived ((takeCmd i s).modPwr fun p => { p with hostMw := c.arg0 }), ?_, hhost, hown, hforce⟩
  show Host.Outcome.next (hostStep (fun c => c.opcode == 0x10) takeRation s) = _
  rw [hostStep_own h hop (by decide), takeRation, hnew, hfloor]
  rfl

theorem rationReaches_i3c {x : BitVec 7} (hoff : s.dev ≠ .off) (hx : x.toNat = s.idn.i3cAddr.getD 0x3A) : rationReaches s (.i3c x) = true := by
  simp [rationReaches, hoff, i3cAddress, hx]

theorem exec_setRation {x : BitVec 7} {cmd rsv : Byte} {mw : W32} (hoff : s.dev ≠ .off) (hx : x.toNat = s.idn.i3cAddr.getD 0x3A) :
    exec (.setRation (.i3c x) cmd rsv mw) s = .next (rationRequest cmd.toNat rsv.toNat mw.toNat s) :=
  congrArg Host.Outcome.next (if_pos (rationReaches_i3c hoff hx))

theorem exec_getPower {x : BitVec 7} {cmd rsv : Byte} {a : W32} (hoff : s.dev ≠ .off) (hx : x.toNat = s.idn.i3cAddr.getD 0x3A) :
    exec (.getPower (.i3c x) cmd rsv a) s = .next (rationRequest cmd.toNat rsv.toNat a.toNat s) :=
  congrArg Host.Outcome.next (if_pos (rationReaches_i3c hoff hx))

theorem setRation_sets (cmd mw : Nat) (s : State) : let w := min (min s.pwr.hostMw mw) 3200000
    let t := setRation cmd mw s
    t.pwr.mctpMw = mw ∧ t.idn.i3c.out = some (.ration (rationBody cmd (if w < s.pwr.floorMw then 1 else 0) t))
      ∧ if s.dev = .run ∨ s.dev = .backsight then t.pwr.forceMw = s.pwr.forceMw else t.pwr.forceMw = w := by
  intro w t
  have hforce := rationArrived_force (s.modPwr fun p => { p with mctpMw := mw })
  have hrest := rationRest_rationArrived (s.modPwr fun p => { p with mctpMw := mw })
  have hnew := newRation_rationArrived (s.modPwr fun p => { p with mctpMw := mw })
  simp only [RationRest, Prod.mk.injEq] at hrest
  obtain ⟨-, -, -, -, hown, hfloor⟩ := hrest
  have ht : t = i3cSend (.ration (rationBody cmd (if w < s.pwr.floorMw then 1 else 0) (rationArrived (s.modPwr fun p => { p with mctpMw := mw }))))
      (rationArrived (s.modPwr fun p => { p with mctpMw := mw })) := by
    show setRation cmd mw s = _
    rw [setRation, hnew, hfloor]
    rfl
  rw [ht]
  refine ⟨hown, rfl, ?_⟩
  by_cases hd : s.dev = .run ∨ s.dev = .backsight
  · rw [if_pos hd]
    exact ((if_pos hd).mp hforce).1
  · rw [if_neg hd]
    exact ((if_neg hd).mp hforce).1

/-- A request that reaches nobody changes nothing. -/
theorem rationReaches_elsewhere {t : Transport} (h : s.dev = .off ∨ ∀ x : BitVec 7, t = .i3c x → x.toNat ≠ s.idn.i3cAddr.getD 0x3A) :
    ¬rationReaches s t = true := by
  rcases h with h | h
  · simp [rationReaches, h]
  · cases t with
    | pcieVdm => simp [rationReaches]
    | i3c x => simp [rationReaches, i3cAddress, h x rfl]

theorem rationRequest_invalid {cmd rsv : Byte} {a : W32} (h : rsv ≠ 0 ∨ (cmd ≠ 1 ∧ cmd ≠ 2) ∨ (cmd = 2 ∧ a ≠ 0)) :
    rationRequest cmd.toNat rsv.toNat a.toNat s = i3cSend (.ration (rationBody cmd.toNat 2 s)) s := by
  have hrsv : rsv.toNat = 0 ↔ rsv = 0 := BitVec.toNat_inj (y := 0#8)
  have hone : cmd.toNat = 1 ↔ cmd = 1 := BitVec.toNat_inj (y := 1#8)
  have htwo : cmd.toNat = 2 ↔ cmd = 2 := BitVec.toNat_inj (y := 2#8)
  have harg : a.toNat = 0 ↔ a = 0 := BitVec.toNat_inj (y := 0#32)
  have hset : ¬(rsv.toNat = 0 ∧ cmd.toNat = 1) := by
    rw [hrsv, hone]
    rintro ⟨rfl, rfl⟩
    simp at h
  have hget : ¬(rsv.toNat = 0 ∧ cmd.toNat = 2 ∧ a.toNat = 0) := by
    rw [hrsv, htwo, harg]
    rintro ⟨rfl, rfl, rfl⟩
    simp at h
  exact (if_neg hset).trans (if_neg hget)

/-- Settles O26: a message by the way that it takes, a ration by what its arrival brings. -/
theorem messagesAndRations : Obligations.MessagesAndRations := by
  unfold Obligations.MessagesAndRations
  refine ⟨fun i c s h hop hlo hhi hread => ?send, fun i c s h hop => ration_sets h hop, fun x mw s hoff hx => ?set, fun x s hoff hx => ?get,
    fun t cmd rsv a s h => ⟨congrArg Host.Outcome.next (if_neg (rationReaches_elsewhere h)),
      congrArg Host.Outcome.next (if_neg (rationReaches_elsewhere h))⟩, fun x cmd rsv a s hoff hx h => ?invalid⟩
  case send =>
    intro p hok
    exact mgtSend_sends h hop hlo hhi hread hok
  case set => exact ⟨_, exec_setRation hoff hx, setRation_sets 1 mw.toNat s⟩
  case get =>
    rw [exec_getPower hoff hx]
    rfl
  case invalid =>
    rw [exec_setRation hoff hx, exec_getPower hoff hx, rationRequest_invalid h]
    exact ⟨rfl, rfl⟩

end Sys2Proof.Machine

/-! SUPPORT. Proof of the statement about checkpoints and fills (O44). -/

namespace Sys2Proof.Machine

open Sys2Proof

variable {s u : State} {i : Nat} {c : InCmd}

/-! ### The state over the errors of the memories -/

/-- `u` is `s` with errors that reads will meet laid down, and with what its blocks note of them. -/
def Met (s u : State) : Prop := ∃ b m, u = { s with blks := b, hbm := { s.hbm with meet := m } }

theorem Met.takes (h : Met s u) (ht : Takes s i c) : Takes u i c := by
  obtain ⟨b, m, rfl⟩ := h
  exact ⟨ht.turn, ht.entry, ht.ok⟩

theorem moving_of_met {errs : List ReadErr} {f g : State → Out} (h : ∀ u, Met s u → f u = g u) : moving errs f s = moving errs g s := by
  refine meeting_congr fun m => h _ ?_
  have hview : { noteUnread errs s with blks := s.blks } = s :=
    noteUnread_view (fun u => { u with blks := s.blks }) (fun _ _ _ => rfl) errs s
  have hs : noteUnread errs s = { s with blks := (noteUnread errs s).blks } := congrArg (fun u => { u with blks := (noteUnread errs s).blks }) hview
  rw [hs]
  exact ⟨_, m, rfl⟩

/-! ### CHECKPOINT_OUT (R463, R481) -/

/-- The ranges that a CHECKPOINT_OUT lists. -/
def listedRanges (s : State) (c : InCmd) : List (Nat × Nat) := rangeList (s.hostMem.readN c.arg0 (16 * (c.arg3 % 2 ^ 16))) (c.arg3 % 2 ^ 16)

/-- It asks for an image at a station of the RUN in progress that is known to be open. -/
def imageAtOpen (s : State) (c : InCmd) : Bool :=
  bit c.arg3 16 && (match s.job.run with | some r => decide (r.base < c.arg1) && decide (c.arg1 ≤ r.base + r.legs) | none => false)
    && !stationClosed s c.arg1

theorem imageAtOpen_none (h : bit c.arg3 16 = false ∨ s.job.run = none) : imageAtOpen s c = false := by
  rcases h with h | h <;> simp [imageAtOpen, h]

section
variable (h : Takes s i c) (hop : c.opcode = 7)
include h hop

theorem exec_checkpointOut : exec .checkpointOut s = .next (takeCheckpoint c (takeCmd i s)) :=
  congrArg Host.Outcome.next (hostStep_own h hop (by decide))

theorem checkpointOut_malformed (hbad : c.arg0 % 64 ≠ 0 ∨ 2 ^ 48 ≤ c.arg1 ∨ c.arg2 % 4096 ≠ 0 ∨ c.arg3 % 2 ^ 16 = 0 ∨ 1024 < c.arg3 % 2 ^ 16 ∨ c.arg4 ≠ 0) :
    exec .checkpointOut s = .next (complete c.id 1 0 (takeCmd i s)) := by
  rw [exec_checkpointOut h hop]
  refine congrArg Host.Outcome.next (if_pos ?_)
  rw [Bool.not_eq_true', Bool.eq_false_iff]
  simp only [ne_eq, Bool.and_eq_true, beq_iff_eq, decide_eq_true_iff]
  omega

/-- A CHECKPOINT_OUT whose operands lie in their ranges. -/
theorem checkpointOut_formed (halign : c.arg0 % 64 = 0) (hst : c.arg1 < 2 ^ 48) (hreg : bits c.arg2 40 38 = 0) (hpage : c.arg2 % 4096 = 0)
    (hlo : 1 ≤ c.arg3 % 2 ^ 16) (hhi : c.arg3 % 2 ^ 16 ≤ 1024) (hflags : c.arg3 < 2 ^ 17) (hrest : c.arg4 = 0) :
    exec .checkpointOut s = .next (
      if stationPassed s c.arg1 then complete c.id 0x20 0 (takeCmd i s)
      else if hostReadFails s c.arg0 (16 * (c.arg3 % 2 ^ 16)) then complete c.id 4 0 (takeCmd i s)
      else if !rangesOk s (listedRanges s c) || imageAtOpen s c then complete c.id 1 0 (takeCmd i s)
      else if coreLost s (listedRanges s c) (bit c.arg3 16) then complete c.id 0x15 0 (takeCmd i s)
      else (takeCmd i s).modMem fun m =>
        { m with ckpts := m.ckpts ++ [{ cmd := c.id, station := c.arg1, addr := c.arg2, list := listedRanges s c, image := bit c.arg3 16 }] }) := by
  have hform : (c.arg0 % 64 == 0 && decide (c.arg1 < 2 ^ 48) && decide (bits c.arg2 40 38 = 0) && c.arg2 % 4096 == 0
      && decide (1 ≤ c.arg3 % 2 ^ 16) && decide (c.arg3 % 2 ^ 16 ≤ 1024) && decide (c.arg3 < 2 ^ 17) && c.arg4 == 0) = true := by
    simp only [Bool.and_eq_true, beq_iff_eq, decide_eq_true_iff]
    exact ⟨⟨⟨⟨⟨⟨⟨halign, hst⟩, hreg⟩, hpage⟩, hlo⟩, hhi⟩, hflags⟩, hrest⟩
  rw [exec_checkpointOut h hop]
  exact congrArg Host.Outcome.next (if_neg (by rw [hform]; exact Bool.false_ne_true))

end

/-! ### CHECKPOINT_RUN (R481, R482) -/

theorem ckptOf_cmd {id : Nat} {k : Ckpt} (h : ckptOf s id = some k) : k.cmd = id := by
  simpa using List.find?_some h

/-- A checkpoint's state moves on where its command stays. -/
theorem ckptOf_modCkpt {id : Nat} {k : Ckpt} (h : ckptOf s id = some k) (f : Ckpt → Ckpt) (hf : ∀ k, (f k).cmd = k.cmd) :
    ckptOf (s.modCkpt id f) id = some (f k) := by
  have hcmd : ∀ x : Ckpt, (if x.cmd = id then f x else x).cmd = x.cmd := fun x => by
    split
    · exact hf x
    · rfl
  have hfind : ckptOf (s.modCkpt id f) id = (ckptOf s id).map fun x => if x.cmd = id then f x else x := by
    unfold ckptOf State.modCkpt
    rw [State.modMem_mem, List.find?_map]
    congr 1
    refine congrArg (fun p => s.mem.ckpts.find? p) (funext fun x => ?_)
    simp only [Function.comp_apply, hcmd]
  rw [hfind, h, Option.map_some, if_pos (ckptOf_cmd h)]

/-- The step of a checkpoint at its turn. -/
theorem ckptRunStep_turn {id : Nat} {k : Ckpt} (hk : ckptOf s id = some k) (hphase : k.phase = 0) (hturn : ckptTurn s = true)
    (hst : k.station = runStation s) : ckptRunStep id s
      = .next (if (k.image && !stationClosed s k.station) || !rangesOk s k.list then endCkpt id 1 0 s
          else if coreLost s k.list k.image then endCkpt id 0x15 0 s
          else settleCore (ckptSend id (s.modCkpt id fun k => { k with phase := 1 }))) := by
  have hguard : (k.phase = 0 && ckptTurn s && k.station == runStation s) = true := by simp [hphase, hturn, hst]
  unfold ckptRunStep
  rw [hk]
  dsimp only
  rw [if_pos hguard, apply_ite Host.Outcome.next, apply_ite Host.Outcome.next]

/-- The copy starts with a zero word. -/
theorem ckptSend_starts {id : Nat} {k : Ckpt} (hk : ckptOf s id = some k) : ckptSend id (s.modCkpt id fun k => { k with phase := 1 })
    = coreRequest id 6 s.job.tag 0x11 k.addr (zeros 4) (s.modCkpt id fun k => { k with phase := 1 }) := by
  unfold ckptSend
  rw [ckptOf_modCkpt hk (fun k => { k with phase := 1 }) fun _ => rfl]
  rfl

section
variable {id : Nat} {k : Ckpt} {errs : List ReadErr} (hk : ckptOf s id = some k) (hphase : k.phase = 0) (hturn : ckptTurn s = true)
  (hst : k.station = runStation s)
include hk hphase hturn hst

/-- CHECKPOINT_RUN reads nothing that the memories' errors change. -/
theorem exec_checkpointRun : exec (.checkpointRun id errs) s = meeting errs (fun v => .next (leaveStation (
    if (k.image && !stationClosed s k.station) || !rangesOk s k.list then endCkpt id 1 0 v
    else if coreLost s k.list k.image then endCkpt id 0x15 0 v
    else settleCore (coreRequest id 6 s.job.tag 0x11 k.addr (zeros 4) (v.modCkpt id fun k => { k with phase := 1 }))))) s := by
  show meeting errs (fun v => leaving (ckptRunStep id v)) s = _
  refine meeting_congr fun m => ?_
  have hk' : ckptOf (s.modHbm fun x => { x with meet := m }) id = some k := hk
  rw [ckptRunStep_turn hk' hphase hturn hst, ckptSend_starts hk']
  rfl

theorem checkpointRun_open (himage : k.image = true) (hopen : stationClosed s k.station = false) :
    exec (.checkpointRun id errs) s = meeting errs (fun v => .next (leaveStation (endCkpt id 1 0 v))) s := by
  have hbad : ((k.image && !stationClosed s k.station) || !rangesOk s k.list) = true := by simp [himage, hopen]
  simp only [exec_checkpointRun hk hphase hturn hst, if_pos hbad]

theorem checkpointRun_starts (hclosed : k.image = false ∨ stationClosed s k.station = true) (hranges : rangesOk s k.list = true) :
    (coreLost s k.list k.image = true → exec (.checkpointRun id errs) s = meeting errs (fun v => .next (leaveStation (endCkpt id 0x15 0 v))) s)
      ∧ (coreLost s k.list k.image = false → exec (.checkpointRun id errs) s = meeting errs (fun v => .next (leaveStation
          (settleCore (coreRequest id 6 s.job.tag 0x11 k.addr (zeros 4) (v.modCkpt id fun k => { k with phase := 1 }))))) s) := by
  have hgood : ¬((k.image && !stationClosed s k.station) || !rangesOk s k.list) = true := by
    rcases hclosed with hclosed | hclosed <;> simp [hclosed, hranges]
  simp only [exec_checkpointRun hk hphase hturn hst, if_neg hgood]
  exact ⟨fun hlost => by simp only [if_pos hlost], fun hthere => by simp only [hthere, Bool.false_eq_true, if_false]⟩

end

theorem ckptReply_fails {id o : Nat} {k : Ckpt} (hk : ckptOf s id = some k) (ho : o ≠ 0) : ckptReply id o s = endCkpt id 4 0 s := by
  unfold ckptReply
  rw [hk]
  exact if_pos ho

theorem ckptReply_last {id : Nat} {k : Ckpt} (hk : ckptOf s id = some k) (hphase : k.phase = 7) : ckptReply id 0 s = endCkpt id 0 k.digest s := by
  have hafter : (k.after (loadedClass s).length).phase = 8 := by simp [Ckpt.after, hphase]
  unfold ckptReply
  rw [hk]
  exact (if_neg (by simp)).trans (if_pos hafter)

/-! ### FILL_IN (R484) -/

/-- The fill that a FILL_IN begins. -/
def newFill (s : State) (c : InCmd) : Fill :=
  { cmd := c.id, addr := c.arg0, tag := c.arg1, want := c.arg2, key := fillKey s, blocks := s.blks.blk, tables := s.rmt }

theorem exec_fillIn (h : Takes s i c) (hop : c.opcode = 8) : exec .fillIn s = .next (settleCore (
    if s.dev != .ready || s.mem.fill.isSome then complete c.id 2 0 (takeCmd i s)
    else if !(decide (bits c.arg0 40 38 = 0) && c.arg0 % 4096 == 0 && decide (c.arg1 < 2 ^ 32) && c.arg3 == 0 && c.arg4 == 0) then
      complete c.id 1 0 (takeCmd i s)
    else if !(regionUp s 0) then complete c.id 0x15 0 (takeCmd i s)
    else coreRequest c.id 5 c.arg1 0x10 c.arg0 (leBytes 8 64) ((takeCmd i s).modMem fun m =>
      { m with fill := some (newFill s c), fillState := 1, fillCause := 0, fillStation := 0, fillImage := false }))) :=
  congrArg Host.Outcome.next ((hostStep_own h hop (by decide)).trans rfl)

section
variable (h : Takes s i c) (hop : c.opcode = 8)
include h hop

theorem fillIn_refused (hbad : s.dev ≠ .ready ∨ s.mem.fill ≠ none) : exec .fillIn s = .next (settleCore (complete c.id 2 0 (takeCmd i s))) := by
  rw [exec_fillIn h hop, if_pos (by simpa [Option.isSome_iff_ne_none] using hbad)]

variable (hready : s.dev = .ready) (hfree : s.mem.fill = none)
include hready hfree

theorem fillIn_malformed (hbad : bits c.arg0 40 38 ≠ 0 ∨ c.arg0 % 4096 ≠ 0 ∨ 2 ^ 32 ≤ c.arg1 ∨ c.arg3 ≠ 0 ∨ c.arg4 ≠ 0) :
    exec .fillIn s = .next (settleCore (complete c.id 1 0 (takeCmd i s))) := by
  have hform : (!(decide (bits c.arg0 40 38 = 0) && c.arg0 % 4096 == 0 && decide (c.arg1 < 2 ^ 32) && c.arg3 == 0 && c.arg4 == 0)) = true := by
    rw [Bool.not_eq_true', Bool.eq_false_iff]
    simp only [ne_eq, Bool.and_eq_true, beq_iff_eq, decide_eq_true_iff]
    omega
  rw [exec_fillIn h hop, if_neg (by simp [hready, hfree]), if_pos hform]

variable (hreg : bits c.arg0 40 38 = 0) (hpage : c.arg0 % 4096 = 0) (htag : c.arg1 < 2 ^ 32) (h3 : c.arg3 = 0) (h4 : c.arg4 = 0)
include hreg hpage htag h3 h4

theorem fillIn_formed : exec .fillIn s = .next (settleCore (
    if !(regionUp s 0) then complete c.id 0x15 0 (takeCmd i s)
    else coreRequest c.id 5 c.arg1 0x10 c.arg0 (leBytes 8 64) ((takeCmd i s).modMem fun m =>
      { m with fill := some (newFill s c), fillState := 1, fillCause := 0, fillStation := 0, fillImage := false }))) := by
  have hform : (decide (bits c.arg0 40 38 = 0) && c.arg0 % 4096 == 0 && decide (c.arg1 < 2 ^ 32) && c.arg3 == 0 && c.arg4 == 0) = true := by
    simp only [Bool.and_eq_true, beq_iff_eq, decide_eq_true_iff]
    exact ⟨⟨⟨⟨hreg, hpage⟩, htag⟩, h3⟩, h4⟩
  rw [exec_fillIn h hop, if_neg (by simp [hready, hfree]), if_neg (by rw [hform]; exact Bool.false_ne_true)]

end

/-! ### The end of a fill (R484, R485) -/

theorem finishFill_agrees {f : Fill} (hf : s.mem.fill = some f) (hwant : f.digest = f.want) (hhdr : f.digest = f.hdrDigest) :
    finishFill s = complete f.cmd 0 f.digest ((if f.image then { s with job := { s.job with last := f.station, valid := true } } else s).modMem fun m =>
      { m with fill := none, fillState := 2, fillCause := 0, fillStation := f.station, fillImage := f.image, fillBar := false }) := by
  unfold finishFill
  rw [hf]
  exact if_pos ⟨hwant, hhdr⟩

theorem finishFill_differs {f : Fill} (hf : s.mem.fill = some f) (hne : f.digest ≠ f.want ∨ f.digest ≠ f.hdrDigest) :
    finishFill s = failFill 0x30 4 4 s := by
  unfold finishFill
  rw [hf]
  exact if_neg (by tauto)

theorem failFill_bars {f : Fill} (hf : s.mem.fill = some f) (status value cause : Nat) : (failFill status value cause s).mem.fillBar = true
    ∧ (failFill status value cause s).mem.fillState = 3 ∧ (failFill status value cause s).job.valid = false := by
  unfold failFill
  rw [hf]
  simp only [complete_mem, complete_job]
  exact ⟨rfl, rfl, rfl⟩

/-! ### BACKSIGHT (R488) -/

theorem exec_backsight {errs : List ReadErr} (h : Takes s i c) (hop : c.opcode = 9) :
    exec (.backsight errs) s = moving errs (fun v => .next (takeBacksight c (takeCmd i v))) s :=
  moving_of_met fun _ hu => congrArg Host.Outcome.next (hostStep_own (hu.takes h) hop (by decide))

theorem takeBacksight_met (hu : Met s u) (i : Nat) (c : InCmd) : takeBacksight c (takeCmd i u) = match s.job.trav with
    | none => complete c.id 2 0 (takeCmd i u)
    | some t =>
      if s.dev != .ready || !filledHere s then complete c.id 2 0 (takeCmd i u)
      else if !backsightOk s c then complete c.id 1 0 (takeCmd i u)
      else if !classUp s then complete c.id 0x15 0 (takeCmd i u)
      else startShadow c t.legs.length (takeCmd i u) := by
  obtain ⟨b, m, rfl⟩ := hu
  rfl

/-- BACKSIGHT does what its checks of the state before the errors say. -/
theorem backsight_does {errs : List ReadErr} (h : Takes s i c) (hop : c.opcode = 9) {g : State → State}
    (hg : ∀ v, (match s.job.trav with
      | none => complete c.id 2 0 v
      | some t =>
        if s.dev != .ready || !filledHere s then complete c.id 2 0 v
        else if !backsightOk s c then complete c.id 1 0 v
        else if !classUp s then complete c.id 0x15 0 v
        else startShadow c t.legs.length v) = g v) :
    exec (.backsight errs) s = moving errs (fun v => .next (g (takeCmd i v))) s :=
  (exec_backsight h hop).trans (moving_of_met fun _ hu => congrArg Host.Outcome.next ((takeBacksight_met hu i c).trans (hg _)))

/-- Settles O44: each command by its checks in their order, the replies and the end of a fill by what they change. -/
theorem checkpointsAndFills : Obligations.CheckpointsAndFills := by
  unfold Obligations.CheckpointsAndFills
  refine ⟨fun i c s h hop => ?out, fun id errs k s hk hphase hturn hst => ⟨fun himage hopen => checkpointRun_open hk hphase hturn hst himage hopen,
      fun hclosed hranges => checkpointRun_starts hk hphase hturn hst hclosed hranges⟩,
    fun id o k s hk => ⟨fun ho => ckptReply_fails hk ho, fun hphase => ckptReply_last hk hphase⟩, fun i c s h hop => ?fillIn, fun f s hf => ?finish,
    fun errs i c s h hop => ?shadow⟩
  case out =>
    intro count image rs
    refine ⟨fun hbad => checkpointOut_malformed h hop hbad, fun halign hst hreg hpage hlo hhi hflags hrest => ?_⟩
    rw [checkpointOut_formed h hop halign hst hreg hpage hlo hhi hflags hrest]
    have hnot : ∀ {b : Bool}, b = false → ¬b = true := fun h => Bool.eq_false_iff.1 h
    refine ⟨fun hpassed => by rw [if_pos hpassed], fun hahead hread => ?_, fun hahead hread hranges hopen hlost => ?_,
      fun hahead hread hranges hopen hthere => ?_⟩
    · rw [if_neg (hnot hahead)]
      exact congrArg Host.Outcome.next (if_pos hread)
    · have hgood : (!rangesOk s (listedRanges s c) || imageAtOpen s c) = false := by
        rw [imageAtOpen_none hopen, show rangesOk s (listedRanges s c) = true from hranges]
        rfl
      rw [if_neg (hnot hahead), if_neg (hnot hgood)]
      exact congrArg Host.Outcome.next ((if_neg (hnot hread)).trans (if_pos hlost))
    · have hgood : (!rangesOk s (listedRanges s c) || imageAtOpen s c) = false := by
        rw [imageAtOpen_none hopen, show rangesOk s (listedRanges s c) = true from hranges]
        rfl
      rw [if_neg (hnot hahead), if_neg (hnot hgood)]
      exact congrArg Host.Outcome.next ((if_neg (hnot hread)).trans (if_neg (hnot hthere)))
  case fillIn =>
    intro f
    refine ⟨fun hbad => fillIn_refused h hop hbad, fun hready hfree hbad => fillIn_malformed h hop hready hfree hbad,
      fun hready hfree hreg hpage htag h3 h4 hdown => ?_, fun hready hfree hreg hpage htag h3 h4 hup => ?_⟩
    · rw [fillIn_formed h hop hready hfree hreg hpage htag h3 h4, if_pos (by simp [hdown])]
    · rw [fillIn_formed h hop hready hfree hreg hpage htag h3 h4, if_neg (by simp [hup])]
      rfl
  case finish =>
    refine ⟨fun hwant hhdr => finishFill_agrees hf hwant hhdr, fun hne => ?_⟩
    rw [finishFill_differs hf hne]
    exact ⟨rfl, failFill_bars hf 0x30 4 4⟩
  case shadow =>
    intro does
    refine ⟨fun hno => backsight_does h hop fun v => ?_, fun t ht hready hfilled => ⟨fun hbad => backsight_does h hop fun v => ?_,
      fun hok hdown => backsight_does h hop fun v => ?_, fun hok hup => backsight_does h hop fun v => ?_⟩⟩
    · cases ht : s.job.trav with
      | none => rfl
      | some t => exact if_pos (by simpa [ht] using hno)
    · rw [ht]
      exact (if_neg (by simp [hready, hfilled])).trans (if_pos (by simp [hbad]))
    · rw [ht]
      exact (if_neg (by simp [hready, hfilled])).trans ((if_neg (by simp [hok])).trans (if_pos (by simp [hdown])))
    · rw [ht]
      exact (if_neg (by simp [hready, hfilled])).trans ((if_neg (by simp [hok])).trans (if_neg (by simp [hup])))

end Sys2Proof.Machine

/-! SUPPORT. Proof of the statement about leases, fencing and the shadow (O60). -/

namespace Sys2Proof.Machine

open Sys2Proof

variable {s u : State} {c : Carried} {rest : List Carried}

/-! ### Leases (R471 to R475) -/

theorem leaseRenew_due (hd : discovers s = true) (hdue : s.mem.renewAt ≤ s.aon) : exec .leaseRenew s
    = .next (sendFm 0x30 (renewBody s) { s with mem := { s.mem with
        renewals := (s.mem.renewals ++ [(s.mem.reqId, s.aon)]).drop (s.mem.renewals.length + 1 - 16), reqId := (s.mem.reqId + 1) % 2 ^ 32,
        renewAt := s.mem.renewAt + 50000 * s.mem.renewMs } }) := by
  have hlen : (s.mem.renewals ++ [(s.mem.reqId, s.aon)]).length = s.mem.renewals.length + 1 := by simp
  rw [← hlen]
  exact if_pos (by simp [hd, hdue])

theorem leaseExpiry_due (hd : discovers s = true) (hst : s.mem.lstate = 1) (hdue : s.mem.expiry ≤ s.aon) : exec .leaseExpiry s
    = .next (loseLease 0x70 (leBytes 4 s.mem.lease) { s with mem := { s.mem with lstate := 2, lapsedAt := s.aon } }) :=
  if_pos (by simp [hd, hst, hdue])

theorem leaseExpiry_early (h : s.mem.lstate ≠ 1 ∨ s.aon < s.mem.expiry) : exec .leaseExpiry s = .next s := by
  refine if_neg ?_
  simp only [Bool.and_eq_true, beq_iff_eq, decide_eq_true_iff]
  omega

/-- A grant for a renewal that is kept. -/
theorem takeGrant_kept {req : Nat} {x : Nat × Nat} (hx : s.mem.renewals.find? (fun r => r.1 == req) = some x) (n ms : Nat) : takeGrant req n ms s
    = if ms < 20 ∨ 2000 < ms ∨ grantStale s n then memCount 1 s
      else if !decide (n = s.mem.lease) || (s.mem.lstate == 2 && decide (s.mem.lapsedAt < x.2)) then
        leaveFenced (s.modMem fun m =>
          { m with lease := n, lstate := 1, expiry := if decide (n = s.mem.lease) then max s.mem.expiry (x.2 + 49950 * ms) else x.2 + 49950 * ms })
      else s.modMem fun m =>
        { m with lease := n, lstate := 1, expiry := if decide (n = s.mem.lease) then max s.mem.expiry (x.2 + 49950 * ms) else x.2 + 49950 * ms } := by
  obtain ⟨r, t⟩ := x
  unfold takeGrant
  rw [hx]

theorem takeGrant_none {req : Nat} (h : ∀ r ∈ s.mem.renewals, r.1 ≠ req) (n ms : Nat) : takeGrant req n ms s = memCount 1 s := by
  have hnone : s.mem.renewals.find? (fun r => r.1 == req) = none := List.find?_eq_none.2 fun r hr => by simpa using h r hr
  unfold takeGrant
  rw [hnone]

theorem takeGrant_bad {req n ms : Nat} {x : Nat × Nat} (hx : s.mem.renewals.find? (fun r => r.1 == req) = some x)
    (h : ms < 20 ∨ 2000 < ms ∨ grantStale s n = true) : takeGrant req n ms s = memCount 1 s := by
  rw [takeGrant_kept hx, if_pos h]

theorem takeGrant_new {req n ms : Nat} {x : Nat × Nat} (hx : s.mem.renewals.find? (fun r => r.1 == req) = some x) (hlo : 20 ≤ ms) (hhi : ms ≤ 2000)
    (hfresh : grantStale s n = false) (hne : n ≠ s.mem.lease) : takeGrant req n ms s
      = leaveFenced (s.modMem fun m => { m with lease := n, lstate := 1, expiry := x.2 + 49950 * ms }) := by
  rw [takeGrant_kept hx, if_neg (by simp [hfresh, hlo, hhi]), if_pos (by simp [hne])]
  simp only [hne, decide_false, Bool.false_eq_true, if_false]

theorem takeGrant_same {req n ms : Nat} {x : Nat × Nat} (hx : s.mem.renewals.find? (fun r => r.1 == req) = some x) (hlo : 20 ≤ ms) (hhi : ms ≤ 2000)
    (hfresh : grantStale s n = false) (heq : n = s.mem.lease) (hst : s.mem.lstate = 1) : takeGrant req n ms s
      = s.modMem fun m => { m with lease := n, lstate := 1, expiry := max m.expiry (x.2 + 49950 * ms) } := by
  rw [takeGrant_kept hx, if_neg (by simp [hfresh, hlo, hhi]), if_neg (by simp [heq, hst]), if_pos (by simp [heq])]
  rfl

theorem exec_leaseGrant (h : Message s 0x31 c rest) : exec .leaseGrant s
    = .next (if grantOk (c.pkt.payload.drop 8) then
        takeGrant (field (c.pkt.payload.drop 8) 0 4) (field (c.pkt.payload.drop 8) 4 4) (field (c.pkt.payload.drop 8) 8 2) (mgtRest rest s)
      else fabCount 0 (mgtRest rest s)) := by
  have hexec : exec .leaseGrant s = execLeaseGrant s := rfl
  rw [hexec, execLeaseGrant, mgtStep_takes h rfl]

theorem leaveFenced_fenced (h : s.dev = .fenced) : leaveFenced s = enterReady s := if_pos (by simp [h])

theorem leaveFenced_elsewhere (hf : s.dev ≠ .fenced) (hb : s.dev ≠ .bivouac) : leaveFenced s = s :=
  (if_neg (by simp [hf])).trans (if_neg (by simp [hb]))

/-! ### Fencing (R476 to R478) -/

theorem exec_fenceNotice (h : Message s 0x32 c rest) : exec .fenceNotice s
    = .next (if noticeOk (c.pkt.payload.drop 8) then
        if s.fab.number = some (field (c.pkt.payload.drop 8) 4 2) then
          fenceSelf (field (c.pkt.payload.drop 8) 0 4) (field (c.pkt.payload.drop 8) 4 2) (field (c.pkt.payload.drop 8) 8 4)
            (bit (field (c.pkt.payload.drop 8) 6 1) 0) (mgtRest rest s)
        else leaveStation (fenceOther (field (c.pkt.payload.drop 8) 0 4) (field (c.pkt.payload.drop 8) 4 2)
          (bit (field (c.pkt.payload.drop 8) 6 1) 0) (mgtRest rest s))
      else fabCount 0 (mgtRest rest s)) := by
  have hexec : exec .fenceNotice s = execFenceNotice s := rfl
  rw [hexec, execFenceNotice, mgtStep_takes h rfl]
  rfl

theorem fenceOther_older {epoch d : Nat} {clear : Bool} (h : epoch ≤ (s.mem.fence.get {} d).epoch) : fenceOther epoch d clear s = fenceAck epoch d s :=
  if_neg (Nat.not_lt.2 h)

/-- The entry of a device in `FENCE_TABLE` is set. -/
def fenceSet (epoch d : Nat) (clear : Bool) (s : State) : State :=
  s.modMem fun m => { m with fence := m.fence.set {} d { fenced := !clear, epoch := epoch }, fenceEpoch := max m.fenceEpoch epoch }

theorem fenceOther_later {epoch d : Nat} {clear : Bool} (h : (s.mem.fence.get {} d).epoch < epoch) : fenceOther epoch d clear s
    = fenceAck epoch d (if clear then fenceSet epoch d clear s else cutOff d (fenceSet epoch d clear s)) := if_pos h

theorem isFenced_fenceSet (epoch d : Nat) (clear : Bool) (s : State) : isFenced (fenceSet epoch d clear s) d = !clear :=
  congrArg Fenced.fenced (Table.get_set_same s.mem.fence {} d { fenced := !clear, epoch := epoch })

theorem fenceSelf_stale {epoch d lease : Nat} {clear : Bool} (h : clear = true ∨ lease < s.mem.lease) : fenceSelf epoch d lease clear s = s := if_pos h

theorem fenceSelf_revokes {epoch d lease : Nat} {clear : Bool} (hclear : clear = false) (hlease : s.mem.lease ≤ lease) (hst : s.mem.lstate ≠ 3) :
    fenceSelf epoch d lease clear s = fenceAck epoch d (loseLease 0x71 (leBytes 4 s.mem.lease ++ leBytes 4 epoch ++ leBytes 4 lease)
      (s.modMem fun m => { m with lstate := 3, revoked := lease, fenceEpoch := max m.fenceEpoch epoch })) :=
  (if_neg (by simp [hclear, hlease])).trans (if_neg fun h => hst h.1)

theorem enterFenced_running (hd : discovers s = true) (hb : s.dev ≠ .bivouac) :
    enterFenced s = sendHealth 6 0 { leaveKeepalive s with dev := .fenced } := by
  have hstay : ¬(s.dev == .fault || s.dev == .boot || s.dev == .off) = true := by
    intro h
    revert hd
    simp only [Bool.or_eq_true, beq_iff_eq] at h
    rcases h with (h | h) | h <;> simp [discovers, h]
  exact (if_neg hstay).trans (congrArg (sendHealth 6 0) (if_neg (by simp [hb])))

theorem enterFenced_fault (h : s.dev = .fault) : enterFenced s = s := if_pos (by simp [h])

/-! ### Digests of the working device (R492) -/

theorem exec_bsDigest {sh : Shadow} (h : Message s 0x35 c rest) (hsh : s.mem.shadow = some sh) : exec .bsDigest s
    = .next (if bsDigestOk (c.pkt.payload.drop 8) then
        if c.pkt.src = sh.partner then
          let t := (mgtRest rest s).modMem fun m =>
            { m with bsDigest := m.bsDigest.set [] (field (c.pkt.payload.drop 8) 0 6)
                      ((List.range 5).map fun i => field (c.pkt.payload.drop 8) (8 + 8 * i) 8) }
          if compareDue t then leaveStation (compareDigests t) else t
        else mgtRest rest s
      else fabCount 0 (mgtRest rest s)) := by
  have hexec : exec .bsDigest s = execBsDigest s := rfl
  have hsh' : (mgtRest rest s).mem.shadow = some sh := hsh
  rw [hexec, execBsDigest, mgtStep_takes h rfl, hsh']

theorem compareDue_noRun (h : s.job.run = none) : compareDue s = false := by simp [compareDue, h]

/-! ### Copies on the tee lane (R490, R491) -/

section
variable {port : Fin 16} {line : Fin 34} {errs : List ReadErr} {rest b : List Byte} (htee : teeLane s port line = true)
  (hnext : nextInStream ((fabLink s (linkKey s port line)).stream.length + 1) (fabLink s (linkKey s port line)).stream = (rest, some b))
  (hlocal : linkLocal (parsePacket b) = false) (hhead : headerOk b = true)

/-- The copy taken off its lane, its credit given back. -/
def copyTaken (s : State) (port : Fin 16) (line : Fin 34) (rest b : List Byte) (v : State) : State :=
  returnCredit { pkt := parsePacket b, link := linkKey s port line, pool := 7, units := (parsePacket b).units }
    (v.modLink (linkKey s port line) fun l => { l with stream := rest })

/-- What becomes of the copy, as the state `s` before its errors decides. -/
def copyFate (s : State) (port : Fin 16) (line : Fin 34) (rest b : List Byte) (v : State) : State :=
  if (peerAt s (linkKey s port line)).st ≠ 3 || s.dev == .bivouac then fabCount 6 (copyTaken s port line rest b v)
  else
    match s.mem.shadow with
    | some sh =>
      if sh.used + (parsePacket b).size ≤ sh.logLen then
        logCopy sh (parsePacket b) ((copyTaken s port line rest b v).modMem fun m => { m with teeKnown := true, teePort := port, teeLine := line })
      else v
    | none => if s.mem.ended && copyLike s (parsePacket b) then copyTaken s port line rest b v else v

include htee hnext hlocal hhead

theorem exec_teeCopyReceive : exec (.teeCopyReceive port line errs) s = meeting errs (fun v => .next (copyFate s port line rest b v)) s := by
  have hexec : exec (.teeCopyReceive port line errs) s = execTeeCopyReceive port line errs s := rfl
  rw [hexec, execTeeCopyReceive]
  refine meeting_congr fun m => ?_
  have hguard : ¬(!teeLane s port line || linkLocal (parsePacket b) || !headerOk b) = true := by simp [htee, hlocal, hhead]
  have hnext' : nextInStream ((fabLink (s.modHbm fun x => { x with meet := m }) (linkKey (s.modHbm fun x => { x with meet := m }) port line)).stream.length + 1)
    (fabLink (s.modHbm fun x => { x with meet := m }) (linkKey (s.modHbm fun x => { x with meet := m }) port line)).stream = (rest, some b) := hnext
  dsimp only
  rw [hnext']
  refine (if_neg hguard).trans ?_
  unfold copyFate
  rw [apply_ite Host.Outcome.next]
  cases hsh : s.mem.shadow with
  | none =>
    have hsh' : (s.modHbm fun x => { x with meet := m }).mem.shadow = none := hsh
    rw [hsh']
    dsimp only
    rw [apply_ite Host.Outcome.next]
    rfl
  | some sh =>
    have hsh' : (s.modHbm fun x => { x with meet := m }).mem.shadow = some sh := hsh
    rw [hsh']
    dsimp only
    rw [apply_ite Host.Outcome.next]
    rfl

end

section
variable {port : Fin 16} {line : Fin 34} {rest b : List Byte}

theorem copyFate_refused (h : (peerAt s (linkKey s port line)).st ≠ 3 ∨ s.dev = .bivouac) (v : State) :
    copyFate s port line rest b v = fabCount 6 (copyTaken s port line rest b v) := if_pos (by simpa using h)

variable (hst : (peerAt s (linkKey s port line)).st = 3) (hd : s.dev ≠ .bivouac)
include hst hd

theorem copyFate_shadow {sh : Shadow} (hsh : s.mem.shadow = some sh) (v : State) : copyFate s port line rest b v
    = if sh.used + (parsePacket b).size ≤ sh.logLen then
        logCopy sh (parsePacket b) ((copyTaken s port line rest b v).modMem fun m => { m with teeKnown := true, teePort := port, teeLine := line })
      else v := by
  refine (if_neg (by simp [hst, hd])).trans ?_
  rw [hsh]

theorem copyFate_noShadow (hsh : s.mem.shadow = none) (v : State) : copyFate s port line rest b v
    = if s.mem.ended && copyLike s (parsePacket b) then copyTaken s port line rest b v else v := by
  refine (if_neg (by simp [hst, hd])).trans ?_
  rw [hsh]

end

/-! ### Copies at the head of the log (R490) -/

theorem exec_teeLogHandle_bare (s : State) : exec (.teeLogHandle []) s = match s.mem.shadow with
    | none => .next s
    | some sh =>
      match sh.log with
      | [] => .next s
      | p :: _ =>
        if p.type = 1 then .next (if mgtCode p = 0x10 then teeMarkerCopy (field p.payload 8 6) s else popCopy s)
        else if p.jobTag ≠ s.job.tag then .next s
        else if p.type = 0x40 then .next (teeCol p s)
        else if isRequest p.type then .next (teeRequest p s)
        else .next (teeReply p s) := rfl

section
variable {sh : Shadow} {p : Packet} {ps : List Packet} (hsh : s.mem.shadow = some sh) (hlog : sh.log = p :: ps)
include hsh hlog

/-- The copy at the head of the log is handled by its type. -/
theorem exec_teeLogHandle : exec (.teeLogHandle []) s
    = .next (if p.type = 1 then if mgtCode p = 0x10 then teeMarkerCopy (field p.payload 8 6) s else popCopy s
        else if p.jobTag ≠ s.job.tag then s
        else if p.type = 0x40 then teeCol p s
        else if isRequest p.type then teeRequest p s
        else teeReply p s) := by
  rw [exec_teeLogHandle_bare, hsh]
  dsimp only
  rw [hlog]
  simp only [apply_ite Host.Outcome.next]

theorem teeLogHandle_col (hjob : p.jobTag = s.job.tag) (htype : p.type = 0x40) : exec (.teeLogHandle []) s = .next (teeCol p s) := by
  rw [exec_teeLogHandle hsh hlog, if_neg (by omega), if_neg (by simp [hjob]), if_pos htype]

theorem teeLogHandle_request (hjob : p.jobTag = s.job.tag) (htype : isRequest p.type = true) :
    exec (.teeLogHandle []) s = .next (teeRequest p s) := by
  have hrange := htype
  simp only [isRequest, Bool.and_eq_true, decide_eq_true_iff] at hrange
  rw [exec_teeLogHandle hsh hlog, if_neg (by omega), if_neg (by simp [hjob]), if_neg (by omega), if_pos htype]

theorem teeLogHandle_reply (hjob : p.jobTag = s.job.tag) (htype : isReply p.type = true) : exec (.teeLogHandle []) s = .next (teeReply p s) := by
  simp only [isReply, Bool.and_eq_true, decide_eq_true_iff] at htype
  have hnot : ¬isRequest p.type = true := by
    simp only [isRequest, Bool.and_eq_true, decide_eq_true_iff]
    omega
  rw [exec_teeLogHandle hsh hlog, if_neg (by omega), if_neg (by simp [hjob]), if_neg (by omega), if_neg hnot]

end

theorem teeRequest_waits {p : Packet} (hok : payloadOk p = true) (h : requestWaits s p = true ∨ heldByCheckpoint s p = true) : teeRequest p s = s :=
  (if_neg (by simp [hok])).trans (if_pos (by simpa using h))

theorem teeRequest_applies {p : Packet} (hok : payloadOk p = true) (hreach : requestWaits s p = false) (hfree : heldByCheckpoint s p = false) :
    teeRequest p s = if p.type = 0x14 then handleClaim { pkt := p, region := targetRegion s p } (popCopy s)
      else if p.type = 0x15 then handleDone { pkt := p, region := targetRegion s p } (popCopy s)
      else handleOrdered { pkt := p, region := targetRegion s p } (popCopy s) :=
  (if_neg (by simp [hok])).trans (if_neg (by simp [hreach, hfree]))

theorem teeCol_lands {p : Packet} (h : colLands s p (pegOf s (p.seqCh % 2 ^ 14)) = true ∨ colAhead s p (pegOf s (p.seqCh % 2 ^ 14)) = false) :
    teeCol p s = handleCol { pkt := p, region := (pegOf s (p.seqCh % 2 ^ 14)).block / 68 } (popCopy s) := by
  refine if_pos ?_
  rcases h with h | h
  · rw [h, Bool.or_true, Bool.true_or]
  · rw [h, Bool.not_false, Bool.or_true]

theorem teeCol_waits {p : Packet} (hland : colLands s p (pegOf s (p.seqCh % 2 ^ 14)) = false) (hahead : colAhead s p (pegOf s (p.seqCh % 2 ^ 14)) = true)
    (hnew : (pegOf s (p.seqCh % 2 ^ 14)).done ≠ some (p.src, p.tag, p.gen % 4096)) : teeCol p s = s := by
  refine if_neg ?_
  rw [hland, hahead, beq_false_of_ne hnew]
  exact Bool.false_ne_true

/-- Settles O60: messages by the rule of their row, copies by what decides their fate. -/
theorem membership : Obligations.Membership := by
  unfold Obligations.Membership
  refine ⟨fun s hd => ⟨fun hdue => leaseRenew_due hd hdue, fun hearly => if_neg (by simp [Nat.not_le.2 hearly]),
      fun hst hdue => leaseExpiry_due hd hst hdue, fun h => leaseExpiry_early h⟩, fun c rest s h => ?grant,
    fun s => ⟨fun hf => leaveFenced_fenced hf, fun hf hb => leaveFenced_elsewhere hf hb⟩, fun c rest s h => ?notice,
    fun code body s => ⟨rfl, fun v hd hb => enterFenced_running hd hb, fun v hf => enterFenced_fault hf⟩, fun c rest sh s h hsh => ?digest,
    fun port line errs rest b s htee => ?copy, fun errs s => rfl, fun sh p ps s hsh hlog => ?head⟩
  case grant =>
    intro b u n ms
    rw [exec_leaseGrant h]
    refine ⟨fun hbad => ?_, fun hok hnone => ?_, fun x hok hx => ⟨fun hbad => ?_, fun hlo hhi hfresh hne => ?_, fun hlo hhi hfresh heq hst => ?_⟩⟩
    · rw [if_neg (Bool.eq_false_iff.1 hbad)]
      rfl
    · rw [if_pos hok]
      exact congrArg Host.Outcome.next (takeGrant_none (s := mgtRest rest s) hnone ..)
    · rw [if_pos hok]
      exact congrArg Host.Outcome.next (takeGrant_bad hx hbad)
    · rw [if_pos hok]
      exact congrArg Host.Outcome.next (takeGrant_new hx hlo hhi hfresh hne)
    · rw [if_pos hok]
      exact congrArg Host.Outcome.next (takeGrant_same hx hlo hhi hfresh heq hst)
  case notice =>
    intro b u epoch d clear
    rw [exec_fenceNotice h]
    refine ⟨fun hbad => ?_, fun hok hother => ⟨fun holder => ?_, fun hlater => ⟨?_, isFenced_fenceSet epoch d clear u⟩⟩, fun hok hself hstale => ?_,
      fun hok hself hclear hlease hst => ?_⟩
    · rw [if_neg (Bool.eq_false_iff.1 hbad)]
      rfl
    · rw [if_pos hok, if_neg hother]
      exact congrArg (fun t => Host.Outcome.next (leaveStation t)) (fenceOther_older holder)
    · rw [if_pos hok, if_neg hother]
      exact congrArg (fun t => Host.Outcome.next (leaveStation t)) (fenceOther_later hlater)
    · rw [if_pos hok, if_pos hself]
      exact congrArg Host.Outcome.next (fenceSelf_stale hstale)
    · rw [if_pos hok, if_pos hself]
      exact congrArg Host.Outcome.next (fenceSelf_revokes hclear hlease hst)
  case digest =>
    intro b u
    rw [exec_bsDigest h hsh]
    refine ⟨fun hbad => ?_, fun hok hsrc => ?_, fun hok hsrc hrun => ?_⟩
    · rw [if_neg (Bool.eq_false_iff.1 hbad)]
      rfl
    · rw [if_pos hok, if_neg hsrc]
      rfl
    · rw [if_pos hok, if_pos hsrc]
      exact congrArg Host.Outcome.next (if_neg (Bool.eq_false_iff.1 (compareDue_noRun hrun)))
  case copy =>
    intro key st p hnext hlocal hhead taken runs
    have hruns : ∀ g : State → State, (∀ v, copyFate s port line rest b v = g v) → runs g := fun g hg => by
      show exec (.teeCopyReceive port line errs) s = _
      rw [exec_teeCopyReceive htee hnext hlocal hhead]
      exact congrArg (fun f : State → State => meeting errs (fun v => .next (f v)) s) (funext hg)
    refine ⟨fun h => hruns _ fun v => copyFate_refused h v, fun hst hd => ⟨fun sh hsh => ⟨fun hfits => hruns _ fun v => ?_, fun hfull => hruns _ fun v => ?_⟩,
      fun hsh hended hlike => hruns _ fun v => ?_, fun hsh h => hruns _ fun v => ?_⟩⟩
    · exact (copyFate_shadow hst hd hsh v).trans (if_pos hfits)
    · exact (copyFate_shadow hst hd hsh v).trans (if_neg (Nat.not_le.2 hfull))
    · exact (copyFate_noShadow hst hd hsh v).trans (if_pos (by rw [hended, hlike]; rfl))
    · have hno : ¬(s.mem.ended && copyLike s p) = true := by rcases h with h | h <;> simp [h]
      exact (copyFate_noShadow hst hd hsh v).trans (if_neg hno)
  case head =>
    refine ⟨fun htype hcode => ?_, fun htype hcode => ?_, fun htype hjob => ?_, fun hjob htype hok => ?_, fun hjob htype => teeLogHandle_reply hsh hlog hjob htype,
      fun hjob htype => ?_⟩
    · rw [exec_teeLogHandle hsh hlog, if_pos htype, if_neg hcode]
    · rw [exec_teeLogHandle hsh hlog, if_pos htype, if_pos hcode]
    · rw [exec_teeLogHandle hsh hlog, if_neg htype, if_pos hjob]
    · intro c
      rw [teeLogHandle_request hsh hlog hjob htype]
      exact ⟨fun h => congrArg Host.Outcome.next (teeRequest_waits hok h), fun hreach hfree => congrArg Host.Outcome.next (teeRequest_applies hok hreach hfree)⟩
    · intro q
      rw [teeLogHandle_col hsh hlog hjob htype]
      exact ⟨fun h => congrArg Host.Outcome.next (teeCol_lands h), fun hland hahead hnew => congrArg Host.Outcome.next (teeCol_waits hland hahead hnew)⟩

end Sys2Proof.Machine

/-! SUPPORT. Refutation of the statement about collectives (O53): COL_SLOT_SEND of a slot that it does not send leaves the state as it was only
where no errors of an earlier read are laid down. -/

namespace Sys2Proof.Machine

open Sys2Proof

variable {s : State}

/-- A step that answers the state that it is given, whatever that is, takes the errors laid down for reads away. -/
theorem meeting_unchanged {e : ReadErr} {errs : List ReadErr} {f : State → Out}
    (h : f (s.modHbm fun m => { m with meet := e :: errs }) = .next (s.modHbm fun m => { m with meet := e :: errs })) :
    meeting (e :: errs) f s = .next (s.modHbm fun m => { m with meet := [] }) := by
  rw [meeting, List.isEmpty_cons, if_neg Bool.false_ne_true, h]
  rfl

/-- COL_SLOT_SEND with errors, of a slot whose grant is not held: only the errors laid down for reads are gone. -/
theorem colSlotSend_unsent {tag : Fin 131072} {q : Req} {o : ColOp} {x : SendSlot} {e : ReadErr} {errs : List ReadErr}
    (hq : reqOf s tag = some q) (hcol : q.col = true) (ho : colOf s q.op = some o) (hx : o.sends[q.idx]? = some x) (hst : x.st ≠ 2) :
    exec (.colSlotSend tag (e :: errs)) s = .next (s.modHbm fun m => { m with meet := [] }) := by
  have hexec : exec (.colSlotSend tag (e :: errs)) s = execColSlotSend tag (e :: errs) s := rfl
  rw [hexec, execColSlotSend]
  refine meeting_unchanged ?_
  have hq' : reqOf (s.modHbm fun m => { m with meet := e :: errs }) tag = some q := hq
  have ho' : colOf (s.modHbm fun m => { m with meet := e :: errs }) q.op = some o := ho
  simp only [hq', hcol, ho', hx, hst, decide_false, Bool.false_and, Bool.not_true, Bool.false_eq_true, if_false]

/-- A slot whose claim has not been answered, its descriptor, and the request that stands for it. -/
def unansweredSlot : SendSlot := { dev := 1, peg := 0, win := 0, off := 0, size := 4096, srcWin := 0, srcOff := 0, land := 0, st := 1 }

def unansweredOp : ColOp := { id := 0, engine := 0, desc := 0, raw := [], sends := [unansweredSlot] }

def slotRequest : Req := { pkt := { type := 0x14 }, op := 0, idx := 0, serial := 0, col := true }

/-- An error of the memories that a read may meet. -/
def leftOver : ReadErr := .cache 0 true

/-- A state with that slot in progress, in which an error is laid down that no read has met. -/
def leftOverState : State :=
  { State.reset with
    hbm := { State.reset.hbm with meet := [leftOver] }
    rmt := { State.reset.rmt with track := [(0, some slotRequest)] }
    col := { State.reset.col with ops := [unansweredOp] } }

/-- Refutes O53: for a slot that is not sent, COL_SLOT_SEND that meets errors is said to answer the same state, but it takes away the errors laid
down for reads, which a state may hold before the step. -/
theorem not_collectives : ¬ Obligations.Collectives := by
  unfold Obligations.Collectives
  intro h
  obtain ⟨-, -, hslots, -⟩ := h
  have hq : reqOf leftOverState (0 : Fin 131072) = some slotRequest := rfl
  have ho : colOf leftOverState slotRequest.op = some unansweredOp := rfl
  have hx : unansweredOp.sends[slotRequest.idx]? = some unansweredSlot := rfl
  have hst : unansweredSlot.st ≠ 2 := by decide
  obtain ⟨-, hsame, -⟩ := hslots 0 slotRequest unansweredOp unansweredSlot [leftOver] leftOverState hq rfl ho hx
  have hstates : leftOverState.modHbm (fun m => { m with meet := [] }) = leftOverState :=
    Host.Outcome.next.inj ((colSlotSend_unsent hq rfl ho hx hst).symm.trans (hsame hst))
  have hmeet : ([] : List ReadErr) = [leftOver] := congrArg (fun s => s.hbm.meet) hstates
  exact List.cons_ne_nil _ _ hmeet.symm

end Sys2Proof.Machine
